-- ==== Sys2Proof/Word.lean ====
section
/-! DEFINITION. The word types of the SHW9632 model: 32-bit registers (R4), bytes, the 64-bit link time of R77 and the
index types of the part's numbered instances (R14, R275, R395). -/

set_option Elab.async false

namespace Sys2Proof

/-- A BAR0 register word: every register is 32 bits wide (R4). -/
abbrev Word := BitVec 32

/-- A byte of a window block, a Cast, a packet or a safety-port frame (R11). -/
abbrev Byte := BitVec 8

/-- Link time: timing-clock periods from cold reset in a 64-bit counter (R77). -/
abbrev LinkTime := BitVec 64

/-- The 56-bit phase word of R60: CYC [55:40], PU [39:16], FRAC [15:0]. -/
abbrev PhaseWord := BitVec 56

/-- Slot number, 0 to 7 (R28). -/
abbrev Slot := Fin 8
/-- Engine port EP0 to EP7 (R12). -/
abbrev Port := Fin 8
/-- Camera receiver CAM0 to CAM3 (R335). -/
abbrev Cam := Fin 4
/-- CAN FD controller CAN0, CAN1 (R353). -/
abbrev CanBus := Fin 2
/-- Light channel LC0 to LC95 (R14). -/
abbrev Chan := Fin 96
/-- Loop 0 to 127 (R275). -/
abbrev LoopId := Fin 128
/-- Pitch 0 to 3071 (R91). -/
abbrev PitchId := Fin 3072
/-- DRAM pseudo-channel PC0 to PC15 (R395). -/
abbrev PcId := Fin 16
/-- Rail in the row order of R434. -/
abbrev Rail := Fin 8
/-- Power-stage phase PH0 to PH15 (R435). -/
abbrev PhaseId := Fin 16
/-- SYNC input SYNC0 to SYNC3 (R351). -/
abbrev SyncId := Fin 4
/-- Compare-and-exchange channel 0 to 15 (R362). -/
abbrev CasId := Fin 16

end Sys2Proof
end

