-- ==== Sys2Proof/Syntax.lean ====
section
/-! DEFINITION. The commands of the block: one constructor of Instr per row of spec/opcode_table.json, in the table's
order. The table gives no operands; each operand here is what the rule of the row takes from outside the part: the
register value written, the fields of the packet or frame that arrives, a number of an instance, or a measurement. -/

set_option Elab.async false

namespace Sys2Proof

/-- The memory BAR a register access addresses (R356). BAR2 has a row of its own. -/
inductive Bar where
  | bar0
  | bar4
  deriving DecidableEq, Repr

/-- A host register access: a read, or a write of a 32-bit value. -/
inductive Access where
  | read
  | write (v : Word)
  deriving DecidableEq, Repr

/-- The three event lanes of a slot (R73). -/
inductive Lane where
  | edge
  | payload
  | cal
  deriving DecidableEq, Repr

/-- A party that recovery can seize (R464, R466). -/
inductive Party where
  | host
  | engine (p : Port)
  | camera (c : Cam)
  deriving DecidableEq, Repr

/-- Why a received packet fails R305 or R306. -/
inductive DiscardWhy where
  | hcrc
  | crc
  | bindId
  | reservedType
  | mixedFlit
  deriving DecidableEq, Repr

/-- A client of a codec lane (R375). -/
inductive CodecClient where
  | plane (n : Slot) (entry block : Nat)
  | layer (n : Slot) (pitch : PitchId) (unit : Nat)
  | host
  deriving DecidableEq, Repr

/-- One pickoff record of a SENSE packet (R328): low 40 bits of link time, axis, angle 2.14 of FIELD. -/
structure Pickoff where
  t : BitVec 40
  axis : BitVec 8
  angle : BitVec 16
  deriving DecidableEq, Repr

/-- A SENSE packet as it arrives (R328). intact is false when the packet fails R305; crcOk tells a failed CRC from
the other reasons (R329). -/
structure SensePkt where
  intact : Bool
  crcOk : Bool
  tStart : LinkTime
  tEnd : LinkTime
  status : BitVec 16
  vMeas : BitVec 16
  dlCrc : BitVec 16
  planeInc : BitVec 16
  lateCmd : BitVec 16
  pickoffs : List Pickoff
  /-- photodiode number and interval mean -/
  pds : List (BitVec 8 × Word)
  /-- engine channel and IPEAK -/
  curs : List (BitVec 8 × BitVec 16)
  /-- sensor number and temperature in 1/64 degree -/
  temps : List (BitVec 8 × BitVec 16)
  deriving DecidableEq, Repr

/-- What the datapath brings to the slicer as it takes a frame: the slot, and the pixels it needed before they were
delivered, each with the pixels delivered by then (R157). -/
structure SliceRun where
  slot : Slot
  late : List (Nat × Nat)
  deriving DecidableEq, Repr

/-- Where a deadline cuts a frame: pixels the slicer has taken, and pixels delivered (R157, R167). -/
structure SliceCut where
  taken : Nat
  delivered : Nat
  deriving DecidableEq, Repr

/-- A render: the entry of the trial queue, and the pixels it needed before they were delivered, each with the pixels
delivered by then (R157, R214). -/
structure RenderRun where
  entry : Nat
  late : List (Nat × Nat)
  deriving DecidableEq, Repr

/-- A frame start or frame end packet of CSI-2 (R336): virtual channel and frame number. -/
structure FrameShort where
  vc : BitVec 2
  num : BitVec 16
  deriving DecidableEq, Repr

/-- What the datapath brings to a slot's frame boundary: whether the composer has finished rendering the Hallmark
content (R154), and the pixels of the ending raster that were delivered (R158). -/
structure BoundaryIn where
  hallReady : Bool
  delivered : Nat
  deriving DecidableEq, Repr

/-- What the heat ledger measures for one update (R419): domain powers in mW, averaged over the 100 µs, and the diode
readings in 1/64 degree. -/
structure LedgerIn where
  dom : List Nat
  diodes : List (BitVec 16)
  deriving DecidableEq, Repr

/-- The 64 bytes of a safety-port request after its CMD byte (R140): SEQ, SLOT and the 56 payload bytes. A frame with
a wrong length, CRC or command is the row SPORT_BAD_FRAME. -/
structure SportReq where
  seq : Byte
  slot : Byte
  payload : List Byte
  deriving DecidableEq, Repr

/-- Why a safety-port transaction is discarded (R139, R141). -/
inductive SportBad where
  | length
  | crc (cmd seq slot : Byte)
  /-- a CMD that R142 does not list: 9 + k -/
  | unknownCmd (k : Fin 247) (seq slot : Byte)
  deriving DecidableEq, Repr

/-- The commands of the block, one per row of spec/opcode_table.json. -/
inductive Instr where
  | registerWrite (bar : Bar) (off : BitVec 26) (size : Nat) (acc : Access)
  | linkTimeLoRead
  | powerOn (corePh : BitVec 2) (testen resetNLow : Bool)
  | railInBand (r : Rail)
  | sequenceFail (r : Rail)
  | sequenceRetry
  | fullTrainingComplete (failed : List PcId)
  | bootCastBuild
  | load (v : Word)
  | castLoad
  | castChunkTimeout
  | castReadComplete
  | validationComplete
  | lock (v : Word)
  | abort (v : Word)
  | recastTimeout
  | reckonStep (t : LinkTime)
  | measuredPoint (n : Slot) (phi : PhaseWord) (t : LinkTime) (omega : BitVec 40) (beta : BitVec 64)
  | laneRoomInsert (n : Slot) (lane : Lane)
  | realign (n : Slot) (v : Word)
  | syncEdge (m : SyncId) (falling : Bool) (t : LinkTime)
  | syncMissed (n : Slot)
  | pickoffLost (n : Slot)
  | frameBoundary (n : Slot) (i : BoundaryIn)
  | rasterEnd (n : Slot)
  | writebackComplete (n : Slot)
  | signatureRecord (n : Slot) (disturb : Word)
  | hallStore
  | pitchW0Write (p : PitchId) (v : Word)
  | calJobWrite (p : PitchId) (w : Fin 16) (v : Word)
  | commit (n : Slot) (v : Word)
  | modeChangeRequest (n : Slot) (v : Word)
  | cancel (n : Slot) (v : Word)
  | tableSwap (n : Slot) (v : Word)
  | swapCancel (n : Slot) (v : Word)
  | sliceStart (run : SliceRun)
  | sliceDeadline (n : Slot) (cut : SliceCut)
  | levelStale (n : Slot)
  | compressorBlockDone (c : CodecClient)
  | rawBusy (n : Slot) (entry block : Nat)
  | decompressorBlockDone (c : CodecClient)
  | lineEnter (n : Slot)
  | renderComplete (n : Slot) (run : RenderRun)
  | strikeTest (n : Slot) (entry : Nat)
  | rerenderComplete (n : Slot) (run : RenderRun)
  | lineDark (n : Slot) (entry : Nat)
  | lineWindowEnd (n : Slot) (entry : Nat)
  | capture (n : Slot) (v : Word)
  | probeDataRead (n : Slot)
  | lenArmWrite (v : Word)
  | lenFaultClear (v : Word)
  | lenAssertWaitEnd (p : Port)
  | laserSupplyOverv (n : Slot) (mv : BitVec 16)
  | sense (p : Port) (k : SensePkt)
  | take (v : Word)
  | restore (v : Word)
  | store (v : Word)
  | pageStoreDone (linkLost : Bool)
  | resetEst (n : Slot) (v : Word)
  | loopEnable (l : LoopId)
  | loopClose (l : LoopId)
  | loopOpen (l : LoopId)
  | loopDisable (l : LoopId)
  | coefWrite (l : LoopId) (config : Bool) (w : Fin 256) (v : Word)
  | dlyMaxClear (l : LoopId)
  | loopSample (l : LoopId) (t : LinkTime) (y0 y1 : BitVec 64) (delay : BitVec 16)
  | trackerUpdate (l : LoopId) (t : LinkTime) (theta : BitVec 16)
  | loopSrcLost (l : LoopId)
  | detectComplete (p : Port)
  | presenceLost (p : Port)
  | trainFlit (p : Port) (step lanes : Byte)
  | trainTimeout (p : Port)
  | timeEcho (p : Port) (t1 t2 t3 t4 : BitVec 64)
  | timeAck (p : Port) (minLead : BitVec 16)
  | probe (p : Port) (v : Word)
  | probeSeriesTimer (p : Port)
  | readData (p : Port) (tag : Byte) (addr : BitVec 16) (status : Byte) (data : List Byte)
  | writeDone (p : Port) (tag : Byte) (status : Byte)
  | descWriteTimeout (p : Port)
  | bindAck (p : Port) (bindId : BitVec 16)
  | bindTimeout (p : Port)
  | quiesce (p : Port) (v : Word)
  | quiesceAck (p : Port)
  | quiesceTimeout (p : Port)
  | leave (p : Port) (reason : Byte)
  | heartbeat (p : Port) (t : LinkTime) (state : Byte) (bindId rxErr : BitVec 16)
  | heartbeatMiss (p : Port)
  | packetDiscard (p : Port) (why : DiscardWhy)
  | lostHoldEnd (p : Port)
  | retry (p : Port) (v : Word)
  | csiFs (c : Cam) (pkt : FrameShort) (t : LinkTime)
  | csiLongPacket (c : Cam) (vc : BitVec 2) (dt : BitVec 6) (crcOk eccFix : Bool) (data : List Byte)
  | csiFe (c : Cam) (pkt : FrameShort) (t : LinkTime)
  | cameraLost (c : Cam)
  | camEnable (c : Cam) (v : Word)
  | directWrite (c : Cam) (v : Word)
  | objListWindow (block : BitVec 12)
  | canFrame (b : CanBus) (xtd : Bool) (id : BitVec 29) (data : List Byte) (t : LinkTime)
  | canListTimeout (b : CanBus)
  | canBusOffRecovery (b : CanBus)
  | imuTransaction (start : LinkTime) (data : List Byte) (t : LinkTime)
  | imuHost (v : Word)
  | casGo (k : CasId) (v : Word)
  | bar2Access (off : BitVec 28) (len : Nat) (epoch : BitVec 16) (acc : Option (List Byte))
  | kick
  | aliveWrite (v : Word)
  | hostLost
  | doorbell (v : Word)
  | version
  | engMemRead (data : List Byte)
  | trainModeManual
  | trainModeMicrocode (failed : List PcId)
  | bist (passed : Word)
  | patchLoad
  | mailboxAbort (core : Fin 4)
  | compressStream (v : Word)
  | decompressStream (v : Word)
  | compressBlock (v : Word)
  | resume (v : Word)
  | decompressBlock (v : Word)
  | jobStart
  | jobComplete
  | donePop (v : Word)
  | freqWrite (v : Word)
  | freqChangeComplete
  | refreshDue (pc : PcId) (bank : Fin 16) (idle : Bool)
  | forcedRefresh (pc : PcId) (bank : Fin 16)
  | dramTempSample (t : BitVec 8)
  | selfRefreshIdle (pc : PcId)
  | srWake (pc : PcId)
  | dozeSrReentry (pc : PcId)
  | bulkPromote (pc : PcId)
  | trackPeriod
  | gatherWindowEnd (reads writes : Nat) (move : List Int) (pass : Bool)
  | uncorrectableBurst (pc : PcId)
  | autoRemapReset
  | patternRun (v : Word)
  | patternRunDone (failed : BitVec 16) (dq0 dq1 : Word)
  | ledgerUpdate (i : LedgerIn)
  | engineSensorFailed (p : Port) (sensor : Fin 32)
  | sensorSuspect (k : Nat)
  | sensorTrusted (k : Nat)
  | throttleStep (ladder : Fin 9)
  | freezeEnd (ladder : Fin 9)
  | thermalCrit
  | laserOvertemp (n : Slot)
  | thermalPark
  | powerLimitApply
  | powerLimitLift
  | powerLimit
  | phaseLimit (ph : PhaseId)
  | phaseMapWrite (m : Fin 4) (v : Word)
  | supplyDip (r : Rail) (mv : BitVec 16)
  | railRecovered (r : Rail) (mv : BitVec 16)
  | dipHoldEnd
  | railResetLevel (r : Rail) (mv : BitVec 16)
  | stateReqRun
  | stateReqDoze
  | stateReqPark
  | entryComplete
  | wakeEdge (m : Fin 16) (rising : Bool)
  | dozeExitComplete
  | resetN
  | perst
  | warm (v : Word)
  | engine (v : Word)
  | fabric (v : Word)
  | fabricResetComplete
  | watchdogExpiry
  | supervisorTimeout
  | wdogKick
  | wdogWrite (v : Word)
  | frFaultClear (v : Word)
  | hostHaltSet (v : Word)
  | hostHaltClear (v : Word)
  | logClear (v : Word)
  | frRelease (v : Word)
  | frSeize (v : Word)
  | graceEnd (p : Party)
  | nop (q : SportReq)
  | getSig (q : SportReq)
  | setScene (q : SportReq)
  | commitScene (q : SportReq)
  | paBegin (q : SportReq)
  | paData (q : SportReq)
  | paSeal (q : SportReq)
  | containDim (q : SportReq)
  | containOff (q : SportReq)
  | release (q : SportReq)
  | sportSilent
  | sportCsStuck
  | presenceAsserted (p : Port)
  | resetNRelease
  | canBusOff (b : CanBus)
  | setPointUpdate (n : Slot) (us : Nat)
  | driveSample (l : LoopId)
  | sportBadFrame (b : SportBad)
  deriving DecidableEq, Repr

end Sys2Proof
end

