-- ==== Sys2Proof/Decode.lean ====
section
/-! DEFINITION. The words of the command table: its rows give no bits, so no word spells a command. -/

set_option Elab.async false

namespace Sys2Proof

/-- The command a word spells by the bits of spec/opcode_table.json. No row of the table gives bits: a command comes to
the part as a bus access, a packet, a frame or an event, so no word spells one (log entry 1). -/
def decodeTableWord (_nbits _w : Nat) : Option Instr := none

end Sys2Proof
end

