-- ==== Sys2Proof/Machine/Bits.lean ====
section
/-! DEFINITION. Bit fields of a register word, sign extension, saturating counts, little-endian bytes and the CRCs of
R27 and R304. -/

set_option Elab.async false

namespace Sys2Proof.Machine

/-- Field [hi:lo] of a word as a number. -/
def fld {w : Nat} (v : BitVec w) (hi lo : Nat) : Nat := (v.extractLsb' lo (hi + 1 - lo)).toNat

/-- Bit i of a word. -/
def bit {w : Nat} (v : BitVec w) (i : Nat) : Bool := v.getLsbD i

/-- The word whose ones are the bits hi down to lo. -/
def mask (hi lo : Nat) : Word := ((1#32 <<< (hi + 1 - lo)) - 1) <<< lo

/-- The word v with field [hi:lo] replaced by x, taken modulo the field's width. -/
def putFld (v : Word) (hi lo x : Nat) : Word :=
  (v &&& ~~~ (mask hi lo)) ||| ((BitVec.ofNat 32 x <<< lo) &&& mask hi lo)

/-- A field value placed at its bits in a word of zeros. -/
def at_ (hi lo x : Nat) : Word := (BitVec.ofNat 32 x <<< lo) &&& mask hi lo

/-- A number held in n bits of two's complement. -/
def signed (n x : Nat) : Int := if x % 2 ^ n < 2 ^ (n - 1) then (x % 2 ^ n : Nat) else (x % 2 ^ n : Nat) - (2 ^ n : Nat)

/-- Two's complement of an integer in n bits, as a number. -/
def unsigned (n : Nat) (x : Int) : Nat := (x % (2 ^ n : Nat)).toNat

/-- An integer held within lo and hi. -/
def clampI (x lo hi : Int) : Int := if x < lo then lo else if hi < x then hi else x

/-- A number held within lo and hi. -/
def clampN (x lo hi : Nat) : Nat := if x < lo then lo else if hi < x then hi else x

/-- Integer division rounding half away from zero, for a positive divisor. -/
def divRound (x : Int) (d : Nat) : Int :=
  if 0 ≤ x then ((2 * x.toNat + d) / (2 * d) : Nat) else - (((2 * (-x).toNat + d) / (2 * d) : Nat) : Int)

/-- Integer division rounding half up, for a positive divisor. -/
def divHalfUp (x : Int) (d : Nat) : Int := (2 * x + d) / (2 * d)

/-- Ceiling of a quotient of numbers. -/
def ceilDiv (x d : Nat) : Nat := (x + d - 1) / d

/-- Integer square root by bits, from bit k down. -/
def isqrtGo (n : Nat) : Nat → Nat → Nat
  | 0, r => r
  | k + 1, r => isqrtGo n k (if (r + 2 ^ k) * (r + 2 ^ k) ≤ n then r + 2 ^ k else r)

/-- The largest number whose square is at most n. -/
def isqrt (n : Nat) : Nat := isqrtGo n (Nat.log2 n / 2 + 1) 0

/-- Little-endian value of bytes (R11). -/
def leNat : List Byte → Nat
  | [] => 0
  | b :: bs => b.toNat + 256 * leNat bs

/-- The n little-endian bytes of a number (R11). -/
def leBytes : Nat → Nat → List Byte
  | 0, _ => []
  | n + 1, x => BitVec.ofNat 8 x :: leBytes n (x / 256)

/-- Little-endian field of size n at offset o of a byte list; bytes beyond the list read as zero. -/
def leAt (bs : List Byte) (o n : Nat) : Nat := leNat ((bs.drop o).take n)

/-- One byte at offset o, zero beyond the list. -/
def byteAt (bs : List Byte) (o : Nat) : Nat := leAt bs o 1

/-- One bit step of the reflected CRC-32 of R27. -/
def crc32Bit (c : Word) : Word := if c.getLsbD 0 then (c >>> 1) ^^^ 0xEDB88320#32 else c >>> 1

/-- One byte step of the CRC-32 of R27. -/
def crc32Byte (c : Word) (b : Byte) : Word :=
  let x := c ^^^ b.setWidth 32
  crc32Bit (crc32Bit (crc32Bit (crc32Bit (crc32Bit (crc32Bit (crc32Bit (crc32Bit x)))))))

/-- CRC-32 of IEEE 802.3 (R27): reflected, initial value and final XOR 0xFFFF_FFFF. -/
def crc32 (bs : List Byte) : Word := (bs.foldl crc32Byte 0xFFFFFFFF#32) ^^^ 0xFFFFFFFF#32

/-- One bit step of the CRC-16 of R304: polynomial 0x1021, not reflected. -/
def crc16Bit (c : BitVec 16) : BitVec 16 := if c.getLsbD 15 then (c <<< 1) ^^^ 0x1021#16 else c <<< 1

/-- One byte step of the CRC-16 of R304. -/
def crc16Byte (c : BitVec 16) (b : Byte) : BitVec 16 :=
  let x := c ^^^ (b.setWidth 16 <<< 8)
  crc16Bit (crc16Bit (crc16Bit (crc16Bit (crc16Bit (crc16Bit (crc16Bit (crc16Bit x)))))))

/-- CRC-16 over header bytes (R304): initial value 0xFFFF, no reflection, no final XOR. -/
def crc16 (bs : List Byte) : BitVec 16 := bs.foldl crc16Byte 0xFFFF#16

/-- Fletcher-16 of R378. -/
def fletcher16 (bs : List Byte) : Nat :=
  let r := bs.foldl (fun (s : Nat × Nat) b =>
    let s1 := (s.1 + b.toNat) % 255
    (s1, (s.2 + s1) % 255)) (0, 0)
  r.2 * 256 + r.1

end Sys2Proof.Machine
end

