-- ==== Sys2Proof/Machine/LoopTypes.lean ====
section
/-! DEFINITION. The state of a control loop that no register shows whole (R275 to R298). Coefficients and registers are in
the register map; states are block-floating mantissas with a shared exponent (R288). -/

set_option Elab.async false

namespace Sys2Proof.Machine

/-- A vector in block form: value m × 2^(exp − 40) for each mantissa (R288). -/
structure Blk where
  exp : Nat
  m : List Int
  deriving DecidableEq, Repr

/-- The axis tracker (R282): psi and beta as in R60, amp in units of 2^-32 of the field half-angle. -/
structure Tracker where
  run : Bool
  last : Option (BitVec 64)
  psi : BitVec 56
  omega : BitVec 40
  beta : BitVec 64
  amp : Int
  /-- |ep| of the last samples in pu × 2^16, newest first, at most 64 -/
  eps : List Nat
  deriving DecidableEq, Repr

/-- A measurement that the source of a loop has delivered (R276, R279): its link time and its values in units of 2^-40, as
many as the source gives. -/
structure LoopMeas where
  t : BitVec 64
  y : List Int
  deriving DecidableEq, Repr

/-- A loop. Its STATE is LEn_STATUS.STATE. -/
structure LoopState where
  x : Blk
  z : Blk
  /-- outputs last issued, signed 1.15 -/
  u : List Int
  /-- repetitive-controller index (R285) and samples since the learning gain began to ramp (R287) -/
  k : Nat
  gramp : Option Nat
  /-- CLOSE accepted; it takes effect at the next sample -/
  closing : Bool
  /-- opening ramp: samples done, and the outputs it started from (R295) -/
  ramp : Option (Nat × List Int)
  /-- samples counted toward an automatic close (R297) -/
  auto : Option Nat
  trk : Tracker
  /-- consecutive samples within and beyond the lock tolerance (R284) -/
  good : Nat
  bad : Nat
  /-- link time at which the free oscillator of R283 stood at phase 0 -/
  oscT : BitVec 64
  /-- delays of the last 1,024 samples in clocks, newest first (R298) -/
  delays : List Nat
  /-- newest measurement of the source, the sample whose step has not finished, and the one that waits (R279) -/
  meas : Option LoopMeas
  run : Option LoopMeas
  wait : Option LoopMeas
  /-- pickoff samples that the tracker has not taken, oldest first: link time and angle in 2.14 (R282) -/
  picks : List (BitVec 64 × BitVec 16)
  /-- link times of the next period tick (R279), of the last measurement (R297), and of the last estimate handed over (R284) -/
  tick : BitVec 64
  heard : BitVec 64
  estT : BitVec 64
  deriving DecidableEq, Repr

/-- A tracker that has not started. -/
def Tracker.init : Tracker := { run := false, last := none, psi := 0, omega := 0, beta := 0, amp := 0, eps := [] }

/-- A block of zeros. -/
def Blk.zero (n : Nat) : Blk := { exp := 0, m := List.replicate n 0 }

/-- A loop in IDLE. -/
def LoopState.init : LoopState :=
  { x := Blk.zero 8, z := Blk.zero 2, u := [0, 0], k := 0, gramp := none, closing := false, ramp := none, auto := none,
    trk := Tracker.init, good := 0, bad := 0, oscT := 0, delays := [],
    meas := none, run := none, wait := none, picks := [], tick := 0, heard := 0, estT := 0 }

end Sys2Proof.Machine
end

