-- ==== Sys2Proof/Machine/Block.lean ====
section
/-! DEFINITION. Block-floating arithmetic of the loop engine (R288 to R290): products in a 52-bit accumulator with guard
bits, and normalisation. -/

set_option Elab.async false

namespace Sys2Proof.Machine

/-- A term of a stage: the integer v in units of 2^e. -/
structure BTerm where
  v : Int
  e : Int
  deriving DecidableEq, Repr

/-- Shift right by k with the half going to even. -/
def shrEven (a : Int) (k : Nat) : Int :=
  let d : Int := 2 ^ k
  let q := a / d
  let r := a % d
  if 2 * r < d then q else if d < 2 * r then q + 1 else if q % 2 = 0 then q else q + 1

/-- An accumulator: its value, in units of 2^lsb, and whether it saturated. -/
structure Acc where
  v : List Int
  lsb : Int
  sat : Bool
  deriving DecidableEq, Repr

/-- The accumulator limit. -/
def accMax : Int := 2 ^ 51 - 1

/-- A term aligned to an accumulator: bits below the guard bits are truncated toward minus infinity. -/
def BTerm.align (t : BTerm) (lsb : Int) : Int :=
  if lsb ≤ t.e then t.v * 2 ^ (t.e - lsb).toNat else t.v / 2 ^ (lsb - t.e).toNat

/-- Sums the rows of a stage, every row aligned to the stage's largest term exponent with 12 guard bits (R289). -/
def accumulate (rows : List (List BTerm)) : Acc :=
  let es := rows.flatMap fun r => r.map (·.e)
  let top := es.foldl max (es.headD 0)
  let lsb := top - 12
  let sums := rows.map fun r => r.foldl (fun a t => a + t.align lsb) 0
  { v := sums.map fun x => clampI x (-accMax) accMax, lsb := lsb, sat := sums.any fun x => decide (accMax < x.natAbs) }

/-- A normalised vector with the marks of R290: the exponent was clamped at 63, or at 0. -/
structure Norm where
  blk : Blk
  high : Bool
  low : Bool
  deriving DecidableEq, Repr

/-- Mantissas at exponent e of values in units of 2^lsb. -/
def mantissas (v : List Int) (lsb : Int) (e : Nat) : List Int :=
  let s : Int := (e : Int) - 40 - lsb
  v.map fun x => if 0 ≤ s then shrEven x s.toNat else x * 2 ^ (-s).toNat

/-- Largest mantissa of a block value. -/
def manMax : Int := 131071

/-- Normalises values in units of 2^lsb to one exponent (R289, R290). -/
def normalise (v : List Int) (lsb : Int) : Norm :=
  let big := v.foldl (fun a x => max a x.natAbs) 0
  if big = 0 then { blk := { exp := 0, m := v.map fun _ => 0 }, high := false, low := false }
  else
    let e0 : Int := lsb + 40 + (Nat.log2 big : Int) - 16
    -- rounding may carry the largest value to 2^17
    let up := decide (0 ≤ e0) && (mantissas v lsb e0.toNat).any fun x => decide (manMax < x.natAbs)
    let e := if up then e0 + 1 else e0
    if 63 < e then
      { blk := { exp := 63, m := (mantissas v lsb 63).map fun x => clampI x (-manMax) manMax }, high := true, low := false }
    else if e < 0 then { blk := { exp := 0, m := mantissas v lsb 0 }, high := false, low := true }
    else { blk := { exp := e.toNat, m := mantissas v lsb e.toNat }, high := false, low := false }

/-- A coefficient matrix as rows of mantissas with its exponent. -/
structure Coef where
  exp : Nat
  rows : List (List Int)
  deriving DecidableEq, Repr

/-- Terms of a row of mantissas times a block vector, negated or not. -/
def prodTerms (neg : Bool) (e : Nat) (row : List Int) (x : Blk) : List BTerm :=
  (row.zip x.m).map fun p => { v := if neg then -(p.1 * p.2) else p.1 * p.2, e := (e : Int) + x.exp - 80 }

/-- The term of one entry of a block vector. -/
def Blk.term (x : Blk) (neg : Bool) (i : Nat) : BTerm :=
  let m := (x.m[i]?).getD 0
  { v := if neg then -m else m, e := (x.exp : Int) - 40 }

/-- A vector of values in units of 2^lsb in block form (R289 point 5). -/
def toBlk (v : List Int) (lsb : Int) : Blk := (normalise v lsb).blk

/-- Entry i of a block vector in units of 2^-15, half to even. -/
def Blk.q15 (x : Blk) (i : Nat) : Int :=
  let m := (x.m[i]?).getD 0
  let s : Int := 25 - (x.exp : Int)
  if 0 ≤ s then shrEven m s.toNat else m * 2 ^ (-s).toNat

/-- A rational as a block vector, half to even at the normalised exponent. -/
def ratsBlk (v : List Rat) : Norm :=
  normalise (v.map fun q => (q * 2 ^ 120).floor * 2 + (if (q * 2 ^ 120).den = 1 then 0 else 1)) (-121)

end Sys2Proof.Machine
end

