-- ==== Sys2Proof/Machine/Fixed.lean ====
section
/-! DEFINITION. Sine, arc sine and arc tangent in fixed point. Angles are in turns of 2^64, values in units of 2^-60. The
spec's rules use the real functions and then round; these carry enough bits for that rounding (log entry 31). -/

set_option Elab.async false

namespace Sys2Proof.Machine

/-- 2π in units of 2^-64. -/
def twoPi64 : Nat := 115904311329233965478

/-- One turn, a half turn and a quarter turn. -/
def turn : Nat := 2 ^ 64
def halfTurn : Nat := 2 ^ 63
def quarterTurn : Nat := 2 ^ 62

/-- One, as a value. -/
def unit60 : Nat := 2 ^ 60

/-- Terms of the sine series from the k-th on: the term, the square of the argument in units of 2^-64. -/
def sinTerms (x2 : Int) : Nat → Nat → Int → Int
  | 0, _, _ => 0
  | fuel + 1, k, term => term + sinTerms x2 fuel (k + 1) (-(term * x2 / 2 ^ 64) / (((2 * k + 2) * (2 * k + 3) : Nat) : Int))

/-- Sine of an angle within a quarter turn, in units of 2^-60. -/
def sinQuarter (t : Nat) : Nat :=
  let x : Int := ((t * twoPi64 / 2 ^ 64 : Nat) : Int)
  let y := (sinTerms (x * x / 2 ^ 64) 16 0 x + 8) / 16
  (clampI y 0 unit60).toNat

/-- Sine of an angle, in units of 2^-60. -/
def sinTurn (a : Int) : Int :=
  let t := (a % (turn : Int)).toNat
  if t < quarterTurn then (sinQuarter t : Int)
  else if t < halfTurn then (sinQuarter (halfTurn - t) : Int)
  else if t < halfTurn + quarterTurn then -(sinQuarter (t - halfTurn) : Int)
  else -(sinQuarter (turn - t) : Int)

/-- Cosine of an angle. -/
def cosTurn (a : Int) : Int := sinTurn (a + quarterTurn)

/-- The largest angle of a quarter turn that passes a test, by bits from bit k down. -/
def searchTurn (p : Nat → Bool) : Nat → Nat → Nat
  | 0, r => r
  | k + 1, r => searchTurn p k (if p (r + 2 ^ k) then r + 2 ^ k else r)

/-- Arc sine of a value within ±1, as an angle within a quarter turn. -/
def asinTurn (y : Int) : Int :=
  let m := min y.natAbs unit60
  let t : Int := if m = unit60 then (quarterTurn : Int) else (searchTurn (fun a => decide (sinQuarter a ≤ m)) 62 0 : Nat)
  if y < 0 then -t else t

/-- The angle of the point (x, y), within half a turn either way; 0 for the origin. -/
def atan2Turn (y x : Int) : Int :=
  let ay := y.natAbs
  let ax := x.natAbs
  let t : Int := if ax = 0 then (if ay = 0 then 0 else (quarterTurn : Int))
    else (searchTurn (fun a => decide (sinQuarter a * ax ≤ sinQuarter (quarterTurn - a) * ay)) 62 0 : Nat)
  let q : Int := if x < 0 then (halfTurn : Int) - t else t
  if y < 0 then -q else q

/-- An angle in pu (2^24 per turn), rounded to the nearest. -/
def turnPu (t : Int) : Int := divRound t (2 ^ 40)

/-- Pu as an angle. -/
def puTurn (p : Int) : Int := p * 2 ^ 40

end Sys2Proof.Machine
end

