-- ==== Sys2Proof/Config.lean ====
section
/-! DEFINITION. What an implementation fixes and what the spec leaves open: the free values (constants with no body, so
that no proof can see a value of them), and the codes of the status list of R473. -/

set_option Elab.async false

namespace Sys2Proof.Config

/-- A value the spec leaves open, by the count of the free values taken before it (log entry 3). -/
opaque free : Nat → BitVec 64

/-- A figure that the part measures of its own traffic or current (R278, R400, R417, R437), which the spec states no value of:
by BAR0 offset and link time (log entry 51). -/
opaque measured : Nat → Nat → Word

/-- What a byte of package DRAM that nothing has written since the reset reads as (R500), by reset count and address
(log entry 2). -/
opaque dramByte : Nat → Nat → Byte

/-- Trained delay and Vref words that the spec calls Trained (R418): PC, operating point, register index (log entry 8). -/
opaque trainedDelay : Nat → Nat → Nat → Word

/-- Share of the power of domain d that the ROM table assigns to node i, in units of 2^-16 (R420); the spec does not give the
table (log entry 20). -/
opaque heatShare : Nat → Nat → Nat

/-- ROM conductance from node j to node i in units of 2^-16 W/K (R420, log entry 20). -/
opaque heatConduct : Nat → Nat → Nat

/-- Δt / C_i of node i, 100 µs over the ROM capacity, in units of 2^-32 K/W (R420, log entry 20). -/
opaque heatGain : Nat → Nat

/-- Model values a, b, c of a channel (binary32) from its factory curve and maximum current: R273 starts from the curve and
gives no fit (log entry 21). -/
opaque factoryFit : List Nat → Nat → Word × Word × Word

/-- The CIE 1931 2 degree colour-matching functions held in ROM at 1 nm (R260), which the spec names and does not list, by
wavelength in nm: the x, y and z values in units of 2^-32 (log entry 21). -/
opaque cie : Nat → Nat × Nat × Nat

/-- Scale of an estimator parameter (R255 names it and gives no value): parameter 0 d, 1 a, 2 b, 3 c, by maximum current in
mA and factory light at it, as a binary32 word (log entry 21). -/
opaque estScale : Nat → Nat → Nat → Word

/-- The photodiode offset that an estimator starts from (R255 starts it from the model in force, which holds no offset),
as a binary32 word (log entry 21). -/
opaque estOffset : Word

/-- Microcode version returned by VERSION (R371; log entry 7). -/
opaque microcodeVersion : Word

/-- Patch level bytes of the four cores (R371; log entry 7), by the count of patches installed. -/
opaque patchLevels : Nat → List Byte

/-- Whether a patch image passes the check of PATCH_LOAD (R371; log entry 7), by its bytes. -/
opaque patchImageGood : List Byte → Bool

/-- Fetch start-up of a slot's raster in timing-clock periods, which the spec gives as a few microseconds (chapter 6; log
entry 34), by slot. -/
opaque fetchStart : Nat → Nat

/-- Which of two items of equal weight an optimal code takes first, by the frequencies and the place of the tie (R385
asks for an optimal length-limited code and does not say which where several are optimal; log entry 12). -/
opaque codeTie : List Nat → Nat → Bool

end Sys2Proof.Config

namespace Sys2Proof

/-- The status and error codes of R473, each name with its 16-bit value. -/
inductive Status where
  | OK
  | ACCESS_WIDTH | LOCKED_FIELD | GEN_KEY | STATE_REFUSED
  | CAST_FORMAT | CAST_CRC | CAST_VERSION | CAST_STALE | CAST_RANGE | CAST_CONFLICT | CAST_CAPACITY | CAST_POWER
  | CAST_LOCKED | CAST_TALLY | CAST_BUSY | RECAST_ABORT
  | SYNC_LOST | PICKOFF_LOST | LEVEL_STALE | TRAJ_RANGE
  | HALL_STORE | HALL_WRITE | HALL_ASSET | HALL_ASSET_BUSY | HALL_MISMATCH | HALL_NOT_READY | HALL_NONE
  | SPORT_DENIED | SPORT_FRAME | SPORT_CRC | SPORT_CMD | SPORT_SILENT
  | COMMIT_REJECTED | SEQ_REJECTED | FREEZE | WEIGHT_BUDGET | PLANE_CORRUPT | LAYER_CORRUPT
  | LASER_FAULT | INSUFFICIENT_EXCITATION | SNAP_BUSY | SNAP_TORN | SNAP_STALE | PAGE_VERIFY | PAGE_LINK | PAGE_BUSY
  | LOOP_CONFIG | LOOP_BUSY | LOOP_CLOSED
  | DESC_CORRUPT | BIND_REVISION | BIND_CLASS | BIND_GEOMETRY | BIND_CHANNEL | BIND_AXIS | BIND_REJECT | LINK_LOST
  | CAMERA_LOST | CAMERA_FORMAT | CAMERA_CONFIG | IMU_FAULT
  | CAS_RANGE | CAS_RULE | CAS_MISMATCH | MB_FORMAT | MB_CMD | MB_STATE | MB_ABORTED | MAILBOX_ABORT
  | INCOMPRESSIBLE | PARTIAL | CODEC_FORMAT | CODEC_BOUNDS | CODEC_CHECK | CODEC_RESUME | CODEC_SPACE | CODEC_TALLY
  | CODEC_BUSY | CODEC_JOB | CODEC_SEIZED
  | MC_BUSY | MC_STATE | DRAM_CHANNEL | DRAM_DEAD
  | SENSOR_SUSPECT | THROTTLE_STEP | POWER_LIMIT | THERMAL_CRIT | LASER_OVERTEMP | SUPPLY_DIP | PHASE_LIMIT | PM_MAP
  | SEQUENCE_FAIL | RESET
  | HOST_LOST | SEIZED | SEIZE_REFUSED | RELEASE_REFUSED | BIST_STATE | BIST_SPACE
  deriving DecidableEq, Repr

/-- The 16-bit value of a status (R473): within a row, codes ascend from the row's first code. -/
def Status.code : Status → Nat
  | .OK => 0x0000
  | .ACCESS_WIDTH => 0x0001 | .LOCKED_FIELD => 0x0002 | .GEN_KEY => 0x0003 | .STATE_REFUSED => 0x0004
  | .CAST_FORMAT => 0x0101 | .CAST_CRC => 0x0102 | .CAST_VERSION => 0x0103 | .CAST_STALE => 0x0104
  | .CAST_RANGE => 0x0105 | .CAST_CONFLICT => 0x0106 | .CAST_CAPACITY => 0x0107 | .CAST_POWER => 0x0108
  | .CAST_LOCKED => 0x0109 | .CAST_TALLY => 0x010A | .CAST_BUSY => 0x010B | .RECAST_ABORT => 0x010C
  | .SYNC_LOST => 0x0201 | .PICKOFF_LOST => 0x0202 | .LEVEL_STALE => 0x0203 | .TRAJ_RANGE => 0x0204
  | .HALL_STORE => 0x0301 | .HALL_WRITE => 0x0302 | .HALL_ASSET => 0x0303 | .HALL_ASSET_BUSY => 0x0304
  | .HALL_MISMATCH => 0x0305 | .HALL_NOT_READY => 0x0306 | .HALL_NONE => 0x0307 | .SPORT_DENIED => 0x0308
  | .SPORT_FRAME => 0x0309 | .SPORT_CRC => 0x030A | .SPORT_CMD => 0x030B | .SPORT_SILENT => 0x030C
  | .COMMIT_REJECTED => 0x0401 | .SEQ_REJECTED => 0x0402 | .FREEZE => 0x0403 | .WEIGHT_BUDGET => 0x0404
  | .PLANE_CORRUPT => 0x0405 | .LAYER_CORRUPT => 0x0406
  | .LASER_FAULT => 0x0501 | .INSUFFICIENT_EXCITATION => 0x0502 | .SNAP_BUSY => 0x0503 | .SNAP_TORN => 0x0504
  | .SNAP_STALE => 0x0505 | .PAGE_VERIFY => 0x0506 | .PAGE_LINK => 0x0507 | .PAGE_BUSY => 0x0508
  | .LOOP_CONFIG => 0x0601 | .LOOP_BUSY => 0x0602 | .LOOP_CLOSED => 0x0603
  | .DESC_CORRUPT => 0x0701 | .BIND_REVISION => 0x0702 | .BIND_CLASS => 0x0703 | .BIND_GEOMETRY => 0x0704
  | .BIND_CHANNEL => 0x0705 | .BIND_AXIS => 0x0706 | .BIND_REJECT => 0x0707 | .LINK_LOST => 0x0708
  | .CAMERA_LOST => 0x0801 | .CAMERA_FORMAT => 0x0802 | .CAMERA_CONFIG => 0x0803 | .IMU_FAULT => 0x0804
  | .CAS_RANGE => 0x0901 | .CAS_RULE => 0x0902 | .CAS_MISMATCH => 0x0903 | .MB_FORMAT => 0x0904
  | .MB_CMD => 0x0905 | .MB_STATE => 0x0906 | .MB_ABORTED => 0x0907 | .MAILBOX_ABORT => 0x0908
  | .INCOMPRESSIBLE => 0x0A01 | .PARTIAL => 0x0A02 | .CODEC_FORMAT => 0x0A03 | .CODEC_BOUNDS => 0x0A04
  | .CODEC_CHECK => 0x0A05 | .CODEC_RESUME => 0x0A06 | .CODEC_SPACE => 0x0A07 | .CODEC_TALLY => 0x0A08
  | .CODEC_BUSY => 0x0A09 | .CODEC_JOB => 0x0A0A | .CODEC_SEIZED => 0x0A0B
  | .MC_BUSY => 0x0B01 | .MC_STATE => 0x0B02 | .DRAM_CHANNEL => 0x0B03 | .DRAM_DEAD => 0x0B04
  | .SENSOR_SUSPECT => 0x0C01 | .THROTTLE_STEP => 0x0C02 | .POWER_LIMIT => 0x0C03 | .THERMAL_CRIT => 0x0C04
  | .LASER_OVERTEMP => 0x0C05 | .SUPPLY_DIP => 0x0C06 | .PHASE_LIMIT => 0x0C07 | .PM_MAP => 0x0C08
  | .SEQUENCE_FAIL => 0x0C09 | .RESET => 0x0C0A
  | .HOST_LOST => 0x0D01 | .SEIZED => 0x0D02 | .SEIZE_REFUSED => 0x0D03 | .RELEASE_REFUSED => 0x0D04
  | .BIST_STATE => 0x0D05 | .BIST_SPACE => 0x0D06

end Sys2Proof
end

