-- ==== Sys2Proof/Machine/CodecFmt.lean ====
section
/-! DEFINITION. The block format of the codec (R378 to R389): the decompressor with its checks, the compressor of R384 to
R387, and block streams (R388). A stream is a list of bits, first bit first. -/

set_option Elab.async false

namespace Sys2Proof.Machine

/-! ## Alphabets (R380) -/

/-- Base length and extra bits of length symbol 257 + i. -/
def lenBase (i : Nat) : Nat × Nat :=
  if i < 8 then (3 + i, 0)
  else
    let g := (i - 8) / 4
    (8 * 2 ^ g + 3 + (i - 8) % 4 * 2 ^ (g + 1), g + 1)

/-- Base distance and extra bits of distance symbol c. -/
def distBase (c : Nat) : Nat × Nat :=
  if c < 4 then (c + 1, 0) else ((2 + c % 2) * 2 ^ (c / 2 - 1) + 1, c / 2 - 1)

/-- A symbol whose base and extra bits cover x, among the first n symbols of an alphabet: symbol, extra bits, extra value. -/
def coverSym (base : Nat → Nat × Nat) (n x : Nat) : Nat × Nat × Nat :=
  match ((List.range n).find? fun i => decide ((base i).1 ≤ x ∧ x < (base i).1 + 2 ^ (base i).2)) with
  | some i => (i, (base i).2, x - (base i).1)
  | none => (0, 0, 0)

/-- A token: a literal byte, or a match of length and distance. -/
inductive Tok where
  | lit (b : Nat)
  | mat (len dist : Nat)
  deriving DecidableEq, Repr

/-! ## Bits (R379) -/

/-- Bits of a byte, bit 0 first. -/
def byteBits (b : Byte) : List Bool := (List.range 8).map b.getLsbD

/-- The bits of a byte string. -/
def bitsOf (bs : List Byte) : List Bool := bs.flatMap byteBits

/-- Value of bits, least significant first. -/
def bitsNat : List Bool → Nat
  | [] => 0
  | b :: r => (if b then 1 else 0) + 2 * bitsNat r

/-- n bits of a value, least significant first. -/
def lsbBits (n x : Nat) : List Bool := (List.range n).map (fun i => x.testBit i)

/-- n bits of a code, most significant first. -/
def msbBits (n x : Nat) : List Bool := (lsbBits n x).reverse

/-- Bytes of a bit string, the last one padded with zeros; at most fuel of them. -/
def packBits : Nat → List Bool → List Byte
  | 0, _ => []
  | _, [] => []
  | n + 1, bs => BitVec.ofNat 8 (bitsNat (bs.take 8)) :: packBits n (bs.drop 8)

/-- Reads n bits, least significant first; none past the end. -/
def takeBits (n : Nat) (bs : List Bool) : Option (Nat × List Bool) :=
  if bs.length < n then none else some (bitsNat (bs.take n), bs.drop n)

/-! ## Canonical codes (R382) -/

/-- First code of each length from n on, with the symbols of that length in order. -/
def codeRows (lens : List Nat) : Nat → Nat → Nat → List (Nat × List Nat)
  | 0, _, _ => []
  | fuel + 1, n, first =>
    let syms := (List.range lens.length).filter fun i => lens[i]? == some n
    (first, syms) :: codeRows lens fuel (n + 1) ((first + syms.length) * 2)

/-- The decoding rows of a code: lengths 1 to 15. -/
def codeTable (lens : List Nat) : List (Nat × List Nat) := codeRows lens 15 1 0

/-- Decodes one symbol, most significant code bit first; none when no code matches or the stream ends. -/
def decodeSym : List (Nat × List Nat) → Nat → List Bool → Option (Nat × List Bool)
  | [], _, _ => none
  | _, _, [] => none
  | (first, syms) :: rows, acc, b :: bs =>
    let c := 2 * acc + (if b then 1 else 0)
    if first ≤ c ∧ c < first + syms.length then (syms[c - first]?).map fun x => (x, bs)
    else decodeSym rows c bs

/-- The code bits of a symbol. -/
def symBits (lens : List Nat) (x : Nat) : List Bool :=
  let n := (lens[x]?).getD 0
  match (codeTable lens)[n - 1]? with
  | some (first, syms) => if n = 0 then [] else msbBits n (first + syms.idxOf x)
  | none => []

/-- Sum of 2^(15 - length) over the symbols with a code: 2^15 for a complete code. -/
def kraft (lens : List Nat) : Nat := lens.foldl (fun a n => if n = 0 then a else a + 2 ^ (15 - n)) 0

/-- A code is complete or one of the exceptions of R382; empty allows the code with no symbol. -/
def codeOk (empty : Bool) (lens : List Nat) : Bool :=
  let used := lens.filter (· != 0)
  kraft lens == 2 ^ 15 || used == [1] || (empty && used.isEmpty)

/-! ## Decoding (R381, R383) -/

/-- The order of the code-length code lengths (R381). -/
def cllOrder : List Nat := [0, 16, 17, 18, 8, 7, 9, 6, 10, 5, 11, 4, 12, 3, 13, 2, 14, 1, 15]

/-- Reads n values of 3 bits. -/
def takeCll : Nat → List Bool → Option (List Nat × List Bool)
  | 0, bs => some ([], bs)
  | n + 1, bs => match takeBits 3 bs with
    | none => none
    | some (x, r) => (takeCll n r).map fun p => (x :: p.1, p.2)

/-- Code-length lengths by symbol from their transmitted order. -/
def cllLens (xs : List Nat) : List Nat :=
  (List.range 19).map fun s => (xs[cllOrder.idxOf s]?).getD 0

/-- Reads the coded sequence of n lengths (R381): done so far newest first. -/
def takeLens (rows : List (Nat × List Nat)) (n : Nat) : Nat → List Nat → List Bool → Option (List Nat × List Bool)
  | 0, _, _ => none
  | fuel + 1, got, bs =>
    if n ≤ got.length then (if got.length = n then some (got.reverse, bs) else none)
    else match decodeSym rows 0 bs with
      | none => none
      | some (x, r) =>
        if x < 16 then takeLens rows n fuel (x :: got) r
        else
          let need := if x = 16 then 2 else if x = 17 then 3 else 7
          let add := if x = 18 then 11 else 3
          match takeBits need r, got with
          | none, _ => none
          | some (k, r2), [] => if x = 16 then none else takeLens rows n fuel (List.replicate (k + add) 0) r2
          | some (k, r2), p :: _ =>
            takeLens rows n fuel (List.replicate (k + add) (if x = 16 then p else 0) ++ got) r2

/-- Copies n bytes one at a time from d back; out is newest first. -/
def copyBack : Nat → Nat → List Byte → List Byte
  | 0, _, out => out
  | n + 1, d, out => copyBack n d ((out[d - 1]?).getD 0 :: out)

/-- Decodes tokens up to EOB: the output newest first and the bits after EOB, or the status of the first failure. -/
def decodeToks (lit dist : List (Nat × List Nat)) (orig : Nat) :
    Nat → Nat → List Byte → List Bool → Status ⊕ (List Byte × List Bool)
  | 0, _, _, _ => .inl .CODEC_FORMAT
  | fuel + 1, made, out, bs =>
    match decodeSym lit 0 bs with
    | none => .inl .CODEC_FORMAT
    | some (x, r) =>
      if x = 256 then (if made < orig then .inl .CODEC_BOUNDS else .inr (out, r))
      else if x < 256 then
        if orig ≤ made then .inl .CODEC_BOUNDS
        else decodeToks lit dist orig fuel (made + 1) (BitVec.ofNat 8 x :: out) r
      else
        let lb := lenBase (x - 257)
        match takeBits lb.2 r with
        | none => .inl .CODEC_FORMAT
        | some (xl, r2) =>
          match decodeSym dist 0 r2 with
          | none => .inl .CODEC_FORMAT
          | some (c, r3) =>
            let db := distBase c
            match takeBits db.2 r3 with
            | none => .inl .CODEC_FORMAT
            | some (xd, r4) =>
              let l := lb.1 + xl
              let d := db.1 + xd
              if made < d ∨ orig < made + l then .inl .CODEC_BOUNDS
              else decodeToks lit dist orig fuel (made + l) (copyBack l d out) r4

/-- Decodes the token part of a block, then its padding and CHECK (R383); total is the bits of the stream. -/
def decodeBody (orig check total : Nat) (lens : List Nat) (nlit : Nat) (bs : List Bool) : Status ⊕ List Byte :=
  let lit := lens.take nlit
  let dist := lens.drop nlit
  if !codeOk false lit || !codeOk true dist || (lit[256]?).getD 0 == 0 then .inl .CODEC_FORMAT
  else match decodeToks (codeTable lit) (codeTable dist) orig (total + 1) 0 [] bs with
    | .inl e => .inl e
    | .inr (out, r) =>
      if 8 ≤ r.length ∨ r.any id then .inl .CODEC_FORMAT
      else if fletcher16 out.reverse = check then .inr out.reverse else .inl .CODEC_CHECK

/-- Decodes a stored block (R383): its bytes, or the status of the first failure. -/
def decodeBlock (stored : List Byte) : Status ⊕ List Byte :=
  let fmt := leAt stored 2 2
  let bs := bitsOf (stored.drop 6)
  if stored.length < 6 ∨ fmt ≠ 1 ∨ 4095 < leAt stored 0 2 then .inl .CODEC_FORMAT
  else match takeBits 6 bs with
    | none => .inl .CODEC_FORMAT
    | some (hlit, b1) =>
      match takeBits 5 b1 with
      | none => .inl .CODEC_FORMAT
      | some (hdist, b2) =>
        if 32 < hlit ∨ 23 < hdist then .inl .CODEC_FORMAT
        else match (takeBits 4 b2).bind (fun p => takeCll (p.1 + 4) p.2) with
          | none => .inl .CODEC_FORMAT
          | some (xs, b3) =>
            let cl := cllLens xs
            if !codeOk false cl then .inl .CODEC_FORMAT
            else match takeLens (codeTable cl) (258 + hlit + hdist) (259 + hlit + hdist) [] b3 with
              | none => .inl .CODEC_FORMAT
              | some (lens, b4) => decodeBody (leAt stored 0 2 + 1) (leAt stored 4 2) bs.length lens (257 + hlit) b4

/-! ## Matching (R384) -/

/-- Hash of the first three bytes. -/
def hash3 (bs : List Byte) : Nat :=
  (((byteAt bs 0 * 16) ^^^ (byteAt bs 1 * 4)) ^^^ byteAt bs 2) % 4096

/-- Length of the common beginning of two byte strings, at most n. -/
def common : Nat → List Byte → List Byte → Nat
  | 0, _, _ => 0
  | _, [], _ => 0
  | _, _, [] => 0
  | n + 1, x :: xs, y :: ys => if x = y then common n xs ys + 1 else 0

/-- The longest match among candidates, the first of equal lengths: length and position. -/
def bestMatch (rest : List Byte) (cands : List (Nat × Nat × List Byte)) : Nat × Nat :=
  cands.foldl (fun a c => let l := common 514 c.2.2 rest; if a.1 < l then (l, c.1) else a) (0, 0)

/-- Enters n positions from p into the chain: position, hash, the bytes from there on; newest first. -/
def enterPos : Nat → Nat → List Byte → List (Nat × Nat × List Byte) → List (Nat × Nat × List Byte)
  | 0, _, _, h => h
  | n + 1, p, rest, h => enterPos n (p + 1) rest.tail ((p, hash3 rest, rest) :: h)

/-- The tokens of a block, each with its input offset. -/
def matchToks : Nat → Nat → List Byte → List (Nat × Nat × List Byte) → List (Nat × Tok)
  | 0, _, _, _ => []
  | _, _, [], _ => []
  | fuel + 1, p, b :: bs, h =>
    let rest := b :: bs
    let m := if rest.length < 3 then (0, 0)
      else bestMatch rest ((h.filter (fun c => c.2.1 == hash3 rest)).take 64)
    if 3 ≤ m.1 then (p, .mat m.1 (p - m.2)) :: matchToks fuel (p + m.1) (rest.drop m.1) (enterPos m.1 p rest h)
    else (p, .lit b.toNat) :: matchToks fuel (p + 1) bs (enterPos 1 p rest h)

/-! ## Optimal code lengths (R385): package-merge -/

/-- Merges two weight-ordered lists of packages; k counts the comparisons, for the ties of Config.codeTie. -/
def mergePk (tie : Nat → Bool) : Nat → Nat → List (Nat × List Nat) → List (Nat × List Nat) → List (Nat × List Nat)
  | 0, _, _, _ => []
  | _, _, [], ys => ys
  | _, _, xs, [] => xs
  | fuel + 1, k, x :: xs, y :: ys =>
    if x.1 < y.1 ∨ (x.1 = y.1 ∧ tie k) then x :: mergePk tie fuel (k + 1) xs (y :: ys)
    else y :: mergePk tie fuel (k + 1) (x :: xs) ys

/-- Pairs neighbours into packages. -/
def pairPk : List (Nat × List Nat) → List (Nat × List Nat)
  | x :: y :: r => (x.1 + y.1, x.2 ++ y.2) :: pairPk r
  | _ => []

/-- The list of R385 after n levels. -/
def levelsPk (tie : Nat → Bool) (leaves : List (Nat × List Nat)) : Nat → List (Nat × List Nat)
  | 0 => []
  | n + 1 =>
    let ps := pairPk (levelsPk tie leaves n)
    mergePk tie (leaves.length + ps.length) (n * 1000) leaves ps

/-- Places an item in a list ordered by weight, and by falling symbol number among equal weights. -/
def insertLeaf (x : Nat × Nat) : List (Nat × Nat) → List (Nat × Nat)
  | [] => [x]
  | y :: r => if x.1 < y.1 ∨ (x.1 = y.1 ∧ y.2 < x.2) then x :: y :: r else y :: insertLeaf x r

/-- Optimal code lengths of at most limit for the symbol frequencies (R385). -/
def codeLens (limit : Nat) (freq : List Nat) : List Nat :=
  let used := ((List.range freq.length).zip freq).filter (fun p => p.2 != 0)
  let leaves := (used.foldl (fun l p => insertLeaf (p.2, p.1) l) []).map fun p => (p.1, [p.2])
  let n := used.length
  if n ≤ 1 then freq.map (fun f => if f = 0 then 0 else 1)
  else
    let syms := ((levelsPk (Config.codeTie freq) leaves limit).take (2 * n - 2)).flatMap (·.2)
    (List.range freq.length).map fun s => syms.count s

/-! ## The code description (R381, R385) -/

/-- Symbols of the code-length alphabet with their extra bits and values, for repeats of a non-zero length. -/
def repNonZero : Nat → Nat → Nat → List (Nat × Nat × Nat)
  | 0, _, _ => []
  | fuel + 1, v, k =>
    if k = 0 then []
    else if 3 ≤ k then (16, 2, min k 6 - 3) :: repNonZero fuel v (k - min k 6)
    else (v, 0, 0) :: repNonZero fuel v (k - 1)

/-- Symbols for a run of k zeros. -/
def repZero : Nat → Nat → List (Nat × Nat × Nat)
  | 0, _ => []
  | fuel + 1, k =>
    if k = 0 then []
    else if 11 ≤ k then (18, 7, min k 138 - 11) :: repZero fuel (k - min k 138)
    else if 3 ≤ k then [(17, 3, k - 3)]
    else (0, 0, 0) :: repZero fuel (k - 1)

/-- The coded sequence of lengths: run by run. -/
def lensSyms : Nat → List Nat → List (Nat × Nat × Nat)
  | 0, _ => []
  | _, [] => []
  | fuel + 1, v :: r =>
    let k := (r.takeWhile (· == v)).length
    let out := if v = 0 then repZero (k + 1) (k + 1) else (v, 0, 0) :: repNonZero k v k
    out ++ lensSyms fuel (r.drop k)

/-- Counts of each symbol below n. -/
def freqOf (n : Nat) (xs : List Nat) : List Nat := (List.range n).map fun i => xs.count i

/-- One more than the last index with a non-zero value. -/
def lastUsed (xs : List Nat) : Nat := (xs.reverse.dropWhile (· == 0)).length

/-- What the second pass needs of a block: code lengths and the bits of every token of R387, each with the input offset
at which it starts; the first is the header with the code description, the last is EOB with its padding. -/
structure Coded where
  lens : List Nat
  toks : List (Nat × List Bool)
  deriving DecidableEq, Repr

/-- The coded bits of a token. -/
def tokBits (lit dist : List Nat) (t : Tok) : List Bool :=
  match t with
  | .lit b => symBits lit b
  | .mat l d =>
    let a := coverSym lenBase 32 l
    let b := coverSym distBase 24 d
    symBits lit (257 + a.1) ++ lsbBits a.2.1 a.2.2 ++ symBits dist b.1 ++ lsbBits b.2.1 b.2.2

/-- Both passes over a block (R384, R385). -/
def codeBlock (data : List Byte) : Coded :=
  let toks := matchToks data.length 0 data []
  let lsym (t : Tok) : Nat := match t with
    | .lit b => b
    | .mat l _ => 257 + (coverSym lenBase 32 l).1
  let dsym (t : Tok) : List Nat := match t with
    | .lit _ => []
    | .mat _ d => [(coverSym distBase 24 d).1]
  let lit := codeLens 15 (freqOf 289 (256 :: toks.map (fun t => lsym t.2)))
  let dist := codeLens 15 (freqOf 24 (toks.flatMap (fun t => dsym t.2)))
  let nlit := max 257 (lastUsed lit)
  let ndist := max 1 (lastUsed dist)
  let lens := lit.take nlit ++ dist.take ndist
  let seq := lensSyms lens.length lens
  let cl := codeLens 7 (freqOf 19 (seq.map (·.1)))
  let order := cllOrder.map fun s => (cl[s]?).getD 0
  let ncl := max 4 (lastUsed order)
  let desc := lsbBits 6 (nlit - 257) ++ lsbBits 5 (ndist - 1) ++ lsbBits 4 (ncl - 4) ++
    (order.take ncl).flatMap (lsbBits 3) ++ seq.flatMap (fun x => symBits cl x.1 ++ lsbBits x.2.1 x.2.2)
  let hdr := bitsOf (leBytes 2 (data.length - 1) ++ leBytes 2 1 ++ leBytes 2 (fletcher16 data))
  let body := toks.map fun t => (t.1, tokBits lit dist t.2)
  let eob := symBits lit 256
  let n := (hdr ++ desc).length + body.foldl (fun a t => a + t.2.length) 0 + eob.length
  { lens := lens, toks := (0xFFFF, hdr ++ desc) :: body ++ [(data.length, eob ++ List.replicate ((8 - n % 8) % 8) false)] }

/-- Bits of a token list. -/
def toksBits (ts : List (Nat × List Bool)) : List Bool := ts.flatMap (·.2)

/-- S of R386: size of the block in bytes. -/
def Coded.size (c : Coded) : Nat := (toksBits c.toks).length / 8

/-- Fletcher-16 of the transmitted code lengths (R387). -/
def Coded.chk (c : Coded) : Nat := fletcher16 (c.lens.map (BitVec.ofNat 8))

/-- A resume record (R387). -/
structure Resume where
  codeChk : Nat
  inPos : Nat
  outBits : Nat
  total : Nat
  orig : Nat
  pend : List Bool
  deriving DecidableEq, Repr

/-- The four words of a resume record. -/
def Resume.words (r : Resume) : List Word :=
  [at_ 31 16 r.codeChk ||| at_ 15 0 r.inPos, BitVec.ofNat 32 r.outBits, at_ 31 16 r.total ||| at_ 15 0 r.orig,
   at_ 11 8 r.pend.length ||| at_ 7 0 (bitsNat r.pend)]

/-- The resume record of four words. -/
def Resume.ofWords (w0 w1 w2 w3 : Word) : Resume :=
  { codeChk := fld w0 31 16, inPos := fld w0 15 0, outBits := w1.toNat, total := fld w2 31 16, orig := fld w2 15 0,
    pend := lsbBits (fld w3 11 8) (fld w3 7 0) }

/-- The outcome of a compression: status, bytes written, and the resume record under PARTIAL. -/
structure CompOut where
  status : Status
  bytes : List Byte
  resume : Option Resume
  deriving DecidableEq, Repr

/-- Tokens from the front of a list whose bits fit in n bits, and the rest. -/
def fitToks : Nat → List (Nat × List Bool) → List (Nat × List Bool) × List (Nat × List Bool)
  | _, [] => ([], [])
  | n, t :: ts =>
    if t.2.length ≤ n then (t :: (fitToks (n - t.2.length) ts).1, (fitToks (n - t.2.length) ts).2) else ([], t :: ts)

/-- Writes the tokens ts after the pending bits pend, within limit bytes (R386, R387); before counts the bits of the
block accounted for before ts, pending bits included. -/
def writeToks (c : Coded) (orig limit before : Nat) (pend : List Bool) (ts : List (Nat × List Bool)) : CompOut :=
  if orig ≤ c.size then { status := .INCOMPRESSIBLE, bytes := [], resume := none }
  else
    let f := fitToks (8 * limit - pend.length) ts
    let bits := pend ++ toksBits f.1
    match f.2 with
    | [] => { status := .OK, bytes := packBits (bits.length / 8) bits, resume := none }
    | t :: _ =>
      let n := bits.length / 8
      { status := .PARTIAL, bytes := packBits n bits,
        resume := some { codeChk := c.chk, inPos := t.1, outBits := before + (toksBits f.1).length, total := c.size,
                         orig := orig, pend := bits.drop (8 * n) } }

/-- COMPRESS_BLOCK (R386, R387). -/
def compressBlock (data : List Byte) (limit : Nat) : CompOut :=
  let c := codeBlock data
  writeToks c data.length limit 0 [] c.toks

/-- RESUME (R387): any mismatch ends with CODEC_RESUME. -/
def resumeBlock (data : List Byte) (limit : Nat) (r : Resume) : CompOut :=
  let c := codeBlock data
  let rest := c.toks.dropWhile (fun t => t.1 != r.inPos)
  if r.codeChk = c.chk ∧ r.orig = data.length ∧ r.total = c.size ∧ rest ≠ [] then
    writeToks c data.length limit r.outBits r.pend rest
  else { status := .CODEC_RESUME, bytes := [], resume := none }

/-! ## Block streams (R388, R389) -/

/-- Units of a raw length. -/
def streamUnits (rawLen : Nat) : Nat := ceilDiv rawLen 4096

/-- Raw bytes of unit u. -/
def unitLen (rawLen u : Nat) : Nat := min 4096 (rawLen - 4096 * u)

/-- A directory entry: OFF, LEN, FLAGS. -/
def dirEntry (off len flags : Nat) : List Byte := leBytes 4 off ++ leBytes 2 len ++ leBytes 2 flags

/-- What is stored for one unit: its bytes and the RAW bit; the limit is the unit's own length (R386). -/
def storeUnit (data : List Byte) : List Byte × Bool :=
  let r := compressBlock data 4096
  if r.status = .OK then (r.bytes, false) else (data, true)

/-- A stream being built: directory entries and data so far, units raw and compressed, and whether it stopped. -/
structure StreamOut where
  dir : List Byte
  data : List Byte
  raw : Nat
  packed : Nat
  full : Bool
  deriving DecidableEq, Repr

/-- Places one unit, stored as p, unless it would pass cap bytes of the stream; base is the length of the directory. -/
def placeUnit (cap base : Nat) (a : StreamOut) (p : List Byte × Bool) : StreamOut :=
  let off := base + a.data.length
  if a.full || decide (cap < off + p.1.length) then
    { a with full := true, dir := a.dir ++ List.replicate 8 0 }
  else
    { a with
      dir := a.dir ++ dirEntry off p.1.length (if p.2 then 1 else 0)
      data := a.data ++ p.1 ++ List.replicate ((8 - p.1.length % 8) % 8) 0
      raw := if p.2 then a.raw + 1 else a.raw
      packed := if p.2 then a.packed else a.packed + 1 }

/-- The stream of raw bytes within cap bytes (R388, R391). -/
def packStream (raw : List Byte) (cap : Nat) : StreamOut :=
  let n := streamUnits raw.length
  (List.range n).foldl (fun a u =>
    if a.full then { a with dir := a.dir ++ List.replicate 8 0 }
    else placeUnit cap (8 * n) a (storeUnit ((raw.drop (4096 * u)).take 4096)))
    { dir := [], data := [], raw := 0, packed := 0, full := false }

/-- Decodes unit u of a stream of rawLen bytes whose range is range bytes, read with rd (offset, length): its bytes, or
the status that fails it (R383, R388, R389; log entry 13). -/
def readUnit (rd : Nat → Nat → List Byte) (range rawLen u : Nat) : Status ⊕ List Byte :=
  let e := rd (8 * u) 8
  let off := leAt e 0 4
  let len := leAt e 4 2
  let flags := leAt e 6 2
  let n := unitLen rawLen u
  if range < off + len ∨ 1 < flags ∨ off % 8 ≠ 0 ∨ len = 0 ∨ 4096 < len then .inl .CODEC_FORMAT
  else if flags = 1 then (if len = n then .inr (rd off len) else .inl .CODEC_BOUNDS)
  else match decodeBlock (rd off len) with
    | .inl e => .inl e
    | .inr d => if d.length = n then .inr d else .inl .CODEC_BOUNDS

end Sys2Proof.Machine
end

