-- ==== Sys2Proof/Machine/CastTypes.lean ====
section
/-! DEFINITION. The records of a Cast as data (R31 to R42): what the loader reads out of the bit-stream and what each
slot runs. Field names are the spec's. -/

set_option Elab.async false

namespace Sys2Proof.Machine

/-- One timing mode of a SLOT record (R31). -/
structure ModeRec where
  rate : Nat
  count : Nat
  seq : Nat
  deriving DecidableEq, Repr

/-- The SLOT record (R31). -/
structure SlotRec where
  port : Nat
  cls : Nat
  traj : Nat
  contain : Nat
  minW : Nat
  minH : Nat
  maxW : Nat
  maxH : Nat
  activeW : Nat
  activeH : Nat
  latchLine : Nat
  freezeThr : Nat
  nmodes : Nat
  modes : List ModeRec
  lookahead : Nat
  trialDepth : Nat
  strikeTol : Nat
  strikePt : Nat
  descRevMin : Nat
  deriving DecidableEq, Repr

/-- The PIPE record (R32). -/
structure PipeRec where
  composer : Nat
  share : Nat
  nvid : Nat
  ngfx : Nat
  blend : Nat
  wb : Nat
  pitchBase : Nat
  pitches : Nat
  bg : Word
  order : List Nat
  linebuf : List Nat
  maskMax : Nat
  deriving DecidableEq, Repr

/-- One entry of a CHMP record (R34). -/
structure ChanEnt where
  lc : Nat
  engCh : Nat
  role : Nat
  flags : Nat
  iLimit : Nat
  deriving DecidableEq, Repr

/-- The PHSE record (R35). -/
structure PhseRec where
  source : Nat
  input : Nat
  edge : Nat
  div : Nat
  offset : Nat
  level : Nat
  deriving DecidableEq, Repr

/-- One entry of the POOL record (R36); base and size in MiB. -/
structure PoolEnt where
  kind : Nat
  slot : Nat
  base : Nat
  size : Nat
  deriving DecidableEq, Repr

/-- One SUPPLY entry of the POWR record (R39), in mV. -/
structure SupplyRec where
  vmin : Nat
  vmax : Nat
  headroom : Nat
  deriving DecidableEq, Repr

/-- One FLD entry of the LOCK record (R41). ty is the type number of CST_ERR_FIELD, 0 for a name that is no record's. -/
structure LockFld where
  ty : Nat
  index : Nat
  off : Nat
  len : Nat
  deriving DecidableEq, Repr

/-- The LOCK record (R41): REG entries as address and mask. -/
structure LockRec where
  lockOnLoad : Bool
  regs : List (Nat × Word)
  flds : List LockFld
  deriving DecidableEq, Repr

/-- One asset of a HALL record with its data (R42). -/
structure AssetRec where
  id : Nat
  format : Nat
  w : Nat
  h : Nat
  crc : Word
  data : List Byte
  deriving DecidableEq, Repr

/-- The HALL record (R42). -/
structure HallRec where
  sport : Bool
  floor : Nat
  x : Nat
  y : Nat
  w : Nat
  h : Nat
  assets : List AssetRec
  deriving DecidableEq, Repr

/-- A record as it stands in the stream: type number of CST_ERR_FIELD, INDEX, offset of its header, body bytes. -/
structure RawRec where
  ty : Nat
  index : Nat
  off : Nat
  body : List Byte
  deriving DecidableEq, Repr

/-- What a Cast gives one slot: its SLOT, PIPE, CHMP and PHSE records, its SUPPLY entry and its HALL record. -/
structure SlotCast where
  slot : SlotRec
  pipe : PipeRec
  chmp : List ChanEnt
  phse : PhseRec
  supply : SupplyRec
  hall : Option HallRec
  deriving DecidableEq, Repr

/-- A whole Cast. pdOff bit d is OFF_RUN of domain PDd (R39). -/
structure CastDesc where
  gen : Nat
  slots : List (Nat × SlotCast)
  pool : List PoolEnt
  pdOff : BitVec 20
  lock : LockRec
  raw : List RawRec
  deriving DecidableEq, Repr

/-- The boot Cast of R24: no slots, the WINDOW entry, no domain Off, no locks, no Hallmark assets. -/
def CastDesc.boot : CastDesc :=
  { gen := 0, slots := [], pool := [{ kind := 1, slot := 0xFF, base := 0, size := 256 }], pdOff := 0,
    lock := { lockOnLoad := false, regs := [], flds := [] }, raw := [] }

/-- Field class of a recast (R30): fixed, cold, warm, hot. -/
inductive FieldClass where
  | hot
  | warm
  | cold
  | fixed
  deriving DecidableEq, Repr

/-- The records of a recast that concern one slot, each with the class at which it applies (R30); none where the record
does not change. -/
structure SlotPlan where
  slot : Option FieldClass
  pipe : Option FieldClass
  chmp : Option FieldClass
  phse : Option FieldClass
  supply : Option FieldClass
  /-- the slot's pool entries change -/
  pool : Bool
  /-- the slot is declared only by the new Cast -/
  added : Bool
  /-- the slot is declared only by the old Cast -/
  removed : Bool
  deriving DecidableEq, Repr

/-- A recast under way (R51 to R56, R499): the sets are lists of slot numbers. -/
structure SwitchState where
  start : BitVec 64
  plans : List (Nat × SlotPlan)
  /-- slots that have passed their hot or cold boundary -/
  passed : List Nat
  /-- slots dark for a cold record, which has applied to them -/
  dark : List Nat
  /-- slots that have taken stage 1 and stage 2 of R53 -/
  stage1 : List Nat
  stage2 : List Nat
  /-- slots that still have to return to the previous generation (R56) -/
  rolling : List Nat
  /-- what each slot ran before the switch (R56) -/
  prev : List (Nat × SlotCast)
  deriving DecidableEq, Repr

/-- Where a load under way takes its bytes from (R45, R46): window blocks, or mailbox chunks. -/
inductive LoadSrc where
  | window (block count : Nat)
  | mailbox
  deriving DecidableEq, Repr

/-- The Cast loader (CST): the Cast in force, the staged Cast, the load under way and the locks in force. -/
structure CastState where
  running : CastDesc
  staged : Option CastDesc
  load : Option LoadSrc
  /-- Cast bytes held by the loader -/
  bytes : List Byte
  /-- LOCK entries in force (R43) -/
  lockRegs : List (Nat × Word)
  lockFlds : List LockFld
  switch : Option SwitchState
  /-- switch start of the current or last recast (R58) -/
  recastAt : Option LinkTime
  /-- POOL entries the part uses now -/
  pool : List PoolEnt
  /-- domains Off now, bit d for PDd (R18, R499) -/
  pdOff : BitVec 20
  deriving DecidableEq, Repr

end Sys2Proof.Machine
end

