-- ==== Sys2Proof/Machine/CastFmt.lean ====
section
/-! DEFINITION. The Cast bit-stream: reading its header and records (R26 to R42) and the checks of R49, each with the
status and the location it reports. -/

set_option Elab.async false

namespace Sys2Proof.Machine

/-- A failed check (R49): the status, CST_ERR.OFFSET, and CST_ERR_FIELD.TYPE, INDEX and FIELD. -/
structure CastErr where
  status : Status
  off : Nat
  ty : Nat
  index : Nat
  field : Nat
  deriving DecidableEq, Repr

/-- The record types in their order of R28, numbered as CST_ERR_FIELD.TYPE; 0 for a name that is none of the eight. -/
def recType (name : Nat) : Nat :=
  if name = 0x544F4C53 then 1 else if name = 0x45504950 then 2 else if name = 0x504D4843 then 3
  else if name = 0x45534850 then 4 else if name = 0x4C4F4F50 then 5 else if name = 0x52574F50 then 6
  else if name = 0x4B434F4C then 7 else if name = 0x4C4C4148 then 8 else 0

/-- A number rounded up to a multiple of 8. -/
def pad8 (x : Nat) : Nat := (x + 7) / 8 * 8

/-- n reserved or padding bytes from offset o, each of which must be zero (R49 locates such a fault by its byte). -/
def zeroAt (b : List Byte) (o n : Nat) : List (Nat × Bool) := (List.range n).map fun i => (o + i, byteAt b (o + i) == 0)

/-- The first offset of a list of (offset, passes) checks that does not pass. -/
def firstBad : List (Nat × Bool) → Option Nat
  | [] => none
  | (o, ok) :: r => if ok then firstBad r else some o

/-! ## Header checks 1 to 4 -/

/-- Check 1 of R49 on the header: supplied is what R45 or R46 says of TOTAL_LEN and the bytes supplied. -/
def checkHeader (b : List Byte) (supplied : Nat → Bool) : Option CastErr :=
  (firstBad [(0, decide (leAt b 0 4 = 0x43574853)), (4, decide (leAt b 4 2 = 1)),
    (12, decide (leAt b 12 4 % 8 = 0 ∧ leAt b 12 4 ≤ 4 * 1024 * 1024 ∧ 64 ≤ leAt b 12 4) && supplied (leAt b 12 4))]).map
    fun f => { status := .CAST_FORMAT, off := 0, ty := 0, index := 0, field := f }

/-- Check 2 of R49: the CRC of R26 over the whole Cast with bytes 60 to 63 taken as 0. -/
def checkCrc (b : List Byte) : Option CastErr :=
  if crc32 (b.take 60 ++ [0, 0, 0, 0] ++ b.drop 64) = BitVec.ofNat 32 (leAt b 60 4) then none
  else some { status := .CAST_CRC, off := 0, ty := 0, index := 0, field := 60 }

/-- Check 4 of R49. -/
def checkStale (b : List Byte) (gen : Nat) : Option CastErr :=
  if gen < leAt b 8 4 then none else some { status := .CAST_STALE, off := 0, ty := 0, index := 0, field := 8 }

/-! ## Records -/

/-- Records from offset o as far as their LEN fields lead, at most fuel of them: type number, INDEX, offset, REV and the
record's bytes. A record with a bad LEN ends the walk. -/
def walk (b : List Byte) (total : Nat) : Nat → Nat → List (Nat × Nat × Nat × Nat)
  | 0, _ => []
  | fuel + 1, o =>
    if total < o + 16 then []
    else
      let len := leAt b (o + 4) 4
      if len < 16 ∨ len % 8 ≠ 0 ∨ total < o + len then [(recType (leAt b o 4), byteAt b (o + 8), o, len)]
      else (recType (leAt b o 4), byteAt b (o + 8), o, len) :: walk b total fuel (o + len)

/-- Check 3 of R49: MIN_STEP, then every REV. -/
def checkVersion (b : List Byte) (total step : Nat) : Option CastErr :=
  if step < byteAt b 18 then some { status := .CAST_VERSION, off := 0, ty := 0, index := 0, field := 18 }
  else
    ((walk b total (leAt b 16 2) 64).find? (fun r => byteAt b (r.2.2.1 + 9) != 1)).map fun r =>
      { status := .CAST_VERSION, off := r.2.2.1, ty := r.1, index := if r.1 = 0 then 0 else r.2.1, field := 0xFFF9 }

/-- The LEN that a record's type and counts give it, where they fix it (R31 to R42); none leaves LEN to the HALL rule. -/
def lenOf (ty : Nat) (body : List Byte) : Option Nat :=
  match ty with
  | 1 => some 80
  | 2 => some 96
  | 3 => some (16 + pad8 (4 + 8 * byteAt body 0))
  | 4 => some 32
  | 5 => some (16 + pad8 (4 + 16 * byteAt body 0))
  | 6 => some 104
  | 7 => some (16 + pad8 (8 + 8 * leAt body 2 2 + 12 * leAt body 4 2))
  | _ => none

/-- The header checks of check 5 of R49 on one record, prev being the type and INDEX of the record before. -/
def checkRecHeader (b : List Byte) (total : Nat) (prev : Nat × Nat) (o : Nat) : Option CastErr :=
  let ty := recType (leAt b o 4)
  let len := leAt b (o + 4) 4
  let ix := byteAt b (o + 8)
  let body := (b.drop (o + 16)).take (len - 16)
  let bad (f : Nat) : Option CastErr :=
    some { status := .CAST_FORMAT, off := o, ty := ty, index := if ty = 0 then 0 else ix, field := 0xFFF0 + f }
  if ty = 0 then bad 0
  else if len < 16 ∨ total < o + len ∨ len % 8 ≠ 0 then bad 4
  else if (match lenOf ty body with
    | some l => len != l
    | none => decide (len < 16 + 16 + 16 * byteAt body 1)) then bad 4
  else if (if ty = 5 ∨ ty = 6 ∨ ty = 7 then ix ≠ 0 else 7 < ix) then bad 8
  else if ty < prev.1 then bad 0
  else if ty = prev.1 ∧ ix ≤ prev.2 then bad 8
  else none

/-- Check 5 of R49 along the records: n records remain to be read from offset o. -/
def checkStructure (b : List Byte) (total : Nat) : Nat → Nat × Nat → Nat → Option CastErr
  | 0, _, o =>
    if o = total then none
    else if o + 16 ≤ total ∧ recType (leAt b o 4) ≠ 0 then
      some { status := .CAST_FORMAT, off := 0, ty := 0, index := 0, field := 16 }
    else some { status := .CAST_FORMAT, off := o, ty := 0, index := 0, field := 0xFFFF }
  | n + 1, prev, o =>
    if o = total then some { status := .CAST_FORMAT, off := 0, ty := 0, index := 0, field := 16 }
    else if total < o + 16 then some { status := .CAST_FORMAT, off := o, ty := 0, index := 0, field := 0xFFFF }
    else match checkRecHeader b total prev o with
      | some e => some e
      | none => checkStructure b total n (recType (leAt b o 4), byteAt b (o + 8)) (o + leAt b (o + 4) 4)

/-- The records of a Cast that passed check 5. -/
def rawRecs (b : List Byte) : List RawRec :=
  (walk b (leAt b 12 4) (leAt b 16 2) 64).map fun r =>
    { ty := r.1, index := r.2.1, off := r.2.2.1, body := (b.drop (r.2.2.1 + 16)).take (r.2.2.2 - 16) }

/-- Record of a type and INDEX. -/
def findRec (rs : List RawRec) (ty ix : Nat) : Option RawRec := rs.find? (fun r => r.ty == ty && r.index == ix)

/-- R29: a PIPE, CHMP, PHSE or HALL record without its SLOT record is malformed at its own INDEX byte. -/
def checkOrphan (rs : List RawRec) : Option CastErr :=
  (rs.find? fun r => (r.ty == 2 || r.ty == 3 || r.ty == 4 || r.ty == 8) && (findRec rs 1 r.index).isNone).map fun r =>
    { status := .CAST_FORMAT, off := r.off, ty := r.ty, index := r.index, field := 0xFFF8 }

/-- R29: the companion records of each SLOT record, and the three records of the Cast. -/
def checkMissing (rs : List RawRec) (total : Nat) : Option CastErr :=
  let slots := rs.filter (·.ty == 1)
  let lack := slots.flatMap fun r => ([2, 3, 4].filter fun t => (findRec rs t r.index).isNone).map fun t => (r, t)
  match lack with
  | (r, t) :: _ => some { status := .CAST_FORMAT, off := r.off, ty := t, index := r.index, field := 0xFFFF }
  | [] => (([5, 6, 7].find? fun t => (findRec rs t 0).isNone)).map fun t =>
      { status := .CAST_FORMAT, off := total, ty := t, index := 0, field := 0xFFFF }

/-! ## Reading record bodies -/

/-- The SLOT record of a body (R31). -/
def readSlot (b : List Byte) : SlotRec :=
  { port := byteAt b 0, cls := byteAt b 1, traj := byteAt b 2, contain := byteAt b 3,
    minW := leAt b 4 2, minH := leAt b 6 2, maxW := leAt b 8 2, maxH := leAt b 10 2,
    activeW := leAt b 12 2, activeH := leAt b 14 2, latchLine := leAt b 16 2, freezeThr := byteAt b 18,
    nmodes := byteAt b 19,
    modes := (List.range 4).map fun i =>
      { rate := leAt b (20 + 8 * i) 4, count := leAt b (24 + 8 * i) 2, seq := byteAt b (26 + 8 * i) },
    lookahead := byteAt b 52, trialDepth := byteAt b 53, strikeTol := leAt b 54 2, strikePt := leAt b 56 4,
    descRevMin := byteAt b 60 }

/-- The PIPE record of a body (R32). -/
def readPipe (b : List Byte) : PipeRec :=
  { composer := byteAt b 0, share := byteAt b 1, nvid := byteAt b 2, ngfx := byteAt b 3, blend := byteAt b 4,
    wb := byteAt b 5, pitchBase := leAt b 6 2, pitches := leAt b 8 2, bg := BitVec.ofNat 32 (leAt b 12 4),
    order := (List.range 25).map fun i => byteAt b (16 + i),
    linebuf := (List.range 8).map fun i => leAt b (44 + 2 * i) 2, maskMax := leAt b 60 2 }

/-- The entries of a CHMP body (R34). -/
def readChmp (b : List Byte) : List ChanEnt :=
  (List.range (byteAt b 0)).map fun i =>
    let o := 4 + 8 * i
    { lc := byteAt b o, engCh := byteAt b (o + 1), role := byteAt b (o + 2), flags := byteAt b (o + 3),
      iLimit := leAt b (o + 4) 2 }

/-- The PHSE record of a body (R35). -/
def readPhse (b : List Byte) : PhseRec :=
  { source := byteAt b 0, input := byteAt b 1, edge := byteAt b 2, div := byteAt b 3, offset := leAt b 4 4,
    level := byteAt b 8 }

/-- The entries of a POOL body (R36). -/
def readPool (b : List Byte) : List PoolEnt :=
  (List.range (byteAt b 0)).map fun i =>
    let o := 4 + 16 * i
    { kind := byteAt b o, slot := byteAt b (o + 1), base := leAt b (o + 4) 4, size := leAt b (o + 8) 4 }

/-- SUPPLY[n] of a POWR body (R39). -/
def readSupply (b : List Byte) (n : Nat) : SupplyRec :=
  { vmin := leAt b (24 + 8 * n) 2, vmax := leAt b (26 + 8 * n) 2, headroom := leAt b (28 + 8 * n) 2 }

/-- The OFF_RUN bits of a POWR body (R39). -/
def readPdOff (b : List Byte) : BitVec 20 :=
  BitVec.ofNat 20 ((List.range 20).foldl (fun a i => a + (byteAt b i % 2) * 2 ^ i) 0)

/-- The LOCK record of a body (R41). -/
def readLock (b : List Byte) : LockRec :=
  let nreg := leAt b 2 2
  { lockOnLoad := decide (byteAt b 0 % 2 = 1),
    regs := (List.range nreg).map fun i => (leAt b (8 + 8 * i) 4, BitVec.ofNat 32 (leAt b (12 + 8 * i) 4)),
    flds := (List.range (leAt b 4 2)).map fun i =>
      let o := 8 + 8 * nreg + 12 * i
      { ty := recType (leAt b o 4), index := byteAt b (o + 4), off := leAt b (o + 6) 2, len := leAt b (o + 8) 2 } }

/-- Bytes of an asset's pixels (R42): ARGB4444 two, ARGB8888 four bytes a pixel. -/
def assetSize (format w h : Nat) : Nat := (if format = 2 then 4 else 2) * w * h

/-- The HALL record of a body (R42); DATA_OFF counts from the record's header. -/
def readHall (b : List Byte) : HallRec :=
  { sport := decide (byteAt b 0 % 2 = 1), floor := leAt b 2 2,
    x := leAt b 4 2, y := leAt b 6 2, w := leAt b 8 2, h := leAt b 10 2,
    assets := (List.range (byteAt b 1)).map fun i =>
      let o := 16 + 16 * i
      { id := byteAt b o, format := byteAt b (o + 1), w := leAt b (o + 2) 2, h := leAt b (o + 4) 2,
        crc := BitVec.ofNat 32 (leAt b (o + 12) 4),
        data := (b.drop (leAt b (o + 8) 4 - 16)).take
          (assetSize (byteAt b (o + 1)) (leAt b (o + 2) 2) (leAt b (o + 4) 2)) } }

/-! ## Check 6: ranges -/

/-- Row stride of a plane in bytes (R169). -/
def planeStride (w : Nat) : Nat := 16 * ceilDiv w 128

/-- 4 KiB blocks of a plane (R169). -/
def planeBlocks (w h : Nat) : Nat := ceilDiv (planeStride w * h) 4096

/-- The port budget of an array mode (R498). -/
def portBudget (rate w h : Nat) : Nat := min (10 ^ 12 / (rate * planeBlocks w h * 354)) 65535

/-- Range checks of a SLOT body (R31, R193, R498, R225). -/
def rangeSlot (b : List Byte) : List (Nat × Bool) :=
  let r := readSlot b
  let arr := decide (r.cls = 1)
  let mode (i : Nat) : List (Nat × Bool) :=
    let m := (r.modes[i]?).getD { rate := 0, count := 0, seq := 0 }
    let o := 20 + 8 * i
    if r.nmodes ≤ i then zeroAt b (o + 7) 1 else
    [(o, decide (24000 ≤ m.rate ∧ m.rate ≤ 480000)),
     (o + 4, if arr then decide (1 ≤ m.count ∧ m.count ≤ portBudget m.rate r.activeW r.activeH)
       else decide (m.count % 2 = 0) &&
         (if r.traj = 1 then decide (r.activeH + 8 ≤ m.count) else decide (2 * r.activeH ≤ m.count))),
     (o + 6, if arr then decide (m.seq ≤ 3) else decide (m.seq = 0))] ++ zeroAt b (o + 7) 1
  [(0, decide (r.port ≤ 7)), (1, decide (r.cls = 1 ∨ r.cls = 2)),
   (2, if arr then decide (r.traj = 0) else decide (r.traj = 1 ∨ r.traj = 2)), (3, decide (r.contain ≤ 1)),
   (12, if arr then decide (64 ≤ r.activeW ∧ r.activeW ≤ 3840) else decide (64 ≤ r.activeW ∧ r.activeW ≤ 2560)),
   (14, if arr then decide (16 ≤ r.activeH ∧ r.activeH ≤ 2160) else decide (16 ≤ r.activeH ∧ r.activeH ≤ 1600)),
   (16, decide (4 ≤ r.latchLine ∧ r.latchLine ≤ r.activeH / 2)), (18, decide (1 ≤ r.freezeThr)),
   (19, decide (1 ≤ r.nmodes ∧ r.nmodes ≤ 4))] ++ mode 0 ++ mode 1 ++ mode 2 ++ mode 3 ++
  [(52, if arr then decide (r.lookahead = 0) else decide (1 ≤ r.lookahead ∧ r.lookahead ≤ r.trialDepth)),
   (53, if arr then decide (r.trialDepth = 0) else decide (1 ≤ r.trialDepth ∧ r.trialDepth ≤ 32)),
   (54, arr || decide (1 ≤ r.strikeTol)), (56, decide (r.strikePt ≤ 0xFFFFFF))] ++ zeroAt b 61 3

/-- R33 on ORDER, entry by entry: each names a declared layer that no entry before it names, and none is missing. -/
def orderAt (order : List Nat) (nvid ngfx : Nat) : List (Nat × Bool) :=
  let declared (c : Nat) : Bool := decide (c < nvid) || decide (0x10 ≤ c ∧ c < 0x10 + ngfx)
  let all := (List.range nvid).all order.contains && (List.range ngfx).all fun g => order.contains (0x10 + g)
  (List.range 25).map fun i =>
    let c := (order[i]?).getD 0xFF
    (16 + i, (c == 0xFF || (declared c && !(order.take i).contains c)) && (all || i != 0))

/-- Range checks of a PIPE body (R32, R33, R92). -/
def rangePipe (b : List Byte) : List (Nat × Bool) :=
  let r := readPipe b
  [(0, decide (r.composer ≤ 1)), (1, decide (1 ≤ r.share ∧ r.share ≤ 16)), (2, decide (r.nvid ≤ 8)),
   (3, decide (r.ngfx ≤ 16)), (4, decide (r.blend ≤ 1)), (5, decide (r.wb ≤ 1)), (6, decide (r.pitchBase ≤ 3071)),
   (8, decide (1 ≤ r.pitches ∧ r.pitches ≤ 3072 - r.pitchBase ∧ r.nvid + r.ngfx + r.maskMax ≤ r.pitches))] ++
   zeroAt b 10 2 ++ orderAt r.order r.nvid r.ngfx ++ zeroAt b 41 3 ++
  (List.range 8).map (fun i =>
    let l := leAt b (44 + 2 * i) 2
    (44 + 2 * i, decide (l = 0 ∨ (64 ≤ l ∧ l ≤ 8192 ∧ l % 64 = 0)))) ++
  [(60, decide (r.maskMax ≤ 256 ∧ r.maskMax ≤ r.pitches))] ++ zeroAt b 62 18

/-- Range checks of a CHMP body (R34). -/
def rangeChmp (b : List Byte) : List (Nat × Bool) :=
  let n := byteAt b 0
  [(0, decide (1 ≤ n ∧ n ≤ 24))] ++ zeroAt b 1 3 ++
  ((List.range n).flatMap fun i =>
    let o := 4 + 8 * i
    [(o, decide (byteAt b o ≤ 95)), (o + 1, decide (byteAt b (o + 1) ≤ 23)), (o + 2, decide (byteAt b (o + 2) ≤ 4)),
     (o + 3, decide (byteAt b (o + 3) < 4)), (o + 4, decide (1 ≤ leAt b (o + 4) 2 ∧ leAt b (o + 4) 2 ≤ 1000))] ++
    zeroAt b (o + 6) 2) ++ zeroAt b (4 + 8 * n) 8

/-- Range checks of a PHSE body (R35). -/
def rangePhse (b : List Byte) : List (Nat × Bool) :=
  let r := readPhse b
  [(0, decide (r.source ≤ 2)),
   (1, if r.source = 1 then decide (r.input ≤ 3) else if r.source = 2 then decide (r.input ≤ 1)
     else decide (r.input = 0)),
   (2, decide (r.source ≠ 1) || decide (r.edge ≤ 1)), (3, decide (r.source ≠ 1) || decide (1 ≤ r.div ∧ r.div ≤ 16)),
   (4, decide (r.offset < 2 ^ 24)), (8, decide (r.level ≤ 1))] ++ zeroAt b 9 7

/-- Range checks of a POOL body (R36, R37). -/
def rangePool (b : List Byte) : List (Nat × Bool) :=
  let es := readPool b
  let n := es.length
  let firstWin := es.findIdx (fun e => e.kind == 1)
  [(0, decide (1 ≤ n ∧ n ≤ 64 ∧ firstWin < n))] ++ zeroAt b 1 3 ++
  ((List.range n).flatMap fun i =>
    let o := 4 + 16 * i
    let e := (es[i]?).getD { kind := 0, slot := 0, base := 0, size := 0 }
    [(o, decide (1 ≤ e.kind ∧ e.kind ≤ 6 ∧ (e.kind = 1 → i = firstWin))),
     (o + 1, if e.kind = 2 ∨ e.kind = 3 ∨ e.kind = 4 then decide (e.slot ≤ 7) else decide (e.slot = 0xFF))] ++
    zeroAt b (o + 2) 2 ++
    [(o + 4, decide (e.kind = 1 → e.base = 0)), (o + 8, decide (1 ≤ e.size ∧ (e.kind = 1 → e.size = 256)))] ++
    zeroAt b (o + 12) 4) ++ zeroAt b (4 + 16 * n) 8

/-- Range checks of a POWR body (R39). -/
def rangePowr (b : List Byte) : List (Nat × Bool) :=
  (List.range 20).map (fun i => (i, decide (byteAt b i < 2))) ++ zeroAt b 20 4 ++
  (List.range 8).flatMap (fun n => zeroAt b (30 + 8 * n) 2)

/-- Range checks of a LOCK body (R41). DESIGN CHOICE (log entry 74): a FLD entry whose TYPE is none of the eight record names
fails check 6, which the spec does not say. -/
def rangeLock (b : List Byte) : List (Nat × Bool) :=
  let nreg := leAt b 2 2
  let nfld := leAt b 4 2
  [(0, decide (byteAt b 0 < 2))] ++ zeroAt b 1 1 ++ [(2, decide (nreg ≤ 256)), (4, decide (nfld ≤ 256))] ++
  zeroAt b 6 2 ++
  (List.range nreg).map (fun i =>
    (8 + 8 * i, decide (leAt b (8 + 8 * i) 4 % 4 = 0 ∧ leAt b (8 + 8 * i) 4 < 0x4000000))) ++
  ((List.range nfld).flatMap fun i =>
    let o := 8 + 8 * nreg + 12 * i
    (o, decide (recType (leAt b o 4) ≠ 0)) :: (zeroAt b (o + 5) 1 ++ zeroAt b (o + 10) 2)) ++
  zeroAt b (8 + 8 * nreg + 12 * nfld) 8

/-- Bytes of a HALL body after its table that no asset covers are padding (R42). -/
def hallPad (b : List Byte) (size : Nat → Nat) : List (Nat × Bool) :=
  let n := byteAt b 1
  let spans := (List.range n).map fun i => (leAt b (24 + 16 * i) 4 - 16, size i)
  ((List.range b.length).drop (16 + 16 * n)).map fun o =>
    (o, byteAt b o == 0 || spans.any fun x => decide (x.1 ≤ o ∧ o < x.1 + x.2))

/-- Range checks of a HALL body (R42); before is the asset data of the HALL records before it. -/
def rangeHall (b : List Byte) (before : Nat) : List (Nat × Bool) :=
  let n := byteAt b 1
  let size (i : Nat) : Nat :=
    let o := 16 + 16 * i
    assetSize (byteAt b (o + 1)) (leAt b (o + 2) 2) (leAt b (o + 4) 2)
  [(0, decide (byteAt b 0 < 2)), (1, decide (n ≤ 32 ∧ (n = 0 → byteAt b 0 % 2 = 1))),
   (2, decide (1 ≤ leAt b 2 2 ∧ leAt b 2 2 ≤ 1023)), (4, decide (1 ≤ leAt b 8 2 ∧ 1 ≤ leAt b 10 2))] ++
  zeroAt b 12 4 ++
  ((List.range n).flatMap fun i =>
    let o := 16 + 16 * i
    let off := leAt b (o + 8) 4
    let upto := before + ((List.range (i + 1)).foldl (fun a j => a + size j) 0)
    [(o, decide (byteAt b o ≤ 0xEF) && (List.range i).all (fun j => byteAt b (16 + 16 * j) != byteAt b o)),
     (o + 1, decide (byteAt b (o + 1) = 1 ∨ byteAt b (o + 1) = 2))] ++ zeroAt b (o + 6) 2 ++
    [(o + 8, decide (off % 8 = 0 ∧ 32 + 16 * n ≤ off ∧ off + size i ≤ 16 + b.length ∧ upto ≤ 512 * 1024))]) ++
  hallPad b size

/-- Asset data bytes of a HALL body. -/
def hallBytes (b : List Byte) : Nat :=
  (List.range (byteAt b 1)).foldl (fun a i =>
    a + assetSize (byteAt b (17 + 16 * i)) (leAt b (18 + 16 * i) 2) (leAt b (20 + 16 * i) 2)) 0

/-- Check 6 of R49 on one record. -/
def checkRange (cast : List Byte) (before : Nat) (r : RawRec) : Option CastErr :=
  match ((List.range 6).find? fun i => byteAt cast (r.off + 10 + i) != 0) with
  | some i => some { status := .CAST_RANGE, off := r.off, ty := r.ty, index := r.index, field := 0xFFFA + i }
  | none =>
    (firstBad (match r.ty with
      | 1 => rangeSlot r.body
      | 2 => rangePipe r.body
      | 3 => rangeChmp r.body
      | 4 => rangePhse r.body
      | 5 => rangePool r.body
      | 6 => rangePowr r.body
      | 7 => rangeLock r.body
      | _ => rangeHall r.body before)).map fun f =>
      { status := .CAST_RANGE, off := r.off, ty := r.ty, index := r.index, field := f }

/-- Check 6 of R49 on the reserved bytes of the Cast header (R26). -/
def checkHeaderZeros (b : List Byte) : Option CastErr :=
  (firstBad (zeroAt b 6 2 ++ zeroAt b 19 1 ++ zeroAt b 32 28)).map fun f =>
    { status := .CAST_RANGE, off := 0, ty := 0, index := 0, field := f }

/-- Check 6 of R49 over the records, counting Hallmark asset data. -/
def checkRanges (cast : List Byte) : Nat → List RawRec → Option CastErr
  | _, [] => none
  | before, r :: rs =>
    match checkRange cast before r with
    | some e => some e
    | none => checkRanges cast (if r.ty = 8 then before + hallBytes r.body else before) rs

/-! ## Building the description -/

/-- What the records give slot n. -/
def slotCastOf (rs : List RawRec) (n : Nat) : SlotCast :=
  let body (t ix : Nat) : List Byte := ((findRec rs t ix).map (·.body)).getD []
  { slot := readSlot (body 1 n), pipe := readPipe (body 2 n), chmp := readChmp (body 3 n),
    phse := readPhse (body 4 n), supply := readSupply (body 6 0) n, hall := (findRec rs 8 n).map (fun r => readHall r.body) }

/-- The Cast that a stream which passed checks 1 to 6 describes. -/
def castOf (b : List Byte) : CastDesc :=
  let rs := rawRecs b
  let body (t : Nat) : List Byte := ((findRec rs t 0).map (·.body)).getD []
  { gen := leAt b 8 4,
    slots := (rs.filter (·.ty == 1)).map fun r => (r.index, slotCastOf rs r.index),
    pool := readPool (body 5), pdOff := readPdOff (body 6), lock := readLock (body 7), raw := rs }

/-- The declared slots, in ascending order. -/
def CastDesc.find (c : CastDesc) (n : Nat) : Option SlotCast := (c.slots.find? (fun e => e.1 == n)).map (·.2)

/-! ## Check 7: cross-record consistency -/

/-- Bytes of a frame store (R206). -/
def frameStoreBytes (sc : SlotCast) : Nat :=
  sc.slot.activeW * sc.slot.activeH * (if sc.chmp.all (fun e => e.role == 0) then 2 else 8) *
    (if sc.slot.cls = 2 ∧ sc.slot.traj = 2 then 2 else 1)

/-- Largest COUNT among the listed modes (R170). -/
def nmax (sc : SlotCast) : Nat := (sc.slot.modes.take sc.slot.nmodes).foldl (fun a m => max a m.count) 0

/-- Directory bytes D of a plane store (R170). -/
def dirBytes (sc : SlotCast) : Nat :=
  ceilDiv (nmax sc * planeBlocks sc.slot.activeW sc.slot.activeH * 4) 4096 * 4096

/-- Bytes of a plane store (R170). -/
def planeStoreBytes (sc : SlotCast) : Nat :=
  dirBytes sc + nmax sc * planeBlocks sc.slot.activeW sc.slot.activeH * 4096

/-- Bytes of a line payload record (R205). -/
def sampleBytes (sc : SlotCast) : Nat := (4 + 2 * sc.chmp.length + 3) / 4 * 4

/-- Bytes of a payload slot of the trial line store (R205). -/
def payloadSlotBytes (sc : SlotCast) : Nat :=
  ceilDiv ((if sc.slot.traj = 2 then 2560 else sc.slot.activeW) * sampleBytes sc) 4096 * 4096

/-- Bytes of a trial line store (R205). -/
def lineStoreBytes (sc : SlotCast) : Nat :=
  sc.slot.trialDepth * payloadSlotBytes sc +
    (if sc.slot.traj = 2 then ceilDiv (ceilDiv (sc.slot.activeW * sc.slot.activeH) 8) 4096 * 4096 else 0)

/-- The class a store of a KIND must have, and the bytes it must hold. -/
def storeNeed (kind : Nat) (sc : SlotCast) : Nat :=
  if kind = 2 then ceilDiv (frameStoreBytes sc) (1024 * 1024) * (1024 * 1024)
  else if kind = 3 then planeStoreBytes sc else lineStoreBytes sc

/-- First index of a list at which a property of the earlier entries and the entry fails. -/
def firstClash {α : Type} (p : List α → α → Bool) : List α → List α → Nat → Option Nat
  | _, [], _ => none
  | before, x :: xs, i => if p before x then some i else firstClash p (before ++ [x]) xs (i + 1)

/-- Check 7 of R49. -/
def checkConflict (c : CastDesc) : Option CastErr :=
  let at7 (ty ix f : Nat) : CastErr :=
    { status := .CAST_CONFLICT, off := ((findRec c.raw ty ix).map (·.off)).getD 0, ty := ty, index := ix, field := f }
  let slotNo (i : Nat) : Nat := ((c.slots[i]?).map (·.1)).getD 0
  let sums (f : SlotCast → Nat) (lim : Nat) : Option Nat :=
    firstClash (fun before x =>
      decide (lim < f x.2 + before.foldl (fun a (y : Nat × SlotCast) =>
        if y.2.pipe.composer = x.2.pipe.composer then a + f y.2 else a) 0)) [] c.slots 0
  let ports := (firstClash (fun before (x : Nat × SlotCast) =>
    before.any (fun y => y.2.slot.port == x.2.slot.port)) [] c.slots 0).map fun i => at7 1 (slotNo i) 0
  let chans : List (Nat × Nat × ChanEnt) :=
    c.slots.flatMap fun s => (List.range s.2.chmp.length).zip s.2.chmp |>.map fun e => (s.1, e.1, e.2)
  let lcs := (firstClash (fun before (x : Nat × Nat × ChanEnt) =>
    before.any (fun y => y.2.2.lc == x.2.2.lc)) [] chans 0).bind fun i =>
      (chans[i]?).map fun x => at7 3 x.1 (4 + 8 * x.2.1)
  let share := (sums (fun x => x.pipe.share) 16).map fun i => at7 2 (slotNo i) 1
  let lbuf := (sums (fun x => x.pipe.linebuf.foldl (· + ·) 0) 32768).map fun i => at7 2 (slotNo i) 44
  let rng := (firstClash (fun before (x : Nat × SlotCast) => before.any (fun y =>
    decide (x.2.pipe.pitchBase < y.2.pipe.pitchBase + y.2.pipe.pitches ∧
      y.2.pipe.pitchBase < x.2.pipe.pitchBase + x.2.pipe.pitches))) [] c.slots 0).map fun i => at7 2 (slotNo i) 6
  let pool := (firstClash (fun before (x : PoolEnt) => before.any (fun y =>
    decide (x.base < y.base + y.size ∧ y.base < x.base + x.size))) [] c.pool 0).map fun i => at7 5 0 (8 + 16 * i)
  let store (p : List PoolEnt → PoolEnt → Option SlotCast → Bool) (f : Nat) : Option CastErr :=
    (firstClash (fun before (x : PoolEnt) =>
      decide (x.kind = 2 ∨ x.kind = 3 ∨ x.kind = 4) && p before x (c.find x.slot)) [] c.pool 0).map fun i =>
        at7 5 0 (4 + 16 * i + f)
  let wrong := store (fun _ x sc => match sc with
    | none => true
    | some sc => decide (x.kind = 3 ∧ sc.slot.cls ≠ 1) || decide (x.kind = 4 ∧ sc.slot.cls ≠ 2)) 1
  let twice := store (fun before x _ => before.any fun y => y.kind == x.kind && y.slot == x.slot) 0
  let small := store (fun _ x sc => match sc with
    | none => false
    | some sc => decide (x.size * 1024 * 1024 < storeNeed x.kind sc)) 8
  let lack := if c.slots.all (fun s =>
      c.pool.any (fun e => e.kind == 2 && e.slot == s.1) &&
      c.pool.any (fun e => e.kind == (if s.2.slot.cls = 1 then 3 else 4) && e.slot == s.1)) then none
    else some (at7 5 0 0)
  let region := (c.slots.find? fun s => match s.2.hall with
    | none => false
    | some h => decide (s.2.slot.activeW < h.x + h.w ∨ s.2.slot.activeH < h.y + h.h)).map fun s => at7 8 s.1 4
  let src := (c.slots.find? fun s => if s.2.slot.cls = 1 then s.2.phse.source == 2 else s.2.phse.source != 2).map
    fun s => at7 4 s.1 0
  let eight := (c.slots.find? fun s => decide (s.2.slot.cls = 2 ∧ 8 < s.2.chmp.length)).map fun s => at7 3 s.1 0
  ports <|> lcs <|> share <|> lbuf <|> rng <|> pool <|> wrong <|> twice <|> small <|> lack <|> region <|> src <|> eight

/-! ## Checks 8 to 11 -/

/-- Check 8 of R49 (R38): capacity in MiB. -/
def checkCapacity (c : CastDesc) (cap : Nat) : Option CastErr :=
  (firstClash (fun before (x : PoolEnt) =>
    decide (cap < x.base + x.size ∨ cap < x.size + before.foldl (fun a y => a + y.size) 0)) [] c.pool 0).map fun i =>
    { status := .CAST_CAPACITY, off := ((findRec c.raw 5 0).map (·.off)).getD 0, ty := 5, index := 0, field := 4 + 16 * i }

/-- Domain d carries a structure of the Cast (R40). -/
def carries (c : CastDesc) (d : Nat) : Bool :=
  let port (p : Nat) : Bool := c.slots.any (fun s => s.2.slot.port / 2 == p)
  match d with
  | 3 | 4 | 5 => true
  | 6 => c.slots.any (fun s => s.2.phse.source == 1 || s.2.phse.level == 1)
  | 9 | 12 | 14 => !c.slots.isEmpty
  | 10 => c.slots.any (fun s => s.2.slot.cls == 2)
  | 13 => c.slots.any (fun s => s.2.pipe.composer == 1)
  | 15 => port 0
  | 16 => port 1
  | 17 => port 2
  | 18 => port 3
  | 19 => c.slots.any (fun s => s.2.chmp.any (fun e => decide (e.flags / 2 % 2 = 1)))
  | _ => false

/-- Check 9 of R49 (R18, R40). -/
def checkPower (c : CastDesc) : Option CastErr :=
  ((List.range 20).find? fun d => c.pdOff.getLsbD d &&
    (d == 0 || d == 1 || d == 2 || d == 8 || carries c d)).map fun d =>
    { status := .CAST_POWER, off := ((findRec c.raw 6 0).map (·.off)).getD 0, ty := 6, index := 0, field := d }

/-- Check 10 of R49, on a recast (R43, R44): locked bytes, once Cast lock is reached, and the HALL records. -/
def checkLocks (old c : CastDesc) (locked : Bool) (flds : List LockFld) (total : Nat) : Option CastErr :=
  let bytesOf (d : CastDesc) (f : LockFld) : List Byte :=
    (((findRec d.raw f.ty f.index).map (·.body)).getD []).drop f.off |>.take f.len
  let changed := flds.filter fun f => bytesOf old f != bytesOf c f
  let where_ (f : LockFld) : CastErr :=
    let k := (List.range f.len).find? fun i => (bytesOf old f)[i]? != (bytesOf c f)[i]?
    { status := .CAST_LOCKED, off := ((findRec c.raw f.ty f.index).map (·.off)).getD total, ty := f.ty, index := f.index,
      field := f.off + k.getD 0 }
  let hallOf (d : CastDesc) : List (Nat × List Byte) := (d.raw.filter (·.ty == 8)).map fun r => (r.index, r.body)
  let first (a b : CastErr) : CastErr := if a.off < b.off ∨ (a.off = b.off ∧ a.field ≤ b.field) then a else b
  match (if locked then changed.map where_ else []) with
  | e :: es => some (es.foldl first e)
  | [] =>
    ((List.range 8).find? fun n => (hallOf old).lookup n != (hallOf c).lookup n).map fun n =>
      { status := .CAST_LOCKED, off := ((findRec c.raw 8 n).map (·.off)).getD total, ty := 8, index := n, field := 0 }

/-- Check 11 of R49 (R42). -/
def checkAssets (c : CastDesc) : Option CastErr :=
  let bad := c.slots.flatMap fun s => match s.2.hall with
    | none => []
    | some h => ((List.range h.assets.length).zip h.assets |>.filter fun a => crc32 a.2.data != a.2.crc).map
        fun a => (s.1, a.1)
  match bad with
  | [] => none
  | (n, i) :: _ => some
      { status := .CAST_CRC, off := ((findRec c.raw 8 n).map (·.off)).getD 0, ty := 8, index := n, field := 16 + 16 * i }

/-- What the loader knows when it validates. -/
structure CastEnv where
  step : Nat
  capMiB : Nat
  running : CastDesc
  recast : Bool
  locked : Bool
  flds : List LockFld

/-- Checks 2 to 11 of R49, in order, stopping at the first failure; b is exactly the TOTAL_LEN bytes. -/
def validate (env : CastEnv) (b : List Byte) : CastErr ⊕ CastDesc :=
  let total := leAt b 12 4
  let rs := rawRecs b
  let c := castOf b
  match checkCrc b <|> checkVersion b total env.step <|> checkStale b env.running.gen <|>
      checkStructure b total (leAt b 16 2) (0, 0) 64 <|> checkOrphan rs <|> checkMissing rs total <|>
      checkHeaderZeros b <|> checkRanges b 0 rs <|> checkConflict c <|> checkCapacity c env.capMiB <|> checkPower c <|>
      (if env.recast then checkLocks env.running c env.locked env.flds total else none) <|> checkAssets c with
  | some e => .inl e
  | none => .inr c

/-! ## Recast plans (R30, R51 to R53) -/

/-- The more demanding of two classes: F, C, W, H (R30). -/
def FieldClass.max : FieldClass → FieldClass → FieldClass
  | .fixed, _ => .fixed
  | _, .fixed => .fixed
  | .cold, _ => .cold
  | _, .cold => .cold
  | .warm, _ => .warm
  | _, .warm => .warm
  | .hot, .hot => .hot

/-- Class of body byte o of a record type (R31 to R42); modeNow is the slot's mode in use. -/
def byteClass (ty modeNow o : Nat) : FieldClass :=
  match ty with
  | 1 =>
    if o = 3 ∨ (16 ≤ o ∧ o < 20) ∨ o = 52 ∨ (54 ≤ o ∧ o < 60) then .hot
    else if 20 ≤ o ∧ o < 52 then (if (o - 20) / 8 = modeNow then .cold else .hot) else .cold
  | 2 =>
    if o = 1 ∨ (6 ≤ o ∧ o < 10) then .warm
    else if o = 4 ∨ o = 5 ∨ (12 ≤ o ∧ o < 41) ∨ o = 60 ∨ o = 61 then .hot else .cold
  | 3 => if 4 ≤ o ∧ ((o - 4) % 8 = 3 ∨ (o - 4) % 8 = 4 ∨ (o - 4) % 8 = 5) then .hot else .cold
  | 4 => if o < 2 then .cold else .hot
  | 5 => .cold
  | 6 => if o < 20 then .warm else .hot
  | 7 => .warm
  | _ => .fixed

/-- The class at which a change of a record's bytes applies; none where nothing changed (R30). -/
def changeClass (ty modeNow : Nat) (old new : List Byte) : Option FieldClass :=
  if old.length ≠ new.length then some (if ty = 7 then .warm else .cold)
  else (((List.range new.length).filter fun o => old[o]? != new[o]?).map (byteClass ty modeNow)).foldl
    (fun a k => some (match a with | none => k | some x => FieldClass.max x k)) none

/-- The plan of slot n for a recast from old to new. -/
def slotPlan (old new : CastDesc) (modeNow n : Nat) : SlotPlan :=
  let body (d : CastDesc) (t ix : Nat) : List Byte := ((findRec d.raw t ix).map (·.body)).getD []
  let powr := changeClass 6 0 (body old 6 0) (body new 6 0)
  let ch (t : Nat) : Option FieldClass := changeClass t modeNow (body old t n) (body new t n)
  let mine (d : CastDesc) : List PoolEnt := d.pool.filter (fun e => e.slot == n)
  let added := (old.find n).isNone && (new.find n).isSome
  let removed := (old.find n).isSome && (new.find n).isNone
  if added || removed then
    { slot := some .cold, pipe := some .cold, chmp := some .cold, phse := some .cold, supply := some .cold, pool := true,
      added := added, removed := removed }
  else
    { slot := ch 1, pipe := ch 2, chmp := ch 3, phse := ch 4,
      supply := if readSupply (body old 6 0) n = readSupply (body new 6 0) n then none else powr,
      pool := decide (mine old ≠ mine new), added := false, removed := false }

/-- The slot has a record of the class. -/
def SlotPlan.has (p : SlotPlan) (k : FieldClass) : Bool :=
  [p.slot, p.pipe, p.chmp, p.phse, p.supply].any (· == some k) || (k == .cold && p.pool)

/-- The slot's records of one class taken from the new Cast, the rest as they are. -/
def SlotCast.take (p : SlotPlan) (k : FieldClass) (now new : SlotCast) : SlotCast :=
  { slot := if p.slot == some k then new.slot else now.slot
    pipe := if p.pipe == some k then new.pipe else now.pipe
    chmp := if p.chmp == some k then new.chmp else now.chmp
    phse := if p.phse == some k then new.phse else now.phse
    supply := if p.supply == some k then new.supply else now.supply
    hall := now.hall }

end Sys2Proof.Machine
end

