-- ==== Sys2Proof/Machine/PortTypes.lean ====
section
/-! DEFINITION. The internal state of an engine port (R308 to R333) and the record of what leaves the part: MSI-X
messages, link packets and safety-port responses. -/

set_option Elab.async false

namespace Sys2Proof.Machine

/-- A channel command of R231: opcode 1 LEVEL, 2 ON, 3 OFF. -/
structure ChanCmd where
  ts : BitVec 40
  op : Nat
  ch : Nat
  cur : BitVec 16
  ceil : BitVec 16
  deriving DecidableEq, Repr

/-- A downlink packet, by the payload its type gives (R306, R310, R317, R320, R324 to R327). While it waits, what is known only as it
leaves is not filled in: a heartbeat is all zeros, and the time of TIME_SET is D. -/
inductive LinkPkt where
  | heartbeat (time : BitVec 64) (state : Nat) (bindId : BitVec 16) (rxErr : Nat)
  | timeProbe
  | timeSet (t : BitVec 64)
  | bind (id : BitVec 16) (slot cls : Nat)
  | quiesce
  | edge (cmds : List ChanCmd)
  | level (cmds : List ChanCmd)
  | line (line : Nat) (frame : BitVec 16) (group : Nat) (last : Bool) (ts : BitVec 40) (ceils : List (BitVec 16))
      (samples : List (Nat × List (BitVec 16)))
  | plane (entry nblk block : Nat) (frame : BitVec 16) (release : BitVec 40) (data : List Byte)
  | axis (ts : BitVec 40) (kind idx : Nat) (value : BitVec 16)
  | descRead (tag addr len : Nat)
  | descWrite (tag addr : Nat) (data : List Byte)
  deriving DecidableEq, Repr

/-- A downlink control flit, by the type of its blocks (R303, R310). -/
inductive CtlFlit where
  | idle
  | align
  | train (step lanes : Nat)
  deriving DecidableEq, Repr

/-- What leaves the part, in order (log entry 6). -/
inductive Out where
  /-- an MSI-X message: vector, address words and data of its table entry (R358) -/
  | msix (vector : Nat) (addrLo addrHi data : Word)
  /-- a packet on the downlink of a port with SEQ, BIND_ID and SENDTIME of its header (R304) -/
  | link (port : Nat) (seq bindId : BitVec 16) (sendTime : BitVec 40) (pkt : LinkPkt)
  /-- a control flit on the downlink of a port: TRAIN, and those that stand between packets (R303, R304); the fill of an idle link
  is not recorded (log entry 82) -/
  | ctl (port : Nat) (flit : CtlFlit)
  /-- the 64 bytes shifted out on SPORT_MISO (R141) -/
  | spi (bytes : List Byte)
  /-- bytes an SPI transaction of the IMU bus shifts out (R348) -/
  | imu (bytes : List Byte)
  /-- data returned on a BAR2 read (R361) -/
  | read (bytes : List Byte)
  deriving DecidableEq, Repr

/-- A change of the drive of engine channel ch (31: every channel) at time t in sixteenths, as issued (R231, R234): op 1 sets
the current, 2 lights at the current, 3 darkens, 4 is a sample, which sets the current and lights where it is not 0. -/
structure DriveEv where
  t : Nat
  ch : Nat
  op : Nat
  cur : Nat
  deriving DecidableEq, Repr

/-- A DESC request outstanding on a port (R317): its tag, and what it is for. -/
structure DescTag where
  tag : Nat
  addr : Nat
  len : Nat
  write : Bool
  deriving DecidableEq, Repr

/-- Why a link is quiesced, and so what follows QUIESCE_ACK (R323, R331). -/
inductive QuiesceWhy where
  | host
  | stop
  | rebind
  | engineReset
  deriving DecidableEq, Repr

/-- An engine port. The link state itself is EPn_STATUS.STATE. -/
structure PortState where
  /-- consecutive Train failures (R309) and the Train step reached (R310) -/
  trainFails : Nat
  trainStep : Nat
  /-- differences (T4 - T1) - (T3 - T2) of the probe series under way, whether it awaits echoes, how many of its probes are still
  to be sent, and the link time at which the next one goes (R310, R311) -/
  echoes : List Int
  series : Bool
  probes : Nat
  probeT : LinkTime
  /-- packets that wait for the downlink, oldest first (R307); the time at which what was sent last has left, in 1/125 periods; and
  the packets sent since the last control flit (R304) -/
  wait : List LinkPkt
  free : Nat
  runPkts : Nat
  /-- link time of the part's next heartbeat, and the packets it has discarded since its last one (R320, R321) -/
  beat : LinkTime
  rxErr : Nat
  tags : List DescTag
  nextTag : Nat
  /-- the descriptor bytes still to be read in Identify: next address, and where reading ends (R313) -/
  identNext : Nat
  identified : Bool
  /-- field-calibration pages A and B as last read (R271, R313) -/
  pageA : List Byte
  pageB : List Byte
  /-- consecutive heartbeat misses (R321) -/
  misses : Nat
  /-- link times of discards at the part, newest first, and of those the engine reports with their count (R305) -/
  errs : List LinkTime
  engErrs : List (LinkTime × Nat)
  lastTEnd : LinkTime
  /-- MIN_LEAD of the last TIME_ACK (R312), the binding in force (R319), and the downlink packet count (R304) -/
  minLead : Nat
  bind : BitVec 16
  dlSeq : BitVec 16
  /-- channels above 1.05 × CEIL in the last sense return, bit ch (R238) -/
  overs : BitVec 24
  /-- CEIL last sent per engine channel (R238) -/
  ceils : List (Nat × BitVec 16)
  /-- drive issued to the engine (R223): current and lit state per channel, and the changes after it in order of time -/
  drvBase : List (Nat × Nat × Bool)
  drvEvs : List DriveEv
  /-- slot bound to the port -/
  slot : Option Nat
  quiesce : Option QuiesceWhy
  /-- binding was rejected and waits for a retry (R318) -/
  rejected : Bool
  /-- LEN_n wait of R239 runs -/
  lenWait : Bool
  /-- FAULT bit may clear: the engine has been bound again since the fault (R239) -/
  reboundSinceFault : Bool
  deriving DecidableEq, Repr

/-- A port in DETECT with nothing heard (R308). -/
def PortState.init : PortState :=
  { trainFails := 0, trainStep := 0, echoes := [], series := false, probes := 0, probeT := 0, wait := [], free := 0, runPkts := 0
    beat := 0, rxErr := 0, tags := [], nextTag := 0, identNext := 0,
    identified := false, pageA := [], pageB := [], misses := 0, errs := [], engErrs := [], lastTEnd := 0, minLead := 0, bind := 0,
    dlSeq := 0, overs := 0, ceils := [], drvBase := [],
    drvEvs := [], slot := none,
    quiesce := none, rejected := false, lenWait := false, reboundSinceFault := false }

end Sys2Proof.Machine
end

