-- ==== Sys2Proof/Machine/LinkFmt.lean ====
section
/-! DEFINITION. The bytes of a downlink packet (R231, R234, R302 to R306, R310, R317, R320, R324 to R327): what the packets in the
record of what leaves the part look like on the lanes. -/

set_option Elab.async false

namespace Sys2Proof.Machine

/-- TYPE of a packet (R306). -/
def pktType : LinkPkt → Nat
  | .plane .. => 1
  | .line .. => 2
  | .edge _ => 3
  | .level _ => 4
  | .axis .. => 5
  | .descRead .. | .descWrite .. => 7
  | .heartbeat .. => 8
  | .timeProbe | .timeSet _ | .bind .. | .quiesce => 9

/-- The 12 bytes of a channel command (R231). -/
def chanCmdBytes (c : ChanCmd) : List Byte :=
  leBytes 5 c.ts.toNat ++ leBytes 1 (c.op % 16 * 16) ++ leBytes 1 (c.ch % 32) ++ [0] ++ leBytes 2 c.cur.toNat ++
  leBytes 2 c.ceil.toNat

/-- The channel command that 12 bytes spell. -/
def chanCmdOf (b : List Byte) : ChanCmd :=
  { ts := BitVec.ofNat 40 (leAt b 0 5), op := byteAt b 5 / 16, ch := byteAt b 6 % 32, cur := BitVec.ofNat 16 (leAt b 8 2)
    ceil := BitVec.ofNat 16 (leAt b 10 2) }

/-- COUNT, 3 reserved bytes, and the commands (R326). -/
def cmdsBytes (l : List ChanCmd) : List Byte := leBytes 1 l.length ++ [0, 0, 0] ++ l.flatMap chanCmdBytes

/-- The commands of an EDGE or LEVEL payload. -/
def cmdsOf (b : List Byte) : List ChanCmd := (List.range (byteAt b 0)).map fun i => chanCmdOf ((b.drop (4 + 12 * i)).take 12)

/-- One sample of a level group (R234). -/
def lineSampleBytes (x : Nat × List (BitVec 16)) : List Byte := leBytes 2 x.1 ++ x.2.flatMap fun c => leBytes 2 c.toNat

/-- A level group (R234). -/
def groupBytes (ts : BitVec 40) (ceils : List (BitVec 16)) (xs : List (Nat × List (BitVec 16))) : List Byte :=
  leBytes 5 ts.toNat ++ leBytes 1 xs.length ++ leBytes 1 ceils.length ++ [0] ++
  (ceils.flatMap fun c => leBytes 2 c.toNat) ++ xs.flatMap lineSampleBytes

/-- The heartbeat payload (R320). -/
def heartbeatBytes (time : BitVec 64) (state bindId rxErr : Nat) : List Byte :=
  leBytes 8 time.toNat ++ leBytes 1 state ++ [0] ++ leBytes 2 bindId ++ leBytes 2 rxErr ++ [0, 0]

/-- The payload of a packet. -/
def pktPayload : LinkPkt → List Byte
  | .heartbeat t st id err => heartbeatBytes t st id.toNat err
  | .timeProbe => [0x01, 0, 0, 0]
  | .timeSet t => [0x02, 0, 0, 0] ++ leBytes 8 t.toNat
  | .bind id slot cls => [0x03, 0, 0, 0] ++ leBytes 2 id.toNat ++ leBytes 1 slot ++ leBytes 1 cls
  | .quiesce => [0x04, 0, 0, 0]
  | .edge l | .level l => cmdsBytes l
  | .line n frame g last ts ceils xs =>
    leBytes 2 n ++ leBytes 2 frame.toNat ++ leBytes 1 g ++ [if last then 1 else 0, 0, 0] ++ groupBytes ts ceils xs
  | .plane k nblk i frame release data =>
    leBytes 1 k ++ leBytes 1 nblk ++ leBytes 1 i ++ [0] ++ leBytes 2 frame.toNat ++ [0, 0] ++ leBytes 5 release.toNat ++
    [0, 0, 0] ++ data
  | .axis ts kind idx v =>
    [1, 0, 0, 0] ++ leBytes 5 ts.toNat ++ leBytes 1 kind ++ leBytes 1 idx ++ [0] ++ leBytes 2 v.toNat ++ [0, 0]
  | .descRead tag a n => [0x01] ++ leBytes 1 tag ++ leBytes 2 a ++ leBytes 2 n ++ [0, 0]
  | .descWrite tag a d => [0x02] ++ leBytes 1 tag ++ leBytes 2 a ++ leBytes 2 d.length ++ [0, 0] ++ d


/-- The first 14 bytes of a packet header (R304). -/
def headBytes (type len : Nat) (seq bindId : BitVec 16) (sendTime : BitVec 40) : List Byte :=
  leBytes 1 type ++ [0] ++ leBytes 2 len ++ leBytes 2 seq.toNat ++ leBytes 2 bindId.toNat ++ leBytes 5 sendTime.toNat ++ [0]

/-- Header with its CRC-16, payload and CRC-32 (R304). -/
def bareBytes (type : Nat) (seq bindId : BitVec 16) (sendTime : BitVec 40) (payload : List Byte) : List Byte :=
  let h := headBytes type payload.length seq bindId sendTime
  let p := h ++ leBytes 2 (crc16 h).toNat ++ payload
  p ++ leBytes 4 (crc32 p).toNat

/-- Flits a packet with len payload bytes takes (R304). -/
def pktFlits (len : Nat) : Nat := (20 + len + 63) / 64

/-- A whole packet, with zeros to the end of its last flit (R304). -/
def packetBytes (type : Nat) (seq bindId : BitVec 16) (sendTime : BitVec 40) (payload : List Byte) : List Byte :=
  bareBytes type seq bindId sendTime payload ++ List.replicate (64 * pktFlits payload.length - (20 + payload.length)) 0

/-- The bytes of a packet of the record, sent at a time. -/
def linkBytes (seq bindId : BitVec 16) (sendTime : BitVec 40) (k : LinkPkt) : List Byte :=
  packetBytes (pktType k) seq bindId sendTime (pktPayload k)

/-- A receiver's checks of R305 on the bytes of a packet: the header CRC and the packet CRC. -/
def headerOk (b : List Byte) : Bool := crc16 (b.take 14) == BitVec.ofNat 16 (leAt b 14 2)
def packetOk (b : List Byte) : Bool :=
  let n := 16 + leAt b 2 2
  crc32 (b.take n) == BitVec.ofNat 32 (leAt b n 4)

/-- The blocks of a control flit, one per downlink lane (R303, R310). -/
def ctlBlocks (k : CtlFlit) : List (List Byte) :=
  (List.range 8).map fun l => match k with
    | .idle => [0x1E] ++ List.replicate 7 0
    | .align => [0x4B] ++ leBytes 1 l ++ List.replicate 6 0
    | .train step lanes => [0x55] ++ leBytes 1 l ++ leBytes 1 step ++ leBytes 1 lanes ++ [0, 0, 0, 0]

/-- The control flit that fills an idle downlink, by the flits since the last ALIGN (R303). -/
def fillFlit (k : Nat) : CtlFlit := if 16384 ≤ k + 1 then .align else .idle

/-- The blocks of the flits of a packet: 8 bytes each, block j of a flit on lane j (R302). -/
def pktBlocks (b : List Byte) : List (List Byte) := (List.range (b.length / 8)).map fun i => (b.drop (8 * i)).take 8

/-! ## Coding of a lane (R301) -/

/-- The sync header of a block, in the order of transmission: 01 for data, 10 for control. -/
def syncHeader (control : Bool) : List Bool := if control then [true, false] else [false, true]

/-- The bits of bytes in the order of transmission: the least significant bit first. -/
def wireBits (b : List Byte) : List Bool := b.flatMap fun x => (List.range 8).map fun i => x.getLsbD i

/-- The scrambler x^58 + x^39 + 1: its state holds the 58 bits it last sent, the newest first. -/
def scramble : List Bool → List Bool → List Bool × List Bool
  | st, [] => ([], st)
  | st, b :: r =>
    let y := b ^^ (st[38]?.getD false) ^^ (st[57]?.getD false)
    let x := scramble ((y :: st).take 58) r
    (y :: x.1, x.2)

/-- The descrambler: its state holds the 58 bits it last received. -/
def descramble : List Bool → List Bool → List Bool × List Bool
  | st, [] => ([], st)
  | st, y :: r =>
    let x := descramble ((y :: st).take 58) r
    ((y ^^ (st[38]?.getD false) ^^ (st[57]?.getD false)) :: x.1, x.2)

/-- The 66 bits of a block on a lane, and the scrambler after it. The header is not scrambled. -/
def laneBlock (st : List Bool) (control : Bool) (b : List Byte) : List Bool × List Bool :=
  let x := scramble st (wireBits b)
  (syncHeader control ++ x.1, x.2)

/-- The bits of a lane for a run of blocks, each with whether it is a control block. -/
def laneBits : List Bool → List (Bool × List Byte) → List Bool
  | _, [] => []
  | st, b :: r =>
    let x := laneBlock st b.1 b.2
    x.1 ++ laneBits x.2 r

/-- A block as a receiver takes it from 66 bits: none for an invalid sync header, else whether it is a control block, its bits, and
the descrambler after it. A lane that is inverted is inverted back first (R301). -/
def takeBlock (inverted : Bool) (st bits : List Bool) : Option (Bool × List Bool × List Bool) :=
  let b := if inverted then bits.map (!·) else bits
  match b with
  | h0 :: h1 :: r =>
    if h0 == h1 then none
    else
      let x := descramble st r
      some (h0, x.1, x.2)
  | _ => none

/-- A receiver has detected inversion: in training, when every block is a TRAIN control block, an inverted lane shows data headers. -/
def laneInverted (headers : List (Bool × Bool)) : Bool := !headers.isEmpty && headers.all fun h => h == (false, true)

/-- Block lock: 64 consecutive valid sync headers (R310). -/
def blockLock (headers : List (Bool × Bool)) : Bool :=
  decide (64 ≤ headers.length) && (headers.take 64).all fun h => h.1 != h.2

/-- Skew of two uplink lanes in block periods by where their ALIGN blocks stand; a receiver takes out up to 8 (R303). -/
def deskew (a0 a1 : Nat) : Option (Int) :=
  let d : Int := a1 - a0
  if d.natAbs ≤ 8 then some d else none

/-- What a receiver makes of the eight blocks of a flit by which of them are control blocks (R302): a data flit, a control flit, or
neither, which is discarded as a CRC error. -/
def flitKind (control : List Bool) : Option Bool :=
  if control.all (!·) then some false else if control.all id then some true else none

/-- Byte b of a downlink flit travels on lane b / 8 (R302). -/
def downLane (b : Nat) : Nat := b / 8 % 8

/-- Block k of an uplink flit: its lane and its block period (R302). -/
def upLane (k : Nat) : Nat × Nat := (k % 2, k / 2)

/-- Priority of a waiting packet, 0 first (R307). -/
def pktPriority : LinkPkt → Nat
  | .heartbeat .. => 0
  | .timeProbe | .timeSet _ | .bind .. | .quiesce => 1
  | .edge _ | .level _ => 2
  | .axis .. => 3
  | .line .. => 4
  | .plane .. => 5
  | .descRead .. | .descWrite .. => 6

/-- The waiting packet of the highest priority, of equal ones the oldest, and the others (R307). -/
def takeFirst : List LinkPkt → Option (LinkPkt × List LinkPkt)
  | [] => none
  | k :: r =>
    match takeFirst r with
    | none => some (k, [])
    | some x => if pktPriority x.1 < pktPriority k then some (x.1, k :: x.2) else some (k, r)

/-- Time of a flit in 1/125 periods: 5.28 ns at 3.2 GHz (R302). -/
def flitTime : Nat := 2112

/-- Time a packet occupies the downlink. -/
def pktTime (k : LinkPkt) : Nat := pktFlits (pktPayload k).length * flitTime

end Sys2Proof.Machine
end

