-- ==== Sys2Proof/Machine/CodecTypes.lean ====
section
/-! DEFINITION. The codec's job queue and completion records (R390 to R393). -/

set_option Elab.async false

namespace Sys2Proof.Machine

/-- A queued job: waiting, running in a lane, or ended with a status before it ran (R391, R393). -/
inductive JobState where
  | waiting
  | running
  | ended (c : Status)
  deriving DecidableEq, Repr

/-- A job: its descriptor words CD_JD0 to CD_JD11 and its state. -/
structure CodecJob where
  jd : List Word
  st : JobState
  deriving DecidableEq, Repr

/-- The queue, oldest first, and the completion records of eight words, oldest first. -/
structure CodecState where
  jobs : List CodecJob
  done : List (List Word)
  deriving DecidableEq, Repr

/-- A codec with nothing queued. -/
def CodecState.init : CodecState := { jobs := [], done := [] }

end Sys2Proof.Machine
end

