-- ==== Sys2Proof/Machine/Sparse.lean ====
section
/-! DEFINITION. Sparse storage in one canonical form, used for the registers, the pitch copies and package DRAM: a list
of (address, value) pairs with strictly rising addresses. -/

set_option Elab.async false

namespace Sys2Proof.Machine

/-- The entry at address k of an address-ordered list, if it is listed. -/
def find? {α : Type} : List (Nat × α) → Nat → Option α
  | [], _ => none
  | (a, v) :: m, k => if a = k then some v else if k < a then none else find? m k

/-- Lists value v at address k, in order, in place of what k listed before. -/
def insert {α : Type} : List (Nat × α) → Nat → α → List (Nat × α)
  | [], k, v => [(k, v)]
  | (a, x) :: m, k, v =>
    if k < a then (k, v) :: (a, x) :: m else if a = k then (k, v) :: m else (a, x) :: insert m k v

/-- Removes the entry at address k. -/
def erase {α : Type} : List (Nat × α) → Nat → List (Nat × α)
  | [], _ => []
  | (a, x) :: m, k => if a = k then m else if k < a then (a, x) :: m else (a, x) :: erase m k

/-- The addresses rise strictly: no address is listed twice. -/
def rising {α : Type} : List (Nat × α) → Bool
  | [] => true
  | [_] => true
  | (a, _) :: (b, y) :: m => decide (a < b) && rising ((b, y) :: m)

/-- Sparse words: an unlisted address reads as zero. -/
abbrev SMap (w : Nat) := List (Nat × BitVec w)

/-- The word at address k. -/
def SMap.get {w : Nat} (m : SMap w) (k : Nat) : BitVec w := (find? m k).getD 0

/-- Writes v at address k: a zero removes the entry, since an unlisted address reads as zero. -/
def SMap.set {w : Nat} (m : SMap w) (k : Nat) (v : BitVec w) : SMap w :=
  if v = 0 then erase m k else insert m k v

/-- The canonical form: addresses strictly rising, and no entry equal to what an unlisted address reads as. -/
def SMap.wf {w : Nat} (m : SMap w) : Bool := rising m && m.all (fun e => e.2 != 0)

/-- Writes a list of (address, word) pairs, the first pair first. -/
def SMap.setAll {w : Nat} (m : SMap w) : List (Nat × BitVec w) → SMap w
  | [] => m
  | (k, v) :: r => SMap.setAll (m.set k v) r

/-- Writes zero at every address from lo on that is below hi: drops the entries of a range. -/
def SMap.clearRange {w : Nat} (m : SMap w) (lo hi : Nat) : SMap w :=
  m.filter (fun e => e.1 < lo || hi ≤ e.1)

end Sys2Proof.Machine
end

