-- ==== Sys2Proof/Machine/DramTypes.lean ====
section
/-! DEFINITION. The state of the memory controller (R395 to R418) that no register shows. -/

set_option Elab.async false

namespace Sys2Proof.Machine

/-- The memory controller: PCs that failed in service (R413) and PCs in self-refresh (R404), refresh postponement by bank
16 × pc + bank (R403), link times of uncorrectable bursts (R412), tracking failures in a row and the PC in its gather
window (R410), a frequency change and a pattern run under way (R407, R411), delay words moved or written since
training, by PC, point and register (R410, R418), and the traffic of trial lines of the last 1 ms (R222, R417): link time, class
and 64-byte units. -/
structure DramState where
  failed : BitVec 16
  sr : BitVec 16
  postponed : SMap 8
  bursts : List (Nat × LinkTime)
  trackFail : SMap 8
  nextPc : Nat
  gather : Option Nat
  freq : Option Nat
  patRun : Bool
  delays : List (Nat × Word)
  trial : List (LinkTime × Nat × Nat)
  deriving DecidableEq, Repr

/-- A controller after training. -/
def DramState.init : DramState :=
  { failed := 0, sr := 0, postponed := [], bursts := [], trackFail := [], nextPc := 0, gather := none, freq := none,
    patRun := false, delays := [], trial := [] }

end Sys2Proof.Machine
end

