-- ==== Sys2Proof/Machine/HeatTypes.lean ====
section
/-! DEFINITION. The state of the heat ledger (R419 to R432) that no register shows: node temperatures between updates, the
sensors' checks, the counters of the ladders, and the power limits. Temperatures here are in units of 2^-22 degree. -/

set_option Elab.async false

namespace Sys2Proof.Machine

/-- The check of one sensor (R423, R424): its last reading in 1/64 degree, updates in a row that it has disagreed or agreed,
and whether it is suspect. -/
structure SensorCheck where
  val : Int
  dis : Nat
  agree : Nat
  suspect : Bool
  deriving DecidableEq, Repr

/-- A temperature sensor of the engine on a port: it counts as failed after 10 ms without an accepted value (R419). -/
structure EngSensor where
  port : Nat
  num : Nat
  failed : Bool
  /-- link time of the last accepted value -/
  seen : BitVec 64
  chk : SensorCheck
  deriving DecidableEq, Repr

/-- A throttle ladder (R427, R428): its counters, its hottest point, and when its freeze ends. -/
structure Ladder where
  overs : Nat
  under : Nat
  hot : Nat
  freeze : Option (BitVec 64)
  deriving DecidableEq, Repr

/-- How the ledger starts at its next update (R421): running, at T_INIT, or at the mean of the diodes. -/
inductive HeatStart where
  | running
  | cold
  | warm
  deriving DecidableEq, Repr

/-- The heat ledger. -/
structure HeatState where
  start : HeatStart
  /-- nodes 0 to 46, and the boundary estimate of node 47 -/
  nodes : List Int
  tb : Int
  /-- junctions by light channel (R422) -/
  tj : List (Nat × Int)
  /-- D0 to D15 and S16 -/
  diodes : List SensorCheck
  eng : List EngSensor
  /-- laser ladders of slots 0 to 7, then the package ladder -/
  ladders : List Ladder
  /-- updates in a row at a critical temperature, and the trips that still hold: slots 0 to 7, then the package -/
  crit : List Nat
  trip : List Bool
  /-- link time of the package trip -/
  tripAt : BitVec 64
  /-- updates in a row with every laser point of a slot 3 K or more below its threshold (R467) -/
  cool : List Nat
  /-- domain power sums of the last ten updates in mW, newest first -/
  sums : List Nat
  /-- the limits of R429 apply, since when, and updates in a row below P_lim - 1 W -/
  limited : Bool
  limitAt : BitVec 64
  below : Nat
  /-- link time of the last update -/
  last : BitVec 64
  deriving DecidableEq, Repr

/-- A sensor that has not been read. -/
def SensorCheck.init : SensorCheck := { val := 0, dis := 0, agree := 0, suspect := false }

/-- A ladder with nothing counted. -/
def Ladder.init : Ladder := { overs := 0, under := 0, hot := 0, freeze := none }

/-- A heat ledger before its first update (R421). -/
def HeatState.init (how : HeatStart) : HeatState :=
  { start := how, nodes := List.replicate 47 0, tb := 0, tj := [], diodes := List.replicate 17 SensorCheck.init, eng := [],
    ladders := List.replicate 9 Ladder.init, crit := List.replicate 9 0, trip := List.replicate 9 false, tripAt := 0,
    cool := List.replicate 8 0, sums := [], limited := false, limitAt := 0, below := 0, last := 0 }

end Sys2Proof.Machine
end

