-- ==== Sys2Proof/Machine/RegTable.lean ====
section
/-! DEFINITION. The register table of BAR0: each register with the bits of each access type (R5), the structure it belongs
to (R7), its power domain (R12, R18) and its Cold value. Written from the register tables of the chapters (R3, R58, R90,
R124, R144, R165, R191, R210, R225, R246, R247, R274, R299, R300, R334, R354, R373, R374, R394, R417, R418, R433, R456,
R457, R474). The pitch store (R91) has rules of its own. -/

set_option Elab.async false

namespace Sys2Proof.Machine

/-- The structure a register belongs to; it exists while the running Cast has built that structure (R7). -/
inductive RegScope where
  | always
  | slot
  | array
  | scanner
  | composerA
  | composerB
  | hall
  | chan
  | port
  deriving DecidableEq, Repr

/-- One row: a register, or count registers at a stride, each of n2 words at stride st2. -/
structure RegDef where
  name : String
  base : Nat
  stride : Nat
  count : Nat
  st2 : Nat
  n2 : Nat
  scope : RegScope
  pd : Nat
  rw : Word
  rwc : Word
  w1c : Word
  wo : Word
  cold : Word
  deriving DecidableEq, Repr

/-- A row from its parts. -/
def mk (name : String) (base stride count st2 n2 : Nat) (scope : RegScope) (pd : Nat) (rw rwc w1c wo cold : Word) :
    RegDef :=
  { name := name, base := base, stride := stride, count := count, st2 := st2, n2 := n2, scope := scope, pd := pd,
    rw := rw, rwc := rwc, w1c := w1c, wo := wo, cold := cold }

/-- Registers of the block GEN. -/
def regsGEN : List RegDef :=
  [mk "GEN_ID" 0x0 0 1 0 1 .always 0 0 0 0 0 0,
   mk "GEN_STATE_REQ" 0x10 0 1 0 1 .always 0 0x3 0 0 0 0,
   mk "GEN_STATE" 0x14 0 1 0 1 .always 0 0 0 0 0 0,
   mk "GEN_DIM" 0x18 0 1 0 1 .always 0 0xff 0 0 0 0,
   mk "GEN_RESET" 0x20 0 1 0 1 .always 0 0 0 0 0xff01ff01 0,
   mk "GEN_RESET_CAUSE" 0x24 0 1 0 1 .always 0 0 0 0 0 0,
   mk "GEN_WDOG" 0x28 0 1 0 1 .always 0 0x8000ffff 0 0 0 0,
   mk "GEN_WDOG_KICK" 0x2C 0 1 0 1 .always 0 0 0 0 0xffffffff 0,
   mk "GEN_DIP" 0x30 0 1 0 1 .always 0 0 0 0xff00 0 0,
   mk "GEN_DIP_CNT" 0x34 0 1 0 1 .always 0 0 0 0 0 0,
   mk "GEN_WAKE" 0x38 0 1 0 1 .always 0 0xfff0fff0 0 0 0 0,
   mk "GEN_RAIL" 0x40 0x4 8 0 1 .always 0 0 0 0 0 0,
   mk "MSIX_ADDR_LO" 0xF0000 0x10 64 0 1 .always 0 0xfffffffc 0 0 0 0,
   mk "MSIX_ADDR_HI" 0xF0004 0x10 64 0 1 .always 0 0xffffffff 0 0 0 0,
   mk "MSIX_DATA" 0xF0008 0x10 64 0 1 .always 0 0xffffffff 0 0 0 0,
   mk "MSIX_CTRL" 0xF000C 0x10 64 0 1 .always 0 0x1 0 0 0 0x1,
   mk "MSIX_PBA" 0xF8000 0x4 2 0 1 .always 0 0 0 0 0 0]

/-- Registers of the block CST. -/
def regsCST : List RegDef :=
  [mk "CST_CTRL" 0x100000 0 1 0 1 .always 2 0x6 0 0 0x111 0,
   mk "CST_SRC" 0x100004 0 1 0 1 .always 2 0x7f0fff 0 0 0 0,
   mk "CST_STATUS" 0x100008 0 1 0 1 .always 2 0 0 0 0 0,
   mk "CST_GEN" 0x10000C 0 1 0 1 .always 2 0 0 0 0 0,
   mk "CST_PEND_GEN" 0x100010 0 1 0 1 .always 2 0 0 0 0 0,
   mk "CST_ERR" 0x100014 0 1 0 1 .always 2 0 0 0 0 0,
   mk "CST_ERR_FIELD" 0x100018 0 1 0 1 .always 2 0 0 0 0 0,
   mk "CST_SLOT_GEN" 0x100020 0x4 8 0 1 .slot 2 0 0 0 0 0,
   mk "CST_RECAST_MS" 0x100040 0 1 0 1 .always 2 0 0 0 0 0]

/-- Registers of the block TF. -/
def regsTF : List RegDef :=
  [mk "TF_LINK_TIME_LO" 0x200000 0 1 0 1 .always 9 0 0 0 0 0,
   mk "TF_LINK_TIME_HI" 0x200004 0 1 0 1 .always 9 0 0 0 0 0,
   mk "TF_CTRL" 0x201000 0x100 8 0 1 .slot 9 0x32 0 0 0x1 0x20,
   mk "TF_STATE" 0x201004 0x100 8 0 1 .slot 9 0 0 0 0 0,
   mk "TF_PHASE_NOW" 0x201008 0x100 8 0 1 .slot 9 0 0 0 0 0,
   mk "TF_RATE" 0x20100C 0x100 8 0 1 .slot 9 0 0 0 0 0,
   mk "TF_SYNC_WIN" 0x201010 0x100 8 0 1 .slot 9 0xffffff 0 0 0 0x100000,
   mk "TF_TRIM" 0x201014 0x100 8 0 1 .slot 9 0xffff 0 0 0 0,
   mk "TF_HORIZON" 0x201018 0x100 8 0 1 .slot 9 0xffff 0 0 0 0xc80,
   mk "TF_SLEW" 0x20101C 0x100 8 0 1 .slot 9 0xffffff 0 0 0 0x40000,
   mk "TF_JUMP" 0x201020 0x100 8 0 1 .slot 9 0 0 0 0 0,
   mk "TF_CNT_A" 0x201024 0x100 8 0 1 .slot 9 0 0 0 0 0,
   mk "TF_CNT_B" 0x201028 0x100 8 0 1 .slot 9 0 0 0 0 0,
   mk "TF_FLAGS" 0x20102C 0x100 8 0 1 .slot 9 0 0 0x3f 0 0,
   mk "TF_LVL_GAIN" 0x201040 0x100 8 0 1 .array 9 0xffffffff 0 0 0 0,
   mk "TF_LVL_LIM" 0x201044 0x100 8 0 1 .array 9 0xffcff3ff 0 0 0 0x10100,
   mk "TF_LVL_NOW" 0x201048 0x100 8 0 1 .array 9 0 0 0 0 0]

/-- Registers of the block PX. -/
def regsPX : List RegDef :=
  [mk "PXA_ORDER0" 0x301000 0x100 8 0 1 .composerA 12 0xffffffff 0 0 0 0,
   mk "PXA_ORDER1" 0x301004 0x100 8 0 1 .composerA 12 0xffffffff 0 0 0 0,
   mk "PXA_ORDER2" 0x301008 0x100 8 0 1 .composerA 12 0xffffffff 0 0 0 0,
   mk "PXA_ORDER3" 0x30100C 0x100 8 0 1 .composerA 12 0xffffffff 0 0 0 0,
   mk "PXA_ORDER4" 0x301010 0x100 8 0 1 .composerA 12 0xffffffff 0 0 0 0,
   mk "PXA_ORDER5" 0x301014 0x100 8 0 1 .composerA 12 0xffffffff 0 0 0 0,
   mk "PXA_ORDER6" 0x301018 0x100 8 0 1 .composerA 12 0xff 0 0 0 0,
   mk "PXA_BG" 0x30101C 0x100 8 0 1 .composerA 12 0xffffffff 0 0 0 0,
   mk "PXA_ERR" 0x301020 0x100 8 0 1 .composerA 12 0 0 0xf 0 0,
   mk "PXA_SKIP" 0x301024 0x100 8 0 1 .composerA 12 0 0 0 0 0,
   mk "PXA_STOPPED" 0x301028 0x100 8 0 1 .composerA 12 0 0 0 0 0,
   mk "PXA_MASKS" 0x30102C 0x100 8 0 1 .composerA 12 0 0 0 0 0,
   mk "PXB_ORDER0" 0x341000 0x100 8 0 1 .composerB 13 0xffffffff 0 0 0 0,
   mk "PXB_ORDER1" 0x341004 0x100 8 0 1 .composerB 13 0xffffffff 0 0 0 0,
   mk "PXB_ORDER2" 0x341008 0x100 8 0 1 .composerB 13 0xffffffff 0 0 0 0,
   mk "PXB_ORDER3" 0x34100C 0x100 8 0 1 .composerB 13 0xffffffff 0 0 0 0,
   mk "PXB_ORDER4" 0x341010 0x100 8 0 1 .composerB 13 0xffffffff 0 0 0 0,
   mk "PXB_ORDER5" 0x341014 0x100 8 0 1 .composerB 13 0xffffffff 0 0 0 0,
   mk "PXB_ORDER6" 0x341018 0x100 8 0 1 .composerB 13 0xff 0 0 0 0,
   mk "PXB_BG" 0x34101C 0x100 8 0 1 .composerB 13 0xffffffff 0 0 0 0,
   mk "PXB_ERR" 0x341020 0x100 8 0 1 .composerB 13 0 0 0xf 0 0,
   mk "PXB_SKIP" 0x341024 0x100 8 0 1 .composerB 13 0 0 0 0 0,
   mk "PXB_STOPPED" 0x341028 0x100 8 0 1 .composerB 13 0 0 0 0 0,
   mk "PXB_MASKS" 0x34102C 0x100 8 0 1 .composerB 13 0 0 0 0 0]

/-- Registers of the block HL. -/
def regsHL : List RegDef :=
  [mk "HL_SPORT_CNT" 0x400000 0 1 0 1 .always 8 0 0 0 0 0,
   mk "HL_SPORT_STAT" 0x400004 0 1 0 1 .always 8 0 0 0 0 0,
   mk "HL_STATUS" 0x401000 0x100 8 0 1 .hall 8 0 0 0 0 0,
   mk "HL_SIG_ACT" 0x401004 0x100 8 0 1 .hall 8 0 0 0 0 0,
   mk "HL_SIG_EXP" 0x401008 0x100 8 0 1 .hall 8 0 0 0 0 0,
   mk "HL_FRAME" 0x40100C 0x100 8 0 1 .hall 8 0 0 0 0 0]

/-- Registers of the block SO. -/
def regsSO : List RegDef :=
  [mk "SO_CTRL" 0x501000 0x100 8 0 1 .slot 12 0 0 0 0xc7 0,
   mk "SO_STATUS" 0x501004 0x100 8 0 1 .slot 12 0 0 0 0 0,
   mk "SO_FLAGS" 0x501008 0x100 8 0 1 .slot 12 0 0 0xff 0 0,
   mk "SO_LATCH" 0x50100C 0x100 8 0 1 .slot 12 0xfff 0 0 0 0,
   mk "SO_DEFER" 0x501010 0x100 8 0 1 .slot 12 0 0 0 0 0,
   mk "SO_CNT_A" 0x501014 0x100 8 0 1 .slot 12 0 0 0 0 0,
   mk "SO_CNT_B" 0x501018 0x100 8 0 1 .slot 12 0 0 0 0 0,
   mk "SO_CNT_C" 0x50101C 0x100 8 0 1 .slot 12 0 0 0 0 0,
   mk "SO_FREEZE" 0x501020 0x100 8 0 1 .slot 12 0xff 0 0 0 0,
   mk "SO_FSIG" 0x501024 0x100 8 0 1 .slot 12 0 0 0 0 0,
   mk "SO_WB" 0x501028 0x100 8 0 1 .slot 12 0x8f7fffff 0 0 0 0,
   mk "SO_WB_FRAME" 0x50102C 0x100 8 0 1 .slot 12 0 0 0 0 0,
   mk "SO_HALL" 0x501030 0x100 8 0 1 .hall 12 0 0 0 0 0]

/-- Registers of the block SL. -/
def regsSL : List RegDef :=
  [mk "SL_CTRL" 0x601000 0x100 8 0 1 .array 14 0 0 0 0x33 0,
   mk "SL_STATUS" 0x601004 0x100 8 0 1 .array 14 0 0 0 0 0x8,
   mk "SL_SEQ0" 0x601008 0x100 8 0 1 .array 14 0xfff 0 0 0 0,
   mk "SL_SEQ1" 0x60100C 0x100 8 0 1 .array 14 0xfff 0 0 0 0,
   mk "SL_SEQ2" 0x601010 0x100 8 0 1 .array 14 0xfff 0 0 0 0,
   mk "SL_SEQ3" 0x601014 0x100 8 0 1 .array 14 0xfff 0 0 0 0,
   mk "SL_LOAD" 0x601018 0x100 8 0 1 .array 14 0 0 0 0 0,
   mk "SL_SETTLE" 0x60101C 0x100 8 0 1 .array 14 0 0 0 0 0,
   mk "SL_MARGIN" 0x601020 0x100 8 0 1 .array 14 0xffffff 0 0 0 0x10000,
   mk "SL_DITHER" 0x601024 0x100 8 0 1 .array 14 0x3 0 0 0 0x3,
   mk "SL_FLAGS" 0x601028 0x100 8 0 1 .array 14 0 0 0xff 0 0,
   mk "SL_CNT_A" 0x60102C 0x100 8 0 1 .array 14 0 0 0 0 0,
   mk "SL_CNT_B" 0x601030 0x100 8 0 1 .array 14 0 0 0 0 0,
   mk "SL_CNT_C" 0x601034 0x100 8 0 1 .array 14 0 0 0 0 0,
   mk "SL_READ" 0x601038 0x100 8 0 1 .array 14 0 0 0 0 0,
   mk "SL_WERR" 0x60103C 0x100 8 0 1 .array 14 0xffff0000 0 0 0 0x960000]

/-- Registers of the block LB. -/
def regsLB : List RegDef :=
  [mk "LB_CTRL" 0x701000 0x100 8 0 1 .scanner 14 0xfff01ff 0 0 0 0x1c0,
   mk "LB_TRAJ" 0x701004 0x100 8 0 1 .scanner 14 0 0 0 0 0,
   mk "LB_AMP" 0x701008 0x100 8 0 1 .scanner 14 0 0 0 0 0,
   mk "LB_FRATE" 0x70100C 0x100 8 0 1 .scanner 14 0 0 0 0 0,
   mk "LB_PEAK" 0x701010 0x100 8 0 1 .scanner 14 0 0 0 0 0,
   mk "LB_FLAGS" 0x701014 0x100 8 0 1 .scanner 14 0 0 0x7 0 0,
   mk "LB_CNT_A" 0x701018 0x100 8 0 1 .scanner 14 0 0 0 0 0,
   mk "LB_TRIAL_MADE" 0x701040 0x100 8 0 1 .scanner 14 0 0 0 0 0,
   mk "LB_TRIAL_STRUCK" 0x701044 0x100 8 0 1 .scanner 14 0 0 0 0 0,
   mk "LB_TRIAL_DISC" 0x701048 0x100 8 0 1 .scanner 14 0 0 0 0 0,
   mk "LB_TRIAL_BLANK" 0x70104C 0x100 8 0 1 .scanner 14 0 0 0 0 0,
   mk "LB_TRIAL_IDLE" 0x701050 0x100 8 0 1 .scanner 14 0 0 0 0 0,
   mk "LB_LOOK" 0x701054 0x100 8 0 1 .scanner 14 0x3f 0 0 0 0,
   mk "LB_STRIKE" 0x701058 0x100 8 0 1 .scanner 14 0xffff 0 0 0 0,
   mk "LB_STRIKE_PT" 0x70105C 0x100 8 0 1 .scanner 14 0xffffff 0 0 0 0,
   mk "LB_ERR_LAST" 0x701060 0x100 8 0 1 .scanner 14 0 0 0 0 0,
   mk "LB_ERR_MAX" 0x701064 0x100 8 0 1 .scanner 14 0 0 0 0 0,
   mk "LB_TRIAL_FLAGS" 0x701068 0x100 8 0 1 .scanner 14 0 0 0x7 0 0,
   mk "LB_PROBE_SEL" 0x70106C 0x100 8 0 1 .scanner 14 0x3f1f1f 0 0 0x80000000 0,
   mk "LB_PROBE_DATA" 0x701070 0x100 8 0 1 .scanner 14 0 0 0 0 0,
   mk "LB_PROBE_TS" 0x701074 0x100 8 0 1 .scanner 14 0 0 0 0 0,
   mk "LB_PROBE_ERR" 0x701078 0x100 8 0 1 .scanner 14 0 0 0 0 0x80000000,
   mk "LB_PROBE_DESC" 0x701080 0x100 8 0x4 8 .scanner 14 0 0 0 0 0]

/-- Registers of the block LC. -/
def regsLC : List RegDef :=
  [mk "LC_LEN_CTRL" 0x800000 0 1 0 1 .always 9 0xff 0 0 0 0,
   mk "LC_LEN_STAT" 0x800004 0 1 0 1 .always 9 0 0 0xff0000 0 0,
   mk "LC_LEN_CAUSE" 0x800020 0x4 8 0 1 .always 9 0 0 0 0 0,
   mk "LC_CFG" 0x801000 0x20 96 0 1 .chan 9 0 0 0 0 0,
   mk "LC_CEIL" 0x801004 0x20 96 0 1 .chan 9 0x3ff 0 0 0 0,
   mk "LC_LEVEL" 0x801008 0x20 96 0 1 .chan 9 0 0 0 0 0,
   mk "LC_DRIVE" 0x80100C 0x20 96 0 1 .chan 9 0 0 0 0 0,
   mk "LC_FLAGS" 0x801010 0x20 96 0 1 .chan 9 0 0 0xf 0 0,
   mk "LC_CNT" 0x801014 0x20 96 0 1 .chan 9 0 0 0 0 0,
   mk "LC_MAP" 0x810000 0x200 96 0x4 66 .chan 9 0 0 0 0 0]

/-- Registers of the block PM_LS. -/
def regsPMLS : List RegDef :=
  [mk "PM_LS_SET" 0x1110000 0x100 8 0 1 .slot 1 0 0 0 0 0,
   mk "PM_LS_MEAS" 0x1110004 0x100 8 0 1 .slot 1 0 0 0 0 0,
   mk "PM_LS_SLEW" 0x1110008 0x100 8 0 1 .slot 1 0xffffffff 0 0 0 0x640014,
   mk "PM_LS_HYST" 0x111000C 0x100 8 0 1 .slot 1 0x1ffff 0 0 0 0x64,
   mk "PM_LS_FLAGS" 0x1110010 0x100 8 0 1 .slot 1 0 0 0x7 0 0,
   mk "PM_LS_DEMAND" 0x1110014 0x100 8 0 1 .slot 1 0 0 0 0 0]

/-- Registers of the block CA. -/
def regsCA : List RegDef :=
  [mk "CA_SNAP_CTRL" 0x900000 0 1 0 1 .always 19 0x700 0 0 0x3 0,
   mk "CA_SNAP_STAT" 0x900004 0 1 0 1 .always 19 0 0 0 0 0,
   mk "CA_SNAP_SEAL" 0x900008 0 1 0 1 .always 19 0 0 0 0 0,
   mk "CA_PAGE_CTRL" 0x900010 0 1 0 1 .always 19 0x700 0 0 0x1 0,
   mk "CA_PAGE_STAT" 0x900014 0 1 0 1 .always 19 0 0 0 0 0,
   mk "CA_PAGE_SEQ" 0x900018 0 1 0 1 .always 19 0 0 0 0 0,
   mk "CA_CTRL" 0x901000 0x100 8 0 1 .slot 19 0x1 0 0 0x2 0,
   mk "CA_ASSAY" 0x901004 0x100 8 0 1 .slot 19 0 0 0 0 0,
   mk "CA_STATUS" 0x901008 0x100 8 0 1 .slot 19 0 0 0 0 0,
   mk "CA_FLAGS" 0x90100C 0x100 8 0 1 .slot 19 0 0 0x3f 0 0,
   mk "CA_CNT" 0x901010 0x100 8 0 1 .slot 19 0 0 0 0 0,
   mk "CA_SNAP_GEN" 0x901014 0x100 8 0 1 .slot 19 0 0 0 0 0,
   mk "CA_MTX" 0x901018 0x100 8 0x4 6 .slot 19 0 0 0 0 0,
   mk "CA_CH" 0x902000 0x20 96 0x4 6 .chan 19 0 0 0 0 0,
   mk "CA_SNAP_BUF" 0x910000 0x4 512 0 1 .always 19 0xffffffff 0 0 0 0]

/-- Registers of the block LE. -/
def regsLE : List RegDef :=
  [mk "LE_ERR" 0xA00000 0 1 0 1 .always 10 0 0 0 0 0,
   mk "LE_DLY_THR" 0xA00004 0 1 0 1 .always 10 0xffff 0 0 0 0x320,
   mk "LE_LOAD" 0xA00008 0 1 0 1 .always 10 0 0 0 0 0,
   mk "LE_CFG" 0xA01000 0x80 128 0 1 .always 10 0xfffffffe 0 0 0 0,
   mk "LE_DIM" 0xA01004 0x80 128 0 1 .always 10 0xf333ffff 0 0 0 0,
   mk "LE_CTRL" 0xA01008 0x80 128 0 1 .always 10 0 0 0 0xf 0,
   mk "LE_STATUS" 0xA0100C 0x80 128 0 1 .always 10 0 0 0 0 0,
   mk "LE_FLAGS" 0xA01010 0x80 128 0 1 .always 10 0 0 0x7ff 0 0,
   mk "LE_SP0" 0xA01014 0x80 128 0 1 .always 10 0xffffffff 0 0 0 0,
   mk "LE_SP1" 0xA01018 0x80 128 0 1 .always 10 0xffffffff 0 0 0 0,
   mk "LE_SP_MIN" 0xA0101C 0x80 128 0 1 .always 10 0xffffffff 0 0 0 0,
   mk "LE_SP_MAX" 0xA01020 0x80 128 0 1 .always 10 0xffffffff 0 0 0 0,
   mk "LE_SP_SLEW" 0xA01024 0x80 128 0 1 .always 10 0xffffffff 0 0 0 0,
   mk "LE_ULIM0" 0xA01028 0x80 128 0 1 .always 10 0xffffffff 0 0 0 0,
   mk "LE_ULIM1" 0xA0102C 0x80 128 0 1 .always 10 0xffffffff 0 0 0 0,
   mk "LE_USAFE" 0xA01030 0x80 128 0 1 .always 10 0xffffffff 0 0 0 0,
   mk "LE_RAMP" 0xA01034 0x80 128 0 1 .always 10 0xffff 0 0 0 0,
   mk "LE_RC" 0xA01038 0x80 128 0 1 .always 10 0xffff1fff 0 0 0 0,
   mk "LE_RC_BASE" 0xA0103C 0x80 128 0 1 .always 10 0xfffff 0 0 0 0,
   mk "LE_TRK" 0xA01040 0x80 128 0 1 .always 10 0xffffffff 0 0 0 0,
   mk "LE_TRK2" 0xA01044 0x80 128 0 1 .always 10 0xffffffff 0 0 0 0,
   mk "LE_LOCK" 0xA01048 0x80 128 0 1 .always 10 0xffffffff 0 0 0 0x40000000,
   mk "LE_TRK_LOCK" 0xA0104C 0x80 128 0 1 .always 10 0xffffff 0 0 0 0x10000,
   mk "LE_DRV" 0xA01050 0x80 128 0 1 .always 10 0xffffffff 0 0 0 0x40000000,
   mk "LE_SP_NOW0" 0xA01054 0x80 128 0 1 .always 10 0 0 0 0 0,
   mk "LE_SP_NOW1" 0xA01058 0x80 128 0 1 .always 10 0 0 0 0 0,
   mk "LE_DLY" 0xA0105C 0x80 128 0 1 .always 10 0 0 0 0 0,
   mk "LE_DLY_MEAN" 0xA01060 0x80 128 0 1 .always 10 0 0 0 0 0,
   mk "LE_CNT" 0xA01064 0x80 128 0 1 .always 10 0 0 0 0 0,
   mk "LE_COEF" 0xA10000 0x400 128 0x4 256 .always 10 0xffffffff 0 0 0 0]

/-- Registers of the block EP. -/
def regsEP : List RegDef :=
  [mk "EP_CTRL" 0xB00000 0x10000 8 0 1 .port 0 0 0 0 0x7 0,
   mk "EP_STATUS" 0xB00004 0x10000 8 0 1 .port 0 0 0 0 0 0,
   mk "EP_CAUSE" 0xB00008 0x10000 8 0 1 .port 0 0 0 0 0 0,
   mk "EP_SERIAL_LO" 0xB0000C 0x10000 8 0 1 .port 0 0 0 0 0 0,
   mk "EP_SERIAL_HI" 0xB00010 0x10000 8 0 1 .port 0 0 0 0 0 0,
   mk "EP_DESC_CRC" 0xB00014 0x10000 8 0 1 .port 0 0 0 0 0 0,
   mk "EP_DELAY" 0xB00018 0x10000 8 0 1 .port 0 0 0 0 0 0,
   mk "EP_LEAD" 0xB0001C 0x10000 8 0 1 .port 0 0 0 0 0 0,
   mk "EP_BIND_ID" 0xB00020 0x10000 8 0 1 .port 0 0 0 0 0 0,
   mk "EP_CNT_A" 0xB00024 0x10000 8 0 1 .port 0 0 0 0 0 0,
   mk "EP_CNT_B" 0xB00028 0x10000 8 0 1 .port 0 0 0 0 0 0,
   mk "EP_CNT_C" 0xB0002C 0x10000 8 0 1 .port 0 0 0 0 0 0,
   mk "EP_CNT_D" 0xB00030 0x10000 8 0 1 .port 0 0 0 0 0 0,
   mk "EP_CNT_E" 0xB00034 0x10000 8 0 1 .port 0 0 0 0 0 0,
   mk "EP_FLAGS" 0xB00038 0x10000 8 0 1 .port 0 0 0 0x3f 0 0,
   mk "EP_DESC" 0xB01000 0x10000 8 0x4 4096 .port 0 0 0 0 0 0]

/-- Registers of the block SB. -/
def regsSB : List RegDef :=
  [mk "SB_SYNC_FILT" 0xC00000 0 1 0 1 .always 6 0xff 0 0 0 0xa,
   mk "SB_IMU_CFG" 0xC00020 0 1 0 1 .always 6 0xe0ff3fff 0 0 0 0x3e8,
   mk "SB_IMU_XFER" 0xC00024 0 1 0 1 .always 6 0xff9fffff 0 0 0 0,
   mk "SB_IMU_TX0" 0xC00028 0 1 0 1 .always 6 0xffffffff 0 0 0 0,
   mk "SB_IMU_TX1" 0xC0002C 0 1 0 1 .always 6 0xffffffff 0 0 0 0,
   mk "SB_IMU_FMT" 0xC00030 0 1 0 1 .always 6 0xff1f1fcf 0 0 0 0,
   mk "SB_IMU_HOST" 0xC00034 0 1 0 1 .always 6 0xffffffff 0 0 0 0,
   mk "SB_IMU_NOW" 0xC00038 0 1 0 1 .always 6 0 0 0 0 0,
   mk "SB_IMU_CNT" 0xC0003C 0 1 0 1 .always 6 0 0 0 0 0,
   mk "SB_OBJ_CNT" 0xC00040 0 1 0 1 .always 6 0 0 0 0 0,
   mk "SB_SYNC_T" 0xC00060 0x4 8 0 1 .always 6 0 0 0 0 0,
   mk "SB_CAN_CFG" 0xC00080 0x10 2 0 1 .always 7 0xffffffff 0 0 0 0,
   mk "SB_CAN_NBT" 0xC00084 0x10 2 0 1 .always 7 0x1fffffff 0 0 0 0,
   mk "SB_CAN_DBT" 0xC00088 0x10 2 0 1 .always 7 0x1fffffff 0 0 0 0,
   mk "SB_CAN_STAT" 0xC0008C 0x10 2 0 1 .always 7 0 0 0 0 0,
   mk "SB_CAM_CFG" 0xC01000 0x100 4 0 1 .always 6 0xef3f3fff 0 0 0 0x64,
   mk "SB_CAM_SIZE" 0xC01004 0x100 4 0 1 .always 6 0xffffffff 0 0 0 0,
   mk "SB_CAM_RING" 0xC01008 0x100 4 0 1 .always 6 0x7fffff 0 0 0 0,
   mk "SB_CAM_DIRECT" 0xC0100C 0x100 4 0 1 .always 6 0xffff 0 0 0 0,
   mk "SB_CAM_EMB" 0xC01010 0x100 4 0 1 .always 6 0x8000ffff 0 0 0 0,
   mk "SB_CAM_STATUS" 0xC01014 0x100 4 0 1 .always 6 0 0 0 0 0,
   mk "SB_CAM_CNT_A" 0xC01018 0x100 4 0 1 .always 6 0 0 0 0 0,
   mk "SB_CAM_CNT_B" 0xC0101C 0x100 4 0 1 .always 6 0 0 0 0 0,
   mk "SB_SLOT_MAPX" 0xC02000 0x100 8 0 1 .slot 6 0xffffffff 0 0 0 0,
   mk "SB_SLOT_MAPY" 0xC02004 0x100 8 0 1 .slot 6 0xffffffff 0 0 0 0,
   mk "SB_SLOT_MASK" 0xC02008 0x100 8 0 1 .slot 6 0xffffffff 0 0 0 0xff000000,
   mk "SB_SLOT_TIME" 0xC0200C 0x100 8 0 1 .slot 6 0xffffffff 0 0 0 0,
   mk "SB_SLOT_POOL" 0xC02010 0x100 8 0 1 .slot 6 0xfff0fff 0 0 0 0,
   mk "SB_SLOT_CNT" 0xC02014 0x100 8 0 1 .slot 6 0 0 0 0 0]

/-- Registers of the block WN. -/
def regsWN : List RegDef :=
  [mk "WN_ERR" 0xD00000 0 1 0 1 .always 5 0 0 0x3 0 0,
   mk "WN_ERR_ADDR" 0xD00004 0 1 0 1 .always 5 0 0 0 0 0,
   mk "WN_CNT" 0xD00008 0 1 0 1 .always 5 0 0 0 0 0,
   mk "WN_EPOCH_HOST" 0xD00010 0 1 0 1 .always 5 0 0 0 0 0x1,
   mk "WN_EPOCH_DEV" 0xD00014 0 1 0 1 .always 5 0 0 0 0 0x1,
   mk "WN_EPOCH_ENG" 0xD00020 0x4 8 0 1 .always 5 0 0 0 0 0x1,
   mk "WN_EPOCH_SEN" 0xD00040 0x4 4 0 1 .always 5 0 0 0 0 0x1,
   mk "WN_EPOCH_OBJ" 0xD00050 0 1 0 1 .always 5 0 0 0 0 0x1,
   mk "WN_ALIVE" 0xD00060 0 1 0 1 .always 5 0xffff 0 0 0 0,
   mk "WN_ALIVE_KICK" 0xD00064 0 1 0 1 .always 5 0 0 0 0xffffffff 0,
   mk "WN_CAS_EXP" 0xD00100 0x10 16 0 1 .always 5 0xffffffff 0 0 0 0,
   mk "WN_CAS_NEW" 0xD00104 0x10 16 0 1 .always 5 0xffff0000 0 0 0 0,
   mk "WN_CAS_GO" 0xD00108 0x10 16 0 1 .always 5 0 0 0 0x7f0fff 0,
   mk "WN_CAS_RESULT" 0xD0010C 0x10 16 0 1 .always 5 0 0 0 0 0,
   mk "WN_TALLY" 0xD10000 0x4 4096 0 1 .always 5 0 0 0 0 0]

/-- Registers of the block CD. -/
def regsCD : List RegDef :=
  [mk "CD_CFG" 0xE00000 0 1 0 1 .always 11 0x3f3f 0 0 0 0x808,
   mk "CD_STATUS" 0xE00004 0 1 0 1 .always 11 0 0 0 0 0,
   mk "CD_JD" 0xE00010 0x4 12 0 1 .always 11 0xffffffff 0 0 0 0,
   mk "CD_SUBMIT" 0xE00040 0 1 0 1 .always 11 0 0 0 0x1 0,
   mk "CD_DONE" 0xE00050 0x4 8 0 1 .always 11 0 0 0 0 0,
   mk "CD_DONE_POP" 0xE00070 0 1 0 1 .always 11 0 0 0 0x1 0,
   mk "CD_ERR" 0xE00074 0 1 0 1 .always 11 0 0 0x7 0 0,
   mk "CD_CNT_A" 0xE00078 0 1 0 1 .always 11 0 0 0 0 0,
   mk "CD_CNT_B" 0xE0007C 0 1 0 1 .always 11 0 0 0 0 0]

/-- Registers of the block MC. -/
def regsMC : List RegDef :=
  [mk "MC_CTRL" 0xF00000 0 1 0 1 .always 3 0x1 0 0 0 0,
   mk "MC_STATUS" 0xF00004 0 1 0 1 .always 3 0 0 0x8 0 0,
   mk "MC_FREQ" 0xF00008 0 1 0 1 .always 3 0x3 0 0 0 0,
   mk "MC_MAPOUT" 0xF0000C 0 1 0 1 .always 3 0x1000f 0 0 0 0,
   mk "MC_TEMP" 0xF00010 0 1 0 1 .always 3 0 0 0 0 0,
   mk "MC_PAGE" 0xF00014 0 1 0 1 .always 3 0xffffff 0 0 0 0x100040,
   mk "MC_AGE" 0xF00018 0 1 0 1 .always 3 0xffff 0 0 0 0x14,
   mk "MC_SR" 0xF0001C 0 1 0 1 .always 3 0x8000ffff 0 0 0 0x64,
   mk "MC_TRACK" 0xF00020 0 1 0 1 .always 3 0xffff 0 0 0 0x64,
   mk "MC_LOAD" 0xF00024 0 1 0 1 .always 3 0 0 0 0 0,
   mk "MC_CNT_A" 0xF00028 0 1 0 1 .always 3 0 0 0 0 0,
   mk "MC_CNT_B" 0xF0002C 0 1 0 1 .always 3 0 0 0 0 0,
   mk "MC_BYTES" 0xF00030 0x4 4 0 1 .always 3 0 0 0 0 0,
   mk "MC_ERR" 0xF00040 0x4 16 0 1 .always 3 0 0 0 0 0,
   mk "MC_TR_SEL" 0xF10000 0 1 0 1 .always 3 0x30f 0 0 0 0,
   mk "MC_PG_CTRL" 0xF10004 0 1 0 1 .always 3 0x730ffff 0 0 0x80000000 0,
   mk "MC_PG_SEED" 0xF10008 0 1 0 1 .always 3 0xffffffff 0 0 0 0,
   mk "MC_PG_ADDR" 0xF1000C 0 1 0 1 .always 3 0x1fffff0 0 0 0 0,
   mk "MC_CMP_STAT" 0xF10010 0 1 0 1 .always 3 0 0 0 0 0,
   mk "MC_CMP_BITS" 0xF10014 0x4 2 0 1 .always 3 0 0 0 0 0,
   mk "MC_DLY_RD" 0xF10040 0x4 8 0 1 .always 3 0x7f01ff 0 0 0 0,
   mk "MC_DLY_WR" 0xF10060 0x4 8 0 1 .always 3 0x7f01ff 0 0 0 0,
   mk "MC_DLY_CA" 0xF10080 0 1 0 1 .always 3 0x7f01ff 0 0 0 0]

/-- Registers of the block TH. -/
def regsTH : List RegDef :=
  [mk "TH_PKG" 0x1000000 0 1 0 1 .always 1 0 0 0 0 0,
   mk "TH_PKG_CTRL" 0x1000004 0 1 0 1 .always 1 0xf 0 0 0 0,
   mk "TH_THR" 0x1000008 0 1 0 1 .always 1 0xffff 0 0 0 0x6978,
   mk "TH_BOUND" 0x100000C 0 1 0 1 .always 1 0xff00ffff 0 0 0 0x28000100,
   mk "TH_FLAGS" 0x1000010 0 1 0 1 .always 1 0 0 0x1f 0 0,
   mk "TH_PIN" 0x1000014 0 1 0 1 .always 1 0 0 0 0 0,
   mk "TH_TB" 0x1000018 0 1 0 1 .always 1 0 0 0 0 0,
   mk "TH_POWER" 0x100001C 0 1 0 1 .always 1 0 0 0 0 0,
   mk "TH_DIODE" 0x1000040 0x4 16 0 1 .always 1 0 0 0 0 0,
   mk "TH_S16" 0x1000080 0 1 0 1 .always 1 0 0 0 0 0,
   mk "TH_DOM" 0x1000100 0x4 20 0 1 .always 1 0 0 0 0 0,
   mk "TH_LS_STEP" 0x1001000 0x100 8 0 1 .slot 1 0xf00 0 0 0 0,
   mk "TH_LS_MARGIN" 0x1001004 0x100 8 0 1 .slot 1 0xff 0 0 0 0xa,
   mk "TH_CH_TJ" 0x1002000 0x10 96 0 1 .chan 1 0 0 0 0 0,
   mk "TH_CH_POWER" 0x1002004 0x10 96 0 1 .chan 1 0 0 0 0 0,
   mk "TH_NODE" 0x1003000 0x4 48 0 1 .always 1 0 0 0 0 0]

/-- Registers of the block PM. -/
def regsPM : List RegDef :=
  [mk "PM_PHASE_MAP" 0x1100000 0x4 4 0 1 .always 1 0 0x1f1f1f1f 0 0 0,
   mk "PM_CORE" 0x1100010 0 1 0 1 .always 1 0x100 0 0 0 0,
   mk "PM_PWM" 0x1100014 0 1 0 1 .always 1 0 0xffff 0 0 0x320,
   mk "PM_GRP" 0x1100018 0 1 0 1 .always 1 0 0 0 0 0x1,
   mk "PM_PH_LIM" 0x1100040 0x4 16 0 1 .always 1 0 0xff 0 0 0x3c,
   mk "PM_PH_I" 0x1100080 0x4 16 0 1 .always 1 0 0 0 0 0]

/-- Registers of the block FR. -/
def regsFR : List RegDef :=
  [mk "FR_LOG_STAT" 0x1200000 0 1 0 1 .always 0 0 0 0 0 0,
   mk "FR_LOG_CLR" 0x1200004 0 1 0 1 .always 0 0 0 0 0xff000001 0,
   mk "FR_FAULT" 0x1200008 0 1 0 1 .always 0 0 0 0x1fc 0 0,
   mk "FR_PIN" 0x120000C 0 1 0 1 .always 0 0 0 0 0 0,
   mk "FR_HALT" 0x1200010 0 1 0 1 .always 0 0x100 0 0 0xff000000 0,
   mk "FR_CONTAIN" 0x1200014 0 1 0 1 .always 0 0 0 0 0 0,
   mk "FR_RELEASE" 0x1200018 0 1 0 1 .always 0 0 0 0 0xff 0,
   mk "FR_GRACE" 0x120001C 0 1 0 1 .always 0 0 0 0 0 0,
   mk "FR_SEIZE" 0x1200020 0 1 0 1 .always 0 0 0 0 0xff0f0fff 0,
   mk "FR_SEIZE_STAT" 0x1200024 0 1 0 1 .always 0 0 0 0 0 0,
   mk "FR_LOG" 0x1201000 0x10 64 0x4 4 .always 0 0 0 0 0 0]

/-- Registers of the block MB. -/
def regsMB : List RegDef :=
  [mk "MB_DOORBELL" 0x1300000 0 1 0 1 .always 2 0 0 0 0xffff 0,
   mk "MB_STATUS" 0x1300004 0 1 0 1 .always 2 0 0 0x2 0 0]

/-- Every register of BAR0 but the pitch store. -/
def regTable : List RegDef :=
  regsGEN ++ regsCST ++ regsTF ++ regsPX ++ regsHL ++ regsSO ++ regsSL ++ regsLB ++ regsLC ++ regsPMLS ++ regsCA ++ regsLE ++ regsEP ++ regsSB ++ regsWN ++ regsCD ++ regsMC ++ regsTH ++ regsPM ++ regsFR ++ regsMB

/-- The index of a register of the row that lies at an offset, if one does. -/
def RegDef.index? (d : RegDef) (off : Nat) : Option Nat :=
  if off < d.base then none
  else
    let o := off - d.base
    let i := if d.stride = 0 then 0 else o / d.stride
    let w := if d.stride = 0 then o else o % d.stride
    let inner := if d.st2 = 0 then decide (w = 0) else decide (w % d.st2 = 0 ∧ w / d.st2 < d.n2)
    if i < d.count ∧ inner then some i else none

/-- The row and index of the register at a BAR0 offset. -/
def regFind (off : Nat) : Option (RegDef × Nat) :=
  regTable.findSome? fun d => (d.index? off).map fun i => (d, i)

/-- The offsets of a row. -/
def RegDef.offsets (d : RegDef) : List Nat :=
  (List.range d.count).flatMap fun i => (List.range d.n2).map fun w => d.base + i * d.stride + w * d.st2

/-- The offsets of one instance of a row. -/
def RegDef.offsetsAt (d : RegDef) (i : Nat) : List Nat := (List.range d.n2).map fun w => d.base + i * d.stride + w * d.st2

end Sys2Proof.Machine
end

