-- ==== Sys2Proof/Machine/Regs.lean ====
section
/-! DEFINITION. The BAR0 offsets of the registers (R12 and the register tables of every chapter), by the names the spec
gives them. n is a slot, p a port, c a camera, l a loop, k a channel, i an entry or word index. -/

set_option Elab.async false

namespace Sys2Proof.Machine.Reg

/-! ## GEN (R3, R358, R456) -/
def genId : Nat := 0x0
def genStateReq : Nat := 0x10
def genState : Nat := 0x14
def genDim : Nat := 0x18
def genReset : Nat := 0x20
def genResetCause : Nat := 0x24
def genWdog : Nat := 0x28
def genWdogKick : Nat := 0x2C
def genDip : Nat := 0x30
def genDipCnt : Nat := 0x34
def genWake : Nat := 0x38
def genRail (r : Nat) : Nat := 0x40 + 4 * r
def msixTable : Nat := 0xF0000
def msixPba : Nat := 0xF8000

/-! ## CST (R58) -/
def cstCtrl : Nat := 0x100000
def cstSrc : Nat := 0x100004
def cstStatus : Nat := 0x100008
def cstGen : Nat := 0x10000C
def cstPendGen : Nat := 0x100010
def cstErr : Nat := 0x100014
def cstErrField : Nat := 0x100018
def cstSlotGen (n : Nat) : Nat := 0x100020 + 4 * n
def cstRecastMs : Nat := 0x100040

/-! ## TF (R90) -/
def tfLinkLo : Nat := 0x200000
def tfLinkHi : Nat := 0x200004
def tf (n : Nat) : Nat := 0x201000 + 0x100 * n
def tfCtrl (n : Nat) : Nat := tf n
def tfState (n : Nat) : Nat := tf n + 0x04
def tfPhaseNow (n : Nat) : Nat := tf n + 0x08
def tfRate (n : Nat) : Nat := tf n + 0x0C
def tfSyncWin (n : Nat) : Nat := tf n + 0x10
def tfTrim (n : Nat) : Nat := tf n + 0x14
def tfHorizon (n : Nat) : Nat := tf n + 0x18
def tfSlew (n : Nat) : Nat := tf n + 0x1C
def tfJump (n : Nat) : Nat := tf n + 0x20
def tfCntA (n : Nat) : Nat := tf n + 0x24
def tfCntB (n : Nat) : Nat := tf n + 0x28
def tfFlags (n : Nat) : Nat := tf n + 0x2C
def tfLvlGain (n : Nat) : Nat := tf n + 0x40
def tfLvlLim (n : Nat) : Nat := tf n + 0x44
def tfLvlNow (n : Nat) : Nat := tf n + 0x48

/-! ## PX (R91, R124): the pitch store and the per-slot registers in the block of composer c. -/
def pitch (p w : Nat) : Nat := 0x310000 + 64 * p + 4 * w
def px (c n : Nat) : Nat := 0x301000 + 0x40000 * c + 0x100 * n

/-! ## HL (R144) -/
def hlSportCnt : Nat := 0x400000
def hlSportStat : Nat := 0x400004
def hlStatus (n : Nat) : Nat := 0x401000 + 0x100 * n
def hlSigAct (n : Nat) : Nat := hlStatus n + 0x4
def hlSigExp (n : Nat) : Nat := hlStatus n + 0x8
def hlFrame (n : Nat) : Nat := hlStatus n + 0xC

/-! ## SO (R165) -/
def so (n : Nat) : Nat := 0x501000 + 0x100 * n
def soCtrl (n : Nat) : Nat := so n
def soStatus (n : Nat) : Nat := so n + 0x04
def soFlags (n : Nat) : Nat := so n + 0x08
def soLatch (n : Nat) : Nat := so n + 0x0C
def soDefer (n : Nat) : Nat := so n + 0x10
def soCntA (n : Nat) : Nat := so n + 0x14
def soCntB (n : Nat) : Nat := so n + 0x18
def soCntC (n : Nat) : Nat := so n + 0x1C
def soFreeze (n : Nat) : Nat := so n + 0x20
def soFsig (n : Nat) : Nat := so n + 0x24
def soWb (n : Nat) : Nat := so n + 0x28
def soWbFrame (n : Nat) : Nat := so n + 0x2C
def soHall (n : Nat) : Nat := so n + 0x30

/-! ## SL (R191) -/
def sl (n : Nat) : Nat := 0x601000 + 0x100 * n
def slCtrl (n : Nat) : Nat := sl n
def slStatus (n : Nat) : Nat := sl n + 0x04
def slSeq (n q : Nat) : Nat := sl n + 0x08 + 4 * q
def slLoad (n : Nat) : Nat := sl n + 0x18
def slSettle (n : Nat) : Nat := sl n + 0x1C
def slMargin (n : Nat) : Nat := sl n + 0x20
def slDither (n : Nat) : Nat := sl n + 0x24
def slFlags (n : Nat) : Nat := sl n + 0x28
def slCntA (n : Nat) : Nat := sl n + 0x2C
def slCntB (n : Nat) : Nat := sl n + 0x30
def slCntC (n : Nat) : Nat := sl n + 0x34
def slRead (n : Nat) : Nat := sl n + 0x38
def slWerr (n : Nat) : Nat := sl n + 0x3C

/-! ## LB (R210, R225) -/
def lb (n : Nat) : Nat := 0x701000 + 0x100 * n
def lbCtrl (n : Nat) : Nat := lb n
def lbTraj (n : Nat) : Nat := lb n + 0x04
def lbAmp (n : Nat) : Nat := lb n + 0x08
def lbFrate (n : Nat) : Nat := lb n + 0x0C
def lbPeak (n : Nat) : Nat := lb n + 0x10
def lbFlags (n : Nat) : Nat := lb n + 0x14
def lbCntA (n : Nat) : Nat := lb n + 0x18
def lbMade (n : Nat) : Nat := lb n + 0x40
def lbStruck (n : Nat) : Nat := lb n + 0x44
def lbDisc (n : Nat) : Nat := lb n + 0x48
def lbBlank (n : Nat) : Nat := lb n + 0x4C
def lbIdle (n : Nat) : Nat := lb n + 0x50
def lbLook (n : Nat) : Nat := lb n + 0x54
def lbStrike (n : Nat) : Nat := lb n + 0x58
def lbStrikePt (n : Nat) : Nat := lb n + 0x5C
def lbErrLast (n : Nat) : Nat := lb n + 0x60
def lbErrMax (n : Nat) : Nat := lb n + 0x64
def lbTrialFlags (n : Nat) : Nat := lb n + 0x68
def lbProbeSel (n : Nat) : Nat := lb n + 0x6C
def lbProbeData (n : Nat) : Nat := lb n + 0x70
def lbProbeTs (n : Nat) : Nat := lb n + 0x74
def lbProbeErr (n : Nat) : Nat := lb n + 0x78
def lbProbeDesc (n i : Nat) : Nat := lb n + 0x80 + 4 * i

/-! ## LC (R246), laser supplies (R247) -/
def lcLenCtrl : Nat := 0x800000
def lcLenStat : Nat := 0x800004
def lcLenCause (p : Nat) : Nat := 0x800020 + 4 * p
def lc (k : Nat) : Nat := 0x801000 + 0x20 * k
def lcCfg (k : Nat) : Nat := lc k
def lcCeil (k : Nat) : Nat := lc k + 0x04
def lcLevel (k : Nat) : Nat := lc k + 0x08
def lcDrive (k : Nat) : Nat := lc k + 0x0C
def lcFlags (k : Nat) : Nat := lc k + 0x10
def lcCnt (k : Nat) : Nat := lc k + 0x14
def lcMap (k i : Nat) : Nat := 0x810000 + 0x200 * k + 4 * i
def ls (n : Nat) : Nat := 0x1110000 + 0x100 * n
def lsSet (n : Nat) : Nat := ls n
def lsMeas (n : Nat) : Nat := ls n + 0x04
def lsSlew (n : Nat) : Nat := ls n + 0x08
def lsHyst (n : Nat) : Nat := ls n + 0x0C
def lsFlags (n : Nat) : Nat := ls n + 0x10
def lsDemand (n : Nat) : Nat := ls n + 0x14

/-! ## CA (R274) -/
def caSnapCtrl : Nat := 0x900000
def caSnapStat : Nat := 0x900004
def caSnapSeal : Nat := 0x900008
def caPageCtrl : Nat := 0x900010
def caPageStat : Nat := 0x900014
def caPageSeq : Nat := 0x900018
def ca (n : Nat) : Nat := 0x901000 + 0x100 * n
def caCtrl (n : Nat) : Nat := ca n
def caAssay (n : Nat) : Nat := ca n + 0x04
def caStatus (n : Nat) : Nat := ca n + 0x08
def caFlags (n : Nat) : Nat := ca n + 0x0C
def caCnt (n : Nat) : Nat := ca n + 0x10
def caSnapGen (n : Nat) : Nat := ca n + 0x14
def caMtx (n i : Nat) : Nat := ca n + 0x18 + 4 * i
def caCh (k : Nat) : Nat := 0x902000 + 0x20 * k
def snapBuf (w : Nat) : Nat := 0x910000 + 4 * w

/-! ## LE (R299, R300) -/
def leErr : Nat := 0xA00000
def leDlyThr : Nat := 0xA00004
def leLoad : Nat := 0xA00008
def le (l : Nat) : Nat := 0xA01000 + 0x80 * l
def leCfg (l : Nat) : Nat := le l
def leDim (l : Nat) : Nat := le l + 0x04
def leCtrl (l : Nat) : Nat := le l + 0x08
def leStatus (l : Nat) : Nat := le l + 0x0C
def leFlags (l : Nat) : Nat := le l + 0x10
def leSp0 (l : Nat) : Nat := le l + 0x14
def leSp1 (l : Nat) : Nat := le l + 0x18
def leSpMin (l : Nat) : Nat := le l + 0x1C
def leSpMax (l : Nat) : Nat := le l + 0x20
def leSpSlew (l : Nat) : Nat := le l + 0x24
def leUlim (l j : Nat) : Nat := le l + 0x28 + 4 * j
def leUsafe (l : Nat) : Nat := le l + 0x30
def leRamp (l : Nat) : Nat := le l + 0x34
def leRc (l : Nat) : Nat := le l + 0x38
def leRcBase (l : Nat) : Nat := le l + 0x3C
def leTrk (l : Nat) : Nat := le l + 0x40
def leTrk2 (l : Nat) : Nat := le l + 0x44
def leLock (l : Nat) : Nat := le l + 0x48
def leTrkLock (l : Nat) : Nat := le l + 0x4C
def leDrv (l : Nat) : Nat := le l + 0x50
def leSpNow (l j : Nat) : Nat := le l + 0x54 + 4 * j
def leDly (l : Nat) : Nat := le l + 0x5C
def leDlyMean (l : Nat) : Nat := le l + 0x60
def leCnt (l : Nat) : Nat := le l + 0x64
def leCoef (l w : Nat) : Nat := 0xA10000 + 0x400 * l + 4 * w

/-! ## EP (R334) -/
def ep (p : Nat) : Nat := 0xB00000 + 0x10000 * p
def epCtrl (p : Nat) : Nat := ep p
def epStatus (p : Nat) : Nat := ep p + 0x04
def epCause (p : Nat) : Nat := ep p + 0x08
def epSerialLo (p : Nat) : Nat := ep p + 0x0C
def epSerialHi (p : Nat) : Nat := ep p + 0x10
def epDescCrc (p : Nat) : Nat := ep p + 0x14
def epDelay (p : Nat) : Nat := ep p + 0x18
def epLead (p : Nat) : Nat := ep p + 0x1C
def epBindId (p : Nat) : Nat := ep p + 0x20
def epCntA (p : Nat) : Nat := ep p + 0x24
def epCntB (p : Nat) : Nat := ep p + 0x28
def epCntC (p : Nat) : Nat := ep p + 0x2C
def epCntD (p : Nat) : Nat := ep p + 0x30
def epCntE (p : Nat) : Nat := ep p + 0x34
def epFlags (p : Nat) : Nat := ep p + 0x38
def epDesc (p w : Nat) : Nat := ep p + 0x1000 + 4 * w

/-! ## SB (R354) -/
def sb : Nat := 0xC00000
def sbSyncFilt : Nat := sb
def sbImuCfg : Nat := sb + 0x20
def sbImuXfer : Nat := sb + 0x24
def sbImuTx (i : Nat) : Nat := sb + 0x28 + 4 * i
def sbImuFmt : Nat := sb + 0x30
def sbImuHost : Nat := sb + 0x34
def sbImuNow : Nat := sb + 0x38
def sbImuCnt : Nat := sb + 0x3C
def sbObjCnt : Nat := sb + 0x40
def sbSyncT (m : Nat) (falling : Bool) : Nat := sb + 0x60 + 8 * m + (if falling then 4 else 0)
def sbCan (b : Nat) : Nat := sb + 0x80 + 0x10 * b
def sbCanStat (b : Nat) : Nat := sbCan b + 0xC
def sbCam (c : Nat) : Nat := sb + 0x1000 + 0x100 * c
def sbCamCfg (c : Nat) : Nat := sbCam c
def sbCamSize (c : Nat) : Nat := sbCam c + 0x04
def sbCamRing (c : Nat) : Nat := sbCam c + 0x08
def sbCamDirect (c : Nat) : Nat := sbCam c + 0x0C
def sbCamEmb (c : Nat) : Nat := sbCam c + 0x10
def sbCamStatus (c : Nat) : Nat := sbCam c + 0x14
def sbCamCntA (c : Nat) : Nat := sbCam c + 0x18
def sbCamCntB (c : Nat) : Nat := sbCam c + 0x1C
def sbSlot (n : Nat) : Nat := sb + 0x2000 + 0x100 * n

/-! ## WN (R373) -/
def wnErr : Nat := 0xD00000
def wnErrAddr : Nat := 0xD00004
def wnCnt : Nat := 0xD00008
def wnEpochHost : Nat := 0xD00010
def wnEpochDev : Nat := 0xD00014
def wnEpochEng (p : Nat) : Nat := 0xD00020 + 4 * p
def wnEpochSen (c : Nat) : Nat := 0xD00040 + 4 * c
def wnEpochObj : Nat := 0xD00050
def wnAlive : Nat := 0xD00060
def wnAliveKick : Nat := 0xD00064
def wnCas (k : Nat) : Nat := 0xD00100 + 0x10 * k
def wnTally (b : Nat) : Nat := 0xD10000 + 4 * b

/-! ## CD (R394) -/
def cdCfg : Nat := 0xE00000
def cdStatus : Nat := 0xE00004
def cdJd (i : Nat) : Nat := 0xE00010 + 4 * i
def cdSubmit : Nat := 0xE00040
def cdDone (i : Nat) : Nat := 0xE00050 + 4 * i
def cdDonePop : Nat := 0xE00070
def cdErr : Nat := 0xE00074
def cdCntA : Nat := 0xE00078
def cdCntB : Nat := 0xE0007C

/-! ## MC (R417, R418) -/
def mcCtrl : Nat := 0xF00000
def mcStatus : Nat := 0xF00004
def mcFreq : Nat := 0xF00008
def mcMapout : Nat := 0xF0000C
def mcTemp : Nat := 0xF00010
def mcPage : Nat := 0xF00014
def mcAge : Nat := 0xF00018
def mcSr : Nat := 0xF0001C
def mcTrack : Nat := 0xF00020
def mcLoad : Nat := 0xF00024
def mcCntA : Nat := 0xF00028
def mcCntB : Nat := 0xF0002C
def mcBytes (c : Nat) : Nat := 0xF00030 + 4 * c
def mcErr (n : Nat) : Nat := 0xF00040 + 4 * n
def mcTrSel : Nat := 0xF10000
def mcPgCtrl : Nat := 0xF10004
def mcPgSeed : Nat := 0xF10008
def mcPgAddr : Nat := 0xF1000C
def mcCmpStat : Nat := 0xF10010
def mcCmpBits0 : Nat := 0xF10014
def mcCmpBits1 : Nat := 0xF10018
def mcDlyRd (b : Nat) : Nat := 0xF10040 + 4 * b
def mcDlyWr (b : Nat) : Nat := 0xF10060 + 4 * b
def mcDlyCa : Nat := 0xF10080

/-! ## TH (R433) -/
def thPkg : Nat := 0x1000000
def thPkgCtrl : Nat := 0x1000004
def thThr : Nat := 0x1000008
def thBound : Nat := 0x100000C
def thFlags : Nat := 0x1000010
def thPin : Nat := 0x1000014
def thTb : Nat := 0x1000018
def thPower : Nat := 0x100001C
def thDiode (i : Nat) : Nat := 0x1000040 + 4 * i
def thS16 : Nat := 0x1000080
def thDom (d : Nat) : Nat := 0x1000100 + 4 * d
def thLsStep (n : Nat) : Nat := 0x1001000 + 0x100 * n
def thLsMargin (n : Nat) : Nat := thLsStep n + 4
def thChTj (k : Nat) : Nat := 0x1002000 + 0x10 * k
def thChPower (k : Nat) : Nat := thChTj k + 4
def thNode (i : Nat) : Nat := 0x1003000 + 4 * i

/-! ## PM rails (R457) -/
def pmPhaseMap (m : Nat) : Nat := 0x1100000 + 4 * m
def pmCore : Nat := 0x1100010
def pmPwm : Nat := 0x1100014
def pmGrp : Nat := 0x1100018
def pmPhLim (p : Nat) : Nat := 0x1100040 + 4 * p
def pmPhI (p : Nat) : Nat := 0x1100080 + 4 * p

/-! ## FR (R474) -/
def frLogStat : Nat := 0x1200000
def frLogClr : Nat := 0x1200004
def frFault : Nat := 0x1200008
def frPin : Nat := 0x120000C
def frHalt : Nat := 0x1200010
def frContain : Nat := 0x1200014
def frRelease : Nat := 0x1200018
def frGrace : Nat := 0x120001C
def frSeize : Nat := 0x1200020
def frSeizeStat : Nat := 0x1200024
def frLog (i w : Nat) : Nat := 0x1201000 + 0x10 * i + 4 * w

/-! ## MB (R374) -/
def mbDoorbell : Nat := 0x1300000
def mbStatus : Nat := 0x1300004

end Sys2Proof.Machine.Reg
end

