-- ==== Sys2Proof/Machine/SensorTypes.lean ====
section
/-! DEFINITION. The state of the sensor bridge that no register shows whole (R335 to R352): frames being received, the
direct buffers, object lists being assembled, the object table, and the inertial measurement unit. -/

set_option Elab.async false

namespace Sys2Proof.Machine

/-- A camera receiver. Its state is SB_CAMc_STATUS.STATE (R337). -/
structure CamState where
  /-- a frame is being received, with its number and time from FS -/
  open_ : Bool
  num : BitVec 16
  tFs : BitVec 64
  /-- first block of the window ring slot the frame is written to, and the ring slot to use next (R338) -/
  win : Option Nat
  /-- epoch of the camera at FS, which its accesses to the window carry (R361) -/
  winEpoch : Nat
  ring : Nat
  /-- embedded and image lines as received, oldest first -/
  emb : List (List Byte)
  lines : List (List Byte)
  /-- image lines beyond HEIGHT -/
  extra : Nat
  crcErr : Bool
  eccFix : Bool
  /-- a line is not of the configured length, or out of order -/
  bad : Bool
  /-- count of the camera's frames (R339) -/
  seq : Word
  /-- direct buffer the frame is written to (R342) -/
  buf : Option Nat
  /-- newest complete buffer since the camera last entered WAIT -/
  newest : Option Nat
  /-- the run of non-conforming frames has been logged -/
  run : Bool
  deriving DecidableEq, Repr

/-- A CAN FD object list being assembled (R344): bytes so far, next frame index, and times of frame 0 and of the last frame. -/
structure CanAsm where
  bytes : List Byte
  next : Nat
  t0 : BitVec 64
  last : BitVec 64
  deriving DecidableEq, Repr

/-- An object (R345, R346): source and ID, record fields, T0, routing, and the pitch it holds in each slot. -/
structure ObjEnt where
  src : Nat
  id : Nat
  slots : Nat
  az : Int
  el : Int
  haz : Nat
  hel : Nat
  vaz : Int
  vel : Int
  t0 : BitVec 64
  pitches : List (Nat × Nat)
  deriving DecidableEq, Repr

/-- The sensor bridge. -/
structure BridgeState where
  cams : Vector CamState 4
  cans : Vector (Option CanAsm) 2
  objs : List ObjEnt
  /-- SEQ of the last accepted list of a source -/
  seqs : List (Nat × Nat)
  /-- newest levelling-angle sample (R86): angle in mdeg and link time -/
  angle : Option (Int × BitVec 64)
  /-- filter value f of R349 in units of 2^-16 mdeg -/
  filt : Option Int
  /-- consecutive rejections of R349 -/
  rejects : Nat
  /-- end of the last transaction of the inertial measurement unit (R348) -/
  imuEnd : Option (BitVec 64)
  deriving DecidableEq, Repr

/-- A receiver with nothing received. -/
def CamState.init : CamState :=
  { open_ := false, num := 0, tFs := 0, win := none, winEpoch := 0, ring := 0, emb := [], lines := [], extra := 0, crcErr := false,
    eccFix := false, bad := false, seq := 0, buf := none, newest := none, run := false }

/-- The bridge after reset. -/
def BridgeState.init : BridgeState :=
  { cams := Vector.replicate 4 CamState.init, cans := Vector.replicate 2 none, objs := [], seqs := [], angle := none,
    filt := none, rejects := 0, imuEnd := none }

end Sys2Proof.Machine
end

