-- ==== Sys2Proof/Machine/CalTypes.lean ====
section
/-! DEFINITION. The state of the calibration block (R248 to R273) that no register shows whole: the model of each channel,
its eased maps, the observations and estimators of a slot, and a page store under way. -/

set_option Elab.async false

namespace Sys2Proof.Machine

/-- A level map that moves toward a target (R262): 65 points each. -/
structure EasedMap where
  v : List Nat
  target : List Nat
  deriving DecidableEq, Repr

/-- What calibration holds for one light channel (R248, R259, R262): the model values a, b, c in force as binary32 words,
sigma in 0.01 %, the maps for the Run, throttled and Dim ceilings, and the easing count n. -/
structure ChanCal where
  /-- the channel is calibrated: CHMP FLAGS bit 1, and not excluded by R250 -/
  on : Bool
  /-- the model in force is the factory curve itself (R273) -/
  fac : Bool
  a : Word
  b : Word
  c : Word
  sigma : Nat
  run : EasedMap
  step : EasedMap
  dim : EasedMap
  n : Nat
  deriving DecidableEq, Repr

/-- The estimator of one photodiode (R255): engine channels it serves, theta, cov and resvar in binary32. -/
structure Estim where
  pd : Nat
  chans : List Nat
  theta : List Word
  cov : List (List Word)
  resvar : Word
  deriving DecidableEq, Repr

/-- What the sense returns of one frame have brought (R253, R254): per photodiode the sum of MEAN times duration, the
duration in periods, per engine channel the integrals of current, lit time and squared current as issued, in u16 of
maximum current and sixteenths, and the marks that drop the live row. -/
structure RowAcc where
  p : List (Nat × Nat)
  t : Nat
  xs : List (Nat × Nat × Nat × Nat)
  lost : Bool
  sat : Bool
  blanked : Bool
  dark : Bool
  deriving DecidableEq, Repr

/-- A calibration gap in sixteenths, and what the sense intervals that lie wholly inside it have brought (R253). -/
structure Gap where
  start : Nat
  stop : Option Nat
  p : List (Nat × Nat)
  t : Nat
  deriving DecidableEq, Repr

/-- What calibration holds for one slot. -/
structure SlotCal where
  est : List Estim
  /-- Gram entries 11, 10, 12, 00, 02, 22 per engine channel (R257) -/
  gram : List (Nat × List Word)
  /-- observations of the frame under way and of the frame before it -/
  acc : RowAcc
  prev : RowAcc
  gaps : List Gap
  /-- the start of the gap under way was lost (R254) -/
  gapLost : Bool
  /-- link time in sixteenths at which the frame before the one under way ended -/
  cut : Nat
  mtx : List Int
  mtxTarget : List Int
  n : Nat
  /-- pitch of the job in force, and frames since the boundary at which it became active -/
  job : Option Nat
  frames : Nat
  /-- live rows since the estimator started, and frames since the last accepted one (R265) -/
  rows : Nat
  noRow : Nat
  /-- R258 holds -/
  starved : Bool
  /-- the host has written a job pitch since the last boundary (R252) -/
  wrote : Bool
  /-- a restored image, or the factory values after a refused one, waits for the boundary (R270) -/
  restore : Option (List Word)
  refused : Bool
  /-- a TAKE waits for the boundary (R269) -/
  take : Bool
  /-- serial of the engine whose calibration is held (R332) -/
  held : Option (BitVec 64)
  /-- the estimators have been kept over Doze, and go on at the next binding of the held engine (R267) -/
  dozed : Bool
  /-- REF_LUM, WHITE_U and WHITE_V as the last target formation took them (R252) -/
  aim : Nat × Nat × Nat
  deriving DecidableEq, Repr

/-- A field-page store under way (R272): its slot, the page written, the image, and how far it has come. -/
inductive StoreStep where
  | waitBoundary
  | writing
  | reading
  | checked (ok : Bool)
  deriving DecidableEq, Repr

/-- The page store under way. -/
structure PageStore where
  slot : Nat
  page : Nat
  image : List Byte
  at_ : StoreStep
  deriving DecidableEq, Repr

/-- A map of zeros. -/
def EasedMap.init : EasedMap := { v := List.replicate 65 0, target := List.replicate 65 0 }

/-- A channel no engine has been bound to. -/
def ChanCal.init : ChanCal :=
  { on := false, fac := false, a := 0, b := 0, c := 0, sigma := 0, run := EasedMap.init, step := EasedMap.init, dim := EasedMap.init,
    n := 1 }

/-- A frame without observations. -/
def RowAcc.init : RowAcc := { p := [], t := 0, xs := [], lost := false, sat := false, blanked := false, dark := false }

/-- A slot without calibration. -/
def SlotCal.init : SlotCal :=
  { est := [], gram := [], acc := RowAcc.init, prev := RowAcc.init, gaps := [], gapLost := false, cut := 0,
    mtx := List.replicate 9 0, mtxTarget := List.replicate 9 0, n := 1, job := none, frames := 0, rows := 0, noRow := 0,
    starved := false, wrote := false, restore := none, refused := false, take := false, held := none, dozed := false
    aim := (3686, 12963, 30690) }

end Sys2Proof.Machine
end

