-- ==== Sys2Proof/Machine/SlotTypes.lean ====
section
/-! DEFINITION. The internal state of a slot that no register shows whole: the reckoner (R60 to R85), the event lanes
(R73 to R76), the commit and raster state (R145 to R163), table swaps (R176 to R180), the Hallmark scene and signature
ring (R125 to R136), the trial queue (R211 to R225) and the supply set-point (R240 to R245). -/

set_option Elab.async false

namespace Sys2Proof.Machine

/-- A measured point that takes effect at the next reckon step (R69). -/
structure MeasPoint where
  phi : PhaseWord
  t : LinkTime
  omega : BitVec 40
  beta : BitVec 64
  deriving DecidableEq, Repr

/-- The reckoner states of R72. -/
inductive ReckState where
  | idle
  | acquire
  | locked
  | slewing
  | freeRun
  | hold
  deriving DecidableEq, Repr

/-- The reckoner of a slot (R60, R68, R72) with the bookkeeping of its source (R62 to R66, R81 to R84). Phases are 56-bit
words, omega is unsigned 8.32, beta signed in 2^-48. -/
structure Reckoner where
  st : ReckState
  phiM : PhaseWord
  tM : LinkTime
  omega : BitVec 40
  beta : BitVec 64
  phiHeld : PhaseWord
  next : Option MeasPoint
  /-- link time of entry into ACQUIRE -/
  tAcq : LinkTime
  /-- index k of the next expected SYNC edge (R63) -/
  k : Nat
  /-- projected phase of the next expected edge (R63) -/
  expected : PhaseWord
  lastEdge : Option LinkTime
  /-- edges missed since the last accepted one, and the consecutive misses of R82 -/
  missed : Nat
  consec : Nat
  /-- edge intervals as numerator over denominator, newest first (R64, R65) -/
  ivals : List (Nat × Nat)
  realign : Bool
  /-- candidate edges in FREE_RUN, newest first (R83) -/
  cands : List LinkTime
  /-- phase error not yet absorbed, pu (R83) -/
  slewErr : Int
  /-- pu by which the frame under way ends early, and that frame's cycle (R83); whether the whole error waits for the
  boundary -/
  adj : Int
  adjCyc : Nat
  snap : Bool
  /-- an ω that takes effect at the next reckon step without a jump (R62, R83) -/
  omegaNext : Option (BitVec 40)
  /-- a frame boundary has passed since LOCKED (R148), and the count of the cycle at whose phase 0 the last one fell (R59) -/
  seenBoundary : Bool
  frameCyc : Nat
  deriving DecidableEq, Repr

/-- The three event lanes with the events of producers that wait for room (R73, R76), and the calibration gap events that
fall more than 127 cycles ahead, with their phases (R75). -/
structure Lanes where
  edge : List (BitVec 64)
  payload : List (BitVec 64)
  cal : List (BitVec 64)
  edgeWait : List (BitVec 64)
  payloadWait : List (BitVec 64)
  calWait : List (BitVec 64)
  calLater : List (PhaseWord × BitVec 64)
  deriving DecidableEq, Repr

/-- A pending commit (R147): the boundary it applies at in boundaries still to come, its write-back word and a mode. -/
structure PendCommit where
  wait : Nat
  mode : Option Nat
  deriving DecidableEq, Repr

/-- One placement entry of a scene (R125). -/
structure SceneEnt where
  id : Nat
  en : Bool
  x : Nat
  y : Nat
  deriving DecidableEq, Repr

/-- A signature record (R134, R142). -/
structure SigRec where
  flags : Nat
  frame : Nat
  actual : Word
  expected : Word
  signed : Nat
  shift : Nat
  sceneGen : Nat
  run : Nat
  boundary : LinkTime
  deriving DecidableEq, Repr

/-- The Hallmark state of a slot (R125 to R136). -/
structure HallSlot where
  active : List SceneEnt
  /-- the pending scene that SET_SCENE writes -/
  pend : List SceneEnt
  /-- a committed scene with the boundaries it still waits (R129) -/
  due : Option (List SceneEnt × Nat)
  gen : BitVec 16
  ring : List SigRec
  run : Nat
  /-- hold by CONTAIN: 0 none, 1 Dim, 2 off -/
  contain : Nat
  /-- hold by R135: 0 none, 1 Dim, 2 off -/
  mismatch : Nat
  /-- RELEASE accepted, acts at the next boundary; the holds placed after it, which stay -/
  release : Bool
  containAfter : Nat
  mismatchAfter : Nat
  /-- the frame in emission holds the last good content (R154) -/
  hold : Bool
  /-- the Dim cause of R154 -/
  notReady : Bool
  /-- the frame in emission is the first to show a new scene -/
  sceneNew : Bool
  deriving DecidableEq, Repr

/-- What the frame in emission carries to its signature record (R132, R134, R161): taken at slicing or strike. -/
structure FrameTap where
  frame : BitVec 32
  boundary : LinkTime
  actual : Word
  expected : Word
  signed : Nat
  freeze : Word
  /-- the slicer has taken the frame, and pixels it needed before they were delivered, each with the pixels delivered by then
  (R157); its freeze signature has been judged (R161, R162) -/
  sliced : Bool
  late : List (Nat × Nat)
  judged : Bool
  shift : Int
  darkLines : Bool
  dim : Bool
  off : Bool
  /-- some layer's CHG advanced at the boundary that opened the frame (R162) -/
  chg : Bool
  /-- emitted dark for a timing-mode change (R162) -/
  modeDark : Bool
  /-- signed with the held scene (R154) -/
  hold : Bool
  sceneNew : Bool
  /-- SCENE_GEN, and the scene the reference path renders for the frame (R133) -/
  gen : BitVec 16
  scene : List SceneEnt
  deriving DecidableEq, Repr

/-- A window block taken from the host through a slot's layers and not handed back (R153), with the end of the slot's last
raster that used it, none before the first. -/
structure SrcUse where
  block : Nat
  ended : Option LinkTime
  deriving DecidableEq, Repr

/-- A write-back under way (R160): the FRAME it carries and its window blocks. -/
structure WbRun where
  frame : BitVec 32
  block : Nat
  count : Nat
  deriving DecidableEq, Repr

/-- States of a trial queue entry (R204). -/
inductive LineState where
  | empty
  | trial
  | struck
  | discarded
  | dark
  deriving DecidableEq, Repr

/-- One sample of a line payload (R205): phase offset in pu from the emission start, CLIP, Hallmark coverage (R200), and a
12-bit code per channel in CHMP order. -/
structure LineSamp where
  offs : Nat
  clip : Bool
  cov : Bool
  codes : List Nat
  deriving DecidableEq, Repr

/-- An entry of the trial queue: the line descriptor of R204 and what the commit rule keeps of it (R211 to R223). -/
structure LineEnt where
  line : Nat
  state : LineState
  backward : Bool
  retrace : Bool
  urgent : Bool
  clipped : Bool
  merged : Bool
  frame : BitVec 32
  /-- emission start and centre as phase words -/
  start : PhaseWord
  centre : PhaseWord
  /-- DUTY that the line was entered with (R194, R210) -/
  duty : Nat
  renderT : LinkTime
  /-- A_f / FIELD_X at render, in units of 2^-32 -/
  amp : Nat
  nsamp : Nat
  slow0 : Int
  slow1 : Int
  len : Nat
  /-- the render projection (R212), and the strike time computed from it -/
  proj : MeasPoint
  strikeT : LinkTime
  /-- render complete, its test made, and whether it is a re-render (R216) -/
  rendered : Bool
  tested : Bool
  again : Bool
  /-- demand of the latest report in mV (R242), and whether it is a struck report -/
  demand : Option Nat
  /-- phase error of the last strike test, pu -/
  err : Option Int
  samples : List LineSamp
  /-- smallest v of the line in 2^-60 row (R207) -/
  minV : Int
  /-- raster pixels read with non-zero weight, and the values read (R207, R208) -/
  reads : List (Nat × List Nat)
  /-- samples that have left in placement groups, groups sent, the last output time, and the time of the last sample before
  merging, in sixteenths (R202, R203) -/
  issued : Nat
  groups : Nat
  lastTs : Option Nat
  lastRaw : Option Nat
  deriving DecidableEq, Repr

/-- Line-builder settings in force, taken at the boundary (R210, R225). -/
structure LineCfg where
  duty : Nat
  margin : Bool
  spl : Nat
  look : Nat
  tol : Nat
  pt : Nat
  deriving DecidableEq, Repr

/-- What the line builders keep of a slot beside the trial queue. -/
structure LineBuild where
  cfg : LineCfg
  /-- next line of the sequence, and the frame it falls in with the count of the cycle that frame starts at -/
  next : Nat
  frame : BitVec 32
  cyc : Nat
  /-- pixels that struck lines have read with the values read, rows finalised, and frames with a line emitted dark, by frame -/
  reads : List (BitVec 32 × Nat × List Nat)
  rows : List (BitVec 32 × Nat)
  darks : List (BitVec 32)
  /-- output matrices latched for frames, newest first (R200) -/
  mtx : List (BitVec 32 × List Int)
  /-- counts of the frame under way: clipped, merged, largest |e|, peak rate in 0.1 MS/s -/
  clip : Nat
  merge : Nat
  errMax : Nat
  peak : Nat
  /-- the Lissajous drive lies outside the lock range (R197) -/
  badTraj : Bool
  /-- probe buffer (R225): codes of the first 64 samples -/
  probe : List (List Nat)
  deriving DecidableEq, Repr

/-- Line builders of a slot without lines. -/
def LineBuild.init : LineBuild :=
  { cfg := { duty := 192, margin := true, spl := 64, look := 0, tol := 1, pt := 1 }, next := 0, frame := 0, cyc := 0,
    reads := [], rows := [], darks := [], mtx := [], clip := 0, merge := 0, errMax := 0, peak := 0,
    badTraj := false, probe := [] }

/-- An empty entry. -/
def LineEnt.empty : LineEnt :=
  { line := 0, state := .empty, backward := false, retrace := false, urgent := false, clipped := false, merged := false,
    frame := 0, start := 0, centre := 0, duty := 192, renderT := 0, amp := 0, nsamp := 0, slow0 := 0, slow1 := 0, len := 0,
    proj := { phi := 0, t := 0, omega := 0, beta := 0 }, strikeT := 0, rendered := false, tested := false, again := false,
    demand := none, err := none, samples := [], minV := 0, reads := [], issued := 0, groups := 0, lastTs := none, lastRaw := none }

/-- Causes that contain a slot (R464). -/
inductive ContainCause where
  | engineLost
  | laserFault
  | overtemp
  | host
  | memory
  | camera
  deriving DecidableEq, Repr

/-- One containment of a slot: its cause, off or Dim, and whether what ends it has come so that it ends at the slot's
next boundary (R464, R467). -/
structure Containment where
  cause : ContainCause
  off : Bool
  ending : Bool
  deriving DecidableEq, Repr

/-- Supply tracking of a slot in tenths of a mV (R240 to R245): the set-point, and whether it falls now. -/
structure Supply where
  now : Nat
  target : Nat
  falling : Bool
  frozen : Bool
  deriving DecidableEq, Repr

/-- A slot. cfg is what the slot runs of a Cast; none is an undeclared slot. -/
structure SlotState where
  cfg : Option SlotCast
  reck : Reckoner
  lanes : Lanes
  /-- FRAME count of R134 and link time of the last boundary -/
  frame : BitVec 32
  boundary : LinkTime
  /-- raster under way, and link time of its latch point -/
  raster : Bool
  latchAt : LinkTime
  /-- the latch line used by the raster under way (R150) -/
  latchLines : Nat
  commit : Option PendCommit
  /-- deferred layers by layer code (R152) -/
  deferred : List Nat
  /-- layer pitches whose active copy or source handover has changed since CHG last advanced (R112) -/
  chgPend : List Nat
  /-- direct buffers that camera-direct layers hold: layer code and buffer (R342) -/
  camHold : List (Nat × Nat)
  mode : Nat
  /-- the slot emits dark: for a mode change, a recast, a fabric reset, and the frame that a snap ends (R83) -/
  darkMode : Bool
  darkCast : Bool
  darkFabric : Bool
  darkSnap : Bool
  /-- entries whose level set and illumination on are dropped in this frame (R183, R233) -/
  darkWin : List Nat
  /-- bytes read by the plane loads of the frame under way (R190) -/
  readNow : Nat
  /-- window blocks taken from the host through this slot's layers and not handed back (R153) -/
  srcs : List SrcUse
  /-- layers whose active copy names window blocks that were not all DEVICE's at the last boundary (R112) -/
  srcLack : List Nat
  /-- mask pitches clamped in the frame under way (R124) -/
  maskStale : List Nat
  /-- active copies of PXn_BG, PXn_ORDER0-6 and SOn_WB (R145) -/
  bg : Word
  order : List Nat
  wb : Word
  /-- write-backs whose last byte has not reached DRAM yet, oldest first (R160) -/
  wbRun : List WbRun
  /-- swaps pending by table: boundaries still to wait -/
  swaps : List (Nat × Nat)
  /-- active BASE and COUNT of each table (R178) -/
  tables : List (Nat × Nat × Nat)
  /-- SLn_MARGIN taken for the frame (R191) -/
  margin : Nat
  lvlTarget : Int
  lvlShift : Int
  /-- link time since which no sample has met the 1 ms limit (R88) -/
  lvlStaleFrom : LinkTime
  lvlStale : Bool
  /-- planes that the slicer holds back until a load of the frame before has read the entry (R171): frame, entry, bytes -/
  held : List (BitVec 32 × Nat × List Byte)
  hall : HallSlot
  tap : Option FrameTap
  /-- the frame that ended at the last boundary, until its record enters the ring, and the freeze signature before it -/
  tapPrev : Option FrameTap
  fsig : Option Word
  /-- FREEZE has been logged since RUN was last 0 (R162) -/
  frozen : Bool
  trial : List LineEnt
  lines : LineBuild
  supply : Supply
  contain : List Containment
  /-- the supply-dip Dim cause (R442) -/
  dimDip : Bool
  /-- the Dim gate of R138 acts on planes or lines, and the ceilings stand at their Dim value (R184, R201) -/
  gate : Bool
  ceilDim : Bool
  /-- throttle step and channel LIMITs in force, taken at the boundary (R227, R184) -/
  stepNow : Nat
  limNow : List Nat
  /-- F_CEIL and level map of each channel before the last boundary, for lines that began before it (R201) -/
  lightPrev : List (Nat × List Nat)
  cal : SlotCal
  deriving DecidableEq, Repr

/-- A scene with every entry disabled (R125). -/
def Scene.empty : List SceneEnt := List.replicate 16 { id := 0, en := false, x := 0, y := 0 }

/-- The Hallmark state after a load or a reset (R125). -/
def HallSlot.init : HallSlot :=
  { active := Scene.empty, pend := Scene.empty, due := none, gen := 0, ring := [], run := 0, contain := 0, mismatch := 0,
    release := false, containAfter := 0, mismatchAfter := 0, hold := false, notReady := false, sceneNew := false }

/-- A reckoner in IDLE (R72). -/
def Reckoner.idle : Reckoner :=
  { st := .idle, phiM := 0, tM := 0, omega := 0, beta := 0, phiHeld := 0, next := none, tAcq := 0, k := 0, expected := 0,
    lastEdge := none, missed := 0, consec := 0, ivals := [], realign := false, cands := [], slewErr := 0,
    adj := 0, adjCyc := 0, snap := false, omegaNext := none, seenBoundary := false, frameCyc := 0 }

/-- Empty lanes. -/
def Lanes.empty : Lanes :=
  { edge := [], payload := [], cal := [], edgeWait := [], payloadWait := [], calWait := [], calLater := [] }

/-- A slot that no Cast declares. -/
def SlotState.undeclared : SlotState :=
  { cfg := none, reck := Reckoner.idle, lanes := Lanes.empty, frame := 0, boundary := 0, raster := false, latchAt := 0,
    latchLines := 0, commit := none, deferred := [], chgPend := [], camHold := [], mode := 0, darkMode := false, darkCast := false,
    darkFabric := false, darkSnap := false, darkWin := [], readNow := 0,
    srcs := [], srcLack := [], maskStale := [], bg := 0, order := [], wb := 0, wbRun := [], swaps := [], tables := [], margin := 0,
    lvlTarget := 0, lvlShift := 0, lvlStaleFrom := 0, lvlStale := false, held := [], hall := HallSlot.init, tap := none, tapPrev := none, fsig := none, frozen := false, trial := [],
    lines := LineBuild.init, supply := { now := 0, target := 0, falling := false, frozen := false }, contain := [],
    dimDip := false, gate := false, ceilDim := false, stepNow := 0, limNow := [], lightPrev := [], cal := SlotCal.init }

end Sys2Proof.Machine
end

