-- ==== Sys2Proof/Machine/State.lean ====
section
/-! DEFINITION. The state of the part as plain data, the reasons a step can stop, and the state after reset. Every word
the host can see has one home in State.regs; what no register shows whole stands in the typed fields. -/

set_option Elab.async false

namespace Sys2Proof.Machine

/-- Why the block stops with a fault. -/
inductive Fault where
  /-- raised by a host access outside the BAR it names (R356): no such location exists in the part. Safe. -/
  | outsideBar
  deriving DecidableEq, Repr

/-- Why the block refuses a command. -/
inductive Refusal where
  /-- raised by a command that has no meaning yet, named by its mnemonic. Safe. -/
  | notModelled (mnemonic : String)
  deriving DecidableEq, Repr

/-- The part-wide states (R445) with the ones no read shows: PD0 held in power-on reset until t0 (R438; with TESTEN high the
part stays there, R492), Park, and the sequence lockout of R439. An entry to Park tells whether it is thermal (R430). -/
inductive PState where
  | por
  | run
  | doze
  | boot
  | enteringDoze
  | enteringPark (thermal : Bool)
  | leaving
  | park
  | lockout
  deriving DecidableEq, Repr

/-- Power and reset bookkeeping (R435 to R456, R492). -/
structure PowerState where
  st : PState
  /-- last completed step of R438 -/
  seqStep : Nat
  /-- failed power-up attempts in a row (R439) -/
  attempts : Nat
  /-- the 100 ms wait of R439 runs -/
  retryWait : Bool
  /-- rails in band, and rails whose monitor judges (R441), bit r in the order of R434 -/
  inBand : BitVec 8
  judged : BitVec 8
  /-- the 10 ms after the last recovery runs (R442) -/
  holdTail : Bool
  /-- a request written while an entry or exit is under way (R448) -/
  queued : Option Nat
  /-- where the watchdog counts, the link time it counts from (R456) -/
  wdog : Option LinkTime
  /-- a fabric reset is under way (R452) -/
  fabric : Bool
  /-- duty of each phase group as loops set it, in units of 2^-15 (R277) -/
  duty : List Nat
  /-- link time of the last part-wide reset or Park exit, and of the last exit from Doze (R9) -/
  upT : LinkTime
  wakeT : LinkTime
  /-- RESET_N held low, TESTEN high (R492) -/
  resetLow : Bool
  testen : Bool
  deriving DecidableEq, Repr

/-- Recovery bookkeeping (R459 to R469). -/
structure FaultState where
  /-- link time of the latest occurrence in the newest log entry (R459); none where link time has started anew since -/
  last : Option LinkTime
  /-- the host has stopped answering (R367) -/
  hostLost : Bool
  /-- where the host liveness count runs, the link time it counts from (R367) -/
  aliveT : Option LinkTime
  /-- start of the grace interval of each party, by its FR_GRACE bit (R465) -/
  graces : List (Nat × LinkTime)
  deriving DecidableEq, Repr

/-- The mailbox (R368 to R372): the core that holds the lock, and the request taken. -/
structure MailState where
  cmd : Nat
  seq : Nat
  arg0 : Nat
  arg1 : Nat
  payload : List Byte
  /-- link time at which the core took the lock -/
  lockT : LinkTime
  /-- patches installed (R371) -/
  patches : Nat
  deriving DecidableEq, Repr

/-- The Hallmark stores and the safety port (R126, R127, R130, R139 to R141). -/
structure HallState where
  /-- port assets: id, width, height, sealed, data -/
  port : List (Nat × Nat × Nat × Bool × List Byte)
  /-- scrub failure (R127) -/
  store : Bool
  /-- SEQ of the last executed request, and its response (R141) -/
  lastSeq : Option Byte
  lastResp : List Byte
  /-- the response the next transaction carries (R141) -/
  resp : List Byte
  deriving DecidableEq, Repr

/-- The part. -/
structure State where
  pending : List Instr
  linkTime : LinkTime
  /-- register words by BAR0 offset; an unlisted word is 0 -/
  regs : SMap 32
  /-- active copies of the pitches, word w of pitch p at 16 × p + w (R94) -/
  pitchAct : SMap 32
  /-- package DRAM: bytes written since the last part-wide reset (R500) -/
  dram : List (Nat × Byte)
  dramEpoch : Nat
  /-- mailbox words by BAR4 offset (R368) -/
  bar4 : SMap 32
  /-- data of the last host read of BAR0 or BAR4 -/
  busData : Word
  out : List Out
  freeCount : Nat
  /-- true for SHW9632-A8, false for -A4 (R1) -/
  a8 : Bool
  /-- CORE_PH straps as sampled at t0 (R435) -/
  corePh : BitVec 2
  cast : CastState
  slots : Vector SlotState 8
  ports : Vector PortState 8
  hall : HallState
  power : PowerState
  fr : FaultState
  mail : MailState
  codec : CodecState
  chans : Vector ChanCal 96
  page : Option PageStore
  mc : DramState
  heat : HeatState
  sb : BridgeState
  loops : Vector LoopState 128
  deriving DecidableEq, Repr

/-- Phases of group 0 by the CORE_PH code (R435). -/
def corePhases (code : Nat) : Nat := if code = 3 then 8 else 4 + code

/-- PM_PHASE_MAPm as the straps give it (R435, R457). -/
def strapMap (code m : Nat) : Word :=
  (List.range 4).foldl (fun w i => w ||| (BitVec.ofNat 32 (if 4 * m + i < corePhases code then 0 else 0x1F) <<< (8 * i))) 0

/-- Registers that hold other than 0 after a cold reset, in address order: the Cold columns of the register tables, the
phase map of the straps, and the MSI-X vectors masked (R358; log entry 11). -/
def coldImage (code : Nat) : SMap 32 :=
  (List.range 64).map (fun v => (Reg.msixTable + 16 * v + 12, 1#32)) ++
  [(Reg.leDlyThr, 800#32)] ++
  (List.range 128).flatMap (fun l =>
    [(Reg.leLock l, 0x40000000#32), (Reg.leTrkLock l, 0x10000#32), (Reg.leDrv l, 0x40000000#32)]) ++
  [(Reg.sbSyncFilt, 10#32), (Reg.sbImuCfg, 1000#32)] ++ (List.range 4).map (fun c => (Reg.sbCamCfg c, 100#32)) ++
  [(Reg.wnEpochHost, 1#32), (Reg.wnEpochDev, 1#32)] ++ (List.range 8).map (fun p => (Reg.wnEpochEng p, 1#32)) ++
  (List.range 4).map (fun c => (Reg.wnEpochSen c, 1#32)) ++ [(Reg.wnEpochObj, 1#32)] ++
  [(Reg.cdCfg, 0x808#32), (Reg.mcPage, 0x100040#32), (Reg.mcAge, 20#32), (Reg.mcSr, 100#32), (Reg.mcTrack, 100#32),
   (Reg.thThr, 0x6978#32), (Reg.thBound, 0x28000100#32)] ++
  ((List.range 4).map (fun m => (Reg.pmPhaseMap m, strapMap code m))).filter (fun e => e.2 != 0) ++
  (if code = 0 then [] else [(Reg.pmCore, BitVec.ofNat 32 code <<< 16)]) ++
  [(Reg.pmPwm, 800#32), (Reg.pmGrp, 1#32)] ++ (List.range 16).map (fun p => (Reg.pmPhLim p, 60#32))

/-- A Cast loader that runs the boot Cast (R24). -/
def CastState.boot : CastState :=
  { running := CastDesc.boot, staged := none, load := none, bytes := [], lockRegs := [], lockFlds := [], switch := none, recastAt := none
    pool := CastDesc.boot.pool, pdOff := 0 }

/-- Power and reset state at t0 of R438. -/
def PowerState.atT0 : PowerState :=
  { st := .boot, seqStep := 1, attempts := 0, retryWait := false, inBand := 0b10000100, judged := 0b10000100,
    holdTail := false, queued := none, wdog := none, fabric := false, duty := List.replicate 16 0, upT := 0, wakeT := 0, resetLow := false, testen := false }

/-- No request in the mailbox. -/
def MailState.init : MailState := { cmd := 0, seq := 0, arg0 := 0, arg1 := 0, payload := [], lockT := 0, patches := 0 }

/-- Empty Hallmark stores and no safety-port transaction yet. -/
def HallState.init : HallState :=
  { port := [], store := false, lastSeq := none, lastResp := [], resp := List.replicate 64 0 }

/-- Recovery with nothing lost. -/
def FaultState.init : FaultState := { last := none, hostLost := false, aliveT := none, graces := [] }

/-- The part right after cold reset (R438 t0, R454): every register at its Cold value, package DRAM with nothing listed,
no command waiting, straps at code 0 and the ordering code -A8 (log entry 4). -/
def State.reset : State :=
  { pending := [], linkTime := 0, regs := coldImage 0, pitchAct := [], dram := [], dramEpoch := 0, bar4 := [],
    busData := 0, out := [], freeCount := 0, a8 := true, corePh := 0, cast := CastState.boot,
    slots := Vector.replicate 8 SlotState.undeclared, ports := Vector.replicate 8 PortState.init, hall := HallState.init,
    power := PowerState.atT0, fr := FaultState.init, mail := MailState.init, codec := CodecState.init, chans := Vector.replicate 96 ChanCal.init, page := none,
    mc := DramState.init, heat := HeatState.init .cold, sb := BridgeState.init, loops := Vector.replicate 128 LoopState.init }

end Sys2Proof.Machine
end

