-- ==== Sys2Proof/Machine/Ops.lean ====
section
/-! DEFINITION. The named operations every command is written with: registers, slots and ports, MSI-X vectors, the fault
log, package DRAM, tallies, free values, and the Dim and off conditions of a slot. -/

set_option Elab.async false

namespace Sys2Proof.Machine

/-! ## Registers -/

/-- The register word at a BAR0 offset. -/
def reg (s : State) (a : Nat) : Word := s.regs.get a

/-- Writes a register word. -/
def setReg (a : Nat) (v : Word) (s : State) : State := { s with regs := s.regs.set a v }

/-- Field [hi:lo] of a register. -/
def rfld (s : State) (a hi lo : Nat) : Nat := fld (reg s a) hi lo

/-- Bit i of a register. -/
def rbit (s : State) (a i : Nat) : Bool := bit (reg s a) i

/-- Writes field [hi:lo] of a register. -/
def setFld (a hi lo x : Nat) (s : State) : State := setReg a (putFld (reg s a) hi lo x) s

/-- Sets or clears bit i of a register. -/
def setBit (a i : Nat) (b : Bool) (s : State) : State := setFld a i i (if b then 1 else 0) s

/-- Adds k to a counter field, saturating at its largest value. -/
def addSat (a hi lo k : Nat) (s : State) : State :=
  setFld a hi lo (min (rfld s a hi lo + k) (2 ^ (hi + 1 - lo) - 1)) s

/-- Adds one to a counter field, saturating. -/
def incSat (a hi lo : Nat) (s : State) : State := addSat a hi lo 1 s

/-- Writes a list of registers. -/
def setRegs (l : List (Nat × Word)) (s : State) : State := { s with regs := s.regs.setAll l }

/-! ## Time -/

/-- Timing-clock periods in a millisecond and a microsecond (R77: 3.2 GHz). -/
def msTicks : Nat := 3200000
def usTicks : Nat := 3200

/-- Link time as a number of periods. -/
def now (s : State) : Nat := s.linkTime.toNat

/-- Periods since a past link time. -/
def since (s : State) (t : LinkTime) : Nat := (s.linkTime - t).toNat

/-! ## Slots and ports -/

/-- Slot n, undeclared beyond 7. -/
def slotAt (s : State) (n : Nat) : SlotState := (s.slots[n]?).getD SlotState.undeclared

/-- Changes slot n. -/
def modSlot (n : Nat) (f : SlotState → SlotState) (s : State) : State :=
  if h : n < 8 then { s with slots := s.slots.set n (f s.slots[n]) } else s

/-- Port p. -/
def portAt (s : State) (p : Nat) : PortState := (s.ports[p]?).getD PortState.init

/-- Calibration of light channel k. -/
def chanAt (s : State) (k : Nat) : ChanCal := (s.chans[k]?).getD ChanCal.init

/-- Changes light channel k. -/
def modChan (k : Nat) (f : ChanCal → ChanCal) (s : State) : State :=
  if h : k < 96 then { s with chans := s.chans.set k (f s.chans[k]) } else s

/-- Changes port p. -/
def modPort (p : Nat) (f : PortState → PortState) (s : State) : State :=
  if h : p < 8 then { s with ports := s.ports.set p (f s.ports[p]) } else s

/-- What slot n runs of the Cast. -/
def cfgOf (s : State) (n : Nat) : Option SlotCast := (slotAt s n).cfg

/-- Slot n is declared. -/
def declared (s : State) (n : Nat) : Bool := (cfgOf s n).isSome

/-- The declared slots, ascending. -/
def declaredSlots (s : State) : List Nat := (List.range 8).filter (declared s)

/-- The declared slot on port p. -/
def slotOnPort (s : State) (p : Nat) : Option Nat :=
  (List.range 8).find? fun n => match cfgOf s n with
    | some c => c.slot.port == p
    | none => false

/-- The channel entry that names LCk, with its slot and its position. -/
def chanOwner (s : State) (k : Nat) : Option (Nat × ChanEnt) :=
  (List.range 8).findSome? fun n => match cfgOf s n with
    | some c => (c.chmp.find? (fun e => e.lc == k)).map fun e => (n, e)
    | none => none

/-- Applies f for every number of a list, in order. -/
def forAll (l : List Nat) (f : Nat → State → State) (s : State) : State := l.foldl (fun s i => f i s) s

/-- Base of a slot's composer registers (R124). -/
def pxBase (s : State) (n : Nat) : Nat :=
  Reg.px (((cfgOf s n).map (·.pipe.composer)).getD 0) n
def pxOrder (s : State) (n m : Nat) : Nat := pxBase s n + 4 * m
def pxBg (s : State) (n : Nat) : Nat := pxBase s n + 0x1C
def pxErr (s : State) (n : Nat) : Nat := pxBase s n + 0x20
def pxSkip (s : State) (n : Nat) : Nat := pxBase s n + 0x24
def pxStopped (s : State) (n : Nat) : Nat := pxBase s n + 0x28
def pxMasks (s : State) (n : Nat) : Nat := pxBase s n + 0x2C

/-! ## Free values -/

/-- The next free value (log entry 3) and the state with it taken. -/
def takeFree (s : State) : BitVec 64 × State := (Config.free s.freeCount, { s with freeCount := s.freeCount + 1 })

/-- Bytes the spec does not state: n of them, from free values. -/
def freeBytes : Nat → State → List Byte × State
  | 0, s => ([], s)
  | n + 1, s =>
    let x := takeFree s
    let r := freeBytes n x.2
    (x.1.setWidth 8 :: r.1, r.2)

/-! ## Output and MSI-X (R358) -/

/-- Appends to the record of what leaves the part. -/
def emit (o : Out) (s : State) : State := { s with out := s.out ++ [o] }

/-- The time in sixteenths nearest to the present whose low 40 bits are those of a time stamp (R231). -/
def tsFull (s : State) (ts : BitVec 40) : Nat :=
  let n := now s * 16
  ((n : Int) + (ts - BitVec.ofNat 40 n).toInt).toNat

/-- Puts a change of drive in order of time, after those of its own time. -/
def putDrive (e : DriveEv) : List DriveEv → List DriveEv
  | [] => [e]
  | x :: r => if e.t < x.t then e :: x :: r else x :: putDrive e r

/-- The changes of drive that a packet on port p brings (R231, R234). -/
def driveOf (s : State) (p : Nat) : LinkPkt → List DriveEv
  | .edge l | .level l => l.map fun c => { t := tsFull s c.ts, ch := c.ch, op := c.op, cur := c.cur.toNat }
  | .line _ _ _ _ ts _ xs =>
    let chs : List Nat := match (slotOnPort s p).bind (cfgOf s) with
      | some c => c.chmp.map (·.engCh)
      | none => []
    xs.flatMap fun x => (chs.zip x.2).map fun y => { t := tsFull s ts + x.1, ch := y.1, op := 4, cur := y.2.toNat }
  | _ => []

/-- The drive of a channel after a change. -/
def driveStep (x : Nat × Bool) (e : DriveEv) : Nat × Bool :=
  match e.op with
  | 1 => (e.cur, x.2)
  | 2 => (x.1, true)
  | 3 => (x.1, false)
  | _ => (e.cur, e.cur != 0)

/-- The drive of channel ch in a base. -/
def driveAt (base : List (Nat × Nat × Bool)) (ch : Nat) : Nat × Bool := (base.lookup ch).getD (0, false)

/-- Current, lit time and squared current of a channel over a span, in u16 of maximum current and sixteenths. -/
abbrev DriveSum := Nat × Nat × Nat

/-- Adds what a drive held from a to b gives within [t0, t1]. -/
def driveSpan (t0 t1 : Nat) (x : Nat × Bool) (a b : Nat) (acc : DriveSum) : DriveSum :=
  let d := min b t1 - max a t0
  if x.2 && x.1 != 0 then (acc.1 + x.1 * d, acc.2.1 + d, acc.2.2 + x.1 * x.1 * d) else acc

/-- Integrals of the drive of channel ch over [t0, t1], from its drive x at time a. -/
def driveInt (t0 t1 ch : Nat) : Nat → Nat × Bool → List DriveEv → DriveSum → DriveSum
  | a, x, [], acc => driveSpan t0 t1 x a t1 acc
  | a, x, e :: r, acc =>
    if e.ch = ch ∨ e.ch = 31 then driveInt t0 t1 ch e.t (driveStep x e) r (driveSpan t0 t1 x a e.t acc)
    else driveInt t0 t1 ch a x r acc

/-- Integrals of the drive that port p issued for channel ch over [t0, t1] in sixteenths. -/
def driveSum (s : State) (p ch t0 t1 : Nat) : DriveSum :=
  driveInt t0 t1 ch 0 (driveAt (portAt s p).drvBase ch) (portAt s p).drvEvs (0, 0, 0)

/-- Takes the changes up to time t into the base. -/
def foldDrive (t : Nat) : List (Nat × Nat × Bool) → List DriveEv → List (Nat × Nat × Bool) × List DriveEv
  | base, [] => (base, [])
  | base, e :: r =>
    if e.t ≤ t then
      let b := if e.ch = 31 then base.map fun x => (x.1, driveStep x.2 e)
        else (e.ch, driveStep (driveAt base e.ch) e) :: base.filter fun x => x.1 != e.ch
      foldDrive t b r
    else (base, e :: r)

/-- Drops what both readers of the drive of port p have passed. -/
def pruneDrive (p t : Nat) (s : State) : State :=
  modPort p (fun q =>
    let r := foldDrive t q.drvBase q.drvEvs
    { q with drvBase := r.1, drvEvs := r.2 }) s

/-- Link state of port p. -/
def linkState (s : State) (p : Nat) : Nat := rfld s (Reg.epStatus p) 2 0

/-- States 2 to 5: heartbeats run (R321). -/
def beating (s : State) (p : Nat) : Bool := decide (2 ≤ linkState s p ∧ linkState s p ≤ 5)

/-- A packet of port p as it leaves at a time in 1/125 periods: a heartbeat carries the sender's time and state (R320), TIME_SET its
departure time plus D (R311). -/
def stampPkt (s : State) (p at125 : Nat) : LinkPkt → LinkPkt
  | .heartbeat .. => .heartbeat (BitVec.ofNat 64 (at125 / 125)) (linkState s p) (portAt s p).bind (min 65535 (portAt s p).rxErr)
  | .timeSet d => .timeSet (d + BitVec.ofNat 64 (16 * at125 / 125))
  | k => k

/-- The next packet of port p leaves, where one waits and the downlink is free by now (R304, R307): the one of highest priority, with
the next SEQ and the binding in force. After 16 packets without one, a control flit goes first; it is an ALIGN. -/
def transmit (p : Nat) : Nat → State → State
  | 0, s => s
  | fuel + 1, s =>
    let q := portAt s p
    match takeFirst q.wait with
    | none => s
    | some x =>
      if 125 * now s < q.free then s
      else if 16 ≤ q.runPkts then
        transmit p fuel (emit (.ctl p .align) (modPort p (fun q => { q with free := q.free + flitTime, runPkts := 0 }) s))
      else
        let isBeat := match x.1 with
          | .heartbeat .. => true
          | _ => false
        transmit p fuel (emit (.link p q.dlSeq q.bind (BitVec.ofNat 40 (q.free / 125)) (stampPkt s p q.free x.1))
          (modPort p (fun q => { q with
            wait := x.2, free := q.free + pktTime x.1, runPkts := q.runPkts + 1, dlSeq := q.dlSeq + 1
            rxErr := if isBeat then 0 else q.rxErr }) s))

/-- A packet is issued on the downlink of port p: it leaves at once where the downlink is free, and waits otherwise (R307). The drive
it brings is kept for calibration and the heat ledger (R223). A downlink that has been free for a flit has sent control flits. -/
def sendPkt (p : Nat) (k : LinkPkt) (s : State) : State :=
  transmit p 1 (modPort p (fun q =>
    let idle := q.wait.isEmpty && decide (q.free ≤ 125 * now s)
    { q with
      drvEvs := (driveOf s p k).foldl (fun l e => putDrive e l) q.drvEvs
      runPkts := if q.wait.isEmpty && decide (q.free + flitTime ≤ 125 * now s) then 0 else q.runPkts
      free := if idle then 125 * now s else q.free
      wait := q.wait ++ [k] }) s)

/-- Sends the message of a vector's table entry. -/
def sendVector (v : Nat) (s : State) : State :=
  emit (.msix v (reg s (Reg.msixTable + 16 * v)) (reg s (Reg.msixTable + 16 * v + 4)) (reg s (Reg.msixTable + 16 * v + 8))) s

/-- Raises a vector (R358): a masked vector is held in the pending-bit array until it is unmasked. With the host interface
unpowered (R17) there is none to raise. -/
def raiseVec (v : Nat) (s : State) : State :=
  if s.power.st = .park ∨ s.power.st = .lockout ∨ s.power.st = .por then s
  else if rbit s (Reg.msixTable + 16 * v + 12) 0 then setBit (Reg.msixPba + 4 * (v / 32)) (v % 32) true s else sendVector v s

/-! ## The fault log (R458 to R461, R497) -/

/-- CLASS values of the log. -/
def clsHost : Nat := 1
def clsPart : Nat := 2
def clsEngine : Nat := 3
def clsSensor : Nat := 4
def clsMemory : Nat := 5
def clsSport : Nat := 6
def clsSupply : Nat := 7

/-- The FR_FAULT bit an event sets when it is logged (R461); LINK_LOST sets bit 7 only with a declared slot, and is
given its bit by its own operation. -/
def faultBit (c : Status) : Option Nat :=
  match c with
  | .HALL_STORE | .HALL_MISMATCH | .HALL_NOT_READY | .SPORT_SILENT => some 0
  | .LASER_FAULT | .LASER_OVERTEMP => some 2
  | .FREEZE => some 3
  | .DRAM_CHANNEL | .DRAM_DEAD => some 4
  | .THERMAL_CRIT => some 5
  | .SEQUENCE_FAIL => some 6
  | .HOST_LOST => some 8
  | _ => none

/-- Sets a bit of FR_FAULT and raises vector 2 (R461, R358; log entry 10). -/
def setFault (b : Nat) (s : State) : State := raiseVec 2 (setBit Reg.frFault b true s)

/-- Word 0 of a log entry (R458). -/
def logWord (c : Status) (cls id : Nat) : Word :=
  at_ 31 16 c.code ||| at_ 15 12 cls ||| at_ 11 0 id

/-- Writes an event into the log ring: coalesced into the newest entry or taking the next (R459). -/
def logRing (w0 : Word) (detail : Nat) (s : State) : State :=
  let head := rfld s Reg.frLogStat 13 8
  let count := rfld s Reg.frLogStat 6 0
  if 0 < count ∧ reg s (Reg.frLog head 0) = w0 ∧ (s.fr.last.any fun t => decide (since s t ≤ msTicks)) then
    { incSat (Reg.frLog head 2) 31 16 s with fr := { s.fr with last := some s.linkTime } }
  else
    let i := if count = 0 then 0 else (head + 1) % 64
    let s1 := setReg (Reg.frLog i 0) w0 s
    let s2 := setReg (Reg.frLog i 1) (s.linkTime.setWidth 32) s1
    let s3 := setReg (Reg.frLog i 2) (at_ 15 0 (fld s.linkTime 47 32)) s2
    let s4 := setReg (Reg.frLog i 3) (BitVec.ofNat 32 detail) s3
    let s5 := setFld Reg.frLogStat 13 8 i s4
    let s6 := if count = 64 then incSat Reg.frLogStat 31 16 s5 else setFld Reg.frLogStat 6 0 (count + 1) s5
    { s6 with fr := { s6.fr with last := some s.linkTime } }

/-- Logs an event with its CLASS, ID and DETAIL, and sets its FR_FAULT bit (R461). -/
def logEvent (c : Status) (cls id detail : Nat) (s : State) : State :=
  let s1 := logRing (logWord c cls id) detail s
  match faultBit c with
  | some b => setFault b s1
  | none => s1

/-- Logs a refused host access with its BAR and offset (R460). -/
def logAccess (c : Status) (bar off : Nat) (s : State) : State :=
  logEvent c clsHost 0 (off + bar * 2 ^ 28) s

/-! ## Package DRAM -/

/-- Capacity of package DRAM in MiB (R1, R38): 15/16 of it in the degraded map, and none of a dead memory, for which no Cast is
loaded (R415). -/
def capacityMiB (s : State) : Nat :=
  let full := if s.a8 then 8192 else 4096
  if rbit s Reg.mcStatus 6 then 0 else if rbit s Reg.mcStatus 7 then full * 15 / 16 else full

/-- Where an address lies (R396): pseudo-channel, bank group, bank, row, and byte in the page. -/
structure DramPlace where
  pc : Nat
  group : Nat
  bank : Nat
  row : Nat
  col : Nat
  deriving DecidableEq, Repr

/-- The place of an address in the map in force (R396): of the 256-byte chunks the one of index k lies in the PC of its
remainder, counting live PCs only in the degraded map. -/
def dramPlace (s : State) (a : Nat) : DramPlace :=
  let k := a / 256
  let degraded := rbit s Reg.mcStatus 7
  let live := if degraded then 15 else 16
  let i := k % live
  let j := k / live
  { pc := if degraded && decide (rfld s Reg.mcStatus 11 8 ≤ i) then i + 1 else i
    group := j / 4 % 4, bank := j / 16 % 4, row := j / 64, col := 256 * (j % 4) + a % 256 }

/-- Pseudo-channel of an address in the map in force. -/
def dramPc (s : State) (a : Nat) : Nat := (dramPlace s a).pc

/-- An address is out of service: the memory is dead, its PC has failed, or its PC is under manual training (R411, R413,
R415). -/
def dramOff (s : State) (a : Nat) : Bool :=
  rbit s Reg.mcStatus 6 || s.mc.failed.getLsbD (dramPc s a) ||
    (rbit s Reg.mcStatus 4 && decide (dramPc s a = rfld s Reg.mcTrSel 3 0))

/-- The byte of package DRAM at an address: a free value where nothing has been written since the reset (R500), 0 where
the address is out of service. -/
def dramByte (s : State) (a : Nat) : Byte :=
  if dramOff s a then 0 else (find? s.dram a).getD (Config.dramByte s.dramEpoch a)

/-- n bytes from address a. -/
def dramRead (s : State) (a n : Nat) : List Byte := (List.range n).map fun i => dramByte s (a + i)

/-- Writes bytes from address a on, but for those out of service. -/
def dramStore (off : Nat → Bool) : List (Nat × Byte) → Nat → List Byte → List (Nat × Byte)
  | m, _, [] => m
  | m, a, b :: bs => dramStore off (if off a then m else insert m a b) (a + 1) bs

/-- Writes bytes of package DRAM. -/
def dramWrite (a : Nat) (bs : List Byte) (s : State) : State := { s with dram := dramStore (dramOff s) s.dram a bs }

/-- The contents of package DRAM become indeterminate (R500). -/
def dramForget (s : State) : State := { s with dram := [], dramEpoch := s.dramEpoch + 1 }

/-- The POOL entry of a KIND for a slot. -/
def poolEnt (s : State) (kind n : Nat) : Option PoolEnt :=
  s.cast.pool.find? (fun e => e.kind == kind && (e.slot == n || kind == 5))

/-- Byte address of a slot's store of a KIND (R36). -/
def storeBase (s : State) (kind n : Nat) : Nat := (((poolEnt s kind n).map (·.base)).getD 0) * 1024 * 1024

/-! ## Tallies (R359 to R366) -/

/-- Tally classes (R359). -/
def tFree : Nat := 0
def tHost : Nat := 1
def tDevice : Nat := 2
def tEngine : Nat := 3
def tSensor : Nat := 4
def tSeized : Nat := 15

/-- SENSOR id of window object lists (R359). -/
def objId : Nat := 0x100

/-- A tally word. -/
def tallyWord (cls id epoch : Nat) : Word := at_ 31 28 cls ||| at_ 27 16 id ||| at_ 15 0 epoch

/-- Tally of block b. -/
def tally (s : State) (b : Nat) : Word := reg s (Reg.wnTally b)

/-- CLASS of block b's tally. -/
def tallyClass (s : State) (b : Nat) : Nat := fld (tally s b) 31 28

/-- ID of block b's tally. -/
def tallyId (s : State) (b : Nat) : Nat := fld (tally s b) 27 16

/-- The epoch register of a party (R360, R373); 0 stands for no party. -/
def epochReg (cls id : Nat) : Nat :=
  if cls = tHost then Reg.wnEpochHost else if cls = tDevice then Reg.wnEpochDev
  else if cls = tEngine then Reg.wnEpochEng id
  else if id = objId then Reg.wnEpochObj else Reg.wnEpochSen id

/-- Present epoch of a party. -/
def epochOf (s : State) (cls id : Nat) : Nat := rfld s (epochReg cls id) 15 0

/-- Writes the tally of block b. -/
def setTally (b : Nat) (w : Word) (s : State) : State := setReg (Reg.wnTally b) w s

/-- The blocks from b on, count of them, within the window. -/
def blocksOf (b count : Nat) : List Nat := ((List.range count).map (b + ·)).filter (· < 4096)

/-- The present tally of a party's block. -/
def ownTally (s : State) (cls id : Nat) : Word := tallyWord cls id (epochOf s cls id)

/-- A block is owned by DEVICE with its present epoch. -/
def isDevice (s : State) (b : Nat) : Bool := tallyClass s b == tDevice

/-- The part hands block b back to HOST if its expected owner still holds it (R363). -/
def handBack (cls id : Nat) (b : Nat) (s : State) : State :=
  if tallyClass s b = cls ∧ tallyId s b = id then setTally b (ownTally s tHost 0) s else s

/-- Hands back several blocks of DEVICE. -/
def handBackDev (bs : List Nat) (s : State) : State := forAll bs (handBack tDevice 0) s

/-- Former class and id of a seized owner as R364 writes them. -/
def seizedId (cls id : Nat) : Nat := cls * 512 + id

/-- Logs a dropped access to block b by a requester of a class (R361): epoch is true for a request from before the
seizure. -/
def windowErr (cls b : Nat) (epoch : Bool) (s : State) : State :=
  let s1 := if reg s Reg.wnErr &&& 3 = 0 then setReg Reg.wnErrAddr (at_ 31 28 cls ||| at_ 11 0 b) s else s
  if epoch then setBit Reg.wnErr 1 true (incSat Reg.wnCnt 31 16 s1) else setBit Reg.wnErr 0 true (incSat Reg.wnCnt 15 0 s1)

/-- An access of a requester (class, id, epoch) to block b is allowed (R361). -/
def mayAccess (s : State) (cls id epoch b : Nat) : Bool := tally s b == tallyWord cls id epoch

/-- The mismatch is a request from before the seizure of its requester (R361). -/
def staleRequest (s : State) (cls id epoch b : Nat) : Bool := tally s b == tallyWord tSeized (seizedId cls id) epoch

/-- Seizes every block of a party and advances its epoch; vector 22 (R364). -/
def seizeTallies (cls id : Nat) (s : State) : State :=
  let e := epochOf s cls id
  let s1 := forAll (List.range 4096) (fun b s =>
    if tallyClass s b = cls ∧ tallyId s b = id then
      setTally b (tallyWord tSeized (seizedId cls id) (fld (tally s b) 15 0)) s else s) s
  raiseVec 22 (setFld (epochReg cls id) 15 0 (if e = 65535 then 1 else e + 1) s1)

/-- All tallies FREE, all epochs 1 (R360, R366). -/
def resetTallies (s : State) : State :=
  let s1 := { s with regs := s.regs.clearRange (Reg.wnTally 0) (Reg.wnTally 4096) }
  setRegs ([Reg.wnEpochHost, Reg.wnEpochDev, Reg.wnEpochObj].map (fun a => (a, 1#32)) ++
    (List.range 8).map (fun p => (Reg.wnEpochEng p, 1#32)) ++ (List.range 4).map (fun c => (Reg.wnEpochSen c, 1#32))) s1

/-! ## Power domains (R17, R18) -/

/-- The part is powered: BAR0 answers (not before t0, in Park or in the lockout of R439). -/
def powered (s : State) : Bool := s.power.st != .park && s.power.st != .lockout && s.power.st != .por

/-- The part is in Run or Dim (R445). -/
def inRunState (s : State) : Bool := s.power.st == .run

/-- The domains that Doze puts in retention run (R17): the part is up, and neither in Doze nor entering or leaving it. -/
def awake (s : State) : Bool := s.power.st == .run || s.power.st == .boot

/-- The light path, the links, the sensor bridge and the memory controller can act: the part is up and not in Doze (R17). -/
def upNow (s : State) : Bool := powered s && s.power.st != .doze

/-- An event of a block that the power state leaves without power has no effect (R17). -/
def whileUp (f : State → State) (s : State) : State := if upNow s then f s else s

/-- The same for a block that runs in Doze as well. -/
def whilePowered (f : State → State) (s : State) : State := if powered s then f s else s

/-- Domain d is Off by the Cast in force (R18). -/
def pdOff (s : State) (d : Nat) : Bool := s.cast.pdOff.getLsbD d

/-! ## Dim and off (R137, R464) -/

/-- A package critical trip holds (R430): every slot has the critical Dim cause. -/
def critDim (s : State) : Bool := (s.heat.trip[8]?).getD false

/-- Any Dim cause of slot n holds (R137, R464, R430). -/
def inDim (s : State) (n : Nat) : Bool :=
  let q := slotAt s n
  q.dimDip || rbit s Reg.genDim n || decide (q.hall.contain = 1) || decide (1 ≤ q.hall.mismatch) || q.hall.notReady ||
    q.contain.any (fun c => !c.off) || critDim s

/-- Slot n is contained off (R135, R137, R464). -/
def containedOff (s : State) (n : Nat) : Bool :=
  let q := slotAt s n
  decide (q.hall.contain = 2) || decide (q.hall.mismatch = 2) || q.contain.any (·.off)

/-- The part is in DIM (R445): at least one slot declared, every one in Dim. -/
def allDim (s : State) : Bool := !(declaredSlots s).isEmpty && (declaredSlots s).all (inDim s)

/-- GEN_STATE.STATE (R445). -/
def stateCode (s : State) : Nat :=
  match s.power.st with
  | .run => if allDim s then 1 else 0
  | .doze => 2
  | .boot => 4
  | .enteringDoze | .enteringPark _ => 5
  | .leaving => 6
  | .park | .lockout | .por => 0

/-- Raises vector 0 if an operation moved the part between Run and Dim (R358, R445). -/
def noteState (f : State → State) (s : State) : State :=
  let t := f s
  if stateCode s < 2 ∧ stateCode t < 2 ∧ stateCode s ≠ stateCode t then raiseVec 0 t else t

/-- HALT_n causes (R463): host halt, memory dead, sequence lockout, thermal Park. -/
def haltCauses (s : State) : Nat :=
  (if rbit s Reg.frHalt 8 then 1 else 0) + (if rbit s Reg.mcStatus 6 then 2 else 0) +
  (if s.power.st = .lockout then 4 else 0) +
  (if s.power.st = .park ∧ rfld s Reg.genResetCause 23 20 = 2 then 8 else 0)

/-! ## The link (R308) -/

/-- Link states (R308). -/
def lsDetect : Nat := 0
def lsTrain : Nat := 1
def lsIdentify : Nat := 2
def lsBind : Nat := 3
def lsRun : Nat := 4
def lsQuiesce : Nat := 5
def lsLost : Nat := 6

/-- The engine of slot n is bound. -/
def bound (s : State) (n : Nat) : Bool :=
  match cfgOf s n with
  | some c => rbit s (Reg.epStatus c.slot.port) 4 && decide ((portAt s c.slot.port).slot = some n)
  | none => false

/-- Port of a slot. -/
def portOf (s : State) (n : Nat) : Nat := ((cfgOf s n).map (·.slot.port)).getD 0

/-- The descriptor copy of port p: n bytes from offset o (R313, R334). -/
def descAt (s : State) (p o n : Nat) : Nat :=
  leNat ((List.range n).map fun i => (reg s (Reg.epDesc p ((o + i) / 4)) >>> (8 * ((o + i) % 4))).setWidth 8)

/-- Offset of the channel entry of engine channel c, of axis a, and of the entries after them (R314 to R316). -/
def descChan (c : Nat) : Nat := 64 + 80 * c
def descAxis (s : State) (p a : Nat) : Nat := 64 + 80 * descAt s p 16 1 + 32 * a
def descPd (s : State) (p i : Nat) : Nat := descAxis s p (descAt s p 17 1) + 8 * i
def descAct (s : State) (p i : Nat) : Nat := descPd s p (descAt s p 18 1) + 8 * i
def descTemp (s : State) (p i : Nat) : Nat := descAct s p (descAt s p 19 1) + 8 * i

end Sys2Proof.Machine
end

