-- ==== Sys2Proof/Machine/HostGate.lean ====
section
/-! DEFINITION. What stands between a host write and its effect: whether the register exists (R7, R13, R18) and which bits
Cast lock holds (R5, R43). Every command that is the write of one register goes through it. -/

set_option Elab.async false

namespace Sys2Proof.Machine

/-- The instance of a register row exists in the running Cast (R7): its structure is built and its domain is not Off. -/
def scopeBuilt (s : State) (sc : RegScope) (i : Nat) : Bool :=
  let cls (k : Nat) : Bool := match cfgOf s i with
    | some c => c.slot.cls == k
    | none => false
  match sc with
  | .always | .port => true
  | .slot => declared s i
  | .array => cls 1
  | .scanner => cls 2
  | .composerA => match cfgOf s i with
    | some c => c.pipe.composer == 0
    | none => false
  | .composerB => match cfgOf s i with
    | some c => c.pipe.composer == 1
    | none => false
  | .hall => match cfgOf s i with
    | some c => c.hall.isSome
    | none => false
  | .chan => (chanOwner s i).isSome

/-- Power domain of a register instance (R12): EP registers in the domain of their port pair, SO registers in that of the
slot's composer. -/
def regDomain (s : State) (d : RegDef) (i : Nat) : Nat :=
  match d.scope with
  | .port => 15 + i / 2
  | .slot | .hall => if d.pd = 12 then (match cfgOf s i with
      | some c => 12 + c.pipe.composer
      | none => 12) else d.pd
  | _ => d.pd

/-- A register instance exists (R7, R18). -/
def regExists (s : State) (d : RegDef) (i : Nat) : Bool := scopeBuilt s d.scope i && !pdOff s (regDomain s d i)

/-- Cast lock has been reached (R43). -/
def castLocked (s : State) : Bool := rbit s Reg.cstStatus 4

/-- Bits of the register at an offset that LOCK REG entries in force name, once Cast lock is reached (R43). -/
def lockBits (s : State) (off : Nat) : Word :=
  if castLocked s then (s.cast.lockRegs.filter (fun e => e.1 == off)).foldl (fun a e => a ||| e.2) 0 else 0

/-- The locked bits of a register: RWC bits and those of LOCK REG entries (R43). -/
def lockedOf (s : State) (off : Nat) (rwc : Word) : Word := lockBits s off ||| (if castLocked s then rwc else 0)

/-- A host write would change or act on a locked bit (R43): hold is the word held, act the W1C and WO bits. -/
def lockHit (locked rw act hold v : Word) : Bool := ((v ^^^ hold) &&& rw &&& locked) != 0 || (v &&& act &&& locked) != 0

/-- What a host write carries once its locked bits are dropped: held values in RW and RWC bits, zeros in W1C and WO. -/
def lockFilter (locked act hold v : Word) : Word := (v &&& ~~~locked) ||| (hold &&& locked &&& ~~~act)

/-- Trained delay word of a PC at a point: index 0 to 7 read lanes, 8 to 15 write lanes, 16 command/address (R418). -/
def delayWord (s : State) (pc point i : Nat) : Word :=
  (find? s.mc.delays ((pc * 4 + point) * 32 + i)).getD (Config.trainedDelay pc point i &&& 0x7F01FF)

/-- The PC and point whose delays the delay registers show. -/
def delaySel (s : State) : Nat × Nat := (rfld s Reg.mcTrSel 3 0, rfld s Reg.mcTrSel 9 8)

/-- The word that a register at an offset holds, as a read shows its writable bits: the delay registers show the delays of
the PC and point that MC_TR_SEL names (R418). -/
def heldWord (s : State) (off : Nat) : Word :=
  if Reg.mcDlyRd 0 ≤ off ∧ off ≤ Reg.mcDlyRd 16 then delayWord s (delaySel s).1 (delaySel s).2 ((off - Reg.mcDlyRd 0) / 4)
  else reg s off

/-- A host write of the register at an offset, through R7 and R43; act is its effect on what is not locked. -/
def hostWrite (off : Nat) (v : Word) (act : Word → State → State) (s : State) : State :=
  if ¬ powered s then s
  else match regFind off with
    | none => s
    | some (d, i) =>
      if ¬ regExists s d i then s
      else
        let k := lockedOf s off d.rwc
        let one := d.w1c ||| d.wo
        let s1 := if lockHit k (d.rw ||| d.rwc) one (heldWord s off) v then logAccess .LOCKED_FIELD 0 off s else s
        act (lockFilter k one (heldWord s off) v) s1

/-- The same for a word of a pitch (R7, R43): rw holds the bits the host may write. -/
def hostPitchGate (off : Nat) (rw v : Word) (built : Bool) (act : Word → State → State) (s : State) : State :=
  if ¬ powered s ∨ ¬ built then s
  else
    let k := lockBits s off
    let s1 := if lockHit k rw 0 (reg s off) v then logAccess .LOCKED_FIELD 0 off s else s
    act (lockFilter k 0 (reg s off) v) s1

end Sys2Proof.Machine
end

