-- ==== Sys2Proof/Machine/Light.lean ====
section
/-! DEFINITION. Light channels as shared operations (R226 to R245): ceilings, level maps, currents, channel commands, the
LEN_n interlock, and the supply set-point. -/

set_option Elab.async false

namespace Sys2Proof.Machine

/-! ## Descriptor values of a channel (R315) -/

/-- Engine channel entry fields of the engine on port p. -/
def chImax (s : State) (p ch : Nat) : Nat := descAt s p (descChan ch + 4) 2
def chVf0 (s : State) (p ch : Nat) : Nat := descAt s p (descChan ch + 26) 2
def chRs (s : State) (p ch : Nat) : Nat := descAt s p (descChan ch + 28) 2

/-! ## The interlock pin (R236, R237) -/

/-- LEN_n of port p is asserted. -/
def lenPin (s : State) (p : Nat) : Bool := rbit s Reg.lcLenStat (8 + p)

/-- The slot's channels may be lit: LEN_n asserted and not contained off. -/
def lightOn (s : State) (n : Nat) : Bool := lenPin s (portOf s n) && !containedOff s n

/-! ## Ceilings (R227) -/

/-- F_CEIL from LIMIT, throttle step and dim factor (R227). -/
def fCeil (lim k dimf : Nat) : Nat := 65535 * lim * (20 - k) * dimf / (1000 * 20 * 1024)

/-- The dim factor of a slot: 1024 in Run, the HALL floor in Dim, 0 without one (R227, R442). -/
def dimFactor (c : SlotCast) (dim : Bool) : Nat := if dim then (c.hall.map (·.floor)).getD 0 else 1024

/-- The slot's dark frames (R83, R163, R452 and recasts): nothing is lit. -/
def emitDark (s : State) (n : Nat) : Bool :=
  let q := slotAt s n
  q.darkMode || q.darkCast || q.darkFabric || q.darkSnap

/-- Sets F_CEIL of every channel of slot n from what is in force, for every line from now on. -/
def refreshCeil (n : Nat) (s : State) : State :=
  match cfgOf s n with
  | none => s
  | some c =>
    let q := slotAt s n
    let lit := lightOn s n
    forAll (List.range c.chmp.length) (fun i s =>
      match c.chmp[i]? with
      | none => s
      | some e =>
        let f := if lit then fCeil ((q.limNow[i]?).getD 0) q.stepNow (dimFactor c q.ceilDim) else 0
        setFld (Reg.lcCeil e.lc) 31 16 f s) (modSlot n (fun q => { q with lightPrev := [] }) s)

/-- Takes the throttle step and the LIMITs in force at the boundary (R184, R201, R227). -/
def takeCeilInputs (n : Nat) (s : State) : State :=
  match cfgOf s n with
  | none => s
  | some c =>
    modSlot n (fun q => { q with
      stepNow := rfld s (Reg.thLsStep n) 3 0
      limNow := c.chmp.map fun e => rfld s (Reg.lcCeil e.lc) 9 0 }) s

/-! ## Level maps and currents (R229) -/

/-- Point i of the active level map of LCk. -/
def mapPt (s : State) (k i : Nat) : Nat := rfld s (Reg.lcMap k i) 15 0

/-- The map a channel needs for the ceiling in force (R259, R264): standby in Dim, throttled at a step, else the Run map. A
channel that is not calibrated keeps its one map (R230). -/
def mapFor (s : State) (n k : Nat) : List Nat :=
  let ch := chanAt s k
  if ¬ ch.on then ch.run.v
  else if (slotAt s n).ceilDim then ch.dim.v
  else if (slotAt s n).stepNow ≠ 0 then ch.step.v
  else ch.run.v

/-- The next copy of a map becomes the active one; GEN counts the replacements of a calibrated channel (R230, R263). -/
def installMap (n k : Nat) (s : State) : State :=
  let m := mapFor s n k
  if (List.range 65).all fun i => mapPt s k i == (m[i]?).getD 0 then s
  else
    let s1 := setRegs ((List.range 65).map fun i => (Reg.lcMap k i, BitVec.ofNat 32 ((m[i]?).getD 0))) s
    if (chanAt s k).on then setFld (Reg.lcMap k 65) 15 0 (rfld s (Reg.lcMap k 65) 15 0 + 1) s1 else s1

/-- Installs the maps of slot n, as at a binding (R230, R273). -/
def setMaps (n : Nat) (s : State) : State :=
  match cfgOf s n with
  | none => s
  | some c => forAll (c.chmp.map (·.lc)) (installMap n) s

/-- Installs the maps of slot n for the ceilings in force, while they are not 0 (R264). -/
def installMaps (n : Nat) (s : State) : State := if lightOn s n then setMaps n s else s

/-- Current of a 12-bit code (R229) through a level map and F_CEIL. -/
def curAt (ceil : Nat) (pts : List Nat) (c : Nat) : Nat :=
  if c = 0 then 0
  else
    let i := min (c / 64) 63
    let w := if i = 63 then 63 else 64
    let m0 : Int := (pts[i]?).getD 0
    let m1 : Int := (pts[i + 1]?).getD 0
    let m := clampI (m0 + divHalfUp ((m1 - m0) * ((c : Int) - 64 * i)) w) 0 65535
    (m.toNat * ceil + 32767) / 65535

/-- The active level map of LCk. -/
def mapPts (s : State) (k : Nat) : List Nat := (List.range 65).map (mapPt s k)

/-- Current of a 12-bit code through the active map and F_CEIL of LCk. -/
def curOf (s : State) (k c : Nat) : Nat := curAt (rfld s (Reg.lcCeil k) 31 16) (mapPts s k) c

/-- The light in force of the channels of a slot, in CHMP order: F_CEIL and level map. -/
def lightNow (s : State) (c : SlotCast) : List (Nat × List Nat) :=
  c.chmp.map fun e => (rfld s (Reg.lcCeil e.lc) 31 16, mapPts s e.lc)

/-- The light that the next boundary of slot n puts in force, as scheduled now (R201, R227, R241). -/
def lightNext (s : State) (n : Nat) (c : SlotCast) : List (Nat × List Nat) :=
  lightNow (installMaps n (refreshCeil n (takeCeilInputs n s))) c

/-- An 8-bit code widened to 12 bits (R229). -/
def wide8 (c : Nat) : Nat := c * 16 + c / 16

/-- Demand in mV at a current, for given descriptor values and headroom (R240). -/
def vReq (vf0 rs imax head cur : Nat) : Nat := vf0 + ceilDiv (cur * imax * rs) (65535 * 1000) + head

/-- Demand of a channel entry of slot n at current cur. -/
def chanDemand (s : State) (c : SlotCast) (e : ChanEnt) (cur : Nat) : Nat :=
  vReq (chVf0 s c.slot.port e.engCh) (chRs s c.slot.port e.engCh) (chImax s c.slot.port e.engCh) c.supply.headroom cur

/-- The largest current whose demand fits the measured supply (R244). -/
def lowerCur (s : State) (n : Nat) (c : SlotCast) (e : ChanEnt) (cur : Nat) : Nat :=
  let meas := rfld s (Reg.lsMeas n) 15 0
  let base := chVf0 s c.slot.port e.engCh + c.supply.headroom
  let unit := chImax s c.slot.port e.engCh * chRs s c.slot.port e.engCh
  if chanDemand s c e cur ≤ meas then cur
  else if meas < base then 0
  else if unit = 0 then cur
  else min cur ((meas - base) * 65535 * 1000 / unit)

/-- The current issued for channel e of slot n, with the marks of R244 where it is lowered. -/
def issueCur (n : Nat) (c : SlotCast) (e : ChanEnt) (cur : Nat) (s : State) : Nat × State :=
  let low := lowerCur s n c e cur
  if low < cur then
    (low, setBit (Reg.lsFlags n) 1 true (setBit (Reg.lcFlags e.lc) 2 true (incSat (Reg.lcCnt e.lc) 31 16 s)))
  else (cur, s)

/-! ## Channel commands (R231, R233, R326) -/

/-- Low 40 bits of a time in sixteenths. -/
def ts40 (t16 : Nat) : BitVec 40 := BitVec.ofNat 40 t16

/-- The earliest time a command that leaves now on port p can meet, in sixteenths: now plus the command lead (R79). -/
def soonest (s : State) (p : Nat) : Nat := (now s + rfld s (Reg.epLead p) 15 0) * 16

/-- An OFF for every channel of the engine (R231). -/
def cmdOff (ts : BitVec 40) : ChanCmd := { ts := ts, op := 3, ch := 31, cur := 0, ceil := 0 }

/-- A command for engine channel ch. -/
def cmdChan (ts : BitVec 40) (op ch cur ceil : Nat) : ChanCmd :=
  { ts := ts, op := op, ch := ch, cur := BitVec.ofNat 16 cur, ceil := BitVec.ofNat 16 ceil }

/-- Every channel of slot n goes dark in LCn_LEVEL. -/
def markDark (n : Nat) (s : State) : State :=
  match cfgOf s n with
  | some c => forAll (c.chmp.map (·.lc)) (fun k s => setBit (Reg.lcLevel k) 12 false s) s
  | none => s

/-- One OFF with CH 31 on port p at a time. -/
def issueOff (p : Nat) (ts : BitVec 40) (s : State) : State :=
  let s1 := sendPkt p (.edge [cmdOff ts]) s
  match slotOnPort s p with
  | some n => markDark n s1
  | none => s1

/-- Keeps the CEIL last sent per engine channel (R238). -/
def noteCeils (p : Nat) (l : List (Nat × BitVec 16)) (s : State) : State :=
  modPort p (fun q => { q with ceils := l ++ q.ceils.filter (fun x => l.all (fun y => y.1 != x.1)) }) s

/-- One LEVEL per channel of slot n at the given 12-bit codes, in CHMP order (R233, R244). -/
def issueLevels (n : Nat) (codes : List Nat) (ts : BitVec 40) (s : State) : State :=
  match cfgOf s n with
  | none => s
  | some c =>
    let r := (List.zip c.chmp codes).foldl (fun (a : List ChanCmd × State) x =>
      let i := issueCur n c x.1 (curOf a.2 x.1.lc x.2) a.2
      let ceil := rfld i.2 (Reg.lcCeil x.1.lc) 31 16
      let lit := bit (reg i.2 (Reg.lcLevel x.1.lc)) 12
      (a.1 ++ [cmdChan ts 1 x.1.engCh i.1 ceil],
       setReg (Reg.lcLevel x.1.lc) (at_ 31 16 i.1 ||| at_ 12 12 (if lit then 1 else 0) ||| at_ 11 0 x.2) i.2)) ([], s)
    noteCeils c.slot.port (r.1.map fun k => (k.ch, k.ceil)) (sendPkt c.slot.port (.level r.1) r.2)

/-- One ON per channel of slot n whose current is not 0 (R233). While the wait of R239 runs, an ON is not sent and counts
as dropped. -/
def issueOns (n : Nat) (ts : BitVec 40) (s : State) : State :=
  match cfgOf s n with
  | none => s
  | some c =>
    let on := c.chmp.filter fun e => rfld s (Reg.lcLevel e.lc) 31 16 != 0
    if on.isEmpty then s
    else if (portAt s c.slot.port).lenWait then
      forAll (on.map (·.lc)) (fun k s => setBit (Reg.lcFlags k) 0 true (incSat (Reg.lcCnt k) 15 0 s)) s
    else
      let cmds := on.map fun e => cmdChan ts 2 e.engCh 0 (rfld s (Reg.lcCeil e.lc) 31 16)
      forAll (on.map (·.lc)) (fun k s => setBit (Reg.lcLevel k) 12 true s) (sendPkt c.slot.port (.edge cmds) s)

/-! ## Supply envelope tracking (R240 to R245) -/

/-- Some channel of the slot is tracked (CHMP FLAGS bit 0). -/
def tracked (c : SlotCast) : Bool := c.chmp.any fun e => decide (e.flags % 2 = 1)

/-- Demand of the channels that are not tracked: V_req at F_CEIL at all times. -/
def untrackedDemand (s : State) (c : SlotCast) : Nat :=
  (c.chmp.filter fun e => decide (e.flags % 2 = 0)).foldl (fun a e =>
    max a (chanDemand s c e (rfld s (Reg.lcCeil e.lc) 31 16))) 0

/-- The slot emits nothing: LEN_n deasserted, contained off, or a dark frame (R245). -/
def supplyDark (s : State) (n : Nat) : Bool := !lightOn s n || emitDark s n

/-- Shows target and set-point in PM_LSn_SET. -/
def showSupply (n : Nat) (s : State) : State :=
  let u := (slotAt s n).supply
  setReg (Reg.lsSet n) (at_ 31 16 u.target ||| at_ 15 0 (u.now / 10)) s

/-- The target for a demand d of tracked channels (R240, R243, R245). -/
def targetFor (s : State) (n : Nat) (c : SlotCast) (d : Nat) : Nat :=
  if rbit s (Reg.lsHyst n) 16 || !tracked c then c.supply.vmax
  else if supplyDark s n then c.supply.vmin
  else clampN (max d (untrackedDemand s c)) c.supply.vmin c.supply.vmax

/-- Sets the target for a demand d; a demand above VMAX sets CAP (R243). -/
def setTarget (n d : Nat) (s : State) : State :=
  match cfgOf s n with
  | none => s
  | some c =>
    if (slotAt s n).supply.frozen then s
    else
      let s1 := if c.supply.vmax < max d (untrackedDemand s c) then setBit (Reg.lsFlags n) 2 true s else s
      showSupply n (modSlot n (fun q => { q with supply := { q.supply with target := targetFor s n c d } }) s1)

/-- Raises the target to a demand d, if it is higher (R241, R242). -/
def raiseTarget (n d : Nat) (s : State) : State :=
  match cfgOf s n with
  | none => s
  | some c =>
    if (slotAt s n).supply.target < targetFor s n c d ∨ c.supply.vmax < max d (untrackedDemand s c) then setTarget n d s else s

/-- Largest demand of the channels of slot n at the given 12-bit codes, through the given ceilings and maps (R241, R242). -/
def codesDemand (s : State) (c : SlotCast) (light : List (Nat × List Nat)) (codes : List Nat) : Nat :=
  ((c.chmp.zip light).zip codes).foldl (fun a x => max a (chanDemand s c x.1.1 (curAt x.1.2.1 x.1.2.2 x.2))) 0

/-- The set-point moves toward the target for some microseconds (R243); one above VMAX comes down to it, however near (R245). -/
def moveSupply (n us : Nat) (s : State) : State :=
  let rise := rfld s (Reg.lsSlew n) 31 16
  let fall := rfld s (Reg.lsSlew n) 15 0
  let hyst := rfld s (Reg.lsHyst n) 15 0
  let top := ((cfgOf s n).map fun c => c.supply.vmax * 10).getD 0
  showSupply n (modSlot n (fun q =>
    let u := q.supply
    let goal := u.target * 10
    let u' : Supply :=
      if u.now < goal then { u with now := min goal (u.now + rise * us), falling := false }
      else if u.now = goal then { u with falling := false }
      else if u.falling || decide (goal + hyst * 10 ≤ u.now) then
        { u with now := max goal (u.now - fall * us), falling := decide (goal < u.now - fall * us) }
      else if top < u.now then { u with now := max top (u.now - fall * us) }
      else u
    { q with supply := u' }) s)

/-! ## Asserting and deasserting LEN_n -/

/-- The held set of slot n is emptied (R245). -/
def emptyHeld (n : Nat) (s : State) : State :=
  setReg (Reg.lsDemand n) 0 (modSlot n (fun q => { q with trial := q.trial.map fun e => { e with demand := none } }) s)

/-- Deasserts LEN_n of port p with a cause of R237, if it is asserted: the ceilings fall to 0, one OFF goes out, the
frame's live row is lost (R254), and the supply target falls to VMIN (R245). -/
def lenDrop (p cause : Nat) (s : State) : State :=
  if lenPin s p then
    let s1 := setReg (Reg.lcLenCause p) (BitVec.ofNat 32 cause) (setBit Reg.lcLenStat (8 + p) false s)
    let s2 := modPort p (fun q => { q with lenWait := false }) (issueOff p (ts40 (soonest s1 p)) s1)
    match slotOnPort s p with
    | some n => setTarget n 0 (emptyHeld n (refreshCeil n (modSlot n (fun q =>
        { q with cal := { q.cal with acc := { q.cal.acc with blanked := true } } }) s2)))
    | none => s2
  else s

/-- Deasserts every LEN_n (R237). -/
def lenDropAll (cause : Nat) (s : State) : State := forAll (List.range 8) (fun p => lenDrop p cause) s

/-- The conditions of R236 for port p. -/
def lenMay (s : State) (p : Nat) : Bool :=
  rbit s Reg.lcLenCtrl p && inRunState s && !rbit s Reg.lcLenStat (16 + p) && decide (haltCauses s = 0) &&
  decide (linkState s p = lsRun) &&
  match slotOnPort s p with
  | some n => bound s n && !containedOff s n
  | none => false

/-- Asserts LEN_n of port p if R236 allows it and it is not asserted; the wait of R239 then runs, in which a LEVEL goes out
for every channel. -/
def lenTry (p : Nat) (s : State) : State :=
  if lenMay s p && !lenPin s p then
    let s1 := modPort p (fun q => { q with lenWait := true }) (setBit Reg.lcLenStat (8 + p) true s)
    match slotOnPort s p with
    | some n =>
      let codes := match cfgOf s n with
        | some c => c.chmp.map fun e => rfld s (Reg.lcLevel e.lc) 11 0
        | none => []
      let s2 := installMaps n (refreshCeil n s1)
      issueLevels n codes (ts40 (soonest s2 p)) s2
    | none => s1
  else s

/-- Tries every port. -/
def lenTryAll (s : State) : State := forAll (List.range 8) lenTry s

end Sys2Proof.Machine
end

