-- ==== Sys2Proof/Machine/Contain.lean ====
section
/-! DEFINITION. Dim, containment, grace and seizure as shared operations (R137, R184, R201, R442, R464 to R467). -/

set_option Elab.async false

namespace Sys2Proof.Machine

/-- An operation that may move a slot into Dim or the part between Run and Dim: vector 0 if it did (R358, R445). -/
def withDim (f : State → State) (s : State) : State := noteState f s

/-- The Dim gate and the Dim ceilings take effect on slot n (R184, R201). -/
def engageDim (n : Nat) (s : State) : State :=
  installMaps n (refreshCeil n (modSlot n (fun q => { q with gate := true, ceilDim := true }) s))

/-- A supply dip acts on slot n at once (R442): Dim ceilings, and a LEVEL at that ceiling for every lit channel, or one OFF
where the slot has no HALL record. -/
def dipNow (n : Nat) (s : State) : State :=
  match cfgOf s n with
  | none => s
  | some c =>
    let s1 := installMaps n (refreshCeil n (modSlot n (fun q => { q with ceilDim := true }) s))
    let lit := c.chmp.any fun e => rbit s (Reg.lcLevel e.lc) 12
    if !lit || !lenPin s c.slot.port then s1
    else if c.hall.isNone then issueOff c.slot.port (ts40 (soonest s1 c.slot.port)) s1
    else issueLevels n (c.chmp.map fun e => rfld s (Reg.lcLevel e.lc) 11 0) (ts40 (soonest s1 c.slot.port)) s1

/-- FR_CONTAIN as the slots stand (R464). -/
def showContain (s : State) : State :=
  let off := (List.range 8).foldl (fun a n => if (slotAt s n).contain.any (·.off) then a + 2 ^ n else a) 0
  let any := (List.range 8).foldl (fun a n => if (slotAt s n).contain.isEmpty then a else a + 2 ^ n) 0
  setReg Reg.frContain (at_ 15 8 off ||| at_ 7 0 any) s

/-- Containment of slot n for a cause (R464): off deasserts LEN_n with cause 5. -/
def containSlot (n : Nat) (cause : ContainCause) (off : Bool) (s : State) : State :=
  if !declared s n then s
  else
    let add (l : List Containment) : List Containment :=
      if l.any (fun c => c.cause == cause) then
        l.map fun c => if c.cause == cause then { c with off := c.off || off, ending := false } else c
      else l ++ [{ cause := cause, off := off, ending := false }]
    let s1 := showContain (modSlot n (fun q => { q with contain := add q.contain }) s)
    if off then refreshCeil n (lenDrop (portOf s n) 5 s1) else s1

/-- SLOT.CONTAIN of slot n asks for off (R31). -/
def containsOff (s : State) (n : Nat) : Bool :=
  match cfgOf s n with
  | some c => c.slot.contain == 1
  | none => false

/-- Every declared slot applies CONTAIN (R464). -/
def containAll (cause : ContainCause) (s : State) : State :=
  forAll (declaredSlots s) (fun n s => containSlot n cause (containsOff s n) s) s

/-- Bit of FR_GRACE of a party (R474). -/
def graceBit : Party → Nat
  | .host => 12
  | .camera c => 8 + c.val
  | .engine p => p.val

/-- The engine of port p as a party. -/
def engineParty (p : Nat) : Party := .engine (Fin.ofNat 8 p)

/-- Grace of a party begins, unless it runs already (R465). -/
def startGrace (p : Party) (s : State) : State :=
  if rbit s Reg.frGrace (graceBit p) then s
  else setBit Reg.frGrace (graceBit p) true { s with fr := { s.fr with
    graces := (graceBit p, s.linkTime) :: s.fr.graces.filter fun x => x.1 != graceBit p } }

/-- 2 ms of grace of a party have passed (R465). -/
def graceOver (s : State) (p : Party) : Bool :=
  match s.fr.graces.lookup (graceBit p) with
  | some t => rbit s Reg.frGrace (graceBit p) && decide (2 * msTicks ≤ since s t)
  | none => false

/-- A laser fault on port p (R238): FAULT latched, marks on the channels concerned, log, LEN_n, containment off, grace. -/
def laserFault (p code : Nat) (chans : List Nat) (s : State) : State :=
  let s1 := forAll chans (fun k s => setBit (Reg.lcFlags k) 3 true s) (setBit Reg.lcLenStat (16 + p) true s)
  let s2 := lenDrop p code (logEvent .LASER_FAULT clsEngine p code s1)
  let s3 := modPort p (fun q => { q with reboundSinceFault := false }) s2
  let s4 := match slotOnPort s p with
    | some n => containSlot n .laserFault true s3
    | none => s3
  startGrace (engineParty p) s4

/-- Containments of slot n that end at this boundary are dropped (R464, R467): locked says the reckoner is LOCKED. -/
def endContain (n : Nat) (locked : Bool) (s : State) : State :=
  let p := portOf s n
  let stays (c : Containment) : Bool :=
    match c.cause with
    | .engineLost => !(locked && bound s n)
    | .laserFault => !(locked && bound s n && !rbit s Reg.lcLenStat (16 + p))
    | .overtemp | .host => !c.ending
    | .memory | .camera => true
  showContain (modSlot n (fun q => { q with contain := q.contain.filter stays }) s)

/-! ## Commands -/

/-- SET_POINT_UPDATE (R243). -/
def execSetPointUpdate (n : Slot) (us : Nat) (s : State) : Host.Outcome State Fault Refusal :=
  .next (if declared s n.val then moveSupply n.val us s else s)

/-- A write of LC_LEN_CTRL (R236, R237): cleared bits deassert, set bits may assert. -/
def lenArm (v : Word) (s : State) : State :=
  let s1 := setFld Reg.lcLenCtrl 7 0 (fld v 7 0) s
  lenTryAll (forAll (List.range 8) (fun p s => if rbit s Reg.lcLenCtrl p then s else lenDrop p 4 s) s1)

/-- LEN_ARM_WRITE. -/
def execLenArmWrite (v : Word) (s : State) : Host.Outcome State Fault Refusal :=
  .next (hostWrite Reg.lcLenCtrl v lenArm s)

/-- A write of LC_LEN_STAT (R239): bit 16 + p clears FAULT bit p once the engine has been bound again. -/
def lenFaultClear (v : Word) (s : State) : State :=
  lenTryAll (forAll (List.range 8) (fun p s =>
    if bit v (16 + p) && rbit s Reg.lcLenStat (16 + p) && (portAt s p).reboundSinceFault then
      setBit Reg.lcLenStat (16 + p) false s else s) s)

/-- LEN_FAULT_CLEAR. -/
def execLenFaultClear (v : Word) (s : State) : Host.Outcome State Fault Refusal :=
  .next (hostWrite Reg.lcLenStat v lenFaultClear s)

/-- LEN_ASSERT_WAIT_END (R239): ON commands may go out again. -/
def execLenAssertWaitEnd (p : Port) (s : State) : Host.Outcome State Fault Refusal :=
  .next (modPort p.val (fun q => { q with lenWait := false }) s)

end Sys2Proof.Machine
end

