-- ==== Sys2Proof/Machine/F32.lean ====
section
/-! DEFINITION. IEEE 754 binary32 arithmetic as the estimators of R255 use it: exact results rounded to nearest, ties to
even. A finite word stands for the exact value m × 2^e. Rationals carry the derived values of R248. -/

set_option Elab.async false

namespace Sys2Proof.Machine

/-- A binary32 word is finite. -/
def f32Finite (w : Word) : Bool := fld w 30 23 != 255

/-- The exact value m × 2^e of a finite word. -/
def f32Val (w : Word) : Int × Int :=
  let e := fld w 30 23
  let f := fld w 22 0
  let m : Nat := if e = 0 then f else f + 2 ^ 23
  let x : Int := if e = 0 then -149 else (e : Int) - 150
  (if bit w 31 then - (m : Int) else (m : Int), x)

/-- The word of a sign and the positive value m × 2^e, with s set where the true value lies above it by less than one
unit of m: rounded to nearest, ties to even. -/
def f32Round (neg : Bool) (m : Nat) (e : Int) (s : Bool) : Word :=
  let sign : Word := if neg then 0x80000000 else 0
  if m = 0 then sign
  else
    let len : Int := (Nat.log2 m : Int) + 1
    -- exponent of the last place: 24 significant bits, or the subnormal last place
    let last : Int := max (e + len - 24) (-149)
    let drop : Int := last - e
    let (q, half, more) : Nat × Bool × Bool :=
      if drop ≤ 0 then (m * 2 ^ (-drop).toNat, false, s)
      else
        let d := drop.toNat
        let r := m % 2 ^ d
        (m / 2 ^ d, decide (2 ^ (d - 1) ≤ r), decide (r % 2 ^ (d - 1) ≠ 0) || s)
    let q := if half ∧ (more ∨ q % 2 = 1) then q + 1 else q
    let (q, last) : Nat × Int := if q = 2 ^ 24 then (2 ^ 23, last + 1) else (q, last)
    if q < 2 ^ 23 then sign ||| BitVec.ofNat 32 q
    else if 104 < last then sign ||| 0x7F800000
    else sign ||| (BitVec.ofNat 32 (last + 150).toNat <<< 23) ||| BitVec.ofNat 32 (q - 2 ^ 23)

/-- A quiet NaN, what an operation on a non-finite word gives here: the row that meets it is dropped (R255). -/
def f32Nan : Word := 0x7FC00000

/-- The word of the exact value m × 2^e. -/
def f32Of (m e : Int) : Word := f32Round (decide (m < 0)) m.natAbs e false

/-- Sum of two words. -/
def f32Add (x y : Word) : Word :=
  if !f32Finite x || !f32Finite y then f32Nan
  else
    let (a, e) := f32Val x
    let (b, f) := f32Val y
    let g := min e f
    let r := a * 2 ^ (e - g).toNat + b * 2 ^ (f - g).toNat
    if r = 0 then (if bit x 31 && bit y 31 then 0x80000000 else 0) else f32Of r g

/-- Negation. -/
def f32Neg (x : Word) : Word := x ^^^ 0x80000000

/-- Difference of two words. -/
def f32Sub (x y : Word) : Word := f32Add x (f32Neg y)

/-- Product of two words. -/
def f32Mul (x y : Word) : Word :=
  if !f32Finite x || !f32Finite y then f32Nan
  else
    let (a, e) := f32Val x
    let (b, f) := f32Val y
    f32Round (bit x 31 != bit y 31) (a * b).natAbs (e + f) false

/-- Quotient of two words. -/
def f32Div (x y : Word) : Word :=
  if !f32Finite x || !f32Finite y then f32Nan
  else
    let (a, e) := f32Val x
    let (b, f) := f32Val y
    if b = 0 then f32Nan
    else
      let n := a.natAbs * 2 ^ 64
      f32Round (bit x 31 != bit y 31) (n / b.natAbs) (e - f - 64) (decide (n % b.natAbs ≠ 0))

/-- The word nearest to a rational. -/
def f32OfRat (q : Rat) : Word :=
  let n := q.num.natAbs * 2 ^ 200
  f32Round (decide (q.num < 0)) (n / q.den) (-200) (decide (n % q.den ≠ 0))

/-- The exact rational of a finite word; zero for a word that is not finite. -/
def ratOfF32 (w : Word) : Rat :=
  if f32Finite w then
    let (m, e) := f32Val w
    if 0 ≤ e then ((m * 2 ^ e.toNat : Int) : Rat) else mkRat m (2 ^ (-e).toNat)
  else 0

/-! ## Vectors and matrices, summed in index order -/

/-- Inner product. -/
def f32Dot : List Word → List Word → Word
  | x :: xs, y :: ys => (List.zip xs ys).foldl (fun a p => f32Add a (f32Mul p.1 p.2)) (f32Mul x y)
  | _, _ => 0

/-- Matrix times vector. -/
def f32MulVec (m : List (List Word)) (v : List Word) : List Word := m.map (fun r => f32Dot r v)

/-- Row vector times matrix. -/
def f32VecMul (v : List Word) (m : List (List Word)) : List Word :=
  (List.range ((m.head?.map List.length).getD 0)).map fun j => f32Dot v (m.map fun r => (r[j]?).getD 0)

/-- The square root of a rational that is not negative, as a binary32 word; the sticky bit is exact. -/
def f32Sqrt (q : Rat) : Word :=
  if q ≤ 0 then 0
  else
    let n := q.num.natAbs * 2 ^ 300 / q.den
    let r := isqrt n
    f32Round false r (-150) (decide (r * r ≠ n) || decide (q.num.natAbs * 2 ^ 300 % q.den ≠ 0))

/-- Rational rounded to an integer, half away from zero. -/
def ratRound (q : Rat) : Int := divRound q.num q.den

/-- Rational rounded to an integer, half up. -/
def ratHalfUp (q : Rat) : Int := divHalfUp q.num q.den

/-- The square root of a rational that is not negative, rounded down to a multiple of 2^-60. -/
def ratSqrt (q : Rat) : Rat :=
  if q ≤ 0 then 0 else mkRat (isqrt (q.num.natAbs * 2 ^ 120 / q.den)) (2 ^ 60)

end Sys2Proof.Machine
end

