-- ==== Sys2Proof/Machine/Phase.lean ====
section
/-! DEFINITION. The phase reckoner (R59 to R72, R81 to R84): projection, measured points, SYNC edges, loss and relock. -/

set_option Elab.async false

namespace Sys2Proof.Machine

/-! ## Phase words (R60) -/

/-- Pu per cycle. -/
def cyclePu : Nat := 2 ^ 24

/-- The mode of slot n in use. -/
def modeNow (s : State) (n : Nat) : ModeRec :=
  ((cfgOf s n).bind fun c => c.slot.modes[(slotAt s n).mode]?).getD { rate := 0, count := 0, seq := 0 }

/-- ω of a free-running source in 2^-32 pu per period (R62). -/
def freeOmega (rate : Nat) (trim : Int) : BitVec 40 :=
  BitVec.ofInt 40 (divHalfUp (2 ^ 56 * rate * (1000000 + trim)) (3200000000000 * 1000000))

/-- TFn_TRIM as a signed number. -/
def trimOf (s : State) (n : Nat) : Int := signed 16 (rfld s (Reg.tfTrim n) 15 0)

/-- Periods from a past measured point to a link time, signed. -/
def dtOf (r : Reckoner) (t : LinkTime) : Int := (t - r.tM).toInt

/-- Projection from the measured point (R68): fractions below FRAC are dropped (log entry 30). -/
def projFree (r : Reckoner) (t : LinkTime) : PhaseWord :=
  let dt := dtOf r t
  r.phiM + BitVec.ofInt 56 (((r.omega.toNat : Int) * dt * 2 ^ 17 + r.beta.toInt * dt * dt) / 2 ^ 33)

/-- Signed difference of two phase words, in 2^-16 pu. -/
def phDiff (a b : PhaseWord) : Int := (a - b).toInt

/-- The projection, which never moves backward (R68). -/
def proj (r : Reckoner) (t : LinkTime) : PhaseWord :=
  let p := projFree r t
  if phDiff p r.phiHeld < 0 then r.phiHeld else p

/-- ω with drift at a link time, in 2^-48 pu per period (R68). -/
def omegaAt (r : Reckoner) (t : LinkTime) : Int := (r.omega.toNat : Int) * 2 ^ 16 + r.beta.toInt * dtOf r t

/-- A phase word at a whole pu of a cycle. -/
def phWord (cyc : Nat) (pu : Int) : PhaseWord := BitVec.ofInt 56 (((cyc : Int) * 2 ^ 24 + pu) * 2 ^ 16)

/-- Cycle of a phase word. -/
def phCyc (p : PhaseWord) : Nat := fld p 55 40

/-- Phase in 2^-16 pu within its cycle. -/
def phFrac (p : PhaseWord) : Nat := fld p 39 0


/-- The reckoner projects (R72). -/
def projects (r : Reckoner) : Bool := r.st != .idle && r.st != .acquire

/-- Changes the reckoner of slot n. -/
def modReck (n : Nat) (f : Reckoner → Reckoner) (s : State) : State := modSlot n (fun q => { q with reck := f q.reck }) s

/-- Link time of the reckon step after the present one (R68: a step every 8 periods). -/
def nextStep (s : State) : LinkTime := s.linkTime / 8 * 8 + 8

/-- The reckoner of slot n. -/
def reckOf (s : State) (n : Nat) : Reckoner := (slotAt s n).reck

/-- State code of TFn_STATE (R72). -/
def reckCode : ReckState → Nat
  | .idle => 0
  | .acquire => 1
  | .locked => 2
  | .slewing => 3
  | .freeRun => 4
  | .hold => 5

/-! ## A reckon step of one slot, before events issue (R62, R68 to R70) -/

/-- The free-running reference event: the first common cycle start at or after entry, taken once it has come (R62). The
measured point stands at link time 0, where the phase of that reference event makes it exact. -/
def freeAcquire (rate : Nat) (trim : Int) (offset : Nat) (t : LinkTime) (r : Reckoner) : Reckoner :=
  let w := freeOmega rate trim
  let m := ceilDiv (w.toNat * r.tAcq.toNat) (2 ^ 56)
  if w = 0 ∨ w.toNat * t.toNat < m * 2 ^ 56 then r
  else
    let r1 := { r with st := .locked, tM := 0, omega := w, beta := 0, phiM := phWord 0 (-(offset : Int) - m * 2 ^ 24),
                       next := none, omegaNext := none, seenBoundary := false, frameCyc := 0 }
    { r1 with phiHeld := projFree r1 t }

/-- Takes a new measured point at the step at link time t and shows the correction (R69, R70). DESIGN CHOICE: the spec gives
TFn_JUMP whole pu and no rounding; the model rounds the correction half away from zero (log entry 76). -/
def takePoint (n : Nat) (t : LinkTime) (s : State) : State :=
  let r := reckOf s n
  match r.next with
  | some m =>
    let r1 := { r with phiM := m.phi, tM := m.t, omega := m.omega, beta := m.beta, next := none, omegaNext := none }
    let corr := phDiff (projFree r1 t) (projFree r t)
    let s1 := setReg (Reg.tfJump n) (BitVec.ofInt 32 (divRound corr 65536)) (modReck n (fun _ => r1) s)
    if 65536 * 65536 < corr.natAbs then setBit (Reg.tfFlags n) 2 true s1 else s1
  | none =>
    match r.omegaNext with
    | some w => modReck n (fun r => { r with phiM := proj r t, tM := t, omega := w, omegaNext := none }) s
    | none => s

/-- The projection of slot n at a step, after the new point (R68). -/
def reckonSlot (n : Nat) (t : LinkTime) (s : State) : State :=
  match cfgOf s n with
  | none => s
  | some c =>
    let r := reckOf s n
    if r.st = .idle then s
    else if r.st = .acquire then
      if c.phse.source = 0 then modReck n (freeAcquire (modeNow s n).rate (trimOf s n) c.phse.offset t) s else s
    else modReck n (fun r => { r with phiHeld := proj r t }) (takePoint n t s)

/-! ## Measured points (R69) -/

/-- A measured point for the next reckon step. -/
def setNext (phi : PhaseWord) (t : LinkTime) (omega : BitVec 40) (beta : BitVec 64) (r : Reckoner) : Reckoner :=
  { r with next := some { phi := phi, t := t, omega := omega, beta := beta } }

/-- MEASURED_POINT: taken while the reckoner corrects on measured points, which it does in LOCKED alone (R72, R83). -/
def execMeasuredPoint (n : Slot) (phi : PhaseWord) (t : LinkTime) (omega : BitVec 40) (beta : BitVec 64) (s : State) :
    Host.Outcome State Fault Refusal :=
  .next (whileUp (fun s =>
    if declared s n.val ∧ (reckOf s n.val).st = .locked then modReck n.val (setNext phi t omega beta) s else s) s)

/-! ## SYNC sources (R63 to R65, R81 to R83) -/

/-- Phase of expected edge k after a reference edge, in 2^-16 pu (R63). -/
def edgeOff (div k : Nat) : Int := ((k * 2 ^ 40 / div : Nat) : Int)

/-- Moves the expected edge on by one, from an edge of index k at phase e (R63). -/
def nextExpected (div k : Nat) (e : PhaseWord) (r : Reckoner) : Reckoner :=
  { r with k := (k + 1) % div, expected := e + BitVec.ofInt 56 (edgeOff div (k + 1) - edgeOff div k) }

/-- ω from the mean of edge intervals (R65), each Δt over m + 1. Eight are kept, the most that AVG can ask for. -/
def syncOmega (div : Nat) (ivals : List (Nat × Nat)) (old : BitVec 40) : BitVec 40 :=
  let sum : Rat := ivals.foldl (fun a x => a + (x.1 : Rat) / (x.2 : Rat)) 0
  if sum = 0 then old else BitVec.ofInt 40 (ratHalfUp ((2 : Rat) ^ 56 * (ivals.length : Rat) / ((div : Rat) * sum)))

/-- The measured phase nearest to a projection p (R63, R67): m is the phase within the cycle. -/
def nearest (p : PhaseWord) (m : Int) : PhaseWord :=
  let d := (m - (phFrac p : Int)) % 2 ^ 40
  p + BitVec.ofInt 56 (if d < 2 ^ 39 then d else d - 2 ^ 40)

/-- The reference edge in ACQUIRE (R63, R65). -/
def syncReference (rate : Nat) (trim : Int) (div offset : Nat) (t : LinkTime) (r : Reckoner) : Reckoner :=
  let e := phWord 0 (-(offset : Int))
  nextExpected div 0 e { r with
    st := .locked, phiM := e, tM := t, phiHeld := e, omega := freeOmega rate trim, beta := 0, next := none,
    omegaNext := none, lastEdge := some t, missed := 0, consec := 0, ivals := [], realign := false, cands := [],
    slewErr := 0, adj := 0, snap := false, seenBoundary := false, frameCyc := 0 }

/-- An edge at link time t is accepted in LOCKED or SLEWING (R64). -/
def syncAccepts (win rate div : Nat) (t : LinkTime) (r : Reckoner) : Bool :=
  let p := proj r t + BitVec.ofInt 56 (r.slewErr * 2 ^ 16)
  let gap : Int := ((t - r.lastEdge.getD t).toNat : Int) * rate * div
  let nom : Int := 3200000000000 * (r.missed + 1)
  decide ((phDiff p r.expected).natAbs ≤ win * 65536) && decide ((gap - nom).natAbs * 50 ≤ nom.natAbs)

/-- An accepted edge (R63 to R65, R83): in LOCKED it is a measured point, in SLEWING it changes ω alone. -/
def syncTracked (avg div offset : Nat) (t : LinkTime) (r : Reckoner) : Reckoner :=
  let k := if r.realign then 0 else r.k
  let ivals := (((t - r.lastEdge.getD t).toNat, r.missed + 1) :: r.ivals).take 8
  let w := syncOmega div (ivals.take (2 ^ avg)) r.omega
  let p := proj r t + BitVec.ofInt 56 (r.slewErr * 2 ^ 16)
  let e := nearest p (edgeOff div k - offset * 2 ^ 16)
  let r1 := nextExpected div k e { r with
    ivals := ivals, lastEdge := some t, missed := 0, consec := 0, realign := false }
  if r.st = .locked then setNext e t w 0 r1 else { r1 with omegaNext := some w }

/-- The phase error at relock, in whole pu from −2^23 to 2^23 − 1 (R83). DESIGN CHOICE: the spec gives no rounding of the
error; the model rounds it half away from zero and drops the fraction (log entry 76). -/
def relockErr (d : Int) : Int :=
  let e := divRound d 65536
  if e = 2 ^ 23 then -2 ^ 23 else e

/-- An edge in FREE_RUN (R83): a candidate, or the relock at the third edge of a passing run, which enters SLEWING. The
reference edge stands where the projection will have absorbed the error. -/
def syncCandidate (div offset : Nat) (snap : Bool) (t : LinkTime) (r : Reckoner) : Reckoner :=
  let ok : Bool := match r.cands with
    | [] => true
    | c :: _ =>
      let gap : Int := ((t - c).toNat : Int) * div * r.omega.toNat
      decide ((gap - 2 ^ 56).natAbs * 100 ≤ 2 ^ 56)
  let cands := if ok then t :: r.cands else [t]
  match cands with
  | [c2, c1, c0] =>
    let ivals := [((c2 - c1).toNat, 1), ((c1 - c0).toNat, 1)]
    let p := proj r t
    let d := phDiff (nearest p (-(offset : Int) * 2 ^ 16)) p
    let err := relockErr d
    let e := p + BitVec.ofInt 56 (if 0 < d ∧ err < 0 then d - 2 ^ 40 else d)
    nextExpected div 0 e { r with
      st := .slewing, cands := [], ivals := ivals, omegaNext := some (syncOmega div ivals r.omega), lastEdge := some t
      missed := 0, consec := 0, realign := false, slewErr := err, adj := 0, snap := snap }
  | _ => { r with cands := cands }

/-- A SYNC edge as one slot that follows its input takes it (R63, R64, R83). -/
def syncEdgeSlot (t : LinkTime) (n : Nat) (s : State) : State :=
  match cfgOf s n with
  | none => s
  | some c =>
    let r := reckOf s n
    let rate := (modeNow s n).rate
    let div := c.phse.div
    match r.st with
    | .acquire => modReck n (syncReference rate (trimOf s n) div c.phse.offset t) s
    | .locked | .slewing =>
      if syncAccepts (rfld s (Reg.tfSyncWin n) 23 0) rate div t r then
        modReck n (syncTracked (rfld s (Reg.tfCtrl n) 5 4) div c.phse.offset t) s
      else incSat (Reg.tfCntA n) 15 0 s
    | .freeRun =>
      let s1 := modReck n (syncCandidate div c.phse.offset (rbit s (Reg.tfCtrl n) 1) t) s
      if (reckOf s1 n).snap then modSlot n (fun q => { q with darkSnap := true }) s1 else s1
    | .idle | .hold => s

/-- Slot n follows edge polarity `falling` of SYNC input m (R35). -/
def followsSync (s : State) (m : Nat) (falling : Bool) (n : Nat) : Bool :=
  match cfgOf s n with
  | some c => c.phse.source == 1 && c.phse.input == m && (c.phse.edge == 1) == falling
  | none => false

/-- SYNC_EDGE (R63, R64, R83, R351): the timestamp is kept, and every slot that follows the input takes the edge. -/
def execSyncEdge (m : SyncId) (falling : Bool) (t : LinkTime) (s : State) : Host.Outcome State Fault Refusal :=
  .next (whileUp (fun s => forAll ((List.range 8).filter (followsSync s m.val falling)) (syncEdgeSlot t)
    (setReg (Reg.sbSyncT m.val falling) (t.setWidth 32) s)) s)

/-- The projection, with the error not yet absorbed, has passed the expected edge plus TFn_SYNC_WIN (R81, R64). -/
def edgePassed (win : Nat) (t : LinkTime) (r : Reckoner) : Bool :=
  decide ((win * 65536 : Nat) < phDiff (proj r t + BitVec.ofInt 56 (r.slewErr * 2 ^ 16)) r.expected)

/-- An expected edge has passed with none accepted (R81, R82). -/
def syncMissed (n : Nat) (s : State) : State :=
  match cfgOf s n with
  | none => s
  | some c =>
    let r := reckOf s n
    if c.phse.source = 1 ∧ (r.st = .locked ∨ r.st = .slewing) ∧ edgePassed (rfld s (Reg.tfSyncWin n) 23 0) s.linkTime r then
      let s1 := incSat (Reg.tfCntA n) 31 16 (modReck n (fun r =>
        nextExpected c.phse.div r.k r.expected { r with missed := r.missed + 1, consec := r.consec + 1 }) s)
      if 2 ≤ (reckOf s1 n).consec then
        raiseVec 3 (logEvent .SYNC_LOST clsPart n c.phse.input (setBit (Reg.tfFlags n) 0 true
          (modSlot n (fun q => { q with darkSnap := false }) (modReck n (fun r => { r with
            st := .freeRun, next := none, slewErr := 0, adj := 0, snap := false, cands := [] }) s1))))
      else s1
    else s

/-- SYNC_MISSED. -/
def execSyncMissed (n : Slot) (s : State) : Host.Outcome State Fault Refusal := .next (whileUp (syncMissed n.val) s)

/-! ## Pickoff sources (R66, R84) -/

/-- The pickoff source of slot n is lost (R84). -/
def pickoffLost (n : Nat) (s : State) : State :=
  match cfgOf s n with
  | none => s
  | some c =>
    if c.phse.source = 2 ∧ (reckOf s n).st = .locked then
      logEvent .PICKOFF_LOST clsEngine c.slot.port 0 (setBit (Reg.tfFlags n) 1 true
        (modReck n (fun r => { r with st := .hold }) s))
    else s

/-! ## Frame boundaries in SLEWING (R83) -/

/-- What a frame boundary at phase 0 of cycle cyc does to a slewing reckoner: the frame that ends was lengthened or shortened,
or takes the whole error; the next frame takes its share. -/
def slewBoundary (slew cyc : Nat) (r : Reckoner) : Reckoner :=
  if r.st = .slewing then
    if r.snap then
      let d := phWord 0 r.slewErr
      { r with st := .locked, snap := false, slewErr := 0, phiM := r.phiM + d,
               phiHeld := if r.slewErr < 0 then r.phiHeld else r.phiHeld + d }
    else
      let d := phWord 0 r.adj
      let r1 := { r with phiM := r.phiM + d, phiHeld := r.phiHeld + d, slewErr := r.slewErr - r.adj, adj := 0 }
      if r1.slewErr = 0 then { r1 with st := .locked }
      else { r1 with adj := clampI r1.slewErr (-(slew : Int)) slew, adjCyc := cyc }
  else r

/-! ## Crossing times (R68, R78) -/

/-- Where the projection in force will stand at phase p: a phase of a later frame than one that a slew lengthens or
shortens comes by that much later or earlier (R83). -/
def slewed (r : Reckoner) (p : PhaseWord) : PhaseWord :=
  if r.adj ≠ 0 ∧ 0 < (BitVec.ofInt 16 ((phCyc p : Int) - r.adjCyc)).toInt then p - phWord 0 r.adj else p

/-- Cycles of a frame of slot n: CPF on a scanner slot, 1 on an array slot (R59, R192). -/
def frameCycles (s : State) (n : Nat) : Nat :=
  match cfgOf s n with
  | some c => if c.slot.cls = 2 then max 1 ((modeNow s n).count / 2) else 1
  | none => 1

/-- The next count above m that is a multiple of k. -/
def nextMultiple (m k : Nat) : Nat := (m / k + 1) * k

/-- The cycle at whose phase 0 the next boundary of slot n falls: the next whose count is a multiple of the cycles of a frame,
which is cycle 0 first (R59; log entry 77). -/
def boundaryCyc (s : State) (n : Nat) : Nat :=
  let r := reckOf s n
  if r.seenBoundary then nextMultiple r.frameCyc (frameCycles s n) else 0

/-- The projection of slot n has reached its next frame boundary (R59). -/
def boundaryDue (s : State) (n : Nat) : Bool :=
  let r := reckOf s n
  projects r && decide (0 ≤ phDiff (proj r s.linkTime) (slewed r (phWord (boundaryCyc s n) 0)))

/-- Link time of a phase in sixteenths of a period, from the projection in force at t (R78); none where ω with drift is
not positive, so that no crossing comes. -/
def crossing (r : Reckoner) (t : LinkTime) (p : PhaseWord) : Option Int :=
  let w := omegaAt r t
  if w ≤ 0 then none
  else some ((t.toNat : Int) * 16 + divHalfUp (16 * 2 ^ 32 * phDiff (slewed r p) (proj r t)) w.toNat)

/-- An event word (R74). -/
def eventWord (cyc pu kind handle : Nat) : BitVec 64 :=
  BitVec.ofNat 64 ((cyc % 256) * 2 ^ 56 + (pu % 2 ^ 24) * 2 ^ 32 + (kind % 16) * 2 ^ 28 + handle % 2 ^ 24)

def evKind (e : BitVec 64) : Nat := fld e 31 28
def evHandle (e : BitVec 64) : Nat := fld e 23 0
def evPu (e : BitVec 64) : Nat := fld e 55 32

/-- The phase word an event falls at: its cycle is the one with these low 8 bits nearest to the reckoner's (R74, R75). -/
def evPhase (r : Reckoner) (e : BitVec 64) : PhaseWord :=
  let now := phCyc r.phiHeld
  let d := signed 8 ((fld e 63 56 + 256 - now % 256) % 256)
  phWord 0 (((now : Int) + d) * 2 ^ 24 + evPu e)

/-! ## Lanes (R73, R76) -/

/-- Capacity of a lane. -/
def laneCap : Lane → Nat
  | .edge => 96
  | .payload => 64
  | .cal => 32

/-- The events standing in a lane, and those that wait for room. -/
def laneOf (l : Lanes) : Lane → List (BitVec 64)
  | .edge => l.edge
  | .payload => l.payload
  | .cal => l.cal
def waitOf (l : Lanes) : Lane → List (BitVec 64)
  | .edge => l.edgeWait
  | .payload => l.payloadWait
  | .cal => l.calWait

/-- Lanes with one lane and its waiting events replaced. -/
def withLane (l : Lanes) (k : Lane) (xs ws : List (BitVec 64)) : Lanes :=
  match k with
  | .edge => { l with edge := xs, edgeWait := ws }
  | .payload => { l with payload := xs, payloadWait := ws }
  | .cal => { l with cal := xs, calWait := ws }

/-- A producer inserts events in order: those beyond the lane's room wait, and each wait counts (R76). DESIGN CHOICE: of an
insertion of several events each one without room counts one wait, at the insertion (log entry 76). -/
def insertEvents (n : Nat) (k : Lane) (evs : List (BitVec 64)) (s : State) : State :=
  let l := (slotAt s n).lanes
  let room := if (waitOf l k).isEmpty then laneCap k - (laneOf l k).length else 0
  let s1 := modSlot n (fun q => { q with
    lanes := withLane q.lanes k (laneOf l k ++ evs.take room) (waitOf l k ++ evs.drop room) }) s
  if evs.length ≤ room then s1
  else setBit (Reg.tfFlags n) 4 true (addSat (Reg.tfCntB n) 15 0 (evs.length - room) s1)

/-- A phase lies no more than 127 cycles ahead of the reckoner's cycle (R75). -/
def nearEnough (r : Reckoner) (p : PhaseWord) : Bool :=
  decide ((BitVec.ofInt 16 ((phCyc p : Int) - phCyc r.phiHeld)).toInt ≤ 127)

/-- Calibration gap events, with their phases, in order: those more than 127 cycles ahead, and all after them, wait until the
reckoner has come near enough (R75). -/
def insertCal (n : Nat) (evs : List (PhaseWord × BitVec 64)) (s : State) : State :=
  let r := reckOf s n
  let all := (slotAt s n).lanes.calLater ++ evs
  insertEvents n .cal ((all.takeWhile fun x => nearEnough r x.1).map (·.2))
    (modSlot n (fun q => { q with lanes := { q.lanes with calLater := all.dropWhile fun x => nearEnough r x.1 } }) s)

/-- A waiting event enters its lane once there is room (R76). -/
def laneRoom (n : Nat) (k : Lane) (s : State) : State :=
  modSlot n (fun q =>
    match waitOf q.lanes k with
    | [] => q
    | e :: ws =>
      if (laneOf q.lanes k).length < laneCap k then
        { q with lanes := withLane q.lanes k (laneOf q.lanes k ++ [e]) ws } else q) s

/-- LANE_ROOM_INSERT. -/
def execLaneRoomInsert (n : Slot) (lane : Lane) (s : State) : Host.Outcome State Fault Refusal :=
  .next (whileUp (laneRoom n.val lane) s)

end Sys2Proof.Machine
end

