-- ==== Sys2Proof/Machine/Pitch.lean ====
section
/-! DEFINITION. The pitch store (R91 to R97, R113, R172, R251): pending and active copies, which bits the host may write,
and the host write of a header word with its checks (R93, R114, R116, R147, R178). -/

set_option Elab.async false

namespace Sys2Proof.Machine

/-- Pitch types (R93). -/
def tyEmpty : Nat := 0
def tyVideo : Nat := 1
def tyGraphic : Nat := 2
def tyMask : Nat := 3
def tyPlaneSeq : Nat := 4
def tyCalJob : Nat := 5

/-- Word w of pitch p, pending copy. -/
def pendW (s : State) (p w : Nat) : Word := reg s (Reg.pitch p w)

/-- Word w of pitch p, active copy. -/
def actW (s : State) (p w : Nat) : Word := s.pitchAct.get (16 * p + w)

/-- Writes a pending word. -/
def setPendW (p w : Nat) (v : Word) (s : State) : State := setReg (Reg.pitch p w) v s

/-- Writes an active word. -/
def setActW (p w : Nat) (v : Word) (s : State) : State := { s with pitchAct := s.pitchAct.set (16 * p + w) v }

/-- TYPE, EN and OWNER of a header word (R95). -/
def hdrType (w0 : Word) : Nat := fld w0 31 28
def hdrEn (w0 : Word) : Bool := bit w0 27
def hdrParked (w0 : Word) : Bool := bit w0 26
def hdrOwner (w0 : Word) : Bool := bit w0 25

/-- The slot a pitch belongs to (R92). -/
def pitchSlot (s : State) (p : Nat) : Option Nat :=
  (List.range 8).find? fun n => match cfgOf s n with
    | some c => decide (c.pipe.pitchBase ≤ p ∧ p < c.pipe.pitchBase + c.pipe.pitches)
    | none => false

/-- Pitches of a slot. -/
def pitchesOf (c : SlotCast) : List Nat := (List.range c.pipe.pitches).map (c.pipe.pitchBase + ·)

/-- Pitch of a layer code: video v as v, graphic g as 0x10 + g (R32, R92). -/
def layerPitch (c : SlotCast) (code : Nat) : Nat :=
  if code < 0x10 then c.pipe.pitchBase + code else c.pipe.pitchBase + c.pipe.nvid + (code - 0x10)

/-- Layer codes a slot declares. -/
def layerCodes (c : SlotCast) : List Nat := List.range c.pipe.nvid ++ (List.range c.pipe.ngfx).map (0x10 + ·)

/-- Pitch p is a layer position of the slot (R92). -/
def isLayerPitch (c : SlotCast) (p : Nat) : Bool := decide (p < c.pipe.pitchBase + c.pipe.nvid + c.pipe.ngfx)

/-- The general pitches of a slot (R92). -/
def generalPitches (c : SlotCast) : List Nat := (pitchesOf c).filter fun p => !isLayerPitch c p

/-- Layer code of a layer pitch. -/
def pitchCode (c : SlotCast) (p : Nat) : Nat :=
  let i := p - c.pipe.pitchBase
  if i < c.pipe.nvid then i else 0x10 + (i - c.pipe.nvid)

/-- Bits of word w that the host may write, by pitch type (R97, R113, R172, R251). -/
def pitchMask (ty w : Nat) : Word :=
  match ty, w with
  | 1, 1 => 0xFC7FFFFF
  | 2, 1 => 0xFC7FFFFF
  | 1, 4 => 0xFF3F
  | 2, 4 => 0xFF3F
  | 1, 15 => 0
  | 2, 15 => 0
  | 1, _ => 0xFFFFFFFF
  | 2, w => if w < 8 then 0xFFFFFFFF else 0
  | 3, 6 => 0xFF00FFFF
  | 3, w => if w < 11 then 0xFFFFFFFF else 0
  | 4, 1 => 0xF0FFFFFF
  | 4, 2 => 0x00FFFFFF
  | 4, w => if 4 ≤ w ∧ w < 10 then 0xFFFFFFFF else 0
  | 5, 1 => 0xF0FFFF07
  | 5, 3 => 0xFFFF1FFF
  | 5, w => if w = 2 ∨ w = 4 then 0xFFFFFFFF else 0
  | _, _ => 0

/-- Cold contents of word w of a layer pitch (R97): GALPHA 0xFF, and the identity matrix on video layers. -/
def layerCold (ty w : Nat) : Word :=
  if w = 4 then 0xFF00
  else if ty = tyVideo ∧ (w = 9 ∨ w = 11 ∨ w = 13) then 0x1000 else 0

/-- Empties pitch p: both copies, and its header for slot n with a type. -/
def buildPitch (n ty p : Nat) (s : State) : State :=
  forAll (List.range 16) (fun w s =>
    let v := if w = 0 then at_ 31 28 ty ||| at_ 23 21 n else if ty = 1 ∨ ty = 2 then layerCold ty w else 0
    setActW p w v (setPendW p w v s)) s

/-- Returns pitch p to the free pool, where it reads 0 (R92, R7). -/
def freePitch (p : Nat) (s : State) : State :=
  forAll (List.range 16) (fun w s => setActW p w 0 (setPendW p w 0 s)) s

/-- The type a slot gives pitch p when it is built (R93). -/
def builtType (c : SlotCast) (p : Nat) : Nat :=
  let i := p - c.pipe.pitchBase
  if i < c.pipe.nvid then tyVideo else if i < c.pipe.nvid + c.pipe.ngfx then tyGraphic else tyEmpty

/-- Copies words 0 to 14 of pitch p from the pending to the active copy. -/
def copyPitch (p : Nat) (s : State) : State := forAll (List.range 15) (fun w s => setActW p w (pendW s p w) s) s

/-- PARKED of every pitch of slot n (R96). -/
def setParked (n : Nat) (b : Bool) (s : State) : State :=
  match cfgOf s n with
  | none => s
  | some c => forAll (pitchesOf c) (fun p s => setBit (Reg.pitch p 0) 26 b s) s

/-- Pitch p is parked. -/
def parked (s : State) (p : Nat) : Bool := hdrParked (pendW s p 0)

/-- Masks of a slot in force: TYPE 3 and EN in the active copy, not parked (R96, R113). -/
def activeMasks (s : State) (c : SlotCast) : List Nat :=
  (generalPitches c).filter fun p => hdrType (actW s p 0) == tyMask && hdrEn (actW s p 0) && !parked s p

/-- Enabled masks of the slot in the pending copies, with one header as it would be written (R116). -/
def masksAfter (s : State) (c : SlotCast) (p : Nat) (w0 : Word) : Nat :=
  ((generalPitches c).filter fun q =>
    let h := if q = p then w0 else pendW s q 0
    hdrType h == tyMask && hdrEn h).length

/-- A pitch that the pending commit or a deferral of its slot freezes (R145, R147, R152): a layer pitch, or a host-owned
mask with header w0. -/
def commitFreezes (s : State) (n : Nat) (c : SlotCast) (p : Nat) (w0 : Word) : Bool :=
  let q := slotAt s n
  if isLayerPitch c p then q.commit.isSome || q.deferred.contains (pitchCode c p)
  else q.commit.isSome && hdrType w0 == tyMask && !hdrOwner w0

/-- Largest COUNT of the listed modes that use table m (R178). -/
def tableMax (c : SlotCast) : Nat := nmax c

/-- A pitch of a table whose swap is pending (R178). -/
def swapFreezes (s : State) (n : Nat) (c : SlotCast) (p : Nat) : Bool :=
  (slotAt s n).swaps.any fun m =>
    let b := rfld s (Reg.slSeq n m.1) 11 0
    decide (b ≤ p ∧ p < b + tableMax c)

/-- Marks a dropped write on PEND_WR of scan-out (R147). -/
def pendWr (n : Nat) (s : State) : State := setBit (Reg.soFlags n) 7 true s

/-- Marks a dropped write on PEND_WR of the slicer (R178). -/
def slPendWr (n : Nat) (s : State) : State := setBit (Reg.slFlags n) 2 true s

/-- R93: the header write is refused for its TYPE. -/
def typeRefused (c : SlotCast) (p : Nat) (old v : Word) : Bool :=
  if isLayerPitch c p then hdrType v != hdrType old
  else hdrType v == 1 || hdrType v == 2 || decide (5 < hdrType v) ||
    (hdrType v == tyPlaneSeq && c.slot.cls == 2) || (hdrType v != hdrType old && hdrEn v)

/-- The pending header that a host write v leaves: TYPE, EN, and OWNER on masks; the rest as it is (R95). -/
def hdrAfter (old v : Word) : Word :=
  let m : Word := if hdrType v = tyMask then 0xFA000000 else 0xF8000000
  (old &&& 0x05FFFFFF) ||| (v &&& m)

/-- A host write of a pitch header that passed every check: a change of TYPE clears W1 to W14 of both copies; a mask of
the sensor bridge takes it in both copies at once (R93, R114). -/
def applyHeader (p : Nat) (v : Word) (s : State) : State :=
  let old := pendW s p 0
  let w := hdrAfter old v
  let s1 := if hdrType v = hdrType old then s
    else forAll ((List.range 14).map (· + 1)) (fun i s => setActW p i 0 (setPendW p i 0 s)) s
  let s2 := setPendW p 0 w s1
  if (hdrType old = tyMask ∧ hdrOwner old) ∨ (hdrType w = tyMask ∧ hdrOwner w) then setActW p 0 w s2 else s2

/-- A host write of W0 of pitch p (R93, R114, R116, R147, R178); the pitch belongs to slot n. -/
def hostHeader (n : Nat) (c : SlotCast) (p : Nat) (v : Word) (s : State) : State :=
  let old := pendW s p 0
  let w := hdrAfter old v
  if typeRefused c p old v then setBit (pxErr s n) 1 true s
  else if (commitFreezes s n c p old && (isLayerPitch c p || !(hdrType w == tyMask && hdrOwner w))) ||
      (commitFreezes s n c p w && !(hdrType old == tyMask && hdrOwner old)) then pendWr n s
  else if swapFreezes s n c p then slPendWr n s
  else if hdrType old = tyMask ∧ hdrOwner old ∧ ¬ hdrOwner w ∧ hdrEn w then setBit (pxErr s n) 0 true s
  else if hdrType w = tyMask ∧ hdrEn w ∧ c.pipe.maskMax < masksAfter s c p w then setBit (pxErr s n) 2 true s
  else applyHeader p v s

/-- A host write of W1 to W14 of pitch p (R97, R113, R114, R147, R172, R178, R251). -/
def hostPitchWord (n : Nat) (c : SlotCast) (p w : Nat) (v : Word) (s : State) : State :=
  let h := pendW s p 0
  let m := pitchMask (hdrType h) w
  if hdrType h = tyMask ∧ hdrOwner h then setBit (pxErr s n) 0 true s
  else if commitFreezes s n c p h then pendWr n s
  else if swapFreezes s n c p then slPendWr n s
  else setPendW p w ((pendW s p w &&& ~~~m) ||| (v &&& m)) s

/-- What a read of word w of pitch p returns (R94): W15 shows the active copy. -/
def readPitch (s : State) (p w : Nat) : Word :=
  match pitchSlot s p with
  | none => 0
  | some n =>
    if w = 15 then
      let a := actW s p 0
      let act : Bool := match hdrType (pendW s p 0) with
        | 4 =>
          match (cfgOf s n).bind fun c => c.slot.modes[(slotAt s n).mode]? with
          | some m => (slotAt s n).tables.any fun t => t.1 == m.seq && decide (t.2.1 ≤ p ∧ p < t.2.1 + m.count)
          | none => false
        | 3 => hdrEn a && hdrType a == tyMask && !parked s p
        | _ => hdrEn a
      putFld (pendW s p 15) 31 31 (if act then 1 else 0)
    else pendW s p w

/-- PXn_MASKS.ACTIVE (R124). -/
def masksActive (s : State) (n : Nat) : Nat :=
  match cfgOf s n with
  | none => 0
  | some c => ((generalPitches c).filter fun p => hdrType (actW s p 0) == tyMask && hdrEn (actW s p 0)).length

end Sys2Proof.Machine
end

