-- ==== Sys2Proof/Machine/Layers.lean ====
section
/-! DEFINITION. Composition (R97 to R112): layer sources, format expansion, scaling, colour matrix, blending, hidden tiles;
the Hallmark content (R125, R131, R133) and shading masks (R117 to R122). -/

set_option Elab.async false

namespace Sys2Proof.Machine

/-! ## Pixels (R99, R100) -/

/-- A pixel: alpha and three colour components of 16 bits. -/
structure Px where
  a : Nat
  r : Nat
  g : Nat
  b : Nat
  deriving DecidableEq, Repr

/-- Black, transparent. -/
def Px.zero : Px := { a := 0, r := 0, g := 0, b := 0 }

/-- Bytes per pixel of a format code. -/
def bppOf (fmt : Nat) : Nat := ([0, 2, 2, 2, 2, 3, 4, 4, 4][fmt]?).getD 0

/-- An n-bit value expanded to 16 bits by replication (R100). -/
def expand16 (n v : Nat) : Nat :=
  let k := ceilDiv 16 n
  v * ((2 ^ (n * k) - 1) / (2 ^ n - 1)) / 2 ^ (n * k - 16)

/-- Field [hi:lo] of a pixel word. -/
def pxf (w hi lo : Nat) : Nat := expand16 (hi + 1 - lo) (w / 2 ^ lo % 2 ^ (hi + 1 - lo))

/-- A pixel word of a format (R99). -/
def decodePx (fmt w : Nat) : Px :=
  match fmt with
  | 1 => { a := 65535, r := pxf w 15 11, g := pxf w 10 5, b := pxf w 4 0 }
  | 2 => { a := pxf w 15 15, r := pxf w 14 10, g := pxf w 9 5, b := pxf w 4 0 }
  | 3 => { a := pxf w 15 12, r := pxf w 11 8, g := pxf w 7 4, b := pxf w 3 0 }
  | 4 => { a := 65535, r := w % 65536, g := w % 65536, b := w % 65536 }
  | 5 => { a := 65535, r := pxf w 23 16, g := pxf w 15 8, b := pxf w 7 0 }
  | 6 => { a := pxf w 31 24, r := pxf w 23 16, g := pxf w 15 8, b := pxf w 7 0 }
  | 7 => { a := pxf w 7 0, r := pxf w 31 24, g := pxf w 23 16, b := pxf w 15 8 }
  | 8 => { a := pxf w 31 30, r := pxf w 29 20, g := pxf w 19 10, b := pxf w 9 0 }
  | _ => Px.zero

/-- A format has no alpha. -/
def noAlpha (fmt : Nat) : Bool := fmt == 1 || fmt == 4 || fmt == 5

/-! ## Layers (R97, R98) -/

/-- A layer pitch as fields. -/
structure LayerCfg where
  video : Bool
  en : Bool
  kind : Nat
  cam : Nat
  count : Nat
  block : Nat
  stride : Nat
  srcW : Nat
  srcH : Nat
  galpha : Nat
  opq : Bool
  premul : Bool
  fmt : Nat
  cropX : Nat
  cropY : Nat
  cropW : Nat
  cropH : Nat
  dstX : Int
  dstY : Int
  dstW : Nat
  dstH : Nat
  mat : List Int
  off : List Int
  deriving DecidableEq, Repr

/-- Half h (0 low) of a word, signed. -/
def halfI (w : Word) (h : Nat) : Int := signed 16 (fld w (16 * h + 15) (16 * h))

/-- The fields of a layer pitch from its words W0 to W14. -/
def layerCfg (video : Bool) (w : List Word) : LayerCfg :=
  let g (i : Nat) : Word := (w[i]?).getD 0
  let cw := fld (g 7) 15 0
  let ch := fld (g 7) 31 16
  { video := video, en := hdrEn (g 0), kind := fld (g 1) 31 28, cam := fld (g 1) 27 26, count := fld (g 1) 22 12,
    block := fld (g 1) 11 0, stride := (g 2).toNat, srcW := fld (g 3) 15 0, srcH := fld (g 3) 31 16,
    galpha := fld (g 4) 15 8, opq := bit (g 4) 5, premul := bit (g 4) 4, fmt := fld (g 4) 3 0,
    cropX := fld (g 5) 15 0, cropY := fld (g 5) 31 16, cropW := cw, cropH := ch,
    dstX := halfI (g 6) 0, dstY := halfI (g 6) 1,
    dstW := if video then fld (g 8) 15 0 else cw, dstH := if video then fld (g 8) 31 16 else ch,
    mat := [halfI (g 9) 0, halfI (g 9) 1, halfI (g 10) 0, halfI (g 10) 1, halfI (g 11) 0, halfI (g 11) 1,
            halfI (g 12) 0, halfI (g 12) 1, halfI (g 13) 0],
    off := [halfI (g 13) 1, halfI (g 14) 0, halfI (g 14) 1] }

/-! ## The direct path of a camera (R340, R341) -/

/-- Image data type of camera c, and width and height received. -/
def camDt (s : State) (c : Nat) : Nat := rfld s (Reg.sbCamCfg c) 21 16
def camW (s : State) (c : Nat) : Nat := rfld s (Reg.sbCamSize c) 15 0
def camH (s : State) (c : Nat) : Nat := rfld s (Reg.sbCamSize c) 31 16

/-- A RAW data type. -/
def rawDt (dt : Nat) : Bool := decide (0x2A ≤ dt ∧ dt ≤ 0x2D)

/-- The direct path of camera c is in use (R340). -/
def directOn (s : State) (c : Nat) : Bool :=
  rbit s (Reg.sbCamCfg c) 29 && (camDt s c == 0x24 || rawDt (camDt s c))

/-- Width and height of a direct buffer. -/
def directW (s : State) (c : Nat) : Nat := if rawDt (camDt s c) then camW s c / 2 else camW s c
def directH (s : State) (c : Nat) : Nat := if rawDt (camDt s c) then camH s c / 2 else camH s c

/-- Stride of a direct buffer. -/
def directStride (s : State) (c : Nat) : Nat := ceilDiv (3 * directW s c) 16 * 16

/-- S: MiB of a direct buffer. -/
def directMiB (s : State) (c : Nat) : Nat := ceilDiv (directStride s c * directH s c) (1024 * 1024)

/-- Byte address of direct buffer b. -/
def directBase (s : State) (c b : Nat) : Nat := (rfld s (Reg.sbCamDirect c) 15 0 + b * directMiB s c) * 1024 * 1024

/-- Camera c is running (R337). -/
def camRunning (s : State) (c : Nat) : Bool := rfld s (Reg.sbCamStatus c) 1 0 == 2

/-- Camera c. -/
def camAt (s : State) (c : Nat) : CamState := (s.sb.cams[c]?).getD CamState.init

/-- Changes camera c. -/
def modCam (c : Nat) (f : CamState → CamState) (s : State) : State :=
  if h : c < 4 then { s with sb := { s.sb with cams := s.sb.cams.set c (f s.sb.cams[c]) } } else s

/-- A layer with the geometry of its camera, where it has one (R341). -/
def camGeometry (s : State) (l : LayerCfg) : LayerCfg :=
  if l.kind = 2 then
    { l with srcW := directW s l.cam, srcH := directH s l.cam, stride := directStride s l.cam, fmt := 5 }
  else l

/-- The active copy of a layer of slot n, by layer code; a parked pitch takes no effect (R96). -/
def activeLayer (s : State) (c : SlotCast) (code : Nat) : LayerCfg :=
  let p := layerPitch c code
  let l := camGeometry s (layerCfg (decide (code < 0x10)) ((List.range 15).map (actW s p)))
  { l with en := l.en && !parked s p }

/-- The pending copy of a layer. -/
def pendLayer (s : State) (c : SlotCast) (code : Nat) : LayerCfg :=
  camGeometry s (layerCfg (decide (code < 0x10)) ((List.range 15).map (pendW s (layerPitch c code))))

/-- Layer codes bottom to top that are enabled in the active copies (R106). -/
def activeOrder (s : State) (n : Nat) (c : SlotCast) : List Nat :=
  (if c.pipe.blend = 1 then (slotAt s n).order else c.pipe.order).filter fun k =>
    (layerCodes c).contains k && (activeLayer s c k).en

/-! ## Sources -/

/-- Where a layer's bytes come from: a DRAM range from a base, with tallies checked or not, or decoded units. -/
inductive LayerSrc where
  | mem (base : Nat) (dev : Bool)
  | units (u : List (List Byte))
  deriving DecidableEq, Repr

/-- A byte of the window as DEVICE reads it (R361): zero where the tally is not DEVICE's. -/
def devByte (s : State) (a : Nat) : Byte := if isDevice s (a / 65536) then dramByte s a else 0

/-- n bytes of the window as DEVICE reads them. -/
def devRead (s : State) (a n : Nat) : List Byte := (List.range n).map fun i => devByte s (a + i)

/-- Raw bytes a layer's source covers (R388). -/
def layerRawLen (l : LayerCfg) : Nat := l.stride * (l.srcH - 1) + l.srcW * bppOf l.fmt

/-- Unit u of a codec-block layer, as fetched (R389). -/
def layerUnit (s : State) (l : LayerCfg) (u : Nat) : Status ⊕ List Byte :=
  readUnit (fun o k => devRead s (l.block * 65536 + o) k) (l.count * 65536) (layerRawLen l) u

/-- The source of a layer; a unit that fails gives zeros. -/
def layerSrc (s : State) (n code : Nat) (l : LayerCfg) : LayerSrc :=
  if l.kind = 1 then
    .units ((List.range (streamUnits (layerRawLen l))).map fun u =>
      match layerUnit s l u with
      | .inr b => b
      | .inl _ => List.replicate (unitLen (layerRawLen l) u) 0)
  else if l.kind = 2 then
    .mem (directBase s l.cam (((slotAt s n).camHold.lookup code).getD 0)) false
  else .mem (l.block * 65536) true

/-- Byte o of a source. -/
def srcByte (s : State) (src : LayerSrc) (o : Nat) : Byte :=
  match src with
  | .mem base dev => if dev then devByte s (base + o) else dramByte s (base + o)
  | .units u => (((u[o / 4096]?).getD [])[o % 4096]?).getD 0

/-- Source pixel (x, y) of a layer, with OPAQUE applied (R98, R100). -/
def srcPx (s : State) (l : LayerCfg) (src : LayerSrc) (x y : Nat) : Px :=
  let b := bppOf l.fmt
  let p := decodePx l.fmt (leNat ((List.range b).map fun i => srcByte s src (y * l.stride + x * b + i)))
  if l.opq then { p with a := 65535 } else p

/-! ## Scaling (R101, R102) -/

/-- STEP of an axis. -/
def stepOf (crop dst : Nat) : Nat := if dst = 0 then 0 else crop * 65536 / dst

/-- A coordinate in 16.16 as tap and fraction within a crop (R101, R102). -/
def tapOf (sx : Int) (crop : Nat) : Nat × Nat :=
  let f0 := ((sx % 65536).toNat + 128) / 256
  let p : Int := sx / 65536 + (if f0 = 256 then 1 else 0)
  let f := if f0 = 256 then 0 else f0
  if sx < 0 then (0, 0)
  else if (crop : Int) - 1 ≤ p then (crop - 1, 0)
  else (p.toNat, f)

/-- Tap and fraction of destination pixel i. -/
def scaleTap (crop dst i : Nat) : Nat × Nat := tapOf (((2 * (i : Int) + 1) * stepOf crop dst - 65536) / 2) crop

/-- Interpolation of two values (R102). -/
def lerp8 (a b f : Nat) : Nat := (a * (256 - f) + b * f + 128) / 256

/-- Interpolation of two pixels. -/
def lerpPx (p q : Px) (f : Nat) : Px :=
  { a := lerp8 p.a q.a f, r := lerp8 p.r q.r f, g := lerp8 p.g q.g f, b := lerp8 p.b q.b f }

/-- The pixel of a layer at destination offset (i, j): scaled on video layers, placed pixel for pixel on graphic ones. -/
def layerPx (s : State) (l : LayerCfg) (src : LayerSrc) (i j : Nat) : Px :=
  if l.video then
    let tx := scaleTap l.cropW l.dstW i
    let ty := scaleTap l.cropH l.dstH j
    let row (y : Nat) : Px :=
      let p := srcPx s l src (l.cropX + tx.1) (l.cropY + y)
      if tx.2 = 0 then p else lerpPx p (srcPx s l src (l.cropX + tx.1 + 1) (l.cropY + y)) tx.2
    if ty.2 = 0 then row ty.1 else lerpPx (row ty.1) (row (ty.1 + 1)) ty.2
  else srcPx s l src (l.cropX + i) (l.cropY + j)

/-! ## Colour matrix and blending (R105, R107) -/

/-- One output component of a 3.12 matrix row with an offset (R105). -/
def matRow (m0 m1 m2 off : Int) (r g b : Nat) : Nat :=
  (clampI ((m0 * r + m1 * g + m2 * b + off * 8192 + 2048) / 4096) 0 65535).toNat

/-- The colour matrix of a video layer. -/
def colourMatrix (m off : List Int) (p : Px) : Px :=
  let k (i : Nat) : Int := (m[i]?).getD 0
  let o (i : Nat) : Int := (off[i]?).getD 0
  { a := p.a, r := matRow (k 0) (k 1) (k 2) (o 0) p.r p.g p.b, g := matRow (k 3) (k 4) (k 5) (o 1) p.r p.g p.b,
    b := matRow (k 6) (k 7) (k 8) (o 2) p.r p.g p.b }

/-- x × y / 65,535 rounded half up (R107). -/
def mul16 (x y : Nat) : Nat :=
  let q := x * y + 32768
  (q + q / 65536) / 65536

/-- One component of a layer over the result so far. -/
def blendComp (premul : Bool) (ga a c d : Nat) : Nat :=
  min 65535 ((if premul then mul16 c ga else mul16 c a) + mul16 d (65535 - a))

/-- A layer pixel over the result so far (R100, R107). -/
def blendPx (premul : Bool) (galpha : Nat) (p d : Px) : Px :=
  let ga := expand16 8 galpha
  let a := mul16 p.a ga
  { a := 65535, r := blendComp premul ga a p.r d.r, g := blendComp premul ga a p.g d.g,
    b := blendComp premul ga a p.b d.b }

/-! ## The Hallmark content (R125, R126) -/

/-- An asset by its ID on slot n: format, width, height, data. -/
def assetOf (s : State) (c : SlotCast) (id : Nat) : Option (Nat × Nat × Nat × List Byte) :=
  if 0xF0 ≤ id ∧ id ≤ 0xF7 then
    (s.hall.port.find? (fun a => a.1 == id && a.2.2.2.1)).map fun a => (1, a.2.1, a.2.2.1, a.2.2.2.2)
  else (c.hall.bind fun h => h.assets.find? (fun a => a.id == id)).map fun a => (a.format, a.w, a.h, a.data)

/-- A pixel of an asset. -/
def assetPx (a : Nat × Nat × Nat × List Byte) (x y : Nat) : Px :=
  if a.1 = 2 then decodePx 6 (leAt a.2.2.2 (4 * (y * a.2.1 + x)) 4)
  else decodePx 3 (leAt a.2.2.2 (2 * (y * a.2.1 + x)) 2)

/-- The content of a scene at raster pixel (x, y): the highest enabled placement that covers it, clipped to REGION
(R125; log entry 32). -/
def scenePx (s : State) (c : SlotCast) (sc : List SceneEnt) (x y : Nat) : Px :=
  match c.hall with
  | none => Px.zero
  | some h =>
    if h.x ≤ x ∧ x < h.x + h.w ∧ h.y ≤ y ∧ y < h.y + h.h then
      (sc.foldl (fun (d : Px) e =>
        if !e.en then d
        else match assetOf s c e.id with
          | none => d
          | some a =>
            let rx := x - h.x
            let ry := y - h.y
            if e.x ≤ rx ∧ rx < e.x + a.2.1 ∧ e.y ≤ ry ∧ ry < e.y + a.2.2.1 then assetPx a (rx - e.x) (ry - e.y) else d)
        Px.zero)
    else Px.zero

/-- Bit of the Hallmark coverage map (R108). -/
def covered (s : State) (c : SlotCast) (sc : List SceneEnt) (x y : Nat) : Bool := (scenePx s c sc x y).a != 0

/-! ## The frame (R108) -/

/-- The slot is monochrome (R108). -/
def mono (c : SlotCast) : Bool := c.chmp.all fun e => e.role == 0

/-- Y of a colour (R108). -/
def lumaY (r g b : Nat) : Nat := (4899 * r + 9617 * g + 1868 * b + 8192) / 16384

/-- Output components of a colour on a slot. -/
def outComps (c : SlotCast) (p : Px) : List Nat := if mono c then [lumaY p.r p.g p.b] else [p.r, p.g, p.b]

/-- The destination of a layer holds raster pixel (x, y). -/
def inDst (l : LayerCfg) (x y : Nat) : Bool :=
  decide (l.dstX ≤ x ∧ (x : Int) < l.dstX + l.dstW ∧ l.dstY ≤ y ∧ (y : Int) < l.dstY + l.dstH)

/-- The enabled layers of slot n with their sources, bottom to top. -/
def frameLayers (s : State) (n : Nat) (c : SlotCast) : List (LayerCfg × LayerSrc) :=
  (activeOrder s n c).map fun k => (activeLayer s c k, layerSrc s n k (activeLayer s c k))

/-- A pixel of the slot's frame, layers and Hallmark content blended (R108). -/
def framePx (s : State) (n : Nat) (c : SlotCast) (ls : List (LayerCfg × LayerSrc)) (x y : Nat) : List Nat :=
  let bg := { decodePx 6 (slotAt s n).bg.toNat with a := 65535 }
  let d := ls.foldl (fun d l =>
    if inDst l.1 x y then
      let p := layerPx s l.1 l.2 ((x : Int) - l.1.dstX).toNat ((y : Int) - l.1.dstY).toNat
      blendPx l.1.premul l.1.galpha (if l.1.video then colourMatrix l.1.mat l.1.off p else p) d
    else d) bg
  let h := scenePx s c (slotAt s n).hall.active x y
  outComps c (if c.hall.isSome then blendPx false 255 h d else d)

/-! ## The frame store (R206) -/

/-- Bytes of a pixel in the frame store. -/
def storePxBytes (c : SlotCast) : Nat := if mono c then 2 else 8

/-- Base of the buffer of the frame store that frame f is composed into (R206). -/
def frameBase (s : State) (n : Nat) (c : SlotCast) (f : Nat) : Nat :=
  storeBase s 2 n + (if c.slot.cls = 2 ∧ c.slot.traj = 2 then
    f % 2 * (c.slot.activeW * c.slot.activeH * storePxBytes c) else 0)

/-- Bytes of one pixel. -/
def pxBytes (c : SlotCast) (v : List Nat) : List Byte := if mono c then leBytes 2 (v.headD 0) else v.flatMap (leBytes 2) ++ [0, 0]

/-- Components of the frame-store pixel with index i of the buffer at a base. -/
def storePx (s : State) (c : SlotCast) (base i : Nat) : List Nat :=
  let a := base + i * storePxBytes c
  if mono c then [leNat (dramRead s a 2)] else [leNat (dramRead s a 2), leNat (dramRead s (a + 2) 2), leNat (dramRead s (a + 4) 2)]

/-- Composes the frame of slot n whole into its frame store (R108). -/
def composeFrame (n : Nat) (c : SlotCast) (s : State) : State :=
  let ls := frameLayers s n c
  let base := frameBase s n c (slotAt s n).frame.toNat
  dramWrite base ((List.range c.slot.activeH).flatMap fun y =>
    (List.range c.slot.activeW).flatMap fun x => pxBytes c (framePx s n c ls x y)) s

/-! ## Hidden tiles (R109 to R112) -/

/-- A layer is opaque (R109). -/
def opaqueLayer (l : LayerCfg) : Bool := l.en && l.galpha == 255 && (noAlpha l.fmt || l.opq)

/-- The in-raster part of tile (tx, ty) as x0, y0, x1, y1. -/
def tileRect (c : SlotCast) (tx ty : Nat) : Nat × Nat × Nat × Nat :=
  (64 * tx, 16 * ty, min (64 * tx + 64) c.slot.activeW, min (16 * ty + 16) c.slot.activeH)

/-- The destination of a layer, which is clipped to the raster, contains a tile whole. -/
def coversTile (c : SlotCast) (l : LayerCfg) (tx ty : Nat) : Bool :=
  let r := tileRect c tx ty
  decide (l.dstX ≤ r.1 ∧ l.dstY ≤ r.2.1 ∧ (r.2.2.1 : Int) ≤ l.dstX + l.dstW ∧ (r.2.2.2 : Int) ≤ l.dstY + l.dstH)

/-- The destination of a layer touches a tile. -/
def touchesTile (c : SlotCast) (l : LayerCfg) (tx ty : Nat) : Bool :=
  let r := tileRect c tx ty
  decide (l.dstX < r.2.2.1 ∧ (r.1 : Int) < l.dstX + l.dstW ∧ l.dstY < r.2.2.2 ∧ (r.2.1 : Int) < l.dstY + l.dstH)

/-- The tiles of a raster. -/
def tilesOf (c : SlotCast) : List (Nat × Nat) :=
  (List.range (ceilDiv c.slot.activeH 16)).flatMap fun ty => (List.range (ceilDiv c.slot.activeW 64)).map fun tx => (tx, ty)

/-- The tiles a layer touches, and of those the ones hidden by the layers above it (R110). -/
def touched (c : SlotCast) (l : LayerCfg) : List (Nat × Nat) := (tilesOf c).filter fun t => touchesTile c l t.1 t.2
def hiddenTiles (c : SlotCast) (l : LayerCfg) (above : List LayerCfg) : List (Nat × Nat) :=
  (touched c l).filter fun t => above.any fun u => opaqueLayer u && coversTile c u t.1 t.2

/-- A layer is fully hidden (R111). -/
def fullyHidden (c : SlotCast) (l : LayerCfg) (above : List LayerCfg) : Bool :=
  (hiddenTiles c l above).length == (touched c l).length

/-- Each enabled layer code with what stands above it, bottom to top. -/
def withAbove (ls : List (Nat × LayerCfg)) : List (Nat × LayerCfg × List LayerCfg) :=
  match ls with
  | [] => []
  | (k, l) :: r => (k, l, r.map (·.2)) :: withAbove r

/-- Writes HIDDEN and VIS_TILES of each layer and the SKIP and STOPPED registers (R97, R111, R124). DESIGN CHOICE (log entry 84): the last
frame of SKIP, STOPPED and VIS_TILES is the one that begins at this boundary. -/
def markHidden (n : Nat) (c : SlotCast) (s : State) : State :=
  let ls := withAbove ((activeOrder s n c).map fun k => (k, activeLayer s c k))
  let skip := ls.foldl (fun a l => a + (hiddenTiles c l.2.1 l.2.2).length) 0
  let stop := ls.foldl (fun a l => if fullyHidden c l.2.1 l.2.2 then a + 2 ^ (if l.1 < 0x10 then l.1 else l.1 - 0x10 + 8) else a) 0
  let s1 := forAll (layerCodes c) (fun k s => setFld (Reg.pitch (layerPitch c k) 15) 30 0 0 s) s
  let s2 := ls.foldl (fun s l =>
    let a := Reg.pitch (layerPitch c l.1) 15
    setFld a 15 0 ((touched c l.2.1).length - (hiddenTiles c l.2.1 l.2.2).length)
      (setBit a 30 (fullyHidden c l.2.1 l.2.2) s)) s1
  setReg (pxStopped s n) (BitVec.ofNat 32 stop) (setReg (pxSkip s n) (BitVec.ofNat 32 skip) s2)

/-! ## Shading masks (R117 to R122) -/

/-- A mask extrapolated to an emission time: centre in 1/256 pixel, half sizes and edge in 1/16 pixel. -/
structure MaskEff where
  xe : Int
  ye : Int
  hw : Nat
  hh : Nat
  edge : Nat
  depth : Nat
  deriving DecidableEq, Repr

/-- Rounds a quotient half away from zero (R117). -/
def roundDiv (x : Int) (d : Nat) : Int := divRound x d

/-- Mask pitch p at emission time t16 in sixteenths of a period: the mask, none where it has expired, with EXPIRED, STALE
and AGE (R113, R117). -/
def maskAt (s : State) (p : Nat) (t16 : Int) : Option MaskEff × Bool × Bool × Nat :=
  let w (i : Nat) : Word := actW s p i
  let t0 : Int := ((w 7).toNat + (w 8).toNat * 2 ^ 32 : Nat)
  let el := t16 - t0 * 16
  let ms16 : Int := 3200000 * 16
  let lim : Int := (if fld (w 9) 15 0 = 0 then 100 else fld (w 9) 15 0) * ms16
  let stale := decide (lim < el)
  let dt := clampI el 0 lim
  let ttl : Int := fld (w 9) 31 16
  let expired := decide (0 < ttl ∧ ttl * ms16 < el)
  let age := if el < 0 then 0 else min 65535 (el / ms16).toNat
  let m : MaskEff :=
    { xe := (w 1).toInt + roundDiv ((w 3).toInt * dt) (3200000000 * 16)
      ye := (w 2).toInt + roundDiv ((w 4).toInt * dt) (3200000000 * 16)
      hw := fld (w 5) 15 0, hh := fld (w 5) 31 16, edge := fld (w 6) 15 0, depth := fld (w 6) 31 24 }
  (if expired then none else some m, expired, stale, age)

/-- Coverage of one axis as numerator and denominator (R119): the position in units of 2^-24 pixel. -/
def axisCover (x xe : Int) (half edge : Nat) : Nat × Nat :=
  let d : Int := ((x - xe * 65536).natAbs : Int) - 1048576 * half
  if d ≤ 0 then (1, 1)
  else if 1048576 * (edge : Int) ≤ d then (0, 1)
  else (1048576 * edge - d.toNat, 1048576 * edge)

/-- s8 of a point in units of 2^-24 pixel under masks (R119). -/
def shade8 (ms : List MaskEff) (x y : Int) : Nat :=
  ms.foldl (fun a m =>
    let cx := axisCover x m.xe m.hw m.edge
    let cy := axisCover y m.ye m.hh m.edge
    max a ((2 * 256 * cx.1 * cy.1 * m.depth + cx.2 * cy.2 * 255) / (2 * cx.2 * cy.2 * 255))) 0

/-- The masks of slot n extrapolated to an emission time. -/
def masksAt (s : State) (c : SlotCast) (t16 : Int) : List MaskEff := (activeMasks s c).filterMap fun p => (maskAt s p t16).1

/-- Marks of one application of the slot's masks (R113, R117, R124). -/
def noteMasks (n : Nat) (c : SlotCast) (t16 : Int) (s : State) : State :=
  forAll (activeMasks s c) (fun p s =>
    let r := maskAt s p t16
    let a := Reg.pitch p 15
    let s1 := setFld a 15 0 r.2.2.2 (setBit a 29 r.2.2.1 (setBit a 30 r.2.1 s))
    if r.2.2.1 then setBit (pxErr s n) 3 true (modSlot n (fun q => { q with maskStale := if q.maskStale.contains p then q.maskStale else p :: q.maskStale }) s1) else s1) s

/-- The stipple table (R120). -/
def stipple (u v : Nat) : Nat :=
  let a := u ^^^ v
  let m := (List.range 6).foldl (fun acc i =>
    (acc * 2 + (a / 2 ^ i % 2)) * 2 + (v / 2 ^ i % 2)) 0
  m / 16

/-- A value under shade s8 (R121). -/
def shadeVal (v s8 : Nat) : Nat := (v * (256 - s8) + 128) / 256

/-! ## Signatures (R131, R161) -/

/-- The pixels of REGION in raster order. -/
def regionPixels (h : HallRec) : List (Nat × Nat) :=
  (List.range h.h).flatMap fun j => (List.range h.w).map fun i => (h.x + i, h.y + j)

/-- The signed pixels of a scene (R131). -/
def signedPixels (s : State) (c : SlotCast) (sc : List SceneEnt) : List (Nat × Nat) :=
  match c.hall with
  | none => []
  | some h => (regionPixels h).filter fun p => (scenePx s c sc p.1 p.2).a == 65535

/-- Bytes of one signed pixel with its output components. -/
def sigBytes (x y : Nat) (v : List Nat) : List Byte := leBytes 2 x ++ leBytes 2 y ++ v.flatMap (leBytes 2)

/-- CRC-32 of a signature stream: no signed pixel gives 0 (R131). -/
def sigOf (bs : List Byte) : Word := if bs.isEmpty then 0 else crc32 bs

/-- The expected signature and the count of signed pixels (R131, R133). -/
def expectedSig (s : State) (c : SlotCast) (sc : List SceneEnt) : Word × Nat :=
  let ps := signedPixels s c sc
  (sigOf (ps.flatMap fun p => sigBytes p.1 p.2 (outComps c (scenePx s c sc p.1 p.2))), ps.length)

end Sys2Proof.Machine
end

