-- ==== Sys2Proof/Machine/Tables.lean ====
section
/-! DEFINITION. Plane sequence tables (R172 to R181) and slicing (R166 to R171, R185): windows, validation, swaps, weights,
decomposition, the plane store, and the levelling late-shift (R86 to R89). -/

set_option Elab.async false

namespace Sys2Proof.Machine

/-! ## Entries (R172, R173) -/

/-- One entry of a table with its window. -/
structure SeqEnt where
  dark : Bool
  comp : Nat
  dur : Nat
  gap : Nat
  codes : List Nat
  start : Nat
  end_ : Nat
  deriving DecidableEq, Repr

/-- CODE_c of an entry's words. -/
def codeOf (w : List Word) (c : Nat) : Nat := fld ((w[4 + c / 4]?).getD 0) (8 * (c % 4) + 7) (8 * (c % 4))

/-- Entries from their words, with the windows of R173 from the end of the entry before. -/
def chain : Nat → List (List Word) → List SeqEnt
  | _, [] => []
  | e, w :: r =>
    let w1 := (w[1]?).getD 0
    let gap := fld ((w[2]?).getD 0) 23 0
    let st := e + gap
    let dur := fld w1 23 0
    { dark := bit w1 31, comp := fld w1 30 28, dur := dur, gap := gap, codes := (List.range 24).map (codeOf w),
      start := st, end_ := st + dur } :: chain (st + dur) r

/-- The words of pitches base on, active or pending copies. -/
def entWords (s : State) (act : Bool) (base count : Nat) : List (List Word) :=
  (List.range count).map fun k => (List.range 15).map fun w => if act then actW s (base + k) w else pendW s (base + k) w

/-- Code of engine channel ch. -/
def SeqEnt.code (e : SeqEnt) (ch : Nat) : Nat := (e.codes[ch]?).getD 0

/-- Reference channel of a component (R175): the lowest engine channel of the matching ROLE. -/
def refChan (c : SlotCast) (comp : Nat) : Option Nat :=
  (c.chmp.filter (fun e => e.role == comp)).foldl (fun a e =>
    match a with
    | none => some e.engCh
    | some x => some (min x e.engCh)) none

/-- CODE_ref of an entry. -/
def SeqEnt.refCode (e : SeqEnt) (c : SlotCast) : Nat := ((refChan c e.comp).map e.code).getD 0

/-- Weight of an entry (R175). -/
def SeqEnt.weight (e : SeqEnt) (c : SlotCast) : Nat := e.dur * e.refCode c

/-! ## LOAD and SETTLE (R181) -/

/-- Nanoseconds of the descriptor of port p. -/
def loadNs (s : State) (p : Nat) : Nat := descAt s p 28 4
def settleNs (s : State) (p : Nat) : Nat := descAt s p 32 4

/-- Pu of ns at a rate of r100 hundredths of a mHz: rounded to the nearest, or up. -/
def nsPu (up : Bool) (ns r100 : Nat) : Nat :=
  let x := ns * r100 * 2 ^ 24
  let d := 10 ^ 14
  if up then ceilDiv x d else (divRound x d).toNat

/-- LOAD and SETTLE of slot n in pu at its mode; 0 without a bound engine (R181). -/
def showLoad (n : Nat) (s : State) : State :=
  let r := (modeNow s n).rate * 100
  let p := portOf s n
  if bound s n then
    setReg (Reg.slSettle n) (BitVec.ofNat 32 (nsPu true (settleNs s p) r % 2 ^ 24))
      (setReg (Reg.slLoad n) (BitVec.ofNat 32 (nsPu false (loadNs s p) r % 2 ^ 24)) s)
  else setReg (Reg.slLoad n) 0 s

/-! ## Validation (R177) -/

/-- CAUSE codes of SLn_STATUS. -/
def seqPitch : Nat := 1
def seqComp : Nat := 2
def seqLevel : Nat := 3
def seqTiming : Nat := 4

/-- Check 1: general pitches of TYPE 4 with EN 1. -/
def seqCheckPitch (s : State) (act : Bool) (c : SlotCast) (base count : Nat) : Bool :=
  ((List.range count).map (base + ·)).all fun p =>
    let h := if act then actW s p 0 else pendW s p 0
    (generalPitches c).contains p && hdrType h == tyPlaneSeq && hdrEn h

/-- Check 2: components. -/
def seqCheckComp (c : SlotCast) (es : List SeqEnt) : Bool :=
  es.all fun e => e.dark || (if mono c then e.comp == 0 else decide (1 ≤ e.comp ∧ e.comp ≤ 3) && (refChan c e.comp).isSome)

/-- Check 3: level codes. -/
def seqCheckLevel (c : SlotCast) (es : List SeqEnt) : Bool :=
  es.all fun e =>
    (List.range 24).all (fun ch => c.chmp.any (fun x => x.engCh == ch) || e.code ch == 0) &&
      (e.dark || e.refCode c != 0)

/-- Consecutive non-dark entries keep SETTLE and LOAD between them. -/
def seqSpaced (load settle : Nat) : List SeqEnt → Bool
  | [] => true
  | [_] => true
  | j :: k :: r => decide (j.end_ + settle ≤ k.start ∧ j.start + load ≤ k.start) && seqSpaced load settle (k :: r)

/-- Check 4: timing at a rate of r100 hundredths of a mHz. -/
def seqCheckTiming (s : State) (p : Nat) (r100 : Nat) (es : List SeqEnt) : Bool :=
  let load := nsPu false (loadNs s p) r100
  let settle := nsPu true (settleNs s p) r100
  let lit := es.filter fun e => !e.dark
  (match lit with
    | [] => true
    | e :: _ => decide (settle + load ≤ e.start)) && seqSpaced load settle lit &&
  (match es.getLast? with
    | none => true
    | some e => decide (e.end_ ≤ 2 ^ 24))

/-- The listed modes that use table m (R177). -/
def modesOf (c : SlotCast) (m : Nat) : List ModeRec := (c.slot.modes.take c.slot.nmodes).filter fun x => x.seq == m

/-- First failing check of table m for one mode, 0 for none (R177). -/
def seqCheckMode (s : State) (n : Nat) (c : SlotCast) (act : Bool) (base : Nat) (m : ModeRec) : Nat :=
  if ¬ seqCheckPitch s act c base m.count then seqPitch
  else
    let es := chain 0 (entWords s act base m.count)
    if ¬ seqCheckComp c es then seqComp
    else if ¬ seqCheckLevel c es then seqLevel
    else if bound s n ∧ ¬ seqCheckTiming s c.slot.port (if c.phse.source = 1 then m.rate * 102 else m.rate * 100) es then
      seqTiming
    else 0

/-- The cause that rejects table m, 0 for none (R177, R179). -/
def seqCause (s : State) (n : Nat) (c : SlotCast) (act : Bool) (m base : Nat) : Nat :=
  ((modesOf c m).map (seqCheckMode s n c act base)).foldl (fun a x => if a = 0 then x else a) 0

/-! ## Tables in force (R178 to R180) -/

/-- Active BASE and COUNT of table m. -/
def tableAt (s : State) (n m : Nat) : Nat × Nat := ((slotAt s n).tables.lookup m).getD (0, 0)

/-- Table m of slot n is VALID. -/
def tableValid (s : State) (n m : Nat) : Bool := rbit s (Reg.slStatus n) (8 + m)

/-- The table in use is VALID. -/
def seqOk (s : State) (n : Nat) : Bool := tableValid s n (modeNow s n).seq

/-- TABLE_NOW and NOSEQ (R180). -/
def showSeq (n : Nat) (s : State) : State :=
  let m := (modeNow s n).seq
  setBit (Reg.slStatus n) 3 (!tableValid s n m) (setFld (Reg.slStatus n) 5 4 m s)

/-- The entries of the table in use that the mode in use takes (R172, R173). -/
def entsNow (s : State) (n : Nat) : List SeqEnt :=
  let t := tableAt s n (modeNow s n).seq
  chain 0 (entWords s true t.1 (modeNow s n).count)

/-- Every VALID table is checked again; a table that fails loses VALID (R179). -/
def revalidate (n : Nat) (s : State) : State :=
  match cfgOf s n with
  | none => s
  | some c =>
    showSeq n (forAll (List.range 4) (fun m s =>
      if tableValid s n m ∧ seqCause s n c true m (tableAt s n m).1 ≠ 0 then setBit (Reg.slStatus n) (8 + m) false s else s) s)

/-- A swap of table m takes effect (R178): active copies, BASE, VALID, START, PENDING. -/
def applySwap (n m : Nat) (s : State) : State :=
  match cfgOf s n with
  | none => s
  | some c =>
    let base := rfld s (Reg.slSeq n m) 11 0
    let count := (modesOf c m).foldl (fun a x => max a x.count) 0
    let s1 := forAll ((List.range count).map (base + ·)) copyPitch s
    let es := chain 0 (entWords s1 true base count)
    let s2 := forAll (List.range count) (fun k s =>
      setFld (Reg.pitch (base + k) 15) 23 0 (((es[k]?).map (·.start)).getD 0 % 2 ^ 24) s) s1
    let s3 := modSlot n (fun q => { q with
      tables := (m, base, count) :: q.tables.filter (fun t => t.1 != m)
      swaps := q.swaps.filter (fun t => t.1 != m) }) s2
    showSeq n (setBit (Reg.slStatus n) (12 + m) false (setBit (Reg.slStatus n) (8 + m) true s3))

/-! ## When a request takes effect (R148, R149) -/

/-- The latch-point cycle of the raster under way has passed; a pixel-clock cycle is 2 periods (R149). -/
def latchPassed (s : State) (n : Nat) : Bool :=
  !(slotAt s n).raster || decide ((slotAt s n).latchAt.toNat / 2 < now s / 2)

/-- The slot emits nothing in IDLE and ACQUIRE, and what is requested then applies at once (R148). -/
def atOnce (s : State) (n : Nat) : Bool := !projects (reckOf s n)

/-- Boundaries until a request accepted now applies, and whether that is a boundary late (R148, R149). -/
def waitFor (s : State) (n : Nat) : Nat × Bool :=
  if !(reckOf s n).seenBoundary then (1, false) else if latchPassed s n then (2, true) else (1, false)

/-! ## Demand (R241) -/

/-- 12-bit codes of an entry in CHMP order (R174, R229). -/
def entCodes (c : SlotCast) (e : SeqEnt) : List Nat := c.chmp.map fun x => wide8 (e.code x.engCh)

/-- Demand of entries that light, through the given ceilings and maps. -/
def entsDemand (s : State) (c : SlotCast) (light : List (Nat × List Nat)) (es : List SeqEnt) : Nat :=
  (es.filter fun e => !e.dark).foldl (fun a e => max a (codesDemand s c light (entCodes c e))) 0

/-- Demand of the frame of an array slot that begins at a boundary, or is under way. -/
def ownDemand (s : State) (n : Nat) (c : SlotCast) : Nat :=
  if seqOk s n then entsDemand s c (lightNow s c) (entsNow s n) else 0

/-- Demand of the later frames of an array slot that are fixed already: of the table of a mode as it stands, and with its
accepted swap, through the ceilings and maps that are scheduled. -/
def laterDemand (s : State) (n : Nat) (c : SlotCast) (m : ModeRec) : Nat :=
  let light := lightNext s n c
  let es (act : Bool) (base : Nat) : Nat := entsDemand s c light (chain 0 (entWords s act base m.count))
  max (if tableValid s n m.seq then es true (tableAt s n m.seq).1 else 0)
    (if (slotAt s n).swaps.any (·.1 == m.seq) then es false (rfld s (Reg.slSeq n m.seq) 11 0) else 0)

/-- Demand of the frame under way and of every later frame already fixed, that of a pending mode change among them (R241). -/
def frameDemand (s : State) (n : Nat) (c : SlotCast) : Nat :=
  let next := match ((slotAt s n).commit.bind (·.mode)).bind fun m => c.slot.modes[m]? with
    | some m => laterDemand s n c m
    | none => 0
  max (ownDemand s n c) (max (laterDemand s n c (modeNow s n)) next)

/-- A map update or a ceiling change has been scheduled for slot n: on an array slot the target rises at once where a fixed
frame needs it (R241, R263). -/
def raiseFrame (n : Nat) (s : State) : State :=
  match cfgOf s n with
  | none => s
  | some c => if c.slot.cls = 1 then raiseTarget n (frameDemand s n c) s else s

/-! ## Swap requests (R176 to R178) -/

/-- A swap is rejected (R178). -/
def rejectSwap (n cause : Nat) (s : State) : State :=
  raiseVec (4 + n) (logEvent .SEQ_REJECTED clsHost 0 (cause * 65536 + n)
    (setBit (Reg.slFlags n) 1 true (setFld (Reg.slStatus n) 19 16 cause s)))

/-- A request to swap table m. -/
def requestSwap (n m : Nat) (s : State) : State :=
  match cfgOf s n with
  | none => s
  | some c =>
    if rbit s (Reg.slStatus n) (12 + m) then slPendWr n s
    else
      let cause := seqCause s n c false m (rfld s (Reg.slSeq n m) 11 0)
      if cause ≠ 0 then rejectSwap n cause s
      else if atOnce s n then applySwap n m s
      else
        let w := waitFor s n
        let s1 := modSlot n (fun q => { q with swaps := q.swaps ++ [(m, w.1)] }) (setBit (Reg.slStatus n) (12 + m) true s)
        let s2 := raiseTarget n (frameDemand s1 n c) s1
        if w.2 then setBit (Reg.slFlags n) 0 true s2 else s2

/-- CANCEL of table m (R178). -/
def cancelSwap (n m : Nat) (s : State) : State :=
  if rbit s (Reg.slStatus n) (12 + m) then
    modSlot n (fun q => { q with swaps := q.swaps.filter (fun t => t.1 != m) }) (setBit (Reg.slStatus n) (12 + m) false s)
  else s

/-- A write of SLn_CTRL: CANCEL acts before SWAP (log entry 33). -/
def slCtrl (n : Nat) (v : Word) (s : State) : State :=
  let m := fld v 5 4
  let s1 := if bit v 1 then cancelSwap n m s else s
  if bit v 0 then requestSwap n m s1 else s1

/-- Pending swaps at a boundary: those that have waited apply (R178). -/
def boundarySwaps (n : Nat) (s : State) : State :=
  let due := ((slotAt s n).swaps.filter fun t => decide (t.2 ≤ 1)).map (·.1)
  forAll due (applySwap n) (modSlot n (fun q => { q with swaps := q.swaps.map fun t => (t.1, t.2 - 1) }) s)

/-- Every pending swap applies at once (R148). -/
def applyAllSwaps (n : Nat) (s : State) : State := forAll ((slotAt s n).swaps.map (·.1)) (applySwap n) s

/-! ## The levelling late-shift (R86 to R89) -/

/-- The slot takes the late-shift. -/
def levels (c : SlotCast) : Bool := c.slot.cls == 1 && c.phse.level == 1

/-- The target row after a fresh sample (R87), in rows; angle in mdeg. -/
def levelTarget (gain zero angle target : Int) : Int :=
  let raw4096 := (angle - zero) * gain
  if 3 * 1024 ≤ (raw4096 - target * 4096).natAbs then divRound raw4096 4096 else target

/-- The shift of the frame that slicing starts, and its bookkeeping (R86 to R88). -/
def takeShift (n : Nat) (c : SlotCast) (s : State) : State :=
  if ¬ levels c then s
  else
    let lim := (rfld s (Reg.tfLvlLim n) 9 0 : Int)
    let slew := (rfld s (Reg.tfLvlLim n) 19 12 : Int)
    let fresh : Option Int := match s.sb.angle with
      | some (a, t) => if since s t ≤ msTicks then some a else none
      | none => none
    let s1 := match fresh with
      | some a =>
        setFld (Reg.tfLvlNow n) 26 16 0 (modSlot n (fun q => { q with
          lvlTarget := levelTarget (signed 16 (rfld s (Reg.tfLvlGain n) 15 0)) (signed 16 (rfld s (Reg.tfLvlGain n) 31 16)) a q.lvlTarget
          lvlStaleFrom := s.linkTime, lvlStale := false }) s)
      | none => incSat (Reg.tfLvlNow n) 26 16 s
    let s2 := modSlot n (fun q =>
      let t := clampI q.lvlTarget (-lim) lim
      { q with lvlTarget := t, lvlShift := q.lvlShift + clampI (t - q.lvlShift) (-slew) slew }) s1
    setFld (Reg.tfLvlNow n) 15 0 (unsigned 16 (slotAt s2 n).lvlShift) s2

/-- LEVEL_STALE (R88): no sample has met the limit for 50 ms. -/
def levelStale (n : Nat) (s : State) : State :=
  match cfgOf s n with
  | none => s
  | some c =>
    if levels c ∧ ¬ (slotAt s n).lvlStale ∧ 50 * msTicks ≤ since s (slotAt s n).lvlStaleFrom then
      logEvent .LEVEL_STALE clsPart n 0 (setBit (Reg.tfFlags n) 5 true (modSlot n (fun q => { q with
        lvlStale := true, lvlTarget := signed 10 (rfld s (Reg.tfLvlLim n) 31 22) }) s))
    else s

/-! ## Decomposition (R185) -/

/-- The entries of one component in greedy order with table positions and weights. -/
def compEnts (c : SlotCast) (es : List SeqEnt) (comp : Nat) : List (Nat × Nat) :=
  let xs := ((List.range es.length).zip es).filterMap fun e =>
    if !e.2.dark && e.2.comp == comp then some (e.1, e.2.weight c) else none
  xs.foldl (fun acc x => acc.filter (fun y => decide (x.2 ≤ y.2)) ++ [x] ++ acc.filter (fun y => decide (y.2 < x.2))) []

/-- Takes entries greedily from a remainder (R185). -/
def greedy : Nat → List (Nat × Nat) → List Nat
  | _, [] => []
  | r, (k, w) :: es => if w ≤ r then k :: greedy (r - w) es else greedy r es

/-- The table positions at which a value of one component lights (R185): d is the dither value, none without dither. -/
def sliceComp (ents : List (Nat × Nat)) (v : Nat) (d : Option Nat) : List Nat :=
  let w := ents.foldl (fun a e => a + e.2) 0
  let q := ents.foldl (fun a e => min a e.2) w
  if q = 0 then []
  else
    let t := v * w
    let n := t / (65535 * q)
    let f := 256 * (t % (65535 * q)) / (65535 * q)
    let n' := match d with
      | some d => if d < f then n + 1 else n
      | none => if 128 ≤ f then n + 1 else n
    greedy (min (n' * q) w) ents

/-- The output colour matrix on one pixel's components (R168, R260). -/
def applyMtx (m : List Int) (v : List Nat) : List Nat :=
  let k (i : Nat) : Int := (m[i]?).getD 0
  match v with
  | [r, g, b] => [matRow (k 0) (k 1) (k 2) 0 r g b, matRow (k 3) (k 4) (k 5) 0 r g b, matRow (k 6) (k 7) (k 8) 0 r g b]
  | [y] => [matRow (k 0) 0 0 0 y 0 0]
  | _ => v

/-- The table positions at which a pixel lights. -/
def slicePx (ents : List (Nat × List (Nat × Nat))) (m : List Int) (d : Option Nat) (v : List Nat) : List Nat :=
  let o := applyMtx m v
  let comps := if o.length = 1 then [0] else [1, 2, 3]
  (comps.zip o).flatMap fun x => sliceComp ((ents.lookup x.1).getD []) x.2 d

/-! ## The plane store (R169, R170) -/

/-- Blocks of a plane of the slot. -/
def nBlocks (c : SlotCast) : Nat := planeBlocks c.slot.activeW c.slot.activeH

/-- Byte of eight mirrors, the first in bit 0. -/
def packByte : List Bool → Nat
  | [] => 0
  | b :: r => (if b then 1 else 0) + 2 * packByte r

/-- The bytes of one plane row from the on states of its mirrors (R169). -/
def rowBytes (w : Nat) (on : List Bool) : List Byte :=
  (List.range (planeStride w)).map fun j => BitVec.ofNat 8 (packByte ((on.drop (8 * j)).take 8))

/-- Address of the directory word and of the slot of block i of entry k. -/
def dirAddr (s : State) (n : Nat) (c : SlotCast) (k i : Nat) : Nat := storeBase s 3 n + 4 * (k * nBlocks c + i)
def blockSlot (s : State) (n : Nat) (c : SlotCast) (k i : Nat) : Nat :=
  storeBase s 3 n + dirBytes c + (k * nBlocks c + i) * 4096

/-- Stores a whole plane raw. -/
def storePlane (n : Nat) (c : SlotCast) (k : Nat) (bs : List Byte) (s : State) : State :=
  let b := nBlocks c
  let s1 := dramWrite (blockSlot s n c k 0) (bs ++ List.replicate (b * 4096 - bs.length) 0) s
  dramWrite (dirAddr s n c k 0) ((List.range b).flatMap fun _ => leBytes 4 (2 ^ 31 + 4096)) s1

/-- How a consumer takes a frame (R157): the pixels it needed before they were delivered, each with the pixels delivered by
then, and the pixel from which on it repeats (R167), with the pixels delivered by then. -/
structure Taken where
  late : List (Nat × Nat)
  cut : Nat
  deliv : Nat
  deriving DecidableEq, Repr

/-- A frame of k pixels taken to its end. -/
def Taken.whole (late : List (Nat × Nat)) (k : Nat) : Taken := { late := late, cut := k, deliv := k }

/-- The last pixel in raster order where d pixels have been delivered, zero on every component where none has (R157). -/
def lastPx (s : State) (c : SlotCast) (base d : Nat) : List Nat :=
  if d = 0 then (if mono c then [0] else [0, 0, 0]) else storePx s c base (d - 1)

/-- The pixels delivered by the time pixel i was needed, where pixel i was not among them. -/
def lateAt (late : List (Nat × Nat)) (i : Nat) : Option Nat := (late.lookup i).filter fun d => decide (d ≤ i)

/-- Frame-store pixel i as the consumer takes it (R157). -/
def takenPx (s : State) (c : SlotCast) (base : Nat) (t : Taken) (i : Nat) : List Nat :=
  if t.cut ≤ i then lastPx s c base t.deliv
  else match lateAt t.late i with
    | some d => lastPx s c base d
    | none => storePx s c base i

/-- Runs of substituted pixels among the pixels needed, in the order of need (R157): b tells whether a run is under way. -/
def lateRuns : Bool → List Bool → Nat
  | _, [] => 0
  | b, x :: xs => (if x && !b then 1 else 0) + lateRuns x xs

/-- Underruns are counted (R157). -/
def noteUnder (n k : Nat) (s : State) : State :=
  if k = 0 then s else addSat (Reg.soCntB n) 31 16 k (setBit (Reg.soFlags n) 2 true s)

/-- A load of entry k of an earlier frame than the one under way has not been issued yet (R171). -/
def loadWaits (s : State) (n k : Nat) : Bool :=
  let q := slotAt s n
  (q.lanes.payload ++ q.lanes.payloadWait).any fun e =>
    evKind e == 1 && evHandle e == k && decide (phDiff (evPhase q.reck e) (phWord q.reck.frameCyc 0) < 0)

/-- Writes the plane of entry k for frame f, or holds it back until the last load of the frame before has read it (R171). -/
def writePlane (n : Nat) (c : SlotCast) (k : Nat) (bs : List Byte) (s : State) : State :=
  let f := (slotAt s n).frame
  let held := (slotAt s n).held.filter fun h => !(h.1 == f && h.2.1 == k)
  if loadWaits s n k ∨ held.any (·.2.1 == k) then modSlot n (fun q => { q with held := held ++ [(f, k, bs)] }) s
  else storePlane n c k bs s

/-- The oldest plane held back for entry k is written (R171). -/
def storeHeld (n : Nat) (c : SlotCast) (k : Nat) (s : State) : State :=
  match (slotAt s n).held.find? (·.2.1 == k) with
  | none => s
  | some h => storePlane n c k h.2.2 (modSlot n (fun q => { q with held := q.held.erase h }) s)

/-- Slices the frame in the frame store of slot n into its plane store (R168, R169, R185) as the slicer takes it. -/
def slicePlanes (n : Nat) (c : SlotCast) (taken : Taken) (s : State) : State :=
  let q := slotAt s n
  let es := entsNow s n
  let ents := [0, 1, 2, 3].map fun k => (k, compEnts c es k)
  let w := c.slot.activeW
  let h := c.slot.activeH
  let base := frameBase s n c q.frame.toNat
  let f := if rbit s (Reg.slDither n) 1 then q.frame.toNat % 64 else 0
  let en := rbit s (Reg.slDither n) 0
  let rows : List (List (List Nat)) := (List.range h).map fun y => (List.range w).map fun x =>
    slicePx ents q.cal.mtx (if en then some (stipple ((x + 23 * f) % 64) ((y + 41 * f) % 64)) else none)
      (takenPx s c base taken (y * w + x))
  forAll (List.range es.length) (fun k s =>
    match es[k]? with
    | none => s
    | some e =>
      if e.dark then s
      else writePlane n c k ((List.range h).flatMap fun (r : Nat) =>
        let y : Int := (r : Int) - q.lvlShift
        if 0 ≤ y ∧ y < h then rowBytes w (((rows[y.toNat]?).getD []).map fun on => on.contains k)
        else List.replicate (planeStride w) 0) s) s

/-- The taps of a frame as the consumer takes it (R131, R132, R161): actual signature, signed count, freeze signature. -/
def tapFrame (s : State) (n : Nat) (c : SlotCast) (sc : List SceneEnt) (taken : Taken) : Word × Nat × Word :=
  let w := c.slot.activeW
  let base := frameBase s n c (slotAt s n).frame.toNat
  let px (i : Nat) : List Nat := takenPx s c base taken i
  let ps := signedPixels s c sc
  (sigOf (ps.flatMap fun p => sigBytes p.1 p.2 (px (p.2 * w + p.1))), ps.length,
   crc32 ((List.range (w * c.slot.activeH)).flatMap fun i => (px i).flatMap (leBytes 2)))

/-- Slicing of the frame of slot n: planes, and the taps. -/
def sliceFrame (n : Nat) (c : SlotCast) (taken : Taken) (s : State) : State :=
  let s1 := if seqOk s n then slicePlanes n c taken s else s
  modSlot n (fun q => { q with
    tap := q.tap.map fun t =>
      let r := tapFrame s1 n c t.scene taken
      { t with actual := r.1, signed := r.2.1, freeze := r.2.2, sliced := true, late := taken.late, shift := if levels c then q.lvlShift else 0 } }) s1

/-- Array slot n runs frames. -/
def arrayRuns (s : State) (n : Nat) : Option SlotCast :=
  match cfgOf s n with
  | some c => if c.slot.cls = 1 ∧ projects (reckOf s n) then some c else none
  | none => none

/-- SLICE_START (R86 to R88, R132, R157, R166 to R171, R185): the frame is sliced from the frame store; where the codec is Off
its blocks are counted raw at once (R189). -/
def sliceStart (n : Nat) (late : List (Nat × Nat)) (s : State) : State :=
  match arrayRuns s n with
  | none => s
  | some c =>
    let k := c.slot.activeW * c.slot.activeH
    let s1 := noteUnder n (lateRuns false ((List.range k).map fun i => (lateAt late i).isSome))
      (setReg (Reg.slCntA n) 0 (takeShift n c s))
    let s2 := sliceFrame n c (Taken.whole late k) s1
    if pdOff s 11 ∧ seqOk s n then
      addSat (Reg.slCntA n) 31 16 (((entsNow s2 n).filter fun e => !e.dark).length * nBlocks c) s2
    else s2

/-- The slice deadline as a phase in pu of the frame (R167), none where every entry is dark. -/
def sliceLimit (s : State) (n : Nat) : Option Nat :=
  ((entsNow s n).find? fun e => !e.dark).map fun e =>
    e.start - (rfld s (Reg.slSettle n) 23 0 + rfld s (Reg.slLoad n) 23 0 + (slotAt s n).margin)

/-- The projection of slot n has reached the slice deadline of the frame under way. -/
def deadlinePassed (s : State) (n : Nat) : Bool :=
  let r := reckOf s n
  match sliceLimit s n with
  | some d => decide (0 ≤ phDiff (proj r s.linkTime) (phWord r.frameCyc d))
  | none => false

/-- SLICE_DEADLINE (R157, R167): at the deadline the slicer has taken `taken` pixels of the frame, of those delivered; it
repeats the last one delivered for the rest. -/
def sliceDeadline (n taken delivered : Nat) (s : State) : State :=
  match arrayRuns s n with
  | none => s
  | some c =>
    if taken < c.slot.activeW * c.slot.activeH ∧ deadlinePassed s n then
      let late := ((slotAt s n).tap.map (·.late)).getD []
      let run := 0 < taken && (lateAt late (taken - 1)).isSome
      sliceFrame n c { late := late, cut := taken, deliv := delivered }
        (noteUnder n (if run then 0 else 1) (incSat (Reg.slCntB n) 15 0 (setBit (Reg.slFlags n) 4 true s)))
    else s

/-! ## Commands -/

/-- TABLE_SWAP. -/
def execTableSwap (n : Slot) (v : Word) (s : State) : Host.Outcome State Fault Refusal :=
  .next (hostWrite (Reg.slCtrl n.val) v (slCtrl n.val) s)

/-- SWAP_CANCEL. -/
def execSwapCancel (n : Slot) (v : Word) (s : State) : Host.Outcome State Fault Refusal :=
  .next (hostWrite (Reg.slCtrl n.val) v (slCtrl n.val) s)

/-- SLICE_START. -/
def execSliceStart (run : SliceRun) (s : State) : Host.Outcome State Fault Refusal :=
  .next (whileUp (sliceStart run.slot.val run.late) s)

/-- SLICE_DEADLINE. -/
def execSliceDeadline (n : Slot) (cut : SliceCut) (s : State) : Host.Outcome State Fault Refusal :=
  .next (whileUp (sliceDeadline n.val cut.taken cut.delivered) s)

/-- LEVEL_STALE. -/
def execLevelStale (n : Slot) (s : State) : Host.Outcome State Fault Refusal := .next (whileUp (levelStale n.val) s)

/-- The stored block i of entry k as raw bytes, if the slicer stored it raw and has not counted it yet (R189). -/
def rawBlock (s : State) (n : Nat) (c : SlotCast) (k i : Nat) : Option (List Byte) :=
  if leNat (dramRead s (dirAddr s n c k i) 4) = 2 ^ 31 + 4096 ∧ k < nmax c ∧ i < nBlocks c ∧
      ¬ (slotAt s n).held.any (·.2.1 == k) then
    some (dramRead s (blockSlot s n c k i) 4096) else none

/-- A compressor lane finishes block i of entry k for the slicer (R189, R384 to R386). -/
def packPlaneBlock (n k i : Nat) (s : State) : State :=
  match arrayRuns s n with
  | none => s
  | some c =>
    if pdOff s 11 then s
    else match rawBlock s n c k i with
      | none => s
      | some bs =>
        let r := storeUnit bs
        if r.2 ∨ 4096 ≤ r.1.length then incSat (Reg.slCntA n) 31 16 (addSat Reg.cdCntA 31 16 1 s)
        else
          incSat (Reg.slCntA n) 15 0 (addSat Reg.cdCntA 15 0 1
            (dramWrite (dirAddr s n c k i) (leBytes 4 r.1.length) (dramWrite (blockSlot s n c k i) r.1 s)))

/-- COMPRESSOR_BLOCK_DONE: for the slicer the block is stored per R189; a host job's block counts when its job completes. -/
def execCompressorBlockDone (c : CodecClient) (s : State) : Host.Outcome State Fault Refusal :=
  match c with
  | .plane n e b => .next (whileUp (packPlaneBlock n.val e b) s)
  | .layer _ _ _ => .next s
  | .host => .next s

/-- RAW_BUSY (R189): no lane is free for block i of entry k; it stays raw. -/
def rawBusy (n k i : Nat) (s : State) : State :=
  match arrayRuns s n with
  | none => s
  | some c =>
    if pdOff s 11 then s
    else match rawBlock s n c k i with
      | none => s
      | some _ =>
        setBit (Reg.slFlags n) 3 true (incSat (Reg.slCntC n) 31 16 (incSat (Reg.slCntA n) 31 16 s))

/-- RAW_BUSY. -/
def execRawBusy (n : Slot) (entry block : Nat) (s : State) : Host.Outcome State Fault Refusal :=
  .next (whileUp (rawBusy n.val entry block) s)

/-- Block i of entry k as the load path takes it: its bytes, or the status that fails it; and the bytes read (R190). -/
def loadBlock (s : State) (n : Nat) (c : SlotCast) (k i : Nat) : (Status ⊕ List Byte) × Nat :=
  let w := leNat (dramRead s (dirAddr s n c k i) 4)
  let a := blockSlot s n c k i
  let len := w % 2 ^ 13
  if 2 ^ 31 ≤ w then (.inr (dramRead s a 4096), 4096)
  else match decodeBlock (dramRead s a len) with
    | .inl e => (.inl e, len)
    | .inr d => (if d.length = 4096 then .inr d else .inl .CODEC_BOUNDS, len)

/-- A unit of a layer fails (R389). -/
def layerCorrupt (n : Nat) (s : State) : State :=
  logEvent .LAYER_CORRUPT clsPart n 0 (setBit Reg.cdErr 2 true (incSat Reg.cdCntB 15 0 s))

/-- Unit u of the layer at pitch p of slot n is fetched (R389): a malformed entry or a failed unit is reported; a failed
decompression counts for all clients (R383). -/
def layerUnitDone (n p u : Nat) (s : State) : State :=
  match cfgOf s n with
  | none => s
  | some c =>
    if ¬ isLayerPitch c p ∨ p < c.pipe.pitchBase then s
    else
      let l := activeLayer s c (pitchCode c p)
      if ¬ l.en ∨ l.kind ≠ 1 ∨ streamUnits (layerRawLen l) ≤ u then s
      else match layerUnit s l u with
        | .inr _ => s
        | .inl _ => layerCorrupt n (incSat Reg.cdCntB 31 16 s)

/-- Block i of entry k fails decompression on a decompressor lane (R383). -/
def planeBlockDone (n k i : Nat) (s : State) : State :=
  match arrayRuns s n with
  | none => s
  | some c =>
    match (loadBlock s n c k i).1 with
    | .inl _ => incSat Reg.cdCntB 31 16 s
    | .inr _ => s

/-- DECOMPRESSOR_BLOCK_DONE: a layer unit is reported here; a plane block is reported by the slicer when it loads (R190); a
host job's block counts when its job completes. -/
def execDecompressorBlockDone (c : CodecClient) (s : State) : Host.Outcome State Fault Refusal :=
  match c with
  | .plane n e b => .next (whileUp (planeBlockDone n.val e b) s)
  | .layer n p u => .next (whileUp (layerUnitDone n.val p.val u) s)
  | .host => .next s

end Sys2Proof.Machine
end

