-- ==== Sys2Proof/Machine/Lines.lean ====
section
/-! DEFINITION. The line builders (R192 to R209), the trial queue and the commit rule (R211 to R225), and the placement
groups of struck lines (R202, R203, R234). -/

set_option Elab.async false

namespace Sys2Proof.Machine

/-! ## Lines and trajectories (R192 to R197) -/

/-- Lines per frame, cycles per frame, and retrace lines (R192, R196). -/
def lineCount (s : State) (n : Nat) : Nat := (modeNow s n).count
def cpf (s : State) (n : Nat) : Nat := lineCount s n / 2
def retraceLines (s : State) (n : Nat) (c : SlotCast) : Nat :=
  if c.slot.traj = 1 then lineCount s n - c.slot.activeH else 0

/-- Descriptor fields of an axis (R316). -/
def axisFnom (s : State) (p a : Nat) : Nat := descAt s p (descAxis s p a + 4) 4
def axisLockLo (s : State) (p a : Nat) : Nat := descAt s p (descAxis s p a + 8) 4
def axisLockHi (s : State) (p a : Nat) : Nat := descAt s p (descAxis s p a + 12) 4

/-- The integer nearest to x that is coprime with m, the lower on a tie (R197), looking within k. -/
def nearCoprime (m x : Nat) : Nat → Nat → Nat
  | 0, _ => x
  | k + 1, d =>
    if d ≤ x ∧ Nat.gcd (x - d) m = 1 then x - d
    else if Nat.gcd (x + d) m = 1 then x + d
    else nearCoprime m x k (d + 1)

/-- N_s of a Lissajous slot (R197): from N_f and the axes' nominal resonances. -/
def nsOf (nf f0 f1 : Nat) : Nat :=
  if f0 = 0 then 0 else nearCoprime nf (divRound ((nf * f1 : Nat) : Int) f0).toNat (nf + 1) 0

/-- N_f and N_s of slot n, and the lock-range condition of R197: computed at binding, at a mode change and at a recast. -/
def computeTraj (n : Nat) (s : State) : State :=
  match cfgOf s n with
  | none => s
  | some c =>
    if c.slot.cls ≠ 2 then s
    else
      let p := c.slot.port
      let nf := cpf s n
      let ns := if c.slot.traj = 2 then nsOf nf (axisFnom s p 0) (axisFnom s p 1) else 0
      let f := ns * axisFnom s p 0
      let bad := decide (c.slot.traj = 2 ∧ (f < axisLockLo s p 1 * nf ∨ axisLockHi s p 1 * nf < f))
      let s1 := setReg (Reg.lbTraj n) (at_ 31 16 ns ||| at_ 15 0 nf) s
      let s2 := modSlot n (fun q => { q with lines := { q.lines with badTraj := bad } }) s1
      if bad then logEvent .TRAJ_RANGE clsPart n 0 (setBit (Reg.lbFlags n) 2 true s2) else s2

/-- Phases of the two line centres of a cycle, lower first, each with its direction (R194): true is backward. -/
def centres (offset : Nat) : List (Nat × Bool) :=
  let f := (2 ^ 24 - offset % 2 ^ 24) % 2 ^ 24
  let b := (2 ^ 23 + 2 ^ 24 - offset % 2 ^ 24) % 2 ^ 24
  if f < b then [(f, false), (b, true)] else [(b, true), (f, false)]

/-- H: half the emission window in pu (R194). -/
def halfWin (duty : Nat) : Nat := duty * 2 ^ 14

/-! ## The observer's amplitude (R194, R199) -/

/-- The loop whose source is axis a of port p, if one is not IDLE. -/
def axisLoop (s : State) (p a : Nat) : Option Nat :=
  (List.range 128).find? fun l =>
    rfld s (Reg.leCfg l) 31 28 == 1 && rfld s (Reg.leCfg l) 27 25 == p && rfld s (Reg.leCfg l) 24 20 == a &&
      rfld s (Reg.leStatus l) 1 0 != 0

/-- Loop l. -/
def loopAt (s : State) (l : Nat) : LoopState := (s.loops[l]?).getD LoopState.init

/-- Changes loop l. -/
def modLoop (l : Nat) (f : LoopState → LoopState) (s : State) : State :=
  if h : l < 128 then { s with loops := s.loops.set l (f s.loops[l]) } else s

/-- The tracker of an axis. -/
def axisTracker (s : State) (p a : Nat) : Tracker := ((axisLoop s p a).map fun l => (loopAt s l).trk).getD Tracker.init

/-- Amplitude of an axis in units of 2^-32 of its field half-angle. -/
def axisAmp (s : State) (p a : Nat) : Nat := (axisTracker s p a).amp.toNat

/-- An amplitude as unsigned 4.12. -/
def amp412 (a : Nat) : Nat := min 65535 ((a + 2 ^ 19) / 2 ^ 20)

/-! ## Sample positions (R195 to R199) -/

/-- A sample position: phase offset from the centre in pu, clipped, and u in units of 2^-60 pixel. -/
structure SampPos where
  d : Int
  clip : Bool
  u : Int
  deriving DecidableEq, Repr

/-- The samples of a raster line in emission order (R195). -/
def rasterSamples (w amp duty : Nat) (backward : Bool) : List SampPos :=
  let edge := sinTurn (duty * 2 ^ 54 : Nat)
  let xs := (List.range w).map fun (x : Nat) =>
    let k : Int := 2 * (x : Int) + 1 - w
    let big := (k.natAbs : Int) * 2 ^ 92
    let clip := decide ((w : Int) * amp * edge < big ∨ (w : Int) * amp * 2 ^ 60 ≤ big)
    let y := if amp = 0 then 0 else divRound (k * 2 ^ 92) (w * amp)
    let d := turnPu (asinTurn y)
    { d := if backward then -d else d, clip := clip, u := (x : Int) * 2 ^ 60 : SampPos }
  if backward then xs.reverse else xs

/-- The samples of a Lissajous line (R197): θ_f of the fast axis gives u. -/
def lissSamples (w spl amp duty : Nat) (cen offset : Nat) : List SampPos :=
  let h : Int := halfWin duty
  (List.range spl).map fun (i : Nat) =>
    let d : Int := -h + divRound ((2 * (i : Int) + 1) * h) spl
    let th : Int := (amp : Int) * sinTurn (puTurn ((cen : Int) + d + offset)) / 2 ^ 32
    let u : Int := (th + 2 ^ 60) * w / 2 - 2 ^ 59
    { d := d, clip := decide (u < -(2 ^ 59 : Int) ∨ (w : Int) * 2 ^ 60 - 2 ^ 59 < u), u := u }

/-- v of a raster line at offset d from the centre of row j, in units of 2^-60 row (R196, R199): the reference is linear
between active lines and a raised cosine over the r + 1 line intervals of the flyback (log entry 35). -/
def rasterV (h r j : Nat) (d : Int) : Int :=
  let fly (x : Int) : Int :=
    let cs := cosTurn (x * 2 ^ 63 / ((r + 1) * 2 ^ 23 : Nat))
    let e : Int := ((h : Int) - 1) * 2 ^ 60
    e - ((h : Int) - 1) * (2 ^ 60 - cs) / 2
  if h ≤ 1 then 0
  else if j = 0 ∧ d < 0 then fly (((r + 1) * 2 ^ 23 : Nat) + d)
  else if j = h - 1 ∧ 0 < d then fly d
  else (j : Int) * 2 ^ 60 + d * 2 ^ 37

/-- v of a Lissajous line at a link time in 2^-16 periods, from the slow axis tracker in force (R199). -/
def lissV (s : State) (p h : Nat) (t : Int) : Int :=
  let k := axisTracker s p 1
  let dt := t - (((k.last.getD 0).toNat * 65536 : Nat) : Int)
  let psi : Int := k.psi.toNat + ((k.omega.toNat : Int) * dt * 2 ^ 33 + k.beta.toInt * dt * dt) / 2 ^ 65
  let th := k.amp * sinTurn (psi * 2 ^ 24) / 2 ^ 32
  (th + 2 ^ 60) * h / 2 - 2 ^ 59

/-- The angle by which the observer of the loop that follows slot n's slow-axis reference has it off its set-point, in 2^-24 of
the field half-angle: C·x̂ less LEn_SP_NOW0; 0 where no such loop runs. DESIGN CHOICE: the spec does not say how the estimate of
an axis that ramps is predicted; the model adds this deviation to the reference (R199; log entry 78). -/
def slowDev (s : State) (n p : Nat) : Int :=
  match axisLoop s p 1 with
  | none => 0
  | some l =>
    if rfld s (Reg.leCfg l) 5 4 ≠ 1 ∨ rfld s (Reg.leCfg l) 3 1 ≠ n then 0
    else
      let x := (loopAt s l).x
      let dot := (List.range (rfld s (Reg.leDim l) 31 28)).foldl (fun (a : Int) i =>
        a + signed 18 (rfld s (Reg.leCoef l (80 + i)) 17 0) * (x.m[i]?).getD 0) 0
      let e := rfld s (Reg.leCoef l 132) 21 16 + x.exp
      (if 56 ≤ e then dot * 2 ^ (e - 56) else dot / 2 ^ (56 - e)) - signed 32 (reg s (Reg.leSpNow l 0)).toNat

/-- Tap and fraction of a coordinate in units of 2^-60 within a size (R199, R102). -/
def lineTap (x : Int) (size : Nat) : Nat × Nat :=
  let f0 := ((x % 2 ^ 60).toNat * 256 + 2 ^ 59) / 2 ^ 60
  let p : Int := x / 2 ^ 60 + (if f0 = 256 then 1 else 0)
  let f := if f0 = 256 then 0 else f0
  if x < 0 then (0, 0) else if (size : Int) - 1 ≤ p then (size - 1, 0) else (p.toNat, f)

/-! ## Rendering (R199, R200, R214) -/

/-- The frame-store buffer a line of frame f reads, none where no pixel of its frame has been delivered (R157, R206): on a
raster slot the frame being composed, on a Lissajous slot the frame composed one raster before. -/
def lineBuffer (s : State) (n : Nat) (c : SlotCast) (f : BitVec 32) : Option Nat :=
  if c.slot.traj = 2 then some (frameBase s n c (f.toNat + 1))
  else if f = (slotAt s n).frame then some (frameBase s n c f.toNat) else none

/-- The scene of the content a line of frame f shows. -/
def lineScene (s : State) (n : Nat) (c : SlotCast) (f : BitVec 32) : List SceneEnt :=
  match (slotAt s n).tap with
  | some t => if f = t.frame ∧ c.slot.traj = 2 then t.scene else (slotAt s n).hall.active
  | none => (slotAt s n).hall.active

/-- Interpolated components of the frame store at taps (R199). -/
def lerpComps (a b : List Nat) (f : Nat) : List Nat := (a.zip b).map fun x => lerp8 x.1 x.2 f

/-- The pixels with non-zero weight at taps. -/
def tapPixels (tx ty : Nat × Nat) : List (Nat × Nat) :=
  let xs := if tx.2 = 0 then [tx.1] else [tx.1, tx.1 + 1]
  let ys := if ty.2 = 0 then [ty.1] else [ty.1, ty.1 + 1]
  ys.flatMap fun y => xs.map fun x => (x, y)

/-- The value of a channel from output components, by ROLE (R34). -/
def roleValue (c : SlotCast) (role : Nat) (v : List Nat) : Nat :=
  if mono c then (if role = 0 then v.headD 0 else 0)
  else match role with
    | 1 => (v[0]?).getD 0
    | 2 => (v[1]?).getD 0
    | 3 => (v[2]?).getD 0
    | _ => 0

/-- A 12-bit code of a 16-bit value (R200). -/
def code12 (v : Nat) : Nat := (v * 4095 + 32767) / 65535

/-- A rendered sample with the pixels it read and their values; late tells the pixels that had not been delivered (R157). -/
def renderSample (s : State) (c : SlotCast) (buf : Option Nat) (late : List (Nat × Nat)) (sc : List SceneEnt) (ms : List MaskEff)
    (mtx : List Int) (start : Int) (p : SampPos) (v : Int) : LineSamp × List (Nat × List Nat) :=
  let w := c.slot.activeW
  let h := c.slot.activeH
  let out := decide (v < -(2 ^ 59 : Int) ∨ (h : Int) * 2 ^ 60 - 2 ^ 59 < v)
  let tx := lineTap p.u w
  let ty := lineTap v h
  let px (x y : Nat) : List Nat := match buf with
    | some b => takenPx s c b (Taken.whole late (w * h)) (y * w + x)
    | none => if mono c then [0] else [0, 0, 0]
  let row (y : Nat) : List Nat := if tx.2 = 0 then px tx.1 y else lerpComps (px tx.1 y) (px (tx.1 + 1) y) tx.2
  let val := if ty.2 = 0 then row ty.1 else lerpComps (row ty.1) (row (ty.1 + 1)) ty.2
  let used := tapPixels tx ty
  let cov := used.all fun q => covered s c sc q.1 q.2
  let s8 := if cov then 0 else shade8 ms (p.u / 2 ^ 36) (v / 2 ^ 36)
  let o := applyMtx mtx (val.map fun x => shadeVal x s8)
  ({ offs := (p.d - start).toNat, clip := p.clip || out, cov := cov,
     codes := c.chmp.map fun e => code12 (roleValue c e.role o) },
   if p.clip || out then [] else used.map fun q => (q.2 * w + q.1, px q.1 q.2))

/-- The measured point in force (R212, R215): the newest one, taken or waiting for the next step. -/
def pointNow (r : Reckoner) : MeasPoint :=
  match r.next with
  | some m => m
  | none => { phi := r.phiM, t := r.tM, omega := r.omega, beta := r.beta }

/-- A reckoner that projects from a point, without the backward hold. -/
def pointReck (m : MeasPoint) : Reckoner := { Reckoner.idle with phiM := m.phi, tM := m.t, omega := m.omega, beta := m.beta }

/-- The least x near its rising root at which b x² + w x reaches d; none where it never does. -/
def solveRise (b w d : Int) : Option Int :=
  if b = 0 then (if w ≤ 0 then none else some (-(-d / w)))
  else
    let disc := w * w + 4 * b * d
    let den := w + (Nat.sqrt disc.toNat : Int)
    if disc < 0 ∨ den ≤ 0 then none
    else
      let x := 2 * d / den
      (List.range 8).findSome? fun (i : Nat) =>
        let y := x - 3 + i
        if d ≤ b * y * y + w * y then some y else none

/-- Time in units of 2^-k period, from the measured point, at which a projection reaches a phase (R68), drift included. -/
def riseTime (k : Nat) (m : MeasPoint) (p : PhaseWord) : Option Int :=
  solveRise m.beta.toInt ((m.omega.toNat : Int) * 2 ^ (17 + k)) (phDiff p m.phi * 2 ^ (33 + 2 * k))

/-- The first link time at which a projection has reached a phase (R68, R212); the last of all where it never does. -/
def reaches (m : MeasPoint) (p : PhaseWord) : LinkTime :=
  match riseTime 0 m p with
  | some dt => m.t + BitVec.ofInt 64 dt
  | none => -1

/-- Link time in 2^-16 periods at which a projection reaches a phase; that of the measured point where it never does. -/
def reachesFine (m : MeasPoint) (p : PhaseWord) : Int := (m.t.toNat : Int) * 65536 + (riseTime 16 m p).getD 0

/-- The link time in sixteenths at which the present projection of slot n reaches a phase. -/
def reach16 (s : State) (n : Nat) (p : PhaseWord) : Int := (crossing (reckOf s n) s.linkTime p).getD ((now s : Int) * 16)

/-- The sample positions of the line of an entry, each with its v (R195 to R199), under the DUTY it was entered with. -/
def linePath (s : State) (n : Nat) (c : SlotCast) (e : LineEnt) : List (SampPos × Int) :=
  let r := retraceLines s n c
  let dev := slowDev s n c.slot.port * c.slot.activeH * 2 ^ 35
  let pos := if c.slot.traj = 2 then
      lissSamples c.slot.activeW (slotAt s n).lines.cfg.spl e.amp e.duty (phFrac e.centre / 65536) c.phse.offset
    else rasterSamples c.slot.activeW e.amp e.duty e.backward
  pos.map fun p => (p,
    if c.slot.traj = 2 then lissV s c.slot.port c.slot.activeH (reachesFine e.proj (e.centre + BitVec.ofInt 56 (p.d * 65536)))
    else rasterV c.slot.activeH r (e.line - r) p.d + dev)

/-- The smallest v of a path. -/
def pathMin (vs : List Int) : Int := vs.foldl min (vs.headD 0)

/-- Renders the line of an entry into its samples (R199, R200), and the pixels that it reads in the order of need. -/
def renderLine (s : State) (n : Nat) (c : SlotCast) (mtx : List Int) (late : List (Nat × Nat)) (e : LineEnt) :
    LineEnt × List Nat :=
  let path := linePath s n c e
  let ms := masksAt s c (reach16 s n e.centre)
  let buf := lineBuffer s n c e.frame
  let sc := lineScene s n c e.frame
  let out := path.map fun x => renderSample s c buf (if c.slot.traj = 2 then [] else late) sc ms mtx (-(halfWin e.duty : Int)) x.1 x.2
  let eta (v : Int) : Int := clampI (divRound (((2 * v + 2 ^ 60) - (c.slot.activeH : Int) * 2 ^ 60) * 32768) (c.slot.activeH * 2 ^ 60)) (-32768) 32767
  let vs := path.map (·.2)
  let reads := out.flatMap (·.2)
  ({ e with
    samples := out.map (·.1), reads := if buf.isNone then [] else reads.eraseDups, minV := pathMin vs
    clipped := out.any (·.1.clip), nsamp := out.length, len := out.length * sampleBytes c
    slow0 := eta (vs.headD 0), slow1 := eta (vs.getLast?.getD 0), rendered := true, tested := false }, reads.map (·.1))

/-- Runs of pixels that a render has not found delivered (R157, R214): all of them where nothing of the frame has been. -/
def renderRuns (s : State) (n : Nat) (c : SlotCast) (f : BitVec 32) (late : List (Nat × Nat)) (reads : List Nat) : Nat :=
  if (lineBuffer s n c f).isNone then lateRuns false (reads.map fun _ => true)
  else if c.slot.traj = 2 then 0
  else lateRuns false (reads.map fun i => (lateAt late i).isSome)

/-- Bytes of a payload (R205). -/
def payloadBytes (c : SlotCast) (xs : List LineSamp) : List Byte :=
  xs.flatMap fun x =>
    let b := leBytes 4 (x.offs % 2 ^ 23 + (if x.clip then 2 ^ 31 else 0)) ++ x.codes.flatMap (leBytes 2)
    b ++ List.replicate (sampleBytes c - b.length) 0

/-- Peak code of each channel of a line. -/
def peakCodes (c : SlotCast) (xs : List LineSamp) : List Nat :=
  (List.range c.chmp.length).map fun i => (xs.filter fun x => !x.clip).foldl (fun a x => max a ((x.codes[i]?).getD 0)) 0

/-! ## The queue (R211, R212) -/

/-- Entry i of the trial queue of slot n. -/
def entAt (s : State) (n i : Nat) : LineEnt := ((slotAt s n).trial[i]?).getD LineEnt.empty

/-- Changes entry i. -/
def modEnt (n i : Nat) (f : LineEnt → LineEnt) (s : State) : State :=
  modSlot n (fun q => { q with trial := q.trial.modify i f }) s

/-- Changes the line builders' state. -/
def modLines (n : Nat) (f : LineBuild → LineBuild) (s : State) : State :=
  modSlot n (fun q => { q with lines := f q.lines }) s

/-- The projection of slot n has reached a phase; without a projection it reaches none. -/
def phasePassed (s : State) (n : Nat) (p : PhaseWord) : Bool :=
  projects (reckOf s n) && decide (0 ≤ phDiff (reckOf s n).phiHeld p)

/-- A line is held: its emission start has not passed (R212). -/
def lineHeld (s : State) (n : Nat) (e : LineEnt) : Bool := e.state != .empty && !phasePassed s n e.start

/-- Lines held now. -/
def heldCount (s : State) (n : Nat) : Nat := ((slotAt s n).trial.filter (lineHeld s n)).length

/-- The demands of the held set, and the largest (R242). -/
def heldMax (s : State) (n : Nat) : Nat := ((slotAt s n).trial.filterMap (·.demand)).foldl max 0

/-- Largest demand of struck lines in the held set. -/
def struckMax (s : State) (n : Nat) : Nat :=
  (((slotAt s n).trial.filter fun e => e.state == .struck).filterMap (·.demand)).foldl max 0

/-- Shows the demands in PM_LSn_DEMAND (R247). -/
def showDemand (n : Nat) (s : State) : State :=
  setReg (Reg.lsDemand n) (at_ 31 16 (struckMax s n) ||| at_ 15 0 (heldMax s n)) s

/-- The slot enters lines directly as DARK (R224). -/
def linesIdle (s : State) (n : Nat) : Bool :=
  let q := slotAt s n
  !projects q.reck || q.darkMode || q.lines.badTraj

/-- Moves to the next line of the sequence: the first of the next frame once the cycles of this one are done (R59, R192). -/
def advanceLine (s : State) (n : Nat) (l : LineBuild) : LineBuild :=
  let end_ := nextMultiple l.cyc (frameCycles s n)
  if l.next + 1 < 2 * (end_ - l.cyc) then { l with next := l.next + 1 }
  else { l with next := 0, frame := l.frame + 1, cyc := end_ }

/-- The line sequence starts anew with the frame that begins at the next first boundary, in cycle 0 (R59, R224). -/
def restartLines (n : Nat) (s : State) : State :=
  modLines n (fun l => { l with next := 0, frame := (slotAt s n).frame + 1, cyc := 0 }) s

/-- A frame has a line emitted dark (R220). -/
def noteDarkLine (n : Nat) (f : BitVec 32) (s : State) : State :=
  modLines n (fun l => { l with darks := if l.darks.contains f then l.darks else l.darks ++ [f] }) s

/-! ## Rows of the signature tap (R207) -/

/-- Rows of frame f that are finalised. -/
def rowsDone (l : LineBuild) (f : BitVec 32) : Nat := (l.rows.lookup f).getD 0

/-- The pixels that a struck line reads enter the tap, but for those of rows that are finalised; the first value read of a
pixel stands. -/
def noteReads (n : Nat) (e : LineEnt) (s : State) : State :=
  let w := match cfgOf s n with
    | some c => max 1 c.slot.activeW
    | none => 1
  modLines n (fun l => { l with reads := l.reads ++
    ((e.reads.filter fun p => decide (rowsDone l e.frame ≤ p.1 / w)).map fun p => (e.frame, p.1, p.2)) }) s

/-- A line of a raster slot is decided: rows that lie more than one below its smallest v are finalised, and all of them at the
last line of the frame. -/
def lineDecided (n : Nat) (c : SlotCast) (e : LineEnt) (s : State) : State :=
  if c.slot.traj = 2 ∨ e.retrace then s
  else
    let r := if e.line + 1 = lineCount s n then c.slot.activeH else ((e.minV - 1) / 2 ^ 60).toNat
    modLines n (fun l => { l with rows := (e.frame, max r (rowsDone l e.frame)) :: l.rows.filter fun x => x.1 != e.frame }) s

/-- The next line enters entry i of slot n. -/
def enterLine (n : Nat) (c : SlotCast) (i : Nat) (s : State) : State :=
  let q := slotAt s n
  let l := q.lines
  let cen := (centres c.phse.offset)[l.next % 2]?.getD (0, false)
  let cw := phWord (l.cyc + l.next / 2) cen.1
  let st := cw - phWord 0 (halfWin l.cfg.duty)
  let retr := decide (c.slot.traj = 1 ∧ l.next < retraceLines s n c)
  let idle := linesIdle s n
  let pt := pointNow q.reck
  let e0 : LineEnt := { LineEnt.empty with
    line := l.next, state := if retr || idle then .dark else .trial, backward := cen.2, retrace := retr, frame := l.frame
    start := st, centre := cw, duty := l.cfg.duty, renderT := s.linkTime, amp := axisAmp s c.slot.port 0, proj := pt
    strikeT := reaches pt (st - phWord 0 l.cfg.pt) }
  let e1 := if retr then e0 else { e0 with minV := pathMin ((linePath s n c e0).map (·.2)) }
  let s1 := modLines n (advanceLine s n) (modEnt n i (fun _ => e1) s)
  let s2 := if idle ∧ ¬ retr then lineDecided n c e1 (noteDarkLine n e0.frame (setReg (Reg.lbIdle n) (reg s1 (Reg.lbIdle n) + 1) s1))
    else s1
  if projects q.reck then
    let fin := cw + phWord 0 (halfWin l.cfg.duty)
    let ev (p : PhaseWord) (k : Nat) : BitVec 64 := eventWord (phCyc p) (phFrac p / 65536) k i
    let s3 := insertEvents n .edge [ev fin 3] (insertEvents n .payload [ev st 5] s2)
    let next := fin + phWord 0 (2 ^ 23 - 2 * halfWin l.cfg.duty)
    let r := retraceLines s n c
    let back := next + phWord 0 ((2 ^ 23 : Int) * r)
    insertCal n
      (if c.slot.traj = 1 ∧ 0 < r ∧ (advanceLine s n l).next = 0 then [(fin, ev fin 6), (back, ev back 7)]
      else if l.cfg.margin ∧ ¬ retr then [(fin, ev fin 6), (next, ev next 7)] else []) s3
  else s2

/-- LINE_ENTER (R211, R212, R224): the next line enters the lowest empty entry while fewer lines than LOOKAHEAD are held. -/
def lineEnter (n : Nat) (s : State) : State :=
  match cfgOf s n with
  | none => s
  | some c =>
    let q := slotAt s n
    if c.slot.cls ≠ 2 ∨ q.lines.cfg.look ≤ heldCount s n ∨ lineCount s n = 0 then s
    else match (List.range q.trial.length).find? (fun i => (entAt s n i).state == .empty) with
      | none => s
      | some i => enterLine n c i s

/-- The DRAM traffic of a render (R222, R398, R417): its frame-store pixels and its payload in 64-byte units, an urgent
re-render in class 0 and any other in class 1. Entries older than 1 ms go. -/
def noteTraffic (c : SlotCast) (base : Nat) (e : LineEnt) (reads : List Nat) (s : State) : State :=
  let units := ((reads.map fun i => (base + i * storePxBytes c) / 64).eraseDups).length + (e.len + 63) / 64
  { s with mc := { s.mc with trial := (s.linkTime, if e.again then 0 else 1, units) ::
      (s.mc.trial.filter fun x => decide (since s x.1 < msTicks)) } }

/-- What a completed render of entry i leaves (R212, R222, R223, R242): payload, MADE, and the trial report. -/
def finishRender (n i : Nat) (c : SlotCast) (late : List (Nat × Nat)) (s : State) : State :=
  let e := entAt s n i
  let mtx := ((slotAt s n).lines.mtx.lookup e.frame).getD (slotAt s n).cal.mtx
  let s0 := modLines n (fun l =>
    if (l.mtx.lookup e.frame).isSome then l else { l with mtx := ((e.frame, mtx) :: l.mtx).take 4 }) s
  let r := renderLine s0 n c mtx late e
  let e1 := r.1
  let s2 := noteUnder n (renderRuns s n c e.frame late r.2) (modEnt n i (fun _ => e1) s0)
  let clips := (e1.samples.filter (·.clip)).length
  let s3 := modLines n (fun l => { l with clip := min 65535 (l.clip + clips) })
    (if 0 < clips then setBit (Reg.lbFlags n) 0 true s2 else s2)
  let s4 := noteTraffic c (frameBase s n c e.frame.toNat) e1 r.2
    (dramWrite (storeBase s3 4 n + i * payloadSlotBytes c) (payloadBytes c e1.samples) s3)
  let s5 := noteMasks n c (reach16 s n e.centre) (setReg (Reg.lbMade n) (reg s4 (Reg.lbMade n) + 1) s4)
  let d := codesDemand s5 c (lightNow s5 c) (peakCodes c e1.samples)
  showDemand n (raiseTarget n d (modEnt n i (fun e => { e with demand := some d }) s5))

/-- RENDER_COMPLETE: the first render of a line in TRIAL is complete. -/
def renderComplete (n i : Nat) (late : List (Nat × Nat)) (s : State) : State :=
  match cfgOf s n with
  | none => s
  | some c =>
    let e := entAt s n i
    if e.state = .trial ∧ ¬ e.rendered then finishRender n i c late s else s

/-! ## Strike (R215 to R218) -/

/-- The strike error of a line in 2^-16 pu (R215). -/
def strikeErr (s : State) (n : Nat) (e : LineEnt) : Int :=
  let r := projFree (pointReck e.proj) s.linkTime
  let m := projFree (pointReck (pointNow (reckOf s n))) s.linkTime
  let d := phDiff m r % 2 ^ 40
  if d < 2 ^ 39 then d else d - 2 ^ 40

/-- The test of a rendered line (R216 to R218, R242): of a first render no earlier than its strike time. -/
def strikeTest (n i : Nat) (s : State) : State :=
  match cfgOf s n with
  | none => s
  | some c =>
    let e := entAt s n i
    if e.state ≠ .trial ∨ ¬ e.rendered ∨ e.tested ∨ (reckOf s n).st ≠ .locked ∨ (¬ e.again ∧ s.linkTime < e.strikeT) then s
    else
      let x := strikeErr s n e
      let pu := divRound x 65536
      let s1 := modLines n (fun l => { l with errMax := max l.errMax (min 65535 pu.natAbs) })
        (setReg (Reg.lbErrLast n) (BitVec.ofInt 32 pu) s)
      if x.natAbs ≤ (slotAt s n).lines.cfg.tol * 65536 then
        let d := codesDemand s1 c (lightNow s1 c) (peakCodes c e.samples)
        let s2 := modEnt n i (fun e => { e with state := .struck, tested := true, err := some pu, demand := some d }) s1
        let s3 := lineDecided n c e (noteReads n e (setReg (Reg.lbStruck n) (reg s2 (Reg.lbStruck n) + 1) s2))
        showDemand n (setTarget n (heldMax s3 n) s3)
      else
        setBit (Reg.lbTrialFlags n) 0 true (setReg (Reg.lbDisc n) (reg s1 (Reg.lbDisc n) + 1)
          (modEnt n i (fun e => { e with
            state := .discarded, tested := true, err := some pu, urgent := true, again := true, rendered := false
            proj := pointNow (reckOf s n), renderT := s.linkTime, amp := axisAmp s c.slot.port 0 }) s1))

/-- RERENDER_COMPLETE (R216, R218): the entry becomes TRIAL again and is tested at once while the reckoner is LOCKED. -/
def rerenderComplete (n i : Nat) (late : List (Nat × Nat)) (s : State) : State :=
  match cfgOf s n with
  | none => s
  | some c =>
    if (entAt s n i).state = .discarded then
      strikeTest n i (finishRender n i c late (modEnt n i (fun e => { e with state := .trial, urgent := false }) s))
    else s

/-! ## Dark lines and window ends (R211, R219, R220, R242) -/

/-- LINE_DARK: the emission start of entry i has passed and it is not STRUCK. -/
def lineDark (n i : Nat) (s : State) : State :=
  let e := entAt s n i
  if (e.state = .trial ∨ e.state = .discarded) ∧ phasePassed s n e.start then
    let s1 := modEnt n i (fun e => { e with state := .dark, demand := none }) s
    let s2 := setBit (Reg.lbTrialFlags n) 1 true (setReg (Reg.lbBlank n) (reg s1 (Reg.lbBlank n) + 1) s1)
    let s3 := if e.state = .discarded then setBit (Reg.lbTrialFlags n) 2 true s2 else s2
    let s4 := match cfgOf s n with
      | some c => lineDecided n c e s3
      | none => s3
    showDemand n (noteDarkLine n e.frame s4)
  else s

/-- LINE_WINDOW_END: the emission window of a STRUCK or DARK entry has passed; it becomes EMPTY and leaves the held set. -/
def lineEnd (n i : Nat) (s : State) : State :=
  let e := entAt s n i
  if (e.state = .struck ∨ e.state = .dark) ∧ phasePassed s n (e.centre + phWord 0 (halfWin e.duty)) then showDemand n (modEnt n i (fun _ => LineEnt.empty) s) else s

/-- Every entry becomes EMPTY without counting (R211, R224). -/
def flushLines (n : Nat) (s : State) : State :=
  showDemand n (modSlot n (fun q => { q with trial := q.trial.map fun _ => LineEnt.empty }) s)

/-- Every entry whose line falls at or after the boundary that began the frame under way becomes EMPTY without counting, and
entering restarts with line 0 of that frame (R224). -/
def flushFrom (n : Nat) (s : State) : State :=
  let b := phWord (reckOf s n).frameCyc 0
  showDemand n (modSlot n (fun q => { q with
    trial := q.trial.map fun e => if 0 ≤ phDiff e.centre b then LineEnt.empty else e
    lines := { q.lines with next := 0, frame := q.frame, cyc := q.reck.frameCyc } }) s)

/-! ## Placement groups (R202, R203, R234) -/

/-- The codes of a sample as issued: the Dim gate takes those outside the coverage to zero (R200, R201, R214). -/
def gated (dim : Bool) (x : LineSamp) : List Nat := if dim && !x.cov then x.codes.map fun _ => 0 else x.codes

/-- The merged output samples of a group (R203): each with its time and the codes merged into it, newest first. The flag
counts merged samples; last is the time of the line's latest output. -/
def mergeGroup : Option Nat → List (Nat × List Nat) → List (Nat × List (List Nat)) → Nat → List (Nat × List (List Nat)) × Nat
  | _, [], acc, m => (acc.reverse, m)
  | last, (t, codes) :: r, acc, m =>
    if (match last with
        | some l => decide (t < l + 128)
        | none => false) then
      match acc with
      | (t0, cs) :: a => mergeGroup last r ((t0, codes :: cs) :: a) (m + 1)
      | [] => mergeGroup last r [] (m + 1)
    else mergeGroup (some t) r ((t, [codes]) :: acc) m

/-- Mean of merged codes per channel, rounded half up. -/
def meanCodes (k : Nat) (cs : List (List Nat)) : List Nat :=
  (List.range k).map fun i => (2 * (cs.foldl (fun a x => a + (x[i]?).getD 0) 0) + cs.length) / (2 * cs.length)

/-- Highest rate of consecutive sample times, in 0.1 MS/s. -/
def peakRate : List Nat → Nat
  | a :: b :: r => max (if a < b then min 65535 (512000 / (b - a)) else 65535) (peakRate (b :: r))
  | _ => 0

/-- The light that acts on a line (R201, R227, R230): what was in force before the last boundary for a line whose emission
starts before it, what the next boundary puts in force for a line whose emission starts after that, else what is in force. -/
def lightFor (s : State) (n : Nat) (c : SlotCast) (e : LineEnt) : List (Nat × List Nat) :=
  let q := slotAt s n
  if q.reck.seenBoundary ∧ phDiff e.start (phWord q.reck.frameCyc 0) ≤ 0 ∧ ¬ q.lightPrev.isEmpty then q.lightPrev
  else if 0 < phDiff e.start (phWord (boundaryCyc s n) 0) then lightNext s n c
  else lightNow s c

/-- Issues output samples through the light that acts on their line (R202, R229, R234, R244). -/
def issueSamples (n : Nat) (c : SlotCast) (light : List (Nat × List Nat)) (outs : List (Nat × List Nat)) (s : State) :
    List (Nat × List (BitVec 16)) × State :=
  outs.foldl (fun a o =>
    let r := ((c.chmp.zip light).zip o.2).foldl (fun (b : List Nat × State) x =>
      let i := issueCur n c x.1.1 (curAt x.1.2.1 x.1.2.2 x.2) b.2
      (b.1 ++ [i.1], setReg (Reg.lcLevel x.1.1.lc) (at_ 31 16 i.1 ||| at_ 12 12 (if i.1 = 0 then 0 else 1) ||| at_ 11 0 x.2) i.2))
      ([], a.2)
    (a.1 ++ [(o.1, r.1.map (BitVec.ofNat 16))], r.2)) ([], s)

/-- The samples of a struck line that have not left and are emitted, from sample k on: at most 16. -/
def groupOf (e : LineEnt) : List LineSamp := ((e.samples.drop e.issued).filter (!·.clip)).take 16

/-- How many payload samples a group consumes: through its last sample. -/
def groupSpan (e : LineEnt) : Nat :=
  let rest := e.samples.drop e.issued
  (rest.foldl (fun (a : Nat × Nat) x => if a.2 = 16 then a else (a.1 + 1, if x.clip then a.2 else a.2 + 1)) (0, 0)).1

/-- Samples with their timestamps and codes (R202): t0, the crossing of the first one in sixteenths, plus the phase from it
over ω. -/
def timeSamples (r : Reckoner) (t : LinkTime) (t0 : Int) (dim : Bool) (first : LineSamp) (xs : List LineSamp) :
    List (Nat × List Nat) :=
  xs.map fun x =>
    ((t0 + divHalfUp (16 * 2 ^ 32 * (((x.offs : Int) - first.offs) * 65536)) (omegaAt r t).toNat).toNat, gated dim x)

/-- A placement group's merged outputs (R203). The mean of the last one takes the samples `ahead` of the next group that fall
within 8 periods of it. DESIGN CHOICE: the spec does not say how a group that has left takes a sample of the next one; the
model takes it as projected when the group issues (log entry 79). -/
def groupOuts (k : Nat) (last : Option Nat) (live ahead : List (Nat × List Nat)) : List (Nat × List Nat) × Nat :=
  let m := mergeGroup last live [] 0
  let full : List (Nat × List (List Nat)) := match m.1.getLast? with
    | some o => m.1.dropLast ++ [(o.1, ((ahead.takeWhile fun x => decide (x.1 < o.1 + 128)).map (·.2)).reverse ++ o.2)]
    | none => []
  (full.map fun x => (x.1, meanCodes k x.2), m.2)

/-- Drops that the channels of slot n count (R79, R239, R246). -/
def noteDrops (c : SlotCast) (k : Nat) (s : State) : State :=
  if k = 0 then s else forAll (c.chmp.map (·.lc)) (fun j s => setBit (Reg.lcFlags j) 0 true (addSat (Reg.lcCnt j) 15 0 k s)) s

/-- The packet of a placement group's outputs (R234): held back where the slot is dark, and counted as dropped during the wait
of R239. -/
def sendGroup (n : Nat) (c : SlotCast) (e : LineEnt) (last : Bool) (outs : List (Nat × List Nat)) (s : State) : State :=
  match outs with
  | [] => s
  | o :: _ =>
    if emitDark s n ∨ ¬ lightOn s n then s
    else if (portAt s c.slot.port).lenWait then noteDrops c outs.length s
    else
      let light := lightFor s n c e
      let x := issueSamples n c light outs s
      let ceils := (c.chmp.zip light).map fun k => (k.1.engCh, BitVec.ofNat 16 k.2.1)
      noteCeils c.slot.port ceils (sendPkt c.slot.port
        (.line e.line (e.frame.setWidth 16) e.groups last (ts40 o.1) (ceils.map (·.2)) (x.1.map fun y => (y.1 - o.1, y.2))) x.2)

/-- Issues the next placement group of entry i, whose first sample crosses at t0 (R202, R203). -/
def issueGroup (n i : Nat) (c : SlotCast) (first : LineSamp) (t0 : Int) (s : State) : State :=
  let e := entAt s n i
  let s0 := if inDim s n && !(slotAt s n).gate then engageDim n s else s
  let dim := (slotAt s0 n).gate
  let r := reckOf s n
  let timed := timeSamples r s.linkTime t0 dim first (groupOf e)
  let span := groupSpan e
  let rest := e.samples.drop (e.issued + span)
  let ahead := timeSamples r s.linkTime t0 dim first ((rest.filter (!·.clip)).take 16)
  let lim := soonest s c.slot.port
  let live := timed.filter fun x => decide (lim ≤ x.1)
  let dropped := timed.length - live.length
  let s1 := if dropped = 0 then s0
    else noteDrops c dropped (setBit (Reg.tfFlags n) 3 true (addSat (Reg.tfCntB n) 31 16 dropped s0))
  let m := groupOuts c.chmp.length e.lastTs live ahead
  let s2 := modEnt n i (fun e => { e with
    issued := e.issued + span, groups := e.groups + 1, merged := e.merged || decide (0 < m.2)
    lastTs := ((m.1.getLast?).map (·.1)).or e.lastTs
    lastRaw := ((timed.getLast?).map (·.1)).or e.lastRaw }) s1
  let s3 := modLines n (fun l => { l with
    merge := min 65535 (l.merge + m.2), peak := max l.peak (peakRate (e.lastRaw.toList ++ timed.map (·.1))) })
    (if 0 < m.2 then setBit (Reg.lbFlags n) 1 true s2 else s2)
  sendGroup n c e (rest.all (·.clip)) m.1 s3

/-- Issues every group of entry i whose first sample lies within the horizon of the present step (R78, R202). -/
def issueEntry (n i : Nat) (c : SlotCast) : Nat → State → State
  | 0, s => s
  | k + 1, s =>
    match (groupOf (entAt s n i)).head? with
    | none => s
    | some x =>
      match crossing (reckOf s n) s.linkTime ((entAt s n i).start + phWord 0 x.offs) with
      | none => s
      | some t =>
        if ((now s + rfld s (Reg.tfHorizon n) 15 0) * 16 : Nat) < t then s
        else issueEntry n i c k (issueGroup n i c x t s)

/-- Issues what is due of every struck line of slot n, by emission start. -/
def issueLines (n : Nat) (c : SlotCast) (s : State) : State :=
  let q := slotAt s n
  let order := ((List.range q.trial.length).filter fun i => (entAt s n i).state == .struck).foldl (fun acc i =>
    acc.filter (fun j => decide (phDiff (entAt s n j).start (entAt s n i).start ≤ 0)) ++ [i] ++
      acc.filter (fun j => decide (0 < phDiff (entAt s n j).start (entAt s n i).start))) []
  forAll order (fun i s => issueEntry n i c ((entAt s n i).samples.length + 1) s) s

/-! ## Probe (R225) -/

/-- The bytes of a line descriptor (R204). -/
def descBytes (c : SlotCast) (i : Nat) (e : LineEnt) : List Byte :=
  let st := match e.state with
    | .empty => 0
    | .trial => 1
    | .struck => 2
    | .discarded => 3
    | .dark => 4
  let fl := (if e.backward then 1 else 0) + (if e.retrace then 2 else 0) + (if e.urgent then 4 else 0) +
    (if e.clipped then 8 else 0) + (if e.merged then 16 else 0)
  leBytes 2 e.line ++ leBytes 1 st ++ leBytes 1 fl ++
  leBytes 4 (phCyc e.start % 256 * 2 ^ 24 + phFrac e.start / 65536) ++ leBytes 4 e.renderT.toNat ++
  leBytes 2 (amp412 e.amp) ++ leBytes 2 e.frame.toNat ++ leBytes 2 e.nsamp ++
  leBytes 2 (unsigned 16 e.slow0) ++ leBytes 2 (unsigned 16 e.slow1) ++ [0, 0] ++
  leBytes 4 (if e.nsamp = 0 then 0 else i * payloadSlotBytes c / 4096) ++ leBytes 4 e.len

/-- A write of LBn_PROBE_SEL: IDX, CH and ENTRY are kept; CAPTURE copies the entry into the probe buffer. -/
def probeSel (n : Nat) (v : Word) (s : State) : State :=
  let s1 := setReg (Reg.lbProbeSel n) (v &&& 0x003F1F1F) s
  if ¬ bit v 31 then s1
  else match cfgOf s n with
    | none => s1
    | some c =>
      let i := fld v 4 0
      let beyond := decide ((slotAt s n).trial.length ≤ i)
      let e := entAt s1 n i
      let d := if beyond then List.replicate 32 0 else descBytes c i e
      let s2 := forAll (List.range 8) (fun m s => setReg (Reg.lbProbeDesc n m) (BitVec.ofNat 32 (leAt d (4 * m) 4)) s) s1
      let s3 := setReg (Reg.lbProbeTs n) (if beyond then 0 else e.strikeT.setWidth 32) s2
      let s4 := setReg (Reg.lbProbeErr n) (if beyond then 0 else match e.err with
        | some x => BitVec.ofInt 32 x
        | none => 0x80000000) s3
      modLines n (fun l => { l with probe := if beyond then [] else (e.samples.take 64).map (·.codes) }) s4

/-- LBn_PROBE_DATA as it reads now: the codes of samples IDX and IDX + 1 on channel CH. -/
def probeWord (s : State) (n : Nat) : Word :=
  let ix := rfld s (Reg.lbProbeSel n) 21 16
  let ch := rfld s (Reg.lbProbeSel n) 12 8
  let code (i : Nat) : Nat := ((((slotAt s n).lines.probe[i % 64]?).getD [])[ch]?).getD 0
  at_ 27 16 (code (ix + 1)) ||| at_ 11 0 (code ix)

/-- A read of LBn_PROBE_DATA: the data, and IDX advances by 2. -/
def probeRead (n : Nat) (s : State) : State :=
  setFld (Reg.lbProbeSel n) 21 16 ((rfld s (Reg.lbProbeSel n) 21 16 + 2) % 64)
    { s with busData := probeWord s n }

/-! ## Commands -/

/-- LINE_ENTER. -/
def execLineEnter (n : Slot) (s : State) : Host.Outcome State Fault Refusal := .next (whileUp (lineEnter n.val) s)

/-- RENDER_COMPLETE. -/
def execRenderComplete (n : Slot) (run : RenderRun) (s : State) : Host.Outcome State Fault Refusal :=
  .next (whileUp (renderComplete n.val run.entry run.late) s)

/-- STRIKE_TEST. -/
def execStrikeTest (n : Slot) (entry : Nat) (s : State) : Host.Outcome State Fault Refusal :=
  .next (whileUp (strikeTest n.val entry) s)

/-- RERENDER_COMPLETE. -/
def execRerenderComplete (n : Slot) (run : RenderRun) (s : State) : Host.Outcome State Fault Refusal :=
  .next (whileUp (rerenderComplete n.val run.entry run.late) s)

/-- LINE_DARK. -/
def execLineDark (n : Slot) (entry : Nat) (s : State) : Host.Outcome State Fault Refusal :=
  .next (whileUp (lineDark n.val entry) s)

/-- LINE_WINDOW_END. -/
def execLineWindowEnd (n : Slot) (entry : Nat) (s : State) : Host.Outcome State Fault Refusal :=
  .next (whileUp (lineEnd n.val entry) s)

/-- CAPTURE: the host write of LBn_PROBE_SEL. -/
def execCapture (n : Slot) (v : Word) (s : State) : Host.Outcome State Fault Refusal :=
  .next (hostWrite (Reg.lbProbeSel n.val) v (probeSel n.val) s)

/-- PROBE_DATA_READ: the host read of LBn_PROBE_DATA; where the register does not exist the read returns 0 (R7). -/
def execProbeDataRead (n : Slot) (s : State) : Host.Outcome State Fault Refusal :=
  .next (if ¬ powered s then s
    else match regFind (Reg.lbProbeData n.val) with
      | some (d, i) => if regExists s d i then probeRead n.val s else { s with busData := 0 }
      | none => s)

end Sys2Proof.Machine
end

