-- ==== Sys2Proof/Machine/Loop.lean ====
section
/-! DEFINITION. The loop engine (R275 to R300): the loop step, set-points, opening and closing, the axis tracker and what it
hands the reckoner (R66), drive samples, the repetitive controller, and coefficient writes. -/

set_option Elab.async false

namespace Sys2Proof.Machine

/-! ## Settings of a loop (R300) -/

def leSrc (s : State) (l : Nat) : Nat := rfld s (Reg.leCfg l) 31 28
def leSport (s : State) (l : Nat) : Nat := rfld s (Reg.leCfg l) 27 25
def leSidx (s : State) (l : Nat) : Nat := rfld s (Reg.leCfg l) 24 20
def leDst (s : State) (l : Nat) : Nat := rfld s (Reg.leCfg l) 19 16
def leDport (s : State) (l : Nat) : Nat := rfld s (Reg.leCfg l) 15 13
def leDidx (s : State) (l : Nat) : Nat := rfld s (Reg.leCfg l) 12 8
def leResonant (s : State) (l : Nat) : Bool := rbit s (Reg.leCfg l) 7
def leAuto (s : State) (l : Nat) : Bool := rbit s (Reg.leCfg l) 6
def leSpsrc (s : State) (l : Nat) : Nat := rfld s (Reg.leCfg l) 5 4
def leSpslot (s : State) (l : Nat) : Nat := rfld s (Reg.leCfg l) 3 1
def leNx (s : State) (l : Nat) : Nat := rfld s (Reg.leDim l) 31 28
def leNu (s : State) (l : Nat) : Nat := rfld s (Reg.leDim l) 25 24
def leNy (s : State) (l : Nat) : Nat := rfld s (Reg.leDim l) 21 20
def leTrig (s : State) (l : Nat) : Nat := rfld s (Reg.leDim l) 17 16
def lePeriod (s : State) (l : Nat) : Nat := rfld s (Reg.leDim l) 15 0
def leRcEn (s : State) (l : Nat) : Bool := rbit s (Reg.leRc l) 31
def leRcN (s : State) (l : Nat) : Nat := rfld s (Reg.leRc l) 12 0

/-- STATE of a loop: 0 IDLE, 1 OPEN, 2 CLOSED (R294). -/
def leState (s : State) (l : Nat) : Nat := rfld s (Reg.leStatus l) 1 0

/-- The loop counts as CLOSED (R296). -/
def leClosed (s : State) (l : Nat) : Bool := leState s l == 2 || (loopAt s l).closing

/-- Loops run: PD10 is powered and the part is not in Doze, nor entering or leaving it (R275, R297, R446). -/
def loopsRun (s : State) : Bool := awake s && !pdOff s 10

/-- Flags of R291. -/
def lfSatAcc : Nat := 0
def lfSatState : Nat := 1
def lfSatOut : Nat := 2
def lfExpClamp : Nat := 3
def lfSpLimited : Nat := 4
def lfSpRange : Nat := 5
def lfCoefRej : Nat := 6
def lfSrcLost : Nat := 7
def lfSkip : Nat := 8
def lfPreset : Nat := 9
def lfLockLost : Nat := 10

/-- Sets a flag where a condition holds. -/
def leFlag (l i : Nat) (b : Bool) (s : State) : State := if b then setBit (Reg.leFlags l) i true s else s

/-- Mantissa of a coefficient word. -/
def coef (s : State) (l w : Nat) : Int := signed 18 (rfld s (Reg.leCoef l w) 17 0)

/-- Rows of a coefficient matrix from its words. -/
def coefRows (s : State) (l base stride n m : Nat) : List (List Int) :=
  (List.range n).map fun i => (List.range m).map fun j => coef s l (base + stride * i + j)

/-- Exponents of the coefficients. -/
def expA (s : State) (l : Nat) : Nat := rfld s (Reg.leCoef l 132) 5 0
def expB (s : State) (l : Nat) : Nat := rfld s (Reg.leCoef l 132) 13 8
def expC (s : State) (l : Nat) : Nat := rfld s (Reg.leCoef l 132) 21 16
def expL (s : State) (l : Nat) : Nat := rfld s (Reg.leCoef l 132) 29 24
def expK (s : State) (l : Nat) : Nat := rfld s (Reg.leCoef l 133) 5 0
def expQ (s : State) (l : Nat) : Nat := rfld s (Reg.leCoef l 133) 13 8
def expG (s : State) (l : Nat) : Nat := rfld s (Reg.leCoef l 133) 21 16
def expZ (s : State) (l : Nat) : Nat := rfld s (Reg.leCoef l 133) 29 24

/-- Limits and safe values, signed 1.15. -/
def uMin (s : State) (l j : Nat) : Int := signed 16 (rfld s (Reg.leUlim l j) 15 0)
def uMax (s : State) (l j : Nat) : Int := signed 16 (rfld s (Reg.leUlim l j) 31 16)
def uSafe (s : State) (l j : Nat) : Int := signed 16 (if j = 0 then rfld s (Reg.leUsafe l) 15 0 else rfld s (Reg.leUsafe l) 31 16)

/-- The safe values of a loop; a second output that the loop does not have is 0. -/
def safeOf (s : State) (l : Nat) : List Int := [uSafe s l 0, if leNu s l = 2 then uSafe s l 1 else 0]

/-- Outputs clamped to their limits, and the direction in which each was clamped: 1, −1 or 0 (R293). -/
def clampOut (s : State) (l : Nat) (u : List Int) : List Int × List Int :=
  let xs := (List.range u.length).zip u
  (xs.map fun x => clampI x.2 (uMin s l x.1) (uMax s l x.1),
   xs.map fun x => if uMax s l x.1 < x.2 then 1 else if x.2 < uMin s l x.1 then -1 else 0)

/-- The safe values as they issue. -/
def safeSent (s : State) (l : Nat) : List Int := ((clampOut s l ((safeOf s l).take (leNu s l))).1 ++ [0, 0]).take 2

/-! ## What the registers show -/

/-- An 18-bit mantissa in its word. -/
def manWord (x : Int) : Word := BitVec.ofNat 32 (unsigned 18 x)

/-- Shows x̂, z, u and their exponents in words 160 to 172 (R299). -/
def showLoop (l : Nat) (s : State) : State :=
  let q := loopAt s l
  let ub := toBlk q.u (-15)
  let put (base n : Nat) (b : Blk) : List (Nat × Word) :=
    (List.range n).map fun i => (Reg.leCoef l (base + i), manWord ((b.m[i]?).getD 0))
  setRegs (put 160 8 q.x ++ put 168 2 q.z ++ put 170 2 ub ++
    [(Reg.leCoef l 172, at_ 21 16 ub.exp ||| at_ 13 8 q.z.exp ||| at_ 5 0 q.x.exp)]) s

/-! ## Lock (R284) -/

/-- A slot whose phase source is axis a of the engine on port p (R35). -/
def pickoffSlot (s : State) (p a : Nat) : Option Nat :=
  (slotOnPort s p).filter fun n => match cfgOf s n with
    | some c => c.phse.source == 2 && c.phse.input == a
    | none => false

/-- A loop loses lock (R84, R284). -/
def loseLock (l : Nat) (s : State) : State :=
  if rbit s (Reg.leStatus l) 4 then
    let s1 := setBit (Reg.leFlags l) lfLockLost true (setBit (Reg.leStatus l) 4 false
      (modLoop l (fun q => { q with good := 0, bad := 0 }) s))
    match pickoffSlot s (leSport s l) (leSidx s l) with
    | some n => pickoffLost n s1
    | none => s1
  else modLoop l (fun q => { q with good := 0, bad := 0 }) s

/-! ## Outputs (R277, R283, R327) -/

/-- The engine on port p is bound. -/
def portBound (s : State) (p : Nat) : Bool := rbit s (Reg.epStatus p) 4 && decide (linkState s p = lsRun)

/-- A value goes to the destination of a loop for a time in sixteenths (R277, R327): an axis or an actuator of a bound engine,
or a phase group, whose duty takes a negative value as 0. -/
def sendOut (l t16 : Nat) (v : Int) (s : State) : State :=
  let p := leDport s l
  let rec_ (kind : Nat) : State :=
    if portBound s p then sendPkt p (.axis (ts40 t16) kind (leDidx s l) (BitVec.ofInt 16 v)) s else s
  match leDst s l with
  | 1 => rec_ 0
  | 2 => rec_ 1
  | 3 => { s with power := { s.power with duty := s.power.duty.set (leDidx s l) v.toNat } }
  | _ => s

/-- Issues the output of a loop in DIRECT mode at once. -/
def issueOut (l : Nat) (s : State) : State :=
  if leResonant s l then s else sendOut l (soonest s (leDport s l)) ((loopAt s l).u.headD 0) s

/-! ## The axis tracker (R282) -/

/-- Nominal ω of axis a of port p, 8.32. -/
def nominalOmega (s : State) (p a : Nat) : BitVec 40 :=
  BitVec.ofNat 40 ((divRound ((axisFnom s p a * 2 ^ 56 : Nat) : Int) 3200000000000).toNat % 2 ^ 40)

/-- The tracker of a loop starts; without a bound engine it waits for a binding. -/
def startTracker (l : Nat) (s : State) : State :=
  if leSrc s l ≠ 1 then s
  else
    let p := leSport s l
    let on := portBound s p
    setBit (Reg.leStatus l) 3 false (loseLock l (modLoop l (fun q => { q with
      oscT := s.linkTime, picks := [], estT := s.linkTime
      trk := { Tracker.init with run := on, omega := if on then nominalOmega s p (leSidx s l) else 0 } }) s))

/-- One tracker update at link time t with an angle in units of 2^-14 (R282): gains in 2^-16. -/
def trackStep (ga gp gw gb : Nat) (locked : Bool) (t : LinkTime) (theta : Int) (k : Tracker) : Tracker :=
  match k.last with
  | none => { k with last := some t }
  | some t0 =>
    let dt : Int := (t - t0).toInt
    if dt ≤ 0 then k
    else
      let psiP := k.psi + BitVec.ofInt 56 (((k.omega.toNat : Int) * dt * 2 ^ 17 + k.beta.toInt * dt * dt) / 2 ^ 33)
      let a : Int := (phFrac psiP : Int) * 2 ^ 24
      let sn : Rat := (sinTurn a : Rat) / 2 ^ 60
      let cs : Rat := (cosTurn a : Rat) / 2 ^ 60
      let amp : Rat := (k.amp : Rat) / 2 ^ 32
      let d : Rat := (theta : Rat) / 2 ^ 14 - amp * sn
      let ep : Rat := d * cs / max amp (1 / 64) * 2 ^ 24 * 2 ^ 64 / (twoPi64 : Rat)
      let g (x : Nat) : Rat := (x : Rat) / 65536
      let amp' := k.amp + ratHalfUp (g ga * d * sn * 2 ^ 32)
      let om : Int := ratHalfUp ((k.omega.toNat : Rat) + ((k.beta.toInt * dt : Int) : Rat) / 65536 + g gw * ep / (dt : Rat) * 2 ^ 32)
      { k with
        last := some t
        psi := psiP + BitVec.ofInt 56 (ratHalfUp (g gp * ep * 65536))
        omega := BitVec.ofInt 40 (clampI om 0 (2 ^ 40 - 1))
        beta := k.beta + BitVec.ofInt 64 (ratHalfUp (g gb * ep / ((dt : Rat) * (dt : Rat)) * 2 ^ 48))
        amp := if locked then amp' else max 0 amp'
        eps := ((ratHalfUp (ep * 65536)).natAbs :: k.eps).take 64 }

/-- The tracker is locked after an update: |ep| within LEn_TRK_LOCK to lock, beyond twice that to unlock. -/
def trackLocked (thr : Nat) (was : Bool) (k : Tracker) : Bool :=
  let sum := k.eps.foldl (· + ·) 0
  if was then decide (sum ≤ 2 * thr * 65536 * k.eps.length)
  else decide (k.eps.length = 64) && decide (sum ≤ thr * 65536 * 64)

/-- The estimate goes to the reckoner of a slot that follows the axis (R66, R67, R84): in ACQUIRE the reference event is the
first positive-going zero crossing once the loop reports lock. -/
def handEstimate (l n : Nat) (old : Tracker) (s : State) : State :=
  match cfgOf s n with
  | none => s
  | some c =>
    let k := (loopAt s l).trk
    let t := k.last.getD 0
    let r := reckOf s n
    let m : Int := (phFrac k.psi : Int) - (c.phse.offset : Int) * 65536
    let lock := rbit s (Reg.leStatus l) 4
    match r.st with
    | .acquire =>
      if lock ∧ phCyc old.psi ≠ phCyc k.psi then
        let p := phWord 0 (-(c.phse.offset : Int)) + BitVec.ofNat 56 (phFrac k.psi)
        modReck n (fun r => { r with
          st := .locked, phiM := p, tM := t, phiHeld := p, omega := k.omega, beta := k.beta, next := none
          omegaNext := none, seenBoundary := false, frameCyc := 0 }) s
      else s
    | .locked => modReck n (setNext (nearest (proj r t) m) t k.omega k.beta) s
    | .hold =>
      if lock then modReck n (fun r => setNext (nearest (proj r t) m) t k.omega k.beta { r with st := .locked }) s else s
    | _ => s

/-- One tracker update of loop l with a pickoff sample (R282). -/
def trackerStep (l : Nat) (t : LinkTime) (theta : BitVec 16) (s : State) : State :=
  let q := loopAt s l
  let was := rbit s (Reg.leStatus l) 3
  let g (a hi lo : Nat) : Nat := rfld s a hi lo
  let k := trackStep (g (Reg.leTrk l) 31 16) (g (Reg.leTrk l) 15 0) (g (Reg.leTrk2 l) 31 16) (g (Reg.leTrk2 l) 15 0)
    was t theta.toInt q.trk
  let on := q.trk.last.isSome && trackLocked (rfld s (Reg.leTrkLock l) 23 0) was k
  let s1 := setBit (Reg.leStatus l) 3 on (modLoop l (fun q => { q with trk := k }) s)
  if on then
    match pickoffSlot s (leSport s l) (leSidx s l) with
    | some n => handEstimate l n q.trk (modLoop l (fun q => { q with estT := s.linkTime }) s1)
    | none => s1
  else loseLock l s1

/-- TRACKER_UPDATE: the tracker of loop l takes the oldest pickoff sample that an accepted sense return has brought it (R20,
R282); a time and an angle that are not that sample's reach no tracker. -/
def trackerUpdate (l : Nat) (t : LinkTime) (theta : BitVec 16) (s : State) : State :=
  let q := loopAt s l
  match q.picks with
  | [] => s
  | x :: xs =>
    if x ≠ (t, theta) ∨ leSrc s l ≠ 1 ∨ leState s l = 0 ∨ ¬ loopsRun s ∨ ¬ q.trk.run then s
    else trackerStep l t theta (modLoop l (fun q => { q with picks := xs }) s)

/-- TRACKER_UPDATE. -/
def execTrackerUpdate (l : LoopId) (t : LinkTime) (theta : BitVec 16) (s : State) : Host.Outcome State Fault Refusal :=
  .next (trackerUpdate l.val t theta s)

/-! ## Source intervals and loss (R84, R284, R297) -/

/-- The interval of the samples of a loop in timing-clock periods: its own period (TRIG 1), or its source's; none where the
source has no stated interval. -/
def sampleTicks (s : State) (l : Nat) : Option Nat :=
  let p := leSport s l
  if leTrig s l = 1 then some (4 * lePeriod s l)
  else match leSrc s l with
    | 1 => some (3200000 / max 1 (descAt s p (descAxis s p (leSidx s l) + 22) 2))
    | 2 | 3 => some (descAt s p 36 2 * 16 / 5)
    | _ => none

/-- Two sample intervals of loop l have passed since a link time. -/
def overdue (s : State) (l : Nat) (t : LinkTime) : Bool :=
  match sampleTicks s l with
  | some k => decide (2 * k ≤ since s t)
  | none => true

/-- PICKOFF_LOST: no estimate has reached the reckoner of slot n for 2 sample periods, or the axis is not in lock: the loop loses
lock and the reckoner holds (R84, R284). -/
def pickoffGone (n : Nat) (s : State) : State :=
  match cfgOf s n with
  | none => s
  | some c =>
    if c.phse.source ≠ 2 ∨ (reckOf s n).st ≠ .locked then s
    else match axisLoop s c.slot.port c.phse.input with
      | none => pickoffLost n s
      | some l =>
        if overdue s l (loopAt s l).estT ∨ ¬ rbit s (Reg.leStatus l) 4 then pickoffLost n (loseLock l s) else s

/-- PICKOFF_LOST. -/
def execPickoffLost (n : Slot) (s : State) : Host.Outcome State Fault Refusal := .next (whileUp (pickoffGone n.val) s)

/-! ## The reference phase (R283) -/

/-- Phase within the frame of slot n at a link time, in 2^-16 pu over its CPF cycles, from the boundary that began the frame
under way. -/
def framePhase (s : State) (n : Nat) (t : LinkTime) : Nat :=
  (phDiff (proj (reckOf s n) t) (phWord (reckOf s n).frameCyc 0) % ((frameCycles s n * 2 ^ 40 : Nat) : Int)).toNat

/-- Φ of R197 in 2^-16 pu: counted from the frame's reference event, OFFSET pu before its phase 0 (R67). -/
def refEventPhase (s : State) (n : Nat) (t : LinkTime) : Nat :=
  framePhase s n t + ((cfgOf s n).map fun c => c.phse.offset * 65536).getD 0

/-- The projected tracker phase at a link time, in 2^-16 pu. -/
def trackPhase (k : Tracker) (t : LinkTime) : Int :=
  let dt : Int := (t - k.last.getD 0).toInt
  (k.psi.toNat : Int) + ((k.omega.toNat : Int) * dt * 2 ^ 17 + k.beta.toInt * dt * dt) / 2 ^ 33

/-- ψ_ref of a loop at a link time, in 2^-16 pu, and its rate in 2^-32 pu per period. -/
def refPhase (s : State) (l : Nat) (t : LinkTime) : Int × Nat :=
  let q := loopAt s l
  if rbit s (Reg.leDrv l) 24 then
    match slotOnPort s (leSport s l) with
    | some n =>
      let nf := rfld s (Reg.lbTraj n) 15 0
      let ns := rfld s (Reg.lbTraj n) 31 16
      if nf = 0 then (0, 0)
      else (((refEventPhase s n t * ns / nf : Nat) : Int), (reckOf s n).omega.toNat * ns / nf)
    | none => (0, 0)
  else if rbit s (Reg.leStatus l) 3 then (trackPhase q.trk t, q.trk.omega.toNat)
  else
    let w := (nominalOmega s (leSport s l) (leSidx s l)).toNat
    ((((t - q.oscT).toNat * w / 65536 : Nat) : Int), w)

/-- The measurements of a RESONANT loop at a link time, in units of 2^-40. -/
def resonantMeas (s : State) (l : Nat) (t : LinkTime) : List Int :=
  let k := (loopAt s l).trk
  let d : Int := (trackPhase k t - (refPhase s l t).1) * 2 ^ 24
  [k.amp * cosTurn d / 2 ^ 52, k.amp * sinTurn d / 2 ^ 52]

/-- DRIVE_SAMPLE: the next of the DIV drive samples per cycle of ψ_ref. -/
def driveSample (l : Nat) (s : State) : State :=
  if leState s l = 0 ∨ ¬ leResonant s l ∨ ¬ loopsRun s then s
  else
    let div := max 1 (rfld s (Reg.leDrv l) 31 25)
    let r := refPhase s l s.linkTime
    let k := r.1 * div / 2 ^ 40 + 1
    let ph : Int := k * 2 ^ 40 / div
    let t16 : Int := if r.2 = 0 then (now s : Int) * 16 else (now s : Int) * 16 + divHalfUp ((ph - r.1) * 2 ^ 16 * 16) r.2
    let a : Int := (ph + (rfld s (Reg.leDrv l) 23 0 : Int) * 65536) * 2 ^ 24
    let u := (loopAt s l).u
    let v := (u.headD 0) * sinTurn a + ((u[1]?).getD 0) * cosTurn a
    sendOut l t16.toNat (clampI (divRound v (2 ^ 60)) (-32768) 32767) s

/-- DRIVE_SAMPLE. -/
def execDriveSample (l : LoopId) (s : State) : Host.Outcome State Fault Refusal := .next (driveSample l.val s)

/-! ## Set-points (R196 to R198, R292) -/

/-- The slow-axis reference η of slot n at a link time, in units of 2^-24. -/
def slowRef (s : State) (n : Nat) (t : LinkTime) : Option Int :=
  match cfgOf s n with
  | none => none
  | some c =>
    if c.slot.cls ≠ 2 ∨ ¬ projects (reckOf s n) then none
    else if c.slot.traj = 2 then
      let a : Int := ((refPhaseLiss s n t : Nat) : Int) * 2 ^ 24
      some ((axisTracker s c.slot.port 1).amp * sinTurn a / 2 ^ 68)
    else
      let h := c.slot.activeH
      let cnt := lineCount s n
      let r := retraceLines s n c
      let c0 : Nat := ((centres c.phse.offset).headD (0, false)).1
      -- position in lines from the centre of line R, in units of 2^-39 line
      let x : Int := ((framePhase s n t : Int) - (c0 : Int) * 65536 - (r : Int) * 2 ^ 39) % ((max 1 cnt : Nat) * 2 ^ 39 : Int)
      let end_ : Int := ((h : Int) - 1)
      if x ≤ end_ * 2 ^ 39 then some (divRound ((2 * x - end_ * 2 ^ 39) * 2 ^ 24) (h * 2 ^ 39))
      else
        let y := x - end_ * 2 ^ 39
        let cs := cosTurn (y * 2 ^ 24 / ((r + 1 : Nat) : Int))
        some (divRound (end_ * 2 ^ 24 * cs) (h * 2 ^ 60))
where
  /-- N_s × Φ / N_f in 2^-16 pu. -/
  refPhaseLiss (s : State) (n : Nat) (t : LinkTime) : Nat :=
    let nf := rfld s (Reg.lbTraj n) 15 0
    if nf = 0 then 0 else refEventPhase s n t * rfld s (Reg.lbTraj n) 31 16 / nf

/-- The target of measurement j at a link time, signed 8.24; none where its source gives none. -/
def spTarget (s : State) (l j : Nat) (t : LinkTime) : Option Int :=
  match leSpsrc s l with
  | 0 => some (signed 32 (if j = 0 then reg s (Reg.leSp0 l) else reg s (Reg.leSp1 l)).toNat)
  | 1 => slowRef s (leSpslot s l) t
  | 2 => some (divRound ((rfld s (Reg.lsSet (leSpslot s l)) 15 0 * 2 ^ 24 : Nat) : Int) 1000)
  | _ => none

/-- Moves set-point j at a sample (R292). -/
def moveSp (l j : Nat) (t : LinkTime) (s : State) : State :=
  match spTarget s l j t with
  | none => s
  | some x =>
    let lo := signed 32 (reg s (Reg.leSpMin l)).toNat
    let hi := signed 32 (reg s (Reg.leSpMax l)).toNat
    let tgt := clampI x lo hi
    let sp := signed 32 (reg s (Reg.leSpNow l j)).toNat
    let slew : Int := (reg s (Reg.leSpSlew l)).toNat
    let d := tgt - sp
    let lim := decide (0 < slew ∧ slew < d.natAbs)
    let d' := if lim then (if d < 0 then -slew else slew) else d
    leFlag l lfSpRange (tgt != x) (leFlag l lfSpLimited lim (setReg (Reg.leSpNow l j) (BitVec.ofInt 32 (sp + d')) s))

/-! ## The repetitive controller (R285 to R287) -/

/-- KIND 5 entries of the pool, and the lowest base. -/
def rcEntries (s : State) : List PoolEnt := s.cast.pool.filter fun e => e.kind == 5
def rcLow (s : State) : Nat := ((rcEntries s).map (·.base)).foldl min (((rcEntries s).map (·.base)).headD 0)

/-- First byte and length of a loop's repetitive memory. -/
def rcStart (s : State) (l : Nat) : Nat := rcLow s * 1024 * 1024 + rfld s (Reg.leRcBase l) 19 0 * 4096
def rcLen (s : State) (l : Nat) : Nat := leRcN s l * leNu s l * 4

/-- The memory of a loop breaks R287. -/
def rcBad (s : State) (l : Nat) : Bool :=
  let a := rcStart s l
  let b := a + rcLen s l
  leRcN s l == 0 || decide (4096 < leRcN s l) ||
  !((rcEntries s).any fun e => decide (e.base * 1024 * 1024 ≤ a ∧ b ≤ (e.base + e.size) * 1024 * 1024)) ||
  (List.range 128).any fun m =>
    m != l && leState s m != 0 && leRcEn s m && decide (a < rcStart s m + rcLen s m ∧ rcStart s m < b)

/-- Address of memory word i of output j. -/
def rcAddr (s : State) (l j i : Nat) : Nat := rcStart s l + 4 * (j * leRcN s l + i % max 1 (leRcN s l))

/-- Memory word i of output j as mantissa and exponent. -/
def rcWord (s : State) (l j i : Nat) : Int × Nat :=
  let w := leNat (dramRead s (rcAddr s l j i) 4)
  (signed 18 (w % 2 ^ 18), w / 2 ^ 18 % 64)

/-- The term of a memory word. -/
def rcTerm (neg : Bool) (x : Int × Nat) : BTerm := { v := if neg then -x.1 else x.1, e := (x.2 : Int) - 40 }

/-- The sample index k (R285). -/
def rcIndex (s : State) (l : Nat) (t : LinkTime) : Nat :=
  let n := max 1 (leRcN s l)
  if rbit s (Reg.leRc l) 30 then
    match slotOnPort s (leSport s l) with
    | some m =>
      n * framePhase s m t / (2 ^ 40 * frameCycles s m) % n
    | none => 0
  else (loopAt s l).k % n

/-- v_j as a term; nothing without the controller. -/
def rcOut (s : State) (l j k : Nat) (neg : Bool) : List BTerm :=
  if leRcEn s l then [rcTerm neg (rcWord s l j (k + rfld s (Reg.leRc l) 27 16))] else []

/-- Stage 6 for output j (R286): e is the error as a block value. -/
def rcUpdate (l j k : Nat) (e : Blk) (s : State) : State :=
  let n := max 1 (leRcN s l)
  let q (i : Nat) : Int := coef s l (134 + i)
  let tap (i : Nat) (d : Nat) : BTerm :=
    let w := rcWord s l j (k + d)
    { v := q i * w.1, e := (expQ s l : Int) + w.2 - 80 }
  let qt := min 2 (rfld s (Reg.leRc l) 29 28)
  let taps := [tap 0 0] ++ (if 1 ≤ qt then [tap 1 (n - 1), tap 1 1] else []) ++
    (if 2 ≤ qt then [tap 2 (2 * n - 2), tap 2 2] else [])
  let g0 := coef s l 137
  let g : Int := match (loopAt s l).gramp with
    | some i => divRound (g0 * i) (16 * n)
    | none => g0
  let a := accumulate [taps ++ [{ v := g * (e.m[j]?).getD 0, e := (expG s l : Int) + e.exp - 80 }]]
  let r := normalise a.v a.lsb
  let w := unsigned 18 (r.blk.m.headD 0) + r.blk.exp * 2 ^ 18
  leFlag l lfSatAcc a.sat (leFlag l lfSatState r.high (leFlag l lfExpClamp (r.high || r.low)
    (dramWrite (rcAddr s l j k) (leBytes 4 w) s)))

/-! ## The step (R280, R281, R293, R295) -/

/-- Marks of a normalisation (R290): stage 3 marks its output. -/
def noteNorm (l : Nat) (out : Bool) (r : Norm) (s : State) : State :=
  leFlag l (if out then lfSatOut else lfSatState) r.high (leFlag l lfExpClamp (r.high || r.low) s)

/-- Marks of a stage (R289, R290). -/
def noteStage (l : Nat) (out : Bool) (a : Acc) (r : Norm) (s : State) : State := leFlag l lfSatAcc a.sat (noteNorm l out r s)

/-- A block value with every entry held within ±m × 2^(e − 40), as its normalisation gives it, and whether one was clamped. -/
def clampBlk (z : Blk) (m e : Nat) : Norm × Bool :=
  let lo := min z.exp e
  let zs := z.m.map fun x => x * 2 ^ (z.exp - lo)
  let lim : Int := (m : Int) * 2 ^ (e - lo)
  let cs := zs.map fun x => clampI x (-lim) lim
  if zs = cs then ({ blk := z, high := false, low := false }, false) else (normalise cs ((lo : Int) - 40), true)

/-- What stage 3 or its stand-in gives: outputs in 2^-15, z, which outputs were clamped (−1, 0, 1), and the marks. -/
structure OutStep where
  u : List Int
  z : Blk
  dir : List Int
  s : State

/-- u from stage 3 (R280), clamped (R293). -/
def stage3 (l : Nat) (xb z : Blk) (k : Nat) (s : State) : OutStep :=
  let nx := leNx s l
  let nu := leNu s l
  let ny := leNy s l
  let a := accumulate ((List.range nu).map fun j =>
    prodTerms true (expK s l) ((coefRows s l 112 10 nu nx)[j]?.getD []) xb ++
    prodTerms false (expK s l) ((coefRows s l 120 10 nu ny)[j]?.getD []) z ++ rcOut s l j k false)
  let r := normalise a.v a.lsb
  let c := clampOut s l ((List.range nu).map r.blk.q15)
  { u := c.1, z := z, dir := c.2, s := leFlag l lfSatOut (c.2.any (· != 0)) (noteStage l true a r s) }

/-- The preset at the first sample after CLOSE (R295). -/
def presetStep (l : Nat) (xb : Blk) (k : Nat) (s : State) : OutStep :=
  let nx := leNx s l
  let nu := leNu s l
  let ny := leNy s l
  let uh := (loopAt s l).u.take nu
  let a := accumulate ((List.range nu).map fun j =>
    [{ v := (uh[j]?).getD 0, e := -15 : BTerm }] ++
    prodTerms false (expK s l) ((coefRows s l 112 10 nu nx)[j]?.getD []) xb ++ rcOut s l j k true)
  let sent := clampOut s l uh
  let s1 := leFlag l lfSatOut (sent.2.any (· != 0)) (leFlag l lfSatAcc a.sat s)
  let rhs (j : Nat) : Rat := ((a.v[j]?).getD 0 : Rat) * (2 : Rat) ^ a.lsb
  let kz (i j : Nat) : Rat := (coef s l (120 + 10 * i + j) : Rat) * (2 : Rat) ^ ((expK s l : Int) - 40)
  let det : Rat := if nu = 1 then kz 0 0 else kz 0 0 * kz 1 1 - kz 0 1 * kz 1 0
  if nu ≠ ny ∨ det = 0 then
    { u := sent.1, z := Blk.zero ny, dir := sent.2, s := leFlag l lfPreset true s1 }
  else
    let sol := if nu = 1 then [rhs 0 / det]
      else [(rhs 0 * kz 1 1 - kz 0 1 * rhs 1) / det, (kz 0 0 * rhs 1 - kz 1 0 * rhs 0) / det]
    let r := ratsBlk sol
    let c := clampBlk r.blk (coef s l 138).natAbs (expZ s l)
    let s2 := noteNorm l false c.1 (noteNorm l false r s1)
    if c.2 then stage3 l xb c.1.blk k (leFlag l lfSatState true (leFlag l lfPreset true s2))
    else { u := sent.1, z := c.1.blk, dir := sent.2, s := s2 }

/-- The output of an OPEN loop: held, or the next step of its ramp (R295), within the limits as they stand (R293). -/
def openStep (l : Nat) (z : Blk) (s : State) : OutStep :=
  let n := rfld s (Reg.leRamp l) 15 0
  let q := loopAt s l
  let r : Option (Nat × List Int) × List Int := match q.ramp with
    | none => (none, q.u)
    | some (i, u0) =>
      if n ≤ i + 1 then (none, safeOf s l)
      else (some (i + 1, u0), (u0.zip (safeOf s l)).map fun x => x.1 + divRound ((x.2 - x.1) * (i + 1)) n)
  let c := clampOut s l (r.2.take (leNu s l))
  { u := c.1, z := z, dir := c.2, s := leFlag l lfSatOut (c.2.any (· != 0)) (modLoop l (fun q => { q with ramp := r.1 }) s) }

/-! ## Measurements and samples (R276, R279, R298) -/

/-- Samples arrive at a loop, each with measurement m: the first runs once the step before it has finished, one waits, and each
further one replaces the one that waits (R279). -/
def arrive (l k : Nat) (m : LoopMeas) (s : State) : State :=
  let q := loopAt s l
  let k1 := k - (if q.run.isNone then 1 else 0)
  let k2 := k1 - (if q.wait.isNone then 1 else 0)
  let s1 := modLoop l (fun q => { q with
    run := if k = 0 then q.run else q.run.or (some m), wait := if k1 = 0 then q.wait else some m }) s
  if k2 = 0 then s1 else setBit (Reg.leFlags l) lfSkip true (addSat (Reg.leCnt l) 31 16 k2 s1)

/-- Counts toward an automatic close (R297). -/
def countAuto (l : Nat) (s : State) : State :=
  if leState s l ≠ 1 then s
  else modLoop l (fun q =>
    match q.auto with
    | none => q
    | some k => if 16 ≤ k + 1 then { q with auto := none, closing := true } else { q with auto := some (k + 1) }) s

/-- The source of loop l delivers a measurement (R279). -/
def takeMeas (l : Nat) (m : LoopMeas) (s : State) : State :=
  let s1 := modLoop l (fun q => { q with meas := some m, heard := s.linkTime }) s
  let s2 := if leSrc s l = 1 then s1 else countAuto l s1
  if leTrig s l = 0 then arrive l 1 m s2 else s2

/-- The measurements of an accepted sense return of port p for loop l, in units of 2^-40 (R276): pickoff angles by their own
link times, a photodiode's mean, or the laser supply in volts. DEDUCED: a mean and a supply voltage carry T_END (log entry 81). -/
def sensePoints (s : State) (p l : Nat) (k : SensePkt) : List LoopMeas :=
  if leSport s l ≠ p then []
  else match leSrc s l with
    | 1 => (k.pickoffs.filter fun x => x.axis.toNat == leSidx s l).map fun x =>
        { t := k.tEnd - ((k.tEnd.setWidth 40 - x.t).setWidth 64), y := [x.angle.toInt * 2 ^ 26] }
    | 2 => (k.pds.filter fun x => x.1.toNat == leSidx s l).map fun x => { t := k.tEnd, y := [(x.2.toNat : Int) * 2 ^ 8] }
    | 3 => [{ t := k.tEnd, y := [divRound ((k.vMeas.toNat * 2 ^ 40 : Nat) : Int) 1000] }]
    | _ => []

/-- An accepted sense return of port p reaches the loops and trackers that take from it (R20). -/
def loopsSense (p : Nat) (k : SensePkt) (s : State) : State :=
  forAll ((List.range 128).filter fun l => leState s l != 0) (fun l s =>
    if ¬ loopsRun s then s
    else
      let ms := sensePoints s p l k
      let s1 := if leSrc s l = 1 then modLoop l (fun q => { q with
        picks := q.picks ++ ms.map fun m => (m.t, BitVec.ofInt 16 (m.y.headD 0 / 2 ^ 26)) }) s else s
      ms.foldl (fun s m => takeMeas l m s) s1) s

/-- The period ticks of a TRIG 1 loop up to now (R279): each is a sample of the newest measurement of the source; before the
first measurement a sample has none. -/
def loopTicks (l : Nat) (s : State) : State :=
  let q := loopAt s l
  let per := 4 * lePeriod s l
  let ahead : Int := (s.linkTime - q.tick).toInt
  if leState s l = 0 ∨ leTrig s l ≠ 1 ∨ ¬ loopsRun s ∨ ahead < 0 then s
  else
    let k := ahead.toNat / per + 1
    arrive l k (q.meas.getD { t := s.linkTime, y := [] })
      (modLoop l (fun q => { q with tick := q.tick + BitVec.ofNat 64 (k * per) }) s)

/-- The first period tick of a loop comes one period from now. -/
def startTicks (l : Nat) (s : State) : State :=
  modLoop l (fun q => { q with
    tick := s.linkTime + BitVec.ofNat 64 (4 * lePeriod s l), heard := s.linkTime, meas := none, run := none, wait := none }) s

/-- The sample of loop l that is to run: the one that has arrived, once the loop's tracker has taken what came before it (R282).
A source that no SENSE packet brings (SRC 0 and 4 with TRIG 0) gives one with each command, measured at t. -/
def dueSample (s : State) (l : Nat) (t : LinkTime) : Option LoopMeas :=
  let q := loopAt s l
  match q.run with
  | some m => if q.picks.all fun x => decide (0 < (x.1 - m.t).toInt) then some m else none
  | none => if leTrig s l = 0 ∧ (leSrc s l = 0 ∨ leSrc s l = 4) then some { t := t, y := [] } else none

/-- Loop l is the one whose sample is served next (R298): the earliest measurement first, then the lowest loop. -/
def servedNext (s : State) (l : Nat) (m : LoopMeas) : Bool :=
  (List.range 128).all fun j => match (loopAt s j).run with
    | some x => j == l || decide (m.t.toNat < x.t.toNat ∨ (m.t = x.t ∧ l < j))
    | none => true

/-- The measurements of a sample in units of 2^-40 (R276, R283). The operand y gives what no packet brings: the phase current
that the power stage senses (SRC 4), and the values the spec leaves open, which are those of SRC 0, of a sample before the first
measurement, and the second one of a source that gives one (log entry 81). -/
def sampleMeas (s : State) (l : Nat) (m : LoopMeas) (y : List Int) : List Int :=
  let x := if leResonant s l then resonantMeas s l m.t else if leSrc s l = 4 then [] else m.y
  (List.range (leNy s l)).map fun j => (x[j]?).getD ((y[j]?).getD 0)

/-- The delay of a sample (R298). -/
def noteDelay (l delay : Nat) (s : State) : State :=
  let s1 := modLoop l (fun q => { q with delays := (delay :: q.delays).take 1024 }) s
  let ds := (loopAt s1 l).delays
  let mean := ds.foldl (· + ·) 0 / max 1 ds.length
  let s2 := setFld (Reg.leDly l) 31 16 (max delay (rfld s (Reg.leDly l) 31 16)) (setFld (Reg.leDly l) 15 0 delay s1)
  let s3 := setFld (Reg.leDlyMean l) 15 0 mean s2
  if rfld s Reg.leDlyThr 15 0 < delay then incSat (Reg.leDlyMean l) 31 16 s3 else s3

/-- Lock after a sample of a CLOSED pickoff loop (R284). -/
def noteLock (l : Nat) (y : List Int) (s : State) : State :=
  if leSrc s l ≠ 1 ∨ leState s l ≠ 2 then s
  else
    let tol : Int := (rfld s (Reg.leLock l) 23 0 : Int) * 65536
    let n := max 1 (rfld s (Reg.leLock l) 31 24)
    let err := (List.range y.length).map fun j =>
      (signed 32 (reg s (Reg.leSpNow l j)).toNat * 65536 - (y[j]?).getD 0).natAbs
    let ok := err.all fun e => decide ((e : Int) ≤ tol)
    let wide := err.any fun e => decide (2 * tol < (e : Int))
    let s1 := modLoop l (fun q => { q with good := if ok then q.good + 1 else 0, bad := if wide then q.bad + 1 else 0 }) s
    let q := loopAt s1 l
    if rbit s (Reg.leStatus l) 4 then (if n ≤ q.bad then loseLock l s1 else s1)
    else if n ≤ q.good ∧ rbit s (Reg.leStatus l) 3 then setBit (Reg.leStatus l) 4 true s1
    else s1

/-- A sample with a locked tracker, or of a source whose measurements come with the samples, counts toward an automatic close
(R297). -/
def noteAuto (l : Nat) (s : State) : State :=
  if leSrc s l = 2 ∨ leSrc s l = 3 ∨ (leSrc s l = 1 ∧ ¬ rbit s (Reg.leStatus l) 3) then s else countAuto l s

/-- Stages 5 and 6 of a CLOSED sample (R280, R281, R286): y in units of 2^-40. -/
def closeStages (l k : Nat) (y : List Int) (o : OutStep) (s : State) : State :=
  let ny := leNy s l
  let sp (j : Nat) : Int := signed 32 (reg s (Reg.leSpNow l j)).toNat
  let yb := toBlk y (-40)
  let spn := normalise ((List.range ny).map sp) (-24)
  let spb := spn.blk
  let err (j : Nat) : Int := sp j * 65536 - (y[j]?).getD 0
  let skip (j : Nat) : Bool :=
    let push := coef s l (120 + 10 * j + j) * err j
    match (o.dir[j]?).getD 0 with
    | 1 => decide (0 < push)
    | -1 => decide (push < 0)
    | _ => false
  let a := accumulate ((List.range ny).map fun j =>
    if skip j then [o.z.term false j] else [o.z.term false j, spb.term false j, yb.term true j])
  let r := normalise a.v a.lsb
  let c := clampBlk r.blk (coef s l 138).natAbs (expZ s l)
  let s1 := leFlag l lfSatState c.2 (noteNorm l false c.1 (noteNorm l false spn (noteStage l false a r
    (modLoop l (fun q => { q with z := c.1.blk }) s))))
  if ¬ leRcEn s l then s1
  else
    let ea := accumulate ((List.range ny).map fun j => [spb.term false j, yb.term true j])
    let en := normalise ea.v ea.lsb
    let s2 := forAll (List.range (leNu s l)) (fun j s => rcUpdate l j k en.blk s) (noteStage l false ea en s1)
    let n16 := 16 * leRcN s l
    match (loopAt s2 l).gramp with
    | none => s2
    | some g =>
      if n16 ≤ g + 1 then setBit (Reg.leStatus l) 5 false (modLoop l (fun q => { q with gramp := none }) s2)
      else modLoop l (fun q => { q with gramp := some (g + 1) }) s2

/-- One sample of loop l through the stages of R280. -/
def runSample (l : Nat) (m : LoopMeas) (ys : List Int) (s : State) : State :=
  let t := m.t
  let nx := leNx s l
  let nu := leNu s l
  let ny := leNy s l
  let sp := forAll (List.range ny) (fun j s => moveSp l j t s) s
  let y := sampleMeas sp l m ys
  let yn := normalise y (-40)
  let yb := yn.blk
  let s0 := noteNorm l false yn sp
  let q := loopAt s0 l
  let x := q.x
  -- stages 1 and 2
  let a1 := accumulate ((List.range ny).map fun j =>
    yb.term false j :: prodTerms true (expC s l) ((coefRows s l 80 8 ny nx)[j]?.getD []) x)
  let e := normalise a1.v a1.lsb
  let a2 := accumulate ((List.range nx).map fun i =>
    x.term false i :: prodTerms false (expL s l) ((coefRows s l 96 2 nx ny)[i]?.getD []) e.blk)
  let xb := normalise a2.v a2.lsb
  let s1 := noteStage l false a2 xb (noteStage l false a1 e s0)
  let k := rcIndex s1 l t
  -- stage 3 or what stands for it; the output issues at once
  let shut := leState s l = 2 ∨ q.closing
  let o : OutStep :=
    if leState s l = 2 then stage3 l xb.blk q.z k s1
    else if q.closing then presetStep l xb.blk k s1
    else openStep l q.z s1
  let un := normalise o.u (-15)
  let s2 := modLoop l (fun q => { q with
    u := (o.u ++ [0, 0]).take 2, z := o.z, closing := false
    ramp := if shut then none else q.ramp
    gramp := if q.closing then some 0 else q.gramp }) (noteNorm l true un o.s)
  let s3 := issueOut l (if q.closing ∧ leState s l = 1 then setFld (Reg.leStatus l) 1 0 2 s2 else s2)
  -- stage 4
  let a4 := accumulate ((List.range nx).map fun i =>
    prodTerms false (expA s l) ((coefRows s l 0 8 nx nx)[i]?.getD []) xb.blk ++
    prodTerms false (expB s l) ((coefRows s l 64 2 nx nu)[i]?.getD []) un.blk)
  let xn := normalise a4.v a4.lsb
  let s4 := noteStage l false a4 xn (modLoop l (fun q => { q with x := xn.blk }) s3)
  -- stages 5 and 6
  let s5 := if shut then closeStages l k y o s4 else s4
  let s6 := modLoop l (fun q => { q with k := (q.k + 1) % max 1 (leRcN s l) }) s5
  showLoop l (noteAuto l (noteLock l y s6))

/-- LOOP_SAMPLE: the sample of loop l runs where it is the next to be served, and the one that waits takes its place (R279, R280,
R298); t and y are what a source that no packet brings measures, delay what the part measures from the measurement to the
output. -/
def loopSample (l : Nat) (t : LinkTime) (y : List Int) (delay : Nat) (s : State) : State :=
  if leState s l = 0 ∨ ¬ loopsRun s then s
  else match dueSample s l t with
    | none => s
    | some m =>
      if servedNext s l m then
        noteDelay l delay (runSample l m y (modLoop l (fun q => { q with run := q.wait, wait := none }) s))
      else s

/-- LOOP_SAMPLE. -/
def execLoopSample (l : LoopId) (t : LinkTime) (y0 y1 : BitVec 64) (delay : BitVec 16) (s : State) :
    Host.Outcome State Fault Refusal :=
  .next (loopSample l.val t [y0.toInt, y1.toInt] delay.toNat s)

/-! ## Commands of the host (R278, R294, R295) -/

/-- A loop command's status (R294, R300). -/
def leResult (l : Nat) (st : Status) (s : State) : State :=
  let s1 := setFld (Reg.leStatus l) 31 16 st.code s
  if st = .OK then s1 else setReg Reg.leErr (at_ 31 16 st.code ||| at_ 6 0 l) s1

/-- ENABLE is refused (R278). -/
def enableFails (s : State) (l : Nat) : Bool :=
  let nx := leNx s l
  let nu := leNu s l
  let ny := leNy s l
  let others := (List.range 128).filter fun m => m != l && leState s m != 0
  let d := leDst s l
  !decide (1 ≤ nx ∧ nx ≤ 8 ∧ 1 ≤ nu ∧ nu ≤ 2 ∧ 1 ≤ ny ∧ ny ≤ 2) ||
  decide (2 ≤ leTrig s l) || (leTrig s l == 1 && decide (lePeriod s l < 800)) ||
  (leSrc s l == 1 && others.any fun m => leSrc s m == 1 && leSport s m == leSport s l && leSidx s m == leSidx s l) ||
  ((d == 1 || d == 2) && others.any fun m => leDst s m == d && leDport s m == leDport s l && leDidx s m == leDidx s l) ||
  (d == 3 && (decide (leDidx s l ≤ 8) || others.any fun m => leDst s m == 3 && leDidx s m == leDidx s l)) ||
  (leResonant s l && leSrc s l != 1) || (leRcEn s l && (rcBad s l || nu != ny))

/-- ENABLE. -/
def loopEnable (l : Nat) (s : State) : State :=
  if leState s l ≠ 0 then leResult l .LOOP_BUSY s
  else if enableFails s l then leResult l .LOOP_CONFIG s
  else
    let s1 := setFld (Reg.leStatus l) 1 0 1 (modLoop l (fun q => { LoopState.init with
      x := Blk.zero (leNx s l), z := Blk.zero (leNy s l), u := safeSent s l, delays := q.delays }) s)
    leResult l .OK (showLoop l (issueOut l (startTicks l (startTracker l s1))))

/-- The loop takes from or drives a port whose engine is not bound (R278). -/
def unboundLoop (s : State) (l : Nat) : Bool :=
  (decide (1 ≤ leSrc s l ∧ leSrc s l ≤ 3) && !portBound s (leSport s l)) ||
    (decide (1 ≤ leDst s l ∧ leDst s l ≤ 2) && !portBound s (leDport s l))

/-- CLOSE: the loop is CLOSED at its next sample. DESIGN CHOICE: a loop that stays OPEN until an engine binds (R278) refuses it
with LOOP_BUSY (log entry 81). -/
def loopClose (l : Nat) (s : State) : State :=
  if leState s l ≠ 1 ∨ (loopAt s l).closing ∨ unboundLoop s l then leResult l .LOOP_BUSY s
  else leResult l .OK (modLoop l (fun q => { q with closing := true, auto := none }) s)

/-- A loop opens: held, or ramped (R295). -/
def openLoop (l : Nat) (s : State) : State :=
  let ramps := rfld s (Reg.leRamp l) 15 0 ≠ 0
  if leState s l = 2 then
    setFld (Reg.leStatus l) 1 0 1 (loseLock l (modLoop l (fun q => { q with
      closing := false, ramp := if ramps then some (0, q.u) else none }) s))
  else modLoop l (fun q => { q with closing := false }) s

/-- OPEN. -/
def loopOpen (l : Nat) (s : State) : State :=
  if leClosed s l then leResult l .OK (openLoop l s) else leResult l .LOOP_BUSY s

/-- A loop returns to IDLE. -/
def idleLoop (l : Nat) (s : State) : State :=
  setFld (Reg.leStatus l) 1 0 0 (setBit (Reg.leStatus l) 3 false (loseLock l (modLoop l (fun q => { q with
    closing := false, ramp := none, auto := none, trk := Tracker.init, meas := none, run := none, wait := none, picks := [] }) s)))

/-- DISABLE: one output sample at U_SAFE. -/
def loopDisable (l : Nat) (s : State) : State :=
  if leState s l = 0 then leResult l .LOOP_BUSY s
  else
    let s1 := modLoop l (fun q => { q with u := safeSent s l }) s
    let s2 := if leResonant s l then driveSample l s1 else issueOut l s1
    leResult l .OK (idleLoop l (showLoop l s2))

/-- A write of LEn_CTRL: a command code that the table does not list does nothing. -/
def leCtrl (l : Nat) (v : Word) (s : State) : State :=
  match fld v 3 0 with
  | 1 => loopEnable l s
  | 2 => loopClose l s
  | 3 => loopOpen l s
  | 4 => loopDisable l s
  | _ => s

/-- ENABLE. -/
def execLoopEnable (l : LoopId) (s : State) : Host.Outcome State Fault Refusal :=
  .next (hostWrite (Reg.leCtrl l.val) 1 (leCtrl l.val) s)

/-- CLOSE. -/
def execLoopClose (l : LoopId) (s : State) : Host.Outcome State Fault Refusal :=
  .next (hostWrite (Reg.leCtrl l.val) 2 (leCtrl l.val) s)

/-- OPEN. -/
def execLoopOpen (l : LoopId) (s : State) : Host.Outcome State Fault Refusal :=
  .next (hostWrite (Reg.leCtrl l.val) 3 (leCtrl l.val) s)

/-- DISABLE. -/
def execLoopDisable (l : LoopId) (s : State) : Host.Outcome State Fault Refusal :=
  .next (hostWrite (Reg.leCtrl l.val) 4 (leCtrl l.val) s)

/-! ## Coefficient and configuration writes (R296, R299) -/

/-- A rejected write. -/
def rejectCoef (l : Nat) (st : Status) (s : State) : State :=
  setReg Reg.leErr (at_ 31 16 st.code ||| at_ 6 0 l) (setBit (Reg.leFlags l) lfCoefRej true s)

/-- Bits of coefficient word w the host may write. -/
def coefMask (w : Nat) : Word :=
  if w = 132 ∨ w = 133 then 0x3F3F3F3F else if w < 139 then 0x3FFFF else 0

/-- A write of coefficient word w; the learning gain ramps after a write of γ (R287). -/
def coefWrite (l w : Nat) (v : Word) (s : State) : State :=
  if 139 ≤ w then s
  else if leClosed s l then rejectCoef l .LOOP_CLOSED s
  else
    let s1 := setReg (Reg.leCoef l w) (v &&& coefMask w) s
    if w = 137 then modLoop l (fun q => { q with gramp := some 0 }) s1 else s1

/-- A write of LEn_CFG, LEn_DIM, LEn_RC, LEn_RC_BASE or LEn_DRV. -/
def leConfigWrite (l off : Nat) (m : Word) (v : Word) (s : State) : State :=
  if leState s l ≠ 0 then rejectCoef l .LOOP_BUSY s
  else if off = Reg.leDrv l then setReg off (putFld (v &&& m) 31 25 (clampN (fld v 31 25) 8 64)) s
  else setReg off (v &&& m) s

/-- Offset and writable bits of the configuration registers by their word index in the loop's block. -/
def leConfigReg (l w : Nat) : Option (Nat × Word) :=
  match w with
  | 0 => some (Reg.leCfg l, 0xFFFFFFFE)
  | 1 => some (Reg.leDim l, 0xF333FFFF)
  | 14 => some (Reg.leRc l, 0xFFFF1FFF)
  | 15 => some (Reg.leRcBase l, 0xFFFFF)
  | 20 => some (Reg.leDrv l, 0xFFFFFFFF)
  | _ => none

/-- COEF_WRITE: w is the word of the coefficient memory, or of the loop's register block where the write is to its
configuration. -/
def execCoefWrite (l : LoopId) (config : Bool) (w : Fin 256) (v : Word) (s : State) : Host.Outcome State Fault Refusal :=
  .next (if config then
      match leConfigReg l.val w.val with
      | some r => hostWrite r.1 v (leConfigWrite l.val r.1 r.2) s
      | none => s
    else hostWrite (Reg.leCoef l.val w.val) v (coefWrite l.val w.val) s)

/-- A write of LEn_DLY clears MAX (R300). -/
def dlyClear (l : Nat) (_ : Word) (s : State) : State := setFld (Reg.leDly l) 31 16 0 s

/-- DLY_MAX_CLEAR. -/
def execDlyMaxClear (l : LoopId) (s : State) : Host.Outcome State Fault Refusal :=
  .next (hostWrite (Reg.leDly l.val) 0 (dlyClear l.val) s)

/-! ## Events outside the host's commands (R297) -/

/-- LOOP_SRC_LOST: a loop that counts as CLOSED has had no measurement for 2 sample periods, or 2 intervals of its source; a CLOSE
that waits for its sample is discarded. A loop without a source loses none. -/
def loopSrcLost (l : Nat) (s : State) : State :=
  if leClosed s l ∧ loopsRun s ∧ leSrc s l ≠ 0 ∧ overdue s l (loopAt s l).heard then
    setBit (Reg.leFlags l) lfSrcLost true (openLoop l s)
  else s

/-- LOOP_SRC_LOST. -/
def execLoopSrcLost (l : LoopId) (s : State) : Host.Outcome State Fault Refusal := .next (loopSrcLost l.val s)

/-- The loop takes its measurements from port p, or drives it. -/
def loopOnPort (s : State) (p l : Nat) : Bool :=
  (decide (1 ≤ leSrc s l ∧ leSrc s l ≤ 3) && leSport s l == p) || (decide (1 ≤ leDst s l ∧ leDst s l ≤ 2) && leDport s l == p)

/-- The engine of port p departs or is reset: its loops open. -/
def loopsDepart (p : Nat) (s : State) : State :=
  forAll (List.range 128) (fun l s =>
    if leState s l ≠ 0 ∧ loopOnPort s p l then
      let s1 := modLoop l (fun q => { q with auto := none }) (openLoop l s)
      if leSrc s l = 1 ∧ leSport s l = p then
        setBit (Reg.leStatus l) 3 false (modLoop l (fun q => { q with trk := Tracker.init, picks := [] }) s1) else s1
    else s) s

/-- The engine of port p is bound: its trackers start, and loops with AUTO set count toward a close. -/
def loopsBind (p : Nat) (s : State) : State :=
  forAll (List.range 128) (fun l s =>
    if leState s l ≠ 0 ∧ loopOnPort s p l then
      let s1 := if leSport s l = p then startTracker l s else s
      if leAuto s l ∧ leState s l = 1 then modLoop l (fun q => { q with auto := some 0 }) s1 else s1
    else s) s

/-- Exit from Doze: every loop not IDLE is OPEN at U_SAFE with x̂ at 0, and a kept repetitive memory is stale (R287). -/
def loopsDozeExit (s : State) : State :=
  forAll (List.range 128) (fun l s =>
    let s0 := if leRcEn s l then setBit (Reg.leStatus l) 5 true (modLoop l (fun q => { q with gramp := some 0 }) s) else s
    if leState s l = 0 then s0
    else
      let s1 := modLoop l (fun q => { q with
        x := Blk.zero (leNx s l), u := safeSent s l, ramp := none, closing := false
        auto := if leAuto s l then some 0 else none }) (setFld (Reg.leStatus l) 1 0 1 (loseLock l s0))
      showLoop l (startTicks l (startTracker l s1))) s

end Sys2Proof.Machine
end

