-- ==== Sys2Proof/Machine/Reckon.lean ====
section
/-! DEFINITION. The reckon step (R68 to R80): projection of every slot, then the events whose crossing lies within the
horizon, with the late rule of R79: plane loads (R182, R183, R190), level sets, illumination on and off (R233), line
window ends (R234), and placement groups (R202). -/

set_option Elab.async false

namespace Sys2Proof.Machine

/-- Crossing of a phase by slot n's projection now, in sixteenths; now where no crossing comes. -/
def cross16 (s : State) (n : Nat) (p : PhaseWord) : Nat := ((crossing (reckOf s n) s.linkTime p).getD ((now s : Int) * 16)).toNat

/-- A late event counts (R79). -/
def noteLate (n : Nat) (s : State) : State := incSat (Reg.tfCntB n) 31 16 (setBit (Reg.tfFlags n) 3 true s)

/-- A dropped level or on event counts on its channels (R246). -/
def noteDrop (n : Nat) (s : State) : State :=
  match cfgOf s n with
  | none => s
  | some c => forAll (c.chmp.map (·.lc)) (fun k s => setBit (Reg.lcFlags k) 0 true (incSat (Reg.lcCnt k) 15 0 s)) s

/-- Entry k of the table in use, with its codes. -/
def entNow (s : State) (n k : Nat) : Option SeqEnt := (entsNow s n)[k]?

/-! ## Plane loads (R120, R138, R182, R183, R190, R324) -/

/-- Mirror (x, y) of a plane is on after the mask gate and the Dim gate: y counts before the late-shift (R89, R120, R138). -/
def gateBit (s : State) (c : SlotCast) (sc : List SceneEnt) (ms : List MaskEff) (dim : Bool) (k x y : Nat) : Bool :=
  covered s c sc x y ||
    (!dim && decide (shade8 ms ((x : Int) * 2 ^ 24) ((y : Int) * 2 ^ 24) ≤ stipple ((x + 17 * k) % 64) ((y + 29 * k) % 64)))

/-- Block i of entry k after both gates. -/
def gateBlock (s : State) (n : Nat) (c : SlotCast) (ms : List MaskEff) (k i : Nat) (bs : List Byte) : List Byte :=
  let q := slotAt s n
  let sc := ((q.tap.map (·.scene)).getD q.hall.active)
  if ms.isEmpty ∧ ¬ q.gate then bs
  else
    let w := planeStride c.slot.activeW
    ((List.range bs.length).zip bs).map fun b =>
      let o := 4096 * i + b.1
      let y : Int := ((o / w : Nat) : Int) - q.lvlShift
      if y < 0 ∨ (c.slot.activeH : Int) ≤ y then b.2
      else (List.range 8).foldl (fun (v : Byte) j =>
        if bit b.2 j && gateBit s c sc ms q.gate k (8 * (o % w) + j) y.toNat then v ||| (1#8 <<< j) else v) 0

/-- Block i of entry k leaves: decompressed, gated, sent (R190). -/
def sendBlock (n : Nat) (c : SlotCast) (ms : List MaskEff) (k i : Nat) (release : BitVec 40) (s : State) : State :=
  let r := loadBlock s n c k i
  let s1 := modSlot n (fun q => { q with readNow := q.readNow + r.2 }) s
  let x : List Byte × State := match r.1 with
    | .inr d => (d, s1)
    | .inl _ =>
      (List.replicate 4096 0, logEvent .PLANE_CORRUPT clsPart n 0
        (setBit (Reg.slFlags n) 5 true (incSat (Reg.slCntB n) 31 16 s1)))
  sendPkt c.slot.port (.plane k (nBlocks c) i ((slotAt s n).frame.setWidth 16) release (gateBlock x.2 n c ms k i x.1)) x.2

/-- Release time of a plane load whose event falls at phase p (R182). -/
def releaseAt (s : State) (n : Nat) (p : PhaseWord) : Nat := cross16 s n (p + phWord 0 (rfld s (Reg.slLoad n) 23 0))

/-- A load issued at t16 ends after its release time (R183). -/
def loadOverruns (s : State) (n : Nat) (c : SlotCast) (p : PhaseWord) (t16 : Nat) : Bool :=
  decide (releaseAt s n p < t16 + ceilDiv (loadNs s c.slot.port * 256) 5)

/-- Marks entry k dark for this frame: its level set and illumination on are dropped (R183, R233). -/
def darkenEntry (n k : Nat) (s : State) : State :=
  modSlot n (fun q => { q with darkWin := if q.darkWin.contains k then q.darkWin else q.darkWin ++ [k] }) s

/-- A plane load starts at issue time t16; its event falls at phase p (R182, R183). A frame that is emitted dark loads no
plane (R163: nothing is emitted). What the slicer holds back for the entry is stored once the load has read it (R171). -/
def planeLoad (n : Nat) (c : SlotCast) (k : Nat) (p : PhaseWord) (t16 : Nat) (late : Bool) (s : State) : State :=
  storeHeld n c k (match entNow s n k with
  | none => s
  | some e =>
    if ¬ seqOk s n ∨ emitDark s n then s
    else
      let s1 := if inDim s n && !(slotAt s n).gate then engageDim n s else s
      let mid := cross16 s1 n (phWord (phCyc p) (((e.start + e.end_) / 2 : Nat) : Int))
      let ms := masksAt s1 c mid
      let s2 := forAll (List.range (nBlocks c)) (fun i s => sendBlock n c ms k i (ts40 (releaseAt s1 n p)) s) (noteMasks n c mid s1)
      if late ∧ loadOverruns s1 n c p t16 then incSat (Reg.slCntC n) 15 0 (setBit (Reg.slFlags n) 6 true (darkenEntry n k s2))
      else s2)

/-! ## Edge commands (R79, R233) -/

/-- A level set of entry k at t16. -/
def levelSet (n : Nat) (c : SlotCast) (k t16 : Nat) (late : Bool) (s : State) : State :=
  if late then noteDrop n (darkenEntry n k s)
  else match entNow s n k with
    | none => s
    | some e =>
      if emitDark s n || !lightOn s n || (slotAt s n).darkWin.contains k || !seqOk s n then s
      else issueLevels n (entCodes c e) (ts40 t16) s

/-- An illumination on of entry k at t16: dropped where its level set was, or where the load darkened the window. -/
def illumOn (n k t16 : Nat) (late : Bool) (s : State) : State :=
  let dark := (slotAt s n).darkWin.contains k
  let s1 := modSlot n (fun q => { q with darkWin := q.darkWin.filter (· != k) }) s
  if late then noteDrop n s1
  else if dark || emitDark s n || !lightOn s n || !seqOk s n then s1
  else issueOns n (ts40 t16) s1

/-! ## Calibration gaps (R253, R254) -/

/-- A lost gap counts. -/
def noteGapLost (n : Nat) (s : State) : State := incSat (Reg.caCnt n) 15 0 (setBit (Reg.caFlags n) 1 true s)

/-- A calibration gap starts at t16, or its start marker was late. -/
def gapStart (n t16 : Nat) (late : Bool) (s : State) : State :=
  let open_ (g : Gap) : Bool := g.stop.isNone
  let s1 := modSlot n (fun q => { q with cal := { q.cal with
    gapLost := late
    gaps := q.cal.gaps.filter (fun g => !open_ g) ++ (if late then [] else [{ start := t16, stop := none, p := [], t := 0 }]) } }) s
  if late then noteGapLost n s1 else s1

/-- A calibration gap ends at t16, or its end marker was late. -/
def gapStop (n t16 : Nat) (late : Bool) (s : State) : State :=
  let known := (slotAt s n).cal.gaps.any (·.stop.isNone)
  let s1 := modSlot n (fun q => { q with cal := { q.cal with
    gapLost := false
    gaps := if late then q.cal.gaps.filter (·.stop.isSome)
      else q.cal.gaps.map fun g => if g.stop.isNone then { g with stop := some t16 } else g } }) s
  if late && (known || !(slotAt s n).cal.gapLost) then noteGapLost n s1 else s1

/-- Event e of slot n issues at t16 in sixteenths; late says that its crossing lay before what the port can meet (R79). -/
def issueEvent (n : Nat) (c : SlotCast) (e : BitVec 64) (t16 : Nat) (late : Bool) (s : State) : State :=
  let k := evHandle e
  let s1 := if late then noteLate n s else s
  match evKind e with
  | 1 => planeLoad n c k (evPhase (reckOf s n) e) t16 late s1
  | 2 => illumOn n k t16 late s1
  | 3 => issueOff c.slot.port (ts40 t16) s1
  | 4 => levelSet n c k t16 late s1
  | 6 => gapStart n t16 late s1
  | 7 => gapStop n t16 late s1
  | _ => s1

/-- The crossing of an event of slot n, where it lies within the horizon of the present step (R78). -/
def dueCross (s : State) (n : Nat) (e : BitVec 64) : Option Int :=
  (crossing (reckOf s n) s.linkTime (evPhase (reckOf s n) e)).filter fun x =>
    decide (x ≤ ((now s + rfld s (Reg.tfHorizon n) 15 0) * 16 : Nat))

/-- Darkens the entries whose loads, due in this step, are late and end after their release: the level set and the
illumination on of such an entry do not leave even where they are due in the same step (R183). -/
def darkenLate (n : Nat) (c : SlotCast) (s : State) : State :=
  let soon := soonest s c.slot.port
  let due := (slotAt s n).lanes.payload.takeWhile fun e => (dueCross s n e).isSome
  forAll ((due.filter fun e => evKind e == 1 && decide (((dueCross s n e).getD 0) < soon) &&
    loadOverruns s n c (evPhase (reckOf s n) e) soon).map evHandle) (darkenEntry n) s

/-- Retires the head of a lane if its crossing lies within the horizon, up to a number of events (R74, R78). -/
def retireLane (n : Nat) (c : SlotCast) (l : Lane) : Nat → State → State
  | 0, s => s
  | fuel + 1, s =>
    match laneOf (slotAt s n).lanes l with
    | [] => s
    | e :: es =>
      match dueCross s n e with
      | none => s
      | some x =>
        let early := soonest s c.slot.port
        let late := decide (x < (early : Int))
        let s1 := modSlot n (fun q => { q with lanes := withLane q.lanes l es (waitOf q.lanes l) }) s
        retireLane n c l fuel (issueEvent n c e (if late then early else x.toNat) late s1)

/-- The lanes of slot n in the order of R74, then its placement groups. Gap events that have come within 127 cycles enter the
cal lane first (R75). -/
def issueSlot (n : Nat) (s : State) : State :=
  match cfgOf s n with
  | none => s
  | some c =>
    if ¬ projects (reckOf s n) then s
    else
      let s1 := retireLane n c .cal 32 (retireLane n c .payload 64 (retireLane n c .edge 96 (darkenLate n c (insertCal n [] s))))
      if c.slot.cls = 2 then issueLines n c s1 else s1

/-! ## What the clock brings to the links (R307, R310, R321) -/

/-- Periods between the part's heartbeats: 5 µs; and between the probes of a series: 10 µs. -/
def beatTicks : Nat := 16000
def probeTicks : Nat := 32000

/-- Port p at the present link time: waiting packets leave, a heartbeat that is due is issued, and the next probe of a series.
DESIGN CHOICE: the part sends a heartbeat every 5 µs, the longest that R321 allows (log entry 82). -/
def portTime (p : Nat) (s : State) : State :=
  let s1 := transmit p 2 s
  let s2 := if beating s1 p ∧ (portAt s1 p).beat.toNat ≤ now s1 then
      sendPkt p (.heartbeat 0 0 0 0) (modPort p (fun q => { q with beat := q.beat + BitVec.ofNat 64 beatTicks }) s1)
    else s1
  if 0 < (portAt s2 p).probes ∧ (portAt s2 p).probeT.toNat ≤ now s2 then
    sendPkt p .timeProbe (modPort p (fun q => { q with probes := q.probes - 1, probeT := q.probeT + BitVec.ofNat 64 probeTicks }) s2)
  else s2

/-- Nothing of port p waits for the clock. -/
def portQuiet (s : State) (p : Nat) : Bool :=
  !beating s p && (portAt s p).wait.isEmpty && decide ((portAt s p).probes = 0)

/-- The next reckon step of 8 periods (R68): every slot's projection, then the events within every slot's horizon. -/
def reckonOnce (s : State) : State :=
  let t := nextStep s
  forAll (List.range 8) issueSlot (forAll (List.range 8) portTime
    (forAll (List.range 8) (fun n s => reckonSlot n t s) { s with linkTime := t }))

/-- The next k reckon steps. -/
def reckonMany : Nat → State → State
  | 0, s => s
  | k + 1, s => reckonMany k (reckonOnce s)

/-- Link time runs on to t, with every reckon step on the way; a t behind the present link time is no step. Steps in which no
slot has a reckoner out of IDLE and no port anything to send only count the clock. Period ticks of the loops that the time passes
give their samples (R279). -/
def reckonStep (t : LinkTime) (s : State) : State :=
  if t.toNat < now s then s
  else
    let quiet := (List.range 8).all fun n => (reckOf s n).st == .idle && portQuiet s n
    let s1 := if quiet then s else reckonMany (t.toNat / 8 - now s / 8) s
    forAll ((List.range 128).filter fun l => leState s l != 0) loopTicks { s1 with linkTime := t }

/-- RECKON_STEP: the timing clock counts while the part is powered. -/
def execReckonStep (t : LinkTime) (s : State) : Host.Outcome State Fault Refusal := .next (whilePowered (reckonStep t) s)

end Sys2Proof.Machine
end

