-- ==== Sys2Proof/Machine/Calib.lean ====
section
/-! DEFINITION. Calibration (R248 to R273): jobs, observations, estimators, excitation, targets, easing, the assay figure,
the ratio error, snapshots and field-calibration pages. The calibration block computes targets in exact rationals; the
estimator runs in binary32 as R255 says. -/

set_option Elab.async false

namespace Sys2Proof.Machine

/-- Changes the calibration state of slot n. -/
def modCal (n : Nat) (f : SlotCal → SlotCal) (s : State) : State := modSlot n (fun q => { q with cal := f q.cal }) s

/-- The calibration state of slot n. -/
def calOf (s : State) (n : Nat) : SlotCal := (slotAt s n).cal

/-- The calibration vector (R358). -/
def vecCal : Nat := 12

/-! ## Jobs (R251, R252) -/

/-- The fields of a job, defaults taken. -/
structure JobCfg where
  forget : Nat
  ease : Nat
  update : Nat
  chroma : Bool
  apply : Bool
  est : Bool
  stepMap : Nat
  stepMtx : Nat
  excMin : Nat
  refLum : Nat
  whiteU : Nat
  whiteV : Nat
  deriving DecidableEq, Repr

/-- A field, or its default where it is written as 0. -/
def orDef (x d : Nat) : Nat := if x = 0 then d else x

/-- A job from its words W1 to W4. -/
def jobCfg (w1 w2 w3 w4 : Word) : JobCfg :=
  { forget := orDef (fld w1 31 28) 10
    ease := orDef (fld w1 23 16) 32
    update := orDef (fld w1 15 8) 8
    chroma := bit w1 2
    apply := bit w1 1
    est := bit w1 0
    stepMap := orDef (fld w2 31 16) 64
    stepMtx := orDef (fld w2 15 0) 8
    excMin := orDef (fld w3 31 16) 64
    refLum := orDef (fld w3 12 0) 3686
    whiteU := if w4 = 0 then 12963 else fld w4 15 0
    whiteV := if w4 = 0 then 30690 else fld w4 31 16 }

/-- The job that stands in the active copies of slot n: TYPE 5, EN, not parked; none has an effect while PD19 is Off (R40). -/
def jobPitch (s : State) (n : Nat) : Option Nat :=
  if pdOff s 19 then none
  else (cfgOf s n).bind fun c => (generalPitches c).find? fun p =>
    hdrType (actW s p 0) == tyCalJob && hdrEn (actW s p 0) && !parked s p

/-- The settings in force for slot n: the job's, or the defaults without a job. -/
def jobNow (s : State) (n : Nat) : JobCfg :=
  match (calOf s n).job with
  | some p => jobCfg (actW s p 1) (actW s p 2) (actW s p 3) (actW s p 4)
  | none => jobCfg 0 0 0 0

/-- A host write of a pitch word by way of the calibration rules: a second enabled job is dropped, and a write of a job
pitch is taken up at the next boundary (R252). w0 is the header the write would leave. -/
def jobWrite (n : Nat) (c : SlotCast) (p : Nat) (w0 : Word) (act : State → State) (s : State) : State :=
  let second := (generalPitches c).any fun q => q != p && hdrType (pendW s q 0) == tyCalJob && hdrEn (pendW s q 0)
  if hdrType w0 = tyCalJob ∧ hdrEn w0 ∧ second then setBit (Reg.caFlags n) 5 true s
  else if hdrType w0 = tyCalJob ∨ hdrType (pendW s p 0) = tyCalJob then
    modCal n (fun k => { k with wrote := true }) (act s)
  else act s

/-- Pending copies of job pitches become active at the boundary after a write; a job that becomes active starts its
counts. -/
def takeJobs (n : Nat) (c : SlotCast) (s : State) : State :=
  let s1 := if (calOf s n).wrote then
      forAll ((generalPitches c).filter fun p => hdrType (pendW s p 0) == tyCalJob || hdrType (actW s p 0) == tyCalJob)
        copyPitch (modCal n (fun k => { k with wrote := false }) s)
    else s
  let j := jobPitch s1 n
  if j = (calOf s n).job then modCal n (fun k => { k with frames := k.frames + 1 }) s1
  else
    let s2 := modCal n (fun k => { k with
      job := j, frames := 0
      mtxTarget := if j.isNone then k.mtx else k.mtxTarget }) s1
    match j with
    | some p => setPendW p 15 0 s2
    | none => forAll (c.chmp.map (·.lc)) (fun k => modChan k fun h => { h with
        run := { h.run with target := h.run.v }, step := { h.step with target := h.step.v }
        dim := { h.dim with target := h.dim.v } }) s2

/-! ## Descriptor values (R315) -/

/-- KIND 1: a broadband channel. -/
def chBroad (s : State) (p ch : Nat) : Bool := descAt s p (descChan ch + 1) 1 == 1
def chPd (s : State) (p ch : Nat) : Nat := descAt s p (descChan ch + 2) 1
def chLam0 (s : State) (p ch : Nat) : Nat := descAt s p (descChan ch + 8) 4
def chDldt (s : State) (p ch : Nat) : Int := signed 16 (descAt s p (descChan ch + 12) 2)
def chT0 (s : State) (p ch : Nat) : Int := signed 16 (descAt s p (descChan ch + 14) 2)
def chRho (s : State) (p ch : Nat) : Int := signed 16 (descAt s p (descChan ch + 16) 2)
def chLum (s : State) (p ch : Nat) : Nat := descAt s p (descChan ch + 30) 2
def chCurve (s : State) (p ch k : Nat) : Nat := descAt s p (descChan ch + 32 + 2 * k) 2
def chLfac (s : State) (p ch : Nat) : Nat := chCurve s p ch 15

/-- SERIAL and DESC_CRC of the engine on port p. -/
def portSerial (s : State) (p : Nat) : BitVec 64 := (reg s (Reg.epSerialHi p)) ++ (reg s (Reg.epSerialLo p))
def portCrc (s : State) (p : Nat) : Word := reg s (Reg.epDescCrc p)

/-! ## Wavelength (R256) -/

/-- Junction temperature of LCk as the heat ledger shows it, in 1/64 degree. -/
def chTj (s : State) (k : Nat) : Int := signed 16 (rfld s (Reg.thChTj k) 15 0)

/-- LAMBDA of a channel in pm; 0 for a broadband one. -/
def lamNow (s : State) (p : Nat) (e : ChanEnt) : Int :=
  if chBroad s p e.engCh then 0
  else (chLam0 s p e.engCh : Int) + divRound (chDldt s p e.engCh * (chTj s e.lc - chT0 s p e.engCh)) 64

/-- Responsivity at a wavelength. -/
def respAt (s : State) (p ch : Nat) (lam : Int) : Rat :=
  if chBroad s p ch then 1 else 1 + mkRat (chRho s p ch * (lam - chLam0 s p ch)) (2 ^ 30)

/-! ## The model of a channel (R248) -/

/-- L at current x in mA. -/
def lightAt (a b c imax x : Rat) : Rat := if x ≤ 0 then 0 else a * x + b + c * x * x / imax

/-- The real roots of c x² / imax + a x + b = w. -/
def lightRoots (a b c imax w : Rat) : List Rat :=
  if c = 0 then (if a = 0 then [] else [(w - b) / a])
  else
    let q := c / imax
    let d := a * a - 4 * q * (b - w)
    if d < 0 then [] else [(-a + ratSqrt d) / (2 * q), (-a - ratSqrt d) / (2 * q)]

/-- The distance of a rational from 0. -/
def ratAbs (x : Rat) : Rat := if x < 0 then -x else x

/-- The element of a list nearest to x. -/
def nearestTo (x : Rat) : List Rat → Option Rat
  | [] => none
  | y :: r =>
    match nearestTo x r with
    | none => some y
    | some z => if ratAbs (y - x) ≤ ratAbs (z - x) then some y else some z

/-- THRESH in mA, where the model has a root that is not negative. -/
def threshOf (a b c imax : Rat) : Option Rat :=
  if a = 0 then none else nearestTo (-b / a) ((lightRoots a b c imax 0).filter fun x => 0 ≤ x)

/-- SLOPE for a threshold. -/
def slopeOf (a c imax t : Rat) : Option Rat :=
  let d := a + 2 * c * t / imax
  if imax = 0 ∨ d = 0 then none else some ((a + 2 * c - d) / d)

/-- The word of a rational in signed or unsigned 16.16; a free value where there is none to show (log entry 22). -/
def fix16 (sgn : Bool) (x : Option Rat) (s : State) : Word × State :=
  let free := takeFree s
  match x with
  | none => (free.1.setWidth 32, free.2)
  | some q =>
    let r := ratRound (q * 65536)
    if (if sgn then -(2 ^ 31 : Int) ≤ r ∧ r < 2 ^ 31 else 0 ≤ r ∧ r < 2 ^ 32) then (BitVec.ofInt 32 r, s)
    else (free.1.setWidth 32, free.2)

/-- Shows a channel's model values (R268, R274): EFF, THRESH, SLOPE, LAMBDA, TEMP and sigma. -/
def showModel (p : Nat) (e : ChanEnt) (eff : Option Rat) (s : State) : State :=
  let h := chanAt s e.lc
  let imax : Rat := (chImax s p e.engCh : Rat)
  let a := ratOfF32 h.a
  let b := ratOfF32 h.b
  let c := ratOfF32 h.c
  let t := threshOf a b c imax
  let x1 := fix16 false eff s
  let x2 := fix16 false t x1.2
  let x3 := fix16 true (t.bind (slopeOf a c imax)) x2.2
  let r := Reg.caCh e.lc
  setRegs [(r, x1.1), (r + 4, x2.1), (r + 8, x3.1), (r + 12, BitVec.ofInt 32 (lamNow s p e)),
    (r + 16, BitVec.ofInt 32 (chTj s e.lc * 1024))] (setFld (r + 20) 31 16 h.sigma x3.2)

/-- EFF of LCk in force; 1 for a channel that is not calibrated. -/
def effOf (s : State) (k : Nat) : Rat := if (chanAt s k).on then mkRat (reg s (Reg.caCh k)).toNat 65536 else 1

/-- EFF as R255 computes it from a, b, c. -/
def effCalc (s : State) (p : Nat) (e : ChanEnt) (a b c : Word) : Option Rat :=
  let imax := f32Of (chImax s p e.engCh : Int) 0
  let l := f32Add (f32Add (f32Mul a imax) b) (f32Mul c imax)
  let x := f32Div (f32Div l (f32OfRat (respAt s p e.engCh (lamNow s p e)))) (f32Of (chLfac s p e.engCh : Int) 0)
  if f32Finite x then some (ratOfF32 x) else none

/-! ## Level maps (R230, R259, R264) -/

/-- Holds a rational within lo and hi. -/
def clampR (x lo hi : Rat) : Rat := if x < lo then lo else if hi < x then hi else x

/-- The root of the model at light w that lies within lo and hi. -/
def rootIn (a b c imax w lo hi : Rat) : Rat :=
  let rs := lightRoots a b c imax w
  let off (x : Rat) : Rat := ratAbs (clampR x lo hi - x)
  let best := rs.foldl (fun (m : Option Rat) x =>
    match m with
    | none => some x
    | some y => if off x < off y then some x else some y) none
  clampR (best.getD lo) lo hi

/-- The 65 points of a map for a ceiling (R259), and whether the threshold lies at or above it. -/
def mapPoints (a b c imax : Rat) (fceil : Nat) : List Nat × Bool :=
  let top := imax * fceil / 65535
  let t := (threshOf a b c imax).getD 0
  if top ≤ t ∨ top = 0 then (List.replicate 65 65535, true)
  else
    let ltop := lightAt a b c imax top
    ((List.range 65).map fun i =>
      if i = 64 then 65535
      else clampN (ratHalfUp (65535 * rootIn a b c imax (ltop * (64 * i : Nat) / 4095) t top / top)).toNat 0 65535, false)

/-- Factory light at a fraction of 65,535 of the maximum current: linear between the points of the curve and 0 at 0. -/
def curveAt (curve : List Nat) (x : Rat) : Rat :=
  let pts := 0 :: curve
  let k := min 15 (x * 16).floor.toNat
  let f := x * 16 - (k : Nat)
  let y0 : Rat := (((pts[k]?).getD 0 : Nat) : Rat)
  let y1 : Rat := (((pts[k + 1]?).getD 0 : Nat) : Rat)
  y0 + (y1 - y0) * f

/-- The least fraction of the maximum current at which the curve gives light w. -/
def curveInv (curve : List Nat) (w : Rat) : Rat :=
  let pts := 0 :: curve
  match (List.range 16).find? fun k => w ≤ (((pts[k + 1]?).getD 0 : Nat) : Rat) with
  | none => 1
  | some k =>
    let y0 : Rat := (((pts[k]?).getD 0 : Nat) : Rat)
    let y1 : Rat := (((pts[k + 1]?).getD 0 : Nat) : Rat)
    if y1 ≤ y0 then mkRat k 16 else ((k : Nat) + (w - y0) / (y1 - y0)) / 16

/-- The factory curve of engine channel ch of port p. -/
def chCurveAll (s : State) (p ch : Nat) : List Nat := (List.range 16).map fun k => chCurve s p ch k

/-- The map of the factory curve for a ceiling (R230, R273): light linear in the code up to the light at the ceiling. -/
def curveMap (curve : List Nat) (fceil : Nat) : List Nat :=
  let top := mkRat fceil 65535
  let ltop := curveAt curve top
  (List.range 65).map fun i =>
    if i = 64 ∨ top = 0 then 65535
    else clampN (ratHalfUp (65535 * curveInv curve (ltop * (64 * i : Nat) / 4095) / top)).toNat 0 65535

/-- The LIMIT in force on the channel at position i of slot n. -/
def limAt (s : State) (n i : Nat) : Nat := ((slotAt s n).limNow[i]?).getD 0

/-- The ceilings that maps are formed for: Run, throttled, Dim. -/
def ceilRun (s : State) (n i : Nat) : Nat := fCeil (limAt s n i) 0 1024
def ceilStep (s : State) (n i : Nat) : Nat := fCeil (limAt s n i) (slotAt s n).stepNow 1024
def ceilDimOf (s : State) (n : Nat) (c : SlotCast) (i : Nat) : Nat := fCeil (limAt s n i) (slotAt s n).stepNow (dimFactor c true)

/-- Points that stand where easing had brought the old ones, relative to the target (R264). -/
def rebase (m : EasedMap) (t : List Nat) : EasedMap :=
  { v := (List.range 65).map fun i =>
      let old := (m.target[i]?).getD 0
      let new := (t[i]?).getD 0
      if old = 0 then new else min 65535 (divHalfUp ((new * (m.v[i]?).getD 0 : Nat) : Int) old).toNat
    target := t }

/-- The maps of the channel at position i from its model: new targets; jump sets them at once, keep rebases the easing. Each map
that a ceiling asks for may set LUM_LIMIT (R259). -/
def formMaps (n : Nat) (c : SlotCast) (i : Nat) (e : ChanEnt) (how : EasedMap → List Nat → EasedMap) (s : State) : State :=
  let h := chanAt s e.lc
  let imax : Rat := (chImax s c.slot.port e.engCh : Rat)
  let pts (f : Nat) : List Nat × Bool :=
    if h.fac then (curveMap (chCurveAll s c.slot.port e.engCh) f, false)
    else mapPoints (ratOfF32 h.a) (ratOfF32 h.b) (ratOfF32 h.c) imax f
  let r := pts (ceilRun s n i)
  let t := pts (ceilStep s n i)
  let d := pts (ceilDimOf s n c i)
  let s1 := modChan e.lc (fun h => { h with run := how h.run r.1, step := how h.step t.1, dim := how h.dim d.1 }) s
  if r.2 ∨ ((slotAt s n).stepNow ≠ 0 ∧ t.2) ∨ (c.hall.isSome ∧ d.2) then setBit (Reg.caFlags n) 3 true s1 else s1

/-- Maps jump to their targets, move toward them, or follow a new ceiling. -/
def mapJump (_ : EasedMap) (t : List Nat) : EasedMap := { v := t, target := t }
def mapEase (m : EasedMap) (t : List Nat) : EasedMap := { m with target := t }

/-- Applies f to every channel of slot n with its position. -/
def forChans (c : SlotCast) (f : Nat → ChanEnt → State → State) (s : State) : State :=
  ((List.range c.chmp.length).zip c.chmp).foldl (fun s x => f x.1 x.2 s) s

/-- New ceilings of slot n: maps of calibrated channels are formed for them from the model in force (R264). -/
def ceilingMaps (n : Nat) (c : SlotCast) (s : State) : State :=
  forChans c (fun i e s => if (chanAt s e.lc).on then formMaps n c i e rebase s else s) s

/-! ## Estimators (R250, R253, R255) -/

/-- Calibrated engine channels of slot n with their LC. -/
def calChans (s : State) (c : SlotCast) : List ChanEnt := c.chmp.filter fun e => (chanAt s e.lc).on

/-- A value's place in the sorted engine channels. -/
def sortNat : List Nat → List Nat
  | [] => []
  | x :: r => (sortNat r).filter (· < x) ++ [x] ++ (sortNat r).filter (x ≤ ·)

/-- Engine channels that CHMP FLAGS bit 1 names for photodiode pd. -/
def pdChans (s : State) (c : SlotCast) (pd : Nat) : List Nat :=
  sortNat ((c.chmp.filter fun e => e.flags / 2 % 2 == 1 && chPd s c.slot.port e.engCh == pd).map (·.engCh))

/-- Which channels of slot n are calibrated (R250): at most the four lowest of a photodiode. -/
def calibrates (s : State) (c : SlotCast) (e : ChanEnt) : Bool :=
  e.flags / 2 % 2 == 1 &&
    (chPd s c.slot.port e.engCh == 0xFF || ((pdChans s c (chPd s c.slot.port e.engCh)).take 4).contains e.engCh)

/-- The channels of slot n are calibrated or not (R250). -/
def markCalibrated (n : Nat) (c : SlotCast) (s : State) : State :=
  let shared := c.chmp.any fun e => e.flags / 2 % 2 == 1 && !calibrates s c e
  let s1 := forChans c (fun _ e s' => modChan e.lc (fun h => { h with on := calibrates s c e }) s') s
  if shared then setBit (Reg.caFlags n) 4 true s1 else s1

/-- The model words of engine channel ch on slot n. -/
def modelOf (s : State) (c : SlotCast) (ch : Nat) : List Word :=
  match c.chmp.find? fun e => e.engCh == ch with
  | some e => [(chanAt s e.lc).a, (chanAt s e.lc).b, (chanAt s e.lc).c]
  | none => [0, 0, 0]

/-- An estimator as it starts (R255). -/
def startEst (s : State) (c : SlotCast) (pd : Nat) (chans : List Nat) : Estim :=
  let p := c.slot.port
  let scales := Config.estScale 0 0 0 :: chans.flatMap fun ch =>
    [1, 2, 3].map fun i => Config.estScale i (chImax s p ch) (chLfac s p ch)
  let n := scales.length
  { pd := pd, chans := chans
    theta := Config.estOffset :: chans.flatMap (modelOf s c)
    cov := (List.range n).map fun i => (List.range n).map fun j =>
      if i = j then f32Mul (f32Of 10000 0) (f32Mul ((scales[i]?).getD 0) ((scales[i]?).getD 0)) else 0
    resvar := 0 }

/-- The estimators of slot n start (R255); photodiode 0xFF is none. -/
def startEsts (n : Nat) (s : State) : State :=
  match cfgOf s n with
  | none => s
  | some c =>
    let cal := calChans s c
    let pds := (sortNat (cal.map fun e => chPd s c.slot.port e.engCh)).eraseDups.filter (· != 0xFF)
    modCal n (fun k => { k with
      est := pds.map fun pd => startEst s c pd (sortNat ((cal.filter fun e => chPd s c.slot.port e.engCh == pd).map (·.engCh)))
      gram := cal.map fun e => (e.engCh, List.replicate 6 0), rows := 0, noRow := 0 }) s

/-- One row through an estimator (R255); nothing where a value is not finite. -/
def rlsStep (lam : Word) (phi : List Word) (p : Word) (e : Estim) : Option Estim :=
  let cphi := f32MulVec e.cov phi
  let den := f32Add lam (f32Dot phi cphi)
  let g := cphi.map fun x => f32Div x den
  let err := f32Sub p (f32Dot phi e.theta)
  let theta := (e.theta.zip g).map fun x => f32Add x.1 (f32Mul x.2 err)
  let pc := f32VecMul phi e.cov
  let cov := (e.cov.zip g).map fun r => (r.1.zip pc).map fun x => f32Div (f32Sub x.1 (f32Mul r.2 x.2)) lam
  let rv := f32Add (f32Mul lam e.resvar) (f32Mul (f32Mul (f32Sub (f32Of 1 0) lam) err) err)
  if (g ++ theta ++ cov.flatten ++ [den, err, rv]).all f32Finite then some { e with theta := theta, cov := cov, resvar := rv }
  else none

/-- The regressors x1, x0, x2 of an engine channel from its drive integrals, in mA and periods. -/
def regressors (imax : Nat) (x : DriveSum) : List Word :=
  [f32OfRat (mkRat ((x.1 * imax : Nat) : Int) (65535 * 16)), f32OfRat (mkRat ((x.2.1 : Nat) : Int) 16),
   f32OfRat (mkRat ((x.2.2 * imax : Nat) : Int) (65535 * 65535 * 16))]

/-- A photodiode sum in 1/65,536 of full scale and periods. -/
def sumWord (p : Nat) : Word := f32OfRat (mkRat (p : Int) (2 ^ 16))

/-- Takes a row of one photodiode sum table; xs gives the regressors of a channel. -/
def takeRow (lam : Word) (ps : List (Nat × Nat)) (t : Nat) (xs : Nat → List Word) (es : List Estim) : List Estim :=
  es.map fun e =>
    match ps.lookup e.pd with
    | none => e
    | some p => (rlsStep lam (f32Of (t : Int) 0 :: e.chans.flatMap xs) (sumWord p) e).getD e

/-- A Gram matrix with one more row. -/
def gramRow (lam : Word) (x g : List Word) : List Word :=
  let a := (x[0]?).getD 0
  let b := (x[1]?).getD 0
  let c := (x[2]?).getD 0
  (g.zip [f32Mul a a, f32Mul a b, f32Mul a c, f32Mul b b, f32Mul b c, f32Mul c c]).map fun y => f32Add (f32Mul lam y.1) y.2

/-- The forgetting factor. -/
def lamOf (forget : Nat) : Word := f32Sub (f32Of 1 0) (f32Of 1 (-(forget : Int)))

/-- The rows of slot n at a boundary (R253, R255): the gaps that ended before the last boundary in order, then the live row of the
frame that ended there, if its sense returns have all come by now (log entry 23). -/
def takeRows (n : Nat) (c : SlotCast) (s : State) : State :=
  let k := calOf s n
  let a := k.prev
  let job := jobNow s n
  let run := k.job.isSome && job.est
  let lam := lamOf job.forget
  let done (g : Gap) : Bool := match g.stop with
    | some t => decide (t ≤ k.cut)
    | none => false
  let heard := decide (k.cut ≤ (portAt s c.slot.port).lastTEnd.toNat * 16)
  let live := run && heard && decide (0 < a.t) && !a.lost && !a.sat && !a.blanked && !a.dark
  let darkRows := if run then k.gaps.filter fun g => done g && decide (0 < g.t) else []
  let zero (_ : Nat) : List Word := [0, 0, 0]
  let xs (ch : Nat) : List Word := regressors (chImax s c.slot.port ch) ((a.xs.lookup ch).getD (0, 0, 0))
  let est1 := darkRows.foldl (fun es g => takeRow lam g.p g.t zero es) k.est
  let est2 := if live then takeRow lam a.p a.t xs est1 else est1
  let s1 := modCal n (fun k => { k with
    est := est2, gaps := k.gaps.filter fun g => !done g
    gram := if live then k.gram.map fun g => (g.1, gramRow lam (xs g.1) g.2) else k.gram
    rows := if live then k.rows + 1 else k.rows, noRow := if live then 0 else k.noRow + 1
    prev := k.acc, acc := RowAcc.init, cut := now s * 16 }) s
  let s2 := if a.sat then setBit (Reg.caFlags n) 2 true s1 else s1
  if live then
    let s3 := incSat (Reg.caCnt n) 31 16 s2
    match k.job with
    | some p => incSat (Reg.pitch p 15) 15 0 s3
    | none => s3
  else s2

/-- An accepted sense return of port p enters the observations (R253): it belongs to the frame in which it ends. Where returns
before it are missing, since says where the last one ended; each frame in which a missing interval can have ended loses its live
row (R254, log entry 23). No row is taken of a frame in which the slot was blanked. -/
def senseRows (p n : Nat) (k : SensePkt) (c : SlotCast) (since : Option Nat) (s : State) : State :=
  let dt := k.tEnd.toNat - k.tStart.toNat
  let addP (l : List (Nat × Nat)) : List (Nat × Nat) := k.pds.map fun x =>
    (x.1.toNat, ((l.lookup x.1.toNat).getD 0) + x.2.toNat * dt)
  let t0 := k.tStart.toNat * 16
  let t1 := k.tEnd.toNat * 16
  let add (a : RowAcc) : RowAcc := { a with
    p := addP a.p, t := a.t + dt
    xs := c.chmp.map fun e =>
      let x := driveSum s p e.engCh t0 t1
      let y := (a.xs.lookup e.engCh).getD (0, 0, 0)
      (e.engCh, x.1 + y.1, x.2.1 + y.2.1, x.2.2 + y.2.2)
    sat := a.sat || bit k.status 1 }
  let inGap (g : Gap) : Bool := decide (g.start ≤ t0) && (match g.stop with
    | some t => decide (t1 ≤ t)
    | none => true)
  let cut := (calOf s n).cut
  let old := decide (t1 ≤ cut)
  let lose (b : Bool) (a : RowAcc) : RowAcc := if b then { a with lost := true } else a
  let lostPrev := since.any fun t => decide (t < cut)
  let lostAcc := since.isSome && decide (cut < t0)
  let blank := if old then (calOf s n).prev.blanked else (calOf s n).acc.blanked
  modCal n (fun q => { q with
    acc := lose lostAcc (if old then q.acc else add q.acc), prev := lose lostPrev (if old then add q.prev else q.prev)
    gaps := q.gaps.map fun g => if inGap g && !blank then { g with p := addP g.p, t := g.t + dt } else g }) s

/-- A rejected sense return whose times stand is missing from the live row of the frame in which it ends (R254). -/
def senseLost (n : Nat) (k : SensePkt) (s : State) : State :=
  if ¬ k.intact then s
  else modCal n (fun q =>
    if k.tEnd.toNat * 16 ≤ q.cut then { q with prev := { q.prev with lost := true } }
    else { q with acc := { q.acc with lost := true } }) s

/-! ## Excitation (R257, R258) -/

/-- The largest root of t³ − s t − q, within 2, in units of 2^-40 rounded down, for a cubic with real roots. -/
def cubicTop (sq q : Rat) : Nat → Nat → Nat
  | 0, u => u
  | k + 1, u =>
    let v := u + 2 ^ k
    let t := mkRat (v : Int) (2 ^ 40)
    let above := decide (0 ≤ t * t * t - sq * t - q) && decide (0 ≤ 3 * t * t - sq)
    cubicTop sq q k (if above then u else v)

/-- Ratio of the smallest to the largest eigenvalue of a Gram matrix scaled to a unit diagonal, u0.16. -/
def excScore (g : List Word) : Nat :=
  let v (i : Nat) : Rat := ratOfF32 ((g[i]?).getD 0)
  if v 0 ≤ 0 ∨ v 3 ≤ 0 ∨ v 5 ≤ 0 then 0
  else
    let sq := v 1 * v 1 / (v 0 * v 3) + v 2 * v 2 / (v 0 * v 5) + v 4 * v 4 / (v 3 * v 5)
    let q := 2 * (v 1 * v 2 * v 4 / (v 0 * v 3 * v 5))
    let top := cubicTop sq q 42 0
    let low := cubicTop sq (-q) 42 0
    min 65535 ((2 ^ 40 - low) * 65536 / (2 ^ 40 + top))

/-- The slot's score: the smallest of its calibrated channels. -/
def slotScore (s : State) (n : Nat) : Nat :=
  match (calOf s n).gram.map fun g => excScore g.2 with
  | [] => 0
  | x :: r => r.foldl min x

/-! ## Colour (R260, R265) -/

/-- Colour-matching values at a wavelength in pm, by linear interpolation of the ROM table. -/
def cieAt (lam : Int) : Rat × Rat × Rat :=
  let nm := (lam / 1000).toNat
  let f := mkRat (lam % 1000) 1000
  let a := Config.cie nm
  let b := Config.cie (nm + 1)
  let mix (x y : Nat) : Rat := ((x : Rat) + ((y : Rat) - (x : Rat)) * f) / (2 ^ 32 : Nat)
  (mix a.1 b.1, mix a.2.1 b.2.1, mix a.2.2 b.2.2)

/-- A quotient, 0 where the divisor is 0. -/
def ratDiv (x y : Rat) : Rat := if y = 0 then 0 else x / y

/-- Tristimulus of luminance y on a channel, from its factory (fac) or estimated chromaticity. -/
def triStim (s : State) (p : Nat) (e : ChanEnt) (fac : Bool) (y : Rat) : Rat × Rat × Rat :=
  if chBroad s p e.engCh then
    let d := descChan e.engCh
    let dT := if fac then (0 : Rat) else mkRat (chTj s e.lc - chT0 s p e.engCh) 64
    let x0 := mkRat (descAt s p (d + 18) 2 : Int) 65536 + mkRat (signed 16 (descAt s p (d + 22) 2)) (2 ^ 24) * dT
    let y0 := mkRat (descAt s p (d + 20) 2 : Int) 65536 + mkRat (signed 16 (descAt s p (d + 24) 2)) (2 ^ 24) * dT
    (ratDiv (x0 * y) y0, y, ratDiv ((1 - x0 - y0) * y) y0)
  else
    let c := cieAt (if fac then (chLam0 s p e.engCh : Int) else lamNow s p e)
    (ratDiv (c.1 * y) c.2.1, y, ratDiv (c.2.2 * y) c.2.1)

/-- EFF as luminance: times the ratio of ȳ for a laser. -/
def effLum (s : State) (p : Nat) (e : ChanEnt) : Rat :=
  if chBroad s p e.engCh then effOf s e.lc
  else effOf s e.lc * ratDiv (cieAt (lamNow s p e)).2.1 (cieAt (chLam0 s p e.engCh)).2.1

/-- Factory luminance of the channel at position i of slot n at full scale under the Run ceiling (R260, R261). -/
def runLum (s : State) (n : Nat) (c : SlotCast) (i : Nat) (e : ChanEnt) : Rat :=
  let curve := chCurveAll s c.slot.port e.engCh
  (chLum s c.slot.port e.engCh : Rat) * ratDiv (curveAt curve (mkRat (ceilRun s n i) 65535)) (curveAt curve 1)

/-- The channels of a role, each with its luminance under the Run ceiling. -/
def roleChans (s : State) (n : Nat) (c : SlotCast) (role : Nat) : List (ChanEnt × Rat) :=
  (((List.range c.chmp.length).zip c.chmp).filter fun x => x.2.role == role).map fun x => (x.2, runLum s n c x.1 x.2)

/-- Luminance of a role as estimated over its factory luminance. -/
def roleLum (s : State) (n : Nat) (c : SlotCast) (role : Nat) : Rat :=
  let es := roleChans s n c role
  let tot : Rat := es.foldl (fun a e => a + e.2) 0
  if tot = 0 then ratDiv (es.foldl (fun (a : Rat) e => a + effLum s c.slot.port e.1) 0) (es.length : Rat)
  else es.foldl (fun (a : Rat) e => a + effLum s c.slot.port e.1 * e.2) 0 / tot

/-- Column of a role in the matrix of primaries. -/
def primary (s : State) (n : Nat) (c : SlotCast) (fac : Bool) (role : Nat) : Rat × Rat × Rat :=
  (roleChans s n c role).foldl (fun a e =>
    let t := triStim s c.slot.port e.1 fac (if fac then e.2 else e.2 * effLum s c.slot.port e.1)
    (a.1 + t.1, a.2.1 + t.2.1, a.2.2 + t.2.2)) (0, 0, 0)

/-- A 3 × 3 matrix in rows. -/
abbrev Mat3 := List (List Rat)

/-- An entry of a matrix. -/
def Mat3.at (m : Mat3) (i j : Nat) : Rat := (((m[i]?).getD [])[j]?).getD 0

/-- The matrix whose columns are the primaries of roles 1, 2, 3. -/
def primaries (s : State) (n : Nat) (c : SlotCast) (fac : Bool) : Mat3 :=
  let r := primary s n c fac 1
  let g := primary s n c fac 2
  let b := primary s n c fac 3
  [[r.1, g.1, b.1], [r.2.1, g.2.1, b.2.1], [r.2.2, g.2.2, b.2.2]]

/-- A matrix from its entries. -/
def mat3 (f : Nat → Nat → Rat) : Mat3 := (List.range 3).map fun i => (List.range 3).map fun j => f i j

/-- Product of matrices, and of a matrix with a vector. -/
def matMul (a b : Mat3) : Mat3 := mat3 fun i j => a.at i 0 * b.at 0 j + a.at i 1 * b.at 1 j + a.at i 2 * b.at 2 j
def matVec (a : Mat3) (v : List Rat) : List Rat :=
  (List.range 3).map fun i => a.at i 0 * (v[0]?).getD 0 + a.at i 1 * (v[1]?).getD 0 + a.at i 2 * (v[2]?).getD 0

/-- The cofactor of an entry, and the inverse where the determinant is not 0. -/
def cofactor (m : Mat3) (i j : Nat) : Rat :=
  let a := (i + 1) % 3
  let b := (i + 2) % 3
  let c := (j + 1) % 3
  let d := (j + 2) % 3
  m.at a c * m.at b d - m.at a d * m.at b c
def matInv (m : Mat3) : Option Mat3 :=
  let det := m.at 0 0 * cofactor m 0 0 + m.at 0 1 * cofactor m 0 1 + m.at 0 2 * cofactor m 0 2
  if det = 0 then none else some (mat3 fun i j => cofactor m j i / det)

/-- The target white of REF_LUM, WHITE_U and WHITE_V as XYZ. -/
def whiteXyz (aim : Nat × Nat × Nat) (yTop : Rat) : List Rat :=
  let u := mkRat (aim.2.1 : Int) 65536
  let v := mkRat (aim.2.2 : Int) 65536
  let y := mkRat (aim.1 : Int) 4096 * yTop
  [ratDiv (9 * u * y) (4 * v), y, ratDiv ((12 - 3 * u - 20 * v) * y) (4 * v)]

/-- A coefficient in signed 3.12, rounded half away from zero and clamped. -/
def coef312 (x : Rat) : Int := clampI (ratRound (x * 4096)) (-32768) 32767

/-- The k rule of R260: a matrix whose row of positive coefficients exceeds 1 is scaled, which LUM_LIMIT shows. -/
def kRule (m : Mat3) : List Int × Bool :=
  let pos (x : Rat) : Rat := if x < 0 then 0 else x
  let k := (List.range 3).foldl (fun (a : Rat) i =>
    let r := pos (m.at i 0) + pos (m.at i 1) + pos (m.at i 2)
    if a < r then r else a) 0
  ((m.flatten).map fun x => coef312 (if 1 < k then x / k else x), decide (1 < k))

/-- The output-matrix target of slot n (R260); none where the equations have no solution. -/
def mtxTargetOf (s : State) (n : Nat) (c : SlotCast) (j : JobCfg) : Option (List Int × Bool) :=
  if mono c then
    let l := roleLum s n c 0
    if l ≤ 0 then none
    else
      let m := ratRound ((j.refLum : Rat) / l)
      some ((if 4096 ≤ m then 4096 else m) :: List.replicate 8 0, decide (4096 ≤ m))
  else if j.chroma then
    let fac := primaries s n c true
    let yTop := fac.at 1 0 + fac.at 1 1 + fac.at 1 2
    match matInv fac, matInv (primaries s n c false) with
    | some fi, some ei =>
      let sv := matVec fi (whiteXyz (j.refLum, j.whiteU, j.whiteV) yTop)
      some (kRule (matMul ei (matMul fac (mat3 fun a b => if a = b then (sv[a]?).getD 0 else 0))))
    | _, _ => none
  else
    let d (r : Nat) : Rat := ratDiv (mkRat (j.refLum : Int) 4096) (roleLum s n c r)
    if roleLum s n c 1 ≤ 0 ∨ roleLum s n c 2 ≤ 0 ∨ roleLum s n c 3 ≤ 0 then none
    else some (kRule (mat3 fun a b => if a = b then d (a + 1) else 0))

/-- Nine coefficients that no equation gives: free values. -/
def freeMtx : Nat → State → List Int × State
  | 0, s => ([], s)
  | k + 1, s =>
    let f := takeFree s
    let r := freeMtx k f.2
    (signed 16 (fld f.1 15 0) :: r.1, r.2)

/-- Forms the matrix target; the job's REF_LUM and WHITE are in effect from here on (R252). -/
def formMtx (n : Nat) (c : SlotCast) (s : State) : State :=
  let j := jobNow s n
  let s0 := modCal n (fun k => { k with aim := (j.refLum, j.whiteU, j.whiteV) }) s
  match mtxTargetOf s n c j with
  | some r =>
    let s1 := modCal n (fun k => { k with mtxTarget := r.1 }) s0
    if r.2 then setBit (Reg.caFlags n) 3 true s1 else s1
  | none =>
    let f := freeMtx 9 s0
    modCal n (fun k => { k with mtxTarget := f.1 }) f.2

/-- CAn_MTX0 to CAn_MTX5: the matrix in force and the offsets, which are 0 (R260, R268). -/
def showMtx (n : Nat) (s : State) : State :=
  let m := (calOf s n).mtx ++ [0, 0, 0]
  setRegs ((List.range 6).map fun i => (Reg.caMtx n i,
    at_ 31 16 (unsigned 16 ((m[2 * i + 1]?).getD 0)) ||| at_ 15 0 (unsigned 16 ((m[2 * i]?).getD 0)))) s

/-! ## Formation (R258, R259, R266) -/

/-- The estimate of an engine channel: a, b, c, the variance of a, and resvar. -/
def estimateOf (s : State) (n ch : Nat) : Option (Word × Word × Word × Word × Word) :=
  (calOf s n).est.findSome? fun e =>
    let i := e.chans.length - (e.chans.dropWhile (· != ch)).length
    if e.chans.contains ch then
      let w (k : Nat) : Word := (e.theta[1 + 3 * i + k]?).getD 0
      some (w 0, w 1, w 2, (((e.cov[1 + 3 * i]?).getD [])[1 + 3 * i]?).getD 0, e.resvar)
    else none

/-- The estimate of a channel becomes its model in force. -/
def takeModel (n : Nat) (c : SlotCast) (e : ChanEnt) (s : State) : State :=
  match estimateOf s n e.engCh with
  | none => s
  | some (a, b, cc, va, rv) =>
    let p := c.slot.port
    let r := ratDiv (chImax s p e.engCh : Rat) (chLfac s p e.engCh : Rat)
    let sg := ratRound (10000 * (2 * ratOfF32 (f32Sqrt (ratOfF32 (f32Mul rv va))) * r))
    let s1 := modChan e.lc (fun h => { h with fac := false, a := a, b := b, c := cc, sigma := clampN sg.toNat 0 65535 }) s
    showModel p e (effCalc s1 p e a b cc) s1

/-- The ratio error of a reference channel in 0.01 % (R186, R266). -/
def ratioErr (s : State) (n : Nat) (c : SlotCast) (ch : Nat) : Nat :=
  match c.chmp.find? fun e => e.engCh == ch with
  | none => 0
  | some e =>
    let codes := ((entsNow s n).map fun x => x.code ch).filter (· != 0)
    let hi := codes.foldl max 0
    let lo := codes.foldl min hi
    let imax : Rat := (chImax s c.slot.port ch : Rat)
    let h := chanAt s e.lc
    let l (k : Nat) : Rat := lightAt (ratOfF32 h.a) (ratOfF32 h.b) (ratOfF32 h.c) imax
      (mkRat (curOf s e.lc (wide8 k) : Int) 65535 * imax)
    if hi = 0 then 0
    else min 65535 ((ratRound (10000 * ratAbs (ratDiv (ratDiv (l lo) (l hi)) (mkRat (lo : Int) hi) - 1))).toNat + h.sigma)

/-- The worst ratio error of the table in use goes to SLn_WERR (R187, R266). -/
def formErr (n : Nat) (c : SlotCast) (s : State) : State :=
  if c.slot.cls ≠ 1 then s
  else
    let comps := ((entsNow s n).filter fun e => e.codes.any (· != 0)).map (·.comp)
    let chs := (comps.filterMap (refChan c)).eraseDups.filter fun ch => c.chmp.any fun e => e.engCh == ch && (chanAt s e.lc).on
    let err := chs.foldl (fun a ch => max a (ratioErr s n c ch)) 0
    let thr := rfld s (Reg.slWerr n) 31 16
    let s1 := setFld (Reg.slWerr n) 15 0 err s
    if rfld s (Reg.slWerr n) 15 0 ≤ thr ∧ thr < err then logEvent .WEIGHT_BUDGET clsPart n 0 s1 else s1

/-- WEIGHT stands while ERR exceeds THR (R187). -/
def showWeight (n : Nat) (s : State) : State :=
  if rfld s (Reg.slWerr n) 31 16 < rfld s (Reg.slWerr n) 15 0 then setBit (Reg.slFlags n) 7 true s else s

/-- New targets for every calibrated channel and the matrix; n starts again at EASE. -/
def formTargets (n : Nat) (c : SlotCast) (s : State) : State :=
  let e := (jobNow s n).ease
  let s1 := forChans c (fun i x s => if (chanAt s x.lc).on then
    modChan x.lc (fun h => { h with n := e }) (formMaps n c i x mapEase s) else s) s
  modCal n (fun k => { k with n := e }) (formMtx n c s1)

/-- A target formation (R258, R259); with EST 0 the confidence is NONE and SLn_WERR.ERR keeps its value (R266). -/
def formation (n : Nat) (c : SlotCast) (s : State) : State :=
  let sc := slotScore s n
  let s1 := setFld (Reg.caStatus n) 31 16 sc s
  if sc < (jobNow s n).excMin then
    setBit (Reg.caFlags n) 0 true (setFld (Reg.caStatus n) 7 0 1 (modCal n (fun k => { k with starved := true }) s1))
  else
    let s2 := setFld (Reg.caStatus n) 7 0 0 (modCal n (fun k => { k with starved := false }) s1)
    let s3 := (calChans s2 c).foldl (fun s e => takeModel n c e s) s2
    let s4 := formTargets n c s3
    if (jobNow s n).est then formErr n c s4 else s4

/-! ## Easing (R262) -/

/-- One step of a value toward its target. -/
def easeVal (lim n : Nat) (v t : Int) : Int := v + clampI (divRound (t - v) (max 1 n)) (-(lim : Int)) lim

/-- One step of a map. -/
def easeMap (lim n : Nat) (m : EasedMap) : EasedMap :=
  { m with v := (m.v.zip m.target).map fun x => (easeVal lim n x.1 x.2).toNat }

/-- One step of everything of slot n that eases. -/
def easeAll (n : Nat) (c : SlotCast) (s : State) : State :=
  let j := jobNow s n
  let dec (x : Nat) : Nat := if 1 < x then x - 1 else x
  let s1 := forChans c (fun _ e s => if (chanAt s e.lc).on then
    modChan e.lc (fun h => { h with
      run := easeMap j.stepMap h.n h.run, step := easeMap j.stepMap h.n h.step, dim := easeMap j.stepMap h.n h.dim
      n := dec h.n }) s else s) s
  showMtx n (modCal n (fun k => { k with
    mtx := (k.mtx.zip k.mtxTarget).map fun x => easeVal j.stepMtx k.n x.1 x.2, n := dec k.n }) s1)

/-- EASE_LEFT (R262): the largest n whose value has not reached its target. -/
def showEase (n : Nat) (c : SlotCast) (s : State) : State :=
  let k := calOf s n
  let m0 := if k.mtx = k.mtxTarget then 0 else k.n
  let m := (calChans s c).foldl (fun a e =>
    let h := chanAt s e.lc
    if h.run.v = h.run.target ∧ h.step.v = h.step.target ∧ h.dim.v = h.dim.target then a else max a h.n) m0
  setFld (Reg.caStatus n) 15 8 m s

/-! ## Assay (R265) -/

/-- Formation and easing of slot n are paused (R267, R274): Dim, or HOLD. -/
def calPaused (s : State) (n : Nat) : Bool := inDim s n || rbit s (Reg.caCtrl n) 0

/-- The confidence code of a slot for the sigmas of its channels, or of one channel. -/
def confCode (s : State) (n : Nat) (sigmas : List Nat) : Nat :=
  let k := calOf s n
  let j := jobNow s n
  if k.job.isNone ∨ ¬ j.est then 0
  else if 64 ≤ k.noRow then 6
  else if calPaused s n then 5
  else if k.starved then 1
  else if k.rows < 2 ^ j.forget ∨ sigmas.any (100 < ·) then 2
  else if sigmas.all (· ≤ 50) then 3
  else 4

/-- The chromaticity u', v' of XYZ. -/
def uvOf (v : List Rat) : Rat × Rat :=
  let d := (v[0]?).getD 0 + 15 * (v[1]?).getD 0 + 3 * (v[2]?).getD 0
  (ratDiv (4 * (v[0]?).getD 0) d, ratDiv (9 * (v[1]?).getD 0) d)

/-- DUV and DLUM of slot n, against the white that the last formation aimed at (R252). -/
def assayOf (s : State) (n : Nat) (c : SlotCast) : Nat × Int :=
  let aim := (calOf s n).aim
  let m := (calOf s n).mtx
  let rel (q : Rat) : Int := clampI (ratRound (1000 * (q - 1))) (-32767) 32767
  if mono c then (0, rel (ratDiv (roleLum s n c 0 * (((m[0]?).getD 0 : Int) : Rat)) (aim.1 : Rat)))
  else
    let fac := primaries s n c true
    let w := whiteXyz aim (fac.at 1 0 + fac.at 1 1 + fac.at 1 2)
    let row (i : Nat) : Rat := mkRat ((m[3 * i]?).getD 0 + (m[3 * i + 1]?).getD 0 + (m[3 * i + 2]?).getD 0) 4096
    let o := matVec (primaries s n c false) [row 0, row 1, row 2]
    let a := uvOf o
    let b := uvOf w
    let d := ratSqrt ((a.1 - b.1) * (a.1 - b.1) + (a.2 - b.2) * (a.2 - b.2))
    (clampN (ratRound (10000 * d)).toNat 0 4095, rel (ratDiv ((o[1]?).getD 0) ((w[1]?).getD 0)))

/-- CAn_ASSAY and CA_CHn_CONF. -/
def showAssay (n : Nat) (c : SlotCast) (s : State) : State :=
  let sg := (calChans s c).map fun e => (chanAt s e.lc).sigma
  let a := assayOf s n c
  let s1 := setReg (Reg.caAssay n) (at_ 31 28 (confCode s n sg) ||| at_ 27 16 a.1 ||| at_ 15 0 (unsigned 16 a.2)) s
  (calChans s c).foldl (fun s e => setFld (Reg.caCh e.lc + 20) 7 0 (confCode s n [(chanAt s e.lc).sigma]) s) s1

/-! ## Images (R268) -/

/-- SEAL of an image with a generation. -/
def sealOf (gen : Word) : Word := gen ^^^ 0xA5C33C5A#32

/-- Words 0 to 509 of an image of slot n, with word 2 given: the junction temperature is that of the take. -/
def imageWords (s : State) (n : Nat) (c : SlotCast) (gen : Word) : List Word :=
  let p := c.slot.port
  let cs := calChans s c
  let head := [0x504E5343#32, at_ 15 0 1 ||| at_ 23 16 n ||| at_ 31 24 cs.length, gen, reg s (Reg.epSerialLo p),
    reg s (Reg.epSerialHi p), portCrc s p, (slotAt s n).frame, 0]
  let mtx := (List.range 6).map fun i => reg s (Reg.caMtx n i)
  let blocks := cs.flatMap fun e =>
    [at_ 7 0 e.engCh ||| at_ 15 8 e.lc ||| at_ 16 16 1] ++ (List.range 4).map (fun i => reg s (Reg.caCh e.lc + 4 * i)) ++
      [BitVec.ofInt 32 (chTj s e.lc * 1024), reg s (Reg.caCh e.lc + 20)] ++ List.replicate 9 0
  let ws := head ++ mtx ++ [at_ 12 0 (jobNow s n).refLum, reg s (Reg.caAssay n)] ++ blocks
  ws ++ List.replicate (510 - ws.length) 0

/-- Bytes of words. -/
def wordBytes (ws : List Word) : List Byte := ws.flatMap fun w => leBytes 4 w.toNat

/-- An image whole: CRC and SEAL. -/
def sealImage (ws : List Word) (gen : Word) : List Word := ws ++ [crc32 (wordBytes ws), sealOf gen]

/-- Words of bytes. -/
def bytesWords (b : List Byte) : List Word := (List.range 512).map fun i => BitVec.ofNat 32 (leAt b (4 * i) 4)

/-- Word w of an image. -/
def imgW (img : List Word) (w : Nat) : Word := (img[w]?).getD 0

/-- Checks 1 and 2 of R270. -/
def imageWhole (img : List Word) : Bool :=
  imgW img 510 == crc32 (wordBytes (img.take 510)) && imgW img 511 == sealOf (imgW img 2)

/-- The block of an image for an engine channel, if it holds a valid one; the LC that the channel had there does not matter. -/
def imgBlock (img : List Word) (e : ChanEnt) : Option Nat :=
  ((List.range (min 30 (fld (imgW img 1) 31 24))).map (16 + 16 * ·)).find? fun o =>
    fld (imgW img o) 7 0 == e.engCh && bit (imgW img o) 16

/-- The status of a restore on slot n (R270). -/
def imageStatus (s : State) (n : Nat) (img : List Word) : Status :=
  if ¬ imageWhole img then .SNAP_TORN
  else match cfgOf s n with
    | none => .SNAP_STALE
    | some c =>
      let cs := calChans s c
      let blocks := (List.range cs.length).zip cs
      if imgW img 0 = 0x504E5343 ∧ fld (imgW img 1) 15 0 = 1 ∧ fld (imgW img 1) 23 16 = n ∧ fld (imgW img 1) 31 24 = cs.length ∧
          (blocks.all fun x => fld (imgW img (16 + 16 * x.1)) 7 0 == x.2.engCh && fld (imgW img (16 + 16 * x.1)) 15 8 == x.2.lc) ∧
          imgW img 3 = reg s (Reg.epSerialLo c.slot.port) ∧ imgW img 4 = reg s (Reg.epSerialHi c.slot.port) ∧
          imgW img 5 = portCrc s c.slot.port ∧ bound s n then .OK
      else .SNAP_STALE

/-- The model a block describes (log entry 24): a, b, c whose EFF, THRESH and SLOPE are those of the block. -/
def blockModel (s : State) (p : Nat) (e : ChanEnt) (img : List Word) (o : Nat) : Option (Rat × Rat × Rat) :=
  let imax : Rat := (chImax s p e.engCh : Rat)
  let eff := mkRat (imgW img (o + 1)).toNat 65536
  let t := mkRat (imgW img (o + 2)).toNat 65536
  let sl := mkRat (imgW img (o + 3)).toInt 65536
  let l := eff * respAt s p e.engCh (imgW img (o + 4)).toNat * (chLfac s p e.engCh : Rat)
  if imax ≤ t ∨ 1 + sl / 2 = 0 then none
  else
    let d := l / ((imax - t) * (1 + sl / 2))
    let c := sl * d / (2 * (1 - t / imax))
    let a := d - 2 * c * t / imax
    some (a, -(a * t + c * t * t / imax), c)

/-- The factory model of a channel (R273). -/
def factoryModel (p : Nat) (e : ChanEnt) (s : State) : State :=
  let m := Config.factoryFit (chCurveAll s p e.engCh) (chImax s p e.engCh)
  let s1 := modChan e.lc (fun h => { h with fac := true, a := m.1, b := m.2.1, c := m.2.2, sigma := 0 }) s
  showModel p e (effCalc s1 p e m.1 m.2.1 m.2.2) s1

/-- The model of a channel from an image, or from the factory where the image holds none. -/
def imageModel (p : Nat) (img : Option (List Word)) (e : ChanEnt) (s : State) : State :=
  match img.bind fun i => (imgBlock i e).map fun o => (i, o) with
  | none => factoryModel p e s
  | some (i, o) =>
    match blockModel s p e i o with
    | none => factoryModel p e s
    | some m =>
      let s1 := modChan e.lc (fun h => { h with
        fac := false, a := f32OfRat m.1, b := f32OfRat m.2.1, c := f32OfRat m.2.2, sigma := fld (imgW i (o + 6)) 31 16 }) s
      setRegs ((List.range 5).map fun w => (Reg.caCh e.lc + 4 * w, imgW i (o + 1 + w)))
        (setFld (Reg.caCh e.lc + 20) 31 16 (fld (imgW i (o + 6)) 31 16) s1)

/-- The matrix of an image, or the one of a slot that nothing has calibrated: full scale on the diagonal (log entry 25). -/
def imageMtx (c : SlotCast) : Option (List Word) → List Int
  | some i => (List.range 9).map fun k => signed 16 (fld (imgW i (8 + k / 2)) (16 * (k % 2) + 15) (16 * (k % 2)))
  | none => if mono c then 4096 :: List.replicate 8 0 else [4096, 0, 0, 0, 4096, 0, 0, 0, 4096]

/-- Models, maps and matrix of slot n from an image or the factory; at once, or as targets (R270, R273). -/
def applyImage (n : Nat) (c : SlotCast) (img : Option (List Word)) (atOnce : Bool) (s : State) : State :=
  let s1 := (calChans s c).foldl (fun s e => imageModel c.slot.port img e s) s
  let how := if atOnce then mapJump else mapEase
  let s2 := forChans c (fun i e s => if (chanAt s e.lc).on then formMaps n c i e how s else s) s1
  let m := imageMtx c img
  let e := (jobNow s n).ease
  let s3 := forChans c (fun _ x => modChan x.lc fun h => { h with n := e })
    (modCal n (fun k => { k with mtxTarget := m, mtx := if atOnce then m else k.mtx, n := e }) s2)
  let s4 := if (calOf s n).job.isSome then formMtx n c s3 else s3
  showMtx n (startEsts n (if atOnce then installMaps n s4 else s4))

/-- A restore takes effect (R267, R270). -/
def applyRestore (n : Nat) (c : SlotCast) (s : State) : State :=
  let k := calOf s n
  if k.restore.isNone ∧ ¬ k.refused then s
  else
    let atOnce := !projects (reckOf s n) || rbit s (Reg.slStatus n) 3
    applyImage n c k.restore atOnce (modCal n (fun k => { k with restore := none, refused := false }) s)

/-! ## Snapshots (R269, R270) -/

/-- SNAP_STAT with a result. -/
def snapResult (st : Status) (s : State) : State := setFld Reg.caSnapStat 31 16 st.code s

/-- A write of CA_SNAP_CTRL: SLOT is kept, TAKE and RESTORE act. -/
def snapCtrl (v : Word) (s : State) : State :=
  let n := fld v 10 8
  let s1 := setFld Reg.caSnapCtrl 10 8 n s
  let s2 := if ¬ bit v 0 ∨ ¬ declared s n then s1
    else if rbit s1 Reg.caSnapStat 0 then snapResult .SNAP_BUSY s1
    else
      modCal n (fun k => { k with take := true })
        (setReg (Reg.snapBuf 511) 0 (setReg (Reg.caSnapGen n) (reg s (Reg.caSnapGen n) + 1) (setFld Reg.caSnapStat 1 0 1 s1)))
  if ¬ bit v 1 then s2
  else if rbit s2 Reg.caSnapStat 0 then snapResult .SNAP_BUSY s2
  else
    let img := (List.range 512).map fun w => reg s2 (Reg.snapBuf w)
    let st := imageStatus s2 n img
    let s3 := modCal n (fun k => { k with restore := if st = .OK then some img else none, refused := decide (st ≠ .OK) }) (snapResult st s2)
    let s4 := match cfgOf s n with
      | some c =>
        if bound s3 n ∧ (¬ projects (reckOf s3 n) ∨ rbit s3 (Reg.slStatus n) 3) then applyRestore n c s3 else s3
      | none => s3
    raiseVec vecCal s4

/-- A take at the slot's boundary. -/
def takeSnap (n : Nat) (c : SlotCast) (s : State) : State :=
  if ¬ (calOf s n).take then s
  else
    let gen := reg s (Reg.caSnapGen n)
    let img := sealImage (imageWords s n c gen) gen
    let s1 := setRegs ((List.range 512).map fun w => (Reg.snapBuf w, imgW img w)) (modCal n (fun k => { k with take := false }) s)
    raiseVec vecCal (snapResult .OK (setFld Reg.caSnapStat 1 0 2 s1))

/-- A host write of word w of the snapshot buffer: dropped while BUSY. -/
def snapWrite (w : Nat) (v : Word) (s : State) : State := if rbit s Reg.caSnapStat 0 then s else setReg (Reg.snapBuf w) v s

/-! ## Field-calibration pages (R271, R272) -/

/-- A page image is valid for the engine on port p. -/
def pageOk (s : State) (p : Nat) (b : List Byte) : Bool :=
  b.length == 2048 && imageWhole (bytesWords b) && imgW (bytesWords b) 3 == reg s (Reg.epSerialLo p) &&
    imgW (bytesWords b) 4 == reg s (Reg.epSerialHi p) && imgW (bytesWords b) 5 == portCrc s p

/-- SEQ x is newer than y. -/
def newerSeq (x y : Word) : Bool := decide (1 ≤ (x - y).toNat ∧ (x - y).toNat < 2 ^ 31)

/-- SEQ of a page. -/
def pageSeq (b : List Byte) : Word := imgW (bytesWords b) 2

/-- The newer valid page of port p. -/
def newPage (s : State) (p : Nat) : Option (List Byte) :=
  let q := portAt s p
  match pageOk s p q.pageA, pageOk s p q.pageB with
  | true, true => if newerSeq (pageSeq q.pageB) (pageSeq q.pageA) then some q.pageB else some q.pageA
  | true, false => some q.pageA
  | false, true => some q.pageB
  | false, false => none

/-- The page a store writes: the older, the invalid, or A. -/
def pageToWrite (s : State) (p : Nat) : Nat :=
  let q := portAt s p
  match pageOk s p q.pageA, pageOk s p q.pageB with
  | true, true => if newerSeq (pageSeq q.pageB) (pageSeq q.pageA) then 0 else 1
  | true, false => 1
  | _, _ => 0

/-- CA_PAGE_STAT and CA_PAGE_SEQ for the slot that CA_PAGE_CTRL addresses. -/
def showPages (s : State) : State :=
  let n := rfld s Reg.caPageCtrl 10 8
  let p := portOf s n
  let ok (b : List Byte) : Nat := if declared s n && pageOk s p b then 1 else 0
  setReg Reg.caPageSeq (if declared s n then ((newPage s p).map pageSeq).getD 0 else 0)
    (setFld Reg.caPageStat 2 1 (2 * ok (portAt s p).pageB + ok (portAt s p).pageA) s)

/-- The page that a store has begun to write is torn: the part's copy of it is not valid (R272). -/
def tearPage (s : State) : State :=
  match s.page with
  | some g =>
    if g.at_ = .waitBoundary then s
    else modPort (portOf s g.slot) (fun q => if g.page = 0 then { q with pageA := [] } else { q with pageB := [] }) s
  | none => s

/-- The store ends with a status (R272). -/
def endStore (st : Status) (s : State) : State :=
  raiseVec vecCal (showPages (setBit Reg.caPageStat 0 false (setFld Reg.caPageStat 31 16 st.code { s with page := none })))

/-- A write of CA_PAGE_CTRL: SLOT is kept, STORE acts. -/
def pageCtrl (v : Word) (s : State) : State :=
  let n := fld v 10 8
  let s1 := showPages (setFld Reg.caPageCtrl 10 8 n s)
  if ¬ bit v 0 then s1
  else if s.page.isSome then setFld Reg.caPageStat 31 16 Status.PAGE_BUSY.code s1
  else if ¬ bound s n ∨ linkState s (portOf s n) ≠ lsRun then endStore .PAGE_LINK s1
  else setBit Reg.caPageStat 0 true { s1 with page := some { slot := n, page := 0, image := [], at_ := .waitBoundary } }

/-- A free DESC tag of port p is taken for a request (R317): at most four are outstanding. -/
def descRequest (p addr len : Nat) (data : Option (List Byte)) (s : State) : State :=
  let q := portAt s p
  let t := q.nextTag % 256
  if 4 ≤ q.tags.length then s
  else
    let s1 := modPort p (fun q => { q with
      tags := q.tags ++ [{ tag := t, addr := addr, len := len, write := data.isSome }], nextTag := t + 1 }) s
    match data with
    | some d => sendPkt p (.descWrite t addr d) s1
    | none => sendPkt p (.descRead t addr len) s1

/-- The address of a page. -/
def pageAddr (pg : Nat) : Nat := 0x4000 + 0x800 * pg

/-- A store at the slot's boundary: the image is built and written (R272). -/
def startStore (n : Nat) (c : SlotCast) (s : State) : State :=
  match s.page with
  | none => s
  | some g =>
    if g.slot ≠ n ∨ g.at_ ≠ .waitBoundary then s
    else
      let p := c.slot.port
      let seq := match newPage s p with
        | some b => pageSeq b + 1
        | none => 1
      let pg := pageToWrite s p
      let img := wordBytes (sealImage (imageWords s n c seq) seq)
      descRequest p (pageAddr pg) 2048 (some img)
        (setBit Reg.caPageStat 3 (pg == 1) { s with page := some { slot := n, page := pg, image := img, at_ := .writing } })

/-- The engine has answered the page write: the page is read back, or the store fails. -/
def storeWritten (p : Nat) (ok : Bool) (s : State) : State :=
  match s.page with
  | none => s
  | some g =>
    if portOf s g.slot ≠ p ∨ g.at_ ≠ .writing then s
    else if ok then descRequest p (pageAddr g.page) 2048 none { s with page := some { g with at_ := .reading } }
    else { tearPage s with page := some { g with at_ := .checked false } }

/-- The page has been read back. -/
def storeRead (p addr : Nat) (ok : Bool) (data : List Byte) (s : State) : State :=
  match s.page with
  | none => s
  | some g =>
    if portOf s g.slot ≠ p ∨ g.at_ ≠ .reading ∨ addr ≠ pageAddr g.page then s
    else
      let s1 := modPort p (fun q => if g.page = 0 then { q with pageA := data } else { q with pageB := data }) s
      { s1 with page := some { g with at_ := .checked (ok && pageOk s p data) } }

/-- The link of port p has left Run, or its engine departs: a store on it ends (R272, R333). -/
def storeLinkLost (p : Nat) (s : State) : State :=
  match s.page with
  | some g => if portOf s g.slot = p then endStore .PAGE_LINK (tearPage s) else s
  | none => s

/-- Every output matrix of a slot while PD19 is Off (R40). -/
def identityMtx : List Int := [4096, 0, 0, 0, 4096, 0, 0, 0, 4096]

/-- The matrix of slot n is the identity, and no job of it has an effect (R40). -/
def calOff (n : Nat) (s : State) : State :=
  modCal n (fun k => { k with mtx := identityMtx, mtxTarget := identityMtx, job := none }) (setFld (Reg.slWerr n) 15 0 0 s)

/-! ## Binding (R273, R332) -/

/-- Calibration of slot n at binding on port p. The estimators of an engine that returns after Doze go on (R267). -/
def calBind (n p : Nat) (s : State) : State :=
  match cfgOf s n with
  | none => s
  | some c =>
    let back := (calOf s n).held == some (portSerial s p)
    let s1 := markCalibrated n c (takeCeilInputs n s)
    let s2 := modCal n (fun k => { k with
      held := some (portSerial s p), acc := RowAcc.init, prev := RowAcc.init, gaps := [], gapLost := false, cut := now s * 16
      starved := false, dozed := false }) s1
    let img := (newPage s2 p).map bytesWords
    let s3 := forChans c (fun _ e s =>
      if (chanAt s e.lc).on then s
      else
        let m := curveMap (chCurveAll s p e.engCh) 65535
        modChan e.lc (fun h => { h with run := mapJump h.run m }) s) s2
    let s4 :=
      if back then
        let s' := ceilingMaps n c s3
        if (calOf s n).dozed then s' else startEsts n s'
      else applyImage n c img true s3
    showPages (setMaps n (showMtx n (if pdOff s4 19 then calOff n s4 else s4)))

/-- The places of an estimator's parameters: the offset, then a, b, c of each channel. -/
def estPlaces (chans : List Nat) : List (Nat × Nat) := (0, 0) :: chans.flatMap fun ch => [(ch, 1), (ch, 2), (ch, 3)]

/-- An estimator as it starts, with the parameters that an old one of its photodiode holds kept (R267). -/
def mergeEst (fresh old : Estim) : Estim :=
  let op := estPlaces old.chans
  let np := estPlaces fresh.chans
  let idx (x : Nat × Nat) : Option Nat := (List.range op.length).find? fun i => op[i]? == some x
  let cell (e : Estim) (i j : Nat) : Word := (((e.cov[i]?).getD [])[j]?).getD 0
  { fresh with
    theta := ((List.range np.length).zip np).map fun x => match idx x.2 with
      | some i => (old.theta[i]?).getD 0
      | none => (fresh.theta[x.1]?).getD 0
    cov := ((List.range np.length).zip np).map fun x => ((List.range np.length).zip np).map fun y =>
      match idx x.2, idx y.2 with
      | some i, some j => cell old i j
      | _, _ => cell fresh x.1 y.1
    resvar := old.resvar }

/-- The estimators of slot n follow its calibrated channels: those that leave are taken out, those that join start (R267). -/
def regroupEsts (n : Nat) (s : State) : State :=
  let k := calOf s n
  let s1 := startEsts n s
  modCal n (fun q => { q with
    est := q.est.map fun e => match k.est.find? fun o => o.pd == e.pd with
      | some o => mergeEst e o
      | none => e
    gram := q.gram.map fun g => (g.1, ((k.gram.lookup g.1).getD g.2)), rows := k.rows, noRow := k.noRow }) s1

/-- A channel leaves calibration: its map freezes as in force until its next binding (R267). -/
def leaveCal (e : ChanEnt) (s : State) : State :=
  modChan e.lc (fun h => { h with on := false, run := mapJump h.run (mapPts s e.lc) }) s

/-- A channel joins calibration (R267): it starts from the factory curve, which its map stands for, and eases from its map in
force. -/
def joinCal (n : Nat) (c : SlotCast) (i : Nat) (e : ChanEnt) (s : State) : State :=
  let s1 := formMaps n c i e mapJump (factoryModel c.slot.port e (modChan e.lc (fun h => { h with on := true }) s))
  modChan e.lc (fun h => { h with run := { h.run with v := mapPts s e.lc }, n := (jobNow s n).ease }) s1

/-- A recast has changed which channels of slot n are calibrated (R230, R250, R267). -/
def calRecast (n : Nat) (s : State) : State :=
  match cfgOf s n with
  | none => s
  | some c =>
    let was (e : ChanEnt) : Bool := (chanAt s e.lc).on
    if c.chmp.all fun e => was e == calibrates s c e then s
    else
      let s1 := forChans c (fun i e s' =>
        if was e && !calibrates s c e then leaveCal e s'
        else if !was e && calibrates s c e then joinCal n c i e s' else s') s
      regroupEsts n (markCalibrated n c s1)

/-- Held calibration of slot n is discarded (R332). -/
def dropHeld (n : Nat) (s : State) : State := modCal n (fun k => { k with held := none }) s

/-! ## The frame boundary -/

/-- Calibration at a boundary of slot n (R252 to R264): jobs, rows, maps for the ceilings in force, one step of easing toward the
targets that stand, then new targets. ceil tells that a ceiling has changed at this boundary. -/
def calBoundary (n : Nat) (c : SlotCast) (ceil : Bool) (s : State) : State :=
  if ¬ bound s n ∨ pdOff s 19 then s
  else
    let s1 := takeRows n c (takeJobs n c s)
    let s2 := installMaps n (if ceil then ceilingMaps n c s1 else s1)
    let k := calOf s2 n
    let j := jobNow s2 n
    let paused := calPaused s2 n
    let s3 := if paused || (k.job.isSome && !j.apply) then s2 else easeAll n c s2
    let forced := k.restore.isSome || k.refused
    let s4 := applyRestore n c s3
    let due := k.job.isSome && decide (0 < k.frames ∧ k.frames % j.update = 0) && lightOn s4 n
    let s5 := if due && !paused && !forced then formation n c s4 else s4
    startStore n c (takeSnap n c (showWeight n (raiseFrame n (showAssay n c (showEase n c s5)))))

/-- Calibration as frame n begins: whether its live row can count (R254, R267). -/
def calOpen (n : Nat) (s : State) : State :=
  modCal n (fun k => { k with acc := { k.acc with blanked := !lightOn s n, dark := (slotAt s n).darkMode } }) s

/-! ## Commands -/

/-- TAKE. -/
def execTake (v : Word) (s : State) : Host.Outcome State Fault Refusal := .next (hostWrite Reg.caSnapCtrl v snapCtrl s)

/-- RESTORE. -/
def execRestore (v : Word) (s : State) : Host.Outcome State Fault Refusal := .next (hostWrite Reg.caSnapCtrl v snapCtrl s)

/-- STORE. -/
def execStore (v : Word) (s : State) : Host.Outcome State Fault Refusal := .next (hostWrite Reg.caPageCtrl v pageCtrl s)

/-- PAGE_STORE_DONE (R272): the store's outcome is reported. -/
def execPageStoreDone (linkLost : Bool) (s : State) : Host.Outcome State Fault Refusal :=
  .next (match s.page with
    | none => s
    | some g =>
      if linkLost then endStore .PAGE_LINK (tearPage s)
      else match g.at_ with
        | .checked ok => endStore (if ok then .OK else .PAGE_VERIFY) s
        | _ => s)

/-- A write of CAn_CTRL: HOLD is kept, RESET_EST restarts the estimators (R255). -/
def caCtrl (n : Nat) (v : Word) (s : State) : State :=
  let s1 := setBit (Reg.caCtrl n) 0 (bit v 0) s
  if bit v 1 then startEsts n s1 else s1

/-- RESET_EST. -/
def execResetEst (n : Slot) (v : Word) (s : State) : Host.Outcome State Fault Refusal :=
  .next (hostWrite (Reg.caCtrl n.val) v (caCtrl n.val) s)

end Sys2Proof.Machine
end

