-- ==== Sys2Proof/Machine/Codec.lean ====
section
/-! DEFINITION. The codec's host jobs (R390 to R394): submission, start, completion and the removal of records. -/

set_option Elab.async false

namespace Sys2Proof.Machine

/-- Word w of a job's descriptor. -/
def CodecJob.w (j : CodecJob) (w : Nat) : Word := (j.jd[w]?).getD 0

/-- Fields of a descriptor (R390). -/
def CodecJob.op (j : CodecJob) : Nat := fld (j.w 0) 31 28
def CodecJob.keepDst (j : CodecJob) : Bool := bit (j.w 0) 25
def CodecJob.keepSrc (j : CodecJob) : Bool := bit (j.w 0) 24
def CodecJob.tag (j : CodecJob) : Nat := fld (j.w 0) 15 0
def CodecJob.srcBlock (j : CodecJob) : Nat := fld (j.w 1) 11 0
def CodecJob.srcCount (j : CodecJob) : Nat := fld (j.w 1) 22 12
def CodecJob.dstBlock (j : CodecJob) : Nat := fld (j.w 2) 11 0
def CodecJob.dstCount (j : CodecJob) : Nat := fld (j.w 2) 22 12
def CodecJob.srcOff (j : CodecJob) : Nat := (j.w 3).toNat
def CodecJob.dstOff (j : CodecJob) : Nat := (j.w 4).toNat
def CodecJob.inLen (j : CodecJob) : Nat := fld (j.w 5) 28 16
def CodecJob.outLimit (j : CodecJob) : Nat := fld (j.w 5) 12 0
def CodecJob.isStream (j : CodecJob) : Bool := j.op == 1 || j.op == 2
def CodecJob.srcs (j : CodecJob) : List Nat := blocksOf j.srcBlock j.srcCount
def CodecJob.dsts (j : CodecJob) : List Nat := blocksOf j.dstBlock j.dstCount

/-- The job needs a compressor lane: ops 1, 3 and 4 (R376). -/
def CodecJob.packs (j : CodecJob) : Bool := j.op == 1 || j.op == 3 || j.op == 4

/-- A descriptor keeps the table of R390 (log entry 13). -/
def CodecJob.ok (j : CodecJob) : Bool :=
  let bytes (n : Nat) : Nat := n * 65536
  decide (1 ≤ j.op ∧ j.op ≤ 5 ∧ fld (j.w 0) 27 26 = 0 ∧ fld (j.w 0) 23 16 = 0 ∧ fld (j.w 1) 31 23 = 0 ∧
    fld (j.w 2) 31 23 = 0 ∧ fld (j.w 5) 31 29 = 0 ∧ fld (j.w 5) 15 13 = 0 ∧ j.w 6 = 0 ∧ j.w 7 = 0) &&
  decide (1 ≤ j.srcCount ∧ 1 ≤ j.dstCount ∧ j.srcBlock + j.srcCount ≤ 4096 ∧ j.dstBlock + j.dstCount ≤ 4096) &&
  decide (j.srcBlock + j.srcCount ≤ j.dstBlock ∨ j.dstBlock + j.dstCount ≤ j.srcBlock) &&
  (if j.isStream then
    decide (j.dstOff = 0 ∧ 1 ≤ j.srcOff ∧ j.srcOff ≤ bytes (if j.op = 1 then j.srcCount else j.dstCount))
  else
    decide (1 ≤ j.inLen ∧ j.inLen ≤ 4096 ∧ 512 ≤ j.outLimit ∧ j.outLimit ≤ 4096 ∧ (j.op = 5 → j.outLimit = 4096) ∧
      j.srcOff + j.inLen ≤ bytes j.srcCount ∧ j.dstOff + j.outLimit ≤ bytes j.dstCount)) &&
  (if j.op = 4 then decide (fld (j.w 11) 31 12 = 0 ∧ fld (j.w 11) 11 8 ≤ 7)
   else (List.range 4).all (fun i => j.w (8 + i) == 0))

/-- The limit of the lanes of a kind that host jobs may hold: HOST_C or HOST_D (R376). -/
def laneLimit (s : State) (packs : Bool) : Nat := if packs then rfld s Reg.cdCfg 13 8 else rfld s Reg.cdCfg 5 0

/-- Lanes of a kind that the running jobs hold, in queue order: one for a block op, and for the units of a stream what the
limit leaves (R376, R391). -/
def lanesHeld (s : State) (packs : Bool) : Nat :=
  (s.codec.jobs.filter fun j => j.packs == packs && j.st == .running).foldl
    (fun a j => a + (if j.isStream then min (streamUnits j.srcOff) (laneLimit s packs - a) else 1)) 0

/-- The first job that has not started. -/
def headWaiting (s : State) : Option CodecJob := s.codec.jobs.find? (fun j => j.st == .waiting)

/-- CD_STATUS and CD_DONE0 to CD_DONE7 as the queue and the records give them (R394). -/
def codecRefresh (s : State) : State :=
  let held := match headWaiting s with
    | some j => decide (laneLimit s j.packs = 0)
    | none => false
  let sum (p : Bool) : Nat := min 32 (lanesHeld s p)
  let status := at_ 31 31 (if held then 1 else 0) ||| at_ 28 24 s.codec.done.length ||| at_ 20 16 s.codec.jobs.length |||
    at_ 13 8 (sum true) ||| at_ 5 0 (sum false)
  let rec0 := (s.codec.done.head?).getD []
  forAll (List.range 8) (fun i s => setReg (Reg.cdDone i) ((rec0[i]?).getD 0) s) (setReg Reg.cdStatus status s)

/-- A completion record (R392). -/
def doneRec (j : CodecJob) (c : Status) (bytes units failUnit raw packed : Nat) (r : Option Resume) : List Word :=
  [at_ 31 16 c.code ||| at_ 15 0 j.tag, BitVec.ofNat 32 bytes, at_ 31 16 units ||| at_ 15 0 failUnit,
   at_ 31 16 raw ||| at_ 15 0 packed] ++
  (match r with
    | some x => if c = .PARTIAL then x.words else [0, 0, 0, 0]
    | none => [0, 0, 0, 0])

/-- Hands the blocks of a job to HOST but for those a KEEP bit keeps: destination blocks, then source blocks (R391). -/
def jobHandBack (j : CodecJob) (s : State) : State :=
  let s1 := if j.keepDst then s else handBackDev j.dsts s
  if j.keepSrc then s1 else handBackDev j.srcs s1

/-- Ends the job at the head of the queue with a record, and raises vector 20 (R391, R392). -/
def endHead (r : List Word) (s : State) : State :=
  raiseVec 20 (codecRefresh { s with codec := { jobs := s.codec.jobs.tail, done := s.codec.done ++ [r] } })

/-- Appends the records of ended jobs that stand at the head of the queue, as long as fewer than 16 wait (R392). -/
def flushEnded : Nat → State → State
  | 0, s => s
  | n + 1, s =>
    match s.codec.jobs with
    | [] => s
    | j :: _ =>
      match j.st with
      | .ended c =>
        if s.codec.done.length < 16 then flushEnded n (endHead (doneRec j c 0 0 0xFFFF 0 0 none) s) else s
      | _ => s

/-- A write of CD_SUBMIT (R390): bit 0 submits CD_JD0 to CD_JD11. -/
def codecSubmit (v : Word) (s : State) : State :=
  if ¬ bit v 0 then s
  else
    let j : CodecJob := { jd := (List.range 12).map (fun i => reg s (Reg.cdJd i)), st := .waiting }
    if 16 ≤ s.codec.jobs.length then setBit Reg.cdErr 0 true (setFld Reg.cdErr 31 16 Status.CODEC_BUSY.code s)
    else if ¬ j.ok then setBit Reg.cdErr 1 true (setFld Reg.cdErr 31 16 Status.CODEC_JOB.code s)
    else codecRefresh { s with codec := { s.codec with jobs := s.codec.jobs ++ [j] } }

/-- Marks the first waiting job. -/
def markHead (c : JobState) : List CodecJob → List CodecJob
  | [] => []
  | j :: js => if j.st = .waiting then { j with st := c } :: js else j :: markHead c js

/-- The next job starts if host jobs hold fewer lanes of its kind than the limit, no power limit applies, and fewer than 16
records wait (R376, R391, R392, R429). A job that names a block DEVICE does not own ends with CODEC_TALLY. -/
def codecStart (s : State) : State :=
  match headWaiting s with
  | none => s
  | some j =>
    if s.heat.limited ∨ laneLimit s j.packs ≤ lanesHeld s j.packs ∨ 16 ≤ s.codec.done.length then s
    else if (j.srcs ++ j.dsts).all (isDevice s) then
      codecRefresh { s with codec := { s.codec with jobs := markHead .running s.codec.jobs } }
    else
      let s1 := jobHandBack j s
      flushEnded 16 (codecRefresh { s1 with codec := { s1.codec with jobs := markHead (.ended .CODEC_TALLY) s1.codec.jobs } })

/-- Counts n compressions INCOMPRESSIBLE and m OK (R394). -/
def countPack (n m : Nat) (s : State) : State := addSat Reg.cdCntA 15 0 m (addSat Reg.cdCntA 31 16 n s)

/-- Counts n failed decompressions (R394). -/
def countFail (n : Nat) (s : State) : State := addSat Reg.cdCntB 31 16 n s

/-- Byte address of window block b. -/
def blockAddr (b : Nat) : Nat := b * 65536

/-- Runs COMPRESS_STREAM: the written state and its record (R388, R391). -/
def runCompressStream (j : CodecJob) (s : State) : State × List Word :=
  let o := packStream (dramRead s (blockAddr j.srcBlock) j.srcOff) (j.dstCount * 65536)
  let bytes := (o.dir ++ o.data).take (j.dstCount * 65536)
  (countPack o.raw o.packed (dramWrite (blockAddr j.dstBlock) bytes s),
    doneRec j (if o.full then .CODEC_SPACE else .OK) bytes.length (o.raw + o.packed) 0xFFFF o.raw o.packed none)

/-- The first failed unit of a list of unit outcomes, with its number. -/
def firstFail : List (Nat × (Status ⊕ List Byte)) → Option (Nat × Status)
  | [] => none
  | (u, .inl e) :: _ => some (u, e)
  | (_, .inr _) :: r => firstFail r

/-- The bytes of a unit outcome: zeros where it failed. -/
def unitBytes (n : Nat) : Status ⊕ List Byte → List Byte
  | .inl _ => List.replicate n 0
  | .inr d => d

/-- Runs DECOMPRESS_STREAM: every unit is decoded, failed units are zeros (R391). -/
def runDecompressStream (j : CodecJob) (s : State) : State × List Word :=
  let n := streamUnits j.srcOff
  let rd (o l : Nat) : List Byte := dramRead s (blockAddr j.srcBlock + o) l
  let us := (List.range n).map fun u => (u, readUnit rd (j.srcCount * 65536) j.srcOff u)
  let rawOf (u : Nat) : Bool := decide (leAt (rd (8 * u) 8) 6 2 = 1)
  let bad := us.filter (fun u => match u.2 with
    | .inl _ => true
    | .inr _ => false)
  let f := firstFail us
  let raws := ((List.range n).filter rawOf).length
  (countFail bad.length (dramWrite (blockAddr j.dstBlock) (us.flatMap fun u => unitBytes (unitLen j.srcOff u.1) u.2) s),
    doneRec j ((f.map (·.2)).getD .OK) j.srcOff (n - bad.length) ((f.map (·.1)).getD 0xFFFF) raws (n - raws) none)

/-- Runs COMPRESS_BLOCK or RESUME (R386, R387). -/
def runCompressBlock (j : CodecJob) (s : State) : State × List Word :=
  let data := dramRead s (blockAddr j.srcBlock + j.srcOff) j.inLen
  let o := if j.op = 4 then resumeBlock data j.outLimit (Resume.ofWords (j.w 8) (j.w 9) (j.w 10) (j.w 11))
    else compressBlock data j.outLimit
  let ok := if o.status = .OK then 1 else 0
  (countPack (if o.status = .INCOMPRESSIBLE then 1 else 0) ok (dramWrite (blockAddr j.dstBlock + j.dstOff) o.bytes s),
    doneRec j o.status o.bytes.length ok 0xFFFF 0 ok o.resume)

/-- Runs DECOMPRESS_BLOCK (R383): on a failure zeros of the length the header gives, at most 4,096. -/
def runDecompressBlock (j : CodecJob) (s : State) : State × List Word :=
  let data := dramRead s (blockAddr j.srcBlock + j.srcOff) j.inLen
  match decodeBlock data with
  | .inr d => (dramWrite (blockAddr j.dstBlock + j.dstOff) d s, doneRec j .OK d.length 1 0xFFFF 0 1 none)
  | .inl e =>
    let n := min (leAt data 0 2 + 1) 4096
    (countFail 1 (dramWrite (blockAddr j.dstBlock + j.dstOff) (List.replicate n 0) s), doneRec j e n 0 0 0 1 none)

/-- Runs a job: the state with its writes, and its record. -/
def runJob (j : CodecJob) (s : State) : State × List Word :=
  if j.op = 1 then runCompressStream j s else if j.op = 2 then runDecompressStream j s
  else if j.op = 5 then runDecompressBlock j s else runCompressBlock j s

/-- The oldest running job has written its last byte: hand-backs, record, vector 20 (R391). DESIGN CHOICE (log entry 86): where
16 records wait, for which R392 leaves no room, the job completes after one has been removed. -/
def codecComplete (s : State) : State :=
  match s.codec.jobs with
  | [] => s
  | j :: _ =>
    if j.st = .running ∧ s.codec.done.length < 16 then
      let r := runJob j s
      flushEnded 16 (endHead r.2 (jobHandBack j r.1))
    else s

/-- A write of CD_DONE_POP (R392): bit 0 removes the oldest record. -/
def codecPop (v : Word) (s : State) : State :=
  if bit v 0 then flushEnded 16 (codecRefresh { s with codec := { s.codec with done := s.codec.done.tail } }) else s

/-- Host seizure (R393): jobs not started end with CODEC_SEIZED and their blocks are handed back. -/
def codecSeizeHost (s : State) : State :=
  let waiting := s.codec.jobs.filter (fun j => j.st == .waiting)
  let s1 := waiting.foldl (fun s j => handBackDev (j.dsts ++ j.srcs) s) s
  flushEnded 16 (codecRefresh { s1 with codec := { s1.codec with
    jobs := s1.codec.jobs.map fun j => if j.st = .waiting then { j with st := .ended .CODEC_SEIZED } else j } })

/-- Queue and records lost (R393). -/
def codecReset (s : State) : State := codecRefresh { s with codec := CodecState.init }

/-- A write of CD_CFG: HOST_C and HOST_D, each clamped to 32 (R394). -/
def writeCdCfg (v : Word) (s : State) : State :=
  codecRefresh (setReg Reg.cdCfg (at_ 13 8 (min (fld v 13 8) 32) ||| at_ 5 0 (min (fld v 5 0) 32)) s)

/-! ## Commands -/

/-- COMPRESS_STREAM: a submit whose descriptor holds op 1 (R390). -/
def execCompressStream (v : Word) (s : State) : Host.Outcome State Fault Refusal := .next (hostWrite Reg.cdSubmit v codecSubmit s)

/-- DECOMPRESS_STREAM: a submit whose descriptor holds op 2 (R390). -/
def execDecompressStream (v : Word) (s : State) : Host.Outcome State Fault Refusal := .next (hostWrite Reg.cdSubmit v codecSubmit s)

/-- COMPRESS_BLOCK: a submit whose descriptor holds op 3 (R390). -/
def execCompressBlock (v : Word) (s : State) : Host.Outcome State Fault Refusal := .next (hostWrite Reg.cdSubmit v codecSubmit s)

/-- RESUME: a submit whose descriptor holds op 4 (R390). -/
def execResume (v : Word) (s : State) : Host.Outcome State Fault Refusal := .next (hostWrite Reg.cdSubmit v codecSubmit s)

/-- DECOMPRESS_BLOCK: a submit whose descriptor holds op 5 (R390). -/
def execDecompressBlock (v : Word) (s : State) : Host.Outcome State Fault Refusal := .next (hostWrite Reg.cdSubmit v codecSubmit s)

/-- JOB_START (R391). -/
def execJobStart (s : State) : Host.Outcome State Fault Refusal := .next (whileUp codecStart s)

/-- JOB_COMPLETE (R391, R392). -/
def execJobComplete (s : State) : Host.Outcome State Fault Refusal := .next (whileUp codecComplete s)

/-- DONE_POP (R392). -/
def execDonePop (v : Word) (s : State) : Host.Outcome State Fault Refusal := .next (hostWrite Reg.cdDonePop v codecPop s)

end Sys2Proof.Machine
end

