-- ==== Sys2Proof/Machine/Commit.lean ====
section
/-! DEFINITION. Commits (R123, R145 to R156), scenes and swaps that apply with them (R129, R148), source hand-back (R153),
mode changes (R163), and the entry of a reckoner into IDLE and ACQUIRE (R72). -/

set_option Elab.async false

namespace Sys2Proof.Machine

/-! ## Validation (R123, R155) -/

/-- CAUSE codes of SOn_STATUS. -/
def causeOrder : Nat := 1
def causeFormat : Nat := 2
def causeSource : Nat := 3
def causeGeometry : Nat := 4
def causeLinebuf : Nat := 5
def causeMode : Nat := 6
def causeWb : Nat := 7

/-- The 25 layer codes of PXn_ORDER, pending. -/
def pendOrder (s : State) (n : Nat) : List Nat :=
  (List.range 25).map fun i => rfld s (pxOrder s n (i / 4)) (8 * (i % 4) + 7) (8 * (i % 4))

/-- The enabled layers in the pending copies, by layer code. -/
def pendEnabled (s : State) (c : SlotCast) : List (Nat × LayerCfg) :=
  ((layerCodes c).map fun k => (k, pendLayer s c k)).filter fun x => x.2.en

/-- Check 1: PXn_ORDER. -/
def orderFails (s : State) (n : Nat) (c : SlotCast) (ls : List (Nat × LayerCfg)) : Bool :=
  let o := pendOrder s n
  let named := o.filter (· != 0xFF)
  c.pipe.blend == 1 &&
    !(ls.all (fun l => o.contains l.1) && decide named.Nodup && named.all (fun k => (layerCodes c).contains k) &&
      (o[24]?).getD 0 == 0xFF)

/-- Check 3: the source of one layer. -/
def sourceOk (s : State) (l : LayerCfg) : Bool :=
  if l.kind = 0 ∨ l.kind = 1 then
    decide (1 ≤ l.count ∧ l.block + l.count ≤ 4096 ∧
      (l.stride : Int) * ((l.srcH : Int) - 1) + (l.srcW * bppOf l.fmt : Nat) ≤ (l.count * 65536 : Nat)) &&
      (l.kind == 0 || !pdOff s 11)
  else l.kind == 2 && camRunning s l.cam

/-- Check 4: the geometry of one layer. -/
def geometryOk (l : LayerCfg) : Bool :=
  decide (l.srcW ≠ 0 ∧ l.srcH ≠ 0 ∧ l.cropW ≠ 0 ∧ l.cropH ≠ 0 ∧ l.cropX + l.cropW ≤ l.srcW ∧ l.cropY + l.cropH ≤ l.srcH ∧
    l.stride % 16 = 0 ∧ l.srcW * bppOf l.fmt ≤ l.stride) &&
  (!l.video || decide (1 ≤ l.dstW ∧ l.dstW ≤ 8192 ∧ 1 ≤ l.dstH ∧ l.dstH ≤ 8192 ∧
    4096 ≤ stepOf l.cropW l.dstW ∧ stepOf l.cropW l.dstW ≤ 262144 ∧
    4096 ≤ stepOf l.cropH l.dstH ∧ stepOf l.cropH l.dstH ≤ 262144))

/-- Check 5: the line buffer of a video layer (R104). -/
def linebufOk (c : SlotCast) (k : Nat) (l : LayerCfg) : Bool :=
  !l.video || decide (2 * ceilDiv l.cropW 64 * 64 ≤ (c.pipe.linebuf[k]?).getD 0)

/-- FORMAT codes that write-back may use, with bytes per pixel (R159). -/
def wbFormats (c : SlotCast) : List Nat := if mono c then [4] else [6, 8]

/-- STRIDE of a write-back frame (R159). -/
def wbStride (c : SlotCast) (fmt : Nat) : Nat := ceilDiv (c.slot.activeW * bppOf fmt) 16 * 16

/-- Two ranges of blocks overlap. -/
def overlap (a na b nb : Nat) : Bool := decide (a < b + nb ∧ b < a + na)

/-- Check 7: the pending write-back settings. -/
def wbOk (s : State) (n : Nat) (c : SlotCast) (ls : List (Nat × LayerCfg)) : Bool :=
  let w := reg s (Reg.soWb n)
  let fmt := fld w 27 24
  let count := fld w 22 12
  let block := fld w 11 0
  !bit w 31 ||
    (c.pipe.wb == 1 && (wbFormats c).contains fmt && decide (block + count ≤ 4096) &&
      decide (wbStride c fmt * c.slot.activeH ≤ count * 65536) &&
      ls.all fun l => decide (1 < l.2.kind) || !overlap block count l.2.block l.2.count)

/-- The cause that rejects a commit, 0 for none (R123, R155). -/
def commitCause (s : State) (n : Nat) (c : SlotCast) (mode : Option Nat) : Nat :=
  let ls := pendEnabled s c
  if orderFails s n c ls then causeOrder
  else if ls.any (fun l => (l.2.kind == 0 || l.2.kind == 1) && !decide (1 ≤ l.2.fmt ∧ l.2.fmt ≤ 8)) then causeFormat
  else if ls.any (fun l => !sourceOk s l.2) then causeSource
  else if ls.any (fun l => !geometryOk l.2) then causeGeometry
  else if ls.any (fun l => !linebufOk c l.1 l.2) then causeLinebuf
  else if (match mode with
      | some m => decide (c.slot.nmodes ≤ m)
      | none => false) then causeMode
  else if ¬ wbOk s n c ls then causeWb
  else 0

/-- A commit is rejected (R156). -/
def rejectCommit (n cause : Nat) (s : State) : State :=
  raiseVec (4 + n) (logEvent .COMMIT_REJECTED clsHost 0 (cause * 65536 + n)
    (incSat (Reg.soCntA n) 15 0 (setBit (Reg.soFlags n) 1 true (setFld (Reg.soStatus n) 19 16 cause s))))

/-- A commit pending while slot n changes generation is checked against what the slot runs now (R54). -/
def recheckCommit (n : Nat) (s : State) : State :=
  match cfgOf s n, (slotAt s n).commit with
  | some c, some k =>
    let cause := commitCause s n c k.mode
    if cause = 0 then s
    else rejectCommit n cause (setFld (Reg.soStatus n) 1 0 0 (modSlot n (fun q => { q with commit := none }) s))
  | _, _ => s

/-! ## Sources (R151 to R153) -/

/-- Window blocks a layer names. -/
def layerBlocks (l : LayerCfg) : List Nat := if l.en ∧ l.kind ≤ 1 then blocksOf l.block l.count else []

/-- Blocks the enabled layers of slot n name in the active copies. -/
def activeBlocks (s : State) (n : Nat) : List Nat :=
  match cfgOf s n with
  | none => []
  | some c => (layerCodes c).flatMap fun k => layerBlocks (layerCfg (decide (k < 0x10)) ((List.range 15).map (actW s (layerPitch c k))))

/-- A host job still running writes block b. -/
def jobWrites (s : State) (b : Nat) : Bool := s.codec.jobs.any fun j => decide (j.st = .running) && j.dsts.contains b

/-- A layer is ready (R151). -/
def layerReady (s : State) (l : LayerCfg) : Bool :=
  if l.kind = 2 then camRunning s l.cam && directOn s l.cam && (camAt s l.cam).newest.isSome
  else (blocksOf l.block l.count).all fun b => isDevice s b && (l.kind == 0 || !jobWrites s b)

/-- The raster of slot n ends, with what its active copies name used until now (R153). -/
def stopRaster (n : Nat) (s : State) : State :=
  let own := activeBlocks s n
  modSlot n (fun q => if q.raster then { q with
    raster := false
    srcs := q.srcs.map fun u => if own.contains u.block then { u with ended := some s.linkTime } else u } else q) s

/-- The slot whose raster, the last that used block b, ended last, and of several the lowest-numbered (R153); slot n where no
raster has used it. -/
def lastUser (s : State) (n b : Nat) : Nat :=
  ((List.range 8).foldl (fun (best : Option (Nat × LinkTime)) m =>
    match ((slotAt s m).srcs.find? fun u => u.block == b).bind (·.ended) with
    | none => best
    | some t => match best with
      | some x => if since s t < since s x.2 then some (m, t) else best
      | none => some (m, t)) none |>.map (·.1)).getD n

/-- Source blocks that no active copy of any slot names any more, their rasters ended, go back to HOST (R153); n is the slot
that lets go. -/
def releaseSources (n : Nat) (s : State) : State :=
  let held := (List.range 8).flatMap (activeBlocks s)
  let gone := ((slotAt s n).srcs.map (·.block)).filter fun b => !held.contains b
  let vecs := (gone.map (lastUser s n)).eraseDups
  let s1 := forAll (List.range 8) (fun m => modSlot m fun q => { q with srcs := q.srcs.filter fun u => !gone.contains u.block }) s
  forAll vecs (fun m => raiseVec (4 + m)) (handBackDev gone s1)

/-! ## Application (R149 to R152) -/

/-- Deferred layers in SOn_DEFER and SOn_STATUS. -/
def showDefer (n : Nat) (s : State) : State :=
  let d := (slotAt s n).deferred
  let w := d.foldl (fun a k => a + 2 ^ (if k < 0x10 then k else k - 0x10 + 8)) 0
  setBit (Reg.soStatus n) 2 (!d.isEmpty) (setReg (Reg.soDefer n) (BitVec.ofNat 32 w) s)

/-- The layers as they would stand if the given pending copies applied, with what lies above each. -/
def candLayers (s : State) (n : Nat) (c : SlotCast) (pend : List Nat) : List (Nat × LayerCfg × List LayerCfg) :=
  let o := if c.pipe.blend = 1 then (slotAt s n).order else c.pipe.order
  withAbove (((o.filter (layerCodes c).contains).map fun k =>
    (k, if pend.contains k then pendLayer s c k else activeLayer s c k)).filter fun x => x.2.en)

/-- The pending copy of layer k becomes the active copy; a change is noted for CHG (R112). -/
def applyLayer (n : Nat) (c : SlotCast) (k : Nat) (s : State) : State :=
  let p := layerPitch c k
  let same := (List.range 15).all fun w => if w = 0 then pendW s p 0 &&& 0xF8000000 == actW s p 0 &&& 0xF8000000 else pendW s p w == actW s p w
  let s1 := copyPitch p s
  modSlot n (fun q => { q with
    chgPend := if same || q.chgPend.contains k then q.chgPend else q.chgPend ++ [k]
    srcs := q.srcs ++ ((layerBlocks (layerCfg (decide (k < 0x10)) ((List.range 15).map (actW s1 p)))).filter fun b =>
      !q.srcs.any fun u => u.block == b).map fun b => { block := b, ended := none } }) s1

/-- Layers of a list become active where they are ready or need not be; the others are deferred (R151, R152). -/
def applyLayers (n : Nat) (c : SlotCast) (ks : List Nat) (s : State) : State :=
  let cand := candLayers s n c ks
  let late := ks.filter fun k => cand.any fun x => x.1 == k && !fullyHidden c x.2.1 x.2.2 && !layerReady s x.2.1
  let s1 := forAll (ks.filter fun k => !late.contains k) (applyLayer n c) s
  let s2 := modSlot n (fun q => { q with deferred := (q.deferred.filter fun k => !ks.contains k) ++ late }) s1
  let s3 := if late.isEmpty then s2 else setBit (Reg.soFlags n) 3 true (addSat (Reg.soCntB n) 15 0 late.length s2)
  showDefer n s3

/-- At a boundary with layers deferred, the other enabled layers are checked too, and repeat where they are not ready (R151,
R152); done are the deferred ones, which have been checked. A layer whose active copy has applied has no pending copy to defer
(DEDUCED, log entry 59). -/
def checkActive (n : Nat) (c : SlotCast) (done : List Nat) (s : State) : State :=
  let cand := candLayers s n c []
  let late := cand.filter fun x => !done.contains x.1 && !fullyHidden c x.2.1 x.2.2 && !layerReady s x.2.1
  if done.isEmpty ∨ late.isEmpty then s else setBit (Reg.soFlags n) 3 true (addSat (Reg.soCntB n) 15 0 late.length s)

/-- A layer whose window source has been handed over since the last boundary counts as changed (R112). -/
def noteHandover (n : Nat) (c : SlotCast) (s : State) : State :=
  let lack := (layerCodes c).filter fun k =>
    let l := activeLayer s c k
    l.en && decide (l.kind ≤ 1) && !(blocksOf l.block l.count).all (isDevice s)
  modSlot n (fun q => { q with
    srcLack := lack
    chgPend := q.chgPend ++ q.srcLack.filter fun k => !lack.contains k && !q.chgPend.contains k && (activeLayer s c k).en }) s

/-- Host-owned masks of a slot: those whose pending or active copy is one (R94, R145), but for a pitch whose pending copy is now
a PLANE_SEQ, which no commit carries (R176). -/
def hostMasks (s : State) (c : SlotCast) : List Nat :=
  (generalPitches c).filter fun p =>
    let h (w : Word) : Bool := hdrType w == tyMask && !hdrOwner w
    (h (pendW s p 0) || h (actW s p 0)) && !(hdrType (pendW s p 0) == tyMask && hdrOwner (pendW s p 0)) &&
      hdrType (pendW s p 0) != tyPlaneSeq

/-- What a commit carries beside its layers becomes active, and nothing is pending any more (R145). -/
def applyOthers (n : Nat) (c : SlotCast) (s : State) : State :=
  let s1 := modSlot n (fun q => { q with
    bg := reg s (pxBg s n), order := if c.pipe.blend = 1 then pendOrder s n else c.pipe.order, wb := reg s (Reg.soWb n)
    commit := none }) s
  setFld (Reg.soStatus n) 1 0 0 (forAll (hostMasks s1 c) copyPitch s1)

/-- A commit replaces the active copies of slot n at a boundary, but for the layers that are not ready (R145, R149, R152). -/
def applyActive (n : Nat) (c : SlotCast) (s : State) : State := applyLayers n c (layerCodes c) (applyOthers n c s)

/-- A commit replaces every active copy of slot n at once: no boundary checks its layers, and none stays deferred (R148). -/
def applyWhole (n : Nat) (c : SlotCast) (s : State) : State :=
  showDefer n (modSlot n (fun q => { q with deferred := [] }) (forAll (layerCodes c) (applyLayer n c) (applyOthers n c s)))

/-! ## A reckoner enters IDLE or ACQUIRE (R72, R148) -/

/-- A committed scene becomes the active scene (R125, R129). -/
def applyScene (n : Nat) (s : State) : State :=
  match (slotAt s n).hall.due with
  | none => s
  | some d =>
    let s1 := modSlot n (fun q => { q with hall := { q.hall with
      active := d.1, due := none, gen := q.hall.gen + 1, sceneNew := true } }) s
    setFld (Reg.hlStatus n) 31 16 (slotAt s1 n).hall.gen.toNat s1

/-- A mode comes into force (R163, R179, R181, R197): RATE, COUNT and SEQ of the new entry. -/
def setMode (n m : Nat) (s : State) : State :=
  let s1 := setFld (Reg.soStatus n) 9 8 m (modSlot n (fun q => { q with mode := m }) s)
  computeTraj n (revalidate n (showLoad n s1))

/-- A free-running reckoner, and a SYNC one that has no interval yet, takes the ω of RATE and TRIM at the next reckon step
(R62, R65). -/
def retuneFree (n : Nat) (s : State) : State :=
  match cfgOf s n with
  | some c =>
    let r := reckOf s n
    if projects r ∧ (c.phse.source = 0 ∨ c.phse.source = 1 ∧ r.st = .locked ∧ r.ivals = []) then
      modReck n (fun r => { r with omegaNext := some (freeOmega (modeNow s n).rate (trimOf s n)) }) s
    else s
  | none => s

/-- What is pending for slot n applies at once, since it emits nothing (R148). -/
def applyAtOnce (n : Nat) (s : State) : State :=
  match cfgOf s n with
  | none => s
  | some c =>
    let s1 := applyScene n (applyAllSwaps n s)
    match (slotAt s1 n).commit with
    | none => s1
    | some k =>
      let s2 := applyWhole n c s1
      releaseSources n (match k.mode with
        | some m => retuneFree n (setMode n m s2)
        | none => s2)

/-- The slot goes dark where it was lit: one OFF to its engine. -/
def quietSlot (n : Nat) (s : State) : State :=
  match cfgOf s n with
  | none => s
  | some c =>
    if c.chmp.any (fun e => rbit s (Reg.lcLevel e.lc) 12) && decide (linkState s c.slot.port = lsRun) then
      issueOff c.slot.port (ts40 (soonest s c.slot.port)) s
    else markDark n s

/-- Every plane that the slicer holds back is written: no load will read the entries any more (R171). -/
def storeAllHeld (n : Nat) (s : State) : State :=
  match cfgOf s n with
  | none => s
  | some c => forAll ((slotAt s n).held.map (·.2.1)) (storeHeld n c) s

/-- The reckoner of slot n enters IDLE or ACQUIRE: no projection, no events, and pending requests apply (R72, R148). -/
def restReck (acq : Bool) (n : Nat) (s : State) : State :=
  let s1 := quietSlot n s
  let s2 := modSlot n (fun q => { q with
    reck := { Reckoner.idle with st := if acq then .acquire else .idle, tAcq := s.linkTime, phiHeld := q.reck.phiHeld }
    lanes := Lanes.empty, darkWin := [], darkSnap := false, camHold := [] }) (storeAllHeld n (stopRaster n s1))
  applyAtOnce n (restartLines n (flushLines n s2))

def enterIdle (n : Nat) (s : State) : State := restReck false n s
def enterAcquire (n : Nat) (s : State) : State := restReck true n s

/-! ## Mode changes (R163) -/

/-- A mode change at boundary B: the new entry is in force, the frame that begins is dark, and the supply target falls (R245). -/
def changeMode (n m : Nat) (s : State) : State :=
  match cfgOf s n with
  | none => s
  | some c =>
    let s1 := setBit (Reg.soStatus n) 3 true (modSlot n (fun q => { q with darkMode := true }) (setMode n m s))
    let s2 := if c.phse.source = 0 then retuneFree n s1
      else if c.phse.source = 1 then enterAcquire n s1
      else flushFrom n s1
    setTarget n 0 (emptyHeld n s2)

/-- The loops of slot n's axes report lock (R163, R198). -/
def axesLocked (s : State) (p : Nat) : Bool :=
  [0, 1].all fun a => match axisLoop s p a with
    | some l => rbit s (Reg.leStatus l) 4
    | none => true

/-- Emission resumes after the dark frames of a mode change, as the phase source allows (R163). -/
def resumeMode (n : Nat) (s : State) : State :=
  match cfgOf s n with
  | none => s
  | some c =>
    if (slotAt s n).darkMode ∧ (reckOf s n).st ≠ .hold ∧ (c.phse.source ≠ 2 ∨ axesLocked s c.slot.port) then
      setBit (Reg.soStatus n) 3 false (modSlot n (fun q => { q with darkMode := false }) s)
    else s

/-! ## Requests (R145 to R149, R155, R156) -/

/-- A GO on slot n, with a mode where MODE_REQ is set. -/
def requestCommit (n : Nat) (mode : Option Nat) (s : State) : State :=
  match cfgOf s n with
  | none => s
  | some c =>
    if (slotAt s n).commit.isSome then pendWr n s
    else
      let cause := commitCause s n c mode
      if cause ≠ 0 then rejectCommit n cause s
      else if atOnce s n then applyAtOnce n (modSlot n (fun q => { q with commit := some { wait := 0, mode := mode } }) s)
      else
        let w := waitFor s n
        let s1 := modSlot n (fun q => { q with commit := some { wait := w.1, mode := mode } }) s
        let s2 := setFld (Reg.soStatus n) 1 0 (if w.2 then 3 else 1) s1
        if w.2 then incSat (Reg.soCntA n) 31 16 (setBit (Reg.soFlags n) 0 true s2) else s2

/-- CANCEL (R147, R152): the pending commit is withdrawn, and every deferral ends. -/
def cancelCommit (n : Nat) (s : State) : State :=
  showDefer n (setFld (Reg.soStatus n) 1 0 0 (modSlot n (fun q => { q with commit := none, deferred := [] }) s))

/-- A write of SOn_CTRL: CANCEL acts before GO (log entry 33). -/
def soCtrl (n : Nat) (v : Word) (s : State) : State :=
  let s1 := if bit v 1 then cancelCommit n s else s
  if bit v 0 then requestCommit n (if bit v 2 then some (fld v 7 6) else none) s1 else s1

/-- COMMIT. -/
def execCommit (n : Slot) (v : Word) (s : State) : Host.Outcome State Fault Refusal :=
  .next (hostWrite (Reg.soCtrl n.val) v (soCtrl n.val) s)

/-- MODE_CHANGE_REQUEST. -/
def execModeChangeRequest (n : Slot) (v : Word) (s : State) : Host.Outcome State Fault Refusal :=
  .next (hostWrite (Reg.soCtrl n.val) v (soCtrl n.val) s)

/-- CANCEL. -/
def execCancel (n : Slot) (v : Word) (s : State) : Host.Outcome State Fault Refusal :=
  .next (hostWrite (Reg.soCtrl n.val) v (soCtrl n.val) s)

/-- Deferred layers at a boundary, and the pending commit where it is due (R149, R152). -/
def boundaryCommit (n : Nat) (c : SlotCast) (s : State) : State :=
  let due := match (slotAt s n).commit with
    | some k => decide (k.wait ≤ 1)
    | none => false
  if due then
    let mode := (slotAt s n).commit.bind (·.mode)
    let s1 := applyActive n c s
    match mode with
    | some m => changeMode n m s1
    | none => s1
  else
    let s1 := modSlot n (fun q => { q with commit := q.commit.map fun k => { k with wait := k.wait - 1 } }) s
    let ds := (slotAt s1 n).deferred
    if ds.isEmpty then s1 else applyLayers n c ds s1

/-! ## REALIGN (R62, R63) -/

/-- A write of TFn_CTRL: AVG and SNAP are kept; REALIGN acts. -/
def tfCtrl (n : Nat) (v : Word) (s : State) : State :=
  let s1 := setReg (Reg.tfCtrl n) (v &&& 0x32) s
  if ¬ bit v 0 then s1
  else match cfgOf s n with
    | none => s1
    | some c =>
      if c.phse.source = 0 then (if projects (reckOf s n) then enterAcquire n s1 else s1)
      else modReck n (fun r => { r with realign := true }) s1

/-- REALIGN. -/
def execRealign (n : Slot) (v : Word) (s : State) : Host.Outcome State Fault Refusal :=
  .next (hostWrite (Reg.tfCtrl n.val) v (tfCtrl n.val) s)

/-! ## Rasters (R153, R158 to R160) -/

/-- The raster of slot n ends: camera buffers are free again, and sources no copy names go back (R153, R342). -/
def rasterEnd (n : Nat) (s : State) : State :=
  if (slotAt s n).raster then releaseSources n (stopRaster n s) else s

/-- An n-bit write-back component (R159). -/
def wbComp (n v : Nat) : Nat := (v * (2 ^ n - 1) + 32767) / 65535

/-- Bytes of a write-back pixel. -/
def wbPxBytes (fmt : Nat) (v : List Nat) : List Byte :=
  match fmt, v with
  | 4, [y] => leBytes 2 y
  | 6, [r, g, b] => leBytes 4 (0xFF000000 + wbComp 8 r * 65536 + wbComp 8 g * 256 + wbComp 8 b)
  | 8, [r, g, b] => leBytes 4 (0xC0000000 + wbComp 10 r * 2 ^ 20 + wbComp 10 g * 2 ^ 10 + wbComp 10 b)
  | _, _ => []

/-- Writes the frame composed at this boundary to its window blocks, masked as R122 lays down; t16 is the boundary that
opens its emission. -/
def writeBack (n : Nat) (c : SlotCast) (t16 : Int) (s : State) : State :=
  let q := slotAt s n
  let fmt := fld q.wb 27 24
  let base := fld q.wb 11 0 * 65536
  let src := frameBase s n c q.frame.toNat
  let ms := masksAt s c t16
  let stride := wbStride c fmt
  forAll (List.range c.slot.activeH) (fun y s =>
    dramWrite (base + y * stride) ((List.range c.slot.activeW).flatMap fun x =>
      let s8 := if covered s c q.hall.active x y then 0 else shade8 ms ((x : Int) * 2 ^ 24) ((y : Int) * 2 ^ 24)
      wbPxBytes fmt ((storePx s c src (y * c.slot.activeW + x)).map fun v => shadeVal v s8)) s) s

/-- Write-back of the frame that begins (R160): written only if DEVICE owns every named block; its FRAME and its blocks go with
it. -/
def startWriteBack (n : Nat) (c : SlotCast) (s : State) : State :=
  let w := (slotAt s n).wb
  if ¬ bit w 31 then s
  else if (blocksOf (fld w 11 0) (fld w 22 12)).all (isDevice s) then
    let t16 : Int := if c.slot.cls = 2 ∧ c.slot.traj = 2 then
        reach16 s n (phWord (nextMultiple (reckOf s n).frameCyc (frameCycles s n)) 0) else (now s : Int) * 16
    modSlot n (fun q => { q with wbRun := q.wbRun ++ [{ frame := q.frame, block := fld w 11 0, count := fld w 22 12 }] })
      (writeBack n c t16 s)
  else incSat (Reg.soCntC n) 15 0 (setBit (Reg.soFlags n) 6 true s)

/-- The last byte of the oldest write-back under way has reached DRAM (R160). -/
def writebackComplete (n : Nat) (s : State) : State :=
  match (slotAt s n).wbRun with
  | [] => s
  | w :: ws =>
    let s1 := setReg (Reg.soWbFrame n) w.frame (modSlot n (fun q => { q with wbRun := ws }) s)
    raiseVec (4 + n) (handBackDev (blocksOf w.block w.count) s1)

/-- WRITEBACK_COMPLETE. -/
def execWritebackComplete (n : Slot) (s : State) : Host.Outcome State Fault Refusal :=
  .next (whileUp (writebackComplete n.val) s)

end Sys2Proof.Machine
end

