-- ==== Sys2Proof/Machine/Hallmark.lean ====
section
/-! DEFINITION. The Hallmark layer and the safety port (R125 to R144): signature records and the mismatch ladder, the
scrubber, and the commands of the safety microcontroller. -/

set_option Elab.async false

namespace Sys2Proof.Machine

/-- Changes the Hallmark state of slot n. -/
def modHall (n : Nat) (f : HallSlot → HallSlot) (s : State) : State := modSlot n (fun q => { q with hall := f q.hall }) s

/-- Slot n has a HALL record. -/
def hasHall (s : State) (n : Nat) : Bool := (cfgOf s n).any fun c => c.hall.isSome

/-- The HALL record of slot n has SPORT = 1. -/
def hasSport (s : State) (n : Nat) : Bool := (cfgOf s n).any fun c => c.hall.any (·.sport)

/-- HLn_STATUS as the slot stands (R144). -/
def showHall (n : Nat) (s : State) : State :=
  if ¬ hasHall s n then s
  else
    let h := (slotAt s n).hall
    setReg (Reg.hlStatus n)
      (at_ 31 16 h.gen.toNat ||| at_ 15 8 h.run ||| at_ 3 3 (if s.hall.store then 1 else 0) |||
        at_ 2 2 (if h.hold then 1 else 0) ||| at_ 1 0 (max h.contain h.mismatch)) s

/-! ## Records and mismatches (R134, R135) -/

/-- A mismatch hold of slot n: 1 Dim, 2 off with LEN_n deasserted (R135, R237). -/
def mismatchHold (n lvl : Nat) (s : State) : State :=
  let s1 := modHall n (fun h => { h with mismatch := max h.mismatch lvl, mismatchAfter := max h.mismatchAfter lvl }) s
  if lvl = 2 then refreshCeil n (lenDrop (portOf s n) 5 s1) else s1

/-- The mismatch ladder of R135 after a record; run is MISMATCH_RUN with it. -/
def mismatchStep (n run : Nat) (s : State) : State :=
  if run = 1 then logEvent .HALL_MISMATCH clsPart n 0 s
  else if run = 2 then withDim (mismatchHold n 1) s
  else if run = 10 then withDim (mismatchHold n 2) s
  else s

/-- FLAGS of a record (R142). -/
def sigFlags (t : FrameTap) (same store : Bool) : Nat :=
  let b (x : Bool) (k : Nat) : Nat := if x then 2 ^ k else 0
  b same 0 + b t.dim 1 + b t.off 2 + b t.hold 3 + b t.darkLines 4 + b store 5 + b t.sceneNew 6

/-- The record of the frame that ended at the last boundary enters the ring (R134); disturb is what a fault of the struck
path changes in its actual signature. -/
def signatureRecord (n : Nat) (disturb : Word) (s : State) : State :=
  match (slotAt s n).tapPrev with
  | none => s
  | some t =>
    let s1 := modSlot n (fun q => { q with tapPrev := none }) s
    if ¬ hasHall s n then s1
    else
      let act := t.actual ^^^ disturb
      let same := act == t.expected
      let run := if same then 0 else min 255 ((slotAt s n).hall.run + 1)
      let r0 : SigRec :=
        { flags := sigFlags t same s.hall.store, frame := t.frame.toNat, actual := act, expected := t.expected,
          signed := t.signed, shift := unsigned 16 t.shift, sceneGen := t.gen.toNat, run := run, boundary := t.boundary }
      let s2 := modHall n (fun h => { h with ring := (r0 :: h.ring).take 8, run := run }) s1
      let s3 := setReg (Reg.hlFrame n) t.frame (setReg (Reg.hlSigExp n) t.expected (setReg (Reg.hlSigAct n) act s2))
      showHall n (if same then s3 else mismatchStep n run s3)

/-- SIGNATURE_RECORD. -/
def execSignatureRecord (n : Slot) (disturb : Word) (s : State) : Host.Outcome State Fault Refusal :=
  .next (whilePowered (signatureRecord n.val disturb) s)

/-- HALL_STORE: a scrub failure (R127). -/
def execHallStore (s : State) : Host.Outcome State Fault Refusal :=
  .next (whilePowered (fun s => forAll (List.range 8) showHall
    (logEvent .HALL_STORE clsPart 0 0 { s with hall := { s.hall with store := true } })) s)

/-! ## Responses (R140, R141) -/

/-- Slot state of a response (R140): off before dark, dark before Dim. -/
def slotState (s : State) (n : Nat) : Nat :=
  if ¬ declared s n then 3
  else if s.power.st = .doze then 4
  else if containedOff s n then 2
  else if ¬ projects (reckOf s n) ∨ linkState s (portOf s n) ≠ lsRun ∨ emitDark s n then 3
  else if inDim s n then 1 else 0

/-- The 64 bytes of a response (R140). -/
def sportFrame (cmd seq slot : Byte) (state : Nat) (st : Status) (extra : List Byte) : List Byte :=
  let b := [cmd ||| 0x80#8, seq, slot, BitVec.ofNat 8 state] ++ leBytes 2 st.code ++ extra
  let c := b ++ List.replicate (60 - b.length) 0
  c ++ leBytes 4 (crc32 c).toNat

/-- The transaction shifts out the response to the one before it (R141). -/
def shiftOut (s : State) : State := emit (.spi s.hall.resp) s

/-- The response that the next transaction carries. -/
def setResp (r : List Byte) (s : State) : State := { s with hall := { s.hall with resp := r } }

/-- What a command of the safety port answers: its status, the bytes after it, and the state it leaves. -/
abbrev SportAct := Nat → List Byte → State → Status × List Byte × State

/-- A request with a good CRC and a known command (R141): a repeated SEQ repeats the response; a slot without a HALL
record answers HALL_NONE. DEDUCED (log entry 40): a request that is answered with a refusal (HALL_NONE, or SPORT_CMD for a BASE or
CONTAIN value) has been executed, so its SEQ is the last executed one; a request with an unknown command has not. -/
def sportRequest (cmd : Byte) (q : SportReq) (act : SportAct) (s : State) : State :=
  if ¬ powered s then s
  else
    let s1 := setBit Reg.hlSportStat 1 false (incSat Reg.hlSportCnt 31 16 (shiftOut s))
    if s.hall.lastSeq = some q.seq then setResp s.hall.lastResp s1
    else
      let n := q.slot.toNat
      let r := if n < 8 ∧ hasHall s1 n then act n q.payload s1 else (.HALL_NONE, [], s1)
      let f := sportFrame cmd q.seq q.slot (slotState r.2.2 n) r.1 r.2.1
      let s2 := r.2.2
      { s2 with hall := { s2.hall with lastSeq := some q.seq, lastResp := f, resp := f } }

/-! ## Scenes (R125, R129, R142) -/

/-- NOP. -/
def sportNop : SportAct := fun _ _ s => (.OK, [], s)

/-- The bytes of a signature record after STATUS (R142). -/
def sigRecBytes (r : SigRec) : List Byte :=
  leBytes 2 r.flags ++ leBytes 4 r.frame ++ leBytes 4 r.actual.toNat ++ leBytes 4 r.expected.toNat ++
  leBytes 4 r.signed ++ leBytes 2 r.shift ++ leBytes 2 r.sceneGen ++ leBytes 1 r.run ++ List.replicate 3 0 ++
  leBytes 8 r.boundary.toNat ++ List.replicate 20 0

/-- GET_SIG: AGE 0 is the newest record. A position that holds no record yet, and an AGE above 7, give bytes the spec
does not state. -/
def sportGetSig : SportAct := fun n p s =>
  match (slotAt s n).hall.ring[byteAt p 0]? with
  | some r => (.OK, sigRecBytes r, s)
  | none =>
    let r := freeBytes 54 s
    (.OK, r.1, r.2)

/-- One entry of SET_SCENE. -/
def sceneEntry (p : List Byte) (o : Nat) : SceneEnt :=
  { id := byteAt p o, en := byteAt p (o + 1) % 2 == 1, x := leAt p (o + 2) 2, y := leAt p (o + 4) 2 }

/-- SET_SCENE: eight entries of the pending scene from BASE on; a BASE other than 0 and 8 is answered as an unknown command
(DESIGN CHOICE, log entry 40). -/
def sportSetScene : SportAct := fun n p s =>
  let base := byteAt p 0
  if base ≠ 0 ∧ base ≠ 8 then (.SPORT_CMD, [], s)
  else
    let es := (List.range 8).map fun j => sceneEntry p (4 + 6 * j)
    (.OK, [], modHall n (fun h => { h with pend := h.pend.take base ++ es ++ h.pend.drop (base + 8) }) s)

/-- An ID of a port asset (R126). -/
def portId (id : Nat) : Bool := decide (0xF0 ≤ id ∧ id ≤ 0xF7)

/-- The port asset with an ID. -/
def portAsset (s : State) (id : Nat) : Option (Nat × Nat × Nat × Bool × List Byte) := s.hall.port.find? fun a => a.1 == id

/-- The first refusal of a pending scene, OK for none (R129). -/
def sceneStatus (s : State) (n : Nat) : Status :=
  match cfgOf s n with
  | none => .HALL_NONE
  | some c =>
    ((slotAt s n).hall.pend.filter (·.en)).foldl (fun a e =>
      if a ≠ .OK then a
      else if portId e.id && !hasSport s n then .SPORT_DENIED
      else if (assetOf s c e.id).isNone then .HALL_ASSET
      else .OK) .OK

/-- COMMIT_SCENE (R129). -/
def sportCommit : SportAct := fun n _ s =>
  let st := sceneStatus s n
  let h := (slotAt s n).hall
  if st ≠ .OK then (st, leBytes 2 (h.gen.toNat + (if h.due.isSome then 1 else 0)), s)
  else
    let s1 := modHall n (fun h => { h with due := some (h.pend, (waitFor s n).1) }) s
    (.OK, leBytes 2 (h.gen.toNat + 1), if atOnce s n then showHall n (applyScene n s1) else s1)

/-! ## Port assets (R126, R130) -/

/-- Bytes of the port store that are free. -/
def portFree (s : State) : Nat := 128 * 1024 - s.hall.port.foldl (fun a x => a + x.2.2.2.2.length) 0

/-- Some slot's active or pending scene, or a committed scene that waits, names an asset (R125, R130). -/
def assetBusy (s : State) (id : Nat) : Bool :=
  (List.range 8).any fun n =>
    let h := (slotAt s n).hall
    declared s n && ((h.active ++ h.pend ++ ((h.due.map (·.1)).getD [])).any fun e => e.id == id)

/-- Puts a port asset in the store in place of what its ID held. -/
def putAsset (id w h : Nat) (sealed : Bool) (d : List Byte) (s : State) : State :=
  { s with hall := { s.hall with port := (s.hall.port.filter fun a => a.1 != id) ++ [(id, w, h, sealed, d)] } }

/-- PA_BEGIN: the asset's old space is released before the new reservation is measured. DESIGN CHOICE (log entry 83): an asset in use is
answered before any other check, a reservation refused for space leaves the old asset as it was, and an ID outside 0xF0 to 0xF7 is
answered HALL_ASSET. -/
def sportBegin : SportAct := fun n p s =>
  let id := byteAt p 0
  let w := leAt p 2 2
  let h := leAt p 4 2
  let old := ((portAsset s id).map fun a => a.2.2.2.2.length).getD 0
  let ans (st : Status) (s : State) : Status × List Byte × State := (st, leBytes 4 (portFree s), s)
  if ¬ hasSport s n then ans .SPORT_DENIED s
  else if ¬ portId id then ans .HALL_ASSET s
  else if assetBusy s id then ans .HALL_ASSET_BUSY s
  else if portFree s + old < w * h * 2 then ans .HALL_ASSET s
  else ans .OK (putAsset id w h false (List.replicate (w * h * 2) 0) s)

/-- PA_DATA: a chunk of 48 bytes at a byte offset. An asset in use is answered before the other checks (log entry 83). -/
def sportData : SportAct := fun n p s =>
  let id := byteAt p 0
  let o := leAt p 4 4
  if ¬ hasSport s n then (.SPORT_DENIED, [], s)
  else if ¬ portId id then (.HALL_ASSET, [], s)
  else if assetBusy s id then (.HALL_ASSET_BUSY, [], s)
  else match portAsset s id with
    | none => (.HALL_ASSET, [], s)
    | some a =>
      let d := a.2.2.2.2
      if a.2.2.2.1 ∨ o % 48 ≠ 0 ∨ d.length ≤ o then (.HALL_ASSET, [], s)
      else
        let new := ((p.drop 8).take 48).take (d.length - o)
        (.OK, [], putAsset id a.2.1 a.2.2.1 false (d.take o ++ new ++ d.drop (o + new.length)) s)

/-- PA_SEAL: the CRC of the whole asset. DESIGN CHOICE (log entry 83): an ID without a reservation is answered HALL_ASSET, and a sealed
asset whose CRC does not match stays sealed. -/
def sportSeal : SportAct := fun n p s =>
  let id := byteAt p 0
  if ¬ hasSport s n then (.SPORT_DENIED, [], s)
  else match portAsset s id with
    | none => (.HALL_ASSET, [], s)
    | some a =>
      if (crc32 a.2.2.2.2).toNat = leAt p 4 4 then (.OK, [], putAsset id a.2.1 a.2.2.1 true a.2.2.2.2 s)
      else (.HALL_ASSET, [], s)

/-! ## Holds (R136, R137) -/

/-- CONTAIN: 0 Dim, 1 off; another value is answered as an unknown command (DESIGN CHOICE, log entry 40). -/
def sportContain : SportAct := fun n p s =>
  let v := byteAt p 0
  if 1 < v then (.SPORT_CMD, [], s)
  else
    let f (s : State) : State :=
      let s1 := modHall n (fun h => { h with contain := max h.contain (v + 1), containAfter := max h.containAfter (v + 1) }) s
      if v = 1 then refreshCeil n (lenDrop (portOf s n) 5 s1) else s1
    (.OK, [], showHall n (withDim f s))

/-- FR_FAULT bit 0 clears at an accepted RELEASE if nothing of the Hallmark path stands against it (R462). -/
def clearHallFault (s : State) : State :=
  if s.hall.store ∨ rbit s Reg.hlSportStat 1 ∨
      (declaredSlots s).any (fun n => decide (0 < (slotAt s n).hall.run) || (slotAt s n).hall.hold) then s
  else setBit Reg.frFault 0 false s

/-- RELEASE: refused unless the two newest records both match. -/
def sportRelease : SportAct := fun n _ s =>
  match (slotAt s n).hall.ring with
  | a :: b :: _ =>
    if a.flags % 2 = 1 ∧ b.flags % 2 = 1 then
      (.OK, [], clearHallFault (modHall n (fun h => { h with release := true, containAfter := 0, mismatchAfter := 0 }) s))
    else (.HALL_MISMATCH, [], s)
  | _ => (.HALL_MISMATCH, [], s)

/-! ## Commands -/

/-- NOP. -/
def execNop (q : SportReq) (s : State) : Host.Outcome State Fault Refusal := .next (sportRequest 0 q sportNop s)

/-- GET_SIG. -/
def execGetSig (q : SportReq) (s : State) : Host.Outcome State Fault Refusal := .next (sportRequest 1 q sportGetSig s)

/-- SET_SCENE. -/
def execSetScene (q : SportReq) (s : State) : Host.Outcome State Fault Refusal := .next (sportRequest 2 q sportSetScene s)

/-- COMMIT_SCENE. -/
def execCommitScene (q : SportReq) (s : State) : Host.Outcome State Fault Refusal := .next (sportRequest 3 q sportCommit s)

/-- PA_BEGIN. -/
def execPaBegin (q : SportReq) (s : State) : Host.Outcome State Fault Refusal := .next (sportRequest 4 q sportBegin s)

/-- PA_DATA. -/
def execPaData (q : SportReq) (s : State) : Host.Outcome State Fault Refusal := .next (sportRequest 5 q sportData s)

/-- PA_SEAL. -/
def execPaSeal (q : SportReq) (s : State) : Host.Outcome State Fault Refusal := .next (sportRequest 6 q sportSeal s)

/-- CONTAIN with payload 0: the payload byte of the request decides (R142). -/
def execContainDim (q : SportReq) (s : State) : Host.Outcome State Fault Refusal := .next (sportRequest 7 q sportContain s)

/-- CONTAIN with payload 1: the payload byte of the request decides (R142). -/
def execContainOff (q : SportReq) (s : State) : Host.Outcome State Fault Refusal := .next (sportRequest 7 q sportContain s)

/-- RELEASE. -/
def execRelease (q : SportReq) (s : State) : Host.Outcome State Fault Refusal := .next (sportRequest 8 q sportRelease s)

/-- The CMD byte of a request with an unknown command. -/
def unknownCmd (k : Fin 247) : Byte := BitVec.ofNat 8 (9 + k.val)

/-- The 64 bytes of a request (R140). -/
def requestFrame (cmd : Byte) (q : SportReq) : List Byte :=
  let b := ([cmd, q.seq, q.slot, 0#8] ++ q.payload ++ List.replicate 60 0#8).take 60
  b ++ leBytes 4 (crc32 b).toNat

/-- The command that a transaction of the safety port spells (R139 to R142): the bytes shifted in on SPORT_MOSI, whatever their
number. -/
def sportInstr (b : List Byte) : Instr :=
  let q : SportReq := { seq := b.getD 1 0, slot := b.getD 2 0, payload := (b.drop 4).take 56 }
  if b.length ≠ 64 then .sportBadFrame .length
  else if (crc32 (b.take 60)).toNat ≠ leAt b 60 4 then .sportBadFrame (.crc (b.getD 0 0) q.seq q.slot)
  else match byteAt b 0 with
    | 0 => .nop q
    | 1 => .getSig q
    | 2 => .setScene q
    | 3 => .commitScene q
    | 4 => .paBegin q
    | 5 => .paData q
    | 6 => .paSeal q
    | 7 => if byteAt q.payload 0 = 1 then .containOff q else .containDim q
    | 8 => .release q
    | k => .sportBadFrame (.unknownCmd (Fin.ofNat 247 (k - 9)) q.seq q.slot)

/-- A discarded transaction (R139, R141, R470): the next response carries SPORT_FRAME; the frame had no header to answer. -/
def sportDiscard (s : State) : State :=
  if ¬ powered s then s
  else setResp (sportFrame 0 0 0 3 .SPORT_FRAME []) (incSat Reg.hlSportCnt 15 0 (shiftOut s))

/-- SPORT_BAD_FRAME: wrong length, bad CRC, or unknown command (R139, R141). An unknown command has a good CRC and is a
request answered with SPORT_CMD. -/
def execSportBadFrame (b : SportBad) (s : State) : Host.Outcome State Fault Refusal :=
  match b with
  | .length => .next (sportDiscard s)
  | .crc cmd seq slot =>
    .next (if ¬ powered s then s
      else setResp (sportFrame cmd seq slot (slotState s slot.toNat) .SPORT_CRC []) (incSat Reg.hlSportCnt 15 0 (shiftOut s)))
  | .unknownCmd k seq slot =>
    .next (if ¬ powered s then s
      else
        let s1 := setBit Reg.hlSportStat 1 false (incSat Reg.hlSportCnt 31 16 (shiftOut s))
        if s.hall.lastSeq = some seq then setResp s.hall.lastResp s1
        else setResp (sportFrame (unknownCmd k) seq slot (slotState s slot.toNat) .SPORT_CMD []) s1)

/-- SPORT_CS_STUCK: the transaction is discarded (R470). -/
def execSportCsStuck (s : State) : Host.Outcome State Fault Refusal := .next (sportDiscard s)

/-- SPORT_SILENT: no good frame for 100 ms while a slot has a HALL record (R141). -/
def execSportSilent (s : State) : Host.Outcome State Fault Refusal :=
  .next (if (List.range 8).any (hasHall s) ∧ ¬ rbit s Reg.hlSportStat 1 then
    logEvent .SPORT_SILENT clsSport 0 0 (setBit Reg.hlSportStat 1 true s) else s)

end Sys2Proof.Machine
end

