-- ==== Sys2Proof/Machine/Heat.lean ====
section
/-! DEFINITION. The heat ledger (R419 to R432): the package model, junctions, sensor checks, throttle ladders, the power
limit and critical temperatures. LEDGER_UPDATE computes and counts; a step, a suspicion or a trip is a command of its own,
which acts where the counts of the ledger have reached what its rule asks. -/

set_option Elab.async false

namespace Sys2Proof.Machine

/-- Changes the heat ledger. -/
def modHeat (f : HeatState → HeatState) (s : State) : State := { s with heat := f s.heat }

/-- The heat-ledger vector (R358). -/
def vecHeat : Nat := 19

/-- One 1/64 degree in the ledger's unit. -/
def heatUnit : Int := 2 ^ 16

/-- A ledger temperature in 1/64 degree. -/
def heat64 (x : Int) : Int := x / heatUnit

/-- The heat ledger runs (R438): the part is powered and past step 4 of power-up. -/
def heatRuns (s : State) : Bool := powered s && decide (4 ≤ s.power.seqStep)

/-! ## Numbers -/

/-- e^(-x) for x in [0, 1/2) in units of 2^-60, by its series. -/
def expTerms (x : Int) : Nat → Nat → Int → Int
  | 0, _, _ => 0
  | k + 1, i, t => t + expTerms x k (i + 1) (-(t * x / 2 ^ 60) / ((i + 1 : Nat) : Int))

/-- A value squared k times. -/
def sqTimes : Nat → Int → Int
  | 0, y => y
  | k + 1, y => sqTimes k (y * y / 2 ^ 60)

/-- e^(-a/b) in units of 2^-60; 0 for b = 0 (the time constant of R422 is then 0). -/
def expNeg (a b : Nat) : Int :=
  if b = 0 ∨ 64 * b ≤ a then 0 else sqTimes 8 (expTerms (((a * 2 ^ 52 / b : Nat) : Int)) 24 0 (2 ^ 60))

/-- The largest of a list of points: excess with its point; the first of equals. -/
def hottest : List (Int × Nat) → Option (Int × Nat)
  | [] => none
  | x :: r =>
    match hottest r with
    | none => some x
    | some y => if x.1 < y.1 then some y else some x

/-- Entry i of a list set. -/
def setNth {α : Type} : List α → Nat → α → List α
  | [], _, _ => []
  | _ :: r, 0, y => y :: r
  | x :: r, i + 1, y => x :: setNth r i y

/-! ## Engine sensors (R316, R419, R422) -/

/-- The sensor entries of the engine on port p: KIND and T_MAX of sensor i. -/
def sensKind (s : State) (p i : Nat) : Nat := descAt s p (descTemp s p i + 1) 1
def sensTmax (s : State) (p i : Nat) : Int := signed 16 (descAt s p (descTemp s p i + 2) 2)

/-- Sensor i of port p. -/
def engSens (s : State) (p i : Nat) : Option EngSensor := s.heat.eng.find? fun e => e.port == p && e.num == i

/-- Sensors of port p. -/
def engSensors (s : State) (p : Nat) : List EngSensor := s.heat.eng.filter fun e => e.port == p

/-- Changes sensor i of port p. -/
def modEng (p i : Nat) (f : EngSensor → EngSensor) (s : State) : State :=
  modHeat (fun h => { h with eng := h.eng.map fun e => if e.port == p && e.num == i then f e else e }) s

/-- Adds sensor i of port p with its first reading. -/
def addSensor (p i : Nat) (failed : Bool) (v : Int) (s : State) : State :=
  let e : EngSensor := { port := p, num := i, failed := failed, seen := s.linkTime, chk := { SensorCheck.init with val := v } }
  modHeat (fun h => { h with eng := h.eng ++ [e] }) s

/-- An accepted sense return brings a reading (R419). -/
def senseTemp (p i : Nat) (v : Int) (s : State) : State :=
  match engSens s p i with
  | some _ => modEng p i (fun e => { e with failed := false, seen := s.linkTime, chk := { e.chk with val := v } }) s
  | none => addSensor p i false v s

/-- Emitter power of engine channel ch of port p over [t0, t1] in sixteenths, in mW (R419). -/
def emitPower (s : State) (p ch t0 t1 : Nat) : Nat :=
  let x := driveSum s p ch t0 t1
  let imax := chImax s p ch
  let e : Rat := mkRat ((x.1 * imax * chVf0 s p ch : Nat) : Int) 65535 +
    mkRat ((x.2.2 * imax * imax * chRs s p ch : Nat) : Int) (65535 * 65535 * 1000)
  if t1 ≤ t0 then 0 else (ratRound (e / (((t1 - t0) * 1000 : Nat) : Rat))).toNat

/-- The model value of sensor i of port p: the case temperature of the first channel on it, as its junction and power
give it (log entry 43); none where no channel names the sensor. -/
def caseModel (s : State) (c : SlotCast) (i : Nat) : Option Int :=
  (c.chmp.find? fun e => descAt s c.slot.port (descChan e.engCh + 3) 1 == i).bind fun e =>
    (s.heat.tj.lookup e.lc).map fun t =>
      heat64 t - (descAt s c.slot.port (descChan e.engCh + 64) 2 * (reg s (Reg.thChPower e.lc)).toNat / 4000 : Nat)

/-- Neighbours of an engine sensor (R423): same KIND, next lower and next higher number. -/
def engNeighbours (s : State) (p i : Nat) : List EngSensor :=
  let same := (engSensors s p).filter fun e => e.num != i && sensKind s p e.num == sensKind s p i
  let lo := same.filter fun e => decide (e.num < i)
  let hi := same.filter fun e => decide (i < e.num)
  (lo.filter fun e => lo.all fun x => decide (x.num ≤ e.num)) ++ (hi.filter fun e => hi.all fun x => decide (e.num ≤ x.num))

/-- The model value of an engine sensor; its own reading where the model has no place for it. -/
def engModel (s : State) (p i : Nat) : Int :=
  (((slotOnPort s p).bind (cfgOf s)).bind fun c => caseModel s c i).getD (((engSens s p i).map (·.chk.val)).getD 0)

/-! ## Package sensors -/

/-- Sensor i of the package: D0 to D15, S16. -/
def pkgSens (s : State) (i : Nat) : SensorCheck := (s.heat.diodes[i]?).getD SensorCheck.init

/-- Node i in 1/64 degree. -/
def node64 (s : State) (i : Nat) : Int := heat64 ((s.heat.nodes[i]?).getD 0)

/-- The model value at a package sensor (R423). -/
def pkgModel (s : State) (i : Nat) : Int :=
  if i < 16 then node64 s (2 * i)
  else ((List.range 8).map fun k => node64 s (32 + k)).foldl max (node64 s 32)

/-- Neighbours of a package sensor. -/
def pkgNeighbours (i : Nat) : List Nat := if i < 16 then [(i + 15) % 16, (i + 1) % 16] else []

/-- A sensor disagrees (R423): its reading, residual, the residuals of its trusted neighbours, and failure under R419. -/
def disagrees (v r : Int) (ns : List Int) (failed : Bool) : Bool :=
  (decide (384 < r.natAbs) && ns.all fun n => decide (384 < (r - n).natAbs)) || decide (v < -3200 ∨ 11200 < v) || failed

/-- The substitute of a suspect sensor (R424). -/
def substitute (m : Int) (ns : List Int) : Int := ns.foldl max m + 256

/-- The value of a package sensor: its reading, or the substitute. -/
def pkgValue (s : State) (i : Nat) : Int :=
  let c := pkgSens s i
  if ¬ c.suspect then c.val
  else substitute (pkgModel s i) (((pkgNeighbours i).filter fun j => !(pkgSens s j).suspect).map fun j => (pkgSens s j).val)

/-- The value of an engine sensor. -/
def engValue (s : State) (e : EngSensor) : Int :=
  if ¬ e.chk.suspect then e.chk.val
  else substitute (engModel s e.port e.num) (((engNeighbours s e.port e.num).filter (!·.chk.suspect)).map (·.chk.val))

/-- A check with one more update. -/
def SensorCheck.count (c : SensorCheck) (bad : Bool) : SensorCheck :=
  if bad then { c with dis := c.dis + 1, agree := 0 } else { c with dis := 0, agree := c.agree + 1 }

/-- Every sensor is checked against the model (R423). -/
def checkSensors (s : State) : State :=
  let res (i : Nat) : Int := (pkgSens s i).val - pkgModel s i
  let d := (List.range 17).map fun i => (pkgSens s i).count
    (disagrees (pkgSens s i).val (res i) (((pkgNeighbours i).filter fun j => !(pkgSens s j).suspect).map res) false)
  let er (e : EngSensor) : Int := e.chk.val - engModel s e.port e.num
  let bad (e : EngSensor) : Bool :=
    disagrees e.chk.val (er e) (((engNeighbours s e.port e.num).filter (!·.chk.suspect)).map er) e.failed
  let g := s.heat.eng.map fun e => { e with chk := e.chk.count (bad e) }
  modHeat (fun h => { h with diodes := d, eng := g }) s

/-! ## The model (R420 to R422) -/

/-- T_case of a channel in 1/64 degree, and whether no sensor of KIND 0 gave it. -/
def caseTemp (s : State) (p ch : Nat) : Option Int × Bool :=
  let i := descAt s p (descChan ch + 3) 1
  let top (l : List EngSensor) : Option Int := (hottest (l.map fun e => (engValue s e, e.num))).map (·.1)
  if i ≠ 0xFF then ((engSens s p i).map (engValue s), false)
  else
    match top ((engSensors s p).filter fun e => sensKind s p e.num == 0) with
    | some t => (some t, false)
    | none => (top (engSensors s p), true)

/-- The junction of one channel moves (R422). An engine without sensors leaves T_case open: a free value. -/
def moveJunction (p : Nat) (e : ChanEnt) (t0 t1 : Nat) (s : State) : State :=
  let pw := if s.power.st = .doze then 0 else emitPower s p e.engCh t0 t1
  let s0 := setReg (Reg.thChPower e.lc) (BitVec.ofNat 32 pw) s
  let c := caseTemp s p e.engCh
  let s1 := if c.2 then setBit Reg.thFlags 4 true s0 else s0
  let none_ := decide (descAt s p 20 1 = 0)
  let x : Option Int × State := if none_ then
      let f := takeFree s1
      (some (signed 16 (fld f.1 15 0)), f.2)
    else (c.1, s1)
  match x.1 with
  | none => x.2
  | some tc =>
    let rth := descAt s p (descChan e.engCh + 64) 2
    let cth := descAt s p (descChan e.engCh + 66) 2
    let goal := tc * heatUnit + ((rth * pw : Nat) : Int) * heatUnit / 4000
    let k := 2 ^ 60 - expNeg 256 (10 * rth * cth)
    let t := match s.heat.tj.lookup e.lc with
      | none => tc * heatUnit
      | some t => t + (goal - t) * k / 2 ^ 60
    setFld (Reg.thChTj e.lc) 15 0 (unsigned 16 (heat64 t))
      (modHeat (fun h => { h with tj := (e.lc, t) :: h.tj.filter fun y => y.1 != e.lc }) x.2)

/-- The slots whose engine is bound, with what they run. -/
def boundSlots (s : State) : List (Nat × SlotCast) :=
  (List.range 8).filterMap fun n => if bound s n then (cfgOf s n).map fun c => (n, c) else none

/-- Conductance from node j to node i in units of 2^-16 W/K: ROM, but for 1 / THETA from node 45 to node 47 (R420). A THETA of 0 lies
outside its range and gives none: the value is open (log entry 20). -/
def conductance (theta i j : Nat) : Nat :=
  if i = 45 ∧ j = 47 ∧ theta ≠ 0 then 2 ^ 26 / theta else Config.heatConduct i j

/-- Temperature i of the model: nodes 0 to 46, and T_B as node 47 (R420). -/
def nodeTemp (h : HeatState) (i : Nat) : Int := if i = 47 then h.tb else (h.nodes[i]?).getD 0

/-- What node i moves by in one update (R420): Δt / C_i times the heat into it, its share of the domain powers in mW, and what
the other nodes conduct to it. -/
def nodeMove (h : HeatState) (theta : Nat) (dom : List Nat) (i : Nat) : Int :=
  let q : Int := ((List.range 20).foldl (fun a d => a + Config.heatShare i d * (dom[d]?).getD 0) 0 : Nat)
  let g := (List.range 48).foldl (fun a j => a + (conductance theta i j : Int) * (nodeTemp h j - nodeTemp h i)) 0
  (Config.heatGain i : Int) * (q * 2 ^ 22 + g * 1000) / (65536000 * 2 ^ 32)

/-- The package model over one update: nodes 0 to 46 (R420). -/
def moveNodes (dom : List Nat) (s : State) : State :=
  modHeat (fun h => { h with
    nodes := (List.range 47).map fun i => nodeTemp h i + nodeMove h (rfld s Reg.thBound 15 0) dom i }) s

/-- The mean of a list of temperatures; none of an empty one. -/
def meanOf (l : List Int) : Option Int := if l.isEmpty then none else some (l.foldl (· + ·) 0 / l.length)

/-- The boundary estimate over one update (R421). -/
def moveBoundary (s : State) : State :=
  let tr := (List.range 16).filter fun i => !(pkgSens s i).suspect
  match meanOf (tr.map fun i => (pkgSens s i).val * heatUnit - (s.heat.nodes[2 * i]?).getD 0) with
  | none => s
  | some d => modHeat (fun h => { h with tb := h.tb + d / 10000 }) s

/-- The ledger starts (R421). -/
def startHeat (s : State) : State :=
  let at_ (t : Int) : State := modHeat (fun h => { h with start := .running, tb := t, nodes := List.replicate 47 t }) s
  match s.heat.start with
  | .running => s
  | .cold => at_ (signed 8 (rfld s Reg.thBound 31 24) * 64 * heatUnit)
  | .warm => at_ ((meanOf (((List.range 16).filter fun i => !(pkgSens s i).suspect).map fun i =>
      (pkgSens s i).val * heatUnit)).getD 0)

/-! ## Ladders (R425 to R428) -/

/-- The package points: excess in 1/64 degree with the point: nodes 0 to 39, then diodes from 64, S16 as 80. -/
def pkgPoints (s : State) : List (Int × Nat) :=
  let logic : Int := (rfld s Reg.thThr 7 0 : Int) * 64
  let dram : Int := (rfld s Reg.thThr 15 8 : Int) * 64
  (List.range 40).map (fun i => (node64 s i - (if i < 32 then logic else dram), i)) ++
    (List.range 17).map (fun i => (pkgValue s i - (if i < 16 then logic else dram), 64 + i))

/-- The laser points of slot n: temperature, limit and point; junctions by channel, sensors from 256. -/
def laserPoints (s : State) (c : SlotCast) : List (Int × Int × Nat) :=
  let p := c.slot.port
  c.chmp.filterMap (fun e => (s.heat.tj.lookup e.lc).map fun t =>
      (heat64 t, signed 16 (descAt s p (descChan e.engCh + 68) 2), e.lc)) ++
    ((engSensors s p).filter fun e => sensKind s p e.num == 0).map fun e => (engValue s e, sensTmax s p e.num, 256 + e.num)

/-- Ladder i. -/
def ladderAt (s : State) (i : Nat) : Ladder := (s.heat.ladders[i]?).getD Ladder.init

/-- Changes ladder i. -/
def modLadder (i : Nat) (f : Ladder → Ladder) (s : State) : State :=
  modHeat (fun h => { h with ladders := setNth h.ladders i (f ((h.ladders[i]?).getD Ladder.init)) }) s

/-- The step register of ladder i (R433). -/
def stepReg (i : Nat) : Nat := if i = 8 then Reg.thPkg else Reg.thLsStep i

/-- The floor of ladder i. -/
def floorOf (s : State) (i : Nat) : Nat := if i = 8 then rfld s Reg.thPkgCtrl 3 0 else rfld s (Reg.thLsStep i) 11 8

/-- THERM_n causes (R431). -/
def showPin (s : State) : State :=
  let fr := s.heat.ladders.any (·.freeze.isSome)
  let cr := s.heat.trip.any (· == true)
  let bt := (List.range 9).any fun i => rfld s (stepReg i) 3 0 == 15
  setFld Reg.thPin 2 0 ((if bt then 4 else 0) + (if cr then 2 else 0) + (if fr then 1 else 0)) s

/-- One evaluation of ladder i with its excess (R427): the counts; the step is THROTTLE_STEP. -/
def countLadder (i : Nat) (x : Int × Nat) (s : State) : State :=
  setFld (stepReg i) 31 16 (unsigned 16 (clampI x.1 (-32768) 32767))
    (modLadder i (fun l =>
      if 0 < x.1 then { l with overs := l.overs + 1, under := 0, hot := x.2 }
      else { l with overs := 0, under := if x.1 ≤ -192 then l.under + 1 else 0, hot := x.2 }) s)

/-- Critical temperatures (R430) of the package and of slot i: counts, and trips whose condition has gone. -/
def countCrit (i : Nat) (hot : Bool) (s : State) : State :=
  modHeat (fun h => { h with
    crit := setNth h.crit i (if hot then (h.crit[i]?).getD 0 + 1 else 0)
    trip := setNth h.trip i ((h.trip[i]?).getD false && hot) }) s

/-- Ladders and critical temperatures of one update. -/
def evalLadders (s : State) : State :=
  let pp := pkgPoints s
  let s1 := match hottest pp with
    | some x => countLadder 8 x s
    | none => s
  let crit := (List.range 57).any fun i => match pp[i]? with
    | some x =>
      let dram := (decide (32 ≤ x.2) && decide (x.2 < 40)) || x.2 == 80
      let thr : Int := (rfld s Reg.thThr (if dram then 15 else 7) (if dram then 8 else 0) : Int) * 64
      decide ((if dram then 7360 else 8000) ≤ x.1 + thr)
    | none => false
  let s2 := countCrit 8 crit s1
  (boundSlots s).foldl (fun s x =>
    let m : Int := (rfld s (Reg.thLsMargin x.1) 7 0 : Int) * 64
    let ps := laserPoints s x.2
    let s3 := match hottest (ps.map fun y => (y.1 - (y.2.1 - m), y.2.2)) with
      | some y => countLadder x.1 y s
      | none => s
    let s4 := countCrit x.1 (ps.any fun y => decide (y.2.1 ≤ y.1)) s3
    let ok := ps.all fun y => decide (y.1 - (y.2.1 - m) ≤ -192)
    modHeat (fun h => { h with cool := setNth h.cool x.1 (if ok then (h.cool[x.1]?).getD 0 + 1 else 0) }) s4) s2

/-! ## One update -/

/-- The 1 ms package power in mW. -/
def pkgPower (s : State) : Nat := reg s Reg.thPower |>.toNat

/-- P_lim in mW (R426). -/
def powerLimit (s : State) : Nat := 48000 - 2000 * rfld s Reg.thPkg 3 0

/-- Shows the ledger's temperatures. -/
def showHeat (s : State) : State :=
  let s1 := setRegs ((List.range 47).map fun i => (Reg.thNode i, at_ 15 0 (unsigned 16 (node64 s i)))) s
  let s2 := setRegs [(Reg.thNode 47, at_ 15 0 (unsigned 16 (heat64 s.heat.tb))), (Reg.thTb, at_ 15 0 (unsigned 16 (heat64 s.heat.tb)))] s1
  let w (i : Nat) : Word := at_ 31 31 (if (pkgSens s i).suspect then 1 else 0) ||| at_ 15 0 (unsigned 16 (pkgValue s i))
  setReg Reg.thS16 (w 16) (setRegs ((List.range 16).map fun i => (Reg.thDiode i, w i)) s2)

/-- LEDGER_UPDATE: inputs, model, junctions, checks, ladders, power (R419 to R430). -/
def ledgerUpdate (i : LedgerIn) (s : State) : State :=
  if ¬ heatRuns s then s
  else
    let t0 := s.heat.last.toNat * 16
    let t1 := now s * 16
    let dom := (List.range 20).map fun d => if pdOff s d then 0 else (i.dom[d]?).getD 0
    let sum := dom.foldl (· + ·) 0
    let reads := (List.range 17).map fun k =>
      { pkgSens s k with val := if k = 16 then signed 8 (rfld s Reg.mcTemp 15 8) * 64
          else ((i.diodes[k]?).map (·.toInt)).getD (pkgSens s k).val }
    let s1 := startHeat (modHeat (fun h => { h with diodes := reads, sums := (sum :: h.sums).take 10 }) s)
    let s2 := moveBoundary (moveNodes dom s1)
    let s3 := (boundSlots s2).foldl (fun s x => x.2.chmp.foldl (fun s e => moveJunction x.2.slot.port e t0 t1 s) s) s2
    let s4 := evalLadders (checkSensors s3)
    let mean := s4.heat.sums.foldl (· + ·) 0 / max 1 s4.heat.sums.length
    let s5 := setRegs ((Reg.thPower, BitVec.ofNat 32 mean) :: (List.range 20).map fun d =>
      (Reg.thDom d, BitVec.ofNat 32 ((dom[d]?).getD 0))) s4
    let s6 := modHeat (fun h => { h with last := s.linkTime, below := if mean + 1000 < powerLimit s5 then h.below + 1 else 0 }) s5
    let s7 := forAll (List.range 8) (fun p s =>
      let e := (portAt s p).lastTEnd.toNat * 16
      pruneDrive p (if e = 0 then t1 else min t1 e) s) s6
    noteState (fun s => showPin (showHeat s)) s7

/-- LEDGER_UPDATE. -/
def execLedgerUpdate (i : LedgerIn) (s : State) : Host.Outcome State Fault Refusal :=
  .next (noteState (ledgerUpdate i) s)

/-- A sensor of a bound engine that has given no accepted value for 10 ms counts as failed (R419). The reading of one that has
never given a value is open. -/
def sensorFailed (p i : Nat) (s : State) : State :=
  match engSens s p i with
  | some e => if 10 * msTicks ≤ since s e.seen then modEng p i (fun e => { e with failed := true }) s else s
  | none =>
    if linkState s p = lsRun ∧ i < descAt s p 20 1 then
      let f := takeFree s
      addSensor p i true (signed 16 (fld f.1 15 0)) f.2
    else s

/-- ENGINE_SENSOR_FAILED (R419). -/
def execEngineSensorFailed (p : Port) (sensor : Fin 32) (s : State) : Host.Outcome State Fault Refusal :=
  .next (sensorFailed p.val sensor.val s)

/-! ## Suspect sensors (R424, R428): sensors 0 to 16 of the package, then 17 + 32 × port + number -/

/-- The check of sensor k. -/
def checkOf (s : State) (k : Nat) : Option SensorCheck :=
  if k < 17 then some (pkgSens s k) else (engSens s ((k - 17) / 32) ((k - 17) % 32)).map (·.chk)

/-- Changes the check of sensor k. -/
def modCheck (k : Nat) (f : SensorCheck → SensorCheck) (s : State) : State :=
  if k < 17 then modHeat (fun h => { h with diodes := setNth h.diodes k (f ((h.diodes[k]?).getD SensorCheck.init)) }) s
  else modEng ((k - 17) / 32) ((k - 17) % 32) (fun e => { e with chk := f e.chk }) s

/-- Five seconds in periods. -/
def freezeTicks : Nat := 16000000000

/-- The ladder that sensor k is the hottest point of, if it stands above step 0. -/
def hotLadder (s : State) (k : Nat) : Option Nat :=
  let i := if k < 17 then some 8 else slotOnPort s ((k - 17) / 32)
  let pt := if k < 17 then 64 + k else 256 + (k - 17) % 32
  i.bind fun i => if (ladderAt s i).hot = pt ∧ 0 < rfld s (stepReg i) 3 0 then some i else none

/-- SENSOR_SUSPECT: the sensor has disagreed for 100 updates; a ladder above step 0 that it leads is frozen for 5 s. -/
def sensorSuspect (k : Nat) (s : State) : State :=
  match checkOf s k with
  | none => s
  | some c =>
    if c.suspect ∨ c.dis < 100 then s
    else
      let s1 := setBit Reg.thFlags 0 true (modCheck k (fun c => { c with suspect := true, agree := 0 }) s)
      let s2 := if k < 17 then logEvent .SENSOR_SUSPECT clsPart 0 k s1
        else logEvent .SENSOR_SUSPECT clsEngine ((k - 17) / 32) ((k - 17) % 32) s1
      let s3 := match hotLadder s k with
        | some i => setBit (stepReg i) 12 true (modLadder i (fun l => { l with freeze := some (s.linkTime + BitVec.ofNat 64 freezeTicks) }) s2)
        | none => s2
      showPin (showHeat (raiseVec vecHeat s3))

/-- SENSOR_SUSPECT. -/
def execSensorSuspect (k : Nat) (s : State) : Host.Outcome State Fault Refusal := .next (sensorSuspect k s)

/-- SENSOR_TRUSTED: a suspect sensor has agreed for 10,000 updates. -/
def sensorTrusted (k : Nat) (s : State) : State :=
  match checkOf s k with
  | none => s
  | some c => if c.suspect ∧ 10000 ≤ c.agree then showHeat (modCheck k (fun c => { c with suspect := false, dis := 0 }) s) else s

/-- SENSOR_TRUSTED. -/
def execSensorTrusted (k : Nat) (s : State) : Host.Outcome State Fault Refusal := .next (sensorTrusted k s)

/-- THROTTLE_STEP: ladder i steps where its counts have reached their dwell (R427). -/
def throttleStep (i : Nat) (s : State) : State :=
  let l := ladderAt s i
  let k := rfld s (stepReg i) 3 0
  let go (k' : Nat) (f : Ladder → Ladder) : State :=
    let s1 := showPin (raiseVec vecHeat (logEvent .THROTTLE_STEP clsPart i k' (setBit Reg.thFlags 1 true
      (setFld (stepReg i) 3 0 k' (modLadder i f s)))))
    if i < 8 then raiseFrame i s1 else s1
  if i < 8 ∧ ¬ declared s i then s
  else if l.overs = 200 ∧ k < 15 then go (k + 1) fun l => { l with overs := 0 }
  else if l.under = 2000 ∧ floorOf s i < k ∧ l.freeze.isNone then go (k - 1) fun l => { l with under := 0 }
  else s

/-- THROTTLE_STEP. -/
def execThrottleStep (ladder : Fin 9) (s : State) : Host.Outcome State Fault Refusal := .next (throttleStep ladder.val s)

/-- FREEZE_END: the 5 s of a frozen ladder have passed (R428). -/
def freezeEnd (i : Nat) (s : State) : State :=
  match (ladderAt s i).freeze with
  | some t =>
    if (t - s.linkTime).toInt ≤ 0 then showPin (setBit (stepReg i) 12 false (modLadder i (fun l => { l with freeze := none }) s)) else s
  | none => s

/-- FREEZE_END. -/
def execFreezeEnd (ladder : Fin 9) (s : State) : Host.Outcome State Fault Refusal := .next (freezeEnd ladder.val s)

/-! ## Critical temperatures (R430) -/

/-- A critical condition i has held for ten updates and has not tripped yet. -/
def critDue (s : State) (i : Nat) : Bool := decide (10 ≤ (s.heat.crit[i]?).getD 0) && !(s.heat.trip[i]?).getD false

/-- A trip is marked. -/
def markTrip (i : Nat) (s : State) : State :=
  showPin (setBit Reg.thFlags 3 true (modHeat (fun h => { h with trip := setNth h.trip i true }) s))

/-- THERMAL_CRIT: every slot in Dim. -/
def execThermalCrit (s : State) : Host.Outcome State Fault Refusal :=
  .next (if critDue s 8 then
    noteState (fun s => logEvent .THERMAL_CRIT clsPart 0 0 (markTrip 8 (modHeat (fun h => { h with tripAt := s.linkTime }) s))) s
  else s)

/-- LASER_OVERTEMP: slot n is contained off. -/
def laserOvertemp (n : Nat) (s : State) : State :=
  if declared s n && critDue s n then
    startGrace (engineParty (portOf s n))
      (containSlot n .overtemp true (logEvent .LASER_OVERTEMP clsEngine (portOf s n) 0 (markTrip n s)))
  else s

/-- LASER_OVERTEMP. -/
def execLaserOvertemp (n : Slot) (s : State) : Host.Outcome State Fault Refusal := .next (noteState (laserOvertemp n.val) s)

/-! ## The power limit (R429) -/

/-- POWER_LIMIT_APPLY: host codec jobs, BULK and LOW requests and the Cast loader are held. -/
def execPowerLimitApply (s : State) : Host.Outcome State Fault Refusal :=
  .next (if powerLimit s < pkgPower s ∧ ¬ s.heat.limited then
    modHeat (fun h => { h with limited := true, limitAt := s.linkTime, below := 0 }) s else s)

/-- POWER_LIMIT_LIFT: 10 ms below P_lim - 1 W. -/
def execPowerLimitLift (s : State) : Host.Outcome State Fault Refusal :=
  .next (if s.heat.limited ∧ 100 ≤ s.heat.below then modHeat (fun h => { h with limited := false }) s else s)

/-- POWER_LIMIT: the sum still exceeds P_lim 50 ms after the limits apply. -/
def execPowerLimit (s : State) : Host.Outcome State Fault Refusal :=
  .next (if s.heat.limited ∧ powerLimit s < pkgPower s ∧ 50 * msTicks ≤ since s s.heat.limitAt then
    raiseVec vecHeat (logEvent .POWER_LIMIT clsPart 0 0 (setBit Reg.thFlags 2 true s)) else s)

/-! ## Departure and resets (R432) -/

/-- Junctions and sensors of slot n's engine are removed; the laser step stays. -/
def heatDepart (n : Nat) (s : State) : State :=
  match cfgOf s n with
  | none => s
  | some c =>
    let p := c.slot.port
    let s1 := forAll (c.chmp.map (·.lc)) (fun k s => setReg (Reg.thChTj k) 0 (setReg (Reg.thChPower k) 0 s)) s
    showPin (modHeat (fun h => { h with
      tj := h.tj.filter fun x => c.chmp.all fun e => e.lc != x.1
      eng := h.eng.filter fun e => e.port != p
      crit := setNth h.crit n 0, trip := setNth h.trip n false, cool := setNth h.cool n 0
      ladders := setNth h.ladders n { (h.ladders[n]?).getD Ladder.init with overs := 0, under := 0 } }) s1)

/-- The laser ladder of slot n is removed (R432). -/
def dropLadder (n : Nat) (s : State) : State :=
  showPin (modHeat (fun h => { h with
    crit := setNth h.crit n 0, trip := setNth h.trip n false, cool := setNth h.cool n 0
    ladders := setNth h.ladders n Ladder.init }) s)

/-- Warm or watchdog reset (R432): steps stay in their registers, everything counted is cleared, the model restarts. -/
def heatWarm (s : State) : State :=
  modHeat (fun h => { HeatState.init .warm with
    diodes := h.diodes.map fun d => { d with dis := 0, agree := 0, suspect := false }, last := s.linkTime }) s

end Sys2Proof.Machine
end

