-- ==== Sys2Proof/Machine/Link.lean ====
section
/-! DEFINITION. Relium Link at the part's end (R301 to R334): detect, training and time transfer, identify, binding, heartbeats
and loss, quiesce, departure, and sense returns. -/

set_option Elab.async false

namespace Sys2Proof.Machine

/-- The port is powered and the part runs: links are brought up (R308, R447). -/
def portOn (s : State) (p : Nat) : Bool := inRunState s && !pdOff s (15 + p / 2)

/-- The link of port p takes a state; a change raises the port's vector (R308, R358). -/
def setLink (p st : Nat) (s : State) : State :=
  if linkState s p = st then s else raiseVec (24 + p) (setFld (Reg.epStatus p) 2 0 st s)

/-- A flag of EPn_FLAGS. -/
def epFlag (p i : Nat) (s : State) : State := setBit (Reg.epFlags p) i true s

/-! ## Departure and loss (R322, R331) -/

/-- LCn_CFG.BOUND of the channels of the slot on port p (R246). -/
def showBound (p : Nat) (b : Bool) (s : State) : State :=
  match (portAt s p).slot.bind (cfgOf s) with
  | none => s
  | some c => forAll (c.chmp.map (·.lc)) (fun k => setBit (Reg.lcCfg k) 31 b) s

/-- The engine of port p departs (R331). -/
def depart (p : Nat) (s : State) : State :=
  let s1 := match (portAt s p).slot with
    | some n => heatDepart n (enterIdle n (flushLines n (setParked n true (showBound p false s))))
    | none => s
  let s2 := setBit (Reg.epStatus p) 4 false (storeLinkLost p (loopsDepart p s1))
  let s3 := modPort p (fun q => { q with slot := none, drvBase := [], drvEvs := [], overs := 0, ceils := [] }) s2
  startGrace (engineParty p) (match (portAt s p).slot with
    | some n => showLoad n s3
    | none => s3)

/-- The presence pin is heard: the domain of the port has power, and the part is not in Doze or Park (R308, R322). -/
def portHears (s : State) (p : Nat) : Bool := upNow s && !pdOff s (15 + p / 2)

/-- Traffic on the downlink of port p stops (R322). -/
def stopTraffic (p : Nat) (s : State) : State :=
  modPort p (fun q => { q with wait := [], probes := 0, series := false, echoes := [] }) s

/-- The port enters Detect (R308): nothing of the link is kept. -/
def enterDetect (p : Nat) (s : State) : State :=
  setLink p lsDetect (setFld (Reg.epStatus p) 15 6 0 (modPort p (fun q => { q with
    trainStep := 0, echoes := [], series := false, probes := 0, wait := [], rxErr := 0, misses := 0, errs := [], engErrs := [], quiesce := none, identified := false
    rejected := false, bind := 0, minLead := 0 }) s))

/-- Lost is declared on port p for a cause (R322). In Detect and Lost there is nothing to lose. -/
def declareLost (p cause : Nat) (s : State) : State :=
  let st := linkState s p
  if st = lsDetect ∨ st = lsLost then s
  else
    let s1 := epFlag p 0 (incSat (Reg.epCntB p) 15 0 (setFld (Reg.epCause p) 3 0 cause s))
    let s2 := logEvent .LINK_LOST clsEngine p cause s1
    let s3 := if (slotOnPort s p).isSome then setFault 7 s2 else s2
    let leaves := decide (st = lsRun) || (decide (st = lsQuiesce) && (portAt s p).quiesce == some .rebind)
    let s4 := setLink p lsLost (lenDrop p 6 s3)
    let s5 := if leaves then depart p s4 else s4
    let s6 := match slotOnPort s p with
      | some n => containSlot n .engineLost (containsOff s n) s5
      | none => s5
    startGrace (engineParty p) (stopTraffic p (modPort p (fun q => { q with quiesce := none, bind := 0, identified := false }) s6))

/-- Lost with what it does to Dim (R464). -/
def lose (p cause : Nat) (s : State) : State := withDim (declareLost p cause) s

/-! ## Errors (R305) -/

/-- Discards at the part within the last millisecond. -/
def recentErrs (s : State) (p : Nat) : List LinkTime := (portAt s p).errs.filter fun t => decide (since s t < msTicks)

/-- A packet from the engine fails R305; 16 within 1 ms declare the link Lost. -/
def packetError (p : Nat) (s : State) : State :=
  let s1 := epFlag p 2 (incSat (Reg.epCntA p) 15 0 s)
  let l := s.linkTime :: recentErrs s p
  let s2 := modPort p (fun q => { q with errs := l, rxErr := q.rxErr + 1 }) s1
  if 16 ≤ l.length then lose p 4 s2 else s2

/-- The engine reports k packets that it has discarded. -/
def engineErrors (p k : Nat) (s : State) : State :=
  if k = 0 then s
  else
    let s1 := epFlag p 2 (addSat (Reg.epCntA p) 31 16 k s)
    let l := (s.linkTime, k) :: (portAt s p).engErrs.filter fun x => decide (since s x.1 < msTicks)
    let s2 := modPort p (fun q => { q with engErrs := l }) s1
    if 16 ≤ l.foldl (fun a x => a + x.2) 0 then lose p 4 s2 else s2

/-- PACKET_DISCARD: a bad header or packet CRC, or a flit that is neither data nor control, counts toward the threshold;
so does a binding that is not in force, which EPn_CNT_E counts too. A reserved type is only discarded (R306). -/
def packetDiscard (p : Nat) (why : DiscardWhy) (s : State) : State :=
  if linkState s p = lsDetect ∨ linkState s p = lsLost then s
  else match why with
    | .reservedType => incSat (Reg.epCntA p) 15 0 s
    | .bindId => packetError p (incSat (Reg.epCntE p) 15 0 s)
    | .hcrc | .crc | .mixedFlit => packetError p s

/-- PACKET_DISCARD. -/
def execPacketDiscard (p : Port) (why : DiscardWhy) (s : State) : Host.Outcome State Fault Refusal :=
  .next (whileUp (packetDiscard p.val why) s)

/-! ## The descriptor (R313 to R317) -/

/-- Length of the descriptor that is read: LEN where it can be one, else the header. -/
def descLen (s : State) (p : Nat) : Nat :=
  let n := descAt s p 6 2
  if 64 ≤ n ∧ n ≤ 16384 then n else 64

/-- Where the tables end (R314 to R316). -/
def descTablesEnd (s : State) (p : Nat) : Nat := descTemp s p (descAt s p 20 1)

/-- Bytes of the descriptor copy. -/
def descBytes_ (s : State) (p o n : Nat) : List Byte := (List.range n).map fun i => BitVec.ofNat 8 (descAt s p (o + i) 1)

/-- Writes bytes into the descriptor copy at a word-aligned address. -/
def putDesc (p addr : Nat) (d : List Byte) (s : State) : State :=
  setRegs ((List.range ((d.length + 3) / 4)).map fun i => (Reg.epDesc p (addr / 4 + i), BitVec.ofNat 32 (leAt d (4 * i) 4))) s

/-- The next read of Identify from address `at_` (R313): the descriptor in requests of at most 4,096 bytes, then the two
pages where the descriptor says it has them; false when nothing is left. -/
def identifyRead (p : Nat) (s : State) : State × Bool :=
  let a := (portAt s p).identNext
  let e := descLen s p
  if a = 0 then (descRequest p 0 64 none s, true)
  else if a < e then (descRequest p a (min 4096 (e - a)) none s, true)
  else if ¬ (descAt s p 21 1).testBit 0 then (s, false)
  else if a < 0x4000 ∨ a = e then (descRequest p 0x4000 2048 none (modPort p (fun q => { q with identNext := 0x4000 }) s), true)
  else if a = 0x4800 then (descRequest p 0x4800 2048 none s, true)
  else (s, false)

/-- The link enters Identify: the descriptor copy and pages are read anew (R313, R334). Heartbeats and their misses begin in a link
that comes from Train, and go on in one that comes from Quiesce (R321). -/
def enterIdentify (p : Nat) (s : State) : State :=
  let s1 := { s with regs := s.regs.clearRange (Reg.epDesc p 0) (Reg.epDesc p 0 + 0x4000) }
  let runs := beating s p
  let s2 := setLink p lsIdentify (modPort p (fun q => { q with
    identNext := 0, identified := false, rejected := false, pageA := [], pageB := [], quiesce := none, bind := 0
    misses := if runs then q.misses else 0, beat := if runs then q.beat else s.linkTime, rxErr := if runs then q.rxErr else 0 }) s1)
  (identifyRead p s2).1

/-! ## Binding (R318, R319) -/

/-- Check 1 of R318: MAGIC, LEN and CRC, and every count within R314. -/
def descWhole (s : State) (p : Nat) : Bool :=
  let n := descAt s p 6 2
  let d (o : Nat) : Nat := descAt s p o 1
  descBytes_ s p 0 4 == [0x52#8, 0x4C#8, 0x44#8, 0x53#8] && n % 4 == 0 && decide (n ≤ 16384) &&
    decide (1 ≤ d 16 ∧ d 16 ≤ 24) && (d 17 == 0 || d 17 == 2) && !(d 5 == 1 && d 17 != 0) && decide (d 18 ≤ 24) &&
    decide (d 19 ≤ 16) && decide (d 20 ≤ 32) && decide (descTablesEnd s p + 4 ≤ n) &&
    (crc32 (descBytes_ s p 0 (n - 4))).toNat == descAt s p (n - 4) 4

/-- The status of binding port p to a slot, OK for none that fails (R318). -/
def bindStatus (s : State) (p : Nat) (c : SlotCast) : Status :=
  let d (o n : Nat) : Nat := descAt s p o n
  let w := d 24 2
  let h := d 26 2
  if ¬ descWhole s p then .DESC_CORRUPT
  else if d 4 1 < c.slot.descRevMin then .BIND_REVISION
  else if d 5 1 ≠ c.slot.cls ∨ (c.slot.cls = 2 ∧ d 17 1 ≠ 2) then .BIND_CLASS
  else if w < c.slot.minW ∨ c.slot.maxW < w ∨ h < c.slot.minH ∨ c.slot.maxH < h ∨ w < c.slot.activeW ∨ h < c.slot.activeH then
    .BIND_GEOMETRY
  else if c.chmp.any fun e => decide (d 16 1 ≤ e.engCh) then .BIND_CHANNEL
  else if c.slot.cls = 2 ∧ (d (descAxis s p 0 + 1) 1 ≠ 0 ∨ axisFnom s p 0 < 18000000 ∨ 48000000 < axisFnom s p 0) then
    .BIND_AXIS
  else .OK

/-- The port tries to bind to the slot that the Cast declares on it (R318): BIND goes out, or the binding is rejected. -/
def tryBind (p : Nat) (s : State) : State :=
  let q := portAt s p
  match slotOnPort s p with
  | none => s
  | some n => match cfgOf s n with
    | none => s
    | some c =>
      if linkState s p ≠ lsIdentify ∨ ¬ q.identified ∨ q.rejected then s
      else
        let st := bindStatus s p c
        let s1 := setFld (Reg.epStatus p) 31 16 st.code (setLink p lsBind s)
        if st = .OK then
          let id := if rfld s (Reg.epBindId p) 15 0 = 65535 then 1 else rfld s (Reg.epBindId p) 15 0 + 1
          sendPkt p (.bind (BitVec.ofNat 16 id) n c.slot.cls) (setFld (Reg.epBindId p) 15 0 id s1)
        else
          logEvent .BIND_REJECT clsEngine p st.code (epFlag p 1
            (setLink p lsIdentify (modPort p (fun q => { q with rejected := true }) s1)))

/-- Everything of the engine has been read: SERIAL and DESC_CRC are shown, and binding is tried (R313). -/
def identifyDone (p : Nat) (s : State) : State :=
  let n := descAt s p 6 2
  let crc := if 68 ≤ n ∧ n ≤ 16384 then descAt s p (n - 4) 4 else 0
  let s1 := setRegs [(Reg.epSerialLo p, BitVec.ofNat 32 (descAt s p 8 4)), (Reg.epSerialHi p, BitVec.ofNat 32 (descAt s p 12 4)),
    (Reg.epDescCrc p, BitVec.ofNat 32 crc)] s
  showPages (tryBind p (modPort p (fun q => { q with identified := true }) s1))

/-- A read of Identify has been answered: bytes that did not come are zeros. -/
def identifyData (p addr len : Nat) (d : List Byte) (s : State) : State :=
  let b := (d ++ List.replicate len 0).take len
  let s1 :=
    if addr < 0x4000 then modPort p (fun q => { q with identNext := addr + len }) (putDesc p addr b s)
    else if addr = 0x4000 then modPort p (fun q => { q with pageA := b, identNext := 0x4800 }) s
    else modPort p (fun q => { q with pageB := b, identNext := 0x5000 }) s
  let r := identifyRead p s1
  if r.2 then r.1 else identifyDone p s1

/-- READ_DATA (R317): the response to an outstanding READ of the same tag and address. -/
def readData (p tag addr : Nat) (ok : Bool) (d : List Byte) (s : State) : State :=
  match (portAt s p).tags.find? fun t => t.tag == tag && !t.write && t.addr == addr with
  | none => s
  | some t =>
    let s1 := modPort p (fun q => { q with tags := q.tags.filter (· != t) }) s
    let d1 := if ok then d else []
    if linkState s p = lsIdentify ∧ ¬ (portAt s p).identified then identifyData p addr t.len d1 s1
    else storeRead p addr (ok && d.length == t.len) d1 s1

/-- READ_DATA. -/
def execReadData (p : Port) (tag : Byte) (addr : BitVec 16) (status : Byte) (data : List Byte) (s : State) :
    Host.Outcome State Fault Refusal :=
  .next (readData p.val tag.toNat addr.toNat (status == 0) data s)

/-- WRITE_DONE (R317): the response to an outstanding WRITE of the same tag. -/
def writeDone (p tag : Nat) (ok : Bool) (s : State) : State :=
  match (portAt s p).tags.find? fun t => t.tag == tag && t.write with
  | none => s
  | some t => storeWritten p ok (modPort p (fun q => { q with tags := q.tags.filter (· != t) }) s)

/-- WRITE_DONE. -/
def execWriteDone (p : Port) (tag : Byte) (status : Byte) (s : State) : Host.Outcome State Fault Refusal :=
  .next (writeDone p.val tag.toNat (status == 0) s)

/-- DESC_WRITE_TIMEOUT (R317): a WRITE has had no answer for 200 ms, and the page store ends with PAGE_VERIFY. -/
def execDescWriteTimeout (p : Port) (s : State) : Host.Outcome State Fault Refusal :=
  .next (if (portAt s p.val).tags.any (·.write) then
    let s1 := modPort p.val (fun q => { q with tags := q.tags.filter (!·.write) }) s
    match s1.page with
    | some g => if portOf s1 g.slot = p.val ∧ g.at_ = .writing then endStore .PAGE_VERIFY s1 else s1
    | none => s1
  else s)

/-- The light channels of a bound slot show the engine channels they drive (R240, R246). -/
def bindChans (p : Nat) (c : SlotCast) (s : State) : State :=
  c.chmp.foldl (fun s e => setReg (Reg.lcDrive e.lc) (at_ 31 16 (chRs s p e.engCh) ||| at_ 15 0 (chVf0 s p e.engCh))
    (setBit (Reg.lcCfg e.lc) 31 true s)) s

/-- Slot n and the engine on port p are bound: what R319 applies in the step of BIND_ACK. -/
def bindSlot (n p : Nat) (c : SlotCast) (s : State) : State :=
  let s1 := modPort p (fun q => { q with
    slot := some n, lastTEnd := 0, overs := 0, ceils := [], drvBase := [], drvEvs := []
    reboundSinceFault := true, bind := BitVec.ofNat 16 (rfld s (Reg.epBindId p) 15 0) }) s
  let s2 := setFld (Reg.epStatus p) 31 16 Status.OK.code (setBit (Reg.epStatus p) 4 true (setLink p lsRun s1))
  let s4 := calBind n p (computeTraj n (revalidate n (showLoad n (bindChans p c s2))))
  let s5 := setTarget n 0 (modSlot n (fun q => { q with supply := { q.supply with frozen := false } }) s4)
  lenTry p (loopsBind p (enterAcquire n (setParked n false s5)))

/-- BIND_ACK. -/
def bindAck (p : Nat) (id : BitVec 16) (s : State) : State :=
  if linkState s p ≠ lsBind ∨ id.toNat ≠ rfld s (Reg.epBindId p) 15 0 then s
  else match slotOnPort s p with
    | none => s
    | some n => match cfgOf s n with
      | none => s
      | some c => bindSlot n p c s

/-- BIND_ACK. -/
def execBindAck (p : Port) (bindId : BitVec 16) (s : State) : Host.Outcome State Fault Refusal :=
  .next (withDim (bindAck p.val bindId) s)

/-- BIND_TIMEOUT (R319). -/
def execBindTimeout (p : Port) (s : State) : Host.Outcome State Fault Refusal :=
  .next (if linkState s p.val = lsBind then lose p.val 6 s else s)

/-! ## Detect and Train (R309 to R312) -/

/-- DETECT_COMPLETE: presence has held for 10 ms of Detect. -/
def detectComplete (p : Nat) (s : State) : State :=
  if ¬ portOn s p ∨ linkState s p ≠ lsDetect ∨ rbit s (Reg.epStatus p) 3 then s
  else
    emit (.ctl p (.train 1 0)) (setLink p lsTrain (setBit (Reg.epStatus p) 5 true
      (modPort p (fun q => { q with trainStep := 1, echoes := [], series := false }) s)))

/-- DETECT_COMPLETE. -/
def execDetectComplete (p : Port) (s : State) : Host.Outcome State Fault Refusal := .next (detectComplete p.val s)

/-- A probe series of 16 TIME_PROBE packets starts (R310, R311): the first goes now, the others 10 µs after one another. -/
def startSeries (p : Nat) (s : State) : State :=
  sendPkt p .timeProbe (modPort p (fun q => { q with
    series := true, echoes := [], probes := 15, probeT := s.linkTime + BitVec.ofNat 64 probeTicks }) s)

/-- TRAIN_FLIT: step 2 of the engine says which downlink lanes it has locked; with all of them the part marks its uplink
lanes locked and begins the time transfer (R310). -/
def trainFlit (p step lanes : Nat) (s : State) : State :=
  if linkState s p ≠ lsTrain ∨ step ≠ 2 then s
  else
    let s1 := setFld (Reg.epStatus p) 15 8 lanes (setFld (Reg.epStatus p) 7 6 3 s)
    if lanes = 255 ∧ (portAt s p).trainStep < 4 then
      startSeries p (emit (.ctl p .align) (emit (.ctl p (.train 3 3)) (modPort p (fun q => { q with trainStep := 4 }) s1)))
    else s1

/-- TRAIN_FLIT. -/
def execTrainFlit (p : Port) (step lanes : Byte) (s : State) : Host.Outcome State Fault Refusal :=
  .next (trainFlit p.val step.toNat lanes.toNat s)

/-- TRAIN_TIMEOUT: 50 ms have not sufficed; the third failure in a row holds the port in Detect (R309, R310). -/
def trainTimeout (p : Nat) (s : State) : State :=
  if linkState s p ≠ lsTrain then s
  else
    let k := (portAt s p).trainFails + 1
    let s1 := epFlag p 3 (incSat (Reg.epCntC p) 31 16 s)
    let s2 := enterDetect p (modPort p (fun q => { q with trainFails := k }) s1)
    if 3 ≤ k then setBit (Reg.epStatus p) 3 true s2 else s2

/-- TRAIN_TIMEOUT. -/
def execTrainTimeout (p : Port) (s : State) : Host.Outcome State Fault Refusal := .next (trainTimeout p.val s)

/-- Sorted insertion of an integer. -/
def insertInt (x : Int) : List Int → List Int
  | [] => [x]
  | y :: r => if x ≤ y then x :: y :: r else y :: insertInt x r

/-- D from the 16 differences of a series (R311): half the median, which lies between the two middle ones, rounded half up. -/
def medianDelay (l : List Int) : Int :=
  let v := l.foldl (fun a x => insertInt x a) []
  divHalfUp ((v[7]?).getD 0 + (v[8]?).getD 0) 4

/-- LEAD of R312. -/
def leadOf (d minLead : Nat) : Nat := ceilDiv d 16 + minLead + 1100

/-- TFn_HORIZON of the slot on port p is not below the lead plus 640 (R80). -/
def raiseHorizon (p : Nat) (s : State) : State :=
  match slotOnPort s p with
  | some n => setFld (Reg.tfHorizon n) 15 0 (max (rfld s (Reg.tfHorizon n) 15 0) (min 65535 (rfld s (Reg.epLead p) 15 0 + 640))) s
  | none => s

/-- Shows LEAD for the delay and MIN_LEAD in force; TFn_HORIZON follows it (R80). -/
def showLead (p : Nat) (s : State) : State :=
  raiseHorizon p (setFld (Reg.epLead p) 15 0 (min 65535 (leadOf (rfld s (Reg.epDelay p) 23 0) (portAt s p).minLead)) s)

/-- A new D comes into force and TIME_SET goes out: T is its departure time plus D. -/
def timeSet (p : Nat) (d : Int) (s : State) : State :=
  sendPkt p (.timeSet (BitVec.ofInt 64 d)) (setFld (Reg.epDelay p) 23 0 (unsigned 24 d) s)

/-- TIME_ECHO: one difference of the series under way, and at the sixteenth its outcome (R311). -/
def timeEcho (p : Nat) (t1 t2 t3 t4 : BitVec 64) (s : State) : State :=
  let q := portAt s p
  if ¬ q.series ∨ (linkState s p ≠ lsTrain ∧ linkState s p ≠ lsRun) then s
  else
    let l := q.echoes ++ [(t4 - t1).toInt - (t3 - t2).toInt]
    if l.length < 16 then modPort p (fun q => { q with echoes := l }) s
    else
      let s1 := modPort p (fun q => { q with echoes := [], series := false }) s
      let d := medianDelay l
      if linkState s p = lsTrain then timeSet p d s1
      else
        let diff := (d - (rfld s (Reg.epDelay p) 23 0 : Int)).natAbs
        if 64 < diff then lose p 5 s1
        else if 2 < diff then showLead p (timeSet p d s1)
        else s1

/-- TIME_ECHO. -/
def execTimeEcho (p : Port) (t1 t2 t3 t4 : BitVec 64) (s : State) : Host.Outcome State Fault Refusal :=
  .next (timeEcho p.val t1 t2 t3 t4 s)

/-- TIME_ACK: the engine has loaded its link time. In Train the link goes on to Identify (R310, R312). -/
def timeAck (p : Nat) (minLead : Nat) (s : State) : State :=
  let st := linkState s p
  if st = lsTrain ∧ (portAt s p).trainStep = 4 ∧ ¬ (portAt s p).series then
    enterIdentify p (showLead p (modPort p (fun q => { q with minLead := minLead, trainFails := 0, trainStep := 5 }) s))
  else if st = lsRun then showLead p (modPort p (fun q => { q with minLead := minLead }) s)
  else s

/-- TIME_ACK. -/
def execTimeAck (p : Port) (minLead : BitVec 16) (s : State) : Host.Outcome State Fault Refusal :=
  .next (whileUp (timeAck p.val minLead.toNat) s)

/-- A probe series begins in Run, unless probes of one are still to be sent; echoes that an older one still awaits are lost (R311). -/
def probeNow (p : Nat) (s : State) : State :=
  if linkState s p = lsRun ∧ (portAt s p).probes = 0 then startSeries p s else s

/-- PROBE_SERIES_TIMER (R311): every 10 ms in Run. -/
def execProbeSeriesTimer (p : Port) (s : State) : Host.Outcome State Fault Refusal := .next (whileUp (probeNow p.val) s)

/-! ## Presence -/

/-- PRESENCE_LOST: the pin has been deasserted for 2 µs (R322). -/
def execPresenceLost (p : Port) (s : State) : Host.Outcome State Fault Refusal :=
  .next (if portHears s p.val then lose p.val 1 (setBit (Reg.epStatus p.val) 5 false s) else s)

/-- A binding that was rejected is tried again (R318). -/
def retryBind (p : Nat) (s : State) : State :=
  if linkState s p = lsIdentify ∧ (portAt s p).rejected then tryBind p (modPort p (fun q => { q with rejected := false }) s) else s

/-- A Detect hold ends (R309); the count of failures starts again. -/
def endHold (p : Nat) (s : State) : State :=
  if rbit s (Reg.epStatus p) 3 then
    setBit (Reg.epStatus p) 3 false (modPort p (fun q => { q with trainFails := 0 }) s) else s

/-- PRESENCE_ASSERTED: the pin has deasserted and asserts again (R309, R318). -/
def execPresenceAsserted (p : Port) (s : State) : Host.Outcome State Fault Refusal :=
  .next (if portHears s p.val then retryBind p.val (endHold p.val (setBit (Reg.epStatus p.val) 5 true s)) else s)

/-! ## Heartbeats (R320 to R322) -/

/-- HEARTBEAT: an intact heartbeat ends a run of misses; its state must be the part's, which comes before what it says of errors
(R322). In Run the engine's discards are taken from its sense returns (R305), which report the same packets (log entry 82). -/
def heartbeat (p state rxErr : Nat) (s : State) : State :=
  if ¬ beating s p then s
  else
    let s1 := modPort p (fun q => { q with misses := 0 }) s
    if state ≠ linkState s p then lose p 3 s1
    else if linkState s p = lsRun then s1
    else engineErrors p rxErr s1

/-- HEARTBEAT. -/
def execHeartbeat (p : Port) (_t : LinkTime) (state : Byte) (_bindId rxErr : BitVec 16) (s : State) :
    Host.Outcome State Fault Refusal :=
  .next (whileUp (heartbeat p.val state.toNat rxErr.toNat) s)

/-- HEARTBEAT_MISS: 5 µs without an intact heartbeat; the fourth in a row declares Lost. -/
def heartbeatMiss (p : Nat) (s : State) : State :=
  if ¬ beating s p then s
  else
    let k := (portAt s p).misses + 1
    let s1 := incSat (Reg.epCntB p) 31 16 (modPort p (fun q => { q with misses := k }) s)
    if 4 ≤ k then lose p 2 s1 else s1

/-- HEARTBEAT_MISS. -/
def execHeartbeatMiss (p : Port) (s : State) : Host.Outcome State Fault Refusal := .next (whileUp (heartbeatMiss p.val) s)

/-- LOST_HOLD_END: 2 ms of Lost have passed (R322). -/
def execLostHoldEnd (p : Port) (s : State) : Host.Outcome State Fault Refusal :=
  .next (if linkState s p.val = lsLost then enterDetect p.val s else s)

/-! ## Quiesce (R323, R331) -/

/-- The link of port p is quiesced (R323): LEN_n deasserted, one OFF, QUIESCE. Leaving Run without a rebind is a departure
(R331). It acts in Identify, Bind and Run. -/
def quiesce (p : Nat) (why : QuiesceWhy) (cause : Nat) (s : State) : State :=
  let st := linkState s p
  if st ≠ lsIdentify ∧ st ≠ lsBind ∧ st ≠ lsRun then s
  else
    let s1 := if lenPin s p then lenDrop p cause s else issueOff p (ts40 (soonest s p)) s
    let s2 := sendPkt p .quiesce (modPort p (fun q => { q with quiesce := some why, series := false, probes := 0 }) s1)
    let s3 := setLink p lsQuiesce s2
    if st ≠ lsRun then s3 else if why = .rebind then storeLinkLost p s3 else depart p s3

/-- The engine has answered, or left (R323, R451). A part that enters Doze or Park stops the link. The slot that was bound has no
load until it is bound again (R191). -/
def quiesced (p : Nat) (s : State) : State :=
  let q := portAt s p
  let s0 := setBit (Reg.epStatus p) 4 false (modPort p (fun q => { q with slot := none, quiesce := none }) (showBound p false s))
  let s1 := match q.slot with
    | some n => showLoad n s0
    | none => s0
  match q.quiesce with
  | some .stop | some .engineReset => enterDetect p s1
  | _ => enterIdentify p s1

/-- QUIESCE_ACK. -/
def execQuiesceAck (p : Port) (s : State) : Host.Outcome State Fault Refusal :=
  .next (if linkState s p.val = lsQuiesce then quiesced p.val s else s)

/-- QUIESCE_TIMEOUT (R322). -/
def execQuiesceTimeout (p : Port) (s : State) : Host.Outcome State Fault Refusal :=
  .next (if linkState s p.val = lsQuiesce then lose p.val 6 s else s)

/-- LEAVE: in Quiesce it is the answer; elsewhere the link is Lost (R323, R333). -/
def execLeave (p : Port) (_reason : Byte) (s : State) : Host.Outcome State Fault Refusal :=
  .next (whileUp (fun s =>
    if linkState s p.val = lsQuiesce then quiesced p.val s else lose p.val 7 s) s)

/-- A write of EPn_CTRL: QUIESCE, RETRY and PROBE act (R309, R311, R318, R323). -/
def epCtrl (p : Nat) (v : Word) (s : State) : State :=
  let s1 := if bit v 1 then retryBind p (endHold p s) else s
  let s2 := if bit v 0 then probeNow p s1 else s1
  if bit v 2 then withDim (quiesce p .host 6) s2 else s2

/-- QUIESCE. -/
def execQuiesce (p : Port) (v : Word) (s : State) : Host.Outcome State Fault Refusal :=
  .next (hostWrite (Reg.epCtrl p.val) v (epCtrl p.val) s)

/-- RETRY. -/
def execRetry (p : Port) (v : Word) (s : State) : Host.Outcome State Fault Refusal :=
  .next (hostWrite (Reg.epCtrl p.val) v (epCtrl p.val) s)

/-- PROBE. -/
def execProbe (p : Port) (v : Word) (s : State) : Host.Outcome State Fault Refusal :=
  .next (hostWrite (Reg.epCtrl p.val) v (epCtrl p.val) s)

/-! ## Sense returns (R328, R329) -/

/-- A sense return meets none of the conditions of R329. -/
def senseOk (s : State) (p : Nat) (k : SensePkt) : Bool :=
  let dt := k.tEnd.toNat - k.tStart.toNat
  let ns := descAt s p 36 2
  k.intact && decide (linkState s p = lsRun) && decide ((portAt s p).lastTEnd.toNat ≤ k.tStart.toNat) &&
    decide (k.tStart.toNat ≤ k.tEnd.toNat) && decide (16 * ns ≤ 10 * dt) && decide (5 * dt ≤ 32 * ns) &&
    decide (k.pds.length = descAt s p 18 1 ∧ k.curs.length = descAt s p 16 1 ∧ k.temps.length = descAt s p 20 1)

/-- The CEIL of engine channel ch, which light channel lc drives: the one last sent, or F_CEIL where none was (R231, R238). -/
def ceilOf (s : State) (p ch lc : Nat) : Nat :=
  (((portAt s p).ceils.lookup ch).getD (BitVec.ofNat 16 (rfld s (Reg.lcCeil lc) 31 16))).toNat

/-- Channels of the port's slot above 1.05 × CEIL plus some thousandths of their maximum, as bits: 5 for a laser fault (R238), 0 for
LCn_FLAGS.OVERCUR (R246). -/
def overChans (s : State) (p : Nat) (k : SensePkt) (slack : Nat) : BitVec 24 :=
  let chmp := (((slotOnPort s p).bind (cfgOf s)).map (·.chmp)).getD []
  k.curs.foldl (fun a x =>
    match chmp.find? fun e => e.engCh == x.1.toNat with
    | some e => if 1050 * ceilOf s p e.engCh e.lc + slack * 65535 < x.2.toNat * 1000 then a ||| (1#24 <<< x.1.toNat) else a
    | none => a) 0

/-- LC channels of slot n whose engine channel has its bit set. -/
def chansOf (s : State) (n : Nat) (m : BitVec 24) : List Nat :=
  match cfgOf s n with
  | some c => (c.chmp.filter fun e => m.getLsbD e.engCh).map (·.lc)
  | none => []

/-- A laser fault on port p (R238). The engine departs as it does when it is Lost, so that what R331 holds for it is there
to be seized when grace ends (R466): its link is quiesced at once, and Detect follows (R467). -/
def engineLaserFault (p code : Nat) (chans : List Nat) (s : State) : State :=
  let s1 := laserFault p code chans s
  if linkState s1 p = lsRun then quiesce p .engineReset code s1 else s1

/-- A laser fault that the engine of port p reports, or shows by its currents. -/
def senseFault (p code : Nat) (m : BitVec 24) (s : State) : State :=
  withDim (fun s => engineLaserFault p code (((slotOnPort s p).map fun n => chansOf s n m).getD []) s) s

/-- A sense return that is accepted. -/
def senseTake (p : Nat) (k : SensePkt) (s : State) : State :=
  let q := portAt s p
  let overs := overChans s p k 5
  let since := if q.lastTEnd != 0 && k.tStart != q.lastTEnd then some (q.lastTEnd.toNat * 16) else none
  let s1 := modPort p (fun q => { q with lastTEnd := k.tEnd, overs := overs }) s
  let s2 := addSat (Reg.epCntD p) 31 16 k.planeInc.toNat (addSat (Reg.epCntC p) 15 0 k.lateCmd.toNat s1)
  let s3 := if k.lateCmd ≠ 0 ∨ bit k.status 5 then epFlag p 4 s2 else s2
  let s4 := k.temps.foldl (fun s x => senseTemp p x.1.toNat x.2.toInt s) s3
  let s5 := match slotOnPort s p with
    | some n => match cfgOf s n with
      | some c => senseRows p n k c since (setReg (Reg.lsMeas n) (BitVec.ofNat 32 k.vMeas.toNat) s4)
      | none => s4
    | none => s4
  let s5' := match slotOnPort s p with
    | some n => forAll (chansOf s n (overChans s p k 0)) (fun k s => setBit (Reg.lcFlags k) 1 true s) s5
    | none => s5
  let s6 := (fun s => if bit k.status 0 then senseFault p 1 0xFFFFFF s else s) (loopsSense p k s5')
  let s7 := if overs &&& q.overs ≠ 0 then senseFault p 2 (overs &&& q.overs) s6 else s6
  engineErrors p k.dlCrc.toNat s7

/-- A sense return that is rejected (R329): a laser fault still acts, unless the CRC failed. One that fails R305 with its CRCs in order
names a binding that is not in force, which EPn_CNT_E counts. -/
def senseReject (p : Nat) (k : SensePkt) (s : State) : State :=
  let s1 := epFlag p 5 (incSat (Reg.epCntD p) 15 0 s)
  let s2 := match (portAt s p).slot with
    | some n => senseLost n k s1
    | none => s1
  let s3 := if k.intact then s2 else packetError p (if k.crcOk then incSat (Reg.epCntE p) 15 0 s2 else s2)
  if bit k.status 0 && k.crcOk then senseFault p 1 0xFFFFFF s3 else s3

/-- SENSE. Only a return that is accepted reaches calibration, the heat ledger and the loops (R20). A port in Detect or Lost hears
nothing. -/
def execSense (p : Port) (k : SensePkt) (s : State) : Host.Outcome State Fault Refusal :=
  .next (whileUp (fun s => if linkState s p.val = lsDetect ∨ linkState s p.val = lsLost then s
    else if senseOk s p.val k then senseTake p.val k s else senseReject p.val k s) s)

/-- The laser supply of slot n measured above VMAX + 300 mV for 10 µs (R238 code 3, R245). -/
def supplyOverv (n mv : Nat) (s : State) : State :=
  match cfgOf s n with
  | none => s
  | some c =>
    if c.supply.vmax + 300 < mv then
      withDim (fun s => engineLaserFault c.slot.port 3 (c.chmp.map (·.lc))
        (modSlot n (fun q => { q with supply := { q.supply with frozen := true } }) (setBit (Reg.lsFlags n) 0 true s))) s
    else s

/-- LASER_SUPPLY_OVERV. -/
def execLaserSupplyOverv (n : Slot) (mv : BitVec 16) (s : State) : Host.Outcome State Fault Refusal :=
  .next (supplyOverv n.val mv.toNat s)

end Sys2Proof.Machine
end

