-- ==== Sys2Proof/Machine/Sensor.lean ====
section
/-! DEFINITION. The sensor bridge (R335 to R354): camera receivers and their two paths, object lists and the mask pitches
they drive, CAN FD buses, and the inertial measurement unit. -/

set_option Elab.async false

namespace Sys2Proof.Machine

/-- The sensor bridge is powered: PD6 is on and the part is not in Doze, nor entering or leaving it (R18, R352, R446). -/
def bridgeOn (s : State) : Bool := awake s && !pdOff s 6

/-- The CAN FD controllers are powered too: with PD7 Off they are absent (R40). -/
def canOn (s : State) : Bool := bridgeOn s && !pdOff s 7

/-- The sensor-bridge vector, and that of camera c (R358). -/
def vecBridge : Nat := 13
def vecCam (c : Nat) : Nat := 14 + c

/-! ## Object table and mask pitches (R345 to R347) -/

/-- Changes the object table. -/
def modObjs (f : List ObjEnt → List ObjEnt) (s : State) : State := { s with sb := { s.sb with objs := f s.sb.objs } }

/-- Shows USED, and MAPPED of every declared slot. -/
def showObjs (s : State) : State :=
  forAll (declaredSlots s) (fun n s =>
    setFld (Reg.sbSlot n + 0x14) 15 0 (s.sb.objs.filter fun o => o.pitches.any fun p => p.1 == n).length s)
    (setFld Reg.sbObjCnt 31 22 s.sb.objs.length s)

/-- EN of a bridge mask becomes 0 in both copies (R346). -/
def releaseMask (p : Nat) (s : State) : State :=
  setActW p 0 (actW s p 0 &&& ~~~0x08000000#32) (setPendW p 0 (pendW s p 0 &&& ~~~0x08000000#32) s)

/-- A pitch that an object holds still stands as its mask: TYPE 3, OWNER 1, EN 1. -/
def maskHeld (s : State) (p : Nat) : Bool :=
  let h := pendW s p 0
  hdrType h == tyMask && hdrOwner h && hdrEn h

/-- Pitch x.2 of slot x.1 stands for an object still: it is declared, and it stands as a mask of the bridge. -/
def pitchKept (s : State) (x : Nat × Nat) : Bool :=
  match cfgOf s x.1 with
  | some c => (generalPitches c).contains x.2 && maskHeld s x.2
  | none => false

/-- Objects lose pitches that the host has disabled or a recast has taken (R346, R352). -/
def syncPitches (s : State) : State :=
  showObjs (modObjs (fun os => os.map fun o => { o with pitches := o.pitches.filter (pitchKept s) }) s)

/-- The bridge pool of slot n: pitches it may take (R346). -/
def bridgePool (s : State) (n : Nat) (c : SlotCast) : List Nat :=
  let w := reg s (Reg.sbSlot n + 0x10)
  ((List.range (fld w 27 16)).map (fld w 11 0 + ·)).filter fun p => (generalPitches c).contains p

/-- The lowest pitch of the pool that stands free. -/
def freePitchOf (s : State) (n : Nat) (c : SlotCast) : Option Nat :=
  (bridgePool s n c).find? fun p =>
    let h := pendW s p 0
    hdrType h == tyMask && hdrOwner h && !hdrEn h

/-- A number that a field of 16 bits holds; a larger one leaves the field open (R347 states no result; log entry 41). -/
def fit16 (x : Nat) (s : State) : Nat × State :=
  if x < 65536 then (x, s)
  else
    let f := takeFree s
    (fld f.1 15 0, f.2)

/-- Words W1 to W10 of the mask of an object in slot n (R347). -/
def maskWords (n : Nat) (o : ObjEnt) (s : State) : List Word × State :=
  let b := Reg.sbSlot n
  let x0 := signed 16 (rfld s b 31 16)
  let gx := signed 16 (rfld s b 15 0)
  let y0 := signed 16 (rfld s (b + 4) 31 16)
  let gy := signed 16 (rfld s (b + 4) 15 0)
  let m := reg s (b + 8)
  let grow := fld m 23 16
  let i32 (x : Int) : Word := BitVec.ofInt 32 x
  let hw := fit16 ((divRound ((o.haz * gx.natAbs : Nat) : Int) 4096).toNat + grow) s
  let hh := fit16 ((divRound ((o.hel * gy.natAbs : Nat) : Int) 4096).toNat + grow) hw.2
  ([i32 (x0 * 256 + divRound (o.az * gx) 256), i32 (y0 * 256 + divRound (o.el * gy) 256),
    i32 (divRound (2 * o.vaz * gx) 256), i32 (divRound (2 * o.vel * gy) 256),
    at_ 31 16 hh.1 ||| at_ 15 0 hw.1, at_ 31 24 (fld m 31 24) ||| at_ 15 0 (fld m 15 0),
    o.t0.setWidth 32, (o.t0 >>> 32).setWidth 32, reg s (b + 0xC), at_ 31 16 o.src ||| at_ 15 0 o.id], hh.2)

/-- The indivisible update of a mask pitch: W1 to W10 of both copies, then EN (R114, R346). -/
def writeMask (n p : Nat) (o : ObjEnt) (s : State) : State :=
  let r := maskWords n o s
  let s1 := forAll (List.range 10) (fun i s =>
    let v := (r.1[i]?).getD 0
    setActW p (i + 1) v (setPendW p (i + 1) v s)) r.2
  let h := pendW s1 p 0 ||| 0x08000000
  setActW p 0 h (setPendW p 0 h s1)

/-- The mask of an object in slot n follows the object: updated, taken, or released (R346). -/
def placeObj (n : Nat) (o : ObjEnt) (s : State) : ObjEnt × State :=
  match cfgOf s n with
  | none => (o, s)
  | some c =>
    if o.slots / 2 ^ n % 2 = 1 then
      match o.pitches.lookup n with
      | some p => (o, writeMask n p o s)
      | none =>
        match freePitchOf s n c with
        | none => (o, incSat (Reg.sbSlot n + 0x14) 31 16 s)
        | some p =>
          if c.pipe.maskMax < masksAfter s c p (pendW s p 0 ||| 0x08000000) then
            (o, incSat (Reg.sbSlot n + 0x14) 31 16 (setBit (pxErr s n) 2 true s))
          else ({ o with pitches := o.pitches ++ [(n, p)] }, writeMask n p o s)
    else
      match o.pitches.lookup n with
      | some p => ({ o with pitches := o.pitches.filter fun x => x.1 != n }, releaseMask p s)
      | none => (o, s)

/-- Places an object in every slot and keeps it in the table. -/
def updateObj (o : ObjEnt) (s : State) : State :=
  let r := (List.range 8).foldl (fun (a : ObjEnt × State) n => placeObj n a.1 a.2) (o, s)
  let same (x : ObjEnt) : Bool := x.src == o.src && x.id == o.id
  if r.2.sb.objs.any same then modObjs (fun os => os.map fun x => if same x then r.1 else x) r.2
  else modObjs (fun os => os ++ [r.1]) r.2

/-- Removes an object and releases its pitches. -/
def removeObj (src id : Nat) (s : State) : State :=
  match s.sb.objs.find? fun o => o.src == src && o.id == id with
  | none => s
  | some o => modObjs (fun os => os.filter fun x => !(x.src == src && x.id == id))
      (forAll (o.pitches.map (·.2)) releaseMask s)

/-- One record of a list (R343, R345). -/
def applyRecord (src : Nat) (t0 : BitVec 64) (r : List Byte) (s : State) : State :=
  let id := leAt r 0 2
  let i16 (o : Nat) : Int := signed 16 (leAt r o 2)
  if byteAt r 2 % 2 = 1 then removeObj src id s
  else
    let old := s.sb.objs.find? fun o => o.src == src && o.id == id
    if old.isNone ∧ 512 ≤ s.sb.objs.length then incSat Reg.sbObjCnt 10 0 s
    else
      updateObj { src := src, id := id, slots := byteAt r 3, az := i16 4, el := i16 6, haz := leAt r 8 2, hel := leAt r 10 2,
                  vaz := i16 12, vel := i16 14, t0 := t0, pitches := (old.map (·.pitches)).getD [] } s

/-- A discarded list. -/
def badList (s : State) : State := incSat Reg.sbObjCnt 21 11 s

/-- A list of a source as it stands in bytes, with its T_REF (R343 to R345); true where it is accepted. -/
def acceptList (src : Nat) (b : List Byte) (tRef : BitVec 64) (s : State) : Bool × State :=
  let cnt := byteAt b 6
  let seq := leAt b 4 2
  let fresh : Bool := match s.sb.seqs.lookup src with
    | none => true
    | some x => decide (1 ≤ (seq + 65536 - x) % 65536 ∧ (seq + 65536 - x) % 65536 ≤ 32767)
  if leAt b 0 4 ≠ 0x4C4F4253 ∨ 64 < cnt ∨ b.length < 16 + 16 * cnt ∨ fresh = false then (false, badList s)
  else
    let t0 := tRef - BitVec.ofNat 64 (leAt b 8 4 * usTicks)
    let recs := (List.range cnt).map fun i => (b.drop (16 + 16 * i)).take 16
    let s1 := { s with sb := { s.sb with seqs := (src, seq) :: s.sb.seqs.filter fun x => x.1 != src } }
    let s2 := recs.foldl (fun s r => applyRecord src t0 r s) s1
    let named := recs.map fun r => leAt r 0 2
    let gone := if byteAt b 7 % 2 = 1 then
        (s2.sb.objs.filter fun o => o.src == src && !named.contains o.id).map (·.id) else []
    (true, showObjs (forAll gone (removeObj src) s2))

/-- The TTL of an object in slot n has passed (R346). -/
def ttlPassed (s : State) (n : Nat) (o : ObjEnt) : Bool :=
  let ttl := rfld s (Reg.sbSlot n + 0xC) 31 16
  decide (0 < ttl ∧ ((ttl * msTicks : Nat) : Int) < (s.linkTime - o.t0).toInt)

/-- Masks whose TTL has passed are released at a frame boundary of slot n; objects passed in every routed slot go (R346). -/
def ttlBoundary (n : Nat) (s : State) : State :=
  let due := s.sb.objs.filter fun o => o.slots / 2 ^ n % 2 == 1 && ttlPassed s n o
  if due.isEmpty then s
  else
    let s1 := due.foldl (fun s o =>
      match o.pitches.lookup n with
      | some p => modObjs (fun os => os.map fun x =>
          if x.src == o.src && x.id == o.id then { x with pitches := x.pitches.filter fun y => y.1 != n } else x) (releaseMask p s)
      | none => s) s
    let dead := due.filter fun o => (declaredSlots s).all fun m => o.slots / 2 ^ m % 2 == 0 || ttlPassed s m o
    showObjs (dead.foldl (fun s o => removeObj o.src o.id s) s1)

/-! ## Object lists from the window and from CAN FD (R344) -/

/-- OBJ_LIST_WINDOW: a block handed to owner SENSOR, id 0x100. -/
def objListWindow (b : Nat) (s : State) : State :=
  if ¬ bridgeOn s ∨ tallyClass s b ≠ tSensor ∨ tallyId s b ≠ objId then s
  else
    let d := dramRead s (b * 65536) (16 + 16 + 64 * 16)
    let r := acceptList 0 (d.drop 16) (BitVec.ofNat 64 (leAt d 0 8)) s
    raiseVec vecBridge (handBack tSensor objId b r.2)

/-- OBJ_LIST_WINDOW. -/
def execObjListWindow (block : BitVec 12) (s : State) : Host.Outcome State Fault Refusal :=
  .next (objListWindow block.toNat s)

/-- The list being assembled on a bus. -/
def canAt (s : State) (b : Nat) : Option CanAsm := (s.sb.cans[b]?).getD none

/-- Changes the list being assembled on a bus. -/
def setCan (b : Nat) (a : Option CanAsm) (s : State) : State :=
  if h : b < 2 then { s with sb := { s.sb with cans := s.sb.cans.set b a } } else s

/-- An incomplete list of a bus is discarded. -/
def dropCan (b : Nat) (s : State) : State := if (canAt s b).isSome then badList (setCan b none s) else s

/-- A list that has taken another frame: complete, hopeless, or still open (R344). -/
def stepCan (b : Nat) (a : CanAsm) (s : State) : State :=
  let cnt := byteAt a.bytes 6
  if 64 < cnt then badList (setCan b none s)
  else if 16 + 16 * cnt ≤ a.bytes.length then
    let r := acceptList (1 + b) a.bytes a.t0 (setCan b none s)
    if r.1 then incSat (Reg.sbCanStat b) 13 0 r.2 else r.2
  else setCan b (some a) s

/-- More than 5 ms of link time have passed at t since the last frame of the list being assembled (R344). -/
def canLate (a : CanAsm) (t : LinkTime) : Bool := decide (((5 * msTicks : Nat) : Int) < (t - a.last).toInt)

/-- A list whose next frame has not come in time by t is discarded (R345). -/
def canExpire (b : Nat) (t : LinkTime) (s : State) : State :=
  match canAt s b with
  | some a => if canLate a t then dropCan b s else s
  | none => s

/-- CAN_FRAME. -/
def canFrame (b : Nat) (xtd : Bool) (id : Nat) (d : List Byte) (t : LinkTime) (s : State) : State :=
  let cfg := reg s (Reg.sbCan b)
  let base := fld cfg 28 0
  if ¬ canOn s ∨ ¬ bit cfg 31 ∨ rfld s (Reg.sbCanStat b) 31 30 = 2 ∨ bit cfg 29 ≠ xtd ∨ d.length ≠ 64 ∨ id < base ∨
      base + 16 < id then s
  else
    let k := id - base
    let s := canExpire b t s
    if k = 0 then stepCan b { bytes := d, next := 1, t0 := t, last := t } (dropCan b s)
    else match canAt s b with
      | none => s
      | some a => if a.next = k then stepCan b { a with bytes := a.bytes ++ d, next := k + 1, last := t } s else dropCan b s

/-- CAN_FRAME. -/
def execCanFrame (b : CanBus) (xtd : Bool) (id : BitVec 29) (data : List Byte) (t : LinkTime) (s : State) :
    Host.Outcome State Fault Refusal :=
  .next (canFrame b.val xtd id.toNat data t s)

/-- CAN_LIST_TIMEOUT: a frame of the list did not come within 5 ms (R344, R345). -/
def execCanListTimeout (b : CanBus) (s : State) : Host.Outcome State Fault Refusal := .next (canExpire b.val s.linkTime s)

/-- CAN_BUS_OFF (R352). -/
def execCanBusOff (b : CanBus) (s : State) : Host.Outcome State Fault Refusal :=
  .next (if canOn s then setFld (Reg.sbCanStat b.val) 31 30 2 (dropCan b.val s) else s)

/-- CAN_BUS_OFF_RECOVERY: 128 × 11 recessive bits have passed; the controller is error active with its error counters at 0,
as ISO 11898-1 has it (R352, R353). -/
def execCanBusOffRecovery (b : CanBus) (s : State) : Host.Outcome State Fault Refusal :=
  .next (if canOn s ∧ rfld s (Reg.sbCanStat b.val) 31 30 = 2 then setFld (Reg.sbCanStat b.val) 31 14 0 s else s)

/-! ## Camera receivers (R335 to R342) -/

/-- Bytes of an image line of camera c (R335). -/
def lineBytes (s : State) (c : Nat) : Nat :=
  let w := camW s c
  match camDt s c with
  | 0x1E => 2 * w
  | 0x24 => 3 * w
  | 0x2A => w
  | 0x2B => ceilDiv (w * 10) 8
  | 0x2C => ceilDiv (w * 12) 8
  | 0x2D => ceilDiv (w * 14) 8
  | _ => w

/-- STRIDE of a window ring slot, embedded lines, and blocks per ring slot (R338). -/
def ringStride (s : State) (c : Nat) : Nat := ceilDiv (lineBytes s c) 64 * 64
def camEmb (s : State) (c : Nat) : Nat := rfld s (Reg.sbCamCfg c) 11 8
def ringF (s : State) (c : Nat) : Nat := ceilDiv (64 + ringStride s c * (camEmb s c + camH s c)) 65536

/-- STATE of a receiver: 0 STOPPED, 1 WAIT, 2 RUNNING (R337). -/
def camState (s : State) (c : Nat) : Nat := rfld s (Reg.sbCamStatus c) 1 0
def setCamState (c x : Nat) (s : State) : State := setFld (Reg.sbCamStatus c) 1 0 x s

/-- The three direct buffers lie inside one POOL entry of KIND 6 (R340). -/
def directFits (s : State) (c base : Nat) : Bool :=
  s.cast.pool.any fun e => e.kind == 6 && decide (e.base ≤ base ∧ base + 3 * directMiB s c ≤ e.base + e.size)

/-- The direct buffers that a layer holds: until the raster that uses one ends (R342). -/
def heldBuffers (s : State) (c : Nat) : List Nat :=
  (List.range 8).flatMap fun n => match cfgOf s n with
    | none => []
    | some k => if (slotAt s n).raster then ((slotAt s n).camHold.filter fun x => (activeLayer s k x.1).cam == c).map (·.2) else []

/-- The header of a ring slot (R339). -/
def camHeader (s : State) (c : Nat) (q : CamState) (short nonconf : Bool) (tFe : LinkTime) : List Byte :=
  let cfg := reg s (Reg.sbCamCfg c)
  let fl := (if q.crcErr then 1 else 0) + (if q.eccFix then 2 else 0) + (if short then 4 else 0) + (if nonconf then 8 else 0)
  leBytes 4 0x46434253 ++ leBytes 1 c ++ leBytes 1 (fld cfg 27 26) ++ leBytes 1 (camDt s c) ++ leBytes 1 fl ++
  leBytes 2 q.num.toNat ++ leBytes 2 q.lines.length ++ leBytes 2 q.emb.length ++ [0, 0] ++ leBytes 4 (ringStride s c) ++
  leBytes 4 q.seq.toNat ++ leBytes 8 q.tFs.toNat ++ leBytes 8 (if short then 0 else tFe.toNat) ++ List.replicate 24 0

/-- A line padded to STRIDE. -/
def padLine (n : Nat) (l : List Byte) : List Byte := l.take n ++ List.replicate (n - l.length) 0

/-- Writes the frame to its ring slot and hands the blocks to HOST (R338, R339). The request dates from FS: a block that the
camera no longer owns with the epoch of that moment takes nothing, and the access is logged (R361, R363). DESIGN CHOICE (log
entry 85): the lines reach the window together, when the frame ends. -/
def writeRing (c : Nat) (q : CamState) (short nonconf : Bool) (tFe : LinkTime) (s : State) : State :=
  match q.win with
  | none => s
  | some b =>
    let st := ringStride s c
    let d := camHeader s c q short nonconf tFe ++ (q.emb ++ q.lines).flatMap (padLine st)
    let bs := blocksOf b (ringF s c)
    let s1 := forAll bs (fun k s =>
      if mayAccess s tSensor c q.winEpoch k then
        handBack tSensor c k (dramWrite (k * 65536) ((d.drop ((k - b) * 65536)).take 65536) s)
      else windowErr tSensor k (staleRequest s tSensor c q.winEpoch k) s) s
    raiseVec (vecCam c) s1

/-- Sample x of a RAW line as CSI-2 packs it: RAW10 4 pixels in 5 bytes, RAW12 2 in 3, RAW14 4 in 7 (R339, R341). -/
def rawSample (dt : Nat) (l : List Byte) (x : Nat) : Nat :=
  let b (o : Nat) : Nat := byteAt l o
  match dt with
  | 0x2A => b x
  | 0x2B => b (x / 4 * 5 + x % 4) * 4 + b (x / 4 * 5 + 4) / 4 ^ (x % 4) % 4
  | 0x2C => b (x / 2 * 3 + x % 2) * 16 + b (x / 2 * 3 + 2) / 16 ^ (x % 2) % 16
  | 0x2D =>
    let o := x / 4 * 7
    b (o + x % 4) * 64 + leAt l (o + 4) 3 / 64 ^ (x % 4) % 64
  | _ => 0

/-- Bits of a RAW sample. -/
def rawBits (dt : Nat) : Nat := if dt = 0x2A then 8 else if dt = 0x2B then 10 else if dt = 0x2C then 12 else 14

/-- The R, G1, G2, B positions of a quad by BAYER order, each as dy × 2 + dx (R354). -/
def bayer (o : Nat) : List Nat :=
  match o with
  | 0 => [0, 1, 2, 3]
  | 1 => [1, 0, 3, 2]
  | 2 => [2, 0, 3, 1]
  | _ => [3, 1, 2, 0]

/-- A line of the direct buffer from the image lines (R341): RGB888 is held B, G, R as format 5 has it (R99). -/
def directLine (s : State) (c : Nat) (ls : List (List Byte)) (y : Nat) : List Byte :=
  let dt := camDt s c
  if dt = 0x24 then ((ls[y]?).getD []).take (3 * camW s c)
  else
    let o := bayer (rfld s (Reg.sbCamCfg c) 13 12)
    let l0 := (ls[2 * y]?).getD []
    let l1 := (ls[2 * y + 1]?).getD []
    let sh := rawBits dt - 8
    (List.range (camW s c / 2)).flatMap fun x =>
      let v (i : Nat) : Nat :=
        let p := (o[i]?).getD 0
        rawSample dt (if p / 2 = 0 then l0 else l1) (2 * x + p % 2)
      let g := (v 1 + v 2 + 1) / 2
      [BitVec.ofNat 8 (v 3 / 2 ^ sh), BitVec.ofNat 8 (g / 2 ^ sh), BitVec.ofNat 8 (v 0 / 2 ^ sh)]

/-- Writes a conforming frame to its direct buffer, which becomes the newest complete one (R342). -/
def publishDirect (c : Nat) (q : CamState) (s : State) : State :=
  match q.buf with
  | none => s
  | some b =>
    let base := directBase s c b
    let st := directStride s c
    let s1 := forAll (List.range (directH s c)) (fun y s => dramWrite (base + y * st) (directLine s c q.lines y) s) s
    modCam c (fun k => { k with newest := some b }) s1

/-- The frame of camera c conforms at FE with this number (R336). -/
def conforms (s : State) (c : Nat) (q : CamState) (num : BitVec 16) : Bool :=
  !q.bad && !q.crcErr && q.lines.length == camH s c && q.extra == 0 && q.emb.length == camEmb s c && q.num == num

/-- The frame being received ends: at FE (with its number and time), or short of it (R336 to R342). -/
def endFrame (c : Nat) (fe : Option (BitVec 16 × LinkTime)) (s : State) : State :=
  let q := camAt s c
  if ¬ q.open_ then s
  else
    let ok := match fe with
      | some x => conforms s c q x.1
      | none => false
    let short := fe.isNone || decide (q.lines.length < camH s c)
    let tFe := (fe.map (·.2)).getD 0
    let s1 := writeRing c q short (!ok) tFe s
    let s2 := if ok then publishDirect c q s1 else s1
    let s3 := modCam c (fun k => { k with
      open_ := false, win := none, buf := none, emb := [], lines := [], extra := 0, crcErr := false, eccFix := false, bad := false
      run := !ok && (k.run || decide (camState s c = 2)) }) s2
    if ok then
      let s4 := incSat (Reg.sbCamCntA c) 31 16 (setCamState c 2 s3)
      let e := reg s (Reg.sbCamEmb c)
      if bit e 31 then (acceptList (3 + c) (q.emb.flatten.drop (fld e 15 0)) q.tFs s4).2 else s4
    else
      let s4 := incSat (Reg.sbCamCntA c) 15 0 s3
      if camState s c = 2 ∧ ¬ q.run then logEvent .CAMERA_FORMAT clsSensor c 0 s4 else s4

/-- The data types of image lines that a receiver supports (R335). -/
def imageDts : List Nat := [0x1E, 0x24, 0x2A, 0x2B, 0x2C, 0x2D]

/-- A packet of another virtual channel is dropped and counted (R335). -/
def otherVc (c : Nat) (vc : BitVec 2) (s : State) : Bool := vc.toNat != rfld s (Reg.sbCamCfg c) 27 26

/-- CSI_FS: a frame starts (R338, R342). -/
def csiFs (c : Nat) (vc : BitVec 2) (num : BitVec 16) (t : LinkTime) (s : State) : State :=
  if ¬ bridgeOn s ∨ camState s c = 0 then s
  else if otherVc c vc s then incSat (Reg.sbCamCntB c) 31 22 s
  else
    let s1 := endFrame c none s
    let q := camAt s1 c
    let cfg := reg s (Reg.sbCamCfg c)
    let f := ringF s c
    let count := rfld s (Reg.sbCamRing c) 22 12
    let slots := if f = 0 then 0 else count / f
    let b := rfld s (Reg.sbCamRing c) 11 0 + q.ring % max 1 slots * f
    let owned := decide (0 < slots ∧ b + f ≤ 4096) &&
      (blocksOf b f).all fun k => tallyClass s1 k == tSensor && tallyId s1 k == c
    let held := heldBuffers s1 c
    let buf := if directFits s c (rfld s (Reg.sbCamDirect c) 15 0) then
        (List.range 3).find? fun i => !held.contains i && q.newest != some i else none
    let s2 := modCam c (fun k => { k with
      open_ := true, num := num, tFs := t, seq := k.seq + 1
      win := if bit cfg 30 && owned then some b else none
      winEpoch := epochOf s1 tSensor c
      ring := if bit cfg 30 && owned then (k.ring + 1) % slots else k.ring
      buf := if directOn s c then buf else none }) s1
    let s3 := if bit cfg 30 && !owned then incSat (Reg.sbCamCntB c) 21 11 s2 else s2
    if directOn s c && buf.isNone then incSat (Reg.sbCamCntB c) 10 0 s3 else s3

/-- CSI_FS. -/
def execCsiFs (c : Cam) (pkt : FrameShort) (t : LinkTime) (s : State) : Host.Outcome State Fault Refusal :=
  .next (csiFs c.val pkt.vc pkt.num t s)

/-- CSI_LONG_PACKET: a line (R335, R336, R339). -/
def csiLong (c : Nat) (vc : BitVec 2) (dt : Nat) (crcOk eccFix : Bool) (d : List Byte) (s : State) : State :=
  if ¬ bridgeOn s ∨ camState s c = 0 then s
  else
    if otherVc c vc s ∨ (dt ≠ 0x12 ∧ (dt ≠ camDt s c ∨ ¬ imageDts.contains dt)) then incSat (Reg.sbCamCntB c) 31 22 s
    else if ¬ (camAt s c).open_ then s
    else modCam c (fun k =>
      let k1 := { k with crcErr := k.crcErr || !crcOk, eccFix := k.eccFix || eccFix }
      if dt = 0x12 then
        if k.emb.length < camEmb s c then { k1 with emb := k.emb ++ [d], bad := k.bad || !k.lines.isEmpty }
        else { k1 with bad := true }
      else
        let bad := k.bad || d.length != lineBytes s c || k.emb.length != camEmb s c
        if k.lines.length < camH s c then { k1 with lines := k.lines ++ [d], bad := bad }
        else { k1 with extra := k.extra + 1, bad := bad }) s

/-- CSI_LONG_PACKET. -/
def execCsiLongPacket (c : Cam) (vc : BitVec 2) (dt : BitVec 6) (crcOk eccFix : Bool) (data : List Byte) (s : State) :
    Host.Outcome State Fault Refusal :=
  .next (csiLong c.val vc dt.toNat crcOk eccFix data s)

/-- CSI_FE: a frame ends (R336 to R342). -/
def csiFe (c : Nat) (vc : BitVec 2) (num : BitVec 16) (t : LinkTime) (s : State) : State :=
  if ¬ bridgeOn s ∨ camState s c = 0 then s
  else if otherVc c vc s then incSat (Reg.sbCamCntB c) 31 22 s
  else endFrame c (some (num, t)) s

/-- CSI_FE. -/
def execCsiFe (c : Cam) (pkt : FrameShort) (t : LinkTime) (s : State) : Host.Outcome State Fault Refusal :=
  .next (csiFe c.val pkt.vc pkt.num t s)

/-- A receiver enters WAIT: no buffer counts as complete since then (R337, R342). -/
def camWait (c : Nat) (s : State) : State :=
  setCamState c 1 (modCam c (fun k => { k with newest := none, run := false }) s)

/-- No FS has come for TIMEOUT ms of link time (R337). -/
def noFs (s : State) (c : Nat) : Bool :=
  decide (((rfld s (Reg.sbCamCfg c) 7 0 * msTicks : Nat) : Int) ≤ (s.linkTime - (camAt s c).tFs).toInt)

/-- CAMERA_LOST: no FS for TIMEOUT ms in RUNNING (R337, R352, R465). -/
def cameraLost (c : Nat) (s : State) : State :=
  if bridgeOn s ∧ camState s c = 2 ∧ noFs s c then
    camWait c (raiseVec vecBridge (startGrace (.camera ⟨c % 4, Nat.mod_lt _ (by decide)⟩)
      (logEvent .CAMERA_LOST clsSensor c 0 (endFrame c none s))))
  else s

/-- CAMERA_LOST. -/
def execCameraLost (c : Cam) (s : State) : Host.Outcome State Fault Refusal := .next (cameraLost c.val s)

/-- RESULT of a camera's configuration. -/
def camResult (c : Nat) (st : Status) (s : State) : State := setFld (Reg.sbCamStatus c) 31 16 st.code s

/-- A write of SB_CAMc_CFG (R337, R341, R354): VC, LANES and DT only while EN is 0. EN written 1 starts a receiver that is STOPPED,
also one whose EN has stood at 1 over Doze. -/
def camCfg (c : Nat) (v : Word) (s : State) : State :=
  let old := reg s (Reg.sbCamCfg c)
  let keep : Word := if bit old 31 then 0x0F3F0000 else 0
  let w := ((v &&& ~~~keep) ||| (old &&& keep)) &&& 0xEF3F3FFF
  let dt := fld w 21 16
  let starts := bit w 31 && (!bit old 31 || camState s c == 0)
  if starts ∧ rawDt dt ∧ (camW s c % 2 = 1 ∨ camH s c % 2 = 1) then camResult c .CAMERA_CONFIG s
  else
    let s1 := camResult c .OK (setReg (Reg.sbCamCfg c) w s)
    if starts then camWait c s1
    else if bit w 31 = bit old 31 then s1
    else setCamState c 0 (modCam c (fun k => { k with newest := none, run := false }) (setReg (Reg.sbCamCfg c) w
      (endFrame c none (setReg (Reg.sbCamCfg c) old s1))))

/-- CAM_ENABLE. -/
def execCamEnable (c : Cam) (v : Word) (s : State) : Host.Outcome State Fault Refusal :=
  .next (hostWrite (Reg.sbCamCfg c.val) v (camCfg c.val) s)

/-- A write of SB_CAMc_DIRECT (R340). -/
def camDirect (c : Nat) (v : Word) (s : State) : State :=
  if rbit s (Reg.sbCamCfg c) 31 ∨ ¬ directFits s c (fld v 15 0) then camResult c .CAMERA_CONFIG s
  else camResult c .OK (setReg (Reg.sbCamDirect c) (v &&& 0xFFFF) s)

/-- DIRECT_WRITE. -/
def execDirectWrite (c : Cam) (v : Word) (s : State) : Host.Outcome State Fault Refusal :=
  .next (hostWrite (Reg.sbCamDirect c.val) v (camDirect c.val) s)

/-- Camera-direct layers of slot n take the newest complete buffer at its boundary (R342); a buffer newly taken is a change
of its layer (R112). -/
def takeBuffers (n : Nat) (c : SlotCast) (s : State) : State :=
  forAll (layerCodes c) (fun k s =>
    let l := activeLayer s c k
    if l.en ∧ l.kind = 2 then
      match (camAt s l.cam).newest with
      | none => s
      | some b =>
        let old := (slotAt s n).camHold.lookup k
        modSlot n (fun q => { q with
          camHold := (k, b) :: q.camHold.filter fun x => x.1 != k
          chgPend := if old = some b ∨ q.chgPend.contains k then q.chgPend else q.chgPend ++ [k] }) s
    else modSlot n (fun q => { q with camHold := q.camHold.filter fun x => x.1 != k }) s) s

/-! ## The inertial measurement unit (R348 to R350) -/

/-- A levelling angle in mdeg is delivered (R86, R354). -/
def deliverAngle (a : Int) (t : LinkTime) (s : State) : State :=
  setReg Reg.sbImuNow (BitVec.ofInt 32 a) { s with sb := { s.sb with angle := some (a, t) } }

/-- The bytes read, with those beyond the read phase left open (the spec states none; log entry 42). -/
def imuBytes (need : Nat) (d : List Byte) (s : State) : List Byte × State :=
  if need ≤ d.length then (d, s)
  else
    let r := freeBytes (need - d.length) s
    (d ++ r.1, r.2)

/-- θ in units of 2^-16 mdeg; where both readings are 0 it is open. -/
def imuTheta (x z : Int) (s : State) : Int × State :=
  if x = 0 ∧ z = 0 then
    let f := takeFree s
    (signed 32 (fld f.1 31 0), f.2)
  else (divRound (atan2Turn x z * 360000 * 65536) (2 ^ 64), s)

/-- A transaction that ran (R348, R349). -/
def imuTake (data : List Byte) (t : LinkTime) (s : State) : State :=
  let x := reg s Reg.sbImuXfer
  let f := reg s Reg.sbImuFmt
  let chk := fld x 20 16
  let ax := fld f 20 16
  let az := fld f 12 8
  let r := imuBytes (max (chk + 1) (max (ax + 2) (az + 2))) (data.take (fld x 27 23)) s
  let d := r.1
  let s1 := r.2
  if byteAt d chk ≠ fld f 31 24 then
    let k := s1.sb.rejects + 1
    let s2 := incSat Reg.sbImuCnt 15 8 { s1 with sb := { s1.sb with rejects := k } }
    if k = 8 then raiseVec vecBridge (logEvent .IMU_FAULT clsSensor 4 0 s2) else s2
  else
    let be := bit f 7
    let v (o : Nat) : Int := signed 16 (if be then byteAt d o * 256 + byteAt d (o + 1) else leAt d o 2)
    let th := imuTheta (if bit f 6 then -(v ax) else v ax) (v az) s1
    let new := match s1.sb.filt with
      | none => th.1
      | some g => g + (th.1 - g) / 2 ^ fld f 3 0
    let s2 := th.2
    deliverAngle (divRound new 65536) (t - BitVec.ofNat 64 (fld x 15 0 * usTicks))
      (incSat Reg.sbImuCnt 31 16 { s2 with sb := { s2.sb with filt := some new, rejects := 0 } })

/-- Timing-clock periods of n bytes on the SPI bus: 8 n cycles of SCK, each 128 × (DIV + 1) periods (R348). -/
def spiPeriods (s : State) (n : Nat) : BitVec 64 := BitVec.ofNat 64 (8 * n * 128 * (rfld s Reg.sbImuCfg 23 16 + 1))

/-- A transaction that would start at a link time would start before the previous one has ended (R348). -/
def imuOverlap (s : State) (start : LinkTime) : Bool :=
  match s.sb.imuEnd with
  | some e => decide ((start - e).toInt < 0)
  | none => false

/-- IMU_TRANSACTION: one period of the SPI controller; start is when CS goes low, t the first read-phase SCK edge. -/
def imuTransaction (start : LinkTime) (data : List Byte) (t : LinkTime) (s : State) : State :=
  if ¬ bridgeOn s ∨ ¬ rbit s Reg.sbImuCfg 31 ∨ rbit s Reg.sbImuCfg 30 then s
  else if imuOverlap s start then incSat Reg.sbImuCnt 7 0 s
  else
    let tx := (leBytes 4 (reg s (Reg.sbImuTx 0)).toNat ++ leBytes 4 (reg s (Reg.sbImuTx 1)).toNat).take (rfld s Reg.sbImuXfer 31 28)
    let e := t + spiPeriods s (rfld s Reg.sbImuXfer 27 23)
    imuTake data t (emit (.imu tx) { s with sb := { s.sb with imuEnd := some e } })

/-- IMU_TRANSACTION. -/
def execImuTransaction (start : LinkTime) (data : List Byte) (t : LinkTime) (s : State) : Host.Outcome State Fault Refusal :=
  .next (imuTransaction start data t s)

/-- A write of SB_IMU_HOST (R350). -/
def imuHost (v : Word) (s : State) : State :=
  let s1 := setReg Reg.sbImuHost v s
  if rbit s Reg.sbImuCfg 30 ∧ bridgeOn s then deliverAngle v.toInt s.linkTime s1 else s1

/-- IMU_HOST. -/
def execImuHost (v : Word) (s : State) : Host.Outcome State Fault Refusal := .next (hostWrite Reg.sbImuHost v imuHost s)

/-! ## Doze and resets (R352) -/

/-- The bridge stops: receivers STOPPED, partial frames dropped, masks released, the object table cleared. -/
def stopBridge (s : State) : State :=
  let s1 := forAll (s.sb.objs.flatMap fun o => o.pitches.map (·.2)) releaseMask s
  let s2 := { s1 with sb := { BridgeState.init with
    cams := Vector.ofFn fun c => { CamState.init with seq := (camAt s c.val).seq, ring := (camAt s c.val).ring } } }
  showObjs (forAll (List.range 4) (fun c s => setCamState c 0 s) s2)

end Sys2Proof.Machine
end

