-- ==== Sys2Proof/Machine/Build.lean ====
section
/-! DEFINITION. How a Cast gives a slot its structure and takes it away (R7, R17, R18, R24, R25, R30, R92): the registers of a
slot and its channels, the values loaded from Cast fields, the pitches, and the power domains. -/

set_option Elab.async false

namespace Sys2Proof.Machine

/-! ## Registers that follow the structure (R7, R30) -/

/-- A register row belongs to a slot by its number. -/
def slotScoped (d : RegDef) : Bool :=
  match d.scope with
  | .always | .port | .chan => false
  | _ => true

/-- Addresses of instance i of a row. -/
def rowAddrs (d : RegDef) (i : Nat) : List Nat := (List.range d.n2).map fun j => d.base + d.stride * i + d.st2 * j

/-- Registers of instance i of a row that come into being take their Cold value, and those that cease read 0. -/
def syncRow (was is : Bool) (d : RegDef) (i : Nat) (s : State) : State :=
  if was == is then s else setRegs ((rowAddrs d i).map fun a => (a, if is then d.cold else 0)) s

/-- TH_LSn_STEP.STEP is the laser ladder's own and survives (R432). -/
def keepStep (n : Nat) (before s : State) : State := setFld (Reg.thLsStep n) 3 0 (rfld before (Reg.thLsStep n) 3 0) s

/-- The registers of slot n follow what it runs: before and s differ in what the slot runs (R7, R30). -/
def syncSlotRegs (n : Nat) (before s : State) : State :=
  keepStep n before ((regTable.filter slotScoped).foldl (fun s d => syncRow (scopeBuilt before d.scope n) (scopeBuilt s d.scope n) d n s) s)

/-- The registers of the named light channels follow the Cast. -/
def syncChanRegs (ks : List Nat) (before s : State) : State :=
  forAll ks (fun k s => (regTable.filter fun d => d.scope == .chan).foldl
    (fun s d => syncRow (scopeBuilt before .chan k) (scopeBuilt s .chan k) d k s) s) s

/-! ## Values of Cast fields (R30) -/

/-- A register field with its value from a Cast field: address, field and value. -/
abbrev CastVal := Nat × Nat × Nat × Nat

/-- Word m of PXn_ORDER as PIPE.ORDER gives it. -/
def orderWord (order : List Nat) (m : Nat) : Nat :=
  (List.range (if m = 6 then 1 else 4)).foldl (fun a i => a + ((order[4 * m + i]?).getD 0xFF) * 256 ^ i) 0

/-- The seven words of PXn_ORDER as PIPE.ORDER gives them: one Cast field. -/
def orderVals (n : Nat) (c : SlotCast) : List CastVal :=
  (List.range 7).map fun m => (Reg.px c.pipe.composer n + 4 * m, 31, 0, orderWord c.pipe.order m)

/-- The other register fields that the Cast loads for slot n, one for each Cast field. -/
def castVals (n : Nat) (c : SlotCast) : List CastVal :=
  let px := Reg.px c.pipe.composer n
  [(px + 0x1C, 31, 0, c.pipe.bg.toNat), (Reg.soLatch n, 11, 0, c.slot.latchLine), (Reg.soFreeze n, 7, 0, c.slot.freezeThr)] ++
  (if c.slot.cls = 2 then
    [(Reg.lbCtrl n, 27, 16, clampN c.slot.activeW 64 2560), (Reg.lbLook n, 13, 8, c.slot.trialDepth),
     (Reg.lbLook n, 5, 0, c.slot.lookahead), (Reg.lbStrike n, 15, 0, c.slot.strikeTol), (Reg.lbStrikePt n, 23, 0, c.slot.strikePt)]
   else []) ++
  c.chmp.flatMap fun e =>
    [(Reg.lcCfg e.lc, 26, 0, n * 2 ^ 24 + e.engCh * 2 ^ 16 + e.role * 256 + e.flags % 4), (Reg.lcCeil e.lc, 9, 0, e.iLimit)]

/-- PXn_ORDER keeps what the host has tuned: PIPE.ORDER as a whole stands unchanged, and BLEND lets the host write it (R30,
R106). -/
def keepsOrder (old : Option SlotCast) (new : SlotCast) : Bool :=
  decide (new.pipe.blend ≠ 0 ∧ (old.map (·.pipe.order)) = some new.pipe.order)

/-- Registers whose Cast field is new or has changed take the new value (R30). -/
def loadCastVals (n : Nat) (old : Option SlotCast) (new : SlotCast) (s : State) : State :=
  let l : List CastVal := (old.map (castVals n)).getD []
  let vs := (if keepsOrder old new then [] else orderVals n new) ++ (castVals n new).filter fun v => !l.contains v
  vs.foldl (fun s v => setFld v.1 v.2.1 v.2.2.1 v.2.2.2 s) s

/-- The active copies of PXn_BG and PXn_ORDER take a changed Cast field too (R30). -/
def loadActive (n : Nat) (old : Option SlotCast) (new : SlotCast) (s : State) : State :=
  modSlot n (fun q => { q with
    bg := if (old.map (·.pipe.bg)) = some new.pipe.bg then q.bg else new.pipe.bg
    order := if keepsOrder old new then q.order else new.pipe.order }) s

/-- The line-builder settings as the registers of slot n give them (R210, R225). -/
def lineCfgOf (s : State) (n : Nat) : LineCfg :=
  { duty := rfld s (Reg.lbCtrl n) 7 0, margin := rbit s (Reg.lbCtrl n) 8, spl := rfld s (Reg.lbCtrl n) 27 16
    look := rfld s (Reg.lbLook n) 5 0, tol := rfld s (Reg.lbStrike n) 15 0, pt := rfld s (Reg.lbStrikePt n) 23 0 }

/-! ## Pitches (R53, R92) -/

/-- The pitches of slot n follow its PIPE record: those that leave its range go back to the free pool, those that enter it
start empty; the rest keep their state (R53). DESIGN CHOICE (log entry 75): a pitch that stays in the range and whose position
in it gives it another type, because PITCH_BASE or the layer counts moved, starts anew. -/
def syncPitchRange (n : Nat) (old : Option SlotCast) (new : Option SlotCast) (s : State) : State :=
  let o : List Nat := (old.map pitchesOf).getD []
  let w : List Nat := (new.map pitchesOf).getD []
  let s1 := forAll (o.filter fun p => !w.contains p) freePitch s
  match new with
  | none => s1
  | some c => forAll w (fun p s =>
      let stays := match old with
        | some d => o.contains p && builtType d p == builtType c p
        | none => false
      if stays then s else buildPitch n (builtType c p) p s) s1

/-! ## Slots -/

/-- HL_SPORT_STAT.ENABLED (R144). -/
def showSportEnabled (s : State) : State := setBit Reg.hlSportStat 0 ((List.range 8).any (hasSport s)) s

/-- Slot n comes into being (R25, R51); a dip hold that runs holds its Dim cause on it too (R442). -/
def buildSlot (n : Nat) (c : SlotCast) (s : State) : State :=
  let s1 := modSlot n (fun q => { SlotState.undeclared with
    cfg := some c, wbRun := q.wbRun, trial := List.replicate c.slot.trialDepth LineEnt.empty, limNow := c.chmp.map (·.iLimit), stepNow := q.stepNow
    dimDip := rbit s Reg.genDip 16, lvlStaleFrom := s.linkTime
    supply :=
      { now := c.supply.vmin * 10, target := if tracked c then c.supply.vmin else c.supply.vmax, falling := false, frozen := false } }) s
  let s2 := syncChanRegs (c.chmp.map (·.lc)) s (syncSlotRegs n s s1)
  let s3 := loadActive n none c (loadCastVals n none c s2)
  let s4 := syncPitchRange n none (some c) s3
  let s5 := modSlot n (fun q => { q with lines := { q.lines with cfg := lineCfgOf s4 n }, margin := rfld s4 (Reg.slMargin n) 23 0 }) s4
  let s6 := forAll (c.chmp.map (·.lc)) (fun k => modChan k fun _ => ChanCal.init) s5
  let s7 := showObjs (showSportEnabled (showSupply n (setMode n 0 s6)))
  if inDim s7 n then engageDim n s7 else s7

/-- Slot n ceases to be. -/
def unbuildSlot (n : Nat) (s : State) : State :=
  match cfgOf s n with
  | none => s
  | some c =>
    let s1 := releaseSources n (syncPitchRange n (some c) none (stopRaster n s))
    let s2 := modSlot n (fun q => { SlotState.undeclared with wbRun := q.wbRun }) s1
    let s3 := syncChanRegs (c.chmp.map (·.lc)) s1 (syncSlotRegs n s1 s2)
    dropLadder n (showContain (showObjs (showSportEnabled (syncPitches s3))))

/-! ## Power domains (R17, R18, R499) -/

/-- Domain d goes Off: its registers lose their values, links in it stop, the bridge stops. -/
def domainOff (d : Nat) (s : State) : State :=
  let s1 := if d = 6 then stopBridge s else s
  let s2 := if 15 ≤ d ∧ d ≤ 18 then forAll [2 * (d - 15), 2 * (d - 15) + 1] enterDetect s1 else s1
  let s3 := if d = 10 then { s2 with loops := Vector.replicate 128 LoopState.init } else s2
  let s4 := if d = 11 then codecReset s3 else if d = 19 then forAll (declaredSlots s3) calOff s3 else s3
  let rows := regTable.filter fun r => (r.scope == .always && r.pd == d) || (r.scope == .port && decide (15 ≤ d))
  rows.foldl (fun s r => ((List.range r.count).filter fun i => r.scope == .always || decide (15 + i / 2 = d)).foldl
    (fun s i => setRegs ((rowAddrs r i).map fun a => (a, r.cold)) s) s) s4

/-- The domains of a mask are Off and the others on; what goes Off now stops (R18, R499). -/
def setDomains (m : BitVec 20) (s : State) : State :=
  let goes := (List.range 20).filter fun d => m.getLsbD d && !s.cast.pdOff.getLsbD d
  { forAll goes domainOff s with cast := { (forAll goes domainOff s).cast with pdOff := m } }

end Sys2Proof.Machine
end

