-- ==== Sys2Proof/Machine/Dram.lean ====
section
/-! DEFINITION. The memory controller (R402 to R418): refresh, self-refresh, operating points, training, tracking, and
the failure of pseudo-channels. -/

set_option Elab.async false

namespace Sys2Proof.Machine

/-- Changes the controller's state. -/
def modMc (f : DramState → DramState) (s : State) : State := { s with mc := f s.mc }

/-- Manual training mode holds (R411). -/
def manualMode (s : State) : Bool := rbit s Reg.mcStatus 4

/-! ## Failure (R412, R413, R415) -/

/-- The memory is dead (R415): DEAD, log, every LEN_n deasserted through HALT_n. -/
def dramDead (s : State) : State :=
  lenDropAll 7 (logEvent .DRAM_DEAD clsMemory 0 0 (setBit Reg.mcStatus 6 true s))

/-- The gather window closes, or is abandoned (R410, R416). -/
def endGather (s : State) : State := setBit Reg.mcStatus 5 false (modMc (fun m => { m with gather := none }) s)

/-- PC fails in service (R413): the first one is written to MC_MAPOUT, a second one kills the memory. -/
def pcFail (pc : Nat) (s : State) : State :=
  if s.mc.failed.getLsbD pc then s
  else
    let first := !rbit s Reg.mcStatus 7 && decide (s.mc.failed = 0)
    let s1 := raiseVec 21 (logEvent .DRAM_CHANNEL clsMemory pc pc s)
    let s2 := modMc (fun m => { m with failed := m.failed ||| (1#16 <<< pc) }) (if s.mc.gather = some pc then endGather s1 else s1)
    let s3 := if first then setReg Reg.mcMapout (at_ 16 16 1 ||| at_ 3 0 pc) s2 else dramDead s2
    withDim (containAll .memory) s3

/-- Periods in a second. -/
def secTicks : Nat := 3200000000

/-- A die of PC reports an uncorrectable burst (R412): 16 within 1 s fail the PC. -/
def uncorrectable (pc : Nat) (s : State) : State :=
  let s1 := incSat (Reg.mcErr pc) 31 16 s
  let mine := ((pc, s.linkTime) :: s.mc.bursts).filter fun b => b.1 == pc && decide (since s b.2 ≤ secTicks)
  let others := s.mc.bursts.filter fun b => b.1 != pc
  let s2 := modMc (fun m => { m with bursts := mine.take 16 ++ others }) s1
  if 16 ≤ mine.length then pcFail pc s2 else s2

/-! ## Training (R408, R409, R414) -/

/-- The microcode has used the training helpers: what their registers read is its last use (R418), which the spec does not
state. -/
def helpersUsed (s : State) : State :=
  [(Reg.mcTrSel, 0x30F#32), (Reg.mcPgCtrl, 0x730FFFF#32), (Reg.mcPgSeed, 0xFFFFFFFF#32), (Reg.mcPgAddr, 0x1FFFFF0#32),
   (Reg.mcCmpStat, 0x8000FFFF#32), (Reg.mcCmpBits0, 0xFFFFFFFF#32), (Reg.mcCmpBits1, 0xFFFFFFFF#32)].foldl
    (fun s e => let x := takeFree s; setReg e.1 (x.1.setWidth 32 &&& e.2) x.2) s

/-- A full training has run (R409, R414): failed lists the PCs that failed it. One PC may be mapped out; with a second the
memory is dead. The part runs at P0. -/
def trainingDone (failed : List Nat) (s : State) : State :=
  let named := rbit s Reg.mcMapout 16
  let old := rfld s Reg.mcMapout 3 0
  let bad := (if named then [old] else []) ++ failed.filter fun p => !(named && p == old)
  let s1 := modMc (fun _ => DramState.init) (setFld Reg.mcStatus 1 0 0 (helpersUsed s))
  match bad with
  | [] => s1
  | p :: rest =>
    let s2 := setFld Reg.mcStatus 11 8 p (setBit Reg.mcStatus 7 true (setReg Reg.mcMapout (at_ 16 16 1 ||| at_ 3 0 p) s1))
    if rest.isEmpty then s2 else dramDead s2

/-- Sets a delay word. -/
def setDelay (pc point i : Nat) (v : Word) (s : State) : State :=
  modMc (fun m => { m with delays := insert m.delays ((pc * 4 + point) * 32 + i) (v &&& 0x7F01FF) }) s

/-- The PC that tracking takes next, from p on: not mapped out and not failed. -/
def trackable (s : State) (p : Nat) : Bool :=
  !(rbit s Reg.mcStatus 7 && decide (rfld s Reg.mcStatus 11 8 = p)) && !s.mc.failed.getLsbD p

/-- A gather window begins on the next PC (R410), in Run and Dim and outside manual mode. -/
def trackStart (s : State) : State :=
  if !inRunState s || manualMode s || rbit s Reg.mcStatus 6 then s
  else match ((List.range 16).map fun i => (s.mc.nextPc + i) % 16).find? (trackable s) with
    | none => s
    | some p => setBit Reg.mcStatus 5 true (modMc (fun m => { m with gather := some p, nextPc := (p + 1) % 16 }) s)

/-- Moves delay word i by at most one tap (R410). -/
def moveTap (pc point i : Nat) (d : Int) (s : State) : State :=
  let w := delayWord s pc point i
  let x := clampI ((fld w 8 0 : Nat) + clampI d (-1) 1) 0 511
  setDelay pc point i (putFld w 8 0 x.toNat) s

/-- A gather window ends (R410): with fewer than 64 bursts of a kind nothing changes; a third window without a passing tap
fails the PC. -/
def gatherEnd (reads writes : Nat) (move : List Int) (pass : Bool) (s : State) : State :=
  match s.mc.gather with
  | none => s
  | some pc =>
    let s1 := helpersUsed (endGather s)
    if reads < 64 ∨ writes < 64 then s1
    else if pass then
      let point := rfld s Reg.mcStatus 1 0
      (List.zip (List.range 16) move).foldl (fun s x => moveTap pc point x.1 x.2 s)
        (modMc (fun m => { m with trackFail := m.trackFail.set pc 0 }) s1)
    else
      let n := (s.mc.trackFail.get pc).toNat + 1
      let s2 := modMc (fun m => { m with trackFail := m.trackFail.set pc (BitVec.ofNat 8 n) }) s1
      if 3 ≤ n then pcFail pc s2 else s2

/-! ## Operating points (R407) -/

/-- Training samples are being gathered (R410, R411). -/
def gathering (s : State) : Bool := s.mc.gather.isSome || s.mc.patRun

/-- A write of MC_FREQ (R407). -/
def freqWrite (v : Word) (s : State) : State :=
  let result (c : Status) (s : State) : State := setFld Reg.mcStatus 31 16 c.code s
  if gathering s then result .MC_BUSY s
  else if s.power.st = .doze ∨ fld v 1 0 = 3 then result .MC_STATE s
  else modMc (fun m => { m with freq := some (fld v 1 0) }) (result .OK (setFld Reg.mcFreq 1 0 (fld v 1 0) s))

/-- The change of operating point is complete (R407). -/
def freqDone (s : State) : State :=
  match s.mc.freq with
  | none => s
  | some p => raiseVec 21 (setFld Reg.mcStatus 1 0 p (modMc (fun m => { m with freq := none }) s))

/-! ## Commands -/

/-- FREQ_WRITE (R407). -/
def execFreqWrite (v : Word) (s : State) : Host.Outcome State Fault Refusal := .next (hostWrite Reg.mcFreq v freqWrite s)

/-- REFRESH_DUE (R403): a bank that no request waits for is refreshed; otherwise its refresh is postponed by an interval. -/
def execRefreshDue (pc : PcId) (bank : Fin 16) (idle : Bool) (s : State) : Host.Outcome State Fault Refusal :=
  .next (whileUp (fun s => modMc (fun m =>
    let k := 16 * pc.val + bank.val
    { m with postponed := m.postponed.set k (if idle then 0 else BitVec.ofNat 8 (min 8 ((m.postponed.get k).toNat + 1))) }) s) s)

/-- FORCED_REFRESH (R403): a bank postponed by 8 intervals is refreshed ahead of every request. -/
def execForcedRefresh (pc : PcId) (bank : Fin 16) (s : State) : Host.Outcome State Fault Refusal :=
  let k := 16 * pc.val + bank.val
  .next (whileUp (fun s => if s.mc.postponed.get k = 8 then
    incSat Reg.mcCntB 31 16 (modMc (fun m => { m with postponed := m.postponed.set k 0 }) s) else s) s)

/-- DRAM_TEMP_SAMPLE (R402): the refresh window halves above 85 degrees and returns below 82. -/
def execDramTempSample (t : BitVec 8) (s : State) : Host.Outcome State Fault Refusal :=
  .next (whileUp (fun s =>
    let s1 := setFld Reg.mcTemp 15 8 t.toNat s
    if 85 < t.toInt then setBit Reg.mcTemp 0 true s1 else if t.toInt < 82 then setBit Reg.mcTemp 0 false s1 else s1) s)

/-- SELF_REFRESH_IDLE (R404): with IDLE_EN the entry of an idle PC is committed. -/
def execSelfRefreshIdle (pc : PcId) (s : State) : Host.Outcome State Fault Refusal :=
  .next (whileUp (fun s => if rbit s Reg.mcSr 31 then modMc (fun m => { m with sr := m.sr ||| (1#16 <<< pc.val) }) s else s) s)

/-- SR_WAKE (R405): a held request wakes its PC; in Doze a short retrain of it runs. -/
def execSrWake (pc : PcId) (s : State) : Host.Outcome State Fault Refusal :=
  .next (if s.mc.sr.getLsbD pc.val then
    let s1 := if s.power.st = .doze then helpersUsed s else s
    setBit Reg.mcStatus 3 true (incSat Reg.mcCntA 31 16 (modMc (fun m => { m with sr := m.sr &&& ~~~(1#16 <<< pc.val) }) s1))
    else s)

/-- DOZE_SR_REENTRY (R405): 100 µs without a request in Doze. -/
def execDozeSrReentry (pc : PcId) (s : State) : Host.Outcome State Fault Refusal :=
  .next (if s.power.st = .doze then modMc (fun m => { m with sr := m.sr ||| (1#16 <<< pc.val) }) s else s)

/-- BULK_PROMOTE (R399): a BULK request that has waited MC_AGE.BULK is served as RT. -/
def execBulkPromote (_pc : PcId) (s : State) : Host.Outcome State Fault Refusal := .next (whileUp (incSat Reg.mcCntB 15 0) s)

/-- TRACK_PERIOD (R410). -/
def execTrackPeriod (s : State) : Host.Outcome State Fault Refusal := .next (whileUp trackStart s)

/-- GATHER_WINDOW_END (R410). -/
def execGatherWindowEnd (reads writes : Nat) (move : List Int) (pass : Bool) (s : State) : Host.Outcome State Fault Refusal :=
  .next (whileUp (gatherEnd reads writes move pass) s)

/-- UNCORRECTABLE_BURST (R412, R413): in Doze too, where a woken PC serves requests. -/
def execUncorrectableBurst (pc : PcId) (s : State) : Host.Outcome State Fault Refusal :=
  .next (whilePowered (uncorrectable pc.val) s)

/-- A write of MC_PG_CTRL (R418): outside manual mode it is dropped and logged; GO starts a run. A run that writes leaves
the contents of the PC under test open (log entry 14). -/
def patternRun (v : Word) (s : State) : State :=
  if !manualMode s then logAccess .MC_STATE 0 Reg.mcPgCtrl s
  else
    let s1 := setReg Reg.mcPgCtrl (v &&& 0x0730FFFF) s
    if bit v 31 then
      let pc := rfld s Reg.mcTrSel 3 0
      let s2 := setReg Reg.mcCmpBits0 0 (setReg Reg.mcCmpBits1 0 (setReg Reg.mcCmpStat 0 s1))
      let s3 := modMc (fun m => { m with patRun := true }) s2
      if fld v 21 20 = 0 ∨ fld v 21 20 = 2 then
        { s3 with dram := s3.dram.filter (fun e => dramPc s3 e.1 != pc), dramEpoch := s3.dramEpoch + 1 }
      else s3
    else s1

/-- PATTERN_RUN. -/
def execPatternRun (v : Word) (s : State) : Host.Outcome State Fault Refusal := .next (hostWrite Reg.mcPgCtrl v patternRun s)

/-- PATTERN_RUN_DONE (R418): the compare helper's outcome; vector 21. -/
def execPatternRunDone (failed : BitVec 16) (dq0 dq1 : Word) (s : State) : Host.Outcome State Fault Refusal :=
  .next (if s.mc.patRun then
    raiseVec 21 (setReg Reg.mcCmpBits0 dq0 (setReg Reg.mcCmpBits1 dq1
      (setReg Reg.mcCmpStat (at_ 31 31 1 ||| at_ 15 0 failed.toNat) (modMc (fun m => { m with patRun := false }) s))))
    else s)

end Sys2Proof.Machine
end

