-- ==== Sys2Proof/Machine/States.lean ====
section
/-! DEFINITION. The part-wide states (R445 to R448): requests, entry to Doze and Park, and what an entry waits for. -/

set_option Elab.async false

namespace Sys2Proof.Machine

/-- Changes the power state. -/
def modPower (f : PowerState → PowerState) (s : State) : State := { s with power := f s.power }

/-- The part takes a state. -/
def setSt (x : PState) (s : State) : State := modPower (fun p => { p with st := x }) s

/-- An entry waits (R57, R446): a recast or a frequency change is under way. -/
def entryHeld (s : State) : Bool := s.cast.switch.isSome || s.mc.freq.isSome

/-- Entry stops the link of port p (R446): Train to Run are quiesced; Train, where there is nothing to quiesce, stops. -/
def stopLink (p : Nat) (s : State) : State :=
  let st := linkState s p
  if st = lsTrain then enterDetect p s
  else if st = lsQuiesce then modPort p (fun q => { q with quiesce := some .stop }) s
  else quiesce p .stop 7 s

/-- Steps 2 and 3 of R446. -/
def beginEntry (x : PState) (s : State) : State :=
  let s1 := setBit Reg.genState 8 false (modPower (fun p => { p with st := x, queued := none }) s)
  let s2 := forAll (List.range 8) stopLink (lenDropAll 7 s1)
  let s3 := forAll (declaredSlots s2) enterIdle s2
  stopBridge (endGather s3)

/-- A wake from Doze (R447): REQ becomes 0 and the exit begins. -/
def beginExit (s : State) : State := setFld Reg.genStateReq 1 0 0 (modPower (fun p => { p with st := .leaving, queued := none }) s)

/-- A request that can be taken now (R446 to R448). -/
def takeRequest (r : Nat) (s : State) : State :=
  match s.power.st with
  | .run =>
    if r = 0 then setBit Reg.genState 8 false (modPower (fun p => { p with queued := none }) s)
    else if entryHeld s then setBit Reg.genState 8 true (modPower (fun p => { p with queued := some r }) s)
    else beginEntry (if r = 2 then .enteringDoze else .enteringPark false) s
  | .doze => if r = 0 then beginExit s else if r = 3 then beginEntry (.enteringPark false) s else s
  | .boot | .enteringDoze | .enteringPark _ | .leaving => modPower (fun p => { p with queued := some r }) s
  | .por | .park | .lockout => s

/-- A request that waits is taken where nothing holds it any more (R446, R448). -/
def serveQueued (s : State) : State :=
  match s.power.queued with
  | none => s
  | some r =>
    match s.power.st with
    | .run | .doze => takeRequest r (modPower (fun p => { p with queued := none }) s)
    | _ => s

/-- A write of GEN_STATE_REQ: REQ = 1 is refused (R448). -/
def stateReq (v : Word) (s : State) : State :=
  let r := fld v 1 0
  if r = 1 then setFld Reg.genState 31 16 Status.STATE_REFUSED.code s
  else takeRequest r (setFld Reg.genStateReq 1 0 r (setFld Reg.genState 31 16 0 s))

end Sys2Proof.Machine
end

