-- ==== Sys2Proof/Machine/Window.lean ====
section
/-! DEFINITION. The window and the mailbox (R356 to R374, R411, R465, R472): BAR2 accesses under tallies, compare-and-
exchange, host liveness, and the mailbox commands that need no Cast. -/

set_option Elab.async false

namespace Sys2Proof.Machine

/-! ## BAR2 (R361) -/

/-- The pieces of an access that lie in one block each: block, offset in the access, length. -/
def pieces (off len : Nat) : List (Nat × Nat × Nat) :=
  ((List.range (len / 65536 + 2)).map fun i =>
    let b := off / 65536 + i
    let lo := max off (b * 65536)
    let hi := min (off + len) ((b + 1) * 65536)
    (b, lo - off, hi - lo)).filter fun p => p.2.2 != 0

/-- A host write of bytes to BAR2 from offset off, issued with an epoch. -/
def bar2Write (off epoch : Nat) (bs : List Byte) (s : State) : State :=
  (pieces off bs.length).foldl (fun s p =>
    if mayAccess s tHost 0 epoch p.1 then dramWrite (off + p.2.1) ((bs.drop p.2.1).take p.2.2) s
    else windowErr tHost p.1 (staleRequest s tHost 0 epoch p.1) s) s

/-- A host read of BAR2: the bytes returned, zeros where it is dropped, and the state. -/
def bar2Read (off len epoch : Nat) (s : State) : List Byte × State :=
  (pieces off len).foldl (fun (a : List Byte × State) p =>
    if mayAccess a.2 tHost 0 epoch p.1 then (a.1 ++ dramRead a.2 (off + p.2.1) p.2.2, a.2)
    else (a.1 ++ List.replicate p.2.2 0, windowErr tHost p.1 (staleRequest a.2 tHost 0 epoch p.1) a.2)) ([], s)

/-- BAR2_ACCESS (R356, R361). -/
def execBar2Access (off : BitVec 28) (len : Nat) (epoch : BitVec 16) (acc : Option (List Byte)) (s : State) :
    Host.Outcome State Fault Refusal :=
  if 2 ^ 28 < off.toNat + len then .fault .outsideBar
  else if ¬ powered s then .next s
  else match acc with
    | some bs => .next (bar2Write off.toNat epoch.toNat bs s)
    | none =>
      let r := bar2Read off.toNat len epoch.toNat s
      .next (emit (.read r.1) r.2)

/-! ## Compare-and-exchange (R362, R363) -/

/-- The transition from tally EXP to the class and id of NEW is allowed (R363). -/
def casRule (s : State) (exp new : Word) : Bool :=
  let c := fld exp 31 28
  let nc := fld new 31 28
  let ni := fld new 27 16
  if c = tFree then nc == tHost
  else if c = tHost then
    decide (fld exp 15 0 = epochOf s tHost 0) &&
      (nc == tFree || (nc == tDevice && ni == 0) || (nc == tEngine && decide (ni < 8)) ||
        (nc == tSensor && (decide (ni < 4) || ni == objId)))
  else if c = tSeized then nc == tFree
  else false

/-- The tally a block takes from NEW (R362). HOST has the one id 0 (R359), so an ID beside CLASS HOST bears on nothing (log entry 67). -/
def casTally (s : State) (new : Word) : Word :=
  let nc := fld new 31 28
  if nc = tFree then 0 else if nc = tHost then ownTally s tHost 0 else ownTally s nc (fld new 27 16)

/-- A GO on channel k (R362). -/
def casGo (k : Nat) (v : Word) (s : State) : State :=
  let exp := reg s (Reg.wnCas k)
  let new := reg s (Reg.wnCas k + 4)
  let count := fld v 22 16
  let block := fld v 11 0
  let result (c : Status) (first : Nat) (s : State) : State :=
    setReg (Reg.wnCas k + 0xC) (at_ 31 16 c.code ||| at_ 11 0 first) s
  if count = 0 ∨ 64 < count ∨ 4096 < block + count then result .CAS_RANGE 0 s
  else if ¬ casRule s exp new then result .CAS_RULE 0 s
  else match ((List.range count).map (block + ·)).find? (fun b => tally s b != exp) with
    | some b => result .CAS_MISMATCH b s
    | none => result .OK 0 (forAll ((List.range count).map (block + ·)) (setTally · (casTally s new)) s)

/-- CAS_GO. -/
def execCasGo (k : CasId) (v : Word) (s : State) : Host.Outcome State Fault Refusal :=
  .next (hostWrite (Reg.wnCas k.val + 8) v (casGo k.val) s)

/-! ## Host liveness (R367, R464, R465) -/

/-- The liveness count restarts, or stops with TIMEOUT 0 (R367). -/
def restartAlive (s : State) : State :=
  { s with fr := { s.fr with aliveT := if rfld s Reg.wnAlive 15 0 = 0 then none else some s.linkTime } }

/-- A write of WN_ALIVE_KICK: the count restarts; the first one after the host was lost ends that condition, cancels a
seizure in grace, and lets the host containment end at each slot's next boundary (R367, R465, R467). -/
def aliveKick (_v : Word) (s : State) : State :=
  let s := restartAlive s
  if s.fr.hostLost then
    let s1 := setBit Reg.frGrace 12 false { s with fr := { s.fr with hostLost := false } }
    forAll (List.range 8) (fun n s => modSlot n (fun q => { q with
      contain := q.contain.map fun c => if c.cause = .host then { c with ending := true } else c }) s) s1
  else s

/-- KICK. -/
def execKick (s : State) : Host.Outcome State Fault Refusal := .next (hostWrite Reg.wnAliveKick 0 aliveKick s)

/-- A write of WN_ALIVE (R367): the count restarts, or stops with TIMEOUT 0. -/
def aliveWrite (v : Word) (s : State) : State := restartAlive (setReg Reg.wnAlive (v &&& 0xFFFF) s)

/-- ALIVE_WRITE. -/
def execAliveWrite (v : Word) (s : State) : Host.Outcome State Fault Refusal := .next (hostWrite Reg.wnAlive v aliveWrite s)

/-- No write of WN_ALIVE_KICK has come for TIMEOUT ms of link time (R367). A PCI Express link that stays down for TIMEOUT ms
lets no such write through in that time, so its condition is this one too. -/
def hostSilent (s : State) : Bool :=
  match s.fr.aliveT with
  | some t => decide (rfld s Reg.wnAlive 15 0 * msTicks ≤ since s t)
  | none => false

/-- The host has stopped answering (R367, R464, R465); until its next kick it does not stop answering anew. -/
def hostLost (s : State) : State :=
  if !hostSilent s || s.fr.hostLost then s
  else withDim (fun s => startGrace .host (containAll .host { s with fr := { s.fr with hostLost := true } }))
    (logEvent .HOST_LOST clsHost 0 0 s)

/-- HOST_LOST. -/
def execHostLost (s : State) : Host.Outcome State Fault Refusal := .next (hostLost s)

/-! ## The mailbox (R368 to R372) -/

/-- n bytes of the mailbox from BAR4 offset o. -/
def bar4Bytes (s : State) (o n : Nat) : List Byte :=
  (List.range n).map fun i => (s.bar4.get ((o + i) / 4 * 4) >>> (8 * ((o + i) % 4))).setWidth 8

/-- Stores bytes in the mailbox from a word-aligned offset on, the last word padded with zeros. -/
def bar4Store (o : Nat) (bs : List Byte) (s : State) : State :=
  { s with bar4 := s.bar4.setAll ((List.range (ceilDiv bs.length 4)).map fun i =>
      (o + 4 * i, BitVec.ofNat 32 (leAt bs (4 * i) 4))) }

/-- A mailbox request is being executed with command cmd (R369). -/
def mailBusy (s : State) (cmd : Nat) : Bool := rbit s Reg.mbStatus 0 && decide (s.mail.cmd = cmd)

/-- Writes the response with a status value and ends the request (R369). -/
def mailAnswer (c : Nat) (ret : Nat) (payload : List Byte) (s : State) : State :=
  let m := s.mail
  let words := leBytes 2 (m.cmd % 32768 + 32768) ++ leBytes 2 m.seq ++ leBytes 4 payload.length ++ leBytes 2 c ++
    leBytes 2 0 ++ leBytes 4 ret ++ payload
  let s1 := bar4Store 0x8000 words s
  let s2 := setBit Reg.mbStatus 2 false (setBit Reg.mbStatus 0 false (setFld Reg.mbStatus 31 16 c s1))
  raiseVec 23 s2

/-- The response with a status of R473. -/
def mailRespond (c : Status) (ret : Nat) (payload : List Byte) (s : State) : State := mailAnswer c.code ret payload s

/-- A response whose status the spec does not state. -/
def mailFree (s : State) : State :=
  let f := takeFree s
  mailAnswer (f.1.toNat % 65536) 0 [] f.2

/-- The commands of R371. -/
def mailKnown (cmd : Nat) : Bool := decide (1 ≤ cmd ∧ cmd ≤ 6)

/-- A write of MB_DOORBELL (R369): the request is copied and taken, or answered at once where it breaks the format. -/
def doorbell (v : Word) (s : State) : State :=
  if rbit s Reg.mbStatus 0 then setBit Reg.mbStatus 1 true s
  else
    let len := leNat (bar4Bytes s 4 4)
    let cmd := leNat (bar4Bytes s 0 2)
    let seq := leNat (bar4Bytes s 2 2)
    let s1 := { s with mail := { s.mail with
      cmd := cmd, seq := seq, arg0 := leNat (bar4Bytes s 8 4), arg1 := leNat (bar4Bytes s 12 4),
      payload := bar4Bytes s 16 (min len 32752), lockT := s.linkTime } }
    let s2 := setBit Reg.mbStatus 2 true (setBit Reg.mbStatus 0 true s1)
    if seq ≠ fld v 15 0 ∨ 32752 < len then mailRespond .MB_FORMAT 0 [] s2
    else if ¬ mailKnown cmd then mailRespond .MB_CMD 0 [] s2
    else s2

/-- DOORBELL. -/
def execDoorbell (v : Word) (s : State) : Host.Outcome State Fault Refusal := .next (hostWrite Reg.mbDoorbell v doorbell s)

/-- VERSION (R371): microcode version and patch levels are free values (log entry 7). -/
def execVersion (s : State) : Host.Outcome State Fault Refusal :=
  .next (if mailBusy s 1 then
    mailRespond .OK Config.microcodeVersion.toNat ((Config.patchLevels s.mail.patches ++ List.replicate 16 0).take 16) s
    else s)

/-- ENG_MEM_READ (R371): data is what the engine on the port answers for its descriptor space. A block that is not
ENGINE with the port drops the copy under R361; the spec gives that response no status, which stays free. -/
def engMemRead (data : List Byte) (s : State) : State :=
  let p := s.mail.arg0
  let b := s.mail.arg1
  if 8 ≤ p ∨ 4096 ≤ b then
    mailFree s
  else if ¬ (linkState s p = lsIdentify ∨ linkState s p = lsBind ∨ linkState s p = lsRun) then mailRespond .MB_STATE 0 [] s
  else if ¬ mayAccess s tEngine p (epochOf s tEngine p) b then
    mailFree (windowErr tEngine b false s)
  else
    let bytes := data.take 0x5000
    mailRespond .OK bytes.length [] (handBack tEngine p b (dramWrite (blockAddr b) bytes s))

/-- ENG_MEM_READ. -/
def execEngMemRead (data : List Byte) (s : State) : Host.Outcome State Fault Refusal :=
  .next (if mailBusy s 3 then engMemRead data s else s)

/-- The request under way is TRAIN_MODE with this ARG0 (R371). -/
def trainAsked (s : State) (arg : Nat) : Bool := mailBusy s 4 && decide (s.mail.arg0 = arg)

/-- A TRAIN_MODE whose ARG0 names no mode: the spec states no answer, and the status stays free (log entry 67). -/
def trainOther (s : State) : State := if mailBusy s 4 ∧ 1 < s.mail.arg0 then mailFree s else s

/-- TRAIN_MODE_MANUAL (R411): accepted only while the boot Cast runs and the loader is IDLE. -/
def execTrainModeManual (s : State) : Host.Outcome State Fault Refusal :=
  .next (if trainAsked s 1 then
    if s.cast.running.gen = 0 ∧ rfld s Reg.cstStatus 3 0 = 0 then
      mailRespond .OK 0 [] (setBit Reg.mcStatus 5 false (setBit Reg.mcStatus 4 true (modMc (fun m => { m with gather := none }) s)))
    else mailRespond .MB_STATE 0 [] s
    else trainOther s)

/-- TRAIN_MODE_MICROCODE (R411): manual mode ends, steps 4 to 6 run on every PC; failed lists the PCs that fail them and
their retraining too. The training writes rows of every bank, so the contents of DRAM are open (log entry 14). -/
def execTrainModeMicrocode (failed : List PcId) (s : State) : Host.Outcome State Fault Refusal :=
  .next (if trainAsked s 0 then
    let s1 := if manualMode s then
        forAll (failed.map (·.val)) pcFail (helpersUsed (dramForget (setBit Reg.mcStatus 4 false (modMc (fun m => { m with patRun := false }) s))))
      else s
    mailRespond .OK 0 [] s1
    else trainOther s)

/-- Free pool of the Cast in force in MiB (R37): capacity outside every POOL entry. -/
def freePool (s : State) : Nat := capacityMiB s - s.cast.pool.foldl (fun a e => a + e.size) 0

/-- The march of BIST over the free pool leaves nothing known of what stood there (R472). What no write has named since the
reset becomes open anew with it, as after a pattern run (log entry 14). -/
def marchFree (s : State) : State :=
  { s with
    dram := s.dram.filter fun x => s.cast.pool.any fun e =>
      decide (e.base * 1048576 ≤ x.1 ∧ x.1 < (e.base + e.size) * 1048576)
    dramEpoch := s.dramEpoch + 1 }

/-- BIST (R472): refused with a LEN_n asserted or without room; RET holds the tests that passed. The march writes the
free pool only. -/
def execBist (passed : Word) (s : State) : Host.Outcome State Fault Refusal :=
  .next (if mailBusy s 5 then
    let set := s.mail.arg0
    if set.testBit 2 ∧ (List.range 8).any (lenPin s) then mailRespond .BIST_STATE 0 [] s
    else if set.testBit 0 ∧ freePool s < 1 then mailRespond .BIST_SPACE 0 [] s
    else mailRespond .OK (passed.toNat &&& set &&& 15) [] (if set.testBit 0 then marchFree s else s)
    else s)

/-- PATCH_LOAD (R371): the image in the named blocks is checked, installed where it is good, and the blocks are handed
back. What makes an image good, and the status of one that is not, the spec does not give (log entry 7). -/
def execPatchLoad (s : State) : Host.Outcome State Fault Refusal :=
  .next (if mailBusy s 6 then
    let bs := blocksOf s.mail.arg0 s.mail.arg1
    let image := bs.flatMap fun b => dramRead s (blockAddr b) 65536
    let s1 := handBackDev bs s
    if bs.all (isDevice s) && Config.patchImageGood image then
      mailRespond .OK 0 [] { s1 with mail := { s1.mail with patches := s1.mail.patches + 1 } }
    else mailFree s1
    else s)

/-- A core has held the mailbox lock for 50 ms of link time (R370). -/
def lockOverdue (s : State) : Bool := rbit s Reg.mbStatus 0 && decide (50 * msTicks ≤ since s s.mail.lockT)

/-- The core holding the lock is reset after 50 ms (R370). -/
def mailAbort (core : Nat) (s : State) : State :=
  if lockOverdue s then
    mailRespond .MB_ABORTED 0 [] (logEvent .MAILBOX_ABORT clsPart core 0 (incSat Reg.mbStatus 15 8 s))
  else s

end Sys2Proof.Machine
end

