-- ==== Sys2Proof/Machine/CastLoad.lean ====
section
/-! DEFINITION. The Cast loader (R24 to R58, R371, R372, R499, R501): loads from the window and the mailbox, validation, the
first load, and the recast switch with its warm stages and its rollback. -/

set_option Elab.async false

namespace Sys2Proof.Machine

/-- CST_STATUS.STATE values (R501). -/
def csIdle : Nat := 0
def csLoading : Nat := 1
def csValidating : Nat := 2
def csSwitching : Nat := 3
def csWarm : Nat := 4
def csRollback : Nat := 5

/-- The loader's state. -/
def castSt (s : State) : Nat := rfld s Reg.cstStatus 3 0

/-- Sets the loader's state. -/
def setCastSt (x : Nat) (s : State) : State := setFld Reg.cstStatus 3 0 x s

/-- Changes what the loader holds. -/
def modCast (f : CastState → CastState) (s : State) : State := { s with cast := f s.cast }

/-- CST_STATUS.RESULT. -/
def castResult (c : Status) (s : State) : State := setFld Reg.cstStatus 31 16 c.code s

/-- The Cast-loader vector (R358). -/
def vecCast : Nat := 1

/-- Generation in force as CST_GEN shows it. -/
def castGen (s : State) : Nat := s.cast.running.gen

/-! ## Loads (R45 to R47, R371, R372) -/

/-- The load ends (R45): named blocks go back to HOST, and the vector is raised. -/
def castEnd (s : State) : State :=
  let s1 := match s.cast.load with
    | some (.window b c) => handBackDev (blocksOf b c) s
    | _ => s
  raiseVec vecCast (modCast (fun k => { k with load := none, bytes := [] }) s1)

/-- The load fails (R49): RESULT, CST_ERR and CST_ERR_FIELD; the Cast in force stays. -/
def castFail (e : CastErr) (s : State) : State :=
  castEnd (setCastSt csIdle (castResult e.status (setRegs
    [(Reg.cstErr, BitVec.ofNat 32 e.off), (Reg.cstErrField, at_ 31 24 e.ty ||| at_ 23 16 e.index ||| at_ 15 0 e.field),
     (Reg.cstPendGen, BitVec.ofNat 32 (castGen s))] s)))

/-- A failure that no place in the Cast goes with. -/
def bareErr (c : Status) : CastErr := { status := c, off := 0, ty := 0, index := 0, field := 0 }

/-- A LOAD with a source (R45 to R47). -/
def startLoad (mailbox : Bool) (s : State) : State :=
  let b := rfld s Reg.cstSrc 11 0
  let c := rfld s Reg.cstSrc 22 16
  if castSt s ≠ csIdle ∨ manualMode s ∨ mailBusy s 5 then castResult .CAST_BUSY s
  else if mailbox then setCastSt csLoading (modCast (fun k => { k with load := some .mailbox, bytes := [] }) s)
  else if c = 0 ∨ 64 < c ∨ 4096 < b + c then castFail (bareErr .CAST_FORMAT) s
  else
    let s1 := modCast (fun k => { k with load := some (.window b c), bytes := [] }) s
    if (blocksOf b c).all (isDevice s) then setCastSt csLoading s1 else castFail (bareErr .CAST_TALLY) s1

/-- A chunk of a mailbox load (R46, R372): at the offset where the last one ended, the first with at least 64 bytes. DESIGN
CHOICE (log entry 74): a chunk at the right offset that holds no byte breaks the order of chunks too. -/
def chunkOk (have_ off len : Nat) : Bool := off == have_ && (decide (64 ≤ len) || off != 0) && decide (1 ≤ len)

/-- The loader holds all bytes of a mailbox load (R501): check 1 of R49 on the header and the length supplied, then the other
checks run. -/
def mailboxRead (s : State) : State :=
  match checkHeader (s.cast.bytes.take 64) fun t => t == s.cast.bytes.length with
  | some e => castFail e s
  | none => setCastSt csValidating s

/-- CAST_LOAD (R371, R372): with LAST the loader leaves LOADING (R501). A power limit holds the loader (R429). The response to a
chunk that is not taken has no status in the spec. -/
def castChunk (s : State) : State :=
  if ¬ mailBusy s 2 ∨ s.heat.limited then s
  else match castSt s == csLoading, s.cast.load with
    | true, some .mailbox =>
      if chunkOk s.cast.bytes.length s.mail.arg0 s.mail.payload.length then
        let s1 := mailRespond .OK 0 [] (modCast (fun k => { k with bytes := k.bytes ++ s.mail.payload }) s)
        if s.mail.arg1.testBit 0 then mailboxRead s1 else s1
      else mailFree (castFail (bareErr .CAST_FORMAT) s)
    | _, _ => mailRespond .MB_STATE 0 [] s

/-- CAST_LOAD. -/
def execCastLoad (s : State) : Host.Outcome State Fault Refusal := .next (castChunk s)

/-- A mailbox load still waits for chunks. -/
def awaitsChunk (s : State) : Bool :=
  castSt s == csLoading && (match s.cast.load with
    | some .mailbox => true
    | _ => false)

/-- CAST_CHUNK_TIMEOUT (R372). -/
def execCastChunkTimeout (s : State) : Host.Outcome State Fault Refusal :=
  .next (if awaitsChunk s then castFail (bareErr .CAST_FORMAT) s else s)

/-- MAILBOX_ABORT (R370): a chunk that is aborted fails its load (R372). -/
def execMailboxAbort (core : Fin 4) (s : State) : Host.Outcome State Fault Refusal :=
  .next (let s1 := mailAbort core.val s
    if mailBusy s 2 ∧ lockOverdue s ∧ awaitsChunk s then castFail (bareErr .CAST_FORMAT) s1 else s1)

/-- CAST_READ_COMPLETE (R501): the named blocks of a window load have been read, and check 1 has been made. -/
def castRead (s : State) : State :=
  if castSt s ≠ csLoading ∨ s.heat.limited then s
  else match s.cast.load with
    | some (.window b c) =>
      let head := devRead s (blockAddr b) 64
      match checkHeader head fun t => decide ((c - 1) * 65536 < t ∧ t ≤ c * 65536) with
      | some e => castFail e s
      | none => setCastSt csValidating (modCast (fun k => { k with bytes := devRead s (blockAddr b) (leAt head 12 4) }) s)
    | _ => s

/-- CAST_READ_COMPLETE. -/
def execCastReadComplete (s : State) : Host.Outcome State Fault Refusal := .next (castRead s)

/-! ## Cast lock (R43) -/

/-- Cast lock is reached. -/
def castLock (s : State) : State := setBit Reg.cstStatus 4 true s

/-- LOCK entries of a Cast join those in force; LOCK_ON_LOAD reaches Cast lock. -/
def adoptLocks (l : LockRec) (s : State) : State :=
  let s1 := modCast (fun k => { k with
    lockRegs := k.lockRegs ++ l.regs, lockFlds := k.lockFlds ++ l.flds.filter fun f => !k.lockFlds.contains f }) s
  if l.lockOnLoad then castLock s1 else s1

/-- CST_SLOTn_GEN: the generation that slot n runs. -/
def showSlotGen (n gen : Nat) (s : State) : State :=
  setReg (Reg.cstSlotGen n) (BitVec.ofNat 32 (if declared s n then gen else 0)) s

/-- The Cast c is in force whole. -/
def adoptCast (c : CastDesc) (s : State) : State :=
  let s1 := modCast (fun k => { k with running := c, staged := none, pool := c.pool, switch := none }) s
  let s2 := adoptLocks c.lock (setDomains c.pdOff s1)
  let s3 := forAll (List.range 8) (fun n => showSlotGen n c.gen) s2
  let s4 := setRegs [(Reg.cstGen, BitVec.ofNat 32 c.gen), (Reg.cstPendGen, BitVec.ofNat 32 c.gen)] s3
  castEnd (setCastSt csIdle (setBit Reg.cstStatus 5 false (castResult .OK s4)))

/-- The link of port p tries to bind to a slot that has changed (R318, R333). -/
def retryPort (p : Nat) (s : State) : State :=
  tryBind p (modPort p (fun q => { q with rejected := false }) s)

/-- A Cast loaded over the boot Cast is applied whole at one instant (R25). -/
def firstLoad (c : CastDesc) (s : State) : State :=
  let s1 := modCast (fun k => { k with pool := c.pool }) s
  let s2 := c.slots.foldl (fun s x => buildSlot x.1 x.2 s) s1
  forAll (c.slots.map (·.2.slot.port)) retryPort (adoptCast c s2)

/-! ## Records of a recast on a slot (R30, R51, R319) -/

/-- A change of the SLOT record that rebinds the engine (R51, R318). -/
def rebinds (a b : SlotCast) : Bool :=
  a.slot.port != b.slot.port || a.slot.cls != b.slot.cls || a.slot.minW != b.slot.minW || a.slot.minH != b.slot.minH ||
    a.slot.maxW != b.slot.maxW || a.slot.maxH != b.slot.maxH || a.slot.activeW != b.slot.activeW || a.slot.activeH != b.slot.activeH

/-- The PX registers of slot n move with the composer, with the values they had before. -/
def movePx (n a b : Nat) (before s : State) : State :=
  if a = b then s else setRegs ((List.range 12).map fun i => (Reg.px b n + 4 * i, reg before (Reg.px a n + 4 * i))) s

/-- Channels of two CHMP records. -/
def chansBoth (a b : SlotCast) : List Nat := (a.chmp ++ b.chmp).map (·.lc)

/-- The supply target of slot n as it runs b: VMAX with FIXED or no tracked channel, else within the new range (R240, R245). -/
def recastTarget (s : State) (n : Nat) (b : SlotCast) : Nat :=
  let u := (slotAt s n).supply
  if ¬ u.frozen ∧ (rbit s (Reg.lsHyst n) 16 ∨ ¬ tracked b) then b.supply.vmax else clampN u.target b.supply.vmin b.supply.vmax

/-- The registers, pitches and settings of slot n move from what it ran to what it runs now. -/
def resync (n : Nat) (a b : SlotCast) (s : State) : State :=
  let s1 := modSlot n (fun q => { q with
    cfg := some b
    trial := if a.slot.trialDepth = b.slot.trialDepth then q.trial else List.replicate b.slot.trialDepth LineEnt.empty
    supply := { q.supply with target := recastTarget s n b } }) s
  let s2 := syncChanRegs (chansBoth a b) s (movePx n a.pipe.composer b.pipe.composer s (syncSlotRegs n s s1))
  let a1 := { a with pipe := { a.pipe with composer := b.pipe.composer } }
  let s3 := loadActive n (some a) b (loadCastVals n (some a1) b s2)
  showSupply n (syncPitches (syncPitchRange n (some a) (some b) s3))

/-- Which light channel drives which engine channel in which role. -/
def wiring (c : SlotCast) : List (Nat × Nat × Nat) := c.chmp.map fun e => (e.lc, e.engCh, e.role)

/-- Slot n runs b from now on; cold says that cold records are among what changes. Calibration follows FLAGS bit 1 of either class
of recast (R230, R267). -/
def recastSlot (n : Nat) (b : SlotCast) (cold : Bool) (s : State) : State :=
  match cfgOf s n with
  | none => s
  | some a =>
    let re := cold && rebinds a b && decide (linkState s a.slot.port = lsRun)
    let s1 := if re then quiesce a.slot.port (if a.slot.port = b.slot.port then .rebind else .host) 6 s else s
    let s2 := recheckCommit n (resync n a b (if cold then dropHeld n s1 else s1))
    let m := (slotAt s2 n).mode
    let s3 := if a.slot.modes[m]? ≠ b.slot.modes[m]? then changeMode n m s2 else s2
    let s4 := if (a.phse.source ≠ b.phse.source ∨ a.phse.input ≠ b.phse.input) ∧ bound s3 n then enterAcquire n s3 else s3
    let s5 := computeTraj n (revalidate n (showLoad n s4))
    let s6 :=
      if ¬ bound s5 n then s5
      else if cold && wiring a != wiring b then calBind n b.slot.port (bindChans b.slot.port b s5)
      else calRecast n s5
    if a = b then s6 else retryPort b.slot.port s6

/-- Slot n leaves the Cast: its link quiesces and stays in Identify (R333), and its laser ladder is removed (R432). -/
def removeSlot (n : Nat) (s : State) : State :=
  let s1 := unbuildSlot n (if linkState s (portOf s n) = lsRun then quiesce (portOf s n) .host 6 s else s)
  setReg (Reg.thLsStep n) 0 (modHeat (fun h => { h with ladders := setNth h.ladders n Ladder.init }) s1)

/-! ## The switch (R51 to R53, R55, R499) -/

/-- Slot n counts as having passed its boundary (R52). -/
def passedNow (s : State) (n : Nat) : Bool := !bound s n || !(slotAt s n).contain.isEmpty || containedOff s n

/-- No boundary of slot n that emits will come: a slot that R52 names, or one whose reckoner does not project. -/
def noBoundary (s : State) (n : Nat) : Bool := passedNow s n || !projects (reckOf s n)

/-- Changes the switch under way. -/
def modSwitch (f : SwitchState → SwitchState) (s : State) : State := modCast (fun k => { k with switch := k.switch.map f }) s

/-- The plan of slot n, with what the new Cast gives it. -/
def planOf (s : State) (n : Nat) : Option (SlotPlan × Option SlotCast) :=
  match s.cast.switch, s.cast.staged with
  | some w, some c => (w.plans.lookup n).map fun p => (p, c.find n)
  | _, _ => none

/-- Slots of a list of plans that satisfy a test. -/
def plansWith (w : SwitchState) (t : SlotPlan → Bool) : List Nat := (w.plans.filter fun x => t x.2).map (·.1)

/-- Hot and cold records apply to slot n, which has come to its boundary or counts as having passed it. -/
def switchSlot (n : Nat) (s : State) : State :=
  match s.cast.switch, planOf s n with
  | some w, some (p, new) =>
    if castSt s ≠ csSwitching ∨ w.passed.contains n ∨ w.dark.contains n then s
    else
      let cold := p.has .cold
      let s1 := modSwitch (fun w => if cold then { w with dark := n :: w.dark } else { w with passed := n :: w.passed }) s
      let s2 := if p.removed then removeSlot n s1
        else match cfgOf s1 n, new with
          | some c, some d =>
            let b := SlotCast.take p .cold (SlotCast.take p .hot c d) d
            if cold || b != c then recastSlot n b cold s1 else recheckCommit n s1
          | none, some d => retryPort d.slot.port (buildSlot n d s1)
          | _, _ => s1
      if cold then modSlot n (fun q => { q with darkCast := true }) s2 else s2
  | _, _ => s

/-- Warm records apply to slot n in stage 1 or stage 2 (R53): until every slot touched has taken stage 1, a slot runs on the
lesser SHARE and on the pitches that both ranges hold. Positions count from the base of the pitches that both ranges hold, and
the other fields of a warm PIPE record wait for stage 2 (DESIGN CHOICE, log entry 75). -/
def warmSlot (n : Nat) (s : State) : State :=
  match s.cast.switch, planOf s n, cfgOf s n with
  | some w, some (p, some d), some c =>
    let touched := plansWith w fun p => p.has .warm
    if castSt s ≠ csWarm ∨ ¬ p.has .warm ∨ w.stage2.contains n then s
    else
      let s1 := if w.stage1.contains n then s else modSwitch (fun w => { w with stage1 := n :: w.stage1 }) s
      let all := touched.all fun k => k == n || w.stage1.contains k
      let lo := max c.pipe.pitchBase d.pipe.pitchBase
      let hi := min (c.pipe.pitchBase + c.pipe.pitches) (d.pipe.pitchBase + d.pipe.pitches)
      let half : PipeRec := { c.pipe with share := min c.pipe.share d.pipe.share, pitchBase := lo, pitches := hi - lo }
      let whole := all || p.pipe != some .warm ||
        (half.share == d.pipe.share && half.pitchBase == d.pipe.pitchBase && half.pitches == d.pipe.pitches)
      if whole then modSwitch (fun w => { w with stage2 := n :: w.stage2 }) (recastSlot n (SlotCast.take p .warm c d) false s1)
      else if w.stage1.contains n then s1
      else recastSlot n { SlotCast.take p .warm c d with pipe := half, slot := c.slot, chmp := c.chmp, phse := c.phse } false s1
  | _, _, _ => s

/-- Milliseconds since switch start of the current or last recast (R58). -/
def switchMs (s : State) : Nat := ((s.cast.recastAt).map fun t => min 65535 (since s t / msTicks)).getD 0

/-- The recast completes (R55). -/
def completeRecast (c : CastDesc) (s : State) : State :=
  adoptCast c s

/-- The POOL record applies once every slot whose stores change is dark (R51). -/
def switchPool (s : State) : State :=
  match s.cast.switch, s.cast.staged with
  | some w, some c =>
    if (plansWith w fun p => p.pool).all w.dark.contains then modCast (fun k => { k with pool := c.pool }) s else s
  | _, _ => s

/-- Dark slots whose stores stand as the new Cast gives them have passed; each slot that has passed shows the new
generation. -/
def switchPass (s : State) : State :=
  match s.cast.switch, s.cast.staged with
  | some _, some c =>
    let s1 := if s.cast.pool = c.pool then modSwitch (fun w => { w with
        passed := w.passed ++ w.dark.filter fun n => !w.passed.contains n }) s
      else modSwitch (fun w => { w with
        passed := w.passed ++ w.dark.filter fun n => !w.passed.contains n && !(w.plans.lookup n).any (·.pool) }) s
    forAll ((s1.cast.switch.map (·.passed)).getD []) (fun n => showSlotGen n c.gen) s1
  | _, _ => s

/-- The warm phase begins once every slot has passed; the recast completes once every warm record has applied. Slots that no
boundary comes to take their warm records at once. -/
def switchProgress (s : State) : State :=
  let s1 := if castSt s = csSwitching then
      let a := switchPass (switchPool s)
      match a.cast.switch with
      | some w =>
        if w.plans.all fun x => w.passed.contains x.1 then
          let b := setCastSt csWarm a
          let t := (plansWith w fun p => p.has .warm).filter (noBoundary b)
          forAll (t ++ t) warmSlot b
        else a
      | none => a
    else s
  match s1.cast.switch, s1.cast.staged with
  | some w, some c =>
    if castSt s1 = csWarm ∧ (plansWith w fun p => p.has .warm).all w.stage2.contains then completeRecast c s1 else s1
  | _, _ => s1

/-- Slots that no boundary comes to take what a boundary would bring: in the warm phase also a slot whose reckoner does not
project, which R56 does not bound. -/
def switchSweep (s : State) : State :=
  match s.cast.switch with
  | some w =>
    let l := (w.plans.map (·.1)).filter (if castSt s = csWarm then noBoundary s else passedNow s)
    switchProgress (forAll l (fun n s => if castSt s = csWarm then warmSlot n s else switchSlot n s) s)
  | none => s

/-- The staged Cast begins its switch (R51, R499). -/
def startSwitch (c : CastDesc) (s : State) : State :=
  let old := s.cast.running
  let slots := (List.range 8).filter fun n => (old.find n).isSome || (c.find n).isSome
  let w : SwitchState :=
    { start := s.linkTime, plans := slots.map fun n => (n, slotPlan old c (slotAt s n).mode n), passed := [], dark := []
      stage1 := [], stage2 := [], rolling := [], prev := (List.range 8).filterMap fun n => (cfgOf s n).map fun k => (n, k) }
  let s1 := setDomains (s.cast.pdOff &&& c.pdOff) (modCast (fun k => { k with staged := some c, switch := some w, recastAt := some s.linkTime }) s)
  switchSweep (setBit Reg.cstStatus 5 true (setCastSt csSwitching s1))

/-- VALIDATION_COMPLETE: checks 2 to 11 of R49, then the first load or the switch. -/
def castValidated (s : State) : State :=
  if castSt s ≠ csValidating ∨ s.heat.limited then s
  else
    let env : CastEnv :=
      { step := 1, capMiB := capacityMiB s, running := s.cast.running, recast := decide (castGen s ≠ 0)
        locked := castLocked s, flds := s.cast.lockFlds }
    match validate env s.cast.bytes with
    | .inl e => castFail e s
    | .inr c =>
      let s1 := setReg Reg.cstPendGen (BitVec.ofNat 32 c.gen) s
      if castGen s = 0 then firstLoad c s1 else startSwitch c s1

/-- VALIDATION_COMPLETE. -/
def execValidationComplete (s : State) : Host.Outcome State Fault Refusal :=
  .next (serveQueued (withDim castValidated s))

/-! ## Abort (R56) -/

/-- Slot n returns to the previous generation. -/
def rollSlot (n : Nat) (s : State) : State :=
  match s.cast.switch with
  | none => s
  | some w =>
    let wasDark := w.dark.contains n
    let s1 := match w.prev.lookup n with
      | none => if declared s n then removeSlot n s else s
      | some a =>
        if declared s n then
          let t := recastSlot n a wasDark s
          if wasDark then modSlot n (fun q => { q with darkCast := true }) t else t
        else retryPort a.slot.port (buildSlot n a s)
    showSlotGen n (castGen s) (modSwitch (fun w => { w with rolling := w.rolling.filter (· != n) }) s1)

/-- The rollback ends when every slot has returned. -/
def rollProgress (s : State) : State :=
  match s.cast.switch with
  | some w =>
    if castSt s = csRollback ∧ w.rolling.isEmpty then
      let s1 := modCast (fun k => { k with switch := none, staged := none, pool := k.running.pool }) s
      let s2 := setDomains s.cast.running.pdOff s1
      setCastSt csIdle (setBit Reg.cstStatus 5 false s2)
    else s
  | none => s

/-- Slots that no boundary comes to return at once. -/
def rollSweep (s : State) : State :=
  match s.cast.switch with
  | some w => rollProgress (forAll (w.rolling.filter (noBoundary s)) rollSlot s)
  | none => s

/-- The recast aborts before every slot has passed (R56). -/
def abortRecast (s : State) : State :=
  match s.cast.switch with
  | some w =>
    if castSt s ≠ csSwitching then s
    else
      let lowest := ((w.plans.map (·.1)).find? fun n => !w.passed.contains n).getD 0
      let s1 := modSwitch (fun w => { w with rolling := w.passed ++ w.dark.filter fun n => !w.passed.contains n }) s
      let s2 := logEvent .RECAST_ABORT clsPart 0 lowest (castResult .RECAST_ABORT (setCastSt csRollback s1))
      rollSweep (castEnd (setReg Reg.cstPendGen (BitVec.ofNat 32 (castGen s)) s2))
  | none => s

/-- 250 ms have passed since switch start (R56). -/
def recastOverdue (s : State) : Bool :=
  match s.cast.switch with
  | some w => decide (250 * msTicks ≤ since s w.start)
  | none => false

/-- RECAST_TIMEOUT: 250 ms after switch start. -/
def execRecastTimeout (s : State) : Host.Outcome State Fault Refusal :=
  .next (if castSt s = csSwitching ∧ recastOverdue s then serveQueued (withDim (fun s => abortRecast (switchSweep s)) s) else s)

/-- Recast records at a frame boundary of slot n: a slot whose cold records have applied resumes, scanner slots once their
axes are locked (R51). -/
def castBoundary (n : Nat) (s : State) : State :=
  let waits := castSt s == csSwitching && (match s.cast.switch with
    | some w => w.dark.contains n && !w.passed.contains n
    | none => false)
  let ready := match cfgOf s n with
    | some c => c.slot.cls != 2 || axesLocked s c.slot.port
    | none => true
  let s1 := if (slotAt s n).darkCast && !waits && ready then modSlot n (fun q => { q with darkCast := false }) s else s
  let st := castSt s
  if st = csRollback then
    let rolls := match s1.cast.switch with
      | some w => w.rolling.contains n
      | none => false
    rollSweep (if rolls then rollSlot n s1 else s1)
  else if st = csSwitching then switchSweep (switchProgress (switchSlot n s1))
  else if st = csWarm then switchSweep (warmSlot n s1)
  else s1

/-- Slot n counts as having passed its boundary: an engine reset during a recast (R455). -/
def castPassed (n : Nat) (s : State) : State :=
  if castSt s = csSwitching then switchProgress (switchSlot n s) else s

/-! ## CST_CTRL (R43, R45, R56, R58) -/

/-- A write of CST_CTRL. With SRC 2 or 3 it is dropped whole; a LOAD in it is refused with CAST_FORMAT. -/
def cstCtrl (v : Word) (s : State) : State :=
  if 2 ≤ fld v 2 1 then (if bit v 0 then raiseVec vecCast (castResult .CAST_FORMAT s) else s)
  else
    let s1 := setFld Reg.cstCtrl 2 1 (fld v 2 1) s
    let s2 := if bit v 4 then castLock s1 else s1
    let s3 := if bit v 8 then withDim abortRecast s2 else s2
    serveQueued (if bit v 0 then startLoad (fld v 2 1 == 1) s3 else s3)

/-- LOAD. -/
def execLoad (v : Word) (s : State) : Host.Outcome State Fault Refusal := .next (hostWrite Reg.cstCtrl v cstCtrl s)

/-- LOCK. -/
def execLock (v : Word) (s : State) : Host.Outcome State Fault Refusal := .next (hostWrite Reg.cstCtrl v cstCtrl s)

/-- ABORT. -/
def execAbort (v : Word) (s : State) : Host.Outcome State Fault Refusal := .next (hostWrite Reg.cstCtrl v cstCtrl s)

end Sys2Proof.Machine
end

