-- ==== Sys2Proof/Machine/Power.lean ====
section
/-! DEFINITION. Power, resets and states (R434 to R457, R492, R500): the power-up sequence, supply monitors and dips, entry to
and exit from Doze and Park, and the five kinds of reset. -/

set_option Elab.async false

namespace Sys2Proof.Machine

/-! ## What a part-wide reset keeps (R454, R456) -/

/-- Addresses of the fault log with its status. -/
def logAddrs : List Nat :=
  Reg.frLogStat :: (List.range 64).flatMap fun i => (List.range 4).map fun w => Reg.frLog i w

/-- Registers kept whole by a warm or watchdog reset. -/
def warmAddrs : List Nat :=
  logAddrs ++ [Reg.genResetCause, Reg.genWdog, Reg.genWake, Reg.genDipCnt, Reg.frFault, Reg.frSeizeStat, Reg.wnAlive,
    Reg.mcCtrl, Reg.mcMapout, Reg.thBound, Reg.tfLinkHi]

/-- Fields kept by a warm or watchdog reset: SEEN, HOST, DEAD and the throttle steps. -/
def warmFields : List (Nat × Nat × Nat) :=
  [(Reg.genDip, 15, 8), (Reg.frHalt, 8, 8), (Reg.mcStatus, 6, 6), (Reg.thPkg, 3, 0)] ++
  (List.range 8).map fun n => (Reg.thLsStep n, 3, 0)

/-- Registers of PD0 in Park, where it stays on (R17). -/
def parkAddrs : List Nat :=
  logAddrs ++ [Reg.genResetCause, Reg.genWake, Reg.genDip, Reg.genDipCnt, Reg.frFault, Reg.frHalt, Reg.frSeizeStat]

/-- Registers kept over an exit from Park (R454). DESIGN CHOICE (log entry 73): a setting of PD0 to which R454 gives no class
(GEN_WAKE, FR_HALT.HOST) takes its Cold value there. -/
def exitAddrs : List Nat := logAddrs ++ [Reg.genResetCause, Reg.genDipCnt]

/-- What a dip in progress and a dead memory keep over an exit from Park (R415, R442). -/
def exitFields : List (Nat × Nat × Nat) := [(Reg.genDip, 16, 16), (Reg.genDip, 7, 0), (Reg.mcStatus, 6, 6)]

/-- The registers after a reset: Cold values, with the named words and fields kept. -/
def keptRegs (words : List Nat) (fields : List (Nat × Nat × Nat)) (s : State) : SMap 32 :=
  fields.foldl (fun m f => m.set f.1 (putFld (m.get f.1) f.2.1 f.2.2 (fld (reg s f.1) f.2.1 f.2.2)))
    ((coldImage s.corePh.toNat).setAll (words.map fun a => (a, reg s a)))

/-- The part restarts with the given registers: the boot Cast's structure, every block at its reset (R24, R85, R297, R308,
R352, R366, R393, R454, R500). What lies outside the part, link time and the free values go on; an exit from Park sets link
time itself. -/
def restart (regs : SMap 32) (heat : HeatState) (power : PowerState) (s : State) : State :=
  { s with
    regs := regs, pitchAct := [], dram := [], dramEpoch := s.dramEpoch + 1, bar4 := [], cast := CastState.boot
    slots := Vector.replicate 8 SlotState.undeclared, ports := Vector.replicate 8 PortState.init, hall := HallState.init
    power := power
    fr := { FaultState.init with last := s.fr.last, aliveT := if regs.get Reg.wnAlive != 0 then some s.linkTime else none }
    mail := MailState.init, codec := CodecState.init, chans := Vector.replicate 96 ChanCal.init, page := none
    mc := DramState.init, heat := heat, sb := BridgeState.init, loops := Vector.replicate 128 LoopState.init }

/-! ## Reset cause (R453, R456) -/

/-- KIND codes of GEN_RESET_CAUSE. -/
def kCold : Nat := 0
def kWarm : Nat := 1
def kWatchdog : Nat := 2
def kParkExit : Nat := 3

/-- Records KIND, SOURCE and RAIL; PARK_WHY and COUNT stand. -/
def setCause (kind source rail : Nat) (s : State) : State :=
  setReg Reg.genResetCause ((reg s Reg.genResetCause &&& 0x00F0FFFF) ||| at_ 31 28 kind ||| at_ 27 24 source ||| at_ 19 16 rail) s

/-- Records PARK_WHY. -/
def setParkWhy (w : Nat) (s : State) : State := setFld Reg.genResetCause 23 20 w s

/-- A reset or Park exit is counted, and logged with its cause (R453, R460). -/
def noteReset (s : State) : State :=
  let s1 := incSat Reg.genResetCause 15 0 s
  logEvent .RESET clsPart 0 (rfld s1 Reg.genResetCause 31 16) s1

/-! ## The rails (R434, R438, R441) -/

/-- Rails VDD_AON and VDD_IO, which PD0 stands on. -/
def aonRails : BitVec 8 := 0b10000100

/-- Bit r of a rail mask. -/
def railBit (r : Nat) : BitVec 8 := 1#8 <<< r

/-- The monitors of the rails below step 2 of R438. -/
def railsDown (p : PowerState) : PowerState := { p with inBand := p.inBand &&& aonRails, judged := aonRails, seqStep := 1 }

/-- Power state at the start of the sequence from step 2. -/
def fromStep2 (s : State) : PowerState :=
  { PowerState.atT0 with inBand := s.power.inBand &&& aonRails, wdog := s.power.wdog, upT := s.linkTime, wakeT := s.linkTime }

/-- Power state at the start of the sequence from step 8, with the rails kept up (R450): monitors restart, those of the rails
the sequence brings up where the rail is in band (R441). -/
def fromStep8 (s : State) : PowerState :=
  { PowerState.atT0 with
    seqStep := min s.power.seqStep 7, inBand := s.power.inBand, judged := s.power.inBand ||| aonRails, wdog := s.power.wdog
    upT := s.linkTime, wakeT := s.linkTime }

/-- GEN_RAILr shows a measured voltage. -/
def showRail (r mv : Nat) (s : State) : State := setFld (Reg.genRail r) 15 0 mv s

/-- The rails that the sequence waits for (R438). -/
def awaited (s : State) : List Nat :=
  let p := s.power
  if p.st ≠ .boot ∨ p.resetLow ∨ p.retryWait then []
  else match p.seqStep with
    | 1 => [0]
    | 3 => [1]
    | 4 => [3, 4].filter fun r => !p.inBand.getLsbD r
    | 5 => [6]
    | 6 => [5]
    | _ => []

/-- A rail of the sequence is in band (R438, R441): its monitor judges from now on, and with the last rail of its step the
step is complete. -/
def railInBand (r : Nat) (s : State) : State :=
  if !(awaited s).contains r then s
  else
    let s1 := modPower (fun p => { p with inBand := p.inBand ||| railBit r, judged := p.judged ||| railBit r }) s
    if (awaited s1).isEmpty ∨ s.power.seqStep ≠ 4 then
      let k := if s.power.seqStep = 1 then 3 else s.power.seqStep + 1
      modPower (fun p => { p with seqStep := k, attempts := if k = 7 then 0 else p.attempts }) s1
    else s1

/-- A rail has not come in band in its window (R439). The third failure in a row locks the part out. -/
def sequenceFail (r : Nat) (s : State) : State :=
  if !(awaited s).contains r then s
  else
    let s1 := logEvent .SEQUENCE_FAIL clsSupply r r (setCause kWarm 3 r s)
    let s2 := modPower (fun p => { railsDown p with attempts := p.attempts + 1, retryWait := true }) (modHeat (fun h =>
      if h.start = .running then HeatState.init .warm else h) s1)
    if s2.power.attempts < 3 then s2
    else setParkWhy 3 (modPower (fun p => { p with st := .lockout, retryWait := false }) s2)

/-! ## Resets -/

/-- Link time and the fault log's own time as a cold reset leaves them (R90, R459). -/
def coldTime (s : State) : State := { s with linkTime := 0, fr := FaultState.init }

/-- A cold reset: PD0 is held in power-on reset until t0, with the cause of the reset recorded (R443, R449). -/
def coldReset (source : Nat) (s : State) : State :=
  let s1 := lenDropAll 7 s
  let p := { PowerState.atT0 with st := .por, inBand := 0, judged := 0 }
  coldTime (setCause kCold source 0 (restart (coldImage s.corePh.toNat) (HeatState.init .cold) p s1))

/-- POWER_ON: t0 (R438). The straps are sampled; the registers take their Cold values. Where a rail's cold reset led here its
cause stays, else it is power-on. With TESTEN high nothing more happens; with RESET_N low the sequence holds (R492). -/
def powerOn (ph : BitVec 2) (testen low : Bool) (s : State) : State :=
  let source := if s.power.st = .por then rfld s Reg.genResetCause 27 24 else 0
  let s1 := { coldReset source s with corePh := ph }
  let s2 := { s1 with
    regs := (coldImage ph.toNat).set Reg.genResetCause (reg s1 Reg.genResetCause)
    power := { PowerState.atT0 with st := if testen then .por else .boot, testen := testen, resetLow := low && !testen } }
  if low && !testen then setCause kWarm 0 0 s2 else s2

/-- A warm or watchdog reset (R449, R450, R454): every LEN_n deasserted, the part restarts with what survives, from step 8 of
R438, or from step 2 where the cause took a rail out of band. -/
def warmReset (kind source rail : Nat) (s : State) : State :=
  let s1 := lenDropAll 7 s
  let p := if kind = kWarm ∧ source = 2 then fromStep2 s else fromStep8 s
  let s2 := restart (keptRegs warmAddrs warmFields s1) (heatWarm s1).heat p s1
  let s3 := if kind = kWatchdog then modPower (fun p => { p with wdog := none }) (setBit Reg.genWdog 31 false s2) else s2
  noteReset (setCause kind source rail s3)

/-- Link time starts at 0 (R10, R90): the counter of PD9 has been Off. -/
def restartTime (s : State) : State :=
  { s with linkTime := 0, fr := { s.fr with last := none }, power := { s.power with upT := 0, wakeT := 0 } }

/-- The exit from Park, or from the lockout of R439, through a wake source (R447, R454): R438 from step 2. -/
def parkExit (source : Nat) (s : State) : State :=
  let s1 := restart (keptRegs exitAddrs exitFields s) (HeatState.init .warm)
    { fromStep2 s with holdTail := s.power.holdTail, wdog := none } s
  noteReset (setCause kParkExit source 0 (restartTime s1))

/-- Every domain but PD0 is off (R17, R440): the part is in Park. -/
def parkReset (s : State) : State :=
  restart (keptRegs parkAddrs [(Reg.mcStatus, 6, 6)] s) (HeatState.init .warm)
    { PowerState.atT0 with
      st := .park, inBand := s.power.inBand &&& aonRails, holdTail := s.power.holdTail, upT := s.linkTime, wakeT := s.linkTime } s

/-- RESET_N low for 1 µs (R447, R449, R492). -/
def resetN (s : State) : State :=
  match s.power.st with
  | .por => s
  | .park | .lockout => parkExit 1 s
  | .boot =>
    if s.power.seqStep < 7 then setCause kWarm 0 0 (modPower (fun p => { railsDown p with resetLow := true, retryWait := false }) s)
    else warmReset kWarm 0 0 s
  | _ => warmReset kWarm 0 0 s

/-- Zeros in a slot's plane-store directory: no block of it is valid (R170, R452). -/
def invalidatePlanes (n : Nat) (s : State) : State :=
  match cfgOf s n with
  | none => s
  | some c =>
    if c.slot.cls = 1 then dramWrite (dirAddr s n c 0 0) (List.replicate (4 * nmax c * nBlocks c) 0) s else s

/-- What calibration holds for slot n is lost (R332, R451, R454): estimators, models, maps and the matrix; flags and counts
stay. -/
def loseCal (n : Nat) (s : State) : State :=
  match cfgOf s n with
  | none => s
  | some c =>
    let s1 := modCal n (fun k => { SlotCal.init with job := k.job }) s
    let s2 := forAll (List.range 6) (fun i => setReg (Reg.caMtx n i) 0) (setReg (Reg.caAssay n) 0 (setReg (Reg.caStatus n) 0 s1))
    forAll (c.chmp.map (·.lc)) (fun k s =>
      let s3 := forAll (List.range 6) (fun i => setReg (Reg.caCh k + 4 * i) 0) (modChan k (fun _ => ChanCal.init) s)
      forAll (List.range 66) (fun i => setReg (Reg.lcMap k i) 0) s3) s2

/-- An engine reset of slot n (R451, R454). -/
def engineReset (n : Nat) (s : State) : State :=
  match cfgOf s n with
  | none => s
  | some c =>
    let p := c.slot.port
    let st := linkState s p
    let s1 := if st = lsQuiesce then modPort p (fun q => { q with quiesce := some .engineReset }) s
      else quiesce p .engineReset 7 s
    let s2 := if st = lsTrain ∨ st = lsLost then enterDetect p s1 else s1
    castPassed n (loseCal n (loopsDepart p (heatDepart n (flushLines n s2))))

/-- Engine resets of the slots of a mask, logged once (R453, R460). -/
def engineResets (mask : Nat) (s : State) : State :=
  let l := (List.range 8).filter fun n => mask.testBit n
  logEvent .RESET clsPart 0 (4 * 2 ^ 28 + mask * 256) (forAll l engineReset s)

/-- A fabric reset acts on slot n (R452): requests withdrawn, queues emptied, the slot dark. -/
def fabricSlot (n : Nat) (s : State) : State :=
  let s1 := forAll [0, 1, 2, 3] (cancelSwap n) (cancelCommit n (quietSlot n s))
  let s2 := modSlot n (fun q => { q with lanes := Lanes.empty, darkWin := [], camHold := [], darkFabric := true }) (stopRaster n s1)
  invalidatePlanes n (flushLines n s2)

/-- A fabric reset (R452), logged (R453, R460). -/
def fabricReset (s : State) : State :=
  let s1 := modPower (fun p => { p with fabric := true }) (forAll (declaredSlots s) fabricSlot s)
  logEvent .RESET clsPart 0 (5 * 2 ^ 28) s1

/-- A fabric reset completes: the slots stay dark until their next boundary. -/
def fabricDone (s : State) : State :=
  if s.power.fabric then
    modPower (fun p => { p with fabric := false }) (forAll (declaredSlots s) (fun n => modSlot n fun q => { q with darkFabric := true }) s)
  else s

/-- A write of GEN_RESET (R449, R453). -/
def genReset (v : Word) (s : State) : State :=
  if fld v 31 24 ≠ 0xA5 then logAccess .GEN_KEY 0 Reg.genReset s
  else if bit v 0 then warmReset kWarm 1 0 s
  else
    let s1 := if bit v 16 then fabricReset s else s
    if fld v 15 8 = 0 then s1 else serveQueued (engineResets (fld v 15 8) s1)

/-- PERST# (R450): the PCI Express core and its configuration space reset, and with them the MSI-X table and pending bits as
PCI Express has them after a reset (PRESUMED, log entry 11). -/
def perst (s : State) : State :=
  if ¬ powered s then s
  else
    let t := (List.range 64).flatMap fun v => [(Reg.msixTable + 16 * v, 0#32), (Reg.msixTable + 16 * v + 4, 0#32),
      (Reg.msixTable + 16 * v + 8, 0#32), (Reg.msixTable + 16 * v + 12, 1#32)]
    setRegs (t ++ [(Reg.msixPba, 0#32), (Reg.msixPba + 4, 0#32)]) s

/-! ## Supply dips (R441 to R444) -/

/-- Rail r has dipped. -/
def supplyDip (r mv : Nat) (s : State) : State :=
  if ¬ s.power.judged.getLsbD r ∨ rbit s Reg.genDip r then s
  else
    let s1 := setBit Reg.genDip r true (setBit Reg.genDip (8 + r) true (setBit Reg.genDip 16 true (showRail r mv s)))
    let s2 := modPower (fun p => { p with holdTail := false, inBand := p.inBand &&& ~~~railBit r }) (incSat Reg.genDipCnt 15 0 s1)
    let s3 := logEvent .SUPPLY_DIP clsSupply r r s2
    if s.power.st = .doze then s3
    else withDim (fun s => forAll (declaredSlots s) (fun n s => dipNow n (modSlot n (fun q => { q with dimDip := true }) s)) s)
      (raiseVec 0 s3)

/-- Rail r has recovered: with the last one the 10 ms begin. A rail whose monitor does not judge yet is in band first. -/
def railRecovered (r mv : Nat) (s : State) : State :=
  let s1 := showRail r mv s
  if s.power.st = .por then s
  else if rbit s Reg.genDip r then
    let s2 := setBit Reg.genDip r false (modPower (fun p => { p with inBand := p.inBand ||| railBit r }) s1)
    if rfld s2 Reg.genDip 7 0 = 0 then modPower (fun p => { p with holdTail := true }) s2 else s2
  else if 7 ≤ s.power.seqStep then
    modPower (fun p => { p with inBand := p.inBand ||| railBit r, judged := p.judged ||| railBit r }) s1
  else s1

/-- The dip hold ends; the Dim cause ends at each slot's next boundary. -/
def dipHoldEnd (s : State) : State :=
  if s.power.holdTail then setBit Reg.genDip 16 false (modPower (fun p => { p with holdTail := false }) s) else s

/-- Rail r is at reset level (R443). -/
def railResetLevel (r mv : Nat) (s : State) : State :=
  if ¬ s.power.judged.getLsbD r then s
  else if r = 2 then coldReset 1 s
  else if r = 7 then coldReset 2 s
  else showRail r mv (warmReset kWarm 2 r s)

/-! ## Phases (R435, R437) -/

/-- A phase has been limited in 1,000 consecutive cycles. -/
def phaseLimit (ph : Nat) (s : State) : State :=
  if heatRuns s then raiseVec 0 (logEvent .PHASE_LIMIT clsSupply (16 + ph) ph s) else s

/-- Group of phase i of a PM_PHASE_MAP word. -/
def phaseGroup (w : Word) (i : Nat) : Nat := fld w (8 * i + 4) (8 * i)

/-- A write of PM_PHASE_MAPm (R435): dropped whole and logged once where a byte names no group, or would move a phase into or
out of group 0. -/
def phaseMap (m : Nat) (v : Word) (s : State) : State :=
  let old := reg s (Reg.pmPhaseMap m)
  let bad := (List.range 4).any fun i =>
    let g := phaseGroup v i
    decide (16 ≤ g ∧ g ≤ 30) || (decide (g = 0) != decide (phaseGroup old i = 0))
  if bad then logAccess .PM_MAP 0 (Reg.pmPhaseMap m) s
  else
    let s1 := setReg (Reg.pmPhaseMap m) (v &&& 0x1F1F1F1F) s
    let gs := (List.range 16).map fun p => phaseGroup (reg s1 (Reg.pmPhaseMap (p / 4))) (p % 4)
    setReg Reg.pmGrp (BitVec.ofNat 32 ((List.range 16).foldl (fun a g => if gs.contains g then a + 2 ^ g else a) 0)) s1

/-! ## Doze and Park (R444 to R448) -/

/-- Register fields whose value on return from Doze is 0 (the Doze columns). -/
def dozeFields (s : State) : List (Nat × Nat × Nat) :=
  (List.range 8).flatMap (fun n =>
    [(Reg.soStatus n, 3, 3), (Reg.soFreeze n, 15, 8), (Reg.soFsig n, 31, 0), (Reg.slCntA n, 31, 0), (Reg.slRead n, 31, 0),
     (Reg.lbAmp n, 31, 0), (Reg.lbFrate n, 31, 0), (Reg.lbPeak n, 31, 0), (Reg.lbCntA n, 31, 0), (Reg.lbErrLast n, 31, 0),
     (Reg.lbErrMax n, 31, 0), (Reg.lbProbeSel n, 31, 0), (Reg.lbProbeTs n, 31, 0), (Reg.tfLvlNow n, 26, 0),
     (Reg.lsSet n, 31, 0), (Reg.lsMeas n, 31, 0), (Reg.lsDemand n, 31, 0), (pxSkip s n, 31, 0), (pxStopped s n, 31, 0),
     (pxMasks s n, 31, 16)] ++ (List.range 8).map fun i => (Reg.lbProbeDesc n i, 31, 0)) ++
  (List.range 96).map (fun k => (Reg.lcLevel k, 31, 0)) ++
  (List.range 128).flatMap (fun l => [(Reg.leDly l, 31, 0), (Reg.leDlyMean l, 31, 0)]) ++
  (List.range 8).flatMap (fun p => [(Reg.epStatus p, 15, 0), (Reg.epDelay p, 31, 0), (Reg.epLead p, 31, 0)] ++
    (List.range 4096).map fun w => (Reg.epDesc p w, 31, 0)) ++
  (List.range 4).flatMap (fun m => [(Reg.sbSyncT m false, 31, 0), (Reg.sbSyncT m true, 31, 0)]) ++
  [(Reg.sbImuNow, 31, 0), (Reg.sbObjCnt, 31, 22), (Reg.mbStatus, 2, 0), (Reg.cdStatus, 13, 8), (Reg.cdStatus, 5, 0), (Reg.genState, 8, 8)]

/-- The fields of the Doze columns are cleared: of the registers that hold anything. -/
def dozeClear (s : State) : State :=
  let s1 := ((dozeFields s).filter fun f => reg s f.1 != 0).foldl (fun s f => setFld f.1 f.2.1 f.2.2 0 s) s
  let s2 := forAll (declaredSlots s) (fun n s => if (cfgOf s n).any (·.slot.cls == 2) then setReg (Reg.lbProbeErr n) 0x80000000 s else s) s1
  let s3 := forAll (declaredSlots s) (fun n => modSlot n fun q => { q with
    lvlShift := 0, fsig := none, frozen := false, lines := { q.lines with probe := [] }, cal := { q.cal with dozed := true } }) s2
  forAll ((declaredSlots s).flatMap fun n => ((cfgOf s n).map fun c => (layerCodes c).map (layerPitch c)).getD [])
    (fun p s => setFld (Reg.pitch p 15) 30 30 0 (setFld (Reg.pitch p 15) 15 0 0 s)) s3

/-- ENTRY_COMPLETE (R446): Doze is reached with every PC in self-refresh, or Park after the power-down of R440. -/
def entryComplete (s : State) : State :=
  match s.power.st with
  | .enteringDoze =>
    let s1 := setSt .doze (modMc (fun m => { m with sr := 0xFFFF }) s)
    serveQueued (raiseVec 0 s1)
  | .enteringPark thermal => parkReset (setParkWhy (if thermal then 2 else 1) s)
  | _ => s

/-- DOZE_EXIT_COMPLETE (R447): domains are restored and the short retrain has run. Links start in Detect, pending requests
apply, loops are OPEN, and the slots start in Dim where a dip hold runs (R444). -/
def dozeExit (s : State) : State :=
  if s.power.st ≠ .leaving then s
  else
    let s1 := helpersUsed (modMc (fun m => { m with sr := 0 }) (forAll (List.range 8) enterDetect s))
    let s2 := loopsDozeExit (dozeClear (forAll (declaredSlots s1) applyAtOnce s1))
    let s3 := modPower (fun p => { p with wakeT := s2.linkTime }) (setSt .run s2)
    let s4 := if rbit s3 Reg.genDip 16 then forAll (declaredSlots s3) (fun n s => engageDim n (modSlot n (fun q => { q with dimDip := true }) s)) s3
      else s3
    serveQueued (raiseVec 0 s4)

/-- WAKE_EDGE (R447): an edge of GPIO m that GEN_WAKE enables, with its polarity. -/
def wakeEdge (m : Nat) (rising : Bool) (s : State) : State :=
  if m < 4 ∨ ¬ rbit s Reg.genWake m ∨ rbit s Reg.genWake (m + 16) ≠ rising then s
  else match s.power.st with
    | .doze => beginExit s
    | .park | .lockout => parkExit 0 s
    | _ => s

/-- THERMAL_PARK (R430): the package trip still holds 100 ms after it; R446 without its hold. -/
def thermalPark (s : State) : State :=
  if ¬ critDim s ∨ since s s.heat.tripAt < 100 * msTicks then s
  else match s.power.st with
    | .run | .doze | .leaving | .enteringDoze | .enteringPark _ => beginEntry (.enteringPark true) s
    | _ => s

/-! ## The watchdog (R449, R456) -/

/-- A write of GEN_WDOG: TIMEOUT clamped; the count restarts with EN 1 and stops with EN 0. -/
def wdogWrite (v : Word) (s : State) : State :=
  modPower (fun p => { p with wdog := if bit v 31 then some s.linkTime else none })
    (setReg Reg.genWdog (at_ 31 31 (if bit v 31 then 1 else 0) ||| at_ 15 0 (clampN (fld v 15 0) 10 65535)) s)

/-! ## Commands -/

/-- POWER_ON. -/
def execPowerOn (ph : BitVec 2) (testen low : Bool) (s : State) : Host.Outcome State Fault Refusal := .next (powerOn ph testen low s)

/-- RAIL_IN_BAND. -/
def execRailInBand (r : Rail) (s : State) : Host.Outcome State Fault Refusal := .next (railInBand r.val s)

/-- SEQUENCE_FAIL. -/
def execSequenceFail (r : Rail) (s : State) : Host.Outcome State Fault Refusal := .next (sequenceFail r.val s)

/-- SEQUENCE_RETRY (R439): 100 ms after a failure the sequence runs again from step 2. -/
def execSequenceRetry (s : State) : Host.Outcome State Fault Refusal :=
  .next (if s.power.st = .boot then modPower (fun p => { p with retryWait := false }) s else s)

/-- FULL_TRAINING_COMPLETE: step 8 of R438. -/
def execFullTrainingComplete (failed : List PcId) (s : State) : Host.Outcome State Fault Refusal :=
  .next (if s.power.st = .boot ∧ s.power.seqStep = 7 then
    modPower (fun p => { p with seqStep := 8 }) (trainingDone (failed.map (·.val)) s) else s)

/-- BOOT_CAST_BUILD: step 9 of R438, and the boot Cast of R24. -/
def execBootCastBuild (s : State) : Host.Outcome State Fault Refusal :=
  .next (if s.power.st = .boot ∧ s.power.seqStep = 8 then
    serveQueued (raiseVec 0 (modPower (fun p => { p with st := .run, seqStep := 9 }) { s with cast := CastState.boot })) else s)

/-- FREQ_CHANGE_COMPLETE (R407); a request that the change held is taken. -/
def execFreqChangeComplete (s : State) : Host.Outcome State Fault Refusal := .next (serveQueued (freqDone s))

/-- AUTO_REMAP_RESET (R413). -/
def execAutoRemapReset (s : State) : Host.Outcome State Fault Refusal :=
  .next (if rbit s Reg.mcCtrl 0 ∧ s.mc.failed ≠ 0 then warmReset kWatchdog 2 0 s else s)

/-- THERMAL_PARK. -/
def execThermalPark (s : State) : Host.Outcome State Fault Refusal := .next (thermalPark s)

/-- PHASE_LIMIT. -/
def execPhaseLimit (ph : PhaseId) (s : State) : Host.Outcome State Fault Refusal := .next (phaseLimit ph.val s)

/-- PHASE_MAP_WRITE. -/
def execPhaseMapWrite (m : Fin 4) (v : Word) (s : State) : Host.Outcome State Fault Refusal :=
  .next (hostWrite (Reg.pmPhaseMap m.val) v (phaseMap m.val) s)

/-- SUPPLY_DIP. -/
def execSupplyDip (r : Rail) (mv : BitVec 16) (s : State) : Host.Outcome State Fault Refusal := .next (supplyDip r.val mv.toNat s)

/-- RAIL_RECOVERED. -/
def execRailRecovered (r : Rail) (mv : BitVec 16) (s : State) : Host.Outcome State Fault Refusal :=
  .next (railRecovered r.val mv.toNat s)

/-- DIP_HOLD_END. -/
def execDipHoldEnd (s : State) : Host.Outcome State Fault Refusal := .next (dipHoldEnd s)

/-- RAIL_RESET_LEVEL. -/
def execRailResetLevel (r : Rail) (mv : BitVec 16) (s : State) : Host.Outcome State Fault Refusal :=
  .next (railResetLevel r.val mv.toNat s)

/-- STATE_REQ_RUN: REQ = 0. -/
def execStateReqRun (s : State) : Host.Outcome State Fault Refusal := .next (hostWrite Reg.genStateReq 0 stateReq s)

/-- STATE_REQ_DOZE: REQ = 2. -/
def execStateReqDoze (s : State) : Host.Outcome State Fault Refusal := .next (hostWrite Reg.genStateReq 2 stateReq s)

/-- STATE_REQ_PARK: REQ = 3. -/
def execStateReqPark (s : State) : Host.Outcome State Fault Refusal := .next (hostWrite Reg.genStateReq 3 stateReq s)

/-- ENTRY_COMPLETE. -/
def execEntryComplete (s : State) : Host.Outcome State Fault Refusal := .next (entryComplete s)

/-- WAKE_EDGE. -/
def execWakeEdge (m : Fin 16) (rising : Bool) (s : State) : Host.Outcome State Fault Refusal := .next (wakeEdge m.val rising s)

/-- DOZE_EXIT_COMPLETE. -/
def execDozeExitComplete (s : State) : Host.Outcome State Fault Refusal := .next (dozeExit s)

/-- RESET_N. -/
def execResetN (s : State) : Host.Outcome State Fault Refusal := .next (resetN s)

/-- RESET_N_RELEASE (R492). -/
def execResetNRelease (s : State) : Host.Outcome State Fault Refusal :=
  .next (modPower (fun p => { p with resetLow := false }) s)

/-- PERST. -/
def execPerst (s : State) : Host.Outcome State Fault Refusal := .next (perst s)

/-- WARM: a write of GEN_RESET. -/
def execWarm (v : Word) (s : State) : Host.Outcome State Fault Refusal := .next (hostWrite Reg.genReset v genReset s)

/-- ENGINE: a write of GEN_RESET. -/
def execEngine (v : Word) (s : State) : Host.Outcome State Fault Refusal := .next (hostWrite Reg.genReset v genReset s)

/-- FABRIC: a write of GEN_RESET. -/
def execFabric (v : Word) (s : State) : Host.Outcome State Fault Refusal := .next (hostWrite Reg.genReset v genReset s)

/-- FABRIC_RESET_COMPLETE. -/
def execFabricResetComplete (s : State) : Host.Outcome State Fault Refusal := .next (fabricDone s)

/-- TIMEOUT ms have passed since the watchdog's count restarted (R456). -/
def wdogOver (s : State) : Bool :=
  match s.power.wdog with
  | some t => decide (rfld s Reg.genWdog 15 0 * msTicks ≤ since s t)
  | none => false

/-- WATCHDOG_EXPIRY (R449): GEN_WDOG has expired. -/
def execWatchdogExpiry (s : State) : Host.Outcome State Fault Refusal :=
  .next (if wdogOver s then warmReset kWatchdog 0 0 s else s)

/-- SUPERVISOR_TIMEOUT (R449): no core of the control processor, which runs from step 8 on, has signalled progress. -/
def execSupervisorTimeout (s : State) : Host.Outcome State Fault Refusal :=
  .next (if powered s ∧ 7 ≤ s.power.seqStep then warmReset kWatchdog 1 0 s else s)

/-- A write of GEN_WDOG_KICK: the count restarts where it runs (R456). -/
def kickWdog (_v : Word) (s : State) : State :=
  modPower (fun p => { p with wdog := p.wdog.map fun _ => s.linkTime }) s

/-- WDOG_KICK. -/
def execWdogKick (s : State) : Host.Outcome State Fault Refusal := .next (hostWrite Reg.genWdogKick 0 kickWdog s)

/-- WDOG_WRITE. -/
def execWdogWrite (v : Word) (s : State) : Host.Outcome State Fault Refusal := .next (hostWrite Reg.genWdog v wdogWrite s)

end Sys2Proof.Machine
end

