-- ==== Sys2Proof/Machine/Faults.lean ====
section
/-! DEFINITION. Faults, seizure and recovery (R458 to R474): the fault flags and HALT_n, the log, release, and the seizure of
a party. -/

set_option Elab.async false

namespace Sys2Proof.Machine

/-! ## Flags and pins (R461 to R463) -/

/-- Some slot is contained for one of the given causes. -/
def containedFor (s : State) (l : List ContainCause) : Bool :=
  (List.range 8).any fun n => (slotAt s n).contain.any fun c => l.contains c.cause

/-- The condition behind an FR_FAULT bit still holds (R462). -/
def faultHolds (s : State) (b : Nat) : Bool :=
  match b with
  | 2 => containedFor s [.laserFault, .overtemp]
  | 4 => rbit s Reg.mcStatus 6 || containedFor s [.memory]
  | 5 => critDim s
  | 7 => containedFor s [.engineLost] || (List.range 8).any fun p => linkState s p == lsLost && (slotOnPort s p).isSome
  | 8 => containedFor s [.host]
  | _ => false

/-- A write of FR_FAULT: bits 2 to 8 written 1 are cleared, but for those whose condition holds, which set again. -/
def faultClear (v : Word) (s : State) : State :=
  forAll [2, 3, 4, 5, 6, 7, 8] (fun b t => if bit v b && !faultHolds s b then setBit Reg.frFault b false t else t) s

/-- A write of FR_HALT with its key: HALT_n follows HOST, and every LEN_n with it (R236, R237). -/
def haltWrite (v : Word) (s : State) : State :=
  if fld v 31 24 ≠ 0x5A then s
  else
    let s1 := setBit Reg.frHalt 8 (bit v 8) s
    if bit v 8 then lenDropAll 7 s1 else lenTryAll s1

/-- A write of FR_LOG_CLR with its key empties the log. -/
def logClr (v : Word) (s : State) : State :=
  if fld v 31 24 = 0x5A ∧ bit v 0 then
    { s with regs := s.regs.clearRange (Reg.frLog 0 0) (Reg.frLog 64 0) |>.set Reg.frLogStat 0 } else s

/-- Slot n is contained for LASER_OVERTEMP and may be released (R467): every laser point 3 K below for 200 ms. -/
def mayRelease (s : State) (n : Nat) : Bool :=
  (slotAt s n).contain.any (fun c => c.cause == .overtemp && c.off) && decide (2000 ≤ (s.heat.cool[n]?).getD 0)

/-- A write of FR_RELEASE: each bit on its own (R467). -/
def frRelease (v : Word) (s : State) : State :=
  forAll ((List.range 8).filter fun n => bit v n) (fun n s =>
    if mayRelease s n then modSlot n (fun q => { q with
      contain := q.contain.map fun c => if c.cause = .overtemp then { c with ending := true } else c }) s
    else logEvent .RELEASE_REFUSED clsHost 0 n s) s

/-! ## Seizure (R465, R466, R468) -/

/-- CLASS and ID of a party in the log and in tallies. -/
def partyId : Party → Nat × Nat
  | .host => (1, 0)
  | .engine p => (3, p.val)
  | .camera c => (4, c.val)

/-- What the seizure of a party takes (R466). -/
def seizeGoods (q : Party) (s : State) : State :=
  match q with
  | .host => codecSeizeHost (seizeTallies tHost 0 s)
  | .camera c => modCam c.val (fun k => { k with newest := none }) (seizeTallies tSensor c.val s)
  | .engine p =>
    let s2 := seizeTallies tEngine p.val s
    let s3 := match slotOnPort s2 p.val with
      | some n => invalidatePlanes n s2
      | none => s2
    storeLinkLost p.val (modPort p.val (fun k => { k with tags := [] }) s3)

/-- A party is seized: its grace is over, SEIZED is logged and FR_SEIZE_STAT names it. -/
def seize (q : Party) (s : State) : State :=
  let i := partyId q
  let s1 := setBit Reg.frGrace (graceBit q) false (seizeGoods q s)
  let s2 := setFld Reg.frSeizeStat 15 12 i.1 (setFld Reg.frSeizeStat 11 0 i.2 (incSat Reg.frSeizeStat 31 16 s1))
  logEvent .SEIZED i.1 i.2 0 s2

/-- GRACE_END: 2 ms of grace are over. -/
def graceEnd (q : Party) (s : State) : State := if graceOver s q then seize q s else s

/-- The party that a write of FR_SEIZE may seize at once (R468). -/
def seizable (s : State) (v : Word) : Option Party :=
  let id := fld v 11 0
  if fld v 31 24 ≠ 0x5A then none
  else if fld v 19 16 = 3 ∧ id < 8 ∧ linkState s id ≠ lsRun then some (.engine (Fin.ofNat 8 id))
  else if fld v 19 16 = 4 ∧ id < 4 ∧ camState s id ≠ 2 then some (.camera (Fin.ofNat 4 id))
  else none

/-- A write of FR_SEIZE. -/
def frSeize (v : Word) (s : State) : State :=
  match seizable s v with
  | some q => seize q s
  | none => logEvent .SEIZE_REFUSED clsHost 0 0 s

/-! ## Commands -/

/-- FR_FAULT_CLEAR. -/
def execFrFaultClear (v : Word) (s : State) : Host.Outcome State Fault Refusal := .next (hostWrite Reg.frFault v faultClear s)

/-- HOST_HALT_SET: the write of FR_HALT that sets HOST. -/
def execHostHaltSet (v : Word) (s : State) : Host.Outcome State Fault Refusal := .next (hostWrite Reg.frHalt v haltWrite s)

/-- HOST_HALT_CLEAR: the write of FR_HALT that clears HOST. -/
def execHostHaltClear (v : Word) (s : State) : Host.Outcome State Fault Refusal := .next (hostWrite Reg.frHalt v haltWrite s)

/-- LOG_CLEAR. -/
def execLogClear (v : Word) (s : State) : Host.Outcome State Fault Refusal := .next (hostWrite Reg.frLogClr v logClr s)

/-- FR_RELEASE. -/
def execFrRelease (v : Word) (s : State) : Host.Outcome State Fault Refusal := .next (hostWrite Reg.frRelease v frRelease s)

/-- FR_SEIZE. -/
def execFrSeize (v : Word) (s : State) : Host.Outcome State Fault Refusal := .next (hostWrite Reg.frSeize v frSeize s)

/-- GRACE_END. -/
def execGraceEnd (q : Party) (s : State) : Host.Outcome State Fault Refusal := .next (graceEnd q s)

end Sys2Proof.Machine
end

