-- ==== Sys2Proof/Machine/FrameBoundary.lean ====
section
/-! DEFINITION. The frame boundary of a slot (R59): the frame that ends is closed (R157, R158, R161, R162, R207, R208), what
is due takes effect (R51, R112, R129, R149, R154, R163, R178, R184, R464), and the frame that begins is opened. -/

set_option Elab.async false

namespace Sys2Proof.Machine

/-! ## The frame that ends -/


/-- A raster not finished at the boundary is ended: what it has not delivered underruns (R158). Lines that read the frame
later take the last pixel delivered in its place (R157). -/
def cutRaster (n : Nat) (c : SlotCast) (delivered : Nat) (s : State) : State :=
  let total := c.slot.activeW * c.slot.activeH
  if (slotAt s n).raster ∧ delivered < total then
    let base := frameBase s n c (slotAt s n).frame.toNat
    let last := lastPx s c base delivered
    let fill := if c.slot.traj = 2 then
        dramWrite (base + delivered * storePxBytes c) ((List.range (total - delivered)).flatMap fun _ => pxBytes c last) s
      else s
    noteUnder n (total - delivered) fill
  else s

/-- Taps of a scanner frame (R132, R161, R207, R208): the values that struck lines have read on a raster slot, the buffer's
pixels that they have read on a Lissajous slot, and zero for the rest. -/
def scanTap (s : State) (n : Nat) (c : SlotCast) (t : FrameTap) : FrameTap :=
  let q := slotAt s n
  let w := c.slot.activeW
  let zero := if mono c then [0] else [0, 0, 0]
  let px (i : Nat) : List Nat := match q.lines.reads.find? fun r => r.1 == t.frame && r.2.1 == i with
    | some r => if c.slot.traj = 2 then ((lineBuffer s n c t.frame).map fun b => storePx s c b i).getD zero else r.2.2
    | none => zero
  let ps := signedPixels s c t.scene
  { t with
    actual := sigOf (ps.flatMap fun p => sigBytes p.1 p.2 (px (p.2 * w + p.1))), signed := ps.length
    freeze := crc32 ((List.range (w * c.slot.activeH)).flatMap fun i => (px i).flatMap (leBytes 2))
    shift := 0, darkLines := q.lines.darks.contains t.frame }

/-- RUN has reached THR (R162): logged once until RUN has returned to 0. -/
def freezeReach (n : Nat) (s : State) : State :=
  let run := rfld s (Reg.soFreeze n) 15 8
  if 0 < run ∧ rfld s (Reg.soFreeze n) 7 0 ≤ run ∧ ¬ (slotAt s n).frozen then
    raiseVec (4 + n) (logEvent .FREEZE clsPart n 0
      (setBit (Reg.soFlags n) 5 true (modSlot n (fun q => { q with frozen := true }) s)))
  else s

/-- The freeze detector takes a frame (R161, R162). -/
def freezeStep (n : Nat) (t : FrameTap) (s : State) : State :=
  let same := decide ((slotAt s n).fsig = some t.freeze)
  let s1 := setReg (Reg.soFsig n) t.freeze (modSlot n (fun q => { q with fsig := some t.freeze }) s)
  if t.modeDark || !t.chg then s1
  else if ¬ same then setFld (Reg.soFreeze n) 15 8 0 (modSlot n (fun q => { q with frozen := false }) s1)
  else freezeReach n (incSat (Reg.soFreeze n) 15 8 s1)

/-- The taps of the frame that ends: its freeze signature is judged, and its Hallmark record is due (R134). -/
def closeTap (n : Nat) (c : SlotCast) (s : State) : State :=
  match (slotAt s n).tap with
  | none => s
  | some t =>
    let t1 := if c.slot.cls = 2 then scanTap s n c t else t
    (if t.judged then id else freezeStep n t1) (modSlot n (fun q => { q with
      tap := none, tapPrev := some t1
      lines := { q.lines with reads := q.lines.reads.filter fun r => r.1 != t.frame
                              rows := q.lines.rows.filter fun r => r.1 != t.frame
                              darks := q.lines.darks.filter (· != t.frame) } }) s)

/-- A raster that is complete gives the freeze signature of a sliced frame at once (R161, R162). -/
def judgeRaster (n : Nat) (s : State) : State :=
  match (slotAt s n).tap with
  | some t =>
    if t.sliced && !t.judged then freezeStep n t (modSlot n (fun q => { q with tap := some { t with judged := true } }) s) else s
  | none => s

/-- RASTER_END. -/
def execRasterEnd (n : Slot) (s : State) : Host.Outcome State Fault Refusal :=
  .next (if (slotAt s n.val).raster then judgeRaster n.val (rasterEnd n.val s) else s)

/-- The counts of the frame that ends go to their registers (R124, R190, R193, R210, R225). -/
def showFrameCounts (n : Nat) (c : SlotCast) (s : State) : State :=
  let q := slotAt s n
  let l := q.lines
  let s1 := setFld (pxMasks s n) 31 16 q.maskStale.length s
  let dt := since s q.boundary
  let s2 := if c.slot.cls = 1 then setReg (Reg.slRead n) (BitVec.ofNat 32 q.readNow) s1
    else setRegs
      ([(Reg.lbCntA n, at_ 31 16 l.clip ||| at_ 15 0 l.merge), (Reg.lbErrMax n, BitVec.ofNat 32 l.errMax),
        (Reg.lbPeak n, BitVec.ofNat 32 l.peak)] ++
       (if q.reck.seenBoundary ∧ 0 < dt then [(Reg.lbFrate n, BitVec.ofNat 32 (divRound (3200000000000 : Nat) dt).toNat)] else [])) s1
  modSlot n (fun q => { q with
    maskStale := [], readNow := 0, darkWin := []
    lines := { q.lines with clip := 0, merge := 0, errMax := 0, peak := 0 } }) s2

/-- The frame that ends at a boundary of slot n. -/
def closeFrame (n : Nat) (c : SlotCast) (i : BoundaryIn) (s : State) : State :=
  showFrameCounts n c (closeTap n c (rasterEnd n (cutRaster n c i.delivered s)))

/-! ## What takes effect -/

/-- The reckoner of slot n at its boundary (R59, R83), the frame count (R134), and darkness that ends with the frame (R83,
R163, R452). -/
def turnFrame (n : Nat) (s : State) : State :=
  let cyc := boundaryCyc s n
  resumeMode n (modSlot n (fun q => { q with
    reck := { slewBoundary (rfld s (Reg.tfSlew n) 23 0) cyc q.reck with frameCyc := cyc }
    darkSnap := false
    darkFabric := q.darkFabric && s.power.fabric, frame := q.frame + 1 }) s)


/-- Swaps, the commit and the sources of its layers at the boundary (R149, R152, R153, R178, R342). -/
def applyDue (n : Nat) (c : SlotCast) (s : State) : State :=
  let q := slotAt s n
  let due := q.commit.any fun k => decide (k.wait ≤ 1)
  let s1 := releaseSources n (boundaryCommit n c (boundarySwaps n s))
  noteHandover n c (takeBuffers n c (if due then s1 else checkActive n c q.deferred s1))

/-- Holds and containments that end at this boundary (R136, R442, R464). -/
def endHolds (n : Nat) (s : State) : State :=
  let s1 := endContain n (decide ((reckOf s n).st = .locked)) s
  modSlot n (fun q => { q with
    dimDip := q.dimDip && rbit s Reg.genDip 16
    hall := if q.hall.release then { q.hall with
        release := false, contain := q.hall.containAfter, mismatch := q.hall.mismatchAfter } else q.hall }) s1

/-- A slot with no Dim cause left leaves Dim (R137, R184). -/
def leaveDim (n : Nat) (s : State) : State :=
  if inDim s n then s else modSlot n (fun q => { q with gate := false, ceilDim := false }) s

/-- HOLD_RUN counts one more held frame; what follows 255 the spec does not state (log entry 44). -/
def countHold (n : Nat) (s : State) : State :=
  let k := rfld s (Reg.soHall n) 7 0
  if k < 255 then setFld (Reg.soHall n) 7 0 (k + 1) s
  else
    let x := takeFree s
    setFld (Reg.soHall n) 7 0 (x.1.toNat % 256) x.2

/-- Hallmark content at the boundary (R129, R154). -/
def hallBoundary (n : Nat) (ready : Bool) (s : State) : State :=
  if ¬ hasHall s n then s
  else
    let wait := fun (d : List SceneEnt × Nat) => (d.1, d.2 - 1)
    if ready then
      let s1 := setFld (Reg.soHall n) 7 0 0 (modHall n (fun h => { h with hold := false, notReady := false }) s)
      match (slotAt s1 n).hall.due with
      | some d => if d.2 ≤ 1 then applyScene n s1 else modHall n (fun h => { h with due := h.due.map wait }) s1
      | none => s1
    else
      let s1 := countHold n (modHall n (fun h => { h with hold := true, due := h.due.map wait }) s)
      let fifth := decide (5 ≤ rfld s (Reg.soHall n) 7 0 + 1)
      modHall n (fun h => { h with notReady := h.notReady || fifth })
        (logEvent .HALL_NOT_READY clsPart n 0 (setBit (Reg.soFlags n) 4 true s1))

/-- Ceilings and maps at the boundary (R184, R201, R227, R264). A scanner slot's lines that began before it keep theirs. -/
def ceilBoundary (n : Nat) (c : SlotCast) (before : SlotState) (s : State) : State :=
  let s1 := refreshCeil n (takeCeilInputs n s)
  let q := slotAt s1 n
  let changed := q.stepNow != before.stepNow || q.limNow != before.limNow || q.ceilDim != before.ceilDim
  modSlot n (fun q => { q with lightPrev := if c.slot.cls = 2 then lightNow s c else [] }) (calOpen n (calBoundary n c changed s1))

/-- CHG of every layer that has changed and is not fully hidden; true where one has advanced (R112). -/
def advanceChg (n : Nat) (c : SlotCast) (s : State) : Bool × State :=
  let ls := withAbove ((activeOrder s n c).map fun k => (k, activeLayer s c k))
  let hidden := (ls.filter fun l => fullyHidden c l.2.1 l.2.2).map (·.1)
  let go := (slotAt s n).chgPend.filter fun k => !hidden.contains k
  let s1 := forAll go (fun k s =>
    let a := Reg.pitch (layerPitch c k) 0
    setFld a 15 0 (rfld s a 15 0 + 1) s) s
  (!go.isEmpty, modSlot n (fun q => { q with chgPend := q.chgPend.filter fun k => hidden.contains k }) s1)

/-! ## The frame that begins -/

/-- Register settings that the frame takes (R150, R167, R210, R225). -/
def takeSettings (n : Nat) (s : State) : State :=
  modSlot n (fun q => { q with
    margin := rfld s (Reg.slMargin n) 23 0, latchLines := rfld s (Reg.soLatch n) 11 0
    lines := { q.lines with cfg := lineCfgOf s n } }) s

/-- Timing-clock periods from a boundary to the latch point of the raster (R149; log entry 34): pixel clocks of 2 periods. -/
def latchOffset (n lines : Nat) (c : SlotCast) : Nat :=
  Config.fetchStart n + (c.slot.activeH - lines) * ceilDiv c.slot.activeW c.pipe.share * 2

/-- The tap of the frame that begins. On a Lissajous slot the content emitted is that of the raster before (R206), with the
Hallmark state h it was composed under. -/
def openTap (n : Nat) (c : SlotCast) (h : HallSlot) (chg : Bool) (s : State) : State :=
  let q := slotAt s n
  let x := expectedSig s c h.active
  let t : FrameTap :=
    { frame := q.frame, boundary := s.linkTime, actual := 0, expected := x.1, signed := x.2, freeze := 0, sliced := false, late := [], judged := false
      shift := 0, darkLines := false, dim := inDim s n, off := containedOff s n, chg := chg, modeDark := q.darkMode
      hold := h.hold, sceneNew := h.sceneNew, gen := h.gen, scene := h.active }
  modSlot n (fun q => { q with tap := some t }) s

/-- The raster of the frame that begins (R108, R149, R160). -/
def openRaster (n : Nat) (c : SlotCast) (s : State) : State :=
  let s1 := startWriteBack n c (composeFrame n c s)
  modSlot n (fun q => { q with
    raster := true, latchAt := s.linkTime + BitVec.ofNat 64 (latchOffset n q.latchLines c) }) s1

/-- Events of the entries of a table in a cycle (R182): plane loads, levels, on and off, and calibration gaps with the tail
to the first release of the next frame. -/
def tableEvents (cyc load settle : Nat) (es : List SeqEnt) : List (BitVec 64) × List (BitVec 64) × List (BitVec 64) :=
  let xs := (List.range es.length).zip es
  let lit := xs.filter fun x => !x.2.dark
  let ev (ph kind k : Nat) : BitVec 64 := eventWord (cyc + ph / cyclePu) (ph % cyclePu) kind k
  let edge := lit.flatMap fun x => [ev (x.2.start - settle) 4 x.1, ev x.2.start 2 x.1, ev x.2.end_ 3 x.1]
  let payload := lit.map fun x => ev (x.2.start - settle - load) 1 x.1
  let dark := (xs.filter fun x => x.2.dark).flatMap fun x => [ev x.2.start 6 x.1, ev x.2.end_ 7 x.1]
  let tail := match lit.head?, es.getLast? with
    | some f, some l => [ev l.end_ 6 es.length, ev (cyclePu + f.2.start - settle) 7 es.length]
    | _, _ => []
  (edge, payload, dark ++ tail)

/-- Events and supply demand of the frame that begins on an array slot (R182, R241); without a projection there are no
events. -/
def openArray (n : Nat) (c : SlotCast) (s : State) : State :=
  let s1 := setReg (Reg.lsDemand n) (at_ 15 0 (ownDemand s n c)) (setTarget n (frameDemand s n c) s)
  if ¬ seqOk s1 n ∨ ¬ projects (reckOf s1 n) then s1
  else
    let e := tableEvents (reckOf s n).frameCyc (rfld s (Reg.slLoad n) 23 0) (rfld s (Reg.slSettle n) 23 0) (entsNow s1 n)
    insertEvents n .cal e.2.2 (insertEvents n .payload e.2.1 (insertEvents n .edge e.1 s1))

/-- The frame that begins on a scanner slot: its line sequence starts where nothing of the frame has been entered (R192), and a
dark frame empties the held set (R245). -/
def openLines (n : Nat) (s : State) : State :=
  let q := slotAt s n
  let behind := decide ((q.lines.frame - q.frame).toInt < 0)
  let fresh := q.lines.next == 0 && q.trial.all fun e => e.state == .empty
  let s1 := if emitDark s n then setTarget n 0 (emptyHeld n s) else s
  if behind || fresh then modLines n (fun l => { l with next := 0, frame := q.frame, cyc := q.reck.frameCyc }) s1 else s1

/-- The frame that begins at a boundary of slot n. Where a mode change at this boundary has sent the reckoner to ACQUIRE, the
frame is dark, and composed and signed all the same (R163). -/
def openFrame (n : Nat) (c : SlotCast) (before : SlotState) (s : State) : State :=
  let x := advanceChg n c s
  let h := if c.slot.traj = 2 then before.hall else (slotAt s n).hall
  let s1 := openTap n c h x.1 (takeSettings n (markHidden n c x.2))
  let s2 := modHall n (fun k => { k with sceneNew := c.slot.traj == 2 && k.gen != before.hall.gen }) s1
  let s3 := openRaster n c s2
  let s4 := if c.slot.cls = 1 then openArray n c s3 else openLines n s3
  lenTry c.slot.port (modSlot n (fun q => { q with
    boundary := s.linkTime, reck := { q.reck with seenBoundary := projects q.reck } }) s4)

/-- A frame boundary of slot n, once the projection has reached it (R59). -/
def frameBoundary (n : Nat) (i : BoundaryIn) (s : State) : State :=
  match cfgOf s n with
  | none => s
  | some c0 =>
    if ¬ boundaryDue s n then s
    else
      let before := slotAt s n
      let s1 := castBoundary n (turnFrame n (closeFrame n c0 i s))
      match cfgOf s1 n with
      | none => s1
      | some c =>
        if ¬ projects (reckOf s1 n) then s1
        else
          let s2 := ttlBoundary n (applyDue n c s1)
          let s3 := leaveDim n (showHall n (hallBoundary n i.hallReady (endHolds n s2)))
          openFrame n c before (ceilBoundary n c before s3)

/-- FRAME_BOUNDARY. -/
def execFrameBoundary (n : Slot) (i : BoundaryIn) (s : State) : Host.Outcome State Fault Refusal :=
  .next (whileUp (fun s => serveQueued (noteState (frameBoundary n.val i) s)) s)

end Sys2Proof.Machine
end

