-- ==== Sys2Proof/Machine/HostBus.lean ====
section
/-! DEFINITION. Host accesses of BAR0 and BAR4 by address (R4 to R8, R13, R356, R357): the effect of a write of each
register, what each register reads, the pitch store, and the mailbox memory. -/

set_option Elab.async false

namespace Sys2Proof.Machine

/-! ## The pitch store (R91 to R97, R252) -/

/-- Bits of word w of pitch p that the host may write. -/
def pitchRw (s : State) (p w : Nat) (v : Word) : Word :=
  if w = 15 then 0
  else if w = 0 then (if hdrType v = tyMask then 0xFA000000 else 0xF8000000)
  else pitchMask (hdrType (pendW s p 0)) w

/-- A host write of word w of pitch p; bridge objects follow what became of their masks (R346). -/
def pitchWrite (p w : Nat) (v : Word) (s : State) : State :=
  match (pitchSlot s p).bind fun n => (cfgOf s n).map fun c => (n, c) with
  | none => s
  | some x =>
    if w = 15 then s
    else hostPitchGate (Reg.pitch p w) (pitchRw s p w v) v true (fun v s =>
      let n := x.1
      let c := x.2
      let old := pendW s p 0
      syncPitches (
        if w = 0 then
          if typeRefused c p old v then hostHeader n c p v s else jobWrite n c p (hdrAfter old v) (hostHeader n c p v) s
        else jobWrite n c p old (hostPitchWord n c p w v) s)) s

/-- PITCH_W0_WRITE. -/
def execPitchW0Write (p : PitchId) (v : Word) (s : State) : Host.Outcome State Fault Refusal := .next (pitchWrite p.val 0 v s)

/-- CAL_JOB_WRITE: a write of word w of a pitch. -/
def execCalJobWrite (p : PitchId) (w : Fin 16) (v : Word) (s : State) : Host.Outcome State Fault Refusal :=
  .next (pitchWrite p.val w.val v s)

/-! ## Writes with an effect beyond their register -/

/-- A write by access type alone (R5): RW and RWC bits take the value, W1C bits written 1 become 0. -/
def plainWrite (off : Nat) (rw w1c v : Word) (s : State) : State :=
  setReg off (((reg s off &&& ~~~rw) ||| (v &&& rw)) &&& ~~~(v &&& w1c)) s

/-- A write of an MSI-X vector control: clearing the mask sends a pending message (R358). -/
def msixCtrl (i : Nat) (v : Word) (s : State) : State :=
  let s1 := setReg (Reg.msixTable + 16 * i + 12) (v &&& 1) s
  if bit v 0 ∨ ¬ rbit s1 (Reg.msixPba + 4 * (i / 32)) (i % 32) then s1
  else sendVector i (setBit (Reg.msixPba + 4 * (i / 32)) (i % 32) false s1)

/-- Writes a field with its value clamped, other writable bits of the register kept. -/
def clampWrite (off hi lo a b : Nat) (v : Word) (s : State) : State := setFld off hi lo (clampN (fld v hi lo) a b) s

/-- TFn_TRIM: clamped, and taken up by a free-running reckoner (R62). -/
def trimWrite (n : Nat) (v : Word) (s : State) : State :=
  retuneFree n (setReg (Reg.tfTrim n) (at_ 15 0 (unsigned 16 (clampI (signed 16 (fld v 15 0)) (-1000) 1000))) s)

/-- TFn_HORIZON (R80); where its two bounds cross, the lower one wins (DEDUCED, log entry 72). -/
def horizonWrite (n : Nat) (v : Word) (s : State) : State :=
  let least := rfld s (Reg.epLead (portOf s n)) 15 0 + 640
  let h := fld v 15 0
  setReg (Reg.tfHorizon n) (at_ 15 0 (if h < least then least else if 32000 < h then 32000 else h)) s

/-- A write that applies with the commit: dropped while one is pending (R147). -/
def withCommit (n : Nat) (f : State → State) (s : State) : State :=
  if (slotAt s n).commit.isSome then pendWr n s else f s

/-- PXn_ORDERm (R106): dropped where PIPE.BLEND is 0. -/
def orderWrite (n off : Nat) (v : Word) (s : State) : State :=
  match cfgOf s n with
  | none => s
  | some c => if c.pipe.blend = 0 then s else withCommit n (setReg off v) s

/-- SOn_LATCH (R150). -/
def latchWrite (n : Nat) (v : Word) (s : State) : State :=
  match cfgOf s n with
  | none => s
  | some c => clampWrite (Reg.soLatch n) 11 0 4 (c.slot.activeH / 2) v s

/-- SLn_SEQm: dropped while the swap of its table is pending (R178). -/
def seqWrite (n m : Nat) (v : Word) (s : State) : State :=
  if rbit s (Reg.slStatus n) (12 + m) then slPendWr n s else setFld (Reg.slSeq n m) 11 0 (fld v 11 0) s

/-- LBn_CTRL: SPL, MARGIN_CAL and DUTY. -/
def lbCtrlWrite (n : Nat) (v : Word) (s : State) : State :=
  setReg (Reg.lbCtrl n) (at_ 27 16 (clampN (fld v 27 16) 64 2560) ||| at_ 8 8 (fld v 8 8) |||
    at_ 7 0 (clampN (fld v 7 0) 64 240)) s

/-- LBn_LOOK: LOOKAHEAD from 1 to DEPTH. -/
def lookWrite (n : Nat) (v : Word) (s : State) : State := clampWrite (Reg.lbLook n) 5 0 1 (slotAt s n).trial.length v s

/-- LCk_CEIL.LIMIT (R228), scheduled for the slot's next boundary (R241). -/
def ceilWrite (k : Nat) (v : Word) (s : State) : State :=
  match chanOwner s k with
  | none => s
  | some x => raiseFrame x.1 (clampWrite (Reg.lcCeil k) 9 0 1 x.2.iLimit v s)

/-- PM_LSn_HYST: FIXED retargets the supply (R240). -/
def hystWrite (n : Nat) (v : Word) (s : State) : State :=
  let s1 := setReg (Reg.lsHyst n) (v &&& 0x1FFFF) s
  if bit v 16 = rbit s (Reg.lsHyst n) 16 then s1 else setTarget n (heldMax s1 n) s1

/-- LEn_SP_MIN, LEn_SP_MAX and LEn_ULIMj: dropped with COEF_REJ where MIN would stand above MAX (R292, R293). -/
def limitWrite (l off : Nat) (lo hi : Int) (v : Word) (s : State) : State :=
  if hi < lo then setBit (Reg.leFlags l) lfCoefRej true s else setReg off v s

/-- A training-helper register: written in manual mode only (R418). -/
def helperWrite (off : Nat) (f : State → State) (s : State) : State :=
  if manualMode s then f s else logAccess .MC_STATE 0 off s

/-- Writes delay word i at the selected PC and point. -/
def delayWrite (i off : Nat) (v : Word) (s : State) : State :=
  helperWrite off (setDelay (delaySel s).1 (delaySel s).2 i v) s

/-- The effect of a write of the register row at base, instance i, byte offset off, where that is more than R5 says. -/
def specialAct (base i off : Nat) (v : Word) : Option (State → State) :=
  match base with
  -- GEN
  | 0x10 => some (stateReq v)
  | 0x18 => some (withDim (setReg Reg.genDim (v &&& 0xFF)))
  | 0x20 => some (genReset v)
  | 0x28 => some (wdogWrite v)
  | 0x2C => some (kickWdog v)
  | 0xF000C => some (msixCtrl i v)
  -- CST
  | 0x100000 => some (cstCtrl v)
  -- TF
  | 0x201000 => some (tfCtrl i v)
  | 0x201010 => some (clampWrite off 23 0 65536 4194304 v)
  | 0x201014 => some (trimWrite i v)
  | 0x201018 => some (horizonWrite i v)
  | 0x20101C => some (clampWrite off 23 0 1 0xFFFFFF v)
  -- PX
  | 0x301000 | 0x301004 | 0x301008 | 0x30100C | 0x301010 | 0x301014 => some (orderWrite i off v)
  | 0x341000 | 0x341004 | 0x341008 | 0x34100C | 0x341010 | 0x341014 => some (orderWrite i off v)
  | 0x301018 | 0x341018 => some (orderWrite i off (v &&& 0xFF))
  | 0x30101C | 0x34101C => some (withCommit i (setReg off v))
  -- SO
  | 0x501000 => some (soCtrl i v)
  | 0x50100C => some (latchWrite i v)
  | 0x501020 => some fun s => freezeReach i (clampWrite off 7 0 1 255 v s)
  | 0x501028 => some (withCommit i (setReg off (v &&& 0x8F7FFFFF)))
  -- SL
  | 0x601000 => some (slCtrl i v)
  | 0x601008 => some (seqWrite i 0 v)
  | 0x60100C => some (seqWrite i 1 v)
  | 0x601010 => some (seqWrite i 2 v)
  | 0x601014 => some (seqWrite i 3 v)
  -- LB
  | 0x701000 => some (lbCtrlWrite i v)
  | 0x701054 => some (lookWrite i v)
  | 0x701058 => some (clampWrite off 15 0 1 0xFFFF v)
  | 0x70105C => some (clampWrite off 23 0 1 0xFFFFFF v)
  | 0x70106C => some (probeSel i v)
  -- LC and PM_LS
  | 0x800000 => some (lenArm v)
  | 0x800004 => some (lenFaultClear v)
  | 0x801004 => some (ceilWrite i v)
  | 0x1110008 => some fun s => clampWrite off 15 0 1 10000 v (clampWrite off 31 16 1 10000 v s)
  | 0x111000C => some (hystWrite i v)
  -- CA
  | 0x900000 => some (snapCtrl v)
  | 0x900010 => some (pageCtrl v)
  | 0x901000 => some (caCtrl i v)
  | 0x910000 => some (snapWrite ((off - base) / 4) v)
  -- LE
  | 0xA01000 => some (leConfigWrite i off 0xFFFFFFFE v)
  | 0xA01004 => some (leConfigWrite i off 0xF333FFFF v)
  | 0xA01008 => some (leCtrl i v)
  | 0xA0101C => some fun s => limitWrite i off v.toInt (reg s (Reg.leSpMax i)).toInt v s
  | 0xA01020 => some fun s => limitWrite i off (reg s (Reg.leSpMin i)).toInt v.toInt v s
  | 0xA01028 | 0xA0102C => some (limitWrite i off (signed 16 (fld v 15 0)) (signed 16 (fld v 31 16)) v)
  | 0xA01038 => some (leConfigWrite i off 0xFFFF1FFF v)
  | 0xA0103C => some (leConfigWrite i off 0xFFFFF v)
  | 0xA01050 => some (leConfigWrite i off 0xFFFFFFFF v)
  | 0xA0105C => some (dlyClear i v)
  | 0xA10000 => some (coefWrite i (off % 0x400 / 4) v)
  -- EP
  | 0xB00000 => some (epCtrl i v)
  -- SB
  | 0xC00020 => some fun s => clampWrite off 13 0 250 10000 v (plainWrite off 0xE0FF0000 0 v s)
  | 0xC00034 => some (imuHost v)
  | 0xC01000 => some (camCfg i v)
  | 0xC0100C => some (camDirect i v)
  -- WN
  | 0xD00060 => some (aliveWrite v)
  | 0xD00064 => some (aliveKick v)
  | 0xD00108 => some (casGo i v)
  -- CD
  | 0xE00000 => some (writeCdCfg v)
  | 0xE00040 => some (codecSubmit v)
  | 0xE00070 => some (codecPop v)
  -- MC
  | 0xF00008 => some (freqWrite v)
  | 0xF00018 => some (clampWrite off 15 0 1 0xFFFF v)
  | 0xF00020 => some (clampWrite off 15 0 10 1000 v)
  | 0xF10000 => some (helperWrite off (setReg off (v &&& 0x30F)))
  | 0xF10004 => some (patternRun v)
  | 0xF10008 => some (helperWrite off (setReg off v))
  | 0xF1000C => some (helperWrite off (setReg off (v &&& 0x1FFFFF0)))
  | 0xF10040 => some (delayWrite ((off - base) / 4) off v)
  | 0xF10060 => some (delayWrite (8 + (off - base) / 4) off v)
  | 0xF10080 => some (delayWrite 16 off v)
  -- TH
  | 0x1000008 => some fun s => clampWrite off 15 8 0 105 v (clampWrite off 7 0 0 120 v s)
  | 0x1001004 => some (clampWrite off 7 0 2 100 v)
  -- PM
  | 0x1100000 => some (phaseMap ((off - base) / 4) v)
  | 0x1100014 => some (clampWrite off 15 0 400 2000 v)
  -- FR
  | 0x1200004 => some (logClr v)
  | 0x1200008 => some (faultClear v)
  | 0x1200010 => some (haltWrite v)
  | 0x1200018 => some (frRelease v)
  | 0x1200020 => some (frSeize v)
  -- MB
  | 0x1300000 => some (doorbell v)
  | _ => none

/-- The effect of a write of a register row (R5 and the rules of each register). -/
def rowAct (d : RegDef) (i off : Nat) (v : Word) : State → State :=
  match specialAct d.base i off v with
  | some f => f
  | none => plainWrite off (d.rw ||| d.rwc) d.w1c v

/-- A host write of a BAR0 word outside the pitch store. -/
def registerWrite (off : Nat) (v : Word) (s : State) : State :=
  match regFind off with
  | some x => hostWrite off v (rowAct x.1 x.2 off) s
  | none => s

/-! ## Reads -/

/-- A figure the part measures (Config.measured), below a bound: 0 at the reset that its Cold and Warm columns speak of (R9). -/
def figure (off n : Nat) (s : State) : Nat :=
  if s.linkTime = s.power.upT then 0 else (Config.measured off s.linkTime.toNat).toNat % n

/-- A figure over the last 1 ms, which is 0 on return from Doze too. -/
def figureMs (off n : Nat) (s : State) : Nat := if s.linkTime = s.power.wakeT then 0 else figure off n s

/-- MC_BYTESc: units of class c moved in the last 1 ms; those of trial lines are counted among them (R222, R417). -/
def bytesMoved (off c : Nat) (s : State) : Nat :=
  let l := s.mc.trial.filter fun x => x.2.1 == c && decide (since s x.1 < msTicks)
  min 0xFFFFFFFF (figureMs off (2 ^ 32) s + l.foldl (fun a x => a + x.2.2) 0)

/-- GEN_ID (R3). -/
def genIdWord (s : State) : Word := at_ 31 16 0x9632 ||| at_ 15 12 (if s.a8 then 8 else 4) ||| at_ 11 8 1

/-- TFn_PHASE_NOW: the projection at this moment; 0 where the reckoner does not project. -/
def phaseNowWord (s : State) (n : Nat) : Word :=
  let r := reckOf s n
  if projects r then
    let p := proj r s.linkTime
    at_ 31 24 (phCyc p % 256) ||| at_ 23 0 (phFrac p / 65536)
  else 0

/-- TFn_RATE; 0 where the reckoner does not project. -/
def rateWord (s : State) (n : Nat) : Word :=
  let r := reckOf s n
  if projects r then BitVec.ofNat 32 (r.omega.toNat / 256) else 0

/-- What a read of the register row at base, instance i, offset off returns, where it is not the word State.regs holds; with
the state after it. -/
def specialRead (base i off : Nat) (s : State) : Option (Word × State) :=
  match base with
  | 0x0 => some (genIdWord s, s)
  | 0x14 => some (putFld (reg s off) 2 0 (stateCode s), s)
  | 0x100040 => some (BitVec.ofNat 32 (switchMs s), s)
  | 0x200000 => some (s.linkTime.setWidth 32, setReg Reg.tfLinkHi (BitVec.ofNat 32 (s.linkTime.toNat / 2 ^ 32)) s)
  | 0x201004 => some (BitVec.ofNat 32 (reckCode (reckOf s i).st), s)
  | 0x201008 => some (phaseNowWord s i, s)
  | 0x20100C => some (rateWord s i, s)
  | 0x30102C | 0x34102C => some (putFld (reg s off) 15 0 (masksActive s i), s)
  | 0x701008 =>
    some (at_ 31 16 (amp412 (axisAmp s (portOf s i) 1)) ||| at_ 15 0 (amp412 (axisAmp s (portOf s i) 0)), s)
  | 0x701054 => some (putFld (reg s off) 21 16 (heldCount s i), s)
  | 0x701070 => some (probeWord s i, probeRead i s)
  | 0x900008 => some (reg s (Reg.snapBuf 511), s)
  | 0xA00008 | 0xF00024 => some (BitVec.ofNat 32 (figureMs off 101 s), s)
  | 0xF00028 | 0xF00040 => some (putFld (reg s off) 15 0 (figure off (2 ^ 16) s), s)
  | 0xF00030 => some (BitVec.ofNat 32 (bytesMoved off i s), s)
  | 0xF10040 | 0xF10060 | 0xF10080 => some (heldWord s off, s)
  | 0x1100080 => some (BitVec.ofNat 32 (figureMs off (2 ^ 32) s), s)
  | 0x120000C => some (at_ 1 1 (if haltCauses s = 0 then 0 else 1) ||| at_ 0 0 (if reg s Reg.frFault = 0 then 0 else 1), s)
  | 0x1200010 => some (putFld (reg s off) 3 0 (haltCauses s), s)
  | _ => none

/-- What a read of a BAR0 word outside the pitch store returns (R5, R7, R13), with the state after it. -/
def registerRead (off : Nat) (s : State) : Word × State :=
  match regFind off with
  | none => (0, s)
  | some x =>
    if ¬ regExists s x.1 x.2 then (0, s)
    else match specialRead x.1.base x.2 off s with
      | some r => (r.1 &&& ~~~x.1.wo, r.2)
      | none => (reg s off &&& ~~~x.1.wo, s)

/-- Data of a host read. -/
def hostData (x : Word × State) : State := { x.2 with busData := x.1 }

/-- LINK_TIME_LO_READ (R77). -/
def execLinkTimeLoRead (s : State) : Host.Outcome State Fault Refusal :=
  .next (if powered s then hostData (registerRead Reg.tfLinkLo s) else s)

/-! ## Accesses by address -/

/-- An offset lies in the pitch store (R91). -/
def inPitchStore (off : Nat) : Bool := decide (Reg.pitch 0 0 ≤ off ∧ off < Reg.pitch 3072 0)

/-- A naturally aligned 4-byte access of BAR0. Writes in the HL range are logged and dropped (R8, R128). -/
def bar0Access (off : Nat) (acc : Access) (s : State) : State :=
  let o := off - Reg.pitch 0 0
  match acc with
  | .read => hostData (if inPitchStore off then (readPitch s (o / 64) (o % 64 / 4), s) else registerRead off s)
  | .write v =>
    if 0x400000 ≤ off ∧ off < 0x500000 then logAccess .HALL_WRITE 0 off s
    else if inPitchStore off then pitchWrite (o / 64) (o % 64 / 4) v s
    else registerWrite off v s

/-- A naturally aligned 4-byte access of BAR4 (R368, R369): the request area is closed while a request runs. -/
def bar4Access (off : Nat) (acc : Access) (s : State) : State :=
  match acc with
  | .read => hostData (s.bar4.get off, s)
  | .write v =>
    if off < 0x8000 ∧ rbit s Reg.mbStatus 0 then setBit Reg.mbStatus 1 true s
    else { s with bar4 := s.bar4.set off v }

/-- An access that is not naturally aligned and of 4 bytes (R4, R356): logged, and a read returns 0. -/
def oddAccess (bar off : Nat) (acc : Access) (s : State) : State :=
  let s1 := logAccess .ACCESS_WIDTH bar off s
  match acc with
  | .read => { s1 with busData := 0 }
  | .write _ => s1

/-- REGISTER_WRITE: an access of BAR0 or BAR4 by its byte offset and size. BAR4 is 64 KiB; BAR0 takes every 26-bit offset. -/
def execRegisterWrite (bar : Bar) (off : BitVec 26) (size : Nat) (acc : Access) (s : State) :
    Host.Outcome State Fault Refusal :=
  let o := off.toNat
  match bar with
  | .bar0 =>
    if ¬ powered s then .next s
    else if size = 4 ∧ o % 4 = 0 then .next (bar0Access o acc s)
    else .next (oddAccess 0 o acc s)
  | .bar4 =>
    if 65536 ≤ o then .fault .outsideBar
    else if ¬ powered s then .next s
    else if size = 4 ∧ o % 4 = 0 then .next (bar4Access o acc s)
    else .next (oddAccess 4 o acc s)

end Sys2Proof.Machine
end

