-- ==== Sys2Proof/Machine/Dispatch.lean ====
section
/-! DEFINITION. One arm per command of the table: a call of its meaning, or its rejection by name. -/

namespace Sys2Proof.Machine

open Sys2Proof

def exec (i : Instr) (s : State) : Host.Outcome State Fault Refusal :=
  match i with
  | .registerWrite bar off size acc => Sys2Proof.Machine.execRegisterWrite bar off size acc s
  | .linkTimeLoRead => Sys2Proof.Machine.execLinkTimeLoRead s
  | .powerOn corePh testen resetNLow => Sys2Proof.Machine.execPowerOn corePh testen resetNLow s
  | .railInBand r => Sys2Proof.Machine.execRailInBand r s
  | .sequenceFail r => Sys2Proof.Machine.execSequenceFail r s
  | .sequenceRetry => Sys2Proof.Machine.execSequenceRetry s
  | .fullTrainingComplete failed => Sys2Proof.Machine.execFullTrainingComplete failed s
  | .bootCastBuild => Sys2Proof.Machine.execBootCastBuild s
  | .load v => Sys2Proof.Machine.execLoad v s
  | .castLoad => Sys2Proof.Machine.execCastLoad s
  | .castChunkTimeout => Sys2Proof.Machine.execCastChunkTimeout s
  | .castReadComplete => Sys2Proof.Machine.execCastReadComplete s
  | .validationComplete => Sys2Proof.Machine.execValidationComplete s
  | .lock v => Sys2Proof.Machine.execLock v s
  | .abort v => Sys2Proof.Machine.execAbort v s
  | .recastTimeout => Sys2Proof.Machine.execRecastTimeout s
  | .reckonStep t => Sys2Proof.Machine.execReckonStep t s
  | .measuredPoint n phi t omega beta => Sys2Proof.Machine.execMeasuredPoint n phi t omega beta s
  | .laneRoomInsert n lane => Sys2Proof.Machine.execLaneRoomInsert n lane s
  | .realign n v => Sys2Proof.Machine.execRealign n v s
  | .syncEdge m falling t => Sys2Proof.Machine.execSyncEdge m falling t s
  | .syncMissed n => Sys2Proof.Machine.execSyncMissed n s
  | .pickoffLost n => Sys2Proof.Machine.execPickoffLost n s
  | .frameBoundary n x => Sys2Proof.Machine.execFrameBoundary n x s
  | .rasterEnd n => Sys2Proof.Machine.execRasterEnd n s
  | .writebackComplete n => Sys2Proof.Machine.execWritebackComplete n s
  | .signatureRecord n disturb => Sys2Proof.Machine.execSignatureRecord n disturb s
  | .hallStore => Sys2Proof.Machine.execHallStore s
  | .pitchW0Write p v => Sys2Proof.Machine.execPitchW0Write p v s
  | .calJobWrite p w v => Sys2Proof.Machine.execCalJobWrite p w v s
  | .commit n v => Sys2Proof.Machine.execCommit n v s
  | .modeChangeRequest n v => Sys2Proof.Machine.execModeChangeRequest n v s
  | .cancel n v => Sys2Proof.Machine.execCancel n v s
  | .tableSwap n v => Sys2Proof.Machine.execTableSwap n v s
  | .swapCancel n v => Sys2Proof.Machine.execSwapCancel n v s
  | .sliceStart run => Sys2Proof.Machine.execSliceStart run s
  | .sliceDeadline n cut => Sys2Proof.Machine.execSliceDeadline n cut s
  | .levelStale n => Sys2Proof.Machine.execLevelStale n s
  | .compressorBlockDone c => Sys2Proof.Machine.execCompressorBlockDone c s
  | .rawBusy n entry block => Sys2Proof.Machine.execRawBusy n entry block s
  | .decompressorBlockDone c => Sys2Proof.Machine.execDecompressorBlockDone c s
  | .lineEnter n => Sys2Proof.Machine.execLineEnter n s
  | .renderComplete n run => Sys2Proof.Machine.execRenderComplete n run s
  | .strikeTest n entry => Sys2Proof.Machine.execStrikeTest n entry s
  | .rerenderComplete n run => Sys2Proof.Machine.execRerenderComplete n run s
  | .lineDark n entry => Sys2Proof.Machine.execLineDark n entry s
  | .lineWindowEnd n entry => Sys2Proof.Machine.execLineWindowEnd n entry s
  | .capture n v => Sys2Proof.Machine.execCapture n v s
  | .probeDataRead n => Sys2Proof.Machine.execProbeDataRead n s
  | .lenArmWrite v => Sys2Proof.Machine.execLenArmWrite v s
  | .lenFaultClear v => Sys2Proof.Machine.execLenFaultClear v s
  | .lenAssertWaitEnd p => Sys2Proof.Machine.execLenAssertWaitEnd p s
  | .laserSupplyOverv n mv => Sys2Proof.Machine.execLaserSupplyOverv n mv s
  | .sense p k => Sys2Proof.Machine.execSense p k s
  | .take v => Sys2Proof.Machine.execTake v s
  | .restore v => Sys2Proof.Machine.execRestore v s
  | .store v => Sys2Proof.Machine.execStore v s
  | .pageStoreDone linkLost => Sys2Proof.Machine.execPageStoreDone linkLost s
  | .resetEst n v => Sys2Proof.Machine.execResetEst n v s
  | .loopEnable l => Sys2Proof.Machine.execLoopEnable l s
  | .loopClose l => Sys2Proof.Machine.execLoopClose l s
  | .loopOpen l => Sys2Proof.Machine.execLoopOpen l s
  | .loopDisable l => Sys2Proof.Machine.execLoopDisable l s
  | .coefWrite l config w v => Sys2Proof.Machine.execCoefWrite l config w v s
  | .dlyMaxClear l => Sys2Proof.Machine.execDlyMaxClear l s
  | .loopSample l t y0 y1 delay => Sys2Proof.Machine.execLoopSample l t y0 y1 delay s
  | .trackerUpdate l t theta => Sys2Proof.Machine.execTrackerUpdate l t theta s
  | .loopSrcLost l => Sys2Proof.Machine.execLoopSrcLost l s
  | .detectComplete p => Sys2Proof.Machine.execDetectComplete p s
  | .presenceLost p => Sys2Proof.Machine.execPresenceLost p s
  | .trainFlit p step lanes => Sys2Proof.Machine.execTrainFlit p step lanes s
  | .trainTimeout p => Sys2Proof.Machine.execTrainTimeout p s
  | .timeEcho p t1 t2 t3 t4 => Sys2Proof.Machine.execTimeEcho p t1 t2 t3 t4 s
  | .timeAck p minLead => Sys2Proof.Machine.execTimeAck p minLead s
  | .probe p v => Sys2Proof.Machine.execProbe p v s
  | .probeSeriesTimer p => Sys2Proof.Machine.execProbeSeriesTimer p s
  | .readData p tag addr status data => Sys2Proof.Machine.execReadData p tag addr status data s
  | .writeDone p tag status => Sys2Proof.Machine.execWriteDone p tag status s
  | .descWriteTimeout p => Sys2Proof.Machine.execDescWriteTimeout p s
  | .bindAck p bindId => Sys2Proof.Machine.execBindAck p bindId s
  | .bindTimeout p => Sys2Proof.Machine.execBindTimeout p s
  | .quiesce p v => Sys2Proof.Machine.execQuiesce p v s
  | .quiesceAck p => Sys2Proof.Machine.execQuiesceAck p s
  | .quiesceTimeout p => Sys2Proof.Machine.execQuiesceTimeout p s
  | .leave p reason => Sys2Proof.Machine.execLeave p reason s
  | .heartbeat p t state bindId rxErr => Sys2Proof.Machine.execHeartbeat p t state bindId rxErr s
  | .heartbeatMiss p => Sys2Proof.Machine.execHeartbeatMiss p s
  | .packetDiscard p why => Sys2Proof.Machine.execPacketDiscard p why s
  | .lostHoldEnd p => Sys2Proof.Machine.execLostHoldEnd p s
  | .retry p v => Sys2Proof.Machine.execRetry p v s
  | .csiFs c pkt t => Sys2Proof.Machine.execCsiFs c pkt t s
  | .csiLongPacket c vc dt crcOk eccFix data => Sys2Proof.Machine.execCsiLongPacket c vc dt crcOk eccFix data s
  | .csiFe c pkt t => Sys2Proof.Machine.execCsiFe c pkt t s
  | .cameraLost c => Sys2Proof.Machine.execCameraLost c s
  | .camEnable c v => Sys2Proof.Machine.execCamEnable c v s
  | .directWrite c v => Sys2Proof.Machine.execDirectWrite c v s
  | .objListWindow block => Sys2Proof.Machine.execObjListWindow block s
  | .canFrame b xtd id data t => Sys2Proof.Machine.execCanFrame b xtd id data t s
  | .canListTimeout b => Sys2Proof.Machine.execCanListTimeout b s
  | .canBusOffRecovery b => Sys2Proof.Machine.execCanBusOffRecovery b s
  | .imuTransaction start data t => Sys2Proof.Machine.execImuTransaction start data t s
  | .imuHost v => Sys2Proof.Machine.execImuHost v s
  | .casGo k v => Sys2Proof.Machine.execCasGo k v s
  | .bar2Access off len epoch acc => Sys2Proof.Machine.execBar2Access off len epoch acc s
  | .kick => Sys2Proof.Machine.execKick s
  | .aliveWrite v => Sys2Proof.Machine.execAliveWrite v s
  | .hostLost => Sys2Proof.Machine.execHostLost s
  | .doorbell v => Sys2Proof.Machine.execDoorbell v s
  | .version => Sys2Proof.Machine.execVersion s
  | .engMemRead data => Sys2Proof.Machine.execEngMemRead data s
  | .trainModeManual => Sys2Proof.Machine.execTrainModeManual s
  | .trainModeMicrocode failed => Sys2Proof.Machine.execTrainModeMicrocode failed s
  | .bist passed => Sys2Proof.Machine.execBist passed s
  | .patchLoad => Sys2Proof.Machine.execPatchLoad s
  | .mailboxAbort core => Sys2Proof.Machine.execMailboxAbort core s
  | .compressStream v => Sys2Proof.Machine.execCompressStream v s
  | .decompressStream v => Sys2Proof.Machine.execDecompressStream v s
  | .compressBlock v => Sys2Proof.Machine.execCompressBlock v s
  | .resume v => Sys2Proof.Machine.execResume v s
  | .decompressBlock v => Sys2Proof.Machine.execDecompressBlock v s
  | .jobStart => Sys2Proof.Machine.execJobStart s
  | .jobComplete => Sys2Proof.Machine.execJobComplete s
  | .donePop v => Sys2Proof.Machine.execDonePop v s
  | .freqWrite v => Sys2Proof.Machine.execFreqWrite v s
  | .freqChangeComplete => Sys2Proof.Machine.execFreqChangeComplete s
  | .refreshDue pc bank idle => Sys2Proof.Machine.execRefreshDue pc bank idle s
  | .forcedRefresh pc bank => Sys2Proof.Machine.execForcedRefresh pc bank s
  | .dramTempSample t => Sys2Proof.Machine.execDramTempSample t s
  | .selfRefreshIdle pc => Sys2Proof.Machine.execSelfRefreshIdle pc s
  | .srWake pc => Sys2Proof.Machine.execSrWake pc s
  | .dozeSrReentry pc => Sys2Proof.Machine.execDozeSrReentry pc s
  | .bulkPromote pc => Sys2Proof.Machine.execBulkPromote pc s
  | .trackPeriod => Sys2Proof.Machine.execTrackPeriod s
  | .gatherWindowEnd reads writes move pass => Sys2Proof.Machine.execGatherWindowEnd reads writes move pass s
  | .uncorrectableBurst pc => Sys2Proof.Machine.execUncorrectableBurst pc s
  | .autoRemapReset => Sys2Proof.Machine.execAutoRemapReset s
  | .patternRun v => Sys2Proof.Machine.execPatternRun v s
  | .patternRunDone failed dq0 dq1 => Sys2Proof.Machine.execPatternRunDone failed dq0 dq1 s
  | .ledgerUpdate x => Sys2Proof.Machine.execLedgerUpdate x s
  | .engineSensorFailed p sensor => Sys2Proof.Machine.execEngineSensorFailed p sensor s
  | .sensorSuspect k => Sys2Proof.Machine.execSensorSuspect k s
  | .sensorTrusted k => Sys2Proof.Machine.execSensorTrusted k s
  | .throttleStep ladder => Sys2Proof.Machine.execThrottleStep ladder s
  | .freezeEnd ladder => Sys2Proof.Machine.execFreezeEnd ladder s
  | .thermalCrit => Sys2Proof.Machine.execThermalCrit s
  | .laserOvertemp n => Sys2Proof.Machine.execLaserOvertemp n s
  | .thermalPark => Sys2Proof.Machine.execThermalPark s
  | .powerLimitApply => Sys2Proof.Machine.execPowerLimitApply s
  | .powerLimitLift => Sys2Proof.Machine.execPowerLimitLift s
  | .powerLimit => Sys2Proof.Machine.execPowerLimit s
  | .phaseLimit ph => Sys2Proof.Machine.execPhaseLimit ph s
  | .phaseMapWrite m v => Sys2Proof.Machine.execPhaseMapWrite m v s
  | .supplyDip r mv => Sys2Proof.Machine.execSupplyDip r mv s
  | .railRecovered r mv => Sys2Proof.Machine.execRailRecovered r mv s
  | .dipHoldEnd => Sys2Proof.Machine.execDipHoldEnd s
  | .railResetLevel r mv => Sys2Proof.Machine.execRailResetLevel r mv s
  | .stateReqRun => Sys2Proof.Machine.execStateReqRun s
  | .stateReqDoze => Sys2Proof.Machine.execStateReqDoze s
  | .stateReqPark => Sys2Proof.Machine.execStateReqPark s
  | .entryComplete => Sys2Proof.Machine.execEntryComplete s
  | .wakeEdge m rising => Sys2Proof.Machine.execWakeEdge m rising s
  | .dozeExitComplete => Sys2Proof.Machine.execDozeExitComplete s
  | .resetN => Sys2Proof.Machine.execResetN s
  | .perst => Sys2Proof.Machine.execPerst s
  | .warm v => Sys2Proof.Machine.execWarm v s
  | .engine v => Sys2Proof.Machine.execEngine v s
  | .fabric v => Sys2Proof.Machine.execFabric v s
  | .fabricResetComplete => Sys2Proof.Machine.execFabricResetComplete s
  | .watchdogExpiry => Sys2Proof.Machine.execWatchdogExpiry s
  | .supervisorTimeout => Sys2Proof.Machine.execSupervisorTimeout s
  | .wdogKick => Sys2Proof.Machine.execWdogKick s
  | .wdogWrite v => Sys2Proof.Machine.execWdogWrite v s
  | .frFaultClear v => Sys2Proof.Machine.execFrFaultClear v s
  | .hostHaltSet v => Sys2Proof.Machine.execHostHaltSet v s
  | .hostHaltClear v => Sys2Proof.Machine.execHostHaltClear v s
  | .logClear v => Sys2Proof.Machine.execLogClear v s
  | .frRelease v => Sys2Proof.Machine.execFrRelease v s
  | .frSeize v => Sys2Proof.Machine.execFrSeize v s
  | .graceEnd p => Sys2Proof.Machine.execGraceEnd p s
  | .nop q => Sys2Proof.Machine.execNop q s
  | .getSig q => Sys2Proof.Machine.execGetSig q s
  | .setScene q => Sys2Proof.Machine.execSetScene q s
  | .commitScene q => Sys2Proof.Machine.execCommitScene q s
  | .paBegin q => Sys2Proof.Machine.execPaBegin q s
  | .paData q => Sys2Proof.Machine.execPaData q s
  | .paSeal q => Sys2Proof.Machine.execPaSeal q s
  | .containDim q => Sys2Proof.Machine.execContainDim q s
  | .containOff q => Sys2Proof.Machine.execContainOff q s
  | .release q => Sys2Proof.Machine.execRelease q s
  | .sportSilent => Sys2Proof.Machine.execSportSilent s
  | .sportCsStuck => Sys2Proof.Machine.execSportCsStuck s
  | .presenceAsserted p => Sys2Proof.Machine.execPresenceAsserted p s
  | .resetNRelease => Sys2Proof.Machine.execResetNRelease s
  | .canBusOff b => Sys2Proof.Machine.execCanBusOff b s
  | .setPointUpdate n us => Sys2Proof.Machine.execSetPointUpdate n us s
  | .driveSample l => Sys2Proof.Machine.execDriveSample l s
  | .sportBadFrame b => Sys2Proof.Machine.execSportBadFrame b s

end Sys2Proof.Machine
end

