-- ==== Sys2Proof/Machine/Package.lean ====
section
/-! DEFINITION. The fixed data of the package: the rails and their monitor levels (R434), the operating band (R483), the JTAG
identity (R493) and the ball map (R475 to R480). -/

set_option Elab.async false

namespace Sys2Proof.Machine

/-! ## Rails -/

/-- A supply rail: nominal voltage in tenths of a millivolt and the GPIO that enables its regulator. -/
structure RailInfo where
  name : String
  nominal : Nat
  enable : Option Nat
  deriving DecidableEq, Repr

/-- The rails, in the order of their numbers (R434). -/
def rails : List RailInfo :=
  [⟨"VDD_CORE", 7500, none⟩, ⟨"VDD_SRAM", 8500, some 0⟩, ⟨"VDD_AON", 8000, none⟩, ⟨"VDDA_SER", 9000, some 1⟩,
   ⟨"VDDH_SER", 12000, some 1⟩, ⟨"VDDQ", 11000, some 3⟩, ⟨"VPP", 18000, some 2⟩, ⟨"VDD_IO", 18000, none⟩]

/-- Warning, reset and recovery levels in tenths of a millivolt: 95, 90 and 96 per cent of nominal (R434). -/
def RailInfo.warning (r : RailInfo) : Nat := r.nominal * 95 / 100
def RailInfo.resetLevel (r : RailInfo) : Nat := r.nominal * 90 / 100
def RailInfo.recovery (r : RailInfo) : Nat := r.nominal * 96 / 100

/-- Band of a rail in operation, in tenths of a millivolt: 3 per cent of nominal to either side (R483). -/
def RailInfo.band (r : RailInfo) : Nat × Nat := (r.nominal * 97 / 100, r.nominal * 103 / 100)

/-- Absolute maximum of a rail in tenths of a millivolt; the minimum of every rail is -0.3 V (R482). -/
def RailInfo.absMax (r : RailInfo) : Nat :=
  if r.nominal = 7500 then 9000 else if r.nominal = 8500 ∨ r.name = "VDD_AON" then 10000 else if r.nominal = 9000 then 10500
  else if r.nominal = 18000 then 21000 else 14000

/-- Supply currents in milliamperes, in the order of the rails: typical of W1, maximum, typical in Doze, typical in Park (R484). -/
def railCurrents : List (Nat × Nat × Nat × Nat) :=
  [(22000, 44000, 1400, 0), (2400, 5000, 200, 0), (40, 80, 40, 12), (2000, 3600, 300, 0), (900, 1600, 100, 0),
   (3600, 6500, 250, 0), (120, 400, 30, 0), (200, 500, 50, 2)]

/-- Range of temperatures in operation in degrees: ambient, logic junction, DRAM dies (R483). -/
def tempRanges : List (Int × Int) := [(-40, 105), (-40, 125), (-40, 115)]

/-- Thermal resistances in mK/W: hottest logic junction to lid centre, hottest DRAM die to lid centre, hottest logic junction to
the board (R494). -/
def thetaJc : Nat := 120
def thetaDramC : Nat := 200
def thetaJb : Nat := 2400

/-! ## Pins (R485, R486, R490) -/

/-- What drives a 1.8 V pin (R485). -/
inductive PinType where
  | pushPull | openDrain | input | threeLevel
  deriving DecidableEq, Repr

/-- The 1.8 V pins: kind, internal pull (some true up, some false down), and the level from t0 until the owning block drives it
(some true high, some false low, none high impedance or an input) (R485). -/
def pinKinds : List (String × PinType × Option Bool × Option Bool) :=
  [("EPn_LEN_n", .pushPull, none, some true), ("EPn_PRSNT_n", .input, some true, none), ("FAULT_n", .openDrain, none, none),
   ("HALT_n", .openDrain, none, none), ("THERM_n", .openDrain, none, none), ("GPIO0..3", .pushPull, some false, some false),
   ("GPIO4..15", .input, some false, none), ("RESET_N", .input, some true, none), ("PCIE_PERST_n", .input, some true, none),
   ("TRST_n", .input, some false, none), ("TESTEN", .input, some false, none), ("TCK", .input, some true, none),
   ("TMS", .input, some true, none), ("TDI", .input, some true, none), ("TDO", .pushPull, none, none),
   ("CORE_PH0", .input, none, none), ("CORE_PH1", .input, none, none), ("SYNC0..3", .input, none, none),
   ("CANc_RX", .input, none, none), ("IMU_MISO", .input, none, none), ("SPORT_SCK", .input, none, none),
   ("SPORT_CS_n", .input, none, none), ("SPORT_MOSI", .input, none, none), ("CANc_TX", .pushPull, none, some true),
   ("IMU_SCK", .pushPull, none, some false), ("IMU_CS_n", .pushPull, none, some true), ("IMU_MOSI", .pushPull, none, some false),
   ("SPORT_MISO", .pushPull, none, some false), ("PHp", .threeLevel, none, none)]

/-- Current-sense gain in mV/A, and the range read in mV (R490). -/
def isnsGain : Nat := 10
def isnsRange : Int × Int := (-50, 400)

/-- The divider of LS_SNSk (R490). -/
def lsSnsDivider : Nat := 16

/-! ## JTAG (R493) -/

/-- IDCODE: version in [31:28], part in [27:12]. -/
def idcode : Word := 0x196320E5

/-- The instructions of the TAP, which has no effect on the part's function. -/
inductive TapInstr where
  | bypass | idcode | samplePreload | extest | clamp | highz
  deriving DecidableEq, Repr

/-- Instructions under which boundary cells drive pins; the cells of EPn_LEN_n and GPIO0 to GPIO3 only observe (R492). -/
def TapInstr.drives (i : TapInstr) : Bool := i == .extest || i == .clamp || i == .highz

/-! ## Body and marking (R475, R496) -/

/-- Body edge and height to lid top in hundredths of a millimetre, nominal. -/
def bodyEdge : Nat := 4250
def bodyHeight : Nat := 340

/-- The last line of the lid's marking: "S" and GEN_ID.STEP. -/
def stepMark (genId : Word) : String := "S" ++ toString (fld genId 11 8)

/-! ## Balls (R476 to R480) -/

/-- A ball, by row and column from 1. -/
abbrev Ball := Nat × Nat

/-- The rows of cluster B mirror those of cluster A (R477). -/
def epRow (n row : Nat) : Nat := if n < 4 then row else 43 - row

/-- First column of engine port n. -/
def epCol (n : Nat) : Nat := 2 + 10 * (n % 4)

/-- The balls of engine port n (R477): downlink lanes, uplink lanes, LEN_n and PRSNT_n. -/
def epDlP (n j : Nat) : Ball := (epRow n 2, epCol n + j)
def epDlN (n j : Nat) : Ball := (epRow n 3, epCol n + j)
def epUlP (n l : Nat) : Ball := (epRow n 5, epCol n + l)
def epUlN (n l : Nat) : Ball := (epRow n 6, epCol n + l)
def epLenN (n : Nat) : Ball := (epRow n 5, epCol n + 6)
def epPrsntN (n : Nat) : Ball := (epRow n 6, epCol n + 6)

/-- Every ball of engine port n. -/
def epBalls (n : Nat) : List Ball :=
  (List.range 8).flatMap (fun j => [epDlP n j, epDlN n j]) ++ (List.range 2).flatMap (fun l => [epUlP n l, epUlN n l]) ++
  [epLenN n, epPrsntN n]

/-- PCI Express and the cameras (R478). -/
def hostBalls : List Ball :=
  (List.range 4).flatMap (fun k => [(9 + 3 * k, 2), (9 + 3 * k, 3), (9 + 3 * k, 5), (9 + 3 * k, 6)]) ++
  [(21, 2), (21, 3), (21, 5)]
def camBalls (c : Nat) : List Ball :=
  (List.range 4).flatMap (fun l => [(9 + 6 * c + l, 41), (9 + 6 * c + l, 40)]) ++ [(13 + 6 * c, 41), (13 + 6 * c, 40)]

/-- The balls of phase p (R479). -/
def phaseBalls (p : Nat) : List Ball :=
  if p < 8 then [(24 + p, 2), (24 + p, 3), (24 + p, 4)] else [(16 + p, 38), (16 + p, 37), (16 + p, 36)]

/-- GPIOm (R479). -/
def gpioBall (m : Nat) : Ball := if m < 8 then (23 + m, 5) else (15 + m, 6)

/-- The other signal balls of R479, in the order of its table. -/
def slowBalls : List Ball :=
  [(31, 5), (31, 6), (32, 5), (32, 6), (33, 5), (33, 6), (34, 5), (34, 6), (35, 5), (35, 6), (35, 2),
   (32, 2), (32, 3), (32, 4), (33, 2), (33, 3), (33, 4), (34, 2), (34, 3), (34, 4), (35, 3), (35, 4), (32, 36), (32, 37),
   (32, 38), (32, 39), (32, 40), (32, 41), (33, 38), (33, 39), (33, 40), (33, 41)] ++
  (List.range 6).map (fun k => (34, 36 + k)) ++ [(35, 36), (35, 37), (35, 38)]

/-- Every signal ball. -/
def signalBalls : List Ball :=
  (List.range 8).flatMap epBalls ++ hostBalls ++ (List.range 4).flatMap camBalls ++ (List.range 16).flatMap phaseBalls ++
  (List.range 16).map gpioBall ++ slowBalls

/-- What a power ball carries (R480). -/
inductive BallSupply where
  | vddCore | vddSram | vddAon | vddaSer | vddhSer | vddq | vpp | vddIo
  deriving DecidableEq, Repr

/-- The power group of a ball by the rules of R480. -/
def supplyAt (b : Ball) : Option BallSupply :=
  let r := b.1
  let c := b.2
  if 11 ≤ r ∧ r ≤ 32 ∧ 11 ≤ c ∧ c ≤ 32 ∧ (r + c) % 2 = 1 then some .vddCore
  else if (r = 9 ∨ r = 34) ∧ 11 ≤ c ∧ c ≤ 34 then some .vddSram
  else if r = 36 ∧ c % 2 = 0 ∧ 2 ≤ c ∧ c ≤ 16 then some .vddAon
  else if (r = 7 ∨ r = 36) ∧ c % 2 = 1 ∧ 3 ≤ c ∧ c ≤ 41 then some .vddaSer
  else if (r = 8 ∨ r = 35) ∧ c % 2 = 1 ∧ 7 ≤ c ∧ c ≤ 35 then some .vddhSer
  else if (c = 9 ∨ c = 34) ∧ 11 ≤ r ∧ r ≤ 32 then some .vddq
  else if c = 10 ∧ r % 3 = 2 ∧ 11 ≤ r ∧ r ≤ 32 then some .vpp
  else if (c = 7 ∨ c = 35) ∧ 23 ≤ r ∧ r ≤ 34 then some .vddIo
  else none

/-- The reserved balls (R480). -/
def reservedBalls : List Ball :=
  [(1, 1), (1, 42), (42, 1), (42, 42), (33, 36), (33, 37), (35, 39), (35, 40), (35, 41)]

/-- Every ball of the array. -/
def allBalls : List Ball := (List.range 42).flatMap fun r => (List.range 42).map fun c => (r + 1, c + 1)

/-- A ball is VSS where no other rule names it (R476). -/
def isVss (b : Ball) : Bool := (supplyAt b).isNone && !reservedBalls.contains b && !signalBalls.contains b

end Sys2Proof.Machine
end

