-- ==== Sys2Proof/Machine/Pins.lean ====
section
/-! DEFINITION. The pins the part drives, as functions of its state (R236, R431, R434, R438, R440, R461, R463, R485). Pins with a
serial protocol show in the record of what leaves the part. -/

set_option Elab.async false

namespace Sys2Proof.Machine

/-- PD0 has left power-on reset: its pins are driven (R438, R485). -/
def pd0Up (s : State) : Bool := s.power.st != .por

/-- FAULT_n asserted (R461). -/
def faultPin (s : State) : Bool := pd0Up s && reg s Reg.frFault != 0

/-- HALT_n asserted (R463). -/
def haltPin (s : State) : Bool := pd0Up s && haltCauses s != 0

/-- THERM_n asserted (R431). -/
def thermPin (s : State) : Bool := pd0Up s && rfld s Reg.thPin 2 0 != 0

/-- EPn_LEN_n asserted (R236). -/
def lenPinLow (s : State) (p : Nat) : Bool := pd0Up s && lenPin s p

/-- The step of R438 at which the enable on GPIOg is asserted: EN_SRAM, EN_SER, EN_VPP, EN_VDDQ. -/
def enableStep (g : Nat) : Nat := g + 3

/-- The rail enable on GPIOg, g from 0 to 3, is asserted (R434, R438 to R440): in the sequence once its step is reached, in every
state after it until the power-down of Park is complete. -/
def enablePin (s : State) (g : Nat) : Bool :=
  match s.power.st with
  | .por | .park | .lockout => false
  | .boot => !s.power.resetLow && !s.power.retryWait && decide (enableStep g ≤ s.power.seqStep)
  | .run | .enteringDoze | .doze | .enteringPark _ | .leaving => true

end Sys2Proof.Machine
end

