-- ==== Sys2Proof/Safety.lean ====
section
/-! DEFINITION. What counts as a safe state of the part in the terms the claims use: the canonical form of every sparse
store, and when a host write reaches its register whole. -/

set_option Elab.async false

namespace Sys2Proof.Machine

/-- Package DRAM holds its canonical form: addresses strictly rising. An unlisted byte is a free value, so no listed value
equals it by rule. -/
def Memory.wf (m : List (Nat × Byte)) : Bool := rising m

/-- Every sparse store of the part is in canonical form. -/
def State.wf (s : State) : Bool := s.regs.wf && s.pitchAct.wf && Memory.wf s.dram && s.bar4.wf

/-- A host access reaches the register at an offset: the host interface is powered (R17) and the register exists in the running
Cast (R7, R18). -/
def hostSees (s : State) (off : Nat) : Bool :=
  powered s && (match regFind off with
    | some (d, i) => regExists s d i
    | none => false)

/-- A host write of the register at an offset reaches it whole: no bit of the register is locked either (R43). -/
def hostOpen (s : State) (off : Nat) : Bool :=
  powered s && (match regFind off with
    | some (d, i) => regExists s d i && lockedOf s off d.rwc == 0
    | none => false)

/-- A header w0 at pitch p would be a second enabled calibration job of its slot (R252). -/
def jobDup (s : State) (c : SlotCast) (p : Nat) (w0 : Word) : Bool :=
  hdrType w0 == tyCalJob && hdrEn w0 &&
    (generalPitches c).any fun q => q != p && hdrType (pendW s q 0) == tyCalJob && hdrEn (pendW s q 0)

/-- A header of a mask that the sensor bridge owns (R114). -/
def bridgeMask (w0 : Word) : Bool := hdrType w0 == tyMask && hdrOwner w0

/-- A write v of pitch p's header that the pending commit of slot n or a deferral freezes: one to a layer, to a host-owned mask,
or one that makes one, but for handing a mask to the sensor bridge or taking one from it (R147, R152). -/
def headerFrozen (s : State) (n : Nat) (c : SlotCast) (p : Nat) (v : Word) : Bool :=
  (commitFreezes s n c p (pendW s p 0) && (isLayerPitch c p || !bridgeMask (hdrAfter (pendW s p 0) v))) ||
    (commitFreezes s n c p (hdrAfter (pendW s p 0) v) && !bridgeMask (pendW s p 0))

/-- A write v that takes pitch p's mask from the sensor bridge and enables it at once (R114). -/
def ownerTaken (s : State) (p : Nat) (v : Word) : Bool :=
  bridgeMask (pendW s p 0) && !hdrOwner (hdrAfter (pendW s p 0) v) && hdrEn (hdrAfter (pendW s p 0) v)

/-- A write v of pitch p's header after which more masks than MASK_MAX are enabled (R116). -/
def maskOver (s : State) (c : SlotCast) (p : Nat) (v : Word) : Bool :=
  hdrType (hdrAfter (pendW s p 0) v) == tyMask && hdrEn (hdrAfter (pendW s p 0) v) &&
    decide (c.pipe.maskMax < masksAfter s c p (hdrAfter (pendW s p 0) v))

/-- The first word of the newest entry of the fault log: the event's code, class and object (R459). -/
def newestLog (s : State) : Word := reg s (Reg.frLog (rfld s Reg.frLogStat 13 8) 0)

/-- The words that logging may write: the log with its status, FR_FAULT and the pending bits of vector 2. -/
def logArea (a : Nat) : Prop := a = Reg.msixPba ∨ a = Reg.frLogStat ∨ a = Reg.frFault ∨ Reg.frLog 0 0 ≤ a ∧ a < Reg.frLog 64 0

/-- Every channel that a running Cast names is one of the 96. -/
def ChansExist (s : State) : Prop := ∀ n c e, cfgOf s n = some c → e ∈ c.chmp → e.lc < 96

/-- A slot's Cast records name a port, a composer, channels, pitches and counts that exist (R31 to R34). -/
def SlotInRange (c : SlotCast) : Prop :=
  c.slot.port < 8 ∧ c.pipe.composer < 2 ∧ (∀ e ∈ c.chmp, e.lc < 96) ∧ c.pipe.pitchBase + c.pipe.pitches ≤ 3072 ∧
  ∀ m ∈ c.slot.modes, m.count ≤ 65535

/-- Every Cast the part holds, running, staged or kept for a rollback, is in range: the checks of R49 let no other in. -/
def CastsInRange (s : State) : Prop :=
  (∀ n c, cfgOf s n = some c → SlotInRange c) ∧ (∀ x ∈ s.cast.running.slots, SlotInRange x.2) ∧
  (∀ d, s.cast.staged = some d → ∀ x ∈ d.slots, SlotInRange x.2) ∧
  ∀ w, s.cast.switch = some w → ∀ x ∈ w.prev, SlotInRange x.2

/-- The register that a command writes, for the commands that are a host write of one register of BAR0. -/
def hostTarget (c : Instr) : Option Nat :=
  match c with
  | .load _ | .lock _ | .abort _ => some Reg.cstCtrl
  | .realign n _ => some (Reg.tfCtrl n.val)
  | .commit n _ | .modeChangeRequest n _ | .cancel n _ => some (Reg.soCtrl n.val)
  | .tableSwap n _ | .swapCancel n _ => some (Reg.slCtrl n.val)
  | .capture n _ => some (Reg.lbProbeSel n.val)
  | .lenArmWrite _ => some Reg.lcLenCtrl
  | .lenFaultClear _ => some Reg.lcLenStat
  | .take _ | .restore _ => some Reg.caSnapCtrl
  | .store _ => some Reg.caPageCtrl
  | .resetEst n _ => some (Reg.caCtrl n.val)
  | .loopEnable l | .loopClose l | .loopOpen l | .loopDisable l => some (Reg.leCtrl l.val)
  | .coefWrite l false w _ => some (Reg.leCoef l.val w.val)
  | .coefWrite l true w _ => (leConfigReg l.val w.val).map (·.1)
  | .dlyMaxClear l => some (Reg.leDly l.val)
  | .probe p _ | .quiesce p _ | .retry p _ => some (Reg.epCtrl p.val)
  | .camEnable c _ => some (Reg.sbCamCfg c.val)
  | .directWrite c _ => some (Reg.sbCamDirect c.val)
  | .imuHost _ => some Reg.sbImuHost
  | .casGo k _ => some (Reg.wnCas k.val + 8)
  | .kick => some Reg.wnAliveKick
  | .aliveWrite _ => some Reg.wnAlive
  | .doorbell _ => some Reg.mbDoorbell
  | .compressStream _ | .decompressStream _ | .compressBlock _ | .resume _ | .decompressBlock _ => some Reg.cdSubmit
  | .donePop _ => some Reg.cdDonePop
  | .freqWrite _ => some Reg.mcFreq
  | .patternRun _ => some Reg.mcPgCtrl
  | .phaseMapWrite m _ => some (Reg.pmPhaseMap m.val)
  | .stateReqRun | .stateReqDoze | .stateReqPark => some Reg.genStateReq
  | .warm _ | .engine _ | .fabric _ => some Reg.genReset
  | .wdogKick => some Reg.genWdogKick
  | .wdogWrite _ => some Reg.genWdog
  | .frFaultClear _ => some Reg.frFault
  | .hostHaltSet _ | .hostHaltClear _ => some Reg.frHalt
  | .logClear _ => some Reg.frLogClr
  | .frRelease _ => some Reg.frRelease
  | .frSeize _ => some Reg.frSeize
  | .registerWrite .. | .linkTimeLoRead | .powerOn .. | .railInBand .. | .sequenceFail .. | .sequenceRetry
  | .fullTrainingComplete .. | .bootCastBuild | .castLoad | .castChunkTimeout | .castReadComplete | .validationComplete
  | .recastTimeout | .reckonStep .. | .measuredPoint .. | .laneRoomInsert .. | .syncEdge .. | .syncMissed ..
  | .pickoffLost .. | .frameBoundary .. | .rasterEnd .. | .writebackComplete .. | .signatureRecord .. | .hallStore
  | .pitchW0Write .. | .calJobWrite .. | .sliceStart .. | .sliceDeadline .. | .levelStale .. | .compressorBlockDone ..
  | .rawBusy .. | .decompressorBlockDone .. | .lineEnter .. | .renderComplete .. | .strikeTest .. | .rerenderComplete ..
  | .lineDark .. | .lineWindowEnd .. | .probeDataRead .. | .lenAssertWaitEnd .. | .laserSupplyOverv .. | .sense ..
  | .pageStoreDone .. | .loopSample .. | .trackerUpdate .. | .loopSrcLost .. | .detectComplete .. | .presenceLost ..
  | .trainFlit .. | .trainTimeout .. | .timeEcho .. | .timeAck .. | .probeSeriesTimer .. | .readData .. | .writeDone ..
  | .descWriteTimeout .. | .bindAck .. | .bindTimeout .. | .quiesceAck .. | .quiesceTimeout .. | .leave ..
  | .heartbeat .. | .heartbeatMiss .. | .packetDiscard .. | .lostHoldEnd .. | .csiFs .. | .csiLongPacket .. | .csiFe ..
  | .cameraLost .. | .objListWindow .. | .canFrame .. | .canListTimeout .. | .canBusOffRecovery .. | .imuTransaction ..
  | .bar2Access .. | .hostLost | .version | .engMemRead .. | .trainModeManual | .trainModeMicrocode .. | .bist ..
  | .patchLoad | .mailboxAbort .. | .jobStart | .jobComplete | .freqChangeComplete | .refreshDue .. | .forcedRefresh ..
  | .dramTempSample .. | .selfRefreshIdle .. | .srWake .. | .dozeSrReentry .. | .bulkPromote .. | .trackPeriod
  | .gatherWindowEnd .. | .uncorrectableBurst .. | .autoRemapReset | .patternRunDone .. | .ledgerUpdate ..
  | .engineSensorFailed .. | .sensorSuspect .. | .sensorTrusted .. | .throttleStep .. | .freezeEnd .. | .thermalCrit
  | .laserOvertemp .. | .thermalPark | .powerLimitApply | .powerLimitLift | .powerLimit | .phaseLimit .. | .supplyDip ..
  | .railRecovered .. | .dipHoldEnd | .railResetLevel .. | .entryComplete | .wakeEdge .. | .dozeExitComplete | .resetN
  | .perst | .fabricResetComplete | .watchdogExpiry | .supervisorTimeout | .graceEnd .. | .nop .. | .getSig ..
  | .setScene .. | .commitScene .. | .paBegin .. | .paData .. | .paSeal .. | .containDim .. | .containOff ..
  | .release .. | .sportSilent | .sportCsStuck | .presenceAsserted .. | .resetNRelease | .canBusOff ..
  | .setPointUpdate .. | .driveSample .. | .sportBadFrame .. => none

/-! ## Kinds of state -/

/-- The kinds of state a command may change: every field of State but the queue and the ordering code. -/
inductive Kind where
  /-- link time (R77) -/
  | linkTime
  /-- the register words -/
  | regs
  /-- the active copies of the pitches (R94) -/
  | pitchAct
  /-- package DRAM -/
  | dram
  /-- the mailbox areas (R368) -/
  | bar4
  /-- the data of the last host read -/
  | busData
  /-- the record of what leaves the part -/
  | out
  /-- the count of free values taken -/
  | freeCount
  /-- the CORE_PH straps (R435) -/
  | corePh
  /-- the Cast loader and the Cast in force -/
  | cast
  /-- the slots: reckoners, rasters, layers, tables, lines, Hallmark scenes, supplies -/
  | slots
  /-- the engine ports -/
  | ports
  /-- the Hallmark stores and the safety port -/
  | hall
  /-- power and reset -/
  | power
  /-- recovery -/
  | fr
  /-- the mailbox -/
  | mail
  /-- the codec -/
  | codec
  /-- calibration of the light channels -/
  | chans
  /-- the calibration page store -/
  | page
  /-- the memory controller -/
  | mc
  /-- the heat ledger -/
  | heat
  /-- the sensor bridge -/
  | sb
  /-- the loop engine -/
  | loops
  deriving DecidableEq, Repr

/-- State t holds kind k as s does. -/
def Kind.same (k : Kind) (s t : State) : Prop :=
  match k with
  | .linkTime => t.linkTime = s.linkTime
  | .regs => t.regs = s.regs
  | .pitchAct => t.pitchAct = s.pitchAct
  | .dram => t.dram = s.dram ∧ t.dramEpoch = s.dramEpoch
  | .bar4 => t.bar4 = s.bar4
  | .busData => t.busData = s.busData
  | .out => t.out = s.out
  | .freeCount => t.freeCount = s.freeCount
  | .corePh => t.corePh = s.corePh
  | .cast => t.cast = s.cast
  | .slots => t.slots = s.slots
  | .ports => t.ports = s.ports
  | .hall => t.hall = s.hall
  | .power => t.power = s.power
  | .fr => t.fr = s.fr
  | .mail => t.mail = s.mail
  | .codec => t.codec = s.codec
  | .chans => t.chans = s.chans
  | .page => t.page = s.page
  | .mc => t.mc = s.mc
  | .heat => t.heat = s.heat
  | .sb => t.sb = s.sb
  | .loops => t.loops = s.loops

/-- The kinds of state each command may change: no command changes a kind outside its list, and the part's own commands reach
other blocks only where a rule sends them there (a reset, a recast, a loss of the link, a host access by address). -/
def footprint (i : Instr) : List Kind :=
  match i with
  | .registerWrite .. =>
    [.regs, .pitchAct, .dram, .bar4, .busData, .out, .freeCount, .cast, .slots, .ports, .hall, .power, .fr, .mail, .codec, .chans, .page, .mc, .heat, .sb, .loops]
  | .linkTimeLoRead .. | .probeDataRead .. => [.regs, .busData]
  | .powerOn .. =>
    [.linkTime, .regs, .pitchAct, .dram, .bar4, .out, .corePh, .cast, .slots, .ports, .hall, .power, .fr, .mail, .codec, .chans, .page, .mc, .heat, .sb, .loops]
  | .railInBand .. | .sequenceRetry .. | .resetNRelease .. => [.power]
  | .sequenceFail .. => [.regs, .out, .power, .fr, .heat]
  | .fullTrainingComplete .. => [.regs, .out, .freeCount, .slots, .ports, .power, .fr, .mc]
  | .bootCastBuild .. => [.regs, .pitchAct, .dram, .out, .cast, .slots, .ports, .power, .fr, .page, .mc, .heat, .sb, .loops]
  | .load .. | .validationComplete .. | .lock .. | .abort .. | .recastTimeout .. | .frameBoundary .. =>
    [.regs, .pitchAct, .dram, .out, .freeCount, .cast, .slots, .ports, .power, .fr, .codec, .chans, .page, .mc, .heat, .sb, .loops]
  | .castLoad .. => [.regs, .bar4, .out, .freeCount, .cast]
  | .castChunkTimeout .. | .castReadComplete .. => [.regs, .out, .cast]
  | .reckonStep .. => [.linkTime, .regs, .dram, .out, .slots, .ports, .fr, .loops]
  | .measuredPoint .. | .laneRoomInsert .. => [.slots]
  | .realign .. => [.regs, .pitchAct, .dram, .out, .slots, .ports, .fr]
  | .syncEdge .. | .lineEnter .. | .strikeTest .. | .lineDark .. | .lineWindowEnd .. | .setPointUpdate .. => [.regs, .slots]
  | .syncMissed .. | .rasterEnd .. | .levelStale .. | .capture .. | .resetEst .. | .kick .. | .frRelease .. =>
    [.regs, .out, .slots, .fr]
  | .pickoffLost .. | .trackerUpdate .. | .loopSrcLost .. => [.regs, .out, .slots, .fr, .loops]
  | .writebackComplete .. => [.regs, .out, .slots]
  | .signatureRecord .. | .lenArmWrite .. | .lenFaultClear .. | .hostLost .. | .hostHaltSet .. | .hostHaltClear .. =>
    [.regs, .out, .slots, .ports, .fr]
  | .hallStore .. => [.regs, .out, .hall, .fr]
  | .pitchW0Write .. | .calJobWrite .. => [.regs, .pitchAct, .out, .slots, .fr, .sb]
  | .commit .. | .modeChangeRequest .. | .cancel .. | .tableSwap .. | .swapCancel .. =>
    [.regs, .pitchAct, .out, .slots, .fr]
  | .sliceStart .. | .sliceDeadline .. => [.regs, .dram, .slots]
  | .compressorBlockDone .. => [.regs, .dram]
  | .rawBusy .. | .canBusOffRecovery .. | .dramTempSample .. | .bulkPromote .. | .perst .. => [.regs]
  | .decompressorBlockDone .. | .dlyMaxClear .. | .directWrite .. | .casGo .. | .aliveWrite .. | .powerLimit ..
  | .phaseLimit .. | .phaseMapWrite .. | .frFaultClear .. | .logClear .. | .sportSilent .. => [.regs, .out, .fr]
  | .renderComplete .. | .rerenderComplete .. => [.regs, .dram, .slots, .mc]
  | .lenAssertWaitEnd .. => [.ports]
  | .laserSupplyOverv .. | .sense .. | .presenceLost .. | .timeEcho .. | .probe .. | .bindTimeout .. | .quiesce ..
  | .quiesceTimeout .. | .leave .. | .heartbeat .. | .heartbeatMiss .. | .packetDiscard .. | .retry .. =>
    [.regs, .pitchAct, .dram, .out, .slots, .ports, .fr, .page, .heat, .loops]
  | .take .. | .restore .. => [.regs, .out, .freeCount, .slots, .fr, .chans]
  | .store .. => [.regs, .out, .fr, .page]
  | .pageStoreDone .. | .descWriteTimeout .. => [.regs, .out, .ports, .page]
  | .loopEnable .. | .loopClose .. | .loopOpen .. | .loopDisable .. => [.regs, .out, .slots, .ports, .power, .fr, .loops]
  | .coefWrite .. => [.regs, .out, .fr, .loops]
  | .loopSample .. => [.regs, .dram, .out, .slots, .ports, .power, .fr, .loops]
  | .detectComplete .. | .trainFlit .. | .trainTimeout .. | .timeAck .. | .quiesceAck .. | .lostHoldEnd .. =>
    [.regs, .out, .ports]
  | .probeSeriesTimer .. => [.out, .ports]
  | .readData .. => [.regs, .out, .ports, .fr, .page]
  | .writeDone .. => [.out, .ports, .page]
  | .bindAck .. => [.regs, .pitchAct, .dram, .out, .freeCount, .slots, .ports, .fr, .chans, .loops]
  | .csiFs .. | .csiFe .. | .cameraLost .. | .camEnable .. => [.regs, .pitchAct, .dram, .out, .freeCount, .fr, .sb]
  | .csiLongPacket .. | .canListTimeout .. | .canBusOff .. => [.regs, .sb]
  | .objListWindow .. => [.regs, .pitchAct, .out, .freeCount, .sb]
  | .canFrame .. => [.regs, .pitchAct, .freeCount, .sb]
  | .imuTransaction .. => [.regs, .out, .freeCount, .fr, .sb]
  | .imuHost .. => [.regs, .out, .fr, .sb]
  | .bar2Access .. => [.regs, .dram, .out]
  | .doorbell .. => [.regs, .bar4, .out, .fr, .mail]
  | .version .. => [.regs, .bar4, .out]
  | .engMemRead .. => [.regs, .dram, .bar4, .out, .freeCount]
  | .trainModeManual .. => [.regs, .bar4, .out, .freeCount, .mc]
  | .trainModeMicrocode .. => [.regs, .dram, .bar4, .out, .freeCount, .slots, .ports, .fr, .mc]
  | .bist .. => [.regs, .dram, .bar4, .out]
  | .patchLoad .. => [.regs, .bar4, .out, .freeCount, .mail]
  | .mailboxAbort .. => [.regs, .bar4, .out, .cast, .fr]
  | .compressStream .. | .decompressStream .. | .compressBlock .. | .resume .. | .decompressBlock .. | .donePop .. =>
    [.regs, .out, .fr, .codec]
  | .jobStart .. => [.regs, .out, .codec]
  | .jobComplete .. => [.regs, .dram, .out, .codec]
  | .freqWrite .. => [.regs, .out, .fr, .mc]
  | .freqChangeComplete .. | .thermalPark .. | .stateReqRun .. | .stateReqDoze .. | .stateReqPark .. =>
    [.regs, .pitchAct, .dram, .out, .slots, .ports, .power, .fr, .page, .mc, .heat, .sb, .loops]
  | .refreshDue .. | .selfRefreshIdle .. | .dozeSrReentry .. => [.mc]
  | .forcedRefresh .. | .trackPeriod .. => [.regs, .mc]
  | .srWake .. => [.regs, .freeCount, .mc]
  | .gatherWindowEnd .. => [.regs, .out, .freeCount, .slots, .ports, .fr, .mc]
  | .uncorrectableBurst .. => [.regs, .out, .slots, .ports, .fr, .mc]
  | .autoRemapReset .. | .entryComplete .. | .watchdogExpiry .. | .supervisorTimeout .. =>
    [.regs, .pitchAct, .dram, .bar4, .out, .cast, .slots, .ports, .hall, .power, .fr, .mail, .codec, .chans, .page, .mc, .heat, .sb, .loops]
  | .patternRun .. => [.regs, .dram, .out, .fr, .mc]
  | .patternRunDone .. => [.regs, .out, .mc]
  | .ledgerUpdate .. => [.regs, .out, .freeCount, .ports, .heat]
  | .engineSensorFailed .. => [.freeCount, .heat]
  | .sensorSuspect .. | .thermalCrit .. => [.regs, .out, .fr, .heat]
  | .sensorTrusted .. | .freezeEnd .. => [.regs, .heat]
  | .throttleStep .. => [.regs, .out, .slots, .fr, .heat]
  | .laserOvertemp .. => [.regs, .out, .slots, .ports, .fr, .heat]
  | .powerLimitApply .. | .powerLimitLift .. => [.heat]
  | .supplyDip .. => [.regs, .out, .slots, .ports, .power, .fr]
  | .railRecovered .. | .dipHoldEnd .. => [.regs, .power]
  | .railResetLevel .. | .wakeEdge .. | .resetN .. =>
    [.linkTime, .regs, .pitchAct, .dram, .bar4, .out, .cast, .slots, .ports, .hall, .power, .fr, .mail, .codec, .chans, .page, .mc, .heat, .sb, .loops]
  | .dozeExitComplete .. =>
    [.regs, .pitchAct, .dram, .out, .freeCount, .slots, .ports, .power, .fr, .page, .mc, .heat, .sb, .loops]
  | .warm .. | .engine .. | .fabric .. =>
    [.regs, .pitchAct, .dram, .bar4, .out, .freeCount, .cast, .slots, .ports, .hall, .power, .fr, .mail, .codec, .chans, .page, .mc, .heat, .sb, .loops]
  | .fabricResetComplete .. => [.slots, .power]
  | .wdogKick .. | .wdogWrite .. => [.regs, .out, .power, .fr]
  | .frSeize .. | .graceEnd .. => [.regs, .dram, .out, .ports, .fr, .codec, .page, .sb]
  | .nop .. | .paBegin .. | .paData .. | .paSeal .. | .sportCsStuck .. | .sportBadFrame .. => [.regs, .out, .hall]
  | .getSig .. => [.regs, .out, .freeCount, .hall]
  | .setScene .. | .commitScene .. | .release .. => [.regs, .out, .slots, .hall]
  | .containDim .. | .containOff .. => [.regs, .out, .slots, .ports, .hall]
  | .presenceAsserted .. => [.regs, .out, .ports, .fr]
  | .driveSample .. => [.out, .ports, .power]

end Sys2Proof.Machine
end

