-- ==== Sys2Proof/Certificates/Slice0/Obligations.lean ====
section
/-! DEFINITION. The statements about the part, for the provers: the machine, power and resets, faults, Casts, the host, the codec,
package DRAM, the phase domain, frames, lines, light, calibration, loops, links, sensors, heat and the safety port. -/

set_option Elab.async false

open Sys2Proof Sys2Proof.Machine

/-! ## The machine -/

/-- A step takes the command at the front of the queue and runs it on the state with the queue's rest; on an empty queue the
part idles (the model's choice, log entry 1). -/
def Obligations.StepRunsFront : Prop :=
  (∀ (c : Instr) (rest : List Instr) (s : State),
    step { s with pending := c :: rest } = exec c { s with pending := rest }) ∧
  (∀ s : State, s.pending = [] → step s = .next s)

/-- A step with a command waiting takes that command and no other, keeps the ordering code, and only adds to the record of
what leaves the part. -/
def Obligations.StepTakesOneCommand : Prop :=
  ∀ (c : Instr) (rest : List Instr) (s t : State), s.pending = c :: rest → step s = .next t →
    t.pending = rest ∧ t.a8 = s.a8 ∧ ∃ l, t.out = s.out ++ l

/-- Every step keeps the canonical form of every sparse store: registers, pitches, package DRAM, mailbox. -/
def Obligations.StepKeepsStoresCanonical : Prop :=
  ∀ s t : State, s.wf = true → step s = .next t → t.wf = true

/-- At reset the stores are canonical, and no Cast names anything out of range. -/
def Obligations.ResetMeetsInvariants : Prop :=
  (State.reset.wf = true) ∧
  (CastsInRange State.reset)

/-- The frame of every command: a kind of state outside its footprint stands as it was. -/
def Obligations.CommandFootprint : Prop :=
  ∀ (c : Instr) (s t : State) (k : Kind), Sys2Proof.Machine.exec c s = .next t → k ∉ footprint c → k.same s t

/-- Every command answers a next state in every state, but for an access that lies outside the BAR it names: each such access
stops with that fault and no other (the model's choice, log entry 9: no such location exists in the part). -/
def Obligations.EveryCommandAnswers : Prop :=
  (∀ (c : Instr) (s : State),
    (∃ t, Sys2Proof.Machine.exec c s = .next t) ∨
    (Sys2Proof.Machine.exec c s = .fault .outsideBar ∧
      ((∃ off size acc, c = .registerWrite .bar4 off size acc ∧ 65536 ≤ off.toNat) ∨
       (∃ off len epoch acc, c = .bar2Access off len epoch acc ∧ 2 ^ 28 < off.toNat + len)))) ∧
  ((∀ (off : BitVec 26) (size : Nat) (acc : Access) (s : State), 65536 ≤ off.toNat →
    Sys2Proof.Machine.exec (.registerWrite .bar4 off size acc) s = .fault .outsideBar) ∧
  (∀ (off : BitVec 28) (len : Nat) (epoch : BitVec 16) (acc : Option (List Byte)) (s : State), 2 ^ 28 < off.toNat + len →
    Sys2Proof.Machine.exec (.bar2Access off len epoch acc) s = .fault .outsideBar))

/-- A host write of one register while the host interface has no power, or of a register that the running Cast does not
have, leaves the part as it was. -/
def Obligations.UnseenWriteHasNoEffect : Prop :=
  ∀ (c : Instr) (s : State) (off : Nat), hostTarget c = some off → hostSees s off = false →
    Sys2Proof.Machine.exec c s = .next s

/-- The part after reset: link time 0, no command waiting, every register as its Cold column gives it, nothing written in
package DRAM, the boot Cast in force, no slot declared and no link up. -/
def Obligations.ResetState : Prop :=
  State.reset.linkTime = 0 ∧ State.reset.pending = [] ∧ State.reset.dram = [] ∧ State.reset.cast.running.gen = 0 ∧
  (∀ n, n < 8 → declared State.reset n = false) ∧ (∀ p, p < 8 → linkState State.reset p = lsDetect) ∧
  (∀ off, reg State.reset off = (coldImage 0).get off) ∧ stateCode State.reset = 4

/-! ## Power, resets and states -/

/-- What every part-wide reset but a cold one leaves: the part in BOOT, the cause recorded and counted, the boot Cast, nothing
of package DRAM, mailbox, slots and ports, and link time at lt. -/
def Sys2Proof.Machine.PartReset (s t : State) (kind source rail : Nat) (lt : LinkTime) : Prop :=
  t.power.st = .boot ∧ rfld t Reg.genResetCause 31 28 = kind ∧ rfld t Reg.genResetCause 27 24 = source ∧
  rfld t Reg.genResetCause 19 16 = rail ∧
  rfld t Reg.genResetCause 15 0 = min (rfld s Reg.genResetCause 15 0 + 1) 65535 ∧
  t.cast = CastState.boot ∧ t.dram = [] ∧ t.bar4 = [] ∧ (∀ n, declared t n = false) ∧ t.ports = Vector.replicate 8 PortState.init ∧
  t.linkTime = lt

/-- What a cold reset leaves, with its SOURCE: as `PartReset`, with link time 0 and PD0 held until t0. -/
def Sys2Proof.Machine.ColdReset (t : State) (source : Nat) : Prop :=
  t.power.st = .por ∧ rfld t Reg.genResetCause 31 28 = 0 ∧ rfld t Reg.genResetCause 27 24 = source ∧ t.linkTime = 0 ∧
  t.cast = CastState.boot ∧ t.dram = [] ∧ t.bar4 = [] ∧ (∀ n, declared t n = false) ∧ t.ports = Vector.replicate 8 PortState.init

/-- POWER_ON. -/
def Obligations.PowerOnTakesColdValues : Prop :=
  ∀ (ph : BitVec 2) (testen low : Bool) (s : State),
    ∃ t, Sys2Proof.Machine.exec (.powerOn ph testen low) s = .next t ∧ t.linkTime = 0 ∧ t.corePh = ph ∧
      t.cast = CastState.boot ∧ t.dram = [] ∧ t.bar4 = [] ∧ (∀ n, declared t n = false) ∧
      t.power.st = (if testen then .por else .boot) ∧ t.power.seqStep = 1 ∧
      (∀ off, off ≠ Reg.genResetCause → reg t off = (coldImage ph.toNat).get off) ∧
      (s.power.st ≠ .por → low = false ∨ testen = true → reg t Reg.genResetCause = 0)

/-- RAIL_IN_BAND: the rail that a step of power-up waits for completes it; SEQUENCE_RETRY and RESET_N_RELEASE let a held
sequence run; FULL_TRAINING_COMPLETE and BOOT_CAST_BUILD are steps 8 and 9. SEQUENCE_FAIL: the cause with its rail, the log,
FAULT_n, the retry after 100 ms, and the lockout at the third attempt. -/
def Obligations.PowerUp : Prop :=
  (((∀ (r : Rail) (k next : Nat) (s : State), (k, r.val, next) ∈ [(1, 0, 3), (3, 1, 4), (5, 6, 6), (6, 5, 7)] →
      s.power.st = .boot → s.power.resetLow = false → s.power.retryWait = false → s.power.seqStep = k →
      Sys2Proof.Machine.exec (.railInBand r) s = .next { s with power := { s.power with
        inBand := s.power.inBand ||| railBit r.val, judged := s.power.judged ||| railBit r.val, seqStep := next
        attempts := if next = 7 then 0 else s.power.attempts } }) ∧
    (∀ (r : Rail) (s : State), (r.val = 3 ∨ r.val = 4) → s.power.st = .boot → s.power.resetLow = false →
      s.power.retryWait = false → s.power.seqStep = 4 → s.power.inBand.getLsbD r.val = false →
      Sys2Proof.Machine.exec (.railInBand r) s = .next { s with power := { s.power with
        inBand := s.power.inBand ||| railBit r.val, judged := s.power.judged ||| railBit r.val
        seqStep := if s.power.inBand.getLsbD (7 - r.val) then 5 else 4 } }) ∧
    (∀ s : State, s.power.st = .boot →
      Sys2Proof.Machine.exec .sequenceRetry s = .next { s with power := { s.power with retryWait := false } }) ∧
    (∀ s : State, Sys2Proof.Machine.exec .resetNRelease s = .next { s with power := { s.power with resetLow := false } })) ∧
    ((∀ (failed : List PcId) (s : State), s.power.st = .boot → s.power.seqStep = 7 →
      ∃ t, Sys2Proof.Machine.exec (.fullTrainingComplete failed) s = .next t ∧ t.power = { s.power with seqStep := 8 } ∧
        t.mc = DramState.init) ∧
    (∀ s : State, s.power.st = .boot → s.power.seqStep = 8 → s.power.queued = none →
      ∃ t, Sys2Proof.Machine.exec .bootCastBuild s = .next t ∧ t.power = { s.power with st := .run, seqStep := 9 } ∧
        t.cast = CastState.boot ∧ stateCode t ≤ 1))) ∧
  (∀ (r : Rail) (s : State), s.wf = true → (awaited s).contains r.val = true →
      ∃ t, Sys2Proof.Machine.exec (.sequenceFail r) s = .next t ∧ rfld t Reg.genResetCause 31 28 = 1 ∧
        rfld t Reg.genResetCause 27 24 = 3 ∧ rfld t Reg.genResetCause 19 16 = r.val ∧ rbit t Reg.frFault 6 = true ∧
        t.power.inBand = s.power.inBand &&& aonRails ∧ t.power.attempts = s.power.attempts + 1 ∧
        (s.power.attempts + 1 < 3 → t.power.st = .boot ∧ t.power.retryWait = true) ∧
        (3 ≤ s.power.attempts + 1 → t.power.st = .lockout ∧ rfld t Reg.genResetCause 23 20 = 3))

/-- The warm and watchdog resets, and what starts each. -/
def Obligations.PartWideResets : Prop :=
  ∀ s : State, s.wf = true →
    (∀ v : Word, hostOpen s Reg.genReset = true → fld v 31 24 = 0xA5 → bit v 0 = true →
      ∃ t, Sys2Proof.Machine.exec (.warm v) s = .next t ∧ PartReset s t 1 1 0 s.linkTime) ∧
    (s.power.st = .run ∨ s.power.st = .doze →
      ∃ t, Sys2Proof.Machine.exec .resetN s = .next t ∧ PartReset s t 1 0 0 s.linkTime) ∧
    (wdogOver s = true → ∃ t, Sys2Proof.Machine.exec .watchdogExpiry s = .next t ∧ PartReset s t 2 0 0 s.linkTime) ∧
    (powered s = true → 7 ≤ s.power.seqStep →
      ∃ t, Sys2Proof.Machine.exec .supervisorTimeout s = .next t ∧ PartReset s t 2 1 0 s.linkTime) ∧
    (rbit s Reg.mcCtrl 0 = true → s.mc.failed ≠ 0 →
      ∃ t, Sys2Proof.Machine.exec .autoRemapReset s = .next t ∧ PartReset s t 2 2 0 s.linkTime) ∧
    (∀ (r : Rail) (mv : BitVec 16), s.power.judged.getLsbD r.val = true → r.val ≠ 2 → r.val ≠ 7 →
      ∃ t, Sys2Proof.Machine.exec (.railResetLevel r mv) s = .next t ∧ PartReset s t 1 2 r.val s.linkTime) ∧
    (∀ (r : Rail) (mv : BitVec 16), s.power.judged.getLsbD r.val = true → r.val = 2 ∨ r.val = 7 →
      ∃ t, Sys2Proof.Machine.exec (.railResetLevel r mv) s = .next t ∧ ColdReset t (if r.val = 2 then 1 else 2))

/-- Park is left through a wake source: an enabled GPIO edge or RESET_N. -/
def Obligations.ParkExit : Prop :=
  ∀ s : State, s.wf = true → s.power.st = .park →
    (∀ (m : Fin 16) (rising : Bool), 4 ≤ m.val → rbit s Reg.genWake m.val = true → rbit s Reg.genWake (m.val + 16) = rising →
      ∃ t, Sys2Proof.Machine.exec (.wakeEdge m rising) s = .next t ∧ PartReset s t 3 0 0 0) ∧
    (∃ t, Sys2Proof.Machine.exec .resetN s = .next t ∧ PartReset s t 3 1 0 0)

/-- Requests of a part-wide state, taken at once, held, or queued; entry to and exit from Doze and Park; a wake edge in Doze; a
thermal Park. -/
def Obligations.PartWideStates : Prop :=
  (∀ s : State, s.wf = true → hostOpen s Reg.genStateReq = true →
    (s.power.st = .run → entryHeld s = false →
      (∃ t, Sys2Proof.Machine.exec .stateReqDoze s = .next t ∧ t.power.st = .enteringDoze) ∧
      (∃ t, Sys2Proof.Machine.exec .stateReqPark s = .next t ∧ t.power.st = .enteringPark false)) ∧
    (s.power.st = .run → entryHeld s = true →
      (∃ t, Sys2Proof.Machine.exec .stateReqDoze s = .next t ∧ t.power = { s.power with queued := some 2 } ∧
        rbit t Reg.genState 8 = true) ∧
      (∃ t, Sys2Proof.Machine.exec .stateReqPark s = .next t ∧ t.power = { s.power with queued := some 3 } ∧
        rbit t Reg.genState 8 = true)) ∧
    (s.power.st = .doze → ∃ t, Sys2Proof.Machine.exec .stateReqRun s = .next t ∧
      t.power = { s.power with st := .leaving, queued := none } ∧ rfld t Reg.genStateReq 1 0 = 0) ∧
    (s.power.st = .run → ∃ t, Sys2Proof.Machine.exec .stateReqRun s = .next t ∧ t.power = { s.power with queued := none } ∧
      rbit t Reg.genState 8 = false ∧ rfld t Reg.genStateReq 1 0 = 0)) ∧
  (∀ s : State, s.wf = true →
    (s.power.st = .enteringDoze → s.power.queued = none → ∃ t, Sys2Proof.Machine.exec .entryComplete s = .next t ∧
      t.power = { s.power with st := .doze } ∧ t.mc.sr = 0xFFFF ∧ stateCode t = 2) ∧
    (∀ thermal : Bool, s.power.st = .enteringPark thermal → ∃ t, Sys2Proof.Machine.exec .entryComplete s = .next t ∧
      t.power.st = .park ∧ rfld t Reg.genResetCause 23 20 = (if thermal then 2 else 1) ∧ t.dram = [] ∧
      t.cast = CastState.boot) ∧
    (∀ (m : Fin 16) (rising : Bool), s.power.st = .doze → 4 ≤ m.val → rbit s Reg.genWake m.val = true →
      rbit s Reg.genWake (m.val + 16) = rising → ∃ t, Sys2Proof.Machine.exec (.wakeEdge m rising) s = .next t ∧
        t.power = { s.power with st := .leaving, queued := none } ∧ rfld t Reg.genStateReq 1 0 = 0) ∧
    (s.power.st = .leaving → s.power.queued = none → ∃ t, Sys2Proof.Machine.exec .dozeExitComplete s = .next t ∧
      t.power = { s.power with st := .run, wakeT := s.linkTime } ∧ t.mc.sr = 0 ∧ stateCode t ≤ 1) ∧
    (s.power.st = .run → critDim s = true → 100 * msTicks ≤ since s s.heat.tripAt →
      ∃ t, Sys2Proof.Machine.exec .thermalPark s = .next t ∧ t.power.st = .enteringPark true))

/-- Supply dips: the dip marks its rail, counts, and in Run gives every declared slot its Dim cause; recovery begins the last
10 ms, and their end ends the hold. -/
def Obligations.SupplyDips : Prop :=
  ∀ s : State, s.wf = true →
    (∀ (r : Rail) (mv : BitVec 16), s.power.judged.getLsbD r.val = true → rbit s Reg.genDip r.val = false →
      ∃ t, Sys2Proof.Machine.exec (.supplyDip r mv) s = .next t ∧
        t.power = { s.power with holdTail := false, inBand := s.power.inBand &&& ~~~railBit r.val } ∧
        (s.power.st ≠ .doze → ∀ n, n < 8 → declared s n = true → (slotAt t n).dimDip = true) ∧
        (s.power.st = .doze → t.slots = s.slots ∧ rbit t Reg.genDip r.val = true ∧ rbit t Reg.genDip (8 + r.val) = true ∧
          rbit t Reg.genDip 16 = true ∧ rfld t Reg.genDipCnt 15 0 = min (rfld s Reg.genDipCnt 15 0 + 1) 65535)) ∧
    (∀ (r : Rail) (mv : BitVec 16), s.power.st ≠ .por → rbit s Reg.genDip r.val = true →
      ∃ t, Sys2Proof.Machine.exec (.railRecovered r mv) s = .next t ∧ rbit t Reg.genDip r.val = false ∧
        t.power.inBand = s.power.inBand ||| railBit r.val ∧ rfld t (Reg.genRail r.val) 15 0 = mv.toNat ∧
        (rfld t Reg.genDip 7 0 = 0 → t.power.holdTail = true)) ∧
    (s.power.holdTail = true → ∃ t, Sys2Proof.Machine.exec .dipHoldEnd s = .next t ∧ rbit t Reg.genDip 16 = false ∧
      t.power = { s.power with holdTail := false } ∧ ∀ off, off ≠ Reg.genDip → reg t off = reg s off)

/-! ## Engine and fabric resets, the watchdog, PERST#, phases and supplies -/

/-- ENGINE, FABRIC and FABRIC_RESET_COMPLETE, and a write of GEN_RESET without its key. -/
def Obligations.EngineAndFabricResets : Prop :=
  ∀ s : State, s.wf = true →
    (∀ v : Word, hostOpen s Reg.genReset = true → fld v 31 24 = 0xA5 → bit v 0 = false → bit v 16 = false →
      fld v 15 8 ≠ 0 → s.power.queued = none →
      ∃ t, Sys2Proof.Machine.exec (.engine v) s = .next t ∧ newestLog t = logWord .RESET clsPart 0 ∧
        ∀ (n : Nat) (c : SlotCast), fld v 15 8 = 2 ^ n → n < 8 → cfgOf s n = some c → c.slot.port < 8 → s.cast.switch = none →
          (linkState s c.slot.port = lsIdentify ∨ linkState s c.slot.port = lsBind ∨ linkState s c.slot.port = lsQuiesce) →
          (portAt t c.slot.port).quiesce = some .engineReset ∧ t.power = s.power ∧ t.cast = s.cast) ∧
    (∀ v : Word, hostOpen s Reg.genReset = true → fld v 31 24 = 0xA5 → bit v 0 = false → bit v 16 = true → fld v 15 8 = 0 →
      ∃ t, Sys2Proof.Machine.exec (.fabric v) s = .next t ∧ newestLog t = logWord .RESET clsPart 0 ∧
        t.power = { s.power with fabric := true } ∧ t.cast = s.cast) ∧
    (s.power.fabric = true → ∃ t, Sys2Proof.Machine.exec .fabricResetComplete s = .next t ∧
      t.power = { s.power with fabric := false } ∧ t.regs = s.regs ∧
      (∀ n, n < 8 → slotAt t n = if declared s n then { slotAt s n with darkFabric := true } else slotAt s n)) ∧
    (∀ v : Word, hostOpen s Reg.genReset = true → fld v 31 24 ≠ 0xA5 →
      ∃ t, Sys2Proof.Machine.exec (.warm v) s = .next t ∧ Sys2Proof.Machine.exec (.engine v) s = .next t ∧
        Sys2Proof.Machine.exec (.fabric v) s = .next t ∧ newestLog t = logWord .GEN_KEY clsHost 0 ∧ t.power = s.power ∧
        t.slots = s.slots ∧ t.ports = s.ports)

/-- The watchdog registers, PERST# and the phase registers. -/
def Obligations.WatchdogPerstAndPhases : Prop :=
  ∀ s : State, s.wf = true →
    (hostOpen s Reg.genWdogKick = true → Sys2Proof.Machine.exec .wdogKick s =
      .next { s with power := { s.power with wdog := s.power.wdog.map fun _ => s.linkTime } }) ∧
    (∀ v : Word, hostOpen s Reg.genWdog = true → ∃ t, Sys2Proof.Machine.exec (.wdogWrite v) s = .next t ∧
      t.power = { s.power with wdog := if bit v 31 then some s.linkTime else none } ∧ rfld t Reg.genWdog 15 0 = max 10 (fld v 15 0) ∧
      rbit t Reg.genWdog 31 = bit v 31 ∧ ∀ off, off ≠ Reg.genWdog → reg t off = reg s off) ∧
    (powered s = true → ∃ t, Sys2Proof.Machine.exec .perst s = .next t ∧
      (∀ k, k < 64 → reg t (Reg.msixTable + 16 * k) = 0 ∧ reg t (Reg.msixTable + 16 * k + 4) = 0 ∧
        reg t (Reg.msixTable + 16 * k + 8) = 0 ∧ reg t (Reg.msixTable + 16 * k + 12) = 1) ∧
      reg t Reg.msixPba = 0 ∧ reg t (Reg.msixPba + 4) = 0 ∧
      ∀ off, off < Reg.msixTable ∨ Reg.msixPba + 4 < off → reg t off = reg s off) ∧
    (∀ ph : PhaseId, heatRuns s = true → ∃ t, Sys2Proof.Machine.exec (.phaseLimit ph) s = .next t ∧
      newestLog t = logWord .PHASE_LIMIT clsSupply (16 + ph.val)) ∧
    (∀ (m : Fin 4) (v : Word), hostOpen s (Reg.pmPhaseMap m.val) = true →
      (∀ i, i < 4 → (phaseGroup v i ≤ 15 ∨ phaseGroup v i = 31) ∧
        (phaseGroup v i = 0 ↔ phaseGroup (reg s (Reg.pmPhaseMap m.val)) i = 0)) →
      ∃ t, Sys2Proof.Machine.exec (.phaseMapWrite m v) s = .next t ∧ reg t (Reg.pmPhaseMap m.val) = v &&& 0x1F1F1F1F ∧
        ∀ off, off ≠ Reg.pmPhaseMap m.val → off ≠ Reg.pmGrp → reg t off = reg s off) ∧
    (∀ (m : Fin 4) (v : Word) (i : Nat), hostOpen s (Reg.pmPhaseMap m.val) = true → i < 4 →
      (16 ≤ phaseGroup v i ∧ phaseGroup v i ≤ 30 ∨
        ¬ (phaseGroup v i = 0 ↔ phaseGroup (reg s (Reg.pmPhaseMap m.val)) i = 0)) →
      ∃ t, Sys2Proof.Machine.exec (.phaseMapWrite m v) s = .next t ∧ newestLog t = logWord .PM_MAP clsHost 0 ∧
        reg t (Reg.pmPhaseMap m.val) = reg s (Reg.pmPhaseMap m.val) ∧ reg t Reg.pmGrp = reg s Reg.pmGrp)

/-! ## Faults and recovery -/

/-- FR_FAULT: software clears bits 2 to 8 whose condition is over, and no other; the log is cleared with its key. FR_HALT:
with its key the host sets HOST, which deasserts every LEN_n, or clears it; without its key nothing happens. -/
def Obligations.FaultClearAndLogClear : Prop :=
  (∀ s : State, s.wf = true →
      (∀ v : Word, hostOpen s Reg.frFault = true → ∃ t, Sys2Proof.Machine.exec (.frFaultClear v) s = .next t ∧
        (∀ b, b < 32 → rbit t Reg.frFault b =
          (rbit s Reg.frFault b && !(decide (2 ≤ b ∧ b ≤ 8) && bit v b && !faultHolds s b))) ∧
        (∀ off, off ≠ Reg.frFault → reg t off = reg s off) ∧ t.slots = s.slots) ∧
      (∀ v : Word, hostOpen s Reg.frLogClr = true → fld v 31 24 = 0x5A → bit v 0 = true →
        ∃ t, Sys2Proof.Machine.exec (.logClear v) s = .next t ∧ reg t Reg.frLogStat = 0 ∧
          (∀ i w, i < 64 → w < 4 → reg t (Reg.frLog i w) = 0) ∧
          ∀ off, off ≠ Reg.frLogStat → off < Reg.frLog 0 0 ∨ Reg.frLog 64 0 ≤ off → reg t off = reg s off) ∧
      (∀ v : Word, hostOpen s Reg.frLogClr = true → fld v 31 24 ≠ 0x5A ∨ bit v 0 = false →
        Sys2Proof.Machine.exec (.logClear v) s = .next s)) ∧
  (∀ (s : State) (v : Word), s.wf = true → CastsInRange s → hostOpen s Reg.frHalt = true →
      (fld v 31 24 = 0x5A → bit v 8 = true → ∃ t, Sys2Proof.Machine.exec (.hostHaltSet v) s = .next t ∧
        rbit t Reg.frHalt 8 = true ∧ (∀ p, p < 8 → lenPin t p = false) ∧ t.power = s.power) ∧
      (fld v 31 24 = 0x5A → bit v 8 = false → ∃ t, Sys2Proof.Machine.exec (.hostHaltClear v) s = .next t ∧
        rbit t Reg.frHalt 8 = false ∧ t.power = s.power) ∧
      (fld v 31 24 ≠ 0x5A → Sys2Proof.Machine.exec (.hostHaltSet v) s = .next s ∧
        Sys2Proof.Machine.exec (.hostHaltClear v) s = .next s))

/-- FR_RELEASE, FR_SEIZE and the end of a grace. -/
def Obligations.ReleaseAndSeizure : Prop :=
  ∀ s : State, s.wf = true →
    (∀ (v : Word) (n : Nat), hostOpen s Reg.frRelease = true → n < 8 → fld v 7 0 = 2 ^ n →
      ∃ t, Sys2Proof.Machine.exec (.frRelease v) s = .next t ∧
        (mayRelease s n = true → t.regs = s.regs ∧
          (∀ c ∈ (slotAt t n).contain, c.cause = .overtemp → c.ending = true) ∧
          ∀ k, k ≠ n → slotAt t k = slotAt s k) ∧
        (mayRelease s n = false → t.slots = s.slots ∧ newestLog t = logWord .RELEASE_REFUSED clsHost 0)) ∧
    (∀ v : Word, hostOpen s Reg.frSeize = true → ∃ t, Sys2Proof.Machine.exec (.frSeize v) s = .next t ∧
      (∀ q, seizable s v = some q → newestLog t = logWord .SEIZED (partyId q).1 (partyId q).2) ∧
      (seizable s v = none → newestLog t = logWord .SEIZE_REFUSED clsHost 0 ∧ t.codec = s.codec ∧ t.slots = s.slots)) ∧
    (∀ q : Party, graceOver s q = true → ∃ t, Sys2Proof.Machine.exec (.graceEnd q) s = .next t ∧
      newestLog t = logWord .SEIZED (partyId q).1 (partyId q).2) ∧
    (∀ q : Party, graceOver s q = false → Sys2Proof.Machine.exec (.graceEnd q) s = .next s)

/-! ## Casts -/

/-- The words of BAR0 that hold a block tally each (R361). -/
def Sys2Proof.Machine.tallyArea (a : Nat) : Prop := Reg.wnTally 0 ≤ a ∧ a < Reg.wnTally 4096

/-- What a failed load leaves: the loader idle, the failure in RESULT, CST_ERR and CST_ERR_FIELD, nothing of the load, and the
running Cast as it was (R31, R32). -/
def Sys2Proof.Machine.CastFailed (s t : State) (e : CastErr) : Prop :=
  castSt t = csIdle ∧ rfld t Reg.cstStatus 31 16 = e.status.code ∧ reg t Reg.cstErr = BitVec.ofNat 32 e.off ∧
  reg t Reg.cstErrField = (at_ 31 24 e.ty ||| at_ 23 16 e.index ||| at_ 15 0 e.field) ∧
  t.cast = { s.cast with load := none, bytes := [] } ∧ t.slots = s.slots ∧ t.ports = s.ports

/-- LOAD and LOCK: a load of either source starts in Idle alone; Cast lock is set and stays. -/
def Obligations.LoadAndLock : Prop :=
  ∀ (s : State) (v : Word), s.wf = true → hostOpen s Reg.cstCtrl = true → s.power.queued = none → bit v 8 = false →
    (bit v 0 = true → bit v 4 = false → castSt s = csIdle → manualMode s = false → mailBusy s 5 = false →
      (fld v 2 1 = 1 → ∃ t, Sys2Proof.Machine.exec (.load v) s = .next t ∧ castSt t = csLoading ∧
        t.cast = { s.cast with load := some .mailbox, bytes := [] }) ∧
      (fld v 2 1 = 0 → ∀ b c, b = rfld s Reg.cstSrc 11 0 → c = rfld s Reg.cstSrc 22 16 → 1 ≤ c → c ≤ 64 → b + c ≤ 4096 →
        ((blocksOf b c).all (isDevice s) = true → ∃ t, Sys2Proof.Machine.exec (.load v) s = .next t ∧ castSt t = csLoading ∧
          t.cast = { s.cast with load := some (.window b c), bytes := [] }))) ∧
    (bit v 0 = true → bit v 4 = false → fld v 2 1 < 2 → castSt s ≠ csIdle →
      ∃ t, Sys2Proof.Machine.exec (.load v) s = .next t ∧ rfld t Reg.cstStatus 31 16 = Status.CAST_BUSY.code ∧
        castSt t = castSt s ∧ t.cast = s.cast) ∧
    (bit v 0 = false → bit v 4 = true → fld v 2 1 < 2 →
      ∃ t, Sys2Proof.Machine.exec (.lock v) s = .next t ∧ castLocked t = true ∧ t.cast = s.cast ∧
        ∀ off, off ≠ Reg.cstCtrl → off ≠ Reg.cstStatus → reg t off = reg s off)

/-- CAST_LOAD, CAST_CHUNK_TIMEOUT, CAST_READ_COMPLETE, the end of a load that fails (VALIDATION_COMPLETE, MAILBOX_ABORT), and a
first Cast that is valid, in force at once. -/
def Obligations.LoadRuns : Prop :=
  (∀ s : State, s.wf = true →
    (∀ bs, mailBusy s 2 = true → s.heat.limited = false → awaitsChunk s = true → bs = s.cast.bytes ++ s.mail.payload →
      (chunkOk s.cast.bytes.length s.mail.arg0 s.mail.payload.length = true →
        (s.mail.arg1.testBit 0 = false → ∃ t, Sys2Proof.Machine.exec .castLoad s = .next t ∧ t.cast = { s.cast with bytes := bs } ∧
          rfld t Reg.mbStatus 31 16 = Status.OK.code ∧ castSt t = csLoading ∧ t.slots = s.slots) ∧
        (s.mail.arg1.testBit 0 = true → checkHeader (bs.take 64) (fun t => t == bs.length) = none →
          ∃ t, Sys2Proof.Machine.exec .castLoad s = .next t ∧ t.cast = { s.cast with bytes := bs } ∧
            rfld t Reg.mbStatus 31 16 = Status.OK.code ∧ castSt t = csValidating ∧ t.slots = s.slots) ∧
        (∀ e, s.mail.arg1.testBit 0 = true → checkHeader (bs.take 64) (fun t => t == bs.length) = some e →
          ∃ t, Sys2Proof.Machine.exec .castLoad s = .next t ∧ CastFailed s t e ∧ rfld t Reg.mbStatus 31 16 = Status.OK.code)) ∧
      (chunkOk s.cast.bytes.length s.mail.arg0 s.mail.payload.length = false →
        ∃ t, Sys2Proof.Machine.exec .castLoad s = .next t ∧ CastFailed s t (bareErr .CAST_FORMAT))) ∧
    (mailBusy s 2 = true → s.heat.limited = false → awaitsChunk s = false →
      ∃ t, Sys2Proof.Machine.exec .castLoad s = .next t ∧ t.cast = s.cast ∧ rfld t Reg.mbStatus 31 16 = Status.MB_STATE.code ∧
        castSt t = castSt s ∧ t.slots = s.slots) ∧
    (awaitsChunk s = true → ∃ t, Sys2Proof.Machine.exec .castChunkTimeout s = .next t ∧ CastFailed s t (bareErr .CAST_FORMAT)) ∧
    (∀ b c, castSt s = csLoading → s.heat.limited = false → s.cast.load = some (.window b c) →
      (∀ e, checkHeader (devRead s (blockAddr b) 64) (fun t => decide ((c - 1) * 65536 < t ∧ t ≤ c * 65536)) = some e →
        ∃ t, Sys2Proof.Machine.exec .castReadComplete s = .next t ∧ CastFailed s t e) ∧
      (checkHeader (devRead s (blockAddr b) 64) (fun t => decide ((c - 1) * 65536 < t ∧ t ≤ c * 65536)) = none →
        ∃ t, Sys2Proof.Machine.exec .castReadComplete s = .next t ∧ castSt t = csValidating ∧
          t.cast = { s.cast with bytes := devRead s (blockAddr b) (leAt (devRead s (blockAddr b) 64) 12 4) } ∧
          ∀ off, off ≠ Reg.cstStatus → reg t off = reg s off)) ∧
    (∀ e, castSt s = csValidating → s.heat.limited = false → s.power.queued = none →
      validate { step := 1, capMiB := capacityMiB s, running := s.cast.running, recast := decide (castGen s ≠ 0)
                 locked := castLocked s, flds := s.cast.lockFlds } s.cast.bytes = .inl e →
      ∃ t, Sys2Proof.Machine.exec .validationComplete s = .next t ∧ CastFailed s t e) ∧
    (∀ core : Fin 4, mailBusy s 2 = true → lockOverdue s = true → awaitsChunk s = true →
      ∃ t, Sys2Proof.Machine.exec (.mailboxAbort core) s = .next t ∧ CastFailed s t (bareErr .CAST_FORMAT) ∧
        rfld t Reg.mbStatus 31 16 = Status.MB_ABORTED.code)) ∧
  (∀ (s : State) (c : CastDesc), castSt s = csValidating → s.heat.limited = false → s.power.queued = none → castGen s = 0 →
    validate { step := 1, capMiB := capacityMiB s, running := s.cast.running, recast := false
               locked := castLocked s, flds := s.cast.lockFlds } s.cast.bytes = .inr c →
    ∃ t, Sys2Proof.Machine.exec .validationComplete s = .next t ∧ t.cast.running = c ∧ t.cast.pool = c.pool ∧
      t.cast.pdOff = c.pdOff ∧ t.cast.load = none ∧ t.cast.switch = none ∧ t.cast.staged = none)

/-- ABORT, and RECAST_TIMEOUT once 250 ms have passed, before any slot has switched: the running Cast stays, and the loader is idle. -/
def Obligations.RecastAborts : Prop :=
  ∀ (s : State) (w : SwitchState), s.wf = true → castSt s = csSwitching → s.cast.switch = some w → w.passed = [] → w.dark = [] →
    s.cast.pdOff = s.cast.running.pdOff → s.power.queued = none →
    (∀ v : Word, hostOpen s Reg.cstCtrl = true → bit v 8 = true → bit v 0 = false → bit v 4 = false → fld v 2 1 < 2 →
      ∃ t, Sys2Proof.Machine.exec (.abort v) s = .next t ∧ castSt t = csIdle ∧
        rfld t Reg.cstStatus 31 16 = Status.RECAST_ABORT.code ∧ t.cast.running = s.cast.running ∧ t.cast.switch = none ∧
        t.cast.staged = none ∧ t.cast.pool = s.cast.running.pool ∧ newestLog t = logWord .RECAST_ABORT clsPart 0) ∧
    (since s w.start < 250 * msTicks → Sys2Proof.Machine.exec .recastTimeout s = .next s) ∧
    (250 * msTicks ≤ since s w.start → w.plans ≠ [] → (∀ x ∈ w.plans, passedNow s x.1 = false) →
      ∃ t, Sys2Proof.Machine.exec .recastTimeout s = .next t ∧ castSt t = csIdle ∧
        rfld t Reg.cstStatus 31 16 = Status.RECAST_ABORT.code ∧ t.cast.running = s.cast.running ∧ t.cast.switch = none ∧
        t.cast.staged = none ∧ t.cast.pool = s.cast.running.pool ∧ newestLog t = logWord .RECAST_ABORT clsPart 0)

/-! ## The host's BARs, the window and the mailbox -/

/-- Host reads and odd accesses: what a read returns, and that it changes nothing else; BAR4 holds what is written. -/
def Obligations.HostAccesses : Prop :=
  ∀ s : State, s.wf = true → powered s = true →
    (∀ (off : BitVec 26) (d : RegDef) (i : Nat), off.toNat % 4 = 0 → inPitchStore off.toNat = false →
      regFind off.toNat = some (d, i) → specialRead d.base i off.toNat s = none →
      Sys2Proof.Machine.exec (.registerWrite .bar0 off 4 .read) s = .next { s with
        busData := if regExists s d i then reg s off.toNat &&& ~~~d.wo else 0 }) ∧
    (∀ off : BitVec 26, off.toNat % 4 = 0 → inPitchStore off.toNat = false → regFind off.toNat = none →
      Sys2Proof.Machine.exec (.registerWrite .bar0 off 4 .read) s = .next { s with busData := 0 }) ∧
    (∀ (bar : Bar) (off : BitVec 26) (size : Nat), ¬ (size = 4 ∧ off.toNat % 4 = 0) → off.toNat < 65536 ∨ bar = .bar0 →
      (∃ t, Sys2Proof.Machine.exec (.registerWrite bar off size .read) s = .next t ∧ t.busData = 0 ∧
        newestLog t = logWord .ACCESS_WIDTH clsHost 0 ∧ ∀ a, ¬ logArea a → reg t a = reg s a) ∧
      (∀ v, ∃ t, Sys2Proof.Machine.exec (.registerWrite bar off size (.write v)) s = .next t ∧
        newestLog t = logWord .ACCESS_WIDTH clsHost 0 ∧ ∀ a, ¬ logArea a → reg t a = reg s a)) ∧
    (∀ (off : BitVec 26) (v : Word), off.toNat % 4 = 0 → off.toNat < 65536 → 0x8000 ≤ off.toNat ∨ rbit s Reg.mbStatus 0 = false →
      ∃ t, Sys2Proof.Machine.exec (.registerWrite .bar4 off 4 (.write v)) s = .next t ∧ t.bar4.get off.toNat = v ∧
        (∀ a, a ≠ off.toNat → t.bar4.get a = s.bar4.get a) ∧ t.regs = s.regs) ∧
    (∀ off : BitVec 26, off.toNat % 4 = 0 → off.toNat < 65536 →
      Sys2Proof.Machine.exec (.registerWrite .bar4 off 4 .read) s = .next { s with busData := s.bar4.get off.toNat }) ∧
    (hostSees s Reg.tfLinkLo = true → ∃ t, Sys2Proof.Machine.exec .linkTimeLoRead s = .next t ∧ t.busData = s.linkTime.setWidth 32 ∧
      (reg t Reg.tfLinkHi).toNat = s.linkTime.toNat / 2 ^ 32 ∧ ∀ a, a ≠ Reg.tfLinkHi → reg t a = reg s a) ∧
    (∀ n : Slot, hostSees s (Reg.lbProbeData n.val) = true →
      ∃ t, Sys2Proof.Machine.exec (.probeDataRead n) s = .next t ∧ t.busData = probeWord s n.val ∧
        rfld t (Reg.lbProbeSel n.val) 21 16 = (rfld s (Reg.lbProbeSel n.val) 21 16 + 2) % 64 ∧
        ∀ a, a ≠ Reg.lbProbeSel n.val → reg t a = reg s a)

/-- What a host write does to each bit of a register without a rule of its own: locked bits hold, RW bits take the value, W1C
bits written 1 clear, all others hold; no other register outside the log changes. -/
def Obligations.RegisterWriteByAccessType : Prop :=
  ∀ (s : State) (off : BitVec 26) (v : Word) (d : RegDef) (i : Nat), s.wf = true → powered s = true → off.toNat % 4 = 0 →
    inPitchStore off.toNat = false → ¬ (0x400000 ≤ off.toNat ∧ off.toNat < 0x500000) → regFind off.toNat = some (d, i) →
    regExists s d i = true → (∀ x, specialAct d.base i off.toNat x = none) → ¬ logArea off.toNat →
    ∃ t, Sys2Proof.Machine.exec (.registerWrite .bar0 off 4 (.write v)) s = .next t ∧
      (∀ k, k < 32 → bit (reg t off.toNat) k =
        if bit (lockedOf s off.toNat d.rwc) k then bit (reg s off.toNat) k
        else if bit (d.rw ||| d.rwc) k then bit v k
        else bit (reg s off.toNat) k && !(bit v k && bit d.w1c k)) ∧
      (∀ a, a ≠ off.toNat → ¬ logArea a → reg t a = reg s a) ∧
      (lockHit (lockedOf s off.toNat d.rwc) (d.rw ||| d.rwc) (d.w1c ||| d.wo) (reg s off.toNat) v = true →
        newestLog t = logWord .LOCKED_FIELD clsHost 0)

/-- BAR2 and CAS: an access within one block whose tally names the requester runs; another leaves DRAM as it was and is
counted; a CAS moves all its blocks or none. -/
def Obligations.WindowAndCas : Prop :=
  ∀ s : State, s.wf = true →
    (∀ (off : BitVec 28) (len : Nat) (epoch : BitVec 16) (bs : List Byte), powered s = true → 0 < len → bs.length = len →
      off.toNat % 65536 + len ≤ 65536 → mayAccess s tHost 0 epoch.toNat (off.toNat / 65536) = true →
      (∃ t, Sys2Proof.Machine.exec (.bar2Access off len epoch (some bs)) s = .next t ∧ t.regs = s.regs ∧
        (∀ a, off.toNat ≤ a ∧ a < off.toNat + len → dramOff s a = false → dramByte t a = (bs[a - off.toNat]?).getD 0) ∧
        (∀ a, ¬ (off.toNat ≤ a ∧ a < off.toNat + len) → dramByte t a = dramByte s a)) ∧
      Sys2Proof.Machine.exec (.bar2Access off len epoch none) s =
        .next (emit (.read (dramRead s off.toNat len)) s)) ∧
    (∀ (off : BitVec 28) (len : Nat) (epoch : BitVec 16) (bs : List Byte), powered s = true → 0 < len → bs.length = len →
      off.toNat % 65536 + len ≤ 65536 → mayAccess s tHost 0 epoch.toNat (off.toNat / 65536) = false →
      (∃ t, Sys2Proof.Machine.exec (.bar2Access off len epoch (some bs)) s = .next t ∧ t.dram = s.dram ∧
        (rbit t Reg.wnErr 0 = true ∨ rbit t Reg.wnErr 1 = true)) ∧
      (∃ t, Sys2Proof.Machine.exec (.bar2Access off len epoch none) s = .next t ∧ t.dram = s.dram ∧
        t.out = s.out ++ [.read (List.replicate len 0)])) ∧
    (∀ (k : CasId) (v : Word) (count block : Nat), hostOpen s (Reg.wnCas k.val + 8) = true → count = fld v 22 16 →
      block = fld v 11 0 → 1 ≤ count → count ≤ 64 → block + count ≤ 4096 →
      casRule s (reg s (Reg.wnCas k.val)) (reg s (Reg.wnCas k.val + 4)) = true →
      ((∀ b, block ≤ b → b < block + count → tally s b = reg s (Reg.wnCas k.val)) →
        ∃ t, Sys2Proof.Machine.exec (.casGo k v) s = .next t ∧ rfld t (Reg.wnCas k.val + 0xC) 31 16 = Status.OK.code ∧
          (∀ b, block ≤ b → b < block + count → tally t b = casTally s (reg s (Reg.wnCas k.val + 4))) ∧
          (∀ a, a ≠ Reg.wnCas k.val + 0xC → a < Reg.wnTally block ∨ Reg.wnTally (block + count) ≤ a → reg t a = reg s a)) ∧
      (∀ b, block ≤ b → b < block + count → tally s b ≠ reg s (Reg.wnCas k.val) →
        ∃ t, Sys2Proof.Machine.exec (.casGo k v) s = .next t ∧
          rfld t (Reg.wnCas k.val + 0xC) 31 16 = Status.CAS_MISMATCH.code ∧
          ∀ a, a ≠ Reg.wnCas k.val + 0xC → reg t a = reg s a))

/-- Host liveness: WN_ALIVE and the kick restart the count, the first kick after the host was lost ends that condition, and
TIMEOUT ms of link time without a kick make the host lost: grace, and every declared slot contained. -/
def Obligations.HostLiveness : Prop :=
  ∀ s : State, s.wf = true →
    (∀ v : Word, hostOpen s Reg.wnAlive = true → ∃ t, Sys2Proof.Machine.exec (.aliveWrite v) s = .next t ∧
      rfld t Reg.wnAlive 15 0 = fld v 15 0 ∧ t.fr = { s.fr with aliveT := if fld v 15 0 = 0 then none else some s.linkTime } ∧
      ∀ a, a ≠ Reg.wnAlive → reg t a = reg s a) ∧
    (hostOpen s Reg.wnAliveKick = true → s.fr.hostLost = true → ∃ t, Sys2Proof.Machine.exec .kick s = .next t ∧
      t.fr = { s.fr with hostLost := false, aliveT := if rfld s Reg.wnAlive 15 0 = 0 then none else some s.linkTime } ∧
      rbit t Reg.frGrace 12 = false ∧ ∀ n, n < 8 → ∀ c ∈ (slotAt t n).contain, c.cause = .host → c.ending = true) ∧
    (hostOpen s Reg.wnAliveKick = true → s.fr.hostLost = false → Sys2Proof.Machine.exec .kick s = .next
      { s with fr := { s.fr with aliveT := if rfld s Reg.wnAlive 15 0 = 0 then none else some s.linkTime } }) ∧
    (hostSilent s = true → s.fr.hostLost = false → ∃ t, Sys2Proof.Machine.exec .hostLost s = .next t ∧
      t.fr.hostLost = true ∧ rbit t Reg.frGrace 12 = true ∧
      (∀ n, declared s n = true → ∃ c ∈ (slotAt t n).contain, c.cause = .host ∧ c.ending = false) ∧
      t.power = s.power ∧ t.dram = s.dram) ∧
    (hostSilent s = false ∨ s.fr.hostLost = true → Sys2Proof.Machine.exec .hostLost s = .next s)

/-- What an answered mailbox request leaves: its status and RET in the response area, the mailbox free. -/
def Sys2Proof.Machine.MailAnswered (s t : State) (c : Status) (ret : Nat) : Prop :=
  rfld t Reg.mbStatus 31 16 = c.code ∧ rbit t Reg.mbStatus 0 = false ∧ rbit t Reg.mbStatus 2 = false ∧
  (t.bar4.get 0x8008).toNat % 65536 = c.code ∧ (t.bar4.get 0x800C).toNat = ret % 2 ^ 32 ∧
  (t.bar4.get 0x8000).toNat = s.mail.cmd % 32768 + 32768 + s.mail.seq % 65536 * 65536

/-- The mailbox takes a request at the doorbell and answers the commands it knows. -/
def Obligations.MailboxAnswers : Prop :=
  ∀ s : State, s.wf = true →
    (∀ v : Word, hostOpen s Reg.mbDoorbell = true → rbit s Reg.mbStatus 0 = false →
      leNat (bar4Bytes s 2 2) = fld v 15 0 → leNat (bar4Bytes s 4 4) ≤ 32752 → mailKnown (leNat (bar4Bytes s 0 2)) = true →
      ∃ t, Sys2Proof.Machine.exec (.doorbell v) s = .next t ∧ rbit t Reg.mbStatus 0 = true ∧ rbit t Reg.mbStatus 2 = true ∧
        t.mail.cmd = leNat (bar4Bytes s 0 2) ∧ t.mail.seq = fld v 15 0 ∧ t.mail.arg0 = leNat (bar4Bytes s 8 4) ∧
        t.mail.arg1 = leNat (bar4Bytes s 12 4) ∧ t.mail.payload = bar4Bytes s 16 (leNat (bar4Bytes s 4 4))) ∧
    (∀ v : Word, hostOpen s Reg.mbDoorbell = true → rbit s Reg.mbStatus 0 = true →
      ∃ t, Sys2Proof.Machine.exec (.doorbell v) s = .next t ∧ rbit t Reg.mbStatus 1 = true ∧ t.mail = s.mail) ∧
    (mailBusy s 1 = true → ∃ t, Sys2Proof.Machine.exec .version s = .next t ∧
      MailAnswered s t .OK Config.microcodeVersion.toNat ∧ t.slots = s.slots) ∧
    (∀ data : List Byte, mailBusy s 3 = true → s.mail.arg0 < 8 → s.mail.arg1 < 4096 → linkState s s.mail.arg0 = lsRun →
      mayAccess s tEngine s.mail.arg0 (epochOf s tEngine s.mail.arg0) s.mail.arg1 = true →
      ∃ t, Sys2Proof.Machine.exec (.engMemRead data) s = .next t ∧ MailAnswered s t .OK (min 0x5000 data.length) ∧
        tally t s.mail.arg1 = ownTally s tHost 0 ∧
        (∀ i, i < min 0x5000 data.length → dramOff s (blockAddr s.mail.arg1 + i) = false →
          dramByte t (blockAddr s.mail.arg1 + i) = (data[i]?).getD 0) ∧
        ∀ a, ¬ (blockAddr s.mail.arg1 ≤ a ∧ a < blockAddr s.mail.arg1 + min 0x5000 data.length) → dramByte t a = dramByte s a) ∧
    (trainAsked s 1 = true → castGen s = 0 → castSt s = csIdle → ∃ t, Sys2Proof.Machine.exec .trainModeManual s = .next t ∧
      MailAnswered s t .OK 0 ∧ rbit t Reg.mcStatus 4 = true ∧ rbit t Reg.mcStatus 5 = false) ∧
    (trainAsked s 0 = true → manualMode s = true → ∃ t, Sys2Proof.Machine.exec (.trainModeMicrocode []) s = .next t ∧
      MailAnswered s t .OK 0 ∧ rbit t Reg.mcStatus 4 = false ∧ t.mc = { s.mc with patRun := false }) ∧
    (∀ failed : List PcId, trainAsked s 0 = true → manualMode s = true →
      ∃ t, Sys2Proof.Machine.exec (.trainModeMicrocode failed) s = .next t ∧ MailAnswered s t .OK 0 ∧ t.mc.patRun = false ∧
        ∀ p : PcId, t.mc.failed.getLsbD p.val = true ↔ s.mc.failed.getLsbD p.val = true ∨ p ∈ failed) ∧
    (∀ passed : Word, mailBusy s 5 = true → (s.mail.arg0.testBit 2 = true → ∀ p, p < 8 → lenPin s p = false) →
      (s.mail.arg0.testBit 0 = true → 1 ≤ freePool s) →
      ∃ t, Sys2Proof.Machine.exec (.bist passed) s = .next t ∧
        MailAnswered s t .OK (passed.toNat &&& s.mail.arg0 &&& 15)) ∧
    (∀ good : Bool, mailBusy s 6 = true → (blocksOf s.mail.arg0 s.mail.arg1).all (isDevice s) = true → good =
      Config.patchImageGood ((blocksOf s.mail.arg0 s.mail.arg1).flatMap fun b => dramRead s (blockAddr b) 65536) →
      ∃ t, Sys2Proof.Machine.exec .patchLoad s = .next t ∧ rbit t Reg.mbStatus 0 = false ∧ rbit t Reg.mbStatus 2 = false ∧
        (good = true → MailAnswered s t .OK 0 ∧ t.mail.patches = s.mail.patches + 1) ∧
        (good = false → t.mail.patches = s.mail.patches))

/-! ## The codec -/

/-- The job that the descriptor registers hold. -/
def Sys2Proof.Machine.descriptorJob (s : State) : CodecJob := { jd := (List.range 12).map (fun i => reg s (Reg.cdJd i)), st := .waiting }

/-- The head of a queue has not ended. -/
def Sys2Proof.Machine.headRuns : List CodecJob → Prop
  | [] => True
  | j :: _ => j.st = .waiting ∨ j.st = .running

/-- The codec's queue: a submit of any of the five operations joins the queue's end, JOB_START takes the oldest waiting job,
JOB_COMPLETE records the oldest job and hands its blocks back, and DONE_POP drops the oldest record. -/
def Obligations.CodecQueue : Prop :=
  ∀ s : State, s.wf = true →
    (∀ (v : Word) (c : Instr), c ∈ [.compressStream v, .decompressStream v, .compressBlock v, .resume v, .decompressBlock v] →
      hostOpen s Reg.cdSubmit = true → bit v 0 = true →
      (s.codec.jobs.length < 16 → (descriptorJob s).ok = true → ∃ t, Sys2Proof.Machine.exec c s = .next t ∧
        t.codec = { s.codec with jobs := s.codec.jobs ++ [descriptorJob s] } ∧
        rfld t Reg.cdStatus 20 16 = s.codec.jobs.length + 1) ∧
      (s.codec.jobs.length < 16 → (descriptorJob s).ok = false → ∃ t, Sys2Proof.Machine.exec c s = .next t ∧
        t.codec = s.codec ∧ rfld t Reg.cdErr 31 16 = Status.CODEC_JOB.code ∧ rbit t Reg.cdErr 1 = true) ∧
      (16 ≤ s.codec.jobs.length → ∃ t, Sys2Proof.Machine.exec c s = .next t ∧
        t.codec = s.codec ∧ rfld t Reg.cdErr 31 16 = Status.CODEC_BUSY.code ∧ rbit t Reg.cdErr 0 = true)) ∧
    (∀ j, upNow s = true → headWaiting s = some j → s.heat.limited = false → lanesHeld s j.packs < laneLimit s j.packs →
      s.codec.done.length < 16 → (j.srcs ++ j.dsts).all (isDevice s) = true →
      ∃ t, Sys2Proof.Machine.exec .jobStart s = .next t ∧ t.codec = { s.codec with jobs := markHead .running s.codec.jobs }) ∧
    (∀ j rest, upNow s = true → s.codec.jobs = j :: rest → j.st = .waiting → s.heat.limited = false →
      lanesHeld s j.packs < laneLimit s j.packs → s.codec.done.length < 16 → (j.srcs ++ j.dsts).all (isDevice s) = false →
      headRuns rest → ∃ t, Sys2Proof.Machine.exec .jobStart s = .next t ∧
        t.codec = { jobs := rest, done := s.codec.done ++ [doneRec j .CODEC_TALLY 0 0 0xFFFF 0 0 none] }) ∧
    (∀ j rest, upNow s = true → s.codec.jobs = j :: rest → j.st = .running → s.codec.done.length < 16 → headRuns rest →
      ∃ t, Sys2Proof.Machine.exec .jobComplete s = .next t ∧
        t.codec = { jobs := rest, done := s.codec.done ++ [(runJob j s).2] } ∧ t.mail = s.mail ∧ t.slots = s.slots) ∧
    (∀ v : Word, hostOpen s Reg.cdDonePop = true → bit v 0 = true → headRuns s.codec.jobs →
      ∃ t, Sys2Proof.Machine.exec (.donePop v) s = .next t ∧ t.codec = { s.codec with done := s.codec.done.tail } ∧
        ∀ i, i < 8 → reg t (Reg.cdDone i) = (((s.codec.done.tail.head?).getD [])[i]?).getD 0)

/-! ## Package DRAM -/

/-- MC_FREQ, refresh, temperature, self-refresh and promotion. -/
def Obligations.MemoryControl : Prop :=
  ∀ s : State, s.wf = true →
    (∀ v : Word, hostOpen s Reg.mcFreq = true → gathering s = false → s.power.st ≠ .doze → fld v 1 0 ≠ 3 →
      ∃ t, Sys2Proof.Machine.exec (.freqWrite v) s = .next t ∧ t.mc = { s.mc with freq := some (fld v 1 0) } ∧
        rfld t Reg.mcStatus 31 16 = Status.OK.code ∧ rfld t Reg.mcFreq 1 0 = fld v 1 0) ∧
    (∀ v : Word, hostOpen s Reg.mcFreq = true → gathering s = true → ∃ t, Sys2Proof.Machine.exec (.freqWrite v) s = .next t ∧
      t.mc = s.mc ∧ rfld t Reg.mcStatus 31 16 = Status.MC_BUSY.code ∧ rfld t Reg.mcFreq 1 0 = rfld s Reg.mcFreq 1 0) ∧
    (∀ p, s.mc.freq = some p → p < 3 → s.power.queued = none →
      ∃ t, Sys2Proof.Machine.exec .freqChangeComplete s = .next t ∧ t.mc = { s.mc with freq := none } ∧
        rfld t Reg.mcStatus 1 0 = p) ∧
    (∀ (pc : PcId) (bank : Fin 16) (idle : Bool) (k : Nat), upNow s = true → k = 16 * pc.val + bank.val →
      Sys2Proof.Machine.exec (.refreshDue pc bank idle) s = .next { s with mc := { s.mc with
        postponed := s.mc.postponed.set k (if idle then 0 else BitVec.ofNat 8 (min 8 ((s.mc.postponed.get k).toNat + 1))) } }) ∧
    (∀ (pc : PcId) (bank : Fin 16), upNow s = true → s.mc.postponed.get (16 * pc.val + bank.val) = 8 →
      ∃ t, Sys2Proof.Machine.exec (.forcedRefresh pc bank) s = .next t ∧
        rfld t Reg.mcCntB 31 16 = min (rfld s Reg.mcCntB 31 16 + 1) 65535 ∧ rfld t Reg.mcCntB 15 0 = rfld s Reg.mcCntB 15 0 ∧
        t.mc = { s.mc with postponed := s.mc.postponed.set (16 * pc.val + bank.val) 0 }) ∧
    (∀ x : BitVec 8, upNow s = true → ∃ t, Sys2Proof.Machine.exec (.dramTempSample x) s = .next t ∧
      rfld t Reg.mcTemp 15 8 = x.toNat ∧ (85 < x.toInt → rbit t Reg.mcTemp 0 = true) ∧ (x.toInt < 82 → rbit t Reg.mcTemp 0 = false) ∧
      (82 ≤ x.toInt → x.toInt ≤ 85 → rbit t Reg.mcTemp 0 = rbit s Reg.mcTemp 0)) ∧
    (∀ pc : PcId, upNow s = true → rbit s Reg.mcSr 31 = true → ∃ t, Sys2Proof.Machine.exec (.selfRefreshIdle pc) s = .next t ∧
      t.mc = { s.mc with sr := s.mc.sr ||| (1#16 <<< pc.val) } ∧ t.regs = s.regs) ∧
    (∀ pc : PcId, s.mc.sr.getLsbD pc.val = true →
      ∃ t, Sys2Proof.Machine.exec (.srWake pc) s = .next t ∧ t.mc = { s.mc with sr := s.mc.sr &&& ~~~(1#16 <<< pc.val) } ∧
        rbit t Reg.mcStatus 3 = true ∧ rfld t Reg.mcCntA 31 16 = min (rfld s Reg.mcCntA 31 16 + 1) 65535) ∧
    (∀ pc : PcId, s.power.st = .doze → ∃ t, Sys2Proof.Machine.exec (.dozeSrReentry pc) s = .next t ∧
      t.mc = { s.mc with sr := s.mc.sr ||| (1#16 <<< pc.val) } ∧ t.regs = s.regs) ∧
    (∀ pc : PcId, upNow s = true → ∃ t, Sys2Proof.Machine.exec (.bulkPromote pc) s = .next t ∧ t.mc = s.mc ∧
      rfld t Reg.mcCntB 15 0 = min (rfld s Reg.mcCntB 15 0 + 1) 65535 ∧ rfld t Reg.mcCntB 31 16 = rfld s Reg.mcCntB 31 16)

/-- Training, errors and the pattern generator. -/
def Obligations.MemoryTrainingAndErrors : Prop :=
  ∀ s : State, s.wf = true →
    (∀ p, inRunState s = true → manualMode s = false → rbit s Reg.mcStatus 6 = false →
      ((List.range 16).map fun i => (s.mc.nextPc + i) % 16).find? (trackable s) = some p →
      ∃ t, Sys2Proof.Machine.exec .trackPeriod s = .next t ∧ t.mc = { s.mc with gather := some p, nextPc := (p + 1) % 16 } ∧
        rbit t Reg.mcStatus 5 = true) ∧
    (∀ (pc reads writes : Nat) (move : List Int) (pass : Bool), upNow s = true → s.mc.gather = some pc → reads < 64 ∨ writes < 64 →
      ∃ t, Sys2Proof.Machine.exec (.gatherWindowEnd reads writes move pass) s = .next t ∧
        t.mc = { s.mc with gather := none } ∧ rbit t Reg.mcStatus 5 = false) ∧
    (∀ (pc reads writes : Nat) (move : List Int), upNow s = true → s.mc.gather = some pc → 64 ≤ reads → 64 ≤ writes →
      ∃ t, Sys2Proof.Machine.exec (.gatherWindowEnd reads writes move true) s = .next t ∧ rbit t Reg.mcStatus 5 = false ∧
        t.mc.gather = none ∧ t.mc.trackFail = s.mc.trackFail.set pc 0 ∧ t.mc.failed = s.mc.failed ∧
        ∀ i d, i < 16 → move[i]? = some d → delayWord t pc (rfld s Reg.mcStatus 1 0) i =
          (putFld (delayWord s pc (rfld s Reg.mcStatus 1 0) i) 8 0
            (clampI ((fld (delayWord s pc (rfld s Reg.mcStatus 1 0) i) 8 0 : Nat) + clampI d (-1) 1) 0 511).toNat) &&& 0x7F01FF) ∧
    (∀ (pc reads writes : Nat) (move : List Int), upNow s = true → s.mc.gather = some pc → 64 ≤ reads → 64 ≤ writes →
      (s.mc.trackFail.get pc).toNat < 2 →
      ∃ t, Sys2Proof.Machine.exec (.gatherWindowEnd reads writes move false) s = .next t ∧ rbit t Reg.mcStatus 5 = false ∧
        t.mc = { s.mc with gather := none
                           trackFail := s.mc.trackFail.set pc (BitVec.ofNat 8 ((s.mc.trackFail.get pc).toNat + 1)) }) ∧
    (∀ (pc : PcId) (reads writes : Nat) (move : List Int), upNow s = true → s.mc.gather = some pc.val → 64 ≤ reads → 64 ≤ writes →
      2 ≤ (s.mc.trackFail.get pc.val).toNat →
      ∃ t, Sys2Proof.Machine.exec (.gatherWindowEnd reads writes move false) s = .next t ∧ t.mc.gather = none ∧
        t.mc.failed.getLsbD pc.val = true) ∧
    (∀ pc : PcId, powered s = true →
      ((pc.val, s.linkTime) :: s.mc.bursts).countP (fun b => b.1 == pc.val && decide (since s b.2 ≤ secTicks)) < 16 →
      ∃ t, Sys2Proof.Machine.exec (.uncorrectableBurst pc) s = .next t ∧ t.mc.failed = s.mc.failed ∧
        rfld t (Reg.mcErr pc.val) 31 16 = min (rfld s (Reg.mcErr pc.val) 31 16 + 1) 65535 ∧ (pc.val, s.linkTime) ∈ t.mc.bursts) ∧
    (∀ pc : PcId, powered s = true → s.mc.failed.getLsbD pc.val = false →
      16 ≤ ((pc.val, s.linkTime) :: s.mc.bursts).countP (fun b => b.1 == pc.val && decide (since s b.2 ≤ secTicks)) →
      ∃ t, Sys2Proof.Machine.exec (.uncorrectableBurst pc) s = .next t ∧ t.mc.failed.getLsbD pc.val = true) ∧
    (∀ v : Word, hostOpen s Reg.mcPgCtrl = true → manualMode s = true → bit v 31 = true →
      ∃ t, Sys2Proof.Machine.exec (.patternRun v) s = .next t ∧ t.mc = { s.mc with patRun := true } ∧
        reg t Reg.mcPgCtrl = v &&& 0x0730FFFF ∧ reg t Reg.mcCmpStat = 0 ∧ reg t Reg.mcCmpBits0 = 0 ∧ reg t Reg.mcCmpBits1 = 0 ∧
        (fld v 21 20 = 1 ∨ fld v 21 20 = 3 → t.dram = s.dram)) ∧
    (∀ v : Word, hostOpen s Reg.mcPgCtrl = true → manualMode s = false →
      ∃ t, Sys2Proof.Machine.exec (.patternRun v) s = .next t ∧ t.mc = s.mc ∧ newestLog t = logWord .MC_STATE clsHost 0 ∧
        reg t Reg.mcPgCtrl = reg s Reg.mcPgCtrl) ∧
    (∀ (failed : BitVec 16) (dq0 dq1 : Word), s.mc.patRun = true →
      ∃ t, Sys2Proof.Machine.exec (.patternRunDone failed dq0 dq1) s = .next t ∧ t.mc = { s.mc with patRun := false } ∧
        reg t Reg.mcCmpBits0 = dq0 ∧ reg t Reg.mcCmpBits1 = dq1 ∧ rbit t Reg.mcCmpStat 31 = true ∧
        rfld t Reg.mcCmpStat 15 0 = failed.toNat)

/-! ## The phase domain -/

/-- The reckoner as a reckon step takes it: a measured point that waits is in force (R69). -/
def Sys2Proof.Machine.pointTaken (r : Reckoner) : Reckoner :=
  match r.next with
  | some m => { r with phiM := m.phi, tM := m.t, omega := m.omega, beta := m.beta, next := none, omegaNext := none }
  | none => r

/-- RECKON_STEP moves link time, and nothing goes back in time; where nothing moves with the clock, it moves link time alone, and
at the next reckon step a slot that projects takes the measured point that waits and holds the phase of that time. -/
def Obligations.LinkTimeAdvances : Prop :=
  ∀ (t : LinkTime) (s : State),
    (powered s = true → now s ≤ t.toNat →
      (∃ u, Sys2Proof.Machine.exec (.reckonStep t) s = .next u ∧ u.linkTime = t ∧ u.cast = s.cast ∧ u.power = s.power) ∧
      ((∀ n, n < 8 → (reckOf s n).st = .idle ∧ portQuiet s n = true) → (∀ l, l < 128 → leState s l = 0) →
        Sys2Proof.Machine.exec (.reckonStep t) s = .next { s with linkTime := t }) ∧
      ∀ (n : Slot) (c : SlotCast), t = nextStep s → cfgOf s n.val = some c → projects (reckOf s n.val) = true →
        (reckOf s n.val).omegaNext = none → (∀ l, l < 128 → leState s l = 0) →
        ∃ u, Sys2Proof.Machine.exec (.reckonStep t) s = .next u ∧
          reckOf u n.val = { pointTaken (reckOf s n.val) with phiHeld := proj (pointTaken (reckOf s n.val)) t }) ∧
    (powered s = false ∨ t.toNat < now s → Sys2Proof.Machine.exec (.reckonStep t) s = .next s)

/-- What the phase reference brings: measured points, sync edges and missed ones, a lost pickoff, realignment, and room in a
lane. -/
def Obligations.PhaseReferences : Prop :=
  (∀ (s : State) (m : SyncId) (f : Bool) (t : LinkTime), s.wf = true → upNow s = true →
    ∃ u, Sys2Proof.Machine.exec (.syncEdge m f t) s = .next u ∧ reg u (Reg.sbSyncT m.val f) = t.setWidth 32 ∧
      ∀ n : Slot, (followsSync s m.val f n.val = false → slotAt u n.val = slotAt s n.val) ∧
        ∀ c, cfgOf s n.val = some c → followsSync s m.val f n.val = true →
          ((reckOf s n.val).st = .acquire →
            reckOf u n.val = syncReference (modeNow s n.val).rate (trimOf s n.val) c.phse.div c.phse.offset t (reckOf s n.val)) ∧
          ((reckOf s n.val).st = .locked ∨ (reckOf s n.val).st = .slewing →
            (syncAccepts (rfld s (Reg.tfSyncWin n.val) 23 0) (modeNow s n.val).rate c.phse.div t (reckOf s n.val) = true →
              reckOf u n.val = syncTracked (rfld s (Reg.tfCtrl n.val) 5 4) c.phse.div c.phse.offset t (reckOf s n.val) ∧
              (reckOf u n.val).missed = 0 ∧ (reckOf u n.val).lastEdge = some t) ∧
            (syncAccepts (rfld s (Reg.tfSyncWin n.val) 23 0) (modeNow s n.val).rate c.phse.div t (reckOf s n.val) = false →
              rfld u (Reg.tfCntA n.val) 15 0 = min (rfld s (Reg.tfCntA n.val) 15 0 + 1) 65535 ∧
              slotAt u n.val = slotAt s n.val)) ∧
          ((reckOf s n.val).st = .freeRun →
            reckOf u n.val = syncCandidate c.phse.div c.phse.offset (rbit s (Reg.tfCtrl n.val) 1) t (reckOf s n.val))) ∧
  ∀ (s : State) (n : Slot) (c : SlotCast), s.wf = true → cfgOf s n.val = some c →
    (∀ (phi : PhaseWord) (t : LinkTime) (omega : BitVec 40) (beta : BitVec 64), upNow s = true → (reckOf s n.val).st = .locked →
      ∃ u, Sys2Proof.Machine.exec (.measuredPoint n phi t omega beta) s = .next u ∧
        reckOf u n.val = { reckOf s n.val with next := some { phi := phi, t := t, omega := omega, beta := beta } } ∧
        u.regs = s.regs ∧ ∀ k, k ≠ n.val → slotAt u k = slotAt s k) ∧
    (upNow s = true → c.phse.source = 1 → (reckOf s n.val).st = .locked ∨ (reckOf s n.val).st = .slewing →
      (edgePassed (rfld s (Reg.tfSyncWin n.val) 23 0) s.linkTime (reckOf s n.val) = true →
        ((reckOf s n.val).consec = 0 → ∃ u, Sys2Proof.Machine.exec (.syncMissed n) s = .next u ∧
          (reckOf u n.val).st = (reckOf s n.val).st ∧ (reckOf u n.val).missed = (reckOf s n.val).missed + 1 ∧
          rfld u (Reg.tfCntA n.val) 31 16 = min (rfld s (Reg.tfCntA n.val) 31 16 + 1) 65535) ∧
        (1 ≤ (reckOf s n.val).consec → ∃ u, Sys2Proof.Machine.exec (.syncMissed n) s = .next u ∧
          (reckOf u n.val).st = .freeRun ∧ newestLog u = logWord .SYNC_LOST clsPart n.val)) ∧
      (edgePassed (rfld s (Reg.tfSyncWin n.val) 23 0) s.linkTime (reckOf s n.val) = false →
        Sys2Proof.Machine.exec (.syncMissed n) s = .next s)) ∧
    (upNow s = true → c.phse.source = 2 → (reckOf s n.val).st = .locked →
      (∀ l, axisLoop s c.slot.port c.phse.input = some l → overdue s l (loopAt s l).estT = true ∨ rbit s (Reg.leStatus l) 4 = false →
        ∃ u, Sys2Proof.Machine.exec (.pickoffLost n) s = .next u ∧ (reckOf u n.val).st = .hold ∧
          newestLog u = logWord .PICKOFF_LOST clsEngine c.slot.port ∧ rbit u (Reg.tfFlags n.val) 1 = true ∧
          rbit u (Reg.leStatus l) 4 = false) ∧
      (axisLoop s c.slot.port c.phse.input = none →
        ∃ u, Sys2Proof.Machine.exec (.pickoffLost n) s = .next u ∧ (reckOf u n.val).st = .hold ∧
          newestLog u = logWord .PICKOFF_LOST clsEngine c.slot.port ∧ rbit u (Reg.tfFlags n.val) 1 = true) ∧
      (∀ l, axisLoop s c.slot.port c.phse.input = some l → overdue s l (loopAt s l).estT = false → rbit s (Reg.leStatus l) 4 = true →
        Sys2Proof.Machine.exec (.pickoffLost n) s = .next s)) ∧
    (∀ v : Word, hostOpen s (Reg.tfCtrl n.val) = true → bit v 0 = true →
      (c.phse.source ≠ 0 → ∃ u, Sys2Proof.Machine.exec (.realign n v) s = .next u ∧ (reckOf u n.val).realign = true ∧
        reg u (Reg.tfCtrl n.val) = v &&& 0x32 ∧ ∀ a, a ≠ Reg.tfCtrl n.val → reg u a = reg s a) ∧
      (c.phse.source = 0 → projects (reckOf s n.val) = true → ∃ u, Sys2Proof.Machine.exec (.realign n v) s = .next u ∧
        (reckOf u n.val).st = .acquire ∧ (reckOf u n.val).tAcq = s.linkTime)) ∧
    (∀ (k : Lane) (e : BitVec 64) (ws : List (BitVec 64)), upNow s = true → waitOf (slotAt s n.val).lanes k = e :: ws →
      (laneOf (slotAt s n.val).lanes k).length < laneCap k →
      ∃ u, Sys2Proof.Machine.exec (.laneRoomInsert n k) s = .next u ∧ waitOf (slotAt u n.val).lanes k = ws ∧
        laneOf (slotAt u n.val).lanes k = laneOf (slotAt s n.val).lanes k ++ [e] ∧ u.regs = s.regs ∧
        ∀ j, j ≠ n.val → slotAt u j = slotAt s j)

/-! ## Commits and table swaps -/

/-- From s to t everything pending of slot n has become active (R145). -/
def Sys2Proof.Machine.CommitApplied (s t : State) (n : Nat) (c : SlotCast) : Prop :=
  (slotAt t n).commit = none ∧ (slotAt t n).deferred = [] ∧ (slotAt t n).bg = reg s (pxBg s n) ∧
  (slotAt t n).order = (if c.pipe.blend = 1 then pendOrder s n else c.pipe.order) ∧ (slotAt t n).wb = reg s (Reg.soWb n) ∧
  ∀ k, k ∈ layerCodes c → layerPitch c k < 3072 → ∀ w, w < 15 → actW t (layerPitch c k) w = pendW s (layerPitch c k) w

/-- A GO that passes its checks waits for the frame boundary, or applies at once on a slot that does not project; one that
fails them changes nothing but its report, and one beside a pending commit is dropped; CANCEL withdraws, before a GO of the
same write. -/
def Obligations.CommitRequests : Prop :=
  ∀ (s : State) (n : Slot) (v : Word) (c : SlotCast) (mode : Option Nat) (s1 : State) (i : Instr), s.wf = true →
    cfgOf s n.val = some c → hostOpen s (Reg.soCtrl n.val) = true → i = .commit n v ∨ i = .modeChangeRequest n v ∨ i = .cancel n v →
    mode = (if bit v 2 then some (fld v 7 6) else none) → s1 = (if bit v 1 then cancelCommit n.val s else s) →
    (bit v 0 = true → (slotAt s1 n.val).commit = none → commitCause s1 n.val c mode = 0 →
      (projects (reckOf s n.val) = true → ∃ t, Sys2Proof.Machine.exec i s = .next t ∧
        slotAt t n.val = { slotAt s1 n.val with commit := some { wait := (waitFor s n.val).1, mode := mode } } ∧
        rfld t (Reg.soStatus n.val) 1 0 = (if (waitFor s n.val).2 then 3 else 1) ∧
        (∀ k, k ≠ n.val → slotAt t k = slotAt s k) ∧ t.pitchAct = s.pitchAct) ∧
      (projects (reckOf s n.val) = false → (slotAt s n.val).swaps = [] → (slotAt s n.val).hall.due = none → c.pipe.composer < 2 →
        ∃ t, Sys2Proof.Machine.exec i s = .next t ∧ CommitApplied s1 t n.val c)) ∧
    (bit v 0 = true → (slotAt s1 n.val).commit = none → commitCause s1 n.val c mode ≠ 0 →
      ∃ t, Sys2Proof.Machine.exec i s = .next t ∧ t.slots = s1.slots ∧
        rfld t (Reg.soStatus n.val) 19 16 = commitCause s1 n.val c mode % 16 ∧ rbit t (Reg.soFlags n.val) 1 = true ∧
        newestLog t = logWord .COMMIT_REJECTED clsHost 0) ∧
    (bit v 0 = true → bit v 1 = false → (slotAt s n.val).commit ≠ none → ∃ t, Sys2Proof.Machine.exec i s = .next t ∧
      t.slots = s.slots ∧ rbit t (Reg.soFlags n.val) 7 = true ∧ ∀ a, a ≠ Reg.soFlags n.val → reg t a = reg s a) ∧
    (bit v 0 = false → bit v 1 = true → ∃ t, Sys2Proof.Machine.exec i s = .next t ∧
      slotAt t n.val = { slotAt s n.val with commit := none, deferred := [] } ∧ rfld t (Reg.soStatus n.val) 1 0 = 0 ∧
      rbit t (Reg.soStatus n.val) 2 = false ∧ reg t (Reg.soDefer n.val) = 0 ∧
      (∀ a, a ≠ Reg.soStatus n.val → a ≠ Reg.soDefer n.val → reg t a = reg s a) ∧ ∀ k, k ≠ n.val → slotAt t k = slotAt s k) ∧
    (bit v 0 = false → bit v 1 = false → Sys2Proof.Machine.exec i s = .next s)

/-- A swap of table m that passes its checks waits for the boundary, or applies at once on a slot that does not project; one
that fails them is reported, and one beside a pending swap of the table is dropped; CANCEL withdraws it. -/
def Obligations.TableSwapRequests : Prop :=
  ∀ (s : State) (n : Slot) (v : Word) (c : SlotCast) (m : Nat) (i : Instr), s.wf = true → cfgOf s n.val = some c →
    hostOpen s (Reg.slCtrl n.val) = true → i = .tableSwap n v ∨ i = .swapCancel n v → m = fld v 5 4 →
    (bit v 0 = true → rbit s (Reg.slStatus n.val) (12 + m) = false →
      (seqCause s n.val c false m (rfld s (Reg.slSeq n.val m) 11 0) = 0 →
        (projects (reckOf s n.val) = true → ∃ t, Sys2Proof.Machine.exec i s = .next t ∧
          rbit t (Reg.slStatus n.val) (12 + m) = true ∧ (m, (waitFor s n.val).1) ∈ (slotAt t n.val).swaps ∧
          (slotAt t n.val).tables = (slotAt s n.val).tables) ∧
        (projects (reckOf s n.val) = false → ∃ t count, Sys2Proof.Machine.exec i s = .next t ∧
          rbit t (Reg.slStatus n.val) (12 + m) = false ∧ rbit t (Reg.slStatus n.val) (8 + m) = true ∧
          (slotAt t n.val).tables = (m, rfld s (Reg.slSeq n.val m) 11 0, count) :: (slotAt s n.val).tables.filter (fun x => x.1 != m) ∧
          ∀ k w, k < count → w < 15 → actW t (rfld s (Reg.slSeq n.val m) 11 0 + k) w = pendW s (rfld s (Reg.slSeq n.val m) 11 0 + k) w)) ∧
      (seqCause s n.val c false m (rfld s (Reg.slSeq n.val m) 11 0) ≠ 0 → ∃ t, Sys2Proof.Machine.exec i s = .next t ∧
        t.slots = s.slots ∧ rfld t (Reg.slStatus n.val) 19 16 = seqCause s n.val c false m (rfld s (Reg.slSeq n.val m) 11 0) % 16 ∧
        rbit t (Reg.slFlags n.val) 1 = true ∧ newestLog t = logWord .SEQ_REJECTED clsHost 0)) ∧
    (bit v 0 = true → bit v 1 = false → rbit s (Reg.slStatus n.val) (12 + m) = true →
      ∃ t, Sys2Proof.Machine.exec i s = .next t ∧ t.slots = s.slots ∧ rbit t (Reg.slFlags n.val) 2 = true ∧
        ∀ a, a ≠ Reg.slFlags n.val → reg t a = reg s a) ∧
    (bit v 0 = false → bit v 1 = true → rbit s (Reg.slStatus n.val) (12 + m) = true →
      ∃ t, Sys2Proof.Machine.exec i s = .next t ∧ rbit t (Reg.slStatus n.val) (12 + m) = false ∧
        slotAt t n.val = { slotAt s n.val with swaps := (slotAt s n.val).swaps.filter (fun x => x.1 != m) } ∧
        (∀ a, a ≠ Reg.slStatus n.val → reg t a = reg s a) ∧ ∀ k, k ≠ n.val → slotAt t k = slotAt s k)

/-! ## Frames, signatures, planes and pitches -/

/-- At a frame boundary the frame count advances, the new frame starts its raster and its taps, and the slot shows the boundary's
time; a boundary that the projection has not reached does nothing. The end of the raster hands back the sources that no active
copy names; the end of a write-back reports the frame written and hands its blocks back. -/
def Obligations.FrameBoundaries : Prop :=
  ∀ (s : State) (n : Slot) (c : SlotCast), s.wf = true → cfgOf s n.val = some c →
    (∀ i : BoundaryIn, upNow s = true → boundaryDue s n.val = true → s.cast.switch = none → s.power.queued = none →
      ∃ t x, Sys2Proof.Machine.exec (.frameBoundary n i) s = .next t ∧ (slotAt t n.val).boundary = s.linkTime ∧
        (slotAt t n.val).raster = true ∧ (slotAt t n.val).tap = some x ∧ x.boundary = s.linkTime ∧
        x.frame = (slotAt t n.val).frame ∧
        ((∀ k, (slotAt s n.val).commit = some k → k.mode = none) →
          cfgOf t n.val = some c ∧ (slotAt t n.val).frame = (slotAt s n.val).frame + 1 ∧
          (reckOf t n.val).seenBoundary = true ∧ (reckOf t n.val).frameCyc = boundaryCyc s n.val)) ∧
    (∀ i : BoundaryIn, boundaryDue s n.val = false → s.power.queued = none →
      Sys2Proof.Machine.exec (.frameBoundary n i) s = .next s) ∧
    ((slotAt s n.val).raster = true → ∃ t, Sys2Proof.Machine.exec (.rasterEnd n) s = .next t ∧ (slotAt t n.val).raster = false ∧
      (slotAt t n.val).srcs = ((slotAt s n.val).srcs.map fun u =>
          if (activeBlocks s n.val).contains u.block then { u with ended := some s.linkTime } else u).filter
        (fun u => (List.range 8).any fun m => (activeBlocks s m).contains u.block)) ∧
    (∀ w ws, upNow s = true → (slotAt s n.val).wbRun = w :: ws →
      ∃ t, Sys2Proof.Machine.exec (.writebackComplete n) s = .next t ∧
        (slotAt t n.val).wbRun = ws ∧ reg t (Reg.soWbFrame n.val) = w.frame ∧
        (∀ b, b ∈ blocksOf w.block w.count → isDevice t b = false ∨ tallyId t b ≠ 0) ∧
        ∀ k, k ≠ n.val → slotAt t k = slotAt s k)

/-- A frame's signature record joins the ring and the registers; a run of mismatches counts up, its first logs the event, and
a match ends it; a fault of the store is recorded. -/
def Obligations.SignatureRecords : Prop :=
  ∀ (s : State), s.wf = true → powered s = true →
    (∀ (n : Slot) (disturb : Word) (f : FrameTap), (slotAt s n.val).tapPrev = some f → hasHall s n.val = true →
      (f.actual ^^^ disturb = f.expected → ∃ t, Sys2Proof.Machine.exec (.signatureRecord n disturb) s = .next t ∧
        (slotAt t n.val).hall.run = 0 ∧ (slotAt t n.val).tapPrev = none ∧
        reg t (Reg.hlSigAct n.val) = f.expected ∧ reg t (Reg.hlSigExp n.val) = f.expected ∧ reg t (Reg.hlFrame n.val) = f.frame ∧
        (∃ r, (slotAt t n.val).hall.ring = (r :: (slotAt s n.val).hall.ring).take 8 ∧ r.actual = f.expected ∧
          r.expected = f.expected ∧ r.frame = f.frame.toNat ∧ r.run = 0 ∧ r.boundary = f.boundary) ∧
        ∀ k, k ≠ n.val → slotAt t k = slotAt s k) ∧
      (f.actual ^^^ disturb ≠ f.expected → (slotAt s n.val).hall.run = 0 →
        ∃ t, Sys2Proof.Machine.exec (.signatureRecord n disturb) s = .next t ∧ (slotAt t n.val).hall.run = 1 ∧
          reg t (Reg.hlSigAct n.val) = f.actual ^^^ disturb ∧ newestLog t = logWord .HALL_MISMATCH clsPart n.val ∧
          rfld t (Reg.hlStatus n.val) 15 8 = 1)) ∧
    ∃ t, Sys2Proof.Machine.exec .hallStore s = .next t ∧ t.hall = { s.hall with store := true } ∧
      newestLog t = logWord .HALL_STORE clsPart 0 ∧ ∀ n : Slot, hasHall s n.val = true → rbit t (Reg.hlStatus n.val) 3 = true

/-- An array slot's frame is sliced at its start; one that is late at its deadline is counted and flagged, and sliced from the
pixels taken; samples of the level shift that have met no limit for 50 ms are stale, once. -/
def Obligations.ArraySlices : Prop :=
  ∀ (s : State) (n : Slot), s.wf = true → upNow s = true →
    (∀ c, arrayRuns s n.val = some c →
      (∀ late, ∃ t, Sys2Proof.Machine.exec (.sliceStart ⟨n, late⟩) s = .next t ∧ rfld t (Reg.slCntA n.val) 15 0 = 0 ∧
        ((slotAt s n.val).tap.isSome = true → ∃ x, (slotAt t n.val).tap = some x ∧ x.sliced = true) ∧
        ∀ k, k ≠ n.val → slotAt t k = slotAt s k) ∧
      (∀ taken delivered, taken < c.slot.activeW * c.slot.activeH → deadlinePassed s n.val = true →
        ∃ t, Sys2Proof.Machine.exec (.sliceDeadline n ⟨taken, delivered⟩) s = .next t ∧ rbit t (Reg.slFlags n.val) 4 = true ∧
          rfld t (Reg.slCntB n.val) 15 0 = min (rfld s (Reg.slCntB n.val) 15 0 + 1) 65535 ∧
          (taken = 0 ∨ lateAt (((slotAt s n.val).tap.map (·.late)).getD []) (taken - 1) = none → rbit t (Reg.soFlags n.val) 2 = true ∧
            rfld t (Reg.soCntB n.val) 31 16 = min (rfld s (Reg.soCntB n.val) 31 16 + 1) 65535) ∧
          ((slotAt s n.val).tap.isSome = true → ∃ x, (slotAt t n.val).tap = some x ∧ x.sliced = true) ∧
          ∀ k, k ≠ n.val → slotAt t k = slotAt s k) ∧
      (∀ taken delivered, c.slot.activeW * c.slot.activeH ≤ taken ∨ deadlinePassed s n.val = false →
        Sys2Proof.Machine.exec (.sliceDeadline n ⟨taken, delivered⟩) s = .next s)) ∧
    (∀ c, cfgOf s n.val = some c → levels c = true → (slotAt s n.val).lvlStale = false →
      (50 * msTicks ≤ since s (slotAt s n.val).lvlStaleFrom → ∃ t, Sys2Proof.Machine.exec (.levelStale n) s = .next t ∧
        slotAt t n.val = { slotAt s n.val with
          lvlStale := true, lvlTarget := signed 10 (rfld s (Reg.tfLvlLim n.val) 31 22) } ∧
        rbit t (Reg.tfFlags n.val) 5 = true ∧ newestLog t = logWord .LEVEL_STALE clsPart n.val ∧
        ∀ k, k ≠ n.val → slotAt t k = slotAt s k) ∧
      (since s (slotAt s n.val).lvlStaleFrom < 50 * msTicks → Sys2Proof.Machine.exec (.levelStale n) s = .next s))

/-- Store units of planes and layers: a raw block is packed in place or stays raw and is counted, a busy one stays raw, a
stored block that does not decode is counted, and a corrupt layer unit is logged. -/
def Obligations.StoreUnits : Prop :=
  ∀ (s : State) (n : Slot) (c : SlotCast) (e b : Nat), s.wf = true → upNow s = true → arrayRuns s n.val = some c →
    (∀ bs, pdOff s 11 = false → rawBlock s n.val c e b = some bs →
      ((storeUnit bs).2 = false → (storeUnit bs).1.length < 4096 →
        ∃ t, Sys2Proof.Machine.exec (.compressorBlockDone (.plane n e b)) s = .next t ∧
          t.dram = (dramWrite (dirAddr s n.val c e b) (leBytes 4 (storeUnit bs).1.length)
            (dramWrite (blockSlot s n.val c e b) (storeUnit bs).1 s)).dram ∧
          rfld t (Reg.slCntA n.val) 15 0 = min (rfld s (Reg.slCntA n.val) 15 0 + 1) 65535 ∧ t.slots = s.slots) ∧
      ((storeUnit bs).2 = true → ∃ t, Sys2Proof.Machine.exec (.compressorBlockDone (.plane n e b)) s = .next t ∧
        t.dram = s.dram ∧ rfld t (Reg.slCntA n.val) 31 16 = min (rfld s (Reg.slCntA n.val) 31 16 + 1) 65535) ∧
      ∃ t, Sys2Proof.Machine.exec (.rawBusy n e b) s = .next t ∧ t.dram = s.dram ∧ rbit t (Reg.slFlags n.val) 3 = true ∧
        rfld t (Reg.slCntC n.val) 31 16 = min (rfld s (Reg.slCntC n.val) 31 16 + 1) 65535 ∧
        rfld t (Reg.slCntA n.val) 31 16 = min (rfld s (Reg.slCntA n.val) 31 16 + 1) 65535) ∧
    ((∀ err, (loadBlock s n.val c e b).1 = .inl err →
        ∃ t, Sys2Proof.Machine.exec (.decompressorBlockDone (.plane n e b)) s = .next t ∧
          rfld t Reg.cdCntB 31 16 = min (rfld s Reg.cdCntB 31 16 + 1) 65535 ∧ ∀ a, a ≠ Reg.cdCntB → reg t a = reg s a) ∧
      (∀ bs, (loadBlock s n.val c e b).1 = .inr bs →
        Sys2Proof.Machine.exec (.decompressorBlockDone (.plane n e b)) s = .next s)) ∧
    (∀ (p : PitchId) (u : Nat) (err : Status), isLayerPitch c p.val = true → c.pipe.pitchBase ≤ p.val →
      (activeLayer s c (pitchCode c p.val)).en = true → (activeLayer s c (pitchCode c p.val)).kind = 1 →
      u < streamUnits (layerRawLen (activeLayer s c (pitchCode c p.val))) →
      layerUnit s (activeLayer s c (pitchCode c p.val)) u = .inl err →
      ∃ t, Sys2Proof.Machine.exec (.decompressorBlockDone (.layer n p u)) s = .next t ∧ rbit t Reg.cdErr 2 = true ∧
        newestLog t = logWord .LAYER_CORRUPT clsPart n.val ∧ t.slots = s.slots)

/-- A write of a pitch's header or of one of its words: one that passes every check changes the pending word's host bits, and a
change of TYPE clears the words; one that does not is dropped and flagged; a write that touches a calibration job counts as one. -/
def Obligations.PitchWrites : Prop :=
  ∀ (s : State) (p : PitchId) (v : Word) (n : Nat) (c : SlotCast), s.wf = true → powered s = true →
    pitchSlot s p.val = some n → cfgOf s n = some c → castLocked s = false → c.pipe.composer ≤ 1 →
    (typeRefused c p.val (pendW s p.val 0) v = false → jobDup s c p.val (hdrAfter (pendW s p.val 0) v) = false →
      headerFrozen s n c p.val v = false → swapFreezes s n c p.val = false → ownerTaken s p.val v = false →
        maskOver s c p.val v = false →
      ∃ t, Sys2Proof.Machine.exec (.pitchW0Write p v) s = .next t ∧
        pendW t p.val 0 = (pendW s p.val 0 &&& 0x05FFFFFF) ||| (v &&& if hdrType v = tyMask then 0xFA000000 else 0xF8000000) ∧
        (∀ w : Fin 16, 0 < w.val → w.val < 15 →
          pendW t p.val w.val = if hdrType v = hdrType (pendW s p.val 0) then pendW s p.val w.val else 0) ∧
        ((slotAt t n).cal.wrote = ((slotAt s n).cal.wrote || hdrType v == tyCalJob || hdrType (pendW s p.val 0) == tyCalJob)) ∧
        ∀ k, k ≠ n → slotAt t k = slotAt s k) ∧
    (typeRefused c p.val (pendW s p.val 0) v = true → ∃ t, Sys2Proof.Machine.exec (.pitchW0Write p v) s = .next t ∧
      rbit t (pxErr s n) 1 = true ∧ (∀ w : Fin 16, pendW t p.val w.val = pendW s p.val w.val) ∧ t.slots = s.slots) ∧
    (typeRefused c p.val (pendW s p.val 0) v = false → jobDup s c p.val (hdrAfter (pendW s p.val 0) v) = true →
      ∃ t, Sys2Proof.Machine.exec (.pitchW0Write p v) s = .next t ∧ rbit t (Reg.caFlags n) 5 = true ∧
        (∀ w : Fin 16, pendW t p.val w.val = pendW s p.val w.val) ∧ t.slots = s.slots) ∧
    (typeRefused c p.val (pendW s p.val 0) v = false → jobDup s c p.val (hdrAfter (pendW s p.val 0) v) = false →
      headerFrozen s n c p.val v = true → ∃ t, Sys2Proof.Machine.exec (.pitchW0Write p v) s = .next t ∧
        rbit t (Reg.soFlags n) 7 = true ∧ ∀ w : Fin 16, pendW t p.val w.val = pendW s p.val w.val) ∧
    (∀ w : Fin 16, 0 < w.val → w.val < 15 →
      (jobDup s c p.val (pendW s p.val 0) = false → bridgeMask (pendW s p.val 0) = false →
        commitFreezes s n c p.val (pendW s p.val 0) = false → swapFreezes s n c p.val = false →
        ∃ t, Sys2Proof.Machine.exec (.calJobWrite p w v) s = .next t ∧
          pendW t p.val w.val = (pendW s p.val w.val &&& ~~~pitchMask (hdrType (pendW s p.val 0)) w.val) |||
            (v &&& pitchMask (hdrType (pendW s p.val 0)) w.val) ∧
          ((slotAt t n).cal.wrote = ((slotAt s n).cal.wrote || hdrType (pendW s p.val 0) == tyCalJob)) ∧
          ∀ k, k ≠ n → slotAt t k = slotAt s k) ∧
      (jobDup s c p.val (pendW s p.val 0) = true → ∃ t, Sys2Proof.Machine.exec (.calJobWrite p w v) s = .next t ∧
        rbit t (Reg.caFlags n) 5 = true ∧ pendW t p.val w.val = pendW s p.val w.val ∧ t.slots = s.slots) ∧
      (jobDup s c p.val (pendW s p.val 0) = false → bridgeMask (pendW s p.val 0) = true →
        ∃ t, Sys2Proof.Machine.exec (.calJobWrite p w v) s = .next t ∧ rbit t (pxErr s n) 0 = true ∧
          pendW t p.val w.val = pendW s p.val w.val)) ∧
    (∀ w : Fin 16, w.val = 15 → Sys2Proof.Machine.exec (.calJobWrite p w v) s = .next s)

/-! ## Scan lines -/

/-- A line enters the lowest EMPTY entry, is rendered, tested at its strike, held or discarded, rendered again, taken dark, and
ends with its window; the probe captures an entry. -/
def Obligations.LineEntries : Prop :=
  ∀ (s : State) (n : Slot) (c : SlotCast) (i : Nat), s.wf = true → upNow s = true → cfgOf s n.val = some c →
    (c.slot.cls = 2 → heldCount s n.val < (slotAt s n.val).lines.cfg.look → lineCount s n.val ≠ 0 →
      (List.range (slotAt s n.val).trial.length).find? (fun i => (entAt s n.val i).state == .empty) = some i →
      ∃ t, Sys2Proof.Machine.exec (.lineEnter n) s = .next t ∧ (entAt t n.val i).line = (slotAt s n.val).lines.next ∧
        (entAt t n.val i).frame = (slotAt s n.val).lines.frame ∧ (entAt t n.val i).renderT = s.linkTime ∧
        (entAt t n.val i).rendered = false ∧
        (entAt t n.val i).state = (if c.slot.traj = 1 ∧ (slotAt s n.val).lines.next < retraceLines s n.val c ∨
          linesIdle s n.val = true then .dark else .trial) ∧
        (∀ j, j ≠ i → entAt t n.val j = entAt s n.val j) ∧ ∀ k, k ≠ n.val → slotAt t k = slotAt s k) ∧
    ((entAt s n.val i).state = .trial → (entAt s n.val i).rendered = false →
      ∀ late, ∃ t, Sys2Proof.Machine.exec (.renderComplete n ⟨i, late⟩) s = .next t ∧ (entAt t n.val i).state = .trial ∧
        (entAt t n.val i).rendered = true ∧ (entAt t n.val i).tested = false ∧
        t.dram = (dramWrite (storeBase s 4 n.val + i * payloadSlotBytes c) (payloadBytes c (entAt t n.val i).samples) s).dram ∧
        (∀ j, j ≠ i → entAt t n.val j = entAt s n.val j) ∧ ∀ k, k ≠ n.val → slotAt t k = slotAt s k) ∧
    ((entAt s n.val i).state = .trial → (entAt s n.val i).rendered = true → (entAt s n.val i).tested = false →
      (reckOf s n.val).st = .locked → (entAt s n.val i).again = true ∨ (entAt s n.val i).strikeT ≤ s.linkTime →
      ((strikeErr s n.val (entAt s n.val i)).natAbs ≤ (slotAt s n.val).lines.cfg.tol * 65536 →
        ∃ t, Sys2Proof.Machine.exec (.strikeTest n i) s = .next t ∧ (entAt t n.val i).state = .struck ∧
          (entAt t n.val i).samples = (entAt s n.val i).samples ∧ reg t (Reg.lbStruck n.val) = reg s (Reg.lbStruck n.val) + 1 ∧
          (∀ j, j ≠ i → entAt t n.val j = entAt s n.val j) ∧ ∀ k, k ≠ n.val → slotAt t k = slotAt s k) ∧
      ((slotAt s n.val).lines.cfg.tol * 65536 < (strikeErr s n.val (entAt s n.val i)).natAbs →
        ∃ t, Sys2Proof.Machine.exec (.strikeTest n i) s = .next t ∧ (entAt t n.val i).state = .discarded ∧
          (entAt t n.val i).urgent = true ∧ (entAt t n.val i).renderT = s.linkTime ∧
          reg t (Reg.lbDisc n.val) = reg s (Reg.lbDisc n.val) + 1 ∧ rbit t (Reg.lbTrialFlags n.val) 0 = true ∧
          (∀ j, j ≠ i → entAt t n.val j = entAt s n.val j) ∧ ∀ k, k ≠ n.val → slotAt t k = slotAt s k)) ∧
    ((entAt s n.val i).state = .discarded → (entAt s n.val i).again = true → ∀ late,
      ∃ t, Sys2Proof.Machine.exec (.rerenderComplete n ⟨i, late⟩) s = .next t ∧
        ((reckOf s n.val).st ≠ .locked → (entAt t n.val i).state = .trial ∧ (entAt t n.val i).rendered = true) ∧
        ((reckOf s n.val).st = .locked →
          (entAt t n.val i).state = (if (strikeErr s n.val (entAt s n.val i)).natAbs ≤ (slotAt s n.val).lines.cfg.tol * 65536 then .struck else .discarded) ∧
          (entAt t n.val i).tested = true) ∧
        (∀ j, j ≠ i → entAt t n.val j = entAt s n.val j) ∧ ∀ k, k ≠ n.val → slotAt t k = slotAt s k) ∧
    ((entAt s n.val i).state = .trial ∨ (entAt s n.val i).state = .discarded →
      phasePassed s n.val (entAt s n.val i).start = true → ∃ t, Sys2Proof.Machine.exec (.lineDark n i) s = .next t ∧
        entAt t n.val i = { entAt s n.val i with state := .dark, demand := none } ∧
        reg t (Reg.lbBlank n.val) = reg s (Reg.lbBlank n.val) + 1 ∧ rbit t (Reg.lbTrialFlags n.val) 1 = true ∧
        ((entAt s n.val i).state = .discarded → rbit t (Reg.lbTrialFlags n.val) 2 = true) ∧
        (∀ j, j ≠ i → entAt t n.val j = entAt s n.val j) ∧ ∀ k, k ≠ n.val → slotAt t k = slotAt s k) ∧
    ((entAt s n.val i).state = .struck ∨ (entAt s n.val i).state = .dark →
      phasePassed s n.val ((entAt s n.val i).centre + phWord 0 (halfWin (entAt s n.val i).duty)) = true →
        ∃ t, Sys2Proof.Machine.exec (.lineWindowEnd n i) s = .next t ∧ entAt t n.val i = LineEnt.empty ∧
        (∀ j, j ≠ i → entAt t n.val j = entAt s n.val j) ∧ (∀ a, a ≠ Reg.lsDemand n.val → reg t a = reg s a) ∧
        ∀ k, k ≠ n.val → slotAt t k = slotAt s k) ∧
    (∀ v : Word, hostOpen s (Reg.lbProbeSel n.val) = true →
      (bit v 31 = false → ∃ t, Sys2Proof.Machine.exec (.capture n v) s = .next t ∧ reg t (Reg.lbProbeSel n.val) = v &&& 0x003F1F1F ∧
        (∀ a, a ≠ Reg.lbProbeSel n.val → reg t a = reg s a) ∧ t.slots = s.slots) ∧
      (bit v 31 = true → i = fld v 4 0 → i < (slotAt s n.val).trial.length →
        ∃ t, Sys2Proof.Machine.exec (.capture n v) s = .next t ∧ reg t (Reg.lbProbeSel n.val) = v &&& 0x003F1F1F ∧
          (slotAt t n.val).lines.probe = ((entAt s n.val i).samples.take 64).map (·.codes) ∧
          reg t (Reg.lbProbeTs n.val) = (entAt s n.val i).strikeT.setWidth 32 ∧
          (∀ m : Fin 8, reg t (Reg.lbProbeDesc n.val m.val) = BitVec.ofNat 32 (leAt (descBytes c i (entAt s n.val i)) (4 * m.val) 4)) ∧
          ∀ j, entAt t n.val j = entAt s n.val j))

/-! ## Light channels and calibration -/

/-- LC_LEN_CTRL.ARM, the clearing of a laser fault, the end of the 10 µs wait, the laser supply's set-point, and its
overvoltage. -/
def Obligations.LaserEnables : Prop :=
  ∀ s : State, s.wf = true → CastsInRange s →
    (∀ v : Word, hostOpen s Reg.lcLenCtrl = true → ∃ t, Sys2Proof.Machine.exec (.lenArmWrite v) s = .next t ∧
      rfld t Reg.lcLenCtrl 7 0 = fld v 7 0 ∧ ∀ p, p < 8 → bit v p = false → lenPin t p = false) ∧
    (∀ v : Word, hostOpen s Reg.lcLenStat = true → ∃ t, Sys2Proof.Machine.exec (.lenFaultClear v) s = .next t ∧
      ∀ p, p < 8 → rbit t Reg.lcLenStat (16 + p) =
        (rbit s Reg.lcLenStat (16 + p) && !(bit v (16 + p) && (portAt s p).reboundSinceFault))) ∧
    (∀ p : Port, ∃ t, Sys2Proof.Machine.exec (.lenAssertWaitEnd p) s = .next t ∧
      portAt t p.val = { portAt s p.val with lenWait := false } ∧ t.regs = s.regs ∧ ∀ k, k ≠ p.val → portAt t k = portAt s k) ∧
    (∀ (n : Slot) (us : Nat), declared s n.val = true → ∃ t, Sys2Proof.Machine.exec (.setPointUpdate n us) s = .next t ∧
      ((slotAt s n.val).supply.now < (slotAt s n.val).supply.target * 10 → (slotAt t n.val).supply.now =
        min ((slotAt s n.val).supply.target * 10) ((slotAt s n.val).supply.now + rfld s (Reg.lsSlew n.val) 31 16 * us)) ∧
      ((slotAt s n.val).supply.target * 10 < (slotAt s n.val).supply.now → (slotAt s n.val).supply.falling = false →
        (slotAt s n.val).supply.now < (slotAt s n.val).supply.target * 10 + rfld s (Reg.lsHyst n.val) 15 0 * 10 →
        (∀ c, cfgOf s n.val = some c → (slotAt s n.val).supply.now ≤ c.supply.vmax * 10) →
        (slotAt t n.val).supply = (slotAt s n.val).supply) ∧
      (∀ c, cfgOf s n.val = some c → c.supply.vmax * 10 < (slotAt s n.val).supply.now → (slotAt s n.val).supply.falling = false →
        (slotAt s n.val).supply.target * 10 < (slotAt s n.val).supply.now →
        (slotAt s n.val).supply.now < (slotAt s n.val).supply.target * 10 + rfld s (Reg.lsHyst n.val) 15 0 * 10 →
        (slotAt t n.val).supply.now =
          max (c.supply.vmax * 10) ((slotAt s n.val).supply.now - rfld s (Reg.lsSlew n.val) 15 0 * us)) ∧
      ((slotAt s n.val).supply.target * 10 + rfld s (Reg.lsHyst n.val) 15 0 * 10 ≤ (slotAt s n.val).supply.now →
        (slotAt s n.val).supply.target * 10 < (slotAt s n.val).supply.now → (slotAt t n.val).supply.now =
          max ((slotAt s n.val).supply.target * 10) ((slotAt s n.val).supply.now - rfld s (Reg.lsSlew n.val) 15 0 * us)) ∧
      reg t (Reg.lsSet n.val) = (at_ 31 16 (slotAt t n.val).supply.target ||| at_ 15 0 ((slotAt t n.val).supply.now / 10)) ∧
      (∀ a, a ≠ Reg.lsSet n.val → reg t a = reg s a) ∧ ∀ k, k ≠ n.val → slotAt t k = slotAt s k) ∧
    (∀ (n : Slot) (mv : BitVec 16) (c : SlotCast), cfgOf s n.val = some c →
      (mv.toNat ≤ c.supply.vmax + 300 → Sys2Proof.Machine.exec (.laserSupplyOverv n mv) s = .next s) ∧
      (c.supply.vmax + 300 < mv.toNat → c.slot.port < 8 →
        ∃ t, Sys2Proof.Machine.exec (.laserSupplyOverv n mv) s = .next t ∧ rbit t (Reg.lsFlags n.val) 0 = true ∧
          rbit t Reg.lcLenStat (16 + c.slot.port) = true ∧ lenPin t c.slot.port = false ∧ rbit t Reg.frGrace c.slot.port = true ∧
          linkState t c.slot.port = (if linkState s c.slot.port = lsRun then lsQuiesce else linkState s c.slot.port)))

/-- Snapshots, field-calibration pages and the estimator's reset. -/
def Obligations.CalibrationCommands : Prop :=
  ∀ s : State, s.wf = true →
    (∀ (v : Word) (n : Nat), hostOpen s Reg.caSnapCtrl = true → n = fld v 10 8 → bit v 0 = true → bit v 1 = false →
      declared s n = true →
      (rbit s Reg.caSnapStat 0 = false → ∃ t, Sys2Proof.Machine.exec (.take v) s = .next t ∧ rbit t Reg.caSnapStat 0 = true ∧
        rbit t Reg.caSnapStat 1 = false ∧ reg t (Reg.caSnapGen n) = reg s (Reg.caSnapGen n) + 1 ∧
        reg t (Reg.snapBuf 511) = 0 ∧ (slotAt t n).cal.take = true ∧ ∀ k, k ≠ n → slotAt t k = slotAt s k) ∧
      (rbit s Reg.caSnapStat 0 = true → ∃ t, Sys2Proof.Machine.exec (.take v) s = .next t ∧
        rfld t Reg.caSnapStat 31 16 = Status.SNAP_BUSY.code ∧ t.slots = s.slots)) ∧
    (∀ (v : Word) (n : Nat) (c : SlotCast) (img : List Word), hostOpen s Reg.caSnapCtrl = true → n = fld v 10 8 →
      bit v 0 = false → bit v 1 = true → rbit s Reg.caSnapStat 0 = false → cfgOf s n = some c →
      img = (List.range 512).map (fun w => reg s (Reg.snapBuf w)) →
      (∀ st, CastsInRange s → st = imageStatus (setFld Reg.caSnapCtrl 10 8 n s) n img →
        ∃ t, Sys2Proof.Machine.exec (.restore v) s = .next t ∧
        rfld t Reg.caSnapStat 31 16 = st.code ∧
        (bound s n = false ∨ projects (reckOf s n) = true ∧ rbit s (Reg.slStatus n) 3 = false →
          slotAt t n = { slotAt s n with cal := { (slotAt s n).cal with
            restore := if st = .OK then some img else none, refused := decide (st ≠ .OK) } }) ∧
        (bound s n = true → projects (reckOf s n) = false ∨ rbit s (Reg.slStatus n) 3 = true →
          (slotAt t n).cal.restore = none ∧ (slotAt t n).cal.refused = false ∧
          ((slotAt s n).cal.job = none → (slotAt t n).cal.mtx = imageMtx c (if st = .OK then some img else none))))) ∧
    (∀ v : Word, hostOpen s Reg.caSnapCtrl = true → bit v 0 = false → bit v 1 = true → rbit s Reg.caSnapStat 0 = true →
      ∃ t, Sys2Proof.Machine.exec (.restore v) s = .next t ∧ rfld t Reg.caSnapStat 31 16 = Status.SNAP_BUSY.code ∧
        t.slots = s.slots) ∧
    (∀ (v : Word) (n : Nat), hostOpen s Reg.caPageCtrl = true → n = fld v 10 8 → bit v 0 = true →
      (s.page = none → bound s n = true → linkState s (portOf s n) = lsRun → ∃ t, Sys2Proof.Machine.exec (.store v) s = .next t ∧
        t.page = some { slot := n, page := 0, image := [], at_ := .waitBoundary } ∧ rbit t Reg.caPageStat 0 = true ∧
        t.slots = s.slots) ∧
      (s.page.isSome = true → ∃ t, Sys2Proof.Machine.exec (.store v) s = .next t ∧ t.page = s.page ∧
        rfld t Reg.caPageStat 31 16 = Status.PAGE_BUSY.code ∧ t.slots = s.slots)) ∧
    (∀ g : PageStore, s.page = some g →
      (∃ t, Sys2Proof.Machine.exec (.pageStoreDone true) s = .next t ∧ t.page = none ∧
        rfld t Reg.caPageStat 31 16 = Status.PAGE_LINK.code ∧ rbit t Reg.caPageStat 0 = false ∧ t.slots = s.slots) ∧
      (∀ ok, g.at_ = .checked ok → ∃ t, Sys2Proof.Machine.exec (.pageStoreDone false) s = .next t ∧ t.page = none ∧
        rfld t Reg.caPageStat 31 16 = (if ok then Status.OK else Status.PAGE_VERIFY).code ∧ rbit t Reg.caPageStat 0 = false ∧
        t.slots = s.slots)) ∧
    (∀ (n : Slot) (v : Word) (c : SlotCast), hostOpen s (Reg.caCtrl n.val) = true → cfgOf s n.val = some c →
      (bit v 1 = true → ∃ t, Sys2Proof.Machine.exec (.resetEst n v) s = .next t ∧ rbit t (Reg.caCtrl n.val) 0 = bit v 0 ∧
        (slotAt t n.val).cal.rows = 0 ∧ (slotAt t n.val).cal.noRow = 0 ∧
        (∀ a, a ≠ Reg.caCtrl n.val → reg t a = reg s a) ∧ ∀ k, k ≠ n.val → slotAt t k = slotAt s k) ∧
      (bit v 1 = false → ∃ t, Sys2Proof.Machine.exec (.resetEst n v) s = .next t ∧ rbit t (Reg.caCtrl n.val) 0 = bit v 0 ∧
        (∀ a, a ≠ Reg.caCtrl n.val → reg t a = reg s a) ∧ t.slots = s.slots))

/-! ## Control loops -/

/-- ENABLE, CLOSE, OPEN and DISABLE of LEn_CTRL, in the states that take them and in the states that refuse them. -/
def Obligations.LoopOrders : Prop :=
  ∀ (s : State) (l : LoopId), s.wf = true → hostOpen s (Reg.leCtrl l.val) = true →
    (leState s l.val = 0 → enableFails s l.val = false → ∃ t, Sys2Proof.Machine.exec (.loopEnable l) s = .next t ∧
      leState t l.val = 1 ∧
      rfld t (Reg.leStatus l.val) 31 16 = Status.OK.code ∧ (loopAt t l.val).x = Blk.zero (leNx s l.val) ∧
      (loopAt t l.val).z = Blk.zero (leNy s l.val) ∧ (loopAt t l.val).u = safeSent s l.val ∧ (loopAt t l.val).closing = false ∧
      (loopAt t l.val).delays = (loopAt s l.val).delays ∧ ∀ k, k ≠ l.val → loopAt t k = loopAt s k) ∧
    (leState s l.val = 0 → enableFails s l.val = true → ∃ t, Sys2Proof.Machine.exec (.loopEnable l) s = .next t ∧
      leState t l.val = 0 ∧
      rfld t (Reg.leStatus l.val) 31 16 = Status.LOOP_CONFIG.code ∧ rfld t Reg.leErr 31 16 = Status.LOOP_CONFIG.code ∧
      rfld t Reg.leErr 6 0 = l.val ∧ t.loops = s.loops) ∧
    (leState s l.val = 1 → (loopAt s l.val).closing = false → unboundLoop s l.val = false →
      ∃ t, Sys2Proof.Machine.exec (.loopClose l) s = .next t ∧
      loopAt t l.val = { loopAt s l.val with closing := true, auto := none } ∧ leState t l.val = 1 ∧
      rfld t (Reg.leStatus l.val) 31 16 = Status.OK.code ∧ (∀ k, k ≠ l.val → loopAt t k = loopAt s k) ∧
      ∀ a, a ≠ Reg.leStatus l.val → reg t a = reg s a) ∧
    (leState s l.val ≠ 1 ∨ (loopAt s l.val).closing = true ∨ unboundLoop s l.val = true →
      ∃ t, Sys2Proof.Machine.exec (.loopClose l) s = .next t ∧ t.loops = s.loops ∧
      leState t l.val = leState s l.val ∧ rfld t (Reg.leStatus l.val) 31 16 = Status.LOOP_BUSY.code ∧
      rfld t Reg.leErr 31 16 = Status.LOOP_BUSY.code ∧ rfld t Reg.leErr 6 0 = l.val) ∧
    (leState s l.val = 2 → ∃ t, Sys2Proof.Machine.exec (.loopOpen l) s = .next t ∧ leState t l.val = 1 ∧
      rfld t (Reg.leStatus l.val) 31 16 = Status.OK.code ∧ (loopAt t l.val).u = (loopAt s l.val).u ∧
      (loopAt t l.val).x = (loopAt s l.val).x ∧ (loopAt t l.val).closing = false ∧
      (loopAt t l.val).ramp = (if rfld s (Reg.leRamp l.val) 15 0 = 0 then none else some (0, (loopAt s l.val).u)) ∧
      ∀ k, k ≠ l.val → loopAt t k = loopAt s k) ∧
    (leState s l.val ≠ 2 → (loopAt s l.val).closing = true → ∃ t, Sys2Proof.Machine.exec (.loopOpen l) s = .next t ∧
      leState t l.val = leState s l.val ∧ rfld t (Reg.leStatus l.val) 31 16 = Status.OK.code ∧
      loopAt t l.val = { loopAt s l.val with closing := false } ∧ ∀ k, k ≠ l.val → loopAt t k = loopAt s k) ∧
    (leClosed s l.val = false → ∃ t, Sys2Proof.Machine.exec (.loopOpen l) s = .next t ∧ t.loops = s.loops ∧
      leState t l.val = leState s l.val ∧ rfld t (Reg.leStatus l.val) 31 16 = Status.LOOP_BUSY.code) ∧
    (leState s l.val = 0 → ∃ t, Sys2Proof.Machine.exec (.loopDisable l) s = .next t ∧ t.loops = s.loops ∧ leState t l.val = 0 ∧
      rfld t (Reg.leStatus l.val) 31 16 = Status.LOOP_BUSY.code) ∧
    (leState s l.val ≠ 0 → ∃ t, Sys2Proof.Machine.exec (.loopDisable l) s = .next t ∧ leState t l.val = 0 ∧
      rfld t (Reg.leStatus l.val) 31 16 = Status.OK.code ∧ rbit t (Reg.leStatus l.val) 3 = false ∧
      (loopAt t l.val).u = safeSent s l.val ∧ (loopAt t l.val).closing = false ∧ (loopAt t l.val).ramp = none ∧
      (loopAt t l.val).trk = Tracker.init ∧ ∀ k, k ≠ l.val → loopAt t k = loopAt s k)

/-- Writes of a loop's words, the clearing of its largest delay, and the loss of its source. -/
def Obligations.LoopWords : Prop :=
  ∀ (s : State) (l : LoopId), s.wf = true →
    (∀ (w : Fin 256) (v : Word), hostOpen s (Reg.leCoef l.val w.val) = true → w.val < 139 →
      (leClosed s l.val = false → ∃ t, Sys2Proof.Machine.exec (.coefWrite l false w v) s = .next t ∧
        reg t (Reg.leCoef l.val w.val) = v &&& coefMask w.val ∧ (∀ a, a ≠ Reg.leCoef l.val w.val → reg t a = reg s a) ∧
        (w.val ≠ 137 → t.loops = s.loops) ∧ (w.val = 137 → (loopAt t l.val).gramp = some 0)) ∧
      (leClosed s l.val = true → ∃ t, Sys2Proof.Machine.exec (.coefWrite l false w v) s = .next t ∧
        reg t (Reg.leCoef l.val w.val) = reg s (Reg.leCoef l.val w.val) ∧ rbit t (Reg.leFlags l.val) 6 = true ∧
        rfld t Reg.leErr 31 16 = Status.LOOP_CLOSED.code ∧ rfld t Reg.leErr 6 0 = l.val ∧ t.loops = s.loops)) ∧
    (∀ (w : Fin 256) (v : Word) (a : Nat) (m : Word), leConfigReg l.val w.val = some (a, m) → hostOpen s a = true →
      (leState s l.val = 0 → w.val ≠ 20 → ∃ t, Sys2Proof.Machine.exec (.coefWrite l true w v) s = .next t ∧
        reg t a = v &&& m ∧ (∀ b, b ≠ a → reg t b = reg s b) ∧ t.loops = s.loops) ∧
      (leState s l.val = 0 → w.val = 20 → ∃ t, Sys2Proof.Machine.exec (.coefWrite l true w v) s = .next t ∧
        rfld t a 31 25 = max 8 (min (fld v 31 25) 64) ∧ rfld t a 24 0 = fld v 24 0 ∧ (∀ b, b ≠ a → reg t b = reg s b) ∧
        t.loops = s.loops) ∧
      (leState s l.val ≠ 0 → ∃ t, Sys2Proof.Machine.exec (.coefWrite l true w v) s = .next t ∧ reg t a = reg s a ∧
        rbit t (Reg.leFlags l.val) 6 = true ∧ rfld t Reg.leErr 31 16 = Status.LOOP_BUSY.code ∧ rfld t Reg.leErr 6 0 = l.val ∧
        t.loops = s.loops)) ∧
    (hostOpen s (Reg.leDly l.val) = true → ∃ t, Sys2Proof.Machine.exec (.dlyMaxClear l) s = .next t ∧
      rfld t (Reg.leDly l.val) 31 16 = 0 ∧ rfld t (Reg.leDly l.val) 15 0 = rfld s (Reg.leDly l.val) 15 0 ∧
      (∀ a, a ≠ Reg.leDly l.val → reg t a = reg s a) ∧ t.loops = s.loops) ∧
    (leClosed s l.val = true → loopsRun s = true → leSrc s l.val ≠ 0 → overdue s l.val (loopAt s l.val).heard = true →
      ∃ t, Sys2Proof.Machine.exec (.loopSrcLost l) s = .next t ∧ (leState s l.val = 2 → leState t l.val = 1) ∧
      (leState s l.val ≠ 2 → leState t l.val = leState s l.val) ∧
      rbit t (Reg.leFlags l.val) 7 = true ∧ (loopAt t l.val).u = (loopAt s l.val).u ∧ (loopAt t l.val).closing = false ∧
      ∀ k, k ≠ l.val → loopAt t k = loopAt s k) ∧
    (leClosed s l.val = false ∨ overdue s l.val (loopAt s l.val).heard = false →
      Sys2Proof.Machine.exec (.loopSrcLost l) s = .next s)

/-- Phase of ψ_ref in 2^-16 pu at which the next drive sample of loop l is due: the next multiple of a cycle over DIV. -/
def Sys2Proof.Machine.drivePhase (s : State) (l : Nat) : Int :=
  ((refPhase s l s.linkTime).1 * (max 1 (rfld s (Reg.leDrv l) 31 25) : Nat) / 2 ^ 40 + 1) * 2 ^ 40 /
    (max 1 (rfld s (Reg.leDrv l) 31 25) : Nat)

/-- Time of that sample in sixteenths of a period: now where ψ_ref has no rate. -/
def Sys2Proof.Machine.driveTime (s : State) (l : Nat) : Nat :=
  if (refPhase s l s.linkTime).2 = 0 then now s * 16
  else ((now s : Int) * 16 +
    divHalfUp ((drivePhase s l - (refPhase s l s.linkTime).1) * 2 ^ 16 * 16) (refPhase s l s.linkTime).2).toNat

/-- Value of that sample: u0 sin + u1 cos at its phase advanced by LEn_DRV.ADV, clamped to 16 bits. -/
def Sys2Proof.Machine.driveValue (s : State) (l : Nat) : Int :=
  clampI (divRound (((loopAt s l).u.headD 0) * sinTurn ((drivePhase s l + (rfld s (Reg.leDrv l) 23 0 : Int) * 65536) * 2 ^ 24) +
    (((loopAt s l).u[1]?).getD 0) * cosTurn ((drivePhase s l + (rfld s (Reg.leDrv l) 23 0 : Int) * 65536) * 2 ^ 24)) (2 ^ 60))
    (-32768) 32767

/-- What a sample does to an open, a closing and a closed loop and what it does not, a tracker's first and later measurements,
and the drive sample of a resonant axis, an actuator and a phase group. -/
def Obligations.LoopSamples : Prop :=
  ∀ (s : State) (l : LoopId), s.wf = true → loopsRun s = true →
    (∀ (at1 : LinkTime) (y0 y1 : BitVec 64) (d : BitVec 16) (m : LoopMeas), leNy s l.val ≤ 2 →
      leState s l.val = 1 ∨ leState s l.val = 2 →
      dueSample s l.val at1 = some m → servedNext s l.val m = true →
        ∃ t, Sys2Proof.Machine.exec (.loopSample l at1 y0 y1 d) s = .next t ∧
        leState t l.val = (if (loopAt s l.val).closing then 2 else leState s l.val) ∧
        ((loopAt s l.val).closing = true ∨ leState s l.val = 2 → (loopAt t l.val).closing = false ∧ (loopAt t l.val).ramp = none) ∧
        (leState s l.val = 1 → (loopAt s l.val).closing = false → (loopAt s l.val).ramp = none → (loopAt t l.val).z =
          (loopAt s l.val).z ∧ (loopAt t l.val).u = ((clampOut s l.val ((loopAt s l.val).u.take (leNu s l.val))).1 ++ [0, 0]).take 2) ∧
        (loopAt t l.val).k = ((loopAt s l.val).k + 1) % max 1 (leRcN s l.val) ∧ (loopAt t l.val).wait = none ∧
        (loopAt t l.val).run = (loopAt s l.val).wait ∧ (loopAt t l.val).picks = (loopAt s l.val).picks ∧
        (loopAt t l.val).delays = (d.toNat :: (loopAt s l.val).delays).take 1024 ∧ rfld t (Reg.leDly l.val) 15 0 = d.toNat ∧
        rfld t (Reg.leDly l.val) 31 16 = max d.toNat (rfld s (Reg.leDly l.val) 31 16) ∧ ∀ k, k ≠ l.val → loopAt t k = loopAt s k) ∧
    (∀ (at1 : LinkTime) (y0 y1 : BitVec 64) (d : BitVec 16), leState s l.val = 0 ∨ dueSample s l.val at1 = none ∨
      (∃ m, dueSample s l.val at1 = some m ∧ servedNext s l.val m = false) →
        Sys2Proof.Machine.exec (.loopSample l at1 y0 y1 d) s = .next s) ∧
    (∀ (at0 : LinkTime) (th : BitVec 16) (more : List (LinkTime × BitVec 16)), leSrc s l.val = 1 → leState s l.val ≠ 0 →
      (loopAt s l.val).trk.run = true → (loopAt s l.val).picks = (at0, th) :: more →
      ((loopAt s l.val).trk.last = none → ∃ t, Sys2Proof.Machine.exec (.trackerUpdate l at0 th) s = .next t ∧
        (loopAt t l.val).trk = { (loopAt s l.val).trk with last := some at0 } ∧ (loopAt t l.val).picks = more ∧
        rbit t (Reg.leStatus l.val) 3 = false ∧ leState t l.val = leState s l.val ∧ ∀ k, k ≠ l.val → loopAt t k = loopAt s k) ∧
      (∀ t0 k, (loopAt s l.val).trk.last = some t0 → k = trackStep (rfld s (Reg.leTrk l.val) 31 16) (rfld s (Reg.leTrk l.val) 15 0)
          (rfld s (Reg.leTrk2 l.val) 31 16) (rfld s (Reg.leTrk2 l.val) 15 0) (rbit s (Reg.leStatus l.val) 3) at0 th.toInt
          (loopAt s l.val).trk → ∃ t, Sys2Proof.Machine.exec (.trackerUpdate l at0 th) s = .next t ∧ (loopAt t l.val).trk = k ∧
        (loopAt t l.val).picks = more ∧
        rbit t (Reg.leStatus l.val) 3 = trackLocked (rfld s (Reg.leTrkLock l.val) 23 0) (rbit s (Reg.leStatus l.val) 3) k ∧
        leState t l.val = leState s l.val ∧ ∀ k, k ≠ l.val → loopAt t k = loopAt s k)) ∧
    (∀ at0 th, (loopAt s l.val).picks.head? ≠ some (at0, th) → Sys2Proof.Machine.exec (.trackerUpdate l at0 th) s = .next s) ∧
    (leState s l.val ≠ 0 → leResonant s l.val = true →
      (∀ kind, leDst s l.val = kind + 1 → kind < 2 → portBound s (leDport s l.val) = true →
        Sys2Proof.Machine.exec (.driveSample l) s = .next (sendPkt (leDport s l.val)
          (.axis (ts40 (driveTime s l.val)) kind (leDidx s l.val) (BitVec.ofInt 16 (driveValue s l.val))) s)) ∧
      (leDst s l.val = 3 → Sys2Proof.Machine.exec (.driveSample l) s = .next { s with power := { s.power with
        duty := s.power.duty.set (leDidx s l.val) (driveValue s l.val).toNat } }))

/-! ## Links -/

/-- Train: the end of Detect, the engine's presence, a training flit, and the end of Train's time. -/
def Obligations.LinkTraining : Prop :=
  ∀ (s : State) (p : Port), s.wf = true →
    (portOn s p.val = true → linkState s p.val = lsDetect → rbit s (Reg.epStatus p.val) 3 = false →
      ∃ t, Sys2Proof.Machine.exec (.detectComplete p) s = .next t ∧ linkState t p.val = lsTrain ∧
        rbit t (Reg.epStatus p.val) 5 = true ∧
        (portAt t p.val).trainStep = 1 ∧ (portAt t p.val).echoes = [] ∧ (∀ k, k ≠ p.val → portAt t k = portAt s k) ∧
          t.slots = s.slots) ∧
    (portHears s p.val = true → linkState s p.val ≠ lsIdentify ∨ (portAt s p.val).rejected = false →
      ∃ t, Sys2Proof.Machine.exec (.presenceAsserted p) s = .next t ∧
      rbit t (Reg.epStatus p.val) 5 = true ∧ rbit t (Reg.epStatus p.val) 3 = false ∧ linkState t p.val = linkState s p.val ∧
      (rbit s (Reg.epStatus p.val) 3 = true → (portAt t p.val).trainFails = 0) ∧ (∀ k, k ≠ p.val → portAt t k = portAt s k) ∧
      t.slots = s.slots) ∧
    (portHears s p.val = true → linkState s p.val = lsDetect ∨ linkState s p.val = lsLost →
      ∃ t, Sys2Proof.Machine.exec (.presenceLost p) s = .next t ∧ rbit t (Reg.epStatus p.val) 5 = false ∧
        linkState t p.val = linkState s p.val ∧ t.ports = s.ports ∧ t.slots = s.slots) ∧
    (∀ lanes : Byte, linkState s p.val = lsTrain → ∃ t, Sys2Proof.Machine.exec (.trainFlit p 2 lanes) s = .next t ∧
      rfld t (Reg.epStatus p.val) 15 8 = lanes.toNat ∧ rfld t (Reg.epStatus p.val) 7 6 = 3 ∧
      (lanes = 255 → (portAt s p.val).trainStep < 4 → (portAt t p.val).trainStep = 4 ∧ (portAt t p.val).series = true ∧
        (portAt t p.val).echoes = [] ∧ (portAt t p.val).probes = 15) ∧
      (lanes ≠ 255 ∨ 4 ≤ (portAt s p.val).trainStep → t.ports = s.ports) ∧ t.slots = s.slots) ∧
    (∀ step lanes : Byte, linkState s p.val ≠ lsTrain ∨ step ≠ 2 → Sys2Proof.Machine.exec (.trainFlit p step lanes) s = .next s) ∧
    (linkState s p.val = lsTrain → ∃ t, Sys2Proof.Machine.exec (.trainTimeout p) s = .next t ∧ linkState t p.val = lsDetect ∧
      (portAt t p.val).trainFails = (portAt s p.val).trainFails + 1 ∧ rbit t (Reg.epFlags p.val) 3 = true ∧
      rfld t (Reg.epCntC p.val) 31 16 = min (rfld s (Reg.epCntC p.val) 31 16 + 1) 65535 ∧
      (2 ≤ (portAt s p.val).trainFails → rbit t (Reg.epStatus p.val) 3 = true) ∧ (∀ k, k ≠ p.val → portAt t k = portAt s k) ∧
      t.slots = s.slots)

/-- Echoes of a probe series in Train and in Run, and the sixteenth: the delay it gives, and TIME_SET. TIME_ACK in Train begins
Identify with an empty descriptor and its first read, in Run it renews the lead, and TFn_HORIZON follows. The host's probe and the
series timer begin a series of 16 probes in Run. -/
def Obligations.LinkProbes : Prop :=
  ∀ (s : State) (p : Port), s.wf = true →
    (∀ t1 t2 t3 t4 : BitVec 64, (portAt s p.val).series = true → linkState s p.val = lsTrain ∨ linkState s p.val = lsRun →
      ((portAt s p.val).echoes.length < 15 → ∃ t, Sys2Proof.Machine.exec (.timeEcho p t1 t2 t3 t4) s = .next t ∧
        portAt t p.val = { portAt s p.val with echoes := (portAt s p.val).echoes ++ [(t4 - t1).toInt - (t3 - t2).toInt] } ∧
        t.regs = s.regs ∧ (∀ k, k ≠ p.val → portAt t k = portAt s k) ∧ t.slots = s.slots) ∧
      (∀ d diff, (portAt s p.val).echoes.length = 15 →
        d = medianDelay ((portAt s p.val).echoes ++ [(t4 - t1).toInt - (t3 - t2).toInt]) →
        diff = (d - (rfld s (Reg.epDelay p.val) 23 0 : Int)).natAbs →
        (linkState s p.val = lsTrain → ∃ t, Sys2Proof.Machine.exec (.timeEcho p t1 t2 t3 t4) s = .next t ∧
          (portAt t p.val).series = false ∧ (portAt t p.val).echoes = [] ∧ rfld t (Reg.epDelay p.val) 23 0 = unsigned 24 d ∧
          (∀ a, a ≠ Reg.epDelay p.val → reg t a = reg s a) ∧ t.slots = s.slots) ∧
        (linkState s p.val = lsRun → diff ≤ 2 → ∃ t, Sys2Proof.Machine.exec (.timeEcho p t1 t2 t3 t4) s = .next t ∧
          portAt t p.val = { portAt s p.val with echoes := [], series := false } ∧ t.regs = s.regs ∧ t.slots = s.slots) ∧
        (linkState s p.val = lsRun → 2 < diff → diff ≤ 64 → ∃ t, Sys2Proof.Machine.exec (.timeEcho p t1 t2 t3 t4) s = .next t ∧
          (portAt t p.val).series = false ∧ (portAt t p.val).echoes = [] ∧ rfld t (Reg.epDelay p.val) 23 0 = unsigned 24 d ∧
          rfld t (Reg.epLead p.val) 15 0 = min 65535 (leadOf (unsigned 24 d) (portAt s p.val).minLead) ∧
          linkState t p.val = lsRun ∧ t.slots = s.slots))) ∧
    (∀ m : BitVec 16, upNow s = true →
      (linkState s p.val = lsTrain → (portAt s p.val).trainStep = 4 → (portAt s p.val).series = false →
        ∃ t, Sys2Proof.Machine.exec (.timeAck p m) s = .next t ∧ linkState t p.val = lsIdentify ∧ (portAt t p.val).minLead = m.toNat ∧
          (portAt t p.val).trainFails = 0 ∧ (portAt t p.val).identified = false ∧
          (∀ w, w < 4096 → reg t (Reg.epDesc p.val w) = 0) ∧ ((portAt s p.val).tags.length < 4 → (portAt t p.val).tags =
            (portAt s p.val).tags ++ [{ tag := (portAt s p.val).nextTag % 256, addr := 0, len := 64, write := false }]) ∧
          (∀ k, k ≠ p.val → portAt t k = portAt s k) ∧ t.slots = s.slots) ∧
      (linkState s p.val = lsRun → ∃ t, Sys2Proof.Machine.exec (.timeAck p m) s = .next t ∧
        portAt t p.val = { portAt s p.val with minLead := m.toNat } ∧
        rfld t (Reg.epLead p.val) 15 0 = min 65535 (leadOf (rfld s (Reg.epDelay p.val) 23 0) m.toNat) ∧
        (∀ n, slotOnPort s p.val = some n → rfld t (Reg.tfHorizon n) 15 0 =
          max (rfld s (Reg.tfHorizon n) 15 0) (min 65535 (rfld t (Reg.epLead p.val) 15 0 + 640))) ∧
        (∀ a, a ≠ Reg.epLead p.val → slotOnPort s p.val = none ∨ (∃ n, slotOnPort s p.val = some n ∧ a ≠ Reg.tfHorizon n) →
          reg t a = reg s a) ∧ (∀ k, k ≠ p.val → portAt t k = portAt s k) ∧ t.slots = s.slots)) ∧
    (∀ v : Word, hostOpen s (Reg.epCtrl p.val) = true → bit v 0 = true → bit v 1 = false → bit v 2 = false →
      linkState s p.val = lsRun → ((portAt s p.val).probes = 0 → ∃ t, Sys2Proof.Machine.exec (.probe p v) s = .next t ∧
        (portAt t p.val).series = true ∧ (portAt t p.val).echoes = [] ∧ (portAt t p.val).probes = 15 ∧
        (∀ k, k ≠ p.val → portAt t k = portAt s k) ∧ t.regs = s.regs ∧ t.slots = s.slots) ∧
      ((portAt s p.val).probes ≠ 0 → Sys2Proof.Machine.exec (.probe p v) s = .next s)) ∧
    (upNow s = true → linkState s p.val = lsRun → (portAt s p.val).probes = 0 →
      ∃ t, Sys2Proof.Machine.exec (.probeSeriesTimer p) s = .next t ∧ (portAt t p.val).series = true ∧ (portAt t p.val).echoes = [] ∧
        (portAt t p.val).probes = 15 ∧ (portAt t p.val).probeT = s.linkTime + BitVec.ofNat 64 probeTicks ∧
        (∀ k, k ≠ p.val → portAt t k = portAt s k) ∧ t.regs = s.regs ∧ t.slots = s.slots)

/-- What a try to bind port p to the slot of c leaves: BIND is out with the next BIND_ID, or the binding is rejected. -/
def Sys2Proof.Machine.BindTried (s t : State) (p : Nat) (c : SlotCast) : Prop :=
  if bindStatus s p c = .OK then linkState t p = lsBind ∧ rfld t (Reg.epStatus p) 31 16 = Status.OK.code ∧
    rfld t (Reg.epBindId p) 15 0 = (if rfld s (Reg.epBindId p) 15 0 = 65535 then 1 else rfld s (Reg.epBindId p) 15 0 + 1)
  else linkState t p = lsIdentify ∧ rfld t (Reg.epStatus p) 31 16 = (bindStatus s p c).code ∧ rbit t (Reg.epFlags p) 1 = true ∧
    (portAt t p).rejected = true ∧ rfld t (Reg.epBindId p) 15 0 = rfld s (Reg.epBindId p) 15 0

/-- Binding: answers to descriptor reads and writes, the engine's acknowledgement, and the times that end them. -/
def Obligations.LinkBinding : Prop :=
  ∀ (s : State) (p : Port), s.wf = true →
    (∀ (tag : Byte) (x : DescTag) (a : BitVec 16) (st : Byte) (d : List Byte),
      ((portAt s p.val).tags.find? fun y => y.tag == tag.toNat && !y.write && y.addr == a.toNat) = some x →
      linkState s p.val ≠ lsIdentify →
      (s.page = none → ∃ t, Sys2Proof.Machine.exec (.readData p tag a st d) s = .next t ∧
        portAt t p.val = { portAt s p.val with tags := (portAt s p.val).tags.filter (· != x) } ∧ t.regs = s.regs ∧ t.page = none ∧
        (∀ k, k ≠ p.val → portAt t k = portAt s k) ∧ t.slots = s.slots) ∧
      (∀ g, s.page = some g → portOf s g.slot = p.val → g.at_ = .reading → a.toNat = pageAddr g.page → g.page = 0 → st = 0 →
        d.length = x.len → ∃ t, Sys2Proof.Machine.exec (.readData p tag a st d) s = .next t ∧ (portAt t p.val).pageA = d ∧
          t.page = some { g with at_ := .checked (pageOk s p.val d) } ∧ t.regs = s.regs ∧ t.slots = s.slots)) ∧
    (∀ (tag st : Byte) (x : DescTag) (d : List Byte) (n : Nat), linkState s p.val = lsIdentify → (portAt s p.val).identified = false →
      (portAt s p.val).tags.length ≤ 4 →
      ((portAt s p.val).tags.find? fun y => y.tag == tag.toNat && !y.write && y.addr == 0) = some x → x.len = 64 → st = 0 →
      d.length = 64 → n = leAt d 6 2 → 64 < n → n ≤ 16384 → ∃ t, Sys2Proof.Machine.exec (.readData p tag 0 st d) s = .next t ∧
        (∀ i, i < 16 → reg t (Reg.epDesc p.val i) = BitVec.ofNat 32 (leAt d (4 * i) 4)) ∧ (portAt t p.val).identNext = 64 ∧
        (portAt t p.val).identified = false ∧ linkState t p.val = lsIdentify ∧ (portAt t p.val).tags =
          (portAt s p.val).tags.filter (· != x) ++
            [{ tag := (portAt s p.val).nextTag % 256, addr := 64, len := min 4096 (n - 64), write := false }] ∧ t.slots = s.slots) ∧
    (∀ (tag st : Byte) (x : DescTag) (d : List Byte), linkState s p.val = lsIdentify → (portAt s p.val).identified = false →
      ((portAt s p.val).tags.find? fun y => y.tag == tag.toNat && !y.write && y.addr == 0x4800) = some x → x.len = 2048 → st = 0 →
      d.length = 2048 → ∃ t, Sys2Proof.Machine.exec (.readData p tag 0x4800 st d) s = .next t ∧ (portAt t p.val).pageB = d ∧
        (portAt t p.val).identified = true ∧ (portAt t p.val).tags = (portAt s p.val).tags.filter (· != x) ∧
        reg t (Reg.epSerialLo p.val) = BitVec.ofNat 32 (descAt s p.val 8 4) ∧
        reg t (Reg.epSerialHi p.val) = BitVec.ofNat 32 (descAt s p.val 12 4) ∧
        (slotOnPort s p.val = none → linkState t p.val = lsIdentify) ∧
        (∀ n c, slotOnPort s p.val = some n → cfgOf s n = some c → (portAt s p.val).rejected = false → BindTried s t p.val c) ∧
        t.slots = s.slots) ∧
    (∀ (tag st : Byte) (x : DescTag) (g : PageStore), ((portAt s p.val).tags.find? fun y => y.tag == tag.toNat && y.write) = some x →
      s.page = some g → portOf s g.slot = p.val → g.at_ = .writing →
      (st ≠ 0 → ∃ t, Sys2Proof.Machine.exec (.writeDone p tag st) s = .next t ∧ t.page = some { g with at_ := .checked false } ∧
        (portAt t p.val).tags = (portAt s p.val).tags.filter (· != x) ∧ t.regs = s.regs ∧ t.slots = s.slots) ∧
      (st = 0 → ∃ t, Sys2Proof.Machine.exec (.writeDone p tag st) s = .next t ∧ t.page = some { g with at_ := .reading } ∧
        t.regs = s.regs ∧ t.slots = s.slots)) ∧
    ((portAt s p.val).tags.any (·.write) = true →
      (s.page = none → ∃ t, Sys2Proof.Machine.exec (.descWriteTimeout p) s = .next t ∧ t.regs = s.regs ∧ t.page = none ∧
        (portAt t p.val).tags = (portAt s p.val).tags.filter (!·.write) ∧ t.slots = s.slots) ∧
      (∀ g, s.page = some g → portOf s g.slot = p.val → g.at_ = .writing →
        ∃ t, Sys2Proof.Machine.exec (.descWriteTimeout p) s = .next t ∧ t.page = none ∧
          rfld t Reg.caPageStat 31 16 = Status.PAGE_VERIFY.code ∧ rbit t Reg.caPageStat 0 = false ∧
          (portAt t p.val).tags = (portAt s p.val).tags.filter (!·.write) ∧ t.slots = s.slots)) ∧
    (∀ id : BitVec 16, linkState s p.val ≠ lsBind ∨ id.toNat ≠ rfld s (Reg.epBindId p.val) 15 0 →
      ∃ t, Sys2Proof.Machine.exec (.bindAck p id) s = .next t ∧ t = s) ∧
    (∀ (id : BitVec 16) (n : Nat) (c : SlotCast), CastsInRange s → linkState s p.val = lsBind →
      id.toNat = rfld s (Reg.epBindId p.val) 15 0 → slotOnPort s p.val = some n → cfgOf s n = some c →
      ∃ t, Sys2Proof.Machine.exec (.bindAck p id) s = .next t ∧ linkState t p.val = lsRun ∧ (portAt t p.val).slot = some n ∧
        rfld t (Reg.epStatus p.val) 31 16 = Status.OK.code ∧ rbit t (Reg.epStatus p.val) 4 = true ∧
        (portAt t p.val).bind = id ∧ (portAt t p.val).reboundSinceFault = true ∧ (slotAt t n).reck.st = .acquire)

/-- The link of port p is Lost for a cause: the flag, the count's cause, no binding, no quiesce under way, and grace runs. -/
def Sys2Proof.Machine.LostFor (t : State) (p cause : Nat) : Prop :=
  linkState t p = lsLost ∧ rfld t (Reg.epCause p) 3 0 = cause ∧ rbit t (Reg.epFlags p) 0 = true ∧ (portAt t p).quiesce = none ∧
    (portAt t p).identified = false ∧ (portAt t p).bind = 0 ∧ (portAt t p).series = false ∧ rbit t Reg.frGrace p = true

/-- Loss and departure: the presence pin, missed heartbeats, a heartbeat of another state, the 16th discard of a millisecond, a
delay that has changed by more than 64, a binding or a QUIESCE without an answer, LEAVE, and the return from Lost to Detect. -/
def Obligations.LinkLoss : Prop :=
  ∀ (s : State) (p : Port), s.wf = true → CastsInRange s →
    (portHears s p.val = true → linkState s p.val ≠ lsDetect → linkState s p.val ≠ lsLost →
      ∃ t, Sys2Proof.Machine.exec (.presenceLost p) s = .next t ∧ LostFor t p.val 1 ∧ rbit t (Reg.epStatus p.val) 5 = false) ∧
    (upNow s = true → beating s p.val = true → (portAt s p.val).misses < 3 →
      ∃ t, Sys2Proof.Machine.exec (.heartbeatMiss p) s = .next t ∧
      (portAt t p.val).misses = (portAt s p.val).misses + 1 ∧ linkState t p.val = linkState s p.val ∧
      rfld t (Reg.epCntB p.val) 31 16 = min (rfld s (Reg.epCntB p.val) 31 16 + 1) 65535 ∧
      (∀ a, a ≠ Reg.epCntB p.val → reg t a = reg s a) ∧ (∀ k, k ≠ p.val → portAt t k = portAt s k) ∧ t.slots = s.slots) ∧
    (upNow s = true → beating s p.val = true → 3 ≤ (portAt s p.val).misses →
      ∃ t, Sys2Proof.Machine.exec (.heartbeatMiss p) s = .next t ∧ LostFor t p.val 2) ∧
    (∀ (at0 : LinkTime) (st : Byte) (id rx : BitVec 16), upNow s = true → beating s p.val = true →
      (st.toNat = linkState s p.val → rx = 0 ∨ linkState s p.val = lsRun →
        ∃ t, Sys2Proof.Machine.exec (.heartbeat p at0 st id rx) s = .next t ∧ (portAt t p.val) = { portAt s p.val with misses := 0 } ∧
          t.regs = s.regs ∧ (∀ k, k ≠ p.val → portAt t k = portAt s k) ∧ t.slots = s.slots) ∧
      (st.toNat = linkState s p.val → rx ≠ 0 → linkState s p.val ≠ lsRun →
        rx.toNat + (((portAt s p.val).engErrs.filter fun x => decide (since s x.1 < msTicks)).map (·.2)).sum < 16 →
        ∃ t, Sys2Proof.Machine.exec (.heartbeat p at0 st id rx) s = .next t ∧ (portAt t p.val).misses = 0 ∧
          rfld t (Reg.epCntA p.val) 31 16 = min (rfld s (Reg.epCntA p.val) 31 16 + rx.toNat) 65535 ∧
          rbit t (Reg.epFlags p.val) 2 = true ∧ linkState t p.val = linkState s p.val ∧ t.slots = s.slots) ∧
      (st.toNat ≠ linkState s p.val → ∃ t, Sys2Proof.Machine.exec (.heartbeat p at0 st id rx) s = .next t ∧ LostFor t p.val 3)) ∧
    (upNow s = true → linkState s p.val ≠ lsDetect → linkState s p.val ≠ lsLost →
      (∃ t, Sys2Proof.Machine.exec (.packetDiscard p .reservedType) s = .next t ∧
        rfld t (Reg.epCntA p.val) 15 0 = min (rfld s (Reg.epCntA p.val) 15 0 + 1) 65535 ∧
        (∀ a, a ≠ Reg.epCntA p.val → reg t a = reg s a) ∧ t.ports = s.ports ∧ t.slots = s.slots) ∧
      (∀ why, why ≠ .reservedType → (recentErrs s p.val).length < 15 →
        ∃ t, Sys2Proof.Machine.exec (.packetDiscard p why) s = .next t ∧
        rfld t (Reg.epCntA p.val) 15 0 = min (rfld s (Reg.epCntA p.val) 15 0 + 1) 65535 ∧ rbit t (Reg.epFlags p.val) 2 = true ∧
        (portAt t p.val).errs = s.linkTime :: recentErrs s p.val ∧ linkState t p.val = linkState s p.val ∧
        (portAt t p.val).rxErr = (portAt s p.val).rxErr + 1 ∧
        rfld t (Reg.epCntE p.val) 15 0 = (if why = .bindId then min (rfld s (Reg.epCntE p.val) 15 0 + 1) 65535
          else rfld s (Reg.epCntE p.val) 15 0) ∧ t.slots = s.slots) ∧
      (∀ why, why ≠ .reservedType → 15 ≤ (recentErrs s p.val).length →
        ∃ t, Sys2Proof.Machine.exec (.packetDiscard p why) s = .next t ∧ LostFor t p.val 4)) ∧
    (∀ t1 t2 t3 t4 : BitVec 64, (portAt s p.val).series = true → linkState s p.val = lsRun → (portAt s p.val).echoes.length = 15 →
      64 < (medianDelay ((portAt s p.val).echoes ++ [(t4 - t1).toInt - (t3 - t2).toInt]) -
        (rfld s (Reg.epDelay p.val) 23 0 : Int)).natAbs →
      ∃ t, Sys2Proof.Machine.exec (.timeEcho p t1 t2 t3 t4) s = .next t ∧ LostFor t p.val 5 ∧ (portAt t p.val).echoes = []) ∧
    (linkState s p.val = lsBind → ∃ t, Sys2Proof.Machine.exec (.bindTimeout p) s = .next t ∧ LostFor t p.val 6) ∧
    (linkState s p.val = lsQuiesce → ∃ t, Sys2Proof.Machine.exec (.quiesceTimeout p) s = .next t ∧ LostFor t p.val 6) ∧
    (∀ reason : Byte, upNow s = true → linkState s p.val ≠ lsDetect → linkState s p.val ≠ lsLost → linkState s p.val ≠ lsQuiesce →
      ∃ t, Sys2Proof.Machine.exec (.leave p reason) s = .next t ∧ LostFor t p.val 7) ∧
    (linkState s p.val = lsLost → ∃ t, Sys2Proof.Machine.exec (.lostHoldEnd p) s = .next t ∧ linkState t p.val = lsDetect ∧
      (portAt t p.val).identified = false ∧ (portAt t p.val).bind = 0 ∧ (portAt t p.val).trainFails = (portAt s p.val).trainFails ∧
      (∀ k, k ≠ p.val → portAt t k = portAt s k) ∧ t.slots = s.slots)

/-- The QUIESCE exchange, RETRY and the pin that asserts again, and a sense return that is taken, that shows a laser fault, or that is
rejected. -/
def Obligations.LinkQuiesceAndSense : Prop :=
  ∀ (s : State) (p : Port), s.wf = true → CastsInRange s →
    (∀ v : Word, hostOpen s (Reg.epCtrl p.val) = true → bit v 0 = false → bit v 1 = false → bit v 2 = true →
      (linkState s p.val = lsIdentify ∨ linkState s p.val = lsBind ∨ linkState s p.val = lsRun →
        ∃ t, Sys2Proof.Machine.exec (.quiesce p v) s = .next t ∧ linkState t p.val = lsQuiesce ∧
          (portAt t p.val).quiesce = some .host ∧ (portAt t p.val).series = false ∧ (portAt t p.val).probes = 0 ∧
          (linkState s p.val = lsRun → (portAt t p.val).slot = none ∧ rbit t (Reg.epStatus p.val) 4 = false ∧
            rbit t Reg.frGrace p.val = true)) ∧
      (linkState s p.val = lsDetect ∨ linkState s p.val = lsTrain ∨ linkState s p.val = lsLost →
        Sys2Proof.Machine.exec (.quiesce p v) s = .next s)) ∧
    (∀ (i : Instr) (reason : Byte), i = .quiesceAck p ∨ (i = .leave p reason ∧ upNow s = true) → linkState s p.val = lsQuiesce →
      ((portAt s p.val).quiesce = some .engineReset ∨ (portAt s p.val).quiesce = some .stop →
        ∃ t, Sys2Proof.Machine.exec i s = .next t ∧ linkState t p.val = lsDetect ∧ (portAt t p.val).slot = none ∧
          rbit t (Reg.epStatus p.val) 4 = false ∧ t.slots = s.slots) ∧
      ((portAt s p.val).quiesce ≠ some .engineReset → (portAt s p.val).quiesce ≠ some .stop →
        ∃ t, Sys2Proof.Machine.exec i s = .next t ∧ linkState t p.val = lsIdentify ∧ (portAt t p.val).slot = none ∧
          (portAt t p.val).identified = false ∧ rbit t (Reg.epStatus p.val) 4 = false ∧ t.slots = s.slots)) ∧
    (∀ v : Word, hostOpen s (Reg.epCtrl p.val) = true → bit v 0 = false → bit v 1 = true → bit v 2 = false →
      linkState s p.val ≠ lsIdentify ∨ (portAt s p.val).rejected = false → ∃ t, Sys2Proof.Machine.exec (.retry p v) s = .next t ∧
        rbit t (Reg.epStatus p.val) 3 = false ∧
        (rbit s (Reg.epStatus p.val) 3 = true → (portAt t p.val).trainFails = 0) ∧ linkState t p.val = linkState s p.val ∧
        (∀ k, k ≠ p.val → portAt t k = portAt s k) ∧ t.slots = s.slots) ∧
    (∀ (i : Instr) (v : Word) (n : Nat) (c : SlotCast),
      (i = .retry p v ∧ hostOpen s (Reg.epCtrl p.val) = true ∧ bit v 0 = false ∧ bit v 1 = true ∧ bit v 2 = false) ∨
        (i = .presenceAsserted p ∧ portHears s p.val = true) →
      linkState s p.val = lsIdentify → (portAt s p.val).rejected = true → (portAt s p.val).identified = true →
      slotOnPort s p.val = some n → cfgOf s n = some c →
      ∃ t, Sys2Proof.Machine.exec i s = .next t ∧ BindTried s t p.val c ∧ rbit t (Reg.epStatus p.val) 3 = false ∧
        (∀ k, k ≠ p.val → portAt t k = portAt s k) ∧ t.slots = s.slots) ∧
    (∀ k : SensePkt, upNow s = true → senseOk s p.val k = true → bit k.status 0 = false →
      overChans s p.val k 5 &&& (portAt s p.val).overs = 0 → k.dlCrc = 0 → ∃ t, Sys2Proof.Machine.exec (.sense p k) s = .next t ∧
        (portAt t p.val).lastTEnd = k.tEnd ∧ (portAt t p.val).overs = overChans s p.val k 5 ∧ linkState t p.val = lsRun ∧
        rfld t (Reg.epCntC p.val) 15 0 = min (rfld s (Reg.epCntC p.val) 15 0 + k.lateCmd.toNat) 65535 ∧
        rfld t (Reg.epCntD p.val) 31 16 = min (rfld s (Reg.epCntD p.val) 31 16 + k.planeInc.toNat) 65535 ∧
        rbit t (Reg.epFlags p.val) 4 = (rbit s (Reg.epFlags p.val) 4 || decide (k.lateCmd ≠ 0) || bit k.status 5) ∧
        (∀ n, slotOnPort s p.val = some n → reg t (Reg.lsMeas n) = BitVec.ofNat 32 k.vMeas.toNat) ∧
        (slotOnPort s p.val = none → t.slots = s.slots) ∧
        (∀ l : LoopId, loopsRun s = true → leState s l.val ≠ 0 → leSrc s l.val = 1 →
          (loopAt t l.val).picks = (loopAt s l.val).picks ++
          (sensePoints s p.val l.val k).map fun m => (m.t, BitVec.ofInt 16 (m.y.headD 0 / 2 ^ 26)))) ∧
    (∀ k : SensePkt, upNow s = true → senseOk s p.val k = true →
      bit k.status 0 = true ∨ overChans s p.val k 5 &&& (portAt s p.val).overs ≠ 0 → k.dlCrc = 0 →
      ∃ t, Sys2Proof.Machine.exec (.sense p k) s = .next t ∧ linkState t p.val = lsQuiesce ∧
        (portAt t p.val).quiesce = some .engineReset ∧ (portAt t p.val).slot = none ∧ lenPin t p.val = false ∧
        rbit t Reg.lcLenStat (16 + p.val) = true ∧ rbit t Reg.frGrace p.val = true ∧ (portAt t p.val).lastTEnd = k.tEnd) ∧
    (∀ k : SensePkt, upNow s = true → linkState s p.val ≠ lsDetect → linkState s p.val ≠ lsLost → senseOk s p.val k = false →
      k.intact = true ∨ (recentErrs s p.val).length < 15 → bit k.status 0 = false ∨ k.crcOk = false →
      ∃ t, Sys2Proof.Machine.exec (.sense p k) s = .next t ∧
        rfld t (Reg.epCntD p.val) 15 0 = min (rfld s (Reg.epCntD p.val) 15 0 + 1) 65535 ∧ rbit t (Reg.epFlags p.val) 5 = true ∧
        rfld t (Reg.epCntA p.val) 15 0 = (if k.intact then rfld s (Reg.epCntA p.val) 15 0
          else min (rfld s (Reg.epCntA p.val) 15 0 + 1) 65535) ∧
        (portAt t p.val).lastTEnd = (portAt s p.val).lastTEnd ∧ linkState t p.val = linkState s p.val ∧ t.loops = s.loops ∧
        ∀ m, (portAt s p.val).slot = some m → m < 8 → k.intact = true → if k.tEnd.toNat * 16 ≤ (slotAt s m).cal.cut
          then (slotAt t m).cal.prev.lost = true else (slotAt t m).cal.acc.lost = true)

/-- Every step keeps every Cast the part holds in range: the channels, pitches and counts its records name exist. -/
def Obligations.StepKeepsCastsInRange : Prop :=
  ∀ s t : State, CastsInRange s → Sys2Proof.Machine.step s = .next t → CastsInRange t

/-! ## Sensor bridge -/

/-- The life of a camera frame: FS, a line, FE; the loss of a camera; and the writes of its settings. -/
def Obligations.CameraFrames : Prop :=
  ∀ (s : State) (c : Cam), s.wf = true →
    (∀ (vc : BitVec 2) (num : BitVec 16) (at0 : LinkTime), bridgeOn s = true → camState s c.val ≠ 0 → otherVc c.val vc s = false →
      ∃ t, Sys2Proof.Machine.exec (.csiFs c ⟨vc, num⟩ at0) s = .next t ∧ (camAt t c.val).open_ = true ∧ (camAt t c.val).num = num ∧
        (camAt t c.val).tFs = at0 ∧ (camAt t c.val).seq = (camAt s c.val).seq + 1 ∧
        (rbit s (Reg.sbCamCfg c.val) 30 = false → (camAt t c.val).win = none) ∧ (directOn s c.val = false →
          (camAt t c.val).buf = none) ∧
        (∀ f slots b, (camAt s c.val).open_ = false → rbit s (Reg.sbCamCfg c.val) 30 = true → f = ringF s c.val → f ≠ 0 →
          slots = rfld s (Reg.sbCamRing c.val) 22 12 / f → 0 < slots →
          b = rfld s (Reg.sbCamRing c.val) 11 0 + (camAt s c.val).ring % slots * f → b + f ≤ 4096 →
          (∀ k ∈ blocksOf b f, tallyClass s k = tSensor ∧ tallyId s k = c.val) →
          (camAt t c.val).win = some b ∧ (camAt t c.val).ring = ((camAt s c.val).ring + 1) % slots) ∧
        (directOn s c.val = true → directFits s c.val (rfld s (Reg.sbCamDirect c.val) 15 0) = true → (camAt s c.val).open_ = false →
          (camAt t c.val).buf = (List.range 3).find? fun i =>
            !(heldBuffers s c.val).contains i && (camAt s c.val).newest != some i) ∧
        ((camAt s c.val).open_ = false → ∀ a, a ≠ Reg.sbCamCntB c.val → reg t a = reg s a) ∧
        ((camAt s c.val).open_ = true → (camAt t c.val).lines = [] ∧
          rfld t (Reg.sbCamCntA c.val) 15 0 = min (rfld s (Reg.sbCamCntA c.val) 15 0 + 1) 65535) ∧
        ∀ k, k ≠ c.val → camAt t k = camAt s k) ∧
    (∀ (i : Instr) (vc : BitVec 2) (num : BitVec 16) (at0 : LinkTime), i = .csiFs c ⟨vc, num⟩ at0 ∨ i = .csiFe c ⟨vc, num⟩ at0 →
      bridgeOn s = true → camState s c.val ≠ 0 → otherVc c.val vc s = true → ∃ t, Sys2Proof.Machine.exec i s = .next t ∧
        rfld t (Reg.sbCamCntB c.val) 31 22 = min (rfld s (Reg.sbCamCntB c.val) 31 22 + 1) 1023 ∧
        (∀ a, a ≠ Reg.sbCamCntB c.val → reg t a = reg s a) ∧ t.sb = s.sb) ∧
    (∀ (vc : BitVec 2) (dt : BitVec 6) (crcOk ecc : Bool) (d : List Byte), bridgeOn s = true → camState s c.val ≠ 0 →
      (otherVc c.val vc s = true ∨ (dt ≠ 0x12 ∧ (dt.toNat ≠ camDt s c.val ∨ imageDts.contains dt.toNat = false)) →
        ∃ t, Sys2Proof.Machine.exec (.csiLongPacket c vc dt crcOk ecc d) s = .next t ∧
        rfld t (Reg.sbCamCntB c.val) 31 22 = min (rfld s (Reg.sbCamCntB c.val) 31 22 + 1) 1023 ∧
        (∀ a, a ≠ Reg.sbCamCntB c.val → reg t a = reg s a) ∧ t.sb = s.sb) ∧
      (otherVc c.val vc s = false → dt = 0x12 → (camAt s c.val).open_ = true → (camAt s c.val).emb.length < camEmb s c.val →
        ∃ t, Sys2Proof.Machine.exec (.csiLongPacket c vc dt crcOk ecc d) s = .next t ∧
          (camAt t c.val).emb = (camAt s c.val).emb ++ [d] ∧
          (camAt t c.val).bad = ((camAt s c.val).bad || !(camAt s c.val).lines.isEmpty) ∧ t.regs = s.regs ∧
          ∀ k, k ≠ c.val → camAt t k = camAt s k) ∧
      (otherVc c.val vc s = false → dt.toNat = camDt s c.val → imageDts.contains dt.toNat = true → (camAt s c.val).open_ = true →
        camH s c.val ≤ (camAt s c.val).lines.length → ∃ t, Sys2Proof.Machine.exec (.csiLongPacket c vc dt crcOk ecc d) s = .next t ∧
          (camAt t c.val).extra = (camAt s c.val).extra + 1 ∧ (camAt t c.val).lines = (camAt s c.val).lines ∧ t.regs = s.regs ∧
          ∀ k, k ≠ c.val → camAt t k = camAt s k) ∧
      (otherVc c.val vc s = false → dt.toNat = camDt s c.val → imageDts.contains dt.toNat = true → (camAt s c.val).open_ = true →
        (camAt s c.val).lines.length < camH s c.val → ∃ t, Sys2Proof.Machine.exec (.csiLongPacket c vc dt crcOk ecc d) s = .next t ∧
          (camAt t c.val).lines = (camAt s c.val).lines ++ [d] ∧ (camAt t c.val).crcErr = ((camAt s c.val).crcErr || !crcOk) ∧
          (camAt t c.val).eccFix = ((camAt s c.val).eccFix || ecc) ∧ (camAt t c.val).bad = ((camAt s c.val).bad ||
            d.length != lineBytes s c.val || (camAt s c.val).emb.length != camEmb s c.val) ∧ t.regs = s.regs ∧
          ∀ k, k ≠ c.val → camAt t k = camAt s k)) ∧
    (∀ (vc : BitVec 2) (num : BitVec 16) (at0 : LinkTime), bridgeOn s = true → camState s c.val ≠ 0 → otherVc c.val vc s = false →
      (camAt s c.val).open_ = true →
      (∀ b k, rbit s (Reg.sbCamEmb c.val) 31 = false ∨ CastsInRange s → (camAt s c.val).win = some b →
        k ∈ blocksOf b (ringF s c.val) → k < 4096 →
        (∀ j ∈ blocksOf b (ringF s c.val), mayAccess s tSensor c.val (camAt s c.val).winEpoch j = true) →
        ∃ t, Sys2Proof.Machine.exec (.csiFe c ⟨vc, num⟩ at0) s = .next t ∧ tallyClass t k = tHost) ∧
      (conforms s c.val (camAt s c.val) num = true → rbit s (Reg.sbCamEmb c.val) 31 = false ∨ CastsInRange s →
        ∃ t, Sys2Proof.Machine.exec (.csiFe c ⟨vc, num⟩ at0) s = .next t ∧ camState t c.val = 2 ∧ (camAt t c.val).open_ = false ∧
          (camAt t c.val).lines = [] ∧ (camAt t c.val).run = false ∧ ((camAt s c.val).buf.isSome = true →
            (camAt t c.val).newest = (camAt s c.val).buf) ∧
          rfld t (Reg.sbCamCntA c.val) 31 16 = min (rfld s (Reg.sbCamCntA c.val) 31 16 + 1) 65535) ∧
      (conforms s c.val (camAt s c.val) num = false → ∃ t, Sys2Proof.Machine.exec (.csiFe c ⟨vc, num⟩ at0) s = .next t ∧
        camState t c.val = camState s c.val ∧ (camAt t c.val).open_ = false ∧ (camAt t c.val).lines = [] ∧
        (camAt t c.val).newest = (camAt s c.val).newest ∧
        rfld t (Reg.sbCamCntA c.val) 15 0 = min (rfld s (Reg.sbCamCntA c.val) 15 0 + 1) 65535)) ∧
    (camState s c.val ≠ 2 ∨ noFs s c.val = false → Sys2Proof.Machine.exec (.cameraLost c) s = .next s) ∧
    (bridgeOn s = true → camState s c.val = 2 → noFs s c.val = true → ∃ t, Sys2Proof.Machine.exec (.cameraLost c) s = .next t ∧
      camState t c.val = 1 ∧
      (camAt t c.val).newest = none ∧ (camAt t c.val).open_ = false ∧ rbit t Reg.frGrace (8 + c.val) = true ∧
      newestLog t = logWord .CAMERA_LOST clsSensor c.val) ∧
    (∀ v : Word, hostOpen s (Reg.sbCamCfg c.val) = true → rbit s (Reg.sbCamCfg c.val) 31 = false → bit v 31 = true →
      (rawDt (fld v 21 16) = false ∨ camW s c.val % 2 = 0 ∧ camH s c.val % 2 = 0 →
        ∃ t, Sys2Proof.Machine.exec (.camEnable c v) s = .next t ∧ rbit t (Reg.sbCamCfg c.val) 31 = true ∧ camState t c.val = 1 ∧
          rfld t (Reg.sbCamCfg c.val) 21 16 = fld v 21 16 ∧ rfld t (Reg.sbCamCfg c.val) 27 26 = fld v 27 26 ∧
          rfld t (Reg.sbCamCfg c.val) 11 8 = fld v 11 8 ∧ rfld t (Reg.sbCamStatus c.val) 31 16 = Status.OK.code ∧
          (camAt t c.val).newest = none ∧ ∀ k, k ≠ c.val → camAt t k = camAt s k) ∧
      (rawDt (fld v 21 16) = true → camW s c.val % 2 = 1 ∨ camH s c.val % 2 = 1 →
        ∃ t, Sys2Proof.Machine.exec (.camEnable c v) s = .next t ∧ reg t (Reg.sbCamCfg c.val) = reg s (Reg.sbCamCfg c.val) ∧
          rfld t (Reg.sbCamStatus c.val) 31 16 = Status.CAMERA_CONFIG.code ∧ camState t c.val = camState s c.val ∧ t.sb = s.sb)) ∧
    (∀ v : Word, hostOpen s (Reg.sbCamDirect c.val) = true →
      (rbit s (Reg.sbCamCfg c.val) 31 = false → directFits s c.val (fld v 15 0) = true →
        ∃ t, Sys2Proof.Machine.exec (.directWrite c v) s = .next t ∧ reg t (Reg.sbCamDirect c.val) = v &&& 0xFFFF ∧
          rfld t (Reg.sbCamStatus c.val) 31 16 = Status.OK.code ∧ t.sb = s.sb) ∧
      (rbit s (Reg.sbCamCfg c.val) 31 = true ∨ directFits s c.val (fld v 15 0) = false →
        ∃ t, Sys2Proof.Machine.exec (.directWrite c v) s = .next t ∧ reg t (Reg.sbCamDirect c.val) = reg s (Reg.sbCamDirect c.val) ∧
          rfld t (Reg.sbCamStatus c.val) 31 16 = Status.CAMERA_CONFIG.code ∧ t.sb = s.sb))

/-- Object lists from the window and from CAN FD, the state of a CAN bus, and the attitude sensor. -/
def Obligations.ObjectsAndAttitude : Prop :=
  ∀ s : State, s.wf = true →
    (∀ (b : BitVec 12) (d r : List Byte),
      (tallyClass s b.toNat ≠ tSensor ∨ tallyId s b.toNat ≠ objId → Sys2Proof.Machine.exec (.objListWindow b) s = .next s) ∧
      (CastsInRange s → bridgeOn s = true → tallyClass s b.toNat = tSensor → tallyId s b.toNat = objId →
        d = dramRead s (b.toNat * 65536) 1056 → r = (d.drop 32).take 16 →
        (leAt d 16 4 ≠ 0x4C4F4253 ∨ 64 < byteAt d 22 → ∃ t, Sys2Proof.Machine.exec (.objListWindow b) s = .next t ∧ t.sb = s.sb ∧
          rfld t Reg.sbObjCnt 21 11 = min (rfld s Reg.sbObjCnt 21 11 + 1) 2047 ∧ tallyClass t b.toNat = tHost ∧ t.dram = s.dram ∧
          ∀ k, k ≠ b.toNat → k < 4096 → tally t k = tally s k) ∧
        (leAt d 16 4 = 0x4C4F4253 → s.sb.seqs.lookup 0 = none → byteAt d 22 = 1 → byteAt r 2 % 2 = 0 → s.sb.objs.length < 512 →
          ∃ t o, Sys2Proof.Machine.exec (.objListWindow b) s = .next t ∧ t.sb.seqs.lookup 0 = some (leAt d 20 2) ∧ o ∈ t.sb.objs ∧
            o.src = 0 ∧ o.id = leAt r 0 2 ∧ o.slots = byteAt r 3 ∧ o.az = signed 16 (leAt r 4 2) ∧ o.el = signed 16 (leAt r 6 2) ∧
            o.haz = leAt r 8 2 ∧ o.hel = leAt r 10 2 ∧ o.vaz = signed 16 (leAt r 12 2) ∧ o.vel = signed 16 (leAt r 14 2) ∧
            o.t0 = BitVec.ofNat 64 (leAt d 0 8) - BitVec.ofNat 64 (leAt d 24 4 * usTicks) ∧
            tallyClass t b.toNat = tHost ∧ t.dram = s.dram ∧ ∀ k, k ≠ b.toNat → k < 4096 → tally t k = tally s k))) ∧
    (∀ (b : CanBus) (x : Bool) (id : BitVec 29) (d : List Byte) (at0 : LinkTime), canOn s = true →
      rbit s (Reg.sbCan b.val) 31 = true →
      rfld s (Reg.sbCanStat b.val) 31 30 ≠ 2 → rbit s (Reg.sbCan b.val) 29 = x → d.length = 64 →
      (id.toNat = rfld s (Reg.sbCan b.val) 28 0 → canAt s b.val = none → 4 ≤ byteAt d 6 → byteAt d 6 ≤ 64 →
        ∃ t, Sys2Proof.Machine.exec (.canFrame b x id d at0) s = .next t ∧
          canAt t b.val = some { bytes := d, next := 1, t0 := at0, last := at0 } ∧ t.regs = s.regs ∧ t.sb.objs = s.sb.objs) ∧
      (CastsInRange s → id.toNat = rfld s (Reg.sbCan b.val) 28 0 → canAt s b.val = none → byteAt d 6 < 4 → leAt d 0 4 = 0x4C4F4253 →
        s.sb.seqs.lookup (1 + b.val) = none → ∃ t, Sys2Proof.Machine.exec (.canFrame b x id d at0) s = .next t ∧
          canAt t b.val = none ∧ t.sb.seqs.lookup (1 + b.val) = some (leAt d 4 2) ∧
          rfld t (Reg.sbCanStat b.val) 13 0 = min (rfld s (Reg.sbCanStat b.val) 13 0 + 1) 16383) ∧
      (∀ a, canAt s b.val = some a → 0 < a.next → a.next ≤ 16 → id.toNat = rfld s (Reg.sbCan b.val) 28 0 + a.next →
        canLate a at0 = false → byteAt (a.bytes ++ d) 6 ≤ 64 → a.bytes.length + 64 < 16 + 16 * byteAt (a.bytes ++ d) 6 →
        ∃ t, Sys2Proof.Machine.exec (.canFrame b x id d at0) s = .next t ∧
          canAt t b.val = some { bytes := a.bytes ++ d, next := a.next + 1, t0 := a.t0, last := at0 } ∧ t.regs = s.regs ∧
          t.sb.objs = s.sb.objs)) ∧
    (∀ b : CanBus,
      (canAt s b.val = none ∨ (∃ a, canAt s b.val = some a ∧ canLate a s.linkTime = false) →
        Sys2Proof.Machine.exec (.canListTimeout b) s = .next s) ∧
      (∀ a, canAt s b.val = some a → canLate a s.linkTime = true → ∃ t, Sys2Proof.Machine.exec (.canListTimeout b) s = .next t ∧
        canAt t b.val = none ∧ rfld t Reg.sbObjCnt 21 11 = min (rfld s Reg.sbObjCnt 21 11 + 1) 2047 ∧
        (∀ a, a ≠ Reg.sbObjCnt → reg t a = reg s a) ∧ t.sb.objs = s.sb.objs) ∧
      (canOn s = true → ∃ t, Sys2Proof.Machine.exec (.canBusOff b) s = .next t ∧ rfld t (Reg.sbCanStat b.val) 31 30 = 2 ∧
        canAt t b.val = none ∧ t.sb.objs = s.sb.objs) ∧
      (canOn s = true → rfld s (Reg.sbCanStat b.val) 31 30 = 2 → ∃ t, Sys2Proof.Machine.exec (.canBusOffRecovery b) s = .next t ∧
        rfld t (Reg.sbCanStat b.val) 31 14 = 0 ∧ rfld t (Reg.sbCanStat b.val) 13 0 = rfld s (Reg.sbCanStat b.val) 13 0 ∧
        (∀ a, a ≠ Reg.sbCanStat b.val → reg t a = reg s a) ∧ t.sb = s.sb)) ∧
    (∀ (st0 : LinkTime) (d : List Byte) (at0 : LinkTime), bridgeOn s = true → rbit s Reg.sbImuCfg 31 = true →
      rbit s Reg.sbImuCfg 30 = false →
      (imuOverlap s st0 = true → ∃ t, Sys2Proof.Machine.exec (.imuTransaction st0 d at0) s = .next t ∧
        rfld t Reg.sbImuCnt 7 0 = min (rfld s Reg.sbImuCnt 7 0 + 1) 255 ∧ (∀ a, a ≠ Reg.sbImuCnt → reg t a = reg s a) ∧ t.sb = s.sb) ∧
      (imuOverlap s st0 = false → ∃ t, Sys2Proof.Machine.exec (.imuTransaction st0 d at0) s = .next t ∧
        t.sb.imuEnd = some (at0 + spiPeriods s (rfld s Reg.sbImuXfer 27 23)) ∧ t.sb.objs = s.sb.objs) ∧
      (imuOverlap s st0 = false → max (rfld s Reg.sbImuXfer 20 16 + 1) (max (rfld s Reg.sbImuFmt 20 16 + 2) (rfld s Reg.sbImuFmt 12 8 + 2)) ≤
          (d.take (rfld s Reg.sbImuXfer 27 23)).length →
        (byteAt (d.take (rfld s Reg.sbImuXfer 27 23)) (rfld s Reg.sbImuXfer 20 16) ≠ rfld s Reg.sbImuFmt 31 24 →
          ∃ t, Sys2Proof.Machine.exec (.imuTransaction st0 d at0) s = .next t ∧ t.sb.rejects = s.sb.rejects + 1 ∧
            rfld t Reg.sbImuCnt 15 8 = min (rfld s Reg.sbImuCnt 15 8 + 1) 255 ∧ t.sb.angle = s.sb.angle ∧ t.sb.filt = s.sb.filt ∧
            (s.sb.rejects = 7 → newestLog t = logWord .IMU_FAULT clsSensor 4)) ∧
        (byteAt (d.take (rfld s Reg.sbImuXfer 27 23)) (rfld s Reg.sbImuXfer 20 16) = rfld s Reg.sbImuFmt 31 24 →
          ∃ t, Sys2Proof.Machine.exec (.imuTransaction st0 d at0) s = .next t ∧ t.sb.rejects = 0 ∧ t.sb.filt.isSome = true ∧
            rfld t Reg.sbImuCnt 31 16 = min (rfld s Reg.sbImuCnt 31 16 + 1) 65535 ∧
            (t.sb.angle.map (·.2)) = some (at0 - BitVec.ofNat 64 (rfld s Reg.sbImuXfer 15 0 * usTicks)) ∧
            ∀ a, a ≠ Reg.sbImuCnt → a ≠ Reg.sbImuNow → reg t a = reg s a))) ∧
    (∀ v : Word, hostOpen s Reg.sbImuHost = true →
      (rbit s Reg.sbImuCfg 30 = true → bridgeOn s = true → ∃ t, Sys2Proof.Machine.exec (.imuHost v) s = .next t ∧
        reg t Reg.sbImuHost = v ∧ reg t Reg.sbImuNow = v ∧ t.sb.angle = some (v.toInt, s.linkTime) ∧
        ∀ a, a ≠ Reg.sbImuHost → a ≠ Reg.sbImuNow → reg t a = reg s a) ∧
      (rbit s Reg.sbImuCfg 30 = false → ∃ t, Sys2Proof.Machine.exec (.imuHost v) s = .next t ∧ reg t Reg.sbImuHost = v ∧
        (∀ a, a ≠ Reg.sbImuHost → reg t a = reg s a) ∧ t.sb = s.sb))

/-! ## Heat -/

/-- One update of the ledger, and what a failed, a suspect and a trusted sensor change. -/
def Obligations.HeatLedger : Prop :=
  ∀ s : State, s.wf = true →
    (∀ i : LedgerIn,
      (heatRuns s = false → Sys2Proof.Machine.exec (.ledgerUpdate i) s = .next s) ∧
      (∀ sums, heatRuns s = true → CastsInRange s →
        sums = (((List.range 20).map fun d => if pdOff s d then 0 else (i.dom[d]?).getD 0).foldl (· + ·) 0 :: s.heat.sums).take 10 →
        ∃ t, Sys2Proof.Machine.exec (.ledgerUpdate i) s = .next t ∧ t.heat.start = .running ∧ t.heat.last = s.linkTime ∧
          t.heat.sums = sums ∧ reg t Reg.thPower = BitVec.ofNat 32 (sums.foldl (· + ·) 0 / max 1 sums.length) ∧
          t.slots = s.slots ∧ t.power = s.power)) ∧
    (∀ (p : Port) (k : Fin 32),
      (∀ e, engSens s p.val k.val = some e → 10 * msTicks ≤ since s e.seen →
        ∃ t, Sys2Proof.Machine.exec (.engineSensorFailed p k) s = .next t ∧
          engSens t p.val k.val = some { e with failed := true } ∧ t.regs = s.regs ∧
          t.heat.ladders = s.heat.ladders ∧ t.heat.diodes = s.heat.diodes ∧ t.slots = s.slots) ∧
      (∀ e, engSens s p.val k.val = some e → since s e.seen < 10 * msTicks →
        Sys2Proof.Machine.exec (.engineSensorFailed p k) s = .next s) ∧
      (engSens s p.val k.val = none → linkState s p.val = lsRun → k.val < descAt s p.val 20 1 →
        ∃ t e, Sys2Proof.Machine.exec (.engineSensorFailed p k) s = .next t ∧ engSens t p.val k.val = some e ∧ e.failed = true ∧
          e.seen = s.linkTime ∧ t.regs = s.regs ∧ t.heat.ladders = s.heat.ladders ∧ t.heat.diodes = s.heat.diodes ∧
          t.slots = s.slots) ∧
      (engSens s p.val k.val = none → linkState s p.val ≠ lsRun ∨ descAt s p.val 20 1 ≤ k.val →
        Sys2Proof.Machine.exec (.engineSensorFailed p k) s = .next s)) ∧
    (∀ (k : Nat) (c : SensorCheck), checkOf s k = some c → c.suspect = false →
      (100 ≤ c.dis → ∃ t, Sys2Proof.Machine.exec (.sensorSuspect k) s = .next t ∧
        checkOf t k = some { c with suspect := true, agree := 0 } ∧ rbit t Reg.thFlags 0 = true ∧
        (k < 17 → newestLog t = logWord .SENSOR_SUSPECT clsPart 0) ∧
        (17 ≤ k → newestLog t = logWord .SENSOR_SUSPECT clsEngine ((k - 17) / 32)) ∧
        (∀ j, hotLadder s k = some j → (ladderAt t j).freeze = some (s.linkTime + BitVec.ofNat 64 freezeTicks)) ∧ t.slots = s.slots) ∧
      (c.dis < 100 → Sys2Proof.Machine.exec (.sensorSuspect k) s = .next s)) ∧
    (∀ (k : Nat) (c : SensorCheck), checkOf s k = some c →
      (c.suspect = true → 10000 ≤ c.agree → ∃ t, Sys2Proof.Machine.exec (.sensorTrusted k) s = .next t ∧
        checkOf t k = some { c with suspect := false, dis := 0 } ∧ t.heat.ladders = s.heat.ladders ∧ t.slots = s.slots) ∧
      (c.suspect = false ∨ c.agree < 10000 → Sys2Proof.Machine.exec (.sensorTrusted k) s = .next s))

/-- Throttle steps and their freeze, the trips, and the power limit. -/
def Obligations.HeatActions : Prop :=
  ∀ s : State, s.wf = true →
    (∀ (i : Fin 9) (k : Nat), (i.val < 8 → declared s i.val = true) → k = rfld s (stepReg i.val) 3 0 →
      ((ladderAt s i.val).overs = 200 → k < 15 → ∃ t, Sys2Proof.Machine.exec (.throttleStep i) s = .next t ∧
        rfld t (stepReg i.val) 3 0 = k + 1 ∧ ladderAt t i.val = { ladderAt s i.val with overs := 0 } ∧ rbit t Reg.thFlags 1 = true ∧
        newestLog t = logWord .THROTTLE_STEP clsPart i.val ∧ (∀ j, j ≠ i.val → ladderAt t j = ladderAt s j) ∧
        ∀ j, j ≠ i.val → slotAt t j = slotAt s j) ∧
      ((ladderAt s i.val).overs ≠ 200 → (ladderAt s i.val).under = 2000 → floorOf s i.val < k → (ladderAt s i.val).freeze = none →
        ∃ t, Sys2Proof.Machine.exec (.throttleStep i) s = .next t ∧ rfld t (stepReg i.val) 3 0 = k - 1 ∧
          ladderAt t i.val = { ladderAt s i.val with under := 0 } ∧ rbit t Reg.thFlags 1 = true ∧
          newestLog t = logWord .THROTTLE_STEP clsPart i.val ∧ (∀ j, j ≠ i.val → ladderAt t j = ladderAt s j) ∧
          ∀ j, j ≠ i.val → slotAt t j = slotAt s j) ∧
      ((ladderAt s i.val).overs ≠ 200 ∨ 15 ≤ k → (ladderAt s i.val).under ≠ 2000 ∨ k ≤ floorOf s i.val ∨
        (ladderAt s i.val).freeze.isSome = true → Sys2Proof.Machine.exec (.throttleStep i) s = .next s)) ∧
    (∀ (i : Fin 9) (at0 : BitVec 64), (ladderAt s i.val).freeze = some at0 →
      ((at0 - s.linkTime).toInt ≤ 0 → ∃ t, Sys2Proof.Machine.exec (.freezeEnd i) s = .next t ∧ (ladderAt t i.val).freeze = none ∧
        rbit t (stepReg i.val) 12 = false ∧ rfld t (stepReg i.val) 3 0 = rfld s (stepReg i.val) 3 0 ∧ t.slots = s.slots) ∧
      (0 < (at0 - s.linkTime).toInt → Sys2Proof.Machine.exec (.freezeEnd i) s = .next s)) ∧
    (critDue s 8 = true → ∃ t, Sys2Proof.Machine.exec .thermalCrit s = .next t ∧ newestLog t = logWord .THERMAL_CRIT clsPart 0 ∧
      rbit t Reg.thFlags 3 = true ∧ t.heat.tripAt = s.linkTime ∧ t.slots = s.slots ∧ t.power = s.power) ∧
    (∀ (n : Slot) (c : SlotCast), CastsInRange s → cfgOf s n.val = some c → critDue s n.val = true →
      ∃ t, Sys2Proof.Machine.exec (.laserOvertemp n) s = .next t ∧ rbit t Reg.frGrace c.slot.port = true ∧
        lenPin t c.slot.port = false ∧ (slotAt t n.val).contain.any (fun x => x.cause == .overtemp && x.off) = true ∧
        rbit t Reg.thFlags 3 = true ∧ newestLog t = logWord .LASER_OVERTEMP clsEngine c.slot.port) ∧
    (powerLimit s < pkgPower s → s.heat.limited = false → ∃ t, Sys2Proof.Machine.exec .powerLimitApply s = .next t ∧
      t.heat = { s.heat with limited := true, limitAt := s.linkTime, below := 0 } ∧ t.regs = s.regs ∧ t.slots = s.slots) ∧
    (s.heat.limited = true → 100 ≤ s.heat.below → ∃ t, Sys2Proof.Machine.exec .powerLimitLift s = .next t ∧
      t.heat = { s.heat with limited := false } ∧ t.regs = s.regs ∧ t.slots = s.slots) ∧
    (s.heat.limited = true → powerLimit s < pkgPower s → 50 * msTicks ≤ since s s.heat.limitAt →
      ∃ t, Sys2Proof.Machine.exec .powerLimit s = .next t ∧ rbit t Reg.thFlags 2 = true ∧
        newestLog t = logWord .POWER_LIMIT clsPart 0 ∧ t.heat = s.heat ∧ t.slots = s.slots)

/-! ## Safety port -/

/-- The frame of R141 that answers a request of command cmd stands in the response register. -/
def Sys2Proof.Machine.sportAnswered (s t : State) (cmd : Byte) (q : SportReq) (st : Status) (extra : List Byte) : Prop :=
  t.hall.resp = sportFrame cmd q.seq q.slot (slotState t q.slot.toNat) st extra ∧ t.hall.lastResp = t.hall.resp ∧
  t.hall.lastSeq = some q.seq ∧ rbit t Reg.hlSportStat 1 = false ∧
  rfld t Reg.hlSportCnt 31 16 = min (rfld s Reg.hlSportCnt 31 16 + 1) 65535

/-- A request of a new sequence number on a slot with a Hallmark: what each command answers and changes. -/
def Obligations.SafetyPortCommands : Prop :=
  ∀ (s : State) (q : SportReq) (n : Nat), s.wf = true → CastsInRange s → powered s = true → s.hall.lastSeq ≠ some q.seq →
    n = q.slot.toNat → n < 8 → hasHall s n = true →
    (∃ t, Sys2Proof.Machine.exec (.nop q) s = .next t ∧ sportAnswered s t 0 q .OK [] ∧ t.slots = s.slots) ∧
    (∀ r, (slotAt s n).hall.ring[byteAt q.payload 0]? = some r → ∃ t, Sys2Proof.Machine.exec (.getSig q) s = .next t ∧
      sportAnswered s t 1 q .OK (sigRecBytes r) ∧ t.slots = s.slots) ∧
    ((slotAt s n).hall.ring[byteAt q.payload 0]? = none → ∃ t d, Sys2Proof.Machine.exec (.getSig q) s = .next t ∧
      sportAnswered s t 1 q .OK d ∧ d.length = 54 ∧ t.slots = s.slots) ∧
    (byteAt q.payload 0 ≠ 0 → byteAt q.payload 0 ≠ 8 → ∃ t, Sys2Proof.Machine.exec (.setScene q) s = .next t ∧
      sportAnswered s t 2 q .SPORT_CMD [] ∧ t.slots = s.slots) ∧
    (byteAt q.payload 0 = 0 ∨ byteAt q.payload 0 = 8 → ∃ t, Sys2Proof.Machine.exec (.setScene q) s = .next t ∧
      sportAnswered s t 2 q .OK [] ∧ (slotAt t n).hall.pend = (slotAt s n).hall.pend.take (byteAt q.payload 0) ++
        ((List.range 8).map fun j => sceneEntry q.payload (4 + 6 * j)) ++ (slotAt s n).hall.pend.drop (byteAt q.payload 0 + 8) ∧
      (slotAt t n).hall.active = (slotAt s n).hall.active ∧ ∀ k, k ≠ n → slotAt t k = slotAt s k) ∧
    (sceneStatus s n = .OK → projects (reckOf s n) = true → ∃ t, Sys2Proof.Machine.exec (.commitScene q) s = .next t ∧
      sportAnswered s t 3 q .OK (leBytes 2 ((slotAt s n).hall.gen.toNat + 1)) ∧
      (slotAt t n).hall.due.map (·.1) = some (slotAt s n).hall.pend ∧ (slotAt t n).hall.active = (slotAt s n).hall.active ∧
      ∀ k, k ≠ n → slotAt t k = slotAt s k) ∧
    (sceneStatus s n = .OK → projects (reckOf s n) = false → ∃ t, Sys2Proof.Machine.exec (.commitScene q) s = .next t ∧
      sportAnswered s t 3 q .OK (leBytes 2 ((slotAt s n).hall.gen.toNat + 1)) ∧ (slotAt t n).hall.due = none ∧
      (slotAt t n).hall.active = (slotAt s n).hall.pend ∧ (slotAt t n).hall.gen = (slotAt s n).hall.gen + 1 ∧
      ∀ k, k ≠ n → slotAt t k = slotAt s k) ∧
    (sceneStatus s n ≠ .OK → ∃ t, Sys2Proof.Machine.exec (.commitScene q) s = .next t ∧ sportAnswered s t 3 q (sceneStatus s n)
      (leBytes 2 ((slotAt s n).hall.gen.toNat + (if (slotAt s n).hall.due.isSome then 1 else 0))) ∧ t.slots = s.slots) ∧
    (1 < byteAt q.payload 0 → (∃ t, Sys2Proof.Machine.exec (.containDim q) s = .next t ∧ sportAnswered s t 7 q .SPORT_CMD [] ∧
        t.slots = s.slots) ∧
      ∃ t, Sys2Proof.Machine.exec (.containOff q) s = .next t ∧ sportAnswered s t 7 q .SPORT_CMD [] ∧ t.slots = s.slots) ∧
    (byteAt q.payload 0 = 0 → ∃ t, Sys2Proof.Machine.exec (.containDim q) s = .next t ∧ sportAnswered s t 7 q .OK [] ∧
      (slotAt t n).hall.contain = max (slotAt s n).hall.contain 1 ∧ ∀ k, k ≠ n → slotAt t k = slotAt s k) ∧
    (byteAt q.payload 0 = 1 → ∃ t, Sys2Proof.Machine.exec (.containOff q) s = .next t ∧ sportAnswered s t 7 q .OK [] ∧
      (slotAt t n).hall.contain = max (slotAt s n).hall.contain 2 ∧ lenPin t (portOf s n) = false) ∧
    ((slotAt s n).hall.ring.length < 2 → ∃ t, Sys2Proof.Machine.exec (.release q) s = .next t ∧
      sportAnswered s t 8 q .HALL_MISMATCH [] ∧ t.slots = s.slots) ∧
    (∀ a b l, (slotAt s n).hall.ring = a :: b :: l →
      (a.flags % 2 = 1 → b.flags % 2 = 1 → ∃ t, Sys2Proof.Machine.exec (.release q) s = .next t ∧ sportAnswered s t 8 q .OK [] ∧
        (slotAt t n).hall.release = true ∧ (slotAt t n).hall.containAfter = 0 ∧ (slotAt t n).hall.mismatchAfter = 0 ∧
        ∀ k, k ≠ n → slotAt t k = slotAt s k) ∧
      (a.flags % 2 = 0 ∨ b.flags % 2 = 0 → ∃ t, Sys2Proof.Machine.exec (.release q) s = .next t ∧
        sportAnswered s t 8 q .HALL_MISMATCH [] ∧ t.slots = s.slots))

/-- Port assets: begun, filled and sealed on a slot whose Cast allows the port to. -/
def Obligations.SafetyPortAssets : Prop :=
  ∀ (s : State) (q : SportReq) (n id : Nat), s.wf = true → powered s = true → s.hall.lastSeq ≠ some q.seq → n = q.slot.toNat → n < 8 →
    hasSport s n = true → id = byteAt q.payload 0 → portId id = true →
    (∀ w h, w = leAt q.payload 2 2 → h = leAt q.payload 4 2 → assetBusy s id = false →
      (w * h * 2 ≤ portFree s → ∃ t, Sys2Proof.Machine.exec (.paBegin q) s = .next t ∧
        sportAnswered s t 4 q .OK (leBytes 4 (portFree t)) ∧
        portAsset t id = some (id, w, h, false, List.replicate (w * h * 2) 0) ∧ (∀ j, j ≠ id → portAsset t j = portAsset s j) ∧
        t.slots = s.slots) ∧
      (portAsset s id = none → portFree s < w * h * 2 → ∃ t, Sys2Proof.Machine.exec (.paBegin q) s = .next t ∧
        sportAnswered s t 4 q .HALL_ASSET (leBytes 4 (portFree t)) ∧ t.hall.port = s.hall.port ∧ t.slots = s.slots)) ∧
    (assetBusy s id = true → ∃ t, Sys2Proof.Machine.exec (.paBegin q) s = .next t ∧
      sportAnswered s t 4 q .HALL_ASSET_BUSY (leBytes 4 (portFree t)) ∧ t.hall.port = s.hall.port ∧ t.slots = s.slots) ∧
    (∀ w h d o, portAsset s id = some (id, w, h, false, d) → assetBusy s id = false → o = leAt q.payload 4 4 → o % 48 = 0 →
      o < d.length →
      q.payload.length = 56 → ∃ t d', Sys2Proof.Machine.exec (.paData q) s = .next t ∧ sportAnswered s t 5 q .OK [] ∧
        portAsset t id = some (id, w, h, false, d') ∧ d'.length = d.length ∧
        (∀ j, j < d.length → d'[j]? = if o ≤ j ∧ j < o + 48 then q.payload[8 + (j - o)]? else d[j]?) ∧
        (∀ j, j ≠ id → portAsset t j = portAsset s j) ∧ t.slots = s.slots) ∧
    (∀ w h b d, portAsset s id = some (id, w, h, b, d) →
      ((crc32 d).toNat = leAt q.payload 4 4 → ∃ t, Sys2Proof.Machine.exec (.paSeal q) s = .next t ∧ sportAnswered s t 6 q .OK [] ∧
        portAsset t id = some (id, w, h, true, d) ∧ (∀ j, j ≠ id → portAsset t j = portAsset s j) ∧ t.slots = s.slots) ∧
      ((crc32 d).toNat ≠ leAt q.payload 4 4 → ∃ t, Sys2Proof.Machine.exec (.paSeal q) s = .next t ∧
        sportAnswered s t 6 q .HALL_ASSET [] ∧
        t.hall.port = s.hall.port ∧ t.slots = s.slots))

/-- Requests that are repeated or name no Hallmark, transactions that are discarded, and a port that falls silent. -/
def Obligations.SafetyPortFrames : Prop :=
  ∀ s : State, s.wf = true → powered s = true →
    (∀ (q : SportReq) (c : Instr), c ∈ [Instr.nop q, .getSig q, .setScene q, .commitScene q, .paBegin q, .paData q, .paSeal q,
        .containDim q, .containOff q, .release q] →
      (s.hall.lastSeq = some q.seq → ∃ t, Sys2Proof.Machine.exec c s = .next t ∧ t.hall = { s.hall with resp := s.hall.lastResp } ∧
        t.slots = s.slots) ∧
      (s.hall.lastSeq ≠ some q.seq → 8 ≤ q.slot.toNat ∨ hasHall s q.slot.toNat = false →
        ∃ t cmd, Sys2Proof.Machine.exec c s = .next t ∧
        sportAnswered s t cmd q .HALL_NONE [] ∧ t.slots = s.slots ∧ t.hall.port = s.hall.port)) ∧
    (∃ t, Sys2Proof.Machine.exec .sportCsStuck s = .next t ∧ t.hall = { s.hall with resp := sportFrame 0 0 0 3 .SPORT_FRAME [] } ∧
      rfld t Reg.hlSportCnt 15 0 = min (rfld s Reg.hlSportCnt 15 0 + 1) 65535 ∧ (∀ a, a ≠ Reg.hlSportCnt → reg t a = reg s a) ∧
      t.slots = s.slots) ∧
    (∃ t, Sys2Proof.Machine.exec (.sportBadFrame .length) s = .next t ∧
      t.hall = { s.hall with resp := sportFrame 0 0 0 3 .SPORT_FRAME [] } ∧
      rfld t Reg.hlSportCnt 15 0 = min (rfld s Reg.hlSportCnt 15 0 + 1) 65535 ∧ t.slots = s.slots) ∧
    (∀ cmd seq slot : Byte, ∃ t, Sys2Proof.Machine.exec (.sportBadFrame (.crc cmd seq slot)) s = .next t ∧
      t.hall = { s.hall with resp := sportFrame cmd seq slot (slotState s slot.toNat) .SPORT_CRC [] } ∧
      rfld t Reg.hlSportCnt 15 0 = min (rfld s Reg.hlSportCnt 15 0 + 1) 65535 ∧ t.slots = s.slots) ∧
    (∀ (k : Fin 247) (seq slot : Byte),
      (s.hall.lastSeq ≠ some seq → ∃ t, Sys2Proof.Machine.exec (.sportBadFrame (.unknownCmd k seq slot)) s = .next t ∧
        t.hall = { s.hall with resp := sportFrame (BitVec.ofNat 8 (9 + k.val)) seq slot (slotState s slot.toNat) .SPORT_CMD [] } ∧
        rbit t Reg.hlSportStat 1 = false ∧ t.slots = s.slots) ∧
      (s.hall.lastSeq = some seq → ∃ t, Sys2Proof.Machine.exec (.sportBadFrame (.unknownCmd k seq slot)) s = .next t ∧
        t.hall = { s.hall with resp := s.hall.lastResp } ∧ rbit t Reg.hlSportStat 1 = false ∧ t.slots = s.slots)) ∧
    ((List.range 8).any (hasHall s) = true → rbit s Reg.hlSportStat 1 = false → ∃ t, Sys2Proof.Machine.exec .sportSilent s = .next t ∧
      rbit t Reg.hlSportStat 1 = true ∧ newestLog t = logWord .SPORT_SILENT clsSport 0 ∧ t.slots = s.slots ∧ t.hall = s.hall)

/-- The bytes of a request spell its command: the CMD byte, SEQ, SLOT, the payload and the CRC over bytes 0 to 59 stand where R140 puts
them, and a transaction of another length or with another CRC spells none. -/
def Obligations.RequestBytesSpellCommands : Prop :=
  (∀ q : SportReq, q.payload.length = 56 →
    sportInstr (requestFrame 0 q) = .nop q ∧ sportInstr (requestFrame 1 q) = .getSig q ∧
    sportInstr (requestFrame 2 q) = .setScene q ∧ sportInstr (requestFrame 3 q) = .commitScene q ∧
    sportInstr (requestFrame 4 q) = .paBegin q ∧ sportInstr (requestFrame 5 q) = .paData q ∧
    sportInstr (requestFrame 6 q) = .paSeal q ∧ sportInstr (requestFrame 8 q) = .release q ∧
    (byteAt q.payload 0 = 1 → sportInstr (requestFrame 7 q) = .containOff q) ∧
    (byteAt q.payload 0 ≠ 1 → sportInstr (requestFrame 7 q) = .containDim q) ∧
    ∀ k : Fin 247, sportInstr (requestFrame (BitVec.ofNat 8 (9 + k.val)) q) = .sportBadFrame (.unknownCmd k q.seq q.slot)) ∧
  ∀ b : List Byte, (b.length ≠ 64 → sportInstr b = .sportBadFrame .length) ∧
    (b.length = 64 → (crc32 (b.take 60)).toNat ≠ leAt b 60 4 →
      sportInstr b = .sportBadFrame (.crc (b.getD 0 0) (b.getD 1 0) (b.getD 2 0)))

/-! ## Two rules whole -/

/-- R8: a host write anywhere in the HL range is dropped whatever lies at the offset; an aligned one is logged as HALL_WRITE
and any other as ACCESS_WIDTH (R4). -/
def Obligations.HallWritesDropped : Prop :=
  ∀ (s : State) (off : BitVec 26) (size : Nat) (v : Word), s.wf = true → powered s = true → 0x400000 ≤ off.toNat →
    off.toNat < 0x500000 →
    ∃ t, Sys2Proof.Machine.exec (.registerWrite .bar0 off size (.write v)) s = .next t ∧
      newestLog t = logWord (if size = 4 ∧ off.toNat % 4 = 0 then .HALL_WRITE else .ACCESS_WIDTH) clsHost 0 ∧
      (∀ a, ¬ logArea a → reg t a = reg s a) ∧ t.slots = s.slots ∧ t.hall = s.hall ∧ t.dram = s.dram ∧ t.bar4 = s.bar4 ∧
      t.pitchAct = s.pitchAct

/-- R80: a write of TFn_HORIZON stores the lead plus 640 where it is below that, and 32,000 where it is above 32,000.
The two bounds do not cross (log entry 72). -/
def Obligations.HorizonClamp : Prop :=
  ∀ (s : State) (n : Slot) (off : BitVec 26) (v : Word) (least : Nat), s.wf = true → off.toNat = Reg.tfHorizon n.val →
    hostOpen s (Reg.tfHorizon n.val) = true → least = rfld s (Reg.epLead (portOf s n.val)) 15 0 + 640 → least ≤ 32000 →
    ∃ t, Sys2Proof.Machine.exec (.registerWrite .bar0 off 4 (.write v)) s = .next t ∧
      rfld t (Reg.tfHorizon n.val) 15 0 = (if fld v 15 0 < least then least else if 32000 < fld v 15 0 then 32000 else fld v 15 0) ∧
      rfld t (Reg.tfHorizon n.val) 31 16 = 0 ∧ (∀ a, a ≠ Reg.tfHorizon n.val → reg t a = reg s a) ∧ t.slots = s.slots
end

