-- ==== Sys2Proof/Laws/Sparse.lean ====
section
/-! SUPPORT. Laws of the sparse stores: a read after a write, and every write keeps the canonical form. -/

set_option Elab.async false

namespace Sys2Proof.Machine

/-- Every address of a list lies above k. -/
def above {α : Type} (k : Nat) (m : List (Nat × α)) : Prop := ∀ e ∈ m, k < e.1

theorem rising_cons {α : Type} {a : Nat} {x : α} {m : List (Nat × α)} :
    rising ((a, x) :: m) = true ↔ above a m ∧ rising m = true := by
  induction m generalizing a x with
  | nil => simp [rising, above]
  | cons e m ih =>
    obtain ⟨b, y⟩ := e
    rw [rising, Bool.and_eq_true, decide_eq_true_eq]
    constructor
    · rintro ⟨h, r⟩
      refine ⟨?_, r⟩
      intro e he
      rcases List.mem_cons.1 he with rfl | he
      · exact h
      · exact lt_trans h ((ih.1 r).1 e he)
    · rintro ⟨h, r⟩
      exact ⟨h (b, y) (by simp), r⟩

theorem above_insert {α : Type} {k a : Nat} {v : α} {m : List (Nat × α)} (h : above k m) (ha : k < a) :
    above k (insert m a v) := by
  induction m with
  | nil => intro e he; simp [insert] at he; subst he; exact ha
  | cons e m ih =>
    obtain ⟨b, x⟩ := e
    have hb : k < b := h (b, x) (by simp)
    have hm : above k m := fun e he => h e (by simp [he])
    unfold insert
    split
    · intro e he
      rcases List.mem_cons.1 he with rfl | he
      · exact ha
      · exact h e he
    · split
      · intro e he
        rcases List.mem_cons.1 he with rfl | he
        · exact ha
        · exact hm e he
      · intro e he
        rcases List.mem_cons.1 he with rfl | he
        · exact hb
        · exact ih hm e he

theorem above_erase {α : Type} {k a : Nat} {m : List (Nat × α)} (h : above k m) : above k (erase m a) := by
  induction m with
  | nil => simpa [erase] using h
  | cons e m ih =>
    obtain ⟨b, x⟩ := e
    have hm : above k m := fun e he => h e (by simp [he])
    unfold erase
    split
    · exact hm
    · split
      · exact h
      · intro e he
        rcases List.mem_cons.1 he with rfl | he
        · exact h _ (by simp)
        · exact ih hm e he

theorem rising_insert {α : Type} {a : Nat} {v : α} {m : List (Nat × α)} (h : rising m = true) :
    rising (insert m a v) = true := by
  induction m with
  | nil => rfl
  | cons e m ih =>
    obtain ⟨b, x⟩ := e
    obtain ⟨hab, hm⟩ := rising_cons.1 h
    unfold insert
    split
    · next hlt =>
      refine rising_cons.2 ⟨?_, h⟩
      intro e he
      rcases List.mem_cons.1 he with rfl | he
      · exact hlt
      · exact lt_trans hlt (hab e he)
    · split
      · next heq => subst heq; exact rising_cons.2 ⟨hab, hm⟩
      · exact rising_cons.2 ⟨above_insert hab (by omega), ih hm⟩

theorem rising_erase {α : Type} {a : Nat} {m : List (Nat × α)} (h : rising m = true) : rising (erase m a) = true := by
  induction m with
  | nil => rfl
  | cons e m ih =>
    obtain ⟨b, x⟩ := e
    obtain ⟨hab, hm⟩ := rising_cons.1 h
    unfold erase
    split
    · exact hm
    · split
      · exact h
      · exact rising_cons.2 ⟨above_erase hab, ih hm⟩

theorem rising_filter {α : Type} (p : Nat × α → Bool) {m : List (Nat × α)} (h : rising m = true) :
    rising (m.filter p) = true := by
  induction m with
  | nil => rfl
  | cons e m ih =>
    obtain ⟨b, x⟩ := e
    obtain ⟨hab, hm⟩ := rising_cons.1 h
    rw [List.filter_cons]
    split
    · exact rising_cons.2 ⟨fun e he => hab e (List.mem_filter.1 he).1, ih hm⟩
    · exact ih hm

theorem find?_above {α : Type} {k : Nat} {m : List (Nat × α)} (h : above k m) : find? m k = none := by
  cases m with
  | nil => rfl
  | cons e m =>
    obtain ⟨b, x⟩ := e
    have := h (b, x) (by simp)
    simp only at this
    unfold find?
    rw [if_neg (by omega), if_pos this]

theorem find?_insert_same {α : Type} (m : List (Nat × α)) (a : Nat) (v : α) : find? (insert m a v) a = some v := by
  induction m with
  | nil => simp [insert, find?]
  | cons e m ih =>
    obtain ⟨b, x⟩ := e
    unfold insert
    split
    · simp [find?]
    · split
      · simp [find?]
      · next h1 h2 => simp [find?, h2, h1, ih]

theorem find?_insert_ne {α : Type} (m : List (Nat × α)) {a k : Nat} (v : α) (hk : k ≠ a) :
    find? (insert m a v) k = find? m k := by
  induction m with
  | nil => simp [insert, find?, Ne.symm hk]
  | cons e m ih =>
    obtain ⟨b, x⟩ := e
    unfold insert
    split
    · next h =>
      simp only [find?, if_neg (Ne.symm hk)]
      by_cases hka : k < a
      · simp [hka, show b ≠ k by omega, show k < b by omega]
      · simp [hka]
    · split
      · next h1 h2 =>
        subst h2
        simp [find?, Ne.symm hk]
      · simp only [find?, ih]

theorem find?_erase_same {α : Type} {m : List (Nat × α)} {a : Nat} (h : rising m = true) : find? (erase m a) a = none := by
  induction m with
  | nil => rfl
  | cons e m ih =>
    obtain ⟨b, x⟩ := e
    obtain ⟨hab, hm⟩ := rising_cons.1 h
    unfold erase
    split
    · next h => subst h; exact find?_above hab
    · split
      · next h1 h2 => simp [find?, h1, h2]
      · next h1 h2 => simp only [find?, if_neg h1, if_neg h2]; exact ih hm

theorem find?_erase_ne {α : Type} {m : List (Nat × α)} {a k : Nat} (h : rising m = true) (hk : k ≠ a) :
    find? (erase m a) k = find? m k := by
  induction m with
  | nil => rfl
  | cons e m ih =>
    obtain ⟨b, x⟩ := e
    obtain ⟨hab, hm⟩ := rising_cons.1 h
    unfold erase
    split
    · next h =>
      subst h
      by_cases hkb : k < b
      · rw [find?_above (fun e he => lt_trans hkb (hab e he))]
        simp [find?, Ne.symm hk, hkb]
      · simp [find?, Ne.symm hk, hkb]
    · split
      · rfl
      · simp only [find?, ih hm]

/-- A write is read back. -/
theorem SMap.get_set_same {w : Nat} {m : SMap w} {a : Nat} {v : BitVec w} (h : rising m = true) : (m.set a v).get a = v := by
  unfold SMap.get SMap.set
  split
  · next hv => rw [find?_erase_same h]; simp [hv]
  · rw [find?_insert_same]; rfl

/-- A write leaves every other word alone. -/
theorem SMap.get_set_ne {w : Nat} {m : SMap w} {a k : Nat} {v : BitVec w} (h : rising m = true) (hk : k ≠ a) :
    (m.set a v).get k = m.get k := by
  unfold SMap.get SMap.set
  split
  · rw [find?_erase_ne h hk]
  · rw [find?_insert_ne m v hk]

theorem mem_insert {α : Type} {m : List (Nat × α)} {a : Nat} {v : α} {e : Nat × α} (h : e ∈ insert m a v) :
    e = (a, v) ∨ e ∈ m := by
  induction m with
  | nil => simpa [insert] using h
  | cons x m ih =>
    obtain ⟨b, y⟩ := x
    unfold insert at h
    split at h
    · simpa using h
    · split at h
      · rcases List.mem_cons.1 h with h | h
        · exact .inl h
        · exact .inr (by simp [h])
      · rcases List.mem_cons.1 h with h | h
        · exact .inr (by simp [h])
        · exact (ih h).imp id (fun h => by simp [h])

theorem mem_erase {α : Type} {m : List (Nat × α)} {a : Nat} {e : Nat × α} (h : e ∈ erase m a) : e ∈ m := by
  induction m with
  | nil => simp [erase] at h
  | cons x m ih =>
    obtain ⟨b, y⟩ := x
    unfold erase at h
    split at h
    · simp [h]
    · split at h
      · exact h
      · rcases List.mem_cons.1 h with h | h
        · simp [h]
        · simp [ih h]

theorem SMap.wf_iff {w : Nat} {m : SMap w} : m.wf = true ↔ rising m = true ∧ ∀ e ∈ m, e.2 ≠ 0 := by
  simp [SMap.wf, List.all_eq_true]

theorem SMap.wf_rising {w : Nat} {m : SMap w} (h : m.wf = true) : rising m = true := (SMap.wf_iff.1 h).1

/-- A write keeps the canonical form. -/
theorem SMap.wf_set {w : Nat} {m : SMap w} (a : Nat) (v : BitVec w) (h : m.wf = true) : (m.set a v).wf = true := by
  obtain ⟨hr, hn⟩ := SMap.wf_iff.1 h
  unfold SMap.set
  split
  · exact SMap.wf_iff.2 ⟨rising_erase hr, fun e he => hn e (mem_erase he)⟩
  · next hv =>
    refine SMap.wf_iff.2 ⟨rising_insert hr, fun e he => ?_⟩
    rcases mem_insert he with rfl | he
    · exact hv
    · exact hn e he

theorem SMap.wf_setAll {w : Nat} (l : List (Nat × BitVec w)) {m : SMap w} (h : m.wf = true) : (m.setAll l).wf = true := by
  induction l generalizing m with
  | nil => exact h
  | cons e l ih => exact ih (SMap.wf_set _ _ h)

theorem SMap.wf_filter {w : Nat} (p : Nat × BitVec w → Bool) {m : SMap w} (h : m.wf = true) :
    SMap.wf (m.filter p) = true := by
  obtain ⟨hr, hn⟩ := SMap.wf_iff.1 h
  exact SMap.wf_iff.2 ⟨rising_filter p hr, fun e he => hn e (List.mem_filter.1 he).1⟩

theorem SMap.wf_clearRange {w : Nat} (lo hi : Nat) {m : SMap w} (h : m.wf = true) : (m.clearRange lo hi).wf = true :=
  SMap.wf_filter _ h

end Sys2Proof.Machine
end

