-- ==== Sys2Proof/Laws/Dram.lean ====
section
/-! SUPPORT. What a read of package DRAM gives after a write, and the pieces of a window access within one block. -/

set_option Elab.async false

namespace Sys2Proof.Machine

theorem find?_dramStore (off : Nat → Bool) (m : List (Nat × Byte)) (a : Nat) (bs : List Byte) (k : Nat) :
    find? (dramStore off m a bs) k = if a ≤ k ∧ k < a + bs.length ∧ off k = false then bs[k - a]? else find? m k := by
  induction bs generalizing m a with
  | nil => simp only [dramStore, List.length_nil]; rw [if_neg (by omega)]
  | cons b bs ih =>
    simp only [dramStore, List.length_cons]
    rw [ih]
    have hi : find? (if off a then m else insert m a b) k = if k = a ∧ off k = false then some b else find? m k := by
      by_cases hk : k = a
      · subst hk
        cases ho : off k <;> simp [find?_insert_same]
      · have : ¬ (k = a ∧ off k = false) := fun h => hk h.1
        rw [if_neg this]
        cases off a
        · exact find?_insert_ne m b hk
        · rfl
    rw [hi]
    cases ho : off k
    · by_cases hk : k = a
      · subst hk
        simp
      · by_cases hr : a + 1 ≤ k ∧ k < a + 1 + bs.length
        · rw [if_pos ⟨hr.1, hr.2, rfl⟩, if_pos ⟨by omega, by omega, rfl⟩, show k - a = (k - (a + 1)) + 1 by omega]; simp
        · rw [if_neg (fun h => hr ⟨h.1, h.2.1⟩), if_neg (fun h => hk h.1), if_neg (fun h => hr ⟨by omega, by omega⟩)]
    · simp

/-- A byte after a write: the byte written where the address is in service, the old one elsewhere. -/
theorem dramByte_dramWrite (s : State) (a : Nat) (bs : List Byte) (k : Nat) :
    dramByte (dramWrite a bs s) k =
      if a ≤ k ∧ k < a + bs.length ∧ dramOff s k = false then (bs[k - a]?).getD 0 else dramByte s k := by
  have e : dramOff (dramWrite a bs s) k = dramOff s k := rfl
  unfold dramByte
  rw [e]
  by_cases ho : dramOff s k = true
  · simp [ho]
  · have ho' : dramOff s k = false := by simpa using ho
    simp only [ho', Bool.false_eq_true, if_false]
    rw [show (dramWrite a bs s).dram = dramStore (dramOff s) s.dram a bs from rfl, find?_dramStore, ho']
    by_cases hr : a ≤ k ∧ k < a + bs.length
    · rw [if_pos ⟨hr.1, hr.2, rfl⟩, if_pos ⟨hr.1, hr.2, trivial⟩, List.getElem?_eq_getElem (by omega)]; rfl
    · rw [if_neg (fun h => hr ⟨h.1, h.2.1⟩), if_neg (fun h => hr ⟨h.1, h.2.1⟩)]; rfl

/-- An access that lies in one block is one piece. -/
theorem pieces_one {off len : Nat} (h0 : 0 < len) (h : off % 65536 + len ≤ 65536) : pieces off len = [(off / 65536, 0, len)] := by
  obtain ⟨b, r, hr, rfl⟩ : ∃ b r, r < 65536 ∧ off = b * 65536 + r := ⟨off / 65536, off % 65536, by omega, by omega⟩
  have hb : (b * 65536 + r) / 65536 = b := by omega
  have hl : len / 65536 + 2 = 2 ∨ len / 65536 + 2 = 3 := by omega
  have g : ∀ i, max (b * 65536 + r) ((b + i) * 65536) - (b * 65536 + r) = (if i = 0 then 0 else i * 65536 - r) ∧
      min (b * 65536 + r + len) ((b + i + 1) * 65536) - max (b * 65536 + r) ((b + i) * 65536) = if i = 0 then len else 0 := by
    intro i
    rcases i with _ | i
    · rw [if_pos rfl, if_pos rfl]; omega
    · rw [if_neg (by omega), if_neg (by omega)]; omega
  unfold pieces
  rw [hb]
  have e : ((List.range (len / 65536 + 2)).map fun i => (b + i, max (b * 65536 + r) ((b + i) * 65536) - (b * 65536 + r),
      min (b * 65536 + r + len) ((b + i + 1) * 65536) - max (b * 65536 + r) ((b + i) * 65536))) =
      (List.range (len / 65536 + 2)).map fun i => (b + i, (if i = 0 then 0 else i * 65536 - r), if i = 0 then len else 0) := by
    refine List.map_congr_left fun i _ => ?_
    rw [(g i).1, (g i).2]
  have hn : (len != 0) = true := by rw [bne_iff_ne]; omega
  dsimp only
  rw [e]
  rcases hl with e | e <;> rw [e] <;> simp [List.range_succ, hn]

end Sys2Proof.Machine
end

