-- ==== Sys2Proof/Laws/State.lean ====
section
/-! SUPPORT. What each named update of State leaves as it was, one lemma per field, and what a read gives after a write. -/

set_option Elab.async false

namespace Sys2Proof.Machine

/-! ## Fields an update leaves -/

@[simp] theorem setReg_pending (a : Nat) (v : Word) (s : State) : (setReg a v s).pending = s.pending := rfl
@[simp] theorem setReg_linkTime (a : Nat) (v : Word) (s : State) : (setReg a v s).linkTime = s.linkTime := rfl
@[simp] theorem setReg_pitchAct (a : Nat) (v : Word) (s : State) : (setReg a v s).pitchAct = s.pitchAct := rfl
@[simp] theorem setReg_dram (a : Nat) (v : Word) (s : State) : (setReg a v s).dram = s.dram := rfl
@[simp] theorem setReg_dramEpoch (a : Nat) (v : Word) (s : State) : (setReg a v s).dramEpoch = s.dramEpoch := rfl
@[simp] theorem setReg_bar4 (a : Nat) (v : Word) (s : State) : (setReg a v s).bar4 = s.bar4 := rfl
@[simp] theorem setReg_busData (a : Nat) (v : Word) (s : State) : (setReg a v s).busData = s.busData := rfl
@[simp] theorem setReg_out (a : Nat) (v : Word) (s : State) : (setReg a v s).out = s.out := rfl
@[simp] theorem setReg_freeCount (a : Nat) (v : Word) (s : State) : (setReg a v s).freeCount = s.freeCount := rfl
@[simp] theorem setReg_a8 (a : Nat) (v : Word) (s : State) : (setReg a v s).a8 = s.a8 := rfl
@[simp] theorem setReg_corePh (a : Nat) (v : Word) (s : State) : (setReg a v s).corePh = s.corePh := rfl
@[simp] theorem setReg_cast (a : Nat) (v : Word) (s : State) : (setReg a v s).cast = s.cast := rfl
@[simp] theorem setReg_slots (a : Nat) (v : Word) (s : State) : (setReg a v s).slots = s.slots := rfl
@[simp] theorem setReg_ports (a : Nat) (v : Word) (s : State) : (setReg a v s).ports = s.ports := rfl
@[simp] theorem setReg_hall (a : Nat) (v : Word) (s : State) : (setReg a v s).hall = s.hall := rfl
@[simp] theorem setReg_power (a : Nat) (v : Word) (s : State) : (setReg a v s).power = s.power := rfl
@[simp] theorem setReg_fr (a : Nat) (v : Word) (s : State) : (setReg a v s).fr = s.fr := rfl
@[simp] theorem setReg_mail (a : Nat) (v : Word) (s : State) : (setReg a v s).mail = s.mail := rfl
@[simp] theorem setReg_codec (a : Nat) (v : Word) (s : State) : (setReg a v s).codec = s.codec := rfl
@[simp] theorem setReg_chans (a : Nat) (v : Word) (s : State) : (setReg a v s).chans = s.chans := rfl
@[simp] theorem setReg_page (a : Nat) (v : Word) (s : State) : (setReg a v s).page = s.page := rfl
@[simp] theorem setReg_mc (a : Nat) (v : Word) (s : State) : (setReg a v s).mc = s.mc := rfl
@[simp] theorem setReg_heat (a : Nat) (v : Word) (s : State) : (setReg a v s).heat = s.heat := rfl
@[simp] theorem setReg_sb (a : Nat) (v : Word) (s : State) : (setReg a v s).sb = s.sb := rfl
@[simp] theorem setReg_loops (a : Nat) (v : Word) (s : State) : (setReg a v s).loops = s.loops := rfl

@[simp] theorem setRegs_pending (l : List (Nat × Word)) (s : State) : (setRegs l s).pending = s.pending := rfl
@[simp] theorem setRegs_linkTime (l : List (Nat × Word)) (s : State) : (setRegs l s).linkTime = s.linkTime := rfl
@[simp] theorem setRegs_pitchAct (l : List (Nat × Word)) (s : State) : (setRegs l s).pitchAct = s.pitchAct := rfl
@[simp] theorem setRegs_dram (l : List (Nat × Word)) (s : State) : (setRegs l s).dram = s.dram := rfl
@[simp] theorem setRegs_dramEpoch (l : List (Nat × Word)) (s : State) : (setRegs l s).dramEpoch = s.dramEpoch := rfl
@[simp] theorem setRegs_bar4 (l : List (Nat × Word)) (s : State) : (setRegs l s).bar4 = s.bar4 := rfl
@[simp] theorem setRegs_busData (l : List (Nat × Word)) (s : State) : (setRegs l s).busData = s.busData := rfl
@[simp] theorem setRegs_out (l : List (Nat × Word)) (s : State) : (setRegs l s).out = s.out := rfl
@[simp] theorem setRegs_freeCount (l : List (Nat × Word)) (s : State) : (setRegs l s).freeCount = s.freeCount := rfl
@[simp] theorem setRegs_a8 (l : List (Nat × Word)) (s : State) : (setRegs l s).a8 = s.a8 := rfl
@[simp] theorem setRegs_corePh (l : List (Nat × Word)) (s : State) : (setRegs l s).corePh = s.corePh := rfl
@[simp] theorem setRegs_cast (l : List (Nat × Word)) (s : State) : (setRegs l s).cast = s.cast := rfl
@[simp] theorem setRegs_slots (l : List (Nat × Word)) (s : State) : (setRegs l s).slots = s.slots := rfl
@[simp] theorem setRegs_ports (l : List (Nat × Word)) (s : State) : (setRegs l s).ports = s.ports := rfl
@[simp] theorem setRegs_hall (l : List (Nat × Word)) (s : State) : (setRegs l s).hall = s.hall := rfl
@[simp] theorem setRegs_power (l : List (Nat × Word)) (s : State) : (setRegs l s).power = s.power := rfl
@[simp] theorem setRegs_fr (l : List (Nat × Word)) (s : State) : (setRegs l s).fr = s.fr := rfl
@[simp] theorem setRegs_mail (l : List (Nat × Word)) (s : State) : (setRegs l s).mail = s.mail := rfl
@[simp] theorem setRegs_codec (l : List (Nat × Word)) (s : State) : (setRegs l s).codec = s.codec := rfl
@[simp] theorem setRegs_chans (l : List (Nat × Word)) (s : State) : (setRegs l s).chans = s.chans := rfl
@[simp] theorem setRegs_page (l : List (Nat × Word)) (s : State) : (setRegs l s).page = s.page := rfl
@[simp] theorem setRegs_mc (l : List (Nat × Word)) (s : State) : (setRegs l s).mc = s.mc := rfl
@[simp] theorem setRegs_heat (l : List (Nat × Word)) (s : State) : (setRegs l s).heat = s.heat := rfl
@[simp] theorem setRegs_sb (l : List (Nat × Word)) (s : State) : (setRegs l s).sb = s.sb := rfl
@[simp] theorem setRegs_loops (l : List (Nat × Word)) (s : State) : (setRegs l s).loops = s.loops := rfl

@[simp] theorem setFld_pending (a hi lo x : Nat) (s : State) : (setFld a hi lo x s).pending = s.pending := rfl
@[simp] theorem setFld_linkTime (a hi lo x : Nat) (s : State) : (setFld a hi lo x s).linkTime = s.linkTime := rfl
@[simp] theorem setFld_pitchAct (a hi lo x : Nat) (s : State) : (setFld a hi lo x s).pitchAct = s.pitchAct := rfl
@[simp] theorem setFld_dram (a hi lo x : Nat) (s : State) : (setFld a hi lo x s).dram = s.dram := rfl
@[simp] theorem setFld_dramEpoch (a hi lo x : Nat) (s : State) : (setFld a hi lo x s).dramEpoch = s.dramEpoch := rfl
@[simp] theorem setFld_bar4 (a hi lo x : Nat) (s : State) : (setFld a hi lo x s).bar4 = s.bar4 := rfl
@[simp] theorem setFld_busData (a hi lo x : Nat) (s : State) : (setFld a hi lo x s).busData = s.busData := rfl
@[simp] theorem setFld_out (a hi lo x : Nat) (s : State) : (setFld a hi lo x s).out = s.out := rfl
@[simp] theorem setFld_freeCount (a hi lo x : Nat) (s : State) : (setFld a hi lo x s).freeCount = s.freeCount := rfl
@[simp] theorem setFld_a8 (a hi lo x : Nat) (s : State) : (setFld a hi lo x s).a8 = s.a8 := rfl
@[simp] theorem setFld_corePh (a hi lo x : Nat) (s : State) : (setFld a hi lo x s).corePh = s.corePh := rfl
@[simp] theorem setFld_cast (a hi lo x : Nat) (s : State) : (setFld a hi lo x s).cast = s.cast := rfl
@[simp] theorem setFld_slots (a hi lo x : Nat) (s : State) : (setFld a hi lo x s).slots = s.slots := rfl
@[simp] theorem setFld_ports (a hi lo x : Nat) (s : State) : (setFld a hi lo x s).ports = s.ports := rfl
@[simp] theorem setFld_hall (a hi lo x : Nat) (s : State) : (setFld a hi lo x s).hall = s.hall := rfl
@[simp] theorem setFld_power (a hi lo x : Nat) (s : State) : (setFld a hi lo x s).power = s.power := rfl
@[simp] theorem setFld_fr (a hi lo x : Nat) (s : State) : (setFld a hi lo x s).fr = s.fr := rfl
@[simp] theorem setFld_mail (a hi lo x : Nat) (s : State) : (setFld a hi lo x s).mail = s.mail := rfl
@[simp] theorem setFld_codec (a hi lo x : Nat) (s : State) : (setFld a hi lo x s).codec = s.codec := rfl
@[simp] theorem setFld_chans (a hi lo x : Nat) (s : State) : (setFld a hi lo x s).chans = s.chans := rfl
@[simp] theorem setFld_page (a hi lo x : Nat) (s : State) : (setFld a hi lo x s).page = s.page := rfl
@[simp] theorem setFld_mc (a hi lo x : Nat) (s : State) : (setFld a hi lo x s).mc = s.mc := rfl
@[simp] theorem setFld_heat (a hi lo x : Nat) (s : State) : (setFld a hi lo x s).heat = s.heat := rfl
@[simp] theorem setFld_sb (a hi lo x : Nat) (s : State) : (setFld a hi lo x s).sb = s.sb := rfl
@[simp] theorem setFld_loops (a hi lo x : Nat) (s : State) : (setFld a hi lo x s).loops = s.loops := rfl

@[simp] theorem setBit_pending (a i : Nat) (b : Bool) (s : State) : (setBit a i b s).pending = s.pending := rfl
@[simp] theorem setBit_linkTime (a i : Nat) (b : Bool) (s : State) : (setBit a i b s).linkTime = s.linkTime := rfl
@[simp] theorem setBit_pitchAct (a i : Nat) (b : Bool) (s : State) : (setBit a i b s).pitchAct = s.pitchAct := rfl
@[simp] theorem setBit_dram (a i : Nat) (b : Bool) (s : State) : (setBit a i b s).dram = s.dram := rfl
@[simp] theorem setBit_dramEpoch (a i : Nat) (b : Bool) (s : State) : (setBit a i b s).dramEpoch = s.dramEpoch := rfl
@[simp] theorem setBit_bar4 (a i : Nat) (b : Bool) (s : State) : (setBit a i b s).bar4 = s.bar4 := rfl
@[simp] theorem setBit_busData (a i : Nat) (b : Bool) (s : State) : (setBit a i b s).busData = s.busData := rfl
@[simp] theorem setBit_out (a i : Nat) (b : Bool) (s : State) : (setBit a i b s).out = s.out := rfl
@[simp] theorem setBit_freeCount (a i : Nat) (b : Bool) (s : State) : (setBit a i b s).freeCount = s.freeCount := rfl
@[simp] theorem setBit_a8 (a i : Nat) (b : Bool) (s : State) : (setBit a i b s).a8 = s.a8 := rfl
@[simp] theorem setBit_corePh (a i : Nat) (b : Bool) (s : State) : (setBit a i b s).corePh = s.corePh := rfl
@[simp] theorem setBit_cast (a i : Nat) (b : Bool) (s : State) : (setBit a i b s).cast = s.cast := rfl
@[simp] theorem setBit_slots (a i : Nat) (b : Bool) (s : State) : (setBit a i b s).slots = s.slots := rfl
@[simp] theorem setBit_ports (a i : Nat) (b : Bool) (s : State) : (setBit a i b s).ports = s.ports := rfl
@[simp] theorem setBit_hall (a i : Nat) (b : Bool) (s : State) : (setBit a i b s).hall = s.hall := rfl
@[simp] theorem setBit_power (a i : Nat) (b : Bool) (s : State) : (setBit a i b s).power = s.power := rfl
@[simp] theorem setBit_fr (a i : Nat) (b : Bool) (s : State) : (setBit a i b s).fr = s.fr := rfl
@[simp] theorem setBit_mail (a i : Nat) (b : Bool) (s : State) : (setBit a i b s).mail = s.mail := rfl
@[simp] theorem setBit_codec (a i : Nat) (b : Bool) (s : State) : (setBit a i b s).codec = s.codec := rfl
@[simp] theorem setBit_chans (a i : Nat) (b : Bool) (s : State) : (setBit a i b s).chans = s.chans := rfl
@[simp] theorem setBit_page (a i : Nat) (b : Bool) (s : State) : (setBit a i b s).page = s.page := rfl
@[simp] theorem setBit_mc (a i : Nat) (b : Bool) (s : State) : (setBit a i b s).mc = s.mc := rfl
@[simp] theorem setBit_heat (a i : Nat) (b : Bool) (s : State) : (setBit a i b s).heat = s.heat := rfl
@[simp] theorem setBit_sb (a i : Nat) (b : Bool) (s : State) : (setBit a i b s).sb = s.sb := rfl
@[simp] theorem setBit_loops (a i : Nat) (b : Bool) (s : State) : (setBit a i b s).loops = s.loops := rfl

@[simp] theorem addSat_pending (a hi lo k : Nat) (s : State) : (addSat a hi lo k s).pending = s.pending := rfl
@[simp] theorem addSat_linkTime (a hi lo k : Nat) (s : State) : (addSat a hi lo k s).linkTime = s.linkTime := rfl
@[simp] theorem addSat_pitchAct (a hi lo k : Nat) (s : State) : (addSat a hi lo k s).pitchAct = s.pitchAct := rfl
@[simp] theorem addSat_dram (a hi lo k : Nat) (s : State) : (addSat a hi lo k s).dram = s.dram := rfl
@[simp] theorem addSat_dramEpoch (a hi lo k : Nat) (s : State) : (addSat a hi lo k s).dramEpoch = s.dramEpoch := rfl
@[simp] theorem addSat_bar4 (a hi lo k : Nat) (s : State) : (addSat a hi lo k s).bar4 = s.bar4 := rfl
@[simp] theorem addSat_busData (a hi lo k : Nat) (s : State) : (addSat a hi lo k s).busData = s.busData := rfl
@[simp] theorem addSat_out (a hi lo k : Nat) (s : State) : (addSat a hi lo k s).out = s.out := rfl
@[simp] theorem addSat_freeCount (a hi lo k : Nat) (s : State) : (addSat a hi lo k s).freeCount = s.freeCount := rfl
@[simp] theorem addSat_a8 (a hi lo k : Nat) (s : State) : (addSat a hi lo k s).a8 = s.a8 := rfl
@[simp] theorem addSat_corePh (a hi lo k : Nat) (s : State) : (addSat a hi lo k s).corePh = s.corePh := rfl
@[simp] theorem addSat_cast (a hi lo k : Nat) (s : State) : (addSat a hi lo k s).cast = s.cast := rfl
@[simp] theorem addSat_slots (a hi lo k : Nat) (s : State) : (addSat a hi lo k s).slots = s.slots := rfl
@[simp] theorem addSat_ports (a hi lo k : Nat) (s : State) : (addSat a hi lo k s).ports = s.ports := rfl
@[simp] theorem addSat_hall (a hi lo k : Nat) (s : State) : (addSat a hi lo k s).hall = s.hall := rfl
@[simp] theorem addSat_power (a hi lo k : Nat) (s : State) : (addSat a hi lo k s).power = s.power := rfl
@[simp] theorem addSat_fr (a hi lo k : Nat) (s : State) : (addSat a hi lo k s).fr = s.fr := rfl
@[simp] theorem addSat_mail (a hi lo k : Nat) (s : State) : (addSat a hi lo k s).mail = s.mail := rfl
@[simp] theorem addSat_codec (a hi lo k : Nat) (s : State) : (addSat a hi lo k s).codec = s.codec := rfl
@[simp] theorem addSat_chans (a hi lo k : Nat) (s : State) : (addSat a hi lo k s).chans = s.chans := rfl
@[simp] theorem addSat_page (a hi lo k : Nat) (s : State) : (addSat a hi lo k s).page = s.page := rfl
@[simp] theorem addSat_mc (a hi lo k : Nat) (s : State) : (addSat a hi lo k s).mc = s.mc := rfl
@[simp] theorem addSat_heat (a hi lo k : Nat) (s : State) : (addSat a hi lo k s).heat = s.heat := rfl
@[simp] theorem addSat_sb (a hi lo k : Nat) (s : State) : (addSat a hi lo k s).sb = s.sb := rfl
@[simp] theorem addSat_loops (a hi lo k : Nat) (s : State) : (addSat a hi lo k s).loops = s.loops := rfl

@[simp] theorem incSat_pending (a hi lo : Nat) (s : State) : (incSat a hi lo s).pending = s.pending := rfl
@[simp] theorem incSat_linkTime (a hi lo : Nat) (s : State) : (incSat a hi lo s).linkTime = s.linkTime := rfl
@[simp] theorem incSat_pitchAct (a hi lo : Nat) (s : State) : (incSat a hi lo s).pitchAct = s.pitchAct := rfl
@[simp] theorem incSat_dram (a hi lo : Nat) (s : State) : (incSat a hi lo s).dram = s.dram := rfl
@[simp] theorem incSat_dramEpoch (a hi lo : Nat) (s : State) : (incSat a hi lo s).dramEpoch = s.dramEpoch := rfl
@[simp] theorem incSat_bar4 (a hi lo : Nat) (s : State) : (incSat a hi lo s).bar4 = s.bar4 := rfl
@[simp] theorem incSat_busData (a hi lo : Nat) (s : State) : (incSat a hi lo s).busData = s.busData := rfl
@[simp] theorem incSat_out (a hi lo : Nat) (s : State) : (incSat a hi lo s).out = s.out := rfl
@[simp] theorem incSat_freeCount (a hi lo : Nat) (s : State) : (incSat a hi lo s).freeCount = s.freeCount := rfl
@[simp] theorem incSat_a8 (a hi lo : Nat) (s : State) : (incSat a hi lo s).a8 = s.a8 := rfl
@[simp] theorem incSat_corePh (a hi lo : Nat) (s : State) : (incSat a hi lo s).corePh = s.corePh := rfl
@[simp] theorem incSat_cast (a hi lo : Nat) (s : State) : (incSat a hi lo s).cast = s.cast := rfl
@[simp] theorem incSat_slots (a hi lo : Nat) (s : State) : (incSat a hi lo s).slots = s.slots := rfl
@[simp] theorem incSat_ports (a hi lo : Nat) (s : State) : (incSat a hi lo s).ports = s.ports := rfl
@[simp] theorem incSat_hall (a hi lo : Nat) (s : State) : (incSat a hi lo s).hall = s.hall := rfl
@[simp] theorem incSat_power (a hi lo : Nat) (s : State) : (incSat a hi lo s).power = s.power := rfl
@[simp] theorem incSat_fr (a hi lo : Nat) (s : State) : (incSat a hi lo s).fr = s.fr := rfl
@[simp] theorem incSat_mail (a hi lo : Nat) (s : State) : (incSat a hi lo s).mail = s.mail := rfl
@[simp] theorem incSat_codec (a hi lo : Nat) (s : State) : (incSat a hi lo s).codec = s.codec := rfl
@[simp] theorem incSat_chans (a hi lo : Nat) (s : State) : (incSat a hi lo s).chans = s.chans := rfl
@[simp] theorem incSat_page (a hi lo : Nat) (s : State) : (incSat a hi lo s).page = s.page := rfl
@[simp] theorem incSat_mc (a hi lo : Nat) (s : State) : (incSat a hi lo s).mc = s.mc := rfl
@[simp] theorem incSat_heat (a hi lo : Nat) (s : State) : (incSat a hi lo s).heat = s.heat := rfl
@[simp] theorem incSat_sb (a hi lo : Nat) (s : State) : (incSat a hi lo s).sb = s.sb := rfl
@[simp] theorem incSat_loops (a hi lo : Nat) (s : State) : (incSat a hi lo s).loops = s.loops := rfl

@[simp] theorem emit_pending (o : Out) (s : State) : (emit o s).pending = s.pending := rfl
@[simp] theorem emit_linkTime (o : Out) (s : State) : (emit o s).linkTime = s.linkTime := rfl
@[simp] theorem emit_regs (o : Out) (s : State) : (emit o s).regs = s.regs := rfl
@[simp] theorem emit_pitchAct (o : Out) (s : State) : (emit o s).pitchAct = s.pitchAct := rfl
@[simp] theorem emit_dram (o : Out) (s : State) : (emit o s).dram = s.dram := rfl
@[simp] theorem emit_dramEpoch (o : Out) (s : State) : (emit o s).dramEpoch = s.dramEpoch := rfl
@[simp] theorem emit_bar4 (o : Out) (s : State) : (emit o s).bar4 = s.bar4 := rfl
@[simp] theorem emit_busData (o : Out) (s : State) : (emit o s).busData = s.busData := rfl
@[simp] theorem emit_freeCount (o : Out) (s : State) : (emit o s).freeCount = s.freeCount := rfl
@[simp] theorem emit_a8 (o : Out) (s : State) : (emit o s).a8 = s.a8 := rfl
@[simp] theorem emit_corePh (o : Out) (s : State) : (emit o s).corePh = s.corePh := rfl
@[simp] theorem emit_cast (o : Out) (s : State) : (emit o s).cast = s.cast := rfl
@[simp] theorem emit_slots (o : Out) (s : State) : (emit o s).slots = s.slots := rfl
@[simp] theorem emit_ports (o : Out) (s : State) : (emit o s).ports = s.ports := rfl
@[simp] theorem emit_hall (o : Out) (s : State) : (emit o s).hall = s.hall := rfl
@[simp] theorem emit_power (o : Out) (s : State) : (emit o s).power = s.power := rfl
@[simp] theorem emit_fr (o : Out) (s : State) : (emit o s).fr = s.fr := rfl
@[simp] theorem emit_mail (o : Out) (s : State) : (emit o s).mail = s.mail := rfl
@[simp] theorem emit_codec (o : Out) (s : State) : (emit o s).codec = s.codec := rfl
@[simp] theorem emit_chans (o : Out) (s : State) : (emit o s).chans = s.chans := rfl
@[simp] theorem emit_page (o : Out) (s : State) : (emit o s).page = s.page := rfl
@[simp] theorem emit_mc (o : Out) (s : State) : (emit o s).mc = s.mc := rfl
@[simp] theorem emit_heat (o : Out) (s : State) : (emit o s).heat = s.heat := rfl
@[simp] theorem emit_sb (o : Out) (s : State) : (emit o s).sb = s.sb := rfl
@[simp] theorem emit_loops (o : Out) (s : State) : (emit o s).loops = s.loops := rfl

@[simp] theorem dramWrite_pending (a : Nat) (bs : List Byte) (s : State) : (dramWrite a bs s).pending = s.pending := rfl
@[simp] theorem dramWrite_linkTime (a : Nat) (bs : List Byte) (s : State) : (dramWrite a bs s).linkTime = s.linkTime := rfl
@[simp] theorem dramWrite_regs (a : Nat) (bs : List Byte) (s : State) : (dramWrite a bs s).regs = s.regs := rfl
@[simp] theorem dramWrite_pitchAct (a : Nat) (bs : List Byte) (s : State) : (dramWrite a bs s).pitchAct = s.pitchAct := rfl
@[simp] theorem dramWrite_dramEpoch (a : Nat) (bs : List Byte) (s : State) : (dramWrite a bs s).dramEpoch = s.dramEpoch := rfl
@[simp] theorem dramWrite_bar4 (a : Nat) (bs : List Byte) (s : State) : (dramWrite a bs s).bar4 = s.bar4 := rfl
@[simp] theorem dramWrite_busData (a : Nat) (bs : List Byte) (s : State) : (dramWrite a bs s).busData = s.busData := rfl
@[simp] theorem dramWrite_out (a : Nat) (bs : List Byte) (s : State) : (dramWrite a bs s).out = s.out := rfl
@[simp] theorem dramWrite_freeCount (a : Nat) (bs : List Byte) (s : State) : (dramWrite a bs s).freeCount = s.freeCount := rfl
@[simp] theorem dramWrite_a8 (a : Nat) (bs : List Byte) (s : State) : (dramWrite a bs s).a8 = s.a8 := rfl
@[simp] theorem dramWrite_corePh (a : Nat) (bs : List Byte) (s : State) : (dramWrite a bs s).corePh = s.corePh := rfl
@[simp] theorem dramWrite_cast (a : Nat) (bs : List Byte) (s : State) : (dramWrite a bs s).cast = s.cast := rfl
@[simp] theorem dramWrite_slots (a : Nat) (bs : List Byte) (s : State) : (dramWrite a bs s).slots = s.slots := rfl
@[simp] theorem dramWrite_ports (a : Nat) (bs : List Byte) (s : State) : (dramWrite a bs s).ports = s.ports := rfl
@[simp] theorem dramWrite_hall (a : Nat) (bs : List Byte) (s : State) : (dramWrite a bs s).hall = s.hall := rfl
@[simp] theorem dramWrite_power (a : Nat) (bs : List Byte) (s : State) : (dramWrite a bs s).power = s.power := rfl
@[simp] theorem dramWrite_fr (a : Nat) (bs : List Byte) (s : State) : (dramWrite a bs s).fr = s.fr := rfl
@[simp] theorem dramWrite_mail (a : Nat) (bs : List Byte) (s : State) : (dramWrite a bs s).mail = s.mail := rfl
@[simp] theorem dramWrite_codec (a : Nat) (bs : List Byte) (s : State) : (dramWrite a bs s).codec = s.codec := rfl
@[simp] theorem dramWrite_chans (a : Nat) (bs : List Byte) (s : State) : (dramWrite a bs s).chans = s.chans := rfl
@[simp] theorem dramWrite_page (a : Nat) (bs : List Byte) (s : State) : (dramWrite a bs s).page = s.page := rfl
@[simp] theorem dramWrite_mc (a : Nat) (bs : List Byte) (s : State) : (dramWrite a bs s).mc = s.mc := rfl
@[simp] theorem dramWrite_heat (a : Nat) (bs : List Byte) (s : State) : (dramWrite a bs s).heat = s.heat := rfl
@[simp] theorem dramWrite_sb (a : Nat) (bs : List Byte) (s : State) : (dramWrite a bs s).sb = s.sb := rfl
@[simp] theorem dramWrite_loops (a : Nat) (bs : List Byte) (s : State) : (dramWrite a bs s).loops = s.loops := rfl

@[simp] theorem dramForget_pending (s : State) : (dramForget s).pending = s.pending := rfl
@[simp] theorem dramForget_linkTime (s : State) : (dramForget s).linkTime = s.linkTime := rfl
@[simp] theorem dramForget_regs (s : State) : (dramForget s).regs = s.regs := rfl
@[simp] theorem dramForget_pitchAct (s : State) : (dramForget s).pitchAct = s.pitchAct := rfl
@[simp] theorem dramForget_bar4 (s : State) : (dramForget s).bar4 = s.bar4 := rfl
@[simp] theorem dramForget_busData (s : State) : (dramForget s).busData = s.busData := rfl
@[simp] theorem dramForget_out (s : State) : (dramForget s).out = s.out := rfl
@[simp] theorem dramForget_freeCount (s : State) : (dramForget s).freeCount = s.freeCount := rfl
@[simp] theorem dramForget_a8 (s : State) : (dramForget s).a8 = s.a8 := rfl
@[simp] theorem dramForget_corePh (s : State) : (dramForget s).corePh = s.corePh := rfl
@[simp] theorem dramForget_cast (s : State) : (dramForget s).cast = s.cast := rfl
@[simp] theorem dramForget_slots (s : State) : (dramForget s).slots = s.slots := rfl
@[simp] theorem dramForget_ports (s : State) : (dramForget s).ports = s.ports := rfl
@[simp] theorem dramForget_hall (s : State) : (dramForget s).hall = s.hall := rfl
@[simp] theorem dramForget_power (s : State) : (dramForget s).power = s.power := rfl
@[simp] theorem dramForget_fr (s : State) : (dramForget s).fr = s.fr := rfl
@[simp] theorem dramForget_mail (s : State) : (dramForget s).mail = s.mail := rfl
@[simp] theorem dramForget_codec (s : State) : (dramForget s).codec = s.codec := rfl
@[simp] theorem dramForget_chans (s : State) : (dramForget s).chans = s.chans := rfl
@[simp] theorem dramForget_page (s : State) : (dramForget s).page = s.page := rfl
@[simp] theorem dramForget_mc (s : State) : (dramForget s).mc = s.mc := rfl
@[simp] theorem dramForget_heat (s : State) : (dramForget s).heat = s.heat := rfl
@[simp] theorem dramForget_sb (s : State) : (dramForget s).sb = s.sb := rfl
@[simp] theorem dramForget_loops (s : State) : (dramForget s).loops = s.loops := rfl

@[simp] theorem modSlot_pending (n : Nat) (f : SlotState → SlotState) (s : State) : (modSlot n f s).pending = s.pending := by
  unfold modSlot; split <;> rfl
@[simp] theorem modSlot_linkTime (n : Nat) (f : SlotState → SlotState) (s : State) : (modSlot n f s).linkTime = s.linkTime := by
  unfold modSlot; split <;> rfl
@[simp] theorem modSlot_regs (n : Nat) (f : SlotState → SlotState) (s : State) : (modSlot n f s).regs = s.regs := by
  unfold modSlot; split <;> rfl
@[simp] theorem modSlot_pitchAct (n : Nat) (f : SlotState → SlotState) (s : State) : (modSlot n f s).pitchAct = s.pitchAct := by
  unfold modSlot; split <;> rfl
@[simp] theorem modSlot_dram (n : Nat) (f : SlotState → SlotState) (s : State) : (modSlot n f s).dram = s.dram := by
  unfold modSlot; split <;> rfl
@[simp] theorem modSlot_dramEpoch (n : Nat) (f : SlotState → SlotState) (s : State) : (modSlot n f s).dramEpoch = s.dramEpoch := by
  unfold modSlot; split <;> rfl
@[simp] theorem modSlot_bar4 (n : Nat) (f : SlotState → SlotState) (s : State) : (modSlot n f s).bar4 = s.bar4 := by
  unfold modSlot; split <;> rfl
@[simp] theorem modSlot_busData (n : Nat) (f : SlotState → SlotState) (s : State) : (modSlot n f s).busData = s.busData := by
  unfold modSlot; split <;> rfl
@[simp] theorem modSlot_out (n : Nat) (f : SlotState → SlotState) (s : State) : (modSlot n f s).out = s.out := by
  unfold modSlot; split <;> rfl
@[simp] theorem modSlot_freeCount (n : Nat) (f : SlotState → SlotState) (s : State) : (modSlot n f s).freeCount = s.freeCount := by
  unfold modSlot; split <;> rfl
@[simp] theorem modSlot_a8 (n : Nat) (f : SlotState → SlotState) (s : State) : (modSlot n f s).a8 = s.a8 := by
  unfold modSlot; split <;> rfl
@[simp] theorem modSlot_corePh (n : Nat) (f : SlotState → SlotState) (s : State) : (modSlot n f s).corePh = s.corePh := by
  unfold modSlot; split <;> rfl
@[simp] theorem modSlot_cast (n : Nat) (f : SlotState → SlotState) (s : State) : (modSlot n f s).cast = s.cast := by
  unfold modSlot; split <;> rfl
@[simp] theorem modSlot_ports (n : Nat) (f : SlotState → SlotState) (s : State) : (modSlot n f s).ports = s.ports := by
  unfold modSlot; split <;> rfl
@[simp] theorem modSlot_hall (n : Nat) (f : SlotState → SlotState) (s : State) : (modSlot n f s).hall = s.hall := by
  unfold modSlot; split <;> rfl
@[simp] theorem modSlot_power (n : Nat) (f : SlotState → SlotState) (s : State) : (modSlot n f s).power = s.power := by
  unfold modSlot; split <;> rfl
@[simp] theorem modSlot_fr (n : Nat) (f : SlotState → SlotState) (s : State) : (modSlot n f s).fr = s.fr := by
  unfold modSlot; split <;> rfl
@[simp] theorem modSlot_mail (n : Nat) (f : SlotState → SlotState) (s : State) : (modSlot n f s).mail = s.mail := by
  unfold modSlot; split <;> rfl
@[simp] theorem modSlot_codec (n : Nat) (f : SlotState → SlotState) (s : State) : (modSlot n f s).codec = s.codec := by
  unfold modSlot; split <;> rfl
@[simp] theorem modSlot_chans (n : Nat) (f : SlotState → SlotState) (s : State) : (modSlot n f s).chans = s.chans := by
  unfold modSlot; split <;> rfl
@[simp] theorem modSlot_page (n : Nat) (f : SlotState → SlotState) (s : State) : (modSlot n f s).page = s.page := by
  unfold modSlot; split <;> rfl
@[simp] theorem modSlot_mc (n : Nat) (f : SlotState → SlotState) (s : State) : (modSlot n f s).mc = s.mc := by
  unfold modSlot; split <;> rfl
@[simp] theorem modSlot_heat (n : Nat) (f : SlotState → SlotState) (s : State) : (modSlot n f s).heat = s.heat := by
  unfold modSlot; split <;> rfl
@[simp] theorem modSlot_sb (n : Nat) (f : SlotState → SlotState) (s : State) : (modSlot n f s).sb = s.sb := by
  unfold modSlot; split <;> rfl
@[simp] theorem modSlot_loops (n : Nat) (f : SlotState → SlotState) (s : State) : (modSlot n f s).loops = s.loops := by
  unfold modSlot; split <;> rfl

@[simp] theorem modPort_pending (p : Nat) (f : PortState → PortState) (s : State) : (modPort p f s).pending = s.pending := by
  unfold modPort; split <;> rfl
@[simp] theorem modPort_linkTime (p : Nat) (f : PortState → PortState) (s : State) : (modPort p f s).linkTime = s.linkTime := by
  unfold modPort; split <;> rfl
@[simp] theorem modPort_regs (p : Nat) (f : PortState → PortState) (s : State) : (modPort p f s).regs = s.regs := by
  unfold modPort; split <;> rfl
@[simp] theorem modPort_pitchAct (p : Nat) (f : PortState → PortState) (s : State) : (modPort p f s).pitchAct = s.pitchAct := by
  unfold modPort; split <;> rfl
@[simp] theorem modPort_dram (p : Nat) (f : PortState → PortState) (s : State) : (modPort p f s).dram = s.dram := by
  unfold modPort; split <;> rfl
@[simp] theorem modPort_dramEpoch (p : Nat) (f : PortState → PortState) (s : State) : (modPort p f s).dramEpoch = s.dramEpoch := by
  unfold modPort; split <;> rfl
@[simp] theorem modPort_bar4 (p : Nat) (f : PortState → PortState) (s : State) : (modPort p f s).bar4 = s.bar4 := by
  unfold modPort; split <;> rfl
@[simp] theorem modPort_busData (p : Nat) (f : PortState → PortState) (s : State) : (modPort p f s).busData = s.busData := by
  unfold modPort; split <;> rfl
@[simp] theorem modPort_out (p : Nat) (f : PortState → PortState) (s : State) : (modPort p f s).out = s.out := by
  unfold modPort; split <;> rfl
@[simp] theorem modPort_freeCount (p : Nat) (f : PortState → PortState) (s : State) : (modPort p f s).freeCount = s.freeCount := by
  unfold modPort; split <;> rfl
@[simp] theorem modPort_a8 (p : Nat) (f : PortState → PortState) (s : State) : (modPort p f s).a8 = s.a8 := by
  unfold modPort; split <;> rfl
@[simp] theorem modPort_corePh (p : Nat) (f : PortState → PortState) (s : State) : (modPort p f s).corePh = s.corePh := by
  unfold modPort; split <;> rfl
@[simp] theorem modPort_cast (p : Nat) (f : PortState → PortState) (s : State) : (modPort p f s).cast = s.cast := by
  unfold modPort; split <;> rfl
@[simp] theorem modPort_slots (p : Nat) (f : PortState → PortState) (s : State) : (modPort p f s).slots = s.slots := by
  unfold modPort; split <;> rfl
@[simp] theorem modPort_hall (p : Nat) (f : PortState → PortState) (s : State) : (modPort p f s).hall = s.hall := by
  unfold modPort; split <;> rfl
@[simp] theorem modPort_power (p : Nat) (f : PortState → PortState) (s : State) : (modPort p f s).power = s.power := by
  unfold modPort; split <;> rfl
@[simp] theorem modPort_fr (p : Nat) (f : PortState → PortState) (s : State) : (modPort p f s).fr = s.fr := by
  unfold modPort; split <;> rfl
@[simp] theorem modPort_mail (p : Nat) (f : PortState → PortState) (s : State) : (modPort p f s).mail = s.mail := by
  unfold modPort; split <;> rfl
@[simp] theorem modPort_codec (p : Nat) (f : PortState → PortState) (s : State) : (modPort p f s).codec = s.codec := by
  unfold modPort; split <;> rfl
@[simp] theorem modPort_chans (p : Nat) (f : PortState → PortState) (s : State) : (modPort p f s).chans = s.chans := by
  unfold modPort; split <;> rfl
@[simp] theorem modPort_page (p : Nat) (f : PortState → PortState) (s : State) : (modPort p f s).page = s.page := by
  unfold modPort; split <;> rfl
@[simp] theorem modPort_mc (p : Nat) (f : PortState → PortState) (s : State) : (modPort p f s).mc = s.mc := by
  unfold modPort; split <;> rfl
@[simp] theorem modPort_heat (p : Nat) (f : PortState → PortState) (s : State) : (modPort p f s).heat = s.heat := by
  unfold modPort; split <;> rfl
@[simp] theorem modPort_sb (p : Nat) (f : PortState → PortState) (s : State) : (modPort p f s).sb = s.sb := by
  unfold modPort; split <;> rfl
@[simp] theorem modPort_loops (p : Nat) (f : PortState → PortState) (s : State) : (modPort p f s).loops = s.loops := by
  unfold modPort; split <;> rfl

@[simp] theorem modChan_pending (k : Nat) (f : ChanCal → ChanCal) (s : State) : (modChan k f s).pending = s.pending := by
  unfold modChan; split <;> rfl
@[simp] theorem modChan_linkTime (k : Nat) (f : ChanCal → ChanCal) (s : State) : (modChan k f s).linkTime = s.linkTime := by
  unfold modChan; split <;> rfl
@[simp] theorem modChan_regs (k : Nat) (f : ChanCal → ChanCal) (s : State) : (modChan k f s).regs = s.regs := by
  unfold modChan; split <;> rfl
@[simp] theorem modChan_pitchAct (k : Nat) (f : ChanCal → ChanCal) (s : State) : (modChan k f s).pitchAct = s.pitchAct := by
  unfold modChan; split <;> rfl
@[simp] theorem modChan_dram (k : Nat) (f : ChanCal → ChanCal) (s : State) : (modChan k f s).dram = s.dram := by
  unfold modChan; split <;> rfl
@[simp] theorem modChan_dramEpoch (k : Nat) (f : ChanCal → ChanCal) (s : State) : (modChan k f s).dramEpoch = s.dramEpoch := by
  unfold modChan; split <;> rfl
@[simp] theorem modChan_bar4 (k : Nat) (f : ChanCal → ChanCal) (s : State) : (modChan k f s).bar4 = s.bar4 := by
  unfold modChan; split <;> rfl
@[simp] theorem modChan_busData (k : Nat) (f : ChanCal → ChanCal) (s : State) : (modChan k f s).busData = s.busData := by
  unfold modChan; split <;> rfl
@[simp] theorem modChan_out (k : Nat) (f : ChanCal → ChanCal) (s : State) : (modChan k f s).out = s.out := by
  unfold modChan; split <;> rfl
@[simp] theorem modChan_freeCount (k : Nat) (f : ChanCal → ChanCal) (s : State) : (modChan k f s).freeCount = s.freeCount := by
  unfold modChan; split <;> rfl
@[simp] theorem modChan_a8 (k : Nat) (f : ChanCal → ChanCal) (s : State) : (modChan k f s).a8 = s.a8 := by
  unfold modChan; split <;> rfl
@[simp] theorem modChan_corePh (k : Nat) (f : ChanCal → ChanCal) (s : State) : (modChan k f s).corePh = s.corePh := by
  unfold modChan; split <;> rfl
@[simp] theorem modChan_cast (k : Nat) (f : ChanCal → ChanCal) (s : State) : (modChan k f s).cast = s.cast := by
  unfold modChan; split <;> rfl
@[simp] theorem modChan_slots (k : Nat) (f : ChanCal → ChanCal) (s : State) : (modChan k f s).slots = s.slots := by
  unfold modChan; split <;> rfl
@[simp] theorem modChan_ports (k : Nat) (f : ChanCal → ChanCal) (s : State) : (modChan k f s).ports = s.ports := by
  unfold modChan; split <;> rfl
@[simp] theorem modChan_hall (k : Nat) (f : ChanCal → ChanCal) (s : State) : (modChan k f s).hall = s.hall := by
  unfold modChan; split <;> rfl
@[simp] theorem modChan_power (k : Nat) (f : ChanCal → ChanCal) (s : State) : (modChan k f s).power = s.power := by
  unfold modChan; split <;> rfl
@[simp] theorem modChan_fr (k : Nat) (f : ChanCal → ChanCal) (s : State) : (modChan k f s).fr = s.fr := by
  unfold modChan; split <;> rfl
@[simp] theorem modChan_mail (k : Nat) (f : ChanCal → ChanCal) (s : State) : (modChan k f s).mail = s.mail := by
  unfold modChan; split <;> rfl
@[simp] theorem modChan_codec (k : Nat) (f : ChanCal → ChanCal) (s : State) : (modChan k f s).codec = s.codec := by
  unfold modChan; split <;> rfl
@[simp] theorem modChan_page (k : Nat) (f : ChanCal → ChanCal) (s : State) : (modChan k f s).page = s.page := by
  unfold modChan; split <;> rfl
@[simp] theorem modChan_mc (k : Nat) (f : ChanCal → ChanCal) (s : State) : (modChan k f s).mc = s.mc := by
  unfold modChan; split <;> rfl
@[simp] theorem modChan_heat (k : Nat) (f : ChanCal → ChanCal) (s : State) : (modChan k f s).heat = s.heat := by
  unfold modChan; split <;> rfl
@[simp] theorem modChan_sb (k : Nat) (f : ChanCal → ChanCal) (s : State) : (modChan k f s).sb = s.sb := by
  unfold modChan; split <;> rfl
@[simp] theorem modChan_loops (k : Nat) (f : ChanCal → ChanCal) (s : State) : (modChan k f s).loops = s.loops := by
  unfold modChan; split <;> rfl

@[simp] theorem modLoop_pending (l : Nat) (f : LoopState → LoopState) (s : State) : (modLoop l f s).pending = s.pending := by
  unfold modLoop; split <;> rfl
@[simp] theorem modLoop_linkTime (l : Nat) (f : LoopState → LoopState) (s : State) : (modLoop l f s).linkTime = s.linkTime := by
  unfold modLoop; split <;> rfl
@[simp] theorem modLoop_regs (l : Nat) (f : LoopState → LoopState) (s : State) : (modLoop l f s).regs = s.regs := by
  unfold modLoop; split <;> rfl
@[simp] theorem modLoop_pitchAct (l : Nat) (f : LoopState → LoopState) (s : State) : (modLoop l f s).pitchAct = s.pitchAct := by
  unfold modLoop; split <;> rfl
@[simp] theorem modLoop_dram (l : Nat) (f : LoopState → LoopState) (s : State) : (modLoop l f s).dram = s.dram := by
  unfold modLoop; split <;> rfl
@[simp] theorem modLoop_dramEpoch (l : Nat) (f : LoopState → LoopState) (s : State) : (modLoop l f s).dramEpoch = s.dramEpoch := by
  unfold modLoop; split <;> rfl
@[simp] theorem modLoop_bar4 (l : Nat) (f : LoopState → LoopState) (s : State) : (modLoop l f s).bar4 = s.bar4 := by
  unfold modLoop; split <;> rfl
@[simp] theorem modLoop_busData (l : Nat) (f : LoopState → LoopState) (s : State) : (modLoop l f s).busData = s.busData := by
  unfold modLoop; split <;> rfl
@[simp] theorem modLoop_out (l : Nat) (f : LoopState → LoopState) (s : State) : (modLoop l f s).out = s.out := by
  unfold modLoop; split <;> rfl
@[simp] theorem modLoop_freeCount (l : Nat) (f : LoopState → LoopState) (s : State) : (modLoop l f s).freeCount = s.freeCount := by
  unfold modLoop; split <;> rfl
@[simp] theorem modLoop_a8 (l : Nat) (f : LoopState → LoopState) (s : State) : (modLoop l f s).a8 = s.a8 := by
  unfold modLoop; split <;> rfl
@[simp] theorem modLoop_corePh (l : Nat) (f : LoopState → LoopState) (s : State) : (modLoop l f s).corePh = s.corePh := by
  unfold modLoop; split <;> rfl
@[simp] theorem modLoop_cast (l : Nat) (f : LoopState → LoopState) (s : State) : (modLoop l f s).cast = s.cast := by
  unfold modLoop; split <;> rfl
@[simp] theorem modLoop_slots (l : Nat) (f : LoopState → LoopState) (s : State) : (modLoop l f s).slots = s.slots := by
  unfold modLoop; split <;> rfl
@[simp] theorem modLoop_ports (l : Nat) (f : LoopState → LoopState) (s : State) : (modLoop l f s).ports = s.ports := by
  unfold modLoop; split <;> rfl
@[simp] theorem modLoop_hall (l : Nat) (f : LoopState → LoopState) (s : State) : (modLoop l f s).hall = s.hall := by
  unfold modLoop; split <;> rfl
@[simp] theorem modLoop_power (l : Nat) (f : LoopState → LoopState) (s : State) : (modLoop l f s).power = s.power := by
  unfold modLoop; split <;> rfl
@[simp] theorem modLoop_fr (l : Nat) (f : LoopState → LoopState) (s : State) : (modLoop l f s).fr = s.fr := by
  unfold modLoop; split <;> rfl
@[simp] theorem modLoop_mail (l : Nat) (f : LoopState → LoopState) (s : State) : (modLoop l f s).mail = s.mail := by
  unfold modLoop; split <;> rfl
@[simp] theorem modLoop_codec (l : Nat) (f : LoopState → LoopState) (s : State) : (modLoop l f s).codec = s.codec := by
  unfold modLoop; split <;> rfl
@[simp] theorem modLoop_chans (l : Nat) (f : LoopState → LoopState) (s : State) : (modLoop l f s).chans = s.chans := by
  unfold modLoop; split <;> rfl
@[simp] theorem modLoop_page (l : Nat) (f : LoopState → LoopState) (s : State) : (modLoop l f s).page = s.page := by
  unfold modLoop; split <;> rfl
@[simp] theorem modLoop_mc (l : Nat) (f : LoopState → LoopState) (s : State) : (modLoop l f s).mc = s.mc := by
  unfold modLoop; split <;> rfl
@[simp] theorem modLoop_heat (l : Nat) (f : LoopState → LoopState) (s : State) : (modLoop l f s).heat = s.heat := by
  unfold modLoop; split <;> rfl
@[simp] theorem modLoop_sb (l : Nat) (f : LoopState → LoopState) (s : State) : (modLoop l f s).sb = s.sb := by
  unfold modLoop; split <;> rfl

@[simp] theorem modCam_pending (c : Nat) (f : CamState → CamState) (s : State) : (modCam c f s).pending = s.pending := by
  unfold modCam; split <;> rfl
@[simp] theorem modCam_linkTime (c : Nat) (f : CamState → CamState) (s : State) : (modCam c f s).linkTime = s.linkTime := by
  unfold modCam; split <;> rfl
@[simp] theorem modCam_regs (c : Nat) (f : CamState → CamState) (s : State) : (modCam c f s).regs = s.regs := by
  unfold modCam; split <;> rfl
@[simp] theorem modCam_pitchAct (c : Nat) (f : CamState → CamState) (s : State) : (modCam c f s).pitchAct = s.pitchAct := by
  unfold modCam; split <;> rfl
@[simp] theorem modCam_dram (c : Nat) (f : CamState → CamState) (s : State) : (modCam c f s).dram = s.dram := by
  unfold modCam; split <;> rfl
@[simp] theorem modCam_dramEpoch (c : Nat) (f : CamState → CamState) (s : State) : (modCam c f s).dramEpoch = s.dramEpoch := by
  unfold modCam; split <;> rfl
@[simp] theorem modCam_bar4 (c : Nat) (f : CamState → CamState) (s : State) : (modCam c f s).bar4 = s.bar4 := by
  unfold modCam; split <;> rfl
@[simp] theorem modCam_busData (c : Nat) (f : CamState → CamState) (s : State) : (modCam c f s).busData = s.busData := by
  unfold modCam; split <;> rfl
@[simp] theorem modCam_out (c : Nat) (f : CamState → CamState) (s : State) : (modCam c f s).out = s.out := by
  unfold modCam; split <;> rfl
@[simp] theorem modCam_freeCount (c : Nat) (f : CamState → CamState) (s : State) : (modCam c f s).freeCount = s.freeCount := by
  unfold modCam; split <;> rfl
@[simp] theorem modCam_a8 (c : Nat) (f : CamState → CamState) (s : State) : (modCam c f s).a8 = s.a8 := by
  unfold modCam; split <;> rfl
@[simp] theorem modCam_corePh (c : Nat) (f : CamState → CamState) (s : State) : (modCam c f s).corePh = s.corePh := by
  unfold modCam; split <;> rfl
@[simp] theorem modCam_cast (c : Nat) (f : CamState → CamState) (s : State) : (modCam c f s).cast = s.cast := by
  unfold modCam; split <;> rfl
@[simp] theorem modCam_slots (c : Nat) (f : CamState → CamState) (s : State) : (modCam c f s).slots = s.slots := by
  unfold modCam; split <;> rfl
@[simp] theorem modCam_ports (c : Nat) (f : CamState → CamState) (s : State) : (modCam c f s).ports = s.ports := by
  unfold modCam; split <;> rfl
@[simp] theorem modCam_hall (c : Nat) (f : CamState → CamState) (s : State) : (modCam c f s).hall = s.hall := by
  unfold modCam; split <;> rfl
@[simp] theorem modCam_power (c : Nat) (f : CamState → CamState) (s : State) : (modCam c f s).power = s.power := by
  unfold modCam; split <;> rfl
@[simp] theorem modCam_fr (c : Nat) (f : CamState → CamState) (s : State) : (modCam c f s).fr = s.fr := by
  unfold modCam; split <;> rfl
@[simp] theorem modCam_mail (c : Nat) (f : CamState → CamState) (s : State) : (modCam c f s).mail = s.mail := by
  unfold modCam; split <;> rfl
@[simp] theorem modCam_codec (c : Nat) (f : CamState → CamState) (s : State) : (modCam c f s).codec = s.codec := by
  unfold modCam; split <;> rfl
@[simp] theorem modCam_chans (c : Nat) (f : CamState → CamState) (s : State) : (modCam c f s).chans = s.chans := by
  unfold modCam; split <;> rfl
@[simp] theorem modCam_page (c : Nat) (f : CamState → CamState) (s : State) : (modCam c f s).page = s.page := by
  unfold modCam; split <;> rfl
@[simp] theorem modCam_mc (c : Nat) (f : CamState → CamState) (s : State) : (modCam c f s).mc = s.mc := by
  unfold modCam; split <;> rfl
@[simp] theorem modCam_heat (c : Nat) (f : CamState → CamState) (s : State) : (modCam c f s).heat = s.heat := by
  unfold modCam; split <;> rfl
@[simp] theorem modCam_loops (c : Nat) (f : CamState → CamState) (s : State) : (modCam c f s).loops = s.loops := by
  unfold modCam; split <;> rfl

@[simp] theorem modReck_pending (n : Nat) (f : Reckoner → Reckoner) (s : State) : (modReck n f s).pending = s.pending :=
  modSlot_pending _ _ _
@[simp] theorem modReck_linkTime (n : Nat) (f : Reckoner → Reckoner) (s : State) : (modReck n f s).linkTime = s.linkTime :=
  modSlot_linkTime _ _ _
@[simp] theorem modReck_regs (n : Nat) (f : Reckoner → Reckoner) (s : State) : (modReck n f s).regs = s.regs :=
  modSlot_regs _ _ _
@[simp] theorem modReck_pitchAct (n : Nat) (f : Reckoner → Reckoner) (s : State) : (modReck n f s).pitchAct = s.pitchAct :=
  modSlot_pitchAct _ _ _
@[simp] theorem modReck_dram (n : Nat) (f : Reckoner → Reckoner) (s : State) : (modReck n f s).dram = s.dram :=
  modSlot_dram _ _ _
@[simp] theorem modReck_dramEpoch (n : Nat) (f : Reckoner → Reckoner) (s : State) : (modReck n f s).dramEpoch = s.dramEpoch :=
  modSlot_dramEpoch _ _ _
@[simp] theorem modReck_bar4 (n : Nat) (f : Reckoner → Reckoner) (s : State) : (modReck n f s).bar4 = s.bar4 :=
  modSlot_bar4 _ _ _
@[simp] theorem modReck_busData (n : Nat) (f : Reckoner → Reckoner) (s : State) : (modReck n f s).busData = s.busData :=
  modSlot_busData _ _ _
@[simp] theorem modReck_out (n : Nat) (f : Reckoner → Reckoner) (s : State) : (modReck n f s).out = s.out := modSlot_out _ _ _
@[simp] theorem modReck_freeCount (n : Nat) (f : Reckoner → Reckoner) (s : State) : (modReck n f s).freeCount = s.freeCount :=
  modSlot_freeCount _ _ _
@[simp] theorem modReck_a8 (n : Nat) (f : Reckoner → Reckoner) (s : State) : (modReck n f s).a8 = s.a8 := modSlot_a8 _ _ _
@[simp] theorem modReck_corePh (n : Nat) (f : Reckoner → Reckoner) (s : State) : (modReck n f s).corePh = s.corePh :=
  modSlot_corePh _ _ _
@[simp] theorem modReck_cast (n : Nat) (f : Reckoner → Reckoner) (s : State) : (modReck n f s).cast = s.cast :=
  modSlot_cast _ _ _
@[simp] theorem modReck_ports (n : Nat) (f : Reckoner → Reckoner) (s : State) : (modReck n f s).ports = s.ports :=
  modSlot_ports _ _ _
@[simp] theorem modReck_hall (n : Nat) (f : Reckoner → Reckoner) (s : State) : (modReck n f s).hall = s.hall :=
  modSlot_hall _ _ _
@[simp] theorem modReck_power (n : Nat) (f : Reckoner → Reckoner) (s : State) : (modReck n f s).power = s.power :=
  modSlot_power _ _ _
@[simp] theorem modReck_fr (n : Nat) (f : Reckoner → Reckoner) (s : State) : (modReck n f s).fr = s.fr := modSlot_fr _ _ _
@[simp] theorem modReck_mail (n : Nat) (f : Reckoner → Reckoner) (s : State) : (modReck n f s).mail = s.mail :=
  modSlot_mail _ _ _
@[simp] theorem modReck_codec (n : Nat) (f : Reckoner → Reckoner) (s : State) : (modReck n f s).codec = s.codec :=
  modSlot_codec _ _ _
@[simp] theorem modReck_chans (n : Nat) (f : Reckoner → Reckoner) (s : State) : (modReck n f s).chans = s.chans :=
  modSlot_chans _ _ _
@[simp] theorem modReck_page (n : Nat) (f : Reckoner → Reckoner) (s : State) : (modReck n f s).page = s.page :=
  modSlot_page _ _ _
@[simp] theorem modReck_mc (n : Nat) (f : Reckoner → Reckoner) (s : State) : (modReck n f s).mc = s.mc := modSlot_mc _ _ _
@[simp] theorem modReck_heat (n : Nat) (f : Reckoner → Reckoner) (s : State) : (modReck n f s).heat = s.heat :=
  modSlot_heat _ _ _
@[simp] theorem modReck_sb (n : Nat) (f : Reckoner → Reckoner) (s : State) : (modReck n f s).sb = s.sb := modSlot_sb _ _ _
@[simp] theorem modReck_loops (n : Nat) (f : Reckoner → Reckoner) (s : State) : (modReck n f s).loops = s.loops :=
  modSlot_loops _ _ _

@[simp] theorem modHall_pending (n : Nat) (f : HallSlot → HallSlot) (s : State) : (modHall n f s).pending = s.pending :=
  modSlot_pending _ _ _
@[simp] theorem modHall_linkTime (n : Nat) (f : HallSlot → HallSlot) (s : State) : (modHall n f s).linkTime = s.linkTime :=
  modSlot_linkTime _ _ _
@[simp] theorem modHall_regs (n : Nat) (f : HallSlot → HallSlot) (s : State) : (modHall n f s).regs = s.regs :=
  modSlot_regs _ _ _
@[simp] theorem modHall_pitchAct (n : Nat) (f : HallSlot → HallSlot) (s : State) : (modHall n f s).pitchAct = s.pitchAct :=
  modSlot_pitchAct _ _ _
@[simp] theorem modHall_dram (n : Nat) (f : HallSlot → HallSlot) (s : State) : (modHall n f s).dram = s.dram :=
  modSlot_dram _ _ _
@[simp] theorem modHall_dramEpoch (n : Nat) (f : HallSlot → HallSlot) (s : State) : (modHall n f s).dramEpoch = s.dramEpoch :=
  modSlot_dramEpoch _ _ _
@[simp] theorem modHall_bar4 (n : Nat) (f : HallSlot → HallSlot) (s : State) : (modHall n f s).bar4 = s.bar4 :=
  modSlot_bar4 _ _ _
@[simp] theorem modHall_busData (n : Nat) (f : HallSlot → HallSlot) (s : State) : (modHall n f s).busData = s.busData :=
  modSlot_busData _ _ _
@[simp] theorem modHall_out (n : Nat) (f : HallSlot → HallSlot) (s : State) : (modHall n f s).out = s.out := modSlot_out _ _ _
@[simp] theorem modHall_freeCount (n : Nat) (f : HallSlot → HallSlot) (s : State) : (modHall n f s).freeCount = s.freeCount :=
  modSlot_freeCount _ _ _
@[simp] theorem modHall_a8 (n : Nat) (f : HallSlot → HallSlot) (s : State) : (modHall n f s).a8 = s.a8 := modSlot_a8 _ _ _
@[simp] theorem modHall_corePh (n : Nat) (f : HallSlot → HallSlot) (s : State) : (modHall n f s).corePh = s.corePh :=
  modSlot_corePh _ _ _
@[simp] theorem modHall_cast (n : Nat) (f : HallSlot → HallSlot) (s : State) : (modHall n f s).cast = s.cast :=
  modSlot_cast _ _ _
@[simp] theorem modHall_ports (n : Nat) (f : HallSlot → HallSlot) (s : State) : (modHall n f s).ports = s.ports :=
  modSlot_ports _ _ _
@[simp] theorem modHall_hall (n : Nat) (f : HallSlot → HallSlot) (s : State) : (modHall n f s).hall = s.hall :=
  modSlot_hall _ _ _
@[simp] theorem modHall_power (n : Nat) (f : HallSlot → HallSlot) (s : State) : (modHall n f s).power = s.power :=
  modSlot_power _ _ _
@[simp] theorem modHall_fr (n : Nat) (f : HallSlot → HallSlot) (s : State) : (modHall n f s).fr = s.fr := modSlot_fr _ _ _
@[simp] theorem modHall_mail (n : Nat) (f : HallSlot → HallSlot) (s : State) : (modHall n f s).mail = s.mail :=
  modSlot_mail _ _ _
@[simp] theorem modHall_codec (n : Nat) (f : HallSlot → HallSlot) (s : State) : (modHall n f s).codec = s.codec :=
  modSlot_codec _ _ _
@[simp] theorem modHall_chans (n : Nat) (f : HallSlot → HallSlot) (s : State) : (modHall n f s).chans = s.chans :=
  modSlot_chans _ _ _
@[simp] theorem modHall_page (n : Nat) (f : HallSlot → HallSlot) (s : State) : (modHall n f s).page = s.page :=
  modSlot_page _ _ _
@[simp] theorem modHall_mc (n : Nat) (f : HallSlot → HallSlot) (s : State) : (modHall n f s).mc = s.mc := modSlot_mc _ _ _
@[simp] theorem modHall_heat (n : Nat) (f : HallSlot → HallSlot) (s : State) : (modHall n f s).heat = s.heat :=
  modSlot_heat _ _ _
@[simp] theorem modHall_sb (n : Nat) (f : HallSlot → HallSlot) (s : State) : (modHall n f s).sb = s.sb := modSlot_sb _ _ _
@[simp] theorem modHall_loops (n : Nat) (f : HallSlot → HallSlot) (s : State) : (modHall n f s).loops = s.loops :=
  modSlot_loops _ _ _

@[simp] theorem modCal_pending (n : Nat) (f : SlotCal → SlotCal) (s : State) : (modCal n f s).pending = s.pending :=
  modSlot_pending _ _ _
@[simp] theorem modCal_linkTime (n : Nat) (f : SlotCal → SlotCal) (s : State) : (modCal n f s).linkTime = s.linkTime :=
  modSlot_linkTime _ _ _
@[simp] theorem modCal_regs (n : Nat) (f : SlotCal → SlotCal) (s : State) : (modCal n f s).regs = s.regs := modSlot_regs _ _ _
@[simp] theorem modCal_pitchAct (n : Nat) (f : SlotCal → SlotCal) (s : State) : (modCal n f s).pitchAct = s.pitchAct :=
  modSlot_pitchAct _ _ _
@[simp] theorem modCal_dram (n : Nat) (f : SlotCal → SlotCal) (s : State) : (modCal n f s).dram = s.dram := modSlot_dram _ _ _
@[simp] theorem modCal_dramEpoch (n : Nat) (f : SlotCal → SlotCal) (s : State) : (modCal n f s).dramEpoch = s.dramEpoch :=
  modSlot_dramEpoch _ _ _
@[simp] theorem modCal_bar4 (n : Nat) (f : SlotCal → SlotCal) (s : State) : (modCal n f s).bar4 = s.bar4 := modSlot_bar4 _ _ _
@[simp] theorem modCal_busData (n : Nat) (f : SlotCal → SlotCal) (s : State) : (modCal n f s).busData = s.busData :=
  modSlot_busData _ _ _
@[simp] theorem modCal_out (n : Nat) (f : SlotCal → SlotCal) (s : State) : (modCal n f s).out = s.out := modSlot_out _ _ _
@[simp] theorem modCal_freeCount (n : Nat) (f : SlotCal → SlotCal) (s : State) : (modCal n f s).freeCount = s.freeCount :=
  modSlot_freeCount _ _ _
@[simp] theorem modCal_a8 (n : Nat) (f : SlotCal → SlotCal) (s : State) : (modCal n f s).a8 = s.a8 := modSlot_a8 _ _ _
@[simp] theorem modCal_corePh (n : Nat) (f : SlotCal → SlotCal) (s : State) : (modCal n f s).corePh = s.corePh :=
  modSlot_corePh _ _ _
@[simp] theorem modCal_cast (n : Nat) (f : SlotCal → SlotCal) (s : State) : (modCal n f s).cast = s.cast := modSlot_cast _ _ _
@[simp] theorem modCal_ports (n : Nat) (f : SlotCal → SlotCal) (s : State) : (modCal n f s).ports = s.ports :=
  modSlot_ports _ _ _
@[simp] theorem modCal_hall (n : Nat) (f : SlotCal → SlotCal) (s : State) : (modCal n f s).hall = s.hall := modSlot_hall _ _ _
@[simp] theorem modCal_power (n : Nat) (f : SlotCal → SlotCal) (s : State) : (modCal n f s).power = s.power :=
  modSlot_power _ _ _
@[simp] theorem modCal_fr (n : Nat) (f : SlotCal → SlotCal) (s : State) : (modCal n f s).fr = s.fr := modSlot_fr _ _ _
@[simp] theorem modCal_mail (n : Nat) (f : SlotCal → SlotCal) (s : State) : (modCal n f s).mail = s.mail := modSlot_mail _ _ _
@[simp] theorem modCal_codec (n : Nat) (f : SlotCal → SlotCal) (s : State) : (modCal n f s).codec = s.codec :=
  modSlot_codec _ _ _
@[simp] theorem modCal_chans (n : Nat) (f : SlotCal → SlotCal) (s : State) : (modCal n f s).chans = s.chans :=
  modSlot_chans _ _ _
@[simp] theorem modCal_page (n : Nat) (f : SlotCal → SlotCal) (s : State) : (modCal n f s).page = s.page := modSlot_page _ _ _
@[simp] theorem modCal_mc (n : Nat) (f : SlotCal → SlotCal) (s : State) : (modCal n f s).mc = s.mc := modSlot_mc _ _ _
@[simp] theorem modCal_heat (n : Nat) (f : SlotCal → SlotCal) (s : State) : (modCal n f s).heat = s.heat := modSlot_heat _ _ _
@[simp] theorem modCal_sb (n : Nat) (f : SlotCal → SlotCal) (s : State) : (modCal n f s).sb = s.sb := modSlot_sb _ _ _
@[simp] theorem modCal_loops (n : Nat) (f : SlotCal → SlotCal) (s : State) : (modCal n f s).loops = s.loops :=
  modSlot_loops _ _ _

@[simp] theorem modLines_pending (n : Nat) (f : LineBuild → LineBuild) (s : State) : (modLines n f s).pending = s.pending :=
  modSlot_pending _ _ _
@[simp] theorem modLines_linkTime (n : Nat) (f : LineBuild → LineBuild) (s : State) : (modLines n f s).linkTime = s.linkTime :=
  modSlot_linkTime _ _ _
@[simp] theorem modLines_regs (n : Nat) (f : LineBuild → LineBuild) (s : State) : (modLines n f s).regs = s.regs :=
  modSlot_regs _ _ _
@[simp] theorem modLines_pitchAct (n : Nat) (f : LineBuild → LineBuild) (s : State) : (modLines n f s).pitchAct = s.pitchAct :=
  modSlot_pitchAct _ _ _
@[simp] theorem modLines_dram (n : Nat) (f : LineBuild → LineBuild) (s : State) : (modLines n f s).dram = s.dram :=
  modSlot_dram _ _ _
@[simp] theorem modLines_dramEpoch (n : Nat) (f : LineBuild → LineBuild) (s : State) : (modLines n f s).dramEpoch = s.dramEpoch :=
  modSlot_dramEpoch _ _ _
@[simp] theorem modLines_bar4 (n : Nat) (f : LineBuild → LineBuild) (s : State) : (modLines n f s).bar4 = s.bar4 :=
  modSlot_bar4 _ _ _
@[simp] theorem modLines_busData (n : Nat) (f : LineBuild → LineBuild) (s : State) : (modLines n f s).busData = s.busData :=
  modSlot_busData _ _ _
@[simp] theorem modLines_out (n : Nat) (f : LineBuild → LineBuild) (s : State) : (modLines n f s).out = s.out :=
  modSlot_out _ _ _
@[simp] theorem modLines_freeCount (n : Nat) (f : LineBuild → LineBuild) (s : State) : (modLines n f s).freeCount = s.freeCount :=
  modSlot_freeCount _ _ _
@[simp] theorem modLines_a8 (n : Nat) (f : LineBuild → LineBuild) (s : State) : (modLines n f s).a8 = s.a8 := modSlot_a8 _ _ _
@[simp] theorem modLines_corePh (n : Nat) (f : LineBuild → LineBuild) (s : State) : (modLines n f s).corePh = s.corePh :=
  modSlot_corePh _ _ _
@[simp] theorem modLines_cast (n : Nat) (f : LineBuild → LineBuild) (s : State) : (modLines n f s).cast = s.cast :=
  modSlot_cast _ _ _
@[simp] theorem modLines_ports (n : Nat) (f : LineBuild → LineBuild) (s : State) : (modLines n f s).ports = s.ports :=
  modSlot_ports _ _ _
@[simp] theorem modLines_hall (n : Nat) (f : LineBuild → LineBuild) (s : State) : (modLines n f s).hall = s.hall :=
  modSlot_hall _ _ _
@[simp] theorem modLines_power (n : Nat) (f : LineBuild → LineBuild) (s : State) : (modLines n f s).power = s.power :=
  modSlot_power _ _ _
@[simp] theorem modLines_fr (n : Nat) (f : LineBuild → LineBuild) (s : State) : (modLines n f s).fr = s.fr := modSlot_fr _ _ _
@[simp] theorem modLines_mail (n : Nat) (f : LineBuild → LineBuild) (s : State) : (modLines n f s).mail = s.mail :=
  modSlot_mail _ _ _
@[simp] theorem modLines_codec (n : Nat) (f : LineBuild → LineBuild) (s : State) : (modLines n f s).codec = s.codec :=
  modSlot_codec _ _ _
@[simp] theorem modLines_chans (n : Nat) (f : LineBuild → LineBuild) (s : State) : (modLines n f s).chans = s.chans :=
  modSlot_chans _ _ _
@[simp] theorem modLines_page (n : Nat) (f : LineBuild → LineBuild) (s : State) : (modLines n f s).page = s.page :=
  modSlot_page _ _ _
@[simp] theorem modLines_mc (n : Nat) (f : LineBuild → LineBuild) (s : State) : (modLines n f s).mc = s.mc := modSlot_mc _ _ _
@[simp] theorem modLines_heat (n : Nat) (f : LineBuild → LineBuild) (s : State) : (modLines n f s).heat = s.heat :=
  modSlot_heat _ _ _
@[simp] theorem modLines_sb (n : Nat) (f : LineBuild → LineBuild) (s : State) : (modLines n f s).sb = s.sb := modSlot_sb _ _ _
@[simp] theorem modLines_loops (n : Nat) (f : LineBuild → LineBuild) (s : State) : (modLines n f s).loops = s.loops :=
  modSlot_loops _ _ _

@[simp] theorem modCast_pending (f : CastState → CastState) (s : State) : (modCast f s).pending = s.pending := rfl
@[simp] theorem modCast_linkTime (f : CastState → CastState) (s : State) : (modCast f s).linkTime = s.linkTime := rfl
@[simp] theorem modCast_regs (f : CastState → CastState) (s : State) : (modCast f s).regs = s.regs := rfl
@[simp] theorem modCast_pitchAct (f : CastState → CastState) (s : State) : (modCast f s).pitchAct = s.pitchAct := rfl
@[simp] theorem modCast_dram (f : CastState → CastState) (s : State) : (modCast f s).dram = s.dram := rfl
@[simp] theorem modCast_dramEpoch (f : CastState → CastState) (s : State) : (modCast f s).dramEpoch = s.dramEpoch := rfl
@[simp] theorem modCast_bar4 (f : CastState → CastState) (s : State) : (modCast f s).bar4 = s.bar4 := rfl
@[simp] theorem modCast_busData (f : CastState → CastState) (s : State) : (modCast f s).busData = s.busData := rfl
@[simp] theorem modCast_out (f : CastState → CastState) (s : State) : (modCast f s).out = s.out := rfl
@[simp] theorem modCast_freeCount (f : CastState → CastState) (s : State) : (modCast f s).freeCount = s.freeCount := rfl
@[simp] theorem modCast_a8 (f : CastState → CastState) (s : State) : (modCast f s).a8 = s.a8 := rfl
@[simp] theorem modCast_corePh (f : CastState → CastState) (s : State) : (modCast f s).corePh = s.corePh := rfl
@[simp] theorem modCast_slots (f : CastState → CastState) (s : State) : (modCast f s).slots = s.slots := rfl
@[simp] theorem modCast_ports (f : CastState → CastState) (s : State) : (modCast f s).ports = s.ports := rfl
@[simp] theorem modCast_hall (f : CastState → CastState) (s : State) : (modCast f s).hall = s.hall := rfl
@[simp] theorem modCast_power (f : CastState → CastState) (s : State) : (modCast f s).power = s.power := rfl
@[simp] theorem modCast_fr (f : CastState → CastState) (s : State) : (modCast f s).fr = s.fr := rfl
@[simp] theorem modCast_mail (f : CastState → CastState) (s : State) : (modCast f s).mail = s.mail := rfl
@[simp] theorem modCast_codec (f : CastState → CastState) (s : State) : (modCast f s).codec = s.codec := rfl
@[simp] theorem modCast_chans (f : CastState → CastState) (s : State) : (modCast f s).chans = s.chans := rfl
@[simp] theorem modCast_page (f : CastState → CastState) (s : State) : (modCast f s).page = s.page := rfl
@[simp] theorem modCast_mc (f : CastState → CastState) (s : State) : (modCast f s).mc = s.mc := rfl
@[simp] theorem modCast_heat (f : CastState → CastState) (s : State) : (modCast f s).heat = s.heat := rfl
@[simp] theorem modCast_sb (f : CastState → CastState) (s : State) : (modCast f s).sb = s.sb := rfl
@[simp] theorem modCast_loops (f : CastState → CastState) (s : State) : (modCast f s).loops = s.loops := rfl

@[simp] theorem modMc_pending (f : DramState → DramState) (s : State) : (modMc f s).pending = s.pending := rfl
@[simp] theorem modMc_linkTime (f : DramState → DramState) (s : State) : (modMc f s).linkTime = s.linkTime := rfl
@[simp] theorem modMc_regs (f : DramState → DramState) (s : State) : (modMc f s).regs = s.regs := rfl
@[simp] theorem modMc_pitchAct (f : DramState → DramState) (s : State) : (modMc f s).pitchAct = s.pitchAct := rfl
@[simp] theorem modMc_dram (f : DramState → DramState) (s : State) : (modMc f s).dram = s.dram := rfl
@[simp] theorem modMc_dramEpoch (f : DramState → DramState) (s : State) : (modMc f s).dramEpoch = s.dramEpoch := rfl
@[simp] theorem modMc_bar4 (f : DramState → DramState) (s : State) : (modMc f s).bar4 = s.bar4 := rfl
@[simp] theorem modMc_busData (f : DramState → DramState) (s : State) : (modMc f s).busData = s.busData := rfl
@[simp] theorem modMc_out (f : DramState → DramState) (s : State) : (modMc f s).out = s.out := rfl
@[simp] theorem modMc_freeCount (f : DramState → DramState) (s : State) : (modMc f s).freeCount = s.freeCount := rfl
@[simp] theorem modMc_a8 (f : DramState → DramState) (s : State) : (modMc f s).a8 = s.a8 := rfl
@[simp] theorem modMc_corePh (f : DramState → DramState) (s : State) : (modMc f s).corePh = s.corePh := rfl
@[simp] theorem modMc_cast (f : DramState → DramState) (s : State) : (modMc f s).cast = s.cast := rfl
@[simp] theorem modMc_slots (f : DramState → DramState) (s : State) : (modMc f s).slots = s.slots := rfl
@[simp] theorem modMc_ports (f : DramState → DramState) (s : State) : (modMc f s).ports = s.ports := rfl
@[simp] theorem modMc_hall (f : DramState → DramState) (s : State) : (modMc f s).hall = s.hall := rfl
@[simp] theorem modMc_power (f : DramState → DramState) (s : State) : (modMc f s).power = s.power := rfl
@[simp] theorem modMc_fr (f : DramState → DramState) (s : State) : (modMc f s).fr = s.fr := rfl
@[simp] theorem modMc_mail (f : DramState → DramState) (s : State) : (modMc f s).mail = s.mail := rfl
@[simp] theorem modMc_codec (f : DramState → DramState) (s : State) : (modMc f s).codec = s.codec := rfl
@[simp] theorem modMc_chans (f : DramState → DramState) (s : State) : (modMc f s).chans = s.chans := rfl
@[simp] theorem modMc_page (f : DramState → DramState) (s : State) : (modMc f s).page = s.page := rfl
@[simp] theorem modMc_heat (f : DramState → DramState) (s : State) : (modMc f s).heat = s.heat := rfl
@[simp] theorem modMc_sb (f : DramState → DramState) (s : State) : (modMc f s).sb = s.sb := rfl
@[simp] theorem modMc_loops (f : DramState → DramState) (s : State) : (modMc f s).loops = s.loops := rfl

@[simp] theorem modHeat_pending (f : HeatState → HeatState) (s : State) : (modHeat f s).pending = s.pending := rfl
@[simp] theorem modHeat_linkTime (f : HeatState → HeatState) (s : State) : (modHeat f s).linkTime = s.linkTime := rfl
@[simp] theorem modHeat_regs (f : HeatState → HeatState) (s : State) : (modHeat f s).regs = s.regs := rfl
@[simp] theorem modHeat_pitchAct (f : HeatState → HeatState) (s : State) : (modHeat f s).pitchAct = s.pitchAct := rfl
@[simp] theorem modHeat_dram (f : HeatState → HeatState) (s : State) : (modHeat f s).dram = s.dram := rfl
@[simp] theorem modHeat_dramEpoch (f : HeatState → HeatState) (s : State) : (modHeat f s).dramEpoch = s.dramEpoch := rfl
@[simp] theorem modHeat_bar4 (f : HeatState → HeatState) (s : State) : (modHeat f s).bar4 = s.bar4 := rfl
@[simp] theorem modHeat_busData (f : HeatState → HeatState) (s : State) : (modHeat f s).busData = s.busData := rfl
@[simp] theorem modHeat_out (f : HeatState → HeatState) (s : State) : (modHeat f s).out = s.out := rfl
@[simp] theorem modHeat_freeCount (f : HeatState → HeatState) (s : State) : (modHeat f s).freeCount = s.freeCount := rfl
@[simp] theorem modHeat_a8 (f : HeatState → HeatState) (s : State) : (modHeat f s).a8 = s.a8 := rfl
@[simp] theorem modHeat_corePh (f : HeatState → HeatState) (s : State) : (modHeat f s).corePh = s.corePh := rfl
@[simp] theorem modHeat_cast (f : HeatState → HeatState) (s : State) : (modHeat f s).cast = s.cast := rfl
@[simp] theorem modHeat_slots (f : HeatState → HeatState) (s : State) : (modHeat f s).slots = s.slots := rfl
@[simp] theorem modHeat_ports (f : HeatState → HeatState) (s : State) : (modHeat f s).ports = s.ports := rfl
@[simp] theorem modHeat_hall (f : HeatState → HeatState) (s : State) : (modHeat f s).hall = s.hall := rfl
@[simp] theorem modHeat_power (f : HeatState → HeatState) (s : State) : (modHeat f s).power = s.power := rfl
@[simp] theorem modHeat_fr (f : HeatState → HeatState) (s : State) : (modHeat f s).fr = s.fr := rfl
@[simp] theorem modHeat_mail (f : HeatState → HeatState) (s : State) : (modHeat f s).mail = s.mail := rfl
@[simp] theorem modHeat_codec (f : HeatState → HeatState) (s : State) : (modHeat f s).codec = s.codec := rfl
@[simp] theorem modHeat_chans (f : HeatState → HeatState) (s : State) : (modHeat f s).chans = s.chans := rfl
@[simp] theorem modHeat_page (f : HeatState → HeatState) (s : State) : (modHeat f s).page = s.page := rfl
@[simp] theorem modHeat_mc (f : HeatState → HeatState) (s : State) : (modHeat f s).mc = s.mc := rfl
@[simp] theorem modHeat_sb (f : HeatState → HeatState) (s : State) : (modHeat f s).sb = s.sb := rfl
@[simp] theorem modHeat_loops (f : HeatState → HeatState) (s : State) : (modHeat f s).loops = s.loops := rfl

@[simp] theorem modPower_pending (f : PowerState → PowerState) (s : State) : (modPower f s).pending = s.pending := rfl
@[simp] theorem modPower_linkTime (f : PowerState → PowerState) (s : State) : (modPower f s).linkTime = s.linkTime := rfl
@[simp] theorem modPower_regs (f : PowerState → PowerState) (s : State) : (modPower f s).regs = s.regs := rfl
@[simp] theorem modPower_pitchAct (f : PowerState → PowerState) (s : State) : (modPower f s).pitchAct = s.pitchAct := rfl
@[simp] theorem modPower_dram (f : PowerState → PowerState) (s : State) : (modPower f s).dram = s.dram := rfl
@[simp] theorem modPower_dramEpoch (f : PowerState → PowerState) (s : State) : (modPower f s).dramEpoch = s.dramEpoch := rfl
@[simp] theorem modPower_bar4 (f : PowerState → PowerState) (s : State) : (modPower f s).bar4 = s.bar4 := rfl
@[simp] theorem modPower_busData (f : PowerState → PowerState) (s : State) : (modPower f s).busData = s.busData := rfl
@[simp] theorem modPower_out (f : PowerState → PowerState) (s : State) : (modPower f s).out = s.out := rfl
@[simp] theorem modPower_freeCount (f : PowerState → PowerState) (s : State) : (modPower f s).freeCount = s.freeCount := rfl
@[simp] theorem modPower_a8 (f : PowerState → PowerState) (s : State) : (modPower f s).a8 = s.a8 := rfl
@[simp] theorem modPower_corePh (f : PowerState → PowerState) (s : State) : (modPower f s).corePh = s.corePh := rfl
@[simp] theorem modPower_cast (f : PowerState → PowerState) (s : State) : (modPower f s).cast = s.cast := rfl
@[simp] theorem modPower_slots (f : PowerState → PowerState) (s : State) : (modPower f s).slots = s.slots := rfl
@[simp] theorem modPower_ports (f : PowerState → PowerState) (s : State) : (modPower f s).ports = s.ports := rfl
@[simp] theorem modPower_hall (f : PowerState → PowerState) (s : State) : (modPower f s).hall = s.hall := rfl
@[simp] theorem modPower_fr (f : PowerState → PowerState) (s : State) : (modPower f s).fr = s.fr := rfl
@[simp] theorem modPower_mail (f : PowerState → PowerState) (s : State) : (modPower f s).mail = s.mail := rfl
@[simp] theorem modPower_codec (f : PowerState → PowerState) (s : State) : (modPower f s).codec = s.codec := rfl
@[simp] theorem modPower_chans (f : PowerState → PowerState) (s : State) : (modPower f s).chans = s.chans := rfl
@[simp] theorem modPower_page (f : PowerState → PowerState) (s : State) : (modPower f s).page = s.page := rfl
@[simp] theorem modPower_mc (f : PowerState → PowerState) (s : State) : (modPower f s).mc = s.mc := rfl
@[simp] theorem modPower_heat (f : PowerState → PowerState) (s : State) : (modPower f s).heat = s.heat := rfl
@[simp] theorem modPower_sb (f : PowerState → PowerState) (s : State) : (modPower f s).sb = s.sb := rfl
@[simp] theorem modPower_loops (f : PowerState → PowerState) (s : State) : (modPower f s).loops = s.loops := rfl

@[simp] theorem sendVector_pending (v : Nat) (s : State) : (sendVector v s).pending = s.pending := rfl
@[simp] theorem sendVector_linkTime (v : Nat) (s : State) : (sendVector v s).linkTime = s.linkTime := rfl
@[simp] theorem sendVector_regs (v : Nat) (s : State) : (sendVector v s).regs = s.regs := rfl
@[simp] theorem sendVector_pitchAct (v : Nat) (s : State) : (sendVector v s).pitchAct = s.pitchAct := rfl
@[simp] theorem sendVector_dram (v : Nat) (s : State) : (sendVector v s).dram = s.dram := rfl
@[simp] theorem sendVector_dramEpoch (v : Nat) (s : State) : (sendVector v s).dramEpoch = s.dramEpoch := rfl
@[simp] theorem sendVector_bar4 (v : Nat) (s : State) : (sendVector v s).bar4 = s.bar4 := rfl
@[simp] theorem sendVector_busData (v : Nat) (s : State) : (sendVector v s).busData = s.busData := rfl
@[simp] theorem sendVector_freeCount (v : Nat) (s : State) : (sendVector v s).freeCount = s.freeCount := rfl
@[simp] theorem sendVector_a8 (v : Nat) (s : State) : (sendVector v s).a8 = s.a8 := rfl
@[simp] theorem sendVector_corePh (v : Nat) (s : State) : (sendVector v s).corePh = s.corePh := rfl
@[simp] theorem sendVector_cast (v : Nat) (s : State) : (sendVector v s).cast = s.cast := rfl
@[simp] theorem sendVector_slots (v : Nat) (s : State) : (sendVector v s).slots = s.slots := rfl
@[simp] theorem sendVector_ports (v : Nat) (s : State) : (sendVector v s).ports = s.ports := rfl
@[simp] theorem sendVector_hall (v : Nat) (s : State) : (sendVector v s).hall = s.hall := rfl
@[simp] theorem sendVector_power (v : Nat) (s : State) : (sendVector v s).power = s.power := rfl
@[simp] theorem sendVector_fr (v : Nat) (s : State) : (sendVector v s).fr = s.fr := rfl
@[simp] theorem sendVector_mail (v : Nat) (s : State) : (sendVector v s).mail = s.mail := rfl
@[simp] theorem sendVector_codec (v : Nat) (s : State) : (sendVector v s).codec = s.codec := rfl
@[simp] theorem sendVector_chans (v : Nat) (s : State) : (sendVector v s).chans = s.chans := rfl
@[simp] theorem sendVector_page (v : Nat) (s : State) : (sendVector v s).page = s.page := rfl
@[simp] theorem sendVector_mc (v : Nat) (s : State) : (sendVector v s).mc = s.mc := rfl
@[simp] theorem sendVector_heat (v : Nat) (s : State) : (sendVector v s).heat = s.heat := rfl
@[simp] theorem sendVector_sb (v : Nat) (s : State) : (sendVector v s).sb = s.sb := rfl
@[simp] theorem sendVector_loops (v : Nat) (s : State) : (sendVector v s).loops = s.loops := rfl

@[simp] theorem raiseVec_pending (v : Nat) (s : State) : (raiseVec v s).pending = s.pending := by
  unfold raiseVec; repeat' split
  all_goals rfl
@[simp] theorem raiseVec_linkTime (v : Nat) (s : State) : (raiseVec v s).linkTime = s.linkTime := by
  unfold raiseVec; repeat' split
  all_goals rfl
@[simp] theorem raiseVec_pitchAct (v : Nat) (s : State) : (raiseVec v s).pitchAct = s.pitchAct := by
  unfold raiseVec; repeat' split
  all_goals rfl
@[simp] theorem raiseVec_dram (v : Nat) (s : State) : (raiseVec v s).dram = s.dram := by
  unfold raiseVec; repeat' split
  all_goals rfl
@[simp] theorem raiseVec_dramEpoch (v : Nat) (s : State) : (raiseVec v s).dramEpoch = s.dramEpoch := by
  unfold raiseVec; repeat' split
  all_goals rfl
@[simp] theorem raiseVec_bar4 (v : Nat) (s : State) : (raiseVec v s).bar4 = s.bar4 := by
  unfold raiseVec; repeat' split
  all_goals rfl
@[simp] theorem raiseVec_busData (v : Nat) (s : State) : (raiseVec v s).busData = s.busData := by
  unfold raiseVec; repeat' split
  all_goals rfl
@[simp] theorem raiseVec_freeCount (v : Nat) (s : State) : (raiseVec v s).freeCount = s.freeCount := by
  unfold raiseVec; repeat' split
  all_goals rfl
@[simp] theorem raiseVec_a8 (v : Nat) (s : State) : (raiseVec v s).a8 = s.a8 := by
  unfold raiseVec; repeat' split
  all_goals rfl
@[simp] theorem raiseVec_corePh (v : Nat) (s : State) : (raiseVec v s).corePh = s.corePh := by
  unfold raiseVec; repeat' split
  all_goals rfl
@[simp] theorem raiseVec_cast (v : Nat) (s : State) : (raiseVec v s).cast = s.cast := by
  unfold raiseVec; repeat' split
  all_goals rfl
@[simp] theorem raiseVec_slots (v : Nat) (s : State) : (raiseVec v s).slots = s.slots := by
  unfold raiseVec; repeat' split
  all_goals rfl
@[simp] theorem raiseVec_ports (v : Nat) (s : State) : (raiseVec v s).ports = s.ports := by
  unfold raiseVec; repeat' split
  all_goals rfl
@[simp] theorem raiseVec_hall (v : Nat) (s : State) : (raiseVec v s).hall = s.hall := by
  unfold raiseVec; repeat' split
  all_goals rfl
@[simp] theorem raiseVec_power (v : Nat) (s : State) : (raiseVec v s).power = s.power := by
  unfold raiseVec; repeat' split
  all_goals rfl
@[simp] theorem raiseVec_fr (v : Nat) (s : State) : (raiseVec v s).fr = s.fr := by
  unfold raiseVec; repeat' split
  all_goals rfl
@[simp] theorem raiseVec_mail (v : Nat) (s : State) : (raiseVec v s).mail = s.mail := by
  unfold raiseVec; repeat' split
  all_goals rfl
@[simp] theorem raiseVec_codec (v : Nat) (s : State) : (raiseVec v s).codec = s.codec := by
  unfold raiseVec; repeat' split
  all_goals rfl
@[simp] theorem raiseVec_chans (v : Nat) (s : State) : (raiseVec v s).chans = s.chans := by
  unfold raiseVec; repeat' split
  all_goals rfl
@[simp] theorem raiseVec_page (v : Nat) (s : State) : (raiseVec v s).page = s.page := by
  unfold raiseVec; repeat' split
  all_goals rfl
@[simp] theorem raiseVec_mc (v : Nat) (s : State) : (raiseVec v s).mc = s.mc := by
  unfold raiseVec; repeat' split
  all_goals rfl
@[simp] theorem raiseVec_heat (v : Nat) (s : State) : (raiseVec v s).heat = s.heat := by
  unfold raiseVec; repeat' split
  all_goals rfl
@[simp] theorem raiseVec_sb (v : Nat) (s : State) : (raiseVec v s).sb = s.sb := by
  unfold raiseVec; repeat' split
  all_goals rfl
@[simp] theorem raiseVec_loops (v : Nat) (s : State) : (raiseVec v s).loops = s.loops := by
  unfold raiseVec; repeat' split
  all_goals rfl

@[simp] theorem setFault_pending (b : Nat) (s : State) : (setFault b s).pending = s.pending := by
  simp [setFault]
@[simp] theorem setFault_linkTime (b : Nat) (s : State) : (setFault b s).linkTime = s.linkTime := by
  simp [setFault]
@[simp] theorem setFault_pitchAct (b : Nat) (s : State) : (setFault b s).pitchAct = s.pitchAct := by
  simp [setFault]
@[simp] theorem setFault_dram (b : Nat) (s : State) : (setFault b s).dram = s.dram := by
  simp [setFault]
@[simp] theorem setFault_dramEpoch (b : Nat) (s : State) : (setFault b s).dramEpoch = s.dramEpoch := by
  simp [setFault]
@[simp] theorem setFault_bar4 (b : Nat) (s : State) : (setFault b s).bar4 = s.bar4 := by
  simp [setFault]
@[simp] theorem setFault_busData (b : Nat) (s : State) : (setFault b s).busData = s.busData := by
  simp [setFault]
@[simp] theorem setFault_freeCount (b : Nat) (s : State) : (setFault b s).freeCount = s.freeCount := by
  simp [setFault]
@[simp] theorem setFault_a8 (b : Nat) (s : State) : (setFault b s).a8 = s.a8 := by
  simp [setFault]
@[simp] theorem setFault_corePh (b : Nat) (s : State) : (setFault b s).corePh = s.corePh := by
  simp [setFault]
@[simp] theorem setFault_cast (b : Nat) (s : State) : (setFault b s).cast = s.cast := by
  simp [setFault]
@[simp] theorem setFault_slots (b : Nat) (s : State) : (setFault b s).slots = s.slots := by
  simp [setFault]
@[simp] theorem setFault_ports (b : Nat) (s : State) : (setFault b s).ports = s.ports := by
  simp [setFault]
@[simp] theorem setFault_hall (b : Nat) (s : State) : (setFault b s).hall = s.hall := by
  simp [setFault]
@[simp] theorem setFault_power (b : Nat) (s : State) : (setFault b s).power = s.power := by
  simp [setFault]
@[simp] theorem setFault_fr (b : Nat) (s : State) : (setFault b s).fr = s.fr := by
  simp [setFault]
@[simp] theorem setFault_mail (b : Nat) (s : State) : (setFault b s).mail = s.mail := by
  simp [setFault]
@[simp] theorem setFault_codec (b : Nat) (s : State) : (setFault b s).codec = s.codec := by
  simp [setFault]
@[simp] theorem setFault_chans (b : Nat) (s : State) : (setFault b s).chans = s.chans := by
  simp [setFault]
@[simp] theorem setFault_page (b : Nat) (s : State) : (setFault b s).page = s.page := by
  simp [setFault]
@[simp] theorem setFault_mc (b : Nat) (s : State) : (setFault b s).mc = s.mc := by
  simp [setFault]
@[simp] theorem setFault_heat (b : Nat) (s : State) : (setFault b s).heat = s.heat := by
  simp [setFault]
@[simp] theorem setFault_sb (b : Nat) (s : State) : (setFault b s).sb = s.sb := by
  simp [setFault]
@[simp] theorem setFault_loops (b : Nat) (s : State) : (setFault b s).loops = s.loops := by
  simp [setFault]

/-! ## Reads of another part of the state -/

@[simp] theorem slotAt_setReg (a : Nat) (v : Word) (s : State) (k : Nat) : slotAt (setReg a v s) k = slotAt s k := by
  simp [slotAt]

@[simp] theorem portAt_setReg (a : Nat) (v : Word) (s : State) (k : Nat) : portAt (setReg a v s) k = portAt s k := by
  simp [portAt]

@[simp] theorem slotAt_setRegs (l : List (Nat × Word)) (s : State) (k : Nat) : slotAt (setRegs l s) k = slotAt s k := by
  simp [slotAt]

@[simp] theorem portAt_setRegs (l : List (Nat × Word)) (s : State) (k : Nat) : portAt (setRegs l s) k = portAt s k := by
  simp [portAt]

@[simp] theorem slotAt_setFld (a hi lo x : Nat) (s : State) (k : Nat) : slotAt (setFld a hi lo x s) k = slotAt s k := by
  simp [slotAt]

@[simp] theorem portAt_setFld (a hi lo x : Nat) (s : State) (k : Nat) : portAt (setFld a hi lo x s) k = portAt s k := by
  simp [portAt]

@[simp] theorem slotAt_setBit (a i : Nat) (b : Bool) (s : State) (k : Nat) : slotAt (setBit a i b s) k = slotAt s k := by
  simp [slotAt]

@[simp] theorem portAt_setBit (a i : Nat) (b : Bool) (s : State) (k : Nat) : portAt (setBit a i b s) k = portAt s k := by
  simp [portAt]

@[simp] theorem slotAt_addSat (a hi lo j : Nat) (s : State) (k : Nat) : slotAt (addSat a hi lo j s) k = slotAt s k := by
  simp [slotAt]

@[simp] theorem portAt_addSat (a hi lo j : Nat) (s : State) (k : Nat) : portAt (addSat a hi lo j s) k = portAt s k := by
  simp [portAt]

@[simp] theorem slotAt_incSat (a hi lo : Nat) (s : State) (k : Nat) : slotAt (incSat a hi lo s) k = slotAt s k := by
  simp [slotAt]

@[simp] theorem portAt_incSat (a hi lo : Nat) (s : State) (k : Nat) : portAt (incSat a hi lo s) k = portAt s k := by
  simp [portAt]

@[simp] theorem reg_emit (o : Out) (s : State) (k : Nat) : reg (emit o s) k = reg s k := by
  simp [reg]

@[simp] theorem slotAt_emit (o : Out) (s : State) (k : Nat) : slotAt (emit o s) k = slotAt s k := by
  simp [slotAt]

@[simp] theorem portAt_emit (o : Out) (s : State) (k : Nat) : portAt (emit o s) k = portAt s k := by
  simp [portAt]

@[simp] theorem reg_dramWrite (a : Nat) (bs : List Byte) (s : State) (k : Nat) : reg (dramWrite a bs s) k = reg s k := by
  simp [reg]

@[simp] theorem slotAt_dramWrite (a : Nat) (bs : List Byte) (s : State) (k : Nat) : slotAt (dramWrite a bs s) k = slotAt s k := by
  simp [slotAt]

@[simp] theorem portAt_dramWrite (a : Nat) (bs : List Byte) (s : State) (k : Nat) : portAt (dramWrite a bs s) k = portAt s k := by
  simp [portAt]

@[simp] theorem reg_dramForget (s : State) (k : Nat) : reg (dramForget s) k = reg s k := by
  simp [reg]

@[simp] theorem slotAt_dramForget (s : State) (k : Nat) : slotAt (dramForget s) k = slotAt s k := by
  simp [slotAt]

@[simp] theorem portAt_dramForget (s : State) (k : Nat) : portAt (dramForget s) k = portAt s k := by
  simp [portAt]

@[simp] theorem reg_modSlot (n : Nat) (f : SlotState → SlotState) (s : State) (k : Nat) : reg (modSlot n f s) k = reg s k := by
  simp [reg]

@[simp] theorem portAt_modSlot (n : Nat) (f : SlotState → SlotState) (s : State) (k : Nat) : portAt (modSlot n f s) k = portAt s k := by
  simp [portAt]

@[simp] theorem reg_modPort (p : Nat) (f : PortState → PortState) (s : State) (k : Nat) : reg (modPort p f s) k = reg s k := by
  simp [reg]

@[simp] theorem slotAt_modPort (p : Nat) (f : PortState → PortState) (s : State) (k : Nat) : slotAt (modPort p f s) k = slotAt s k := by
  simp [slotAt]

@[simp] theorem reg_modChan (j : Nat) (f : ChanCal → ChanCal) (s : State) (k : Nat) : reg (modChan j f s) k = reg s k := by
  simp [reg]

@[simp] theorem slotAt_modChan (j : Nat) (f : ChanCal → ChanCal) (s : State) (k : Nat) : slotAt (modChan j f s) k = slotAt s k := by
  simp [slotAt]

@[simp] theorem portAt_modChan (j : Nat) (f : ChanCal → ChanCal) (s : State) (k : Nat) : portAt (modChan j f s) k = portAt s k := by
  simp [portAt]

@[simp] theorem reg_modLoop (l : Nat) (f : LoopState → LoopState) (s : State) (k : Nat) : reg (modLoop l f s) k = reg s k := by
  simp [reg]

@[simp] theorem slotAt_modLoop (l : Nat) (f : LoopState → LoopState) (s : State) (k : Nat) : slotAt (modLoop l f s) k = slotAt s k := by
  simp [slotAt]

@[simp] theorem portAt_modLoop (l : Nat) (f : LoopState → LoopState) (s : State) (k : Nat) : portAt (modLoop l f s) k = portAt s k := by
  simp [portAt]

@[simp] theorem reg_modCam (c : Nat) (f : CamState → CamState) (s : State) (k : Nat) : reg (modCam c f s) k = reg s k := by
  simp [reg]

@[simp] theorem slotAt_modCam (c : Nat) (f : CamState → CamState) (s : State) (k : Nat) : slotAt (modCam c f s) k = slotAt s k := by
  simp [slotAt]

@[simp] theorem portAt_modCam (c : Nat) (f : CamState → CamState) (s : State) (k : Nat) : portAt (modCam c f s) k = portAt s k := by
  simp [portAt]

@[simp] theorem reg_modReck (n : Nat) (f : Reckoner → Reckoner) (s : State) (k : Nat) : reg (modReck n f s) k = reg s k := by
  simp [reg]

@[simp] theorem portAt_modReck (n : Nat) (f : Reckoner → Reckoner) (s : State) (k : Nat) : portAt (modReck n f s) k = portAt s k := by
  simp [portAt]

@[simp] theorem reg_modHall (n : Nat) (f : HallSlot → HallSlot) (s : State) (k : Nat) : reg (modHall n f s) k = reg s k := by
  simp [reg]

@[simp] theorem portAt_modHall (n : Nat) (f : HallSlot → HallSlot) (s : State) (k : Nat) : portAt (modHall n f s) k = portAt s k := by
  simp [portAt]

@[simp] theorem reg_modCal (n : Nat) (f : SlotCal → SlotCal) (s : State) (k : Nat) : reg (modCal n f s) k = reg s k := by
  simp [reg]

@[simp] theorem portAt_modCal (n : Nat) (f : SlotCal → SlotCal) (s : State) (k : Nat) : portAt (modCal n f s) k = portAt s k := by
  simp [portAt]

@[simp] theorem reg_modLines (n : Nat) (f : LineBuild → LineBuild) (s : State) (k : Nat) : reg (modLines n f s) k = reg s k := by
  simp [reg]

@[simp] theorem portAt_modLines (n : Nat) (f : LineBuild → LineBuild) (s : State) (k : Nat) : portAt (modLines n f s) k = portAt s k := by
  simp [portAt]

@[simp] theorem reg_modCast (f : CastState → CastState) (s : State) (k : Nat) : reg (modCast f s) k = reg s k := by
  simp [reg]

@[simp] theorem slotAt_modCast (f : CastState → CastState) (s : State) (k : Nat) : slotAt (modCast f s) k = slotAt s k := by
  simp [slotAt]

@[simp] theorem portAt_modCast (f : CastState → CastState) (s : State) (k : Nat) : portAt (modCast f s) k = portAt s k := by
  simp [portAt]

@[simp] theorem reg_modMc (f : DramState → DramState) (s : State) (k : Nat) : reg (modMc f s) k = reg s k := by
  simp [reg]

@[simp] theorem slotAt_modMc (f : DramState → DramState) (s : State) (k : Nat) : slotAt (modMc f s) k = slotAt s k := by
  simp [slotAt]

@[simp] theorem portAt_modMc (f : DramState → DramState) (s : State) (k : Nat) : portAt (modMc f s) k = portAt s k := by
  simp [portAt]

@[simp] theorem reg_modHeat (f : HeatState → HeatState) (s : State) (k : Nat) : reg (modHeat f s) k = reg s k := by
  simp [reg]

@[simp] theorem slotAt_modHeat (f : HeatState → HeatState) (s : State) (k : Nat) : slotAt (modHeat f s) k = slotAt s k := by
  simp [slotAt]

@[simp] theorem portAt_modHeat (f : HeatState → HeatState) (s : State) (k : Nat) : portAt (modHeat f s) k = portAt s k := by
  simp [portAt]

@[simp] theorem reg_modPower (f : PowerState → PowerState) (s : State) (k : Nat) : reg (modPower f s) k = reg s k := by
  simp [reg]

@[simp] theorem slotAt_modPower (f : PowerState → PowerState) (s : State) (k : Nat) : slotAt (modPower f s) k = slotAt s k := by
  simp [slotAt]

@[simp] theorem portAt_modPower (f : PowerState → PowerState) (s : State) (k : Nat) : portAt (modPower f s) k = portAt s k := by
  simp [portAt]

@[simp] theorem reg_sendVector (v : Nat) (s : State) (k : Nat) : reg (sendVector v s) k = reg s k := by
  simp [reg]

@[simp] theorem slotAt_sendVector (v : Nat) (s : State) (k : Nat) : slotAt (sendVector v s) k = slotAt s k := by
  simp [slotAt]

@[simp] theorem portAt_sendVector (v : Nat) (s : State) (k : Nat) : portAt (sendVector v s) k = portAt s k := by
  simp [portAt]

@[simp] theorem slotAt_raiseVec (v : Nat) (s : State) (k : Nat) : slotAt (raiseVec v s) k = slotAt s k := by
  simp [slotAt]

@[simp] theorem portAt_raiseVec (v : Nat) (s : State) (k : Nat) : portAt (raiseVec v s) k = portAt s k := by
  simp [portAt]

@[simp] theorem slotAt_setFault (b : Nat) (s : State) (k : Nat) : slotAt (setFault b s) k = slotAt s k := by
  simp [slotAt]

@[simp] theorem portAt_setFault (b : Nat) (s : State) (k : Nat) : portAt (setFault b s) k = portAt s k := by
  simp [portAt]

/-! ## A read after a write -/

theorem State.regs_rising {s : State} (w : s.regs.wf = true) : rising s.regs = true := SMap.wf_rising w

theorem reg_setReg_same {s : State} (w : s.regs.wf = true) (a : Nat) (v : Word) : reg (setReg a v s) a = v :=
  SMap.get_set_same (SMap.wf_rising w)

theorem reg_setReg_ne {s : State} (w : s.regs.wf = true) {a k : Nat} (v : Word) (h : k ≠ a) :
    reg (setReg a v s) k = reg s k :=
  SMap.get_set_ne (SMap.wf_rising w) h

theorem setReg_wf {s : State} (w : s.regs.wf = true) (a : Nat) (v : Word) : (setReg a v s).regs.wf = true :=
  SMap.wf_set a v w

theorem reg_setFld_same {s : State} (w : s.regs.wf = true) (a hi lo x : Nat) :
    reg (setFld a hi lo x s) a = putFld (reg s a) hi lo x :=
  reg_setReg_same w a _

theorem reg_setFld_ne {s : State} (w : s.regs.wf = true) {a k : Nat} (hi lo x : Nat) (h : k ≠ a) :
    reg (setFld a hi lo x s) k = reg s k :=
  reg_setReg_ne w _ h

theorem setFld_wf {s : State} (w : s.regs.wf = true) (a hi lo x : Nat) : (setFld a hi lo x s).regs.wf = true :=
  setReg_wf w a _

theorem setBit_wf {s : State} (w : s.regs.wf = true) (a i : Nat) (b : Bool) : (setBit a i b s).regs.wf = true :=
  setReg_wf w a _

theorem slotAt_modSlot_same {n : Nat} (h : n < 8) (f : SlotState → SlotState) (s : State) :
    slotAt (modSlot n f s) n = f (slotAt s n) := by
  simp [modSlot, slotAt, h]

theorem slotAt_modSlot_ne {n k : Nat} (h : k ≠ n) (f : SlotState → SlotState) (s : State) :
    slotAt (modSlot n f s) k = slotAt s k := by
  unfold modSlot
  split
  · simp [slotAt, Ne.symm h]
  · rfl

theorem portAt_modPort_same {p : Nat} (h : p < 8) (f : PortState → PortState) (s : State) :
    portAt (modPort p f s) p = f (portAt s p) := by
  simp [modPort, portAt, h]

theorem portAt_modPort_ne {p k : Nat} (h : k ≠ p) (f : PortState → PortState) (s : State) :
    portAt (modPort p f s) k = portAt s k := by
  unfold modPort
  split
  · simp [portAt, Ne.symm h]
  · rfl

theorem chanAt_modChan_same {k : Nat} (h : k < 96) (f : ChanCal → ChanCal) (s : State) :
    chanAt (modChan k f s) k = f (chanAt s k) := by
  simp [modChan, chanAt, h]

theorem loopAt_modLoop_same {l : Nat} (h : l < 128) (f : LoopState → LoopState) (s : State) :
    loopAt (modLoop l f s) l = f (loopAt s l) := by
  simp [modLoop, loopAt, h]

/-! ## Fields of a word -/

theorem ones_bit {n j : Nat} (hn : n ≤ 32) (hj : j < 32) : (((1#32 <<< n) - 1).getLsbD j) = decide (j < n) := by
  rcases Nat.lt_or_ge n 32 with h | h
  · have : ((1#32 <<< n) - 1) = BitVec.ofNat 32 (2 ^ n - 1) := by
      have hp : 2 ^ n < 2 ^ 32 := Nat.pow_lt_pow_right (by omega) h
      have h1 : 1 ≤ 2 ^ n := Nat.one_le_two_pow
      apply BitVec.eq_of_toNat_eq
      simp [BitVec.toNat_sub, BitVec.toNat_shiftLeft, Nat.shiftLeft_eq] at *
      omega
    rw [this]
    rw [BitVec.getLsbD_ofNat, Nat.testBit_two_pow_sub_one]
    simp only [hj, decide_true, Bool.true_and]
  · have : n = 32 := by omega
    subst this
    have e : ((1#32 <<< 32) - 1) = BitVec.allOnes 32 := by decide
    rw [e, BitVec.getLsbD_allOnes]

theorem mask_bit {hi lo i : Nat} (hh : hi < 32) (hl : lo ≤ hi) (hi32 : i < 32) :
    (mask hi lo).getLsbD i = decide (lo ≤ i ∧ i ≤ hi) := by
  unfold mask
  rw [BitVec.getLsbD_shiftLeft]
  by_cases h : i < lo
  · have : ¬ (lo ≤ i ∧ i ≤ hi) := by omega
    simp [h, this]
  · rw [ones_bit (by omega) (by omega)]
    have : i - lo < hi + 1 - lo ↔ lo ≤ i ∧ i ≤ hi := by omega
    simp [h, hi32, this]

theorem putFld_bit (w : Word) {hi lo i : Nat} (x : Nat) (hh : hi < 32) (hl : lo ≤ hi) (hi32 : i < 32) :
    (putFld w hi lo x).getLsbD i = if lo ≤ i ∧ i ≤ hi then x.testBit (i - lo) else w.getLsbD i := by
  unfold putFld
  rw [BitVec.getLsbD_or, BitVec.getLsbD_and, BitVec.getLsbD_and, BitVec.getLsbD_not, mask_bit hh hl hi32,
    BitVec.getLsbD_shiftLeft]
  by_cases h : lo ≤ i ∧ i ≤ hi
  · have : i - lo < 32 := by omega
    have h2 : ¬ i < lo := by omega
    rw [BitVec.getLsbD_ofNat]
    simp [h, h2, hi32, this]
  · simp [h, hi32]

theorem bit_putFld_out (w : Word) {hi lo i : Nat} (x : Nat) (hh : hi < 32) (hl : lo ≤ hi) (h : i < lo ∨ hi < i) :
    bit (putFld w hi lo x) i = bit w i := by
  unfold bit
  by_cases h32 : i < 32
  · rw [putFld_bit w x hh hl h32, if_neg (by omega)]
  · rw [BitVec.getLsbD_of_ge _ _ (by omega), BitVec.getLsbD_of_ge _ _ (by omega)]

theorem fld_putFld_same (w : Word) {hi lo : Nat} (x : Nat) (hh : hi < 32) (hl : lo ≤ hi) :
    fld (putFld w hi lo x) hi lo = x % 2 ^ (hi + 1 - lo) := by
  unfold fld
  apply Nat.eq_of_testBit_eq
  intro j
  rw [Nat.testBit_mod_two_pow, BitVec.testBit_toNat, BitVec.getLsbD_extractLsb']
  by_cases h : j < hi + 1 - lo
  · rw [putFld_bit w x hh hl (by omega), if_pos (by omega)]
    simp [h]
  · simp [h]

theorem fld_putFld_out (w : Word) {hi lo a b : Nat} (x : Nat) (hh : hi < 32) (hl : lo ≤ hi) (h : a < lo ∨ hi < b) (hb : b ≤ a) :
    fld (putFld w hi lo x) a b = fld w a b := by
  unfold fld
  apply Nat.eq_of_testBit_eq
  intro j
  rw [BitVec.testBit_toNat, BitVec.testBit_toNat, BitVec.getLsbD_extractLsb', BitVec.getLsbD_extractLsb']
  by_cases hj : j < a + 1 - b
  · have := bit_putFld_out w (i := b + j) x hh hl (by omega)
    unfold bit at this
    simp [this]
  · simp [hj]

end Sys2Proof.Machine
end

