-- ==== Sys2Proof/Laws/Host.lean ====
section
/-! SUPPORT. What a host write does on its way to a register. -/

set_option Elab.async false

namespace Sys2Proof.Machine

/-- Without Cast lock no bit is locked (R43). -/
theorem lockedOf_unlocked {s : State} (h : castLocked s = false) (off : Nat) (rwc : Word) : lockedOf s off rwc = 0 := by
  simp [lockedOf, lockBits, h]

@[simp] theorem lockHit_zero (rw act hold v : Word) : lockHit 0#32 rw act hold v = false := by simp [lockHit]

@[simp] theorem lockFilter_zero (act hold v : Word) : lockFilter 0#32 act hold v = v := by
  have e : ~~~(0#32) = BitVec.allOnes 32 := by decide
  unfold lockFilter
  rw [e, BitVec.and_allOnes, BitVec.and_zero, BitVec.zero_and, BitVec.or_zero]

/-- A host write that nothing bars is its effect. -/
theorem hostWrite_open {s : State} {off : Nat} (h : hostOpen s off = true) (v : Word) (act : Word → State → State) :
    hostWrite off v act s = act v s := by
  unfold hostOpen at h
  simp only [Bool.and_eq_true] at h
  obtain ⟨hp, hr⟩ := h
  unfold hostWrite
  split at hr
  · rename_i d i hd
    simp only [Bool.and_eq_true, beq_iff_eq] at hr
    simp [hp, hd, hr.1, hr.2]
  · simp at hr

/-- A register that a host write reaches whole is one that the host sees. -/
theorem hostSees_of_open {s : State} {off : Nat} (h : hostOpen s off = true) : hostSees s off = true := by
  unfold hostOpen at h
  unfold hostSees
  split at h
  · simp_all
  · simp at h

/-- With the host interface unpowered a host write has no effect (R17). -/
theorem hostWrite_unpowered {s : State} (h : powered s = false) (off : Nat) (v : Word) (act : Word → State → State) :
    hostWrite off v act s = s := by
  simp [hostWrite, h]

/-- A write of a register that does not exist in the running Cast has no effect (R7). -/
theorem hostWrite_absent {s : State} {off : Nat} {d : RegDef} {i : Nat} (hf : regFind off = some (d, i))
    (h : regExists s d i = false) (v : Word) (act : Word → State → State) : hostWrite off v act s = s := by
  unfold hostWrite
  split
  · rfl
  · simp [hf, h]

/-- An event of a block that runs is its effect. -/
theorem whileUp_up {s : State} (h : upNow s = true) (f : State → State) : whileUp f s = f s := by
  simp [whileUp, h]

/-- An event of a block without power has no effect (R17). -/
theorem whileUp_down {s : State} (h : upNow s = false) (f : State → State) : whileUp f s = s := by
  simp [whileUp, h]

end Sys2Proof.Machine
end

