-- ==== Sys2Proof/Laws/Keeps.lean ====
section
/-! SUPPORT. The relation that every operation of the part keeps between the state before and the state after, and its laws
for the named operations of Machine/Ops.lean. -/

set_option Elab.async false

namespace Sys2Proof.Machine

/-- From s to t the queue and the ordering code stay, the record of what leaves the part only grows, the sparse stores keep
their canonical form, and every kind of state outside F is as it was. -/
def Keeps (F : List Kind) (s t : State) : Prop :=
  t.pending = s.pending ∧ t.a8 = s.a8 ∧ s.out <+: t.out ∧ (s.wf = true → t.wf = true) ∧ ∀ k, k ∉ F → k.same s t

theorem Kind.same_refl (k : Kind) (s : State) : k.same s s := by cases k <;> simp [Kind.same]

theorem Kind.same_trans {k : Kind} {s t u : State} (h : k.same s t) (h' : k.same t u) : k.same s u := by
  cases k <;> simp only [Kind.same] at * <;> first | exact h'.trans h | exact ⟨h'.1.trans h.1, h'.2.trans h.2⟩

theorem Keeps.refl (F : List Kind) (s : State) : Keeps F s s :=
  ⟨rfl, rfl, List.prefix_refl _, id, fun k _ => k.same_refl s⟩

theorem Keeps.trans {F : List Kind} {s t u : State} (h : Keeps F s t) (k : Keeps F t u) : Keeps F s u :=
  ⟨k.1.trans h.1, k.2.1.trans h.2.1, h.2.2.1.trans k.2.2.1, fun w => k.2.2.2.1 (h.2.2.2.1 w),
    fun i hi => Kind.same_trans (h.2.2.2.2 i hi) (k.2.2.2.2 i hi)⟩

/-- Kinds of state that an operation changes lie in F where they lie in a list that does. -/
theorem sub_of {A B F : List Kind} (hF : B ⊆ F) (h : A ⊆ B := by decide) : A ⊆ F := List.Subset.trans h hF

theorem State.wf_iff {s : State} :
    s.wf = true ↔ s.regs.wf = true ∧ s.pitchAct.wf = true ∧ rising s.dram = true ∧ s.bar4.wf = true := by
  simp [State.wf, Memory.wf, and_assoc]

/-- A change of kind k alone, with the canonical forms kept. -/
theorem Keeps.step {F : List Kind} {s₀ s t : State} (h : Keeps F s₀ s) (k : Kind) (hF : [k] ⊆ F) (hp : t.pending = s.pending)
    (ha : t.a8 = s.a8) (ho : s.out <+: t.out) (hw : s.wf = true → t.wf = true) (hs : ∀ i, i ≠ k → i.same s t) : Keeps F s₀ t :=
  h.trans ⟨hp, ha, ho, hw, fun i hi => hs i fun e => hi (hF (by simp [e]))⟩

section
variable {F : List Kind} {s₀ s : State} (h : Keeps F s₀ s)
include h

theorem Keeps.linkTime (hF : [Kind.linkTime] ⊆ F) (x : LinkTime) : Keeps F s₀ { s with linkTime := x } :=
  h.step .linkTime hF rfl rfl (List.prefix_refl _) id fun i hi => by cases i <;> simp [Kind.same] at *

theorem Keeps.busData (hF : [Kind.busData] ⊆ F) (x : Word) : Keeps F s₀ { s with busData := x } :=
  h.step .busData hF rfl rfl (List.prefix_refl _) id fun i hi => by cases i <;> simp [Kind.same] at *

theorem Keeps.freeCount (hF : [Kind.freeCount] ⊆ F) (x : Nat) : Keeps F s₀ { s with freeCount := x } :=
  h.step .freeCount hF rfl rfl (List.prefix_refl _) id fun i hi => by cases i <;> simp [Kind.same] at *

theorem Keeps.cast (hF : [Kind.cast] ⊆ F) (x : CastState) : Keeps F s₀ { s with cast := x } :=
  h.step .cast hF rfl rfl (List.prefix_refl _) id fun i hi => by cases i <;> simp [Kind.same] at *

theorem Keeps.slots (hF : [Kind.slots] ⊆ F) (x : Vector SlotState 8) : Keeps F s₀ { s with slots := x } :=
  h.step .slots hF rfl rfl (List.prefix_refl _) id fun i hi => by cases i <;> simp [Kind.same] at *

theorem Keeps.ports (hF : [Kind.ports] ⊆ F) (x : Vector PortState 8) : Keeps F s₀ { s with ports := x } :=
  h.step .ports hF rfl rfl (List.prefix_refl _) id fun i hi => by cases i <;> simp [Kind.same] at *

theorem Keeps.hall (hF : [Kind.hall] ⊆ F) (x : HallState) : Keeps F s₀ { s with hall := x } :=
  h.step .hall hF rfl rfl (List.prefix_refl _) id fun i hi => by cases i <;> simp [Kind.same] at *

theorem Keeps.power (hF : [Kind.power] ⊆ F) (x : PowerState) : Keeps F s₀ { s with power := x } :=
  h.step .power hF rfl rfl (List.prefix_refl _) id fun i hi => by cases i <;> simp [Kind.same] at *

theorem Keeps.fr (hF : [Kind.fr] ⊆ F) (x : FaultState) : Keeps F s₀ { s with fr := x } :=
  h.step .fr hF rfl rfl (List.prefix_refl _) id fun i hi => by cases i <;> simp [Kind.same] at *

theorem Keeps.mail (hF : [Kind.mail] ⊆ F) (x : MailState) : Keeps F s₀ { s with mail := x } :=
  h.step .mail hF rfl rfl (List.prefix_refl _) id fun i hi => by cases i <;> simp [Kind.same] at *

theorem Keeps.codec (hF : [Kind.codec] ⊆ F) (x : CodecState) : Keeps F s₀ { s with codec := x } :=
  h.step .codec hF rfl rfl (List.prefix_refl _) id fun i hi => by cases i <;> simp [Kind.same] at *

theorem Keeps.chans (hF : [Kind.chans] ⊆ F) (x : Vector ChanCal 96) : Keeps F s₀ { s with chans := x } :=
  h.step .chans hF rfl rfl (List.prefix_refl _) id fun i hi => by cases i <;> simp [Kind.same] at *

theorem Keeps.page (hF : [Kind.page] ⊆ F) (x : Option PageStore) : Keeps F s₀ { s with page := x } :=
  h.step .page hF rfl rfl (List.prefix_refl _) id fun i hi => by cases i <;> simp [Kind.same] at *

theorem Keeps.mc (hF : [Kind.mc] ⊆ F) (x : DramState) : Keeps F s₀ { s with mc := x } :=
  h.step .mc hF rfl rfl (List.prefix_refl _) id fun i hi => by cases i <;> simp [Kind.same] at *

theorem Keeps.heat (hF : [Kind.heat] ⊆ F) (x : HeatState) : Keeps F s₀ { s with heat := x } :=
  h.step .heat hF rfl rfl (List.prefix_refl _) id fun i hi => by cases i <;> simp [Kind.same] at *

theorem Keeps.sb (hF : [Kind.sb] ⊆ F) (x : BridgeState) : Keeps F s₀ { s with sb := x } :=
  h.step .sb hF rfl rfl (List.prefix_refl _) id fun i hi => by cases i <;> simp [Kind.same] at *

theorem Keeps.loops (hF : [Kind.loops] ⊆ F) (x : Vector LoopState 128) : Keeps F s₀ { s with loops := x } :=
  h.step .loops hF rfl rfl (List.prefix_refl _) id fun i hi => by cases i <;> simp [Kind.same] at *

theorem Keeps.corePh (hF : [Kind.corePh] ⊆ F) (x : BitVec 2) : Keeps F s₀ { s with corePh := x } :=
  h.step .corePh hF rfl rfl (List.prefix_refl _) id fun i hi => by cases i <;> simp [Kind.same] at *

/-- New register words in canonical form. -/
theorem Keeps.regs (hF : [Kind.regs] ⊆ F) (r : SMap 32) (hr : s.regs.wf = true → r.wf = true) :
    Keeps F s₀ { s with regs := r } :=
  h.step .regs hF rfl rfl (List.prefix_refl _)
    (fun w => by rw [State.wf_iff] at w ⊢; exact ⟨hr w.1, w.2⟩) fun i hi => by cases i <;> simp [Kind.same] at *

/-- New active pitch words in canonical form. -/
theorem Keeps.pitchAct (hF : [Kind.pitchAct] ⊆ F) (r : SMap 32) (hr : s.pitchAct.wf = true → r.wf = true) :
    Keeps F s₀ { s with pitchAct := r } :=
  h.step .pitchAct hF rfl rfl (List.prefix_refl _)
    (fun w => by rw [State.wf_iff] at w ⊢; exact ⟨w.1, hr w.2.1, w.2.2⟩) fun i hi => by cases i <;> simp [Kind.same] at *

/-- New mailbox words in canonical form. -/
theorem Keeps.bar4 (hF : [Kind.bar4] ⊆ F) (r : SMap 32) (hr : s.bar4.wf = true → r.wf = true) :
    Keeps F s₀ { s with bar4 := r } :=
  h.step .bar4 hF rfl rfl (List.prefix_refl _)
    (fun w => by rw [State.wf_iff] at w ⊢; exact ⟨w.1, w.2.1, w.2.2.1, hr w.2.2.2⟩) fun i hi => by cases i <;> simp [Kind.same] at *

/-- New contents of package DRAM in canonical form. -/
theorem Keeps.dram (hF : [Kind.dram] ⊆ F) (m : List (Nat × Byte)) (e : Nat) (hr : rising s.dram = true → rising m = true) :
    Keeps F s₀ { s with dram := m, dramEpoch := e } :=
  h.step .dram hF rfl rfl (List.prefix_refl _)
    (fun w => by rw [State.wf_iff] at w ⊢; exact ⟨w.1, w.2.1, hr w.2.2.1, w.2.2.2⟩) fun i hi => by cases i <;> simp [Kind.same] at *

end

theorem rising_dramStore (off : Nat → Bool) (bs : List Byte) {m : List (Nat × Byte)} (a : Nat) (h : rising m = true) :
    rising (dramStore off m a bs) = true := by
  induction bs generalizing m a with
  | nil => exact h
  | cons b bs ih =>
    unfold dramStore
    apply ih
    split
    · exact h
    · exact rising_insert h

theorem keeps_setReg {F : List Kind} (hF : [Kind.regs] ⊆ F) {s₀ s : State} (a : Nat) (v : Word) (h : Keeps F s₀ s) :
    Keeps F s₀ (setReg a v s) :=
  h.regs hF _ (SMap.wf_set a v)

theorem keeps_setRegs {F : List Kind} (hF : [Kind.regs] ⊆ F) {s₀ s : State} (l : List (Nat × Word)) (h : Keeps F s₀ s) :
    Keeps F s₀ (setRegs l s) :=
  h.regs hF _ (SMap.wf_setAll l)

theorem keeps_dramWrite {F : List Kind} (hF : [Kind.dram] ⊆ F) {s₀ s : State} (a : Nat) (bs : List Byte) (h : Keeps F s₀ s) :
    Keeps F s₀ (dramWrite a bs s) :=
  h.dram hF _ _ (rising_dramStore _ bs a)

theorem keeps_dramForget {F : List Kind} (hF : [Kind.dram] ⊆ F) {s₀ s : State} (h : Keeps F s₀ s) : Keeps F s₀ (dramForget s) :=
  h.dram hF _ _ fun _ => rfl

theorem keeps_emit {F : List Kind} (hF : [Kind.out] ⊆ F) {s₀ s : State} (o : Out) (h : Keeps F s₀ s) : Keeps F s₀ (emit o s) :=
  h.step .out hF rfl rfl (List.prefix_append _ _) id fun i hi => by cases i <;> simp [Kind.same, emit] at *

theorem keeps_foldl {α : Type} {F : List Kind} {s₀ s : State} (l : List α) (f : State → α → State)
    (hf : ∀ t x, Keeps F s₀ t → Keeps F s₀ (f t x)) (h : Keeps F s₀ s) : Keeps F s₀ (l.foldl f s) := by
  induction l generalizing s with
  | nil => exact h
  | cons x l ih => exact ih (hf s x h)

theorem keeps_foldl_snd {α β : Type} {F : List Kind} {s₀ : State} (l : List α) (f : β × State → α → β × State) (b : β × State)
    (hf : ∀ t x, Keeps F s₀ t.2 → Keeps F s₀ (f t x).2) (h : Keeps F s₀ b.2) : Keeps F s₀ (l.foldl f b).2 := by
  induction l generalizing b with
  | nil => exact h
  | cons x l ih => exact ih (f b x) (hf b x h)

theorem keeps_pair {β : Type} {F : List Kind} {s₀ s : State} (b : β) (h : Keeps F s₀ s) : Keeps F s₀ (b, s).2 := h

theorem keeps_pair_fst {β : Type} {F : List Kind} {s₀ s : State} (b : β) (h : Keeps F s₀ s) : Keeps F s₀ (s, b).1 := h

theorem keeps_ite_snd {β : Type} {c : Prop} [Decidable c] {F : List Kind} {s₀ : State} {x y : β × State} (hx : Keeps F s₀ x.2)
    (hy : Keeps F s₀ y.2) : Keeps F s₀ (if c then x else y).2 := by
  split
  · exact hx
  · exact hy

theorem keeps_ite_fst {β : Type} {c : Prop} [Decidable c] {F : List Kind} {s₀ : State} {x y : State × β} (hx : Keeps F s₀ x.1)
    (hy : Keeps F s₀ y.1) : Keeps F s₀ (if c then x else y).1 := by
  split
  · exact hx
  · exact hy

theorem keeps_forAll {F : List Kind} {s₀ s : State} (l : List Nat) (f : Nat → State → State)
    (hf : ∀ i t, Keeps F s₀ t → Keeps F s₀ (f i t)) (h : Keeps F s₀ s) : Keeps F s₀ (forAll l f s) :=
  keeps_foldl l _ (fun t i => hf i t) h

theorem keeps_clearRegs {F : List Kind} (hF : [Kind.regs] ⊆ F) {s₀ s : State} (lo hi : Nat) (h : Keeps F s₀ s) :
    Keeps F s₀ { s with regs := s.regs.clearRange lo hi } :=
  h.regs hF _ (SMap.wf_clearRange lo hi)

end Sys2Proof.Machine
end

