-- ==== Sys2Proof/Laws/KeepsOps.lean ====
section
/-! SUPPORT. The operations of Machine/Ops.lean keep the relation of Laws/Keeps.lean. -/

set_option Elab.async false

namespace Sys2Proof.Machine

theorem keeps_setFld {F : List Kind} (hF : [Kind.regs] ⊆ F) {s₀ : State} (a : Nat) (hi : Nat) (lo : Nat) (x : Nat) {s : State} (hK : Keeps F s₀ s) :
    Keeps F s₀ (setFld a hi lo x s) := by
  unfold setFld
  with_reducible repeat' first | exact hK | assumption | apply keeps_setReg (sub_of hF)

theorem keeps_setBit {F : List Kind} (hF : [Kind.regs] ⊆ F) {s₀ : State} (a : Nat) (i : Nat) (b : Bool) {s : State} (hK : Keeps F s₀ s) :
    Keeps F s₀ (setBit a i b s) := by
  unfold setBit
  with_reducible repeat' first | exact hK | assumption | apply keeps_setFld (sub_of hF)

theorem keeps_addSat {F : List Kind} (hF : [Kind.regs] ⊆ F) {s₀ : State} (a : Nat) (hi : Nat) (lo : Nat) (k : Nat) {s : State} (hK : Keeps F s₀ s) :
    Keeps F s₀ (addSat a hi lo k s) := by
  unfold addSat
  with_reducible repeat' first | exact hK | assumption | apply keeps_setFld (sub_of hF)

theorem keeps_incSat {F : List Kind} (hF : [Kind.regs] ⊆ F) {s₀ : State} (a : Nat) (hi : Nat) (lo : Nat) {s : State} (hK : Keeps F s₀ s) :
    Keeps F s₀ (incSat a hi lo s) := by
  unfold incSat
  with_reducible repeat' first | exact hK | assumption | apply keeps_addSat (sub_of hF)

theorem keeps_modSlot {F : List Kind} (hF : [Kind.slots] ⊆ F) {s₀ : State} (n : Nat) (f : SlotState → SlotState) {s : State} (hK : Keeps F s₀ s) :
    Keeps F s₀ (modSlot n f s) := by
  unfold modSlot
  iterate 60 (first | done | with_reducible exact hK | with_reducible assumption | split | (intro _; intros) | dsimp only | with_reducible refine Keeps.slots ?_ (sub_of hF) _)

theorem keeps_modChan {F : List Kind} (hF : [Kind.chans] ⊆ F) {s₀ : State} (k : Nat) (f : ChanCal → ChanCal) {s : State} (hK : Keeps F s₀ s) :
    Keeps F s₀ (modChan k f s) := by
  unfold modChan
  iterate 60 (first | done | with_reducible exact hK | with_reducible assumption | split | (intro _; intros) | dsimp only | with_reducible refine Keeps.chans ?_ (sub_of hF) _)

theorem keeps_modPort {F : List Kind} (hF : [Kind.ports] ⊆ F) {s₀ : State} (p : Nat) (f : PortState → PortState) {s : State} (hK : Keeps F s₀ s) :
    Keeps F s₀ (modPort p f s) := by
  unfold modPort
  iterate 60 (first | done | with_reducible exact hK | with_reducible assumption | split | (intro _; intros) | dsimp only | with_reducible refine Keeps.ports ?_ (sub_of hF) _)

theorem keeps_takeFree {F : List Kind} (hF : [Kind.freeCount] ⊆ F) {s₀ : State} {s : State} (hK : Keeps F s₀ s) : Keeps F s₀ (takeFree s).2 :=
  hK.freeCount (sub_of hF) _

theorem keeps_freeBytes {F : List Kind} (hF : [Kind.freeCount] ⊆ F) {s₀ : State} (x0 : Nat) {s : State} (hK : Keeps F s₀ s) :
    Keeps F s₀ (freeBytes x0 s).2 := by
  induction x0 generalizing s with
  | zero => exact hK
  | succ k ih =>
    unfold freeBytes
    with_reducible repeat' first | exact hK | assumption | apply ih | apply keeps_takeFree (sub_of hF)

theorem keeps_pruneDrive {F : List Kind} (hF : [Kind.ports] ⊆ F) {s₀ : State} (p : Nat) (t : Nat) {s : State} (hK : Keeps F s₀ s) :
    Keeps F s₀ (pruneDrive p t s) := by
  unfold pruneDrive
  with_reducible repeat' first | exact hK | assumption | apply keeps_modPort (sub_of hF)

theorem keeps_transmit {F : List Kind} (hF : [Kind.out, .ports] ⊆ F) {s₀ : State} (p : Nat) (x0 : Nat) {s : State} (hK : Keeps F s₀ s) :
    Keeps F s₀ (transmit p x0 s) := by
  induction x0 generalizing s with
  | zero => exact hK
  | succ k ih =>
    unfold transmit
    iterate 60 (first | done | with_reducible exact hK | with_reducible assumption | with_reducible apply ih | with_reducible apply keeps_emit (sub_of hF) | with_reducible apply keeps_modPort (sub_of hF) | split | (intro _; intros) | dsimp only)

theorem keeps_sendPkt {F : List Kind} (hF : [Kind.out, .ports] ⊆ F) {s₀ : State} (p : Nat) (k : LinkPkt) {s : State} (hK : Keeps F s₀ s) :
    Keeps F s₀ (sendPkt p k s) := by
  unfold sendPkt
  iterate 60 (first | done | with_reducible exact hK | with_reducible assumption | with_reducible apply keeps_transmit (sub_of hF) | with_reducible apply keeps_modPort (sub_of hF) | with_reducible apply keeps_foldl | with_reducible apply keeps_foldl_snd | split | (intro _; intros) | dsimp only)

theorem keeps_sendVector {F : List Kind} (hF : [Kind.out] ⊆ F) {s₀ : State} (v : Nat) {s : State} (hK : Keeps F s₀ s) :
    Keeps F s₀ (sendVector v s) := by
  unfold sendVector
  with_reducible repeat' first | exact hK | assumption | apply keeps_emit (sub_of hF)

theorem keeps_raiseVec {F : List Kind} (hF : [Kind.regs, .out] ⊆ F) {s₀ : State} (v : Nat) {s : State} (hK : Keeps F s₀ s) :
    Keeps F s₀ (raiseVec v s) := by
  unfold raiseVec
  with_reducible repeat' first | exact hK | assumption | apply keeps_setBit (sub_of hF) | apply keeps_sendVector (sub_of hF) | split

theorem keeps_setFault {F : List Kind} (hF : [Kind.regs, .out] ⊆ F) {s₀ : State} (b : Nat) {s : State} (hK : Keeps F s₀ s) :
    Keeps F s₀ (setFault b s) := by
  unfold setFault
  with_reducible repeat' first | exact hK | assumption | apply keeps_raiseVec (sub_of hF) | apply keeps_setBit (sub_of hF)

theorem keeps_logRing {F : List Kind} (hF : [Kind.regs, .fr] ⊆ F) {s₀ : State} (w0 : Word) (detail : Nat) {s : State} (hK : Keeps F s₀ s) :
    Keeps F s₀ (logRing w0 detail s) := by
  unfold logRing
  iterate 60 (first | done | with_reducible exact hK | with_reducible assumption | with_reducible apply keeps_incSat (sub_of hF) | with_reducible apply keeps_setReg (sub_of hF) | with_reducible apply keeps_setFld (sub_of hF) | split | (intro _; intros) | dsimp only | with_reducible refine Keeps.fr ?_ (sub_of hF) _)

theorem keeps_logEvent {F : List Kind} (hF : [Kind.regs, .out, .fr] ⊆ F) {s₀ : State} (c : Status) (cls : Nat) (id : Nat) (detail : Nat) {s : State} (hK : Keeps F s₀ s) :
    Keeps F s₀ (logEvent c cls id detail s) := by
  unfold logEvent
  with_reducible repeat' first | exact hK | assumption | apply keeps_logRing (sub_of hF) | apply keeps_setFault (sub_of hF) | split

theorem keeps_logAccess {F : List Kind} (hF : [Kind.regs, .out, .fr] ⊆ F) {s₀ : State} (c : Status) (bar : Nat) (off : Nat) {s : State} (hK : Keeps F s₀ s) :
    Keeps F s₀ (logAccess c bar off s) := by
  unfold logAccess
  with_reducible repeat' first | exact hK | assumption | apply keeps_logEvent (sub_of hF)

theorem keeps_setTally {F : List Kind} (hF : [Kind.regs] ⊆ F) {s₀ : State} (b : Nat) (w : Word) {s : State} (hK : Keeps F s₀ s) :
    Keeps F s₀ (setTally b w s) := by
  unfold setTally
  with_reducible repeat' first | exact hK | assumption | apply keeps_setReg (sub_of hF)

theorem keeps_handBack {F : List Kind} (hF : [Kind.regs] ⊆ F) {s₀ : State} (cls : Nat) (id : Nat) (b : Nat) {s : State} (hK : Keeps F s₀ s) :
    Keeps F s₀ (handBack cls id b s) := by
  unfold handBack
  with_reducible repeat' first | exact hK | assumption | apply keeps_setTally (sub_of hF) | split

theorem keeps_handBackDev {F : List Kind} (hF : [Kind.regs] ⊆ F) {s₀ : State} (bs : List Nat) {s : State} (hK : Keeps F s₀ s) :
    Keeps F s₀ (handBackDev bs s) := by
  unfold handBackDev
  with_reducible repeat' first | exact hK | assumption | apply keeps_forAll | apply keeps_handBack (sub_of hF)

theorem keeps_windowErr {F : List Kind} (hF : [Kind.regs] ⊆ F) {s₀ : State} (cls : Nat) (b : Nat) (epoch : Bool) {s : State} (hK : Keeps F s₀ s) :
    Keeps F s₀ (windowErr cls b epoch s) := by
  unfold windowErr
  with_reducible repeat' first | exact hK | assumption | apply keeps_setReg (sub_of hF) | apply keeps_setBit (sub_of hF) | apply keeps_incSat (sub_of hF) | split

theorem keeps_seizeTallies {F : List Kind} (hF : [Kind.regs, .out] ⊆ F) {s₀ : State} (cls : Nat) (id : Nat) {s : State} (hK : Keeps F s₀ s) :
    Keeps F s₀ (seizeTallies cls id s) := by
  unfold seizeTallies
  iterate 60 (first | done | with_reducible exact hK | with_reducible assumption | with_reducible apply keeps_forAll | with_reducible apply keeps_setTally (sub_of hF) | with_reducible apply keeps_raiseVec (sub_of hF) | with_reducible apply keeps_setFld (sub_of hF) | split | (intro _; intros))

theorem keeps_resetTallies {F : List Kind} (hF : [Kind.regs] ⊆ F) {s₀ : State}  {s : State} (hK : Keeps F s₀ s) :
    Keeps F s₀ (resetTallies s) := by
  unfold resetTallies
  with_reducible repeat' first | exact hK | assumption | apply keeps_setRegs (sub_of hF) | apply keeps_clearRegs (sub_of hF)

theorem keeps_whileUp {F : List Kind} (hF : ([] : List Kind) ⊆ F) {s₀ : State} (f : State → State) {s : State} (hFf : ∀ y0, Keeps F s₀ y0 → Keeps F s₀ (f y0)) (hK : Keeps F s₀ s) :
    Keeps F s₀ (whileUp f s) := by
  unfold whileUp
  with_reducible repeat' first | exact hK | assumption | apply hFf | split

theorem keeps_whilePowered {F : List Kind} (hF : ([] : List Kind) ⊆ F) {s₀ : State} (f : State → State) {s : State} (hFf : ∀ y0, Keeps F s₀ y0 → Keeps F s₀ (f y0)) (hK : Keeps F s₀ s) :
    Keeps F s₀ (whilePowered f s) := by
  unfold whilePowered
  with_reducible repeat' first | exact hK | assumption | apply hFf | split

theorem keeps_noteState {F : List Kind} (hF : [Kind.regs, .out] ⊆ F) {s₀ : State} (f : State → State) {s : State} (hFf : ∀ y0, Keeps F s₀ y0 → Keeps F s₀ (f y0)) (hK : Keeps F s₀ s) :
    Keeps F s₀ (noteState f s) := by
  unfold noteState
  with_reducible repeat' first | exact hK | assumption | apply keeps_raiseVec (sub_of hF) | apply hFf | split | dsimp only

end Sys2Proof.Machine
end

