-- ==== Sys2Proof/Laws/KeepsHostGate.lean ====
section
/-! SUPPORT. The operations of Machine/HostGate.lean keep the relation of Laws/Keeps.lean. -/

set_option Elab.async false

namespace Sys2Proof.Machine

theorem keeps_hostWrite {F : List Kind} (hF : [Kind.regs, .out, .fr] ⊆ F) {s₀ : State} (off : Nat) (v : Word) (act : Word → State → State) {s : State} (hFact : ∀ y0 y1, Keeps F s₀ y1 → Keeps F s₀ (act y0 y1)) (hK : Keeps F s₀ s) :
    Keeps F s₀ (hostWrite off v act s) := by
  unfold hostWrite
  iterate 60 (first | done | with_reducible exact hK | with_reducible assumption | with_reducible apply keeps_logAccess (sub_of hF) | with_reducible apply hFact | split | (intro _; intros) | dsimp only)

theorem keeps_hostPitchGate {F : List Kind} (hF : [Kind.regs, .out, .fr] ⊆ F) {s₀ : State} (off : Nat) (rw : Word) (v : Word) (built : Bool) (act : Word → State → State) {s : State} (hFact : ∀ y0 y1, Keeps F s₀ y1 → Keeps F s₀ (act y0 y1)) (hK : Keeps F s₀ s) :
    Keeps F s₀ (hostPitchGate off rw v built act s) := by
  unfold hostPitchGate
  with_reducible repeat' first | exact hK | assumption | apply keeps_logAccess (sub_of hF) | apply hFact | split

end Sys2Proof.Machine
end

