-- ==== Sys2Proof/Laws/KeepsCodec.lean ====
section
/-! SUPPORT. The operations of Machine/Codec.lean keep the relation of Laws/Keeps.lean. -/

set_option Elab.async false

namespace Sys2Proof.Machine

theorem keeps_codecRefresh {F : List Kind} (hF : [Kind.regs] ⊆ F) {s₀ : State}  {s : State} (hK : Keeps F s₀ s) :
    Keeps F s₀ (codecRefresh s) := by
  unfold codecRefresh
  iterate 60 (first | done | with_reducible exact hK | with_reducible assumption | with_reducible apply keeps_forAll | with_reducible apply keeps_setReg (sub_of hF) | split | (intro _; intros) | dsimp only)

theorem keeps_jobHandBack {F : List Kind} (hF : [Kind.regs] ⊆ F) {s₀ : State} (j : CodecJob) {s : State} (hK : Keeps F s₀ s) :
    Keeps F s₀ (jobHandBack j s) := by
  unfold jobHandBack
  with_reducible repeat' first | exact hK | assumption | apply keeps_handBackDev (sub_of hF) | split

theorem keeps_endHead {F : List Kind} (hF : [Kind.regs, .out, .codec] ⊆ F) {s₀ : State} (r : List Word) {s : State} (hK : Keeps F s₀ s) :
    Keeps F s₀ (endHead r s) := by
  unfold endHead
  iterate 60 (first | done | with_reducible exact hK | with_reducible assumption | with_reducible apply keeps_raiseVec (sub_of hF) | with_reducible apply keeps_codecRefresh (sub_of hF) | split | (intro _; intros) | dsimp only | with_reducible refine Keeps.codec ?_ (sub_of hF) _)

theorem keeps_flushEnded {F : List Kind} (hF : [Kind.regs, .out, .codec] ⊆ F) {s₀ : State} (x0 : Nat) {s : State} (hK : Keeps F s₀ s) :
    Keeps F s₀ (flushEnded x0 s) := by
  induction x0 generalizing s with
  | zero => exact hK
  | succ k ih =>
    unfold flushEnded
    with_reducible repeat' first | exact hK | assumption | apply ih | apply keeps_endHead (sub_of hF) | split

theorem keeps_codecSubmit {F : List Kind} (hF : [Kind.regs, .codec] ⊆ F) {s₀ : State} (v : Word) {s : State} (hK : Keeps F s₀ s) :
    Keeps F s₀ (codecSubmit v s) := by
  unfold codecSubmit
  iterate 60 (first | done | with_reducible exact hK | with_reducible assumption | with_reducible apply keeps_setBit (sub_of hF) | with_reducible apply keeps_setFld (sub_of hF) | with_reducible apply keeps_codecRefresh (sub_of hF) | split | (intro _; intros) | dsimp only | with_reducible refine Keeps.codec ?_ (sub_of hF) _)

theorem keeps_codecStart {F : List Kind} (hF : [Kind.regs, .out, .codec] ⊆ F) {s₀ : State}  {s : State} (hK : Keeps F s₀ s) :
    Keeps F s₀ (codecStart s) := by
  unfold codecStart
  iterate 60 (first | done | with_reducible exact hK | with_reducible assumption | with_reducible apply keeps_codecRefresh (sub_of hF) | with_reducible apply keeps_jobHandBack (sub_of hF) | with_reducible apply keeps_flushEnded (sub_of hF) | split | (intro _; intros) | dsimp only | with_reducible refine Keeps.codec ?_ (sub_of hF) _)

theorem keeps_countPack {F : List Kind} (hF : [Kind.regs] ⊆ F) {s₀ : State} (n : Nat) (m : Nat) {s : State} (hK : Keeps F s₀ s) :
    Keeps F s₀ (countPack n m s) := by
  unfold countPack
  with_reducible repeat' first | exact hK | assumption | apply keeps_addSat (sub_of hF)

theorem keeps_countFail {F : List Kind} (hF : [Kind.regs] ⊆ F) {s₀ : State} (n : Nat) {s : State} (hK : Keeps F s₀ s) :
    Keeps F s₀ (countFail n s) := by
  unfold countFail
  with_reducible repeat' first | exact hK | assumption | apply keeps_addSat (sub_of hF)

theorem keeps_runCompressStream {F : List Kind} (hF : [Kind.regs, .dram] ⊆ F) {s₀ : State} (j : CodecJob) {s : State} (hK : Keeps F s₀ s) :
    Keeps F s₀ (runCompressStream j s).1 := by
  unfold runCompressStream
  with_reducible repeat' first | exact hK | assumption | apply keeps_countPack (sub_of hF) | apply keeps_dramWrite (sub_of hF)

theorem keeps_runDecompressStream {F : List Kind} (hF : [Kind.regs, .dram] ⊆ F) {s₀ : State} (j : CodecJob) {s : State} (hK : Keeps F s₀ s) :
    Keeps F s₀ (runDecompressStream j s).1 := by
  unfold runDecompressStream
  with_reducible repeat' first | exact hK | assumption | apply keeps_countFail (sub_of hF) | apply keeps_dramWrite (sub_of hF)

theorem keeps_runCompressBlock {F : List Kind} (hF : [Kind.regs, .dram] ⊆ F) {s₀ : State} (j : CodecJob) {s : State} (hK : Keeps F s₀ s) :
    Keeps F s₀ (runCompressBlock j s).1 := by
  unfold runCompressBlock
  with_reducible repeat' first | exact hK | assumption | apply keeps_countPack (sub_of hF) | apply keeps_dramWrite (sub_of hF)

theorem keeps_runDecompressBlock {F : List Kind} (hF : [Kind.regs, .dram] ⊆ F) {s₀ : State} (j : CodecJob) {s : State} (hK : Keeps F s₀ s) :
    Keeps F s₀ (runDecompressBlock j s).1 := by
  unfold runDecompressBlock
  dsimp only
  generalize decodeBlock _ = d
  cases d with
  | inl e => exact keeps_countFail (sub_of hF) _ (keeps_dramWrite (sub_of hF) _ _ hK)
  | inr d => exact keeps_dramWrite (sub_of hF) _ _ hK

theorem keeps_runJob {F : List Kind} (hF : [Kind.regs, .dram] ⊆ F) {s₀ : State} (j : CodecJob) {s : State} (hK : Keeps F s₀ s) :
    Keeps F s₀ (runJob j s).1 := by
  unfold runJob
  iterate 60 (first | done | with_reducible exact hK | with_reducible assumption | with_reducible apply keeps_runCompressStream (sub_of hF) | with_reducible apply keeps_runDecompressStream (sub_of hF) | with_reducible apply keeps_runDecompressBlock (sub_of hF) | with_reducible apply keeps_runCompressBlock (sub_of hF) | with_reducible apply keeps_ite_fst)

theorem keeps_codecComplete {F : List Kind} (hF : [Kind.regs, .dram, .out, .codec] ⊆ F) {s₀ : State}  {s : State} (hK : Keeps F s₀ s) :
    Keeps F s₀ (codecComplete s) := by
  unfold codecComplete
  iterate 60 (first | done | with_reducible exact hK | with_reducible assumption | with_reducible apply keeps_runJob (sub_of hF) | with_reducible apply keeps_flushEnded (sub_of hF) | with_reducible apply keeps_endHead (sub_of hF) | with_reducible apply keeps_jobHandBack (sub_of hF) | split | (intro _; intros) | dsimp only)

theorem keeps_codecPop {F : List Kind} (hF : [Kind.regs, .out, .codec] ⊆ F) {s₀ : State} (v : Word) {s : State} (hK : Keeps F s₀ s) :
    Keeps F s₀ (codecPop v s) := by
  unfold codecPop
  iterate 60 (first | done | with_reducible exact hK | with_reducible assumption | with_reducible apply keeps_flushEnded (sub_of hF) | with_reducible apply keeps_codecRefresh (sub_of hF) | split | (intro _; intros) | dsimp only | with_reducible refine Keeps.codec ?_ (sub_of hF) _)

theorem keeps_codecSeizeHost {F : List Kind} (hF : [Kind.regs, .out, .codec] ⊆ F) {s₀ : State}  {s : State} (hK : Keeps F s₀ s) :
    Keeps F s₀ (codecSeizeHost s) := by
  unfold codecSeizeHost
  iterate 60 (first | done | with_reducible exact hK | with_reducible assumption | with_reducible apply keeps_handBackDev (sub_of hF) | with_reducible apply keeps_flushEnded (sub_of hF) | with_reducible apply keeps_codecRefresh (sub_of hF) | with_reducible apply keeps_foldl | with_reducible apply keeps_foldl_snd | split | (intro _; intros) | dsimp only | with_reducible refine Keeps.codec ?_ (sub_of hF) _)

theorem keeps_codecReset {F : List Kind} (hF : [Kind.regs, .codec] ⊆ F) {s₀ : State}  {s : State} (hK : Keeps F s₀ s) :
    Keeps F s₀ (codecReset s) := by
  unfold codecReset
  iterate 60 (first | done | with_reducible exact hK | with_reducible assumption | with_reducible apply keeps_codecRefresh (sub_of hF) | split | (intro _; intros) | dsimp only | with_reducible refine Keeps.codec ?_ (sub_of hF) _)

theorem keeps_writeCdCfg {F : List Kind} (hF : [Kind.regs] ⊆ F) {s₀ : State} (v : Word) {s : State} (hK : Keeps F s₀ s) :
    Keeps F s₀ (writeCdCfg v s) := by
  unfold writeCdCfg
  with_reducible repeat' first | exact hK | assumption | apply keeps_codecRefresh (sub_of hF) | apply keeps_setReg (sub_of hF)

end Sys2Proof.Machine
end

