-- ==== Sys2Proof/Laws/KeepsLight.lean ====
section
/-! SUPPORT. The operations of Machine/Light.lean keep the relation of Laws/Keeps.lean. -/

set_option Elab.async false

namespace Sys2Proof.Machine

theorem keeps_refreshCeil {F : List Kind} (hF : [Kind.regs, .slots] ⊆ F) {s₀ : State} (n : Nat) {s : State} (hK : Keeps F s₀ s) :
    Keeps F s₀ (refreshCeil n s) := by
  unfold refreshCeil
  iterate 60 (first | done | with_reducible exact hK | with_reducible assumption | with_reducible apply keeps_forAll | with_reducible apply keeps_setFld (sub_of hF) | with_reducible apply keeps_modSlot (sub_of hF) | split | (intro _; intros) | dsimp only)

theorem keeps_takeCeilInputs {F : List Kind} (hF : [Kind.slots] ⊆ F) {s₀ : State} (n : Nat) {s : State} (hK : Keeps F s₀ s) :
    Keeps F s₀ (takeCeilInputs n s) := by
  unfold takeCeilInputs
  with_reducible repeat' first | exact hK | assumption | apply keeps_modSlot (sub_of hF) | split

theorem keeps_installMap {F : List Kind} (hF : [Kind.regs] ⊆ F) {s₀ : State} (n : Nat) (k : Nat) {s : State} (hK : Keeps F s₀ s) :
    Keeps F s₀ (installMap n k s) := by
  unfold installMap
  with_reducible repeat' first | exact hK | assumption | apply keeps_setRegs (sub_of hF) | apply keeps_setFld (sub_of hF) | split | dsimp only

theorem keeps_setMaps {F : List Kind} (hF : [Kind.regs] ⊆ F) {s₀ : State} (n : Nat) {s : State} (hK : Keeps F s₀ s) :
    Keeps F s₀ (setMaps n s) := by
  unfold setMaps
  with_reducible repeat' first | exact hK | assumption | apply keeps_forAll | apply keeps_installMap (sub_of hF) | split

theorem keeps_installMaps {F : List Kind} (hF : [Kind.regs] ⊆ F) {s₀ : State} (n : Nat) {s : State} (hK : Keeps F s₀ s) :
    Keeps F s₀ (installMaps n s) := by
  unfold installMaps
  with_reducible repeat' first | exact hK | assumption | apply keeps_setMaps (sub_of hF) | split

theorem keeps_issueCur {F : List Kind} (hF : [Kind.regs] ⊆ F) {s₀ : State} (n : Nat) (c : SlotCast) (e : ChanEnt) (cur : Nat) {s : State} (hK : Keeps F s₀ s) :
    Keeps F s₀ (issueCur n c e cur s).2 := by
  unfold issueCur
  exact keeps_ite_snd (keeps_pair _ (keeps_setBit (sub_of hF) _ _ _ (keeps_setBit (sub_of hF) _ _ _ (keeps_incSat (sub_of hF) _ _ _ hK)))) (keeps_pair _ hK)

theorem keeps_markDark {F : List Kind} (hF : [Kind.regs] ⊆ F) {s₀ : State} (n : Nat) {s : State} (hK : Keeps F s₀ s) :
    Keeps F s₀ (markDark n s) := by
  unfold markDark
  with_reducible repeat' first | exact hK | assumption | apply keeps_forAll | apply keeps_setBit (sub_of hF) | split | (intro _; intros)

theorem keeps_issueOff {F : List Kind} (hF : [Kind.regs, .out, .ports] ⊆ F) {s₀ : State} (p : Nat) (ts : BitVec 40) {s : State} (hK : Keeps F s₀ s) :
    Keeps F s₀ (issueOff p ts s) := by
  unfold issueOff
  with_reducible repeat' first | exact hK | assumption | apply keeps_sendPkt (sub_of hF) | apply keeps_markDark (sub_of hF) | split

theorem keeps_noteCeils {F : List Kind} (hF : [Kind.ports] ⊆ F) {s₀ : State} (p : Nat) (l : List (Nat × BitVec 16)) {s : State} (hK : Keeps F s₀ s) :
    Keeps F s₀ (noteCeils p l s) := by
  unfold noteCeils
  with_reducible repeat' first | exact hK | assumption | apply keeps_modPort (sub_of hF)

theorem keeps_issueLevels {F : List Kind} (hF : [Kind.regs, .out, .ports] ⊆ F) {s₀ : State} (n : Nat) (codes : List Nat) (ts : BitVec 40) {s : State} (hK : Keeps F s₀ s) :
    Keeps F s₀ (issueLevels n codes ts s) := by
  unfold issueLevels
  split
  · exact hK
  · refine keeps_noteCeils (sub_of hF) _ _ (keeps_sendPkt (sub_of hF) _ _ (keeps_foldl_snd _ _ _ (fun t x ht => ?_) hK))
    exact keeps_setReg (sub_of hF) _ _ (keeps_issueCur (sub_of hF) n _ x.1 _ ht)

theorem keeps_issueOns {F : List Kind} (hF : [Kind.regs, .out, .ports] ⊆ F) {s₀ : State} (n : Nat) (ts : BitVec 40) {s : State} (hK : Keeps F s₀ s) :
    Keeps F s₀ (issueOns n ts s) := by
  unfold issueOns
  iterate 60 (first | done | with_reducible exact hK | with_reducible assumption | with_reducible apply keeps_forAll | with_reducible apply keeps_setBit (sub_of hF) | with_reducible apply keeps_incSat (sub_of hF) | with_reducible apply keeps_sendPkt (sub_of hF) | split | (intro _; intros) | dsimp only)

theorem keeps_showSupply {F : List Kind} (hF : [Kind.regs] ⊆ F) {s₀ : State} (n : Nat) {s : State} (hK : Keeps F s₀ s) :
    Keeps F s₀ (showSupply n s) := by
  unfold showSupply
  with_reducible repeat' first | exact hK | assumption | apply keeps_setReg (sub_of hF)

theorem keeps_setTarget {F : List Kind} (hF : [Kind.regs, .slots] ⊆ F) {s₀ : State} (n : Nat) (d : Nat) {s : State} (hK : Keeps F s₀ s) :
    Keeps F s₀ (setTarget n d s) := by
  unfold setTarget
  iterate 60 (first | done | with_reducible exact hK | with_reducible assumption | with_reducible apply keeps_setBit (sub_of hF) | with_reducible apply keeps_showSupply (sub_of hF) | with_reducible apply keeps_modSlot (sub_of hF) | split | (intro _; intros) | dsimp only)

theorem keeps_raiseTarget {F : List Kind} (hF : [Kind.regs, .slots] ⊆ F) {s₀ : State} (n : Nat) (d : Nat) {s : State} (hK : Keeps F s₀ s) :
    Keeps F s₀ (raiseTarget n d s) := by
  unfold raiseTarget
  iterate 60 (first | done | with_reducible exact hK | with_reducible assumption | with_reducible apply keeps_setTarget (sub_of hF) | split | (intro _; intros) | dsimp only)

theorem keeps_moveSupply {F : List Kind} (hF : [Kind.regs, .slots] ⊆ F) {s₀ : State} (n : Nat) (us : Nat) {s : State} (hK : Keeps F s₀ s) :
    Keeps F s₀ (moveSupply n us s) := by
  unfold moveSupply
  iterate 60 (first | done | with_reducible exact hK | with_reducible assumption | with_reducible apply keeps_showSupply (sub_of hF) | with_reducible apply keeps_modSlot (sub_of hF) | split | (intro _; intros) | dsimp only)

theorem keeps_emptyHeld {F : List Kind} (hF : [Kind.regs, .slots] ⊆ F) {s₀ : State} (n : Nat) {s : State} (hK : Keeps F s₀ s) :
    Keeps F s₀ (emptyHeld n s) := by
  unfold emptyHeld
  with_reducible repeat' first | exact hK | assumption | apply keeps_setReg (sub_of hF) | apply keeps_modSlot (sub_of hF)

theorem keeps_lenDrop {F : List Kind} (hF : [Kind.regs, .out, .slots, .ports] ⊆ F) {s₀ : State} (p : Nat) (cause : Nat) {s : State} (hK : Keeps F s₀ s) :
    Keeps F s₀ (lenDrop p cause s) := by
  unfold lenDrop
  iterate 60 (first | done | with_reducible exact hK | with_reducible assumption | with_reducible apply keeps_setReg (sub_of hF) | with_reducible apply keeps_setBit (sub_of hF) | with_reducible apply keeps_modPort (sub_of hF) | with_reducible apply keeps_issueOff (sub_of hF) | with_reducible apply keeps_setTarget (sub_of hF) | with_reducible apply keeps_emptyHeld (sub_of hF) | with_reducible apply keeps_refreshCeil (sub_of hF) | with_reducible apply keeps_modSlot (sub_of hF) | split)

theorem keeps_lenDropAll {F : List Kind} (hF : [Kind.regs, .out, .slots, .ports] ⊆ F) {s₀ : State} (cause : Nat) {s : State} (hK : Keeps F s₀ s) :
    Keeps F s₀ (lenDropAll cause s) := by
  unfold lenDropAll
  with_reducible repeat' first | exact hK | assumption | apply keeps_forAll | apply keeps_lenDrop (sub_of hF) | split | (intro _; intros)

theorem keeps_lenTry {F : List Kind} (hF : [Kind.regs, .out, .slots, .ports] ⊆ F) {s₀ : State} (p : Nat) {s : State} (hK : Keeps F s₀ s) :
    Keeps F s₀ (lenTry p s) := by
  unfold lenTry
  iterate 60 (first | done | with_reducible exact hK | with_reducible assumption | with_reducible apply keeps_modPort (sub_of hF) | with_reducible apply keeps_setBit (sub_of hF) | with_reducible apply keeps_installMaps (sub_of hF) | with_reducible apply keeps_refreshCeil (sub_of hF) | with_reducible apply keeps_issueLevels (sub_of hF) | split)

theorem keeps_lenTryAll {F : List Kind} (hF : [Kind.regs, .out, .slots, .ports] ⊆ F) {s₀ : State}  {s : State} (hK : Keeps F s₀ s) :
    Keeps F s₀ (lenTryAll s) := by
  unfold lenTryAll
  with_reducible repeat' first | exact hK | assumption | apply keeps_forAll | apply keeps_lenTry (sub_of hF)

end Sys2Proof.Machine
end

