-- ==== Sys2Proof/Laws/KeepsContain.lean ====
section
/-! SUPPORT. The operations of Machine/Contain.lean keep the relation of Laws/Keeps.lean. -/

set_option Elab.async false

namespace Sys2Proof.Machine

theorem keeps_withDim {F : List Kind} (hF : [Kind.regs, .out] ⊆ F) {s₀ : State} (f : State → State) {s : State} (hFf : ∀ y0, Keeps F s₀ y0 → Keeps F s₀ (f y0)) (hK : Keeps F s₀ s) :
    Keeps F s₀ (withDim f s) := by
  unfold withDim
  with_reducible repeat' first | exact hK | assumption | apply keeps_noteState (sub_of hF)

theorem keeps_engageDim {F : List Kind} (hF : [Kind.regs, .slots] ⊆ F) {s₀ : State} (n : Nat) {s : State} (hK : Keeps F s₀ s) :
    Keeps F s₀ (engageDim n s) := by
  unfold engageDim
  with_reducible repeat' first | exact hK | assumption | apply keeps_installMaps (sub_of hF) | apply keeps_refreshCeil (sub_of hF) | apply keeps_modSlot (sub_of hF)

theorem keeps_dipNow {F : List Kind} (hF : [Kind.regs, .out, .slots, .ports] ⊆ F) {s₀ : State} (n : Nat) {s : State} (hK : Keeps F s₀ s) :
    Keeps F s₀ (dipNow n s) := by
  unfold dipNow
  iterate 60 (first | done | with_reducible exact hK | with_reducible assumption | with_reducible apply keeps_installMaps (sub_of hF) | with_reducible apply keeps_refreshCeil (sub_of hF) | with_reducible apply keeps_modSlot (sub_of hF) | with_reducible apply keeps_issueOff (sub_of hF) | with_reducible apply keeps_issueLevels (sub_of hF) | split | dsimp only)

theorem keeps_showContain {F : List Kind} (hF : [Kind.regs] ⊆ F) {s₀ : State}  {s : State} (hK : Keeps F s₀ s) :
    Keeps F s₀ (showContain s) := by
  unfold showContain
  with_reducible repeat' first | exact hK | assumption | apply keeps_setReg (sub_of hF)

theorem keeps_containSlot {F : List Kind} (hF : [Kind.regs, .out, .slots, .ports] ⊆ F) {s₀ : State} (n : Nat) (cause : ContainCause) (off : Bool) {s : State} (hK : Keeps F s₀ s) :
    Keeps F s₀ (containSlot n cause off s) := by
  unfold containSlot
  iterate 60 (first | done | with_reducible exact hK | with_reducible assumption | with_reducible apply keeps_showContain (sub_of hF) | with_reducible apply keeps_modSlot (sub_of hF) | with_reducible apply keeps_refreshCeil (sub_of hF) | with_reducible apply keeps_lenDrop (sub_of hF) | split)

theorem keeps_containAll {F : List Kind} (hF : [Kind.regs, .out, .slots, .ports] ⊆ F) {s₀ : State} (cause : ContainCause) {s : State} (hK : Keeps F s₀ s) :
    Keeps F s₀ (containAll cause s) := by
  unfold containAll
  iterate 60 (first | done | with_reducible exact hK | with_reducible assumption | with_reducible apply keeps_forAll | with_reducible apply keeps_containSlot (sub_of hF) | split | (intro _; intros))

theorem keeps_startGrace {F : List Kind} (hF : [Kind.regs, .fr] ⊆ F) {s₀ : State} (p : Party) {s : State} (hK : Keeps F s₀ s) :
    Keeps F s₀ (startGrace p s) := by
  unfold startGrace
  iterate 60 (first | done | with_reducible exact hK | with_reducible assumption | with_reducible apply keeps_setBit (sub_of hF) | split | (intro _; intros) | dsimp only | with_reducible refine Keeps.fr ?_ (sub_of hF) _)

theorem keeps_laserFault {F : List Kind} (hF : [Kind.regs, .out, .slots, .ports, .fr] ⊆ F) {s₀ : State} (p : Nat) (code : Nat) (chans : List Nat) {s : State} (hK : Keeps F s₀ s) :
    Keeps F s₀ (laserFault p code chans s) := by
  unfold laserFault
  iterate 60 (first | done | with_reducible exact hK | with_reducible assumption | with_reducible apply keeps_forAll | with_reducible apply keeps_setBit (sub_of hF) | with_reducible apply keeps_lenDrop (sub_of hF) | with_reducible apply keeps_logEvent (sub_of hF) | with_reducible apply keeps_modPort (sub_of hF) | with_reducible apply keeps_containSlot (sub_of hF) | with_reducible apply keeps_startGrace (sub_of hF) | split | (intro _; intros) | dsimp only)

theorem keeps_endContain {F : List Kind} (hF : [Kind.regs, .slots] ⊆ F) {s₀ : State} (n : Nat) (locked : Bool) {s : State} (hK : Keeps F s₀ s) :
    Keeps F s₀ (endContain n locked s) := by
  unfold endContain
  with_reducible repeat' first | exact hK | assumption | apply keeps_laserFault (sub_of hF) | apply keeps_showContain (sub_of hF) | apply keeps_modSlot (sub_of hF)

theorem keeps_lenArm {F : List Kind} (hF : [Kind.regs, .out, .slots, .ports] ⊆ F) {s₀ : State} (v : Word) {s : State} (hK : Keeps F s₀ s) :
    Keeps F s₀ (lenArm v s) := by
  unfold lenArm
  iterate 60 (first | done | with_reducible exact hK | with_reducible assumption | with_reducible apply keeps_setFld (sub_of hF) | with_reducible apply keeps_lenTryAll (sub_of hF) | with_reducible apply keeps_forAll | with_reducible apply keeps_lenDrop (sub_of hF) | split | (intro _; intros))

theorem keeps_lenFaultClear {F : List Kind} (hF : [Kind.regs, .out, .slots, .ports] ⊆ F) {s₀ : State} (v : Word) {s : State} (hK : Keeps F s₀ s) :
    Keeps F s₀ (lenFaultClear v s) := by
  unfold lenFaultClear
  iterate 60 (first | done | with_reducible exact hK | with_reducible assumption | with_reducible apply keeps_lenTryAll (sub_of hF) | with_reducible apply keeps_forAll | with_reducible apply keeps_setBit (sub_of hF) | split | (intro _; intros))

end Sys2Proof.Machine
end

