-- ==== Sys2Proof/Laws/KeepsPhase.lean ====
section
/-! SUPPORT. The operations of Machine/Phase.lean keep the relation of Laws/Keeps.lean. -/

set_option Elab.async false

namespace Sys2Proof.Machine

theorem keeps_modReck {F : List Kind} (hF : [Kind.slots] ⊆ F) {s₀ : State} (n : Nat) (f : Reckoner → Reckoner) {s : State} (hK : Keeps F s₀ s) :
    Keeps F s₀ (modReck n f s) := by
  unfold modReck
  with_reducible repeat' first | exact hK | assumption | apply keeps_modSlot (sub_of hF)

theorem keeps_takePoint {F : List Kind} (hF : [Kind.regs, .slots] ⊆ F) {s₀ : State} (n : Nat) (t : LinkTime) {s : State} (hK : Keeps F s₀ s) :
    Keeps F s₀ (takePoint n t s) := by
  unfold takePoint
  iterate 60 (first | done | with_reducible exact hK | with_reducible assumption | with_reducible apply keeps_setReg (sub_of hF) | with_reducible apply keeps_modReck (sub_of hF) | with_reducible apply keeps_setBit (sub_of hF) | split | (intro _; intros) | dsimp only)

theorem keeps_reckonSlot {F : List Kind} (hF : [Kind.regs, .slots] ⊆ F) {s₀ : State} (n : Nat) (t : LinkTime) {s : State} (hK : Keeps F s₀ s) :
    Keeps F s₀ (reckonSlot n t s) := by
  unfold reckonSlot
  with_reducible repeat' first | exact hK | assumption | apply keeps_modReck (sub_of hF) | apply keeps_takePoint (sub_of hF) | split | dsimp only

theorem keeps_syncEdgeSlot {F : List Kind} (hF : [Kind.regs, .slots] ⊆ F) {s₀ : State} (t : LinkTime) (n : Nat) {s : State} (hK : Keeps F s₀ s) :
    Keeps F s₀ (syncEdgeSlot t n s) := by
  unfold syncEdgeSlot
  iterate 60 (first | done | with_reducible exact hK | with_reducible assumption | with_reducible apply keeps_modReck (sub_of hF) | with_reducible apply keeps_incSat (sub_of hF) | with_reducible apply keeps_modSlot (sub_of hF) | split | (intro _; intros) | dsimp only)

theorem keeps_syncMissed {F : List Kind} (hF : [Kind.regs, .out, .slots, .fr] ⊆ F) {s₀ : State} (n : Nat) {s : State} (hK : Keeps F s₀ s) :
    Keeps F s₀ (syncMissed n s) := by
  unfold syncMissed
  iterate 60 (first | done | with_reducible exact hK | with_reducible assumption | with_reducible apply keeps_incSat (sub_of hF) | with_reducible apply keeps_modReck (sub_of hF) | with_reducible apply keeps_raiseVec (sub_of hF) | with_reducible apply keeps_logEvent (sub_of hF) | with_reducible apply keeps_setBit (sub_of hF) | with_reducible apply keeps_modSlot (sub_of hF) | split | (intro _; intros) | dsimp only)

theorem keeps_pickoffLost {F : List Kind} (hF : [Kind.regs, .out, .slots, .fr] ⊆ F) {s₀ : State} (n : Nat) {s : State} (hK : Keeps F s₀ s) :
    Keeps F s₀ (pickoffLost n s) := by
  unfold pickoffLost
  iterate 60 (first | done | with_reducible exact hK | with_reducible assumption | with_reducible apply keeps_logEvent (sub_of hF) | with_reducible apply keeps_setBit (sub_of hF) | with_reducible apply keeps_modReck (sub_of hF) | split | (intro _; intros) | dsimp only)

theorem keeps_insertEvents {F : List Kind} (hF : [Kind.regs, .slots] ⊆ F) {s₀ : State} (n : Nat) (k : Lane) (evs : List (BitVec 64)) {s : State} (hK : Keeps F s₀ s) :
    Keeps F s₀ (insertEvents n k evs s) := by
  unfold insertEvents
  iterate 60 (first | done | with_reducible exact hK | with_reducible assumption | with_reducible apply keeps_modSlot (sub_of hF) | with_reducible apply keeps_setBit (sub_of hF) | with_reducible apply keeps_addSat (sub_of hF) | split | dsimp only)

theorem keeps_insertCal {F : List Kind} (hF : [Kind.regs, .slots] ⊆ F) {s₀ : State} (n : Nat) (evs : List (PhaseWord × BitVec 64)) {s : State} (hK : Keeps F s₀ s) :
    Keeps F s₀ (insertCal n evs s) := by
  unfold insertCal
  iterate 60 (first | done | with_reducible exact hK | with_reducible assumption | with_reducible apply keeps_insertEvents (sub_of hF) | with_reducible apply keeps_modSlot (sub_of hF) | split | (intro _; intros) | dsimp only)

theorem keeps_laneRoom {F : List Kind} (hF : [Kind.slots] ⊆ F) {s₀ : State} (n : Nat) (k : Lane) {s : State} (hK : Keeps F s₀ s) :
    Keeps F s₀ (laneRoom n k s) := by
  unfold laneRoom
  with_reducible repeat' first | exact hK | assumption | apply keeps_modSlot (sub_of hF)

end Sys2Proof.Machine
end

