-- ==== Sys2Proof/Laws/KeepsPitch.lean ====
section
/-! SUPPORT. The operations of Machine/Pitch.lean keep the relation of Laws/Keeps.lean. -/

set_option Elab.async false

namespace Sys2Proof.Machine

theorem keeps_setPendW {F : List Kind} (hF : [Kind.regs] ⊆ F) {s₀ : State} (p : Nat) (w : Nat) (v : Word) {s : State} (hK : Keeps F s₀ s) :
    Keeps F s₀ (setPendW p w v s) := by
  unfold setPendW
  with_reducible repeat' first | exact hK | assumption | apply keeps_setReg (sub_of hF)

theorem keeps_setActW {F : List Kind} (hF : [Kind.pitchAct] ⊆ F) {s₀ : State} (p w : Nat) (v : Word) {s : State} (hK : Keeps F s₀ s) : Keeps F s₀ (setActW p w v s) :=
  hK.pitchAct (sub_of hF) _ (SMap.wf_set _ v)

theorem keeps_buildPitch {F : List Kind} (hF : [Kind.regs, .pitchAct] ⊆ F) {s₀ : State} (n : Nat) (ty : Nat) (p : Nat) {s : State} (hK : Keeps F s₀ s) :
    Keeps F s₀ (buildPitch n ty p s) := by
  unfold buildPitch
  iterate 60 (first | done | with_reducible exact hK | with_reducible assumption | with_reducible apply keeps_forAll | with_reducible apply keeps_setActW (sub_of hF) | with_reducible apply keeps_setPendW (sub_of hF) | split | (intro _; intros))

theorem keeps_freePitch {F : List Kind} (hF : [Kind.regs, .pitchAct] ⊆ F) {s₀ : State} (p : Nat) {s : State} (hK : Keeps F s₀ s) :
    Keeps F s₀ (freePitch p s) := by
  unfold freePitch
  iterate 60 (first | done | with_reducible exact hK | with_reducible assumption | with_reducible apply keeps_forAll | with_reducible apply keeps_setActW (sub_of hF) | with_reducible apply keeps_setPendW (sub_of hF) | split | (intro _; intros))

theorem keeps_copyPitch {F : List Kind} (hF : [Kind.pitchAct] ⊆ F) {s₀ : State} (p : Nat) {s : State} (hK : Keeps F s₀ s) :
    Keeps F s₀ (copyPitch p s) := by
  unfold copyPitch
  with_reducible repeat' first | exact hK | assumption | apply keeps_forAll | apply keeps_setActW (sub_of hF) | split | (intro _; intros)

theorem keeps_setParked {F : List Kind} (hF : [Kind.regs] ⊆ F) {s₀ : State} (n : Nat) (b : Bool) {s : State} (hK : Keeps F s₀ s) :
    Keeps F s₀ (setParked n b s) := by
  unfold setParked
  with_reducible repeat' first | exact hK | assumption | apply keeps_forAll | apply keeps_setBit (sub_of hF) | split | (intro _; intros)

theorem keeps_pendWr {F : List Kind} (hF : [Kind.regs] ⊆ F) {s₀ : State} (n : Nat) {s : State} (hK : Keeps F s₀ s) :
    Keeps F s₀ (pendWr n s) := by
  unfold pendWr
  with_reducible repeat' first | exact hK | assumption | apply keeps_setBit (sub_of hF)

theorem keeps_slPendWr {F : List Kind} (hF : [Kind.regs] ⊆ F) {s₀ : State} (n : Nat) {s : State} (hK : Keeps F s₀ s) :
    Keeps F s₀ (slPendWr n s) := by
  unfold slPendWr
  with_reducible repeat' first | exact hK | assumption | apply keeps_setBit (sub_of hF)

theorem keeps_applyHeader {F : List Kind} (hF : [Kind.regs, .pitchAct] ⊆ F) {s₀ : State} (p : Nat) (v : Word) {s : State} (hK : Keeps F s₀ s) :
    Keeps F s₀ (applyHeader p v s) := by
  unfold applyHeader
  iterate 60 (first | done | with_reducible exact hK | with_reducible assumption | with_reducible apply keeps_forAll | with_reducible apply keeps_setActW (sub_of hF) | with_reducible apply keeps_setPendW (sub_of hF) | split | (intro _; intros) | dsimp only)

theorem keeps_hostHeader {F : List Kind} (hF : [Kind.regs, .pitchAct] ⊆ F) {s₀ : State} (n : Nat) (c : SlotCast) (p : Nat) (v : Word) {s : State} (hK : Keeps F s₀ s) :
    Keeps F s₀ (hostHeader n c p v s) := by
  unfold hostHeader
  iterate 60 (first | done | with_reducible exact hK | with_reducible assumption | with_reducible apply keeps_setBit (sub_of hF) | with_reducible apply keeps_pendWr (sub_of hF) | with_reducible apply keeps_slPendWr (sub_of hF) | with_reducible apply keeps_applyHeader (sub_of hF) | split | (intro _; intros) | dsimp only)

theorem keeps_hostPitchWord {F : List Kind} (hF : [Kind.regs] ⊆ F) {s₀ : State} (n : Nat) (c : SlotCast) (p : Nat) (w : Nat) (v : Word) {s : State} (hK : Keeps F s₀ s) :
    Keeps F s₀ (hostPitchWord n c p w v s) := by
  unfold hostPitchWord
  iterate 60 (first | done | with_reducible exact hK | with_reducible assumption | with_reducible apply keeps_setBit (sub_of hF) | with_reducible apply keeps_pendWr (sub_of hF) | with_reducible apply keeps_slPendWr (sub_of hF) | with_reducible apply keeps_setPendW (sub_of hF) | split | (intro _; intros) | dsimp only)

end Sys2Proof.Machine
end

