-- ==== Sys2Proof/Laws/KeepsLayers.lean ====
section
/-! SUPPORT. The operations of Machine/Layers.lean keep the relation of Laws/Keeps.lean. -/

set_option Elab.async false

namespace Sys2Proof.Machine

theorem keeps_modCam {F : List Kind} (hF : [Kind.sb] ⊆ F) {s₀ : State} (c : Nat) (f : CamState → CamState) {s : State} (hK : Keeps F s₀ s) :
    Keeps F s₀ (modCam c f s) := by
  unfold modCam
  iterate 60 (first | done | with_reducible exact hK | with_reducible assumption | split | (intro _; intros) | dsimp only | with_reducible refine Keeps.sb ?_ (sub_of hF) _)

theorem keeps_composeFrame {F : List Kind} (hF : [Kind.dram] ⊆ F) {s₀ : State} (n : Nat) (c : SlotCast) {s : State} (hK : Keeps F s₀ s) :
    Keeps F s₀ (composeFrame n c s) := by
  unfold composeFrame
  with_reducible repeat' first | exact hK | assumption | apply keeps_dramWrite (sub_of hF)

theorem keeps_markHidden {F : List Kind} (hF : [Kind.regs] ⊆ F) {s₀ : State} (n : Nat) (c : SlotCast) {s : State} (hK : Keeps F s₀ s) :
    Keeps F s₀ (markHidden n c s) := by
  unfold markHidden
  iterate 60 (first | done | with_reducible exact hK | with_reducible assumption | with_reducible apply keeps_forAll | with_reducible apply keeps_setFld (sub_of hF) | with_reducible apply keeps_setBit (sub_of hF) | with_reducible apply keeps_setReg (sub_of hF) | with_reducible apply keeps_foldl | with_reducible apply keeps_foldl_snd | split | (intro _; intros))

theorem keeps_noteMasks {F : List Kind} (hF : [Kind.regs, .slots] ⊆ F) {s₀ : State} (n : Nat) (c : SlotCast) (t16 : Int) {s : State} (hK : Keeps F s₀ s) :
    Keeps F s₀ (noteMasks n c t16 s) := by
  unfold noteMasks
  iterate 60 (first | done | with_reducible exact hK | with_reducible assumption | with_reducible apply keeps_forAll | with_reducible apply keeps_setFld (sub_of hF) | with_reducible apply keeps_setBit (sub_of hF) | with_reducible apply keeps_modSlot (sub_of hF) | split | (intro _; intros) | dsimp only)

end Sys2Proof.Machine
end

