-- ==== Sys2Proof/Laws/KeepsTables.lean ====
section
/-! SUPPORT. The operations of Machine/Tables.lean keep the relation of Laws/Keeps.lean. -/

set_option Elab.async false

namespace Sys2Proof.Machine

theorem keeps_showLoad {F : List Kind} (hF : [Kind.regs] ⊆ F) {s₀ : State} (n : Nat) {s : State} (hK : Keeps F s₀ s) :
    Keeps F s₀ (showLoad n s) := by
  unfold showLoad
  with_reducible repeat' first | exact hK | assumption | apply keeps_setReg (sub_of hF) | split

theorem keeps_showSeq {F : List Kind} (hF : [Kind.regs] ⊆ F) {s₀ : State} (n : Nat) {s : State} (hK : Keeps F s₀ s) :
    Keeps F s₀ (showSeq n s) := by
  unfold showSeq
  with_reducible repeat' first | exact hK | assumption | apply keeps_setBit (sub_of hF) | apply keeps_setFld (sub_of hF)

theorem keeps_revalidate {F : List Kind} (hF : [Kind.regs] ⊆ F) {s₀ : State} (n : Nat) {s : State} (hK : Keeps F s₀ s) :
    Keeps F s₀ (revalidate n s) := by
  unfold revalidate
  iterate 60 (first | done | with_reducible exact hK | with_reducible assumption | with_reducible apply keeps_showSeq (sub_of hF) | with_reducible apply keeps_forAll | with_reducible apply keeps_setBit (sub_of hF) | split | (intro _; intros))

theorem keeps_applySwap {F : List Kind} (hF : [Kind.regs, .pitchAct, .slots] ⊆ F) {s₀ : State} (n : Nat) (m : Nat) {s : State} (hK : Keeps F s₀ s) :
    Keeps F s₀ (applySwap n m s) := by
  unfold applySwap
  iterate 60 (first | done | with_reducible exact hK | with_reducible assumption | with_reducible apply keeps_forAll | with_reducible apply keeps_copyPitch (sub_of hF) | with_reducible apply keeps_setFld (sub_of hF) | with_reducible apply keeps_modSlot (sub_of hF) | with_reducible apply keeps_showSeq (sub_of hF) | with_reducible apply keeps_setBit (sub_of hF) | with_reducible apply keeps_foldl | with_reducible apply keeps_foldl_snd | split | (intro _; intros))

theorem keeps_raiseFrame {F : List Kind} (hF : [Kind.regs, .slots] ⊆ F) {s₀ : State} (n : Nat) {s : State} (hK : Keeps F s₀ s) :
    Keeps F s₀ (raiseFrame n s) := by
  unfold raiseFrame
  iterate 60 (first | done | with_reducible exact hK | with_reducible assumption | with_reducible apply keeps_raiseTarget (sub_of hF) | split | (intro _; intros) | dsimp only)

theorem keeps_rejectSwap {F : List Kind} (hF : [Kind.regs, .out, .fr] ⊆ F) {s₀ : State} (n : Nat) (cause : Nat) {s : State} (hK : Keeps F s₀ s) :
    Keeps F s₀ (rejectSwap n cause s) := by
  unfold rejectSwap
  iterate 60 (first | done | with_reducible exact hK | with_reducible assumption | with_reducible apply keeps_raiseVec (sub_of hF) | with_reducible apply keeps_logEvent (sub_of hF) | with_reducible apply keeps_setBit (sub_of hF) | with_reducible apply keeps_setFld (sub_of hF))

theorem keeps_requestSwap {F : List Kind} (hF : [Kind.regs, .pitchAct, .out, .slots, .fr] ⊆ F) {s₀ : State} (n : Nat) (m : Nat) {s : State} (hK : Keeps F s₀ s) :
    Keeps F s₀ (requestSwap n m s) := by
  unfold requestSwap
  iterate 60 (first | done | with_reducible exact hK | with_reducible assumption | with_reducible apply keeps_slPendWr (sub_of hF) | with_reducible apply keeps_rejectSwap (sub_of hF) | with_reducible apply keeps_applySwap (sub_of hF) | with_reducible apply keeps_modSlot (sub_of hF) | with_reducible apply keeps_setBit (sub_of hF) | with_reducible apply keeps_raiseTarget (sub_of hF) | split | dsimp only)

theorem keeps_cancelSwap {F : List Kind} (hF : [Kind.regs, .slots] ⊆ F) {s₀ : State} (n : Nat) (m : Nat) {s : State} (hK : Keeps F s₀ s) :
    Keeps F s₀ (cancelSwap n m s) := by
  unfold cancelSwap
  with_reducible repeat' first | exact hK | assumption | apply keeps_modSlot (sub_of hF) | apply keeps_setBit (sub_of hF) | split

theorem keeps_slCtrl {F : List Kind} (hF : [Kind.regs, .pitchAct, .out, .slots, .fr] ⊆ F) {s₀ : State} (n : Nat) (v : Word) {s : State} (hK : Keeps F s₀ s) :
    Keeps F s₀ (slCtrl n v s) := by
  unfold slCtrl
  with_reducible repeat' first | exact hK | assumption | apply keeps_cancelSwap (sub_of hF) | apply keeps_requestSwap (sub_of hF) | split

theorem keeps_boundarySwaps {F : List Kind} (hF : [Kind.regs, .pitchAct, .slots] ⊆ F) {s₀ : State} (n : Nat) {s : State} (hK : Keeps F s₀ s) :
    Keeps F s₀ (boundarySwaps n s) := by
  unfold boundarySwaps
  with_reducible repeat' first | exact hK | assumption | apply keeps_forAll | apply keeps_applySwap (sub_of hF) | apply keeps_modSlot (sub_of hF)

theorem keeps_applyAllSwaps {F : List Kind} (hF : [Kind.regs, .pitchAct, .slots] ⊆ F) {s₀ : State} (n : Nat) {s : State} (hK : Keeps F s₀ s) :
    Keeps F s₀ (applyAllSwaps n s) := by
  unfold applyAllSwaps
  with_reducible repeat' first | exact hK | assumption | apply keeps_forAll | apply keeps_applySwap (sub_of hF)

theorem keeps_takeShift {F : List Kind} (hF : [Kind.regs, .slots] ⊆ F) {s₀ : State} (n : Nat) (c : SlotCast) {s : State} (hK : Keeps F s₀ s) :
    Keeps F s₀ (takeShift n c s) := by
  unfold takeShift
  with_reducible repeat' first | exact hK | assumption | apply keeps_setFld (sub_of hF) | apply keeps_modSlot (sub_of hF) | apply keeps_incSat (sub_of hF) | split

theorem keeps_levelStale {F : List Kind} (hF : [Kind.regs, .out, .slots, .fr] ⊆ F) {s₀ : State} (n : Nat) {s : State} (hK : Keeps F s₀ s) :
    Keeps F s₀ (levelStale n s) := by
  unfold levelStale
  iterate 60 (first | done | with_reducible exact hK | with_reducible assumption | with_reducible apply keeps_logEvent (sub_of hF) | with_reducible apply keeps_setBit (sub_of hF) | with_reducible apply keeps_modSlot (sub_of hF) | split | (intro _; intros) | dsimp only)

theorem keeps_storePlane {F : List Kind} (hF : [Kind.dram] ⊆ F) {s₀ : State} (n : Nat) (c : SlotCast) (k : Nat) (bs : List Byte) {s : State} (hK : Keeps F s₀ s) :
    Keeps F s₀ (storePlane n c k bs s) := by
  unfold storePlane
  with_reducible repeat' first | exact hK | assumption | apply keeps_dramWrite (sub_of hF)

theorem keeps_noteUnder {F : List Kind} (hF : [Kind.regs] ⊆ F) {s₀ : State} (n : Nat) (k : Nat) {s : State} (hK : Keeps F s₀ s) :
    Keeps F s₀ (noteUnder n k s) := by
  unfold noteUnder
  with_reducible repeat' first | exact hK | assumption | apply keeps_addSat (sub_of hF) | apply keeps_setBit (sub_of hF) | split

theorem keeps_writePlane {F : List Kind} (hF : [Kind.dram, .slots] ⊆ F) {s₀ : State} (n : Nat) (c : SlotCast) (k : Nat) (bs : List Byte) {s : State} (hK : Keeps F s₀ s) :
    Keeps F s₀ (writePlane n c k bs s) := by
  unfold writePlane
  iterate 60 (first | done | with_reducible exact hK | with_reducible assumption | with_reducible apply keeps_modSlot (sub_of hF) | with_reducible apply keeps_storePlane (sub_of hF) | split | (intro _; intros) | dsimp only)

theorem keeps_storeHeld {F : List Kind} (hF : [Kind.dram, .slots] ⊆ F) {s₀ : State} (n : Nat) (c : SlotCast) (k : Nat) {s : State} (hK : Keeps F s₀ s) :
    Keeps F s₀ (storeHeld n c k s) := by
  unfold storeHeld
  iterate 60 (first | done | with_reducible exact hK | with_reducible assumption | with_reducible apply keeps_storePlane (sub_of hF) | with_reducible apply keeps_modSlot (sub_of hF) | split | (intro _; intros) | dsimp only)

theorem keeps_slicePlanes {F : List Kind} (hF : [Kind.dram, .slots] ⊆ F) {s₀ : State} (n : Nat) (c : SlotCast) (taken : Taken) {s : State} (hK : Keeps F s₀ s) :
    Keeps F s₀ (slicePlanes n c taken s) := by
  unfold slicePlanes
  iterate 60 (first | done | with_reducible exact hK | with_reducible assumption | with_reducible apply keeps_forAll | with_reducible apply keeps_writePlane (sub_of hF) | split | (intro _; intros) | dsimp only)

theorem keeps_sliceFrame {F : List Kind} (hF : [Kind.dram, .slots] ⊆ F) {s₀ : State} (n : Nat) (c : SlotCast) (taken : Taken) {s : State} (hK : Keeps F s₀ s) :
    Keeps F s₀ (sliceFrame n c taken s) := by
  unfold sliceFrame
  iterate 60 (first | done | with_reducible exact hK | with_reducible assumption | with_reducible apply keeps_slicePlanes (sub_of hF) | with_reducible apply keeps_modSlot (sub_of hF) | split | (intro _; intros) | dsimp only)

theorem keeps_sliceStart {F : List Kind} (hF : [Kind.regs, .dram, .slots] ⊆ F) {s₀ : State} (n : Nat) (late : List (Nat × Nat)) {s : State} (hK : Keeps F s₀ s) :
    Keeps F s₀ (sliceStart n late s) := by
  unfold sliceStart
  iterate 60 (first | done | with_reducible exact hK | with_reducible assumption | with_reducible apply keeps_noteUnder (sub_of hF) | with_reducible apply keeps_setReg (sub_of hF) | with_reducible apply keeps_takeShift (sub_of hF) | with_reducible apply keeps_sliceFrame (sub_of hF) | with_reducible apply keeps_addSat (sub_of hF) | split | (intro _; intros) | dsimp only)

theorem keeps_sliceDeadline {F : List Kind} (hF : [Kind.regs, .dram, .slots] ⊆ F) {s₀ : State} (n : Nat) (taken : Nat) (delivered : Nat) {s : State} (hK : Keeps F s₀ s) :
    Keeps F s₀ (sliceDeadline n taken delivered s) := by
  unfold sliceDeadline
  iterate 60 (first | done | with_reducible exact hK | with_reducible assumption | with_reducible apply keeps_sliceFrame (sub_of hF) | with_reducible apply keeps_noteUnder (sub_of hF) | with_reducible apply keeps_incSat (sub_of hF) | with_reducible apply keeps_setBit (sub_of hF) | split | (intro _; intros) | dsimp only)

theorem keeps_packPlaneBlock {F : List Kind} (hF : [Kind.regs, .dram] ⊆ F) {s₀ : State} (n : Nat) (k : Nat) (i : Nat) {s : State} (hK : Keeps F s₀ s) :
    Keeps F s₀ (packPlaneBlock n k i s) := by
  unfold packPlaneBlock
  iterate 60 (first | done | with_reducible exact hK | with_reducible assumption | with_reducible apply keeps_incSat (sub_of hF) | with_reducible apply keeps_addSat (sub_of hF) | with_reducible apply keeps_dramWrite (sub_of hF) | split | dsimp only)

theorem keeps_rawBusy {F : List Kind} (hF : [Kind.regs] ⊆ F) {s₀ : State} (n : Nat) (k : Nat) (i : Nat) {s : State} (hK : Keeps F s₀ s) :
    Keeps F s₀ (rawBusy n k i s) := by
  unfold rawBusy
  with_reducible repeat' first | exact hK | assumption | apply keeps_setBit (sub_of hF) | apply keeps_incSat (sub_of hF) | split

theorem keeps_layerCorrupt {F : List Kind} (hF : [Kind.regs, .out, .fr] ⊆ F) {s₀ : State} (n : Nat) {s : State} (hK : Keeps F s₀ s) :
    Keeps F s₀ (layerCorrupt n s) := by
  unfold layerCorrupt
  with_reducible repeat' first | exact hK | assumption | apply keeps_logEvent (sub_of hF) | apply keeps_setBit (sub_of hF) | apply keeps_incSat (sub_of hF)

theorem keeps_layerUnitDone {F : List Kind} (hF : [Kind.regs, .out, .fr] ⊆ F) {s₀ : State} (n : Nat) (p : Nat) (u : Nat) {s : State} (hK : Keeps F s₀ s) :
    Keeps F s₀ (layerUnitDone n p u s) := by
  unfold layerUnitDone
  with_reducible repeat' first | exact hK | assumption | apply keeps_layerCorrupt (sub_of hF) | apply keeps_incSat (sub_of hF) | split | dsimp only

theorem keeps_planeBlockDone {F : List Kind} (hF : [Kind.regs] ⊆ F) {s₀ : State} (n : Nat) (k : Nat) (i : Nat) {s : State} (hK : Keeps F s₀ s) :
    Keeps F s₀ (planeBlockDone n k i s) := by
  unfold planeBlockDone
  with_reducible repeat' first | exact hK | assumption | apply keeps_incSat (sub_of hF) | split

end Sys2Proof.Machine
end

