-- ==== Sys2Proof/Laws/KeepsLines.lean ====
section
/-! SUPPORT. The operations of Machine/Lines.lean keep the relation of Laws/Keeps.lean. -/

set_option Elab.async false

namespace Sys2Proof.Machine

theorem keeps_computeTraj {F : List Kind} (hF : [Kind.regs, .out, .slots, .fr] ⊆ F) {s₀ : State} (n : Nat) {s : State} (hK : Keeps F s₀ s) :
    Keeps F s₀ (computeTraj n s) := by
  unfold computeTraj
  iterate 60 (first | done | with_reducible exact hK | with_reducible assumption | with_reducible apply keeps_setReg (sub_of hF) | with_reducible apply keeps_modSlot (sub_of hF) | with_reducible apply keeps_logEvent (sub_of hF) | with_reducible apply keeps_setBit (sub_of hF) | split | dsimp only)

theorem keeps_modLoop {F : List Kind} (hF : [Kind.loops] ⊆ F) {s₀ : State} (l : Nat) (f : LoopState → LoopState) {s : State} (hK : Keeps F s₀ s) :
    Keeps F s₀ (modLoop l f s) := by
  unfold modLoop
  iterate 60 (first | done | with_reducible exact hK | with_reducible assumption | split | (intro _; intros) | dsimp only | with_reducible refine Keeps.loops ?_ (sub_of hF) _)

theorem keeps_modEnt {F : List Kind} (hF : [Kind.slots] ⊆ F) {s₀ : State} (n : Nat) (i : Nat) (f : LineEnt → LineEnt) {s : State} (hK : Keeps F s₀ s) :
    Keeps F s₀ (modEnt n i f s) := by
  unfold modEnt
  with_reducible repeat' first | exact hK | assumption | apply keeps_modSlot (sub_of hF)

theorem keeps_modLines {F : List Kind} (hF : [Kind.slots] ⊆ F) {s₀ : State} (n : Nat) (f : LineBuild → LineBuild) {s : State} (hK : Keeps F s₀ s) :
    Keeps F s₀ (modLines n f s) := by
  unfold modLines
  with_reducible repeat' first | exact hK | assumption | apply keeps_modSlot (sub_of hF)

theorem keeps_showDemand {F : List Kind} (hF : [Kind.regs] ⊆ F) {s₀ : State} (n : Nat) {s : State} (hK : Keeps F s₀ s) :
    Keeps F s₀ (showDemand n s) := by
  unfold showDemand
  with_reducible repeat' first | exact hK | assumption | apply keeps_setReg (sub_of hF)

theorem keeps_restartLines {F : List Kind} (hF : [Kind.slots] ⊆ F) {s₀ : State} (n : Nat) {s : State} (hK : Keeps F s₀ s) :
    Keeps F s₀ (restartLines n s) := by
  unfold restartLines
  iterate 60 (first | done | with_reducible exact hK | with_reducible assumption | with_reducible apply keeps_modLines (sub_of hF) | split | (intro _; intros) | dsimp only)

theorem keeps_noteDarkLine {F : List Kind} (hF : [Kind.slots] ⊆ F) {s₀ : State} (n : Nat) (f : BitVec 32) {s : State} (hK : Keeps F s₀ s) :
    Keeps F s₀ (noteDarkLine n f s) := by
  unfold noteDarkLine
  iterate 60 (first | done | with_reducible exact hK | with_reducible assumption | with_reducible apply keeps_modLines (sub_of hF) | split | (intro _; intros) | dsimp only)

theorem keeps_noteReads {F : List Kind} (hF : [Kind.slots] ⊆ F) {s₀ : State} (n : Nat) (e : LineEnt) {s : State} (hK : Keeps F s₀ s) :
    Keeps F s₀ (noteReads n e s) := by
  unfold noteReads
  iterate 60 (first | done | with_reducible exact hK | with_reducible assumption | with_reducible apply keeps_modLines (sub_of hF) | split | (intro _; intros) | dsimp only)

theorem keeps_lineDecided {F : List Kind} (hF : [Kind.slots] ⊆ F) {s₀ : State} (n : Nat) (c : SlotCast) (e : LineEnt) {s : State} (hK : Keeps F s₀ s) :
    Keeps F s₀ (lineDecided n c e s) := by
  unfold lineDecided
  iterate 60 (first | done | with_reducible exact hK | with_reducible assumption | with_reducible apply keeps_modLines (sub_of hF) | split | (intro _; intros) | dsimp only)

theorem keeps_enterLine {F : List Kind} (hF : [Kind.regs, .slots] ⊆ F) {s₀ : State} (n : Nat) (c : SlotCast) (i : Nat) {s : State} (hK : Keeps F s₀ s) :
    Keeps F s₀ (enterLine n c i s) := by
  unfold enterLine
  iterate 60 (first | done | with_reducible exact hK | with_reducible assumption | with_reducible apply keeps_modLines (sub_of hF) | with_reducible apply keeps_modEnt (sub_of hF) | with_reducible apply keeps_lineDecided (sub_of hF) | with_reducible apply keeps_noteDarkLine (sub_of hF) | with_reducible apply keeps_setReg (sub_of hF) | with_reducible apply keeps_insertEvents (sub_of hF) | with_reducible apply keeps_insertCal (sub_of hF) | split | (intro _; intros) | dsimp only)

theorem keeps_lineEnter {F : List Kind} (hF : [Kind.regs, .slots] ⊆ F) {s₀ : State} (n : Nat) {s : State} (hK : Keeps F s₀ s) :
    Keeps F s₀ (lineEnter n s) := by
  unfold lineEnter
  with_reducible repeat' first | exact hK | assumption | apply keeps_enterLine (sub_of hF) | split | dsimp only

theorem keeps_noteTraffic {F : List Kind} (hF : [Kind.mc] ⊆ F) {s₀ : State} (c : SlotCast) (base : Nat) (e : LineEnt) (reads : List Nat) {s : State} (hK : Keeps F s₀ s) :
    Keeps F s₀ (noteTraffic c base e reads s) := by
  unfold noteTraffic
  iterate 60 (first | done | with_reducible exact hK | with_reducible assumption | split | (intro _; intros) | dsimp only | with_reducible refine Keeps.mc ?_ (sub_of hF) _)

theorem keeps_finishRender {F : List Kind} (hF : [Kind.regs, .dram, .slots, .mc] ⊆ F) {s₀ : State} (n : Nat) (i : Nat) (c : SlotCast) (late : List (Nat × Nat)) {s : State} (hK : Keeps F s₀ s) :
    Keeps F s₀ (finishRender n i c late s) := by
  unfold finishRender
  iterate 60 (first | done | with_reducible exact hK | with_reducible assumption | with_reducible apply keeps_modLines (sub_of hF) | with_reducible apply keeps_noteUnder (sub_of hF) | with_reducible apply keeps_modEnt (sub_of hF) | with_reducible apply keeps_setBit (sub_of hF) | with_reducible apply keeps_noteTraffic (sub_of hF) | with_reducible apply keeps_dramWrite (sub_of hF) | with_reducible apply keeps_noteMasks (sub_of hF) | with_reducible apply keeps_setReg (sub_of hF) | with_reducible apply keeps_showDemand (sub_of hF) | with_reducible apply keeps_raiseTarget (sub_of hF) | split | (intro _; intros) | dsimp only)

theorem keeps_renderComplete {F : List Kind} (hF : [Kind.regs, .dram, .slots, .mc] ⊆ F) {s₀ : State} (n : Nat) (i : Nat) (late : List (Nat × Nat)) {s : State} (hK : Keeps F s₀ s) :
    Keeps F s₀ (renderComplete n i late s) := by
  unfold renderComplete
  iterate 60 (first | done | with_reducible exact hK | with_reducible assumption | with_reducible apply keeps_finishRender (sub_of hF) | split | (intro _; intros) | dsimp only)

theorem keeps_strikeTest {F : List Kind} (hF : [Kind.regs, .slots] ⊆ F) {s₀ : State} (n : Nat) (i : Nat) {s : State} (hK : Keeps F s₀ s) :
    Keeps F s₀ (strikeTest n i s) := by
  unfold strikeTest
  iterate 60 (first | done | with_reducible exact hK | with_reducible assumption | with_reducible apply keeps_modLines (sub_of hF) | with_reducible apply keeps_setReg (sub_of hF) | with_reducible apply keeps_modEnt (sub_of hF) | with_reducible apply keeps_lineDecided (sub_of hF) | with_reducible apply keeps_noteReads (sub_of hF) | with_reducible apply keeps_showDemand (sub_of hF) | with_reducible apply keeps_setTarget (sub_of hF) | with_reducible apply keeps_setBit (sub_of hF) | split | (intro _; intros) | dsimp only)

theorem keeps_rerenderComplete {F : List Kind} (hF : [Kind.regs, .dram, .slots, .mc] ⊆ F) {s₀ : State} (n : Nat) (i : Nat) (late : List (Nat × Nat)) {s : State} (hK : Keeps F s₀ s) :
    Keeps F s₀ (rerenderComplete n i late s) := by
  unfold rerenderComplete
  iterate 60 (first | done | with_reducible exact hK | with_reducible assumption | with_reducible apply keeps_strikeTest (sub_of hF) | with_reducible apply keeps_finishRender (sub_of hF) | with_reducible apply keeps_modEnt (sub_of hF) | split | (intro _; intros) | dsimp only)

theorem keeps_lineDark {F : List Kind} (hF : [Kind.regs, .slots] ⊆ F) {s₀ : State} (n : Nat) (i : Nat) {s : State} (hK : Keeps F s₀ s) :
    Keeps F s₀ (lineDark n i s) := by
  unfold lineDark
  iterate 60 (first | done | with_reducible exact hK | with_reducible assumption | with_reducible apply keeps_modEnt (sub_of hF) | with_reducible apply keeps_setBit (sub_of hF) | with_reducible apply keeps_setReg (sub_of hF) | with_reducible apply keeps_lineDecided (sub_of hF) | with_reducible apply keeps_showDemand (sub_of hF) | with_reducible apply keeps_noteDarkLine (sub_of hF) | split | (intro _; intros) | dsimp only)

theorem keeps_lineEnd {F : List Kind} (hF : [Kind.regs, .slots] ⊆ F) {s₀ : State} (n : Nat) (i : Nat) {s : State} (hK : Keeps F s₀ s) :
    Keeps F s₀ (lineEnd n i s) := by
  unfold lineEnd
  iterate 60 (first | done | with_reducible exact hK | with_reducible assumption | with_reducible apply keeps_showDemand (sub_of hF) | with_reducible apply keeps_modEnt (sub_of hF) | split | (intro _; intros) | dsimp only)

theorem keeps_flushLines {F : List Kind} (hF : [Kind.regs, .slots] ⊆ F) {s₀ : State} (n : Nat) {s : State} (hK : Keeps F s₀ s) :
    Keeps F s₀ (flushLines n s) := by
  unfold flushLines
  iterate 60 (first | done | with_reducible exact hK | with_reducible assumption | with_reducible apply keeps_showDemand (sub_of hF) | with_reducible apply keeps_modSlot (sub_of hF) | split | (intro _; intros) | dsimp only)

theorem keeps_flushFrom {F : List Kind} (hF : [Kind.regs, .slots] ⊆ F) {s₀ : State} (n : Nat) {s : State} (hK : Keeps F s₀ s) :
    Keeps F s₀ (flushFrom n s) := by
  unfold flushFrom
  iterate 60 (first | done | with_reducible exact hK | with_reducible assumption | with_reducible apply keeps_showDemand (sub_of hF) | with_reducible apply keeps_modSlot (sub_of hF) | split | (intro _; intros) | dsimp only)

theorem keeps_issueSamples {F : List Kind} (hF : [Kind.regs] ⊆ F) {s₀ : State} (n : Nat) (c : SlotCast) (light : List (Nat × List Nat)) (outs : List (Nat × List Nat)) {s : State} (hK : Keeps F s₀ s) :
    Keeps F s₀ (issueSamples n c light outs s).2 := by
  unfold issueSamples
  iterate 60 (first | done | with_reducible exact hK | with_reducible assumption | with_reducible apply keeps_issueCur (sub_of hF) | with_reducible apply keeps_setReg (sub_of hF) | with_reducible apply keeps_foldl | with_reducible apply keeps_foldl_snd | with_reducible apply keeps_ite_snd | with_reducible apply keeps_pair | split | (intro _; intros) | dsimp only)

theorem keeps_noteDrops {F : List Kind} (hF : [Kind.regs] ⊆ F) {s₀ : State} (c : SlotCast) (k : Nat) {s : State} (hK : Keeps F s₀ s) :
    Keeps F s₀ (noteDrops c k s) := by
  unfold noteDrops
  iterate 60 (first | done | with_reducible exact hK | with_reducible assumption | with_reducible apply keeps_forAll | with_reducible apply keeps_setBit (sub_of hF) | with_reducible apply keeps_addSat (sub_of hF) | split | (intro _; intros) | dsimp only)

theorem keeps_sendGroup {F : List Kind} (hF : [Kind.regs, .out, .ports] ⊆ F) {s₀ : State} (n : Nat) (c : SlotCast) (e : LineEnt) (last : Bool) (outs : List (Nat × List Nat)) {s : State} (hK : Keeps F s₀ s) :
    Keeps F s₀ (sendGroup n c e last outs s) := by
  unfold sendGroup
  iterate 60 (first | done | with_reducible exact hK | with_reducible assumption | with_reducible apply keeps_noteDrops (sub_of hF) | with_reducible apply keeps_issueSamples (sub_of hF) | with_reducible apply keeps_noteCeils (sub_of hF) | with_reducible apply keeps_sendPkt (sub_of hF) | split | (intro _; intros) | dsimp only)

theorem keeps_issueGroup {F : List Kind} (hF : [Kind.regs, .out, .slots, .ports] ⊆ F) {s₀ : State} (n : Nat) (i : Nat) (c : SlotCast) (first : LineSamp) (t0 : Int) {s : State} (hK : Keeps F s₀ s) :
    Keeps F s₀ (issueGroup n i c first t0 s) := by
  unfold issueGroup
  iterate 60 (first | done | with_reducible exact hK | with_reducible assumption | with_reducible apply keeps_engageDim (sub_of hF) | with_reducible apply keeps_noteDrops (sub_of hF) | with_reducible apply keeps_setBit (sub_of hF) | with_reducible apply keeps_addSat (sub_of hF) | with_reducible apply keeps_modEnt (sub_of hF) | with_reducible apply keeps_modLines (sub_of hF) | with_reducible apply keeps_sendGroup (sub_of hF) | split | (intro _; intros) | dsimp only)

theorem keeps_issueEntry {F : List Kind} (hF : [Kind.regs, .out, .slots, .ports] ⊆ F) {s₀ : State} (n : Nat) (i : Nat) (c : SlotCast) (x0 : Nat) {s : State} (hK : Keeps F s₀ s) :
    Keeps F s₀ (issueEntry n i c x0 s) := by
  induction x0 generalizing s with
  | zero => exact hK
  | succ k ih =>
    unfold issueEntry
    iterate 60 (first | done | with_reducible exact hK | with_reducible assumption | with_reducible apply ih | with_reducible apply keeps_issueGroup (sub_of hF) | split | (intro _; intros) | dsimp only)

theorem keeps_issueLines {F : List Kind} (hF : [Kind.regs, .out, .slots, .ports] ⊆ F) {s₀ : State} (n : Nat) (c : SlotCast) {s : State} (hK : Keeps F s₀ s) :
    Keeps F s₀ (issueLines n c s) := by
  unfold issueLines
  iterate 60 (first | done | with_reducible exact hK | with_reducible assumption | with_reducible apply keeps_forAll | with_reducible apply keeps_issueEntry (sub_of hF) | with_reducible apply keeps_foldl | with_reducible apply keeps_foldl_snd | split | (intro _; intros) | dsimp only)

theorem keeps_probeSel {F : List Kind} (hF : [Kind.regs, .slots] ⊆ F) {s₀ : State} (n : Nat) (v : Word) {s : State} (hK : Keeps F s₀ s) :
    Keeps F s₀ (probeSel n v s) := by
  unfold probeSel
  iterate 60 (first | done | with_reducible exact hK | with_reducible assumption | with_reducible apply keeps_setReg (sub_of hF) | with_reducible apply keeps_forAll | with_reducible apply keeps_modLines (sub_of hF) | split | (intro _; intros))

theorem keeps_probeRead {F : List Kind} (hF : [Kind.regs, .busData] ⊆ F) {s₀ : State} (n : Nat) {s : State} (hK : Keeps F s₀ s) :
    Keeps F s₀ (probeRead n s) := by
  unfold probeRead
  iterate 60 (first | done | with_reducible exact hK | with_reducible assumption | with_reducible apply keeps_setFld (sub_of hF) | split | (intro _; intros) | dsimp only | with_reducible refine Keeps.busData ?_ (sub_of hF) _)

end Sys2Proof.Machine
end

