-- ==== Sys2Proof/Laws/KeepsCommit.lean ====
section
/-! SUPPORT. The operations of Machine/Commit.lean keep the relation of Laws/Keeps.lean. -/

set_option Elab.async false

namespace Sys2Proof.Machine

theorem keeps_rejectCommit {F : List Kind} (hF : [Kind.regs, .out, .fr] ⊆ F) {s₀ : State} (n : Nat) (cause : Nat) {s : State} (hK : Keeps F s₀ s) :
    Keeps F s₀ (rejectCommit n cause s) := by
  unfold rejectCommit
  iterate 60 (first | done | with_reducible exact hK | with_reducible assumption | with_reducible apply keeps_raiseVec (sub_of hF) | with_reducible apply keeps_logEvent (sub_of hF) | with_reducible apply keeps_incSat (sub_of hF) | with_reducible apply keeps_setBit (sub_of hF) | with_reducible apply keeps_setFld (sub_of hF) | split | (intro _; intros) | dsimp only)

theorem keeps_recheckCommit {F : List Kind} (hF : [Kind.regs, .out, .slots, .fr] ⊆ F) {s₀ : State} (n : Nat) {s : State} (hK : Keeps F s₀ s) :
    Keeps F s₀ (recheckCommit n s) := by
  unfold recheckCommit
  iterate 60 (first | done | with_reducible exact hK | with_reducible assumption | with_reducible apply keeps_rejectCommit (sub_of hF) | with_reducible apply keeps_setFld (sub_of hF) | with_reducible apply keeps_modSlot (sub_of hF) | split | (intro _; intros) | dsimp only)

theorem keeps_stopRaster {F : List Kind} (hF : [Kind.slots] ⊆ F) {s₀ : State} (n : Nat) {s : State} (hK : Keeps F s₀ s) :
    Keeps F s₀ (stopRaster n s) := by
  unfold stopRaster
  iterate 60 (first | done | with_reducible exact hK | with_reducible assumption | with_reducible apply keeps_modSlot (sub_of hF) | split | (intro _; intros) | dsimp only)

theorem keeps_releaseSources {F : List Kind} (hF : [Kind.regs, .out, .slots] ⊆ F) {s₀ : State} (n : Nat) {s : State} (hK : Keeps F s₀ s) :
    Keeps F s₀ (releaseSources n s) := by
  unfold releaseSources
  iterate 60 (first | done | with_reducible exact hK | with_reducible assumption | with_reducible apply keeps_forAll | with_reducible apply keeps_modSlot (sub_of hF) | with_reducible apply keeps_raiseVec (sub_of hF) | with_reducible apply keeps_handBackDev (sub_of hF) | split | (intro _; intros) | dsimp only)

theorem keeps_showDefer {F : List Kind} (hF : [Kind.regs] ⊆ F) {s₀ : State} (n : Nat) {s : State} (hK : Keeps F s₀ s) :
    Keeps F s₀ (showDefer n s) := by
  unfold showDefer
  with_reducible repeat' first | exact hK | assumption | apply keeps_setBit (sub_of hF) | apply keeps_setReg (sub_of hF)

theorem keeps_applyLayer {F : List Kind} (hF : [Kind.pitchAct, .slots] ⊆ F) {s₀ : State} (n : Nat) (c : SlotCast) (k : Nat) {s : State} (hK : Keeps F s₀ s) :
    Keeps F s₀ (applyLayer n c k s) := by
  unfold applyLayer
  iterate 60 (first | done | with_reducible exact hK | with_reducible assumption | with_reducible apply keeps_copyPitch (sub_of hF) | with_reducible apply keeps_modSlot (sub_of hF) | split | (intro _; intros) | dsimp only)

theorem keeps_applyLayers {F : List Kind} (hF : [Kind.regs, .pitchAct, .slots] ⊆ F) {s₀ : State} (n : Nat) (c : SlotCast) (ks : List Nat) {s : State} (hK : Keeps F s₀ s) :
    Keeps F s₀ (applyLayers n c ks s) := by
  unfold applyLayers
  iterate 60 (first | done | with_reducible exact hK | with_reducible assumption | with_reducible apply keeps_forAll | with_reducible apply keeps_applyLayer (sub_of hF) | with_reducible apply keeps_modSlot (sub_of hF) | with_reducible apply keeps_setBit (sub_of hF) | with_reducible apply keeps_addSat (sub_of hF) | with_reducible apply keeps_showDefer (sub_of hF) | split)

theorem keeps_checkActive {F : List Kind} (hF : [Kind.regs] ⊆ F) {s₀ : State} (n : Nat) (c : SlotCast) (done : List Nat) {s : State} (hK : Keeps F s₀ s) :
    Keeps F s₀ (checkActive n c done s) := by
  unfold checkActive
  iterate 60 (first | done | with_reducible exact hK | with_reducible assumption | with_reducible apply keeps_setBit (sub_of hF) | with_reducible apply keeps_addSat (sub_of hF) | split | (intro _; intros) | dsimp only)

theorem keeps_noteHandover {F : List Kind} (hF : [Kind.slots] ⊆ F) {s₀ : State} (n : Nat) (c : SlotCast) {s : State} (hK : Keeps F s₀ s) :
    Keeps F s₀ (noteHandover n c s) := by
  unfold noteHandover
  iterate 60 (first | done | with_reducible exact hK | with_reducible assumption | with_reducible apply keeps_modSlot (sub_of hF) | split | (intro _; intros) | dsimp only)

theorem keeps_applyOthers {F : List Kind} (hF : [Kind.regs, .pitchAct, .slots] ⊆ F) {s₀ : State} (n : Nat) (c : SlotCast) {s : State} (hK : Keeps F s₀ s) :
    Keeps F s₀ (applyOthers n c s) := by
  unfold applyOthers
  iterate 60 (first | done | with_reducible exact hK | with_reducible assumption | with_reducible apply keeps_modSlot (sub_of hF) | with_reducible apply keeps_setFld (sub_of hF) | with_reducible apply keeps_forAll | with_reducible apply keeps_copyPitch (sub_of hF) | split | (intro _; intros) | dsimp only)

theorem keeps_applyActive {F : List Kind} (hF : [Kind.regs, .pitchAct, .slots] ⊆ F) {s₀ : State} (n : Nat) (c : SlotCast) {s : State} (hK : Keeps F s₀ s) :
    Keeps F s₀ (applyActive n c s) := by
  unfold applyActive
  iterate 60 (first | done | with_reducible exact hK | with_reducible assumption | with_reducible apply keeps_applyLayers (sub_of hF) | with_reducible apply keeps_applyOthers (sub_of hF) | split | (intro _; intros) | dsimp only)

theorem keeps_applyWhole {F : List Kind} (hF : [Kind.regs, .pitchAct, .slots] ⊆ F) {s₀ : State} (n : Nat) (c : SlotCast) {s : State} (hK : Keeps F s₀ s) :
    Keeps F s₀ (applyWhole n c s) := by
  unfold applyWhole
  iterate 60 (first | done | with_reducible exact hK | with_reducible assumption | with_reducible apply keeps_showDefer (sub_of hF) | with_reducible apply keeps_modSlot (sub_of hF) | with_reducible apply keeps_forAll | with_reducible apply keeps_applyLayer (sub_of hF) | with_reducible apply keeps_applyOthers (sub_of hF) | split | (intro _; intros) | dsimp only)

theorem keeps_applyScene {F : List Kind} (hF : [Kind.regs, .slots] ⊆ F) {s₀ : State} (n : Nat) {s : State} (hK : Keeps F s₀ s) :
    Keeps F s₀ (applyScene n s) := by
  unfold applyScene
  with_reducible repeat' first | exact hK | assumption | apply keeps_modSlot (sub_of hF) | apply keeps_setFld (sub_of hF) | split

theorem keeps_setMode {F : List Kind} (hF : [Kind.regs, .out, .slots, .fr] ⊆ F) {s₀ : State} (n : Nat) (m : Nat) {s : State} (hK : Keeps F s₀ s) :
    Keeps F s₀ (setMode n m s) := by
  unfold setMode
  iterate 60 (first | done | with_reducible exact hK | with_reducible assumption | with_reducible apply keeps_setFld (sub_of hF) | with_reducible apply keeps_modSlot (sub_of hF) | with_reducible apply keeps_computeTraj (sub_of hF) | with_reducible apply keeps_revalidate (sub_of hF) | with_reducible apply keeps_showLoad (sub_of hF))

theorem keeps_retuneFree {F : List Kind} (hF : [Kind.slots] ⊆ F) {s₀ : State} (n : Nat) {s : State} (hK : Keeps F s₀ s) :
    Keeps F s₀ (retuneFree n s) := by
  unfold retuneFree
  iterate 60 (first | done | with_reducible exact hK | with_reducible assumption | with_reducible apply keeps_modReck (sub_of hF) | split | (intro _; intros) | dsimp only)

theorem keeps_applyAtOnce {F : List Kind} (hF : [Kind.regs, .pitchAct, .out, .slots, .fr] ⊆ F) {s₀ : State} (n : Nat) {s : State} (hK : Keeps F s₀ s) :
    Keeps F s₀ (applyAtOnce n s) := by
  unfold applyAtOnce
  iterate 60 (first | done | with_reducible exact hK | with_reducible assumption | with_reducible apply keeps_applyScene (sub_of hF) | with_reducible apply keeps_applyAllSwaps (sub_of hF) | with_reducible apply keeps_applyWhole (sub_of hF) | with_reducible apply keeps_releaseSources (sub_of hF) | with_reducible apply keeps_retuneFree (sub_of hF) | with_reducible apply keeps_setMode (sub_of hF) | split | (intro _; intros) | dsimp only)

theorem keeps_quietSlot {F : List Kind} (hF : [Kind.regs, .out, .ports] ⊆ F) {s₀ : State} (n : Nat) {s : State} (hK : Keeps F s₀ s) :
    Keeps F s₀ (quietSlot n s) := by
  unfold quietSlot
  with_reducible repeat' first | exact hK | assumption | apply keeps_issueOff (sub_of hF) | apply keeps_markDark (sub_of hF) | split

theorem keeps_storeAllHeld {F : List Kind} (hF : [Kind.dram, .slots] ⊆ F) {s₀ : State} (n : Nat) {s : State} (hK : Keeps F s₀ s) :
    Keeps F s₀ (storeAllHeld n s) := by
  unfold storeAllHeld
  iterate 60 (first | done | with_reducible exact hK | with_reducible assumption | with_reducible apply keeps_forAll | with_reducible apply keeps_storeHeld (sub_of hF) | split | (intro _; intros) | dsimp only)

theorem keeps_restReck {F : List Kind} (hF : [Kind.regs, .pitchAct, .dram, .out, .slots, .ports, .fr] ⊆ F) {s₀ : State} (acq : Bool) (n : Nat) {s : State} (hK : Keeps F s₀ s) :
    Keeps F s₀ (restReck acq n s) := by
  unfold restReck
  iterate 60 (first | done | with_reducible exact hK | with_reducible assumption | with_reducible apply keeps_quietSlot (sub_of hF) | with_reducible apply keeps_modSlot (sub_of hF) | with_reducible apply keeps_storeAllHeld (sub_of hF) | with_reducible apply keeps_stopRaster (sub_of hF) | with_reducible apply keeps_applyAtOnce (sub_of hF) | with_reducible apply keeps_restartLines (sub_of hF) | with_reducible apply keeps_flushLines (sub_of hF) | split | (intro _; intros) | dsimp only)

theorem keeps_enterIdle {F : List Kind} (hF : [Kind.regs, .pitchAct, .dram, .out, .slots, .ports, .fr] ⊆ F) {s₀ : State} (n : Nat) {s : State} (hK : Keeps F s₀ s) :
    Keeps F s₀ (enterIdle n s) := by
  unfold enterIdle
  with_reducible repeat' first | exact hK | assumption | apply keeps_restReck (sub_of hF)

theorem keeps_enterAcquire {F : List Kind} (hF : [Kind.regs, .pitchAct, .dram, .out, .slots, .ports, .fr] ⊆ F) {s₀ : State} (n : Nat) {s : State} (hK : Keeps F s₀ s) :
    Keeps F s₀ (enterAcquire n s) := by
  unfold enterAcquire
  with_reducible repeat' first | exact hK | assumption | apply keeps_restReck (sub_of hF)

theorem keeps_changeMode {F : List Kind} (hF : [Kind.regs, .pitchAct, .dram, .out, .slots, .ports, .fr] ⊆ F) {s₀ : State} (n : Nat) (m : Nat) {s : State} (hK : Keeps F s₀ s) :
    Keeps F s₀ (changeMode n m s) := by
  unfold changeMode
  iterate 60 (first | done | with_reducible exact hK | with_reducible assumption | with_reducible apply keeps_setBit (sub_of hF) | with_reducible apply keeps_modSlot (sub_of hF) | with_reducible apply keeps_setMode (sub_of hF) | with_reducible apply keeps_retuneFree (sub_of hF) | with_reducible apply keeps_enterAcquire (sub_of hF) | with_reducible apply keeps_flushFrom (sub_of hF) | with_reducible apply keeps_setTarget (sub_of hF) | with_reducible apply keeps_emptyHeld (sub_of hF) | split | (intro _; intros) | dsimp only)

theorem keeps_resumeMode {F : List Kind} (hF : [Kind.regs, .slots] ⊆ F) {s₀ : State} (n : Nat) {s : State} (hK : Keeps F s₀ s) :
    Keeps F s₀ (resumeMode n s) := by
  unfold resumeMode
  with_reducible repeat' first | exact hK | assumption | apply keeps_setBit (sub_of hF) | apply keeps_modSlot (sub_of hF) | split

theorem keeps_requestCommit {F : List Kind} (hF : [Kind.regs, .pitchAct, .out, .slots, .fr] ⊆ F) {s₀ : State} (n : Nat) (mode : Option Nat) {s : State} (hK : Keeps F s₀ s) :
    Keeps F s₀ (requestCommit n mode s) := by
  unfold requestCommit
  iterate 60 (first | done | with_reducible exact hK | with_reducible assumption | with_reducible apply keeps_pendWr (sub_of hF) | with_reducible apply keeps_rejectCommit (sub_of hF) | with_reducible apply keeps_applyAtOnce (sub_of hF) | with_reducible apply keeps_modSlot (sub_of hF) | with_reducible apply keeps_setFld (sub_of hF) | with_reducible apply keeps_incSat (sub_of hF) | with_reducible apply keeps_setBit (sub_of hF) | split | dsimp only)

theorem keeps_cancelCommit {F : List Kind} (hF : [Kind.regs, .slots] ⊆ F) {s₀ : State} (n : Nat) {s : State} (hK : Keeps F s₀ s) :
    Keeps F s₀ (cancelCommit n s) := by
  unfold cancelCommit
  with_reducible repeat' first | exact hK | assumption | apply keeps_showDefer (sub_of hF) | apply keeps_setFld (sub_of hF) | apply keeps_modSlot (sub_of hF)

theorem keeps_soCtrl {F : List Kind} (hF : [Kind.regs, .pitchAct, .out, .slots, .fr] ⊆ F) {s₀ : State} (n : Nat) (v : Word) {s : State} (hK : Keeps F s₀ s) :
    Keeps F s₀ (soCtrl n v s) := by
  unfold soCtrl
  with_reducible repeat' first | exact hK | assumption | apply keeps_cancelCommit (sub_of hF) | apply keeps_requestCommit (sub_of hF) | split

theorem keeps_boundaryCommit {F : List Kind} (hF : [Kind.regs, .pitchAct, .dram, .out, .slots, .ports, .fr] ⊆ F) {s₀ : State} (n : Nat) (c : SlotCast) {s : State} (hK : Keeps F s₀ s) :
    Keeps F s₀ (boundaryCommit n c s) := by
  unfold boundaryCommit
  iterate 60 (first | done | with_reducible exact hK | with_reducible assumption | with_reducible apply keeps_applyActive (sub_of hF) | with_reducible apply keeps_changeMode (sub_of hF) | with_reducible apply keeps_modSlot (sub_of hF) | with_reducible apply keeps_applyLayers (sub_of hF) | split | dsimp only)

theorem keeps_tfCtrl {F : List Kind} (hF : [Kind.regs, .pitchAct, .dram, .out, .slots, .ports, .fr] ⊆ F) {s₀ : State} (n : Nat) (v : Word) {s : State} (hK : Keeps F s₀ s) :
    Keeps F s₀ (tfCtrl n v s) := by
  unfold tfCtrl
  iterate 60 (first | done | with_reducible exact hK | with_reducible assumption | with_reducible apply keeps_setReg (sub_of hF) | with_reducible apply keeps_enterAcquire (sub_of hF) | with_reducible apply keeps_modReck (sub_of hF) | split)

theorem keeps_rasterEnd {F : List Kind} (hF : [Kind.regs, .out, .slots] ⊆ F) {s₀ : State} (n : Nat) {s : State} (hK : Keeps F s₀ s) :
    Keeps F s₀ (rasterEnd n s) := by
  unfold rasterEnd
  iterate 60 (first | done | with_reducible exact hK | with_reducible assumption | with_reducible apply keeps_releaseSources (sub_of hF) | with_reducible apply keeps_stopRaster (sub_of hF) | split | (intro _; intros) | dsimp only)

theorem keeps_writeBack {F : List Kind} (hF : [Kind.dram] ⊆ F) {s₀ : State} (n : Nat) (c : SlotCast) (t16 : Int) {s : State} (hK : Keeps F s₀ s) :
    Keeps F s₀ (writeBack n c t16 s) := by
  unfold writeBack
  with_reducible repeat' first | exact hK | assumption | apply keeps_forAll | apply keeps_dramWrite (sub_of hF) | split | (intro _; intros)

theorem keeps_startWriteBack {F : List Kind} (hF : [Kind.regs, .dram, .slots] ⊆ F) {s₀ : State} (n : Nat) (c : SlotCast) {s : State} (hK : Keeps F s₀ s) :
    Keeps F s₀ (startWriteBack n c s) := by
  unfold startWriteBack
  iterate 60 (first | done | with_reducible exact hK | with_reducible assumption | with_reducible apply keeps_modSlot (sub_of hF) | with_reducible apply keeps_writeBack (sub_of hF) | with_reducible apply keeps_incSat (sub_of hF) | with_reducible apply keeps_setBit (sub_of hF) | split | (intro _; intros) | dsimp only)

theorem keeps_writebackComplete {F : List Kind} (hF : [Kind.regs, .out, .slots] ⊆ F) {s₀ : State} (n : Nat) {s : State} (hK : Keeps F s₀ s) :
    Keeps F s₀ (writebackComplete n s) := by
  unfold writebackComplete
  iterate 60 (first | done | with_reducible exact hK | with_reducible assumption | with_reducible apply keeps_setReg (sub_of hF) | with_reducible apply keeps_modSlot (sub_of hF) | with_reducible apply keeps_raiseVec (sub_of hF) | with_reducible apply keeps_handBackDev (sub_of hF) | split | (intro _; intros) | dsimp only)

end Sys2Proof.Machine
end

