-- ==== Sys2Proof/Laws/KeepsHallmark.lean ====
section
/-! SUPPORT. The operations of Machine/Hallmark.lean keep the relation of Laws/Keeps.lean. -/

set_option Elab.async false

namespace Sys2Proof.Machine

theorem keeps_modHall {F : List Kind} (hF : [Kind.slots] ⊆ F) {s₀ : State} (n : Nat) (f : HallSlot → HallSlot) {s : State} (hK : Keeps F s₀ s) :
    Keeps F s₀ (modHall n f s) := by
  unfold modHall
  with_reducible repeat' first | exact hK | assumption | apply keeps_modSlot (sub_of hF)

theorem keeps_showHall {F : List Kind} (hF : [Kind.regs] ⊆ F) {s₀ : State} (n : Nat) {s : State} (hK : Keeps F s₀ s) :
    Keeps F s₀ (showHall n s) := by
  unfold showHall
  with_reducible repeat' first | exact hK | assumption | apply keeps_setReg (sub_of hF) | split

theorem keeps_mismatchHold {F : List Kind} (hF : [Kind.regs, .out, .slots, .ports] ⊆ F) {s₀ : State} (n : Nat) (lvl : Nat) {s : State} (hK : Keeps F s₀ s) :
    Keeps F s₀ (mismatchHold n lvl s) := by
  unfold mismatchHold
  iterate 60 (first | done | with_reducible exact hK | with_reducible assumption | with_reducible apply keeps_modHall (sub_of hF) | with_reducible apply keeps_refreshCeil (sub_of hF) | with_reducible apply keeps_lenDrop (sub_of hF) | split)

theorem keeps_mismatchStep {F : List Kind} (hF : [Kind.regs, .out, .slots, .ports, .fr] ⊆ F) {s₀ : State} (n : Nat) (run : Nat) {s : State} (hK : Keeps F s₀ s) :
    Keeps F s₀ (mismatchStep n run s) := by
  unfold mismatchStep
  iterate 60 (first | done | with_reducible exact hK | with_reducible assumption | with_reducible apply keeps_logEvent (sub_of hF) | with_reducible apply keeps_withDim (sub_of hF) | with_reducible apply keeps_mismatchHold (sub_of hF) | split)

theorem keeps_signatureRecord {F : List Kind} (hF : [Kind.regs, .out, .slots, .ports, .fr] ⊆ F) {s₀ : State} (n : Nat) (disturb : Word) {s : State} (hK : Keeps F s₀ s) :
    Keeps F s₀ (signatureRecord n disturb s) := by
  unfold signatureRecord
  iterate 60 (first | done | with_reducible exact hK | with_reducible assumption | with_reducible apply keeps_modSlot (sub_of hF) | with_reducible apply keeps_modHall (sub_of hF) | with_reducible apply keeps_setReg (sub_of hF) | with_reducible apply keeps_showHall (sub_of hF) | with_reducible apply keeps_mismatchStep (sub_of hF) | split)

theorem keeps_shiftOut {F : List Kind} (hF : [Kind.out] ⊆ F) {s₀ : State}  {s : State} (hK : Keeps F s₀ s) :
    Keeps F s₀ (shiftOut s) := by
  unfold shiftOut
  with_reducible repeat' first | exact hK | assumption | apply keeps_emit (sub_of hF)

theorem keeps_setResp {F : List Kind} (hF : [Kind.hall] ⊆ F) {s₀ : State} (r : List Byte) {s : State} (hK : Keeps F s₀ s) :
    Keeps F s₀ (setResp r s) := by
  unfold setResp
  iterate 60 (first | done | with_reducible exact hK | with_reducible assumption | split | (intro _; intros) | dsimp only | with_reducible refine Keeps.hall ?_ (sub_of hF) _)

theorem keeps_sportRequest {F : List Kind} (hF : [Kind.regs, .out, .hall] ⊆ F) {s₀ : State} (cmd : Byte) (q : SportReq) (act : SportAct)
    (hA : ∀ n b t, Keeps F s₀ t → Keeps F s₀ (act n b t).2.2) {s : State} (hK : Keeps F s₀ s) :
    Keeps F s₀ (sportRequest cmd q act s) := by
  unfold sportRequest
  split
  · exact hK
  · have h1 := keeps_setBit (sub_of hF) Reg.hlSportStat 1 false (keeps_incSat (sub_of hF) Reg.hlSportCnt 31 16 (keeps_shiftOut (sub_of hF) hK))
    extract_lets s1 n r f s2
    have hs : Keeps F s₀ s1 := h1
    clear_value s1
    split
    · exact keeps_setResp (sub_of hF) _ hs
    · have hr : Keeps F s₀ r.2.2 := by
        unfold r
        split
        · exact hA _ _ _ hs
        · exact hs
      exact Keeps.hall hr (sub_of hF) _

theorem keeps_sportNop {F : List Kind} (hF : ([] : List Kind) ⊆ F) {s₀ : State} (n : Nat) (p : List Byte) {s : State} (hK : Keeps F s₀ s) : Keeps F s₀ (sportNop n p s).2.2 := hK

theorem keeps_sportGetSig {F : List Kind} (hF : [Kind.freeCount] ⊆ F) {s₀ : State} (n : Nat) (p : List Byte) {s : State} (hK : Keeps F s₀ s) :
    Keeps F s₀ (sportGetSig n p s).2.2 := by
  unfold sportGetSig
  split
  · exact hK
  · exact keeps_freeBytes (sub_of hF) _ hK

theorem keeps_sportSetScene {F : List Kind} (hF : [Kind.slots] ⊆ F) {s₀ : State} (n : Nat) (p : List Byte) {s : State} (hK : Keeps F s₀ s) :
    Keeps F s₀ (sportSetScene n p s).2.2 := by
  unfold sportSetScene
  extract_lets base
  split
  · exact hK
  · exact keeps_modHall (sub_of hF) _ _ hK

theorem keeps_sportCommit {F : List Kind} (hF : [Kind.regs, .slots] ⊆ F) {s₀ : State} (n : Nat) (p : List Byte) {s : State} (hK : Keeps F s₀ s) :
    Keeps F s₀ (sportCommit n p s).2.2 := by
  unfold sportCommit
  extract_lets st h s1
  have h1 : Keeps F s₀ s1 := keeps_modHall (sub_of hF) _ _ hK
  clear_value s1
  split
  · exact hK
  · dsimp only
    split
    · exact keeps_showHall (sub_of hF) _ (keeps_applyScene (sub_of hF) _ h1)
    · exact h1

theorem keeps_putAsset {F : List Kind} (hF : [Kind.hall] ⊆ F) {s₀ : State} (id : Nat) (w : Nat) (h : Nat) (sealed : Bool) (d : List Byte) {s : State} (hK : Keeps F s₀ s) :
    Keeps F s₀ (putAsset id w h sealed d s) := by
  unfold putAsset
  iterate 60 (first | done | with_reducible exact hK | with_reducible assumption | split | (intro _; intros) | dsimp only | with_reducible refine Keeps.hall ?_ (sub_of hF) _)

theorem keeps_sportBegin {F : List Kind} (hF : [Kind.hall] ⊆ F) {s₀ : State} (n : Nat) (p : List Byte) {s : State} (hK : Keeps F s₀ s) :
    Keeps F s₀ (sportBegin n p s).2.2 := by
  unfold sportBegin
  extract_lets id w h old ans
  repeat' split
  all_goals first | exact hK | exact keeps_putAsset (sub_of hF) _ _ _ _ _ hK

theorem keeps_sportData {F : List Kind} (hF : [Kind.hall] ⊆ F) {s₀ : State} (n : Nat) (p : List Byte) {s : State} (hK : Keeps F s₀ s) :
    Keeps F s₀ (sportData n p s).2.2 := by
  unfold sportData
  extract_lets id o
  repeat' split
  all_goals first | exact hK | skip
  extract_lets d
  split
  · exact hK
  · exact keeps_putAsset (sub_of hF) _ _ _ _ _ hK

theorem keeps_sportSeal {F : List Kind} (hF : [Kind.hall] ⊆ F) {s₀ : State} (n : Nat) (p : List Byte) {s : State} (hK : Keeps F s₀ s) :
    Keeps F s₀ (sportSeal n p s).2.2 := by
  unfold sportSeal
  extract_lets id
  repeat' split
  all_goals first | exact hK | exact keeps_putAsset (sub_of hF) _ _ _ _ _ hK

theorem keeps_sportContain {F : List Kind} (hF : [Kind.regs, .out, .slots, .ports] ⊆ F) {s₀ : State} (n : Nat) (p : List Byte) {s : State} (hK : Keeps F s₀ s) :
    Keeps F s₀ (sportContain n p s).2.2 := by
  unfold sportContain
  extract_lets v f
  split
  · exact hK
  · refine keeps_showHall (sub_of hF) _ (keeps_withDim (sub_of hF) _ (fun t ht => ?_) hK)
    unfold f
    extract_lets s1
    have h1 : Keeps F s₀ s1 := keeps_modHall (sub_of hF) _ _ ht
    clear_value s1
    split
    · exact keeps_refreshCeil (sub_of hF) _ (keeps_lenDrop (sub_of hF) _ _ h1)
    · exact h1

theorem keeps_clearHallFault {F : List Kind} (hF : [Kind.regs] ⊆ F) {s₀ : State}  {s : State} (hK : Keeps F s₀ s) :
    Keeps F s₀ (clearHallFault s) := by
  unfold clearHallFault
  with_reducible repeat' first | exact hK | assumption | apply keeps_setBit (sub_of hF) | split

theorem keeps_sportRelease {F : List Kind} (hF : [Kind.regs, .slots] ⊆ F) {s₀ : State} (n : Nat) (p : List Byte) {s : State} (hK : Keeps F s₀ s) :
    Keeps F s₀ (sportRelease n p s).2.2 := by
  unfold sportRelease
  repeat' split
  all_goals first | exact hK | exact keeps_clearHallFault (sub_of hF) (keeps_modHall (sub_of hF) _ _ hK)

theorem keeps_sportDiscard {F : List Kind} (hF : [Kind.regs, .out, .hall] ⊆ F) {s₀ : State}  {s : State} (hK : Keeps F s₀ s) :
    Keeps F s₀ (sportDiscard s) := by
  unfold sportDiscard
  with_reducible repeat' first | exact hK | assumption | apply keeps_setResp (sub_of hF) | apply keeps_incSat (sub_of hF) | apply keeps_shiftOut (sub_of hF) | split

end Sys2Proof.Machine
end

