-- ==== Sys2Proof/Laws/KeepsLoop.lean ====
section
/-! SUPPORT. The operations of Machine/Loop.lean keep the relation of Laws/Keeps.lean. -/

set_option Elab.async false

namespace Sys2Proof.Machine

theorem keeps_leFlag {F : List Kind} (hF : [Kind.regs] ⊆ F) {s₀ : State} (l : Nat) (i : Nat) (b : Bool) {s : State} (hK : Keeps F s₀ s) :
    Keeps F s₀ (leFlag l i b s) := by
  unfold leFlag
  with_reducible repeat' first | exact hK | assumption | apply keeps_setBit (sub_of hF) | split

theorem keeps_showLoop {F : List Kind} (hF : [Kind.regs] ⊆ F) {s₀ : State} (l : Nat) {s : State} (hK : Keeps F s₀ s) :
    Keeps F s₀ (showLoop l s) := by
  unfold showLoop
  with_reducible repeat' first | exact hK | assumption | apply keeps_setRegs (sub_of hF)

theorem keeps_loseLock {F : List Kind} (hF : [Kind.regs, .out, .slots, .fr, .loops] ⊆ F) {s₀ : State} (l : Nat) {s : State} (hK : Keeps F s₀ s) :
    Keeps F s₀ (loseLock l s) := by
  unfold loseLock
  iterate 60 (first | done | with_reducible exact hK | with_reducible assumption | with_reducible apply keeps_setBit (sub_of hF) | with_reducible apply keeps_modLoop (sub_of hF) | with_reducible apply keeps_pickoffLost (sub_of hF) | split)

theorem keeps_sendOut {F : List Kind} (hF : [Kind.out, .ports, .power] ⊆ F) {s₀ : State} (l : Nat) (t16 : Nat) (v : Int) {s : State} (hK : Keeps F s₀ s) :
    Keeps F s₀ (sendOut l t16 v s) := by
  unfold sendOut
  iterate 60 (first | done | with_reducible exact hK | with_reducible assumption | with_reducible apply keeps_sendPkt (sub_of hF) | split | (intro _; intros) | dsimp only | with_reducible refine Keeps.power ?_ (sub_of hF) _)

theorem keeps_issueOut {F : List Kind} (hF : [Kind.out, .ports, .power] ⊆ F) {s₀ : State} (l : Nat) {s : State} (hK : Keeps F s₀ s) :
    Keeps F s₀ (issueOut l s) := by
  unfold issueOut
  iterate 60 (first | done | with_reducible exact hK | with_reducible assumption | with_reducible apply keeps_sendOut (sub_of hF) | split | (intro _; intros) | dsimp only)

theorem keeps_startTracker {F : List Kind} (hF : [Kind.regs, .out, .slots, .fr, .loops] ⊆ F) {s₀ : State} (l : Nat) {s : State} (hK : Keeps F s₀ s) :
    Keeps F s₀ (startTracker l s) := by
  unfold startTracker
  iterate 60 (first | done | with_reducible exact hK | with_reducible assumption | with_reducible apply keeps_setBit (sub_of hF) | with_reducible apply keeps_loseLock (sub_of hF) | with_reducible apply keeps_modLoop (sub_of hF) | split | (intro _; intros) | dsimp only)

theorem keeps_handEstimate {F : List Kind} (hF : [Kind.slots] ⊆ F) {s₀ : State} (l : Nat) (n : Nat) (old : Tracker) {s : State} (hK : Keeps F s₀ s) :
    Keeps F s₀ (handEstimate l n old s) := by
  unfold handEstimate
  iterate 60 (first | done | with_reducible exact hK | with_reducible assumption | with_reducible apply keeps_modReck (sub_of hF) | split | (intro _; intros) | dsimp only)

theorem keeps_trackerStep {F : List Kind} (hF : [Kind.regs, .out, .slots, .fr, .loops] ⊆ F) {s₀ : State} (l : Nat) (t : LinkTime) (theta : BitVec 16) {s : State} (hK : Keeps F s₀ s) :
    Keeps F s₀ (trackerStep l t theta s) := by
  unfold trackerStep
  iterate 60 (first | done | with_reducible exact hK | with_reducible assumption | with_reducible apply keeps_setBit (sub_of hF) | with_reducible apply keeps_modLoop (sub_of hF) | with_reducible apply keeps_handEstimate (sub_of hF) | with_reducible apply keeps_loseLock (sub_of hF) | split | (intro _; intros) | dsimp only)

theorem keeps_trackerUpdate {F : List Kind} (hF : [Kind.regs, .out, .slots, .fr, .loops] ⊆ F) {s₀ : State} (l : Nat) (t : LinkTime) (theta : BitVec 16) {s : State} (hK : Keeps F s₀ s) :
    Keeps F s₀ (trackerUpdate l t theta s) := by
  unfold trackerUpdate
  iterate 60 (first | done | with_reducible exact hK | with_reducible assumption | with_reducible apply keeps_trackerStep (sub_of hF) | with_reducible apply keeps_modLoop (sub_of hF) | split | (intro _; intros) | dsimp only)

theorem keeps_pickoffGone {F : List Kind} (hF : [Kind.regs, .out, .slots, .fr, .loops] ⊆ F) {s₀ : State} (n : Nat) {s : State} (hK : Keeps F s₀ s) :
    Keeps F s₀ (pickoffGone n s) := by
  unfold pickoffGone
  iterate 60 (first | done | with_reducible exact hK | with_reducible assumption | with_reducible apply keeps_pickoffLost (sub_of hF) | with_reducible apply keeps_loseLock (sub_of hF) | split | (intro _; intros) | dsimp only)

theorem keeps_driveSample {F : List Kind} (hF : [Kind.out, .ports, .power] ⊆ F) {s₀ : State} (l : Nat) {s : State} (hK : Keeps F s₀ s) :
    Keeps F s₀ (driveSample l s) := by
  unfold driveSample
  iterate 60 (first | done | with_reducible exact hK | with_reducible assumption | with_reducible apply keeps_sendOut (sub_of hF) | split | (intro _; intros) | dsimp only)

theorem keeps_moveSp {F : List Kind} (hF : [Kind.regs] ⊆ F) {s₀ : State} (l : Nat) (j : Nat) (t : LinkTime) {s : State} (hK : Keeps F s₀ s) :
    Keeps F s₀ (moveSp l j t s) := by
  unfold moveSp
  with_reducible repeat' first | exact hK | assumption | apply keeps_leFlag (sub_of hF) | apply keeps_setReg (sub_of hF) | split

theorem keeps_rcUpdate {F : List Kind} (hF : [Kind.regs, .dram] ⊆ F) {s₀ : State} (l : Nat) (j : Nat) (k : Nat) (e : Blk) {s : State} (hK : Keeps F s₀ s) :
    Keeps F s₀ (rcUpdate l j k e s) := by
  unfold rcUpdate
  with_reducible repeat' first | exact hK | assumption | apply keeps_leFlag (sub_of hF) | apply keeps_dramWrite (sub_of hF)

theorem keeps_noteNorm {F : List Kind} (hF : [Kind.regs] ⊆ F) {s₀ : State} (l : Nat) (out : Bool) (r : Norm) {s : State} (hK : Keeps F s₀ s) :
    Keeps F s₀ (noteNorm l out r s) := by
  unfold noteNorm
  iterate 60 (first | done | with_reducible exact hK | with_reducible assumption | with_reducible apply keeps_leFlag (sub_of hF) | split | (intro _; intros) | dsimp only)

theorem keeps_noteStage {F : List Kind} (hF : [Kind.regs] ⊆ F) {s₀ : State} (l : Nat) (out : Bool) (a : Acc) (r : Norm) {s : State} (hK : Keeps F s₀ s) :
    Keeps F s₀ (noteStage l out a r s) := by
  unfold noteStage
  iterate 60 (first | done | with_reducible exact hK | with_reducible assumption | with_reducible apply keeps_leFlag (sub_of hF) | with_reducible apply keeps_noteNorm (sub_of hF) | split | (intro _; intros) | dsimp only)

theorem keeps_stage3 {F : List Kind} (hF : [Kind.regs] ⊆ F) {s₀ : State} (l : Nat) (xb z : Blk) (k : Nat) {s : State} (hK : Keeps F s₀ s) :
    Keeps F s₀ (stage3 l xb z k s).s :=
  keeps_leFlag (sub_of hF) _ _ _ (keeps_noteStage (sub_of hF) _ _ _ _ hK)

theorem keeps_presetStep {F : List Kind} (hF : [Kind.regs] ⊆ F) {s₀ : State} (l : Nat) (xb : Blk) (k : Nat) {s : State} (hK : Keeps F s₀ s) :
    Keeps F s₀ (presetStep l xb k s).s := by
  unfold presetStep
  extract_lets nx nu ny uh a sent s1 rhs kz det sol r c s2
  have h1 : Keeps F s₀ s1 := keeps_leFlag (sub_of hF) _ _ _ (keeps_leFlag (sub_of hF) _ _ _ hK)
  have h2 : Keeps F s₀ s2 := keeps_noteNorm (sub_of hF) _ _ _ (keeps_noteNorm (sub_of hF) _ _ _ h1)
  clear_value s1 s2
  split
  · exact keeps_leFlag (sub_of hF) _ _ _ h1
  · split
    · exact keeps_stage3 (sub_of hF) _ _ _ _ (keeps_leFlag (sub_of hF) _ _ _ (keeps_leFlag (sub_of hF) _ _ _ h2))
    · exact h2

theorem keeps_openStep {F : List Kind} (hF : [Kind.regs, .loops] ⊆ F) {s₀ : State} (l : Nat) (z : Blk) {s : State} (hK : Keeps F s₀ s) :
    Keeps F s₀ (openStep l z s).s :=
  keeps_leFlag (sub_of hF) _ _ _ (keeps_modLoop (sub_of hF) _ _ hK)

theorem keeps_arrive {F : List Kind} (hF : [Kind.regs, .loops] ⊆ F) {s₀ : State} (l k : Nat) (m : LoopMeas) {s : State} (hK : Keeps F s₀ s) :
    Keeps F s₀ (arrive l k m s) := by
  unfold arrive
  extract_lets q k1 k2 s1
  have h1 : Keeps F s₀ s1 := keeps_modLoop (sub_of hF) _ _ hK
  split
  · exact h1
  · exact keeps_setBit (sub_of hF) _ _ _ (keeps_addSat (sub_of hF) _ _ _ _ h1)

theorem keeps_countAuto {F : List Kind} (hF : [Kind.loops] ⊆ F) {s₀ : State} (l : Nat) {s : State} (hK : Keeps F s₀ s) :
    Keeps F s₀ (countAuto l s) := by
  unfold countAuto
  iterate 60 (first | done | with_reducible exact hK | with_reducible assumption | with_reducible apply keeps_modLoop (sub_of hF) | split | (intro _; intros) | dsimp only)

theorem keeps_takeMeas {F : List Kind} (hF : [Kind.regs, .loops] ⊆ F) {s₀ : State} (l : Nat) (m : LoopMeas) {s : State} (hK : Keeps F s₀ s) :
    Keeps F s₀ (takeMeas l m s) := by
  unfold takeMeas
  iterate 60 (first | done | with_reducible exact hK | with_reducible assumption | with_reducible apply keeps_modLoop (sub_of hF) | with_reducible apply keeps_countAuto (sub_of hF) | with_reducible apply keeps_arrive (sub_of hF) | split | (intro _; intros) | dsimp only)

theorem keeps_loopsSense {F : List Kind} (hF : [Kind.regs, .loops] ⊆ F) {s₀ : State} (p : Nat) (k : SensePkt) {s : State} (hK : Keeps F s₀ s) :
    Keeps F s₀ (loopsSense p k s) := by
  unfold loopsSense
  iterate 60 (first | done | with_reducible exact hK | with_reducible assumption | with_reducible apply keeps_forAll | with_reducible apply keeps_modLoop (sub_of hF) | with_reducible apply keeps_takeMeas (sub_of hF) | with_reducible apply keeps_foldl | with_reducible apply keeps_foldl_snd | split | (intro _; intros) | dsimp only)

theorem keeps_loopTicks {F : List Kind} (hF : [Kind.regs, .loops] ⊆ F) {s₀ : State} (l : Nat) {s : State} (hK : Keeps F s₀ s) :
    Keeps F s₀ (loopTicks l s) := by
  unfold loopTicks
  iterate 60 (first | done | with_reducible exact hK | with_reducible assumption | with_reducible apply keeps_arrive (sub_of hF) | with_reducible apply keeps_modLoop (sub_of hF) | split | (intro _; intros) | dsimp only)

theorem keeps_startTicks {F : List Kind} (hF : [Kind.loops] ⊆ F) {s₀ : State} (l : Nat) {s : State} (hK : Keeps F s₀ s) :
    Keeps F s₀ (startTicks l s) := by
  unfold startTicks
  iterate 60 (first | done | with_reducible exact hK | with_reducible assumption | with_reducible apply keeps_modLoop (sub_of hF) | split | (intro _; intros) | dsimp only)

theorem keeps_noteDelay {F : List Kind} (hF : [Kind.regs, .loops] ⊆ F) {s₀ : State} (l : Nat) (delay : Nat) {s : State} (hK : Keeps F s₀ s) :
    Keeps F s₀ (noteDelay l delay s) := by
  unfold noteDelay
  iterate 60 (first | done | with_reducible exact hK | with_reducible assumption | with_reducible apply keeps_modLoop (sub_of hF) | with_reducible apply keeps_setFld (sub_of hF) | with_reducible apply keeps_incSat (sub_of hF) | with_reducible apply keeps_foldl | with_reducible apply keeps_foldl_snd | split)

theorem keeps_noteLock {F : List Kind} (hF : [Kind.regs, .out, .slots, .fr, .loops] ⊆ F) {s₀ : State} (l : Nat) (y : List Int) {s : State} (hK : Keeps F s₀ s) :
    Keeps F s₀ (noteLock l y s) := by
  unfold noteLock
  iterate 60 (first | done | with_reducible exact hK | with_reducible assumption | with_reducible apply keeps_modLoop (sub_of hF) | with_reducible apply keeps_loseLock (sub_of hF) | with_reducible apply keeps_setBit (sub_of hF) | split | dsimp only)

theorem keeps_noteAuto {F : List Kind} (hF : [Kind.loops] ⊆ F) {s₀ : State} (l : Nat) {s : State} (hK : Keeps F s₀ s) :
    Keeps F s₀ (noteAuto l s) := by
  unfold noteAuto
  iterate 60 (first | done | with_reducible exact hK | with_reducible assumption | with_reducible apply keeps_countAuto (sub_of hF) | split | (intro _; intros) | dsimp only)

theorem keeps_closeStages {F : List Kind} (hF : [Kind.regs, .dram, .loops] ⊆ F) {s₀ : State} (l : Nat) (k : Nat) (y : List Int) (o : OutStep) {s : State} (hK : Keeps F s₀ s) :
    Keeps F s₀ (closeStages l k y o s) := by
  unfold closeStages
  iterate 60 (first | done | with_reducible exact hK | with_reducible assumption | with_reducible apply keeps_leFlag (sub_of hF) | with_reducible apply keeps_noteNorm (sub_of hF) | with_reducible apply keeps_noteStage (sub_of hF) | with_reducible apply keeps_modLoop (sub_of hF) | with_reducible apply keeps_forAll | with_reducible apply keeps_rcUpdate (sub_of hF) | with_reducible apply keeps_setBit (sub_of hF) | split | (intro _; intros) | dsimp only)

theorem keeps_runSample {F : List Kind} (hF : [Kind.regs, .dram, .out, .slots, .ports, .power, .fr, .loops] ⊆ F) {s₀ : State} (l : Nat) (m : LoopMeas) (ys : List Int) {s : State} (hK : Keeps F s₀ s) :
    Keeps F s₀ (runSample l m ys s) := by
  unfold runSample
  extract_lets t nx nu ny sp y yn yb s0 q x a1 e a2 xb s1 k shut o un s2 s3 a4 xn s4 s5 s6
  have h0 : Keeps F s₀ s0 := keeps_noteNorm (sub_of hF) _ _ _
    (keeps_forAll _ _ (fun _ _ h => keeps_moveSp (sub_of hF) _ _ _ h) hK)
  have h1 : Keeps F s₀ s1 := keeps_noteStage (sub_of hF) _ _ _ _ (keeps_noteStage (sub_of hF) _ _ _ _ h0)
  have ho : Keeps F s₀ o.s := by
    unfold o
    split
    · exact keeps_stage3 (sub_of hF) _ _ _ _ h1
    · split
      · exact keeps_presetStep (sub_of hF) _ _ _ h1
      · exact keeps_openStep (sub_of hF) _ _ h1
  clear_value o
  have h2 : Keeps F s₀ s2 := keeps_modLoop (sub_of hF) _ _ (keeps_noteNorm (sub_of hF) _ _ _ ho)
  clear_value s2
  have h3 : Keeps F s₀ s3 := by
    apply keeps_issueOut (sub_of hF)
    split
    · exact keeps_setFld (sub_of hF) _ _ _ _ h2
    · exact h2
  clear_value s3
  have h4 : Keeps F s₀ s4 := keeps_noteStage (sub_of hF) _ _ _ _ (keeps_modLoop (sub_of hF) _ _ h3)
  clear_value s4
  have h5 : Keeps F s₀ s5 := by
    unfold s5
    split
    · exact keeps_closeStages (sub_of hF) _ _ _ _ h4
    · exact h4
  exact keeps_showLoop (sub_of hF) _ (keeps_noteAuto (sub_of hF) _ (keeps_noteLock (sub_of hF) _ _ (keeps_modLoop (sub_of hF) _ _ h5)))

theorem keeps_loopSample {F : List Kind} (hF : [Kind.regs, .dram, .out, .slots, .ports, .power, .fr, .loops] ⊆ F) {s₀ : State} (l : Nat) (t : LinkTime) (y : List Int) (delay : Nat) {s : State} (hK : Keeps F s₀ s) :
    Keeps F s₀ (loopSample l t y delay s) := by
  unfold loopSample
  iterate 60 (first | done | with_reducible exact hK | with_reducible assumption | with_reducible apply keeps_noteDelay (sub_of hF) | with_reducible apply keeps_runSample (sub_of hF) | with_reducible apply keeps_modLoop (sub_of hF) | split | (intro _; intros) | dsimp only)

theorem keeps_leResult {F : List Kind} (hF : [Kind.regs] ⊆ F) {s₀ : State} (l : Nat) (st : Status) {s : State} (hK : Keeps F s₀ s) :
    Keeps F s₀ (leResult l st s) := by
  unfold leResult
  with_reducible repeat' first | exact hK | assumption | apply keeps_setFld (sub_of hF) | apply keeps_setReg (sub_of hF) | split

theorem keeps_loopEnable {F : List Kind} (hF : [Kind.regs, .out, .slots, .ports, .power, .fr, .loops] ⊆ F) {s₀ : State} (l : Nat) {s : State} (hK : Keeps F s₀ s) :
    Keeps F s₀ (loopEnable l s) := by
  unfold loopEnable
  iterate 60 (first | done | with_reducible exact hK | with_reducible assumption | with_reducible apply keeps_leResult (sub_of hF) | with_reducible apply keeps_setFld (sub_of hF) | with_reducible apply keeps_modLoop (sub_of hF) | with_reducible apply keeps_showLoop (sub_of hF) | with_reducible apply keeps_issueOut (sub_of hF) | with_reducible apply keeps_startTicks (sub_of hF) | with_reducible apply keeps_startTracker (sub_of hF) | split | (intro _; intros) | dsimp only)

theorem keeps_loopClose {F : List Kind} (hF : [Kind.regs, .loops] ⊆ F) {s₀ : State} (l : Nat) {s : State} (hK : Keeps F s₀ s) :
    Keeps F s₀ (loopClose l s) := by
  unfold loopClose
  iterate 60 (first | done | with_reducible exact hK | with_reducible assumption | with_reducible apply keeps_leResult (sub_of hF) | with_reducible apply keeps_modLoop (sub_of hF) | split | (intro _; intros) | dsimp only)

theorem keeps_openLoop {F : List Kind} (hF : [Kind.regs, .out, .slots, .fr, .loops] ⊆ F) {s₀ : State} (l : Nat) {s : State} (hK : Keeps F s₀ s) :
    Keeps F s₀ (openLoop l s) := by
  unfold openLoop
  iterate 60 (first | done | with_reducible exact hK | with_reducible assumption | with_reducible apply keeps_setFld (sub_of hF) | with_reducible apply keeps_loseLock (sub_of hF) | with_reducible apply keeps_modLoop (sub_of hF) | split | dsimp only)

theorem keeps_loopOpen {F : List Kind} (hF : [Kind.regs, .out, .slots, .fr, .loops] ⊆ F) {s₀ : State} (l : Nat) {s : State} (hK : Keeps F s₀ s) :
    Keeps F s₀ (loopOpen l s) := by
  unfold loopOpen
  with_reducible repeat' first | exact hK | assumption | apply keeps_leResult (sub_of hF) | apply keeps_openLoop (sub_of hF) | split

theorem keeps_idleLoop {F : List Kind} (hF : [Kind.regs, .out, .slots, .fr, .loops] ⊆ F) {s₀ : State} (l : Nat) {s : State} (hK : Keeps F s₀ s) :
    Keeps F s₀ (idleLoop l s) := by
  unfold idleLoop
  iterate 60 (first | done | with_reducible exact hK | with_reducible assumption | with_reducible apply keeps_setFld (sub_of hF) | with_reducible apply keeps_setBit (sub_of hF) | with_reducible apply keeps_loseLock (sub_of hF) | with_reducible apply keeps_modLoop (sub_of hF) | split | (intro _; intros) | dsimp only)

theorem keeps_loopDisable {F : List Kind} (hF : [Kind.regs, .out, .slots, .ports, .power, .fr, .loops] ⊆ F) {s₀ : State} (l : Nat) {s : State} (hK : Keeps F s₀ s) :
    Keeps F s₀ (loopDisable l s) := by
  unfold loopDisable
  iterate 60 (first | done | with_reducible exact hK | with_reducible assumption | with_reducible apply keeps_leResult (sub_of hF) | with_reducible apply keeps_modLoop (sub_of hF) | with_reducible apply keeps_driveSample (sub_of hF) | with_reducible apply keeps_issueOut (sub_of hF) | with_reducible apply keeps_idleLoop (sub_of hF) | with_reducible apply keeps_showLoop (sub_of hF) | split | (intro _; intros) | dsimp only)

theorem keeps_leCtrl {F : List Kind} (hF : [Kind.regs, .out, .slots, .ports, .power, .fr, .loops] ⊆ F) {s₀ : State} (l : Nat) (v : Word) {s : State} (hK : Keeps F s₀ s) :
    Keeps F s₀ (leCtrl l v s) := by
  unfold leCtrl
  iterate 60 (first | done | with_reducible exact hK | with_reducible assumption | with_reducible apply keeps_loopEnable (sub_of hF) | with_reducible apply keeps_loopClose (sub_of hF) | with_reducible apply keeps_loopOpen (sub_of hF) | with_reducible apply keeps_loopDisable (sub_of hF) | split)

theorem keeps_rejectCoef {F : List Kind} (hF : [Kind.regs] ⊆ F) {s₀ : State} (l : Nat) (st : Status) {s : State} (hK : Keeps F s₀ s) :
    Keeps F s₀ (rejectCoef l st s) := by
  unfold rejectCoef
  with_reducible repeat' first | exact hK | assumption | apply keeps_setReg (sub_of hF) | apply keeps_setBit (sub_of hF)

theorem keeps_coefWrite {F : List Kind} (hF : [Kind.regs, .loops] ⊆ F) {s₀ : State} (l : Nat) (w : Nat) (v : Word) {s : State} (hK : Keeps F s₀ s) :
    Keeps F s₀ (coefWrite l w v s) := by
  unfold coefWrite
  iterate 60 (first | done | with_reducible exact hK | with_reducible assumption | with_reducible apply keeps_rejectCoef (sub_of hF) | with_reducible apply keeps_setReg (sub_of hF) | with_reducible apply keeps_modLoop (sub_of hF) | split)

theorem keeps_leConfigWrite {F : List Kind} (hF : [Kind.regs] ⊆ F) {s₀ : State} (l : Nat) (off : Nat) (m : Word) (v : Word) {s : State} (hK : Keeps F s₀ s) :
    Keeps F s₀ (leConfigWrite l off m v s) := by
  unfold leConfigWrite
  with_reducible repeat' first | exact hK | assumption | apply keeps_rejectCoef (sub_of hF) | apply keeps_setReg (sub_of hF) | split

theorem keeps_dlyClear {F : List Kind} (hF : [Kind.regs] ⊆ F) {s₀ : State} (l : Nat) (xu1 : Word) {s : State} (hK : Keeps F s₀ s) :
    Keeps F s₀ (dlyClear l xu1 s) := by
  unfold dlyClear
  with_reducible repeat' first | exact hK | assumption | apply keeps_setFld (sub_of hF)

theorem keeps_loopSrcLost {F : List Kind} (hF : [Kind.regs, .out, .slots, .fr, .loops] ⊆ F) {s₀ : State} (l : Nat) {s : State} (hK : Keeps F s₀ s) :
    Keeps F s₀ (loopSrcLost l s) := by
  unfold loopSrcLost
  iterate 60 (first | done | with_reducible exact hK | with_reducible assumption | with_reducible apply keeps_setBit (sub_of hF) | with_reducible apply keeps_openLoop (sub_of hF) | split | (intro _; intros) | dsimp only)

theorem keeps_loopsDepart {F : List Kind} (hF : [Kind.regs, .out, .slots, .fr, .loops] ⊆ F) {s₀ : State} (p : Nat) {s : State} (hK : Keeps F s₀ s) :
    Keeps F s₀ (loopsDepart p s) := by
  unfold loopsDepart
  iterate 60 (first | done | with_reducible exact hK | with_reducible assumption | with_reducible apply keeps_forAll | with_reducible apply keeps_modLoop (sub_of hF) | with_reducible apply keeps_openLoop (sub_of hF) | with_reducible apply keeps_setBit (sub_of hF) | split | (intro _; intros) | dsimp only)

theorem keeps_loopsBind {F : List Kind} (hF : [Kind.regs, .out, .slots, .fr, .loops] ⊆ F) {s₀ : State} (p : Nat) {s : State} (hK : Keeps F s₀ s) :
    Keeps F s₀ (loopsBind p s) := by
  unfold loopsBind
  iterate 60 (first | done | with_reducible exact hK | with_reducible assumption | with_reducible apply keeps_forAll | with_reducible apply keeps_startTracker (sub_of hF) | with_reducible apply keeps_modLoop (sub_of hF) | split | (intro _; intros))

theorem keeps_loopsDozeExit {F : List Kind} (hF : [Kind.regs, .out, .slots, .fr, .loops] ⊆ F) {s₀ : State}  {s : State} (hK : Keeps F s₀ s) :
    Keeps F s₀ (loopsDozeExit s) := by
  unfold loopsDozeExit
  iterate 60 (first | done | with_reducible exact hK | with_reducible assumption | with_reducible apply keeps_forAll | with_reducible apply keeps_setBit (sub_of hF) | with_reducible apply keeps_modLoop (sub_of hF) | with_reducible apply keeps_setFld (sub_of hF) | with_reducible apply keeps_loseLock (sub_of hF) | with_reducible apply keeps_showLoop (sub_of hF) | with_reducible apply keeps_startTicks (sub_of hF) | with_reducible apply keeps_startTracker (sub_of hF) | split | (intro _; intros) | dsimp only)

end Sys2Proof.Machine
end

