-- ==== Sys2Proof/Laws/KeepsReckon.lean ====
section
/-! SUPPORT. The operations of Machine/Reckon.lean keep the relation of Laws/Keeps.lean. -/

set_option Elab.async false

namespace Sys2Proof.Machine

theorem keeps_noteLate {F : List Kind} (hF : [Kind.regs] ⊆ F) {s₀ : State} (n : Nat) {s : State} (hK : Keeps F s₀ s) :
    Keeps F s₀ (noteLate n s) := by
  unfold noteLate
  with_reducible repeat' first | exact hK | assumption | apply keeps_incSat (sub_of hF) | apply keeps_setBit (sub_of hF)

theorem keeps_noteDrop {F : List Kind} (hF : [Kind.regs] ⊆ F) {s₀ : State} (n : Nat) {s : State} (hK : Keeps F s₀ s) :
    Keeps F s₀ (noteDrop n s) := by
  unfold noteDrop
  iterate 60 (first | done | with_reducible exact hK | with_reducible assumption | with_reducible apply keeps_forAll | with_reducible apply keeps_setBit (sub_of hF) | with_reducible apply keeps_incSat (sub_of hF) | split | (intro _; intros))

theorem keeps_sendBlock {F : List Kind} (hF : [Kind.regs, .out, .slots, .ports, .fr] ⊆ F) {s₀ : State} (n : Nat) (c : SlotCast) (ms : List MaskEff) (k : Nat) (i : Nat) (release : BitVec 40) {s : State} (hK : Keeps F s₀ s) :
    Keeps F s₀ (sendBlock n c ms k i release s) := by
  unfold sendBlock
  iterate 60 (first | done | with_reducible exact hK | with_reducible assumption | with_reducible apply keeps_modSlot (sub_of hF) | with_reducible apply keeps_logEvent (sub_of hF) | with_reducible apply keeps_setBit (sub_of hF) | with_reducible apply keeps_incSat (sub_of hF) | with_reducible apply keeps_sendPkt (sub_of hF) | split)

theorem keeps_darkenEntry {F : List Kind} (hF : [Kind.slots] ⊆ F) {s₀ : State} (n : Nat) (k : Nat) {s : State} (hK : Keeps F s₀ s) :
    Keeps F s₀ (darkenEntry n k s) := by
  unfold darkenEntry
  iterate 60 (first | done | with_reducible exact hK | with_reducible assumption | with_reducible apply keeps_modSlot (sub_of hF) | split | (intro _; intros) | dsimp only)

theorem keeps_planeLoad {F : List Kind} (hF : [Kind.regs, .dram, .out, .slots, .ports, .fr] ⊆ F) {s₀ : State} (n : Nat) (c : SlotCast) (k : Nat) (p : PhaseWord) (t16 : Nat) (late : Bool) {s : State} (hK : Keeps F s₀ s) :
    Keeps F s₀ (planeLoad n c k p t16 late s) := by
  unfold planeLoad
  iterate 60 (first | done | with_reducible exact hK | with_reducible assumption | with_reducible apply keeps_storeHeld (sub_of hF) | with_reducible apply keeps_engageDim (sub_of hF) | with_reducible apply keeps_forAll | with_reducible apply keeps_sendBlock (sub_of hF) | with_reducible apply keeps_noteMasks (sub_of hF) | with_reducible apply keeps_incSat (sub_of hF) | with_reducible apply keeps_setBit (sub_of hF) | with_reducible apply keeps_darkenEntry (sub_of hF) | split | (intro _; intros) | dsimp only)

theorem keeps_levelSet {F : List Kind} (hF : [Kind.regs, .out, .slots, .ports] ⊆ F) {s₀ : State} (n : Nat) (c : SlotCast) (k : Nat) (t16 : Nat) (late : Bool) {s : State} (hK : Keeps F s₀ s) :
    Keeps F s₀ (levelSet n c k t16 late s) := by
  unfold levelSet
  iterate 60 (first | done | with_reducible exact hK | with_reducible assumption | with_reducible apply keeps_noteDrop (sub_of hF) | with_reducible apply keeps_darkenEntry (sub_of hF) | with_reducible apply keeps_issueLevels (sub_of hF) | split | (intro _; intros) | dsimp only)

theorem keeps_illumOn {F : List Kind} (hF : [Kind.regs, .out, .slots, .ports] ⊆ F) {s₀ : State} (n : Nat) (k : Nat) (t16 : Nat) (late : Bool) {s : State} (hK : Keeps F s₀ s) :
    Keeps F s₀ (illumOn n k t16 late s) := by
  unfold illumOn
  iterate 60 (first | done | with_reducible exact hK | with_reducible assumption | with_reducible apply keeps_modSlot (sub_of hF) | with_reducible apply keeps_noteDrop (sub_of hF) | with_reducible apply keeps_issueOns (sub_of hF) | split | dsimp only)

theorem keeps_noteGapLost {F : List Kind} (hF : [Kind.regs] ⊆ F) {s₀ : State} (n : Nat) {s : State} (hK : Keeps F s₀ s) :
    Keeps F s₀ (noteGapLost n s) := by
  unfold noteGapLost
  with_reducible repeat' first | exact hK | assumption | apply keeps_incSat (sub_of hF) | apply keeps_setBit (sub_of hF)

theorem keeps_gapStart {F : List Kind} (hF : [Kind.regs, .slots] ⊆ F) {s₀ : State} (n : Nat) (t16 : Nat) (late : Bool) {s : State} (hK : Keeps F s₀ s) :
    Keeps F s₀ (gapStart n t16 late s) := by
  unfold gapStart
  with_reducible repeat' first | exact hK | assumption | apply keeps_modSlot (sub_of hF) | apply keeps_noteGapLost (sub_of hF) | split

theorem keeps_gapStop {F : List Kind} (hF : [Kind.regs, .slots] ⊆ F) {s₀ : State} (n : Nat) (t16 : Nat) (late : Bool) {s : State} (hK : Keeps F s₀ s) :
    Keeps F s₀ (gapStop n t16 late s) := by
  unfold gapStop
  with_reducible repeat' first | exact hK | assumption | apply keeps_modSlot (sub_of hF) | apply keeps_noteGapLost (sub_of hF) | split | dsimp only

theorem keeps_issueEvent {F : List Kind} (hF : [Kind.regs, .dram, .out, .slots, .ports, .fr] ⊆ F) {s₀ : State} (n : Nat) (c : SlotCast) (e : BitVec 64) (t16 : Nat) (late : Bool) {s : State} (hK : Keeps F s₀ s) :
    Keeps F s₀ (issueEvent n c e t16 late s) := by
  unfold issueEvent
  iterate 60 (first | done | with_reducible exact hK | with_reducible assumption | with_reducible apply keeps_noteLate (sub_of hF) | with_reducible apply keeps_planeLoad (sub_of hF) | with_reducible apply keeps_illumOn (sub_of hF) | with_reducible apply keeps_issueOff (sub_of hF) | with_reducible apply keeps_levelSet (sub_of hF) | with_reducible apply keeps_gapStart (sub_of hF) | with_reducible apply keeps_gapStop (sub_of hF) | split)

theorem keeps_darkenLate {F : List Kind} (hF : [Kind.slots] ⊆ F) {s₀ : State} (n : Nat) (c : SlotCast) {s : State} (hK : Keeps F s₀ s) :
    Keeps F s₀ (darkenLate n c s) := by
  unfold darkenLate
  iterate 60 (first | done | with_reducible exact hK | with_reducible assumption | with_reducible apply keeps_forAll | with_reducible apply keeps_darkenEntry (sub_of hF) | split | (intro _; intros) | dsimp only)

theorem keeps_retireLane {F : List Kind} (hF : [Kind.regs, .dram, .out, .slots, .ports, .fr] ⊆ F) {s₀ : State} (n : Nat) (c : SlotCast) (l : Lane) (x0 : Nat) {s : State} (hK : Keeps F s₀ s) :
    Keeps F s₀ (retireLane n c l x0 s) := by
  induction x0 generalizing s with
  | zero => exact hK
  | succ k ih =>
    unfold retireLane
    iterate 60 (first | done | with_reducible exact hK | with_reducible assumption | with_reducible apply ih | with_reducible apply keeps_modSlot (sub_of hF) | with_reducible apply keeps_issueEvent (sub_of hF) | split | (intro _; intros) | dsimp only)

theorem keeps_issueSlot {F : List Kind} (hF : [Kind.regs, .dram, .out, .slots, .ports, .fr] ⊆ F) {s₀ : State} (n : Nat) {s : State} (hK : Keeps F s₀ s) :
    Keeps F s₀ (issueSlot n s) := by
  unfold issueSlot
  iterate 60 (first | done | with_reducible exact hK | with_reducible assumption | with_reducible apply keeps_retireLane (sub_of hF) | with_reducible apply keeps_darkenLate (sub_of hF) | with_reducible apply keeps_insertCal (sub_of hF) | with_reducible apply keeps_issueLines (sub_of hF) | split | (intro _; intros) | dsimp only)

theorem keeps_portTime {F : List Kind} (hF : [Kind.out, .ports] ⊆ F) {s₀ : State} (p : Nat) {s : State} (hK : Keeps F s₀ s) :
    Keeps F s₀ (portTime p s) := by
  unfold portTime
  iterate 60 (first | done | with_reducible exact hK | with_reducible assumption | with_reducible apply keeps_transmit (sub_of hF) | with_reducible apply keeps_sendPkt (sub_of hF) | with_reducible apply keeps_modPort (sub_of hF) | split | (intro _; intros) | dsimp only)

theorem keeps_reckonOnce {F : List Kind} (hF : [Kind.linkTime, .regs, .dram, .out, .slots, .ports, .fr] ⊆ F) {s₀ : State}  {s : State} (hK : Keeps F s₀ s) :
    Keeps F s₀ (reckonOnce s) := by
  unfold reckonOnce
  iterate 60 (first | done | with_reducible exact hK | with_reducible assumption | with_reducible apply keeps_forAll | with_reducible apply keeps_issueSlot (sub_of hF) | with_reducible apply keeps_portTime (sub_of hF) | with_reducible apply keeps_reckonSlot (sub_of hF) | split | (intro _; intros) | dsimp only | with_reducible refine Keeps.linkTime ?_ (sub_of hF) _)

theorem keeps_reckonMany {F : List Kind} (hF : [Kind.linkTime, .regs, .dram, .out, .slots, .ports, .fr] ⊆ F) {s₀ : State} (x0 : Nat) {s : State} (hK : Keeps F s₀ s) :
    Keeps F s₀ (reckonMany x0 s) := by
  induction x0 generalizing s with
  | zero => exact hK
  | succ k ih =>
    unfold reckonMany
    iterate 60 (first | done | with_reducible exact hK | with_reducible assumption | with_reducible apply ih | with_reducible apply keeps_reckonOnce (sub_of hF) | split | (intro _; intros) | dsimp only)

theorem keeps_reckonStep {F : List Kind} (hF : [Kind.linkTime, .regs, .dram, .out, .slots, .ports, .fr, .loops] ⊆ F) {s₀ : State} (t : LinkTime) {s : State} (hK : Keeps F s₀ s) :
    Keeps F s₀ (reckonStep t s) := by
  unfold reckonStep
  iterate 60 (first | done | with_reducible exact hK | with_reducible assumption | with_reducible apply keeps_reckonMany (sub_of hF) | with_reducible apply keeps_forAll | with_reducible apply keeps_loopTicks (sub_of hF) | split | (intro _; intros) | dsimp only | with_reducible refine Keeps.linkTime ?_ (sub_of hF) _)

end Sys2Proof.Machine
end

