-- ==== Sys2Proof/Laws/KeepsCalib.lean ====
section
/-! SUPPORT. The operations of Machine/Calib.lean keep the relation of Laws/Keeps.lean. -/

set_option Elab.async false

namespace Sys2Proof.Machine

theorem keeps_modCal {F : List Kind} (hF : [Kind.slots] ⊆ F) {s₀ : State} (n : Nat) (f : SlotCal → SlotCal) {s : State} (hK : Keeps F s₀ s) :
    Keeps F s₀ (modCal n f s) := by
  unfold modCal
  with_reducible repeat' first | exact hK | assumption | apply keeps_modSlot (sub_of hF)

theorem keeps_jobWrite {F : List Kind} (hF : [Kind.regs, .slots] ⊆ F) {s₀ : State} (n : Nat) (c : SlotCast) (p : Nat) (w0 : Word) (act : State → State) {s : State} (hFact : ∀ y0, Keeps F s₀ y0 → Keeps F s₀ (act y0)) (hK : Keeps F s₀ s) :
    Keeps F s₀ (jobWrite n c p w0 act s) := by
  unfold jobWrite
  iterate 60 (first | done | with_reducible exact hK | with_reducible assumption | with_reducible apply keeps_setBit (sub_of hF) | with_reducible apply keeps_modCal (sub_of hF) | with_reducible apply hFact | split | dsimp only)

theorem keeps_takeJobs {F : List Kind} (hF : [Kind.regs, .pitchAct, .slots, .chans] ⊆ F) {s₀ : State} (n : Nat) (c : SlotCast) {s : State} (hK : Keeps F s₀ s) :
    Keeps F s₀ (takeJobs n c s) := by
  unfold takeJobs
  iterate 60 (first | done | with_reducible exact hK | with_reducible assumption | with_reducible apply keeps_forAll | with_reducible apply keeps_copyPitch (sub_of hF) | with_reducible apply keeps_modCal (sub_of hF) | with_reducible apply keeps_setPendW (sub_of hF) | with_reducible apply keeps_modChan (sub_of hF) | split | (intro _; intros) | dsimp only)

theorem keeps_fix16 {F : List Kind} (hF : [Kind.freeCount] ⊆ F) {s₀ : State} (sgn : Bool) (x : Option Rat) {s : State} (hK : Keeps F s₀ s) : Keeps F s₀ (fix16 sgn x s).2 := by
  unfold fix16
  cases x with
  | none => exact keeps_takeFree (sub_of hF) hK
  | some q => exact keeps_ite_snd (keeps_pair _ hK) (keeps_takeFree (sub_of hF) hK)

theorem keeps_showModel {F : List Kind} (hF : [Kind.regs, .freeCount] ⊆ F) {s₀ : State} (p : Nat) (e : ChanEnt) (eff : Option Rat) {s : State} (hK : Keeps F s₀ s) :
    Keeps F s₀ (showModel p e eff s) := by
  unfold showModel
  with_reducible repeat' first | exact hK | assumption | apply keeps_fix16 (sub_of hF) | apply keeps_setRegs (sub_of hF) | apply keeps_setFld (sub_of hF)

theorem keeps_formMaps {F : List Kind} (hF : [Kind.regs, .chans] ⊆ F) {s₀ : State} (n : Nat) (c : SlotCast) (i : Nat) (e : ChanEnt) (how : EasedMap → List Nat → EasedMap) {s : State} (hK : Keeps F s₀ s) :
    Keeps F s₀ (formMaps n c i e how s) := by
  unfold formMaps
  iterate 60 (first | done | with_reducible exact hK | with_reducible assumption | with_reducible apply keeps_modChan (sub_of hF) | with_reducible apply keeps_setBit (sub_of hF) | split | (intro _; intros) | dsimp only)

theorem keeps_forChans {F : List Kind} (hF : ([] : List Kind) ⊆ F) {s₀ : State} (c : SlotCast) (f : Nat → ChanEnt → State → State) {s : State} (hFf : ∀ y0 y1 y2, Keeps F s₀ y2 → Keeps F s₀ (f y0 y1 y2)) (hK : Keeps F s₀ s) :
    Keeps F s₀ (forChans c f s) := by
  unfold forChans
  iterate 60 (first | done | with_reducible exact hK | with_reducible assumption | with_reducible apply hFf | with_reducible apply keeps_foldl | with_reducible apply keeps_foldl_snd | split | (intro _; intros))

theorem keeps_ceilingMaps {F : List Kind} (hF : [Kind.regs, .chans] ⊆ F) {s₀ : State} (n : Nat) (c : SlotCast) {s : State} (hK : Keeps F s₀ s) :
    Keeps F s₀ (ceilingMaps n c s) := by
  unfold ceilingMaps
  with_reducible repeat' first | exact hK | assumption | apply keeps_forChans (sub_of hF) | apply keeps_formMaps (sub_of hF) | split | (intro _; intros)

theorem keeps_markCalibrated {F : List Kind} (hF : [Kind.regs, .chans] ⊆ F) {s₀ : State} (n : Nat) (c : SlotCast) {s : State} (hK : Keeps F s₀ s) :
    Keeps F s₀ (markCalibrated n c s) := by
  unfold markCalibrated
  iterate 60 (first | done | with_reducible exact hK | with_reducible assumption | with_reducible apply keeps_forChans (sub_of hF) | with_reducible apply keeps_modChan (sub_of hF) | with_reducible apply keeps_setBit (sub_of hF) | split | (intro _; intros) | dsimp only)

theorem keeps_startEsts {F : List Kind} (hF : [Kind.slots] ⊆ F) {s₀ : State} (n : Nat) {s : State} (hK : Keeps F s₀ s) :
    Keeps F s₀ (startEsts n s) := by
  unfold startEsts
  with_reducible repeat' first | exact hK | assumption | apply keeps_modCal (sub_of hF) | split

theorem keeps_takeRows {F : List Kind} (hF : [Kind.regs, .slots] ⊆ F) {s₀ : State} (n : Nat) (c : SlotCast) {s : State} (hK : Keeps F s₀ s) :
    Keeps F s₀ (takeRows n c s) := by
  unfold takeRows
  iterate 60 (first | done | with_reducible exact hK | with_reducible assumption | with_reducible apply keeps_modCal (sub_of hF) | with_reducible apply keeps_setBit (sub_of hF) | with_reducible apply keeps_incSat (sub_of hF) | with_reducible apply keeps_foldl | with_reducible apply keeps_foldl_snd | split | (intro _; intros) | dsimp only)

theorem keeps_senseRows {F : List Kind} (hF : [Kind.regs, .pitchAct, .dram, .out, .slots, .ports, .fr, .page, .heat, .loops] ⊆ F) {s₀ : State} (p : Nat) (n : Nat) (k : SensePkt) (c : SlotCast) (since : Option Nat) {s : State} (hK : Keeps F s₀ s) :
    Keeps F s₀ (senseRows p n k c since s) := by
  unfold senseRows
  iterate 60 (first | done | with_reducible exact hK | with_reducible assumption | with_reducible apply keeps_modCal (sub_of hF) | split | (intro _; intros) | dsimp only)

theorem keeps_senseLost {F : List Kind} (hF : [Kind.slots] ⊆ F) {s₀ : State} (n : Nat) (k : SensePkt) {s : State} (hK : Keeps F s₀ s) :
    Keeps F s₀ (senseLost n k s) := by
  unfold senseLost
  iterate 60 (first | done | with_reducible exact hK | with_reducible assumption | with_reducible apply keeps_modCal (sub_of hF) | split | (intro _; intros) | dsimp only)

theorem keeps_freeMtx {F : List Kind} (hF : [Kind.freeCount] ⊆ F) {s₀ : State} (x0 : Nat) {s : State} (hK : Keeps F s₀ s) :
    Keeps F s₀ (freeMtx x0 s).2 := by
  induction x0 generalizing s with
  | zero => exact hK
  | succ k ih =>
    unfold freeMtx
    with_reducible repeat' first | exact hK | assumption | apply ih | apply keeps_takeFree (sub_of hF)

theorem keeps_formMtx {F : List Kind} (hF : [Kind.regs, .freeCount, .slots] ⊆ F) {s₀ : State} (n : Nat) (c : SlotCast) {s : State} (hK : Keeps F s₀ s) :
    Keeps F s₀ (formMtx n c s) := by
  unfold formMtx
  iterate 60 (first | done | with_reducible exact hK | with_reducible assumption | with_reducible apply keeps_modCal (sub_of hF) | with_reducible apply keeps_setBit (sub_of hF) | with_reducible apply keeps_freeMtx (sub_of hF) | split | (intro _; intros) | dsimp only)

theorem keeps_showMtx {F : List Kind} (hF : [Kind.regs] ⊆ F) {s₀ : State} (n : Nat) {s : State} (hK : Keeps F s₀ s) :
    Keeps F s₀ (showMtx n s) := by
  unfold showMtx
  with_reducible repeat' first | exact hK | assumption | apply keeps_setRegs (sub_of hF)

theorem keeps_takeModel {F : List Kind} (hF : [Kind.regs, .freeCount, .chans] ⊆ F) {s₀ : State} (n : Nat) (c : SlotCast) (e : ChanEnt) {s : State} (hK : Keeps F s₀ s) :
    Keeps F s₀ (takeModel n c e s) := by
  unfold takeModel
  with_reducible repeat' first | exact hK | assumption | apply keeps_modChan (sub_of hF) | apply keeps_showModel (sub_of hF) | split

theorem keeps_formErr {F : List Kind} (hF : [Kind.regs, .out, .fr] ⊆ F) {s₀ : State} (n : Nat) (c : SlotCast) {s : State} (hK : Keeps F s₀ s) :
    Keeps F s₀ (formErr n c s) := by
  unfold formErr
  iterate 60 (first | done | with_reducible exact hK | with_reducible assumption | with_reducible apply keeps_setFld (sub_of hF) | with_reducible apply keeps_logEvent (sub_of hF) | with_reducible apply keeps_foldl | with_reducible apply keeps_foldl_snd | split | dsimp only)

theorem keeps_showWeight {F : List Kind} (hF : [Kind.regs] ⊆ F) {s₀ : State} (n : Nat) {s : State} (hK : Keeps F s₀ s) :
    Keeps F s₀ (showWeight n s) := by
  unfold showWeight
  with_reducible repeat' first | exact hK | assumption | apply keeps_setBit (sub_of hF) | split

theorem keeps_formTargets {F : List Kind} (hF : [Kind.regs, .freeCount, .slots, .chans] ⊆ F) {s₀ : State} (n : Nat) (c : SlotCast) {s : State} (hK : Keeps F s₀ s) :
    Keeps F s₀ (formTargets n c s) := by
  unfold formTargets
  iterate 60 (first | done | with_reducible exact hK | with_reducible assumption | with_reducible apply keeps_forChans (sub_of hF) | with_reducible apply keeps_modChan (sub_of hF) | with_reducible apply keeps_formMaps (sub_of hF) | with_reducible apply keeps_modCal (sub_of hF) | with_reducible apply keeps_formMtx (sub_of hF) | split | (intro _; intros))

theorem keeps_formation {F : List Kind} (hF : [Kind.regs, .out, .freeCount, .slots, .fr, .chans] ⊆ F) {s₀ : State} (n : Nat) (c : SlotCast) {s : State} (hK : Keeps F s₀ s) :
    Keeps F s₀ (formation n c s) := by
  unfold formation
  iterate 60 (first | done | with_reducible exact hK | with_reducible assumption | with_reducible apply keeps_setFld (sub_of hF) | with_reducible apply keeps_setBit (sub_of hF) | with_reducible apply keeps_modCal (sub_of hF) | with_reducible apply keeps_takeModel (sub_of hF) | with_reducible apply keeps_formTargets (sub_of hF) | with_reducible apply keeps_formErr (sub_of hF) | with_reducible apply keeps_foldl | with_reducible apply keeps_foldl_snd | split | (intro _; intros) | dsimp only)

theorem keeps_easeAll {F : List Kind} (hF : [Kind.regs, .slots, .chans] ⊆ F) {s₀ : State} (n : Nat) (c : SlotCast) {s : State} (hK : Keeps F s₀ s) :
    Keeps F s₀ (easeAll n c s) := by
  unfold easeAll
  iterate 60 (first | done | with_reducible exact hK | with_reducible assumption | with_reducible apply keeps_forChans (sub_of hF) | with_reducible apply keeps_modChan (sub_of hF) | with_reducible apply keeps_showMtx (sub_of hF) | with_reducible apply keeps_modCal (sub_of hF) | split | (intro _; intros))

theorem keeps_showEase {F : List Kind} (hF : [Kind.regs] ⊆ F) {s₀ : State} (n : Nat) (c : SlotCast) {s : State} (hK : Keeps F s₀ s) :
    Keeps F s₀ (showEase n c s) := by
  unfold showEase
  with_reducible repeat' first | exact hK | assumption | apply keeps_setFld (sub_of hF)

theorem keeps_showAssay {F : List Kind} (hF : [Kind.regs] ⊆ F) {s₀ : State} (n : Nat) (c : SlotCast) {s : State} (hK : Keeps F s₀ s) :
    Keeps F s₀ (showAssay n c s) := by
  unfold showAssay
  iterate 60 (first | done | with_reducible exact hK | with_reducible assumption | with_reducible apply keeps_setReg (sub_of hF) | with_reducible apply keeps_setFld (sub_of hF) | with_reducible apply keeps_foldl | with_reducible apply keeps_foldl_snd | split | (intro _; intros))

theorem keeps_factoryModel {F : List Kind} (hF : [Kind.regs, .freeCount, .chans] ⊆ F) {s₀ : State} (p : Nat) (e : ChanEnt) {s : State} (hK : Keeps F s₀ s) :
    Keeps F s₀ (factoryModel p e s) := by
  unfold factoryModel
  with_reducible repeat' first | exact hK | assumption | apply keeps_modChan (sub_of hF) | apply keeps_showModel (sub_of hF)

theorem keeps_imageModel {F : List Kind} (hF : [Kind.regs, .freeCount, .chans] ⊆ F) {s₀ : State} (p : Nat) (img : Option (List Word)) (e : ChanEnt) {s : State} (hK : Keeps F s₀ s) :
    Keeps F s₀ (imageModel p img e s) := by
  unfold imageModel
  iterate 60 (first | done | with_reducible exact hK | with_reducible assumption | with_reducible apply keeps_factoryModel (sub_of hF) | with_reducible apply keeps_modChan (sub_of hF) | with_reducible apply keeps_setRegs (sub_of hF) | with_reducible apply keeps_setFld (sub_of hF) | split)

theorem keeps_applyImage {F : List Kind} (hF : [Kind.regs, .freeCount, .slots, .chans] ⊆ F) {s₀ : State} (n : Nat) (c : SlotCast) (img : Option (List Word)) (atOnce : Bool) {s : State} (hK : Keeps F s₀ s) :
    Keeps F s₀ (applyImage n c img atOnce s) := by
  unfold applyImage
  extract_lets s1 how s2 m e s3 s4
  have hss1 : Keeps F s₀ s1 := by
    dsimp only [s1]
    iterate 40 (first | done | with_reducible exact hK | with_reducible assumption | with_reducible apply keeps_imageModel (sub_of hF) | with_reducible apply keeps_forChans (sub_of hF) | with_reducible apply keeps_formMaps (sub_of hF) | with_reducible apply keeps_modChan (sub_of hF) | with_reducible apply keeps_modCal (sub_of hF) | with_reducible apply keeps_formMtx (sub_of hF) | with_reducible apply keeps_showMtx (sub_of hF) | with_reducible apply keeps_startEsts (sub_of hF) | with_reducible apply keeps_installMaps (sub_of hF) | with_reducible apply keeps_foldl | with_reducible apply keeps_foldl_snd | split | (intro _; intros))
  clear_value s1
  have hss2 : Keeps F s₀ s2 := by
    dsimp only [s2]
    iterate 40 (first | done | with_reducible exact hK | with_reducible assumption | with_reducible apply keeps_imageModel (sub_of hF) | with_reducible apply keeps_forChans (sub_of hF) | with_reducible apply keeps_formMaps (sub_of hF) | with_reducible apply keeps_modChan (sub_of hF) | with_reducible apply keeps_modCal (sub_of hF) | with_reducible apply keeps_formMtx (sub_of hF) | with_reducible apply keeps_showMtx (sub_of hF) | with_reducible apply keeps_startEsts (sub_of hF) | with_reducible apply keeps_installMaps (sub_of hF) | with_reducible apply keeps_foldl | with_reducible apply keeps_foldl_snd | split | (intro _; intros))
  clear_value s2
  have hss3 : Keeps F s₀ s3 := by
    dsimp only [s3]
    iterate 40 (first | done | with_reducible exact hK | with_reducible assumption | with_reducible apply keeps_imageModel (sub_of hF) | with_reducible apply keeps_forChans (sub_of hF) | with_reducible apply keeps_formMaps (sub_of hF) | with_reducible apply keeps_modChan (sub_of hF) | with_reducible apply keeps_modCal (sub_of hF) | with_reducible apply keeps_formMtx (sub_of hF) | with_reducible apply keeps_showMtx (sub_of hF) | with_reducible apply keeps_startEsts (sub_of hF) | with_reducible apply keeps_installMaps (sub_of hF) | with_reducible apply keeps_foldl | with_reducible apply keeps_foldl_snd | split | (intro _; intros))
  clear_value s3
  have hss4 : Keeps F s₀ s4 := by
    dsimp only [s4]
    iterate 40 (first | done | with_reducible exact hK | with_reducible assumption | with_reducible apply keeps_imageModel (sub_of hF) | with_reducible apply keeps_forChans (sub_of hF) | with_reducible apply keeps_formMaps (sub_of hF) | with_reducible apply keeps_modChan (sub_of hF) | with_reducible apply keeps_modCal (sub_of hF) | with_reducible apply keeps_formMtx (sub_of hF) | with_reducible apply keeps_showMtx (sub_of hF) | with_reducible apply keeps_startEsts (sub_of hF) | with_reducible apply keeps_installMaps (sub_of hF) | with_reducible apply keeps_foldl | with_reducible apply keeps_foldl_snd | split)
  clear_value s4
  iterate 60 (first | done | with_reducible exact hK | with_reducible assumption | with_reducible apply keeps_imageModel (sub_of hF) | with_reducible apply keeps_forChans (sub_of hF) | with_reducible apply keeps_formMaps (sub_of hF) | with_reducible apply keeps_modChan (sub_of hF) | with_reducible apply keeps_modCal (sub_of hF) | with_reducible apply keeps_formMtx (sub_of hF) | with_reducible apply keeps_showMtx (sub_of hF) | with_reducible apply keeps_startEsts (sub_of hF) | with_reducible apply keeps_installMaps (sub_of hF) | with_reducible apply keeps_foldl | with_reducible apply keeps_foldl_snd | split)

theorem keeps_applyRestore {F : List Kind} (hF : [Kind.regs, .freeCount, .slots, .chans] ⊆ F) {s₀ : State} (n : Nat) (c : SlotCast) {s : State} (hK : Keeps F s₀ s) :
    Keeps F s₀ (applyRestore n c s) := by
  unfold applyRestore
  with_reducible repeat' first | exact hK | assumption | apply keeps_applyImage (sub_of hF) | apply keeps_modCal (sub_of hF) | split | dsimp only

theorem keeps_snapResult {F : List Kind} (hF : [Kind.regs] ⊆ F) {s₀ : State} (st : Status) {s : State} (hK : Keeps F s₀ s) :
    Keeps F s₀ (snapResult st s) := by
  unfold snapResult
  with_reducible repeat' first | exact hK | assumption | apply keeps_setFld (sub_of hF)

theorem keeps_snapCtrl {F : List Kind} (hF : [Kind.regs, .out, .freeCount, .slots, .chans] ⊆ F) {s₀ : State} (v : Word) {s : State} (hK : Keeps F s₀ s) :
    Keeps F s₀ (snapCtrl v s) := by
  unfold snapCtrl
  extract_lets n s1 s2 img st s3 s4
  have hss1 : Keeps F s₀ s1 := by
    dsimp only [s1]
    iterate 40 (first | done | with_reducible exact hK | with_reducible assumption | with_reducible apply keeps_setFld (sub_of hF) | with_reducible apply keeps_snapResult (sub_of hF) | with_reducible apply keeps_modCal (sub_of hF) | with_reducible apply keeps_setReg (sub_of hF) | with_reducible apply keeps_applyRestore (sub_of hF) | with_reducible apply keeps_raiseVec (sub_of hF) | split | (intro _; intros) | dsimp only)
  clear_value s1
  have hss2 : Keeps F s₀ s2 := by
    dsimp only [s2]
    iterate 40 (first | done | with_reducible exact hK | with_reducible assumption | with_reducible apply keeps_setFld (sub_of hF) | with_reducible apply keeps_snapResult (sub_of hF) | with_reducible apply keeps_modCal (sub_of hF) | with_reducible apply keeps_setReg (sub_of hF) | with_reducible apply keeps_applyRestore (sub_of hF) | with_reducible apply keeps_raiseVec (sub_of hF) | split | (intro _; intros) | dsimp only)
  clear_value s2
  have hss3 : Keeps F s₀ s3 := by
    dsimp only [s3]
    iterate 40 (first | done | with_reducible exact hK | with_reducible assumption | with_reducible apply keeps_setFld (sub_of hF) | with_reducible apply keeps_snapResult (sub_of hF) | with_reducible apply keeps_modCal (sub_of hF) | with_reducible apply keeps_setReg (sub_of hF) | with_reducible apply keeps_applyRestore (sub_of hF) | with_reducible apply keeps_raiseVec (sub_of hF) | split | (intro _; intros) | dsimp only)
  clear_value s3
  have hss4 : Keeps F s₀ s4 := by
    dsimp only [s4]
    iterate 40 (first | done | with_reducible exact hK | with_reducible assumption | with_reducible apply keeps_setFld (sub_of hF) | with_reducible apply keeps_snapResult (sub_of hF) | with_reducible apply keeps_modCal (sub_of hF) | with_reducible apply keeps_setReg (sub_of hF) | with_reducible apply keeps_applyRestore (sub_of hF) | with_reducible apply keeps_raiseVec (sub_of hF) | split | (intro _; intros) | dsimp only)
  clear_value s4
  iterate 60 (first | done | with_reducible exact hK | with_reducible assumption | with_reducible apply keeps_setFld (sub_of hF) | with_reducible apply keeps_snapResult (sub_of hF) | with_reducible apply keeps_modCal (sub_of hF) | with_reducible apply keeps_setReg (sub_of hF) | with_reducible apply keeps_applyRestore (sub_of hF) | with_reducible apply keeps_raiseVec (sub_of hF) | split | (intro _; intros) | dsimp only)

theorem keeps_takeSnap {F : List Kind} (hF : [Kind.regs, .out, .slots] ⊆ F) {s₀ : State} (n : Nat) (c : SlotCast) {s : State} (hK : Keeps F s₀ s) :
    Keeps F s₀ (takeSnap n c s) := by
  unfold takeSnap
  iterate 60 (first | done | with_reducible exact hK | with_reducible assumption | with_reducible apply keeps_setRegs (sub_of hF) | with_reducible apply keeps_modCal (sub_of hF) | with_reducible apply keeps_raiseVec (sub_of hF) | with_reducible apply keeps_snapResult (sub_of hF) | with_reducible apply keeps_setFld (sub_of hF) | split)

theorem keeps_snapWrite {F : List Kind} (hF : [Kind.regs] ⊆ F) {s₀ : State} (w : Nat) (v : Word) {s : State} (hK : Keeps F s₀ s) :
    Keeps F s₀ (snapWrite w v s) := by
  unfold snapWrite
  with_reducible repeat' first | exact hK | assumption | apply keeps_setReg (sub_of hF) | split

theorem keeps_showPages {F : List Kind} (hF : [Kind.regs] ⊆ F) {s₀ : State}  {s : State} (hK : Keeps F s₀ s) :
    Keeps F s₀ (showPages s) := by
  unfold showPages
  with_reducible repeat' first | exact hK | assumption | apply keeps_setReg (sub_of hF) | apply keeps_setFld (sub_of hF)

theorem keeps_tearPage {F : List Kind} (hF : [Kind.ports] ⊆ F) {s₀ : State}  {s : State} (hK : Keeps F s₀ s) :
    Keeps F s₀ (tearPage s) := by
  unfold tearPage
  iterate 60 (first | done | with_reducible exact hK | with_reducible assumption | with_reducible apply keeps_modPort (sub_of hF) | split | (intro _; intros) | dsimp only)

theorem keeps_endStore {F : List Kind} (hF : [Kind.regs, .out, .page] ⊆ F) {s₀ : State} (st : Status) {s : State} (hK : Keeps F s₀ s) :
    Keeps F s₀ (endStore st s) := by
  unfold endStore
  iterate 60 (first | done | with_reducible exact hK | with_reducible assumption | with_reducible apply keeps_raiseVec (sub_of hF) | with_reducible apply keeps_showPages (sub_of hF) | with_reducible apply keeps_setBit (sub_of hF) | with_reducible apply keeps_setFld (sub_of hF) | split | (intro _; intros) | dsimp only | with_reducible refine Keeps.page ?_ (sub_of hF) _)

theorem keeps_pageCtrl {F : List Kind} (hF : [Kind.regs, .out, .page] ⊆ F) {s₀ : State} (v : Word) {s : State} (hK : Keeps F s₀ s) :
    Keeps F s₀ (pageCtrl v s) := by
  unfold pageCtrl
  iterate 60 (first | done | with_reducible exact hK | with_reducible assumption | with_reducible apply keeps_showPages (sub_of hF) | with_reducible apply keeps_setFld (sub_of hF) | with_reducible apply keeps_endStore (sub_of hF) | with_reducible apply keeps_setBit (sub_of hF) | split | (intro _; intros) | dsimp only | with_reducible refine Keeps.page ?_ (sub_of hF) _)

theorem keeps_descRequest {F : List Kind} (hF : [Kind.out, .ports] ⊆ F) {s₀ : State} (p : Nat) (addr : Nat) (len : Nat) (data : Option (List Byte)) {s : State} (hK : Keeps F s₀ s) :
    Keeps F s₀ (descRequest p addr len data s) := by
  unfold descRequest
  with_reducible repeat' first | exact hK | assumption | apply keeps_modPort (sub_of hF) | apply keeps_sendPkt (sub_of hF) | split | dsimp only

theorem keeps_startStore {F : List Kind} (hF : [Kind.regs, .out, .ports, .page] ⊆ F) {s₀ : State} (n : Nat) (c : SlotCast) {s : State} (hK : Keeps F s₀ s) :
    Keeps F s₀ (startStore n c s) := by
  unfold startStore
  iterate 60 (first | done | with_reducible exact hK | with_reducible assumption | with_reducible apply keeps_descRequest (sub_of hF) | with_reducible apply keeps_setBit (sub_of hF) | split | (intro _; intros) | dsimp only | with_reducible refine Keeps.page ?_ (sub_of hF) _)

theorem keeps_storeWritten {F : List Kind} (hF : [Kind.out, .ports, .page] ⊆ F) {s₀ : State} (p : Nat) (ok : Bool) {s : State} (hK : Keeps F s₀ s) :
    Keeps F s₀ (storeWritten p ok s) := by
  unfold storeWritten
  iterate 60 (first | done | with_reducible exact hK | with_reducible assumption | with_reducible apply keeps_descRequest (sub_of hF) | with_reducible apply keeps_tearPage (sub_of hF) | split | (intro _; intros) | dsimp only | with_reducible refine Keeps.page ?_ (sub_of hF) _)

theorem keeps_storeRead {F : List Kind} (hF : [Kind.ports, .page] ⊆ F) {s₀ : State} (p : Nat) (addr : Nat) (ok : Bool) (data : List Byte) {s : State} (hK : Keeps F s₀ s) :
    Keeps F s₀ (storeRead p addr ok data s) := by
  unfold storeRead
  iterate 60 (first | done | with_reducible exact hK | with_reducible assumption | with_reducible apply keeps_modPort (sub_of hF) | split | (intro _; intros) | dsimp only | with_reducible refine Keeps.page ?_ (sub_of hF) _)

theorem keeps_storeLinkLost {F : List Kind} (hF : [Kind.regs, .out, .ports, .page] ⊆ F) {s₀ : State} (p : Nat) {s : State} (hK : Keeps F s₀ s) :
    Keeps F s₀ (storeLinkLost p s) := by
  unfold storeLinkLost
  iterate 60 (first | done | with_reducible exact hK | with_reducible assumption | with_reducible apply keeps_endStore (sub_of hF) | with_reducible apply keeps_tearPage (sub_of hF) | split | (intro _; intros) | dsimp only)

theorem keeps_calOff {F : List Kind} (hF : [Kind.regs, .slots] ⊆ F) {s₀ : State} (n : Nat) {s : State} (hK : Keeps F s₀ s) :
    Keeps F s₀ (calOff n s) := by
  unfold calOff
  iterate 60 (first | done | with_reducible exact hK | with_reducible assumption | with_reducible apply keeps_modCal (sub_of hF) | with_reducible apply keeps_setFld (sub_of hF) | split | (intro _; intros) | dsimp only)

theorem keeps_calBind {F : List Kind} (hF : [Kind.regs, .freeCount, .slots, .chans] ⊆ F) {s₀ : State} (n : Nat) (p : Nat) {s : State} (hK : Keeps F s₀ s) :
    Keeps F s₀ (calBind n p s) := by
  unfold calBind
  split
  · exact hK
  extract_lets back s1 s2 img s3 s' s4
  have h1 : Keeps F s₀ s1 := keeps_markCalibrated (sub_of hF) _ _ (keeps_takeCeilInputs (sub_of hF) _ hK)
  have h2 : Keeps F s₀ s2 := keeps_modCal (sub_of hF) _ _ h1
  clear_value s2
  have h3 : Keeps F s₀ s3 := by
    apply keeps_forChans (sub_of hF) _ _ _ h2
    intro _ _ _ h
    dsimp only
    split
    · exact h
    · exact keeps_modChan (sub_of hF) _ _ h
  clear_value s3
  have h4 : Keeps F s₀ s4 := by
    unfold s4
    split
    · have h' : Keeps F s₀ s' := keeps_ceilingMaps (sub_of hF) _ _ h3
      split
      · exact h'
      · exact keeps_startEsts (sub_of hF) _ h'
    · exact keeps_applyImage (sub_of hF) _ _ _ _ h3
  clear_value s4
  apply keeps_showPages (sub_of hF)
  apply keeps_setMaps (sub_of hF)
  apply keeps_showMtx (sub_of hF)
  split
  · exact keeps_calOff (sub_of hF) _ h4
  · exact h4

theorem keeps_regroupEsts {F : List Kind} (hF : [Kind.slots] ⊆ F) {s₀ : State} (n : Nat) {s : State} (hK : Keeps F s₀ s) :
    Keeps F s₀ (regroupEsts n s) := by
  unfold regroupEsts
  iterate 60 (first | done | with_reducible exact hK | with_reducible assumption | with_reducible apply keeps_startEsts (sub_of hF) | with_reducible apply keeps_modCal (sub_of hF) | split | (intro _; intros) | dsimp only)

theorem keeps_leaveCal {F : List Kind} (hF : [Kind.chans] ⊆ F) {s₀ : State} (e : ChanEnt) {s : State} (hK : Keeps F s₀ s) :
    Keeps F s₀ (leaveCal e s) := by
  unfold leaveCal
  iterate 60 (first | done | with_reducible exact hK | with_reducible assumption | with_reducible apply keeps_modChan (sub_of hF) | split | (intro _; intros) | dsimp only)

theorem keeps_joinCal {F : List Kind} (hF : [Kind.regs, .freeCount, .chans] ⊆ F) {s₀ : State} (n : Nat) (c : SlotCast) (i : Nat) (e : ChanEnt) {s : State} (hK : Keeps F s₀ s) :
    Keeps F s₀ (joinCal n c i e s) := by
  unfold joinCal
  iterate 60 (first | done | with_reducible exact hK | with_reducible assumption | with_reducible apply keeps_formMaps (sub_of hF) | with_reducible apply keeps_factoryModel (sub_of hF) | with_reducible apply keeps_modChan (sub_of hF) | split | (intro _; intros) | dsimp only)

theorem keeps_calRecast {F : List Kind} (hF : [Kind.regs, .freeCount, .slots, .chans] ⊆ F) {s₀ : State} (n : Nat) {s : State} (hK : Keeps F s₀ s) :
    Keeps F s₀ (calRecast n s) := by
  unfold calRecast
  iterate 60 (first | done | with_reducible exact hK | with_reducible assumption | with_reducible apply keeps_forChans (sub_of hF) | with_reducible apply keeps_leaveCal (sub_of hF) | with_reducible apply keeps_joinCal (sub_of hF) | with_reducible apply keeps_regroupEsts (sub_of hF) | with_reducible apply keeps_markCalibrated (sub_of hF) | split | (intro _; intros) | dsimp only)

theorem keeps_dropHeld {F : List Kind} (hF : [Kind.slots] ⊆ F) {s₀ : State} (n : Nat) {s : State} (hK : Keeps F s₀ s) :
    Keeps F s₀ (dropHeld n s) := by
  unfold dropHeld
  with_reducible repeat' first | exact hK | assumption | apply keeps_modCal (sub_of hF)

theorem keeps_calBoundary {F : List Kind} (hF : [Kind.regs, .pitchAct, .out, .freeCount, .slots, .ports, .fr, .chans, .page] ⊆ F) {s₀ : State} (n : Nat) (c : SlotCast) (ceil : Bool) {s : State} (hK : Keeps F s₀ s) :
    Keeps F s₀ (calBoundary n c ceil s) := by
  unfold calBoundary
  split
  · exact hK
  extract_lets s1 s2 k j paused s3 forced s4 due s5
  have hss1 : Keeps F s₀ s1 := by
    dsimp only [s1]
    iterate 40 (first | done | with_reducible exact hK | with_reducible assumption | with_reducible apply keeps_takeRows (sub_of hF) | with_reducible apply keeps_takeJobs (sub_of hF) | with_reducible apply keeps_installMaps (sub_of hF) | with_reducible apply keeps_ceilingMaps (sub_of hF) | with_reducible apply keeps_easeAll (sub_of hF) | with_reducible apply keeps_applyRestore (sub_of hF) | with_reducible apply keeps_formation (sub_of hF) | with_reducible apply keeps_startStore (sub_of hF) | with_reducible apply keeps_takeSnap (sub_of hF) | with_reducible apply keeps_showWeight (sub_of hF) | with_reducible apply keeps_raiseFrame (sub_of hF) | with_reducible apply keeps_showAssay (sub_of hF) | with_reducible apply keeps_showEase (sub_of hF) | split | (intro _; intros) | dsimp only)
  clear_value s1
  have hss2 : Keeps F s₀ s2 := by
    dsimp only [s2]
    iterate 40 (first | done | with_reducible exact hK | with_reducible assumption | with_reducible apply keeps_takeRows (sub_of hF) | with_reducible apply keeps_takeJobs (sub_of hF) | with_reducible apply keeps_installMaps (sub_of hF) | with_reducible apply keeps_ceilingMaps (sub_of hF) | with_reducible apply keeps_easeAll (sub_of hF) | with_reducible apply keeps_applyRestore (sub_of hF) | with_reducible apply keeps_formation (sub_of hF) | with_reducible apply keeps_startStore (sub_of hF) | with_reducible apply keeps_takeSnap (sub_of hF) | with_reducible apply keeps_showWeight (sub_of hF) | with_reducible apply keeps_raiseFrame (sub_of hF) | with_reducible apply keeps_showAssay (sub_of hF) | with_reducible apply keeps_showEase (sub_of hF) | split | (intro _; intros) | dsimp only)
  clear_value s2
  have hss3 : Keeps F s₀ s3 := by
    dsimp only [s3]
    iterate 40 (first | done | with_reducible exact hK | with_reducible assumption | with_reducible apply keeps_takeRows (sub_of hF) | with_reducible apply keeps_takeJobs (sub_of hF) | with_reducible apply keeps_installMaps (sub_of hF) | with_reducible apply keeps_ceilingMaps (sub_of hF) | with_reducible apply keeps_easeAll (sub_of hF) | with_reducible apply keeps_applyRestore (sub_of hF) | with_reducible apply keeps_formation (sub_of hF) | with_reducible apply keeps_startStore (sub_of hF) | with_reducible apply keeps_takeSnap (sub_of hF) | with_reducible apply keeps_showWeight (sub_of hF) | with_reducible apply keeps_raiseFrame (sub_of hF) | with_reducible apply keeps_showAssay (sub_of hF) | with_reducible apply keeps_showEase (sub_of hF) | split | (intro _; intros) | dsimp only)
  clear_value s3
  have hss4 : Keeps F s₀ s4 := by
    dsimp only [s4]
    iterate 40 (first | done | with_reducible exact hK | with_reducible assumption | with_reducible apply keeps_takeRows (sub_of hF) | with_reducible apply keeps_takeJobs (sub_of hF) | with_reducible apply keeps_installMaps (sub_of hF) | with_reducible apply keeps_ceilingMaps (sub_of hF) | with_reducible apply keeps_easeAll (sub_of hF) | with_reducible apply keeps_applyRestore (sub_of hF) | with_reducible apply keeps_formation (sub_of hF) | with_reducible apply keeps_startStore (sub_of hF) | with_reducible apply keeps_takeSnap (sub_of hF) | with_reducible apply keeps_showWeight (sub_of hF) | with_reducible apply keeps_raiseFrame (sub_of hF) | with_reducible apply keeps_showAssay (sub_of hF) | with_reducible apply keeps_showEase (sub_of hF) | split | (intro _; intros) | dsimp only)
  clear_value s4
  have hss5 : Keeps F s₀ s5 := by
    dsimp only [s5]
    iterate 40 (first | done | with_reducible exact hK | with_reducible assumption | with_reducible apply keeps_takeRows (sub_of hF) | with_reducible apply keeps_takeJobs (sub_of hF) | with_reducible apply keeps_installMaps (sub_of hF) | with_reducible apply keeps_ceilingMaps (sub_of hF) | with_reducible apply keeps_easeAll (sub_of hF) | with_reducible apply keeps_applyRestore (sub_of hF) | with_reducible apply keeps_formation (sub_of hF) | with_reducible apply keeps_startStore (sub_of hF) | with_reducible apply keeps_takeSnap (sub_of hF) | with_reducible apply keeps_showWeight (sub_of hF) | with_reducible apply keeps_raiseFrame (sub_of hF) | with_reducible apply keeps_showAssay (sub_of hF) | with_reducible apply keeps_showEase (sub_of hF) | split | (intro _; intros) | dsimp only)
  clear_value s5
  iterate 60 (first | done | with_reducible exact hK | with_reducible assumption | with_reducible apply keeps_takeRows (sub_of hF) | with_reducible apply keeps_takeJobs (sub_of hF) | with_reducible apply keeps_installMaps (sub_of hF) | with_reducible apply keeps_ceilingMaps (sub_of hF) | with_reducible apply keeps_easeAll (sub_of hF) | with_reducible apply keeps_applyRestore (sub_of hF) | with_reducible apply keeps_formation (sub_of hF) | with_reducible apply keeps_startStore (sub_of hF) | with_reducible apply keeps_takeSnap (sub_of hF) | with_reducible apply keeps_showWeight (sub_of hF) | with_reducible apply keeps_raiseFrame (sub_of hF) | with_reducible apply keeps_showAssay (sub_of hF) | with_reducible apply keeps_showEase (sub_of hF) | split | (intro _; intros) | dsimp only)

theorem keeps_calOpen {F : List Kind} (hF : [Kind.slots] ⊆ F) {s₀ : State} (n : Nat) {s : State} (hK : Keeps F s₀ s) :
    Keeps F s₀ (calOpen n s) := by
  unfold calOpen
  with_reducible repeat' first | exact hK | assumption | apply keeps_modCal (sub_of hF)

theorem keeps_caCtrl {F : List Kind} (hF : [Kind.regs, .slots] ⊆ F) {s₀ : State} (n : Nat) (v : Word) {s : State} (hK : Keeps F s₀ s) :
    Keeps F s₀ (caCtrl n v s) := by
  unfold caCtrl
  with_reducible repeat' first | exact hK | assumption | apply keeps_setBit (sub_of hF) | apply keeps_startEsts (sub_of hF) | split

end Sys2Proof.Machine
end

