-- ==== Sys2Proof/Laws/KeepsHeat.lean ====
section
/-! SUPPORT. The operations of Machine/Heat.lean keep the relation of Laws/Keeps.lean. -/

set_option Elab.async false

namespace Sys2Proof.Machine

theorem keeps_modHeat {F : List Kind} (hF : [Kind.heat] ⊆ F) {s₀ : State} (f : HeatState → HeatState) {s : State} (hK : Keeps F s₀ s) :
    Keeps F s₀ (modHeat f s) := by
  unfold modHeat
  iterate 60 (first | done | with_reducible exact hK | with_reducible assumption | split | (intro _; intros) | dsimp only | with_reducible refine Keeps.heat ?_ (sub_of hF) _)

theorem keeps_modEng {F : List Kind} (hF : [Kind.heat] ⊆ F) {s₀ : State} (p : Nat) (i : Nat) (f : EngSensor → EngSensor) {s : State} (hK : Keeps F s₀ s) :
    Keeps F s₀ (modEng p i f s) := by
  unfold modEng
  with_reducible repeat' first | exact hK | assumption | apply keeps_modHeat (sub_of hF)

theorem keeps_addSensor {F : List Kind} (hF : [Kind.heat] ⊆ F) {s₀ : State} (p : Nat) (i : Nat) (failed : Bool) (v : Int) {s : State} (hK : Keeps F s₀ s) :
    Keeps F s₀ (addSensor p i failed v s) := by
  unfold addSensor
  iterate 60 (first | done | with_reducible exact hK | with_reducible assumption | with_reducible apply keeps_modHeat (sub_of hF) | split | (intro _; intros) | dsimp only)

theorem keeps_senseTemp {F : List Kind} (hF : [Kind.heat] ⊆ F) {s₀ : State} (p : Nat) (i : Nat) (v : Int) {s : State} (hK : Keeps F s₀ s) :
    Keeps F s₀ (senseTemp p i v s) := by
  unfold senseTemp
  iterate 60 (first | done | with_reducible exact hK | with_reducible assumption | with_reducible apply keeps_modEng (sub_of hF) | with_reducible apply keeps_addSensor (sub_of hF) | split | (intro _; intros) | dsimp only)

theorem keeps_checkSensors {F : List Kind} (hF : [Kind.heat] ⊆ F) {s₀ : State}  {s : State} (hK : Keeps F s₀ s) :
    Keeps F s₀ (checkSensors s) := by
  unfold checkSensors
  with_reducible repeat' first | exact hK | assumption | apply keeps_modHeat (sub_of hF)

theorem keeps_moveJunction {F : List Kind} (hF : [Kind.regs, .freeCount, .heat] ⊆ F) {s₀ : State} (p : Nat) (e : ChanEnt) (t0 : Nat) (t1 : Nat) {s : State} (hK : Keeps F s₀ s) :
    Keeps F s₀ (moveJunction p e t0 t1 s) := by
  unfold moveJunction
  extract_lets pw s0 c s1 none_ f x rth cth k
  have hss0 : Keeps F s₀ s0 := by
    dsimp only [s0]
    iterate 40 (first | done | with_reducible exact hK | with_reducible assumption | with_reducible apply keeps_setReg (sub_of hF))
  clear_value s0
  have hss1 : Keeps F s₀ s1 := by
    dsimp only [s1]
    iterate 40 (first | done | with_reducible exact hK | with_reducible assumption | with_reducible apply keeps_setReg (sub_of hF) | with_reducible apply keeps_setBit (sub_of hF) | with_reducible apply keeps_takeFree (sub_of hF) | with_reducible apply keeps_setFld (sub_of hF) | with_reducible apply keeps_modHeat (sub_of hF) | split)
  clear_value s1
  have hsx2 : Keeps F s₀ x.2 := by
    dsimp only [x]
    iterate 40 (first | done | with_reducible exact hK | with_reducible assumption | with_reducible apply keeps_setReg (sub_of hF) | with_reducible apply keeps_setBit (sub_of hF) | with_reducible apply keeps_takeFree (sub_of hF) | with_reducible apply keeps_setFld (sub_of hF) | with_reducible apply keeps_modHeat (sub_of hF) | split)
  clear_value x
  iterate 60 (first | done | with_reducible exact hK | with_reducible assumption | with_reducible apply keeps_setReg (sub_of hF) | with_reducible apply keeps_setBit (sub_of hF) | with_reducible apply keeps_takeFree (sub_of hF) | with_reducible apply keeps_setFld (sub_of hF) | with_reducible apply keeps_modHeat (sub_of hF) | split)

theorem keeps_moveNodes {F : List Kind} (hF : [Kind.heat] ⊆ F) {s₀ : State} (dom : List Nat) {s : State} (hK : Keeps F s₀ s) :
    Keeps F s₀ (moveNodes dom s) := by
  unfold moveNodes
  iterate 60 (first | done | with_reducible exact hK | with_reducible assumption | with_reducible apply keeps_modHeat (sub_of hF) | split | (intro _; intros) | dsimp only)

theorem keeps_moveBoundary {F : List Kind} (hF : [Kind.heat] ⊆ F) {s₀ : State}  {s : State} (hK : Keeps F s₀ s) :
    Keeps F s₀ (moveBoundary s) := by
  unfold moveBoundary
  with_reducible repeat' first | exact hK | assumption | apply keeps_modHeat (sub_of hF) | split | dsimp only

theorem keeps_startHeat {F : List Kind} (hF : [Kind.heat] ⊆ F) {s₀ : State}  {s : State} (hK : Keeps F s₀ s) :
    Keeps F s₀ (startHeat s) := by
  unfold startHeat
  with_reducible repeat' first | exact hK | assumption | apply keeps_modHeat (sub_of hF) | split

theorem keeps_modLadder {F : List Kind} (hF : [Kind.heat] ⊆ F) {s₀ : State} (i : Nat) (f : Ladder → Ladder) {s : State} (hK : Keeps F s₀ s) :
    Keeps F s₀ (modLadder i f s) := by
  unfold modLadder
  with_reducible repeat' first | exact hK | assumption | apply keeps_modHeat (sub_of hF)

theorem keeps_showPin {F : List Kind} (hF : [Kind.regs] ⊆ F) {s₀ : State}  {s : State} (hK : Keeps F s₀ s) :
    Keeps F s₀ (showPin s) := by
  unfold showPin
  with_reducible repeat' first | exact hK | assumption | apply keeps_setFld (sub_of hF)

theorem keeps_countLadder {F : List Kind} (hF : [Kind.regs, .heat] ⊆ F) {s₀ : State} (i : Nat) (x : Int × Nat) {s : State} (hK : Keeps F s₀ s) :
    Keeps F s₀ (countLadder i x s) := by
  unfold countLadder
  with_reducible repeat' first | exact hK | assumption | apply keeps_setFld (sub_of hF) | apply keeps_modLadder (sub_of hF)

theorem keeps_countCrit {F : List Kind} (hF : [Kind.heat] ⊆ F) {s₀ : State} (i : Nat) (hot : Bool) {s : State} (hK : Keeps F s₀ s) :
    Keeps F s₀ (countCrit i hot s) := by
  unfold countCrit
  with_reducible repeat' first | exact hK | assumption | apply keeps_modHeat (sub_of hF)

theorem keeps_evalLadders {F : List Kind} (hF : [Kind.regs, .heat] ⊆ F) {s₀ : State}  {s : State} (hK : Keeps F s₀ s) :
    Keeps F s₀ (evalLadders s) := by
  unfold evalLadders
  iterate 60 (first | done | with_reducible exact hK | with_reducible assumption | with_reducible apply keeps_countLadder (sub_of hF) | with_reducible apply keeps_countCrit (sub_of hF) | with_reducible apply keeps_modHeat (sub_of hF) | with_reducible apply keeps_foldl | with_reducible apply keeps_foldl_snd | split | (intro _; intros))

theorem keeps_showHeat {F : List Kind} (hF : [Kind.regs] ⊆ F) {s₀ : State}  {s : State} (hK : Keeps F s₀ s) :
    Keeps F s₀ (showHeat s) := by
  unfold showHeat
  with_reducible repeat' first | exact hK | assumption | apply keeps_setRegs (sub_of hF) | apply keeps_setReg (sub_of hF)

theorem keeps_ledgerUpdate {F : List Kind} (hF : [Kind.regs, .out, .freeCount, .ports, .heat] ⊆ F) {s₀ : State} (i : LedgerIn) {s : State} (hK : Keeps F s₀ s) :
    Keeps F s₀ (ledgerUpdate i s) := by
  unfold ledgerUpdate
  iterate 60 (first | done | with_reducible exact hK | with_reducible assumption | with_reducible apply keeps_startHeat (sub_of hF) | with_reducible apply keeps_modHeat (sub_of hF) | with_reducible apply keeps_moveBoundary (sub_of hF) | with_reducible apply keeps_moveNodes (sub_of hF) | with_reducible apply keeps_moveJunction (sub_of hF) | with_reducible apply keeps_evalLadders (sub_of hF) | with_reducible apply keeps_checkSensors (sub_of hF) | with_reducible apply keeps_setRegs (sub_of hF) | with_reducible apply keeps_forAll | with_reducible apply keeps_pruneDrive (sub_of hF) | with_reducible apply keeps_noteState (sub_of hF) | with_reducible apply keeps_showPin (sub_of hF) | with_reducible apply keeps_showHeat (sub_of hF) | with_reducible apply keeps_foldl | with_reducible apply keeps_foldl_snd | split | (intro _; intros))

theorem keeps_sensorFailed {F : List Kind} (hF : [Kind.freeCount, .heat] ⊆ F) {s₀ : State} (p : Nat) (i : Nat) {s : State} (hK : Keeps F s₀ s) :
    Keeps F s₀ (sensorFailed p i s) := by
  unfold sensorFailed
  iterate 60 (first | done | with_reducible exact hK | with_reducible assumption | with_reducible apply keeps_modEng (sub_of hF) | with_reducible apply keeps_takeFree (sub_of hF) | with_reducible apply keeps_addSensor (sub_of hF) | split | (intro _; intros) | dsimp only)

theorem keeps_modCheck {F : List Kind} (hF : [Kind.heat] ⊆ F) {s₀ : State} (k : Nat) (f : SensorCheck → SensorCheck) {s : State} (hK : Keeps F s₀ s) :
    Keeps F s₀ (modCheck k f s) := by
  unfold modCheck
  with_reducible repeat' first | exact hK | assumption | apply keeps_modHeat (sub_of hF) | apply keeps_modEng (sub_of hF) | split

theorem keeps_sensorSuspect {F : List Kind} (hF : [Kind.regs, .out, .fr, .heat] ⊆ F) {s₀ : State} (k : Nat) {s : State} (hK : Keeps F s₀ s) :
    Keeps F s₀ (sensorSuspect k s) := by
  unfold sensorSuspect
  iterate 60 (first | done | with_reducible exact hK | with_reducible assumption | with_reducible apply keeps_setBit (sub_of hF) | with_reducible apply keeps_modCheck (sub_of hF) | with_reducible apply keeps_logEvent (sub_of hF) | with_reducible apply keeps_modLadder (sub_of hF) | with_reducible apply keeps_showPin (sub_of hF) | with_reducible apply keeps_showHeat (sub_of hF) | with_reducible apply keeps_raiseVec (sub_of hF) | split)

theorem keeps_sensorTrusted {F : List Kind} (hF : [Kind.regs, .heat] ⊆ F) {s₀ : State} (k : Nat) {s : State} (hK : Keeps F s₀ s) :
    Keeps F s₀ (sensorTrusted k s) := by
  unfold sensorTrusted
  with_reducible repeat' first | exact hK | assumption | apply keeps_showHeat (sub_of hF) | apply keeps_modCheck (sub_of hF) | split

theorem keeps_throttleStep {F : List Kind} (hF : [Kind.regs, .out, .slots, .fr, .heat] ⊆ F) {s₀ : State} (i : Nat) {s : State} (hK : Keeps F s₀ s) :
    Keeps F s₀ (throttleStep i s) := by
  unfold throttleStep
  iterate 60 (first | done | with_reducible exact hK | with_reducible assumption | with_reducible apply keeps_showPin (sub_of hF) | with_reducible apply keeps_raiseVec (sub_of hF) | with_reducible apply keeps_logEvent (sub_of hF) | with_reducible apply keeps_setBit (sub_of hF) | with_reducible apply keeps_setFld (sub_of hF) | with_reducible apply keeps_modLadder (sub_of hF) | with_reducible apply keeps_raiseFrame (sub_of hF) | split | (intro _; intros) | dsimp only)

theorem keeps_freezeEnd {F : List Kind} (hF : [Kind.regs, .heat] ⊆ F) {s₀ : State} (i : Nat) {s : State} (hK : Keeps F s₀ s) :
    Keeps F s₀ (freezeEnd i s) := by
  unfold freezeEnd
  iterate 60 (first | done | with_reducible exact hK | with_reducible assumption | with_reducible apply keeps_showPin (sub_of hF) | with_reducible apply keeps_setBit (sub_of hF) | with_reducible apply keeps_modLadder (sub_of hF) | split)

theorem keeps_markTrip {F : List Kind} (hF : [Kind.regs, .heat] ⊆ F) {s₀ : State} (i : Nat) {s : State} (hK : Keeps F s₀ s) :
    Keeps F s₀ (markTrip i s) := by
  unfold markTrip
  with_reducible repeat' first | exact hK | assumption | apply keeps_showPin (sub_of hF) | apply keeps_setBit (sub_of hF) | apply keeps_modHeat (sub_of hF)

theorem keeps_laserOvertemp {F : List Kind} (hF : [Kind.regs, .out, .slots, .ports, .fr, .heat] ⊆ F) {s₀ : State} (n : Nat) {s : State} (hK : Keeps F s₀ s) :
    Keeps F s₀ (laserOvertemp n s) := by
  unfold laserOvertemp
  iterate 60 (first | done | with_reducible exact hK | with_reducible assumption | with_reducible apply keeps_startGrace (sub_of hF) | with_reducible apply keeps_containSlot (sub_of hF) | with_reducible apply keeps_logEvent (sub_of hF) | with_reducible apply keeps_markTrip (sub_of hF) | split | (intro _; intros) | dsimp only)

theorem keeps_heatDepart {F : List Kind} (hF : [Kind.regs, .heat] ⊆ F) {s₀ : State} (n : Nat) {s : State} (hK : Keeps F s₀ s) :
    Keeps F s₀ (heatDepart n s) := by
  unfold heatDepart
  iterate 60 (first | done | with_reducible exact hK | with_reducible assumption | with_reducible apply keeps_forAll | with_reducible apply keeps_setReg (sub_of hF) | with_reducible apply keeps_showPin (sub_of hF) | with_reducible apply keeps_modHeat (sub_of hF) | split | (intro _; intros))

theorem keeps_dropLadder {F : List Kind} (hF : [Kind.regs, .heat] ⊆ F) {s₀ : State} (n : Nat) {s : State} (hK : Keeps F s₀ s) :
    Keeps F s₀ (dropLadder n s) := by
  unfold dropLadder
  iterate 60 (first | done | with_reducible exact hK | with_reducible assumption | with_reducible apply keeps_showPin (sub_of hF) | with_reducible apply keeps_modHeat (sub_of hF) | split | (intro _; intros) | dsimp only)

theorem keeps_heatWarm {F : List Kind} (hF : [Kind.heat] ⊆ F) {s₀ : State}  {s : State} (hK : Keeps F s₀ s) :
    Keeps F s₀ (heatWarm s) := by
  unfold heatWarm
  with_reducible repeat' first | exact hK | assumption | apply keeps_modHeat (sub_of hF)

end Sys2Proof.Machine
end

