-- ==== Sys2Proof/Laws/KeepsLink.lean ====
section
/-! SUPPORT. The operations of Machine/Link.lean keep the relation of Laws/Keeps.lean. -/

set_option Elab.async false

namespace Sys2Proof.Machine

theorem keeps_setLink {F : List Kind} (hF : [Kind.regs, .out] ⊆ F) {s₀ : State} (p : Nat) (st : Nat) {s : State} (hK : Keeps F s₀ s) :
    Keeps F s₀ (setLink p st s) := by
  unfold setLink
  with_reducible repeat' first | exact hK | assumption | apply keeps_raiseVec (sub_of hF) | apply keeps_setFld (sub_of hF) | split

theorem keeps_epFlag {F : List Kind} (hF : [Kind.regs] ⊆ F) {s₀ : State} (p : Nat) (i : Nat) {s : State} (hK : Keeps F s₀ s) :
    Keeps F s₀ (epFlag p i s) := by
  unfold epFlag
  iterate 60 (first | done | with_reducible exact hK | with_reducible assumption | with_reducible apply keeps_setBit (sub_of hF) | split | (intro _; intros) | dsimp only)

theorem keeps_showBound {F : List Kind} (hF : [Kind.regs] ⊆ F) {s₀ : State} (p : Nat) (b : Bool) {s : State} (hK : Keeps F s₀ s) :
    Keeps F s₀ (showBound p b s) := by
  unfold showBound
  with_reducible repeat' first | exact hK | assumption | apply keeps_forAll | apply keeps_setBit (sub_of hF) | split | (intro _; intros)

theorem keeps_depart {F : List Kind} (hF : [Kind.regs, .pitchAct, .dram, .out, .slots, .ports, .fr, .page, .heat, .loops] ⊆ F) {s₀ : State} (p : Nat) {s : State} (hK : Keeps F s₀ s) :
    Keeps F s₀ (depart p s) := by
  unfold depart
  iterate 60 (first | done | with_reducible exact hK | with_reducible assumption | with_reducible apply keeps_heatDepart (sub_of hF) | with_reducible apply keeps_enterIdle (sub_of hF) | with_reducible apply keeps_flushLines (sub_of hF) | with_reducible apply keeps_setParked (sub_of hF) | with_reducible apply keeps_showBound (sub_of hF) | with_reducible apply keeps_setBit (sub_of hF) | with_reducible apply keeps_storeLinkLost (sub_of hF) | with_reducible apply keeps_loopsDepart (sub_of hF) | with_reducible apply keeps_modPort (sub_of hF) | with_reducible apply keeps_startGrace (sub_of hF) | with_reducible apply keeps_showLoad (sub_of hF) | split | (intro _; intros) | dsimp only)

theorem keeps_stopTraffic {F : List Kind} (hF : [Kind.ports] ⊆ F) {s₀ : State} (p : Nat) {s : State} (hK : Keeps F s₀ s) :
    Keeps F s₀ (stopTraffic p s) := by
  unfold stopTraffic
  iterate 60 (first | done | with_reducible exact hK | with_reducible assumption | with_reducible apply keeps_modPort (sub_of hF) | split | (intro _; intros) | dsimp only)

theorem keeps_enterDetect {F : List Kind} (hF : [Kind.regs, .out, .ports] ⊆ F) {s₀ : State} (p : Nat) {s : State} (hK : Keeps F s₀ s) :
    Keeps F s₀ (enterDetect p s) := by
  unfold enterDetect
  iterate 60 (first | done | with_reducible exact hK | with_reducible assumption | with_reducible apply keeps_setLink (sub_of hF) | with_reducible apply keeps_setFld (sub_of hF) | with_reducible apply keeps_modPort (sub_of hF) | split | (intro _; intros) | dsimp only)

theorem keeps_declareLost {F : List Kind} (hF : [Kind.regs, .pitchAct, .dram, .out, .slots, .ports, .fr, .page, .heat, .loops] ⊆ F) {s₀ : State} (p : Nat) (cause : Nat) {s : State} (hK : Keeps F s₀ s) :
    Keeps F s₀ (declareLost p cause s) := by
  unfold declareLost
  extract_lets st s1 s2 s3 leaves s4 s5 s6
  have hss1 : Keeps F s₀ s1 := by
    dsimp only [s1]
    iterate 40 (first | done | with_reducible exact hK | with_reducible assumption | with_reducible apply keeps_epFlag (sub_of hF) | with_reducible apply keeps_incSat (sub_of hF) | with_reducible apply keeps_setFld (sub_of hF) | with_reducible apply keeps_logEvent (sub_of hF) | with_reducible apply keeps_setFault (sub_of hF) | with_reducible apply keeps_setLink (sub_of hF) | with_reducible apply keeps_lenDrop (sub_of hF) | with_reducible apply keeps_depart (sub_of hF) | with_reducible apply keeps_containSlot (sub_of hF) | with_reducible apply keeps_startGrace (sub_of hF) | with_reducible apply keeps_stopTraffic (sub_of hF) | with_reducible apply keeps_modPort (sub_of hF) | split | (intro _; intros) | dsimp only)
  clear_value s1
  have hss2 : Keeps F s₀ s2 := by
    dsimp only [s2]
    iterate 40 (first | done | with_reducible exact hK | with_reducible assumption | with_reducible apply keeps_epFlag (sub_of hF) | with_reducible apply keeps_incSat (sub_of hF) | with_reducible apply keeps_setFld (sub_of hF) | with_reducible apply keeps_logEvent (sub_of hF) | with_reducible apply keeps_setFault (sub_of hF) | with_reducible apply keeps_setLink (sub_of hF) | with_reducible apply keeps_lenDrop (sub_of hF) | with_reducible apply keeps_depart (sub_of hF) | with_reducible apply keeps_containSlot (sub_of hF) | with_reducible apply keeps_startGrace (sub_of hF) | with_reducible apply keeps_stopTraffic (sub_of hF) | with_reducible apply keeps_modPort (sub_of hF) | split | (intro _; intros) | dsimp only)
  clear_value s2
  have hss3 : Keeps F s₀ s3 := by
    dsimp only [s3]
    iterate 40 (first | done | with_reducible exact hK | with_reducible assumption | with_reducible apply keeps_epFlag (sub_of hF) | with_reducible apply keeps_incSat (sub_of hF) | with_reducible apply keeps_setFld (sub_of hF) | with_reducible apply keeps_logEvent (sub_of hF) | with_reducible apply keeps_setFault (sub_of hF) | with_reducible apply keeps_setLink (sub_of hF) | with_reducible apply keeps_lenDrop (sub_of hF) | with_reducible apply keeps_depart (sub_of hF) | with_reducible apply keeps_containSlot (sub_of hF) | with_reducible apply keeps_startGrace (sub_of hF) | with_reducible apply keeps_stopTraffic (sub_of hF) | with_reducible apply keeps_modPort (sub_of hF) | split | (intro _; intros) | dsimp only)
  clear_value s3
  have hss4 : Keeps F s₀ s4 := by
    dsimp only [s4]
    iterate 40 (first | done | with_reducible exact hK | with_reducible assumption | with_reducible apply keeps_epFlag (sub_of hF) | with_reducible apply keeps_incSat (sub_of hF) | with_reducible apply keeps_setFld (sub_of hF) | with_reducible apply keeps_logEvent (sub_of hF) | with_reducible apply keeps_setFault (sub_of hF) | with_reducible apply keeps_setLink (sub_of hF) | with_reducible apply keeps_lenDrop (sub_of hF) | with_reducible apply keeps_depart (sub_of hF) | with_reducible apply keeps_containSlot (sub_of hF) | with_reducible apply keeps_startGrace (sub_of hF) | with_reducible apply keeps_stopTraffic (sub_of hF) | with_reducible apply keeps_modPort (sub_of hF) | split | (intro _; intros) | dsimp only)
  clear_value s4
  have hss5 : Keeps F s₀ s5 := by
    dsimp only [s5]
    iterate 40 (first | done | with_reducible exact hK | with_reducible assumption | with_reducible apply keeps_epFlag (sub_of hF) | with_reducible apply keeps_incSat (sub_of hF) | with_reducible apply keeps_setFld (sub_of hF) | with_reducible apply keeps_logEvent (sub_of hF) | with_reducible apply keeps_setFault (sub_of hF) | with_reducible apply keeps_setLink (sub_of hF) | with_reducible apply keeps_lenDrop (sub_of hF) | with_reducible apply keeps_depart (sub_of hF) | with_reducible apply keeps_containSlot (sub_of hF) | with_reducible apply keeps_startGrace (sub_of hF) | with_reducible apply keeps_stopTraffic (sub_of hF) | with_reducible apply keeps_modPort (sub_of hF) | split | (intro _; intros) | dsimp only)
  clear_value s5
  have hss6 : Keeps F s₀ s6 := by
    dsimp only [s6]
    iterate 40 (first | done | with_reducible exact hK | with_reducible assumption | with_reducible apply keeps_epFlag (sub_of hF) | with_reducible apply keeps_incSat (sub_of hF) | with_reducible apply keeps_setFld (sub_of hF) | with_reducible apply keeps_logEvent (sub_of hF) | with_reducible apply keeps_setFault (sub_of hF) | with_reducible apply keeps_setLink (sub_of hF) | with_reducible apply keeps_lenDrop (sub_of hF) | with_reducible apply keeps_depart (sub_of hF) | with_reducible apply keeps_containSlot (sub_of hF) | with_reducible apply keeps_startGrace (sub_of hF) | with_reducible apply keeps_stopTraffic (sub_of hF) | with_reducible apply keeps_modPort (sub_of hF) | split | (intro _; intros) | dsimp only)
  clear_value s6
  iterate 60 (first | done | with_reducible exact hK | with_reducible assumption | with_reducible apply keeps_epFlag (sub_of hF) | with_reducible apply keeps_incSat (sub_of hF) | with_reducible apply keeps_setFld (sub_of hF) | with_reducible apply keeps_logEvent (sub_of hF) | with_reducible apply keeps_setFault (sub_of hF) | with_reducible apply keeps_setLink (sub_of hF) | with_reducible apply keeps_lenDrop (sub_of hF) | with_reducible apply keeps_depart (sub_of hF) | with_reducible apply keeps_containSlot (sub_of hF) | with_reducible apply keeps_startGrace (sub_of hF) | with_reducible apply keeps_stopTraffic (sub_of hF) | with_reducible apply keeps_modPort (sub_of hF) | split | (intro _; intros) | dsimp only)

theorem keeps_lose {F : List Kind} (hF : [Kind.regs, .pitchAct, .dram, .out, .slots, .ports, .fr, .page, .heat, .loops] ⊆ F) {s₀ : State} (p : Nat) (cause : Nat) {s : State} (hK : Keeps F s₀ s) :
    Keeps F s₀ (lose p cause s) := by
  unfold lose
  with_reducible repeat' first | exact hK | assumption | apply keeps_withDim (sub_of hF) | apply keeps_declareLost (sub_of hF)

theorem keeps_packetError {F : List Kind} (hF : [Kind.regs, .pitchAct, .dram, .out, .slots, .ports, .fr, .page, .heat, .loops] ⊆ F) {s₀ : State} (p : Nat) {s : State} (hK : Keeps F s₀ s) :
    Keeps F s₀ (packetError p s) := by
  unfold packetError
  iterate 60 (first | done | with_reducible exact hK | with_reducible assumption | with_reducible apply keeps_epFlag (sub_of hF) | with_reducible apply keeps_incSat (sub_of hF) | with_reducible apply keeps_modPort (sub_of hF) | with_reducible apply keeps_lose (sub_of hF) | split | (intro _; intros) | dsimp only)

theorem keeps_engineErrors {F : List Kind} (hF : [Kind.regs, .pitchAct, .dram, .out, .slots, .ports, .fr, .page, .heat, .loops] ⊆ F) {s₀ : State} (p : Nat) (k : Nat) {s : State} (hK : Keeps F s₀ s) :
    Keeps F s₀ (engineErrors p k s) := by
  unfold engineErrors
  iterate 60 (first | done | with_reducible exact hK | with_reducible assumption | with_reducible apply keeps_epFlag (sub_of hF) | with_reducible apply keeps_addSat (sub_of hF) | with_reducible apply keeps_modPort (sub_of hF) | with_reducible apply keeps_lose (sub_of hF) | with_reducible apply keeps_foldl | with_reducible apply keeps_foldl_snd | split | dsimp only)

theorem keeps_packetDiscard {F : List Kind} (hF : [Kind.regs, .pitchAct, .dram, .out, .slots, .ports, .fr, .page, .heat, .loops] ⊆ F) {s₀ : State} (p : Nat) (why : DiscardWhy) {s : State} (hK : Keeps F s₀ s) :
    Keeps F s₀ (packetDiscard p why s) := by
  unfold packetDiscard
  with_reducible repeat' first | exact hK | assumption | apply keeps_incSat (sub_of hF) | apply keeps_packetError (sub_of hF) | split

theorem keeps_putDesc {F : List Kind} (hF : [Kind.regs] ⊆ F) {s₀ : State} (p : Nat) (addr : Nat) (d : List Byte) {s : State} (hK : Keeps F s₀ s) :
    Keeps F s₀ (putDesc p addr d s) := by
  unfold putDesc
  with_reducible repeat' first | exact hK | assumption | apply keeps_setRegs (sub_of hF)

theorem keeps_identifyRead {F : List Kind} (hF : [Kind.out, .ports] ⊆ F) {s₀ : State} (p : Nat) {s : State} (hK : Keeps F s₀ s) :
    Keeps F s₀ (identifyRead p s).1 := by
  unfold identifyRead
  with_reducible repeat' first | exact hK | assumption | apply keeps_descRequest (sub_of hF) | apply keeps_modPort (sub_of hF) | apply keeps_ite_fst

theorem keeps_enterIdentify {F : List Kind} (hF : [Kind.regs, .out, .ports] ⊆ F) {s₀ : State} (p : Nat) {s : State} (hK : Keeps F s₀ s) :
    Keeps F s₀ (enterIdentify p s) := by
  unfold enterIdentify
  iterate 60 (first | done | with_reducible exact hK | with_reducible assumption | with_reducible apply keeps_setLink (sub_of hF) | with_reducible apply keeps_modPort (sub_of hF) | with_reducible apply keeps_identifyRead (sub_of hF) | with_reducible apply keeps_clearRegs (sub_of hF) | split | (intro _; intros) | dsimp only)

theorem keeps_tryBind {F : List Kind} (hF : [Kind.regs, .out, .ports, .fr] ⊆ F) {s₀ : State} (p : Nat) {s : State} (hK : Keeps F s₀ s) :
    Keeps F s₀ (tryBind p s) := by
  unfold tryBind
  iterate 60 (first | done | with_reducible exact hK | with_reducible assumption | with_reducible apply keeps_setFld (sub_of hF) | with_reducible apply keeps_setLink (sub_of hF) | with_reducible apply keeps_sendPkt (sub_of hF) | with_reducible apply keeps_logEvent (sub_of hF) | with_reducible apply keeps_epFlag (sub_of hF) | with_reducible apply keeps_modPort (sub_of hF) | split | dsimp only)

theorem keeps_identifyDone {F : List Kind} (hF : [Kind.regs, .out, .ports, .fr] ⊆ F) {s₀ : State} (p : Nat) {s : State} (hK : Keeps F s₀ s) :
    Keeps F s₀ (identifyDone p s) := by
  unfold identifyDone
  iterate 60 (first | done | with_reducible exact hK | with_reducible assumption | with_reducible apply keeps_setRegs (sub_of hF) | with_reducible apply keeps_showPages (sub_of hF) | with_reducible apply keeps_tryBind (sub_of hF) | with_reducible apply keeps_modPort (sub_of hF))

theorem keeps_identifyData {F : List Kind} (hF : [Kind.regs, .out, .ports, .fr] ⊆ F) {s₀ : State} (p : Nat) (addr : Nat) (len : Nat) (d : List Byte) {s : State} (hK : Keeps F s₀ s) :
    Keeps F s₀ (identifyData p addr len d s) := by
  unfold identifyData
  iterate 60 (first | done | with_reducible exact hK | with_reducible assumption | with_reducible apply keeps_modPort (sub_of hF) | with_reducible apply keeps_putDesc (sub_of hF) | with_reducible apply keeps_identifyRead (sub_of hF) | with_reducible apply keeps_identifyDone (sub_of hF) | split | dsimp only)

theorem keeps_readData {F : List Kind} (hF : [Kind.regs, .out, .ports, .fr, .page] ⊆ F) {s₀ : State} (p : Nat) (tag : Nat) (addr : Nat) (ok : Bool) (d : List Byte) {s : State} (hK : Keeps F s₀ s) :
    Keeps F s₀ (readData p tag addr ok d s) := by
  unfold readData
  iterate 60 (first | done | with_reducible exact hK | with_reducible assumption | with_reducible apply keeps_modPort (sub_of hF) | with_reducible apply keeps_identifyData (sub_of hF) | with_reducible apply keeps_storeRead (sub_of hF) | split)

theorem keeps_writeDone {F : List Kind} (hF : [Kind.out, .ports, .page] ⊆ F) {s₀ : State} (p : Nat) (tag : Nat) (ok : Bool) {s : State} (hK : Keeps F s₀ s) :
    Keeps F s₀ (writeDone p tag ok s) := by
  unfold writeDone
  with_reducible repeat' first | exact hK | assumption | apply keeps_storeWritten (sub_of hF) | apply keeps_modPort (sub_of hF) | split

theorem keeps_bindChans {F : List Kind} (hF : [Kind.regs] ⊆ F) {s₀ : State} (p : Nat) (c : SlotCast) {s : State} (hK : Keeps F s₀ s) :
    Keeps F s₀ (bindChans p c s) := by
  unfold bindChans
  iterate 60 (first | done | with_reducible exact hK | with_reducible assumption | with_reducible apply keeps_setReg (sub_of hF) | with_reducible apply keeps_setBit (sub_of hF) | with_reducible apply keeps_foldl | with_reducible apply keeps_foldl_snd | split | (intro _; intros))

theorem keeps_bindSlot {F : List Kind} (hF : [Kind.regs, .pitchAct, .dram, .out, .freeCount, .slots, .ports, .fr, .chans, .loops] ⊆ F) {s₀ : State} (n : Nat) (p : Nat) (c : SlotCast) {s : State} (hK : Keeps F s₀ s) :
    Keeps F s₀ (bindSlot n p c s) := by
  unfold bindSlot
  iterate 60 (first | done | with_reducible exact hK | with_reducible assumption | with_reducible apply keeps_modPort (sub_of hF) | with_reducible apply keeps_setFld (sub_of hF) | with_reducible apply keeps_setBit (sub_of hF) | with_reducible apply keeps_setLink (sub_of hF) | with_reducible apply keeps_calBind (sub_of hF) | with_reducible apply keeps_computeTraj (sub_of hF) | with_reducible apply keeps_revalidate (sub_of hF) | with_reducible apply keeps_showLoad (sub_of hF) | with_reducible apply keeps_bindChans (sub_of hF) | with_reducible apply keeps_setTarget (sub_of hF) | with_reducible apply keeps_modSlot (sub_of hF) | with_reducible apply keeps_lenTry (sub_of hF) | with_reducible apply keeps_loopsBind (sub_of hF) | with_reducible apply keeps_enterAcquire (sub_of hF) | with_reducible apply keeps_setParked (sub_of hF) | split | (intro _; intros) | dsimp only)

theorem keeps_bindAck {F : List Kind} (hF : [Kind.regs, .pitchAct, .dram, .out, .freeCount, .slots, .ports, .fr, .chans, .loops] ⊆ F) {s₀ : State} (p : Nat) (id : BitVec 16) {s : State} (hK : Keeps F s₀ s) :
    Keeps F s₀ (bindAck p id s) := by
  unfold bindAck
  with_reducible repeat' first | exact hK | assumption | apply keeps_bindSlot (sub_of hF) | split

theorem keeps_detectComplete {F : List Kind} (hF : [Kind.regs, .out, .ports] ⊆ F) {s₀ : State} (p : Nat) {s : State} (hK : Keeps F s₀ s) :
    Keeps F s₀ (detectComplete p s) := by
  unfold detectComplete
  iterate 60 (first | done | with_reducible exact hK | with_reducible assumption | with_reducible apply keeps_emit (sub_of hF) | with_reducible apply keeps_setLink (sub_of hF) | with_reducible apply keeps_setBit (sub_of hF) | with_reducible apply keeps_modPort (sub_of hF) | split | (intro _; intros) | dsimp only)

theorem keeps_startSeries {F : List Kind} (hF : [Kind.out, .ports] ⊆ F) {s₀ : State} (p : Nat) {s : State} (hK : Keeps F s₀ s) :
    Keeps F s₀ (startSeries p s) := by
  unfold startSeries
  iterate 60 (first | done | with_reducible exact hK | with_reducible assumption | with_reducible apply keeps_sendPkt (sub_of hF) | with_reducible apply keeps_modPort (sub_of hF) | split | (intro _; intros) | dsimp only)

theorem keeps_trainFlit {F : List Kind} (hF : [Kind.regs, .out, .ports] ⊆ F) {s₀ : State} (p : Nat) (step : Nat) (lanes : Nat) {s : State} (hK : Keeps F s₀ s) :
    Keeps F s₀ (trainFlit p step lanes s) := by
  unfold trainFlit
  iterate 60 (first | done | with_reducible exact hK | with_reducible assumption | with_reducible apply keeps_setFld (sub_of hF) | with_reducible apply keeps_startSeries (sub_of hF) | with_reducible apply keeps_emit (sub_of hF) | with_reducible apply keeps_modPort (sub_of hF) | split | (intro _; intros) | dsimp only)

theorem keeps_trainTimeout {F : List Kind} (hF : [Kind.regs, .out, .ports] ⊆ F) {s₀ : State} (p : Nat) {s : State} (hK : Keeps F s₀ s) :
    Keeps F s₀ (trainTimeout p s) := by
  unfold trainTimeout
  iterate 60 (first | done | with_reducible exact hK | with_reducible assumption | with_reducible apply keeps_epFlag (sub_of hF) | with_reducible apply keeps_incSat (sub_of hF) | with_reducible apply keeps_enterDetect (sub_of hF) | with_reducible apply keeps_modPort (sub_of hF) | with_reducible apply keeps_setBit (sub_of hF) | split | dsimp only)

theorem keeps_raiseHorizon {F : List Kind} (hF : [Kind.regs] ⊆ F) {s₀ : State} (p : Nat) {s : State} (hK : Keeps F s₀ s) :
    Keeps F s₀ (raiseHorizon p s) := by
  unfold raiseHorizon
  iterate 60 (first | done | with_reducible exact hK | with_reducible assumption | with_reducible apply keeps_setFld (sub_of hF) | split | (intro _; intros) | dsimp only)

theorem keeps_showLead {F : List Kind} (hF : [Kind.regs] ⊆ F) {s₀ : State} (p : Nat) {s : State} (hK : Keeps F s₀ s) :
    Keeps F s₀ (showLead p s) := by
  unfold showLead
  iterate 60 (first | done | with_reducible exact hK | with_reducible assumption | with_reducible apply keeps_raiseHorizon (sub_of hF) | with_reducible apply keeps_setFld (sub_of hF) | split | (intro _; intros) | dsimp only)

theorem keeps_timeSet {F : List Kind} (hF : [Kind.regs, .out, .ports] ⊆ F) {s₀ : State} (p : Nat) (d : Int) {s : State} (hK : Keeps F s₀ s) :
    Keeps F s₀ (timeSet p d s) := by
  unfold timeSet
  iterate 60 (first | done | with_reducible exact hK | with_reducible assumption | with_reducible apply keeps_sendPkt (sub_of hF) | with_reducible apply keeps_setFld (sub_of hF) | split | (intro _; intros) | dsimp only)

theorem keeps_timeEcho {F : List Kind} (hF : [Kind.regs, .pitchAct, .dram, .out, .slots, .ports, .fr, .page, .heat, .loops] ⊆ F) {s₀ : State} (p : Nat) (t1 : BitVec 64) (t2 : BitVec 64) (t3 : BitVec 64) (t4 : BitVec 64) {s : State} (hK : Keeps F s₀ s) :
    Keeps F s₀ (timeEcho p t1 t2 t3 t4 s) := by
  unfold timeEcho
  iterate 60 (first | done | with_reducible exact hK | with_reducible assumption | with_reducible apply keeps_modPort (sub_of hF) | with_reducible apply keeps_timeSet (sub_of hF) | with_reducible apply keeps_lose (sub_of hF) | with_reducible apply keeps_showLead (sub_of hF) | split | dsimp only)

theorem keeps_timeAck {F : List Kind} (hF : [Kind.regs, .out, .ports] ⊆ F) {s₀ : State} (p : Nat) (minLead : Nat) {s : State} (hK : Keeps F s₀ s) :
    Keeps F s₀ (timeAck p minLead s) := by
  unfold timeAck
  iterate 60 (first | done | with_reducible exact hK | with_reducible assumption | with_reducible apply keeps_enterIdentify (sub_of hF) | with_reducible apply keeps_showLead (sub_of hF) | with_reducible apply keeps_modPort (sub_of hF) | split | dsimp only)

theorem keeps_probeNow {F : List Kind} (hF : [Kind.out, .ports] ⊆ F) {s₀ : State} (p : Nat) {s : State} (hK : Keeps F s₀ s) :
    Keeps F s₀ (probeNow p s) := by
  unfold probeNow
  iterate 60 (first | done | with_reducible exact hK | with_reducible assumption | with_reducible apply keeps_startSeries (sub_of hF) | split | (intro _; intros) | dsimp only)

theorem keeps_retryBind {F : List Kind} (hF : [Kind.regs, .out, .ports, .fr] ⊆ F) {s₀ : State} (p : Nat) {s : State} (hK : Keeps F s₀ s) :
    Keeps F s₀ (retryBind p s) := by
  unfold retryBind
  with_reducible repeat' first | exact hK | assumption | apply keeps_tryBind (sub_of hF) | apply keeps_modPort (sub_of hF) | split

theorem keeps_endHold {F : List Kind} (hF : [Kind.regs, .ports] ⊆ F) {s₀ : State} (p : Nat) {s : State} (hK : Keeps F s₀ s) :
    Keeps F s₀ (endHold p s) := by
  unfold endHold
  with_reducible repeat' first | exact hK | assumption | apply keeps_setBit (sub_of hF) | apply keeps_modPort (sub_of hF) | split

theorem keeps_heartbeat {F : List Kind} (hF : [Kind.regs, .pitchAct, .dram, .out, .slots, .ports, .fr, .page, .heat, .loops] ⊆ F) {s₀ : State} (p : Nat) (state : Nat) (rxErr : Nat) {s : State} (hK : Keeps F s₀ s) :
    Keeps F s₀ (heartbeat p state rxErr s) := by
  unfold heartbeat
  iterate 60 (first | done | with_reducible exact hK | with_reducible assumption | with_reducible apply keeps_modPort (sub_of hF) | with_reducible apply keeps_lose (sub_of hF) | with_reducible apply keeps_engineErrors (sub_of hF) | split | (intro _; intros) | dsimp only)

theorem keeps_heartbeatMiss {F : List Kind} (hF : [Kind.regs, .pitchAct, .dram, .out, .slots, .ports, .fr, .page, .heat, .loops] ⊆ F) {s₀ : State} (p : Nat) {s : State} (hK : Keeps F s₀ s) :
    Keeps F s₀ (heartbeatMiss p s) := by
  unfold heartbeatMiss
  iterate 60 (first | done | with_reducible exact hK | with_reducible assumption | with_reducible apply keeps_incSat (sub_of hF) | with_reducible apply keeps_modPort (sub_of hF) | with_reducible apply keeps_lose (sub_of hF) | split | dsimp only)

theorem keeps_quiesce {F : List Kind} (hF : [Kind.regs, .pitchAct, .dram, .out, .slots, .ports, .fr, .page, .heat, .loops] ⊆ F) {s₀ : State} (p : Nat) (why : QuiesceWhy) (cause : Nat) {s : State} (hK : Keeps F s₀ s) :
    Keeps F s₀ (quiesce p why cause s) := by
  unfold quiesce
  extract_lets st s1 s2 s3
  have hss1 : Keeps F s₀ s1 := by
    dsimp only [s1]
    iterate 40 (first | done | with_reducible exact hK | with_reducible assumption | with_reducible apply keeps_lenDrop (sub_of hF) | with_reducible apply keeps_issueOff (sub_of hF) | with_reducible apply keeps_sendPkt (sub_of hF) | with_reducible apply keeps_modPort (sub_of hF) | with_reducible apply keeps_setLink (sub_of hF) | with_reducible apply keeps_storeLinkLost (sub_of hF) | with_reducible apply keeps_depart (sub_of hF) | split | (intro _; intros) | dsimp only)
  clear_value s1
  have hss2 : Keeps F s₀ s2 := by
    dsimp only [s2]
    iterate 40 (first | done | with_reducible exact hK | with_reducible assumption | with_reducible apply keeps_lenDrop (sub_of hF) | with_reducible apply keeps_issueOff (sub_of hF) | with_reducible apply keeps_sendPkt (sub_of hF) | with_reducible apply keeps_modPort (sub_of hF) | with_reducible apply keeps_setLink (sub_of hF) | with_reducible apply keeps_storeLinkLost (sub_of hF) | with_reducible apply keeps_depart (sub_of hF) | split | (intro _; intros) | dsimp only)
  clear_value s2
  have hss3 : Keeps F s₀ s3 := by
    dsimp only [s3]
    iterate 40 (first | done | with_reducible exact hK | with_reducible assumption | with_reducible apply keeps_lenDrop (sub_of hF) | with_reducible apply keeps_issueOff (sub_of hF) | with_reducible apply keeps_sendPkt (sub_of hF) | with_reducible apply keeps_modPort (sub_of hF) | with_reducible apply keeps_setLink (sub_of hF) | with_reducible apply keeps_storeLinkLost (sub_of hF) | with_reducible apply keeps_depart (sub_of hF) | split | (intro _; intros) | dsimp only)
  clear_value s3
  iterate 60 (first | done | with_reducible exact hK | with_reducible assumption | with_reducible apply keeps_lenDrop (sub_of hF) | with_reducible apply keeps_issueOff (sub_of hF) | with_reducible apply keeps_sendPkt (sub_of hF) | with_reducible apply keeps_modPort (sub_of hF) | with_reducible apply keeps_setLink (sub_of hF) | with_reducible apply keeps_storeLinkLost (sub_of hF) | with_reducible apply keeps_depart (sub_of hF) | split | (intro _; intros) | dsimp only)

theorem keeps_quiesced {F : List Kind} (hF : [Kind.regs, .out, .ports] ⊆ F) {s₀ : State} (p : Nat) {s : State} (hK : Keeps F s₀ s) :
    Keeps F s₀ (quiesced p s) := by
  unfold quiesced
  iterate 60 (first | done | with_reducible exact hK | with_reducible assumption | with_reducible apply keeps_setBit (sub_of hF) | with_reducible apply keeps_modPort (sub_of hF) | with_reducible apply keeps_quiesce (sub_of hF) | with_reducible apply keeps_showBound (sub_of hF) | with_reducible apply keeps_showLoad (sub_of hF) | with_reducible apply keeps_enterDetect (sub_of hF) | with_reducible apply keeps_enterIdentify (sub_of hF) | split | (intro _; intros) | dsimp only)

theorem keeps_epCtrl {F : List Kind} (hF : [Kind.regs, .pitchAct, .dram, .out, .slots, .ports, .fr, .page, .heat, .loops] ⊆ F) {s₀ : State} (p : Nat) (v : Word) {s : State} (hK : Keeps F s₀ s) :
    Keeps F s₀ (epCtrl p v s) := by
  unfold epCtrl
  iterate 60 (first | done | with_reducible exact hK | with_reducible assumption | with_reducible apply keeps_retryBind (sub_of hF) | with_reducible apply keeps_endHold (sub_of hF) | with_reducible apply keeps_probeNow (sub_of hF) | with_reducible apply keeps_withDim (sub_of hF) | with_reducible apply keeps_quiesce (sub_of hF) | split)

theorem keeps_engineLaserFault {F : List Kind} (hF : [Kind.regs, .pitchAct, .dram, .out, .slots, .ports, .fr, .page, .heat, .loops] ⊆ F) {s₀ : State} (p : Nat) (code : Nat) (chans : List Nat) {s : State} (hK : Keeps F s₀ s) :
    Keeps F s₀ (engineLaserFault p code chans s) := by
  unfold engineLaserFault
  with_reducible repeat' first | exact hK | assumption | apply keeps_laserFault (sub_of hF) | apply keeps_quiesce (sub_of hF) | split | dsimp only

theorem keeps_senseFault {F : List Kind} (hF : [Kind.regs, .pitchAct, .dram, .out, .slots, .ports, .fr, .page, .heat, .loops] ⊆ F) {s₀ : State} (p : Nat) (code : Nat) (m : BitVec 24) {s : State} (hK : Keeps F s₀ s) :
    Keeps F s₀ (senseFault p code m s) := by
  unfold senseFault
  iterate 60 (first | done | with_reducible exact hK | with_reducible assumption | with_reducible apply keeps_withDim (sub_of hF) | with_reducible apply keeps_engineLaserFault (sub_of hF) | split | (intro _; intros))

theorem keeps_senseTake {F : List Kind} (hF : [Kind.regs, .pitchAct, .dram, .out, .slots, .ports, .fr, .page, .heat, .loops] ⊆ F) {s₀ : State} (p : Nat) (k : SensePkt) {s : State} (hK : Keeps F s₀ s) :
    Keeps F s₀ (senseTake p k s) := by
  unfold senseTake
  extract_lets q overs since s1 s2 s3 s4 s5 s5' s6 s7
  have hss1 : Keeps F s₀ s1 := by
    dsimp only [s1]
    iterate 40 (first | done | with_reducible exact hK | with_reducible assumption | with_reducible apply keeps_modPort (sub_of hF) | with_reducible apply keeps_addSat (sub_of hF) | with_reducible apply keeps_epFlag (sub_of hF) | with_reducible apply keeps_senseTemp (sub_of hF) | with_reducible apply keeps_senseRows (sub_of hF) | with_reducible apply keeps_setReg (sub_of hF) | with_reducible apply keeps_forAll | with_reducible apply keeps_setBit (sub_of hF) | with_reducible apply keeps_senseFault (sub_of hF) | with_reducible apply keeps_loopsSense (sub_of hF) | with_reducible apply keeps_engineErrors (sub_of hF) | with_reducible apply keeps_foldl | with_reducible apply keeps_foldl_snd | split | (intro _; intros) | dsimp only)
  clear_value s1
  have hss2 : Keeps F s₀ s2 := by
    dsimp only [s2]
    iterate 40 (first | done | with_reducible exact hK | with_reducible assumption | with_reducible apply keeps_modPort (sub_of hF) | with_reducible apply keeps_addSat (sub_of hF) | with_reducible apply keeps_epFlag (sub_of hF) | with_reducible apply keeps_senseTemp (sub_of hF) | with_reducible apply keeps_senseRows (sub_of hF) | with_reducible apply keeps_setReg (sub_of hF) | with_reducible apply keeps_forAll | with_reducible apply keeps_setBit (sub_of hF) | with_reducible apply keeps_senseFault (sub_of hF) | with_reducible apply keeps_loopsSense (sub_of hF) | with_reducible apply keeps_engineErrors (sub_of hF) | with_reducible apply keeps_foldl | with_reducible apply keeps_foldl_snd | split | (intro _; intros) | dsimp only)
  clear_value s2
  have hss3 : Keeps F s₀ s3 := by
    dsimp only [s3]
    iterate 40 (first | done | with_reducible exact hK | with_reducible assumption | with_reducible apply keeps_modPort (sub_of hF) | with_reducible apply keeps_addSat (sub_of hF) | with_reducible apply keeps_epFlag (sub_of hF) | with_reducible apply keeps_senseTemp (sub_of hF) | with_reducible apply keeps_senseRows (sub_of hF) | with_reducible apply keeps_setReg (sub_of hF) | with_reducible apply keeps_forAll | with_reducible apply keeps_setBit (sub_of hF) | with_reducible apply keeps_senseFault (sub_of hF) | with_reducible apply keeps_loopsSense (sub_of hF) | with_reducible apply keeps_engineErrors (sub_of hF) | with_reducible apply keeps_foldl | with_reducible apply keeps_foldl_snd | split | (intro _; intros) | dsimp only)
  clear_value s3
  have hss4 : Keeps F s₀ s4 := by
    dsimp only [s4]
    iterate 40 (first | done | with_reducible exact hK | with_reducible assumption | with_reducible apply keeps_modPort (sub_of hF) | with_reducible apply keeps_addSat (sub_of hF) | with_reducible apply keeps_epFlag (sub_of hF) | with_reducible apply keeps_senseTemp (sub_of hF) | with_reducible apply keeps_senseRows (sub_of hF) | with_reducible apply keeps_setReg (sub_of hF) | with_reducible apply keeps_forAll | with_reducible apply keeps_setBit (sub_of hF) | with_reducible apply keeps_senseFault (sub_of hF) | with_reducible apply keeps_loopsSense (sub_of hF) | with_reducible apply keeps_engineErrors (sub_of hF) | with_reducible apply keeps_foldl | with_reducible apply keeps_foldl_snd | split | (intro _; intros) | dsimp only)
  clear_value s4
  have hss5 : Keeps F s₀ s5 := by
    dsimp only [s5]
    iterate 40 (first | done | with_reducible exact hK | with_reducible assumption | with_reducible apply keeps_modPort (sub_of hF) | with_reducible apply keeps_addSat (sub_of hF) | with_reducible apply keeps_epFlag (sub_of hF) | with_reducible apply keeps_senseTemp (sub_of hF) | with_reducible apply keeps_senseRows (sub_of hF) | with_reducible apply keeps_setReg (sub_of hF) | with_reducible apply keeps_forAll | with_reducible apply keeps_setBit (sub_of hF) | with_reducible apply keeps_senseFault (sub_of hF) | with_reducible apply keeps_loopsSense (sub_of hF) | with_reducible apply keeps_engineErrors (sub_of hF) | with_reducible apply keeps_foldl | with_reducible apply keeps_foldl_snd | split | (intro _; intros) | dsimp only)
  clear_value s5
  have hss5p : Keeps F s₀ s5' := by
    dsimp only [s5']
    iterate 40 (first | done | with_reducible exact hK | with_reducible assumption | with_reducible apply keeps_modPort (sub_of hF) | with_reducible apply keeps_addSat (sub_of hF) | with_reducible apply keeps_epFlag (sub_of hF) | with_reducible apply keeps_senseTemp (sub_of hF) | with_reducible apply keeps_senseRows (sub_of hF) | with_reducible apply keeps_setReg (sub_of hF) | with_reducible apply keeps_forAll | with_reducible apply keeps_setBit (sub_of hF) | with_reducible apply keeps_senseFault (sub_of hF) | with_reducible apply keeps_loopsSense (sub_of hF) | with_reducible apply keeps_engineErrors (sub_of hF) | with_reducible apply keeps_foldl | with_reducible apply keeps_foldl_snd | split | (intro _; intros) | dsimp only)
  clear_value s5'
  have hss6 : Keeps F s₀ s6 := by
    dsimp only [s6]
    iterate 40 (first | done | with_reducible exact hK | with_reducible assumption | with_reducible apply keeps_modPort (sub_of hF) | with_reducible apply keeps_addSat (sub_of hF) | with_reducible apply keeps_epFlag (sub_of hF) | with_reducible apply keeps_senseTemp (sub_of hF) | with_reducible apply keeps_senseRows (sub_of hF) | with_reducible apply keeps_setReg (sub_of hF) | with_reducible apply keeps_forAll | with_reducible apply keeps_setBit (sub_of hF) | with_reducible apply keeps_senseFault (sub_of hF) | with_reducible apply keeps_loopsSense (sub_of hF) | with_reducible apply keeps_engineErrors (sub_of hF) | with_reducible apply keeps_foldl | with_reducible apply keeps_foldl_snd | split | (intro _; intros) | dsimp only)
  clear_value s6
  have hss7 : Keeps F s₀ s7 := by
    dsimp only [s7]
    iterate 40 (first | done | with_reducible exact hK | with_reducible assumption | with_reducible apply keeps_modPort (sub_of hF) | with_reducible apply keeps_addSat (sub_of hF) | with_reducible apply keeps_epFlag (sub_of hF) | with_reducible apply keeps_senseTemp (sub_of hF) | with_reducible apply keeps_senseRows (sub_of hF) | with_reducible apply keeps_setReg (sub_of hF) | with_reducible apply keeps_forAll | with_reducible apply keeps_setBit (sub_of hF) | with_reducible apply keeps_senseFault (sub_of hF) | with_reducible apply keeps_loopsSense (sub_of hF) | with_reducible apply keeps_engineErrors (sub_of hF) | with_reducible apply keeps_foldl | with_reducible apply keeps_foldl_snd | split | (intro _; intros) | dsimp only)
  clear_value s7
  iterate 60 (first | done | with_reducible exact hK | with_reducible assumption | with_reducible apply keeps_modPort (sub_of hF) | with_reducible apply keeps_addSat (sub_of hF) | with_reducible apply keeps_epFlag (sub_of hF) | with_reducible apply keeps_senseTemp (sub_of hF) | with_reducible apply keeps_senseRows (sub_of hF) | with_reducible apply keeps_setReg (sub_of hF) | with_reducible apply keeps_forAll | with_reducible apply keeps_setBit (sub_of hF) | with_reducible apply keeps_senseFault (sub_of hF) | with_reducible apply keeps_loopsSense (sub_of hF) | with_reducible apply keeps_engineErrors (sub_of hF) | with_reducible apply keeps_foldl | with_reducible apply keeps_foldl_snd | split | (intro _; intros) | dsimp only)

theorem keeps_senseReject {F : List Kind} (hF : [Kind.regs, .pitchAct, .dram, .out, .slots, .ports, .fr, .page, .heat, .loops] ⊆ F) {s₀ : State} (p : Nat) (k : SensePkt) {s : State} (hK : Keeps F s₀ s) :
    Keeps F s₀ (senseReject p k s) := by
  unfold senseReject
  extract_lets s1 s2 s3
  have hss1 : Keeps F s₀ s1 := by
    dsimp only [s1]
    iterate 40 (first | done | with_reducible exact hK | with_reducible assumption | with_reducible apply keeps_epFlag (sub_of hF) | with_reducible apply keeps_incSat (sub_of hF) | with_reducible apply keeps_senseLost (sub_of hF) | with_reducible apply keeps_packetError (sub_of hF) | with_reducible apply keeps_senseFault (sub_of hF) | split | (intro _; intros) | dsimp only)
  clear_value s1
  have hss2 : Keeps F s₀ s2 := by
    dsimp only [s2]
    iterate 40 (first | done | with_reducible exact hK | with_reducible assumption | with_reducible apply keeps_epFlag (sub_of hF) | with_reducible apply keeps_incSat (sub_of hF) | with_reducible apply keeps_senseLost (sub_of hF) | with_reducible apply keeps_packetError (sub_of hF) | with_reducible apply keeps_senseFault (sub_of hF) | split | (intro _; intros) | dsimp only)
  clear_value s2
  have hss3 : Keeps F s₀ s3 := by
    dsimp only [s3]
    iterate 40 (first | done | with_reducible exact hK | with_reducible assumption | with_reducible apply keeps_epFlag (sub_of hF) | with_reducible apply keeps_incSat (sub_of hF) | with_reducible apply keeps_senseLost (sub_of hF) | with_reducible apply keeps_packetError (sub_of hF) | with_reducible apply keeps_senseFault (sub_of hF) | split | (intro _; intros) | dsimp only)
  clear_value s3
  iterate 60 (first | done | with_reducible exact hK | with_reducible assumption | with_reducible apply keeps_epFlag (sub_of hF) | with_reducible apply keeps_incSat (sub_of hF) | with_reducible apply keeps_senseLost (sub_of hF) | with_reducible apply keeps_packetError (sub_of hF) | with_reducible apply keeps_senseFault (sub_of hF) | split | (intro _; intros) | dsimp only)

theorem keeps_supplyOverv {F : List Kind} (hF : [Kind.regs, .pitchAct, .dram, .out, .slots, .ports, .fr, .page, .heat, .loops] ⊆ F) {s₀ : State} (n : Nat) (mv : Nat) {s : State} (hK : Keeps F s₀ s) :
    Keeps F s₀ (supplyOverv n mv s) := by
  unfold supplyOverv
  iterate 60 (first | done | with_reducible exact hK | with_reducible assumption | with_reducible apply keeps_withDim (sub_of hF) | with_reducible apply keeps_engineLaserFault (sub_of hF) | with_reducible apply keeps_modSlot (sub_of hF) | with_reducible apply keeps_setBit (sub_of hF) | split | (intro _; intros))

end Sys2Proof.Machine
end

