-- ==== Sys2Proof/Laws/KeepsSensor.lean ====
section
/-! SUPPORT. The operations of Machine/Sensor.lean keep the relation of Laws/Keeps.lean. -/

set_option Elab.async false

namespace Sys2Proof.Machine

theorem keeps_modObjs {F : List Kind} (hF : [Kind.sb] ⊆ F) {s₀ : State} (f : List ObjEnt → List ObjEnt) {s : State} (hK : Keeps F s₀ s) :
    Keeps F s₀ (modObjs f s) := by
  unfold modObjs
  iterate 60 (first | done | with_reducible exact hK | with_reducible assumption | split | (intro _; intros) | dsimp only | with_reducible refine Keeps.sb ?_ (sub_of hF) _)

theorem keeps_showObjs {F : List Kind} (hF : [Kind.regs] ⊆ F) {s₀ : State}  {s : State} (hK : Keeps F s₀ s) :
    Keeps F s₀ (showObjs s) := by
  unfold showObjs
  with_reducible repeat' first | exact hK | assumption | apply keeps_forAll | apply keeps_setFld (sub_of hF) | split | (intro _; intros)

theorem keeps_releaseMask {F : List Kind} (hF : [Kind.regs, .pitchAct] ⊆ F) {s₀ : State} (p : Nat) {s : State} (hK : Keeps F s₀ s) :
    Keeps F s₀ (releaseMask p s) := by
  unfold releaseMask
  with_reducible repeat' first | exact hK | assumption | apply keeps_setActW (sub_of hF) | apply keeps_setPendW (sub_of hF)

theorem keeps_syncPitches {F : List Kind} (hF : [Kind.regs, .sb] ⊆ F) {s₀ : State}  {s : State} (hK : Keeps F s₀ s) :
    Keeps F s₀ (syncPitches s) := by
  unfold syncPitches
  with_reducible repeat' first | exact hK | assumption | apply keeps_showObjs (sub_of hF) | apply keeps_modObjs (sub_of hF)

theorem keeps_fit16 {F : List Kind} (hF : [Kind.freeCount] ⊆ F) {s₀ : State} (x : Nat) {s : State} (hK : Keeps F s₀ s) :
    Keeps F s₀ (fit16 x s).2 := by
  unfold fit16
  with_reducible repeat' first | exact hK | assumption | apply keeps_takeFree (sub_of hF) | apply keeps_ite_snd

theorem keeps_maskWords {F : List Kind} (hF : [Kind.freeCount] ⊆ F) {s₀ : State} (n : Nat) (o : ObjEnt) {s : State} (hK : Keeps F s₀ s) :
    Keeps F s₀ (maskWords n o s).2 := by
  unfold maskWords
  with_reducible repeat' first | exact hK | assumption | apply keeps_fit16 (sub_of hF)

theorem keeps_writeMask {F : List Kind} (hF : [Kind.regs, .pitchAct, .freeCount] ⊆ F) {s₀ : State} (n : Nat) (p : Nat) (o : ObjEnt) {s : State} (hK : Keeps F s₀ s) :
    Keeps F s₀ (writeMask n p o s) := by
  unfold writeMask
  iterate 60 (first | done | with_reducible exact hK | with_reducible assumption | with_reducible apply keeps_maskWords (sub_of hF) | with_reducible apply keeps_forAll | with_reducible apply keeps_setActW (sub_of hF) | with_reducible apply keeps_setPendW (sub_of hF) | split | (intro _; intros))

theorem keeps_placeObj {F : List Kind} (hF : [Kind.regs, .pitchAct, .freeCount] ⊆ F) {s₀ : State} (n : Nat) (o : ObjEnt) {s : State} (hK : Keeps F s₀ s) : Keeps F s₀ (placeObj n o s).2 := by
  unfold placeObj
  split
  · exact hK
  · split
    · split
      · exact keeps_writeMask (sub_of hF) _ _ _ hK
      · split
        · exact keeps_incSat (sub_of hF) _ _ _ hK
        · exact keeps_ite_snd (keeps_incSat (sub_of hF) _ _ _ (keeps_setBit (sub_of hF) _ _ _ hK)) (keeps_writeMask (sub_of hF) _ _ _ hK)
    · split
      · exact keeps_releaseMask (sub_of hF) _ hK
      · exact hK

theorem keeps_updateObj {F : List Kind} (hF : [Kind.regs, .pitchAct, .freeCount, .sb] ⊆ F) {s₀ : State} (o : ObjEnt) {s : State} (hK : Keeps F s₀ s) :
    Keeps F s₀ (updateObj o s) := by
  unfold updateObj
  iterate 60 (first | done | with_reducible exact hK | with_reducible assumption | with_reducible apply keeps_placeObj (sub_of hF) | with_reducible apply keeps_modObjs (sub_of hF) | with_reducible apply keeps_foldl | with_reducible apply keeps_foldl_snd | split | (intro _; intros) | dsimp only)

theorem keeps_removeObj {F : List Kind} (hF : [Kind.regs, .pitchAct, .sb] ⊆ F) {s₀ : State} (src : Nat) (id : Nat) {s : State} (hK : Keeps F s₀ s) :
    Keeps F s₀ (removeObj src id s) := by
  unfold removeObj
  iterate 60 (first | done | with_reducible exact hK | with_reducible assumption | with_reducible apply keeps_modObjs (sub_of hF) | with_reducible apply keeps_forAll | with_reducible apply keeps_releaseMask (sub_of hF) | split)

theorem keeps_applyRecord {F : List Kind} (hF : [Kind.regs, .pitchAct, .freeCount, .sb] ⊆ F) {s₀ : State} (src : Nat) (t0 : BitVec 64) (r : List Byte) {s : State} (hK : Keeps F s₀ s) :
    Keeps F s₀ (applyRecord src t0 r s) := by
  unfold applyRecord
  iterate 60 (first | done | with_reducible exact hK | with_reducible assumption | with_reducible apply keeps_removeObj (sub_of hF) | with_reducible apply keeps_incSat (sub_of hF) | with_reducible apply keeps_updateObj (sub_of hF) | split | dsimp only)

theorem keeps_badList {F : List Kind} (hF : [Kind.regs] ⊆ F) {s₀ : State}  {s : State} (hK : Keeps F s₀ s) :
    Keeps F s₀ (badList s) := by
  unfold badList
  with_reducible repeat' first | exact hK | assumption | apply keeps_incSat (sub_of hF)

theorem keeps_acceptList {F : List Kind} (hF : [Kind.regs, .pitchAct, .freeCount, .sb] ⊆ F) {s₀ : State} (src : Nat) (b : List Byte) (tRef : BitVec 64) {s : State} (hK : Keeps F s₀ s) :
    Keeps F s₀ (acceptList src b tRef s).2 := by
  unfold acceptList
  extract_lets cnt seq fresh t0 recs sb s1 s2 named gone
  have h1 : Keeps F s₀ s1 := Keeps.sb hK (sub_of hF) _
  clear_value s1
  have h2 : Keeps F s₀ s2 := keeps_foldl _ _ (fun _ _ h => keeps_applyRecord (sub_of hF) _ _ _ h) h1
  clear_value s2
  exact keeps_ite_snd (keeps_badList (sub_of hF) hK) (keeps_showObjs (sub_of hF) (keeps_forAll _ _ (fun _ _ h => keeps_removeObj (sub_of hF) _ _ h) h2))

theorem keeps_ttlBoundary {F : List Kind} (hF : [Kind.regs, .pitchAct, .sb] ⊆ F) {s₀ : State} (n : Nat) {s : State} (hK : Keeps F s₀ s) :
    Keeps F s₀ (ttlBoundary n s) := by
  unfold ttlBoundary
  iterate 60 (first | done | with_reducible exact hK | with_reducible assumption | with_reducible apply keeps_modObjs (sub_of hF) | with_reducible apply keeps_releaseMask (sub_of hF) | with_reducible apply keeps_showObjs (sub_of hF) | with_reducible apply keeps_removeObj (sub_of hF) | with_reducible apply keeps_foldl | with_reducible apply keeps_foldl_snd | split | (intro _; intros) | dsimp only)

theorem keeps_objListWindow {F : List Kind} (hF : [Kind.regs, .pitchAct, .out, .freeCount, .sb] ⊆ F) {s₀ : State} (b : Nat) {s : State} (hK : Keeps F s₀ s) :
    Keeps F s₀ (objListWindow b s) := by
  unfold objListWindow
  iterate 60 (first | done | with_reducible exact hK | with_reducible assumption | with_reducible apply keeps_acceptList (sub_of hF) | with_reducible apply keeps_raiseVec (sub_of hF) | with_reducible apply keeps_handBack (sub_of hF) | split)

theorem keeps_setCan {F : List Kind} (hF : [Kind.sb] ⊆ F) {s₀ : State} (b : Nat) (a : Option CanAsm) {s : State} (hK : Keeps F s₀ s) :
    Keeps F s₀ (setCan b a s) := by
  unfold setCan
  iterate 60 (first | done | with_reducible exact hK | with_reducible assumption | split | (intro _; intros) | dsimp only | with_reducible refine Keeps.sb ?_ (sub_of hF) _)

theorem keeps_dropCan {F : List Kind} (hF : [Kind.regs, .sb] ⊆ F) {s₀ : State} (b : Nat) {s : State} (hK : Keeps F s₀ s) :
    Keeps F s₀ (dropCan b s) := by
  unfold dropCan
  with_reducible repeat' first | exact hK | assumption | apply keeps_badList (sub_of hF) | apply keeps_setCan (sub_of hF) | split

theorem keeps_stepCan {F : List Kind} (hF : [Kind.regs, .pitchAct, .freeCount, .sb] ⊆ F) {s₀ : State} (b : Nat) (a : CanAsm) {s : State} (hK : Keeps F s₀ s) :
    Keeps F s₀ (stepCan b a s) := by
  unfold stepCan
  iterate 60 (first | done | with_reducible exact hK | with_reducible assumption | with_reducible apply keeps_badList (sub_of hF) | with_reducible apply keeps_setCan (sub_of hF) | with_reducible apply keeps_acceptList (sub_of hF) | with_reducible apply keeps_incSat (sub_of hF) | split | dsimp only)

theorem keeps_canExpire {F : List Kind} (hF : [Kind.regs, .sb] ⊆ F) {s₀ : State} (b : Nat) (t : LinkTime) {s : State} (hK : Keeps F s₀ s) :
    Keeps F s₀ (canExpire b t s) := by
  unfold canExpire
  iterate 60 (first | done | with_reducible exact hK | with_reducible assumption | with_reducible apply keeps_dropCan (sub_of hF) | split | (intro _; intros) | dsimp only)

theorem keeps_canFrame {F : List Kind} (hF : [Kind.regs, .pitchAct, .freeCount, .sb] ⊆ F) {s₀ : State} (b : Nat) (xtd : Bool) (id : Nat) (d : List Byte) (t : LinkTime) {s : State} (hK : Keeps F s₀ s) :
    Keeps F s₀ (canFrame b xtd id d t s) := by
  unfold canFrame
  iterate 60 (first | done | with_reducible exact hK | with_reducible assumption | with_reducible apply keeps_canExpire (sub_of hF) | with_reducible apply keeps_stepCan (sub_of hF) | with_reducible apply keeps_dropCan (sub_of hF) | split | (intro _; intros) | dsimp only)

theorem keeps_setCamState {F : List Kind} (hF : [Kind.regs] ⊆ F) {s₀ : State} (c : Nat) (x : Nat) {s : State} (hK : Keeps F s₀ s) :
    Keeps F s₀ (setCamState c x s) := by
  unfold setCamState
  with_reducible repeat' first | exact hK | assumption | apply keeps_setFld (sub_of hF)

theorem keeps_writeRing {F : List Kind} (hF : [Kind.regs, .dram, .out] ⊆ F) {s₀ : State} (c : Nat) (q : CamState) (short : Bool) (nonconf : Bool) (tFe : LinkTime) {s : State} (hK : Keeps F s₀ s) :
    Keeps F s₀ (writeRing c q short nonconf tFe s) := by
  unfold writeRing
  iterate 60 (first | done | with_reducible exact hK | with_reducible assumption | with_reducible apply keeps_forAll | with_reducible apply keeps_handBack (sub_of hF) | with_reducible apply keeps_dramWrite (sub_of hF) | with_reducible apply keeps_windowErr (sub_of hF) | with_reducible apply keeps_raiseVec (sub_of hF) | split | (intro _; intros) | dsimp only)

theorem keeps_publishDirect {F : List Kind} (hF : [Kind.dram, .sb] ⊆ F) {s₀ : State} (c : Nat) (q : CamState) {s : State} (hK : Keeps F s₀ s) :
    Keeps F s₀ (publishDirect c q s) := by
  unfold publishDirect
  iterate 60 (first | done | with_reducible exact hK | with_reducible assumption | with_reducible apply keeps_forAll | with_reducible apply keeps_dramWrite (sub_of hF) | with_reducible apply keeps_modCam (sub_of hF) | split | (intro _; intros))

theorem keeps_endFrame {F : List Kind} (hF : [Kind.regs, .pitchAct, .dram, .out, .freeCount, .fr, .sb] ⊆ F) {s₀ : State} (c : Nat) (fe : Option (BitVec 16 × LinkTime)) {s : State} (hK : Keeps F s₀ s) :
    Keeps F s₀ (endFrame c fe s) := by
  unfold endFrame
  iterate 60 (first | done | with_reducible exact hK | with_reducible assumption | with_reducible apply keeps_writeRing (sub_of hF) | with_reducible apply keeps_publishDirect (sub_of hF) | with_reducible apply keeps_modCam (sub_of hF) | with_reducible apply keeps_incSat (sub_of hF) | with_reducible apply keeps_setCamState (sub_of hF) | with_reducible apply keeps_acceptList (sub_of hF) | with_reducible apply keeps_logEvent (sub_of hF) | split | dsimp only)

theorem keeps_csiFs {F : List Kind} (hF : [Kind.regs, .pitchAct, .dram, .out, .freeCount, .fr, .sb] ⊆ F) {s₀ : State} (c : Nat) (vc : BitVec 2) (num : BitVec 16) (t : LinkTime) {s : State} (hK : Keeps F s₀ s) :
    Keeps F s₀ (csiFs c vc num t s) := by
  unfold csiFs
  split
  · exact hK
  split
  · iterate 40 (first | done | with_reducible exact hK | with_reducible assumption | with_reducible apply keeps_incSat (sub_of hF) | with_reducible apply keeps_endFrame (sub_of hF) | with_reducible apply keeps_modCam (sub_of hF) | split | (intro _; intros) | dsimp only)
  extract_lets s1 q cfg f count slots b owned held buf s2 s3
  have hss1 : Keeps F s₀ s1 := by
    dsimp only [s1]
    iterate 40 (first | done | with_reducible exact hK | with_reducible assumption | with_reducible apply keeps_incSat (sub_of hF) | with_reducible apply keeps_endFrame (sub_of hF) | with_reducible apply keeps_modCam (sub_of hF) | split | (intro _; intros) | dsimp only)
  clear_value s1
  have hss2 : Keeps F s₀ s2 := by
    dsimp only [s2]
    iterate 40 (first | done | with_reducible exact hK | with_reducible assumption | with_reducible apply keeps_incSat (sub_of hF) | with_reducible apply keeps_endFrame (sub_of hF) | with_reducible apply keeps_modCam (sub_of hF) | split | (intro _; intros) | dsimp only)
  clear_value s2
  have hss3 : Keeps F s₀ s3 := by
    dsimp only [s3]
    iterate 40 (first | done | with_reducible exact hK | with_reducible assumption | with_reducible apply keeps_incSat (sub_of hF) | with_reducible apply keeps_endFrame (sub_of hF) | with_reducible apply keeps_modCam (sub_of hF) | split | (intro _; intros) | dsimp only)
  clear_value s3
  iterate 60 (first | done | with_reducible exact hK | with_reducible assumption | with_reducible apply keeps_incSat (sub_of hF) | with_reducible apply keeps_endFrame (sub_of hF) | with_reducible apply keeps_modCam (sub_of hF) | split | (intro _; intros) | dsimp only)

theorem keeps_csiLong {F : List Kind} (hF : [Kind.regs, .sb] ⊆ F) {s₀ : State} (c : Nat) (vc : BitVec 2) (dt : Nat) (crcOk : Bool) (eccFix : Bool) (d : List Byte) {s : State} (hK : Keeps F s₀ s) :
    Keeps F s₀ (csiLong c vc dt crcOk eccFix d s) := by
  unfold csiLong
  iterate 60 (first | done | with_reducible exact hK | with_reducible assumption | with_reducible apply keeps_incSat (sub_of hF) | with_reducible apply keeps_modCam (sub_of hF) | split | (intro _; intros) | dsimp only)

theorem keeps_csiFe {F : List Kind} (hF : [Kind.regs, .pitchAct, .dram, .out, .freeCount, .fr, .sb] ⊆ F) {s₀ : State} (c : Nat) (vc : BitVec 2) (num : BitVec 16) (t : LinkTime) {s : State} (hK : Keeps F s₀ s) :
    Keeps F s₀ (csiFe c vc num t s) := by
  unfold csiFe
  iterate 60 (first | done | with_reducible exact hK | with_reducible assumption | with_reducible apply keeps_incSat (sub_of hF) | with_reducible apply keeps_endFrame (sub_of hF) | split | (intro _; intros) | dsimp only)

theorem keeps_camWait {F : List Kind} (hF : [Kind.regs, .sb] ⊆ F) {s₀ : State} (c : Nat) {s : State} (hK : Keeps F s₀ s) :
    Keeps F s₀ (camWait c s) := by
  unfold camWait
  with_reducible repeat' first | exact hK | assumption | apply keeps_setCamState (sub_of hF) | apply keeps_modCam (sub_of hF)

theorem keeps_cameraLost {F : List Kind} (hF : [Kind.regs, .pitchAct, .dram, .out, .freeCount, .fr, .sb] ⊆ F) {s₀ : State} (c : Nat) {s : State} (hK : Keeps F s₀ s) :
    Keeps F s₀ (cameraLost c s) := by
  unfold cameraLost
  iterate 60 (first | done | with_reducible exact hK | with_reducible assumption | with_reducible apply keeps_camWait (sub_of hF) | with_reducible apply keeps_raiseVec (sub_of hF) | with_reducible apply keeps_startGrace (sub_of hF) | with_reducible apply keeps_logEvent (sub_of hF) | with_reducible apply keeps_endFrame (sub_of hF) | split | (intro _; intros) | dsimp only)

theorem keeps_camResult {F : List Kind} (hF : [Kind.regs] ⊆ F) {s₀ : State} (c : Nat) (st : Status) {s : State} (hK : Keeps F s₀ s) :
    Keeps F s₀ (camResult c st s) := by
  unfold camResult
  with_reducible repeat' first | exact hK | assumption | apply keeps_setFld (sub_of hF)

theorem keeps_camCfg {F : List Kind} (hF : [Kind.regs, .pitchAct, .dram, .out, .freeCount, .fr, .sb] ⊆ F) {s₀ : State} (c : Nat) (v : Word) {s : State} (hK : Keeps F s₀ s) :
    Keeps F s₀ (camCfg c v s) := by
  unfold camCfg
  iterate 60 (first | done | with_reducible exact hK | with_reducible assumption | with_reducible apply keeps_camResult (sub_of hF) | with_reducible apply keeps_setReg (sub_of hF) | with_reducible apply keeps_camWait (sub_of hF) | with_reducible apply keeps_setCamState (sub_of hF) | with_reducible apply keeps_modCam (sub_of hF) | with_reducible apply keeps_endFrame (sub_of hF) | split | (intro _; intros) | dsimp only)

theorem keeps_camDirect {F : List Kind} (hF : [Kind.regs] ⊆ F) {s₀ : State} (c : Nat) (v : Word) {s : State} (hK : Keeps F s₀ s) :
    Keeps F s₀ (camDirect c v s) := by
  unfold camDirect
  with_reducible repeat' first | exact hK | assumption | apply keeps_camResult (sub_of hF) | apply keeps_setReg (sub_of hF) | split

theorem keeps_takeBuffers {F : List Kind} (hF : [Kind.slots] ⊆ F) {s₀ : State} (n : Nat) (c : SlotCast) {s : State} (hK : Keeps F s₀ s) :
    Keeps F s₀ (takeBuffers n c s) := by
  unfold takeBuffers
  iterate 60 (first | done | with_reducible exact hK | with_reducible assumption | with_reducible apply keeps_forAll | with_reducible apply keeps_modSlot (sub_of hF) | split | (intro _; intros) | dsimp only)

theorem keeps_deliverAngle {F : List Kind} (hF : [Kind.regs, .sb] ⊆ F) {s₀ : State} (a : Int) (t : LinkTime) {s : State} (hK : Keeps F s₀ s) :
    Keeps F s₀ (deliverAngle a t s) := by
  unfold deliverAngle
  iterate 60 (first | done | with_reducible exact hK | with_reducible assumption | with_reducible apply keeps_setReg (sub_of hF) | split | (intro _; intros) | dsimp only | with_reducible refine Keeps.sb ?_ (sub_of hF) _)

theorem keeps_imuBytes {F : List Kind} (hF : [Kind.freeCount] ⊆ F) {s₀ : State} (need : Nat) (d : List Byte) {s : State} (hK : Keeps F s₀ s) :
    Keeps F s₀ (imuBytes need d s).2 := by
  unfold imuBytes
  with_reducible repeat' first | exact hK | assumption | apply keeps_freeBytes (sub_of hF) | apply keeps_ite_snd

theorem keeps_imuTheta {F : List Kind} (hF : [Kind.freeCount] ⊆ F) {s₀ : State} (x : Int) (z : Int) {s : State} (hK : Keeps F s₀ s) :
    Keeps F s₀ (imuTheta x z s).2 := by
  unfold imuTheta
  with_reducible repeat' first | exact hK | assumption | apply keeps_takeFree (sub_of hF) | apply keeps_ite_snd

theorem keeps_imuTake {F : List Kind} (hF : [Kind.regs, .out, .freeCount, .fr, .sb] ⊆ F) {s₀ : State} (data : List Byte) (t : LinkTime) {s : State} (hK : Keeps F s₀ s) :
    Keeps F s₀ (imuTake data t s) := by
  unfold imuTake
  iterate 60 (first | done | with_reducible exact hK | with_reducible assumption | with_reducible apply keeps_imuBytes (sub_of hF) | with_reducible apply keeps_incSat (sub_of hF) | with_reducible apply keeps_raiseVec (sub_of hF) | with_reducible apply keeps_logEvent (sub_of hF) | with_reducible apply keeps_imuTheta (sub_of hF) | with_reducible apply keeps_deliverAngle (sub_of hF) | split | (intro _; intros) | dsimp only | with_reducible refine Keeps.sb ?_ (sub_of hF) _)

theorem keeps_imuTransaction {F : List Kind} (hF : [Kind.regs, .out, .freeCount, .fr, .sb] ⊆ F) {s₀ : State} (start : LinkTime) (data : List Byte) (t : LinkTime) {s : State} (hK : Keeps F s₀ s) :
    Keeps F s₀ (imuTransaction start data t s) := by
  unfold imuTransaction
  iterate 60 (first | done | with_reducible exact hK | with_reducible assumption | with_reducible apply keeps_incSat (sub_of hF) | with_reducible apply keeps_imuTake (sub_of hF) | with_reducible apply keeps_emit (sub_of hF) | split | (intro _; intros) | dsimp only | with_reducible refine Keeps.sb ?_ (sub_of hF) _)

theorem keeps_imuHost {F : List Kind} (hF : [Kind.regs, .sb] ⊆ F) {s₀ : State} (v : Word) {s : State} (hK : Keeps F s₀ s) :
    Keeps F s₀ (imuHost v s) := by
  unfold imuHost
  with_reducible repeat' first | exact hK | assumption | apply keeps_setReg (sub_of hF) | apply keeps_deliverAngle (sub_of hF) | split

theorem keeps_stopBridge {F : List Kind} (hF : [Kind.regs, .pitchAct, .sb] ⊆ F) {s₀ : State}  {s : State} (hK : Keeps F s₀ s) :
    Keeps F s₀ (stopBridge s) := by
  unfold stopBridge
  iterate 60 (first | done | with_reducible exact hK | with_reducible assumption | with_reducible apply keeps_forAll | with_reducible apply keeps_releaseMask (sub_of hF) | with_reducible apply keeps_showObjs (sub_of hF) | with_reducible apply keeps_setCamState (sub_of hF) | split | (intro _; intros) | dsimp only | with_reducible refine Keeps.sb ?_ (sub_of hF) _)

end Sys2Proof.Machine
end

