-- ==== Sys2Proof/Laws/KeepsBuild.lean ====
section
/-! SUPPORT. The operations of Machine/Build.lean keep the relation of Laws/Keeps.lean. -/

set_option Elab.async false

namespace Sys2Proof.Machine

theorem keeps_syncRow {F : List Kind} (hF : [Kind.regs] ⊆ F) {s₀ : State} (was : Bool) (is : Bool) (d : RegDef) (i : Nat) {s : State} (hK : Keeps F s₀ s) :
    Keeps F s₀ (syncRow was is d i s) := by
  unfold syncRow
  with_reducible repeat' first | exact hK | assumption | apply keeps_setRegs (sub_of hF) | split

theorem keeps_keepStep {F : List Kind} (hF : [Kind.regs] ⊆ F) {s₀ : State} (n : Nat) (before : State) {s : State} (hK : Keeps F s₀ s) :
    Keeps F s₀ (keepStep n before s) := by
  unfold keepStep
  with_reducible repeat' first | exact hK | assumption | apply keeps_setFld (sub_of hF)

theorem keeps_syncSlotRegs {F : List Kind} (hF : [Kind.regs] ⊆ F) {s₀ : State} (n : Nat) (before : State) {s : State} (hK : Keeps F s₀ s) :
    Keeps F s₀ (syncSlotRegs n before s) := by
  unfold syncSlotRegs
  iterate 60 (first | done | with_reducible exact hK | with_reducible assumption | with_reducible apply keeps_keepStep (sub_of hF) | with_reducible apply keeps_syncRow (sub_of hF) | with_reducible apply keeps_foldl | with_reducible apply keeps_foldl_snd | split | (intro _; intros))

theorem keeps_syncChanRegs {F : List Kind} (hF : [Kind.regs] ⊆ F) {s₀ : State} (ks : List Nat) (before : State) {s : State} (hK : Keeps F s₀ s) :
    Keeps F s₀ (syncChanRegs ks before s) := by
  unfold syncChanRegs
  iterate 60 (first | done | with_reducible exact hK | with_reducible assumption | with_reducible apply keeps_forAll | with_reducible apply keeps_syncRow (sub_of hF) | with_reducible apply keeps_foldl | with_reducible apply keeps_foldl_snd | split | (intro _; intros))

theorem keeps_loadCastVals {F : List Kind} (hF : [Kind.regs] ⊆ F) {s₀ : State} (n : Nat) (old : Option SlotCast) (new : SlotCast) {s : State} (hK : Keeps F s₀ s) :
    Keeps F s₀ (loadCastVals n old new s) := by
  unfold loadCastVals
  iterate 60 (first | done | with_reducible exact hK | with_reducible assumption | with_reducible apply keeps_setFld (sub_of hF) | with_reducible apply keeps_foldl | with_reducible apply keeps_foldl_snd | split | (intro _; intros) | dsimp only)

theorem keeps_loadActive {F : List Kind} (hF : [Kind.slots] ⊆ F) {s₀ : State} (n : Nat) (old : Option SlotCast) (new : SlotCast) {s : State} (hK : Keeps F s₀ s) :
    Keeps F s₀ (loadActive n old new s) := by
  unfold loadActive
  iterate 60 (first | done | with_reducible exact hK | with_reducible assumption | with_reducible apply keeps_modSlot (sub_of hF) | split | (intro _; intros) | dsimp only)

theorem keeps_syncPitchRange {F : List Kind} (hF : [Kind.regs, .pitchAct] ⊆ F) {s₀ : State} (n : Nat) (old : Option SlotCast) (new : Option SlotCast) {s : State} (hK : Keeps F s₀ s) :
    Keeps F s₀ (syncPitchRange n old new s) := by
  unfold syncPitchRange
  iterate 60 (first | done | with_reducible exact hK | with_reducible assumption | with_reducible apply keeps_forAll | with_reducible apply keeps_freePitch (sub_of hF) | with_reducible apply keeps_buildPitch (sub_of hF) | split | (intro _; intros) | dsimp only)

theorem keeps_showSportEnabled {F : List Kind} (hF : [Kind.regs] ⊆ F) {s₀ : State}  {s : State} (hK : Keeps F s₀ s) :
    Keeps F s₀ (showSportEnabled s) := by
  unfold showSportEnabled
  with_reducible repeat' first | exact hK | assumption | apply keeps_setBit (sub_of hF)

theorem keeps_buildSlot {F : List Kind} (hF : [Kind.regs, .pitchAct, .out, .slots, .fr, .chans] ⊆ F) {s₀ : State} (n : Nat) (c : SlotCast) {s : State} (hK : Keeps F s₀ s) :
    Keeps F s₀ (buildSlot n c s) := by
  unfold buildSlot
  extract_lets s0 s1 s2 s3 s4 s5 s6 s7
  have hss1 : Keeps F s₀ s1 := by
    dsimp only [s1]
    iterate 40 (first | done | with_reducible exact hK | with_reducible assumption | with_reducible apply keeps_modSlot (sub_of hF) | with_reducible apply keeps_syncChanRegs (sub_of hF) | with_reducible apply keeps_syncSlotRegs (sub_of hF) | with_reducible apply keeps_loadActive (sub_of hF) | with_reducible apply keeps_loadCastVals (sub_of hF) | with_reducible apply keeps_syncPitchRange (sub_of hF) | with_reducible apply keeps_forAll | with_reducible apply keeps_modChan (sub_of hF) | with_reducible apply keeps_showObjs (sub_of hF) | with_reducible apply keeps_showSportEnabled (sub_of hF) | with_reducible apply keeps_showSupply (sub_of hF) | with_reducible apply keeps_setMode (sub_of hF) | with_reducible apply keeps_engageDim (sub_of hF) | split | (intro _; intros) | dsimp only)
  clear_value s1
  have hss2 : Keeps F s₀ s2 := by
    dsimp only [s2]
    iterate 40 (first | done | with_reducible exact hK | with_reducible assumption | with_reducible apply keeps_modSlot (sub_of hF) | with_reducible apply keeps_syncChanRegs (sub_of hF) | with_reducible apply keeps_syncSlotRegs (sub_of hF) | with_reducible apply keeps_loadActive (sub_of hF) | with_reducible apply keeps_loadCastVals (sub_of hF) | with_reducible apply keeps_syncPitchRange (sub_of hF) | with_reducible apply keeps_forAll | with_reducible apply keeps_modChan (sub_of hF) | with_reducible apply keeps_showObjs (sub_of hF) | with_reducible apply keeps_showSportEnabled (sub_of hF) | with_reducible apply keeps_showSupply (sub_of hF) | with_reducible apply keeps_setMode (sub_of hF) | with_reducible apply keeps_engageDim (sub_of hF) | split | (intro _; intros) | dsimp only)
  clear_value s2
  have hss3 : Keeps F s₀ s3 := by
    dsimp only [s3]
    iterate 40 (first | done | with_reducible exact hK | with_reducible assumption | with_reducible apply keeps_modSlot (sub_of hF) | with_reducible apply keeps_syncChanRegs (sub_of hF) | with_reducible apply keeps_syncSlotRegs (sub_of hF) | with_reducible apply keeps_loadActive (sub_of hF) | with_reducible apply keeps_loadCastVals (sub_of hF) | with_reducible apply keeps_syncPitchRange (sub_of hF) | with_reducible apply keeps_forAll | with_reducible apply keeps_modChan (sub_of hF) | with_reducible apply keeps_showObjs (sub_of hF) | with_reducible apply keeps_showSportEnabled (sub_of hF) | with_reducible apply keeps_showSupply (sub_of hF) | with_reducible apply keeps_setMode (sub_of hF) | with_reducible apply keeps_engageDim (sub_of hF) | split | (intro _; intros) | dsimp only)
  clear_value s3
  have hss4 : Keeps F s₀ s4 := by
    dsimp only [s4]
    iterate 40 (first | done | with_reducible exact hK | with_reducible assumption | with_reducible apply keeps_modSlot (sub_of hF) | with_reducible apply keeps_syncChanRegs (sub_of hF) | with_reducible apply keeps_syncSlotRegs (sub_of hF) | with_reducible apply keeps_loadActive (sub_of hF) | with_reducible apply keeps_loadCastVals (sub_of hF) | with_reducible apply keeps_syncPitchRange (sub_of hF) | with_reducible apply keeps_forAll | with_reducible apply keeps_modChan (sub_of hF) | with_reducible apply keeps_showObjs (sub_of hF) | with_reducible apply keeps_showSportEnabled (sub_of hF) | with_reducible apply keeps_showSupply (sub_of hF) | with_reducible apply keeps_setMode (sub_of hF) | with_reducible apply keeps_engageDim (sub_of hF) | split | (intro _; intros) | dsimp only)
  clear_value s4
  have hss5 : Keeps F s₀ s5 := by
    dsimp only [s5]
    iterate 40 (first | done | with_reducible exact hK | with_reducible assumption | with_reducible apply keeps_modSlot (sub_of hF) | with_reducible apply keeps_syncChanRegs (sub_of hF) | with_reducible apply keeps_syncSlotRegs (sub_of hF) | with_reducible apply keeps_loadActive (sub_of hF) | with_reducible apply keeps_loadCastVals (sub_of hF) | with_reducible apply keeps_syncPitchRange (sub_of hF) | with_reducible apply keeps_forAll | with_reducible apply keeps_modChan (sub_of hF) | with_reducible apply keeps_showObjs (sub_of hF) | with_reducible apply keeps_showSportEnabled (sub_of hF) | with_reducible apply keeps_showSupply (sub_of hF) | with_reducible apply keeps_setMode (sub_of hF) | with_reducible apply keeps_engageDim (sub_of hF) | split | (intro _; intros) | dsimp only)
  clear_value s5
  have hss6 : Keeps F s₀ s6 := by
    dsimp only [s6]
    iterate 40 (first | done | with_reducible exact hK | with_reducible assumption | with_reducible apply keeps_modSlot (sub_of hF) | with_reducible apply keeps_syncChanRegs (sub_of hF) | with_reducible apply keeps_syncSlotRegs (sub_of hF) | with_reducible apply keeps_loadActive (sub_of hF) | with_reducible apply keeps_loadCastVals (sub_of hF) | with_reducible apply keeps_syncPitchRange (sub_of hF) | with_reducible apply keeps_forAll | with_reducible apply keeps_modChan (sub_of hF) | with_reducible apply keeps_showObjs (sub_of hF) | with_reducible apply keeps_showSportEnabled (sub_of hF) | with_reducible apply keeps_showSupply (sub_of hF) | with_reducible apply keeps_setMode (sub_of hF) | with_reducible apply keeps_engageDim (sub_of hF) | split | (intro _; intros) | dsimp only)
  clear_value s6
  have hss7 : Keeps F s₀ s7 := by
    dsimp only [s7]
    iterate 40 (first | done | with_reducible exact hK | with_reducible assumption | with_reducible apply keeps_modSlot (sub_of hF) | with_reducible apply keeps_syncChanRegs (sub_of hF) | with_reducible apply keeps_syncSlotRegs (sub_of hF) | with_reducible apply keeps_loadActive (sub_of hF) | with_reducible apply keeps_loadCastVals (sub_of hF) | with_reducible apply keeps_syncPitchRange (sub_of hF) | with_reducible apply keeps_forAll | with_reducible apply keeps_modChan (sub_of hF) | with_reducible apply keeps_showObjs (sub_of hF) | with_reducible apply keeps_showSportEnabled (sub_of hF) | with_reducible apply keeps_showSupply (sub_of hF) | with_reducible apply keeps_setMode (sub_of hF) | with_reducible apply keeps_engageDim (sub_of hF) | split | (intro _; intros) | dsimp only)
  clear_value s7
  iterate 60 (first | done | with_reducible exact hK | with_reducible assumption | with_reducible apply keeps_modSlot (sub_of hF) | with_reducible apply keeps_syncChanRegs (sub_of hF) | with_reducible apply keeps_syncSlotRegs (sub_of hF) | with_reducible apply keeps_loadActive (sub_of hF) | with_reducible apply keeps_loadCastVals (sub_of hF) | with_reducible apply keeps_syncPitchRange (sub_of hF) | with_reducible apply keeps_forAll | with_reducible apply keeps_modChan (sub_of hF) | with_reducible apply keeps_showObjs (sub_of hF) | with_reducible apply keeps_showSportEnabled (sub_of hF) | with_reducible apply keeps_showSupply (sub_of hF) | with_reducible apply keeps_setMode (sub_of hF) | with_reducible apply keeps_engageDim (sub_of hF) | split | (intro _; intros) | dsimp only)

theorem keeps_unbuildSlot {F : List Kind} (hF : [Kind.regs, .pitchAct, .out, .slots, .heat, .sb] ⊆ F) {s₀ : State} (n : Nat) {s : State} (hK : Keeps F s₀ s) :
    Keeps F s₀ (unbuildSlot n s) := by
  unfold unbuildSlot
  iterate 60 (first | done | with_reducible exact hK | with_reducible assumption | with_reducible apply keeps_releaseSources (sub_of hF) | with_reducible apply keeps_syncPitchRange (sub_of hF) | with_reducible apply keeps_stopRaster (sub_of hF) | with_reducible apply keeps_modSlot (sub_of hF) | with_reducible apply keeps_syncChanRegs (sub_of hF) | with_reducible apply keeps_syncSlotRegs (sub_of hF) | with_reducible apply keeps_dropLadder (sub_of hF) | with_reducible apply keeps_showContain (sub_of hF) | with_reducible apply keeps_showObjs (sub_of hF) | with_reducible apply keeps_showSportEnabled (sub_of hF) | with_reducible apply keeps_syncPitches (sub_of hF) | split | (intro _; intros) | dsimp only)

theorem keeps_domainOff {F : List Kind} (hF : [Kind.regs, .pitchAct, .out, .slots, .ports, .codec, .sb, .loops] ⊆ F) {s₀ : State} (d : Nat) {s : State} (hK : Keeps F s₀ s) :
    Keeps F s₀ (domainOff d s) := by
  unfold domainOff
  extract_lets s1 s2 s3 s4 rows
  have hss1 : Keeps F s₀ s1 := by
    dsimp only [s1]
    iterate 40 (first | done | with_reducible exact hK | with_reducible assumption | with_reducible apply keeps_stopBridge (sub_of hF) | with_reducible apply keeps_forAll | with_reducible apply keeps_enterDetect (sub_of hF) | with_reducible apply keeps_codecReset (sub_of hF) | with_reducible apply keeps_calOff (sub_of hF) | with_reducible apply keeps_setRegs (sub_of hF) | with_reducible apply keeps_foldl | with_reducible apply keeps_foldl_snd | split | (intro _; intros) | dsimp only | with_reducible refine Keeps.loops ?_ (sub_of hF) _)
  clear_value s1
  have hss2 : Keeps F s₀ s2 := by
    dsimp only [s2]
    iterate 40 (first | done | with_reducible exact hK | with_reducible assumption | with_reducible apply keeps_stopBridge (sub_of hF) | with_reducible apply keeps_forAll | with_reducible apply keeps_enterDetect (sub_of hF) | with_reducible apply keeps_codecReset (sub_of hF) | with_reducible apply keeps_calOff (sub_of hF) | with_reducible apply keeps_setRegs (sub_of hF) | with_reducible apply keeps_foldl | with_reducible apply keeps_foldl_snd | split | (intro _; intros) | dsimp only | with_reducible refine Keeps.loops ?_ (sub_of hF) _)
  clear_value s2
  have hss3 : Keeps F s₀ s3 := by
    dsimp only [s3]
    iterate 40 (first | done | with_reducible exact hK | with_reducible assumption | with_reducible apply keeps_stopBridge (sub_of hF) | with_reducible apply keeps_forAll | with_reducible apply keeps_enterDetect (sub_of hF) | with_reducible apply keeps_codecReset (sub_of hF) | with_reducible apply keeps_calOff (sub_of hF) | with_reducible apply keeps_setRegs (sub_of hF) | with_reducible apply keeps_foldl | with_reducible apply keeps_foldl_snd | split | (intro _; intros) | dsimp only | with_reducible refine Keeps.loops ?_ (sub_of hF) _)
  clear_value s3
  have hss4 : Keeps F s₀ s4 := by
    dsimp only [s4]
    iterate 40 (first | done | with_reducible exact hK | with_reducible assumption | with_reducible apply keeps_stopBridge (sub_of hF) | with_reducible apply keeps_forAll | with_reducible apply keeps_enterDetect (sub_of hF) | with_reducible apply keeps_codecReset (sub_of hF) | with_reducible apply keeps_calOff (sub_of hF) | with_reducible apply keeps_setRegs (sub_of hF) | with_reducible apply keeps_foldl | with_reducible apply keeps_foldl_snd | split | (intro _; intros) | dsimp only | with_reducible refine Keeps.loops ?_ (sub_of hF) _)
  clear_value s4
  iterate 60 (first | done | with_reducible exact hK | with_reducible assumption | with_reducible apply keeps_stopBridge (sub_of hF) | with_reducible apply keeps_forAll | with_reducible apply keeps_enterDetect (sub_of hF) | with_reducible apply keeps_codecReset (sub_of hF) | with_reducible apply keeps_calOff (sub_of hF) | with_reducible apply keeps_setRegs (sub_of hF) | with_reducible apply keeps_foldl | with_reducible apply keeps_foldl_snd | split | (intro _; intros) | dsimp only | with_reducible refine Keeps.loops ?_ (sub_of hF) _)

theorem keeps_setDomains {F : List Kind} (hF : [Kind.regs, .pitchAct, .out, .cast, .slots, .ports, .codec, .sb, .loops] ⊆ F) {s₀ : State} (m : BitVec 20) {s : State} (hK : Keeps F s₀ s) :
    Keeps F s₀ (setDomains m s) := by
  unfold setDomains
  iterate 60 (first | done | with_reducible exact hK | with_reducible assumption | with_reducible apply keeps_forAll | with_reducible apply keeps_domainOff (sub_of hF) | split | (intro _; intros) | dsimp only | with_reducible refine Keeps.cast ?_ (sub_of hF) _)

end Sys2Proof.Machine
end

