-- ==== Sys2Proof/Laws/KeepsDram.lean ====
section
/-! SUPPORT. The operations of Machine/Dram.lean keep the relation of Laws/Keeps.lean. -/

set_option Elab.async false

namespace Sys2Proof.Machine

theorem keeps_modMc {F : List Kind} (hF : [Kind.mc] ⊆ F) {s₀ : State} (f : DramState → DramState) {s : State} (hK : Keeps F s₀ s) :
    Keeps F s₀ (modMc f s) := by
  unfold modMc
  iterate 60 (first | done | with_reducible exact hK | with_reducible assumption | split | (intro _; intros) | dsimp only | with_reducible refine Keeps.mc ?_ (sub_of hF) _)

theorem keeps_dramDead {F : List Kind} (hF : [Kind.regs, .out, .slots, .ports, .fr] ⊆ F) {s₀ : State}  {s : State} (hK : Keeps F s₀ s) :
    Keeps F s₀ (dramDead s) := by
  unfold dramDead
  with_reducible repeat' first | exact hK | assumption | apply keeps_lenDropAll (sub_of hF) | apply keeps_logEvent (sub_of hF) | apply keeps_setBit (sub_of hF)

theorem keeps_endGather {F : List Kind} (hF : [Kind.regs, .mc] ⊆ F) {s₀ : State}  {s : State} (hK : Keeps F s₀ s) :
    Keeps F s₀ (endGather s) := by
  unfold endGather
  iterate 60 (first | done | with_reducible exact hK | with_reducible assumption | with_reducible apply keeps_setBit (sub_of hF) | with_reducible apply keeps_modMc (sub_of hF) | split | (intro _; intros) | dsimp only)

theorem keeps_pcFail {F : List Kind} (hF : [Kind.regs, .out, .slots, .ports, .fr, .mc] ⊆ F) {s₀ : State} (pc : Nat) {s : State} (hK : Keeps F s₀ s) :
    Keeps F s₀ (pcFail pc s) := by
  unfold pcFail
  iterate 60 (first | done | with_reducible exact hK | with_reducible assumption | with_reducible apply keeps_raiseVec (sub_of hF) | with_reducible apply keeps_logEvent (sub_of hF) | with_reducible apply keeps_modMc (sub_of hF) | with_reducible apply keeps_endGather (sub_of hF) | with_reducible apply keeps_setReg (sub_of hF) | with_reducible apply keeps_dramDead (sub_of hF) | with_reducible apply keeps_withDim (sub_of hF) | with_reducible apply keeps_containAll (sub_of hF) | split | (intro _; intros) | dsimp only)

theorem keeps_uncorrectable {F : List Kind} (hF : [Kind.regs, .out, .slots, .ports, .fr, .mc] ⊆ F) {s₀ : State} (pc : Nat) {s : State} (hK : Keeps F s₀ s) :
    Keeps F s₀ (uncorrectable pc s) := by
  unfold uncorrectable
  iterate 60 (first | done | with_reducible exact hK | with_reducible assumption | with_reducible apply keeps_incSat (sub_of hF) | with_reducible apply keeps_modMc (sub_of hF) | with_reducible apply keeps_pcFail (sub_of hF) | split | dsimp only)

theorem keeps_helpersUsed {F : List Kind} (hF : [Kind.regs, .freeCount] ⊆ F) {s₀ : State}  {s : State} (hK : Keeps F s₀ s) :
    Keeps F s₀ (helpersUsed s) := by
  unfold helpersUsed
  iterate 60 (first | done | with_reducible exact hK | with_reducible assumption | with_reducible apply keeps_takeFree (sub_of hF) | with_reducible apply keeps_setReg (sub_of hF) | with_reducible apply keeps_foldl | with_reducible apply keeps_foldl_snd | split | (intro _; intros))

theorem keeps_trainingDone {F : List Kind} (hF : [Kind.regs, .out, .freeCount, .slots, .ports, .fr, .mc] ⊆ F) {s₀ : State} (failed : List Nat) {s : State} (hK : Keeps F s₀ s) :
    Keeps F s₀ (trainingDone failed s) := by
  unfold trainingDone
  iterate 60 (first | done | with_reducible exact hK | with_reducible assumption | with_reducible apply keeps_modMc (sub_of hF) | with_reducible apply keeps_setFld (sub_of hF) | with_reducible apply keeps_helpersUsed (sub_of hF) | with_reducible apply keeps_setBit (sub_of hF) | with_reducible apply keeps_setReg (sub_of hF) | with_reducible apply keeps_dramDead (sub_of hF) | split | dsimp only)

theorem keeps_setDelay {F : List Kind} (hF : [Kind.mc] ⊆ F) {s₀ : State} (pc : Nat) (point : Nat) (i : Nat) (v : Word) {s : State} (hK : Keeps F s₀ s) :
    Keeps F s₀ (setDelay pc point i v s) := by
  unfold setDelay
  with_reducible repeat' first | exact hK | assumption | apply keeps_modMc (sub_of hF)

theorem keeps_trackStart {F : List Kind} (hF : [Kind.regs, .mc] ⊆ F) {s₀ : State}  {s : State} (hK : Keeps F s₀ s) :
    Keeps F s₀ (trackStart s) := by
  unfold trackStart
  with_reducible repeat' first | exact hK | assumption | apply keeps_setBit (sub_of hF) | apply keeps_modMc (sub_of hF) | split

theorem keeps_moveTap {F : List Kind} (hF : [Kind.mc] ⊆ F) {s₀ : State} (pc : Nat) (point : Nat) (i : Nat) (d : Int) {s : State} (hK : Keeps F s₀ s) :
    Keeps F s₀ (moveTap pc point i d s) := by
  unfold moveTap
  with_reducible repeat' first | exact hK | assumption | apply keeps_setDelay (sub_of hF)

theorem keeps_gatherEnd {F : List Kind} (hF : [Kind.regs, .out, .freeCount, .slots, .ports, .fr, .mc] ⊆ F) {s₀ : State} (reads : Nat) (writes : Nat) (move : List Int) (pass : Bool) {s : State} (hK : Keeps F s₀ s) :
    Keeps F s₀ (gatherEnd reads writes move pass s) := by
  unfold gatherEnd
  iterate 60 (first | done | with_reducible exact hK | with_reducible assumption | with_reducible apply keeps_helpersUsed (sub_of hF) | with_reducible apply keeps_endGather (sub_of hF) | with_reducible apply keeps_moveTap (sub_of hF) | with_reducible apply keeps_modMc (sub_of hF) | with_reducible apply keeps_pcFail (sub_of hF) | with_reducible apply keeps_foldl | with_reducible apply keeps_foldl_snd | split | (intro _; intros) | dsimp only)

theorem keeps_freqWrite {F : List Kind} (hF : [Kind.regs, .mc] ⊆ F) {s₀ : State} (v : Word) {s : State} (hK : Keeps F s₀ s) :
    Keeps F s₀ (freqWrite v s) := by
  unfold freqWrite
  with_reducible repeat' first | exact hK | assumption | apply keeps_setFld (sub_of hF) | apply keeps_modMc (sub_of hF) | split

theorem keeps_freqDone {F : List Kind} (hF : [Kind.regs, .out, .mc] ⊆ F) {s₀ : State}  {s : State} (hK : Keeps F s₀ s) :
    Keeps F s₀ (freqDone s) := by
  unfold freqDone
  with_reducible repeat' first | exact hK | assumption | apply keeps_raiseVec (sub_of hF) | apply keeps_setFld (sub_of hF) | apply keeps_modMc (sub_of hF) | split

theorem keeps_patternRun {F : List Kind} (hF : [Kind.regs, .dram, .out, .fr, .mc] ⊆ F) {s₀ : State} (v : Word) {s : State} (hK : Keeps F s₀ s) : Keeps F s₀ (patternRun v s) := by
  unfold patternRun
  split
  · exact keeps_logAccess (sub_of hF) _ _ _ hK
  · extract_lets s1 pc s2 s3
    have h1 : Keeps F s₀ s1 := keeps_setReg (sub_of hF) _ _ hK
    have h3 : Keeps F s₀ s3 := keeps_modMc (sub_of hF) _ (keeps_setReg (sub_of hF) _ _ (keeps_setReg (sub_of hF) _ _ (keeps_setReg (sub_of hF) _ _ h1)))
    clear_value s3 s1
    split
    · split
      · exact h3.dram (sub_of hF) _ _ (rising_filter _)
      · exact h3
    · exact h1

end Sys2Proof.Machine
end

