-- ==== Sys2Proof/Laws/KeepsStates.lean ====
section
/-! SUPPORT. The operations of Machine/States.lean keep the relation of Laws/Keeps.lean. -/

set_option Elab.async false

namespace Sys2Proof.Machine

theorem keeps_modPower {F : List Kind} (hF : [Kind.power] ⊆ F) {s₀ : State} (f : PowerState → PowerState) {s : State} (hK : Keeps F s₀ s) :
    Keeps F s₀ (modPower f s) := by
  unfold modPower
  iterate 60 (first | done | with_reducible exact hK | with_reducible assumption | split | (intro _; intros) | dsimp only | with_reducible refine Keeps.power ?_ (sub_of hF) _)

theorem keeps_setSt {F : List Kind} (hF : [Kind.power] ⊆ F) {s₀ : State} (x : PState) {s : State} (hK : Keeps F s₀ s) :
    Keeps F s₀ (setSt x s) := by
  unfold setSt
  with_reducible repeat' first | exact hK | assumption | apply keeps_modPower (sub_of hF)

theorem keeps_stopLink {F : List Kind} (hF : [Kind.regs, .pitchAct, .dram, .out, .slots, .ports, .fr, .page, .heat, .loops] ⊆ F) {s₀ : State} (p : Nat) {s : State} (hK : Keeps F s₀ s) :
    Keeps F s₀ (stopLink p s) := by
  unfold stopLink
  iterate 60 (first | done | with_reducible exact hK | with_reducible assumption | with_reducible apply keeps_enterDetect (sub_of hF) | with_reducible apply keeps_modPort (sub_of hF) | with_reducible apply keeps_quiesce (sub_of hF) | split | dsimp only)

theorem keeps_beginEntry {F : List Kind} (hF : [Kind.regs, .pitchAct, .dram, .out, .slots, .ports, .power, .fr, .page, .mc, .heat, .sb, .loops] ⊆ F) {s₀ : State} (x : PState) {s : State} (hK : Keeps F s₀ s) :
    Keeps F s₀ (beginEntry x s) := by
  unfold beginEntry
  iterate 60 (first | done | with_reducible exact hK | with_reducible assumption | with_reducible apply keeps_setBit (sub_of hF) | with_reducible apply keeps_modPower (sub_of hF) | with_reducible apply keeps_forAll | with_reducible apply keeps_stopLink (sub_of hF) | with_reducible apply keeps_lenDropAll (sub_of hF) | with_reducible apply keeps_enterIdle (sub_of hF) | with_reducible apply keeps_stopBridge (sub_of hF) | with_reducible apply keeps_endGather (sub_of hF) | split | (intro _; intros) | dsimp only)

theorem keeps_beginExit {F : List Kind} (hF : [Kind.regs, .power] ⊆ F) {s₀ : State}  {s : State} (hK : Keeps F s₀ s) :
    Keeps F s₀ (beginExit s) := by
  unfold beginExit
  with_reducible repeat' first | exact hK | assumption | apply keeps_setFld (sub_of hF) | apply keeps_modPower (sub_of hF)

theorem keeps_takeRequest {F : List Kind} (hF : [Kind.regs, .pitchAct, .dram, .out, .slots, .ports, .power, .fr, .page, .mc, .heat, .sb, .loops] ⊆ F) {s₀ : State} (r : Nat) {s : State} (hK : Keeps F s₀ s) :
    Keeps F s₀ (takeRequest r s) := by
  unfold takeRequest
  iterate 60 (first | done | with_reducible exact hK | with_reducible assumption | with_reducible apply keeps_setBit (sub_of hF) | with_reducible apply keeps_modPower (sub_of hF) | with_reducible apply keeps_beginEntry (sub_of hF) | with_reducible apply keeps_beginExit (sub_of hF) | split)

theorem keeps_serveQueued {F : List Kind} (hF : [Kind.regs, .pitchAct, .dram, .out, .slots, .ports, .power, .fr, .page, .mc, .heat, .sb, .loops] ⊆ F) {s₀ : State}  {s : State} (hK : Keeps F s₀ s) :
    Keeps F s₀ (serveQueued s) := by
  unfold serveQueued
  with_reducible repeat' first | exact hK | assumption | apply keeps_takeRequest (sub_of hF) | apply keeps_modPower (sub_of hF) | split

theorem keeps_stateReq {F : List Kind} (hF : [Kind.regs, .pitchAct, .dram, .out, .slots, .ports, .power, .fr, .page, .mc, .heat, .sb, .loops] ⊆ F) {s₀ : State} (v : Word) {s : State} (hK : Keeps F s₀ s) :
    Keeps F s₀ (stateReq v s) := by
  unfold stateReq
  with_reducible repeat' first | exact hK | assumption | apply keeps_setFld (sub_of hF) | apply keeps_takeRequest (sub_of hF) | split | dsimp only

end Sys2Proof.Machine
end

