-- ==== Sys2Proof/Laws/KeepsWindow.lean ====
section
/-! SUPPORT. The operations of Machine/Window.lean keep the relation of Laws/Keeps.lean. -/

set_option Elab.async false

namespace Sys2Proof.Machine

theorem keeps_bar2Write {F : List Kind} (hF : [Kind.regs, .dram] ⊆ F) {s₀ : State} (off : Nat) (epoch : Nat) (bs : List Byte) {s : State} (hK : Keeps F s₀ s) :
    Keeps F s₀ (bar2Write off epoch bs s) := by
  unfold bar2Write
  iterate 60 (first | done | with_reducible exact hK | with_reducible assumption | with_reducible apply keeps_dramWrite (sub_of hF) | with_reducible apply keeps_windowErr (sub_of hF) | with_reducible apply keeps_foldl | with_reducible apply keeps_foldl_snd | split | (intro _; intros))

theorem keeps_bar2Read {F : List Kind} (hF : [Kind.regs] ⊆ F) {s₀ : State} (off : Nat) (len : Nat) (epoch : Nat) {s : State} (hK : Keeps F s₀ s) :
    Keeps F s₀ (bar2Read off len epoch s).2 := by
  unfold bar2Read
  iterate 60 (first | done | with_reducible exact hK | with_reducible assumption | with_reducible apply keeps_windowErr (sub_of hF) | with_reducible apply keeps_foldl | with_reducible apply keeps_foldl_snd | with_reducible apply keeps_ite_snd | with_reducible apply keeps_pair | split | (intro _; intros))

theorem keeps_casGo {F : List Kind} (hF : [Kind.regs] ⊆ F) {s₀ : State} (k : Nat) (v : Word) {s : State} (hK : Keeps F s₀ s) :
    Keeps F s₀ (casGo k v s) := by
  unfold casGo
  iterate 60 (first | done | with_reducible exact hK | with_reducible assumption | with_reducible apply keeps_setReg (sub_of hF) | with_reducible apply keeps_forAll | with_reducible apply keeps_setTally (sub_of hF) | split | (intro _; intros) | dsimp only)

theorem keeps_restartAlive {F : List Kind} (hF : [Kind.fr] ⊆ F) {s₀ : State}  {s : State} (hK : Keeps F s₀ s) :
    Keeps F s₀ (restartAlive s) := by
  unfold restartAlive
  iterate 60 (first | done | with_reducible exact hK | with_reducible assumption | split | (intro _; intros) | dsimp only | with_reducible refine Keeps.fr ?_ (sub_of hF) _)

theorem keeps_aliveKick {F : List Kind} (hF : [Kind.regs, .slots, .fr] ⊆ F) {s₀ : State} (_v : Word) {s : State} (hK : Keeps F s₀ s) :
    Keeps F s₀ (aliveKick _v s) := by
  unfold aliveKick
  iterate 60 (first | done | with_reducible exact hK | with_reducible assumption | with_reducible apply keeps_restartAlive (sub_of hF) | with_reducible apply keeps_setBit (sub_of hF) | with_reducible apply keeps_forAll | with_reducible apply keeps_modSlot (sub_of hF) | split | (intro _; intros) | dsimp only | with_reducible refine Keeps.fr ?_ (sub_of hF) _)

theorem keeps_aliveWrite {F : List Kind} (hF : [Kind.regs, .fr] ⊆ F) {s₀ : State} (v : Word) {s : State} (hK : Keeps F s₀ s) :
    Keeps F s₀ (aliveWrite v s) := by
  unfold aliveWrite
  iterate 60 (first | done | with_reducible exact hK | with_reducible assumption | with_reducible apply keeps_restartAlive (sub_of hF) | with_reducible apply keeps_setReg (sub_of hF) | split | (intro _; intros) | dsimp only)

theorem keeps_hostLost {F : List Kind} (hF : [Kind.regs, .out, .slots, .ports, .fr] ⊆ F) {s₀ : State}  {s : State} (hK : Keeps F s₀ s) :
    Keeps F s₀ (hostLost s) := by
  unfold hostLost
  iterate 60 (first | done | with_reducible exact hK | with_reducible assumption | with_reducible apply keeps_withDim (sub_of hF) | with_reducible apply keeps_startGrace (sub_of hF) | with_reducible apply keeps_containAll (sub_of hF) | with_reducible apply keeps_logEvent (sub_of hF) | split | (intro _; intros) | dsimp only | with_reducible refine Keeps.fr ?_ (sub_of hF) _)

theorem keeps_bar4Store {F : List Kind} (hF : [Kind.bar4] ⊆ F) {s₀ : State} (o : Nat) (bs : List Byte) {s : State} (hK : Keeps F s₀ s) : Keeps F s₀ (bar4Store o bs s) :=
  hK.bar4 (sub_of hF) _ (SMap.wf_setAll _)

theorem keeps_mailAnswer {F : List Kind} (hF : [Kind.regs, .bar4, .out] ⊆ F) {s₀ : State} (c : Nat) (ret : Nat) (payload : List Byte) {s : State} (hK : Keeps F s₀ s) :
    Keeps F s₀ (mailAnswer c ret payload s) := by
  unfold mailAnswer
  iterate 60 (first | done | with_reducible exact hK | with_reducible assumption | with_reducible apply keeps_bar4Store (sub_of hF) | with_reducible apply keeps_setBit (sub_of hF) | with_reducible apply keeps_setFld (sub_of hF) | with_reducible apply keeps_raiseVec (sub_of hF) | split | (intro _; intros) | dsimp only)

theorem keeps_mailRespond {F : List Kind} (hF : [Kind.regs, .bar4, .out] ⊆ F) {s₀ : State} (c : Status) (ret : Nat) (payload : List Byte) {s : State} (hK : Keeps F s₀ s) :
    Keeps F s₀ (mailRespond c ret payload s) := by
  unfold mailRespond
  with_reducible repeat' first | exact hK | assumption | apply keeps_mailAnswer (sub_of hF)

theorem keeps_mailFree {F : List Kind} (hF : [Kind.regs, .bar4, .out, .freeCount] ⊆ F) {s₀ : State}  {s : State} (hK : Keeps F s₀ s) :
    Keeps F s₀ (mailFree s) := by
  unfold mailFree
  with_reducible repeat' first | exact hK | assumption | apply keeps_takeFree (sub_of hF) | apply keeps_mailAnswer (sub_of hF)

theorem keeps_doorbell {F : List Kind} (hF : [Kind.regs, .bar4, .out, .mail] ⊆ F) {s₀ : State} (v : Word) {s : State} (hK : Keeps F s₀ s) :
    Keeps F s₀ (doorbell v s) := by
  unfold doorbell
  iterate 60 (first | done | with_reducible exact hK | with_reducible assumption | with_reducible apply keeps_setBit (sub_of hF) | with_reducible apply keeps_mailRespond (sub_of hF) | split | (intro _; intros) | dsimp only | with_reducible refine Keeps.mail ?_ (sub_of hF) _)

theorem keeps_engMemRead {F : List Kind} (hF : [Kind.regs, .dram, .bar4, .out, .freeCount] ⊆ F) {s₀ : State} (data : List Byte) {s : State} (hK : Keeps F s₀ s) :
    Keeps F s₀ (engMemRead data s) := by
  unfold engMemRead
  iterate 60 (first | done | with_reducible exact hK | with_reducible assumption | with_reducible apply keeps_mailFree (sub_of hF) | with_reducible apply keeps_mailRespond (sub_of hF) | with_reducible apply keeps_windowErr (sub_of hF) | with_reducible apply keeps_handBack (sub_of hF) | with_reducible apply keeps_dramWrite (sub_of hF) | split | dsimp only)

theorem keeps_trainOther {F : List Kind} (hF : [Kind.regs, .bar4, .out, .freeCount] ⊆ F) {s₀ : State}  {s : State} (hK : Keeps F s₀ s) :
    Keeps F s₀ (trainOther s) := by
  unfold trainOther
  iterate 60 (first | done | with_reducible exact hK | with_reducible assumption | with_reducible apply keeps_mailFree (sub_of hF) | split | (intro _; intros) | dsimp only)

theorem keeps_marchFree {F : List Kind} (hF : [Kind.dram] ⊆ F) {s₀ s : State} (hK : Keeps F s₀ s) : Keeps F s₀ (marchFree s) :=
  Keeps.dram hK (sub_of hF) _ _ fun h => rising_filter _ h

theorem keeps_mailAbort {F : List Kind} (hF : [Kind.regs, .bar4, .out, .fr] ⊆ F) {s₀ : State} (core : Nat) {s : State} (hK : Keeps F s₀ s) :
    Keeps F s₀ (mailAbort core s) := by
  unfold mailAbort
  iterate 60 (first | done | with_reducible exact hK | with_reducible assumption | with_reducible apply keeps_mailRespond (sub_of hF) | with_reducible apply keeps_logEvent (sub_of hF) | with_reducible apply keeps_incSat (sub_of hF) | split | (intro _; intros) | dsimp only)

end Sys2Proof.Machine
end

