-- ==== Sys2Proof/Laws/KeepsCastLoad.lean ====
section
/-! SUPPORT. The operations of Machine/CastLoad.lean keep the relation of Laws/Keeps.lean. -/

set_option Elab.async false

namespace Sys2Proof.Machine

theorem keeps_setCastSt {F : List Kind} (hF : [Kind.regs] ⊆ F) {s₀ : State} (x : Nat) {s : State} (hK : Keeps F s₀ s) :
    Keeps F s₀ (setCastSt x s) := by
  unfold setCastSt
  with_reducible repeat' first | exact hK | assumption | apply keeps_setFld (sub_of hF)

theorem keeps_modCast {F : List Kind} (hF : [Kind.cast] ⊆ F) {s₀ : State} (f : CastState → CastState) {s : State} (hK : Keeps F s₀ s) :
    Keeps F s₀ (modCast f s) := by
  unfold modCast
  iterate 60 (first | done | with_reducible exact hK | with_reducible assumption | split | (intro _; intros) | dsimp only | with_reducible refine Keeps.cast ?_ (sub_of hF) _)

theorem keeps_castResult {F : List Kind} (hF : [Kind.regs] ⊆ F) {s₀ : State} (c : Status) {s : State} (hK : Keeps F s₀ s) :
    Keeps F s₀ (castResult c s) := by
  unfold castResult
  with_reducible repeat' first | exact hK | assumption | apply keeps_setFld (sub_of hF)

theorem keeps_castEnd {F : List Kind} (hF : [Kind.regs, .out, .cast] ⊆ F) {s₀ : State}  {s : State} (hK : Keeps F s₀ s) :
    Keeps F s₀ (castEnd s) := by
  unfold castEnd
  iterate 60 (first | done | with_reducible exact hK | with_reducible assumption | with_reducible apply keeps_handBackDev (sub_of hF) | with_reducible apply keeps_raiseVec (sub_of hF) | with_reducible apply keeps_modCast (sub_of hF) | split)

theorem keeps_castFail {F : List Kind} (hF : [Kind.regs, .out, .cast] ⊆ F) {s₀ : State} (e : CastErr) {s : State} (hK : Keeps F s₀ s) :
    Keeps F s₀ (castFail e s) := by
  unfold castFail
  iterate 60 (first | done | with_reducible exact hK | with_reducible assumption | with_reducible apply keeps_castEnd (sub_of hF) | with_reducible apply keeps_setCastSt (sub_of hF) | with_reducible apply keeps_castResult (sub_of hF) | with_reducible apply keeps_setRegs (sub_of hF))

theorem keeps_startLoad {F : List Kind} (hF : [Kind.regs, .out, .cast] ⊆ F) {s₀ : State} (mailbox : Bool) {s : State} (hK : Keeps F s₀ s) :
    Keeps F s₀ (startLoad mailbox s) := by
  unfold startLoad
  iterate 60 (first | done | with_reducible exact hK | with_reducible assumption | with_reducible apply keeps_castResult (sub_of hF) | with_reducible apply keeps_setCastSt (sub_of hF) | with_reducible apply keeps_modCast (sub_of hF) | with_reducible apply keeps_castFail (sub_of hF) | split | (intro _; intros) | dsimp only)

theorem keeps_mailboxRead {F : List Kind} (hF : [Kind.regs, .out, .cast] ⊆ F) {s₀ : State}  {s : State} (hK : Keeps F s₀ s) :
    Keeps F s₀ (mailboxRead s) := by
  unfold mailboxRead
  iterate 60 (first | done | with_reducible exact hK | with_reducible assumption | with_reducible apply keeps_castFail (sub_of hF) | with_reducible apply keeps_setCastSt (sub_of hF) | split | (intro _; intros) | dsimp only)

theorem keeps_castChunk {F : List Kind} (hF : [Kind.regs, .bar4, .out, .freeCount, .cast] ⊆ F) {s₀ : State}  {s : State} (hK : Keeps F s₀ s) :
    Keeps F s₀ (castChunk s) := by
  unfold castChunk
  iterate 60 (first | done | with_reducible exact hK | with_reducible assumption | with_reducible apply keeps_mailRespond (sub_of hF) | with_reducible apply keeps_modCast (sub_of hF) | with_reducible apply keeps_mailboxRead (sub_of hF) | with_reducible apply keeps_mailFree (sub_of hF) | with_reducible apply keeps_castFail (sub_of hF) | split | (intro _; intros) | dsimp only)

theorem keeps_castRead {F : List Kind} (hF : [Kind.regs, .out, .cast] ⊆ F) {s₀ : State}  {s : State} (hK : Keeps F s₀ s) :
    Keeps F s₀ (castRead s) := by
  unfold castRead
  iterate 60 (first | done | with_reducible exact hK | with_reducible assumption | with_reducible apply keeps_castFail (sub_of hF) | with_reducible apply keeps_setCastSt (sub_of hF) | with_reducible apply keeps_modCast (sub_of hF) | split | (intro _; intros) | dsimp only)

theorem keeps_castLock {F : List Kind} (hF : [Kind.regs] ⊆ F) {s₀ : State}  {s : State} (hK : Keeps F s₀ s) :
    Keeps F s₀ (castLock s) := by
  unfold castLock
  with_reducible repeat' first | exact hK | assumption | apply keeps_setBit (sub_of hF)

theorem keeps_adoptLocks {F : List Kind} (hF : [Kind.regs, .cast] ⊆ F) {s₀ : State} (l : LockRec) {s : State} (hK : Keeps F s₀ s) :
    Keeps F s₀ (adoptLocks l s) := by
  unfold adoptLocks
  with_reducible repeat' first | exact hK | assumption | apply keeps_modCast (sub_of hF) | apply keeps_castLock (sub_of hF) | split

theorem keeps_showSlotGen {F : List Kind} (hF : [Kind.regs] ⊆ F) {s₀ : State} (n : Nat) (gen : Nat) {s : State} (hK : Keeps F s₀ s) :
    Keeps F s₀ (showSlotGen n gen s) := by
  unfold showSlotGen
  with_reducible repeat' first | exact hK | assumption | apply keeps_setReg (sub_of hF)

theorem keeps_adoptCast {F : List Kind} (hF : [Kind.regs, .pitchAct, .out, .cast, .slots, .ports, .codec, .sb, .loops] ⊆ F) {s₀ : State} (c : CastDesc) {s : State} (hK : Keeps F s₀ s) :
    Keeps F s₀ (adoptCast c s) := by
  unfold adoptCast
  iterate 60 (first | done | with_reducible exact hK | with_reducible assumption | with_reducible apply keeps_modCast (sub_of hF) | with_reducible apply keeps_adoptLocks (sub_of hF) | with_reducible apply keeps_setDomains (sub_of hF) | with_reducible apply keeps_forAll | with_reducible apply keeps_showSlotGen (sub_of hF) | with_reducible apply keeps_setRegs (sub_of hF) | with_reducible apply keeps_castEnd (sub_of hF) | with_reducible apply keeps_setCastSt (sub_of hF) | with_reducible apply keeps_setBit (sub_of hF) | with_reducible apply keeps_castResult (sub_of hF) | split | (intro _; intros))

theorem keeps_retryPort {F : List Kind} (hF : [Kind.regs, .out, .ports, .fr] ⊆ F) {s₀ : State} (p : Nat) {s : State} (hK : Keeps F s₀ s) :
    Keeps F s₀ (retryPort p s) := by
  unfold retryPort
  with_reducible repeat' first | exact hK | assumption | apply keeps_tryBind (sub_of hF) | apply keeps_modPort (sub_of hF)

theorem keeps_firstLoad {F : List Kind} (hF : [Kind.regs, .pitchAct, .out, .cast, .slots, .ports, .fr, .codec, .chans, .sb, .loops] ⊆ F) {s₀ : State} (c : CastDesc) {s : State} (hK : Keeps F s₀ s) :
    Keeps F s₀ (firstLoad c s) := by
  unfold firstLoad
  iterate 60 (first | done | with_reducible exact hK | with_reducible assumption | with_reducible apply keeps_modCast (sub_of hF) | with_reducible apply keeps_buildSlot (sub_of hF) | with_reducible apply keeps_forAll | with_reducible apply keeps_retryPort (sub_of hF) | with_reducible apply keeps_adoptCast (sub_of hF) | with_reducible apply keeps_foldl | with_reducible apply keeps_foldl_snd | split | (intro _; intros))

theorem keeps_movePx {F : List Kind} (hF : [Kind.regs] ⊆ F) {s₀ : State} (n : Nat) (a : Nat) (b : Nat) (before : State) {s : State} (hK : Keeps F s₀ s) :
    Keeps F s₀ (movePx n a b before s) := by
  unfold movePx
  iterate 60 (first | done | with_reducible exact hK | with_reducible assumption | with_reducible apply keeps_setRegs (sub_of hF) | split | (intro _; intros) | dsimp only)

theorem keeps_resync {F : List Kind} (hF : [Kind.regs, .pitchAct, .slots, .sb] ⊆ F) {s₀ : State} (n : Nat) (a : SlotCast) (b : SlotCast) {s : State} (hK : Keeps F s₀ s) :
    Keeps F s₀ (resync n a b s) := by
  unfold resync
  iterate 60 (first | done | with_reducible exact hK | with_reducible assumption | with_reducible apply keeps_modSlot (sub_of hF) | with_reducible apply keeps_syncChanRegs (sub_of hF) | with_reducible apply keeps_movePx (sub_of hF) | with_reducible apply keeps_syncSlotRegs (sub_of hF) | with_reducible apply keeps_loadActive (sub_of hF) | with_reducible apply keeps_loadCastVals (sub_of hF) | with_reducible apply keeps_showSupply (sub_of hF) | with_reducible apply keeps_syncPitches (sub_of hF) | with_reducible apply keeps_syncPitchRange (sub_of hF) | split | (intro _; intros) | dsimp only)

theorem keeps_recastSlot {F : List Kind} (hF : [Kind.regs, .pitchAct, .dram, .out, .freeCount, .slots, .ports, .fr, .chans, .page, .heat, .sb, .loops] ⊆ F) {s₀ : State} (n : Nat) (b : SlotCast) (cold : Bool) {s : State} (hK : Keeps F s₀ s) :
    Keeps F s₀ (recastSlot n b cold s) := by
  unfold recastSlot
  split
  · exact hK
  extract_lets re s1 s2 m s3 s4 s5 s6
  have hss1 : Keeps F s₀ s1 := by
    dsimp only [s1]
    iterate 40 (first | done | with_reducible exact hK | with_reducible assumption | with_reducible apply keeps_quiesce (sub_of hF) | with_reducible apply keeps_recheckCommit (sub_of hF) | with_reducible apply keeps_resync (sub_of hF) | with_reducible apply keeps_dropHeld (sub_of hF) | with_reducible apply keeps_changeMode (sub_of hF) | with_reducible apply keeps_enterAcquire (sub_of hF) | with_reducible apply keeps_computeTraj (sub_of hF) | with_reducible apply keeps_revalidate (sub_of hF) | with_reducible apply keeps_showLoad (sub_of hF) | with_reducible apply keeps_calBind (sub_of hF) | with_reducible apply keeps_bindChans (sub_of hF) | with_reducible apply keeps_calRecast (sub_of hF) | with_reducible apply keeps_retryPort (sub_of hF) | split | (intro _; intros) | dsimp only)
  clear_value s1
  have hss2 : Keeps F s₀ s2 := by
    dsimp only [s2]
    iterate 40 (first | done | with_reducible exact hK | with_reducible assumption | with_reducible apply keeps_quiesce (sub_of hF) | with_reducible apply keeps_recheckCommit (sub_of hF) | with_reducible apply keeps_resync (sub_of hF) | with_reducible apply keeps_dropHeld (sub_of hF) | with_reducible apply keeps_changeMode (sub_of hF) | with_reducible apply keeps_enterAcquire (sub_of hF) | with_reducible apply keeps_computeTraj (sub_of hF) | with_reducible apply keeps_revalidate (sub_of hF) | with_reducible apply keeps_showLoad (sub_of hF) | with_reducible apply keeps_calBind (sub_of hF) | with_reducible apply keeps_bindChans (sub_of hF) | with_reducible apply keeps_calRecast (sub_of hF) | with_reducible apply keeps_retryPort (sub_of hF) | split | (intro _; intros) | dsimp only)
  clear_value s2
  have hss3 : Keeps F s₀ s3 := by
    dsimp only [s3]
    iterate 40 (first | done | with_reducible exact hK | with_reducible assumption | with_reducible apply keeps_quiesce (sub_of hF) | with_reducible apply keeps_recheckCommit (sub_of hF) | with_reducible apply keeps_resync (sub_of hF) | with_reducible apply keeps_dropHeld (sub_of hF) | with_reducible apply keeps_changeMode (sub_of hF) | with_reducible apply keeps_enterAcquire (sub_of hF) | with_reducible apply keeps_computeTraj (sub_of hF) | with_reducible apply keeps_revalidate (sub_of hF) | with_reducible apply keeps_showLoad (sub_of hF) | with_reducible apply keeps_calBind (sub_of hF) | with_reducible apply keeps_bindChans (sub_of hF) | with_reducible apply keeps_calRecast (sub_of hF) | with_reducible apply keeps_retryPort (sub_of hF) | split | (intro _; intros) | dsimp only)
  clear_value s3
  have hss4 : Keeps F s₀ s4 := by
    dsimp only [s4]
    iterate 40 (first | done | with_reducible exact hK | with_reducible assumption | with_reducible apply keeps_quiesce (sub_of hF) | with_reducible apply keeps_recheckCommit (sub_of hF) | with_reducible apply keeps_resync (sub_of hF) | with_reducible apply keeps_dropHeld (sub_of hF) | with_reducible apply keeps_changeMode (sub_of hF) | with_reducible apply keeps_enterAcquire (sub_of hF) | with_reducible apply keeps_computeTraj (sub_of hF) | with_reducible apply keeps_revalidate (sub_of hF) | with_reducible apply keeps_showLoad (sub_of hF) | with_reducible apply keeps_calBind (sub_of hF) | with_reducible apply keeps_bindChans (sub_of hF) | with_reducible apply keeps_calRecast (sub_of hF) | with_reducible apply keeps_retryPort (sub_of hF) | split | (intro _; intros) | dsimp only)
  clear_value s4
  have hss5 : Keeps F s₀ s5 := by
    dsimp only [s5]
    iterate 40 (first | done | with_reducible exact hK | with_reducible assumption | with_reducible apply keeps_quiesce (sub_of hF) | with_reducible apply keeps_recheckCommit (sub_of hF) | with_reducible apply keeps_resync (sub_of hF) | with_reducible apply keeps_dropHeld (sub_of hF) | with_reducible apply keeps_changeMode (sub_of hF) | with_reducible apply keeps_enterAcquire (sub_of hF) | with_reducible apply keeps_computeTraj (sub_of hF) | with_reducible apply keeps_revalidate (sub_of hF) | with_reducible apply keeps_showLoad (sub_of hF) | with_reducible apply keeps_calBind (sub_of hF) | with_reducible apply keeps_bindChans (sub_of hF) | with_reducible apply keeps_calRecast (sub_of hF) | with_reducible apply keeps_retryPort (sub_of hF) | split | (intro _; intros) | dsimp only)
  clear_value s5
  have hss6 : Keeps F s₀ s6 := by
    dsimp only [s6]
    iterate 40 (first | done | with_reducible exact hK | with_reducible assumption | with_reducible apply keeps_quiesce (sub_of hF) | with_reducible apply keeps_recheckCommit (sub_of hF) | with_reducible apply keeps_resync (sub_of hF) | with_reducible apply keeps_dropHeld (sub_of hF) | with_reducible apply keeps_changeMode (sub_of hF) | with_reducible apply keeps_enterAcquire (sub_of hF) | with_reducible apply keeps_computeTraj (sub_of hF) | with_reducible apply keeps_revalidate (sub_of hF) | with_reducible apply keeps_showLoad (sub_of hF) | with_reducible apply keeps_calBind (sub_of hF) | with_reducible apply keeps_bindChans (sub_of hF) | with_reducible apply keeps_calRecast (sub_of hF) | with_reducible apply keeps_retryPort (sub_of hF) | split | (intro _; intros) | dsimp only)
  clear_value s6
  iterate 60 (first | done | with_reducible exact hK | with_reducible assumption | with_reducible apply keeps_quiesce (sub_of hF) | with_reducible apply keeps_recheckCommit (sub_of hF) | with_reducible apply keeps_resync (sub_of hF) | with_reducible apply keeps_dropHeld (sub_of hF) | with_reducible apply keeps_changeMode (sub_of hF) | with_reducible apply keeps_enterAcquire (sub_of hF) | with_reducible apply keeps_computeTraj (sub_of hF) | with_reducible apply keeps_revalidate (sub_of hF) | with_reducible apply keeps_showLoad (sub_of hF) | with_reducible apply keeps_calBind (sub_of hF) | with_reducible apply keeps_bindChans (sub_of hF) | with_reducible apply keeps_calRecast (sub_of hF) | with_reducible apply keeps_retryPort (sub_of hF) | split | (intro _; intros) | dsimp only)

theorem keeps_removeSlot {F : List Kind} (hF : [Kind.regs, .pitchAct, .dram, .out, .slots, .ports, .fr, .page, .heat, .sb, .loops] ⊆ F) {s₀ : State} (n : Nat) {s : State} (hK : Keeps F s₀ s) :
    Keeps F s₀ (removeSlot n s) := by
  unfold removeSlot
  iterate 60 (first | done | with_reducible exact hK | with_reducible assumption | with_reducible apply keeps_unbuildSlot (sub_of hF) | with_reducible apply keeps_quiesce (sub_of hF) | with_reducible apply keeps_setReg (sub_of hF) | with_reducible apply keeps_modHeat (sub_of hF) | split)

theorem keeps_modSwitch {F : List Kind} (hF : [Kind.cast] ⊆ F) {s₀ : State} (f : SwitchState → SwitchState) {s : State} (hK : Keeps F s₀ s) :
    Keeps F s₀ (modSwitch f s) := by
  unfold modSwitch
  with_reducible repeat' first | exact hK | assumption | apply keeps_modCast (sub_of hF)

theorem keeps_switchSlot {F : List Kind} (hF : [Kind.regs, .pitchAct, .dram, .out, .freeCount, .cast, .slots, .ports, .fr, .chans, .page, .heat, .sb, .loops] ⊆ F) {s₀ : State} (n : Nat) {s : State} (hK : Keeps F s₀ s) :
    Keeps F s₀ (switchSlot n s) := by
  unfold switchSlot
  iterate 60 (first | done | with_reducible exact hK | with_reducible assumption | with_reducible apply keeps_modSwitch (sub_of hF) | with_reducible apply keeps_removeSlot (sub_of hF) | with_reducible apply keeps_recastSlot (sub_of hF) | with_reducible apply keeps_recheckCommit (sub_of hF) | with_reducible apply keeps_retryPort (sub_of hF) | with_reducible apply keeps_buildSlot (sub_of hF) | with_reducible apply keeps_modSlot (sub_of hF) | split | (intro _; intros) | dsimp only)

theorem keeps_warmSlot {F : List Kind} (hF : [Kind.regs, .pitchAct, .dram, .out, .freeCount, .cast, .slots, .ports, .fr, .chans, .page, .heat, .sb, .loops] ⊆ F) {s₀ : State} (n : Nat) {s : State} (hK : Keeps F s₀ s) :
    Keeps F s₀ (warmSlot n s) := by
  unfold warmSlot
  with_reducible repeat' first | exact hK | assumption | apply keeps_modSwitch (sub_of hF) | apply keeps_recastSlot (sub_of hF) | split | dsimp only

theorem keeps_completeRecast {F : List Kind} (hF : [Kind.regs, .pitchAct, .out, .cast, .slots, .ports, .codec, .sb, .loops] ⊆ F) {s₀ : State} (c : CastDesc) {s : State} (hK : Keeps F s₀ s) :
    Keeps F s₀ (completeRecast c s) := by
  unfold completeRecast
  with_reducible repeat' first | exact hK | assumption | apply keeps_adoptCast (sub_of hF)

theorem keeps_switchPool {F : List Kind} (hF : [Kind.cast] ⊆ F) {s₀ : State}  {s : State} (hK : Keeps F s₀ s) :
    Keeps F s₀ (switchPool s) := by
  unfold switchPool
  with_reducible repeat' first | exact hK | assumption | apply keeps_modCast (sub_of hF) | split

theorem keeps_switchPass {F : List Kind} (hF : [Kind.regs, .cast] ⊆ F) {s₀ : State}  {s : State} (hK : Keeps F s₀ s) :
    Keeps F s₀ (switchPass s) := by
  unfold switchPass
  iterate 60 (first | done | with_reducible exact hK | with_reducible assumption | with_reducible apply keeps_modSwitch (sub_of hF) | with_reducible apply keeps_forAll | with_reducible apply keeps_showSlotGen (sub_of hF) | split | (intro _; intros))

theorem keeps_switchProgress {F : List Kind} (hF : [Kind.regs, .pitchAct, .dram, .out, .freeCount, .cast, .slots, .ports, .fr, .codec, .chans, .page, .heat, .sb, .loops] ⊆ F) {s₀ : State}  {s : State} (hK : Keeps F s₀ s) :
    Keeps F s₀ (switchProgress s) := by
  unfold switchProgress
  iterate 60 (first | done | with_reducible exact hK | with_reducible assumption | with_reducible apply keeps_switchPass (sub_of hF) | with_reducible apply keeps_switchPool (sub_of hF) | with_reducible apply keeps_setCastSt (sub_of hF) | with_reducible apply keeps_forAll | with_reducible apply keeps_warmSlot (sub_of hF) | with_reducible apply keeps_completeRecast (sub_of hF) | split | dsimp only)

theorem keeps_switchSweep {F : List Kind} (hF : [Kind.regs, .pitchAct, .dram, .out, .freeCount, .cast, .slots, .ports, .fr, .codec, .chans, .page, .heat, .sb, .loops] ⊆ F) {s₀ : State}  {s : State} (hK : Keeps F s₀ s) :
    Keeps F s₀ (switchSweep s) := by
  unfold switchSweep
  iterate 60 (first | done | with_reducible exact hK | with_reducible assumption | with_reducible apply keeps_switchProgress (sub_of hF) | with_reducible apply keeps_forAll | with_reducible apply keeps_warmSlot (sub_of hF) | with_reducible apply keeps_switchSlot (sub_of hF) | split | (intro _; intros))

theorem keeps_startSwitch {F : List Kind} (hF : [Kind.regs, .pitchAct, .dram, .out, .freeCount, .cast, .slots, .ports, .fr, .codec, .chans, .page, .heat, .sb, .loops] ⊆ F) {s₀ : State} (c : CastDesc) {s : State} (hK : Keeps F s₀ s) :
    Keeps F s₀ (startSwitch c s) := by
  unfold startSwitch
  iterate 60 (first | done | with_reducible exact hK | with_reducible assumption | with_reducible apply keeps_setDomains (sub_of hF) | with_reducible apply keeps_modCast (sub_of hF) | with_reducible apply keeps_switchSweep (sub_of hF) | with_reducible apply keeps_setBit (sub_of hF) | with_reducible apply keeps_setCastSt (sub_of hF))

theorem keeps_castValidated {F : List Kind} (hF : [Kind.regs, .pitchAct, .dram, .out, .freeCount, .cast, .slots, .ports, .fr, .codec, .chans, .page, .heat, .sb, .loops] ⊆ F) {s₀ : State}  {s : State} (hK : Keeps F s₀ s) :
    Keeps F s₀ (castValidated s) := by
  unfold castValidated
  iterate 60 (first | done | with_reducible exact hK | with_reducible assumption | with_reducible apply keeps_castFail (sub_of hF) | with_reducible apply keeps_setReg (sub_of hF) | with_reducible apply keeps_firstLoad (sub_of hF) | with_reducible apply keeps_startSwitch (sub_of hF) | split | dsimp only)

theorem keeps_rollSlot {F : List Kind} (hF : [Kind.regs, .pitchAct, .dram, .out, .freeCount, .cast, .slots, .ports, .fr, .chans, .page, .heat, .sb, .loops] ⊆ F) {s₀ : State} (n : Nat) {s : State} (hK : Keeps F s₀ s) :
    Keeps F s₀ (rollSlot n s) := by
  unfold rollSlot
  iterate 60 (first | done | with_reducible exact hK | with_reducible assumption | with_reducible apply keeps_removeSlot (sub_of hF) | with_reducible apply keeps_recastSlot (sub_of hF) | with_reducible apply keeps_modSlot (sub_of hF) | with_reducible apply keeps_retryPort (sub_of hF) | with_reducible apply keeps_buildSlot (sub_of hF) | with_reducible apply keeps_showSlotGen (sub_of hF) | with_reducible apply keeps_modSwitch (sub_of hF) | split)

theorem keeps_rollProgress {F : List Kind} (hF : [Kind.regs, .pitchAct, .out, .cast, .slots, .ports, .codec, .sb, .loops] ⊆ F) {s₀ : State}  {s : State} (hK : Keeps F s₀ s) :
    Keeps F s₀ (rollProgress s) := by
  unfold rollProgress
  iterate 60 (first | done | with_reducible exact hK | with_reducible assumption | with_reducible apply keeps_modCast (sub_of hF) | with_reducible apply keeps_setDomains (sub_of hF) | with_reducible apply keeps_setCastSt (sub_of hF) | with_reducible apply keeps_setBit (sub_of hF) | split)

theorem keeps_rollSweep {F : List Kind} (hF : [Kind.regs, .pitchAct, .dram, .out, .freeCount, .cast, .slots, .ports, .fr, .codec, .chans, .page, .heat, .sb, .loops] ⊆ F) {s₀ : State}  {s : State} (hK : Keeps F s₀ s) :
    Keeps F s₀ (rollSweep s) := by
  unfold rollSweep
  iterate 60 (first | done | with_reducible exact hK | with_reducible assumption | with_reducible apply keeps_rollProgress (sub_of hF) | with_reducible apply keeps_forAll | with_reducible apply keeps_rollSlot (sub_of hF) | split)

theorem keeps_abortRecast {F : List Kind} (hF : [Kind.regs, .pitchAct, .dram, .out, .freeCount, .cast, .slots, .ports, .fr, .codec, .chans, .page, .heat, .sb, .loops] ⊆ F) {s₀ : State}  {s : State} (hK : Keeps F s₀ s) :
    Keeps F s₀ (abortRecast s) := by
  unfold abortRecast
  iterate 60 (first | done | with_reducible exact hK | with_reducible assumption | with_reducible apply keeps_modSwitch (sub_of hF) | with_reducible apply keeps_logEvent (sub_of hF) | with_reducible apply keeps_castResult (sub_of hF) | with_reducible apply keeps_setCastSt (sub_of hF) | with_reducible apply keeps_rollSweep (sub_of hF) | with_reducible apply keeps_castEnd (sub_of hF) | with_reducible apply keeps_setReg (sub_of hF) | split)

theorem keeps_castBoundary {F : List Kind} (hF : [Kind.regs, .pitchAct, .dram, .out, .freeCount, .cast, .slots, .ports, .fr, .codec, .chans, .page, .heat, .sb, .loops] ⊆ F) {s₀ : State} (n : Nat) {s : State} (hK : Keeps F s₀ s) :
    Keeps F s₀ (castBoundary n s) := by
  unfold castBoundary
  extract_lets waits ready s1 st rolls
  have hss1 : Keeps F s₀ s1 := by
    dsimp only [s1]
    iterate 40 (first | done | with_reducible exact hK | with_reducible assumption | with_reducible apply keeps_modSlot (sub_of hF) | with_reducible apply keeps_rollSweep (sub_of hF) | with_reducible apply keeps_rollSlot (sub_of hF) | with_reducible apply keeps_switchSweep (sub_of hF) | with_reducible apply keeps_switchProgress (sub_of hF) | with_reducible apply keeps_switchSlot (sub_of hF) | with_reducible apply keeps_warmSlot (sub_of hF) | split)
  clear_value s1
  iterate 60 (first | done | with_reducible exact hK | with_reducible assumption | with_reducible apply keeps_modSlot (sub_of hF) | with_reducible apply keeps_rollSweep (sub_of hF) | with_reducible apply keeps_rollSlot (sub_of hF) | with_reducible apply keeps_switchSweep (sub_of hF) | with_reducible apply keeps_switchProgress (sub_of hF) | with_reducible apply keeps_switchSlot (sub_of hF) | with_reducible apply keeps_warmSlot (sub_of hF) | split)

theorem keeps_castPassed {F : List Kind} (hF : [Kind.regs, .pitchAct, .dram, .out, .freeCount, .cast, .slots, .ports, .fr, .codec, .chans, .page, .heat, .sb, .loops] ⊆ F) {s₀ : State} (n : Nat) {s : State} (hK : Keeps F s₀ s) :
    Keeps F s₀ (castPassed n s) := by
  unfold castPassed
  with_reducible repeat' first | exact hK | assumption | apply keeps_switchProgress (sub_of hF) | apply keeps_switchSlot (sub_of hF) | split

theorem keeps_cstCtrl {F : List Kind} (hF : [Kind.regs, .pitchAct, .dram, .out, .freeCount, .cast, .slots, .ports, .power, .fr, .codec, .chans, .page, .mc, .heat, .sb, .loops] ⊆ F) {s₀ : State} (v : Word) {s : State} (hK : Keeps F s₀ s) :
    Keeps F s₀ (cstCtrl v s) := by
  unfold cstCtrl
  iterate 60 (first | done | with_reducible exact hK | with_reducible assumption | with_reducible apply keeps_raiseVec (sub_of hF) | with_reducible apply keeps_castResult (sub_of hF) | with_reducible apply keeps_setFld (sub_of hF) | with_reducible apply keeps_castLock (sub_of hF) | with_reducible apply keeps_withDim (sub_of hF) | with_reducible apply keeps_abortRecast (sub_of hF) | with_reducible apply keeps_serveQueued (sub_of hF) | with_reducible apply keeps_startLoad (sub_of hF) | (intro _; intros) | split)

end Sys2Proof.Machine
end

