-- ==== Sys2Proof/Laws/KeepsPower.lean ====
section
/-! SUPPORT. The operations of Machine/Power.lean keep the relation of Laws/Keeps.lean. -/

set_option Elab.async false

namespace Sys2Proof.Machine

theorem coldImage_wf (ph : BitVec 2) : (coldImage ph.toNat).wf = true := by
  have h : ∀ k < 4, (coldImage k).wf = true := by decide +kernel
  exact h _ ph.isLt

theorem wf_foldl_set {α : Type} (l : List α) (f : SMap 32 → α → SMap 32) (hf : ∀ m x, m.wf = true → (f m x).wf = true)
    {m : SMap 32} (h : m.wf = true) : (l.foldl f m).wf = true := by
  induction l generalizing m with
  | nil => exact h
  | cons x l ih => exact ih (hf m x h)

theorem keptRegs_wf (words : List Nat) (fields : List (Nat × Nat × Nat)) (s : State) : (keptRegs words fields s).wf = true :=
  wf_foldl_set _ _ (fun _ _ h => SMap.wf_set _ _ h) (SMap.wf_setAll _ (coldImage_wf _))

theorem keeps_restart {F : List Kind} (hF : [Kind.regs, .pitchAct, .dram, .bar4, .cast, .slots, .ports, .hall, .power, .fr, .mail, .codec, .chans, .page, .mc, .heat, .sb, .loops] ⊆ F) {s₀ : State} (regs : SMap 32) (heat : HeatState) (power : PowerState) (hr : regs.wf = true)
    {s : State} (hK : Keeps F s₀ s) : Keeps F s₀ (restart regs heat power s) :=
  hK.trans ⟨rfl, rfl, List.prefix_refl _, fun w => State.wf_iff.2 ⟨hr, rfl, rfl, rfl⟩, fun k hk => by
    cases k <;> simp only [Kind.same, restart] at * <;> exact absurd (hF (by decide)) hk⟩

theorem keeps_setCause {F : List Kind} (hF : [Kind.regs] ⊆ F) {s₀ : State} (kind : Nat) (source : Nat) (rail : Nat) {s : State} (hK : Keeps F s₀ s) :
    Keeps F s₀ (setCause kind source rail s) := by
  unfold setCause
  with_reducible repeat' first | exact hK | assumption | apply keeps_setReg (sub_of hF)

theorem keeps_setParkWhy {F : List Kind} (hF : [Kind.regs] ⊆ F) {s₀ : State} (w : Nat) {s : State} (hK : Keeps F s₀ s) :
    Keeps F s₀ (setParkWhy w s) := by
  unfold setParkWhy
  with_reducible repeat' first | exact hK | assumption | apply keeps_setFld (sub_of hF)

theorem keeps_noteReset {F : List Kind} (hF : [Kind.regs, .out, .fr] ⊆ F) {s₀ : State}  {s : State} (hK : Keeps F s₀ s) :
    Keeps F s₀ (noteReset s) := by
  unfold noteReset
  with_reducible repeat' first | exact hK | assumption | apply keeps_incSat (sub_of hF) | apply keeps_logEvent (sub_of hF)

theorem keeps_showRail {F : List Kind} (hF : [Kind.regs] ⊆ F) {s₀ : State} (r : Nat) (mv : Nat) {s : State} (hK : Keeps F s₀ s) :
    Keeps F s₀ (showRail r mv s) := by
  unfold showRail
  with_reducible repeat' first | exact hK | assumption | apply keeps_setFld (sub_of hF)

theorem keeps_railInBand {F : List Kind} (hF : [Kind.power] ⊆ F) {s₀ : State} (r : Nat) {s : State} (hK : Keeps F s₀ s) :
    Keeps F s₀ (railInBand r s) := by
  unfold railInBand
  with_reducible repeat' first | exact hK | assumption | apply keeps_modPower (sub_of hF) | split | dsimp only

theorem keeps_sequenceFail {F : List Kind} (hF : [Kind.regs, .out, .power, .fr, .heat] ⊆ F) {s₀ : State} (r : Nat) {s : State} (hK : Keeps F s₀ s) :
    Keeps F s₀ (sequenceFail r s) := by
  unfold sequenceFail
  iterate 60 (first | done | with_reducible exact hK | with_reducible assumption | with_reducible apply keeps_logEvent (sub_of hF) | with_reducible apply keeps_setCause (sub_of hF) | with_reducible apply keeps_modPower (sub_of hF) | with_reducible apply keeps_modHeat (sub_of hF) | with_reducible apply keeps_setParkWhy (sub_of hF) | split | dsimp only)

theorem keeps_coldTime {F : List Kind} (hF : [Kind.linkTime, .fr] ⊆ F) {s₀ s : State} (hK : Keeps F s₀ s) : Keeps F s₀ (coldTime s) :=
  (hK.linkTime (sub_of hF) 0).fr (sub_of hF) FaultState.init

theorem keeps_coldReset {F : List Kind} (hF : [Kind.linkTime, .regs, .pitchAct, .dram, .bar4, .out, .cast, .slots, .ports, .hall, .power, .fr, .mail, .codec, .chans, .page, .mc, .heat, .sb, .loops] ⊆ F) {s₀ : State} (source : Nat) {s : State} (hK : Keeps F s₀ s) :
    Keeps F s₀ (coldReset source s) := by
  have hw := coldImage_wf s.corePh
  unfold coldReset
  generalize coldImage s.corePh.toNat = img at hw ⊢
  apply keeps_coldTime (sub_of hF)
  apply keeps_setCause (sub_of hF)
  exact keeps_restart (sub_of hF) _ _ _ hw (keeps_lenDropAll (sub_of hF) _ hK)

theorem keeps_powerOn {F : List Kind} (hF : [Kind.linkTime, .regs, .pitchAct, .dram, .bar4, .out, .corePh, .cast, .slots, .ports, .hall, .power, .fr, .mail, .codec, .chans, .page, .mc, .heat, .sb, .loops] ⊆ F) {s₀ : State} (ph : BitVec 2) (testen low : Bool) {s : State} (hK : Keeps F s₀ s) :
    Keeps F s₀ (powerOn ph testen low s) := by
  unfold powerOn
  extract_lets source cr s1 p0 s2
  have h1 : Keeps F s₀ s1 := Keeps.corePh (keeps_coldReset (sub_of hF) _ hK) (sub_of hF) _
  clear_value s1
  have h2 : Keeps F s₀ s2 := Keeps.power (h1.regs (sub_of hF) _ fun _ => SMap.wf_set _ _ (coldImage_wf _)) (sub_of hF) _
  clear_value s2
  split
  · exact keeps_setCause (sub_of hF) _ _ _ h2
  · exact h2

theorem keeps_warmReset {F : List Kind} (hF : [Kind.regs, .pitchAct, .dram, .bar4, .out, .cast, .slots, .ports, .hall, .power, .fr, .mail, .codec, .chans, .page, .mc, .heat, .sb, .loops] ⊆ F) {s₀ : State} (kind source rail : Nat) {s : State} (hK : Keeps F s₀ s) :
    Keeps F s₀ (warmReset kind source rail s) := by
  unfold warmReset
  extract_lets s1 p s2 s3
  have h1 : Keeps F s₀ s1 := keeps_lenDropAll (sub_of hF) _ hK
  clear_value s1
  have h2 : Keeps F s₀ s2 := keeps_restart (sub_of hF) _ _ _ (keptRegs_wf _ _ _) h1
  clear_value s2
  have h3 : Keeps F s₀ s3 := by
    unfold s3
    split
    · exact keeps_modPower (sub_of hF) _ (keeps_setBit (sub_of hF) _ _ _ h2)
    · exact h2
  exact keeps_noteReset (sub_of hF) (keeps_setCause (sub_of hF) _ _ _ h3)

theorem keeps_restartTime {F : List Kind} (hF : [Kind.linkTime, .power, .fr] ⊆ F) {s₀ s : State} (hK : Keeps F s₀ s) : Keeps F s₀ (restartTime s) :=
  ((hK.linkTime (sub_of hF) 0).fr (sub_of hF) _).power (sub_of hF) _

theorem keeps_parkExit {F : List Kind} (hF : [Kind.linkTime, .regs, .pitchAct, .dram, .bar4, .out, .cast, .slots, .ports, .hall, .power, .fr, .mail, .codec, .chans, .page, .mc, .heat, .sb, .loops] ⊆ F) {s₀ : State} (source : Nat) {s : State} (hK : Keeps F s₀ s) : Keeps F s₀ (parkExit source s) :=
  keeps_noteReset (sub_of hF) (keeps_setCause (sub_of hF) _ _ _ (keeps_restartTime (sub_of hF)
    (keeps_restart (sub_of hF) _ _ _ (keptRegs_wf _ _ _) hK)))

theorem keeps_parkReset {F : List Kind} (hF : [Kind.regs, .pitchAct, .dram, .bar4, .cast, .slots, .ports, .hall, .power, .fr, .mail, .codec, .chans, .page, .mc, .heat, .sb, .loops] ⊆ F) {s₀ s : State} (hK : Keeps F s₀ s) : Keeps F s₀ (parkReset s) :=
  keeps_restart (sub_of hF) _ _ _ (keptRegs_wf _ _ _) hK

theorem keeps_resetN {F : List Kind} (hF : [Kind.linkTime, .regs, .pitchAct, .dram, .bar4, .out, .cast, .slots, .ports, .hall, .power, .fr, .mail, .codec, .chans, .page, .mc, .heat, .sb, .loops] ⊆ F) {s₀ : State}  {s : State} (hK : Keeps F s₀ s) :
    Keeps F s₀ (resetN s) := by
  unfold resetN
  iterate 60 (first | done | with_reducible exact hK | with_reducible assumption | with_reducible apply keeps_parkExit (sub_of hF) | with_reducible apply keeps_setCause (sub_of hF) | with_reducible apply keeps_modPower (sub_of hF) | with_reducible apply keeps_warmReset (sub_of hF) | split)

theorem keeps_invalidatePlanes {F : List Kind} (hF : [Kind.dram] ⊆ F) {s₀ : State} (n : Nat) {s : State} (hK : Keeps F s₀ s) :
    Keeps F s₀ (invalidatePlanes n s) := by
  unfold invalidatePlanes
  with_reducible repeat' first | exact hK | assumption | apply keeps_dramWrite (sub_of hF) | split

theorem keeps_loseCal {F : List Kind} (hF : [Kind.regs, .slots, .chans] ⊆ F) {s₀ : State} (n : Nat) {s : State} (hK : Keeps F s₀ s) :
    Keeps F s₀ (loseCal n s) := by
  unfold loseCal
  iterate 60 (first | done | with_reducible exact hK | with_reducible assumption | with_reducible apply keeps_modCal (sub_of hF) | with_reducible apply keeps_forAll | with_reducible apply keeps_setReg (sub_of hF) | with_reducible apply keeps_modChan (sub_of hF) | split | (intro _; intros))

theorem keeps_engineReset {F : List Kind} (hF : [Kind.regs, .pitchAct, .dram, .out, .freeCount, .cast, .slots, .ports, .fr, .codec, .chans, .page, .heat, .sb, .loops] ⊆ F) {s₀ : State} (n : Nat) {s : State} (hK : Keeps F s₀ s) :
    Keeps F s₀ (engineReset n s) := by
  unfold engineReset
  iterate 60 (first | done | with_reducible exact hK | with_reducible assumption | with_reducible apply keeps_modPort (sub_of hF) | with_reducible apply keeps_quiesce (sub_of hF) | with_reducible apply keeps_enterDetect (sub_of hF) | with_reducible apply keeps_castPassed (sub_of hF) | with_reducible apply keeps_loseCal (sub_of hF) | with_reducible apply keeps_loopsDepart (sub_of hF) | with_reducible apply keeps_heatDepart (sub_of hF) | with_reducible apply keeps_flushLines (sub_of hF) | split)

theorem keeps_engineResets {F : List Kind} (hF : [Kind.regs, .pitchAct, .dram, .out, .freeCount, .cast, .slots, .ports, .fr, .codec, .chans, .page, .heat, .sb, .loops] ⊆ F) {s₀ : State} (mask : Nat) {s : State} (hK : Keeps F s₀ s) :
    Keeps F s₀ (engineResets mask s) := by
  unfold engineResets
  with_reducible repeat' first | exact hK | assumption | apply keeps_logEvent (sub_of hF) | apply keeps_forAll | apply keeps_engineReset (sub_of hF)

theorem keeps_fabricSlot {F : List Kind} (hF : [Kind.regs, .dram, .out, .slots, .ports] ⊆ F) {s₀ : State} (n : Nat) {s : State} (hK : Keeps F s₀ s) :
    Keeps F s₀ (fabricSlot n s) := by
  unfold fabricSlot
  iterate 60 (first | done | with_reducible exact hK | with_reducible assumption | with_reducible apply keeps_forAll | with_reducible apply keeps_cancelSwap (sub_of hF) | with_reducible apply keeps_cancelCommit (sub_of hF) | with_reducible apply keeps_quietSlot (sub_of hF) | with_reducible apply keeps_modSlot (sub_of hF) | with_reducible apply keeps_stopRaster (sub_of hF) | with_reducible apply keeps_invalidatePlanes (sub_of hF) | with_reducible apply keeps_flushLines (sub_of hF) | split | (intro _; intros) | dsimp only)

theorem keeps_fabricReset {F : List Kind} (hF : [Kind.regs, .dram, .out, .slots, .ports, .power, .fr] ⊆ F) {s₀ : State}  {s : State} (hK : Keeps F s₀ s) :
    Keeps F s₀ (fabricReset s) := by
  unfold fabricReset
  iterate 60 (first | done | with_reducible exact hK | with_reducible assumption | with_reducible apply keeps_modPower (sub_of hF) | with_reducible apply keeps_forAll | with_reducible apply keeps_fabricSlot (sub_of hF) | with_reducible apply keeps_logEvent (sub_of hF))

theorem keeps_fabricDone {F : List Kind} (hF : [Kind.slots, .power] ⊆ F) {s₀ : State}  {s : State} (hK : Keeps F s₀ s) :
    Keeps F s₀ (fabricDone s) := by
  unfold fabricDone
  iterate 60 (first | done | with_reducible exact hK | with_reducible assumption | with_reducible apply keeps_modPower (sub_of hF) | with_reducible apply keeps_forAll | with_reducible apply keeps_modSlot (sub_of hF) | split | (intro _; intros))

theorem keeps_genReset {F : List Kind} (hF : [Kind.regs, .pitchAct, .dram, .bar4, .out, .freeCount, .cast, .slots, .ports, .hall, .power, .fr, .mail, .codec, .chans, .page, .mc, .heat, .sb, .loops] ⊆ F) {s₀ : State} (v : Word) {s : State} (hK : Keeps F s₀ s) :
    Keeps F s₀ (genReset v s) := by
  unfold genReset
  iterate 60 (first | done | with_reducible exact hK | with_reducible assumption | with_reducible apply keeps_logAccess (sub_of hF) | with_reducible apply keeps_warmReset (sub_of hF) | with_reducible apply keeps_fabricReset (sub_of hF) | with_reducible apply keeps_serveQueued (sub_of hF) | with_reducible apply keeps_engineResets (sub_of hF) | split)

theorem keeps_perst {F : List Kind} (hF : [Kind.regs] ⊆ F) {s₀ : State}  {s : State} (hK : Keeps F s₀ s) :
    Keeps F s₀ (perst s) := by
  unfold perst
  with_reducible repeat' first | exact hK | assumption | apply keeps_setRegs (sub_of hF) | split

theorem keeps_supplyDip {F : List Kind} (hF : [Kind.regs, .out, .slots, .ports, .power, .fr] ⊆ F) {s₀ : State} (r : Nat) (mv : Nat) {s : State} (hK : Keeps F s₀ s) :
    Keeps F s₀ (supplyDip r mv s) := by
  unfold supplyDip
  iterate 60 (first | done | with_reducible exact hK | with_reducible assumption | with_reducible apply keeps_setBit (sub_of hF) | with_reducible apply keeps_showRail (sub_of hF) | with_reducible apply keeps_modPower (sub_of hF) | with_reducible apply keeps_incSat (sub_of hF) | with_reducible apply keeps_logEvent (sub_of hF) | with_reducible apply keeps_withDim (sub_of hF) | with_reducible apply keeps_forAll | with_reducible apply keeps_dipNow (sub_of hF) | with_reducible apply keeps_modSlot (sub_of hF) | with_reducible apply keeps_raiseVec (sub_of hF) | split | (intro _; intros))

theorem keeps_railRecovered {F : List Kind} (hF : [Kind.regs, .power] ⊆ F) {s₀ : State} (r : Nat) (mv : Nat) {s : State} (hK : Keeps F s₀ s) :
    Keeps F s₀ (railRecovered r mv s) := by
  unfold railRecovered
  iterate 60 (first | done | with_reducible exact hK | with_reducible assumption | with_reducible apply keeps_showRail (sub_of hF) | with_reducible apply keeps_setBit (sub_of hF) | with_reducible apply keeps_modPower (sub_of hF) | split | dsimp only)

theorem keeps_dipHoldEnd {F : List Kind} (hF : [Kind.regs, .power] ⊆ F) {s₀ : State}  {s : State} (hK : Keeps F s₀ s) :
    Keeps F s₀ (dipHoldEnd s) := by
  unfold dipHoldEnd
  with_reducible repeat' first | exact hK | assumption | apply keeps_setBit (sub_of hF) | apply keeps_modPower (sub_of hF) | split

theorem keeps_railResetLevel {F : List Kind} (hF : [Kind.linkTime, .regs, .pitchAct, .dram, .bar4, .out, .cast, .slots, .ports, .hall, .power, .fr, .mail, .codec, .chans, .page, .mc, .heat, .sb, .loops] ⊆ F) {s₀ : State} (r : Nat) (mv : Nat) {s : State} (hK : Keeps F s₀ s) :
    Keeps F s₀ (railResetLevel r mv s) := by
  unfold railResetLevel
  iterate 60 (first | done | with_reducible exact hK | with_reducible assumption | with_reducible apply keeps_coldReset (sub_of hF) | with_reducible apply keeps_showRail (sub_of hF) | with_reducible apply keeps_warmReset (sub_of hF) | split)

theorem keeps_phaseLimit {F : List Kind} (hF : [Kind.regs, .out, .fr] ⊆ F) {s₀ : State} (ph : Nat) {s : State} (hK : Keeps F s₀ s) :
    Keeps F s₀ (phaseLimit ph s) := by
  unfold phaseLimit
  with_reducible repeat' first | exact hK | assumption | apply keeps_raiseVec (sub_of hF) | apply keeps_logEvent (sub_of hF) | split

theorem keeps_phaseMap {F : List Kind} (hF : [Kind.regs, .out, .fr] ⊆ F) {s₀ : State} (m : Nat) (v : Word) {s : State} (hK : Keeps F s₀ s) :
    Keeps F s₀ (phaseMap m v s) := by
  unfold phaseMap
  iterate 60 (first | done | with_reducible exact hK | with_reducible assumption | with_reducible apply keeps_logAccess (sub_of hF) | with_reducible apply keeps_setReg (sub_of hF) | with_reducible apply keeps_foldl | with_reducible apply keeps_foldl_snd | split | dsimp only)

theorem keeps_dozeClear {F : List Kind} (hF : [Kind.regs, .slots] ⊆ F) {s₀ : State}  {s : State} (hK : Keeps F s₀ s) :
    Keeps F s₀ (dozeClear s) := by
  unfold dozeClear
  iterate 60 (first | done | with_reducible exact hK | with_reducible assumption | with_reducible apply keeps_setFld (sub_of hF) | with_reducible apply keeps_forAll | with_reducible apply keeps_setReg (sub_of hF) | with_reducible apply keeps_modSlot (sub_of hF) | with_reducible apply keeps_foldl | with_reducible apply keeps_foldl_snd | split | (intro _; intros) | dsimp only)

theorem keeps_entryComplete {F : List Kind} (hF : [Kind.regs, .pitchAct, .dram, .bar4, .out, .cast, .slots, .ports, .hall, .power, .fr, .mail, .codec, .chans, .page, .mc, .heat, .sb, .loops] ⊆ F) {s₀ : State}  {s : State} (hK : Keeps F s₀ s) :
    Keeps F s₀ (entryComplete s) := by
  unfold entryComplete
  iterate 60 (first | done | with_reducible exact hK | with_reducible assumption | with_reducible apply keeps_setSt (sub_of hF) | with_reducible apply keeps_modMc (sub_of hF) | with_reducible apply keeps_serveQueued (sub_of hF) | with_reducible apply keeps_raiseVec (sub_of hF) | with_reducible apply keeps_parkReset (sub_of hF) | with_reducible apply keeps_setParkWhy (sub_of hF) | split)

theorem keeps_dozeExit {F : List Kind} (hF : [Kind.regs, .pitchAct, .dram, .out, .freeCount, .slots, .ports, .power, .fr, .page, .mc, .heat, .sb, .loops] ⊆ F) {s₀ : State}  {s : State} (hK : Keeps F s₀ s) :
    Keeps F s₀ (dozeExit s) := by
  unfold dozeExit
  iterate 60 (first | done | with_reducible exact hK | with_reducible assumption | with_reducible apply keeps_helpersUsed (sub_of hF) | with_reducible apply keeps_modMc (sub_of hF) | with_reducible apply keeps_forAll | with_reducible apply keeps_enterDetect (sub_of hF) | with_reducible apply keeps_loopsDozeExit (sub_of hF) | with_reducible apply keeps_dozeClear (sub_of hF) | with_reducible apply keeps_applyAtOnce (sub_of hF) | with_reducible apply keeps_modPower (sub_of hF) | with_reducible apply keeps_setSt (sub_of hF) | with_reducible apply keeps_engageDim (sub_of hF) | with_reducible apply keeps_modSlot (sub_of hF) | with_reducible apply keeps_serveQueued (sub_of hF) | with_reducible apply keeps_raiseVec (sub_of hF) | split | (intro _; intros) | dsimp only)

theorem keeps_wakeEdge {F : List Kind} (hF : [Kind.linkTime, .regs, .pitchAct, .dram, .bar4, .out, .cast, .slots, .ports, .hall, .power, .fr, .mail, .codec, .chans, .page, .mc, .heat, .sb, .loops] ⊆ F) {s₀ : State} (m : Nat) (rising : Bool) {s : State} (hK : Keeps F s₀ s) :
    Keeps F s₀ (wakeEdge m rising s) := by
  unfold wakeEdge
  with_reducible repeat' first | exact hK | assumption | apply keeps_beginExit (sub_of hF) | apply keeps_parkExit (sub_of hF) | split

theorem keeps_thermalPark {F : List Kind} (hF : [Kind.regs, .pitchAct, .dram, .out, .slots, .ports, .power, .fr, .page, .mc, .heat, .sb, .loops] ⊆ F) {s₀ : State}  {s : State} (hK : Keeps F s₀ s) :
    Keeps F s₀ (thermalPark s) := by
  unfold thermalPark
  with_reducible repeat' first | exact hK | assumption | apply keeps_beginEntry (sub_of hF) | split

theorem keeps_wdogWrite {F : List Kind} (hF : [Kind.regs, .power] ⊆ F) {s₀ : State} (v : Word) {s : State} (hK : Keeps F s₀ s) :
    Keeps F s₀ (wdogWrite v s) := by
  unfold wdogWrite
  iterate 60 (first | done | with_reducible exact hK | with_reducible assumption | with_reducible apply keeps_modPower (sub_of hF) | with_reducible apply keeps_setReg (sub_of hF) | split | (intro _; intros) | dsimp only)

theorem keeps_kickWdog {F : List Kind} (hF : [Kind.power] ⊆ F) {s₀ : State} (_v : Word) {s : State} (hK : Keeps F s₀ s) :
    Keeps F s₀ (kickWdog _v s) := by
  unfold kickWdog
  iterate 60 (first | done | with_reducible exact hK | with_reducible assumption | with_reducible apply keeps_modPower (sub_of hF) | split | (intro _; intros) | dsimp only)

end Sys2Proof.Machine
end

