-- ==== Sys2Proof/Laws/KeepsFaults.lean ====
section
/-! SUPPORT. The operations of Machine/Faults.lean keep the relation of Laws/Keeps.lean. -/

set_option Elab.async false

namespace Sys2Proof.Machine

theorem keeps_faultClear {F : List Kind} (hF : [Kind.regs] ⊆ F) {s₀ : State} (v : Word) {s : State} (hK : Keeps F s₀ s) :
    Keeps F s₀ (faultClear v s) := by
  unfold faultClear
  with_reducible repeat' first | exact hK | assumption | apply keeps_forAll | apply keeps_setBit (sub_of hF) | split | (intro _; intros)

theorem keeps_haltWrite {F : List Kind} (hF : [Kind.regs, .out, .slots, .ports] ⊆ F) {s₀ : State} (v : Word) {s : State} (hK : Keeps F s₀ s) :
    Keeps F s₀ (haltWrite v s) := by
  unfold haltWrite
  iterate 60 (first | done | with_reducible exact hK | with_reducible assumption | with_reducible apply keeps_setBit (sub_of hF) | with_reducible apply keeps_lenDropAll (sub_of hF) | with_reducible apply keeps_lenTryAll (sub_of hF) | split)

theorem keeps_logClr {F : List Kind} (hF : [Kind.regs] ⊆ F) {s₀ : State} (v : Word) {s : State} (hK : Keeps F s₀ s) : Keeps F s₀ (logClr v s) := by
  unfold logClr
  split
  · exact hK.regs (sub_of hF) _ fun w => SMap.wf_set _ _ (SMap.wf_clearRange _ _ w)
  · exact hK

theorem keeps_frRelease {F : List Kind} (hF : [Kind.regs, .out, .slots, .fr] ⊆ F) {s₀ : State} (v : Word) {s : State} (hK : Keeps F s₀ s) :
    Keeps F s₀ (frRelease v s) := by
  unfold frRelease
  iterate 60 (first | done | with_reducible exact hK | with_reducible assumption | with_reducible apply keeps_forAll | with_reducible apply keeps_modSlot (sub_of hF) | with_reducible apply keeps_logEvent (sub_of hF) | split | (intro _; intros))

theorem keeps_seizeGoods {F : List Kind} (hF : [Kind.regs, .dram, .out, .ports, .codec, .page, .sb] ⊆ F) {s₀ : State} (q : Party) {s : State} (hK : Keeps F s₀ s) :
    Keeps F s₀ (seizeGoods q s) := by
  unfold seizeGoods
  iterate 60 (first | done | with_reducible exact hK | with_reducible assumption | with_reducible apply keeps_codecSeizeHost (sub_of hF) | with_reducible apply keeps_seizeTallies (sub_of hF) | with_reducible apply keeps_modCam (sub_of hF) | with_reducible apply keeps_invalidatePlanes (sub_of hF) | with_reducible apply keeps_storeLinkLost (sub_of hF) | with_reducible apply keeps_modPort (sub_of hF) | split | (intro _; intros) | dsimp only)

theorem keeps_seize {F : List Kind} (hF : [Kind.regs, .dram, .out, .ports, .fr, .codec, .page, .sb] ⊆ F) {s₀ : State} (q : Party) {s : State} (hK : Keeps F s₀ s) :
    Keeps F s₀ (seize q s) := by
  unfold seize
  iterate 60 (first | done | with_reducible exact hK | with_reducible assumption | with_reducible apply keeps_setBit (sub_of hF) | with_reducible apply keeps_seizeGoods (sub_of hF) | with_reducible apply keeps_setFld (sub_of hF) | with_reducible apply keeps_incSat (sub_of hF) | with_reducible apply keeps_logEvent (sub_of hF))

theorem keeps_graceEnd {F : List Kind} (hF : [Kind.regs, .dram, .out, .ports, .fr, .codec, .page, .sb] ⊆ F) {s₀ : State} (q : Party) {s : State} (hK : Keeps F s₀ s) :
    Keeps F s₀ (graceEnd q s) := by
  unfold graceEnd
  iterate 60 (first | done | with_reducible exact hK | with_reducible assumption | with_reducible apply keeps_seize (sub_of hF) | split | (intro _; intros) | dsimp only)

theorem keeps_frSeize {F : List Kind} (hF : [Kind.regs, .dram, .out, .ports, .fr, .codec, .page, .sb] ⊆ F) {s₀ : State} (v : Word) {s : State} (hK : Keeps F s₀ s) :
    Keeps F s₀ (frSeize v s) := by
  unfold frSeize
  with_reducible repeat' first | exact hK | assumption | apply keeps_seize (sub_of hF) | apply keeps_logEvent (sub_of hF) | split

end Sys2Proof.Machine
end

