-- ==== Sys2Proof/Laws/KeepsFrameBoundary.lean ====
section
/-! SUPPORT. The operations of Machine/FrameBoundary.lean keep the relation of Laws/Keeps.lean. -/

set_option Elab.async false

namespace Sys2Proof.Machine

theorem keeps_cutRaster {F : List Kind} (hF : [Kind.regs, .dram] ⊆ F) {s₀ : State} (n : Nat) (c : SlotCast) (delivered : Nat) {s : State} (hK : Keeps F s₀ s) :
    Keeps F s₀ (cutRaster n c delivered s) := by
  unfold cutRaster
  iterate 60 (first | done | with_reducible exact hK | with_reducible assumption | with_reducible apply keeps_dramWrite (sub_of hF) | with_reducible apply keeps_noteUnder (sub_of hF) | split | (intro _; intros) | dsimp only)

theorem keeps_freezeReach {F : List Kind} (hF : [Kind.regs, .out, .slots, .fr] ⊆ F) {s₀ : State} (n : Nat) {s : State} (hK : Keeps F s₀ s) :
    Keeps F s₀ (freezeReach n s) := by
  unfold freezeReach
  iterate 60 (first | done | with_reducible exact hK | with_reducible assumption | with_reducible apply keeps_raiseVec (sub_of hF) | with_reducible apply keeps_logEvent (sub_of hF) | with_reducible apply keeps_setBit (sub_of hF) | with_reducible apply keeps_modSlot (sub_of hF) | split | dsimp only)

theorem keeps_freezeStep {F : List Kind} (hF : [Kind.regs, .out, .slots, .fr] ⊆ F) {s₀ : State} (n : Nat) (t : FrameTap) {s : State} (hK : Keeps F s₀ s) :
    Keeps F s₀ (freezeStep n t s) := by
  unfold freezeStep
  iterate 60 (first | done | with_reducible exact hK | with_reducible assumption | with_reducible apply keeps_setReg (sub_of hF) | with_reducible apply keeps_modSlot (sub_of hF) | with_reducible apply keeps_setFld (sub_of hF) | with_reducible apply keeps_freezeReach (sub_of hF) | with_reducible apply keeps_incSat (sub_of hF) | split | dsimp only)

theorem keeps_closeTap {F : List Kind} (hF : [Kind.regs, .out, .slots, .fr] ⊆ F) {s₀ : State} (n : Nat) (c : SlotCast) {s : State} (hK : Keeps F s₀ s) : Keeps F s₀ (closeTap n c s) := by
  unfold closeTap
  split
  · exact hK
  · extract_lets t1
    split
    · exact keeps_modSlot (sub_of hF) _ _ hK
    · exact keeps_freezeStep (sub_of hF) _ _ (keeps_modSlot (sub_of hF) _ _ hK)

theorem keeps_judgeRaster {F : List Kind} (hF : [Kind.regs, .out, .slots, .fr] ⊆ F) {s₀ : State} (n : Nat) {s : State} (hK : Keeps F s₀ s) :
    Keeps F s₀ (judgeRaster n s) := by
  unfold judgeRaster
  with_reducible repeat' first | exact hK | assumption | apply keeps_freezeStep (sub_of hF) | apply keeps_modSlot (sub_of hF) | split

theorem keeps_showFrameCounts {F : List Kind} (hF : [Kind.regs, .slots] ⊆ F) {s₀ : State} (n : Nat) (c : SlotCast) {s : State} (hK : Keeps F s₀ s) :
    Keeps F s₀ (showFrameCounts n c s) := by
  unfold showFrameCounts
  iterate 60 (first | done | with_reducible exact hK | with_reducible assumption | with_reducible apply keeps_setFld (sub_of hF) | with_reducible apply keeps_setReg (sub_of hF) | with_reducible apply keeps_setRegs (sub_of hF) | with_reducible apply keeps_modSlot (sub_of hF) | split)

theorem keeps_closeFrame {F : List Kind} (hF : [Kind.regs, .dram, .out, .slots, .fr] ⊆ F) {s₀ : State} (n : Nat) (c : SlotCast) (i : BoundaryIn) {s : State} (hK : Keeps F s₀ s) :
    Keeps F s₀ (closeFrame n c i s) := by
  unfold closeFrame
  iterate 60 (first | done | with_reducible exact hK | with_reducible assumption | with_reducible apply keeps_showFrameCounts (sub_of hF) | with_reducible apply keeps_closeTap (sub_of hF) | with_reducible apply keeps_rasterEnd (sub_of hF) | with_reducible apply keeps_cutRaster (sub_of hF) | split | (intro _; intros) | dsimp only)

theorem keeps_turnFrame {F : List Kind} (hF : [Kind.regs, .slots] ⊆ F) {s₀ : State} (n : Nat) {s : State} (hK : Keeps F s₀ s) :
    Keeps F s₀ (turnFrame n s) := by
  unfold turnFrame
  iterate 60 (first | done | with_reducible exact hK | with_reducible assumption | with_reducible apply keeps_resumeMode (sub_of hF) | with_reducible apply keeps_modSlot (sub_of hF) | split | (intro _; intros) | dsimp only)

theorem keeps_applyDue {F : List Kind} (hF : [Kind.regs, .pitchAct, .dram, .out, .slots, .ports, .fr] ⊆ F) {s₀ : State} (n : Nat) (c : SlotCast) {s : State} (hK : Keeps F s₀ s) :
    Keeps F s₀ (applyDue n c s) := by
  unfold applyDue
  iterate 60 (first | done | with_reducible exact hK | with_reducible assumption | with_reducible apply keeps_releaseSources (sub_of hF) | with_reducible apply keeps_boundaryCommit (sub_of hF) | with_reducible apply keeps_boundarySwaps (sub_of hF) | with_reducible apply keeps_noteHandover (sub_of hF) | with_reducible apply keeps_takeBuffers (sub_of hF) | with_reducible apply keeps_checkActive (sub_of hF) | split | (intro _; intros) | dsimp only)

theorem keeps_endHolds {F : List Kind} (hF : [Kind.regs, .slots] ⊆ F) {s₀ : State} (n : Nat) {s : State} (hK : Keeps F s₀ s) :
    Keeps F s₀ (endHolds n s) := by
  unfold endHolds
  with_reducible repeat' first | exact hK | assumption | apply keeps_endContain (sub_of hF) | apply keeps_modSlot (sub_of hF)

theorem keeps_leaveDim {F : List Kind} (hF : [Kind.slots] ⊆ F) {s₀ : State} (n : Nat) {s : State} (hK : Keeps F s₀ s) :
    Keeps F s₀ (leaveDim n s) := by
  unfold leaveDim
  with_reducible repeat' first | exact hK | assumption | apply keeps_modSlot (sub_of hF) | split

theorem keeps_countHold {F : List Kind} (hF : [Kind.regs, .freeCount] ⊆ F) {s₀ : State} (n : Nat) {s : State} (hK : Keeps F s₀ s) :
    Keeps F s₀ (countHold n s) := by
  unfold countHold
  with_reducible repeat' first | exact hK | assumption | apply keeps_setFld (sub_of hF) | apply keeps_takeFree (sub_of hF) | split | dsimp only

theorem keeps_hallBoundary {F : List Kind} (hF : [Kind.regs, .out, .freeCount, .slots, .fr] ⊆ F) {s₀ : State} (n : Nat) (ready : Bool) {s : State} (hK : Keeps F s₀ s) :
    Keeps F s₀ (hallBoundary n ready s) := by
  unfold hallBoundary
  iterate 60 (first | done | with_reducible exact hK | with_reducible assumption | with_reducible apply keeps_setFld (sub_of hF) | with_reducible apply keeps_modHall (sub_of hF) | with_reducible apply keeps_applyScene (sub_of hF) | with_reducible apply keeps_countHold (sub_of hF) | with_reducible apply keeps_logEvent (sub_of hF) | with_reducible apply keeps_setBit (sub_of hF) | split | dsimp only)

theorem keeps_ceilBoundary {F : List Kind} (hF : [Kind.regs, .pitchAct, .out, .freeCount, .slots, .ports, .fr, .chans, .page] ⊆ F) {s₀ : State} (n : Nat) (c : SlotCast) (before : SlotState) {s : State} (hK : Keeps F s₀ s) :
    Keeps F s₀ (ceilBoundary n c before s) := by
  unfold ceilBoundary
  iterate 60 (first | done | with_reducible exact hK | with_reducible assumption | with_reducible apply keeps_refreshCeil (sub_of hF) | with_reducible apply keeps_takeCeilInputs (sub_of hF) | with_reducible apply keeps_modSlot (sub_of hF) | with_reducible apply keeps_calOpen (sub_of hF) | with_reducible apply keeps_calBoundary (sub_of hF) | split | (intro _; intros) | dsimp only)

theorem keeps_advanceChg {F : List Kind} (hF : [Kind.regs, .slots] ⊆ F) {s₀ : State} (n : Nat) (c : SlotCast) {s : State} (hK : Keeps F s₀ s) :
    Keeps F s₀ (advanceChg n c s).2 := by
  unfold advanceChg
  iterate 60 (first | done | with_reducible exact hK | with_reducible assumption | with_reducible apply keeps_forAll | with_reducible apply keeps_setFld (sub_of hF) | with_reducible apply keeps_modSlot (sub_of hF) | with_reducible apply keeps_ite_snd | with_reducible apply keeps_pair | split | (intro _; intros))

theorem keeps_takeSettings {F : List Kind} (hF : [Kind.slots] ⊆ F) {s₀ : State} (n : Nat) {s : State} (hK : Keeps F s₀ s) :
    Keeps F s₀ (takeSettings n s) := by
  unfold takeSettings
  with_reducible repeat' first | exact hK | assumption | apply keeps_modSlot (sub_of hF)

theorem keeps_openTap {F : List Kind} (hF : [Kind.slots] ⊆ F) {s₀ : State} (n : Nat) (c : SlotCast) (h : HallSlot) (chg : Bool) {s : State} (hK : Keeps F s₀ s) :
    Keeps F s₀ (openTap n c h chg s) := by
  unfold openTap
  iterate 60 (first | done | with_reducible exact hK | with_reducible assumption | with_reducible apply keeps_modSlot (sub_of hF) | split | (intro _; intros) | dsimp only)

theorem keeps_openRaster {F : List Kind} (hF : [Kind.regs, .dram, .slots] ⊆ F) {s₀ : State} (n : Nat) (c : SlotCast) {s : State} (hK : Keeps F s₀ s) :
    Keeps F s₀ (openRaster n c s) := by
  unfold openRaster
  iterate 60 (first | done | with_reducible exact hK | with_reducible assumption | with_reducible apply keeps_startWriteBack (sub_of hF) | with_reducible apply keeps_composeFrame (sub_of hF) | with_reducible apply keeps_modSlot (sub_of hF))

theorem keeps_openArray {F : List Kind} (hF : [Kind.regs, .slots] ⊆ F) {s₀ : State} (n : Nat) (c : SlotCast) {s : State} (hK : Keeps F s₀ s) :
    Keeps F s₀ (openArray n c s) := by
  unfold openArray
  iterate 60 (first | done | with_reducible exact hK | with_reducible assumption | with_reducible apply keeps_setReg (sub_of hF) | with_reducible apply keeps_setTarget (sub_of hF) | with_reducible apply keeps_insertEvents (sub_of hF) | split | (intro _; intros) | dsimp only)

theorem keeps_openLines {F : List Kind} (hF : [Kind.regs, .slots] ⊆ F) {s₀ : State} (n : Nat) {s : State} (hK : Keeps F s₀ s) :
    Keeps F s₀ (openLines n s) := by
  unfold openLines
  iterate 60 (first | done | with_reducible exact hK | with_reducible assumption | with_reducible apply keeps_setTarget (sub_of hF) | with_reducible apply keeps_emptyHeld (sub_of hF) | with_reducible apply keeps_modLines (sub_of hF) | split | (intro _; intros) | dsimp only)

theorem keeps_openFrame {F : List Kind} (hF : [Kind.regs, .dram, .out, .slots, .ports] ⊆ F) {s₀ : State} (n : Nat) (c : SlotCast) (before : SlotState) {s : State} (hK : Keeps F s₀ s) :
    Keeps F s₀ (openFrame n c before s) := by
  unfold openFrame
  iterate 60 (first | done | with_reducible exact hK | with_reducible assumption | with_reducible apply keeps_advanceChg (sub_of hF) | with_reducible apply keeps_openTap (sub_of hF) | with_reducible apply keeps_takeSettings (sub_of hF) | with_reducible apply keeps_markHidden (sub_of hF) | with_reducible apply keeps_modHall (sub_of hF) | with_reducible apply keeps_openRaster (sub_of hF) | with_reducible apply keeps_openArray (sub_of hF) | with_reducible apply keeps_openLines (sub_of hF) | with_reducible apply keeps_lenTry (sub_of hF) | with_reducible apply keeps_modSlot (sub_of hF) | split | (intro _; intros) | dsimp only)

theorem keeps_frameBoundary {F : List Kind} (hF : [Kind.regs, .pitchAct, .dram, .out, .freeCount, .cast, .slots, .ports, .fr, .codec, .chans, .page, .heat, .sb, .loops] ⊆ F) {s₀ : State} (n : Nat) (i : BoundaryIn) {s : State} (hK : Keeps F s₀ s) :
    Keeps F s₀ (frameBoundary n i s) := by
  unfold frameBoundary
  iterate 60 (first | done | with_reducible exact hK | with_reducible assumption | with_reducible apply keeps_castBoundary (sub_of hF) | with_reducible apply keeps_turnFrame (sub_of hF) | with_reducible apply keeps_closeFrame (sub_of hF) | with_reducible apply keeps_ttlBoundary (sub_of hF) | with_reducible apply keeps_applyDue (sub_of hF) | with_reducible apply keeps_leaveDim (sub_of hF) | with_reducible apply keeps_showHall (sub_of hF) | with_reducible apply keeps_hallBoundary (sub_of hF) | with_reducible apply keeps_endHolds (sub_of hF) | with_reducible apply keeps_openFrame (sub_of hF) | with_reducible apply keeps_ceilBoundary (sub_of hF) | split | (intro _; intros) | dsimp only)

end Sys2Proof.Machine
end

