-- ==== Sys2Proof/Laws/KeepsHostBus.lean ====
section
/-! SUPPORT. The operations of Machine/HostBus.lean keep the relation of Laws/Keeps.lean. -/

set_option Elab.async false

namespace Sys2Proof.Machine

theorem keeps_pitchWrite {F : List Kind} (hF : [Kind.regs, .pitchAct, .out, .slots, .fr, .sb] ⊆ F) {s₀ : State} (p : Nat) (w : Nat) (v : Word) {s : State} (hK : Keeps F s₀ s) :
    Keeps F s₀ (pitchWrite p w v s) := by
  unfold pitchWrite
  iterate 60 (first | done | with_reducible exact hK | with_reducible assumption | with_reducible apply keeps_hostPitchGate (sub_of hF) | with_reducible apply keeps_syncPitches (sub_of hF) | with_reducible apply keeps_hostHeader (sub_of hF) | with_reducible apply keeps_jobWrite (sub_of hF) | with_reducible apply keeps_hostPitchWord (sub_of hF) | split | (intro _; intros))

theorem keeps_plainWrite {F : List Kind} (hF : [Kind.regs] ⊆ F) {s₀ : State} (off : Nat) (rw : Word) (w1c : Word) (v : Word) {s : State} (hK : Keeps F s₀ s) :
    Keeps F s₀ (plainWrite off rw w1c v s) := by
  unfold plainWrite
  with_reducible repeat' first | exact hK | assumption | apply keeps_setReg (sub_of hF)

theorem keeps_msixCtrl {F : List Kind} (hF : [Kind.regs, .out] ⊆ F) {s₀ : State} (i : Nat) (v : Word) {s : State} (hK : Keeps F s₀ s) :
    Keeps F s₀ (msixCtrl i v s) := by
  unfold msixCtrl
  iterate 60 (first | done | with_reducible exact hK | with_reducible assumption | with_reducible apply keeps_setReg (sub_of hF) | with_reducible apply keeps_sendVector (sub_of hF) | with_reducible apply keeps_setBit (sub_of hF) | split | dsimp only)

theorem keeps_clampWrite {F : List Kind} (hF : [Kind.regs] ⊆ F) {s₀ : State} (off : Nat) (hi : Nat) (lo : Nat) (a : Nat) (b : Nat) (v : Word) {s : State} (hK : Keeps F s₀ s) :
    Keeps F s₀ (clampWrite off hi lo a b v s) := by
  unfold clampWrite
  with_reducible repeat' first | exact hK | assumption | apply keeps_setFld (sub_of hF)

theorem keeps_trimWrite {F : List Kind} (hF : [Kind.regs, .slots] ⊆ F) {s₀ : State} (n : Nat) (v : Word) {s : State} (hK : Keeps F s₀ s) :
    Keeps F s₀ (trimWrite n v s) := by
  unfold trimWrite
  with_reducible repeat' first | exact hK | assumption | apply keeps_retuneFree (sub_of hF) | apply keeps_setReg (sub_of hF)

theorem keeps_horizonWrite {F : List Kind} (hF : [Kind.regs] ⊆ F) {s₀ : State} (n : Nat) (v : Word) {s : State} (hK : Keeps F s₀ s) :
    Keeps F s₀ (horizonWrite n v s) := by
  unfold horizonWrite
  with_reducible repeat' first | exact hK | assumption | apply keeps_setReg (sub_of hF)

theorem keeps_withCommit {F : List Kind} (hF : [Kind.regs] ⊆ F) {s₀ : State} (n : Nat) (f : State → State) {s : State} (hFf : ∀ y0, Keeps F s₀ y0 → Keeps F s₀ (f y0)) (hK : Keeps F s₀ s) :
    Keeps F s₀ (withCommit n f s) := by
  unfold withCommit
  with_reducible repeat' first | exact hK | assumption | apply keeps_pendWr (sub_of hF) | apply hFf | split

theorem keeps_orderWrite {F : List Kind} (hF : [Kind.regs] ⊆ F) {s₀ : State} (n : Nat) (off : Nat) (v : Word) {s : State} (hK : Keeps F s₀ s) :
    Keeps F s₀ (orderWrite n off v s) := by
  unfold orderWrite
  with_reducible repeat' first | exact hK | assumption | apply keeps_withCommit (sub_of hF) | apply keeps_setReg (sub_of hF) | split | (intro _; intros)

theorem keeps_latchWrite {F : List Kind} (hF : [Kind.regs] ⊆ F) {s₀ : State} (n : Nat) (v : Word) {s : State} (hK : Keeps F s₀ s) :
    Keeps F s₀ (latchWrite n v s) := by
  unfold latchWrite
  with_reducible repeat' first | exact hK | assumption | apply keeps_clampWrite (sub_of hF) | split

theorem keeps_seqWrite {F : List Kind} (hF : [Kind.regs] ⊆ F) {s₀ : State} (n : Nat) (m : Nat) (v : Word) {s : State} (hK : Keeps F s₀ s) :
    Keeps F s₀ (seqWrite n m v s) := by
  unfold seqWrite
  with_reducible repeat' first | exact hK | assumption | apply keeps_slPendWr (sub_of hF) | apply keeps_setFld (sub_of hF) | split

theorem keeps_lbCtrlWrite {F : List Kind} (hF : [Kind.regs] ⊆ F) {s₀ : State} (n : Nat) (v : Word) {s : State} (hK : Keeps F s₀ s) :
    Keeps F s₀ (lbCtrlWrite n v s) := by
  unfold lbCtrlWrite
  with_reducible repeat' first | exact hK | assumption | apply keeps_setReg (sub_of hF)

theorem keeps_lookWrite {F : List Kind} (hF : [Kind.regs] ⊆ F) {s₀ : State} (n : Nat) (v : Word) {s : State} (hK : Keeps F s₀ s) :
    Keeps F s₀ (lookWrite n v s) := by
  unfold lookWrite
  with_reducible repeat' first | exact hK | assumption | apply keeps_clampWrite (sub_of hF)

theorem keeps_ceilWrite {F : List Kind} (hF : [Kind.regs, .slots] ⊆ F) {s₀ : State} (k : Nat) (v : Word) {s : State} (hK : Keeps F s₀ s) :
    Keeps F s₀ (ceilWrite k v s) := by
  unfold ceilWrite
  iterate 60 (first | done | with_reducible exact hK | with_reducible assumption | with_reducible apply keeps_raiseFrame (sub_of hF) | with_reducible apply keeps_clampWrite (sub_of hF) | split | (intro _; intros) | dsimp only)

theorem keeps_hystWrite {F : List Kind} (hF : [Kind.regs, .slots] ⊆ F) {s₀ : State} (n : Nat) (v : Word) {s : State} (hK : Keeps F s₀ s) :
    Keeps F s₀ (hystWrite n v s) := by
  unfold hystWrite
  with_reducible repeat' first | exact hK | assumption | apply keeps_setReg (sub_of hF) | apply keeps_setTarget (sub_of hF) | split

theorem keeps_limitWrite {F : List Kind} (hF : [Kind.regs] ⊆ F) {s₀ : State} (l : Nat) (off : Nat) (lo : Int) (hi : Int) (v : Word) {s : State} (hK : Keeps F s₀ s) :
    Keeps F s₀ (limitWrite l off lo hi v s) := by
  unfold limitWrite
  with_reducible repeat' first | exact hK | assumption | apply keeps_setBit (sub_of hF) | apply keeps_setReg (sub_of hF) | split

theorem keeps_helperWrite {F : List Kind} (hF : [Kind.regs, .out, .fr] ⊆ F) {s₀ : State} (off : Nat) (f : State → State) {s : State} (hFf : ∀ y0, Keeps F s₀ y0 → Keeps F s₀ (f y0)) (hK : Keeps F s₀ s) :
    Keeps F s₀ (helperWrite off f s) := by
  unfold helperWrite
  with_reducible repeat' first | exact hK | assumption | apply keeps_logAccess (sub_of hF) | apply hFf | split

theorem keeps_delayWrite {F : List Kind} (hF : [Kind.regs, .out, .fr, .mc] ⊆ F) {s₀ : State} (i : Nat) (off : Nat) (v : Word) {s : State} (hK : Keeps F s₀ s) :
    Keeps F s₀ (delayWrite i off v s) := by
  unfold delayWrite
  with_reducible repeat' first | exact hK | assumption | apply keeps_helperWrite (sub_of hF) | apply keeps_setDelay (sub_of hF)

theorem keeps_id {F : List Kind} {s₀ s : State} (hK : Keeps F s₀ s) : Keeps F s₀ (id s) := hK

theorem keeps_specialAct {F : List Kind} (hF : [Kind.regs, .pitchAct, .dram, .bar4, .out, .freeCount, .cast, .slots, .ports, .hall, .power, .fr, .mail, .codec, .chans, .page, .mc, .heat, .sb, .loops] ⊆ F) {s₀ : State} {base i off : Nat} {v : Word} {f : State → State} (h : specialAct base i off v = some f)
    {s : State} (hK : Keeps F s₀ s) : Keeps F s₀ (f s) := by
  unfold specialAct at h
  split at h
  all_goals first
    | contradiction
    | skip
  all_goals
    injection h with h
    subst h
    first
    | with_reducible exact hK
    | with_reducible exact keeps_id hK
    | iterate 6 (first | done | with_reducible exact hK | intro _ | with_reducible assumption | (with_reducible first
        | apply keeps_stateReq (sub_of hF) | apply keeps_withDim (sub_of hF) | apply keeps_setReg (sub_of hF) | apply keeps_genReset (sub_of hF) | apply keeps_wdogWrite (sub_of hF)
        | apply keeps_msixCtrl (sub_of hF) | apply keeps_cstCtrl (sub_of hF) | apply keeps_tfCtrl (sub_of hF) | apply keeps_clampWrite (sub_of hF) | apply keeps_trimWrite (sub_of hF)
        | apply keeps_horizonWrite (sub_of hF) | apply keeps_orderWrite (sub_of hF) | apply keeps_withCommit (sub_of hF) | apply keeps_soCtrl (sub_of hF)
        | apply keeps_latchWrite (sub_of hF) | apply keeps_freezeReach (sub_of hF) | apply keeps_slCtrl (sub_of hF) | apply keeps_seqWrite (sub_of hF)
        | apply keeps_lbCtrlWrite (sub_of hF) | apply keeps_lookWrite (sub_of hF) | apply keeps_probeSel (sub_of hF) | apply keeps_lenArm (sub_of hF)
        | apply keeps_lenFaultClear (sub_of hF) | apply keeps_ceilWrite (sub_of hF) | apply keeps_hystWrite (sub_of hF) | apply keeps_snapCtrl (sub_of hF)
        | apply keeps_pageCtrl (sub_of hF) | apply keeps_caCtrl (sub_of hF) | apply keeps_snapWrite (sub_of hF) | apply keeps_leConfigWrite (sub_of hF)
        | apply keeps_leCtrl (sub_of hF) | apply keeps_limitWrite (sub_of hF) | apply keeps_dlyClear (sub_of hF) | apply keeps_coefWrite (sub_of hF) | apply keeps_epCtrl (sub_of hF)
        | apply keeps_plainWrite (sub_of hF) | apply keeps_imuHost (sub_of hF) | apply keeps_camCfg (sub_of hF) | apply keeps_camDirect (sub_of hF)
        | apply keeps_aliveWrite (sub_of hF) | apply keeps_aliveKick (sub_of hF) | apply keeps_casGo (sub_of hF) | apply keeps_writeCdCfg (sub_of hF)
        | apply keeps_codecSubmit (sub_of hF) | apply keeps_codecPop (sub_of hF) | apply keeps_freqWrite (sub_of hF) | apply keeps_helperWrite (sub_of hF)
        | apply keeps_patternRun (sub_of hF) | apply keeps_delayWrite (sub_of hF) | apply keeps_phaseMap (sub_of hF) | apply keeps_logClr (sub_of hF)
        | apply keeps_faultClear (sub_of hF) | apply keeps_haltWrite (sub_of hF) | apply keeps_frRelease (sub_of hF) | apply keeps_frSeize (sub_of hF)
        | apply keeps_doorbell (sub_of hF) | apply keeps_kickWdog (sub_of hF)))

theorem keeps_rowAct {F : List Kind} (hF : [Kind.regs, .pitchAct, .dram, .bar4, .out, .freeCount, .cast, .slots, .ports, .hall, .power, .fr, .mail, .codec, .chans, .page, .mc, .heat, .sb, .loops] ⊆ F) {s₀ : State} (d : RegDef) (i off : Nat) (v : Word) {s : State} (hK : Keeps F s₀ s) :
    Keeps F s₀ (rowAct d i off v s) := by
  unfold rowAct
  cases h : specialAct d.base i off v with
  | some f => exact keeps_specialAct (sub_of hF) h hK
  | none => exact keeps_plainWrite (sub_of hF) _ _ _ _ hK

theorem keeps_registerWrite {F : List Kind} (hF : [Kind.regs, .pitchAct, .dram, .bar4, .out, .freeCount, .cast, .slots, .ports, .hall, .power, .fr, .mail, .codec, .chans, .page, .mc, .heat, .sb, .loops] ⊆ F) {s₀ : State} (off : Nat) (v : Word) {s : State} (hK : Keeps F s₀ s) : Keeps F s₀ (registerWrite off v s) := by
  unfold registerWrite
  split
  · exact keeps_hostWrite (sub_of hF) _ _ _ (fun _ _ h => keeps_rowAct (sub_of hF) _ _ _ _ h) hK
  · exact hK

theorem keeps_specialRead {F : List Kind} (hF : [Kind.regs, .busData] ⊆ F) {s₀ : State} {base i off : Nat} {s : State} {r : Word × State} (h : specialRead base i off s = some r)
    (hK : Keeps F s₀ s) : Keeps F s₀ r.2 := by
  unfold specialRead at h
  split at h
  all_goals first
    | contradiction
    | skip
  all_goals
    injection h with h
    subst h
    with_reducible first
    | exact hK
    | exact keeps_setReg (sub_of hF) _ _ hK
    | exact keeps_probeRead (sub_of hF) _ hK

theorem keeps_registerRead {F : List Kind} (hF : [Kind.regs, .busData] ⊆ F) {s₀ : State} (off : Nat) {s : State} (hK : Keeps F s₀ s) : Keeps F s₀ (registerRead off s).2 := by
  unfold registerRead
  split
  · exact hK
  · refine keeps_ite_snd hK ?_
    split
    · rename_i h
      exact keeps_pair _ (keeps_specialRead (sub_of hF) h hK)
    · exact hK

theorem keeps_hostData {F : List Kind} (hF : [Kind.busData] ⊆ F) {s₀ : State} {x : Word × State} (hK : Keeps F s₀ x.2) : Keeps F s₀ (hostData x) :=
  hK.busData (sub_of hF) _

theorem keeps_bar0Access {F : List Kind} (hF : [Kind.regs, .pitchAct, .dram, .bar4, .busData, .out, .freeCount, .cast, .slots, .ports, .hall, .power, .fr, .mail, .codec, .chans, .page, .mc, .heat, .sb, .loops] ⊆ F) {s₀ : State} (off : Nat) (acc : Access) {s : State} (hK : Keeps F s₀ s) : Keeps F s₀ (bar0Access off acc s) := by
  unfold bar0Access
  extract_lets o
  split
  · apply keeps_hostData (sub_of hF)
    exact keeps_ite_snd hK (keeps_registerRead (sub_of hF) _ hK)
  · split
    · exact keeps_logAccess (sub_of hF) _ _ _ hK
    · split
      · exact keeps_pitchWrite (sub_of hF) _ _ _ hK
      · exact keeps_registerWrite (sub_of hF) _ _ hK

theorem keeps_bar4Access {F : List Kind} (hF : [Kind.regs, .bar4, .busData] ⊆ F) {s₀ : State} (off : Nat) (acc : Access) {s : State} (hK : Keeps F s₀ s) : Keeps F s₀ (bar4Access off acc s) := by
  unfold bar4Access
  split
  · exact keeps_hostData (sub_of hF) hK
  · split
    · exact keeps_setBit (sub_of hF) _ _ _ hK
    · exact hK.bar4 (sub_of hF) _ (SMap.wf_set _ _)

theorem keeps_oddAccess {F : List Kind} (hF : [Kind.regs, .busData, .out, .fr] ⊆ F) {s₀ : State} (bar : Nat) (off : Nat) (acc : Access) {s : State} (hK : Keeps F s₀ s) :
    Keeps F s₀ (oddAccess bar off acc s) := by
  unfold oddAccess
  iterate 60 (first | done | with_reducible exact hK | with_reducible assumption | with_reducible apply keeps_logAccess (sub_of hF) | split | (intro _; intros) | dsimp only | with_reducible refine Keeps.busData ?_ (sub_of hF) _)

end Sys2Proof.Machine
end

