-- ==== Sys2Proof/Laws/KeepsExec.lean ====
section
/-! SUPPORT. Every command keeps the relation of Laws/Keeps.lean between the state it runs on and the state it gives. -/

set_option Elab.async false

namespace Sys2Proof.Machine

theorem keeps_execSetPointUpdate {s sN : State} (n : Slot) (us : Nat)
    (h : execSetPointUpdate n us s = .next sN) : Keeps [Kind.regs, .slots] s sN := by
  have hF := List.Subset.refl [Kind.regs, .slots]
  have hK := Keeps.refl [Kind.regs, .slots] s
  unfold execSetPointUpdate at h
  injection h with h
  subst h
  with_reducible repeat' first | exact hK | assumption | apply keeps_moveSupply (sub_of hF) | split

theorem keeps_execLenArmWrite {s sN : State} (v : Word)
    (h : execLenArmWrite v s = .next sN) : Keeps [Kind.regs, .out, .slots, .ports, .fr] s sN := by
  have hF := List.Subset.refl [Kind.regs, .out, .slots, .ports, .fr]
  have hK := Keeps.refl [Kind.regs, .out, .slots, .ports, .fr] s
  unfold execLenArmWrite at h
  injection h with h
  subst h
  with_reducible repeat' first | exact hK | assumption | apply keeps_hostWrite (sub_of hF) | apply keeps_lenArm (sub_of hF)

theorem keeps_execLenFaultClear {s sN : State} (v : Word)
    (h : execLenFaultClear v s = .next sN) : Keeps [Kind.regs, .out, .slots, .ports, .fr] s sN := by
  have hF := List.Subset.refl [Kind.regs, .out, .slots, .ports, .fr]
  have hK := Keeps.refl [Kind.regs, .out, .slots, .ports, .fr] s
  unfold execLenFaultClear at h
  injection h with h
  subst h
  with_reducible repeat' first | exact hK | assumption | apply keeps_hostWrite (sub_of hF) | apply keeps_lenFaultClear (sub_of hF)

theorem keeps_execLenAssertWaitEnd {s sN : State} (p : Port)
    (h : execLenAssertWaitEnd p s = .next sN) : Keeps [Kind.ports] s sN := by
  have hF := List.Subset.refl [Kind.ports]
  have hK := Keeps.refl [Kind.ports] s
  unfold execLenAssertWaitEnd at h
  injection h with h
  subst h
  with_reducible repeat' first | exact hK | assumption | apply keeps_modPort (sub_of hF)

theorem keeps_execMeasuredPoint {s sN : State} (n : Slot) (phi : PhaseWord) (t : LinkTime) (omega : BitVec 40) (beta : BitVec 64)
    (h : execMeasuredPoint n phi t omega beta s = .next sN) : Keeps [Kind.slots] s sN := by
  have hF := List.Subset.refl [Kind.slots]
  have hK := Keeps.refl [Kind.slots] s
  unfold execMeasuredPoint at h
  injection h with h
  subst h
  with_reducible repeat' first | exact hK | assumption | apply keeps_whileUp (sub_of hF) | apply keeps_modReck (sub_of hF) | split | (intro _; intros)

theorem keeps_execSyncEdge {s sN : State} (m : SyncId) (falling : Bool) (t : LinkTime)
    (h : execSyncEdge m falling t s = .next sN) : Keeps [Kind.regs, .slots] s sN := by
  have hF := List.Subset.refl [Kind.regs, .slots]
  have hK := Keeps.refl [Kind.regs, .slots] s
  unfold execSyncEdge at h
  injection h with h
  subst h
  with_reducible repeat' first | exact hK | assumption | apply keeps_whileUp (sub_of hF) | apply keeps_forAll | apply keeps_syncEdgeSlot (sub_of hF) | apply keeps_setReg (sub_of hF) | split | (intro _; intros)

theorem keeps_execSyncMissed {s sN : State} (n : Slot)
    (h : execSyncMissed n s = .next sN) : Keeps [Kind.regs, .out, .slots, .fr] s sN := by
  have hF := List.Subset.refl [Kind.regs, .out, .slots, .fr]
  have hK := Keeps.refl [Kind.regs, .out, .slots, .fr] s
  unfold execSyncMissed at h
  injection h with h
  subst h
  iterate 60 (first | done | with_reducible exact hK | with_reducible assumption | with_reducible apply keeps_whileUp (sub_of hF) | with_reducible apply keeps_syncMissed (sub_of hF) | split | (intro _; intros) | dsimp only)

theorem keeps_execLaneRoomInsert {s sN : State} (n : Slot) (lane : Lane)
    (h : execLaneRoomInsert n lane s = .next sN) : Keeps [Kind.slots] s sN := by
  have hF := List.Subset.refl [Kind.slots]
  have hK := Keeps.refl [Kind.slots] s
  unfold execLaneRoomInsert at h
  injection h with h
  subst h
  iterate 60 (first | done | with_reducible exact hK | with_reducible assumption | with_reducible apply keeps_whileUp (sub_of hF) | with_reducible apply keeps_laneRoom (sub_of hF) | split | (intro _; intros) | dsimp only)

theorem keeps_execTableSwap {s sN : State} (n : Slot) (v : Word)
    (h : execTableSwap n v s = .next sN) : Keeps [Kind.regs, .pitchAct, .out, .slots, .fr] s sN := by
  have hF := List.Subset.refl [Kind.regs, .pitchAct, .out, .slots, .fr]
  have hK := Keeps.refl [Kind.regs, .pitchAct, .out, .slots, .fr] s
  unfold execTableSwap at h
  injection h with h
  subst h
  with_reducible repeat' first | exact hK | assumption | apply keeps_hostWrite (sub_of hF) | apply keeps_slCtrl (sub_of hF)

theorem keeps_execSwapCancel {s sN : State} (n : Slot) (v : Word)
    (h : execSwapCancel n v s = .next sN) : Keeps [Kind.regs, .pitchAct, .out, .slots, .fr] s sN := by
  have hF := List.Subset.refl [Kind.regs, .pitchAct, .out, .slots, .fr]
  have hK := Keeps.refl [Kind.regs, .pitchAct, .out, .slots, .fr] s
  unfold execSwapCancel at h
  injection h with h
  subst h
  with_reducible repeat' first | exact hK | assumption | apply keeps_hostWrite (sub_of hF) | apply keeps_slCtrl (sub_of hF)

theorem keeps_execSliceStart {s sN : State} (run : SliceRun)
    (h : execSliceStart run s = .next sN) : Keeps [Kind.regs, .dram, .slots] s sN := by
  have hF := List.Subset.refl [Kind.regs, .dram, .slots]
  have hK := Keeps.refl [Kind.regs, .dram, .slots] s
  unfold execSliceStart at h
  injection h with h
  subst h
  iterate 60 (first | done | with_reducible exact hK | with_reducible assumption | with_reducible apply keeps_whileUp (sub_of hF) | with_reducible apply keeps_sliceStart (sub_of hF) | split | (intro _; intros) | dsimp only)

theorem keeps_execSliceDeadline {s sN : State} (n : Slot) (cut : SliceCut)
    (h : execSliceDeadline n cut s = .next sN) : Keeps [Kind.regs, .dram, .slots] s sN := by
  have hF := List.Subset.refl [Kind.regs, .dram, .slots]
  have hK := Keeps.refl [Kind.regs, .dram, .slots] s
  unfold execSliceDeadline at h
  injection h with h
  subst h
  iterate 60 (first | done | with_reducible exact hK | with_reducible assumption | with_reducible apply keeps_whileUp (sub_of hF) | with_reducible apply keeps_sliceDeadline (sub_of hF) | split | (intro _; intros) | dsimp only)

theorem keeps_execLevelStale {s sN : State} (n : Slot)
    (h : execLevelStale n s = .next sN) : Keeps [Kind.regs, .out, .slots, .fr] s sN := by
  have hF := List.Subset.refl [Kind.regs, .out, .slots, .fr]
  have hK := Keeps.refl [Kind.regs, .out, .slots, .fr] s
  unfold execLevelStale at h
  injection h with h
  subst h
  iterate 60 (first | done | with_reducible exact hK | with_reducible assumption | with_reducible apply keeps_whileUp (sub_of hF) | with_reducible apply keeps_levelStale (sub_of hF) | split | (intro _; intros) | dsimp only)

theorem keeps_execCompressorBlockDone {s sN : State} (c : CodecClient)
    (h : execCompressorBlockDone c s = .next sN) : Keeps [Kind.regs, .dram] s sN := by
  have hF := List.Subset.refl [Kind.regs, .dram]
  have hK := Keeps.refl [Kind.regs, .dram] s
  unfold execCompressorBlockDone at h
  try dsimp only at h
  repeat' split at h
  all_goals first | contradiction | skip
  all_goals
    injection h with h
    subst h
    iterate 60 (first | done | with_reducible exact hK | with_reducible assumption | with_reducible apply keeps_whileUp (sub_of hF) | with_reducible apply keeps_packPlaneBlock (sub_of hF) | split | (intro _; intros) | dsimp only)

theorem keeps_execRawBusy {s sN : State} (n : Slot) (entry : Nat) (block : Nat)
    (h : execRawBusy n entry block s = .next sN) : Keeps [Kind.regs] s sN := by
  have hF := List.Subset.refl [Kind.regs]
  have hK := Keeps.refl [Kind.regs] s
  unfold execRawBusy at h
  injection h with h
  subst h
  iterate 60 (first | done | with_reducible exact hK | with_reducible assumption | with_reducible apply keeps_whileUp (sub_of hF) | with_reducible apply keeps_rawBusy (sub_of hF) | split | (intro _; intros) | dsimp only)

theorem keeps_execDecompressorBlockDone {s sN : State} (c : CodecClient)
    (h : execDecompressorBlockDone c s = .next sN) : Keeps [Kind.regs, .out, .fr] s sN := by
  have hF := List.Subset.refl [Kind.regs, .out, .fr]
  have hK := Keeps.refl [Kind.regs, .out, .fr] s
  unfold execDecompressorBlockDone at h
  try dsimp only at h
  repeat' split at h
  all_goals first | contradiction | skip
  all_goals
    injection h with h
    subst h
    with_reducible repeat' first | exact hK | assumption | apply keeps_whileUp (sub_of hF) | apply keeps_planeBlockDone (sub_of hF) | apply keeps_layerUnitDone (sub_of hF)

theorem keeps_execLineEnter {s sN : State} (n : Slot)
    (h : execLineEnter n s = .next sN) : Keeps [Kind.regs, .slots] s sN := by
  have hF := List.Subset.refl [Kind.regs, .slots]
  have hK := Keeps.refl [Kind.regs, .slots] s
  unfold execLineEnter at h
  injection h with h
  subst h
  iterate 60 (first | done | with_reducible exact hK | with_reducible assumption | with_reducible apply keeps_whileUp (sub_of hF) | with_reducible apply keeps_lineEnter (sub_of hF) | split | (intro _; intros) | dsimp only)

theorem keeps_execRenderComplete {s sN : State} (n : Slot) (run : RenderRun)
    (h : execRenderComplete n run s = .next sN) : Keeps [Kind.regs, .dram, .slots, .mc] s sN := by
  have hF := List.Subset.refl [Kind.regs, .dram, .slots, .mc]
  have hK := Keeps.refl [Kind.regs, .dram, .slots, .mc] s
  unfold execRenderComplete at h
  injection h with h
  subst h
  iterate 60 (first | done | with_reducible exact hK | with_reducible assumption | with_reducible apply keeps_whileUp (sub_of hF) | with_reducible apply keeps_renderComplete (sub_of hF) | split | (intro _; intros) | dsimp only)

theorem keeps_execStrikeTest {s sN : State} (n : Slot) (entry : Nat)
    (h : execStrikeTest n entry s = .next sN) : Keeps [Kind.regs, .slots] s sN := by
  have hF := List.Subset.refl [Kind.regs, .slots]
  have hK := Keeps.refl [Kind.regs, .slots] s
  unfold execStrikeTest at h
  injection h with h
  subst h
  iterate 60 (first | done | with_reducible exact hK | with_reducible assumption | with_reducible apply keeps_whileUp (sub_of hF) | with_reducible apply keeps_strikeTest (sub_of hF) | split | (intro _; intros) | dsimp only)

theorem keeps_execRerenderComplete {s sN : State} (n : Slot) (run : RenderRun)
    (h : execRerenderComplete n run s = .next sN) : Keeps [Kind.regs, .dram, .slots, .mc] s sN := by
  have hF := List.Subset.refl [Kind.regs, .dram, .slots, .mc]
  have hK := Keeps.refl [Kind.regs, .dram, .slots, .mc] s
  unfold execRerenderComplete at h
  injection h with h
  subst h
  iterate 60 (first | done | with_reducible exact hK | with_reducible assumption | with_reducible apply keeps_whileUp (sub_of hF) | with_reducible apply keeps_rerenderComplete (sub_of hF) | split | (intro _; intros) | dsimp only)

theorem keeps_execLineDark {s sN : State} (n : Slot) (entry : Nat)
    (h : execLineDark n entry s = .next sN) : Keeps [Kind.regs, .slots] s sN := by
  have hF := List.Subset.refl [Kind.regs, .slots]
  have hK := Keeps.refl [Kind.regs, .slots] s
  unfold execLineDark at h
  injection h with h
  subst h
  iterate 60 (first | done | with_reducible exact hK | with_reducible assumption | with_reducible apply keeps_whileUp (sub_of hF) | with_reducible apply keeps_lineDark (sub_of hF) | split | (intro _; intros) | dsimp only)

theorem keeps_execLineWindowEnd {s sN : State} (n : Slot) (entry : Nat)
    (h : execLineWindowEnd n entry s = .next sN) : Keeps [Kind.regs, .slots] s sN := by
  have hF := List.Subset.refl [Kind.regs, .slots]
  have hK := Keeps.refl [Kind.regs, .slots] s
  unfold execLineWindowEnd at h
  injection h with h
  subst h
  iterate 60 (first | done | with_reducible exact hK | with_reducible assumption | with_reducible apply keeps_whileUp (sub_of hF) | with_reducible apply keeps_lineEnd (sub_of hF) | split | (intro _; intros) | dsimp only)

theorem keeps_execCapture {s sN : State} (n : Slot) (v : Word)
    (h : execCapture n v s = .next sN) : Keeps [Kind.regs, .out, .slots, .fr] s sN := by
  have hF := List.Subset.refl [Kind.regs, .out, .slots, .fr]
  have hK := Keeps.refl [Kind.regs, .out, .slots, .fr] s
  unfold execCapture at h
  injection h with h
  subst h
  with_reducible repeat' first | exact hK | assumption | apply keeps_hostWrite (sub_of hF) | apply keeps_probeSel (sub_of hF)

theorem keeps_execProbeDataRead {s sN : State} (n : Slot)
    (h : execProbeDataRead n s = .next sN) : Keeps [Kind.regs, .busData] s sN := by
  have hF := List.Subset.refl [Kind.regs, .busData]
  have hK := Keeps.refl [Kind.regs, .busData] s
  unfold execProbeDataRead at h
  injection h with h
  subst h
  with_reducible repeat' first | exact hK | assumption | apply keeps_probeRead (sub_of hF) | split | dsimp only | refine Keeps.busData ?_ (sub_of hF) _

theorem keeps_execTrackerUpdate {s sN : State} (l : LoopId) (t : LinkTime) (theta : BitVec 16)
    (h : execTrackerUpdate l t theta s = .next sN) : Keeps [Kind.regs, .out, .slots, .fr, .loops] s sN := by
  have hF := List.Subset.refl [Kind.regs, .out, .slots, .fr, .loops]
  have hK := Keeps.refl [Kind.regs, .out, .slots, .fr, .loops] s
  unfold execTrackerUpdate at h
  injection h with h
  subst h
  with_reducible repeat' first | exact hK | assumption | apply keeps_trackerUpdate (sub_of hF)

theorem keeps_execPickoffLost {s sN : State} (n : Slot)
    (h : execPickoffLost n s = .next sN) : Keeps [Kind.regs, .out, .slots, .fr, .loops] s sN := by
  have hF := List.Subset.refl [Kind.regs, .out, .slots, .fr, .loops]
  have hK := Keeps.refl [Kind.regs, .out, .slots, .fr, .loops] s
  unfold execPickoffLost at h
  injection h with h
  subst h
  iterate 60 (first | done | with_reducible exact hK | with_reducible assumption | with_reducible apply keeps_whileUp (sub_of hF) | with_reducible apply keeps_pickoffGone (sub_of hF) | split | (intro _; intros) | dsimp only)

theorem keeps_execDriveSample {s sN : State} (l : LoopId)
    (h : execDriveSample l s = .next sN) : Keeps [Kind.out, .ports, .power] s sN := by
  have hF := List.Subset.refl [Kind.out, .ports, .power]
  have hK := Keeps.refl [Kind.out, .ports, .power] s
  unfold execDriveSample at h
  injection h with h
  subst h
  with_reducible repeat' first | exact hK | assumption | apply keeps_driveSample (sub_of hF)

theorem keeps_execLoopSample {s sN : State} (l : LoopId) (t : LinkTime) (y0 : BitVec 64) (y1 : BitVec 64) (delay : BitVec 16)
    (h : execLoopSample l t y0 y1 delay s = .next sN) : Keeps [Kind.regs, .dram, .out, .slots, .ports, .power, .fr, .loops] s sN := by
  have hF := List.Subset.refl [Kind.regs, .dram, .out, .slots, .ports, .power, .fr, .loops]
  have hK := Keeps.refl [Kind.regs, .dram, .out, .slots, .ports, .power, .fr, .loops] s
  unfold execLoopSample at h
  injection h with h
  subst h
  iterate 60 (first | done | with_reducible exact hK | with_reducible assumption | with_reducible apply keeps_loopSample (sub_of hF) | split | (intro _; intros) | dsimp only)

theorem keeps_execLoopEnable {s sN : State} (l : LoopId)
    (h : execLoopEnable l s = .next sN) : Keeps [Kind.regs, .out, .slots, .ports, .power, .fr, .loops] s sN := by
  have hF := List.Subset.refl [Kind.regs, .out, .slots, .ports, .power, .fr, .loops]
  have hK := Keeps.refl [Kind.regs, .out, .slots, .ports, .power, .fr, .loops] s
  unfold execLoopEnable at h
  injection h with h
  subst h
  with_reducible repeat' first | exact hK | assumption | apply keeps_hostWrite (sub_of hF) | apply keeps_leCtrl (sub_of hF)

theorem keeps_execLoopClose {s sN : State} (l : LoopId)
    (h : execLoopClose l s = .next sN) : Keeps [Kind.regs, .out, .slots, .ports, .power, .fr, .loops] s sN := by
  have hF := List.Subset.refl [Kind.regs, .out, .slots, .ports, .power, .fr, .loops]
  have hK := Keeps.refl [Kind.regs, .out, .slots, .ports, .power, .fr, .loops] s
  unfold execLoopClose at h
  injection h with h
  subst h
  with_reducible repeat' first | exact hK | assumption | apply keeps_hostWrite (sub_of hF) | apply keeps_leCtrl (sub_of hF)

theorem keeps_execLoopOpen {s sN : State} (l : LoopId)
    (h : execLoopOpen l s = .next sN) : Keeps [Kind.regs, .out, .slots, .ports, .power, .fr, .loops] s sN := by
  have hF := List.Subset.refl [Kind.regs, .out, .slots, .ports, .power, .fr, .loops]
  have hK := Keeps.refl [Kind.regs, .out, .slots, .ports, .power, .fr, .loops] s
  unfold execLoopOpen at h
  injection h with h
  subst h
  with_reducible repeat' first | exact hK | assumption | apply keeps_hostWrite (sub_of hF) | apply keeps_leCtrl (sub_of hF)

theorem keeps_execLoopDisable {s sN : State} (l : LoopId)
    (h : execLoopDisable l s = .next sN) : Keeps [Kind.regs, .out, .slots, .ports, .power, .fr, .loops] s sN := by
  have hF := List.Subset.refl [Kind.regs, .out, .slots, .ports, .power, .fr, .loops]
  have hK := Keeps.refl [Kind.regs, .out, .slots, .ports, .power, .fr, .loops] s
  unfold execLoopDisable at h
  injection h with h
  subst h
  with_reducible repeat' first | exact hK | assumption | apply keeps_hostWrite (sub_of hF) | apply keeps_leCtrl (sub_of hF)

theorem keeps_execCoefWrite {s sN : State} (l : LoopId) (config : Bool) (w : Fin 256) (v : Word)
    (h : execCoefWrite l config w v s = .next sN) : Keeps [Kind.regs, .out, .fr, .loops] s sN := by
  have hF := List.Subset.refl [Kind.regs, .out, .fr, .loops]
  have hK := Keeps.refl [Kind.regs, .out, .fr, .loops] s
  unfold execCoefWrite at h
  injection h with h
  subst h
  with_reducible repeat' first | exact hK | assumption | apply keeps_hostWrite (sub_of hF) | apply keeps_leConfigWrite (sub_of hF) | apply keeps_coefWrite (sub_of hF) | split

theorem keeps_execDlyMaxClear {s sN : State} (l : LoopId)
    (h : execDlyMaxClear l s = .next sN) : Keeps [Kind.regs, .out, .fr] s sN := by
  have hF := List.Subset.refl [Kind.regs, .out, .fr]
  have hK := Keeps.refl [Kind.regs, .out, .fr] s
  unfold execDlyMaxClear at h
  injection h with h
  subst h
  with_reducible repeat' first | exact hK | assumption | apply keeps_hostWrite (sub_of hF) | apply keeps_dlyClear (sub_of hF)

theorem keeps_execLoopSrcLost {s sN : State} (l : LoopId)
    (h : execLoopSrcLost l s = .next sN) : Keeps [Kind.regs, .out, .slots, .fr, .loops] s sN := by
  have hF := List.Subset.refl [Kind.regs, .out, .slots, .fr, .loops]
  have hK := Keeps.refl [Kind.regs, .out, .slots, .fr, .loops] s
  unfold execLoopSrcLost at h
  injection h with h
  subst h
  with_reducible repeat' first | exact hK | assumption | apply keeps_loopSrcLost (sub_of hF)

theorem keeps_execReckonStep {s sN : State} (t : LinkTime)
    (h : execReckonStep t s = .next sN) : Keeps [Kind.linkTime, .regs, .dram, .out, .slots, .ports, .fr, .loops] s sN := by
  have hF := List.Subset.refl [Kind.linkTime, .regs, .dram, .out, .slots, .ports, .fr, .loops]
  have hK := Keeps.refl [Kind.linkTime, .regs, .dram, .out, .slots, .ports, .fr, .loops] s
  unfold execReckonStep at h
  injection h with h
  subst h
  iterate 60 (first | done | with_reducible exact hK | with_reducible assumption | with_reducible apply keeps_whilePowered (sub_of hF) | with_reducible apply keeps_reckonStep (sub_of hF) | split | (intro _; intros) | dsimp only)

theorem keeps_execTake {s sN : State} (v : Word)
    (h : execTake v s = .next sN) : Keeps [Kind.regs, .out, .freeCount, .slots, .fr, .chans] s sN := by
  have hF := List.Subset.refl [Kind.regs, .out, .freeCount, .slots, .fr, .chans]
  have hK := Keeps.refl [Kind.regs, .out, .freeCount, .slots, .fr, .chans] s
  unfold execTake at h
  injection h with h
  subst h
  with_reducible repeat' first | exact hK | assumption | apply keeps_hostWrite (sub_of hF) | apply keeps_snapCtrl (sub_of hF)

theorem keeps_execRestore {s sN : State} (v : Word)
    (h : execRestore v s = .next sN) : Keeps [Kind.regs, .out, .freeCount, .slots, .fr, .chans] s sN := by
  have hF := List.Subset.refl [Kind.regs, .out, .freeCount, .slots, .fr, .chans]
  have hK := Keeps.refl [Kind.regs, .out, .freeCount, .slots, .fr, .chans] s
  unfold execRestore at h
  injection h with h
  subst h
  with_reducible repeat' first | exact hK | assumption | apply keeps_hostWrite (sub_of hF) | apply keeps_snapCtrl (sub_of hF)

theorem keeps_execStore {s sN : State} (v : Word)
    (h : execStore v s = .next sN) : Keeps [Kind.regs, .out, .fr, .page] s sN := by
  have hF := List.Subset.refl [Kind.regs, .out, .fr, .page]
  have hK := Keeps.refl [Kind.regs, .out, .fr, .page] s
  unfold execStore at h
  injection h with h
  subst h
  with_reducible repeat' first | exact hK | assumption | apply keeps_hostWrite (sub_of hF) | apply keeps_pageCtrl (sub_of hF)

theorem keeps_execPageStoreDone {s sN : State} (linkLost : Bool)
    (h : execPageStoreDone linkLost s = .next sN) : Keeps [Kind.regs, .out, .ports, .page] s sN := by
  have hF := List.Subset.refl [Kind.regs, .out, .ports, .page]
  have hK := Keeps.refl [Kind.regs, .out, .ports, .page] s
  unfold execPageStoreDone at h
  injection h with h
  subst h
  iterate 60 (first | done | with_reducible exact hK | with_reducible assumption | with_reducible apply keeps_endStore (sub_of hF) | with_reducible apply keeps_tearPage (sub_of hF) | split | (intro _; intros) | dsimp only)

theorem keeps_execResetEst {s sN : State} (n : Slot) (v : Word)
    (h : execResetEst n v s = .next sN) : Keeps [Kind.regs, .out, .slots, .fr] s sN := by
  have hF := List.Subset.refl [Kind.regs, .out, .slots, .fr]
  have hK := Keeps.refl [Kind.regs, .out, .slots, .fr] s
  unfold execResetEst at h
  injection h with h
  subst h
  with_reducible repeat' first | exact hK | assumption | apply keeps_hostWrite (sub_of hF) | apply keeps_caCtrl (sub_of hF)

theorem keeps_execLedgerUpdate {s sN : State} (i : LedgerIn)
    (h : execLedgerUpdate i s = .next sN) : Keeps [Kind.regs, .out, .freeCount, .ports, .heat] s sN := by
  have hF := List.Subset.refl [Kind.regs, .out, .freeCount, .ports, .heat]
  have hK := Keeps.refl [Kind.regs, .out, .freeCount, .ports, .heat] s
  unfold execLedgerUpdate at h
  injection h with h
  subst h
  with_reducible repeat' first | exact hK | assumption | apply keeps_noteState (sub_of hF) | apply keeps_ledgerUpdate (sub_of hF)

theorem keeps_execEngineSensorFailed {s sN : State} (p : Port) (sensor : Fin 32)
    (h : execEngineSensorFailed p sensor s = .next sN) : Keeps [Kind.freeCount, .heat] s sN := by
  have hF := List.Subset.refl [Kind.freeCount, .heat]
  have hK := Keeps.refl [Kind.freeCount, .heat] s
  unfold execEngineSensorFailed at h
  injection h with h
  subst h
  iterate 60 (first | done | with_reducible exact hK | with_reducible assumption | with_reducible apply keeps_sensorFailed (sub_of hF) | split | (intro _; intros) | dsimp only)

theorem keeps_execSensorSuspect {s sN : State} (k : Nat)
    (h : execSensorSuspect k s = .next sN) : Keeps [Kind.regs, .out, .fr, .heat] s sN := by
  have hF := List.Subset.refl [Kind.regs, .out, .fr, .heat]
  have hK := Keeps.refl [Kind.regs, .out, .fr, .heat] s
  unfold execSensorSuspect at h
  injection h with h
  subst h
  with_reducible repeat' first | exact hK | assumption | apply keeps_sensorSuspect (sub_of hF)

theorem keeps_execSensorTrusted {s sN : State} (k : Nat)
    (h : execSensorTrusted k s = .next sN) : Keeps [Kind.regs, .heat] s sN := by
  have hF := List.Subset.refl [Kind.regs, .heat]
  have hK := Keeps.refl [Kind.regs, .heat] s
  unfold execSensorTrusted at h
  injection h with h
  subst h
  with_reducible repeat' first | exact hK | assumption | apply keeps_sensorTrusted (sub_of hF)

theorem keeps_execThrottleStep {s sN : State} (ladder : Fin 9)
    (h : execThrottleStep ladder s = .next sN) : Keeps [Kind.regs, .out, .slots, .fr, .heat] s sN := by
  have hF := List.Subset.refl [Kind.regs, .out, .slots, .fr, .heat]
  have hK := Keeps.refl [Kind.regs, .out, .slots, .fr, .heat] s
  unfold execThrottleStep at h
  injection h with h
  subst h
  with_reducible repeat' first | exact hK | assumption | apply keeps_throttleStep (sub_of hF)

theorem keeps_execFreezeEnd {s sN : State} (ladder : Fin 9)
    (h : execFreezeEnd ladder s = .next sN) : Keeps [Kind.regs, .heat] s sN := by
  have hF := List.Subset.refl [Kind.regs, .heat]
  have hK := Keeps.refl [Kind.regs, .heat] s
  unfold execFreezeEnd at h
  injection h with h
  subst h
  with_reducible repeat' first | exact hK | assumption | apply keeps_freezeEnd (sub_of hF)

theorem keeps_execThermalCrit {s sN : State} 
    (h : execThermalCrit  s = .next sN) : Keeps [Kind.regs, .out, .fr, .heat] s sN := by
  have hF := List.Subset.refl [Kind.regs, .out, .fr, .heat]
  have hK := Keeps.refl [Kind.regs, .out, .fr, .heat] s
  unfold execThermalCrit at h
  injection h with h
  subst h
  with_reducible repeat' first | exact hK | assumption | apply keeps_noteState (sub_of hF) | apply keeps_logEvent (sub_of hF) | apply keeps_markTrip (sub_of hF) | apply keeps_modHeat (sub_of hF) | split | (intro _; intros)

theorem keeps_execLaserOvertemp {s sN : State} (n : Slot)
    (h : execLaserOvertemp n s = .next sN) : Keeps [Kind.regs, .out, .slots, .ports, .fr, .heat] s sN := by
  have hF := List.Subset.refl [Kind.regs, .out, .slots, .ports, .fr, .heat]
  have hK := Keeps.refl [Kind.regs, .out, .slots, .ports, .fr, .heat] s
  unfold execLaserOvertemp at h
  injection h with h
  subst h
  with_reducible repeat' first | exact hK | assumption | apply keeps_noteState (sub_of hF) | apply keeps_laserOvertemp (sub_of hF)

theorem keeps_execPowerLimitApply {s sN : State} 
    (h : execPowerLimitApply  s = .next sN) : Keeps [Kind.heat] s sN := by
  have hF := List.Subset.refl [Kind.heat]
  have hK := Keeps.refl [Kind.heat] s
  unfold execPowerLimitApply at h
  injection h with h
  subst h
  with_reducible repeat' first | exact hK | assumption | apply keeps_modHeat (sub_of hF) | split

theorem keeps_execPowerLimitLift {s sN : State} 
    (h : execPowerLimitLift  s = .next sN) : Keeps [Kind.heat] s sN := by
  have hF := List.Subset.refl [Kind.heat]
  have hK := Keeps.refl [Kind.heat] s
  unfold execPowerLimitLift at h
  injection h with h
  subst h
  with_reducible repeat' first | exact hK | assumption | apply keeps_modHeat (sub_of hF) | split

theorem keeps_execPowerLimit {s sN : State} 
    (h : execPowerLimit  s = .next sN) : Keeps [Kind.regs, .out, .fr] s sN := by
  have hF := List.Subset.refl [Kind.regs, .out, .fr]
  have hK := Keeps.refl [Kind.regs, .out, .fr] s
  unfold execPowerLimit at h
  injection h with h
  subst h
  with_reducible repeat' first | exact hK | assumption | apply keeps_raiseVec (sub_of hF) | apply keeps_logEvent (sub_of hF) | apply keeps_setBit (sub_of hF) | split

theorem keeps_execCompressStream {s sN : State} (v : Word)
    (h : execCompressStream v s = .next sN) : Keeps [Kind.regs, .out, .fr, .codec] s sN := by
  have hF := List.Subset.refl [Kind.regs, .out, .fr, .codec]
  have hK := Keeps.refl [Kind.regs, .out, .fr, .codec] s
  unfold execCompressStream at h
  injection h with h
  subst h
  with_reducible repeat' first | exact hK | assumption | apply keeps_hostWrite (sub_of hF) | apply keeps_codecSubmit (sub_of hF)

theorem keeps_execDecompressStream {s sN : State} (v : Word)
    (h : execDecompressStream v s = .next sN) : Keeps [Kind.regs, .out, .fr, .codec] s sN := by
  have hF := List.Subset.refl [Kind.regs, .out, .fr, .codec]
  have hK := Keeps.refl [Kind.regs, .out, .fr, .codec] s
  unfold execDecompressStream at h
  injection h with h
  subst h
  with_reducible repeat' first | exact hK | assumption | apply keeps_hostWrite (sub_of hF) | apply keeps_codecSubmit (sub_of hF)

theorem keeps_execCompressBlock {s sN : State} (v : Word)
    (h : execCompressBlock v s = .next sN) : Keeps [Kind.regs, .out, .fr, .codec] s sN := by
  have hF := List.Subset.refl [Kind.regs, .out, .fr, .codec]
  have hK := Keeps.refl [Kind.regs, .out, .fr, .codec] s
  unfold execCompressBlock at h
  injection h with h
  subst h
  with_reducible repeat' first | exact hK | assumption | apply keeps_hostWrite (sub_of hF) | apply keeps_codecSubmit (sub_of hF)

theorem keeps_execResume {s sN : State} (v : Word)
    (h : execResume v s = .next sN) : Keeps [Kind.regs, .out, .fr, .codec] s sN := by
  have hF := List.Subset.refl [Kind.regs, .out, .fr, .codec]
  have hK := Keeps.refl [Kind.regs, .out, .fr, .codec] s
  unfold execResume at h
  injection h with h
  subst h
  with_reducible repeat' first | exact hK | assumption | apply keeps_hostWrite (sub_of hF) | apply keeps_codecSubmit (sub_of hF)

theorem keeps_execDecompressBlock {s sN : State} (v : Word)
    (h : execDecompressBlock v s = .next sN) : Keeps [Kind.regs, .out, .fr, .codec] s sN := by
  have hF := List.Subset.refl [Kind.regs, .out, .fr, .codec]
  have hK := Keeps.refl [Kind.regs, .out, .fr, .codec] s
  unfold execDecompressBlock at h
  injection h with h
  subst h
  with_reducible repeat' first | exact hK | assumption | apply keeps_hostWrite (sub_of hF) | apply keeps_codecSubmit (sub_of hF)

theorem keeps_execJobStart {s sN : State} 
    (h : execJobStart  s = .next sN) : Keeps [Kind.regs, .out, .codec] s sN := by
  have hF := List.Subset.refl [Kind.regs, .out, .codec]
  have hK := Keeps.refl [Kind.regs, .out, .codec] s
  unfold execJobStart at h
  injection h with h
  subst h
  iterate 60 (first | done | with_reducible exact hK | with_reducible assumption | with_reducible apply keeps_whileUp (sub_of hF) | with_reducible apply keeps_codecStart (sub_of hF) | split | (intro _; intros) | dsimp only)

theorem keeps_execJobComplete {s sN : State} 
    (h : execJobComplete  s = .next sN) : Keeps [Kind.regs, .dram, .out, .codec] s sN := by
  have hF := List.Subset.refl [Kind.regs, .dram, .out, .codec]
  have hK := Keeps.refl [Kind.regs, .dram, .out, .codec] s
  unfold execJobComplete at h
  injection h with h
  subst h
  iterate 60 (first | done | with_reducible exact hK | with_reducible assumption | with_reducible apply keeps_whileUp (sub_of hF) | with_reducible apply keeps_codecComplete (sub_of hF) | split | (intro _; intros) | dsimp only)

theorem keeps_execDonePop {s sN : State} (v : Word)
    (h : execDonePop v s = .next sN) : Keeps [Kind.regs, .out, .fr, .codec] s sN := by
  have hF := List.Subset.refl [Kind.regs, .out, .fr, .codec]
  have hK := Keeps.refl [Kind.regs, .out, .fr, .codec] s
  unfold execDonePop at h
  injection h with h
  subst h
  with_reducible repeat' first | exact hK | assumption | apply keeps_hostWrite (sub_of hF) | apply keeps_codecPop (sub_of hF)

theorem keeps_execCommit {s sN : State} (n : Slot) (v : Word)
    (h : execCommit n v s = .next sN) : Keeps [Kind.regs, .pitchAct, .out, .slots, .fr] s sN := by
  have hF := List.Subset.refl [Kind.regs, .pitchAct, .out, .slots, .fr]
  have hK := Keeps.refl [Kind.regs, .pitchAct, .out, .slots, .fr] s
  unfold execCommit at h
  injection h with h
  subst h
  with_reducible repeat' first | exact hK | assumption | apply keeps_hostWrite (sub_of hF) | apply keeps_soCtrl (sub_of hF)

theorem keeps_execModeChangeRequest {s sN : State} (n : Slot) (v : Word)
    (h : execModeChangeRequest n v s = .next sN) : Keeps [Kind.regs, .pitchAct, .out, .slots, .fr] s sN := by
  have hF := List.Subset.refl [Kind.regs, .pitchAct, .out, .slots, .fr]
  have hK := Keeps.refl [Kind.regs, .pitchAct, .out, .slots, .fr] s
  unfold execModeChangeRequest at h
  injection h with h
  subst h
  with_reducible repeat' first | exact hK | assumption | apply keeps_hostWrite (sub_of hF) | apply keeps_soCtrl (sub_of hF)

theorem keeps_execCancel {s sN : State} (n : Slot) (v : Word)
    (h : execCancel n v s = .next sN) : Keeps [Kind.regs, .pitchAct, .out, .slots, .fr] s sN := by
  have hF := List.Subset.refl [Kind.regs, .pitchAct, .out, .slots, .fr]
  have hK := Keeps.refl [Kind.regs, .pitchAct, .out, .slots, .fr] s
  unfold execCancel at h
  injection h with h
  subst h
  with_reducible repeat' first | exact hK | assumption | apply keeps_hostWrite (sub_of hF) | apply keeps_soCtrl (sub_of hF)

theorem keeps_execRealign {s sN : State} (n : Slot) (v : Word)
    (h : execRealign n v s = .next sN) : Keeps [Kind.regs, .pitchAct, .dram, .out, .slots, .ports, .fr] s sN := by
  have hF := List.Subset.refl [Kind.regs, .pitchAct, .dram, .out, .slots, .ports, .fr]
  have hK := Keeps.refl [Kind.regs, .pitchAct, .dram, .out, .slots, .ports, .fr] s
  unfold execRealign at h
  injection h with h
  subst h
  with_reducible repeat' first | exact hK | assumption | apply keeps_hostWrite (sub_of hF) | apply keeps_tfCtrl (sub_of hF)

theorem keeps_execWritebackComplete {s sN : State} (n : Slot)
    (h : execWritebackComplete n s = .next sN) : Keeps [Kind.regs, .out, .slots] s sN := by
  have hF := List.Subset.refl [Kind.regs, .out, .slots]
  have hK := Keeps.refl [Kind.regs, .out, .slots] s
  unfold execWritebackComplete at h
  injection h with h
  subst h
  iterate 60 (first | done | with_reducible exact hK | with_reducible assumption | with_reducible apply keeps_whileUp (sub_of hF) | with_reducible apply keeps_writebackComplete (sub_of hF) | split | (intro _; intros) | dsimp only)

theorem keeps_execPacketDiscard {s sN : State} (p : Port) (why : DiscardWhy)
    (h : execPacketDiscard p why s = .next sN) : Keeps [Kind.regs, .pitchAct, .dram, .out, .slots, .ports, .fr, .page, .heat, .loops] s sN := by
  have hF := List.Subset.refl [Kind.regs, .pitchAct, .dram, .out, .slots, .ports, .fr, .page, .heat, .loops]
  have hK := Keeps.refl [Kind.regs, .pitchAct, .dram, .out, .slots, .ports, .fr, .page, .heat, .loops] s
  unfold execPacketDiscard at h
  injection h with h
  subst h
  with_reducible repeat' first | exact hK | assumption | apply keeps_whileUp (sub_of hF) | apply keeps_packetDiscard (sub_of hF)

theorem keeps_execReadData {s sN : State} (p : Port) (tag : Byte) (addr : BitVec 16) (status : Byte) (data : List Byte)
    (h : execReadData p tag addr status data s = .next sN) : Keeps [Kind.regs, .out, .ports, .fr, .page] s sN := by
  have hF := List.Subset.refl [Kind.regs, .out, .ports, .fr, .page]
  have hK := Keeps.refl [Kind.regs, .out, .ports, .fr, .page] s
  unfold execReadData at h
  injection h with h
  subst h
  with_reducible repeat' first | exact hK | assumption | apply keeps_readData (sub_of hF)

theorem keeps_execWriteDone {s sN : State} (p : Port) (tag : Byte) (status : Byte)
    (h : execWriteDone p tag status s = .next sN) : Keeps [Kind.out, .ports, .page] s sN := by
  have hF := List.Subset.refl [Kind.out, .ports, .page]
  have hK := Keeps.refl [Kind.out, .ports, .page] s
  unfold execWriteDone at h
  injection h with h
  subst h
  with_reducible repeat' first | exact hK | assumption | apply keeps_writeDone (sub_of hF)

theorem keeps_execDescWriteTimeout {s sN : State} (p : Port)
    (h : execDescWriteTimeout p s = .next sN) : Keeps [Kind.regs, .out, .ports, .page] s sN := by
  have hF := List.Subset.refl [Kind.regs, .out, .ports, .page]
  have hK := Keeps.refl [Kind.regs, .out, .ports, .page] s
  unfold execDescWriteTimeout at h
  injection h with h
  subst h
  with_reducible repeat' first | exact hK | assumption | apply keeps_modPort (sub_of hF) | apply keeps_endStore (sub_of hF) | split | dsimp only

theorem keeps_execBindAck {s sN : State} (p : Port) (bindId : BitVec 16)
    (h : execBindAck p bindId s = .next sN) : Keeps [Kind.regs, .pitchAct, .dram, .out, .freeCount, .slots, .ports, .fr, .chans, .loops] s sN := by
  have hF := List.Subset.refl [Kind.regs, .pitchAct, .dram, .out, .freeCount, .slots, .ports, .fr, .chans, .loops]
  have hK := Keeps.refl [Kind.regs, .pitchAct, .dram, .out, .freeCount, .slots, .ports, .fr, .chans, .loops] s
  unfold execBindAck at h
  injection h with h
  subst h
  with_reducible repeat' first | exact hK | assumption | apply keeps_withDim (sub_of hF) | apply keeps_bindAck (sub_of hF)

theorem keeps_execBindTimeout {s sN : State} (p : Port)
    (h : execBindTimeout p s = .next sN) : Keeps [Kind.regs, .pitchAct, .dram, .out, .slots, .ports, .fr, .page, .heat, .loops] s sN := by
  have hF := List.Subset.refl [Kind.regs, .pitchAct, .dram, .out, .slots, .ports, .fr, .page, .heat, .loops]
  have hK := Keeps.refl [Kind.regs, .pitchAct, .dram, .out, .slots, .ports, .fr, .page, .heat, .loops] s
  unfold execBindTimeout at h
  injection h with h
  subst h
  with_reducible repeat' first | exact hK | assumption | apply keeps_lose (sub_of hF) | split

theorem keeps_execDetectComplete {s sN : State} (p : Port)
    (h : execDetectComplete p s = .next sN) : Keeps [Kind.regs, .out, .ports] s sN := by
  have hF := List.Subset.refl [Kind.regs, .out, .ports]
  have hK := Keeps.refl [Kind.regs, .out, .ports] s
  unfold execDetectComplete at h
  injection h with h
  subst h
  with_reducible repeat' first | exact hK | assumption | apply keeps_detectComplete (sub_of hF)

theorem keeps_execTrainFlit {s sN : State} (p : Port) (step : Byte) (lanes : Byte)
    (h : execTrainFlit p step lanes s = .next sN) : Keeps [Kind.regs, .out, .ports] s sN := by
  have hF := List.Subset.refl [Kind.regs, .out, .ports]
  have hK := Keeps.refl [Kind.regs, .out, .ports] s
  unfold execTrainFlit at h
  injection h with h
  subst h
  with_reducible repeat' first | exact hK | assumption | apply keeps_trainFlit (sub_of hF)

theorem keeps_execTrainTimeout {s sN : State} (p : Port)
    (h : execTrainTimeout p s = .next sN) : Keeps [Kind.regs, .out, .ports] s sN := by
  have hF := List.Subset.refl [Kind.regs, .out, .ports]
  have hK := Keeps.refl [Kind.regs, .out, .ports] s
  unfold execTrainTimeout at h
  injection h with h
  subst h
  with_reducible repeat' first | exact hK | assumption | apply keeps_trainTimeout (sub_of hF)

theorem keeps_execTimeEcho {s sN : State} (p : Port) (t1 : BitVec 64) (t2 : BitVec 64) (t3 : BitVec 64) (t4 : BitVec 64)
    (h : execTimeEcho p t1 t2 t3 t4 s = .next sN) : Keeps [Kind.regs, .pitchAct, .dram, .out, .slots, .ports, .fr, .page, .heat, .loops] s sN := by
  have hF := List.Subset.refl [Kind.regs, .pitchAct, .dram, .out, .slots, .ports, .fr, .page, .heat, .loops]
  have hK := Keeps.refl [Kind.regs, .pitchAct, .dram, .out, .slots, .ports, .fr, .page, .heat, .loops] s
  unfold execTimeEcho at h
  injection h with h
  subst h
  with_reducible repeat' first | exact hK | assumption | apply keeps_timeEcho (sub_of hF)

theorem keeps_execTimeAck {s sN : State} (p : Port) (minLead : BitVec 16)
    (h : execTimeAck p minLead s = .next sN) : Keeps [Kind.regs, .out, .ports] s sN := by
  have hF := List.Subset.refl [Kind.regs, .out, .ports]
  have hK := Keeps.refl [Kind.regs, .out, .ports] s
  unfold execTimeAck at h
  injection h with h
  subst h
  with_reducible repeat' first | exact hK | assumption | apply keeps_whileUp (sub_of hF) | apply keeps_timeAck (sub_of hF)

theorem keeps_execProbeSeriesTimer {s sN : State} (p : Port)
    (h : execProbeSeriesTimer p s = .next sN) : Keeps [Kind.out, .ports] s sN := by
  have hF := List.Subset.refl [Kind.out, .ports]
  have hK := Keeps.refl [Kind.out, .ports] s
  unfold execProbeSeriesTimer at h
  injection h with h
  subst h
  with_reducible repeat' first | exact hK | assumption | apply keeps_whileUp (sub_of hF) | apply keeps_probeNow (sub_of hF)

theorem keeps_execPresenceLost {s sN : State} (p : Port)
    (h : execPresenceLost p s = .next sN) : Keeps [Kind.regs, .pitchAct, .dram, .out, .slots, .ports, .fr, .page, .heat, .loops] s sN := by
  have hF := List.Subset.refl [Kind.regs, .pitchAct, .dram, .out, .slots, .ports, .fr, .page, .heat, .loops]
  have hK := Keeps.refl [Kind.regs, .pitchAct, .dram, .out, .slots, .ports, .fr, .page, .heat, .loops] s
  unfold execPresenceLost at h
  injection h with h
  subst h
  iterate 60 (first | done | with_reducible exact hK | with_reducible assumption | with_reducible apply keeps_lose (sub_of hF) | with_reducible apply keeps_setBit (sub_of hF) | split | (intro _; intros) | dsimp only)

theorem keeps_execPresenceAsserted {s sN : State} (p : Port)
    (h : execPresenceAsserted p s = .next sN) : Keeps [Kind.regs, .out, .ports, .fr] s sN := by
  have hF := List.Subset.refl [Kind.regs, .out, .ports, .fr]
  have hK := Keeps.refl [Kind.regs, .out, .ports, .fr] s
  unfold execPresenceAsserted at h
  injection h with h
  subst h
  iterate 60 (first | done | with_reducible exact hK | with_reducible assumption | with_reducible apply keeps_retryBind (sub_of hF) | with_reducible apply keeps_endHold (sub_of hF) | with_reducible apply keeps_setBit (sub_of hF) | split | (intro _; intros) | dsimp only)

theorem keeps_execHeartbeat {s sN : State} (p : Port) (_t : LinkTime) (state : Byte) (_bindId : BitVec 16) (rxErr : BitVec 16)
    (h : execHeartbeat p _t state _bindId rxErr s = .next sN) : Keeps [Kind.regs, .pitchAct, .dram, .out, .slots, .ports, .fr, .page, .heat, .loops] s sN := by
  have hF := List.Subset.refl [Kind.regs, .pitchAct, .dram, .out, .slots, .ports, .fr, .page, .heat, .loops]
  have hK := Keeps.refl [Kind.regs, .pitchAct, .dram, .out, .slots, .ports, .fr, .page, .heat, .loops] s
  unfold execHeartbeat at h
  injection h with h
  subst h
  with_reducible repeat' first | exact hK | assumption | apply keeps_whileUp (sub_of hF) | apply keeps_heartbeat (sub_of hF)

theorem keeps_execHeartbeatMiss {s sN : State} (p : Port)
    (h : execHeartbeatMiss p s = .next sN) : Keeps [Kind.regs, .pitchAct, .dram, .out, .slots, .ports, .fr, .page, .heat, .loops] s sN := by
  have hF := List.Subset.refl [Kind.regs, .pitchAct, .dram, .out, .slots, .ports, .fr, .page, .heat, .loops]
  have hK := Keeps.refl [Kind.regs, .pitchAct, .dram, .out, .slots, .ports, .fr, .page, .heat, .loops] s
  unfold execHeartbeatMiss at h
  injection h with h
  subst h
  with_reducible repeat' first | exact hK | assumption | apply keeps_whileUp (sub_of hF) | apply keeps_heartbeatMiss (sub_of hF)

theorem keeps_execLostHoldEnd {s sN : State} (p : Port)
    (h : execLostHoldEnd p s = .next sN) : Keeps [Kind.regs, .out, .ports] s sN := by
  have hF := List.Subset.refl [Kind.regs, .out, .ports]
  have hK := Keeps.refl [Kind.regs, .out, .ports] s
  unfold execLostHoldEnd at h
  injection h with h
  subst h
  with_reducible repeat' first | exact hK | assumption | apply keeps_enterDetect (sub_of hF) | split

theorem keeps_execQuiesceAck {s sN : State} (p : Port)
    (h : execQuiesceAck p s = .next sN) : Keeps [Kind.regs, .out, .ports] s sN := by
  have hF := List.Subset.refl [Kind.regs, .out, .ports]
  have hK := Keeps.refl [Kind.regs, .out, .ports] s
  unfold execQuiesceAck at h
  injection h with h
  subst h
  with_reducible repeat' first | exact hK | assumption | apply keeps_quiesced (sub_of hF) | split

theorem keeps_execQuiesceTimeout {s sN : State} (p : Port)
    (h : execQuiesceTimeout p s = .next sN) : Keeps [Kind.regs, .pitchAct, .dram, .out, .slots, .ports, .fr, .page, .heat, .loops] s sN := by
  have hF := List.Subset.refl [Kind.regs, .pitchAct, .dram, .out, .slots, .ports, .fr, .page, .heat, .loops]
  have hK := Keeps.refl [Kind.regs, .pitchAct, .dram, .out, .slots, .ports, .fr, .page, .heat, .loops] s
  unfold execQuiesceTimeout at h
  injection h with h
  subst h
  with_reducible repeat' first | exact hK | assumption | apply keeps_lose (sub_of hF) | split

theorem keeps_execLeave {s sN : State} (p : Port) (_reason : Byte)
    (h : execLeave p _reason s = .next sN) : Keeps [Kind.regs, .pitchAct, .dram, .out, .slots, .ports, .fr, .page, .heat, .loops] s sN := by
  have hF := List.Subset.refl [Kind.regs, .pitchAct, .dram, .out, .slots, .ports, .fr, .page, .heat, .loops]
  have hK := Keeps.refl [Kind.regs, .pitchAct, .dram, .out, .slots, .ports, .fr, .page, .heat, .loops] s
  unfold execLeave at h
  injection h with h
  subst h
  iterate 60 (first | done | with_reducible exact hK | with_reducible assumption | with_reducible apply keeps_whileUp (sub_of hF) | with_reducible apply keeps_quiesced (sub_of hF) | with_reducible apply keeps_lose (sub_of hF) | split | (intro _; intros) | dsimp only)

theorem keeps_execQuiesce {s sN : State} (p : Port) (v : Word)
    (h : execQuiesce p v s = .next sN) : Keeps [Kind.regs, .pitchAct, .dram, .out, .slots, .ports, .fr, .page, .heat, .loops] s sN := by
  have hF := List.Subset.refl [Kind.regs, .pitchAct, .dram, .out, .slots, .ports, .fr, .page, .heat, .loops]
  have hK := Keeps.refl [Kind.regs, .pitchAct, .dram, .out, .slots, .ports, .fr, .page, .heat, .loops] s
  unfold execQuiesce at h
  injection h with h
  subst h
  with_reducible repeat' first | exact hK | assumption | apply keeps_hostWrite (sub_of hF) | apply keeps_epCtrl (sub_of hF)

theorem keeps_execRetry {s sN : State} (p : Port) (v : Word)
    (h : execRetry p v s = .next sN) : Keeps [Kind.regs, .pitchAct, .dram, .out, .slots, .ports, .fr, .page, .heat, .loops] s sN := by
  have hF := List.Subset.refl [Kind.regs, .pitchAct, .dram, .out, .slots, .ports, .fr, .page, .heat, .loops]
  have hK := Keeps.refl [Kind.regs, .pitchAct, .dram, .out, .slots, .ports, .fr, .page, .heat, .loops] s
  unfold execRetry at h
  injection h with h
  subst h
  with_reducible repeat' first | exact hK | assumption | apply keeps_hostWrite (sub_of hF) | apply keeps_epCtrl (sub_of hF)

theorem keeps_execProbe {s sN : State} (p : Port) (v : Word)
    (h : execProbe p v s = .next sN) : Keeps [Kind.regs, .pitchAct, .dram, .out, .slots, .ports, .fr, .page, .heat, .loops] s sN := by
  have hF := List.Subset.refl [Kind.regs, .pitchAct, .dram, .out, .slots, .ports, .fr, .page, .heat, .loops]
  have hK := Keeps.refl [Kind.regs, .pitchAct, .dram, .out, .slots, .ports, .fr, .page, .heat, .loops] s
  unfold execProbe at h
  injection h with h
  subst h
  with_reducible repeat' first | exact hK | assumption | apply keeps_hostWrite (sub_of hF) | apply keeps_epCtrl (sub_of hF)

theorem keeps_execSense {s sN : State} (p : Port) (k : SensePkt)
    (h : execSense p k s = .next sN) : Keeps [Kind.regs, .pitchAct, .dram, .out, .slots, .ports, .fr, .page, .heat, .loops] s sN := by
  have hF := List.Subset.refl [Kind.regs, .pitchAct, .dram, .out, .slots, .ports, .fr, .page, .heat, .loops]
  have hK := Keeps.refl [Kind.regs, .pitchAct, .dram, .out, .slots, .ports, .fr, .page, .heat, .loops] s
  unfold execSense at h
  injection h with h
  subst h
  with_reducible repeat' first | exact hK | assumption | apply keeps_whileUp (sub_of hF) | apply keeps_senseTake (sub_of hF) | apply keeps_senseReject (sub_of hF) | split | (intro _; intros)

theorem keeps_execLaserSupplyOverv {s sN : State} (n : Slot) (mv : BitVec 16)
    (h : execLaserSupplyOverv n mv s = .next sN) : Keeps [Kind.regs, .pitchAct, .dram, .out, .slots, .ports, .fr, .page, .heat, .loops] s sN := by
  have hF := List.Subset.refl [Kind.regs, .pitchAct, .dram, .out, .slots, .ports, .fr, .page, .heat, .loops]
  have hK := Keeps.refl [Kind.regs, .pitchAct, .dram, .out, .slots, .ports, .fr, .page, .heat, .loops] s
  unfold execLaserSupplyOverv at h
  injection h with h
  subst h
  with_reducible repeat' first | exact hK | assumption | apply keeps_supplyOverv (sub_of hF)

theorem keeps_execSignatureRecord {s sN : State} (n : Slot) (disturb : Word)
    (h : execSignatureRecord n disturb s = .next sN) : Keeps [Kind.regs, .out, .slots, .ports, .fr] s sN := by
  have hF := List.Subset.refl [Kind.regs, .out, .slots, .ports, .fr]
  have hK := Keeps.refl [Kind.regs, .out, .slots, .ports, .fr] s
  unfold execSignatureRecord at h
  injection h with h
  subst h
  with_reducible repeat' first | exact hK | assumption | apply keeps_whilePowered (sub_of hF) | apply keeps_signatureRecord (sub_of hF)

theorem keeps_execHallStore {s sN : State} 
    (h : execHallStore  s = .next sN) : Keeps [Kind.regs, .out, .hall, .fr] s sN := by
  have hF := List.Subset.refl [Kind.regs, .out, .hall, .fr]
  have hK := Keeps.refl [Kind.regs, .out, .hall, .fr] s
  unfold execHallStore at h
  injection h with h
  subst h
  with_reducible repeat' first | exact hK | assumption | apply keeps_whilePowered (sub_of hF) | apply keeps_forAll | apply keeps_showHall (sub_of hF) | apply keeps_logEvent (sub_of hF) | split | (intro _; intros) | dsimp only | refine Keeps.hall ?_ (sub_of hF) _

theorem keeps_execNop {s sN : State} (q : SportReq)
    (h : execNop q s = .next sN) : Keeps [Kind.regs, .out, .hall] s sN := by
  have hF := List.Subset.refl [Kind.regs, .out, .hall]
  have hK := Keeps.refl [Kind.regs, .out, .hall] s
  unfold execNop at h
  injection h with h
  subst h
  with_reducible repeat' first | exact hK | assumption | apply keeps_sportRequest (sub_of hF) | apply keeps_sportNop (sub_of hF)

theorem keeps_execGetSig {s sN : State} (q : SportReq)
    (h : execGetSig q s = .next sN) : Keeps [Kind.regs, .out, .freeCount, .hall] s sN := by
  have hF := List.Subset.refl [Kind.regs, .out, .freeCount, .hall]
  have hK := Keeps.refl [Kind.regs, .out, .freeCount, .hall] s
  unfold execGetSig at h
  injection h with h
  subst h
  with_reducible repeat' first | exact hK | assumption | apply keeps_sportRequest (sub_of hF) | apply keeps_sportGetSig (sub_of hF)

theorem keeps_execSetScene {s sN : State} (q : SportReq)
    (h : execSetScene q s = .next sN) : Keeps [Kind.regs, .out, .slots, .hall] s sN := by
  have hF := List.Subset.refl [Kind.regs, .out, .slots, .hall]
  have hK := Keeps.refl [Kind.regs, .out, .slots, .hall] s
  unfold execSetScene at h
  injection h with h
  subst h
  with_reducible repeat' first | exact hK | assumption | apply keeps_sportRequest (sub_of hF) | apply keeps_sportSetScene (sub_of hF)

theorem keeps_execCommitScene {s sN : State} (q : SportReq)
    (h : execCommitScene q s = .next sN) : Keeps [Kind.regs, .out, .slots, .hall] s sN := by
  have hF := List.Subset.refl [Kind.regs, .out, .slots, .hall]
  have hK := Keeps.refl [Kind.regs, .out, .slots, .hall] s
  unfold execCommitScene at h
  injection h with h
  subst h
  with_reducible repeat' first | exact hK | assumption | apply keeps_sportRequest (sub_of hF) | apply keeps_sportCommit (sub_of hF)

theorem keeps_execPaBegin {s sN : State} (q : SportReq)
    (h : execPaBegin q s = .next sN) : Keeps [Kind.regs, .out, .hall] s sN := by
  have hF := List.Subset.refl [Kind.regs, .out, .hall]
  have hK := Keeps.refl [Kind.regs, .out, .hall] s
  unfold execPaBegin at h
  injection h with h
  subst h
  with_reducible repeat' first | exact hK | assumption | apply keeps_sportRequest (sub_of hF) | apply keeps_sportBegin (sub_of hF)

theorem keeps_execPaData {s sN : State} (q : SportReq)
    (h : execPaData q s = .next sN) : Keeps [Kind.regs, .out, .hall] s sN := by
  have hF := List.Subset.refl [Kind.regs, .out, .hall]
  have hK := Keeps.refl [Kind.regs, .out, .hall] s
  unfold execPaData at h
  injection h with h
  subst h
  with_reducible repeat' first | exact hK | assumption | apply keeps_sportRequest (sub_of hF) | apply keeps_sportData (sub_of hF)

theorem keeps_execPaSeal {s sN : State} (q : SportReq)
    (h : execPaSeal q s = .next sN) : Keeps [Kind.regs, .out, .hall] s sN := by
  have hF := List.Subset.refl [Kind.regs, .out, .hall]
  have hK := Keeps.refl [Kind.regs, .out, .hall] s
  unfold execPaSeal at h
  injection h with h
  subst h
  with_reducible repeat' first | exact hK | assumption | apply keeps_sportRequest (sub_of hF) | apply keeps_sportSeal (sub_of hF)

theorem keeps_execContainDim {s sN : State} (q : SportReq)
    (h : execContainDim q s = .next sN) : Keeps [Kind.regs, .out, .slots, .ports, .hall] s sN := by
  have hF := List.Subset.refl [Kind.regs, .out, .slots, .ports, .hall]
  have hK := Keeps.refl [Kind.regs, .out, .slots, .ports, .hall] s
  unfold execContainDim at h
  injection h with h
  subst h
  with_reducible repeat' first | exact hK | assumption | apply keeps_sportRequest (sub_of hF) | apply keeps_sportContain (sub_of hF)

theorem keeps_execContainOff {s sN : State} (q : SportReq)
    (h : execContainOff q s = .next sN) : Keeps [Kind.regs, .out, .slots, .ports, .hall] s sN := by
  have hF := List.Subset.refl [Kind.regs, .out, .slots, .ports, .hall]
  have hK := Keeps.refl [Kind.regs, .out, .slots, .ports, .hall] s
  unfold execContainOff at h
  injection h with h
  subst h
  with_reducible repeat' first | exact hK | assumption | apply keeps_sportRequest (sub_of hF) | apply keeps_sportContain (sub_of hF)

theorem keeps_execRelease {s sN : State} (q : SportReq)
    (h : execRelease q s = .next sN) : Keeps [Kind.regs, .out, .slots, .hall] s sN := by
  have hF := List.Subset.refl [Kind.regs, .out, .slots, .hall]
  have hK := Keeps.refl [Kind.regs, .out, .slots, .hall] s
  unfold execRelease at h
  injection h with h
  subst h
  with_reducible repeat' first | exact hK | assumption | apply keeps_sportRequest (sub_of hF) | apply keeps_sportRelease (sub_of hF)

theorem keeps_execSportBadFrame {s sN : State} (b : SportBad)
    (h : execSportBadFrame b s = .next sN) : Keeps [Kind.regs, .out, .hall] s sN := by
  have hF := List.Subset.refl [Kind.regs, .out, .hall]
  have hK := Keeps.refl [Kind.regs, .out, .hall] s
  unfold execSportBadFrame at h
  try dsimp only at h
  repeat' split at h
  all_goals first | contradiction | skip
  all_goals
    injection h with h
    subst h
    iterate 60 (first | done | with_reducible exact hK | with_reducible assumption | with_reducible apply keeps_sportDiscard (sub_of hF) | with_reducible apply keeps_setResp (sub_of hF) | with_reducible apply keeps_incSat (sub_of hF) | with_reducible apply keeps_shiftOut (sub_of hF) | with_reducible apply keeps_setBit (sub_of hF) | split | (intro _; intros) | dsimp only)

theorem keeps_execSportCsStuck {s sN : State} 
    (h : execSportCsStuck  s = .next sN) : Keeps [Kind.regs, .out, .hall] s sN := by
  have hF := List.Subset.refl [Kind.regs, .out, .hall]
  have hK := Keeps.refl [Kind.regs, .out, .hall] s
  unfold execSportCsStuck at h
  injection h with h
  subst h
  with_reducible repeat' first | exact hK | assumption | apply keeps_sportDiscard (sub_of hF)

theorem keeps_execSportSilent {s sN : State} 
    (h : execSportSilent  s = .next sN) : Keeps [Kind.regs, .out, .fr] s sN := by
  have hF := List.Subset.refl [Kind.regs, .out, .fr]
  have hK := Keeps.refl [Kind.regs, .out, .fr] s
  unfold execSportSilent at h
  injection h with h
  subst h
  with_reducible repeat' first | exact hK | assumption | apply keeps_logEvent (sub_of hF) | apply keeps_setBit (sub_of hF) | split

theorem keeps_execObjListWindow {s sN : State} (block : BitVec 12)
    (h : execObjListWindow block s = .next sN) : Keeps [Kind.regs, .pitchAct, .out, .freeCount, .sb] s sN := by
  have hF := List.Subset.refl [Kind.regs, .pitchAct, .out, .freeCount, .sb]
  have hK := Keeps.refl [Kind.regs, .pitchAct, .out, .freeCount, .sb] s
  unfold execObjListWindow at h
  injection h with h
  subst h
  with_reducible repeat' first | exact hK | assumption | apply keeps_objListWindow (sub_of hF)

theorem keeps_execCanFrame {s sN : State} (b : CanBus) (xtd : Bool) (id : BitVec 29) (data : List Byte) (t : LinkTime)
    (h : execCanFrame b xtd id data t s = .next sN) : Keeps [Kind.regs, .pitchAct, .freeCount, .sb] s sN := by
  have hF := List.Subset.refl [Kind.regs, .pitchAct, .freeCount, .sb]
  have hK := Keeps.refl [Kind.regs, .pitchAct, .freeCount, .sb] s
  unfold execCanFrame at h
  injection h with h
  subst h
  with_reducible repeat' first | exact hK | assumption | apply keeps_canFrame (sub_of hF)

theorem keeps_execCanListTimeout {s sN : State} (b : CanBus)
    (h : execCanListTimeout b s = .next sN) : Keeps [Kind.regs, .sb] s sN := by
  have hF := List.Subset.refl [Kind.regs, .sb]
  have hK := Keeps.refl [Kind.regs, .sb] s
  unfold execCanListTimeout at h
  injection h with h
  subst h
  iterate 60 (first | done | with_reducible exact hK | with_reducible assumption | with_reducible apply keeps_canExpire (sub_of hF) | split | (intro _; intros) | dsimp only)

theorem keeps_execCanBusOff {s sN : State} (b : CanBus)
    (h : execCanBusOff b s = .next sN) : Keeps [Kind.regs, .sb] s sN := by
  have hF := List.Subset.refl [Kind.regs, .sb]
  have hK := Keeps.refl [Kind.regs, .sb] s
  unfold execCanBusOff at h
  injection h with h
  subst h
  iterate 60 (first | done | with_reducible exact hK | with_reducible assumption | with_reducible apply keeps_setFld (sub_of hF) | with_reducible apply keeps_dropCan (sub_of hF) | split | (intro _; intros) | dsimp only)

theorem keeps_execCanBusOffRecovery {s sN : State} (b : CanBus)
    (h : execCanBusOffRecovery b s = .next sN) : Keeps [Kind.regs] s sN := by
  have hF := List.Subset.refl [Kind.regs]
  have hK := Keeps.refl [Kind.regs] s
  unfold execCanBusOffRecovery at h
  injection h with h
  subst h
  iterate 60 (first | done | with_reducible exact hK | with_reducible assumption | with_reducible apply keeps_setFld (sub_of hF) | split | (intro _; intros) | dsimp only)

theorem keeps_execCsiFs {s sN : State} (c : Cam) (pkt : FrameShort) (t : LinkTime)
    (h : execCsiFs c pkt t s = .next sN) : Keeps [Kind.regs, .pitchAct, .dram, .out, .freeCount, .fr, .sb] s sN := by
  have hF := List.Subset.refl [Kind.regs, .pitchAct, .dram, .out, .freeCount, .fr, .sb]
  have hK := Keeps.refl [Kind.regs, .pitchAct, .dram, .out, .freeCount, .fr, .sb] s
  unfold execCsiFs at h
  injection h with h
  subst h
  iterate 60 (first | done | with_reducible exact hK | with_reducible assumption | with_reducible apply keeps_csiFs (sub_of hF) | split | (intro _; intros) | dsimp only)

theorem keeps_execCsiLongPacket {s sN : State} (c : Cam) (vc : BitVec 2) (dt : BitVec 6) (crcOk : Bool) (eccFix : Bool) (data : List Byte)
    (h : execCsiLongPacket c vc dt crcOk eccFix data s = .next sN) : Keeps [Kind.regs, .sb] s sN := by
  have hF := List.Subset.refl [Kind.regs, .sb]
  have hK := Keeps.refl [Kind.regs, .sb] s
  unfold execCsiLongPacket at h
  injection h with h
  subst h
  iterate 60 (first | done | with_reducible exact hK | with_reducible assumption | with_reducible apply keeps_csiLong (sub_of hF) | split | (intro _; intros) | dsimp only)

theorem keeps_execCsiFe {s sN : State} (c : Cam) (pkt : FrameShort) (t : LinkTime)
    (h : execCsiFe c pkt t s = .next sN) : Keeps [Kind.regs, .pitchAct, .dram, .out, .freeCount, .fr, .sb] s sN := by
  have hF := List.Subset.refl [Kind.regs, .pitchAct, .dram, .out, .freeCount, .fr, .sb]
  have hK := Keeps.refl [Kind.regs, .pitchAct, .dram, .out, .freeCount, .fr, .sb] s
  unfold execCsiFe at h
  injection h with h
  subst h
  iterate 60 (first | done | with_reducible exact hK | with_reducible assumption | with_reducible apply keeps_csiFe (sub_of hF) | split | (intro _; intros) | dsimp only)

theorem keeps_execCameraLost {s sN : State} (c : Cam)
    (h : execCameraLost c s = .next sN) : Keeps [Kind.regs, .pitchAct, .dram, .out, .freeCount, .fr, .sb] s sN := by
  have hF := List.Subset.refl [Kind.regs, .pitchAct, .dram, .out, .freeCount, .fr, .sb]
  have hK := Keeps.refl [Kind.regs, .pitchAct, .dram, .out, .freeCount, .fr, .sb] s
  unfold execCameraLost at h
  injection h with h
  subst h
  with_reducible repeat' first | exact hK | assumption | apply keeps_cameraLost (sub_of hF)

theorem keeps_execCamEnable {s sN : State} (c : Cam) (v : Word)
    (h : execCamEnable c v s = .next sN) : Keeps [Kind.regs, .pitchAct, .dram, .out, .freeCount, .fr, .sb] s sN := by
  have hF := List.Subset.refl [Kind.regs, .pitchAct, .dram, .out, .freeCount, .fr, .sb]
  have hK := Keeps.refl [Kind.regs, .pitchAct, .dram, .out, .freeCount, .fr, .sb] s
  unfold execCamEnable at h
  injection h with h
  subst h
  with_reducible repeat' first | exact hK | assumption | apply keeps_hostWrite (sub_of hF) | apply keeps_camCfg (sub_of hF)

theorem keeps_execDirectWrite {s sN : State} (c : Cam) (v : Word)
    (h : execDirectWrite c v s = .next sN) : Keeps [Kind.regs, .out, .fr] s sN := by
  have hF := List.Subset.refl [Kind.regs, .out, .fr]
  have hK := Keeps.refl [Kind.regs, .out, .fr] s
  unfold execDirectWrite at h
  injection h with h
  subst h
  with_reducible repeat' first | exact hK | assumption | apply keeps_hostWrite (sub_of hF) | apply keeps_camDirect (sub_of hF)

theorem keeps_execImuTransaction {s sN : State} (start : LinkTime) (data : List Byte) (t : LinkTime)
    (h : execImuTransaction start data t s = .next sN) : Keeps [Kind.regs, .out, .freeCount, .fr, .sb] s sN := by
  have hF := List.Subset.refl [Kind.regs, .out, .freeCount, .fr, .sb]
  have hK := Keeps.refl [Kind.regs, .out, .freeCount, .fr, .sb] s
  unfold execImuTransaction at h
  injection h with h
  subst h
  iterate 60 (first | done | with_reducible exact hK | with_reducible assumption | with_reducible apply keeps_imuTransaction (sub_of hF) | split | (intro _; intros) | dsimp only)

theorem keeps_execImuHost {s sN : State} (v : Word)
    (h : execImuHost v s = .next sN) : Keeps [Kind.regs, .out, .fr, .sb] s sN := by
  have hF := List.Subset.refl [Kind.regs, .out, .fr, .sb]
  have hK := Keeps.refl [Kind.regs, .out, .fr, .sb] s
  unfold execImuHost at h
  injection h with h
  subst h
  with_reducible repeat' first | exact hK | assumption | apply keeps_hostWrite (sub_of hF) | apply keeps_imuHost (sub_of hF)

theorem keeps_execFreqWrite {s sN : State} (v : Word)
    (h : execFreqWrite v s = .next sN) : Keeps [Kind.regs, .out, .fr, .mc] s sN := by
  have hF := List.Subset.refl [Kind.regs, .out, .fr, .mc]
  have hK := Keeps.refl [Kind.regs, .out, .fr, .mc] s
  unfold execFreqWrite at h
  injection h with h
  subst h
  with_reducible repeat' first | exact hK | assumption | apply keeps_hostWrite (sub_of hF) | apply keeps_freqWrite (sub_of hF)

theorem keeps_execRefreshDue {s sN : State} (pc : PcId) (bank : Fin 16) (idle : Bool)
    (h : execRefreshDue pc bank idle s = .next sN) : Keeps [Kind.mc] s sN := by
  have hF := List.Subset.refl [Kind.mc]
  have hK := Keeps.refl [Kind.mc] s
  unfold execRefreshDue at h
  injection h with h
  subst h
  with_reducible repeat' first | exact hK | assumption | apply keeps_whileUp (sub_of hF) | apply keeps_modMc (sub_of hF)

theorem keeps_execForcedRefresh {s sN : State} (pc : PcId) (bank : Fin 16)
    (h : execForcedRefresh pc bank s = .next sN) : Keeps [Kind.regs, .mc] s sN := by
  have hF := List.Subset.refl [Kind.regs, .mc]
  have hK := Keeps.refl [Kind.regs, .mc] s
  unfold execForcedRefresh at h
  try dsimp only at h
  repeat' split at h
  all_goals first | contradiction | skip
  all_goals
    injection h with h
    subst h
    iterate 60 (first | done | with_reducible exact hK | with_reducible assumption | with_reducible apply keeps_whileUp (sub_of hF) | with_reducible apply keeps_incSat (sub_of hF) | with_reducible apply keeps_modMc (sub_of hF) | split | (intro _; intros) | dsimp only)

theorem keeps_execDramTempSample {s sN : State} (t : BitVec 8)
    (h : execDramTempSample t s = .next sN) : Keeps [Kind.regs] s sN := by
  have hF := List.Subset.refl [Kind.regs]
  have hK := Keeps.refl [Kind.regs] s
  unfold execDramTempSample at h
  injection h with h
  subst h
  iterate 60 (first | done | with_reducible exact hK | with_reducible assumption | with_reducible apply keeps_whileUp (sub_of hF) | with_reducible apply keeps_setFld (sub_of hF) | with_reducible apply keeps_setBit (sub_of hF) | split | (intro _; intros) | dsimp only)

theorem keeps_execSelfRefreshIdle {s sN : State} (pc : PcId)
    (h : execSelfRefreshIdle pc s = .next sN) : Keeps [Kind.mc] s sN := by
  have hF := List.Subset.refl [Kind.mc]
  have hK := Keeps.refl [Kind.mc] s
  unfold execSelfRefreshIdle at h
  injection h with h
  subst h
  iterate 60 (first | done | with_reducible exact hK | with_reducible assumption | with_reducible apply keeps_whileUp (sub_of hF) | with_reducible apply keeps_modMc (sub_of hF) | split | (intro _; intros) | dsimp only)

theorem keeps_execSrWake {s sN : State} (pc : PcId)
    (h : execSrWake pc s = .next sN) : Keeps [Kind.regs, .freeCount, .mc] s sN := by
  have hF := List.Subset.refl [Kind.regs, .freeCount, .mc]
  have hK := Keeps.refl [Kind.regs, .freeCount, .mc] s
  unfold execSrWake at h
  injection h with h
  subst h
  with_reducible repeat' first | exact hK | assumption | apply keeps_helpersUsed (sub_of hF) | apply keeps_setBit (sub_of hF) | apply keeps_incSat (sub_of hF) | apply keeps_modMc (sub_of hF) | split

theorem keeps_execDozeSrReentry {s sN : State} (pc : PcId)
    (h : execDozeSrReentry pc s = .next sN) : Keeps [Kind.mc] s sN := by
  have hF := List.Subset.refl [Kind.mc]
  have hK := Keeps.refl [Kind.mc] s
  unfold execDozeSrReentry at h
  injection h with h
  subst h
  with_reducible repeat' first | exact hK | assumption | apply keeps_modMc (sub_of hF) | split

theorem keeps_execBulkPromote {s sN : State} (_pc : PcId)
    (h : execBulkPromote _pc s = .next sN) : Keeps [Kind.regs] s sN := by
  have hF := List.Subset.refl [Kind.regs]
  have hK := Keeps.refl [Kind.regs] s
  unfold execBulkPromote at h
  injection h with h
  subst h
  with_reducible repeat' first | exact hK | assumption | apply keeps_whileUp (sub_of hF) | apply keeps_incSat (sub_of hF)

theorem keeps_execTrackPeriod {s sN : State} 
    (h : execTrackPeriod  s = .next sN) : Keeps [Kind.regs, .mc] s sN := by
  have hF := List.Subset.refl [Kind.regs, .mc]
  have hK := Keeps.refl [Kind.regs, .mc] s
  unfold execTrackPeriod at h
  injection h with h
  subst h
  iterate 60 (first | done | with_reducible exact hK | with_reducible assumption | with_reducible apply keeps_whileUp (sub_of hF) | with_reducible apply keeps_trackStart (sub_of hF) | split | (intro _; intros) | dsimp only)

theorem keeps_execGatherWindowEnd {s sN : State} (reads : Nat) (writes : Nat) (move : List Int) (pass : Bool)
    (h : execGatherWindowEnd reads writes move pass s = .next sN) : Keeps [Kind.regs, .out, .freeCount, .slots, .ports, .fr, .mc] s sN := by
  have hF := List.Subset.refl [Kind.regs, .out, .freeCount, .slots, .ports, .fr, .mc]
  have hK := Keeps.refl [Kind.regs, .out, .freeCount, .slots, .ports, .fr, .mc] s
  unfold execGatherWindowEnd at h
  injection h with h
  subst h
  iterate 60 (first | done | with_reducible exact hK | with_reducible assumption | with_reducible apply keeps_whileUp (sub_of hF) | with_reducible apply keeps_gatherEnd (sub_of hF) | split | (intro _; intros) | dsimp only)

theorem keeps_execUncorrectableBurst {s sN : State} (pc : PcId)
    (h : execUncorrectableBurst pc s = .next sN) : Keeps [Kind.regs, .out, .slots, .ports, .fr, .mc] s sN := by
  have hF := List.Subset.refl [Kind.regs, .out, .slots, .ports, .fr, .mc]
  have hK := Keeps.refl [Kind.regs, .out, .slots, .ports, .fr, .mc] s
  unfold execUncorrectableBurst at h
  injection h with h
  subst h
  iterate 60 (first | done | with_reducible exact hK | with_reducible assumption | with_reducible apply keeps_whilePowered (sub_of hF) | with_reducible apply keeps_uncorrectable (sub_of hF) | split | (intro _; intros) | dsimp only)

theorem keeps_execPatternRun {s sN : State} (v : Word)
    (h : execPatternRun v s = .next sN) : Keeps [Kind.regs, .dram, .out, .fr, .mc] s sN := by
  have hF := List.Subset.refl [Kind.regs, .dram, .out, .fr, .mc]
  have hK := Keeps.refl [Kind.regs, .dram, .out, .fr, .mc] s
  unfold execPatternRun at h
  injection h with h
  subst h
  with_reducible repeat' first | exact hK | assumption | apply keeps_hostWrite (sub_of hF) | apply keeps_patternRun (sub_of hF)

theorem keeps_execPatternRunDone {s sN : State} (failed : BitVec 16) (dq0 : Word) (dq1 : Word)
    (h : execPatternRunDone failed dq0 dq1 s = .next sN) : Keeps [Kind.regs, .out, .mc] s sN := by
  have hF := List.Subset.refl [Kind.regs, .out, .mc]
  have hK := Keeps.refl [Kind.regs, .out, .mc] s
  unfold execPatternRunDone at h
  injection h with h
  subst h
  with_reducible repeat' first | exact hK | assumption | apply keeps_raiseVec (sub_of hF) | apply keeps_setReg (sub_of hF) | apply keeps_modMc (sub_of hF) | split

theorem keeps_execBar2Access {s sN : State} (off : BitVec 28) (len : Nat) (epoch : BitVec 16) (acc : Option (List Byte))
    (h : execBar2Access off len epoch acc s = .next sN) : Keeps [Kind.regs, .dram, .out] s sN := by
  have hF := List.Subset.refl [Kind.regs, .dram, .out]
  have hK := Keeps.refl [Kind.regs, .dram, .out] s
  unfold execBar2Access at h
  try dsimp only at h
  repeat' split at h
  all_goals first | contradiction | skip
  all_goals
    injection h with h
    subst h
    with_reducible repeat' first | exact hK | assumption | apply keeps_bar2Write (sub_of hF) | apply keeps_bar2Read (sub_of hF) | apply keeps_emit (sub_of hF)

theorem keeps_execCasGo {s sN : State} (k : CasId) (v : Word)
    (h : execCasGo k v s = .next sN) : Keeps [Kind.regs, .out, .fr] s sN := by
  have hF := List.Subset.refl [Kind.regs, .out, .fr]
  have hK := Keeps.refl [Kind.regs, .out, .fr] s
  unfold execCasGo at h
  injection h with h
  subst h
  with_reducible repeat' first | exact hK | assumption | apply keeps_hostWrite (sub_of hF) | apply keeps_casGo (sub_of hF)

theorem keeps_execKick {s sN : State} 
    (h : execKick  s = .next sN) : Keeps [Kind.regs, .out, .slots, .fr] s sN := by
  have hF := List.Subset.refl [Kind.regs, .out, .slots, .fr]
  have hK := Keeps.refl [Kind.regs, .out, .slots, .fr] s
  unfold execKick at h
  injection h with h
  subst h
  with_reducible repeat' first | exact hK | assumption | apply keeps_hostWrite (sub_of hF) | apply keeps_aliveKick (sub_of hF)

theorem keeps_execAliveWrite {s sN : State} (v : Word)
    (h : execAliveWrite v s = .next sN) : Keeps [Kind.regs, .out, .fr] s sN := by
  have hF := List.Subset.refl [Kind.regs, .out, .fr]
  have hK := Keeps.refl [Kind.regs, .out, .fr] s
  unfold execAliveWrite at h
  injection h with h
  subst h
  with_reducible repeat' first | exact hK | assumption | apply keeps_hostWrite (sub_of hF) | apply keeps_aliveWrite (sub_of hF)

theorem keeps_execHostLost {s sN : State} 
    (h : execHostLost  s = .next sN) : Keeps [Kind.regs, .out, .slots, .ports, .fr] s sN := by
  have hF := List.Subset.refl [Kind.regs, .out, .slots, .ports, .fr]
  have hK := Keeps.refl [Kind.regs, .out, .slots, .ports, .fr] s
  unfold execHostLost at h
  injection h with h
  subst h
  with_reducible repeat' first | exact hK | assumption | apply keeps_hostLost (sub_of hF)

theorem keeps_execDoorbell {s sN : State} (v : Word)
    (h : execDoorbell v s = .next sN) : Keeps [Kind.regs, .bar4, .out, .fr, .mail] s sN := by
  have hF := List.Subset.refl [Kind.regs, .bar4, .out, .fr, .mail]
  have hK := Keeps.refl [Kind.regs, .bar4, .out, .fr, .mail] s
  unfold execDoorbell at h
  injection h with h
  subst h
  with_reducible repeat' first | exact hK | assumption | apply keeps_hostWrite (sub_of hF) | apply keeps_doorbell (sub_of hF)

theorem keeps_execVersion {s sN : State} 
    (h : execVersion  s = .next sN) : Keeps [Kind.regs, .bar4, .out] s sN := by
  have hF := List.Subset.refl [Kind.regs, .bar4, .out]
  have hK := Keeps.refl [Kind.regs, .bar4, .out] s
  unfold execVersion at h
  injection h with h
  subst h
  with_reducible repeat' first | exact hK | assumption | apply keeps_mailRespond (sub_of hF) | split

theorem keeps_execEngMemRead {s sN : State} (data : List Byte)
    (h : execEngMemRead data s = .next sN) : Keeps [Kind.regs, .dram, .bar4, .out, .freeCount] s sN := by
  have hF := List.Subset.refl [Kind.regs, .dram, .bar4, .out, .freeCount]
  have hK := Keeps.refl [Kind.regs, .dram, .bar4, .out, .freeCount] s
  unfold execEngMemRead at h
  injection h with h
  subst h
  with_reducible repeat' first | exact hK | assumption | apply keeps_engMemRead (sub_of hF) | split

theorem keeps_execTrainModeManual {s sN : State} 
    (h : execTrainModeManual  s = .next sN) : Keeps [Kind.regs, .bar4, .out, .freeCount, .mc] s sN := by
  have hF := List.Subset.refl [Kind.regs, .bar4, .out, .freeCount, .mc]
  have hK := Keeps.refl [Kind.regs, .bar4, .out, .freeCount, .mc] s
  unfold execTrainModeManual at h
  injection h with h
  subst h
  iterate 60 (first | done | with_reducible exact hK | with_reducible assumption | with_reducible apply keeps_mailRespond (sub_of hF) | with_reducible apply keeps_setBit (sub_of hF) | with_reducible apply keeps_modMc (sub_of hF) | with_reducible apply keeps_trainOther (sub_of hF) | split | (intro _; intros) | dsimp only)

theorem keeps_execTrainModeMicrocode {s sN : State} (failed : List PcId)
    (h : execTrainModeMicrocode failed s = .next sN) : Keeps [Kind.regs, .dram, .bar4, .out, .freeCount, .slots, .ports, .fr, .mc] s sN := by
  have hF := List.Subset.refl [Kind.regs, .dram, .bar4, .out, .freeCount, .slots, .ports, .fr, .mc]
  have hK := Keeps.refl [Kind.regs, .dram, .bar4, .out, .freeCount, .slots, .ports, .fr, .mc] s
  unfold execTrainModeMicrocode at h
  injection h with h
  subst h
  iterate 60 (first | done | with_reducible exact hK | with_reducible assumption | with_reducible apply keeps_forAll | with_reducible apply keeps_pcFail (sub_of hF) | with_reducible apply keeps_helpersUsed (sub_of hF) | with_reducible apply keeps_dramForget (sub_of hF) | with_reducible apply keeps_setBit (sub_of hF) | with_reducible apply keeps_modMc (sub_of hF) | with_reducible apply keeps_mailRespond (sub_of hF) | with_reducible apply keeps_trainOther (sub_of hF) | split | (intro _; intros) | dsimp only)

theorem keeps_execBist {s sN : State} (passed : Word)
    (h : execBist passed s = .next sN) : Keeps [Kind.regs, .dram, .bar4, .out] s sN := by
  have hF := List.Subset.refl [Kind.regs, .dram, .bar4, .out]
  have hK := Keeps.refl [Kind.regs, .dram, .bar4, .out] s
  unfold execBist at h
  injection h with h
  subst h
  iterate 60 (first | done | with_reducible exact hK | with_reducible assumption | with_reducible apply keeps_mailRespond (sub_of hF) | with_reducible apply keeps_marchFree (sub_of hF) | split | (intro _; intros) | dsimp only)

theorem keeps_execPatchLoad {s sN : State} 
    (h : execPatchLoad  s = .next sN) : Keeps [Kind.regs, .bar4, .out, .freeCount, .mail] s sN := by
  have hF := List.Subset.refl [Kind.regs, .bar4, .out, .freeCount, .mail]
  have hK := Keeps.refl [Kind.regs, .bar4, .out, .freeCount, .mail] s
  unfold execPatchLoad at h
  injection h with h
  subst h
  with_reducible repeat' first | exact hK | assumption | apply keeps_handBackDev (sub_of hF) | apply keeps_mailRespond (sub_of hF) | apply keeps_mailFree (sub_of hF) | split | dsimp only | refine Keeps.mail ?_ (sub_of hF) _

theorem keeps_execCastLoad {s sN : State} 
    (h : execCastLoad  s = .next sN) : Keeps [Kind.regs, .bar4, .out, .freeCount, .cast] s sN := by
  have hF := List.Subset.refl [Kind.regs, .bar4, .out, .freeCount, .cast]
  have hK := Keeps.refl [Kind.regs, .bar4, .out, .freeCount, .cast] s
  unfold execCastLoad at h
  injection h with h
  subst h
  with_reducible repeat' first | exact hK | assumption | apply keeps_castChunk (sub_of hF)

theorem keeps_execCastChunkTimeout {s sN : State} 
    (h : execCastChunkTimeout  s = .next sN) : Keeps [Kind.regs, .out, .cast] s sN := by
  have hF := List.Subset.refl [Kind.regs, .out, .cast]
  have hK := Keeps.refl [Kind.regs, .out, .cast] s
  unfold execCastChunkTimeout at h
  injection h with h
  subst h
  with_reducible repeat' first | exact hK | assumption | apply keeps_castFail (sub_of hF) | split

theorem keeps_execMailboxAbort {s sN : State} (core : Fin 4)
    (h : execMailboxAbort core s = .next sN) : Keeps [Kind.regs, .bar4, .out, .cast, .fr] s sN := by
  have hF := List.Subset.refl [Kind.regs, .bar4, .out, .cast, .fr]
  have hK := Keeps.refl [Kind.regs, .bar4, .out, .cast, .fr] s
  unfold execMailboxAbort at h
  injection h with h
  subst h
  iterate 60 (first | done | with_reducible exact hK | with_reducible assumption | with_reducible apply keeps_mailAbort (sub_of hF) | with_reducible apply keeps_castFail (sub_of hF) | split | (intro _; intros) | dsimp only)

theorem keeps_execCastReadComplete {s sN : State} 
    (h : execCastReadComplete  s = .next sN) : Keeps [Kind.regs, .out, .cast] s sN := by
  have hF := List.Subset.refl [Kind.regs, .out, .cast]
  have hK := Keeps.refl [Kind.regs, .out, .cast] s
  unfold execCastReadComplete at h
  injection h with h
  subst h
  with_reducible repeat' first | exact hK | assumption | apply keeps_castRead (sub_of hF)

theorem keeps_execValidationComplete {s sN : State} 
    (h : execValidationComplete  s = .next sN) : Keeps [Kind.regs, .pitchAct, .dram, .out, .freeCount, .cast, .slots, .ports, .power, .fr, .codec, .chans, .page, .mc, .heat, .sb, .loops] s sN := by
  have hF := List.Subset.refl [Kind.regs, .pitchAct, .dram, .out, .freeCount, .cast, .slots, .ports, .power, .fr, .codec, .chans, .page, .mc, .heat, .sb, .loops]
  have hK := Keeps.refl [Kind.regs, .pitchAct, .dram, .out, .freeCount, .cast, .slots, .ports, .power, .fr, .codec, .chans, .page, .mc, .heat, .sb, .loops] s
  unfold execValidationComplete at h
  injection h with h
  subst h
  with_reducible repeat' first | exact hK | assumption | apply keeps_serveQueued (sub_of hF) | apply keeps_withDim (sub_of hF) | apply keeps_castValidated (sub_of hF) | (intro _; intros)

theorem keeps_execRecastTimeout {s sN : State} 
    (h : execRecastTimeout  s = .next sN) : Keeps [Kind.regs, .pitchAct, .dram, .out, .freeCount, .cast, .slots, .ports, .power, .fr, .codec, .chans, .page, .mc, .heat, .sb, .loops] s sN := by
  have hF := List.Subset.refl [Kind.regs, .pitchAct, .dram, .out, .freeCount, .cast, .slots, .ports, .power, .fr, .codec, .chans, .page, .mc, .heat, .sb, .loops]
  have hK := Keeps.refl [Kind.regs, .pitchAct, .dram, .out, .freeCount, .cast, .slots, .ports, .power, .fr, .codec, .chans, .page, .mc, .heat, .sb, .loops] s
  unfold execRecastTimeout at h
  injection h with h
  subst h
  iterate 60 (first | done | with_reducible exact hK | with_reducible assumption | with_reducible apply keeps_serveQueued (sub_of hF) | with_reducible apply keeps_withDim (sub_of hF) | with_reducible apply keeps_abortRecast (sub_of hF) | with_reducible apply keeps_switchSweep (sub_of hF) | split | (intro _; intros) | dsimp only)

theorem keeps_execLoad {s sN : State} (v : Word)
    (h : execLoad v s = .next sN) : Keeps [Kind.regs, .pitchAct, .dram, .out, .freeCount, .cast, .slots, .ports, .power, .fr, .codec, .chans, .page, .mc, .heat, .sb, .loops] s sN := by
  have hF := List.Subset.refl [Kind.regs, .pitchAct, .dram, .out, .freeCount, .cast, .slots, .ports, .power, .fr, .codec, .chans, .page, .mc, .heat, .sb, .loops]
  have hK := Keeps.refl [Kind.regs, .pitchAct, .dram, .out, .freeCount, .cast, .slots, .ports, .power, .fr, .codec, .chans, .page, .mc, .heat, .sb, .loops] s
  unfold execLoad at h
  injection h with h
  subst h
  with_reducible repeat' first | exact hK | assumption | apply keeps_hostWrite (sub_of hF) | apply keeps_cstCtrl (sub_of hF)

theorem keeps_execLock {s sN : State} (v : Word)
    (h : execLock v s = .next sN) : Keeps [Kind.regs, .pitchAct, .dram, .out, .freeCount, .cast, .slots, .ports, .power, .fr, .codec, .chans, .page, .mc, .heat, .sb, .loops] s sN := by
  have hF := List.Subset.refl [Kind.regs, .pitchAct, .dram, .out, .freeCount, .cast, .slots, .ports, .power, .fr, .codec, .chans, .page, .mc, .heat, .sb, .loops]
  have hK := Keeps.refl [Kind.regs, .pitchAct, .dram, .out, .freeCount, .cast, .slots, .ports, .power, .fr, .codec, .chans, .page, .mc, .heat, .sb, .loops] s
  unfold execLock at h
  injection h with h
  subst h
  with_reducible repeat' first | exact hK | assumption | apply keeps_hostWrite (sub_of hF) | apply keeps_cstCtrl (sub_of hF)

theorem keeps_execAbort {s sN : State} (v : Word)
    (h : execAbort v s = .next sN) : Keeps [Kind.regs, .pitchAct, .dram, .out, .freeCount, .cast, .slots, .ports, .power, .fr, .codec, .chans, .page, .mc, .heat, .sb, .loops] s sN := by
  have hF := List.Subset.refl [Kind.regs, .pitchAct, .dram, .out, .freeCount, .cast, .slots, .ports, .power, .fr, .codec, .chans, .page, .mc, .heat, .sb, .loops]
  have hK := Keeps.refl [Kind.regs, .pitchAct, .dram, .out, .freeCount, .cast, .slots, .ports, .power, .fr, .codec, .chans, .page, .mc, .heat, .sb, .loops] s
  unfold execAbort at h
  injection h with h
  subst h
  with_reducible repeat' first | exact hK | assumption | apply keeps_hostWrite (sub_of hF) | apply keeps_cstCtrl (sub_of hF)

theorem keeps_execPowerOn {s sN : State} (ph : BitVec 2) (testen : Bool) (low : Bool)
    (h : execPowerOn ph testen low s = .next sN) : Keeps [Kind.linkTime, .regs, .pitchAct, .dram, .bar4, .out, .corePh, .cast, .slots, .ports, .hall, .power, .fr, .mail, .codec, .chans, .page, .mc, .heat, .sb, .loops] s sN := by
  have hF := List.Subset.refl [Kind.linkTime, .regs, .pitchAct, .dram, .bar4, .out, .corePh, .cast, .slots, .ports, .hall, .power, .fr, .mail, .codec, .chans, .page, .mc, .heat, .sb, .loops]
  have hK := Keeps.refl [Kind.linkTime, .regs, .pitchAct, .dram, .bar4, .out, .corePh, .cast, .slots, .ports, .hall, .power, .fr, .mail, .codec, .chans, .page, .mc, .heat, .sb, .loops] s
  unfold execPowerOn at h
  injection h with h
  subst h
  with_reducible repeat' first | exact hK | assumption | apply keeps_powerOn (sub_of hF)

theorem keeps_execRailInBand {s sN : State} (r : Rail)
    (h : execRailInBand r s = .next sN) : Keeps [Kind.power] s sN := by
  have hF := List.Subset.refl [Kind.power]
  have hK := Keeps.refl [Kind.power] s
  unfold execRailInBand at h
  injection h with h
  subst h
  with_reducible repeat' first | exact hK | assumption | apply keeps_railInBand (sub_of hF)

theorem keeps_execSequenceFail {s sN : State} (r : Rail)
    (h : execSequenceFail r s = .next sN) : Keeps [Kind.regs, .out, .power, .fr, .heat] s sN := by
  have hF := List.Subset.refl [Kind.regs, .out, .power, .fr, .heat]
  have hK := Keeps.refl [Kind.regs, .out, .power, .fr, .heat] s
  unfold execSequenceFail at h
  injection h with h
  subst h
  with_reducible repeat' first | exact hK | assumption | apply keeps_sequenceFail (sub_of hF)

theorem keeps_execSequenceRetry {s sN : State} 
    (h : execSequenceRetry  s = .next sN) : Keeps [Kind.power] s sN := by
  have hF := List.Subset.refl [Kind.power]
  have hK := Keeps.refl [Kind.power] s
  unfold execSequenceRetry at h
  injection h with h
  subst h
  with_reducible repeat' first | exact hK | assumption | apply keeps_modPower (sub_of hF) | split

theorem keeps_execFullTrainingComplete {s sN : State} (failed : List PcId)
    (h : execFullTrainingComplete failed s = .next sN) : Keeps [Kind.regs, .out, .freeCount, .slots, .ports, .power, .fr, .mc] s sN := by
  have hF := List.Subset.refl [Kind.regs, .out, .freeCount, .slots, .ports, .power, .fr, .mc]
  have hK := Keeps.refl [Kind.regs, .out, .freeCount, .slots, .ports, .power, .fr, .mc] s
  unfold execFullTrainingComplete at h
  injection h with h
  subst h
  with_reducible repeat' first | exact hK | assumption | apply keeps_modPower (sub_of hF) | apply keeps_trainingDone (sub_of hF) | split

theorem keeps_execBootCastBuild {s sN : State} 
    (h : execBootCastBuild  s = .next sN) : Keeps [Kind.regs, .pitchAct, .dram, .out, .cast, .slots, .ports, .power, .fr, .page, .mc, .heat, .sb, .loops] s sN := by
  have hF := List.Subset.refl [Kind.regs, .pitchAct, .dram, .out, .cast, .slots, .ports, .power, .fr, .page, .mc, .heat, .sb, .loops]
  have hK := Keeps.refl [Kind.regs, .pitchAct, .dram, .out, .cast, .slots, .ports, .power, .fr, .page, .mc, .heat, .sb, .loops] s
  unfold execBootCastBuild at h
  injection h with h
  subst h
  with_reducible repeat' first | exact hK | assumption | apply keeps_serveQueued (sub_of hF) | apply keeps_raiseVec (sub_of hF) | apply keeps_modPower (sub_of hF) | split | dsimp only | refine Keeps.cast ?_ (sub_of hF) _

theorem keeps_execFreqChangeComplete {s sN : State} 
    (h : execFreqChangeComplete  s = .next sN) : Keeps [Kind.regs, .pitchAct, .dram, .out, .slots, .ports, .power, .fr, .page, .mc, .heat, .sb, .loops] s sN := by
  have hF := List.Subset.refl [Kind.regs, .pitchAct, .dram, .out, .slots, .ports, .power, .fr, .page, .mc, .heat, .sb, .loops]
  have hK := Keeps.refl [Kind.regs, .pitchAct, .dram, .out, .slots, .ports, .power, .fr, .page, .mc, .heat, .sb, .loops] s
  unfold execFreqChangeComplete at h
  injection h with h
  subst h
  with_reducible repeat' first | exact hK | assumption | apply keeps_serveQueued (sub_of hF) | apply keeps_freqDone (sub_of hF)

theorem keeps_execAutoRemapReset {s sN : State} 
    (h : execAutoRemapReset  s = .next sN) : Keeps [Kind.regs, .pitchAct, .dram, .bar4, .out, .cast, .slots, .ports, .hall, .power, .fr, .mail, .codec, .chans, .page, .mc, .heat, .sb, .loops] s sN := by
  have hF := List.Subset.refl [Kind.regs, .pitchAct, .dram, .bar4, .out, .cast, .slots, .ports, .hall, .power, .fr, .mail, .codec, .chans, .page, .mc, .heat, .sb, .loops]
  have hK := Keeps.refl [Kind.regs, .pitchAct, .dram, .bar4, .out, .cast, .slots, .ports, .hall, .power, .fr, .mail, .codec, .chans, .page, .mc, .heat, .sb, .loops] s
  unfold execAutoRemapReset at h
  injection h with h
  subst h
  with_reducible repeat' first | exact hK | assumption | apply keeps_warmReset (sub_of hF) | split

theorem keeps_execThermalPark {s sN : State} 
    (h : execThermalPark  s = .next sN) : Keeps [Kind.regs, .pitchAct, .dram, .out, .slots, .ports, .power, .fr, .page, .mc, .heat, .sb, .loops] s sN := by
  have hF := List.Subset.refl [Kind.regs, .pitchAct, .dram, .out, .slots, .ports, .power, .fr, .page, .mc, .heat, .sb, .loops]
  have hK := Keeps.refl [Kind.regs, .pitchAct, .dram, .out, .slots, .ports, .power, .fr, .page, .mc, .heat, .sb, .loops] s
  unfold execThermalPark at h
  injection h with h
  subst h
  with_reducible repeat' first | exact hK | assumption | apply keeps_thermalPark (sub_of hF)

theorem keeps_execPhaseLimit {s sN : State} (ph : PhaseId)
    (h : execPhaseLimit ph s = .next sN) : Keeps [Kind.regs, .out, .fr] s sN := by
  have hF := List.Subset.refl [Kind.regs, .out, .fr]
  have hK := Keeps.refl [Kind.regs, .out, .fr] s
  unfold execPhaseLimit at h
  injection h with h
  subst h
  with_reducible repeat' first | exact hK | assumption | apply keeps_phaseLimit (sub_of hF)

theorem keeps_execPhaseMapWrite {s sN : State} (m : Fin 4) (v : Word)
    (h : execPhaseMapWrite m v s = .next sN) : Keeps [Kind.regs, .out, .fr] s sN := by
  have hF := List.Subset.refl [Kind.regs, .out, .fr]
  have hK := Keeps.refl [Kind.regs, .out, .fr] s
  unfold execPhaseMapWrite at h
  injection h with h
  subst h
  with_reducible repeat' first | exact hK | assumption | apply keeps_hostWrite (sub_of hF) | apply keeps_phaseMap (sub_of hF)

theorem keeps_execSupplyDip {s sN : State} (r : Rail) (mv : BitVec 16)
    (h : execSupplyDip r mv s = .next sN) : Keeps [Kind.regs, .out, .slots, .ports, .power, .fr] s sN := by
  have hF := List.Subset.refl [Kind.regs, .out, .slots, .ports, .power, .fr]
  have hK := Keeps.refl [Kind.regs, .out, .slots, .ports, .power, .fr] s
  unfold execSupplyDip at h
  injection h with h
  subst h
  with_reducible repeat' first | exact hK | assumption | apply keeps_supplyDip (sub_of hF)

theorem keeps_execRailRecovered {s sN : State} (r : Rail) (mv : BitVec 16)
    (h : execRailRecovered r mv s = .next sN) : Keeps [Kind.regs, .power] s sN := by
  have hF := List.Subset.refl [Kind.regs, .power]
  have hK := Keeps.refl [Kind.regs, .power] s
  unfold execRailRecovered at h
  injection h with h
  subst h
  with_reducible repeat' first | exact hK | assumption | apply keeps_railRecovered (sub_of hF)

theorem keeps_execDipHoldEnd {s sN : State} 
    (h : execDipHoldEnd  s = .next sN) : Keeps [Kind.regs, .power] s sN := by
  have hF := List.Subset.refl [Kind.regs, .power]
  have hK := Keeps.refl [Kind.regs, .power] s
  unfold execDipHoldEnd at h
  injection h with h
  subst h
  with_reducible repeat' first | exact hK | assumption | apply keeps_dipHoldEnd (sub_of hF)

theorem keeps_execRailResetLevel {s sN : State} (r : Rail) (mv : BitVec 16)
    (h : execRailResetLevel r mv s = .next sN) : Keeps [Kind.linkTime, .regs, .pitchAct, .dram, .bar4, .out, .cast, .slots, .ports, .hall, .power, .fr, .mail, .codec, .chans, .page, .mc, .heat, .sb, .loops] s sN := by
  have hF := List.Subset.refl [Kind.linkTime, .regs, .pitchAct, .dram, .bar4, .out, .cast, .slots, .ports, .hall, .power, .fr, .mail, .codec, .chans, .page, .mc, .heat, .sb, .loops]
  have hK := Keeps.refl [Kind.linkTime, .regs, .pitchAct, .dram, .bar4, .out, .cast, .slots, .ports, .hall, .power, .fr, .mail, .codec, .chans, .page, .mc, .heat, .sb, .loops] s
  unfold execRailResetLevel at h
  injection h with h
  subst h
  with_reducible repeat' first | exact hK | assumption | apply keeps_railResetLevel (sub_of hF)

theorem keeps_execStateReqRun {s sN : State} 
    (h : execStateReqRun  s = .next sN) : Keeps [Kind.regs, .pitchAct, .dram, .out, .slots, .ports, .power, .fr, .page, .mc, .heat, .sb, .loops] s sN := by
  have hF := List.Subset.refl [Kind.regs, .pitchAct, .dram, .out, .slots, .ports, .power, .fr, .page, .mc, .heat, .sb, .loops]
  have hK := Keeps.refl [Kind.regs, .pitchAct, .dram, .out, .slots, .ports, .power, .fr, .page, .mc, .heat, .sb, .loops] s
  unfold execStateReqRun at h
  injection h with h
  subst h
  with_reducible repeat' first | exact hK | assumption | apply keeps_hostWrite (sub_of hF) | apply keeps_stateReq (sub_of hF)

theorem keeps_execStateReqDoze {s sN : State} 
    (h : execStateReqDoze  s = .next sN) : Keeps [Kind.regs, .pitchAct, .dram, .out, .slots, .ports, .power, .fr, .page, .mc, .heat, .sb, .loops] s sN := by
  have hF := List.Subset.refl [Kind.regs, .pitchAct, .dram, .out, .slots, .ports, .power, .fr, .page, .mc, .heat, .sb, .loops]
  have hK := Keeps.refl [Kind.regs, .pitchAct, .dram, .out, .slots, .ports, .power, .fr, .page, .mc, .heat, .sb, .loops] s
  unfold execStateReqDoze at h
  injection h with h
  subst h
  with_reducible repeat' first | exact hK | assumption | apply keeps_hostWrite (sub_of hF) | apply keeps_stateReq (sub_of hF)

theorem keeps_execStateReqPark {s sN : State} 
    (h : execStateReqPark  s = .next sN) : Keeps [Kind.regs, .pitchAct, .dram, .out, .slots, .ports, .power, .fr, .page, .mc, .heat, .sb, .loops] s sN := by
  have hF := List.Subset.refl [Kind.regs, .pitchAct, .dram, .out, .slots, .ports, .power, .fr, .page, .mc, .heat, .sb, .loops]
  have hK := Keeps.refl [Kind.regs, .pitchAct, .dram, .out, .slots, .ports, .power, .fr, .page, .mc, .heat, .sb, .loops] s
  unfold execStateReqPark at h
  injection h with h
  subst h
  with_reducible repeat' first | exact hK | assumption | apply keeps_hostWrite (sub_of hF) | apply keeps_stateReq (sub_of hF)

theorem keeps_execEntryComplete {s sN : State} 
    (h : execEntryComplete  s = .next sN) : Keeps [Kind.regs, .pitchAct, .dram, .bar4, .out, .cast, .slots, .ports, .hall, .power, .fr, .mail, .codec, .chans, .page, .mc, .heat, .sb, .loops] s sN := by
  have hF := List.Subset.refl [Kind.regs, .pitchAct, .dram, .bar4, .out, .cast, .slots, .ports, .hall, .power, .fr, .mail, .codec, .chans, .page, .mc, .heat, .sb, .loops]
  have hK := Keeps.refl [Kind.regs, .pitchAct, .dram, .bar4, .out, .cast, .slots, .ports, .hall, .power, .fr, .mail, .codec, .chans, .page, .mc, .heat, .sb, .loops] s
  unfold execEntryComplete at h
  injection h with h
  subst h
  with_reducible repeat' first | exact hK | assumption | apply keeps_entryComplete (sub_of hF)

theorem keeps_execWakeEdge {s sN : State} (m : Fin 16) (rising : Bool)
    (h : execWakeEdge m rising s = .next sN) : Keeps [Kind.linkTime, .regs, .pitchAct, .dram, .bar4, .out, .cast, .slots, .ports, .hall, .power, .fr, .mail, .codec, .chans, .page, .mc, .heat, .sb, .loops] s sN := by
  have hF := List.Subset.refl [Kind.linkTime, .regs, .pitchAct, .dram, .bar4, .out, .cast, .slots, .ports, .hall, .power, .fr, .mail, .codec, .chans, .page, .mc, .heat, .sb, .loops]
  have hK := Keeps.refl [Kind.linkTime, .regs, .pitchAct, .dram, .bar4, .out, .cast, .slots, .ports, .hall, .power, .fr, .mail, .codec, .chans, .page, .mc, .heat, .sb, .loops] s
  unfold execWakeEdge at h
  injection h with h
  subst h
  with_reducible repeat' first | exact hK | assumption | apply keeps_wakeEdge (sub_of hF)

theorem keeps_execDozeExitComplete {s sN : State} 
    (h : execDozeExitComplete  s = .next sN) : Keeps [Kind.regs, .pitchAct, .dram, .out, .freeCount, .slots, .ports, .power, .fr, .page, .mc, .heat, .sb, .loops] s sN := by
  have hF := List.Subset.refl [Kind.regs, .pitchAct, .dram, .out, .freeCount, .slots, .ports, .power, .fr, .page, .mc, .heat, .sb, .loops]
  have hK := Keeps.refl [Kind.regs, .pitchAct, .dram, .out, .freeCount, .slots, .ports, .power, .fr, .page, .mc, .heat, .sb, .loops] s
  unfold execDozeExitComplete at h
  injection h with h
  subst h
  with_reducible repeat' first | exact hK | assumption | apply keeps_dozeExit (sub_of hF)

theorem keeps_execResetN {s sN : State} 
    (h : execResetN  s = .next sN) : Keeps [Kind.linkTime, .regs, .pitchAct, .dram, .bar4, .out, .cast, .slots, .ports, .hall, .power, .fr, .mail, .codec, .chans, .page, .mc, .heat, .sb, .loops] s sN := by
  have hF := List.Subset.refl [Kind.linkTime, .regs, .pitchAct, .dram, .bar4, .out, .cast, .slots, .ports, .hall, .power, .fr, .mail, .codec, .chans, .page, .mc, .heat, .sb, .loops]
  have hK := Keeps.refl [Kind.linkTime, .regs, .pitchAct, .dram, .bar4, .out, .cast, .slots, .ports, .hall, .power, .fr, .mail, .codec, .chans, .page, .mc, .heat, .sb, .loops] s
  unfold execResetN at h
  injection h with h
  subst h
  with_reducible repeat' first | exact hK | assumption | apply keeps_resetN (sub_of hF)

theorem keeps_execResetNRelease {s sN : State} 
    (h : execResetNRelease  s = .next sN) : Keeps [Kind.power] s sN := by
  have hF := List.Subset.refl [Kind.power]
  have hK := Keeps.refl [Kind.power] s
  unfold execResetNRelease at h
  injection h with h
  subst h
  with_reducible repeat' first | exact hK | assumption | apply keeps_modPower (sub_of hF)

theorem keeps_execPerst {s sN : State} 
    (h : execPerst  s = .next sN) : Keeps [Kind.regs] s sN := by
  have hF := List.Subset.refl [Kind.regs]
  have hK := Keeps.refl [Kind.regs] s
  unfold execPerst at h
  injection h with h
  subst h
  with_reducible repeat' first | exact hK | assumption | apply keeps_perst (sub_of hF)

theorem keeps_execWarm {s sN : State} (v : Word)
    (h : execWarm v s = .next sN) : Keeps [Kind.regs, .pitchAct, .dram, .bar4, .out, .freeCount, .cast, .slots, .ports, .hall, .power, .fr, .mail, .codec, .chans, .page, .mc, .heat, .sb, .loops] s sN := by
  have hF := List.Subset.refl [Kind.regs, .pitchAct, .dram, .bar4, .out, .freeCount, .cast, .slots, .ports, .hall, .power, .fr, .mail, .codec, .chans, .page, .mc, .heat, .sb, .loops]
  have hK := Keeps.refl [Kind.regs, .pitchAct, .dram, .bar4, .out, .freeCount, .cast, .slots, .ports, .hall, .power, .fr, .mail, .codec, .chans, .page, .mc, .heat, .sb, .loops] s
  unfold execWarm at h
  injection h with h
  subst h
  with_reducible repeat' first | exact hK | assumption | apply keeps_hostWrite (sub_of hF) | apply keeps_genReset (sub_of hF)

theorem keeps_execEngine {s sN : State} (v : Word)
    (h : execEngine v s = .next sN) : Keeps [Kind.regs, .pitchAct, .dram, .bar4, .out, .freeCount, .cast, .slots, .ports, .hall, .power, .fr, .mail, .codec, .chans, .page, .mc, .heat, .sb, .loops] s sN := by
  have hF := List.Subset.refl [Kind.regs, .pitchAct, .dram, .bar4, .out, .freeCount, .cast, .slots, .ports, .hall, .power, .fr, .mail, .codec, .chans, .page, .mc, .heat, .sb, .loops]
  have hK := Keeps.refl [Kind.regs, .pitchAct, .dram, .bar4, .out, .freeCount, .cast, .slots, .ports, .hall, .power, .fr, .mail, .codec, .chans, .page, .mc, .heat, .sb, .loops] s
  unfold execEngine at h
  injection h with h
  subst h
  with_reducible repeat' first | exact hK | assumption | apply keeps_hostWrite (sub_of hF) | apply keeps_genReset (sub_of hF)

theorem keeps_execFabric {s sN : State} (v : Word)
    (h : execFabric v s = .next sN) : Keeps [Kind.regs, .pitchAct, .dram, .bar4, .out, .freeCount, .cast, .slots, .ports, .hall, .power, .fr, .mail, .codec, .chans, .page, .mc, .heat, .sb, .loops] s sN := by
  have hF := List.Subset.refl [Kind.regs, .pitchAct, .dram, .bar4, .out, .freeCount, .cast, .slots, .ports, .hall, .power, .fr, .mail, .codec, .chans, .page, .mc, .heat, .sb, .loops]
  have hK := Keeps.refl [Kind.regs, .pitchAct, .dram, .bar4, .out, .freeCount, .cast, .slots, .ports, .hall, .power, .fr, .mail, .codec, .chans, .page, .mc, .heat, .sb, .loops] s
  unfold execFabric at h
  injection h with h
  subst h
  with_reducible repeat' first | exact hK | assumption | apply keeps_hostWrite (sub_of hF) | apply keeps_genReset (sub_of hF)

theorem keeps_execFabricResetComplete {s sN : State} 
    (h : execFabricResetComplete  s = .next sN) : Keeps [Kind.slots, .power] s sN := by
  have hF := List.Subset.refl [Kind.slots, .power]
  have hK := Keeps.refl [Kind.slots, .power] s
  unfold execFabricResetComplete at h
  injection h with h
  subst h
  with_reducible repeat' first | exact hK | assumption | apply keeps_fabricDone (sub_of hF)

theorem keeps_execWatchdogExpiry {s sN : State} 
    (h : execWatchdogExpiry  s = .next sN) : Keeps [Kind.regs, .pitchAct, .dram, .bar4, .out, .cast, .slots, .ports, .hall, .power, .fr, .mail, .codec, .chans, .page, .mc, .heat, .sb, .loops] s sN := by
  have hF := List.Subset.refl [Kind.regs, .pitchAct, .dram, .bar4, .out, .cast, .slots, .ports, .hall, .power, .fr, .mail, .codec, .chans, .page, .mc, .heat, .sb, .loops]
  have hK := Keeps.refl [Kind.regs, .pitchAct, .dram, .bar4, .out, .cast, .slots, .ports, .hall, .power, .fr, .mail, .codec, .chans, .page, .mc, .heat, .sb, .loops] s
  unfold execWatchdogExpiry at h
  injection h with h
  subst h
  iterate 60 (first | done | with_reducible exact hK | with_reducible assumption | with_reducible apply keeps_warmReset (sub_of hF) | split | (intro _; intros) | dsimp only)

theorem keeps_execSupervisorTimeout {s sN : State} 
    (h : execSupervisorTimeout  s = .next sN) : Keeps [Kind.regs, .pitchAct, .dram, .bar4, .out, .cast, .slots, .ports, .hall, .power, .fr, .mail, .codec, .chans, .page, .mc, .heat, .sb, .loops] s sN := by
  have hF := List.Subset.refl [Kind.regs, .pitchAct, .dram, .bar4, .out, .cast, .slots, .ports, .hall, .power, .fr, .mail, .codec, .chans, .page, .mc, .heat, .sb, .loops]
  have hK := Keeps.refl [Kind.regs, .pitchAct, .dram, .bar4, .out, .cast, .slots, .ports, .hall, .power, .fr, .mail, .codec, .chans, .page, .mc, .heat, .sb, .loops] s
  unfold execSupervisorTimeout at h
  injection h with h
  subst h
  with_reducible repeat' first | exact hK | assumption | apply keeps_warmReset (sub_of hF) | split

theorem keeps_execWdogKick {s sN : State} 
    (h : execWdogKick  s = .next sN) : Keeps [Kind.regs, .out, .power, .fr] s sN := by
  have hF := List.Subset.refl [Kind.regs, .out, .power, .fr]
  have hK := Keeps.refl [Kind.regs, .out, .power, .fr] s
  unfold execWdogKick at h
  injection h with h
  subst h
  iterate 60 (first | done | with_reducible exact hK | with_reducible assumption | with_reducible apply keeps_hostWrite (sub_of hF) | with_reducible apply keeps_kickWdog (sub_of hF) | split | (intro _; intros) | dsimp only)

theorem keeps_execWdogWrite {s sN : State} (v : Word)
    (h : execWdogWrite v s = .next sN) : Keeps [Kind.regs, .out, .power, .fr] s sN := by
  have hF := List.Subset.refl [Kind.regs, .out, .power, .fr]
  have hK := Keeps.refl [Kind.regs, .out, .power, .fr] s
  unfold execWdogWrite at h
  injection h with h
  subst h
  with_reducible repeat' first | exact hK | assumption | apply keeps_hostWrite (sub_of hF) | apply keeps_wdogWrite (sub_of hF)

theorem keeps_execFrFaultClear {s sN : State} (v : Word)
    (h : execFrFaultClear v s = .next sN) : Keeps [Kind.regs, .out, .fr] s sN := by
  have hF := List.Subset.refl [Kind.regs, .out, .fr]
  have hK := Keeps.refl [Kind.regs, .out, .fr] s
  unfold execFrFaultClear at h
  injection h with h
  subst h
  with_reducible repeat' first | exact hK | assumption | apply keeps_hostWrite (sub_of hF) | apply keeps_faultClear (sub_of hF)

theorem keeps_execHostHaltSet {s sN : State} (v : Word)
    (h : execHostHaltSet v s = .next sN) : Keeps [Kind.regs, .out, .slots, .ports, .fr] s sN := by
  have hF := List.Subset.refl [Kind.regs, .out, .slots, .ports, .fr]
  have hK := Keeps.refl [Kind.regs, .out, .slots, .ports, .fr] s
  unfold execHostHaltSet at h
  injection h with h
  subst h
  with_reducible repeat' first | exact hK | assumption | apply keeps_hostWrite (sub_of hF) | apply keeps_haltWrite (sub_of hF)

theorem keeps_execHostHaltClear {s sN : State} (v : Word)
    (h : execHostHaltClear v s = .next sN) : Keeps [Kind.regs, .out, .slots, .ports, .fr] s sN := by
  have hF := List.Subset.refl [Kind.regs, .out, .slots, .ports, .fr]
  have hK := Keeps.refl [Kind.regs, .out, .slots, .ports, .fr] s
  unfold execHostHaltClear at h
  injection h with h
  subst h
  with_reducible repeat' first | exact hK | assumption | apply keeps_hostWrite (sub_of hF) | apply keeps_haltWrite (sub_of hF)

theorem keeps_execLogClear {s sN : State} (v : Word)
    (h : execLogClear v s = .next sN) : Keeps [Kind.regs, .out, .fr] s sN := by
  have hF := List.Subset.refl [Kind.regs, .out, .fr]
  have hK := Keeps.refl [Kind.regs, .out, .fr] s
  unfold execLogClear at h
  injection h with h
  subst h
  with_reducible repeat' first | exact hK | assumption | apply keeps_hostWrite (sub_of hF) | apply keeps_logClr (sub_of hF)

theorem keeps_execFrRelease {s sN : State} (v : Word)
    (h : execFrRelease v s = .next sN) : Keeps [Kind.regs, .out, .slots, .fr] s sN := by
  have hF := List.Subset.refl [Kind.regs, .out, .slots, .fr]
  have hK := Keeps.refl [Kind.regs, .out, .slots, .fr] s
  unfold execFrRelease at h
  injection h with h
  subst h
  with_reducible repeat' first | exact hK | assumption | apply keeps_hostWrite (sub_of hF) | apply keeps_frRelease (sub_of hF)

theorem keeps_execFrSeize {s sN : State} (v : Word)
    (h : execFrSeize v s = .next sN) : Keeps [Kind.regs, .dram, .out, .ports, .fr, .codec, .page, .sb] s sN := by
  have hF := List.Subset.refl [Kind.regs, .dram, .out, .ports, .fr, .codec, .page, .sb]
  have hK := Keeps.refl [Kind.regs, .dram, .out, .ports, .fr, .codec, .page, .sb] s
  unfold execFrSeize at h
  injection h with h
  subst h
  with_reducible repeat' first | exact hK | assumption | apply keeps_hostWrite (sub_of hF) | apply keeps_frSeize (sub_of hF)

theorem keeps_execGraceEnd {s sN : State} (q : Party)
    (h : execGraceEnd q s = .next sN) : Keeps [Kind.regs, .dram, .out, .ports, .fr, .codec, .page, .sb] s sN := by
  have hF := List.Subset.refl [Kind.regs, .dram, .out, .ports, .fr, .codec, .page, .sb]
  have hK := Keeps.refl [Kind.regs, .dram, .out, .ports, .fr, .codec, .page, .sb] s
  unfold execGraceEnd at h
  injection h with h
  subst h
  with_reducible repeat' first | exact hK | assumption | apply keeps_graceEnd (sub_of hF)

theorem keeps_execRasterEnd {s sN : State} (n : Slot)
    (h : execRasterEnd n s = .next sN) : Keeps [Kind.regs, .out, .slots, .fr] s sN := by
  have hF := List.Subset.refl [Kind.regs, .out, .slots, .fr]
  have hK := Keeps.refl [Kind.regs, .out, .slots, .fr] s
  unfold execRasterEnd at h
  injection h with h
  subst h
  with_reducible repeat' first | exact hK | assumption | apply keeps_judgeRaster (sub_of hF) | apply keeps_rasterEnd (sub_of hF) | split

theorem keeps_execFrameBoundary {s sN : State} (n : Slot) (i : BoundaryIn)
    (h : execFrameBoundary n i s = .next sN) : Keeps [Kind.regs, .pitchAct, .dram, .out, .freeCount, .cast, .slots, .ports, .power, .fr, .codec, .chans, .page, .mc, .heat, .sb, .loops] s sN := by
  have hF := List.Subset.refl [Kind.regs, .pitchAct, .dram, .out, .freeCount, .cast, .slots, .ports, .power, .fr, .codec, .chans, .page, .mc, .heat, .sb, .loops]
  have hK := Keeps.refl [Kind.regs, .pitchAct, .dram, .out, .freeCount, .cast, .slots, .ports, .power, .fr, .codec, .chans, .page, .mc, .heat, .sb, .loops] s
  unfold execFrameBoundary at h
  injection h with h
  subst h
  with_reducible repeat' first | exact hK | assumption | apply keeps_whileUp (sub_of hF) | apply keeps_serveQueued (sub_of hF) | apply keeps_noteState (sub_of hF) | apply keeps_frameBoundary (sub_of hF) | split | (intro _; intros)

theorem keeps_execPitchW0Write {s sN : State} (p : PitchId) (v : Word)
    (h : execPitchW0Write p v s = .next sN) : Keeps [Kind.regs, .pitchAct, .out, .slots, .fr, .sb] s sN := by
  have hF := List.Subset.refl [Kind.regs, .pitchAct, .out, .slots, .fr, .sb]
  have hK := Keeps.refl [Kind.regs, .pitchAct, .out, .slots, .fr, .sb] s
  unfold execPitchW0Write at h
  injection h with h
  subst h
  with_reducible repeat' first | exact hK | assumption | apply keeps_pitchWrite (sub_of hF)

theorem keeps_execCalJobWrite {s sN : State} (p : PitchId) (w : Fin 16) (v : Word)
    (h : execCalJobWrite p w v s = .next sN) : Keeps [Kind.regs, .pitchAct, .out, .slots, .fr, .sb] s sN := by
  have hF := List.Subset.refl [Kind.regs, .pitchAct, .out, .slots, .fr, .sb]
  have hK := Keeps.refl [Kind.regs, .pitchAct, .out, .slots, .fr, .sb] s
  unfold execCalJobWrite at h
  injection h with h
  subst h
  with_reducible repeat' first | exact hK | assumption | apply keeps_pitchWrite (sub_of hF)

theorem keeps_execLinkTimeLoRead {s sN : State} 
    (h : execLinkTimeLoRead  s = .next sN) : Keeps [Kind.regs, .busData] s sN := by
  have hF := List.Subset.refl [Kind.regs, .busData]
  have hK := Keeps.refl [Kind.regs, .busData] s
  unfold execLinkTimeLoRead at h
  injection h with h
  subst h
  with_reducible repeat' first | exact hK | assumption | apply keeps_hostData (sub_of hF) | apply keeps_registerRead (sub_of hF) | split

theorem keeps_execRegisterWrite {s sN : State} (bar : Bar) (off : BitVec 26) (size : Nat) (acc : Access)
    (h : execRegisterWrite bar off size acc s = .next sN) : Keeps [Kind.regs, .pitchAct, .dram, .bar4, .busData, .out, .freeCount, .cast, .slots, .ports, .hall, .power, .fr, .mail, .codec, .chans, .page, .mc, .heat, .sb, .loops] s sN := by
  have hF := List.Subset.refl [Kind.regs, .pitchAct, .dram, .bar4, .busData, .out, .freeCount, .cast, .slots, .ports, .hall, .power, .fr, .mail, .codec, .chans, .page, .mc, .heat, .sb, .loops]
  have hK := Keeps.refl [Kind.regs, .pitchAct, .dram, .bar4, .busData, .out, .freeCount, .cast, .slots, .ports, .hall, .power, .fr, .mail, .codec, .chans, .page, .mc, .heat, .sb, .loops] s
  unfold execRegisterWrite at h
  try dsimp only at h
  repeat' split at h
  all_goals first | contradiction | skip
  all_goals
    injection h with h
    subst h
    with_reducible repeat' first | exact hK | assumption | apply keeps_bar0Access (sub_of hF) | apply keeps_oddAccess (sub_of hF) | apply keeps_bar4Access (sub_of hF)

end Sys2Proof.Machine
end

