-- ==== Sys2Proof/Laws/Regs.lean ====
section
/-! SUPPORT. Which register words the operations of Machine/Ops.lean write, and what a field reads after a write of it. -/

set_option Elab.async false

namespace Sys2Proof.Machine

/-! ## Fields -/

theorem fld_lt {w : Nat} (v : BitVec w) (hi lo : Nat) : fld v hi lo < 2 ^ (hi + 1 - lo) := by
  unfold fld; exact BitVec.isLt _

theorem rfld_setFld_same {s : State} (w : s.regs.wf = true) (a : Nat) {hi lo : Nat} (x : Nat) (hh : hi < 32) (hl : lo ≤ hi) :
    rfld (setFld a hi lo x s) a hi lo = x % 2 ^ (hi + 1 - lo) := by
  rw [rfld, reg_setFld_same w, fld_putFld_same _ _ hh hl]

theorem rfld_setFld_out {s : State} (w : s.regs.wf = true) (a : Nat) {hi lo i j : Nat} (x : Nat) (hh : hi < 32) (hl : lo ≤ hi)
    (h : i < lo ∨ hi < j) (hij : j ≤ i) : rfld (setFld a hi lo x s) a i j = rfld s a i j := by
  rw [rfld, reg_setFld_same w, fld_putFld_out _ _ hh hl h hij, rfld]

theorem rfld_setFld_ne {s : State} (w : s.regs.wf = true) {a k : Nat} (hi lo x i j : Nat) (h : k ≠ a) :
    rfld (setFld a hi lo x s) k i j = rfld s k i j := by
  rw [rfld, reg_setFld_ne w _ _ _ h, rfld]

theorem rbit_setBit_same {s : State} (w : s.regs.wf = true) (a : Nat) {i : Nat} (b : Bool) (hi : i < 32) :
    rbit (setBit a i b s) a i = b := by
  rw [rbit, setBit, reg_setFld_same w, bit, putFld_bit _ _ hi (le_refl i) hi]
  cases b <;> simp

theorem rbit_setFld_out {s : State} (w : s.regs.wf = true) (a : Nat) {hi lo i : Nat} (x : Nat) (hh : hi < 32) (hl : lo ≤ hi)
    (h : i < lo ∨ hi < i) : rbit (setFld a hi lo x s) a i = rbit s a i := by
  rw [rbit, reg_setFld_same w, bit_putFld_out _ _ hh hl h, rbit]

theorem rbit_setBit_ne {s : State} (w : s.regs.wf = true) (a : Nat) {i j : Nat} (b : Bool) (hi : j < 32) (h : i ≠ j) :
    rbit (setBit a j b s) a i = rbit s a i :=
  rbit_setFld_out w a _ hi (le_refl j) (by omega)

theorem rbit_setReg_same {s : State} (w : s.regs.wf = true) (a i : Nat) (v : Word) : rbit (setReg a v s) a i = bit v i := by
  rw [rbit, reg_setReg_same w]

/-! ## Words put together from fields -/

theorem fld_or {w : Nat} (a b : BitVec w) (hi lo : Nat) : fld (a ||| b) hi lo = fld a hi lo ||| fld b hi lo := by
  simp [fld, BitVec.extractLsb'_or]

theorem fld_and {w : Nat} (a b : BitVec w) (hi lo : Nat) : fld (a &&& b) hi lo = fld a hi lo &&& fld b hi lo := by
  simp [fld, BitVec.extractLsb'_and]

theorem fld_zero {w : Nat} (hi lo : Nat) : fld (0 : BitVec w) hi lo = 0 := by
  simp [fld]

theorem at_eq_putFld (hi lo x : Nat) : at_ hi lo x = putFld 0 hi lo x := by
  simp [at_, putFld]

theorem fld_at_same {hi lo : Nat} (x : Nat) (hh : hi < 32) (hl : lo ≤ hi) : fld (at_ hi lo x) hi lo = x % 2 ^ (hi + 1 - lo) := by
  rw [at_eq_putFld, fld_putFld_same _ _ hh hl]

theorem fld_at_out {hi lo a b : Nat} (x : Nat) (hh : hi < 32) (hl : lo ≤ hi) (h : a < lo ∨ hi < b) (hb : b ≤ a) :
    fld (at_ hi lo x) a b = 0 := by
  rw [at_eq_putFld, fld_putFld_out _ _ hh hl h hb, fld_zero]

/-! ## Vectors and the log -/

/-- Raising a vector writes one word of the pending-bit array at most (R358). -/
theorem raiseVec_regs {s : State} (w : s.regs.wf = true) (v : Nat) :
    (raiseVec v s).regs.wf = true ∧ ∀ a, a ≠ Reg.msixPba + 4 * (v / 32) → reg (raiseVec v s) a = reg s a := by
  unfold raiseVec
  split
  · exact ⟨w, fun _ _ => rfl⟩
  · split
    · exact ⟨setBit_wf w _ _ _, fun a h => reg_setFld_ne w _ _ _ h⟩
    · exact ⟨w, fun _ _ => rfl⟩

theorem frLog_area {i w : Nat} (hi : i < 64) (hw : w < 4) : Reg.frLog 0 0 ≤ Reg.frLog i w ∧ Reg.frLog i w < Reg.frLog 64 0 := by
  simp only [Reg.frLog]; omega

theorem logRing_regs {s : State} (w : s.regs.wf = true) (w0 : Word) (d : Nat) :
    (logRing w0 d s).regs.wf = true ∧ ∀ a, ¬ logArea a → reg (logRing w0 d s) a = reg s a := by
  have hd : rfld s Reg.frLogStat 13 8 < 64 := fld_lt _ 13 8
  unfold logRing
  extract_lets head count r f i s1 s2 s3 s4 s5 s6 f2
  split
  · refine ⟨setFld_wf w _ _ _ _, fun a h => reg_setFld_ne w _ _ _ fun e => h (Or.inr (Or.inr (Or.inr ?_)))⟩
    rw [e]
    exact frLog_area hd (by omega)
  · have hi : i < 64 := by unfold i; split <;> omega
    have w1 := setReg_wf w (Reg.frLog i 0) w0
    have w2 := setReg_wf w1 (Reg.frLog i 1) (s.linkTime.setWidth 32)
    have w3 := setReg_wf w2 (Reg.frLog i 2) (at_ 15 0 (fld s.linkTime 47 32))
    have w4 := setReg_wf w3 (Reg.frLog i 3) (BitVec.ofNat 32 d)
    have w5 := setFld_wf w4 Reg.frLogStat 13 8 i
    have w6 : s6.regs.wf = true := by unfold s6; split <;> exact setFld_wf w5 _ _ _ _
    refine ⟨w6, fun a h => ?_⟩
    have ha (k : Nat) (hk : k < 4) : a ≠ Reg.frLog i k := fun e => h (Or.inr (Or.inr (Or.inr (e ▸ frLog_area hi hk))))
    have hs : a ≠ Reg.frLogStat := fun e => h (Or.inr (Or.inl e))
    have e6 : reg s6 a = reg s5 a := by unfold s6; split <;> exact reg_setFld_ne w5 _ _ _ hs
    calc reg s6 a = reg s5 a := e6
      _ = reg s4 a := reg_setFld_ne w4 _ _ _ hs
      _ = reg s3 a := reg_setReg_ne w3 _ (ha 3 (by omega))
      _ = reg s2 a := reg_setReg_ne w2 _ (ha 2 (by omega))
      _ = reg s1 a := reg_setReg_ne w1 _ (ha 1 (by omega))
      _ = reg s a := reg_setReg_ne w _ (ha 0 (by omega))

/-- Logging an event writes no word but those of logArea. -/
theorem logEvent_regs {s : State} (w : s.regs.wf = true) (c : Status) (cls id d : Nat) :
    (logEvent c cls id d s).regs.wf = true ∧ ∀ a, ¬ logArea a → reg (logEvent c cls id d s) a = reg s a := by
  have h := logRing_regs w (logWord c cls id) d
  unfold logEvent
  extract_lets s1
  have w1 : s1.regs.wf = true := h.1
  have e1 : ∀ a, ¬ logArea a → reg s1 a = reg s a := h.2
  split
  · rename_i b _
    have w2 := setBit_wf w1 Reg.frFault b true
    have h3 := raiseVec_regs w2 2
    refine ⟨h3.1, fun a ha => ?_⟩
    rw [setFault, h3.2 a (fun e => ha (Or.inl e)), setBit, reg_setFld_ne w1 _ _ _ (fun e => ha (Or.inr (Or.inr (Or.inl e)))), e1 a ha]
  · exact ⟨w1, e1⟩

/-- An event with a bit of FR_FAULT sets it when it is logged (R461). -/
theorem logEvent_fault {s : State} (w : s.regs.wf = true) {c : Status} {b : Nat} (h : faultBit c = some b) (hb : b < 32)
    (cls id d : Nat) : rbit (logEvent c cls id d s) Reg.frFault b = true := by
  have h1 := logRing_regs w (logWord c cls id) d
  unfold logEvent
  rw [h]
  dsimp only
  have h3 := raiseVec_regs (setBit_wf h1.1 Reg.frFault b true) 2
  rw [setFault, rbit, h3.2 _ (by decide)]
  exact rbit_setBit_same h1.1 _ _ hb

theorem logAccess_regs {s : State} (w : s.regs.wf = true) (c : Status) (bar off : Nat) :
    (logAccess c bar off s).regs.wf = true ∧ ∀ a, ¬ logArea a → reg (logAccess c bar off s) a = reg s a :=
  logEvent_regs w _ _ _ _

theorem logRing_newest {s : State} (w : s.regs.wf = true) (w0 : Word) (d : Nat) : newestLog (logRing w0 d s) = w0 := by
  have hd : rfld s Reg.frLogStat 13 8 < 64 := fld_lt _ 13 8
  unfold logRing
  extract_lets head count r f i s1 s2 s3 s4 s5 s6 f2
  split
  · rename_i h
    have e1 : rfld r Reg.frLogStat 13 8 = head :=
      rfld_setFld_ne w _ _ _ _ _ (by simp only [Reg.frLogStat, Reg.frLog]; omega)
    have e2 : reg r (Reg.frLog head 0) = w0 :=
      (reg_setFld_ne w _ _ _ (by simp only [Reg.frLog]; omega)).trans h.2.1
    change reg r (Reg.frLog (rfld r Reg.frLogStat 13 8) 0) = w0
    rw [e1, e2]
  · have hi : i < 64 := by unfold i; split <;> omega
    have w1 := setReg_wf w (Reg.frLog i 0) w0
    have w2 := setReg_wf w1 (Reg.frLog i 1) (s.linkTime.setWidth 32)
    have w3 := setReg_wf w2 (Reg.frLog i 2) (at_ 15 0 (fld s.linkTime 47 32))
    have w4 := setReg_wf w3 (Reg.frLog i 3) (BitVec.ofNat 32 d)
    have w5 := setFld_wf w4 Reg.frLogStat 13 8 i
    have ns : Reg.frLog i 0 ≠ Reg.frLogStat := by simp only [Reg.frLogStat, Reg.frLog]; omega
    have e1 : rfld s6 Reg.frLogStat 13 8 = i := by
      have e5 : rfld s5 Reg.frLogStat 13 8 = i := (rfld_setFld_same w4 _ _ (by omega) (by omega)).trans (Nat.mod_eq_of_lt (by omega))
      unfold s6
      split
      · exact (rfld_setFld_out w5 _ _ (by omega) (by omega) (by omega) (by omega)).trans e5
      · exact (rfld_setFld_out w5 _ _ (by omega) (by omega) (by omega) (by omega)).trans e5
    have e2 : reg s6 (Reg.frLog i 0) = w0 := by
      have e6 : reg s6 (Reg.frLog i 0) = reg s5 (Reg.frLog i 0) := by unfold s6; split <;> exact reg_setFld_ne w5 _ _ _ ns
      calc reg s6 (Reg.frLog i 0) = reg s5 (Reg.frLog i 0) := e6
        _ = reg s4 (Reg.frLog i 0) := reg_setFld_ne w4 _ _ _ ns
        _ = reg s3 (Reg.frLog i 0) := reg_setReg_ne w3 _ (by simp only [Reg.frLog]; omega)
        _ = reg s2 (Reg.frLog i 0) := reg_setReg_ne w2 _ (by simp only [Reg.frLog]; omega)
        _ = reg s1 (Reg.frLog i 0) := reg_setReg_ne w1 _ (by simp only [Reg.frLog]; omega)
        _ = w0 := reg_setReg_same w _ _
    change reg s6 (Reg.frLog (rfld s6 Reg.frLogStat 13 8) 0) = w0
    rw [e1, e2]

/-- A word that differs from the log's area leaves the newest entry. -/
theorem newestLog_of_kept {s t : State} (h : ∀ a, a = Reg.frLogStat ∨ Reg.frLog 0 0 ≤ a ∧ a < Reg.frLog 64 0 → reg t a = reg s a) :
    newestLog t = newestLog s := by
  have hd : rfld s Reg.frLogStat 13 8 < 64 := fld_lt _ 13 8
  have e : rfld t Reg.frLogStat 13 8 = rfld s Reg.frLogStat 13 8 := by rw [rfld, rfld, h _ (Or.inl rfl)]
  unfold newestLog
  rw [e, h _ (Or.inr (frLog_area hd (by omega)))]

/-- The newest entry after an event is logged is that event (R459). -/
theorem logEvent_newest {s : State} (w : s.regs.wf = true) (c : Status) (cls id d : Nat) :
    newestLog (logEvent c cls id d s) = logWord c cls id := by
  have h := logRing_regs w (logWord c cls id) d
  have hn := logRing_newest w (logWord c cls id) d
  unfold logEvent
  extract_lets s1
  split
  · rename_i b _
    have h3 := raiseVec_regs (setBit_wf (a := Reg.frFault) (i := b) (b := true) (s := s1) h.1) 2
    refine Eq.trans (newestLog_of_kept fun a ha => ?_) hn
    rw [setFault, h3.2 a (by simp only [Reg.frLogStat, Reg.frLog, Reg.msixPba] at *; omega), setBit,
      reg_setFld_ne h.1 _ _ _ (by simp only [Reg.frLogStat, Reg.frLog, Reg.frFault] at *; omega)]
  · exact hn

theorem logAccess_newest {s : State} (w : s.regs.wf = true) (c : Status) (bar off : Nat) :
    newestLog (logAccess c bar off s) = logWord c clsHost 0 := logEvent_newest w _ _ _ _

/-! ## A range of words taken away -/

theorem find?_filter_key {α : Type} (p : Nat → Bool) {m : List (Nat × α)} (h : rising m = true) (k : Nat) :
    find? (m.filter fun e => p e.1) k = if p k then find? m k else none := by
  induction m with
  | nil => simp [find?]
  | cons e m ih =>
    obtain ⟨a, v⟩ := e
    obtain ⟨ha, hr⟩ := rising_cons.1 h
    by_cases hp : p a = true
    · rw [List.filter_cons_of_pos (by simpa using hp)]
      simp only [find?]
      by_cases hk : a = k
      · subst hk; simp [hp]
      · by_cases hl : k < a
        · simp [hk, hl]
        · simp [hk, hl, ih hr]
    · rw [List.filter_cons_of_neg (by simpa using hp), ih hr]
      simp only [find?]
      by_cases hk : a = k
      · subst hk; simp [hp]
      · by_cases hl : k < a
        · have : find? m k = none := find?_above fun e he => lt_trans hl (ha e he)
          simp [hk, hl, this]
        · simp [hk, hl]

theorem SMap.get_clearRange {m : SMap 32} (h : m.wf = true) (lo hi a : Nat) :
    (m.clearRange lo hi).get a = if lo ≤ a ∧ a < hi then 0 else m.get a := by
  unfold SMap.clearRange SMap.get
  rw [find?_filter_key (fun x => decide (x < lo) || decide (hi ≤ x)) (SMap.wf_rising h)]
  by_cases hk : lo ≤ a ∧ a < hi
  · rw [if_neg (by simp; omega), if_pos hk]; rfl
  · rw [if_pos (by simp; omega), if_neg hk]

end Sys2Proof.Machine
end

