-- ==== Sys2Proof/Laws/LightRegs.lean ====
section
/-! SUPPORT. The operations on light channels and LEN_n write registers of light channels and laser supplies alone, and leave
the Cast that each slot runs as it is. -/

set_option Elab.async false

namespace Sys2Proof.Machine

/-- LC registers above LC_LEN_STAT, LC_LEN_STAT itself where stat holds, and laser-supply registers. -/
def lightArea (stat : Bool) (a : Nat) : Prop :=
  a = Reg.lcLenStat ∧ stat = true ∨ Reg.lcLenStat < a ∧ a < 0x900000 ∨ 0x1110000 ≤ a ∧ a < 0x1120000

/-- From s to t register words keep their canonical form, each slot runs what it ran, every word up to LC_LEN_CTRL is as it
was, and so is every word outside lightArea where the Cast names no channel beyond 95. -/
def LightKept (stat : Bool) (s t : State) : Prop := s.regs.wf = true →
  t.regs.wf = true ∧ (∀ n, cfgOf t n = cfgOf s n) ∧ (∀ a, a ≤ Reg.lcLenCtrl → reg t a = reg s a) ∧
  (ChansExist s → ∀ a, ¬ lightArea stat a → reg t a = reg s a)

variable {stat : Bool}

theorem LightKept.refl (s : State) : LightKept stat s s := fun w => ⟨w, fun _ => rfl, fun _ _ => rfl, fun _ _ _ => rfl⟩

theorem LightKept.cfg {s t : State} (h : LightKept stat s t) (w : s.regs.wf = true) (n : Nat) : cfgOf t n = cfgOf s n := (h w).2.1 n

theorem LightKept.ofEq {s t u : State} (h : LightKept stat s t) (e : u.regs = t.regs) (f : ∀ n, cfgOf u n = cfgOf t n) :
    LightKept stat s u := fun w =>
  ⟨e ▸ (h w).1, fun n => (f n).trans ((h w).2.1 n), fun a ha => by rw [reg, e]; exact (h w).2.2.1 a ha,
    fun c a ha => by rw [reg, e]; exact (h w).2.2.2 c a ha⟩

/-- A register of lightArea is written; that it lies there may rest on what the Casts name. -/
theorem LightKept.setReg {s t : State} (h : LightKept stat s t) {b : Nat} (hb : Reg.lcLenCtrl < b)
    (hl : s.regs.wf = true → ChansExist s → lightArea stat b) (v : Word) : LightKept stat s (setReg b v t) := fun w =>
  ⟨setReg_wf (h w).1 _ _, (h w).2.1,
    fun a ha => (reg_setReg_ne (h w).1 _ (by omega)).trans ((h w).2.2.1 a ha),
    fun c a ha => (reg_setReg_ne (h w).1 _ (fun e => ha (by rw [e]; exact hl w c))).trans ((h w).2.2.2 c a ha)⟩

theorem LightKept.setFld {s t : State} (h : LightKept stat s t) {b : Nat} (hb : Reg.lcLenCtrl < b)
    (hl : s.regs.wf = true → ChansExist s → lightArea stat b) (hi lo x : Nat) : LightKept stat s (setFld b hi lo x t) := h.setReg hb hl _

theorem LightKept.setBit {s t : State} (h : LightKept stat s t) {b : Nat} (hb : Reg.lcLenCtrl < b)
    (hl : s.regs.wf = true → ChansExist s → lightArea stat b) (i : Nat) (x : Bool) : LightKept stat s (setBit b i x t) := h.setReg hb hl _

theorem LightKept.incSat {s t : State} (h : LightKept stat s t) {b : Nat} (hb : Reg.lcLenCtrl < b)
    (hl : s.regs.wf = true → ChansExist s → lightArea stat b) (hi lo : Nat) : LightKept stat s (incSat b hi lo t) := h.setReg hb hl _

theorem LightKept.setRegs {s t : State} (h : LightKept stat s t) {l : List (Nat × Word)}
    (hl : ∀ e ∈ l, Reg.lcLenCtrl < e.1 ∧ (s.regs.wf = true → ChansExist s → lightArea stat e.1)) : LightKept stat s (setRegs l t) := by
  induction l generalizing t with
  | nil => exact h
  | cons e l ih => exact ih (h.setReg (hl e (by simp)).1 (hl e (by simp)).2 e.2) fun x hx => hl x (by simp [hx])

theorem LightKept.forAll {s t : State} (h : LightKept stat s t) (l : List Nat) {f : Nat → State → State}
    (hf : ∀ i ∈ l, ∀ u, LightKept stat s u → LightKept stat s (f i u)) : LightKept stat s (forAll l f t) := by
  induction l generalizing t with
  | nil => exact h
  | cons i l ih => exact ih (hf i (by simp) t h) fun j hj => hf j (by simp [hj])

theorem cfgOf_modSlot {n : Nat} {f : SlotState → SlotState} (hf : ∀ q, (f q).cfg = q.cfg) (s : State) (k : Nat) :
    cfgOf (modSlot n f s) k = cfgOf s k := by
  unfold cfgOf
  by_cases hk : k = n
  · subst hk
    by_cases h8 : k < 8
    · rw [slotAt_modSlot_same h8, hf]
    · unfold modSlot; rw [dif_neg h8]
  · rw [slotAt_modSlot_ne hk]

theorem LightKept.modSlot {s t : State} (h : LightKept stat s t) (n : Nat) (f : SlotState → SlotState)
    (hf : ∀ q, (f q).cfg = q.cfg := by exact fun _ => rfl) : LightKept stat s (modSlot n f t) :=
  h.ofEq (by unfold Machine.modSlot; split <;> rfl) (cfgOf_modSlot hf t)

theorem LightKept.modPort {s t : State} (h : LightKept stat s t) (p : Nat) (f : PortState → PortState) : LightKept stat s (modPort p f t) :=
  h.ofEq (by unfold Machine.modPort; split <;> rfl) fun n => by unfold cfgOf; rw [slotAt_modPort]

theorem LightKept.transmit {s : State} (p fuel : Nat) : ∀ {t : State}, LightKept stat s t → LightKept stat s (transmit p fuel t) := by
  induction fuel with
  | zero => exact fun h => h
  | succ k ih =>
    intro t h
    unfold Machine.transmit
    dsimp only
    split
    · exact h
    · split
      · exact h
      · split
        · exact ih ((h.modPort p _).ofEq rfl fun _ => rfl)
        · exact ih ((h.modPort p _).ofEq rfl fun _ => rfl)

theorem LightKept.sendPkt {s t : State} (h : LightKept stat s t) (p : Nat) (k : LinkPkt) : LightKept stat s (sendPkt p k t) :=
  LightKept.transmit p 1 (h.modPort p _)

/-! The registers above LC_LEN_CTRL that the light operations write. -/

theorem lcCeil_low (k : Nat) : Reg.lcLenCtrl < Reg.lcCeil k := by simp only [Reg.lcLenCtrl, Reg.lcCeil, Reg.lc]; omega
theorem lcLevel_low (k : Nat) : Reg.lcLenCtrl < Reg.lcLevel k := by simp only [Reg.lcLenCtrl, Reg.lcLevel, Reg.lc]; omega
theorem lcFlags_low (k : Nat) : Reg.lcLenCtrl < Reg.lcFlags k := by simp only [Reg.lcLenCtrl, Reg.lcFlags, Reg.lc]; omega
theorem lcCnt_low (k : Nat) : Reg.lcLenCtrl < Reg.lcCnt k := by simp only [Reg.lcLenCtrl, Reg.lcCnt, Reg.lc]; omega
theorem lcMap_low (k i : Nat) : Reg.lcLenCtrl < Reg.lcMap k i := by simp only [Reg.lcLenCtrl, Reg.lcMap]; omega
theorem lcLenCause_low (p : Nat) : Reg.lcLenCtrl < Reg.lcLenCause p := by simp only [Reg.lcLenCtrl, Reg.lcLenCause]; omega
theorem lcLenStat_low : Reg.lcLenCtrl < Reg.lcLenStat := by simp only [Reg.lcLenCtrl, Reg.lcLenStat]; omega
theorem lsFlags_low (n : Nat) : Reg.lcLenCtrl < Reg.lsFlags n := by simp only [Reg.lcLenCtrl, Reg.lsFlags, Reg.ls]; omega
theorem lsSet_low (n : Nat) : Reg.lcLenCtrl < Reg.lsSet n := by simp only [Reg.lcLenCtrl, Reg.lsSet, Reg.ls]; omega
theorem lsDemand_low (n : Nat) : Reg.lcLenCtrl < Reg.lsDemand n := by simp only [Reg.lcLenCtrl, Reg.lsDemand, Reg.ls]; omega

theorem lcCeil_area {k : Nat} (h : k < 96) : lightArea stat (Reg.lcCeil k) := by
  simp only [lightArea, Reg.lcLenStat, Reg.lcCeil, Reg.lc]; omega
theorem lcLevel_area {k : Nat} (h : k < 96) : lightArea stat (Reg.lcLevel k) := by
  simp only [lightArea, Reg.lcLenStat, Reg.lcLevel, Reg.lc]; omega
theorem lcFlags_area {k : Nat} (h : k < 96) : lightArea stat (Reg.lcFlags k) := by
  simp only [lightArea, Reg.lcLenStat, Reg.lcFlags, Reg.lc]; omega
theorem lcCnt_area {k : Nat} (h : k < 96) : lightArea stat (Reg.lcCnt k) := by
  simp only [lightArea, Reg.lcLenStat, Reg.lcCnt, Reg.lc]; omega
theorem lcMap_area {k i : Nat} (h : k < 96) (hi : i < 66) : lightArea stat (Reg.lcMap k i) := by
  simp only [lightArea, Reg.lcLenStat, Reg.lcMap]; omega
theorem lcLenCause_area {p : Nat} (h : p < 8) : lightArea stat (Reg.lcLenCause p) := by
  simp only [lightArea, Reg.lcLenStat, Reg.lcLenCause]; omega
theorem lcLenStat_area : lightArea true Reg.lcLenStat := Or.inl ⟨rfl, rfl⟩
theorem lsFlags_area {n : Nat} (h : n < 8) : lightArea stat (Reg.lsFlags n) := by
  simp only [lightArea, Reg.lsFlags, Reg.ls, Reg.lcLenStat]; omega
theorem lsSet_area {n : Nat} (h : n < 8) : lightArea stat (Reg.lsSet n) := by
  simp only [lightArea, Reg.lsSet, Reg.ls, Reg.lcLenStat]; omega
theorem lsDemand_area {n : Nat} (h : n < 8) : lightArea stat (Reg.lsDemand n) := by
  simp only [lightArea, Reg.lsDemand, Reg.ls, Reg.lcLenStat]; omega

/-- Slots beyond 7 run nothing. -/
theorem lt_of_cfg {s : State} {n : Nat} {c : SlotCast} (h : cfgOf s n = some c) : n < 8 := by
  by_contra hn
  unfold cfgOf slotAt at h
  rw [Vector.getElem?_eq_none (by omega)] at h
  exact absurd h (by simp [SlotState.undeclared])

theorem lt_of_slotOnPort {s : State} {p n : Nat} (h : slotOnPort s p = some n) : n < 8 := by
  have := List.mem_of_find?_eq_some h
  simpa using this

/-! The operations. -/

theorem LightKept.refreshCeil {s t : State} (h : LightKept stat s t) (n : Nat) : LightKept stat s (refreshCeil n t) := by
  unfold Machine.refreshCeil
  split
  · exact h
  · rename_i c hc
    dsimp only
    refine (h.modSlot n _).forAll _ fun i _ u hu => ?_
    split
    · exact hu
    · rename_i e he
      exact hu.setFld (lcCeil_low _) (fun w x => lcCeil_area (x n c e ((h.cfg w n) ▸ hc) (List.mem_of_getElem? he))) _ _ _

theorem LightKept.installMap {s t : State} (h : LightKept stat s t) (n k : Nat) (hk : s.regs.wf = true → ChansExist s → k < 96) :
    LightKept stat s (installMap n k t) := by
  have hr : LightKept stat s (Machine.setRegs ((List.range 65).map fun i =>
      (Reg.lcMap k i, BitVec.ofNat 32 (((mapFor t n k)[i]?).getD 0))) t) := by
    refine h.setRegs fun e he => ?_
    simp only [List.mem_map, List.mem_range] at he
    obtain ⟨i, hi, rfl⟩ := he
    exact ⟨lcMap_low k i, fun w x => lcMap_area (hk w x) (by omega)⟩
  unfold Machine.installMap
  dsimp only
  split
  · exact h
  · split
    · exact hr.setFld (lcMap_low _ _) (fun w x => lcMap_area (hk w x) (by omega)) _ _ _
    · exact hr

theorem chan_lt {s t : State} (h : LightKept stat s t) {n : Nat} {c : SlotCast} (hc : cfgOf t n = some c) {k : Nat}
    (hk : k ∈ c.chmp.map (·.lc)) (w : s.regs.wf = true) (x : ChansExist s) : k < 96 := by
  simp only [List.mem_map] at hk
  obtain ⟨e, he, rfl⟩ := hk
  exact x n c e ((h.cfg w n) ▸ hc) he

theorem LightKept.installMaps {s t : State} (h : LightKept stat s t) (n : Nat) : LightKept stat s (installMaps n t) := by
  unfold Machine.installMaps setMaps
  split
  · split
    · exact h
    · rename_i c hc
      exact h.forAll _ fun i hi u hu => hu.installMap n i (chan_lt h hc hi)
  · exact h

theorem LightKept.markDark {s t : State} (h : LightKept stat s t) (n : Nat) : LightKept stat s (markDark n t) := by
  unfold Machine.markDark
  split
  · rename_i c hc
    exact h.forAll _ fun i hi u hu => hu.setBit (lcLevel_low _) (fun w x => lcLevel_area (chan_lt h hc hi w x)) _ _
  · exact h

theorem LightKept.issueOff {s t : State} (h : LightKept stat s t) (p : Nat) (ts : BitVec 40) : LightKept stat s (issueOff p ts t) := by
  unfold Machine.issueOff
  dsimp only
  split
  · exact (h.sendPkt p _).markDark _
  · exact h.sendPkt p _

theorem LightKept.foldl_snd {α β : Type} {s : State} (l : List α) (f : β × State → α → β × State) (b : β × State)
    (hf : ∀ t, ∀ x ∈ l, LightKept stat s t.2 → LightKept stat s (f t x).2) (h : LightKept stat s b.2) : LightKept stat s (l.foldl f b).2 := by
  induction l generalizing b with
  | nil => exact h
  | cons x l ih => exact ih (f b x) (fun t y hy => hf t y (by simp [hy])) (hf b x (by simp) h)

theorem LightKept.pair {β : Type} {s t : State} (b : β) (h : LightKept stat s t) : LightKept stat s (b, t).2 := h

theorem LightKept.ite_snd {β : Type} {c : Prop} [Decidable c] {s : State} {x y : β × State} (hx : LightKept stat s x.2)
    (hy : LightKept stat s y.2) : LightKept stat s (if c then x else y).2 := by
  split
  · exact hx
  · exact hy

theorem LightKept.issueCur {s t : State} (h : LightKept stat s t) {n : Nat} (hn : n < 8) (c : SlotCast) (e : ChanEnt) (cur : Nat)
    (hk : s.regs.wf = true → ChansExist s → e.lc < 96) : LightKept stat s (issueCur n c e cur t).2 := by
  unfold Machine.issueCur
  exact LightKept.ite_snd (LightKept.pair _ (((h.incSat (lcCnt_low _) (fun w x => lcCnt_area (hk w x)) _ _).setBit (lcFlags_low _)
    (fun w x => lcFlags_area (hk w x)) _ _).setBit (lsFlags_low _) (fun _ _ => lsFlags_area hn) _ _)) (LightKept.pair _ h)

theorem LightKept.issueLevels {s t : State} (h : LightKept stat s t) (n : Nat) (codes : List Nat) (ts : BitVec 40) :
    LightKept stat s (issueLevels n codes ts t) := by
  unfold Machine.issueLevels
  split
  · exact h
  · rename_i c hc
    refine LightKept.modPort (LightKept.sendPkt (LightKept.foldl_snd _ _ _ (fun u x hx hu => ?_) h) _ _) _ _
    have hm : x.1.lc ∈ c.chmp.map (·.lc) := List.mem_map_of_mem (List.of_mem_zip hx).1
    exact (hu.issueCur (lt_of_cfg hc) _ x.1 _ (chan_lt h hc hm)).setReg (lcLevel_low _)
      (fun w y => lcLevel_area (chan_lt h hc hm w y)) _

theorem LightKept.showSupply {s t : State} (h : LightKept stat s t) {n : Nat} (hn : n < 8) : LightKept stat s (showSupply n t) := by
  unfold Machine.showSupply
  exact h.setReg (lsSet_low n) (fun _ _ => lsSet_area hn) _

theorem LightKept.setTarget {s t : State} (h : LightKept stat s t) (n d : Nat) : LightKept stat s (setTarget n d t) := by
  unfold Machine.setTarget
  split
  · exact h
  · rename_i c hc
    split
    · exact h
    · refine LightKept.showSupply (LightKept.modSlot ?_ _ _) (lt_of_cfg hc)
      split
      · exact h.setBit (lsFlags_low n) (fun _ _ => lsFlags_area (lt_of_cfg hc)) _ _
      · exact h

theorem LightKept.lenDropPinned {s t : State} {p : Nat} (h : LightKept stat s (Machine.setBit Reg.lcLenStat (8 + p) false t)) (hp : p < 8)
    (cause : Nat) (hl : lenPin t p = true) : LightKept stat s (lenDrop p cause t) := by
  have h1 := h.setReg (lcLenCause_low p) (fun _ _ => lcLenCause_area hp) (BitVec.ofNat 32 cause)
  unfold Machine.lenDrop
  rw [if_pos hl]
  dsimp only
  split
  · rename_i n hn
    refine LightKept.setTarget (LightKept.setReg (LightKept.modSlot (LightKept.refreshCeil (LightKept.modSlot
      (LightKept.modPort ?_ _ _) _ _) _) _ _) (lsDemand_low _) (fun _ _ => lsDemand_area (lt_of_slotOnPort hn)) _) _ _
    exact h1.issueOff p _
  · exact (h1.issueOff p _).modPort _ _

theorem LightKept.lenDrop {s t : State} (h : LightKept true s t) {p : Nat} (hp : p < 8) (cause : Nat) :
    LightKept true s (lenDrop p cause t) := by
  by_cases hl : lenPin t p = true
  · exact (h.setBit lcLenStat_low (fun _ _ => lcLenStat_area) (8 + p) false).lenDropPinned hp cause hl
  · unfold Machine.lenDrop
    rw [if_neg hl]
    exact h

/-- Deasserting LEN_n clears its level in LC_LEN_STAT and no other bit of it. -/
theorem lenDrop_stat {s : State} (w : s.regs.wf = true) (x : ChansExist s) {p : Nat} (hp : p < 8) (cause : Nat) :
    reg (lenDrop p cause s) Reg.lcLenStat = putFld (reg s Reg.lcLenStat) (8 + p) (8 + p) 0 ∨
    lenPin s p = false ∧ lenDrop p cause s = s := by
  by_cases hl : lenPin s p = true
  · left
    have h := (LightKept.refl (stat := false) (Machine.setBit Reg.lcLenStat (8 + p) false s)).lenDropPinned hp cause hl
    have e := (h (setBit_wf w _ _ _)).2.2.2 x Reg.lcLenStat (by simp only [lightArea, Reg.lcLenStat]; simp)
    rw [e, Machine.setBit, reg_setFld_same w]
    rfl
  · right
    exact ⟨by simpa using hl, by unfold Machine.lenDrop; rw [if_neg hl]⟩

theorem LightKept.lenDropAll {s t : State} (h : LightKept true s t) (cause : Nat) : LightKept true s (lenDropAll cause t) :=
  h.forAll _ fun _ hp _ hu => hu.lenDrop (List.mem_range.1 hp) cause

theorem ChansExist.of_cfg {s t : State} (x : ChansExist s) (h : ∀ n, cfgOf t n = cfgOf s n) : ChansExist t :=
  fun n c e hc he => x n c e (h n ▸ hc) he

/-- After every LEN_n is deasserted none is high. -/
theorem lenDropAll_pins {s : State} (w : s.regs.wf = true) (x : ChansExist s) (cause : Nat) {p : Nat} (hp : p < 8) :
    lenPin (lenDropAll cause s) p = false := by
  have hr : ∀ l : List Nat, (∀ q ∈ l, q < 8) → ∀ t : State, t.regs.wf = true → ChansExist t →
      (lenPin t p = false ∨ p ∈ l) → lenPin (forAll l (Machine.lenDrop · cause) t) p = false := by
    intro l
    induction l with
    | nil => intro _ t _ _ h; simpa [forAll] using h
    | cons q l ih =>
      intro hl t wt xt h
      have k := ((LightKept.refl (stat := true) t).lenDrop (hl q (by simp)) cause) wt
      refine ih (fun y hy => hl y (by simp [hy])) _ k.1 (xt.of_cfg k.2.1) ?_
      change lenPin (Machine.lenDrop q cause t) p = false ∨ p ∈ l
      rcases lenDrop_stat wt xt (hl q (by simp)) cause with e | ⟨e0, e⟩
      · by_cases hq : p = q
        · left
          subst hq
          rw [lenPin, rbit, e, bit, putFld_bit _ _ (by omega) (by omega) (by omega)]
          simp
        · rcases h with h | h
          · left
            rw [lenPin, rbit, e, bit_putFld_out _ _ (by have := hl q (by simp); omega) (by omega) (by omega)]
            exact h
          · right
            simpa [hq] using h
      · rw [e]
        by_cases hq : p = q
        · left; rw [hq]; exact e0
        · rcases h with h | h
          · exact Or.inl h
          · right; simpa [hq] using h
  exact hr _ (fun q hq => List.mem_range.1 hq) s w x (Or.inr (List.mem_range.2 hp))

theorem LightKept.lenTry {s t : State} (h : LightKept true s t) (p : Nat) : LightKept true s (lenTry p t) := by
  have h1 := (h.setBit lcLenStat_low (fun _ _ => lcLenStat_area) (8 + p) true).modPort p fun q => { q with lenWait := true }
  unfold Machine.lenTry
  split
  · dsimp only
    split
    · exact ((h1.refreshCeil _).installMaps _).issueLevels _ _ _
    · exact h1
  · exact h

theorem LightKept.lenTryAll {s t : State} (h : LightKept true s t) : LightKept true s (lenTryAll t) := h.forAll _ fun p _ _ hu => hu.lenTry p

theorem LightKept.dipNow {s t : State} (h : LightKept stat s t) (n : Nat) : LightKept stat s (dipNow n t) := by
  unfold Machine.dipNow
  split
  · exact h
  · have h1 := ((h.modSlot n fun q => { q with ceilDim := true }).refreshCeil n).installMaps n
    dsimp only
    split
    · exact h1
    · split
      · exact h1.issueOff _ _
      · exact h1.issueLevels _ _ _

theorem LightKept.engageDim {s t : State} (h : LightKept stat s t) (n : Nat) : LightKept stat s (engageDim n t) :=
  ((h.modSlot n fun q => { q with gate := true, ceilDim := true }).refreshCeil n).installMaps n

end Sys2Proof.Machine
end

