-- ==== Sys2Proof/WellFormed.lean ====
section
/-! DEFINITION. The bounds that the buses and packets set on a command's operands: lengths that a frame or packet of the
spec can carry. A command outside them cannot reach the part. -/

set_option Elab.async false

namespace Sys2Proof

/-- A safety-port request carries 56 payload bytes (R140). -/
def SportReq.ok (q : SportReq) : Bool := q.payload.length == 56

/-- The operands of a command are what its bus, packet or frame can carry. -/
def Instr.wellFormed (i : Instr) : Bool :=
  match i with
  | .registerWrite _ _ size _ => decide (1 ≤ size)
  | .bar2Access _ len _ acc => decide (1 ≤ len) && (match acc with
      | none => true
      | some bs => bs.length == len)
  | .canFrame _ xtd id data _ => decide (data.length ≤ 64) && (xtd || decide (id.toNat < 2048))
  | .csiLongPacket _ _ _ _ _ data => decide (data.length < 65536)
  | .readData _ _ _ _ data => decide (data.length ≤ 4096)
  | .engMemRead data => data.length == 0x5000
  | .imuTransaction _ data _ => decide (data.length ≤ 64)
  | .sense _ k => decide (k.pickoffs.length < 256 ∧ k.pds.length < 256 ∧ k.curs.length < 256 ∧ k.temps.length < 256)
  | .nop q | .getSig q | .setScene q | .commitScene q | .paBegin q | .paData q | .paSeal q | .containDim q
  | .containOff q | .release q => q.ok
  | .linkTimeLoRead | .powerOn _ _ _ | .railInBand _ | .sequenceFail _ | .sequenceRetry | .fullTrainingComplete _
  | .bootCastBuild | .load _ | .castLoad | .castChunkTimeout | .castReadComplete | .validationComplete | .lock _
  | .abort _ | .recastTimeout | .reckonStep _ | .measuredPoint _ _ _ _ _ | .laneRoomInsert _ _ | .realign _ _
  | .syncEdge _ _ _ | .syncMissed _ | .pickoffLost _ | .frameBoundary _ _ | .rasterEnd _ | .writebackComplete _
  | .signatureRecord _ _ | .hallStore | .pitchW0Write _ _ | .calJobWrite _ _ _ | .commit _ _ | .modeChangeRequest _ _
  | .cancel _ _ | .tableSwap _ _ | .swapCancel _ _ | .sliceStart _ | .sliceDeadline _ _ | .levelStale _
  | .compressorBlockDone _ | .rawBusy _ _ _ | .decompressorBlockDone _ | .lineEnter _ | .renderComplete _ _
  | .strikeTest _ _ | .rerenderComplete _ _ | .lineDark _ _ | .lineWindowEnd _ _ | .capture _ _ | .probeDataRead _
  | .lenArmWrite _ | .lenFaultClear _ | .lenAssertWaitEnd _ | .laserSupplyOverv _ _ | .take _ | .restore _ | .store _
  | .pageStoreDone _ | .resetEst _ _ | .loopEnable _ | .loopClose _ | .loopOpen _ | .loopDisable _
  | .coefWrite _ _ _ _ | .dlyMaxClear _ | .loopSample _ _ _ _ _ | .trackerUpdate _ _ _ | .loopSrcLost _
  | .detectComplete _ | .presenceLost _ | .trainFlit _ _ _ | .trainTimeout _ | .timeEcho _ _ _ _ _ | .timeAck _ _
  | .probe _ _ | .probeSeriesTimer _ | .writeDone _ _ _ | .descWriteTimeout _ | .bindAck _ _ | .bindTimeout _
  | .quiesce _ _ | .quiesceAck _ | .quiesceTimeout _ | .leave _ _ | .heartbeat _ _ _ _ _ | .heartbeatMiss _
  | .packetDiscard _ _ | .lostHoldEnd _ | .retry _ _ | .csiFs _ _ _ | .csiFe _ _ _ | .cameraLost _ | .camEnable _ _
  | .directWrite _ _ | .objListWindow _ | .canListTimeout _ | .canBusOffRecovery _ | .imuHost _ | .casGo _ _ | .kick
  | .aliveWrite _ | .hostLost | .doorbell _ | .version | .trainModeManual | .trainModeMicrocode _ | .bist _
  | .patchLoad | .mailboxAbort _ | .compressStream _ | .decompressStream _ | .compressBlock _ | .resume _
  | .decompressBlock _ | .jobStart | .jobComplete | .donePop _ | .freqWrite _ | .freqChangeComplete
  | .refreshDue _ _ _ | .forcedRefresh _ _ | .dramTempSample _ | .selfRefreshIdle _ | .srWake _ | .dozeSrReentry _
  | .bulkPromote _ | .trackPeriod | .gatherWindowEnd _ _ _ _ | .uncorrectableBurst _ | .autoRemapReset
  | .patternRun _ | .patternRunDone _ _ _ | .ledgerUpdate _ | .engineSensorFailed _ _ | .sensorSuspect _
  | .sensorTrusted _ | .throttleStep _ | .freezeEnd _ | .thermalCrit | .laserOvertemp _ | .thermalPark
  | .powerLimitApply | .powerLimitLift | .powerLimit | .phaseLimit _ | .phaseMapWrite _ _ | .supplyDip _ _
  | .railRecovered _ _ | .dipHoldEnd | .railResetLevel _ _ | .stateReqRun | .stateReqDoze | .stateReqPark
  | .entryComplete | .wakeEdge _ _ | .dozeExitComplete | .resetN | .perst | .warm _ | .engine _ | .fabric _
  | .fabricResetComplete | .watchdogExpiry | .supervisorTimeout | .wdogKick | .wdogWrite _ | .frFaultClear _
  | .hostHaltSet _ | .hostHaltClear _ | .logClear _ | .frRelease _ | .frSeize _ | .graceEnd _ | .sportSilent
  | .sportCsStuck | .presenceAsserted _ | .resetNRelease | .canBusOff _ | .setPointUpdate _ _ | .driveSample _
  | .sportBadFrame _ => true

end Sys2Proof
end

