-- ==== Sys2Proof/Tests/Slice0.lean ====
section
/-! SUPPORT. Tests: the checks of WellFormed refuse an ill-formed command each, examples of the spec come out as it gives them,
and the hypotheses of the statements are met. -/

set_option Elab.async false

namespace Sys2Proof.Tests

open Sys2Proof Sys2Proof.Machine

/-! ## WellFormed refuses -/

theorem test_wf_register_size : (Instr.registerWrite .bar0 0 0 .read).wellFormed = false := by decide
theorem test_wf_bar2_empty : (Instr.bar2Access 0 0 1 none).wellFormed = false := by decide
theorem test_wf_bar2_length : (Instr.bar2Access 0 4 1 (some [1, 2])).wellFormed = false := by decide
theorem test_wf_can_length : (Instr.canFrame 0 true 0 (List.replicate 65 0) 0).wellFormed = false := by decide
theorem test_wf_can_id : (Instr.canFrame 0 false 2048 [] 0).wellFormed = false := by decide
theorem test_wf_can_ok : (Instr.canFrame 0 false 2047 [] 0).wellFormed = true := by decide
theorem test_wf_csi : (Instr.csiLongPacket 0 0 0 true false (List.replicate 65536 0)).wellFormed = false := by
  change decide ((List.replicate 65536 (0 : Byte)).length < 65536) = false
  rw [List.length_replicate]
  decide
theorem test_wf_read_data : (Instr.readData 0 0 0 0 (List.replicate 4097 0)).wellFormed = false := by
  change decide ((List.replicate 4097 (0 : Byte)).length ≤ 4096) = false
  rw [List.length_replicate]
  decide
theorem test_wf_eng_mem : (Instr.engMemRead [1]).wellFormed = false := by decide
theorem test_wf_imu : (Instr.imuTransaction 0 (List.replicate 65 0) 0).wellFormed = false := by decide

/-! ## The spec's own worked examples -/

theorem test_wf_sport : (Instr.nop { seq := 1, slot := 0, payload := List.replicate 55 0 }).wellFormed = false := by decide

/-- R62: slots 0 and 1 of W1 free-run at 240 Hz. -/
theorem test_omega_240 : (freeOmega 240000 0).toNat = 5404319553 := by decide +kernel

/-- R311, R312: T4 - T1 = 15,667, T3 - T2 = 12,800 and MIN_LEAD 640 give D = 1,434 and LEAD = 1,830. -/
theorem test_delay : medianDelay (List.replicate 16 (15667 - 12800)) = 1434 := by decide +kernel
theorem test_lead : leadOf 1434 640 = 1830 := by decide

/-- R382 to R386: 40 bytes of 0x00 compress to these 20 bytes. -/
theorem test_compress_zeros : (compressBlock (List.replicate 40 0) 512).bytes =
    [0x27, 0, 1, 0, 0, 0, 0x11, 0x70, 0, 1, 0, 0, 0, 0x20, 0x28, 0x7F, 0xEA, 0x15, 0xCE, 0x14] := by decide +kernel

/-- R396: byte 0x1234 of block 200 lies in channel 2, and in channel 9 once channel 5 is mapped out. -/
theorem test_dram_map : dramPc State.reset 0xC81234 = 2 ∧ dramPc (setFld Reg.mcStatus 11 8 5 (setBit Reg.mcStatus 7 true State.reset)) 0xC81234 = 9 := by
  decide +kernel

/-- R477: downlink lane 3 of EP5. -/
theorem test_balls_ep5 : epDlP 5 3 = (41, 15) ∧ epDlN 5 3 = (40, 15) := by decide


/-! ## States that meet the hypotheses of the statements -/

/-- The part in Run with every register word 0. -/
def up : State := { State.reset with regs := [], power := { PowerState.atT0 with st := .run, seqStep := 9, inBand := 0xFF, judged := 0xFF } }

/-- The part in power-up after step k, with the attempts made. -/
def booting (k att : Nat) : State := { up with power := { up.power with st := .boot, seqStep := k, attempts := att, inBand := 0 } }

/-- A part-wide state. -/
def inSt (x : PState) (s : State) : State := { s with power := { s.power with st := x } }

/-- An array slot on port 2 with light channel 3. -/
def arr : SlotCast :=
  { slot := { port := 2, cls := 1, traj := 0, contain := 1, minW := 64, minH := 16, maxW := 64, maxH := 16, activeW := 64, activeH := 16
              latchLine := 4, freezeThr := 4, nmodes := 1, modes := [{ rate := 24000, count := 1, seq := 0 }], lookahead := 0
              trialDepth := 0, strikeTol := 0, strikePt := 0, descRevMin := 0 }
    pipe := { composer := 0, share := 16, nvid := 1, ngfx := 0, blend := 0, wb := 0, pitchBase := 8, pitches := 8, bg := 0, order := [0]
              linebuf := [], maskMax := 1 }
    chmp := [{ lc := 3, engCh := 0, role := 0, flags := 0, iLimit := 100 }]
    phse := { source := 0, input := 0, edge := 0, div := 1, offset := 0, level := 0 }
    supply := { vmin := 3000, vmax := 5000, headroom := 0 }
    hall := some { sport := true, floor := 512, x := 0, y := 0, w := 16, h := 16, assets := [] } }

/-- A scanner slot on port 2. -/
def scan : SlotCast := { arr with
  slot := { arr.slot with cls := 2, traj := 1, lookahead := 2, trialDepth := 4, modes := [{ rate := 24000, count := 40, seq := 0 }] }
  hall := none }

/-- Slot n runs c. -/
def act (n : Nat) (c : SlotCast) (s : State) : State := modSlot n (fun q => { q with
  cfg := some c, trial := List.replicate c.slot.trialDepth LineEnt.empty, limNow := c.chmp.map (·.iLimit) }) s

/-- Slot 0 with an array and with a scanner. -/
def upA : State := act 0 arr up
def upS : State := act 0 scan up

/-- The reckoner of slot 0 in a state. -/
def reckSt (x : ReckState) (s : State) : State := modReck 0 (fun r => { r with st := x }) s

/-- The link of a port in a state. -/
def linkAt (p x : Nat) (s : State) : State := setFld (Reg.epStatus p) 2 0 x s

/-- What CastsInRange asks, over the eight slots. -/
def rangeOk (c : SlotCast) : Bool :=
  decide (c.slot.port < 8) && decide (c.pipe.composer < 2) && c.chmp.all (fun e => decide (e.lc < 96)) &&
  decide (c.pipe.pitchBase + c.pipe.pitches ≤ 3072) && c.slot.modes.all (fun m => decide (m.count ≤ 65535))

theorem rangeOk_spec {c : SlotCast} (h : rangeOk c = true) : SlotInRange c := by
  simp only [rangeOk, Bool.and_eq_true, decide_eq_true_eq, List.all_eq_true] at h
  exact ⟨h.1.1.1.1, h.1.1.1.2, h.1.1.2, h.1.2, h.2⟩

theorem inRange_of {s : State} (h : (List.range 8).all (fun n => match cfgOf s n with | some c => rangeOk c | none => true) = true)
    (hr : s.cast.running.slots = []) (hs : s.cast.staged = none) (hw : s.cast.switch = none) : CastsInRange s := by
  refine ⟨fun n c hc => ?_, by simp [hr], by simp [hs], by simp [hw]⟩
  have hn : n < 8 := lt_of_cfg hc
  have := List.all_eq_true.1 h n (List.mem_range.2 hn)
  rw [hc] at this
  exact rangeOk_spec this

theorem test_inRange_reset : CastsInRange State.reset := inRange_of (by decide +kernel) rfl rfl rfl
theorem test_inRange_up : CastsInRange up := inRange_of (by decide +kernel) rfl rfl rfl
theorem test_inRange_array : CastsInRange upA := inRange_of (by decide +kernel) rfl rfl rfl

/-! ### The machine -/

theorem test_hyp_StepTakesOneCommand : ∃ t, step { up with pending := [.sequenceRetry] } = .next t := ⟨_, rfl⟩
theorem test_hyp_StepKeepsStoresCanonical : up.wf = true ∧ upA.wf = true ∧ upS.wf = true ∧ step up = .next up := ⟨by decide +kernel, by decide +kernel, by decide +kernel, rfl⟩
theorem test_hyp_StepKeepsCastsInRange : CastsInRange upA ∧ step upA = .next upA := ⟨test_inRange_array, rfl⟩
theorem test_hyp_CommandFootprint : (∃ t, Sys2Proof.Machine.exec .sequenceRetry up = .next t) ∧ Kind.dram ∉ footprint .sequenceRetry := ⟨⟨_, rfl⟩, by decide⟩
theorem test_hyp_EveryCommandAnswers : 65536 ≤ (65536 : BitVec 26).toNat ∧ 2 ^ 28 < (0xFFFFFFF : BitVec 28).toNat + 2 := by decide
theorem test_hyp_UnseenWriteHasNoEffect : hostTarget (.load 0) = some Reg.cstCtrl ∧ hostSees (inSt .park up) Reg.cstCtrl = false ∧
    hostTarget (.commit 0 0) = some (Reg.soCtrl 0) ∧ hostSees up (Reg.soCtrl 0) = false := by decide +kernel

/-! ### Power, resets and states -/

theorem test_hyp_PowerOnTakesColdValues : up.power.st ≠ .por ∧ Reg.genWake ≠ Reg.genResetCause := by decide
theorem test_hyp_PowerUp : (booting 1 0).power.st = .boot ∧ (booting 6 0).power.seqStep = 6 ∧ (booting 4 0).power.inBand.getLsbD 3 = false ∧
    (booting 7 0).power.seqStep = 7 ∧ (booting 8 0).power.queued = none ∧ (booting 1 0).power.resetLow = false ∧
    (booting 1 0).power.retryWait = false ∧ (booting 1 1).wf = true ∧ (awaited (booting 1 1)).contains 0 = true ∧
    (booting 1 1).power.attempts + 1 < 3 ∧ (booting 4 2).wf = true ∧ (awaited (booting 4 2)).contains 4 = true ∧
    3 ≤ (booting 4 2).power.attempts + 1 := by decide +kernel

/-- A watchdog started at link time 0, its 10 ms over. -/
def wdogOut : State := { setFld Reg.genWdog 15 0 10 up with power := { up.power with wdog := some 0 }, linkTime := 100000000 }

/-- Channel 0 of the stack has failed, and the part is to map it out by itself. -/
def remapDue : State := setBit Reg.mcCtrl 0 true { up with mc := { up.mc with failed := 1 } }

theorem test_hyp_PartWideResets : up.wf = true ∧ hostOpen up Reg.genReset = true ∧ fld (0xA5000001 : Word) 31 24 = 0xA5 ∧
    bit (0xA5000001 : Word) 0 = true ∧ up.power.st = .run ∧ powered up = true ∧ 7 ≤ up.power.seqStep ∧ wdogOut.wf = true ∧
    wdogOver wdogOut = true ∧ remapDue.wf = true ∧ rbit remapDue Reg.mcCtrl 0 = true ∧ remapDue.mc.failed ≠ 0 ∧
    up.power.judged.getLsbD 2 = true ∧ up.power.judged.getLsbD 7 = true ∧ up.power.judged.getLsbD 3 = true := by decide +kernel
theorem test_hyp_ParkExit : (setBit Reg.genWake 4 true (inSt .park up)).power.st = .park ∧
    (setBit Reg.genWake 4 true (inSt .park up)).wf = true ∧
    rbit (setBit Reg.genWake 4 true (inSt .park up)) Reg.genWake 4 = true ∧
    rbit (setBit Reg.genWake 4 true (inSt .park up)) Reg.genWake 20 = false := by decide +kernel
theorem test_hyp_PartWideStates : up.wf = true ∧ hostOpen up Reg.genStateReq = true ∧ entryHeld up = false ∧
    entryHeld { up with mc := { up.mc with freq := some 1 } } = true ∧ hostOpen (inSt .doze up) Reg.genStateReq = true ∧
    (inSt .enteringDoze up).power.queued = none ∧ (inSt (.enteringPark true) up).power.st = .enteringPark true ∧
    rbit (setBit Reg.genWake 15 true (inSt .doze up)) Reg.genWake 15 = true ∧ (inSt .leaving up).power.queued = none ∧
    critDim { up with heat := { up.heat with trip := List.replicate 9 true }, linkTime := 1000000000 } = true ∧
    100 * msTicks ≤ since { up with linkTime := 1000000000 } 0 := by decide +kernel
theorem test_hyp_SupplyDips : up.wf = true ∧ up.power.judged.getLsbD 0 = true ∧ rbit up Reg.genDip 0 = false ∧ declared upA 0 = true ∧
    (inSt .doze up).power.st = .doze ∧ rbit (setBit Reg.genDip 7 true up) Reg.genDip 7 = true ∧
    ({ up.power with holdTail := true } : PowerState).holdTail = true := by decide +kernel

/-! ### Faults and recovery -/

theorem test_hyp_EngineAndFabricResets : hostOpen upA Reg.genReset = true ∧ fld (0xA5000100 : Word) 15 8 = 2 ^ 0 ∧ cfgOf upA 0 = some arr ∧
    linkState (linkAt 2 lsBind upA) arr.slot.port = lsBind ∧ (linkAt 2 lsBind upA).wf = true ∧ bit (0xA5010000 : Word) 16 = true ∧
    ({ up.power with fabric := true } : PowerState).fabric = true ∧ fld (0x00000001 : Word) 31 24 ≠ 0xA5 := by decide +kernel
theorem test_hyp_WatchdogPerstAndPhases : hostOpen up Reg.genWdogKick = true ∧ hostOpen up Reg.genWdog = true ∧ powered up = true ∧
    heatRuns up = true ∧ hostOpen up (Reg.pmPhaseMap 3) = true ∧ (∀ i, i < 4 → phaseGroup 0 i = 0) ∧
    phaseGroup (0x1E000000 : Word) 3 = 30 := by decide +kernel
theorem test_hyp_FaultClearAndLogClear : up.wf = true ∧ hostOpen up Reg.frFault = true ∧ hostOpen up Reg.frLogClr = true ∧
    fld (0x5A000001 : Word) 31 24 = 0x5A ∧ bit (0x5A000001 : Word) 0 = true ∧ bit (0x5A000000 : Word) 0 = false ∧
    hostOpen up Reg.frHalt = true ∧ bit (0x5A000100 : Word) 8 = true ∧ fld (0x5A000100 : Word) 31 24 = 0x5A ∧
    bit (0x5A000000 : Word) 8 = false ∧ fld (0x100 : Word) 31 24 ≠ 0x5A := by decide +kernel
theorem test_hyp_FaultClearAndLogClear_range : CastsInRange up := test_inRange_up

/-- The host's grace runs since link time 0; at link time 1,000,000,000 it is over. -/
def graceOut (t : LinkTime) : State :=
  { setBit Reg.frGrace 12 true up with fr := { up.fr with graces := [(graceBit .host, 0)] }, linkTime := t }

/-- Slot 0 contained off for its laser's temperature, cool for k intervals. -/
def overtemp (k : Nat) : State :=
  { modSlot 0 (fun q => { q with contain := [{ cause := .overtemp, off := true, ending := false }] }) upA with
    heat := { upA.heat with cool := [k] } }

theorem test_hyp_ReleaseAndSeizure : hostOpen (overtemp 2000) Reg.frRelease = true ∧ fld (1 : Word) 7 0 = 2 ^ 0 ∧
    (overtemp 2000).wf = true ∧ mayRelease (overtemp 2000) 0 = true ∧ mayRelease (overtemp 1999) 0 = false ∧
    hostOpen up Reg.frSeize = true ∧ seizable up 0 = none ∧ seizable up 0x5A030007 = some (.engine 7) ∧
    (graceOut 1000000000).wf = true ∧ graceOver (graceOut 1000000000) .host = true ∧
    graceOver (graceOut 0) .host = false := by decide +kernel

/-! ### Casts, the host, the codec and package DRAM -/

/-- Slot 0 bound to the engine on port 2, its link in Run. -/
def bindAt (s : State) : State := modPort 2 (fun q => { q with slot := some 0, bind := 7 }) (setBit (Reg.epStatus 2) 4 true (linkAt 2 lsRun s))

/-- A request in the mailbox. -/
def mail (cmd a0 a1 : Nat) (p : List Byte) (s : State) : State :=
  { setBit Reg.mbStatus 0 true (setBit Reg.mbStatus 2 true s) with mail := { MailState.init with cmd := cmd, arg0 := a0, arg1 := a1, payload := p } }

/-- The Cast loader in a state with a load and its bytes. -/
def loading (st : Nat) (l : Option LoadSrc) (bs : List Byte) (s : State) : State :=
  { setFld Reg.cstStatus 3 0 st s with cast := { s.cast with load := l, bytes := bs } }

/-- Window block b owned by a class. -/
def own (b cls id : Nat) (s : State) : State := setReg (Reg.wnTally b) (tallyWord cls id (epochOf s cls id)) s

/-- A switch under way with slot 0 still to pass. -/
def hotSwitch : SwitchState :=
  { start := 0
    plans := [(0, { slot := some .hot, pipe := none, chmp := none, phse := none, supply := none, pool := false, added := false, removed := false })]
    passed := [], dark := [], stage1 := [], stage2 := [], rolling := [], prev := [] }

def switching (s : State) : State := { setFld Reg.cstStatus 3 0 csSwitching s with cast := { s.cast with switch := some hotSwitch } }

/-- A Cast without slots: the header, one POOL entry, a power record and an empty lock record. -/
def smallCast : List Byte :=
  [83, 72, 87, 67, 1, 0, 0, 0, 1, 0, 0, 0, 232, 0, 0, 0, 3] ++ List.replicate 43 0 ++ [226, 65, 25, 142, 80, 79, 79, 76, 40, 0, 0, 0, 0, 1] ++
  List.replicate 6 0 ++ [1, 0, 0, 0, 1, 255] ++ List.replicate 7 0 ++ [1] ++ List.replicate 10 0 ++ [80, 79, 87, 82, 104, 0, 0, 0, 0, 1] ++
  List.replicate 94 0 ++ [76, 79, 67, 75, 24, 0, 0, 0, 0, 1] ++ List.replicate 14 0

def castCtx (s : State) : CastEnv :=
  { step := 1, capMiB := capacityMiB s, running := s.cast.running, recast := false, locked := castLocked s, flds := s.cast.lockFlds }

theorem test_hyp_LoadAndLock : hostOpen up Reg.cstCtrl = true ∧ bit (3 : Word) 0 = true ∧ fld (3 : Word) 2 1 = 1 ∧ castSt up = csIdle ∧
    manualMode up = false ∧ mailBusy up 5 = false ∧ (own 0 tDevice 0 (setReg Reg.cstSrc 0x10000 up)).wf = true ∧
    (blocksOf 0 1).all (isDevice (own 0 tDevice 0 (setReg Reg.cstSrc 0x10000 up))) = true ∧ castSt (switching up) ≠ csIdle ∧
    bit (16 : Word) 4 = true ∧ bit (16 : Word) 8 = false := by decide +kernel

/-- The small Cast comes in by mailbox: its first 64 bytes, or the rest with LAST or without it; its lock is 50 ms old. -/
def chunked (have_ : Nat) (last : Nat) : State :=
  { loading csLoading (some .mailbox) (smallCast.take have_) (mail 2 have_ last (smallCast.drop have_) up) with linkTime := 1000000000 }

theorem test_hyp_LoadRuns : (chunked 0 0).wf = true ∧ mailBusy (chunked 0 0) 2 = true ∧ (chunked 0 0).heat.limited = false ∧
    awaitsChunk (chunked 0 0) = true ∧ (chunked 0 0).mail.arg1.testBit 0 = false ∧
    chunkOk (chunked 0 0).cast.bytes.length (chunked 0 0).mail.arg0 (chunked 0 0).mail.payload.length = true ∧
    chunkOk (chunked 64 1).cast.bytes.length (chunked 64 1).mail.arg0 (chunked 64 1).mail.payload.length = true ∧
    awaitsChunk (chunked 64 1) = true ∧ mailBusy (chunked 64 1) 2 = true ∧ (chunked 64 1).mail.arg1.testBit 0 = true ∧
    (chunked 64 1).cast.bytes ++ (chunked 64 1).mail.payload = smallCast ∧
    chunkOk 0 64 5 = false ∧ awaitsChunk (mail 2 0 0 [] up) = false ∧ mailBusy (mail 2 0 0 [] up) 2 = true ∧
    lockOverdue (chunked 0 0) = true := by decide +kernel

/-- A window load of one block from block 3. -/
def windowLoad : State := loading csLoading (some (.window 3 1)) [] up

theorem test_hyp_LoadRuns_window : windowLoad.wf = true ∧ castSt windowLoad = csLoading ∧ windowLoad.cast.load = some (.window 3 1) ∧
    (checkHeader (devRead windowLoad (blockAddr 3) 64) (fun t => decide (0 * 65536 < t ∧ t ≤ 1 * 65536))).isSome = true ∧
    checkHeader (smallCast.take 64) (fun t => decide (0 * 65536 < t ∧ t ≤ 1 * 65536)) = none ∧
    castSt (loading csValidating none [] up) = csValidating ∧ (loading csValidating none [] up).power.queued = none ∧
    castGen (loading csValidating none [] up) = 0 := by decide +kernel

theorem test_hyp_LoadRuns_header : (checkHeader (List.replicate 64 0) (fun t => t == 64)).isSome = true ∧
    checkHeader (smallCast.take 64) (fun t => t == smallCast.length) = none := by decide +kernel

theorem test_hyp_LoadRuns_fails : (validate (castCtx up) []).isLeft = true := by decide +kernel

theorem test_hyp_RecastAborts : castSt (switching (bindAt upA)) = csSwitching ∧ (switching (bindAt upA)).wf = true ∧
    passedNow (switching (bindAt upA)) 0 = false ∧ (switching (bindAt upA)).cast.pdOff = (switching (bindAt upA)).cast.running.pdOff ∧
    since (switching (bindAt upA)) hotSwitch.start < 250 * msTicks ∧
    250 * msTicks ≤ since { switching (bindAt upA) with linkTime := 1000000000 } hotSwitch.start ∧ hotSwitch.plans ≠ [] ∧
    hostOpen (switching (bindAt upA)) Reg.cstCtrl = true ∧ bit (0x100 : Word) 8 = true ∧ fld (0x100 : Word) 2 1 < 2 := by decide +kernel

theorem test_hyp_HostAccesses : (regFind Reg.frGrace).isSome = true ∧ specialRead Reg.frGrace 0 Reg.frGrace up = none ∧
    inPitchStore 0x3000000 = false ∧ regFind 0x3FFFFF0 = none ∧ ¬ (2 = 4 ∧ 0 % 4 = 0) ∧ rbit up Reg.mbStatus 0 = false ∧ hostSees up Reg.tfLinkLo = true ∧
    hostSees upS (Reg.lbProbeData 0) = true := by decide +kernel

theorem test_hyp_RegisterWriteByAccessType : (match regFind Reg.frGrace with | some (d, i) => regExists up d i | none => false) = true ∧
    (∀ x, specialAct Reg.genWake 0 Reg.genWake x = none) := ⟨by decide +kernel, fun _ => rfl⟩

theorem test_hyp_WindowAndCas : mayAccess (own 5 tHost 0 up) tHost 0 0 5 = true ∧ (5 * 65536 : BitVec 28).toNat % 65536 + 4 ≤ 65536 ∧
    mayAccess up tHost 0 1 5 = false ∧ hostOpen up (Reg.wnCas 3 + 8) = true ∧
    casRule up (reg up (Reg.wnCas 3)) (reg (setReg (Reg.wnCas 3 + 4) (tallyWord tHost 0 0) up) (Reg.wnCas 3 + 4)) = true ∧
    tally up 0 = reg up (Reg.wnCas 3) ∧ tally (own 0 tDevice 0 up) 0 ≠ reg up (Reg.wnCas 3) ∧ fld (0x10000 : Word) 22 16 = 1 := by decide +kernel

/-- Link time 1 s with the host silent since link time 0 beyond its 5 ms. -/
def silentHost : State := { setReg Reg.wnAlive 5 upA with fr := { upA.fr with aliveT := some 0 }, linkTime := 10000000000 }

theorem test_hyp_HostLiveness : silentHost.wf = true ∧ hostOpen up Reg.wnAlive = true ∧ hostOpen up Reg.wnAliveKick = true ∧
    hostOpen { up with fr := { up.fr with hostLost := true } } Reg.wnAliveKick = true ∧ up.fr.hostLost = false ∧
    hostSilent silentHost = true ∧ silentHost.fr.hostLost = false ∧ hostSilent up = false ∧ declared silentHost 0 = true := by decide +kernel

/-- A mailbox request of the microcode's patch from block 9. -/
def patchMail : State := own 9 tDevice 0 (mail 6 9 1 [] up)

theorem test_hyp_MailboxAnswers : hostOpen up Reg.mbDoorbell = true ∧ rbit up Reg.mbStatus 0 = false ∧
    rbit (mail 1 0 0 [] up) Reg.mbStatus 0 = true ∧
    mailKnown (leNat (bar4Bytes { up with bar4 := [(0, 1)] } 0 2)) = true ∧ leNat (bar4Bytes { up with bar4 := [(0, 1)] } 2 2) = fld (0 : Word) 15 0 ∧
    leNat (bar4Bytes { up with bar4 := [(0, 1)] } 4 4) ≤ 32752 ∧
    (mail 1 0 0 [] up).wf = true ∧ mailBusy (mail 1 0 0 [] up) 1 = true ∧
    mailBusy (own 9 tEngine 2 (linkAt 2 lsRun (mail 3 2 9 [] up))) 3 = true ∧
    linkState (own 9 tEngine 2 (linkAt 2 lsRun (mail 3 2 9 [] up))) 2 = lsRun ∧
    mayAccess (own 9 tEngine 2 (linkAt 2 lsRun (mail 3 2 9 [] up))) tEngine 2
      (epochOf (own 9 tEngine 2 (linkAt 2 lsRun (mail 3 2 9 [] up))) tEngine 2) 9 = true ∧
    trainAsked (mail 4 1 0 [] up) 1 = true ∧ castGen (mail 4 1 0 [] up) = 0 ∧ castSt (mail 4 1 0 [] up) = csIdle ∧
    manualMode (setBit Reg.mcStatus 4 true (mail 4 0 0 [] up)) = true ∧ trainAsked (setBit Reg.mcStatus 4 true (mail 4 0 0 [] up)) 0 = true ∧
    mailBusy (mail 5 2 0 [] up) 5 = true ∧ (mail 5 2 0 [] up).mail.arg0.testBit 2 = false ∧ (mail 5 2 0 [] up).mail.arg0.testBit 0 = false ∧
    mailBusy patchMail 6 = true ∧ (blocksOf patchMail.mail.arg0 patchMail.mail.arg1).all (isDevice patchMail) = true := by decide +kernel

/-- A stream compression of block 1 into block 2. -/
def packJob : CodecJob := { jd := [0x10000000, 0x1001, 0x1002, 65536, 0, 0, 0, 0, 0, 0, 0, 0], st := .waiting }

/-- The codec with lanes and jobs. -/
def codec (js : List CodecJob) (s : State) : State := { setReg Reg.cdCfg 0x808 s with codec := { s.codec with jobs := js } }

def descJob (s : State) : CodecJob := { jd := (List.range 12).map (fun i => reg s (Reg.cdJd i)), st := .waiting }

/-- Its three blocks are the codec's. -/
def packing (js : List CodecJob) : State := own 1 tDevice 0 (own 2 tDevice 0 (codec js up))

/-- A job in the descriptor registers. -/
def described : State :=
  setReg (Reg.cdJd 0) 0x10000000 (setReg (Reg.cdJd 1) 0x1001 (setReg (Reg.cdJd 2) 0x1002 (setReg (Reg.cdJd 3) 65536 up)))

theorem test_hyp_CodecQueue : hostOpen up Reg.cdSubmit = true ∧ up.wf = true ∧ up.codec.jobs.length < 16 ∧ (descJob up).ok = false ∧
    described.wf = true ∧ described.codec.jobs.length < 16 ∧ (descJob described).ok = true ∧
    16 ≤ (codec (List.replicate 16 packJob) up).codec.jobs.length ∧ hostOpen up Reg.cdDonePop = true ∧ bit (1 : Word) 0 = true := by
  decide +kernel

theorem test_hyp_CodecQueue_jobs : (packing [packJob]).wf = true ∧ upNow (packing [packJob]) = true ∧
    headWaiting (packing [packJob]) = some packJob ∧ (packing [packJob]).heat.limited = false ∧
    lanesHeld (packing [packJob]) packJob.packs < laneLimit (packing [packJob]) packJob.packs ∧
    (packing [packJob]).codec.done.length < 16 ∧ (packJob.srcs ++ packJob.dsts).all (isDevice (packing [packJob])) = true ∧
    (packJob.srcs ++ packJob.dsts).all (isDevice (codec [packJob] up)) = false ∧
    lanesHeld (codec [packJob] up) packJob.packs < laneLimit (codec [packJob] up) packJob.packs ∧
    ({ packJob with st := .running } : CodecJob).st = .running ∧ upNow (codec [{ packJob with st := .running }] up) = true := by decide +kernel

theorem test_hyp_MemoryControl : up.wf = true ∧ hostOpen up Reg.mcFreq = true ∧ gathering up = false ∧ up.power.st ≠ .doze ∧
    gathering (setBit Reg.mcStatus 5 true { up with mc := { up.mc with gather := some 3 } }) = true ∧
    ({ up.mc with freq := some 2 } : DramState).freq = some 2 ∧ up.power.queued = none ∧
    upNow up = true ∧ (up.mc.postponed.set (16 * 3 + 5) 8).get (16 * 3 + 5) = 8 ∧ rbit (setBit Reg.mcSr 31 true up) Reg.mcSr 31 = true ∧
    (0xFFFF : BitVec 16).getLsbD 3 = true ∧ (86 : BitVec 8).toInt = 86 ∧ (81 : BitVec 8).toInt < 82 ∧ (inSt .doze up).power.st = .doze := by
  decide +kernel

/-- Channel 3 gathers, with k failures so far; link time 1 s, with bursts at 0. -/
def gather3 (k : BitVec 8) (bs : Nat) : State :=
  { setBit Reg.mcStatus 5 true up with
    mc := { up.mc with gather := some 3, trackFail := up.mc.trackFail.set 3 k, bursts := List.replicate bs (3, 0) } }

theorem test_hyp_MemoryTrainingAndErrors : inRunState up = true ∧ manualMode up = false ∧ rbit up Reg.mcStatus 6 = false ∧
    ((List.range 16).map fun i => (up.mc.nextPc + i) % 16).find? (trackable up) = some 0 ∧
    (gather3 1 0).wf = true ∧ upNow (gather3 1 0) = true ∧ (gather3 1 0).mc.gather = some 3 ∧ ((gather3 1 0).mc.trackFail.get 3).toNat < 2 ∧
    (gather3 2 15).wf = true ∧ 2 ≤ ((gather3 2 15).mc.trackFail.get 3).toNat ∧ powered (gather3 2 15) = true ∧
    ((3, up.linkTime) :: up.mc.bursts).countP (fun b => b.1 == 3 && decide (since up b.2 ≤ secTicks)) < 16 ∧
    16 ≤ ((3, (gather3 2 15).linkTime) :: (gather3 2 15).mc.bursts).countP
      (fun b => b.1 == 3 && decide (since (gather3 2 15) b.2 ≤ secTicks)) ∧ (gather3 2 15).mc.failed.getLsbD 3 = false ∧
    hostOpen (setBit Reg.mcStatus 4 true up) Reg.mcPgCtrl = true ∧ manualMode (setBit Reg.mcStatus 4 true up) = true ∧
    ({ up.mc with patRun := true } : DramState).patRun = true := by decide +kernel

/-- A fold that the kernel evaluates one step at a time. -/
def stepFold (a : Word) : List Byte → Word
  | [] => a
  | b :: t => match (crc32Byte a b).toNat with
    | 0 => stepFold 0#32 t
    | n + 1 => stepFold (BitVec.ofNat 32 (n + 1)) t

theorem stepFold_eq (bs : List Byte) : ∀ a, stepFold a bs = bs.foldl crc32Byte a := by
  induction bs with
  | nil => exact fun _ => rfl
  | cons b t ih =>
    intro a
    have h := BitVec.ofNat_toNat 32 (crc32Byte a b)
    rw [BitVec.setWidth_eq] at h
    rw [stepFold, List.foldl_cons]
    split <;> rename_i k
    · rw [ih, ← h, k]
    · rw [ih, ← h, k]

/-- The CRC-32 register after n bytes of the small Cast with its CRC field zero. -/
def smallZero : List Byte := smallCast.take 60 ++ [0, 0, 0, 0] ++ smallCast.drop 64

theorem crc_part (a b : Word) (k : Nat) (h : stepFold a ((smallZero.drop k).take 16) = b) (r : Word) (hr : (smallZero.drop (k + 16)).foldl crc32Byte b = r) :
    (smallZero.drop k).foldl crc32Byte a = r := by
  rw [stepFold_eq] at h
  rw [← hr, ← h, ← List.foldl_append, ← List.drop_drop, List.take_append_drop]

theorem crc_step_0 : stepFold 0xFFFFFFFF#32 ((smallZero.drop 0).take 16) = 0xF1E2C6D8#32 := by decide +kernel
theorem crc_step_1 : stepFold 0xF1E2C6D8#32 ((smallZero.drop 16).take 16) = 0x41317569#32 := by decide +kernel
theorem crc_step_2 : stepFold 0x41317569#32 ((smallZero.drop 32).take 16) = 0x87230A92#32 := by decide +kernel
theorem crc_step_3 : stepFold 0x87230A92#32 ((smallZero.drop 48).take 16) = 0x3669F553#32 := by decide +kernel
theorem crc_step_4 : stepFold 0x3669F553#32 ((smallZero.drop 64).take 16) = 0xC1A017F0#32 := by decide +kernel
theorem crc_step_5 : stepFold 0xC1A017F0#32 ((smallZero.drop 80).take 16) = 0xFCAA10D8#32 := by decide +kernel
theorem crc_step_6 : stepFold 0xFCAA10D8#32 ((smallZero.drop 96).take 16) = 0xF57E0507#32 := by decide +kernel
theorem crc_step_7 : stepFold 0xF57E0507#32 ((smallZero.drop 112).take 16) = 0x51C09153#32 := by decide +kernel
theorem crc_step_8 : stepFold 0x51C09153#32 ((smallZero.drop 128).take 16) = 0x44593E6D#32 := by decide +kernel
theorem crc_step_9 : stepFold 0x44593E6D#32 ((smallZero.drop 144).take 16) = 0xE5B6B99A#32 := by decide +kernel
theorem crc_step_10 : stepFold 0xE5B6B99A#32 ((smallZero.drop 160).take 16) = 0xD9EA83F9#32 := by decide +kernel
theorem crc_step_11 : stepFold 0xD9EA83F9#32 ((smallZero.drop 176).take 16) = 0xF2F6682F#32 := by decide +kernel
theorem crc_step_12 : stepFold 0xF2F6682F#32 ((smallZero.drop 192).take 16) = 0xFF7E6EEA#32 := by decide +kernel
theorem crc_step_13 : stepFold 0xFF7E6EEA#32 ((smallZero.drop 208).take 16) = 0xFE881CEC#32 := by decide +kernel
theorem crc_step_14 : stepFold 0xFE881CEC#32 ((smallZero.drop 224).take 16) = 0x71E6BE1D#32 := by decide +kernel

theorem crc_smallZero : crc32 smallZero = 0x8E1941E2#32 := by
  have h : (smallZero.drop 0).foldl crc32Byte 0xFFFFFFFF#32 = 0x71E6BE1D#32 :=
    crc_part _ _ 0 crc_step_0 _ (crc_part _ _ 16 crc_step_1 _ (crc_part _ _ 32 crc_step_2 _ (crc_part _ _ 48 crc_step_3 _ (crc_part _ _ 64 crc_step_4 _ (crc_part _ _ 80 crc_step_5 _ (crc_part _ _ 96 crc_step_6 _ (crc_part _ _ 112 crc_step_7 _ (crc_part _ _ 128 crc_step_8 _ (crc_part _ _ 144 crc_step_9 _ (crc_part _ _ 160 crc_step_10 _ (crc_part _ _ 176 crc_step_11 _ (crc_part _ _ 192 crc_step_12 _ (crc_part _ _ 208 crc_step_13 _ (crc_part _ _ 224 crc_step_14 _ (rfl)))))))))))))))
  rw [List.drop_zero] at h
  rw [crc32, h]
  decide

theorem checkCrc_smallCast : checkCrc smallCast = none := by
  have h : crc32 (smallCast.take 60 ++ [0, 0, 0, 0] ++ smallCast.drop 64) = BitVec.ofNat 32 (leAt smallCast 60 4) := by
    rw [show smallCast.take 60 ++ [0, 0, 0, 0] ++ smallCast.drop 64 = smallZero from rfl, crc_smallZero]
    decide +kernel
  rw [checkCrc, if_pos h]

theorem sc_1 : checkVersion smallCast (leAt smallCast 12 4) (castCtx up).step = none := by decide +kernel
theorem sc_2 : checkStale smallCast (castCtx up).running.gen = none := by decide +kernel
theorem sc_3 : checkStructure smallCast (leAt smallCast 12 4) (leAt smallCast 16 2) (0, 0) 64 = none := by decide +kernel
theorem sc_4 : checkOrphan (rawRecs smallCast) = none := by decide +kernel
theorem sc_5 : checkMissing (rawRecs smallCast) (leAt smallCast 12 4) = none := by decide +kernel
theorem sc_6 : checkHeaderZeros smallCast = none := by decide +kernel
theorem sc_7 : checkRanges smallCast 0 (rawRecs smallCast) = none := by decide +kernel
theorem sc_8 : checkConflict (castOf smallCast) = none := by decide +kernel
theorem sc_9 : checkCapacity (castOf smallCast) (castCtx up).capMiB = none := by decide +kernel
theorem sc_10 : checkPower (castOf smallCast) = none := by decide +kernel
theorem sc_11 : checkAssets (castOf smallCast) = none := by decide +kernel

theorem validate_right (env : CastEnv) (b : List Byte) (h0 : checkCrc b = none) (h1 : checkVersion b (leAt b 12 4) env.step = none)
    (h2 : checkStale b env.running.gen = none) (h3 : checkStructure b (leAt b 12 4) (leAt b 16 2) (0, 0) 64 = none)
    (h4 : checkOrphan (rawRecs b) = none) (h5 : checkMissing (rawRecs b) (leAt b 12 4) = none) (h6 : checkHeaderZeros b = none)
    (h7 : checkRanges b 0 (rawRecs b) = none) (h8 : checkConflict (castOf b) = none) (h9 : checkCapacity (castOf b) env.capMiB = none)
    (h10 : checkPower (castOf b) = none) (h11 : checkAssets (castOf b) = none) (hr : env.recast = false) :
    validate env b = .inr (castOf b) := by
  simp only [validate, h0, h1, h2, h3, h4, h5, h6, h7, h8, h9, h10, h11, hr]
  rfl

theorem test_hyp_LoadRuns_valid : validate (castCtx up) smallCast = .inr (castOf smallCast) :=
  validate_right _ _ checkCrc_smallCast sc_1 sc_2 sc_3 sc_4 sc_5 sc_6 sc_7 sc_8 sc_9 sc_10 sc_11 rfl

/-! ### The phase domain, frames and lines -/

/-- Slot 0 locked with link time 1,000,000. -/
def locked (s : State) : State := { reckSt .locked s with linkTime := 1000000 }

/-- The slots by their phase source. -/
def syncSlot : SlotCast := { arr with phse := { arr.phse with source := 1 } }
def pickSlot : SlotCast := { arr with phse := { arr.phse with source := 2 } }
def lvlSlot : SlotCast := { arr with phse := { arr.phse with source := 1, level := 1 } }

/-- Link time 1,000,000 with nothing that moves with it. -/
def quiet : State := { up with linkTime := 1000000 }

theorem test_hyp_LinkTimeAdvances : powered quiet = true ∧ now quiet ≤ (1000640 : LinkTime).toNat ∧ (0 : LinkTime).toNat < now quiet ∧
    powered (inSt .park up) = false ∧ cfgOf (locked upA) 0 = some arr ∧ projects (reckOf (locked upA) 0) = true ∧
    (reckOf (locked upA) 0).omegaNext = none ∧ now (locked upA) ≤ (nextStep (locked upA)).toNat := by decide +kernel
theorem test_hyp_LinkTimeAdvances_quiet : (∀ n, n < 8 → (reckOf quiet n).st = .idle ∧ portQuiet quiet n = true) ∧
    ∀ l, l < 128 → leState quiet l = 0 := by
  refine ⟨fun n hn => ?_, fun l hl => ?_⟩
  · have : (List.range 8).all (fun n => decide ((reckOf quiet n).st = .idle) && portQuiet quiet n) = true := by decide +kernel
    simpa using List.all_eq_true.1 this n (List.mem_range.2 hn)
  · have : (List.range 128).all (fun l => leState quiet l == 0) = true := by decide +kernel
    simpa using List.all_eq_true.1 this l (List.mem_range.2 hl)
theorem test_hyp_LinkTimeAdvances_loops : ∀ l, l < 128 → leState (locked upA) l = 0 := by
  intro l hl
  have : (List.range 128).all (fun l => leState (locked upA) l == 0) = true := by decide +kernel
  simpa using List.all_eq_true.1 this l (List.mem_range.2 hl)

/-- Slot 0 on a source with its reckoner changed, at link time 1,000,000. -/
def reckOn (c : SlotCast) (f : Reckoner → Reckoner) : State := { modReck 0 f (act 0 c up) with linkTime := 1000000 }

/-- A locked SYNC slot whose last edge came at link time 0. -/
def edged : Reckoner → Reckoner := fun r => { r with st := .locked, lastEdge := some 0 }

theorem test_hyp_PhaseReferences : (reckOn syncSlot edged).wf = true ∧ upNow (reckOn syncSlot edged) = true ∧
    cfgOf (reckOn syncSlot edged) 0 = some syncSlot ∧ (List.range 8).filter (followsSync (reckOn syncSlot edged) 0 false) = [0] ∧
    (modeNow (reckOn syncSlot edged) 0).rate = 24000 ∧ (reckOf (reckOn syncSlot edged) 0).st = .locked ∧
    syncAccepts (rfld (reckOn syncSlot edged) (Reg.tfSyncWin 0) 23 0) 24000 1 133333333 (reckOf (reckOn syncSlot edged) 0) = true ∧
    syncAccepts (rfld (reckOn syncSlot edged) (Reg.tfSyncWin 0) 23 0) 24000 1 5 (reckOf (reckOn syncSlot edged) 0) = false ∧
    (reckOf (reckOn syncSlot fun r => { r with st := .acquire }) 0).st = .acquire ∧
    (reckOf (reckOn syncSlot fun r => { r with st := .freeRun }) 0).st = .freeRun ∧ syncSlot.phse.source = 1 ∧
    edgePassed (rfld (reckOn syncSlot edged) (Reg.tfSyncWin 0) 23 0) 1000000 (reckOf (reckOn syncSlot edged) 0) = false := by decide +kernel

/-- The projection stands 2^14 pu past the expected edge, with k edges missed. -/
def passedBy (k : Nat) : Reckoner → Reckoner := fun r => { edged r with phiM := 1 <<< 30, consec := k }

theorem test_hyp_PhaseReferences_missed : (reckOn syncSlot (passedBy 1)).wf = true ∧ upNow (reckOn syncSlot (passedBy 1)) = true ∧
    edgePassed (rfld (reckOn syncSlot (passedBy 1)) (Reg.tfSyncWin 0) 23 0) (reckOn syncSlot (passedBy 1)).linkTime
      (reckOf (reckOn syncSlot (passedBy 1)) 0) = true ∧ 1 ≤ (reckOf (reckOn syncSlot (passedBy 1)) 0).consec ∧
    edgePassed (rfld (reckOn syncSlot (passedBy 0)) (Reg.tfSyncWin 0) 23 0) (reckOn syncSlot (passedBy 0)).linkTime
      (reckOf (reckOn syncSlot (passedBy 0)) 0) = true ∧ (reckOf (reckOn syncSlot (passedBy 0)) 0).consec = 0 := by decide +kernel

/-- Loop 5 tracks axis 0 of port 2 with a status. -/
def axisOn (st : Word) : State := setReg (Reg.leStatus 5) st (setReg (Reg.leCfg 5) 0x14000000 (reckOn pickSlot edged))

theorem test_hyp_PhaseReferences_pickoff : (axisOn 2).wf = true ∧ upNow (axisOn 2) = true ∧ cfgOf (axisOn 2) 0 = some pickSlot ∧
    pickSlot.phse.source = 2 ∧ (reckOf (axisOn 2) 0).st = .locked ∧ axisLoop (axisOn 2) 2 0 = some 5 ∧ rbit (axisOn 2) (Reg.leStatus 5) 4 = false ∧
    axisLoop (axisOn 18) 2 0 = some 5 ∧ rbit (axisOn 18) (Reg.leStatus 5) 4 = true ∧
    overdue (axisOn 18) 5 (axisOn 18).linkTime = false ∧ overdue (axisOn 18) 5 0 = false ∧
    overdue { axisOn 18 with linkTime := 1000000000000 } 5 0 = true ∧ axisLoop (reckOn pickSlot edged) 2 0 = none ∧
    hostOpen (reckOn pickSlot edged) (Reg.tfCtrl 0) = true ∧ bit (1 : Word) 0 = true ∧ hostOpen (locked upA) (Reg.tfCtrl 0) = true ∧
    arr.phse.source = 0 ∧ projects (reckOf (locked upA) 0) = true := by decide +kernel

/-- An event waits for room in the edge lane. -/
def laneWait : State := modSlot 0 (fun q => { q with lanes := { q.lanes with edgeWait := [1] } }) (locked upA)

theorem test_hyp_PhaseReferences_lane : laneWait.wf = true ∧ upNow laneWait = true ∧ waitOf (slotAt laneWait 0).lanes .edge = [1] ∧
    (laneOf (slotAt laneWait 0).lanes .edge).length < laneCap .edge := by decide +kernel

/-- A commit waits on slot 0. -/
def committing : State := modSlot 0 (fun q => { q with commit := some { wait := 1, mode := none } }) (locked upA)

theorem test_hyp_CommitRequests : (locked upA).wf = true ∧ cfgOf (locked upA) 0 = some arr ∧ hostOpen (locked upA) (Reg.soCtrl 0) = true ∧
    bit (1 : Word) 0 = true ∧ bit (1 : Word) 1 = false ∧ (slotAt (locked upA) 0).commit = none ∧ commitCause (locked upA) 0 arr none = 0 ∧
    projects (reckOf (locked upA) 0) = true ∧ bit (0x45 : Word) 2 = true ∧ fld (0x45 : Word) 7 6 = 1 ∧
    commitCause (locked upA) 0 arr (some 1) ≠ 0 ∧ projects (reckOf upA 0) = false ∧ commitCause upA 0 arr none = 0 ∧
    (slotAt upA 0).swaps = [] ∧ (slotAt upA 0).hall.due = none ∧ arr.pipe.composer < 2 ∧ (slotAt committing 0).commit ≠ none ∧
    hostOpen committing (Reg.soCtrl 0) = true ∧ committing.wf = true ∧ (slotAt (cancelCommit 0 committing) 0).commit = none ∧
    bit (3 : Word) 0 = true ∧ bit (3 : Word) 1 = true ∧ commitCause (cancelCommit 0 committing) 0 arr none = 0 := by decide +kernel

/-- Table 1's swap is pending. -/
def swapping : State := setBit (Reg.slStatus 0) 13 true (locked upA)

theorem test_hyp_TableSwapRequests : hostOpen (locked upA) (Reg.slCtrl 0) = true ∧ bit (0x11 : Word) 0 = true ∧ fld (0x11 : Word) 5 4 = 1 ∧
    bit (0x11 : Word) 1 = false ∧ rbit (locked upA) (Reg.slStatus 0) 13 = false ∧
    seqCause (locked upA) 0 arr false 1 (rfld (locked upA) (Reg.slSeq 0 1) 11 0) = 0 ∧ seqCause upA 0 arr false 1 (rfld upA (Reg.slSeq 0 1) 11 0) = 0 ∧
    projects (reckOf upA 0) = false ∧ rbit upA (Reg.slStatus 0) 13 = false ∧
    seqCause (locked upA) 0 arr false 0 (rfld (locked upA) (Reg.slSeq 0 0) 11 0) ≠ 0 ∧ rbit (locked upA) (Reg.slStatus 0) 12 = false ∧
    swapping.wf = true ∧ cfgOf swapping 0 = some arr ∧ hostOpen swapping (Reg.slCtrl 0) = true ∧ rbit swapping (Reg.slStatus 0) 13 = true ∧
    bit (0x12 : Word) 0 = false ∧ bit (0x12 : Word) 1 = true ∧ fld (0x12 : Word) 5 4 = 1 := by decide +kernel

/-- What a frame carries to its signature record. -/
def frameTap (a e : Word) : FrameTap :=
  { frame := 3, boundary := 5, actual := a, expected := e, signed := 0, freeze := 0, sliced := false, judged := false, shift := 0
    darkLines := false, dim := false, off := false, chg := false, late := [], modeDark := false, hold := false, sceneNew := false, gen := 0, scene := [] }

/-- The raster of slot 0 is under way, and a write-back of block 9 with it. -/
def rastering : State := modSlot 0 (fun q => { q with raster := true, wbRun := [{ frame := 3, block := 9, count := 1 }] }) (locked upA)

theorem test_hyp_FrameBoundaries : (locked upA).wf = true ∧ upNow (locked upA) = true ∧ cfgOf (locked upA) 0 = some arr ∧
    boundaryDue (locked upA) 0 = true ∧ (locked upA).cast.switch = none ∧ (locked upA).power.queued = none ∧
    (slotAt (locked upA) 0).commit = none ∧ boundaryDue upA 0 = false ∧ upA.power.queued = none ∧ rastering.wf = true ∧
    upNow rastering = true ∧ (slotAt rastering 0).raster = true ∧
    (slotAt rastering 0).wbRun = [{ frame := 3, block := 9, count := 1 }] := by decide +kernel

theorem test_hyp_SignatureRecords : powered upA = true ∧ hasHall upA 0 = true ∧
    (slotAt (modSlot 0 (fun q => { q with tapPrev := some (frameTap 4 5) }) upA) 0).tapPrev = some (frameTap 4 5) ∧
    (frameTap 4 5).actual ^^^ 1 = (frameTap 4 5).expected ∧ (frameTap 4 5).actual ^^^ 0 ≠ (frameTap 4 5).expected ∧
    (slotAt upA 0).hall.run = 0 := by decide +kernel

/-- Slot 0 with a table of one lit entry at pitch 8. -/
def tabled : State :=
  modSlot 0 (fun q => { q with tables := [(0, 8, 1)] }) { locked upA with pitchAct := [(129, 255)] }

/-- Slot 0 just before its frame's phase 0. -/
def early (s : State) : State := modReck 0 (fun r => { r with phiM := -1, phiHeld := -1 }) s

theorem test_hyp_ArraySlices : tabled.wf = true ∧ arrayRuns tabled 0 = some arr ∧ 0 < arr.slot.activeW * arr.slot.activeH ∧
    deadlinePassed tabled 0 = true ∧ arr.slot.activeW * arr.slot.activeH ≤ 1024 ∧ deadlinePassed (early tabled) 0 = false ∧
    arrayRuns (early tabled) 0 = some arr ∧ levels lvlSlot = true ∧ cfgOf (act 0 lvlSlot up) 0 = some lvlSlot ∧
    (slotAt (act 0 lvlSlot up) 0).lvlStale = false ∧ since (act 0 lvlSlot up) (slotAt (act 0 lvlSlot up) 0).lvlStaleFrom < 50 * msTicks ∧
    50 * msTicks ≤ since { act 0 lvlSlot up with linkTime := 1000000000 } (slotAt (act 0 lvlSlot up) 0).lvlStaleFrom ∧
    upNow { act 0 lvlSlot up with linkTime := 1000000000 } = true := by decide +kernel

/-- The directory word of block 0 of slot 0 says raw. Only channel 0 of the stack answers, so that most of the block reads 0. -/
def rawDir (s : State) : State :=
  { s with mc := { s.mc with failed := 0xFFFE }, dram := [(0, 0), (1, 16), (2, 0), (3, 128)] }

/-- A directory whose words are 0. -/
def zeroDir (s : State) : State := { s with dram := (List.range 4).map fun a => (a, 0) }

theorem test_hyp_StoreUnits : (loadBlock (rawDir (locked upA)) 0 arr 0 0).1.isRight = true ∧ (rawDir (locked upA)).wf = true ∧ arrayRuns (rawDir (locked upA)) 0 = some arr ∧
    pdOff (rawDir (locked upA)) 11 = false ∧ (rawBlock (rawDir (locked upA)) 0 arr 0 0).isSome = true ∧ (zeroDir (locked upA)).wf = true ∧
    upNow (zeroDir (locked upA)) = true ∧ (loadBlock (zeroDir (locked upA)) 0 arr 0 0).1.isLeft = true := by decide +kernel

/-- Pitch 8 actively holds a packed layer of 64 by 16 pixels in block 3. -/
def packedLayer (s : State) : State :=
  { s with pitchAct := [(128, 0x18000000), (129, 0x10001003), (130, 256), (131, 0x00100040), (132, 5)] }

theorem test_hyp_StoreUnits_layer : (packedLayer (locked upA)).wf = true ∧ isLayerPitch arr 8 = true ∧ arr.pipe.pitchBase ≤ 8 ∧
    (activeLayer (packedLayer (locked upA)) arr (pitchCode arr 8)).en = true ∧
    (activeLayer (packedLayer (locked upA)) arr (pitchCode arr 8)).kind = 1 ∧
    0 < streamUnits (layerRawLen (activeLayer (packedLayer (locked upA)) arr (pitchCode arr 8))) ∧
    (layerUnit (packedLayer (locked upA)) (activeLayer (packedLayer (locked upA)) arr (pitchCode arr 8)) 0).isLeft = true := by decide +kernel

/-- Pitches 9 and 10 are set up, pending. -/
def pitched (a b : Word) (s : State) : State := setReg (Reg.pitch 10 0) b (setReg (Reg.pitch 9 0) a s)

theorem test_hyp_PitchWrites : upA.wf = true ∧ powered upA = true ∧ pitchSlot upA 9 = some 0 ∧ cfgOf upA 0 = some arr ∧ castLocked upA = false ∧
    arr.pipe.composer ≤ 1 ∧ typeRefused arr 9 (pendW upA 9 0) 0x50000000 = false ∧
    jobDup upA arr 9 (hdrAfter (pendW upA 9 0) 0x50000000) = false ∧ headerFrozen upA 0 arr 9 0x50000000 = false ∧
    swapFreezes upA 0 arr 9 = false ∧ ownerTaken upA 9 0x50000000 = false ∧ maskOver upA arr 9 0x50000000 = false ∧
    typeRefused arr 9 (pendW upA 9 0) 0x10000000 = true := by decide +kernel

theorem test_hyp_PitchWrites_dup : (pitched 0x50000000 0x58000000 upA).wf = true ∧ pitchSlot (pitched 0x50000000 0x58000000 upA) 9 = some 0 ∧
    typeRefused arr 9 (pendW (pitched 0x50000000 0x58000000 upA) 9 0) 0x58000000 = false ∧
    jobDup (pitched 0x50000000 0x58000000 upA) arr 9 (hdrAfter (pendW (pitched 0x50000000 0x58000000 upA) 9 0) 0x58000000) = true ∧
    jobDup (pitched 0x58000000 0x58000000 upA) arr 9 (pendW (pitched 0x58000000 0x58000000 upA) 9 0) = true ∧
    jobDup (pitched 0x32000000 0 upA) arr 9 (pendW (pitched 0x32000000 0 upA) 9 0) = false ∧
    bridgeMask (pendW (pitched 0x32000000 0 upA) 9 0) = true := by decide +kernel

theorem test_hyp_PitchWrites_frozen : typeRefused arr 9 (pendW (pitched 0x30000000 0 committing) 9 0) 0x30000000 = false ∧
    jobDup (pitched 0x30000000 0 committing) arr 9 (hdrAfter (pendW (pitched 0x30000000 0 committing) 9 0) 0x30000000) = false ∧
    headerFrozen (pitched 0x30000000 0 committing) 0 arr 9 0x30000000 = true ∧ (pitched 0x30000000 0 committing).wf = true ∧
    bridgeMask (pendW upA 9 0) = false ∧ commitFreezes upA 0 arr 9 (pendW upA 9 0) = false := by decide +kernel

/-- Entry 0 of slot 0 in a state. -/
def ent (x : LineState) (r t : Bool) (s : State) : State :=
  modSlot 0 (fun q => { q with trial := q.trial.set 0 { LineEnt.empty with state := x, rendered := r, tested := t } }) s

/-- As `ent`, with the entry changed. -/
def entWith (f : LineEnt → LineEnt) (s : State) : State := modSlot 0 (fun q => { q with trial := q.trial.set 0 (f LineEnt.empty) }) s

/-- Two lines of look-ahead. -/
def looking : State := modSlot 0 (fun q => { q with lines := { q.lines with cfg := { q.lines.cfg with look := 2 } } }) upS

theorem test_hyp_LineEntries : looking.wf = true ∧ upNow looking = true ∧ cfgOf looking 0 = some scan ∧ scan.slot.cls = 2 ∧
    lineCount looking 0 ≠ 0 ∧ heldCount looking 0 < (slotAt looking 0).lines.cfg.look ∧
    (List.range (slotAt looking 0).trial.length).find? (fun i => (entAt looking 0 i).state == .empty) = some 0 ∧
    (entAt (ent .trial false false upS) 0 0).state = .trial ∧ (entAt (ent .trial false false upS) 0 0).rendered = false ∧
    hostOpen upS (Reg.lbProbeSel 0) = true ∧ bit (0x80000000 : Word) 31 = true ∧ 0 < (slotAt upS 0).trial.length ∧ upS.wf = true := by
  decide +kernel

/-- Entry 0 awaits its test on a locked slot whose projection stands x past the render's. -/
def testing (x : PhaseWord) : State := modReck 0 (fun r => { r with phiM := x }) (ent .trial true false (locked upS))

theorem test_hyp_LineEntries_test : (testing 0).wf = true ∧ upNow (testing 0) = true ∧ cfgOf (testing 0) 0 = some scan ∧
    (entAt (testing 0) 0 0).state = .trial ∧ (entAt (testing 0) 0 0).rendered = true ∧ (entAt (testing 0) 0 0).tested = false ∧
    (reckOf (testing 0) 0).st = .locked ∧ (entAt (testing 0) 0 0).strikeT ≤ (testing 0).linkTime ∧
    (strikeErr (testing 0) 0 (entAt (testing 0) 0 0)).natAbs ≤ (slotAt (testing 0) 0).lines.cfg.tol * 65536 ∧
    (entAt (testing (1 <<< 30)) 0 0).strikeT ≤ (testing (1 <<< 30)).linkTime ∧ (reckOf (testing (1 <<< 30)) 0).st = .locked ∧
    (slotAt (testing (1 <<< 30)) 0).lines.cfg.tol * 65536 < (strikeErr (testing (1 <<< 30)) 0 (entAt (testing (1 <<< 30)) 0 0)).natAbs := by
  decide +kernel

/-- Entry 0 is rendered anew, on a slot that is locked and on one that is not. -/
def rerender (s : State) : State := entWith (fun e => { e with state := .discarded, again := true }) s

theorem test_hyp_LineEntries_end : (rerender (locked upS)).wf = true ∧ (entAt (rerender (locked upS)) 0 0).state = .discarded ∧
    (entAt (rerender (locked upS)) 0 0).again = true ∧ (reckOf (rerender (locked upS)) 0).st = .locked ∧
    (reckOf (rerender upS) 0).st ≠ .locked ∧ phasePassed (ent .discarded false false (locked upS)) 0
      (entAt (ent .discarded false false (locked upS)) 0 0).start = true ∧
    (entAt (ent .struck true true (locked upS)) 0 0).state = .struck ∧
    phasePassed (modReck 0 (fun r => { r with phiHeld := 1 <<< 40 }) (ent .struck true true (locked upS))) 0
      ((entAt (ent .struck true true (locked upS)) 0 0).centre +
        phWord 0 (halfWin (entAt (ent .struck true true (locked upS)) 0 0).duty)) = true := by decide +kernel

/-! ### Light, calibration, loops and links -/

/-- Slot 0 with a supply set-point and target. -/
def supplyAt (x tgt : Nat) (s : State) : State := modSlot 0 (fun q => { q with supply := { now := x, target := tgt, falling := false, frozen := false } }) s

theorem test_hyp_LaserEnables : upA.wf = true ∧ hostOpen upA Reg.lcLenCtrl = true ∧ hostOpen upA Reg.lcLenStat = true ∧
    declared upA 0 = true ∧ cfgOf upA 0 = some arr ∧
    (slotAt (supplyAt 10 4000 upA) 0).supply.now < (slotAt (supplyAt 10 4000 upA) 0).supply.target * 10 ∧
    (4000 : Nat) * 10 < 40005 ∧ 40005 < 4000 * 10 + rfld (setReg (Reg.lsHyst 0) 1 upA) (Reg.lsHyst 0) 15 0 * 10 ∧
    40005 ≤ arr.supply.vmax * 10 ∧ (slotAt (supplyAt 40005 4000 upA) 0).supply.falling = false ∧
    arr.supply.vmax * 10 < 50005 ∧ 50005 < 5000 * 10 + rfld (setReg (Reg.lsHyst 0) 1 upA) (Reg.lsHyst 0) 15 0 * 10 ∧
    4000 * 10 + rfld upA (Reg.lsHyst 0) 15 0 * 10 ≤ 40005 ∧ (5300 : BitVec 16).toNat ≤ arr.supply.vmax + 300 ∧
    arr.supply.vmax + 300 < (5301 : BitVec 16).toNat ∧ arr.slot.port < 8 ∧ linkState upA 2 ≠ lsRun := by decide +kernel
theorem test_hyp_LaserEnables_range : CastsInRange upA := test_inRange_array

theorem test_hyp_CalibrationCommands : hostOpen upA Reg.caSnapCtrl = true ∧ bit (1 : Word) 0 = true ∧ bit (1 : Word) 1 = false ∧
    fld (1 : Word) 10 8 = 0 ∧ declared upA 0 = true ∧
    rbit upA Reg.caSnapStat 0 = false ∧ rbit (setBit Reg.caSnapStat 0 true upA) Reg.caSnapStat 0 = true ∧ projects (reckOf (locked upA) 0) = true ∧
    rbit (locked upA) (Reg.slStatus 0) 3 = false ∧ bound upA 0 = false ∧ projects (reckOf (bindAt upA) 0) = false ∧
    rbit (setBit (Reg.slStatus 0) 3 true (locked (bindAt upA))) (Reg.slStatus 0) 3 = true ∧ (slotAt (bindAt upA) 0).cal.job = none ∧
    bit (2 : Word) 1 = true ∧ bit (2 : Word) 0 = false ∧ hostOpen upA Reg.caPageCtrl = true ∧ upA.page = none ∧ bound (bindAt upA) 0 = true ∧
    linkState (bindAt upA) (portOf (bindAt upA) 0) = lsRun ∧ (bindAt upA).page = none ∧ hostOpen (bindAt upA) Reg.caPageCtrl = true ∧
    hostOpen upA (Reg.caCtrl 0) = true ∧ cfgOf upA 0 = some arr := by decide +kernel

/-- A page store under way at a step. -/
def storing (x : StoreStep) (s : State) : State := { s with page := some { slot := 0, page := 0, image := [], at_ := x } }

theorem test_hyp_CalibrationCommands_page : (storing (.checked true) upA).page.isSome = true ∧ (storing (.checked false) upA).wf = true ∧
    hostOpen (storing (.checked true) upA) Reg.caPageCtrl = true := by decide +kernel

/-- Loop 5 of one state, one output and one measurement, in a state of R294. -/
def loopIn (x : Nat) (s : State) : State := setFld (Reg.leStatus 5) 1 0 x (setReg (Reg.leDim 5) 0x11100000 s)

/-- Loop 5 changed. -/
def loopWith (f : LoopState → LoopState) (s : State) : State := { s with loops := s.loops.set 5 (f LoopState.init) }

/-- Its CLOSE has been accepted. -/
def closing5 (s : State) : State := loopWith (fun q => { q with closing := true }) s

theorem test_hyp_LoopOrders : (loopIn 0 up).wf = true ∧ hostOpen (loopIn 0 up) (Reg.leCtrl 5) = true ∧ leState (loopIn 0 up) 5 = 0 ∧
    enableFails (loopIn 0 up) 5 = false ∧ enableFails up 5 = true ∧ leState up 5 = 0 ∧ leState (loopIn 1 up) 5 = 1 ∧
    hostOpen (loopIn 1 up) (Reg.leCtrl 5) = true ∧ (loopAt (loopIn 1 up) 5).closing = false ∧ unboundLoop (loopIn 1 up) 5 = false ∧
    unboundLoop (setReg (Reg.leCfg 5) 0x14000000 (loopIn 1 up)) 5 = true ∧ leState (loopIn 2 up) 5 = 2 ∧
    leState (closing5 (loopIn 1 up)) 5 ≠ 2 ∧ (loopAt (closing5 (loopIn 1 up)) 5).closing = true ∧ leClosed (loopIn 1 up) 5 = false ∧
    leState (loopIn 1 up) 5 ≠ 0 := by decide +kernel

/-- Loop 5 measures current on port 2 and has heard nothing since link time 0. -/
def deaf : State := { setReg (Reg.leCfg 5) 0x24000000 (loopIn 2 up) with linkTime := 1000000000000 }

theorem test_hyp_LoopWords : hostOpen up (Reg.leCoef 5 138) = true ∧ leClosed up 5 = false ∧ hostOpen (loopIn 2 up) (Reg.leCoef 5 138) = true ∧
    leClosed (loopIn 2 up) 5 = true ∧ leConfigReg 5 0 = some (Reg.leCfg 5, 0xFFFFFFFE) ∧ hostOpen up (Reg.leCfg 5) = true ∧
    leState up 5 = 0 ∧ leConfigReg 5 20 = some (Reg.leDrv 5, 0xFFFFFFFF) ∧ hostOpen up (Reg.leDrv 5) = true ∧
    hostOpen (loopIn 1 up) (Reg.leCfg 5) = true ∧ leState (loopIn 1 up) 5 ≠ 0 ∧ hostOpen up (Reg.leDly 5) = true ∧ deaf.wf = true ∧
    loopsRun deaf = true ∧ leClosed deaf 5 = true ∧ leSrc deaf 5 ≠ 0 ∧ overdue deaf 5 (loopAt deaf 5).heard = true := by decide +kernel

/-- A sample of loop 5 taken at link time 0 runs. -/
def sampled (s : State) : State := loopWith (fun q => { q with run := some { t := 0, y := [] } }) s

theorem test_hyp_LoopSamples : (sampled (loopIn 1 up)).wf = true ∧ loopsRun (sampled (loopIn 1 up)) = true ∧
    leNy (sampled (loopIn 1 up)) 5 ≤ 2 ∧ leState (sampled (loopIn 1 up)) 5 = 1 ∧
    dueSample (sampled (loopIn 1 up)) 5 0 = some { t := 0, y := [] } ∧ servedNext (sampled (loopIn 1 up)) 5 { t := 0, y := [] } = true ∧
    (loopAt (sampled (loopIn 1 up)) 5).ramp = none ∧ (loopAt (sampled (loopIn 1 up)) 5).closing = false ∧
    leState (sampled (loopIn 2 up)) 5 = 2 ∧ dueSample (setReg (Reg.leCfg 5) 0x24000000 (loopIn 1 up)) 5 0 = none := by decide +kernel

/-- Loop 5 tracks, with pickoff samples waiting and a last measurement. -/
def tracking (l : Option (BitVec 64)) : State :=
  loopWith (fun q => { q with trk := { Tracker.init with run := true, last := l }, picks := [(9, 100)] }) (setReg (Reg.leCfg 5) 0x14000000 (loopIn 1 up))

theorem test_hyp_LoopSamples_tracker : (tracking (some 7)).wf = true ∧ loopsRun (tracking (some 7)) = true ∧ leSrc (tracking (some 7)) 5 = 1 ∧
    leState (tracking (some 7)) 5 ≠ 0 ∧ (loopAt (tracking (some 7)) 5).trk.run = true ∧ (loopAt (tracking (some 7)) 5).picks = [(9, 100)] ∧
    (loopAt (tracking (some 7)) 5).trk.last = some 7 ∧ (loopAt (tracking none) 5).trk.last = none ∧
    (loopAt (loopIn 1 up) 5).picks = [] := by decide +kernel

/-- Loop 5 drives a resonant axis, an actuator, or a phase group. -/
def driving (cfg : Word) : State := setReg (Reg.leCfg 5) cfg (loopIn 1 (bindAt upA))

theorem test_hyp_LoopSamples_drive : (driving 0x14014080).wf = true ∧ loopsRun (driving 0x14014080) = true ∧ leState (driving 0x14014080) 5 ≠ 0 ∧
    leResonant (driving 0x14014080) 5 = true ∧ leDst (driving 0x14014080) 5 = 0 + 1 ∧ portBound (driving 0x14014080) (leDport (driving 0x14014080) 5) = true ∧
    leResonant (driving 0x14024080) 5 = true ∧ leDst (driving 0x14024080) 5 = 1 + 1 ∧ leDst (driving 0x14034080) 5 = 3 ∧
    leResonant (driving 0x14034080) 5 = true := by decide +kernel

theorem test_hyp_LinkTraining : up.wf = true ∧ portOn up 2 = true ∧ linkState up 2 = lsDetect ∧ rbit up (Reg.epStatus 2) 3 = false ∧
    portHears up 2 = true ∧ portHears (linkAt 2 lsTrain up) 2 = true ∧ linkState (linkAt 2 lsTrain up) 2 ≠ lsIdentify ∧
    (portAt up 2).rejected = false ∧ linkState (linkAt 2 lsTrain up) 2 = lsTrain ∧ (portAt up 2).trainStep < 4 ∧
    2 ≤ (portAt (modPort 2 (fun q => { q with trainFails := 2 }) up) 2).trainFails ∧
    linkState (modPort 2 (fun q => { q with trainFails := 2 }) (linkAt 2 lsTrain up)) 2 = lsTrain := by decide +kernel

/-- A probe series of port 2 with k echoes of difference d, the link in a state. -/
def probing (x k : Nat) (d : Int) : State := modPort 2 (fun q => { q with series := true, echoes := List.replicate k d }) (linkAt 2 x up)

theorem test_hyp_LinkProbes : (probing lsRun 14 0).wf = true ∧ (portAt (probing lsRun 14 0) 2).series = true ∧
    linkState (probing lsRun 14 0) 2 = lsRun ∧ (portAt (probing lsRun 14 0) 2).echoes.length < 15 ∧
    (portAt (probing lsTrain 15 0) 2).echoes.length = 15 ∧ linkState (probing lsTrain 15 0) 2 = lsTrain ∧
    (medianDelay ((portAt (probing lsRun 15 4) 2).echoes ++ [4]) - (rfld (probing lsRun 15 4) (Reg.epDelay 2) 23 0 : Int)).natAbs = 2 ∧
    (medianDelay ((portAt (probing lsRun 15 128) 2).echoes ++ [128]) - (rfld (probing lsRun 15 128) (Reg.epDelay 2) 23 0 : Int)).natAbs = 64 ∧
    (medianDelay ((portAt (probing lsRun 15 6) 2).echoes ++ [6]) - (rfld (probing lsRun 15 6) (Reg.epDelay 2) 23 0 : Int)).natAbs = 3 := by
  decide +kernel

/-- Port 2 in Train after its probe series. -/
def probed : State := modPort 2 (fun q => { q with trainStep := 4 }) (linkAt 2 lsTrain up)

theorem test_hyp_LinkProbes_ack : probed.wf = true ∧ upNow probed = true ∧ linkState probed 2 = lsTrain ∧ (portAt probed 2).trainStep = 4 ∧
    (portAt probed 2).series = false ∧ (portAt probed 2).tags.length < 4 ∧ linkState (linkAt 2 lsRun up) 2 = lsRun ∧
    slotOnPort (bindAt upA) 2 = some 0 ∧ linkState (bindAt upA) 2 = lsRun ∧
    slotOnPort (linkAt 2 lsRun up) 2 = none ∧ hostOpen (linkAt 2 lsRun up) (Reg.epCtrl 2) = true ∧ bit (1 : Word) 0 = true ∧
    bit (1 : Word) 1 = false ∧ bit (1 : Word) 2 = false ∧ (portAt (linkAt 2 lsRun up) 2).probes = 0 ∧
    (portAt (modPort 2 (fun q => { q with probes := 3 }) (linkAt 2 lsRun up)) 2).probes ≠ 0 := by decide +kernel

/-- A descriptor request of port 2 outstanding. -/
def asked (w : Bool) (s : State) : State := modPort 2 (fun q => { q with tags := [{ tag := 9, addr := 0x4000, len := 64, write := w }] }) s

/-- A read of n bytes at an address outstanding in Identify. -/
def reading (a n : Nat) : State := modPort 2 (fun q => { q with tags := [{ tag := 9, addr := a, len := n, write := false }] }) (linkAt 2 lsIdentify upA)

theorem test_hyp_LinkBinding : (asked false (bindAt upA)).wf = true ∧
    ((portAt (asked false (bindAt upA)) 2).tags.find? fun y => y.tag == (9 : Byte).toNat && !y.write && y.addr == (0x4000 : BitVec 16).toNat).isSome = true ∧
    linkState (asked false (bindAt upA)) 2 ≠ lsIdentify ∧ (asked false (bindAt upA)).page = none ∧ portOf (storing .reading upA) 0 = 2 ∧ pageAddr 0 = 0x4000 ∧
    ((portAt (asked true upA) 2).tags.find? fun y => y.tag == 9 && y.write).isSome = true ∧ (portAt (asked true upA) 2).tags.any (·.write) = true ∧
    linkState (linkAt 2 lsBind upA) 2 = lsBind ∧ rfld (linkAt 2 lsBind upA) (Reg.epBindId 2) 15 0 = 0 ∧ slotOnPort (linkAt 2 lsBind upA) 2 = some 0 ∧
    cfgOf (linkAt 2 lsBind upA) 0 = some arr ∧ (linkAt 2 lsBind upA).wf = true ∧ linkState upA 2 ≠ lsBind := by decide +kernel

theorem test_hyp_LinkBinding_identify : (reading 0 64).wf = true ∧ linkState (reading 0 64) 2 = lsIdentify ∧
    (portAt (reading 0 64) 2).identified = false ∧ (portAt (reading 0 64) 2).tags.length ≤ 4 ∧
    ((portAt (reading 0 64) 2).tags.find? fun y => y.tag == 9 && !y.write && y.addr == 0) =
      some { tag := 9, addr := 0, len := 64, write := false } ∧
    (List.replicate 64 (1 : Byte)).length = 64 ∧ 64 < leAt (List.replicate 64 1) 6 2 ∧ leAt (List.replicate 64 1) 6 2 ≤ 16384 ∧
    linkState (reading 0x4800 2048) 2 = lsIdentify ∧ (portAt (reading 0x4800 2048) 2).identified = false ∧
    ((portAt (reading 0x4800 2048) 2).tags.find? fun y => y.tag == 9 && !y.write && y.addr == 0x4800) =
      some { tag := 9, addr := 0x4800, len := 2048, write := false } ∧ slotOnPort (reading 0x4800 2048) 2 = some 0 ∧
    (portAt (reading 0x4800 2048) 2).rejected = false := by decide +kernel

theorem inRange_links (x : Nat) : CastsInRange (linkAt 2 x upA) := test_inRange_array

theorem test_hyp_LinkLoss : (linkAt 2 lsIdentify upA).wf = true ∧ portHears (linkAt 2 lsIdentify upA) 2 = true ∧
    linkState (linkAt 2 lsIdentify upA) 2 ≠ lsDetect ∧ linkState (linkAt 2 lsIdentify upA) 2 ≠ lsLost ∧ upNow (linkAt 2 lsIdentify upA) = true ∧
    linkState (linkAt 2 lsIdentify upA) 2 = lsIdentify ∧ beating (linkAt 2 lsIdentify upA) 2 = true ∧ (portAt upA 2).misses < 3 ∧
    3 ≤ (portAt (modPort 2 (fun q => { q with misses := 3 }) (linkAt 2 lsIdentify upA)) 2).misses ∧
    beating (modPort 2 (fun q => { q with misses := 3 }) (linkAt 2 lsIdentify upA)) 2 = true ∧
    (3 : Byte).toNat ≠ linkState (linkAt 2 lsRun upA) 2 ∧ (4 : Byte).toNat = linkState (linkAt 2 lsRun upA) 2 ∧
    beating (linkAt 2 lsRun upA) 2 = true ∧ (15 : BitVec 16).toNat + (((portAt upA 2).engErrs.filter fun x => decide (since upA x.1 < msTicks)).map (·.2)).sum < 16 ∧
    (recentErrs upA 2).length < 15 ∧ 15 ≤ (recentErrs (modPort 2 (fun q => { q with errs := List.replicate 15 0 }) (linkAt 2 lsRun upA)) 2).length ∧
    64 < (medianDelay ((portAt (probing lsRun 15 130) 2).echoes ++ [130]) - (rfld (probing lsRun 15 130) (Reg.epDelay 2) 23 0 : Int)).natAbs ∧
    linkState (linkAt 2 lsBind upA) 2 = lsBind ∧ linkState (linkAt 2 lsQuiesce upA) 2 = lsQuiesce ∧ linkState (linkAt 2 lsLost upA) 2 = lsLost := by
  decide +kernel

/-- A sense return without measurements. -/
def sensed (t0 t1 : LinkTime) : SensePkt :=
  { intact := true, crcOk := true, tStart := t0, tEnd := t1, status := 0, vMeas := 0, dlCrc := 0, planeInc := 0, lateCmd := 0, pickoffs := []
    pds := [], curs := [], temps := [] }

/-- Port 2 rejected its binding in Identify, and why the link is quiesced. -/
def rejectedAt : State := modPort 2 (fun q => { q with rejected := true, identified := true }) (linkAt 2 lsIdentify upA)
def quiescing (w : QuiesceWhy) : State := modPort 2 (fun q => { q with quiesce := some w }) (linkAt 2 lsQuiesce upA)

theorem test_hyp_LinkQuiesceAndSense : hostOpen (bindAt upA) (Reg.epCtrl 2) = true ∧ linkState (bindAt upA) 2 = lsRun ∧ bit (4 : Word) 2 = true ∧
    bit (4 : Word) 0 = false ∧ bit (4 : Word) 1 = false ∧ hostOpen upA (Reg.epCtrl 2) = true ∧ linkState upA 2 = lsDetect ∧
    linkState (quiescing .stop) 2 = lsQuiesce ∧ (portAt (quiescing .stop) 2).quiesce = some .stop ∧ upNow (quiescing .stop) = true ∧
    (portAt (quiescing .host) 2).quiesce ≠ some .engineReset ∧ (portAt (quiescing .host) 2).quiesce ≠ some .stop ∧
    linkState (quiescing .host) 2 = lsQuiesce ∧ bit (2 : Word) 1 = true ∧ bit (2 : Word) 0 = false ∧ bit (2 : Word) 2 = false ∧
    linkState upA 2 ≠ lsIdentify ∧ rejectedAt.wf = true ∧ hostOpen rejectedAt (Reg.epCtrl 2) = true ∧ portHears rejectedAt 2 = true ∧
    linkState rejectedAt 2 = lsIdentify ∧ (portAt rejectedAt 2).rejected = true ∧ (portAt rejectedAt 2).identified = true ∧
    slotOnPort rejectedAt 2 = some 0 ∧ cfgOf rejectedAt 0 = some arr := by decide +kernel

theorem test_hyp_LinkQuiesceAndSense_sense : (linkAt 2 lsRun up).wf = true ∧ upNow (linkAt 2 lsRun up) = true ∧
    senseOk (linkAt 2 lsRun up) 2 (sensed 0 0) = true ∧ bit (sensed 0 0).status 0 = false ∧
    overChans (linkAt 2 lsRun up) 2 (sensed 0 0) 5 &&& (portAt (linkAt 2 lsRun up) 2).overs = 0 ∧ (sensed 0 0).dlCrc = 0 ∧
    slotOnPort up 2 = none ∧ senseOk (linkAt 2 lsRun upA) 2 { sensed 0 0 with status := 1 } = true ∧ bit ({ sensed 0 0 with status := 1 } : SensePkt).status 0 = true ∧
    senseOk (bindAt upA) 2 (sensed 5 0) = false ∧ linkState (bindAt upA) 2 ≠ lsDetect ∧ linkState (bindAt upA) 2 ≠ lsLost ∧
    (sensed 5 0).intact = true ∧ bit (sensed 5 0).status 0 = false ∧ (portAt (bindAt upA) 2).slot = some 0 ∧
    (recentErrs (bindAt upA) 2).length < 15 := by decide +kernel


/-! A snapshot image of a slot without calibrated channels, written whole into the buffer; its CRC stays unevaluated. -/

/-- The buffer with the image's first 510 words, and with the image sealed. -/
def snapOpen : State := setReg (Reg.snapBuf 1) 1 (setReg (Reg.snapBuf 0) 0x504E5343 (locked (bindAt upA)))
def snapWords : List Word := (List.range 510).map fun w => reg snapOpen (Reg.snapBuf w)
def snapSealed (x : Word) : State := setReg (Reg.snapBuf 511) (sealOf 0) (setReg (Reg.snapBuf 510) x snapOpen)
def snapImage (x : Word) : List Word := (List.range 512).map fun w => reg (snapSealed x) (Reg.snapBuf w)

theorem snapOpen_wf : snapOpen.regs.wf = true := by decide +kernel

theorem snapSealed_reg (x : Word) (a : Nat) (h : a ≠ Reg.snapBuf 510) (h' : a ≠ Reg.snapBuf 511) : reg (snapSealed x) a = reg snapOpen a := by
  rw [snapSealed, reg_setReg_ne (setReg_wf snapOpen_wf _ _) _ h', reg_setReg_ne snapOpen_wf _ h]

theorem snapImage_word (x : Word) (w : Nat) (h : w < 512) : imgW (snapImage x) w = reg (snapSealed x) (Reg.snapBuf w) := by
  simp [imgW, snapImage, h]

theorem snapImage_low (x : Word) (w : Nat) (h : w < 510) : imgW (snapImage x) w = reg snapOpen (Reg.snapBuf w) := by
  rw [snapImage_word x w (by omega), snapSealed_reg] <;> simp only [Reg.snapBuf] <;> omega

theorem snapImage_take (x : Word) : (snapImage x).take 510 = snapWords := by
  rw [snapImage, ← List.map_take, List.take_range, snapWords]
  refine List.map_congr_left fun w hw => ?_
  have := List.mem_range.1 hw
  refine snapSealed_reg x _ ?_ ?_ <;> simp only [Reg.snapBuf] <;> omega

theorem snapImage_whole (x : Word) (hx : crc32 (wordBytes snapWords) = x) : imageWhole (snapImage x) = true := by
  have h0 : imgW (snapImage x) 510 = x := by
    rw [snapImage_word x 510 (by omega), snapSealed, reg_setReg_ne (setReg_wf snapOpen_wf _ _) _ (by decide), reg_setReg_same snapOpen_wf]
  have h1 : imgW (snapImage x) 511 = sealOf 0 := by
    rw [snapImage_word x 511 (by omega), snapSealed, reg_setReg_same (setReg_wf snapOpen_wf _ _)]
  have h2 : imgW (snapImage x) 2 = 0 := (snapImage_low x 2 (by omega)).trans (by decide +kernel)
  rw [imageWhole, snapImage_take x, hx, h0, h1, h2]
  simp

theorem snapImage_status (x : Word) (hx : crc32 (wordBytes snapWords) = x) : imageStatus (setFld Reg.caSnapCtrl 10 8 0 (snapSealed x)) 0 (snapImage x) = .OK := by
  have r (a : Nat) (ha : a ≠ Reg.caSnapCtrl) (h : a ≠ Reg.snapBuf 510) (h' : a ≠ Reg.snapBuf 511) :
      reg (setFld Reg.caSnapCtrl 10 8 0 (snapSealed x)) a = reg snapOpen a := by
    rw [reg_setFld_ne (s := snapSealed x) (setReg_wf (setReg_wf snapOpen_wf _ _) _ _) _ _ _ ha, snapSealed_reg x a h h']
  have hc : cfgOf (setFld Reg.caSnapCtrl 10 8 0 (snapSealed x)) 0 = some arr := by
    change cfgOf snapOpen 0 = some arr
    decide +kernel
  have hb : bound (setFld Reg.caSnapCtrl 10 8 0 (snapSealed x)) 0 = true := by
    rw [bound, hc]
    dsimp only
    rw [rbit, r _ (by decide) (by decide) (by decide)]
    change (rbit snapOpen (Reg.epStatus 2) 4 && decide ((portAt snapOpen 2).slot = some 0)) = true
    decide +kernel
  have hn : calChans (setFld Reg.caSnapCtrl 10 8 0 (snapSealed x)) arr = [] := by
    change calChans snapOpen arr = []
    decide +kernel
  rw [imageStatus, if_neg (by rw [snapImage_whole x hx]; simp), hc]
  dsimp only
  rw [hn, if_pos]
  refine ⟨?_, ?_, ?_, ?_, ?_, ?_, ?_, ?_, hb⟩
  · rw [snapImage_low x 0 (by omega)]; decide +kernel
  · rw [snapImage_low x 1 (by omega)]; decide +kernel
  · rw [snapImage_low x 1 (by omega)]; decide +kernel
  · rw [snapImage_low x 1 (by omega)]; decide +kernel
  · rfl
  · rw [snapImage_low x 3 (by omega), r _ (by decide) (by decide) (by decide)]; decide +kernel
  · rw [snapImage_low x 4 (by omega), r _ (by decide) (by decide) (by decide)]; decide +kernel
  · rw [snapImage_low x 5 (by omega), portCrc, r _ (by decide) (by decide) (by decide)]; decide +kernel

theorem test_hyp_CalibrationCommands_image : ∃ s img, cfgOf s 0 = some arr ∧ projects (reckOf s 0) = true ∧
    img = (List.range 512).map (fun w => reg s (Reg.snapBuf w)) ∧ imageStatus (setFld Reg.caSnapCtrl 10 8 0 s) 0 img = .OK := by
  obtain ⟨x, hx⟩ : ∃ x, crc32 (wordBytes snapWords) = x := ⟨_, rfl⟩
  refine ⟨snapSealed x, snapImage x, ?_, ?_, rfl, snapImage_status x hx⟩
  · change cfgOf snapOpen 0 = some arr
    decide +kernel
  · change projects (reckOf snapOpen 0) = true
    decide +kernel

/-! ### Sensors, heat and the safety port -/

/-- Camera 1 enabled for RAW8 in a state of R337, of height 2. -/
def camIn (x : Nat) (f : CamState → CamState) (s : State) : State :=
  modCam 1 f (setFld (Reg.sbCamStatus 1) 1 0 x (setReg (Reg.sbCamSize 1) 0x00020004 (setReg (Reg.sbCamCfg 1) 0x802A0000 s)))

/-- Camera 1 as `camIn` with other bits of SBn_CAM_CFG, a ring of two blocks from block 20 that it owns, and a pool for direct
buffers. -/
def camSet (cfg : Word) (x : Nat) (f : CamState → CamState) (s : State) : State :=
  let t := own 20 tSensor 1 (own 21 tSensor 1 (setReg (Reg.sbCamRing 1) 0x00002014 (setReg (Reg.sbCamCfg 1) cfg (camIn x f s))))
  { t with cast := { t.cast with pool := [{ kind := 6, slot := 0xFF, base := 0, size := 4096 }] } }

/-- A frame of camera 1 is being received. -/
def recv (ls : List (List Byte)) (s : State) : State :=
  camIn 1 (fun q => { q with open_ := true, num := 7, lines := ls, win := some 20 }) s

theorem test_hyp_CameraFrames : bridgeOn up = true ∧ (camIn 1 id up).wf = true ∧ bridgeOn (camIn 1 id up) = true ∧
    camState (camIn 1 id up) 1 ≠ 0 ∧ otherVc 1 0 (camIn 1 id up) = false ∧ otherVc 1 1 (camIn 1 id up) = true ∧
    (camAt (camIn 1 id up) 1).open_ = false ∧ rbit (camIn 1 id up) (Reg.sbCamCfg 1) 30 = false ∧ directOn (camIn 1 id up) 1 = false ∧
    (0x2A : BitVec 6).toNat = camDt (camIn 1 id up) 1 ∧ imageDts.contains (0x2A : BitVec 6).toNat = true ∧
    (camAt (recv [] up) 1).open_ = true ∧ (camAt (recv [] up) 1).lines.length < camH (recv [] up) 1 ∧
    camH (recv [[], []] up) 1 ≤ (camAt (recv [[], []] up) 1).lines.length ∧
    (camAt (recv [] up) 1).emb.length < camEmb (setReg (Reg.sbCamCfg 1) 0x802A0100 (recv [] up)) 1 ∧ otherVc 1 0 (recv [] up) = false := by
  decide +kernel

theorem test_hyp_CameraFrames_ring : (camSet 0xE02A0000 1 id up).wf = true ∧ bridgeOn (camSet 0xE02A0000 1 id up) = true ∧
    camState (camSet 0xE02A0000 1 id up) 1 ≠ 0 ∧ otherVc 1 0 (camSet 0xE02A0000 1 id up) = false ∧
    rbit (camSet 0xE02A0000 1 id up) (Reg.sbCamCfg 1) 30 = true ∧ ringF (camSet 0xE02A0000 1 id up) 1 = 1 ∧
    rfld (camSet 0xE02A0000 1 id up) (Reg.sbCamRing 1) 22 12 / 1 = 2 ∧ rfld (camSet 0xE02A0000 1 id up) (Reg.sbCamRing 1) 11 0 = 20 ∧
    (blocksOf 20 1).all (fun k => decide (tallyClass (camSet 0xE02A0000 1 id up) k = tSensor ∧ tallyId (camSet 0xE02A0000 1 id up) k = 1)) = true ∧
    directOn (camSet 0xE02A0000 1 id up) 1 = true ∧
    directFits (camSet 0xE02A0000 1 id up) 1 (rfld (camSet 0xE02A0000 1 id up) (Reg.sbCamDirect 1) 15 0) = true := by decide +kernel

theorem test_hyp_CameraFrames_end : (recv [[], []] up).wf = true ∧ bridgeOn (recv [[], []] up) = true ∧ camState (recv [[], []] up) 1 ≠ 0 ∧
    otherVc 1 0 (recv [[], []] up) = false ∧ (camAt (recv [[], []] up) 1).open_ = true ∧
    conforms (recv [[], []] up) 1 (camAt (recv [[], []] up) 1) 7 = true ∧ conforms (recv [[], []] up) 1 (camAt (recv [[], []] up) 1) 8 = false ∧
    rbit (recv [[], []] up) (Reg.sbCamEmb 1) 31 = false ∧ (camAt (recv [[], []] up) 1).win = some 20 ∧ 20 ∈ blocksOf 20 (ringF (recv [[], []] up) 1) ∧
    (blocksOf 20 1).all (fun j => mayAccess (own 20 tSensor 1 (recv [[], []] up)) tSensor 1 (camAt (recv [[], []] up) 1).winEpoch j) = true ∧
    (own 20 tSensor 1 (recv [[], []] up)).wf = true ∧ (camAt (own 20 tSensor 1 (recv [[], []] up)) 1).win = some 20 ∧
    camState (camIn 2 id up) 1 = 2 ∧ noFs (camIn 2 id up) 1 = true ∧ bridgeOn (camIn 2 id up) = true ∧ camState (camIn 1 id up) 1 ≠ 2 := by decide +kernel

theorem test_hyp_CameraFrames_set : hostOpen up (Reg.sbCamCfg 1) = true ∧ rbit up (Reg.sbCamCfg 1) 31 = false ∧ bit (0x801E0000 : Word) 31 = true ∧
    rawDt (fld (0x801E0000 : Word) 21 16) = false ∧ rawDt (fld (0x802A0000 : Word) 21 16) = true ∧
    camW (setReg (Reg.sbCamSize 1) 0x00020003 up) 1 % 2 = 1 ∧ hostOpen (setReg (Reg.sbCamSize 1) 0x00020003 up) (Reg.sbCamCfg 1) = true ∧
    hostOpen up (Reg.sbCamDirect 1) = true ∧ directFits up 1 0 = false ∧
    directFits { up with cast := { up.cast with pool := [{ kind := 6, slot := 0xFF, base := 0, size := 4096 }] } } 1 0 = true := by decide +kernel

/-- An object list in block 3, the bridge's, with signature x, one record and SEQ 0. -/
def listIn (x : Byte) : State :=
  let t := own 3 tSensor objId up
  { t with mc := { t.mc with failed := 0xFFFE }, dram := [(196624, x), (196625, 66), (196626, 79), (196627, 76), (196628, 0), (196629, 0), (196630, 1), (196642, 0)] }

theorem test_hyp_ObjectsAndAttitude : tallyClass up 3 ≠ tSensor ∧ (listIn 83).wf = true ∧ bridgeOn (listIn 83) = true ∧
    tallyClass (listIn 83) 3 = tSensor ∧ tallyId (listIn 83) 3 = objId ∧ leAt (dramRead (listIn 83) 196608 1056) 16 4 = 0x4C4F4253 ∧
    (listIn 83).sb.seqs.lookup 0 = none ∧ byteAt (dramRead (listIn 83) 196608 1056) 22 = 1 ∧
    byteAt (((dramRead (listIn 83) 196608 1056).drop 32).take 16) 2 % 2 = 0 ∧ (listIn 83).sb.objs.length < 512 ∧
    leAt (dramRead (listIn 84) 196608 1056) 16 4 ≠ 0x4C4F4253 := by decide +kernel
theorem test_hyp_ObjectsAndAttitude_range : CastsInRange (listIn 83) := inRange_of (by decide +kernel) rfl rfl rfl

/-- CAN bus 0 hears object lists from identifier 5 on, with a list begun. -/
def canSet (a : Option CanAsm) : State := setCan 0 a (setReg (Reg.sbCan 0) 0x80000005 up)

theorem test_hyp_ObjectsAndAttitude_can : (canSet none).wf = true ∧ canOn (canSet none) = true ∧ rbit (canSet none) (Reg.sbCan 0) 31 = true ∧
    rfld (canSet none) (Reg.sbCanStat 0) 31 30 ≠ 2 ∧ rbit (canSet none) (Reg.sbCan 0) 29 = false ∧
    (5 : BitVec 29).toNat = rfld (canSet none) (Reg.sbCan 0) 28 0 ∧ canAt (canSet none) 0 = none ∧ 4 ≤ byteAt (List.replicate 64 9) 6 ∧
    byteAt (List.replicate 64 9) 6 ≤ 64 ∧ byteAt ([83, 66, 79, 76] ++ List.replicate 60 0) 6 < 4 ∧
    leAt ([83, 66, 79, 76] ++ List.replicate 60 0) 0 4 = 0x4C4F4253 ∧ (canSet none).sb.seqs.lookup (1 + 0) = none ∧
    canAt (canSet (some { bytes := List.replicate 64 9, next := 1, t0 := 0, last := 0 })) 0 =
      some { bytes := List.replicate 64 9, next := 1, t0 := 0, last := 0 } ∧
    canLate { bytes := List.replicate 64 9, next := 1, t0 := 0, last := 0 } 100 = false ∧
    canLate { bytes := List.replicate 64 9, next := 1, t0 := 0, last := 0 } 1000000000 = true ∧
    (6 : BitVec 29).toNat = rfld (canSet none) (Reg.sbCan 0) 28 0 + 1 ∧ 64 + 64 < 16 + 16 * byteAt (List.replicate 64 9 ++ List.replicate 64 9) 6 ∧
    rfld (setFld (Reg.sbCanStat 0) 31 30 2 up) (Reg.sbCanStat 0) 31 30 = 2 ∧ canOn (setFld (Reg.sbCanStat 0) 31 30 2 up) = true ∧
    hostOpen up Reg.sbImuHost = true ∧ hostOpen (setReg Reg.sbImuCfg 0x40000000 up) Reg.sbImuHost = true ∧
    rbit (setReg Reg.sbImuCfg 0x40000000 up) Reg.sbImuCfg 30 = true ∧ bridgeOn (setReg Reg.sbImuCfg 0x40000000 up) = true := by decide +kernel

/-- A transaction of 8 bytes whose check byte, at offset 0, is to be 9. -/
def imuSet (s : State) : State := setReg Reg.sbImuFmt 0x09000000 (setReg Reg.sbImuXfer 0x04000000 (setReg Reg.sbImuCfg 0x80000000 s))

theorem test_hyp_ObjectsAndAttitude_imu : (imuSet up).wf = true ∧ bridgeOn (imuSet up) = true ∧ rbit (imuSet up) Reg.sbImuCfg 31 = true ∧
    rbit (imuSet up) Reg.sbImuCfg 30 = false ∧ imuOverlap (imuSet up) 5000 = false ∧
    imuOverlap { imuSet up with sb := { (imuSet up).sb with imuEnd := some 1000000 } } 5000 = true ∧
    max (rfld (imuSet up) Reg.sbImuXfer 20 16 + 1) (max (rfld (imuSet up) Reg.sbImuFmt 20 16 + 2) (rfld (imuSet up) Reg.sbImuFmt 12 8 + 2)) ≤
      ((List.replicate 8 9 : List Byte).take (rfld (imuSet up) Reg.sbImuXfer 27 23)).length ∧
    byteAt ((List.replicate 8 9 : List Byte).take (rfld (imuSet up) Reg.sbImuXfer 27 23)) (rfld (imuSet up) Reg.sbImuXfer 20 16) =
      rfld (imuSet up) Reg.sbImuFmt 31 24 ∧
    byteAt ((List.replicate 8 5 : List Byte).take (rfld (imuSet up) Reg.sbImuXfer 27 23)) (rfld (imuSet up) Reg.sbImuXfer 20 16) ≠
      rfld (imuSet up) Reg.sbImuFmt 31 24 := by decide +kernel

/-- A heat ledger changed. -/
def heatAt (f : HeatState → HeatState) (s : State) : State := { s with heat := f s.heat }

/-- A sensor check. -/
def check (d a : Nat) (x : Bool) : SensorCheck := { val := 0, dis := d, agree := a, suspect := x }

/-- Sensor 4 of port 2, read last at link time 0, at link time t. -/
def engAt (t : LinkTime) : State :=
  heatAt (fun h => { h with eng := [{ port := 2, num := 4, failed := false, seen := 0, chk := check 100 0 false }] }) { up with linkTime := t }

/-- Port 2 in Run with five sensors in its descriptor. -/
def unread : State := setReg (Reg.epDesc 2 5) 5 (linkAt 2 lsRun up)

theorem test_hyp_HeatLedger : up.wf = true ∧ heatRuns up = true ∧ heatRuns (booting 3 0) = false ∧
    checkOf (heatAt (fun h => { h with diodes := h.diodes.set 16 (check 100 0 false) }) up) 16 = some (check 100 0 false) ∧
    checkOf (engAt 0) (17 + 64 + 4) = some (check 100 0 false) ∧ (engSens (engAt 1000000000) 2 4).isSome = true ∧
    10 * msTicks ≤ since (engAt 1000000000) 0 ∧ since (engAt 0) 0 < 10 * msTicks ∧ engSens unread 2 4 = none ∧ unread.wf = true ∧
    linkState unread 2 = lsRun ∧ 4 < descAt unread 2 20 1 ∧ engSens up 2 4 = none ∧ linkState up 2 ≠ lsRun ∧
    checkOf up 0 = some SensorCheck.init ∧ SensorCheck.init.dis < 100 ∧ SensorCheck.init.suspect = false ∧
    checkOf (heatAt (fun h => { h with diodes := h.diodes.set 0 (check 0 10000 true) }) up) 0 = some (check 0 10000 true) ∧
    hotLadder (setFld Reg.thPkg 3 0 1 (heatAt (fun h => { h with ladders := h.ladders.set 8 { Ladder.init with hot := 80 } }) up)) 16 = some 8 := by
  decide +kernel

theorem test_hyp_HeatActions : declared upA 0 = true ∧ rfld up (stepReg 8) 3 0 < 15 ∧
    (ladderAt (heatAt (fun h => { h with ladders := h.ladders.set 8 { Ladder.init with overs := 200 } }) up) 8).overs = 200 ∧
    (ladderAt (heatAt (fun h => { h with ladders := h.ladders.set 8 { Ladder.init with under := 2000 } }) up) 8).under = 2000 ∧
    floorOf up 8 < rfld (setFld Reg.thPkg 3 0 1 up) (stepReg 8) 3 0 ∧ (ladderAt up 8).freeze = none ∧ (ladderAt up 8).overs ≠ 200 ∧
    (ladderAt (heatAt (fun h => { h with ladders := h.ladders.set 8 { Ladder.init with freeze := some 5 } }) up) 8).freeze = some 5 ∧
    ((5 : BitVec 64) - 6).toInt ≤ 0 ∧ 0 < ((5 : BitVec 64) - 0).toInt ∧ critDue (heatAt (fun h => { h with crit := h.crit.set 8 10 }) up) 8 = true ∧
    critDue (heatAt (fun h => { h with crit := h.crit.set 0 10 }) upA) 0 = true ∧ powerLimit up < pkgPower (setReg Reg.thPower 48001 up) ∧
    up.heat.limited = false ∧ (heatAt (fun h => { h with limited := true, below := 100 }) up).heat.limited = true ∧
    50 * msTicks ≤ since { up with linkTime := 1000000000 } 0 := by decide +kernel

/-- A request of the safety port with sequence number 1 on slot 0. -/
def request (p : List Byte) : SportReq := { seq := 1, slot := 0, payload := p ++ List.replicate (56 - p.length) 0 }

/-- Signature records that match and that do not. -/
def sigRec (m : Nat) : SigRec := { flags := m, frame := 0, actual := 0, expected := 0, signed := 0, shift := 0, sceneGen := 0, run := 0, boundary := 0 }

/-- Slot 0 with a ring of records. -/
def ringed (l : List SigRec) : State := modSlot 0 (fun q => { q with hall := { q.hall with ring := l } }) upA

/-- Slot 0 with a pending scene that shows an asset the part does not hold. -/
def badScene : State := modSlot 0 (fun q => { q with hall := { q.hall with pend := [{ id := 9, en := true, x := 0, y := 0 }] } }) upA

theorem test_hyp_SafetyPortCommands : upA.wf = true ∧ powered upA = true ∧ upA.hall.lastSeq ≠ some (request []).seq ∧ hasHall upA 0 = true ∧
    (slotAt (ringed [sigRec 1, sigRec 1]) 0).hall.ring[byteAt (request [1]).payload 0]? = some (sigRec 1) ∧
    (slotAt upA 0).hall.ring[byteAt (request [1]).payload 0]? = none ∧ byteAt (request [3]).payload 0 ≠ 0 ∧ byteAt (request [3]).payload 0 ≠ 8 ∧
    byteAt (request [8]).payload 0 = 8 ∧ sceneStatus upA 0 = .OK ∧ sceneStatus (locked upA) 0 = .OK ∧ projects (reckOf (locked upA) 0) = true ∧
    hasHall (locked upA) 0 = true ∧ projects (reckOf upA 0) = false ∧ sceneStatus badScene 0 ≠ .OK ∧ hasHall badScene 0 = true ∧
    byteAt (request [0]).payload 0 = 0 ∧ byteAt (request [1]).payload 0 = 1 ∧ 1 < byteAt (request [2]).payload 0 ∧
    (slotAt upA 0).hall.ring.length < 2 ∧ (slotAt (ringed [sigRec 1, sigRec 1]) 0).hall.ring = sigRec 1 :: sigRec 1 :: [] ∧
    (sigRec 1).flags % 2 = 1 ∧ (sigRec 0).flags % 2 = 0 ∧ hasHall (ringed [sigRec 1, sigRec 1]) 0 = true := by decide +kernel
theorem test_hyp_SafetyPortCommands_range : CastsInRange upA := test_inRange_array

/-- Port asset 0xF0 of 4 by 8 pixels. -/
def portAst (sealed : Bool) (s : State) : State := { s with hall := { s.hall with port := [(0xF0, 4, 8, sealed, List.replicate 64 0)] } }

theorem test_hyp_SafetyPortAssets : upA.wf = true ∧ hasSport upA 0 = true ∧ byteAt (request [0xF0]).payload 0 = 0xF0 ∧ portId 0xF0 = true ∧
    assetBusy upA 0xF0 = false ∧ leAt (request [0xF0, 0, 4, 0, 8, 0]).payload 2 2 * leAt (request [0xF0, 0, 4, 0, 8, 0]).payload 4 2 * 2 ≤ portFree upA ∧
    portAsset upA 0xF0 = none ∧ portFree upA < leAt (request [0xF0, 0, 255, 255, 255, 255]).payload 2 2 * leAt (request [0xF0, 0, 255, 255, 255, 255]).payload 4 2 * 2 ∧
    assetBusy (modSlot 0 (fun q => { q with hall := { q.hall with active := [{ id := 0xF0, en := true, x := 0, y := 0 }] } }) upA) 0xF0 = true ∧
    portAsset (portAst false upA) 0xF0 = some (0xF0, 4, 8, false, List.replicate 64 0) ∧ leAt (request [0xF0, 0, 0, 0, 48]).payload 4 4 = 48 ∧
    (request [0xF0]).payload.length = 56 ∧ (crc32 (List.replicate 64 0)).toNat ≠ leAt (request [0xF0]).payload 4 4 := by decide +kernel

/-- The last request carried sequence number 1. -/
def answered : State := { upA with hall := { upA.hall with lastSeq := some 1 } }

theorem test_hyp_SafetyPortFrames : upA.wf = true ∧ powered upA = true ∧ answered.hall.lastSeq = some (request []).seq ∧ answered.wf = true ∧
    powered answered = true ∧ upA.hall.lastSeq ≠ some (request []).seq ∧ hasHall up 0 = false ∧ up.hall.lastSeq ≠ some (request []).seq ∧
    8 ≤ (8 : Byte).toNat ∧ (List.range 8).any (hasHall upA) = true ∧ rbit upA Reg.hlSportStat 1 = false := by decide +kernel
theorem test_hyp_SafetyPortFrames_mem : Instr.nop (request []) ∈ [Instr.nop (request [])] := by decide

theorem test_hyp_RequestBytesSpellCommands : (request [1]).payload.length = 56 ∧ byteAt (request [1]).payload 0 = 1 ∧
    byteAt (request [0]).payload 0 ≠ 1 ∧ ([] : List Byte).length ≠ 64 ∧ (List.replicate 64 (0 : Byte)).length = 64 ∧
    (crc32 ((List.replicate 64 (0 : Byte)).take 60)).toNat ≠ leAt (List.replicate 64 0) 60 4 := by decide +kernel

theorem test_hyp_HallWritesDropped : powered up = true ∧ 0x400000 ≤ (0x400000 : BitVec 26).toNat ∧ (0x4FFFFF : BitVec 26).toNat < 0x500000 ∧ up.wf = true := by
  decide +kernel

theorem test_hyp_HorizonClamp : (0x201010 : BitVec 26).toNat = 0x201010 ∧ hostOpen upA (Reg.tfHorizon 0) = true ∧
    rfld upA (Reg.epLead (portOf upA 0)) 15 0 + 640 ≤ 32000 ∧ (BitVec.ofNat 26 (Reg.tfHorizon 0)).toNat = Reg.tfHorizon 0 := by decide +kernel

end Sys2Proof.Tests
end

section
/-! PROOFS. What holds of every command and at reset: the frame of its footprint, the canonical stores, the queue and the
record of what leaves the part. -/

namespace Sys2Proof.Machine

/-- A kind of state outside F is as it was. -/
theorem Keeps.same {F : List Kind} {s t : State} (h : Keeps F s t) {k : Kind} (hk : k ∉ F) : k.same s t :=
  h.2.2.2.2 k hk

/-- Every command keeps the relation of Laws/Keeps.lean at its own footprint. -/
theorem exec_keeps {c : Instr} {s t : State} (h : exec c s = .next t) : Keeps (footprint c) s t :=
  match c, h with
  | .registerWrite _ _ _ _, h => keeps_execRegisterWrite _ _ _ _ h
  | .linkTimeLoRead, h => keeps_execLinkTimeLoRead h
  | .powerOn _ _ _, h => keeps_execPowerOn _ _ _ h
  | .railInBand _, h => keeps_execRailInBand _ h
  | .sequenceFail _, h => keeps_execSequenceFail _ h
  | .sequenceRetry, h => keeps_execSequenceRetry h
  | .fullTrainingComplete _, h => keeps_execFullTrainingComplete _ h
  | .bootCastBuild, h => keeps_execBootCastBuild h
  | .load _, h => keeps_execLoad _ h
  | .castLoad, h => keeps_execCastLoad h
  | .castChunkTimeout, h => keeps_execCastChunkTimeout h
  | .castReadComplete, h => keeps_execCastReadComplete h
  | .validationComplete, h => keeps_execValidationComplete h
  | .lock _, h => keeps_execLock _ h
  | .abort _, h => keeps_execAbort _ h
  | .recastTimeout, h => keeps_execRecastTimeout h
  | .reckonStep _, h => keeps_execReckonStep _ h
  | .measuredPoint _ _ _ _ _, h => keeps_execMeasuredPoint _ _ _ _ _ h
  | .laneRoomInsert _ _, h => keeps_execLaneRoomInsert _ _ h
  | .realign _ _, h => keeps_execRealign _ _ h
  | .syncEdge _ _ _, h => keeps_execSyncEdge _ _ _ h
  | .syncMissed _, h => keeps_execSyncMissed _ h
  | .pickoffLost _, h => keeps_execPickoffLost _ h
  | .frameBoundary _ _, h => keeps_execFrameBoundary _ _ h
  | .rasterEnd _, h => keeps_execRasterEnd _ h
  | .writebackComplete _, h => keeps_execWritebackComplete _ h
  | .signatureRecord _ _, h => keeps_execSignatureRecord _ _ h
  | .hallStore, h => keeps_execHallStore h
  | .pitchW0Write _ _, h => keeps_execPitchW0Write _ _ h
  | .calJobWrite _ _ _, h => keeps_execCalJobWrite _ _ _ h
  | .commit _ _, h => keeps_execCommit _ _ h
  | .modeChangeRequest _ _, h => keeps_execModeChangeRequest _ _ h
  | .cancel _ _, h => keeps_execCancel _ _ h
  | .tableSwap _ _, h => keeps_execTableSwap _ _ h
  | .swapCancel _ _, h => keeps_execSwapCancel _ _ h
  | .sliceStart _, h => keeps_execSliceStart _ h
  | .sliceDeadline _ _, h => keeps_execSliceDeadline _ _ h
  | .levelStale _, h => keeps_execLevelStale _ h
  | .compressorBlockDone _, h => keeps_execCompressorBlockDone _ h
  | .rawBusy _ _ _, h => keeps_execRawBusy _ _ _ h
  | .decompressorBlockDone _, h => keeps_execDecompressorBlockDone _ h
  | .lineEnter _, h => keeps_execLineEnter _ h
  | .renderComplete _ _, h => keeps_execRenderComplete _ _ h
  | .strikeTest _ _, h => keeps_execStrikeTest _ _ h
  | .rerenderComplete _ _, h => keeps_execRerenderComplete _ _ h
  | .lineDark _ _, h => keeps_execLineDark _ _ h
  | .lineWindowEnd _ _, h => keeps_execLineWindowEnd _ _ h
  | .capture _ _, h => keeps_execCapture _ _ h
  | .probeDataRead _, h => keeps_execProbeDataRead _ h
  | .lenArmWrite _, h => keeps_execLenArmWrite _ h
  | .lenFaultClear _, h => keeps_execLenFaultClear _ h
  | .lenAssertWaitEnd _, h => keeps_execLenAssertWaitEnd _ h
  | .laserSupplyOverv _ _, h => keeps_execLaserSupplyOverv _ _ h
  | .sense _ _, h => keeps_execSense _ _ h
  | .take _, h => keeps_execTake _ h
  | .restore _, h => keeps_execRestore _ h
  | .store _, h => keeps_execStore _ h
  | .pageStoreDone _, h => keeps_execPageStoreDone _ h
  | .resetEst _ _, h => keeps_execResetEst _ _ h
  | .loopEnable _, h => keeps_execLoopEnable _ h
  | .loopClose _, h => keeps_execLoopClose _ h
  | .loopOpen _, h => keeps_execLoopOpen _ h
  | .loopDisable _, h => keeps_execLoopDisable _ h
  | .coefWrite _ _ _ _, h => keeps_execCoefWrite _ _ _ _ h
  | .dlyMaxClear _, h => keeps_execDlyMaxClear _ h
  | .loopSample _ _ _ _ _, h => keeps_execLoopSample _ _ _ _ _ h
  | .trackerUpdate _ _ _, h => keeps_execTrackerUpdate _ _ _ h
  | .loopSrcLost _, h => keeps_execLoopSrcLost _ h
  | .detectComplete _, h => keeps_execDetectComplete _ h
  | .presenceLost _, h => keeps_execPresenceLost _ h
  | .trainFlit _ _ _, h => keeps_execTrainFlit _ _ _ h
  | .trainTimeout _, h => keeps_execTrainTimeout _ h
  | .timeEcho _ _ _ _ _, h => keeps_execTimeEcho _ _ _ _ _ h
  | .timeAck _ _, h => keeps_execTimeAck _ _ h
  | .probe _ _, h => keeps_execProbe _ _ h
  | .probeSeriesTimer _, h => keeps_execProbeSeriesTimer _ h
  | .readData _ _ _ _ _, h => keeps_execReadData _ _ _ _ _ h
  | .writeDone _ _ _, h => keeps_execWriteDone _ _ _ h
  | .descWriteTimeout _, h => keeps_execDescWriteTimeout _ h
  | .bindAck _ _, h => keeps_execBindAck _ _ h
  | .bindTimeout _, h => keeps_execBindTimeout _ h
  | .quiesce _ _, h => keeps_execQuiesce _ _ h
  | .quiesceAck _, h => keeps_execQuiesceAck _ h
  | .quiesceTimeout _, h => keeps_execQuiesceTimeout _ h
  | .leave _ reason, h => keeps_execLeave _ reason h
  | .heartbeat _ t _ bindId _, h => keeps_execHeartbeat _ t _ bindId _ h
  | .heartbeatMiss _, h => keeps_execHeartbeatMiss _ h
  | .packetDiscard _ _, h => keeps_execPacketDiscard _ _ h
  | .lostHoldEnd _, h => keeps_execLostHoldEnd _ h
  | .retry _ _, h => keeps_execRetry _ _ h
  | .csiFs _ _ _, h => keeps_execCsiFs _ _ _ h
  | .csiLongPacket _ _ _ _ _ _, h => keeps_execCsiLongPacket _ _ _ _ _ _ h
  | .csiFe _ _ _, h => keeps_execCsiFe _ _ _ h
  | .cameraLost _, h => keeps_execCameraLost _ h
  | .camEnable _ _, h => keeps_execCamEnable _ _ h
  | .directWrite _ _, h => keeps_execDirectWrite _ _ h
  | .objListWindow _, h => keeps_execObjListWindow _ h
  | .canFrame _ _ _ _ _, h => keeps_execCanFrame _ _ _ _ _ h
  | .canListTimeout _, h => keeps_execCanListTimeout _ h
  | .canBusOffRecovery _, h => keeps_execCanBusOffRecovery _ h
  | .imuTransaction _ _ _, h => keeps_execImuTransaction _ _ _ h
  | .imuHost _, h => keeps_execImuHost _ h
  | .casGo _ _, h => keeps_execCasGo _ _ h
  | .bar2Access _ _ _ _, h => keeps_execBar2Access _ _ _ _ h
  | .kick, h => keeps_execKick h
  | .aliveWrite _, h => keeps_execAliveWrite _ h
  | .hostLost, h => keeps_execHostLost h
  | .doorbell _, h => keeps_execDoorbell _ h
  | .version, h => keeps_execVersion h
  | .engMemRead _, h => keeps_execEngMemRead _ h
  | .trainModeManual, h => keeps_execTrainModeManual h
  | .trainModeMicrocode _, h => keeps_execTrainModeMicrocode _ h
  | .bist _, h => keeps_execBist _ h
  | .patchLoad, h => keeps_execPatchLoad h
  | .mailboxAbort _, h => keeps_execMailboxAbort _ h
  | .compressStream _, h => keeps_execCompressStream _ h
  | .decompressStream _, h => keeps_execDecompressStream _ h
  | .compressBlock _, h => keeps_execCompressBlock _ h
  | .resume _, h => keeps_execResume _ h
  | .decompressBlock _, h => keeps_execDecompressBlock _ h
  | .jobStart, h => keeps_execJobStart h
  | .jobComplete, h => keeps_execJobComplete h
  | .donePop _, h => keeps_execDonePop _ h
  | .freqWrite _, h => keeps_execFreqWrite _ h
  | .freqChangeComplete, h => keeps_execFreqChangeComplete h
  | .refreshDue _ _ _, h => keeps_execRefreshDue _ _ _ h
  | .forcedRefresh _ _, h => keeps_execForcedRefresh _ _ h
  | .dramTempSample _, h => keeps_execDramTempSample _ h
  | .selfRefreshIdle _, h => keeps_execSelfRefreshIdle _ h
  | .srWake _, h => keeps_execSrWake _ h
  | .dozeSrReentry _, h => keeps_execDozeSrReentry _ h
  | .bulkPromote pc, h => keeps_execBulkPromote pc h
  | .trackPeriod, h => keeps_execTrackPeriod h
  | .gatherWindowEnd _ _ _ _, h => keeps_execGatherWindowEnd _ _ _ _ h
  | .uncorrectableBurst _, h => keeps_execUncorrectableBurst _ h
  | .autoRemapReset, h => keeps_execAutoRemapReset h
  | .patternRun _, h => keeps_execPatternRun _ h
  | .patternRunDone _ _ _, h => keeps_execPatternRunDone _ _ _ h
  | .ledgerUpdate _, h => keeps_execLedgerUpdate _ h
  | .engineSensorFailed _ _, h => keeps_execEngineSensorFailed _ _ h
  | .sensorSuspect _, h => keeps_execSensorSuspect _ h
  | .sensorTrusted _, h => keeps_execSensorTrusted _ h
  | .throttleStep _, h => keeps_execThrottleStep _ h
  | .freezeEnd _, h => keeps_execFreezeEnd _ h
  | .thermalCrit, h => keeps_execThermalCrit h
  | .laserOvertemp _, h => keeps_execLaserOvertemp _ h
  | .thermalPark, h => keeps_execThermalPark h
  | .powerLimitApply, h => keeps_execPowerLimitApply h
  | .powerLimitLift, h => keeps_execPowerLimitLift h
  | .powerLimit, h => keeps_execPowerLimit h
  | .phaseLimit _, h => keeps_execPhaseLimit _ h
  | .phaseMapWrite _ _, h => keeps_execPhaseMapWrite _ _ h
  | .supplyDip _ _, h => keeps_execSupplyDip _ _ h
  | .railRecovered _ _, h => keeps_execRailRecovered _ _ h
  | .dipHoldEnd, h => keeps_execDipHoldEnd h
  | .railResetLevel _ _, h => keeps_execRailResetLevel _ _ h
  | .stateReqRun, h => keeps_execStateReqRun h
  | .stateReqDoze, h => keeps_execStateReqDoze h
  | .stateReqPark, h => keeps_execStateReqPark h
  | .entryComplete, h => keeps_execEntryComplete h
  | .wakeEdge _ _, h => keeps_execWakeEdge _ _ h
  | .dozeExitComplete, h => keeps_execDozeExitComplete h
  | .resetN, h => keeps_execResetN h
  | .perst, h => keeps_execPerst h
  | .warm _, h => keeps_execWarm _ h
  | .engine _, h => keeps_execEngine _ h
  | .fabric _, h => keeps_execFabric _ h
  | .fabricResetComplete, h => keeps_execFabricResetComplete h
  | .watchdogExpiry, h => keeps_execWatchdogExpiry h
  | .supervisorTimeout, h => keeps_execSupervisorTimeout h
  | .wdogKick, h => keeps_execWdogKick h
  | .wdogWrite _, h => keeps_execWdogWrite _ h
  | .frFaultClear _, h => keeps_execFrFaultClear _ h
  | .hostHaltSet _, h => keeps_execHostHaltSet _ h
  | .hostHaltClear _, h => keeps_execHostHaltClear _ h
  | .logClear _, h => keeps_execLogClear _ h
  | .frRelease _, h => keeps_execFrRelease _ h
  | .frSeize _, h => keeps_execFrSeize _ h
  | .graceEnd _, h => keeps_execGraceEnd _ h
  | .nop _, h => keeps_execNop _ h
  | .getSig _, h => keeps_execGetSig _ h
  | .setScene _, h => keeps_execSetScene _ h
  | .commitScene _, h => keeps_execCommitScene _ h
  | .paBegin _, h => keeps_execPaBegin _ h
  | .paData _, h => keeps_execPaData _ h
  | .paSeal _, h => keeps_execPaSeal _ h
  | .containDim _, h => keeps_execContainDim _ h
  | .containOff _, h => keeps_execContainOff _ h
  | .release _, h => keeps_execRelease _ h
  | .sportSilent, h => keeps_execSportSilent h
  | .sportCsStuck, h => keeps_execSportCsStuck h
  | .presenceAsserted _, h => keeps_execPresenceAsserted _ h
  | .resetNRelease, h => keeps_execResetNRelease h
  | .canBusOff _, h => keeps_execCanBusOff _ h
  | .setPointUpdate _ _, h => keeps_execSetPointUpdate _ _ h
  | .driveSample _, h => keeps_execDriveSample _ h
  | .sportBadFrame _, h => keeps_execSportBadFrame _ h

theorem step_nil {s : State} (h : s.pending = []) : step s = .next s := by
  simp only [step, h]

theorem step_cons {s : State} {c : Instr} {rest : List Instr} (h : s.pending = c :: rest) :
    step s = exec c { s with pending := rest } := by
  simp only [step, h]

/-- Settles O5: each command keeps what its footprint does not list. -/
theorem commandFootprint : Obligations.CommandFootprint :=
  fun _ _ _ _ h hk => (exec_keeps h).same hk

/-- Settles O2: a step runs the front command on the state with the queue's rest, and every command keeps queue, ordering code
and the record so far. -/
theorem stepTakesOneCommand : Obligations.StepTakesOneCommand := by
  intro c rest s t hp h
  rw [step_cons hp] at h
  obtain ⟨hq, ha, ⟨l, hl⟩, -, -⟩ := exec_keeps h
  exact ⟨hq, ha, l, hl.symm⟩

/-- Settles O3: an idle step changes nothing, and every command keeps the canonical forms. -/
theorem stepKeepsStoresCanonical : Obligations.StepKeepsStoresCanonical := by
  intro s t w h
  cases hp : s.pending with
  | nil =>
    rw [step_nil hp] at h
    injection h with h
    exact h ▸ w
  | cons c rest =>
    rw [step_cons hp] at h
    obtain ⟨-, -, -, hw, -⟩ := exec_keeps h
    exact hw w

/-- Where nothing is declared, no slot runs anything of the Cast. -/
theorem cfgOf_of_undeclared {s : State} (h : s.slots = Vector.replicate 8 SlotState.undeclared) (n : Nat) : cfgOf s n = none := by
  have hn : slotAt s n = SlotState.undeclared := by
    rw [slotAt, h, Vector.getElem?_replicate]
    split <;> rfl
  rw [cfgOf, hn]
  rfl

theorem declared_of_undeclared {s : State} (h : s.slots = Vector.replicate 8 SlotState.undeclared) (n : Nat) :
    declared s n = false := by
  rw [declared, cfgOf_of_undeclared h]
  rfl

theorem linkState_reset : ∀ p < 8, linkState State.reset p = lsDetect := by decide +kernel

/-- Settles O4: at reset only the registers list anything, their Cold values in canonical form, and no Cast names a slot. -/
theorem resetMeetsInvariants : Obligations.ResetMeetsInvariants := by
  have hc : ∀ n, cfgOf State.reset n = none := cfgOf_of_undeclared rfl
  refine ⟨State.wf_iff.2 ⟨coldImage_wf 0, rfl, rfl, rfl⟩, fun n c h => ?_, fun x hx => ?_, fun d h => ?_, fun w h => ?_⟩
  · exact absurd ((hc n).symm.trans h) nofun
  · exact absurd hx List.not_mem_nil
  · exact absurd h nofun
  · exact absurd h nofun

/-- Settles O8: the fields of State.reset, and the Cold values of the link states. -/
theorem resetState : Obligations.ResetState :=
  ⟨rfl, rfl, rfl, rfl, fun n _ => declared_of_undeclared rfl n, linkState_reset, fun _ => rfl, rfl⟩
end Sys2Proof.Machine
end

section
/-! PROOFS. Host accesses by address: what a write does on its way to a register and to each bit of it, and what a read returns
(R4 to R8, R13, R17, R43). -/

namespace Sys2Proof.Machine

/-! ## What the host sees -/

theorem hostSees_iff {s : State} {off : Nat} :
    hostSees s off = true ↔ powered s = true ∧ ∃ d i, regFind off = some (d, i) ∧ regExists s d i = true := by
  unfold hostSees
  cases hf : regFind off with
  | none => simp
  | some x => obtain ⟨d, i⟩ := x; simp

/-- A write of a register that the host does not see has no effect (R7, R17). -/
theorem hostWrite_unseen {s : State} {off : Nat} (h : hostSees s off = false) (v : Word) (act : Word → State → State) :
    hostWrite off v act s = s := by
  cases hp : powered s with
  | false => exact hostWrite_unpowered hp off v act
  | true =>
    cases hf : regFind off with
    | none => simp [hostWrite, hf]
    | some x =>
      obtain ⟨d, i⟩ := x
      refine hostWrite_absent hf ?_ v act
      by_contra he
      exact absurd (hostSees_iff.2 ⟨hp, d, i, hf, by simpa using he⟩) (by simp [h])

/-- A command that is the host's write of one register is that write. -/
theorem exec_of_hostTarget {c : Instr} {off : Nat} (h : hostTarget c = some off) :
    ∃ v act, ∀ s, exec c s = .next (hostWrite off v act s) := by
  cases c with
  | load | lock | abort | realign | commit | modeChangeRequest | cancel | tableSwap | swapCancel | capture | lenArmWrite
  | lenFaultClear | take | restore | store | resetEst | loopEnable | loopClose | loopOpen | loopDisable | dlyMaxClear | probe
  | quiesce | retry | camEnable | directWrite | imuHost | casGo | kick | aliveWrite | doorbell | compressStream
  | decompressStream | compressBlock | resume | decompressBlock | donePop | freqWrite | patternRun | phaseMapWrite
  | stateReqRun | stateReqDoze | stateReqPark | warm | engine | fabric | wdogKick | wdogWrite | frFaultClear | hostHaltSet
  | hostHaltClear | logClear | frRelease | frSeize =>
    obtain rfl := Option.some.inj h
    exact ⟨_, _, fun _ => rfl⟩
  | coefWrite l config w v =>
    cases config with
    | false =>
      obtain rfl := Option.some.inj h
      exact ⟨_, _, fun _ => rfl⟩
    | true =>
      obtain ⟨r, hr, rfl⟩ := Option.map_eq_some_iff.1 h
      exact ⟨v, leConfigWrite l.val r.1 r.2, fun s => by simp [exec, execCoefWrite, hr]⟩
  | _ => exact nomatch h

/-- Settles O7: the command is a host write of a register that the host does not see. -/
theorem unseenWriteHasNoEffect : Obligations.UnseenWriteHasNoEffect := by
  intro c s off ht hs
  obtain ⟨v, act, he⟩ := exec_of_hostTarget ht
  rw [he, hostWrite_unseen hs]

/-! ## Accesses by address -/

theorem exec_bar0_aligned {s : State} (hp : powered s = true) {off : BitVec 26} (ha : off.toNat % 4 = 0) (acc : Access) :
    exec (.registerWrite .bar0 off 4 acc) s = .next (bar0Access off.toNat acc s) := by
  simp [exec, execRegisterWrite, hp, ha]

theorem exec_bar4_aligned {s : State} (hp : powered s = true) {off : BitVec 26} (ha : off.toNat % 4 = 0)
    (hb : off.toNat < 65536) (acc : Access) :
    exec (.registerWrite .bar4 off 4 acc) s = .next (bar4Access off.toNat acc s) := by
  simp [exec, execRegisterWrite, hp, ha, Nat.not_le.2 hb]

/-- An access of another size or alignment is an odd one of its BAR (R4). -/
theorem exec_odd {s : State} (hp : powered s = true) {bar : Bar} {off : BitVec 26} {size : Nat}
    (ho : ¬ (size = 4 ∧ off.toNat % 4 = 0)) (hb : off.toNat < 65536 ∨ bar = .bar0) (acc : Access) :
    ∃ b, exec (.registerWrite bar off size acc) s = .next (oddAccess b off.toNat acc s) := by
  cases bar with
  | bar0 => exact ⟨0, by simp [exec, execRegisterWrite, hp, ho]⟩
  | bar4 =>
    have hb : off.toNat < 65536 := hb.resolve_right nofun
    exact ⟨4, by simp [exec, execRegisterWrite, hp, ho, Nat.not_le.2 hb]⟩

theorem bar0Access_hall_write {off : Nat} (hl : 0x400000 ≤ off) (hh : off < 0x500000) (v : Word) (s : State) :
    bar0Access off (.write v) s = logAccess .HALL_WRITE 0 off s := by
  simp [bar0Access, hl, hh]

theorem bar0Access_register_write {off : Nat} (hp : inPitchStore off = false) (hh : ¬ (0x400000 ≤ off ∧ off < 0x500000))
    (v : Word) (s : State) : bar0Access off (.write v) s = registerWrite off v s := by
  simp only [bar0Access, hp, if_neg hh, Bool.false_eq_true, if_false]

theorem bar0Access_register_read {off : Nat} (hp : inPitchStore off = false) (s : State) :
    bar0Access off .read s = hostData (registerRead off s) := by
  simp [bar0Access, hp]

/-- A read of a register without a reading rule of its own: its word without the write-only bits, or 0 where the Cast did not
build it (R5, R7). -/
theorem registerRead_plain {s : State} {off : Nat} {d : RegDef} {i : Nat} (hf : regFind off = some (d, i))
    (hr : specialRead d.base i off s = none) :
    registerRead off s = (if regExists s d i then reg s off &&& ~~~d.wo else 0, s) := by
  cases he : regExists s d i <;> simp [registerRead, hf, hr, he]

theorem registerRead_none {s : State} {off : Nat} (hf : regFind off = none) : registerRead off s = (0, s) := by
  simp [registerRead, hf]

theorem registerRead_special {s : State} {off : Nat} {d : RegDef} {i : Nat} (hf : regFind off = some (d, i))
    (he : regExists s d i = true) {r : Word × State} (hr : specialRead d.base i off s = some r) :
    registerRead off s = (r.1 &&& ~~~d.wo, r.2) := by
  simp [registerRead, hf, hr, he]

/-! ## Accesses that are logged -/

theorem logAccess_keeps (c : Status) (bar off : Nat) (s : State) : Keeps [.regs, .out, .fr] s (logAccess c bar off s) :=
  keeps_logAccess (List.Subset.refl _) c bar off (Keeps.refl _ s)

/-- A write in the HL range does nothing but log HALL_WRITE where it is aligned, and ACCESS_WIDTH where not (R4, R8). -/
theorem exec_hall_write {s : State} (hp : powered s = true) {off : BitVec 26} (hl : 0x400000 ≤ off.toNat)
    (hh : off.toNat < 0x500000) (size : Nat) (v : Word) :
    ∃ b, exec (.registerWrite .bar0 off size (.write v)) s =
      .next (logAccess (if size = 4 ∧ off.toNat % 4 = 0 then .HALL_WRITE else .ACCESS_WIDTH) b off.toNat s) := by
  split
  · next ho =>
    obtain ⟨rfl, ha⟩ := ho
    exact ⟨0, by rw [exec_bar0_aligned hp ha, bar0Access_hall_write hl hh]⟩
  · next ho => exact exec_odd hp ho (.inr rfl) (.write v)

/-- Settles O59: such a write only logs, and logging changes no kind of state but the registers of the log, the record of what
leaves and the log's own time. -/
theorem hallWritesDropped : Obligations.HallWritesDropped := by
  intro s off size v w hp hl hh
  obtain ⟨wr, -⟩ := State.wf_iff.1 w
  obtain ⟨b, hx⟩ := exec_hall_write hp hl hh size v
  refine ⟨_, hx, ?_⟩
  generalize (if size = 4 ∧ off.toNat % 4 = 0 then Status.HALL_WRITE else .ACCESS_WIDTH) = c
  have hk := logAccess_keeps c b off.toNat s
  obtain ⟨hdram, -⟩ := hk.same (k := .dram) (by decide)
  exact ⟨logAccess_newest wr c b _, (logAccess_regs wr c b _).2, hk.same (k := .slots) (by decide),
    hk.same (k := .hall) (by decide), hdram, hk.same (k := .bar4) (by decide), hk.same (k := .pitchAct) (by decide)⟩

/-! ## Reads with an effect (R77, R225) -/

theorem regFind_tfLinkLo : (regFind Reg.tfLinkLo).map (fun x => (x.1.base, x.1.wo)) = some (0x200000, 0#32) := by decide +kernel

/-- A read of TF_LINK_TIME_LO returns the low half and latches the high one (R77). -/
theorem registerRead_tfLinkLo {s : State} (h : hostSees s Reg.tfLinkLo = true) :
    registerRead Reg.tfLinkLo s =
      (s.linkTime.setWidth 32, setReg Reg.tfLinkHi (BitVec.ofNat 32 (s.linkTime.toNat / 2 ^ 32)) s) := by
  obtain ⟨-, d, i, hf, he⟩ := hostSees_iff.1 h
  have hd := regFind_tfLinkLo
  rw [hf, Option.map_some, Option.some_inj, Prod.mk.injEq] at hd
  obtain ⟨hb, hw⟩ : d.base = 0x200000 ∧ d.wo = 0#32 := hd
  have hr : specialRead d.base i Reg.tfLinkLo s =
      some (s.linkTime.setWidth 32, setReg Reg.tfLinkHi (BitVec.ofNat 32 (s.linkTime.toNat / 2 ^ 32)) s) := by
    rw [hb]
    rfl
  rw [registerRead_special hf he hr, hw, BitVec.not_zero, BitVec.and_allOnes]

theorem linkTimeLoRead_latches {s : State} (wr : s.regs.wf = true) (h : hostSees s Reg.tfLinkLo = true) :
    ∃ t, exec .linkTimeLoRead s = .next t ∧ t.busData = s.linkTime.setWidth 32 ∧
      (reg t Reg.tfLinkHi).toNat = s.linkTime.toNat / 2 ^ 32 ∧ ∀ a, a ≠ Reg.tfLinkHi → reg t a = reg s a := by
  obtain ⟨hp, -⟩ := hostSees_iff.1 h
  refine ⟨hostData (registerRead Reg.tfLinkLo s), by simp [exec, execLinkTimeLoRead, hp], ?_⟩
  rw [registerRead_tfLinkLo h]
  have hlt : s.linkTime.toNat / 2 ^ 32 < 2 ^ 32 := by have := s.linkTime.isLt; omega
  refine ⟨rfl, ?_, fun a ha => reg_setReg_ne wr _ ha⟩
  calc _ = (BitVec.ofNat 32 (s.linkTime.toNat / 2 ^ 32)).toNat := congrArg BitVec.toNat (reg_setReg_same wr _ _)
    _ = s.linkTime.toNat / 2 ^ 32 := by rw [BitVec.toNat_ofNat, Nat.mod_eq_of_lt hlt]

theorem probeDataRead_steps {s : State} (wr : s.regs.wf = true) (n : Slot) (h : hostSees s (Reg.lbProbeData n.val) = true) :
    ∃ t, exec (.probeDataRead n) s = .next t ∧ t.busData = probeWord s n.val ∧
      rfld t (Reg.lbProbeSel n.val) 21 16 = (rfld s (Reg.lbProbeSel n.val) 21 16 + 2) % 64 ∧
      ∀ a, a ≠ Reg.lbProbeSel n.val → reg t a = reg s a := by
  obtain ⟨hp, d, i, hf, he⟩ := hostSees_iff.1 h
  have wu : ({ s with busData := probeWord s n.val } : State).regs.wf = true := wr
  refine ⟨probeRead n.val s, by simp [exec, execProbeDataRead, hp, hf, he], rfl, ?_, fun a ha => reg_setFld_ne wu _ _ _ ha⟩
  exact (rfld_setFld_same wu _ _ (by omega) (by omega)).trans (Nat.mod_mod _ 64)

/-! ## BAR4 (R368, R369) -/

theorem bar4Access_write {s : State} {off : Nat} (h : 0x8000 ≤ off ∨ rbit s Reg.mbStatus 0 = false) (v : Word) :
    bar4Access off (.write v) s = { s with bar4 := s.bar4.set off v } := by
  have hn : ¬ (off < 0x8000 ∧ rbit s Reg.mbStatus 0 = true) := by
    rintro ⟨hlt, hb⟩
    rcases h with h | h
    · omega
    · simp [hb] at h
  simp only [bar4Access, if_neg hn]

/-- Settles O22: one lemma above for each kind of access. -/
theorem hostAccesses : Obligations.HostAccesses := by
  intro s w hp
  obtain ⟨wr, -, -, wb⟩ := State.wf_iff.1 w
  refine ⟨fun off d i ha hs hf hr => ?_, fun off ha hs hf => ?_, fun bar off size ho hb => ⟨?_, fun v => ?_⟩,
    fun off v ha hb hc => ?_, fun off ha hb => ?_, linkTimeLoRead_latches wr, fun n => probeDataRead_steps wr n⟩
  · rw [exec_bar0_aligned hp ha, bar0Access_register_read hs, registerRead_plain hf hr]
    rfl
  · rw [exec_bar0_aligned hp ha, bar0Access_register_read hs, registerRead_none hf]
    rfl
  · obtain ⟨b, hx⟩ := exec_odd hp ho hb .read
    exact ⟨_, hx, rfl, logAccess_newest wr _ b _, (logAccess_regs wr _ b _).2⟩
  · obtain ⟨b, hx⟩ := exec_odd hp ho hb (.write v)
    exact ⟨_, hx, logAccess_newest wr _ b _, (logAccess_regs wr _ b _).2⟩
  · refine ⟨{ s with bar4 := s.bar4.set off.toNat v }, ?_, SMap.get_set_same (SMap.wf_rising wb),
      fun a hne => SMap.get_set_ne (SMap.wf_rising wb) hne, rfl⟩
    rw [exec_bar4_aligned hp ha hb, bar4Access_write hc]
  · exact exec_bar4_aligned hp ha hb .read

/-! ## A write by access type (R5, R43) -/

/-- The part once a write v of a register has logged that it touches a locked bit, where it does (R43). -/
def lockNoted (s : State) (off : Nat) (d : RegDef) (v : Word) : State :=
  if lockHit (lockedOf s off d.rwc) (d.rw ||| d.rwc) (d.w1c ||| d.wo) (heldWord s off) v then logAccess .LOCKED_FIELD 0 off s else s

theorem lockNoted_regs {s : State} (wr : s.regs.wf = true) (off : Nat) (d : RegDef) (v : Word) :
    (lockNoted s off d v).regs.wf = true ∧ ∀ a, ¬ logArea a → reg (lockNoted s off d v) a = reg s a := by
  unfold lockNoted
  split
  · exact logAccess_regs wr _ _ _
  · exact ⟨wr, fun _ _ => rfl⟩

/-- A host write of a register that exists: its effect on the value without the locked bits, after the lock's own log entry. -/
theorem hostWrite_exists {s : State} (hp : powered s = true) {off : Nat} {d : RegDef} {i : Nat} (hf : regFind off = some (d, i))
    (he : regExists s d i = true) (v : Word) (act : Word → State → State) :
    hostWrite off v act s =
      act (lockFilter (lockedOf s off d.rwc) (d.w1c ||| d.wo) (heldWord s off) v) (lockNoted s off d v) := by
  simp [hostWrite, hp, hf, he, lockNoted]

theorem regFind_delays : ∀ j < 17, ∃ x, regFind (Reg.mcDlyRd 0 + 4 * j) = some x ∧ x.1.base ∈ [0xF10040, 0xF10060, 0xF10080] := by
  decide +kernel

theorem specialAct_delays {b : Nat} (h : b ∈ [0xF10040, 0xF10060, 0xF10080]) (i off : Nat) (v : Word) :
    specialAct b i off v ≠ none := by
  simp only [List.mem_cons, List.not_mem_nil, or_false] at h
  rcases h with rfl | rfl | rfl <;> exact Option.some_ne_none _

/-- A register without an effect of its own is no delay register, so it holds its own word. -/
theorem heldWord_of_plain {s : State} {off : Nat} {d : RegDef} {i : Nat} (hf : regFind off = some (d, i)) (ha : off % 4 = 0)
    (hs : ∀ v, specialAct d.base i off v = none) : heldWord s off = reg s off := by
  unfold heldWord
  split
  · next hr =>
    exfalso
    simp only [Reg.mcDlyRd] at hr
    obtain ⟨x, hx, hb⟩ := regFind_delays ((off - Reg.mcDlyRd 0) / 4) (by simp only [Reg.mcDlyRd]; omega)
    rw [show Reg.mcDlyRd 0 + 4 * ((off - Reg.mcDlyRd 0) / 4) = off by simp only [Reg.mcDlyRd]; omega, hf] at hx
    obtain rfl := Option.some.inj hx
    exact specialAct_delays hb i off 0 (hs 0)
  · rfl

/-- No bit is of two kinds: what takes a written value is neither cleared by a one nor write-only. -/
theorem regTable_kinds_disjoint : ∀ d ∈ regTable, (d.rw ||| d.rwc) &&& (d.w1c ||| d.wo) = 0#32 := by decide +kernel

theorem mem_regTable_of_regFind {off : Nat} {d : RegDef} {i : Nat} (hf : regFind off = some (d, i)) : d ∈ regTable := by
  obtain ⟨e, he, hi⟩ := List.exists_of_findSome?_eq_some hf
  obtain ⟨j, -, hj⟩ := Option.map_eq_some_iff.1 hi
  obtain ⟨rfl, -⟩ := Prod.mk.inj hj
  exact he

/-- A write by access type, bit by bit: takes holds the RW and RWC bits. -/
theorem bit_plainWrite {s : State} (wr : s.regs.wf = true) (off : Nat) (takes w1c v : Word) {k : Nat} (hk : k < 32) :
    bit (reg (plainWrite off takes w1c v s) off) k =
      ((if bit takes k then bit v k else bit (reg s off) k) && !(bit v k && bit w1c k)) := by
  rw [plainWrite, reg_setReg_same wr]
  simp only [bit, BitVec.getLsbD_and, BitVec.getLsbD_or, BitVec.getLsbD_not, hk, decide_true, Bool.true_and]
  by_cases hr : takes.getLsbD k = true <;> simp [hr]

theorem bit_lockFilter (locked act hold v : Word) {k : Nat} (hk : k < 32) :
    bit (lockFilter locked act hold v) k = if bit locked k then bit hold k && !bit act k else bit v k := by
  simp only [lockFilter, bit, BitVec.getLsbD_and, BitVec.getLsbD_or, BitVec.getLsbD_not, hk, decide_true, Bool.true_and]
  by_cases hl : locked.getLsbD k = true <;> simp [hl]

/-- What a write by access type leaves in each bit (R5, R43), where no bit is of two kinds. -/
theorem bit_plainWrite_lockFilter {s : State} (wr : s.regs.wf = true) (off : Nat) {locked takes w1c wo : Word} (v : Word)
    (hd : takes &&& (w1c ||| wo) = 0#32) {k : Nat} (hk : k < 32) :
    bit (reg (plainWrite off takes w1c (lockFilter locked (w1c ||| wo) (reg s off) v) s) off) k =
      if bit locked k then bit (reg s off) k
      else if bit takes k then bit v k
      else bit (reg s off) k && !(bit v k && bit w1c k) := by
  have hdk : (bit takes k && (bit w1c k || bit wo k)) = false := by
    have := congrArg (bit · k) hd
    simpa [bit] using this
  rw [bit_plainWrite wr _ _ _ _ hk, bit_lockFilter _ _ _ _ hk,
    show bit (w1c ||| wo) k = (bit w1c k || bit wo k) from BitVec.getLsbD_or]
  revert hdk
  generalize bit locked k = l, bit takes k = r, bit w1c k = c, bit wo k = o, bit v k = x, bit (reg s off) k = y
  revert l r c o x y
  decide

theorem plainWrite_newestLog {s : State} (wr : s.regs.wf = true) {off : Nat} (hl : ¬ logArea off) (takes w1c v : Word) :
    newestLog (plainWrite off takes w1c v s) = newestLog s := by
  refine newestLog_of_kept fun a ha => reg_setReg_ne wr _ fun e => hl ?_
  rw [← e]
  exact .inr (ha.imp id .inr)

/-- Settles O23: the write goes through the lock's filter and log entry, then by access type. -/
theorem registerWriteByAccessType : Obligations.RegisterWriteByAccessType := by
  intro s off v d i w hp ha hi hh hf he hs hl
  obtain ⟨wr, -⟩ := State.wf_iff.1 w
  obtain ⟨wn, hn⟩ := lockNoted_regs wr off.toNat d v
  have hv := heldWord_of_plain (s := s) hf ha hs
  have hx : exec (.registerWrite .bar0 off 4 (.write v)) s = .next (plainWrite off.toNat (d.rw ||| d.rwc) d.w1c
      (lockFilter (lockedOf s off.toNat d.rwc) (d.w1c ||| d.wo) (reg s off.toNat) v) (lockNoted s off.toNat d v)) := by
    rw [exec_bar0_aligned hp ha, bar0Access_register_write hi hh, registerWrite, hf]
    dsimp only
    rw [hostWrite_exists hp hf he, rowAct, hs, hv]
  refine ⟨_, hx, fun k hk => ?_, fun a hne hla => ?_, fun hit => ?_⟩
  · rw [← hn _ hl]
    exact bit_plainWrite_lockFilter wn _ _ (regTable_kinds_disjoint d (mem_regTable_of_regFind hf)) hk
  · exact (reg_setReg_ne wn _ hne).trans (hn a hla)
  · rw [plainWrite_newestLog wn hl, lockNoted, hv, if_pos hit]
    exact logAccess_newest wr _ _ _

end Sys2Proof.Machine
end

section
/-! PROOFS. Power-on and the exit from Park: what survives in the registers, and the reset cause (R438, R447, R453, R456). -/

namespace Sys2Proof.Machine

/-! ## Registers kept over a reset -/

theorem SMap.get_setAll_map {m : SMap 32} (h : m.wf = true) (f : Nat → Word) (l : List Nat) (k : Nat) :
    (m.setAll (l.map fun a => (a, f a))).get k = if k ∈ l then f k else m.get k := by
  induction l generalizing m with
  | nil => rfl
  | cons a l ih =>
    rw [List.map_cons, SMap.setAll, ih (SMap.wf_set _ _ h)]
    by_cases hl : k ∈ l
    · simp [hl]
    · by_cases ha : k = a
      · subst ha
        simp [hl, SMap.get_set_same (SMap.wf_rising h)]
      · simp [hl, ha, SMap.get_set_ne (SMap.wf_rising h) ha]

/-- Writes of other words leave a word. -/
theorem get_foldl_set_ne {α : Type} (l : List α) (a : α → Nat) (v : SMap 32 → α → Word) {m : SMap 32} (h : m.wf = true) {k : Nat}
    (hk : ∀ x ∈ l, k ≠ a x) : (l.foldl (fun m x => m.set (a x) (v m x)) m).get k = m.get k := by
  induction l generalizing m with
  | nil => rfl
  | cons x l ih =>
    rw [List.foldl_cons, ih (SMap.wf_set _ _ h) fun y hy => hk y (List.mem_cons_of_mem x hy),
      SMap.get_set_ne (SMap.wf_rising h) (hk x List.mem_cons_self)]

/-- A word kept whole over a reset, of which no field is kept apart, is as it was. -/
theorem keptRegs_get {words : List Nat} {fields : List (Nat × Nat × Nat)} {a : Nat} (hw : a ∈ words)
    (hf : ∀ f ∈ fields, a ≠ f.1) (s : State) : (keptRegs words fields s).get a = reg s a := by
  rw [keptRegs, get_foldl_set_ne fields (·.1) _ (SMap.wf_setAll _ (coldImage_wf _)) hf,
    SMap.get_setAll_map (coldImage_wf _) (reg s), if_pos hw]

theorem coldImage_genResetCause (ph : BitVec 2) : (coldImage ph.toNat).get Reg.genResetCause = 0 := by
  have h : ∀ k < 4, (coldImage k).get Reg.genResetCause = 0 := by decide +kernel
  exact h _ ph.isLt

/-! ## The reset cause (R456) -/

theorem reg_setCause {s : State} (w : s.regs.wf = true) (kind source rail : Nat) :
    reg (setCause kind source rail s) Reg.genResetCause =
      (reg s Reg.genResetCause &&& 0x00F0FFFF) ||| at_ 31 28 kind ||| at_ 27 24 source ||| at_ 19 16 rail :=
  reg_setReg_same w _ _

/-- KIND, SOURCE and RAIL read as recorded, and COUNT stands. -/
theorem rfld_setCause {s : State} (w : s.regs.wf = true) {kind source rail : Nat} (hk : kind < 16) (hs : source < 16)
    (hr : rail < 16) :
    rfld (setCause kind source rail s) Reg.genResetCause 31 28 = kind ∧
    rfld (setCause kind source rail s) Reg.genResetCause 27 24 = source ∧
    rfld (setCause kind source rail s) Reg.genResetCause 19 16 = rail ∧
    rfld (setCause kind source rail s) Reg.genResetCause 15 0 = rfld s Reg.genResetCause 15 0 := by
  have hc : rfld s Reg.genResetCause 15 0 &&& 0xFFFF = rfld s Reg.genResetCause 15 0 :=
    Nat.and_two_pow_sub_one_of_lt_two_pow (n := 16) (fld_lt _ 15 0)
  have keep (hi lo : Nat) : rfld (setCause kind source rail s) Reg.genResetCause hi lo =
      (rfld s Reg.genResetCause hi lo &&& fld (0x00F0FFFF : Word) hi lo) ||| fld (at_ 31 28 kind) hi lo |||
        fld (at_ 27 24 source) hi lo ||| fld (at_ 19 16 rail) hi lo := by
    rw [rfld, reg_setCause w, fld_or, fld_or, fld_or, fld_and, rfld]
  refine ⟨?_, ?_, ?_, ?_⟩ <;> rw [keep]
  · rw [show fld (0x00F0FFFF : Word) 31 28 = 0 by decide]
    simp (disch := omega) [fld_at_same, fld_at_out, Nat.mod_eq_of_lt hk]
  · rw [show fld (0x00F0FFFF : Word) 27 24 = 0 by decide]
    simp (disch := omega) [fld_at_same, fld_at_out, Nat.mod_eq_of_lt hs]
  · rw [show fld (0x00F0FFFF : Word) 19 16 = 0 by decide]
    simp (disch := omega) [fld_at_same, fld_at_out, Nat.mod_eq_of_lt hr]
  · rw [show fld (0x00F0FFFF : Word) 15 0 = 0xFFFF by decide, hc]
    simp (disch := omega) [fld_at_out]

theorem setCause_wf {s : State} (w : s.regs.wf = true) (kind source rail : Nat) : (setCause kind source rail s).regs.wf = true :=
  setReg_wf w _ _

theorem incCause_wf {s : State} (w : s.regs.wf = true) : (incSat Reg.genResetCause 15 0 s).regs.wf = true :=
  setFld_wf w _ _ _ _

/-- Noting a reset advances COUNT, which saturates, and leaves the fields above it. -/
theorem rfld_noteReset {s : State} (w : s.regs.wf = true) :
    rfld (noteReset s) Reg.genResetCause 15 0 = min (rfld s Reg.genResetCause 15 0 + 1) 65535 ∧
    ∀ hi lo, 15 < lo → lo ≤ hi → rfld (noteReset s) Reg.genResetCause hi lo = rfld s Reg.genResetCause hi lo := by
  have hn : reg (noteReset s) Reg.genResetCause = reg (incSat Reg.genResetCause 15 0 s) Reg.genResetCause :=
    (logEvent_regs (incCause_wf w) _ _ _ _).2 _ (by unfold logArea; decide)
  constructor
  · rw [rfld, hn, ← rfld, incSat, addSat, rfld_setFld_same w _ _ (by omega) (by omega)]
    exact Nat.mod_eq_of_lt (by omega)
  · intro hi lo hlo hhi
    rw [rfld, hn, ← rfld, incSat, addSat, rfld_setFld_out w _ _ (by omega) (by omega) (.inr hlo) hhi]

theorem noteReset_keeps (s : State) : Keeps [.regs, .out, .fr] s (noteReset s) :=
  keeps_noteReset (List.Subset.refl _) (Keeps.refl _ s)

/-! ## The exit from Park (R447, R454) -/

/-- The part just before an exit from Park notes its cause: it restarts from step 2 of R438 with link time 0. -/
def parkRestart (s : State) : State :=
  restartTime (restart (keptRegs exitAddrs exitFields s) (HeatState.init .warm)
    { fromStep2 s with holdTail := s.power.holdTail, wdog := none } s)

theorem parkExit_eq (source : Nat) (s : State) : parkExit source s = noteReset (setCause kParkExit source 0 (parkRestart s)) := rfl

theorem reg_parkRestart_cause (s : State) : reg (parkRestart s) Reg.genResetCause = reg s Reg.genResetCause :=
  keptRegs_get (List.mem_append_right _ List.mem_cons_self) (by decide) s

/-- An exit from Park is a part-wide reset of KIND 3 that starts link time anew. -/
theorem parkExit_partReset (s : State) {source : Nat} (hs : source < 16) : PartReset s (parkExit source s) kParkExit source 0 0 := by
  have wr : (parkRestart s).regs.wf = true := keptRegs_wf _ _ _
  obtain ⟨hkind, hsource, hrail, hcount⟩ := rfld_setCause (kind := kParkExit) wr (by decide) hs (Nat.zero_lt_succ 15)
  obtain ⟨ncount, nabove⟩ := rfld_noteReset (setCause_wf wr kParkExit source 0)
  have hk := noteReset_keeps (setCause kParkExit source 0 (parkRestart s))
  have same {k : Kind} (h : k ∉ [.regs, .out, .fr]) := hk.same h
  obtain ⟨hdram, -⟩ := same (k := .dram) (by decide)
  rw [parkExit_eq]
  refine ⟨congrArg PowerState.st (same (k := .power) (by decide)), (nabove 31 28 (by omega) (by omega)).trans hkind,
    (nabove 27 24 (by omega) (by omega)).trans hsource, (nabove 19 16 (by omega) (by omega)).trans hrail, ?_,
    same (k := .cast) (by decide), hdram, same (k := .bar4) (by decide), declared_of_undeclared (same (k := .slots) (by decide)),
    same (k := .ports) (by decide), same (k := .linkTime) (by decide)⟩
  rw [ncount, hcount, rfld, reg_parkRestart_cause, rfld]

theorem wakeEdge_park {s : State} (hp : s.power.st = .park) {m : Nat} {rising : Bool} (hm : 4 ≤ m)
    (he : rbit s Reg.genWake m = true) (hr : rbit s Reg.genWake (m + 16) = rising) : wakeEdge m rising s = parkExit 0 s := by
  have hn : ¬ (m < 4 ∨ ¬ rbit s Reg.genWake m = true ∨ rbit s Reg.genWake (m + 16) ≠ rising) := by
    rintro (h | h | h)
    · omega
    · exact h he
    · exact h hr
  unfold wakeEdge
  rw [if_neg hn, hp]

theorem resetN_park {s : State} (hp : s.power.st = .park) : resetN s = parkExit 1 s := by
  unfold resetN
  rw [hp]

/-- Settles O12: either wake source takes the part through an exit from Park. (`parkExit` is the model's operation.) -/
theorem parkExit_settled : Obligations.ParkExit := by
  intro s _ hp
  exact ⟨fun m rising hm he hr =>
      ⟨parkExit 0 s, congrArg Host.Outcome.next (wakeEdge_park hp hm he hr), parkExit_partReset s (by decide)⟩,
    parkExit 1 s, congrArg Host.Outcome.next (resetN_park hp), parkExit_partReset s (by decide)⟩

/-! ## Power-on (R438, R492) -/

/-- A cold reset by no rail leaves no reset cause. -/
theorem coldReset_cause_zero (s : State) : reg (coldReset 0 s) Reg.genResetCause = 0 := by
  unfold coldReset
  extract_lets s1 atT0 p
  generalize hr : restart (coldImage s.corePh.toNat) (HeatState.init .cold) p s1 = r
  have hregs : r.regs = coldImage s.corePh.toNat := hr ▸ rfl
  have w : r.regs.wf = true := hregs ▸ coldImage_wf s.corePh
  have h0 : reg r Reg.genResetCause = 0 := by rw [reg, hregs, coldImage_genResetCause]
  calc reg (coldTime (setCause kCold 0 0 r)) Reg.genResetCause = reg (setCause kCold 0 0 r) Reg.genResetCause := rfl
    _ = (0 &&& 0x00F0FFFF) ||| at_ 31 28 kCold ||| at_ 27 24 0 ||| at_ 19 16 0 := by rw [reg_setCause w, h0]
    _ = 0 := by decide

/-- Settles O9: POWER_ON writes the Cold values and the cause; with RESET_N low a warm cause is recorded after it. -/
theorem powerOnTakesColdValues : Obligations.PowerOnTakesColdValues := by
  intro ph testen low s
  refine ⟨powerOn ph testen low s, rfl, ?_⟩
  unfold powerOn
  extract_lets source cold s1 atT0 s2
  have w2 : s2.regs.wf = true := SMap.wf_set _ _ (coldImage_wf ph)
  have words (off : Nat) (h : off ≠ Reg.genResetCause) : reg s2 off = (coldImage ph.toNat).get off :=
    SMap.get_set_ne (SMap.wf_rising (coldImage_wf ph)) h
  split
  · next held =>
    refine ⟨rfl, rfl, rfl, rfl, rfl, declared_of_undeclared rfl, rfl, rfl,
      fun off h => (reg_setReg_ne w2 _ h).trans (words off h), fun _ h => ?_⟩
    rcases h with rfl | rfl <;> simp at held
  · refine ⟨rfl, rfl, rfl, rfl, rfl, declared_of_undeclared rfl, rfl, rfl, words, fun h _ => ?_⟩
    have hs : source = 0 := if_neg h
    calc reg s2 Reg.genResetCause = reg (coldReset source s) Reg.genResetCause :=
          SMap.get_set_same (SMap.wf_rising (coldImage_wf ph))
      _ = 0 := by rw [hs, coldReset_cause_zero]

end Sys2Proof.Machine
end

section
/-! PROOFS. Every command answers: the two accesses by address that can stop, and the rest (R356; log entry 9). -/

namespace Sys2Proof.Machine

/-- A host access of BAR0 or BAR4 answers a next state, but for one of BAR4 beyond its 64 KiB (R356). -/
theorem execRegisterWrite_next {bar : Bar} {off : BitVec 26} (h : bar = .bar0 ∨ off.toNat < 65536) (size : Nat) (acc : Access)
    (s : State) : ∃ t, execRegisterWrite bar off size acc s = .next t := by
  cases bar with
  | bar0 =>
    unfold execRegisterWrite
    dsimp only
    split
    · exact ⟨_, rfl⟩
    · split <;> exact ⟨_, rfl⟩
  | bar4 =>
    have hb : ¬ 65536 ≤ off.toNat := Nat.not_le.2 (h.resolve_left nofun)
    unfold execRegisterWrite
    dsimp only
    rw [if_neg hb]
    split
    · exact ⟨_, rfl⟩
    · split <;> exact ⟨_, rfl⟩

theorem execRegisterWrite_outside {off : BitVec 26} (h : 65536 ≤ off.toNat) (size : Nat) (acc : Access) (s : State) :
    execRegisterWrite .bar4 off size acc s = .fault .outsideBar := by
  unfold execRegisterWrite
  exact if_pos h

/-- An access of BAR2 that ends within its 256 MiB answers a next state (R356). -/
theorem execBar2Access_next {off : BitVec 28} {len : Nat} (h : off.toNat + len ≤ 2 ^ 28) (epoch : BitVec 16)
    (acc : Option (List Byte)) (s : State) : ∃ t, execBar2Access off len epoch acc s = .next t := by
  unfold execBar2Access
  rw [if_neg (Nat.not_lt.2 h)]
  split
  · exact ⟨_, rfl⟩
  · split <;> exact ⟨_, rfl⟩

theorem execBar2Access_outside {off : BitVec 28} {len : Nat} (h : 2 ^ 28 < off.toNat + len) (epoch : BitVec 16)
    (acc : Option (List Byte)) (s : State) : execBar2Access off len epoch acc s = .fault .outsideBar := by
  unfold execBar2Access
  exact if_pos h

theorem execCompressorBlockDone_next (c : CodecClient) (s : State) : ∃ t, execCompressorBlockDone c s = .next t := by
  cases c <;> exact ⟨_, rfl⟩

theorem execDecompressorBlockDone_next (c : CodecClient) (s : State) : ∃ t, execDecompressorBlockDone c s = .next t := by
  cases c <;> exact ⟨_, rfl⟩

theorem execSportBadFrame_next (b : SportBad) (s : State) : ∃ t, execSportBadFrame b s = .next t := by
  cases b <;> exact ⟨_, rfl⟩

/-- Settles O6: the meaning of every command but the accesses by address is a next state, and those two stop outside their BAR
alone. -/
theorem everyCommandAnswers : Obligations.EveryCommandAnswers := by
  refine ⟨fun c s => ?_, fun off size acc s h => execRegisterWrite_outside h size acc s,
    fun off len epoch acc s h => execBar2Access_outside h epoch acc s⟩
  cases c with
  | registerWrite bar off size acc =>
    by_cases h : bar = .bar0 ∨ off.toNat < 65536
    · exact .inl (execRegisterWrite_next h size acc s)
    · obtain ⟨hb, ho⟩ := not_or.1 h
      obtain rfl : bar = .bar4 := by cases bar <;> simp_all
      have ho := Nat.not_lt.1 ho
      exact .inr ⟨execRegisterWrite_outside ho size acc s, .inl ⟨off, size, acc, rfl, ho⟩⟩
  | bar2Access off len epoch acc =>
    rcases Nat.lt_or_ge (2 ^ 28) (off.toNat + len) with h | h
    · exact .inr ⟨execBar2Access_outside h epoch acc s, .inr ⟨off, len, epoch, acc, rfl, h⟩⟩
    · exact .inl (execBar2Access_next h epoch acc s)
  | sportBadFrame b => exact .inl (execSportBadFrame_next b s)
  | compressorBlockDone c => exact .inl (execCompressorBlockDone_next c s)
  | decompressorBlockDone c => exact .inl (execDecompressorBlockDone_next c s)
  | _ => exact .inl ⟨_, rfl⟩

end Sys2Proof.Machine
end

section
/-! PROOFS. What the operations of a slot and of its light leave of a link: its own registers, the binding, and the Casts. -/

namespace Sys2Proof.Machine

/-! ## The relation -/

/-- Every Cast that a slot runs is in range. -/
def RunningInRange (s : State) : Prop := ∀ n c, cfgOf s n = some c → SlotInRange c

/-- The words of the EP blocks, and LC_LEN_STAT where stat does not hold. Offsets 0x14 and 0x18 of each 256 bytes are left out:
the slot that a port names may lie beyond 7, and LS_DEMAND and SL_LOAD of such a number can stand there. -/
def linkWord (stat : Bool) (a : Nat) : Prop :=
  a = Reg.lcLenStat ∧ stat = false ∨ 0xB00000 ≤ a ∧ a < 0xB80000 ∧ a % 0x100 ≠ 0x14 ∧ a % 0x100 ≠ 0x18

/-- A port without what sending, the page store and the light operations change in it. -/
def PortState.link (q : PortState) : PortState :=
  { q with wait := [], free := 0, runPkts := 0, rxErr := 0, dlSeq := 0, drvEvs := [], tags := [], nextTag := 0, pageA := [], pageB := []
           ceils := [], lenWait := false, reboundSinceFault := false }

/-- From s to t the words of linkWord and the links stand, each slot runs what it ran, and t is canonical and in range. -/
structure LinkKept (stat : Bool) (s t : State) : Prop where
  wf : t.regs.wf = true
  range : RunningInRange t
  cfg : ∀ n, cfgOf t n = cfgOf s n
  word : ∀ a, linkWord stat a → reg t a = reg s a
  port : ∀ k, (portAt t k).link = (portAt s k).link

theorem RunningInRange.chans {s : State} (r : RunningInRange s) : ChansExist s :=
  fun n c e hc he => (r n c hc).2.2.1 e he

theorem RunningInRange.of_cfg {s t : State} (r : RunningInRange s) (h : ∀ n, cfgOf t n = cfgOf s n) : RunningInRange t :=
  fun n c hc => r n c (h n ▸ hc)

theorem RunningInRange.of_slots {s t : State} (r : RunningInRange s) (h : t.slots = s.slots) : RunningInRange t :=
  r.of_cfg fun n => by rw [cfgOf, slotAt, h, cfgOf, slotAt]

theorem RunningInRange.port_lt {s : State} (r : RunningInRange s) (n : Nat) : portOf s n < 8 := by
  unfold portOf
  cases hc : cfgOf s n with
  | none => decide
  | some c => exact (r n c hc).1

variable {stat : Bool}

theorem not_linkWord {a : Nat} (h : a < 0x800004 ∨ 0x800004 < a ∧ a < 0xB00000 ∨ 0xB80000 ≤ a) : ¬ linkWord stat a := by
  simp only [linkWord, Reg.lcLenStat]
  omega

theorem not_linkWord_of_offset {a : Nat} (h : a % 0x100 = 0x14 ∨ a % 0x100 = 0x18) : ¬ linkWord stat a := by
  simp only [linkWord, Reg.lcLenStat]
  omega

theorem not_lightArea_of_linkWord {a : Nat} (h : linkWord stat a) : ¬ lightArea stat a := by
  rcases h with ⟨rfl, rfl⟩ | ⟨hl, hh, -⟩
  · simp [lightArea, Reg.lcLenStat]
  · simp only [lightArea, Reg.lcLenStat]
    omega

theorem not_logArea_of_linkWord {a : Nat} (h : linkWord stat a) : ¬ logArea a := by
  intro hl
  refine not_linkWord ?_ h
  simp only [logArea, Reg.msixPba, Reg.frLogStat, Reg.frFault, Reg.frLog] at hl
  omega

section
variable {s t u : State}

theorem LinkKept.refl (w : s.regs.wf = true) (r : RunningInRange s) : LinkKept stat s s :=
  ⟨w, r, fun _ => rfl, fun _ _ => rfl, fun _ => rfl⟩

theorem LinkKept.trans (h : LinkKept stat s t) (k : LinkKept stat t u) : LinkKept stat s u :=
  ⟨k.wf, k.range, fun n => (k.cfg n).trans (h.cfg n), fun a ha => (k.word a ha).trans (h.word a ha),
    fun p => (k.port p).trans (h.port p)⟩

theorem LinkKept.weaken (h : LinkKept false s t) : LinkKept stat s t :=
  ⟨h.wf, h.range, h.cfg, fun a ha => h.word a (ha.imp (fun e => ⟨e.1, rfl⟩) id), h.port⟩

/-- A change of words outside linkWord alone. -/
theorem LinkKept.ofWords (h : LinkKept stat s t) (w : u.regs.wf = true) (hr : ∀ a, linkWord stat a → reg u a = reg t a)
    (hs : u.slots = t.slots) (hp : u.ports = t.ports) : LinkKept stat s u := by
  have hc (n : Nat) : cfgOf u n = cfgOf t n := by rw [cfgOf, cfgOf, slotAt, slotAt, hs]
  refine h.trans ⟨w, h.range.of_cfg hc, hc, hr, fun k => ?_⟩
  rw [portAt, portAt, hp]

/-- A change of neither registers, slots nor ports. -/
theorem LinkKept.ofSame (h : LinkKept stat s t) (hr : u.regs = t.regs) (hs : u.slots = t.slots) (hp : u.ports = t.ports) :
    LinkKept stat s u :=
  h.ofWords (hr ▸ h.wf) (fun a _ => by rw [reg, hr, reg]) hs hp

theorem LinkKept.ofKeeps {F : List Kind} (h : LinkKept stat s t) (k : Keeps F t u) (hr : Kind.regs ∉ F := by decide)
    (hs : Kind.slots ∉ F := by decide) (hp : Kind.ports ∉ F := by decide) : LinkKept stat s u :=
  h.ofSame (k.same hr) (k.same hs) (k.same hp)

/-- An operation on the light that leaves the ports. -/
theorem LinkKept.ofLight (h : LinkKept stat s t) (k : LightKept stat t u) (hp : u.ports = t.ports) : LinkKept stat s u := by
  obtain ⟨w, hc, -, hr⟩ := k h.wf
  refine h.trans ⟨w, h.range.of_cfg hc, hc, fun a ha => hr h.range.chans a (not_lightArea_of_linkWord ha), fun k => ?_⟩
  rw [portAt, portAt, hp]

theorem LinkKept.setReg (h : LinkKept stat s t) {b : Nat} (hb : ¬ linkWord stat b) (v : Word) : LinkKept stat s (setReg b v t) :=
  h.ofWords (setReg_wf h.wf _ _) (fun _ ha => reg_setReg_ne h.wf _ fun e => hb (e ▸ ha)) rfl rfl

theorem LinkKept.setFld (h : LinkKept stat s t) {b : Nat} (hb : ¬ linkWord stat b) (hi lo x : Nat) :
    LinkKept stat s (setFld b hi lo x t) := h.setReg hb _

theorem LinkKept.setBit (h : LinkKept stat s t) {b : Nat} (hb : ¬ linkWord stat b) (i : Nat) (x : Bool) :
    LinkKept stat s (setBit b i x t) := h.setReg hb _

theorem LinkKept.modSlot (h : LinkKept stat s t) (n : Nat) (f : SlotState → SlotState)
    (hf : ∀ q, (f q).cfg = q.cfg := by exact fun _ => rfl) : LinkKept stat s (modSlot n f t) := by
  have hc := cfgOf_modSlot (n := n) hf t
  exact h.trans ⟨(modSlot_regs n f t).symm ▸ h.wf, h.range.of_cfg hc, hc, fun a _ => reg_modSlot n f t a,
    fun k => by rw [portAt_modSlot]⟩

theorem LinkKept.modPort (h : LinkKept stat s t) (p : Nat) (f : PortState → PortState)
    (hf : ∀ q, (f q).link = q.link := by exact fun _ => rfl) : LinkKept stat s (modPort p f t) := by
  have hc (n : Nat) : cfgOf (Machine.modPort p f t) n = cfgOf t n := by rw [cfgOf, slotAt_modPort, cfgOf]
  refine h.trans ⟨(modPort_regs p f t).symm ▸ h.wf, h.range.of_cfg hc, hc, fun a _ => reg_modPort p f t a, fun k => ?_⟩
  by_cases hk : k = p
  · subst hk
    by_cases h8 : k < 8
    · rw [portAt_modPort_same h8, hf]
    · rw [Machine.modPort, dif_neg h8]
  · rw [portAt_modPort_ne hk]

theorem LinkKept.forAll (h : LinkKept stat s t) (l : List Nat) {f : Nat → State → State}
    (hf : ∀ i ∈ l, ∀ u, LinkKept stat s u → LinkKept stat s (f i u)) : LinkKept stat s (forAll l f t) := by
  induction l generalizing t with
  | nil => exact h
  | cons i l ih => exact ih (hf i (by simp) t h) fun j hj => hf j (by simp [hj])

theorem LinkKept.raiseVec (h : LinkKept stat s t) {v : Nat} (hv : v < 256) : LinkKept stat s (raiseVec v t) := by
  obtain ⟨w, hr⟩ := raiseVec_regs h.wf v
  refine h.ofWords w (fun a ha => hr a fun e => not_linkWord ?_ ha) (raiseVec_slots v t) (raiseVec_ports v t)
  simp only [e, Reg.msixPba]
  omega

theorem LinkKept.logEvent (h : LinkKept stat s t) (c : Status) (cls id d : Nat) : LinkKept stat s (logEvent c cls id d t) := by
  obtain ⟨w, hr⟩ := logEvent_regs h.wf c cls id d
  have k := keeps_logEvent (List.Subset.refl _) c cls id d (Keeps.refl _ t)
  exact h.ofWords w (fun a ha => hr a (not_logArea_of_linkWord ha)) (k.same (k := .slots) (by decide)) (k.same (k := .ports) (by decide))

/-! ## The downlink and LEN_n -/

theorem LinkKept.transmit {s : State} (p fuel : Nat) : ∀ {t : State}, LinkKept stat s t → LinkKept stat s (transmit p fuel t) := by
  induction fuel with
  | zero => exact fun h => h
  | succ k ih =>
    intro t h
    unfold Machine.transmit
    dsimp only
    split
    · exact h
    · split
      · exact h
      · split
        · exact ih ((h.modPort p _).ofSame rfl rfl rfl)
        · exact ih ((h.modPort p _).ofSame rfl rfl rfl)

theorem LinkKept.sendPkt (h : LinkKept stat s t) (p : Nat) (k : LinkPkt) : LinkKept stat s (sendPkt p k t) :=
  LinkKept.transmit p 1 (h.modPort p _)

theorem LinkKept.markDark (h : LinkKept stat s t) (n : Nat) : LinkKept stat s (markDark n t) :=
  h.ofLight ((LightKept.refl t).markDark n)
    ((keeps_markDark (List.Subset.refl _) n (Keeps.refl _ t)).same (k := .ports) (by decide))

theorem LinkKept.refreshCeil (h : LinkKept stat s t) (n : Nat) : LinkKept stat s (refreshCeil n t) :=
  h.ofLight ((LightKept.refl t).refreshCeil n)
    ((keeps_refreshCeil (List.Subset.refl _) n (Keeps.refl _ t)).same (k := .ports) (by decide))

theorem LinkKept.setTarget (h : LinkKept stat s t) (n d : Nat) : LinkKept stat s (setTarget n d t) :=
  h.ofLight ((LightKept.refl t).setTarget n d)
    ((keeps_setTarget (List.Subset.refl _) n d (Keeps.refl _ t)).same (k := .ports) (by decide))

theorem LinkKept.issueOff (h : LinkKept stat s t) (p : Nat) (ts : BitVec 40) : LinkKept stat s (issueOff p ts t) := by
  unfold Machine.issueOff
  dsimp only
  split
  · exact (h.sendPkt p _).markDark _
  · exact h.sendPkt p _

theorem LinkKept.lenDrop (h : LinkKept true s t) {p : Nat} (hp : p < 8) (cause : Nat) : LinkKept true s (lenDrop p cause t) := by
  have hstat : ¬ linkWord true Reg.lcLenStat := by simp [linkWord, Reg.lcLenStat]
  have hcause : ¬ linkWord true (Reg.lcLenCause p) := not_linkWord (by simp only [Reg.lcLenCause]; omega)
  unfold Machine.lenDrop
  split
  · have h1 := ((h.setBit hstat (8 + p) false).setReg hcause (BitVec.ofNat 32 cause)).issueOff p
    dsimp only
    split
    · next n hn =>
      have hd : ¬ linkWord true (Reg.lsDemand n) := not_linkWord (by simp only [Reg.lsDemand, Reg.ls]; omega)
      exact (((((h1 _).modPort p _).modSlot n _).refreshCeil n).modSlot n _ |>.setReg hd _).setTarget n 0
    · exact (h1 _).modPort p _
  · exact h

/-! ## What a slot does as its engine departs -/

theorem LinkKept.showBound (h : LinkKept stat s t) (p : Nat) (b : Bool) : LinkKept stat s (showBound p b t) := by
  unfold Machine.showBound
  split
  · exact h
  · next c hc =>
    obtain ⟨n, -, hn⟩ := Option.bind_eq_some_iff.1 hc
    refine h.forAll _ fun k hk u hu => hu.setBit (not_linkWord ?_) 31 b
    obtain ⟨e, he, rfl⟩ := List.mem_map.1 hk
    have := h.range.chans n c e hn he
    simp only [Reg.lcCfg, Reg.lc]
    omega

theorem LinkKept.setParked (h : LinkKept stat s t) (n : Nat) (b : Bool) : LinkKept stat s (setParked n b t) := by
  unfold Machine.setParked
  split
  · exact h
  · next c hc =>
    refine h.forAll _ fun p hp u hu => hu.setBit (not_linkWord ?_) 26 b
    obtain ⟨i, hi, rfl⟩ := List.mem_map.1 hp
    obtain ⟨-, -, -, hpitch, -⟩ := h.range n c hc
    have := List.mem_range.1 hi
    simp only [Reg.pitch]
    omega

theorem LinkKept.flushLines (h : LinkKept stat s t) (n : Nat) : LinkKept stat s (flushLines n t) :=
  (h.modSlot n _).setReg (not_linkWord_of_offset (by simp only [Reg.lsDemand, Reg.ls]; omega)) _

theorem LinkKept.showLoad (h : LinkKept stat s t) (n : Nat) : LinkKept stat s (showLoad n t) := by
  have hl : ¬ linkWord stat (Reg.slLoad n) := not_linkWord_of_offset (by simp only [Reg.slLoad, Reg.sl]; omega)
  unfold Machine.showLoad
  dsimp only
  split
  · next hb =>
    have hn : n < 8 := by
      unfold bound at hb
      split at hb
      · next c hc => exact lt_of_cfg hc
      · exact absurd hb Bool.false_ne_true
    exact (h.setReg hl _).setReg (not_linkWord (by simp only [Reg.slSettle, Reg.sl]; omega)) _
  · exact h.setReg hl _

/-! ## What was pending applies at once (R148) -/

theorem LinkKept.quietSlot (h : LinkKept stat s t) (n : Nat) : LinkKept stat s (quietSlot n t) := by
  unfold Machine.quietSlot
  split
  · exact h
  · split
    · exact h.issueOff _ _
    · exact h.markDark n

theorem LinkKept.stopRaster (h : LinkKept stat s t) (n : Nat) : LinkKept stat s (stopRaster n t) := by
  unfold Machine.stopRaster
  exact h.modSlot n _ fun q => by split <;> rfl

theorem LinkKept.storeHeld (h : LinkKept stat s t) (n : Nat) (c : SlotCast) (k : Nat) : LinkKept stat s (storeHeld n c k t) := by
  unfold Machine.storeHeld
  split
  · exact h
  · exact (h.modSlot n _).ofKeeps (keeps_storePlane (List.Subset.refl _) n c k _ (Keeps.refl _ _))

theorem LinkKept.storeAllHeld (h : LinkKept stat s t) (n : Nat) : LinkKept stat s (storeAllHeld n t) := by
  unfold Machine.storeAllHeld
  split
  · exact h
  · exact h.forAll _ fun k _ u hu => hu.storeHeld n _ k

theorem LinkKept.copyPitch (h : LinkKept stat s t) (p : Nat) : LinkKept stat s (copyPitch p t) :=
  h.ofKeeps (keeps_copyPitch (List.Subset.refl _) p (Keeps.refl _ t))

theorem LinkKept.applyScene (h : LinkKept stat s t) {n : Nat} (hn : n < 8) : LinkKept stat s (applyScene n t) := by
  unfold Machine.applyScene
  split
  · exact h
  · exact (h.modSlot n _).setFld (not_linkWord (by simp only [Reg.hlStatus]; omega)) _ _ _

theorem not_linkWord_slStatus {n : Nat} (hn : n < 8) : ¬ linkWord stat (Reg.slStatus n) :=
  not_linkWord (by simp only [Reg.slStatus, Reg.sl]; omega)

theorem LinkKept.showSeq (h : LinkKept stat s t) {n : Nat} (hn : n < 8) : LinkKept stat s (showSeq n t) :=
  (h.setFld (not_linkWord_slStatus hn) _ _ _).setBit (not_linkWord_slStatus hn) _ _

theorem LinkKept.applySwap (h : LinkKept stat s t) (n m : Nat) : LinkKept stat s (applySwap n m t) := by
  unfold Machine.applySwap
  split
  · exact h
  · next c hc =>
    have hn := lt_of_cfg hc
    obtain ⟨-, -, -, -, hmodes⟩ := h.range n c hc
    have hbase : rfld t (Reg.slSeq n m) 11 0 < 4096 := fld_lt _ 11 0
    have hcount : (modesOf c m).foldl (fun a x => max a x.count) 0 ≤ 65535 :=
      List.foldlRecOn (motive := (· ≤ 65535)) _ _ (by omega) fun _ ha x hx =>
        max_le ha (hmodes x (List.mem_of_mem_take (List.mem_of_mem_filter hx)))
    dsimp only
    refine LinkKept.showSeq (LinkKept.setBit (LinkKept.setBit (LinkKept.modSlot (LinkKept.forAll
      (h.forAll _ fun p _ u hu => hu.copyPitch p) _ fun k hk u hu => hu.setFld (not_linkWord ?_) _ _ _) n _)
      (not_linkWord_slStatus hn) _ _) (not_linkWord_slStatus hn) _ _) hn
    have := List.mem_range.1 hk
    simp only [Reg.pitch]
    omega

theorem LinkKept.applyAllSwaps (h : LinkKept stat s t) (n : Nat) : LinkKept stat s (applyAllSwaps n t) :=
  h.forAll _ fun m _ _ hu => hu.applySwap n m

theorem not_linkWord_soStatus {n : Nat} (hn : n < 8) : ¬ linkWord stat (Reg.soStatus n) :=
  not_linkWord (by simp only [Reg.soStatus, Reg.so]; omega)

theorem LinkKept.applyOthers (h : LinkKept stat s t) {n : Nat} (hn : n < 8) (c : SlotCast) :
    LinkKept stat s (applyOthers n c t) :=
  ((h.modSlot n _).forAll _ fun p _ _ hu => hu.copyPitch p).setFld (not_linkWord_soStatus hn) _ _ _

theorem LinkKept.applyLayer (h : LinkKept stat s t) (n : Nat) (c : SlotCast) (k : Nat) : LinkKept stat s (applyLayer n c k t) := by
  unfold Machine.applyLayer
  exact (h.copyPitch _).modSlot n _

theorem LinkKept.showDefer (h : LinkKept stat s t) {n : Nat} (hn : n < 8) : LinkKept stat s (showDefer n t) :=
  (h.setReg (not_linkWord (by simp only [Reg.soDefer, Reg.so]; omega)) _).setBit (not_linkWord_soStatus hn) _ _

theorem LinkKept.applyWhole (h : LinkKept stat s t) {n : Nat} (hn : n < 8) (c : SlotCast) : LinkKept stat s (applyWhole n c t) :=
  (((h.applyOthers hn c).forAll _ fun k _ _ hu => hu.applyLayer n c k).modSlot n _).showDefer hn

theorem LinkKept.handBackDev (h : LinkKept stat s t) (bs : List Nat) : LinkKept stat s (handBackDev bs t) :=
  h.forAll _ fun b _ u hu => by
    unfold handBack
    split
    · exact hu.setReg (not_linkWord (by simp only [Reg.wnTally]; omega)) _
    · exact hu

/-- Of the slots that used a block none is beyond 7, but for the one that lets go. -/
theorem lastUser_lt (s : State) {n : Nat} (hn : n < 8) (b : Nat) : lastUser s n b < 8 := by
  unfold lastUser
  generalize hb : (List.range 8).foldl _ (none : Option (Nat × LinkTime)) = best
  have hr : ∀ x, best = some x → x.1 < 8 := by
    rw [← hb]
    refine List.foldlRecOn (motive := fun best : Option (Nat × LinkTime) => ∀ x, best = some x → x.1 < 8) _ _ nofun
      fun best hbest m hm => ?_
    have hm := List.mem_range.1 hm
    split
    · exact hbest
    · split
      · split
        · rintro x ⟨rfl⟩; exact hm
        · exact hbest
      · rintro x ⟨rfl⟩; exact hm
  cases best with
  | none => exact hn
  | some x => exact hr x rfl

theorem LinkKept.releaseSources (h : LinkKept stat s t) {n : Nat} (hn : n < 8) : LinkKept stat s (releaseSources n t) := by
  refine ((h.forAll _ fun m _ u hu => hu.modSlot m _).handBackDev _).forAll _ fun m hm u hu => hu.raiseVec ?_
  obtain ⟨b, -, rfl⟩ := List.mem_map.1 (List.mem_eraseDups.1 hm)
  have := lastUser_lt t hn b
  omega

theorem LinkKept.revalidate (h : LinkKept stat s t) (n : Nat) : LinkKept stat s (revalidate n t) := by
  unfold Machine.revalidate
  split
  · exact h
  · next c hc =>
    refine LinkKept.showSeq (h.forAll _ fun m _ u hu => ?_) (lt_of_cfg hc)
    split
    · exact hu.setBit (not_linkWord_slStatus (lt_of_cfg hc)) _ _
    · exact hu

theorem LinkKept.computeTraj (h : LinkKept stat s t) (n : Nat) : LinkKept stat s (computeTraj n t) := by
  unfold Machine.computeTraj
  split
  · exact h
  · next c hc =>
    have hn := lt_of_cfg hc
    split
    · exact h
    · extract_lets p nf ns f bad s1 s2
      have h2 : LinkKept stat s s2 := (h.setReg (not_linkWord (by simp only [Reg.lbTraj, Reg.lb]; omega)) _).modSlot n _
      split
      · exact (h2.setBit (not_linkWord (by simp only [Reg.lbFlags, Reg.lb]; omega)) _ _).logEvent _ _ _ _
      · exact h2

theorem LinkKept.setMode (h : LinkKept stat s t) {n : Nat} (hn : n < 8) (m : Nat) : LinkKept stat s (setMode n m t) :=
  ((((h.modSlot n _).setFld (not_linkWord_soStatus hn) _ _ _).showLoad n).revalidate n).computeTraj n

theorem LinkKept.retuneFree (h : LinkKept stat s t) (n : Nat) : LinkKept stat s (retuneFree n t) := by
  unfold Machine.retuneFree
  split
  · dsimp only
    split
    · exact h.modSlot n _
    · exact h
  · exact h

theorem LinkKept.applyAtOnce (h : LinkKept stat s t) (n : Nat) : LinkKept stat s (applyAtOnce n t) := by
  unfold Machine.applyAtOnce
  split
  · exact h
  · next c hc =>
    have hn := lt_of_cfg hc
    have h1 := (h.applyAllSwaps n).applyScene hn
    dsimp only
    split
    · exact h1
    · have h2 := h1.applyWhole hn c
      refine LinkKept.releaseSources ?_ hn
      split
      · exact (h2.setMode hn _).retuneFree n
      · exact h2

theorem LinkKept.restReck (h : LinkKept stat s t) (acq : Bool) (n : Nat) : LinkKept stat s (restReck acq n t) :=
  (((((h.quietSlot n).stopRaster n).storeAllHeld n).modSlot n _).flushLines n |>.modSlot n _).applyAtOnce n

/-! ## Heat, loops and the page store at a departure (R272, R295, R432) -/

theorem LinkKept.showPin (h : LinkKept stat s t) : LinkKept stat s (showPin t) :=
  h.setFld (not_linkWord (by decide)) _ _ _

theorem LinkKept.heatDepart (h : LinkKept stat s t) (n : Nat) : LinkKept stat s (heatDepart n t) := by
  unfold Machine.heatDepart
  split
  · exact h
  · next c hc =>
    extract_lets p s1
    have h1 : LinkKept stat s s1 := h.forAll _ fun k hk u hu => by
      obtain ⟨e, he, rfl⟩ := List.mem_map.1 hk
      exact (hu.setReg (not_linkWord (by simp only [Reg.thChPower, Reg.thChTj]; omega)) 0).setReg
        (not_linkWord (by simp only [Reg.thChTj]; omega)) 0
    exact (h1.ofKeeps (keeps_modHeat (List.Subset.refl _) _ (Keeps.refl _ s1))).showPin

theorem LinkKept.modLoop (h : LinkKept stat s t) (l : Nat) (f : LoopState → LoopState) : LinkKept stat s (modLoop l f t) :=
  h.ofSame (modLoop_regs l f t) (modLoop_slots l f t) (modLoop_ports l f t)

theorem LinkKept.pickoffLost (h : LinkKept stat s t) (n : Nat) : LinkKept stat s (pickoffLost n t) := by
  unfold Machine.pickoffLost
  split
  · exact h
  · next c hc =>
    have hn := lt_of_cfg hc
    split
    · exact ((h.modSlot n _).setBit (not_linkWord (by simp only [Reg.tfFlags, Reg.tf]; omega)) _ _).logEvent _ _ _ _
    · exact h

theorem not_linkWord_leStatus {l : Nat} (hl : l < 128) : ¬ linkWord stat (Reg.leStatus l) :=
  not_linkWord (by simp only [Reg.leStatus, Reg.le]; omega)

theorem not_linkWord_leFlags {l : Nat} (hl : l < 128) : ¬ linkWord stat (Reg.leFlags l) :=
  not_linkWord (by simp only [Reg.leFlags, Reg.le]; omega)

theorem LinkKept.loseLock (h : LinkKept stat s t) {l : Nat} (hl : l < 128) : LinkKept stat s (loseLock l t) := by
  unfold Machine.loseLock
  split
  · have h1 := ((h.modLoop l fun q => { q with good := 0, bad := 0 }).setBit (not_linkWord_leStatus hl) 4 false).setBit
      (not_linkWord_leFlags hl) lfLockLost true
    dsimp only
    split
    · exact h1.pickoffLost _
    · exact h1
  · exact h.modLoop l _

theorem LinkKept.openLoop (h : LinkKept stat s t) {l : Nat} (hl : l < 128) : LinkKept stat s (openLoop l t) := by
  unfold Machine.openLoop
  dsimp only
  split
  · exact ((h.modLoop l _).loseLock hl).setFld (not_linkWord_leStatus hl) _ _ _
  · exact h.modLoop l _

theorem LinkKept.loopsDepart (h : LinkKept stat s t) (p : Nat) : LinkKept stat s (loopsDepart p t) := by
  refine h.forAll _ fun l hl u hu => ?_
  have hl := List.mem_range.1 hl
  split
  · dsimp only
    split
    · exact (((hu.openLoop hl).modLoop l _).modLoop l _).setBit (not_linkWord_leStatus hl) _ _
    · exact (hu.openLoop hl).modLoop l _
  · exact hu

theorem LinkKept.showPages (h : LinkKept stat s t) : LinkKept stat s (showPages t) :=
  (h.setFld (not_linkWord (by simp only [Reg.caPageStat]; omega)) _ _ _).setReg
    (not_linkWord (by simp only [Reg.caPageSeq]; omega)) _

theorem LinkKept.endStore (h : LinkKept stat s t) (st : Status) : LinkKept stat s (endStore st t) := by
  have hs : ¬ linkWord stat Reg.caPageStat := not_linkWord (by simp only [Reg.caPageStat]; omega)
  have h0 : LinkKept stat s { t with page := none } := h.ofSame rfl rfl rfl
  exact ((h0.setFld hs 31 16 st.code).setBit hs 0 false).showPages.raiseVec (by decide)

theorem LinkKept.tearPage (h : LinkKept stat s t) : LinkKept stat s (tearPage t) := by
  unfold Machine.tearPage
  split
  · split
    · exact h
    · exact h.modPort _ _ fun q => by split <;> rfl
  · exact h

theorem LinkKept.storeLinkLost (h : LinkKept stat s t) (p : Nat) : LinkKept stat s (storeLinkLost p t) := by
  unfold Machine.storeLinkLost
  split
  · split
    · exact h.tearPage.endStore _
    · exact h
  · exact h

end
end Sys2Proof.Machine
end

section
/-! PROOFS. The QUIESCE exchange and a laser fault that an engine reports: LEN_n, the departure, grace, and the link's state
(R238, R308, R323, R331, R465). -/

namespace Sys2Proof.Machine

variable {s t : State} {p : Nat}

/-! ## The link's state (R308) -/

theorem linkWord_epStatus {stat : Bool} (hp : p < 8) : linkWord stat (Reg.epStatus p) := by
  simp only [linkWord, Reg.epStatus, Reg.ep]
  omega

theorem linkWord_lcLenStat : linkWord false Reg.lcLenStat := .inl ⟨rfl, rfl⟩

theorem linkState_of_reg (h : reg t (Reg.epStatus p) = reg s (Reg.epStatus p)) : linkState t p = linkState s p := by
  rw [linkState, rfld, h, linkState, rfld]

theorem LinkKept.linkState {stat : Bool} (h : LinkKept stat s t) (hp : p < 8) : linkState t p = linkState s p :=
  linkState_of_reg (h.word _ (linkWord_epStatus hp))

theorem epStatus_ne_epVec (k : Nat) (hp : p < 8) : Reg.epStatus k ≠ Reg.msixPba + 4 * ((24 + p) / 32) := by
  simp only [Reg.epStatus, Reg.ep, Reg.msixPba]
  omega

/-- Taking a state writes EPn_STATUS.STATE and at most the pending bit of the port's vector. -/
theorem setLink_regs (w : s.regs.wf = true) (st : Nat) :
    (setLink p st s).regs.wf = true ∧
    ∀ a, a ≠ Reg.epStatus p → a ≠ Reg.msixPba + 4 * ((24 + p) / 32) → reg (setLink p st s) a = reg s a := by
  unfold setLink
  split
  · exact ⟨w, fun _ _ _ => rfl⟩
  · obtain ⟨wr, hr⟩ := raiseVec_regs (setFld_wf w (Reg.epStatus p) 2 0 st) (24 + p)
    exact ⟨wr, fun a ha hv => (hr a hv).trans (reg_setFld_ne w _ _ _ ha)⟩

theorem reg_setLink_changed (w : s.regs.wf = true) (hp : p < 8) {st : Nat} (h : linkState s p ≠ st) :
    reg (setLink p st s) (Reg.epStatus p) = putFld (reg s (Reg.epStatus p)) 2 0 st := by
  unfold setLink
  rw [if_neg h, (raiseVec_regs (setFld_wf w _ _ _ _) _).2 _ (epStatus_ne_epVec p hp), reg_setFld_same w]

theorem linkState_setLink (w : s.regs.wf = true) (hp : p < 8) {st : Nat} (hs : st < 8) : linkState (setLink p st s) p = st := by
  by_cases h : linkState s p = st
  · rw [setLink, if_pos h, h]
  · rw [linkState, rfld, reg_setLink_changed w hp h, fld_putFld_same _ _ (by omega) (by omega)]
    exact Nat.mod_eq_of_lt hs

theorem rfld_setLink (w : s.regs.wf = true) (hp : p < 8) (st : Nat) {hi lo : Nat} (hl : 2 < lo) (hh : lo ≤ hi) :
    rfld (setLink p st s) (Reg.epStatus p) hi lo = rfld s (Reg.epStatus p) hi lo := by
  by_cases h : linkState s p = st
  · rw [setLink, if_pos h]
  · rw [rfld, reg_setLink_changed w hp h, fld_putFld_out _ _ (by omega) (by omega) (.inr hl) hh, rfld]

theorem rbit_setLink (w : s.regs.wf = true) (hp : p < 8) (st : Nat) {i : Nat} (hi : 2 < i) :
    rbit (setLink p st s) (Reg.epStatus p) i = rbit s (Reg.epStatus p) i := by
  by_cases h : linkState s p = st
  · rw [setLink, if_pos h]
  · rw [rbit, reg_setLink_changed w hp h, bit_putFld_out _ _ (by omega) (by omega) (.inr hi), rbit]

@[simp] theorem setLink_slots (p st : Nat) (s : State) : (setLink p st s).slots = s.slots := by
  unfold setLink
  split <;> simp

@[simp] theorem setLink_ports (p st : Nat) (s : State) : (setLink p st s).ports = s.ports := by
  unfold setLink
  split <;> simp

@[simp] theorem portAt_setLink (p st : Nat) (s : State) (k : Nat) : portAt (setLink p st s) k = portAt s k := by
  simp [portAt]

/-! ## Vector 0 after an operation (R358, R445) -/

theorem withDim_cases (f : State → State) (s : State) : withDim f s = f s ∨ withDim f s = raiseVec 0 (f s) := by
  unfold withDim noteState
  dsimp only
  split
  · exact .inr rfl
  · exact .inl rfl

theorem withDim_of_id {f : State → State} (h : f s = s) : withDim f s = s := by
  unfold withDim noteState
  simp [h]

theorem withDim_regs {f : State → State} (w : (f s).regs.wf = true) :
    (withDim f s).regs.wf = true ∧ ∀ a, a ≠ Reg.msixPba → reg (withDim f s) a = reg (f s) a := by
  rcases withDim_cases f s with h | h <;> rw [h]
  · exact ⟨w, fun _ _ => rfl⟩
  · exact raiseVec_regs w 0

@[simp] theorem withDim_slots (f : State → State) (s : State) : (withDim f s).slots = (f s).slots := by
  rcases withDim_cases f s with h | h <;> simp [h]

@[simp] theorem withDim_ports (f : State → State) (s : State) : (withDim f s).ports = (f s).ports := by
  rcases withDim_cases f s with h | h <;> simp [h]

@[simp] theorem portAt_withDim (f : State → State) (s : State) (k : Nat) : portAt (withDim f s) k = portAt (f s) k := by
  simp [portAt]

theorem LinkKept.withDim {stat : Bool} {f : State → State} (h : LinkKept stat t (f s)) : LinkKept stat t (withDim f s) := by
  obtain ⟨w, hr⟩ := withDim_regs h.wf
  refine h.ofWords w (fun a ha => hr a fun e => not_linkWord ?_ ha) (withDim_slots f s) (withDim_ports f s)
  rw [e]
  decide

/-! ## Grace (R465) -/

theorem graceBit_engineParty (hp : p < 8) : graceBit (engineParty p) = p := by
  simp [graceBit, engineParty, Nat.mod_eq_of_lt hp]

theorem LinkKept.startGrace {stat : Bool} (h : LinkKept stat s t) (q : Party) : LinkKept stat s (startGrace q t) := by
  have hg : ¬ linkWord stat Reg.frGrace := not_linkWord (by decide)
  unfold Machine.startGrace
  split
  · exact h
  · refine LinkKept.setBit ?_ hg _ _
    exact h.ofSame rfl rfl rfl

theorem startGrace_engine (w : s.regs.wf = true) (hp : p < 8) : rbit (startGrace (engineParty p) s) Reg.frGrace p = true := by
  unfold startGrace
  rw [graceBit_engineParty hp]
  split
  · assumption
  · exact rbit_setBit_same w _ _ (by omega)

/-! ## The departure (R331) -/

/-- A departure: the slot of the port rests, BOUND is cleared, the port has no slot, and grace runs. -/
theorem depart_steps (w : s.regs.wf = true) (r : RunningInRange s) (hp : p < 8) :
    ∃ u, LinkKept false s u ∧
      LinkKept false (modPort p (fun q => { q with slot := none, drvBase := [], drvEvs := [], overs := 0, ceils := [] })
        (setBit (Reg.epStatus p) 4 false u)) (depart p s) ∧
      rbit (depart p s) Reg.frGrace p = true := by
  unfold depart
  extract_lets s1 s2 s3
  have h := LinkKept.refl (stat := false) w r
  have h1 : LinkKept false s s1 := by
    unfold s1
    split
    · exact ((((h.showBound p false).setParked _ true).flushLines _).restReck false _).heatDepart _
    · exact h
  have hu := (h1.loopsDepart p).storeLinkLost p
  have w3 : s3.regs.wf = true := by
    rw [show s3.regs = s2.regs from modPort_regs p _ s2]
    exact setBit_wf hu.wf _ _ _
  have r3 : RunningInRange s3 := hu.range.of_slots ((modPort_slots p _ s2).trans (setBit_slots _ _ _ _))
  have h4 : LinkKept false s3 (match (portAt s p).slot with
      | some n => showLoad n s3
      | none => s3) := by
    split
    · exact (LinkKept.refl w3 r3).showLoad _
    · exact LinkKept.refl w3 r3
  exact ⟨_, hu, h4.startGrace _, startGrace_engine h4.wf hp⟩

theorem depart_outcome (w : s.regs.wf = true) (r : RunningInRange s) (hp : p < 8) :
    (depart p s).regs.wf = true ∧ RunningInRange (depart p s) ∧
    reg (depart p s) (Reg.epStatus p) = putFld (reg s (Reg.epStatus p)) 4 4 0 ∧
    (∀ a, linkWord false a → a ≠ Reg.epStatus p → reg (depart p s) a = reg s a) ∧
    (portAt (depart p s) p).link = { (portAt s p).link with slot := none, drvBase := [], overs := 0 } ∧
    rbit (depart p s) Reg.frGrace p = true := by
  obtain ⟨u, hu, ht, hg⟩ := depart_steps w r hp
  refine ⟨ht.wf, ht.range, ?_, fun a ha hne => ?_, ?_, hg⟩
  · rw [ht.word _ (linkWord_epStatus hp), reg_modPort, setBit, reg_setFld_same hu.wf, hu.word _ (linkWord_epStatus hp)]
    rfl
  · rw [ht.word a ha, reg_modPort, setBit, reg_setFld_ne hu.wf _ _ _ hne, hu.word a ha]
  · rw [ht.port, portAt_modPort_same hp, ← hu.port]
    rfl

/-! ## QUIESCE (R323) -/

/-- The part once QUIESCE has gone out on port p, before the engine of a link in Run departs. -/
def quiesceSent (p : Nat) (why : QuiesceWhy) (cause : Nat) (s : State) : State :=
  setLink p lsQuiesce (sendPkt p .quiesce (modPort p (fun q => { q with quiesce := some why, series := false, probes := 0 })
    (if lenPin s p then lenDrop p cause s else issueOff p (ts40 (soonest s p)) s)))

theorem quiesce_of_unbound (why : QuiesceWhy) (cause : Nat) (h : linkState s p = lsIdentify ∨ linkState s p = lsBind) :
    quiesce p why cause s = quiesceSent p why cause s := by
  have hr : linkState s p ≠ lsRun := by rcases h with h | h <;> rw [h] <;> decide
  have ha : ¬ (linkState s p ≠ lsIdentify ∧ linkState s p ≠ lsBind ∧ linkState s p ≠ lsRun) := by tauto
  simp only [quiesce, if_neg ha, if_pos hr, quiesceSent]

theorem quiesce_of_run {why : QuiesceWhy} (hw : why ≠ .rebind) (cause : Nat) (h : linkState s p = lsRun) :
    quiesce p why cause s = depart p (quiesceSent p why cause s) := by
  have ha : ¬ (linkState s p ≠ lsIdentify ∧ linkState s p ≠ lsBind ∧ linkState s p ≠ lsRun) := by tauto
  simp only [quiesce, if_neg ha, if_neg (not_not.2 h), if_neg hw, quiesceSent]

theorem quiesce_of_other (why : QuiesceWhy) (cause : Nat)
    (h : linkState s p ≠ lsIdentify ∧ linkState s p ≠ lsBind ∧ linkState s p ≠ lsRun) : quiesce p why cause s = s := by
  simp only [quiesce, if_pos h]

/-- Before QUIESCE goes out the light of the port is off. -/
theorem quiesce_light_kept (w : s.regs.wf = true) (r : RunningInRange s) (hp : p < 8) (cause : Nat) :
    LinkKept true s (if lenPin s p then lenDrop p cause s else issueOff p (ts40 (soonest s p)) s) := by
  have h := LinkKept.refl (stat := true) w r
  split
  · exact h.lenDrop hp cause
  · exact h.issueOff p _

theorem quiesceSent_outcome (w : s.regs.wf = true) (r : RunningInRange s) (hp : p < 8) (why : QuiesceWhy) (cause : Nat) :
    (quiesceSent p why cause s).regs.wf = true ∧ RunningInRange (quiesceSent p why cause s) ∧
    linkState (quiesceSent p why cause s) p = lsQuiesce ∧
    (portAt (quiesceSent p why cause s) p).link =
      { (portAt s p).link with quiesce := some why, series := false, probes := 0 } := by
  have h1 := quiesce_light_kept w r hp cause
  unfold quiesceSent
  generalize (if lenPin s p then lenDrop p cause s else issueOff p (ts40 (soonest s p)) s) = s1 at h1
  have h2 := (LinkKept.refl (stat := true) (s := modPort p (fun q => { q with quiesce := some why, series := false, probes := 0 }) s1)
    ((modPort_regs p _ s1).symm ▸ h1.wf) (h1.range.of_slots (modPort_slots p _ s1))).sendPkt p .quiesce
  refine ⟨(setLink_regs h2.wf _).1, h2.range.of_slots (setLink_slots p _ _), linkState_setLink h2.wf hp (by decide), ?_⟩
  rw [portAt_setLink, h2.port, portAt_modPort_same hp, ← h1.port]
  rfl

/-- A QUIESCE on a port whose LEN_n is low leaves every LEN_n. -/
theorem quiesceSent_lenStat (w : s.regs.wf = true) (r : RunningInRange s) (hp : p < 8) (why : QuiesceWhy) (cause : Nat)
    (hl : lenPin s p = false) : reg (quiesceSent p why cause s) Reg.lcLenStat = reg s Reg.lcLenStat := by
  have h1 := (LinkKept.refl (stat := false) w r).issueOff p (ts40 (soonest s p))
  unfold quiesceSent
  rw [if_neg (Bool.not_eq_true _ ▸ hl)]
  generalize issueOff p (ts40 (soonest s p)) s = s1 at h1
  have h2 := (LinkKept.refl (stat := false) (s := modPort p (fun q => { q with quiesce := some why, series := false, probes := 0 }) s1)
    ((modPort_regs p _ s1).symm ▸ h1.wf) (h1.range.of_slots (modPort_slots p _ s1))).sendPkt p .quiesce
  rw [(setLink_regs h2.wf _).2 _ (by simp only [Reg.lcLenStat, Reg.epStatus, Reg.ep]; omega)
    (by simp only [Reg.lcLenStat, Reg.msixPba]; omega), h2.word _ linkWord_lcLenStat, reg_modPort, h1.word _ linkWord_lcLenStat]

/-- QUIESCE takes effect on a link in Identify, Bind or Run. -/
theorem quiesce_outcome (w : s.regs.wf = true) (r : RunningInRange s) (hp : p < 8) {why : QuiesceWhy} (hw : why ≠ .rebind)
    (cause : Nat) (h : linkState s p = lsIdentify ∨ linkState s p = lsBind ∨ linkState s p = lsRun) :
    (quiesce p why cause s).regs.wf = true ∧ RunningInRange (quiesce p why cause s) ∧
    linkState (quiesce p why cause s) p = lsQuiesce ∧ (portAt (quiesce p why cause s) p).quiesce = some why ∧
    (portAt (quiesce p why cause s) p).series = false ∧ (portAt (quiesce p why cause s) p).probes = 0 ∧
    (portAt (quiesce p why cause s) p).lastTEnd = (portAt s p).lastTEnd ∧
    (lenPin s p = false → reg (quiesce p why cause s) Reg.lcLenStat = reg s Reg.lcLenStat) ∧
    (linkState s p = lsRun → (portAt (quiesce p why cause s) p).slot = none ∧
      rbit (quiesce p why cause s) (Reg.epStatus p) 4 = false ∧ rbit (quiesce p why cause s) Reg.frGrace p = true) := by
  obtain ⟨wq, rq, hst, hlink⟩ := quiesceSent_outcome w r hp why cause
  have hlen := quiesceSent_lenStat w r hp why cause
  by_cases hr : linkState s p = lsRun
  · rw [quiesce_of_run hw cause hr]
    generalize quiesceSent p why cause s = q at *
    obtain ⟨wd, rd, hstat, hword, hport, hg⟩ := depart_outcome wq rq hp
    rw [hlink] at hport
    refine ⟨wd, rd, ?_, congrArg PortState.quiesce hport, congrArg PortState.series hport, congrArg PortState.probes hport,
      (congrArg PortState.lastTEnd hport :), fun hl => ?_, fun _ => ⟨congrArg PortState.slot hport, ?_, hg⟩⟩
    · rw [linkState, rfld, hstat, fld_putFld_out _ _ (by omega) (by omega) (.inl (by omega)) (by omega), ← rfld]
      exact hst
    · rw [hword _ linkWord_lcLenStat (by simp only [Reg.lcLenStat, Reg.epStatus, Reg.ep]; omega), hlen hl]
    · rw [rbit, hstat, bit, putFld_bit _ _ (by omega) (by omega) (by omega)]
      rfl
  · rw [quiesce_of_unbound why cause (by tauto)]
    exact ⟨wq, rq, hst, congrArg PortState.quiesce hlink, congrArg PortState.series hlink, congrArg PortState.probes hlink,
      (congrArg PortState.lastTEnd hlink :), hlen, fun h => absurd h hr⟩

end Sys2Proof.Machine
end

section
/-! PROOFS. A laser fault of an engine (R237, R238): LEN_n falls, FAULT is latched, and the link is quiesced. -/

namespace Sys2Proof.Machine

variable {s t : State} {p : Nat}

/-- LEN_n of port p is low and its FAULT bit is set. -/
def LenFaulted (s : State) (p : Nat) : Prop := lenPin s p = false ∧ rbit s Reg.lcLenStat (16 + p) = true

theorem LenFaulted.of_word (h : LenFaulted s p) (e : reg t Reg.lcLenStat = reg s Reg.lcLenStat) : LenFaulted t p := by
  obtain ⟨hl, hf⟩ := h
  exact ⟨by rw [lenPin, rbit, e, ← rbit, ← lenPin, hl], by rw [rbit, e, ← rbit, hf]⟩

theorem LenFaulted.of_kept (h : LenFaulted s p) (k : LinkKept false s t) : LenFaulted t p := h.of_word (k.word _ linkWord_lcLenStat)

/-- Deasserting LEN_n of port q leaves the FAULT bits. -/
theorem lenDrop_fault (w : s.regs.wf = true) (r : RunningInRange s) {q : Nat} (hq : q < 8) (cause : Nat) (hp : p < 8) :
    rbit (lenDrop q cause s) Reg.lcLenStat (16 + p) = rbit s Reg.lcLenStat (16 + p) := by
  rcases lenDrop_stat w r.chans hq cause with e | ⟨-, e⟩
  · rw [rbit, e, bit_putFld_out _ _ (by omega) (by omega) (by omega), rbit]
  · rw [e]

/-- Once LEN_n of port p is deasserted it is low. -/
theorem lenDrop_pin_same (w : s.regs.wf = true) (r : RunningInRange s) (hp : p < 8) (cause : Nat) :
    lenPin (lenDrop p cause s) p = false := by
  rcases lenDrop_stat w r.chans hp cause with e | ⟨h, e⟩
  · rw [lenPin, rbit, e, bit, putFld_bit _ _ (by omega) (by omega) (by omega), if_pos (by omega)]
    exact Nat.zero_testBit _
  · rw [e, h]

/-- Deasserting a LEN_n asserts none. -/
theorem lenDrop_pin_low (w : s.regs.wf = true) (r : RunningInRange s) {q : Nat} (hq : q < 8) (cause : Nat) (hp : p < 8)
    (h : lenPin s p = false) : lenPin (lenDrop q cause s) p = false := by
  by_cases e : p = q
  · subst e
    exact lenDrop_pin_same w r hp cause
  · rcases lenDrop_stat w r.chans hq cause with e' | ⟨-, e'⟩
    · rw [lenPin, rbit, e', bit_putFld_out _ _ (by omega) (by omega) (by omega), ← rbit, ← lenPin, h]
    · rw [e', h]

/-! ## Containment off (R464) -/

theorem LinkKept.showContain {stat : Bool} (h : LinkKept stat s t) : LinkKept stat s (showContain t) :=
  h.setReg (not_linkWord (by decide)) _

theorem containSlot_off (n : Nat) (cause : ContainCause) (s : State) :
    containSlot n cause true s = s ∨
    ∃ f : SlotState → SlotState,
      containSlot n cause true s = refreshCeil n (lenDrop (portOf s n) 5 (showContain (modSlot n f s))) ∧ ∀ q, (f q).cfg = q.cfg := by
  unfold containSlot
  split
  · exact .inl rfl
  · rw [if_pos rfl]
    exact .inr ⟨_, rfl, fun _ => rfl⟩

theorem containSlot_off_kept (w : s.regs.wf = true) (r : RunningInRange s) (n : Nat) (cause : ContainCause) :
    LinkKept true s (containSlot n cause true s) := by
  have h := LinkKept.refl (stat := true) w r
  rcases containSlot_off n cause s with e | ⟨f, e, hf⟩ <;> rw [e]
  · exact h
  · exact ((h.modSlot n f hf).showContain.lenDrop (r.port_lt n) 5).refreshCeil n

theorem LenFaulted.containSlot (h : LenFaulted s p) (w : s.regs.wf = true) (r : RunningInRange s) (hp : p < 8) (n : Nat)
    (cause : ContainCause) : LenFaulted (containSlot n cause true s) p := by
  rcases containSlot_off n cause s with e | ⟨f, e, hf⟩ <;> rw [e]
  · exact h
  · have k := ((LinkKept.refl (stat := false) w r).modSlot n f hf).showContain
    have hq := r.port_lt n
    obtain ⟨hl, hb⟩ := h.of_kept k
    have kd := (LinkKept.refl (stat := true) k.wf k.range).lenDrop hq 5
    exact LenFaulted.of_kept ⟨lenDrop_pin_low k.wf k.range hq 5 hp hl, (lenDrop_fault k.wf k.range hq 5 hp).trans hb⟩
      ((LinkKept.refl kd.wf kd.range).refreshCeil n)

/-! ## The fault (R238) -/

theorem laserFault_outcome (w : s.regs.wf = true) (r : RunningInRange s) (hp : p < 8) (code : Nat) {chans : List Nat}
    (hc : ∀ k ∈ chans, k < 96) :
    LinkKept true s (laserFault p code chans s) ∧ LenFaulted (laserFault p code chans s) p ∧
    rbit (laserFault p code chans s) Reg.frGrace p = true := by
  have hstat : ¬ linkWord true Reg.lcLenStat := by simp [linkWord, Reg.lcLenStat]
  unfold laserFault
  extract_lets s1 s2 s3 s4
  have hs : LinkKept true s (setBit Reg.lcLenStat (16 + p) true s) := (LinkKept.refl w r).setBit hstat _ _
  have k1 : LinkKept false (setBit Reg.lcLenStat (16 + p) true s) s1 :=
    (LinkKept.refl hs.wf hs.range).forAll _ fun k hk u hu => by
      have := hc k hk
      exact hu.setBit (not_linkWord (by simp only [Reg.lcFlags, Reg.lc]; omega)) _ _
  have hf1 : rbit s1 Reg.lcLenStat (16 + p) = true := by
    rw [rbit, k1.word _ linkWord_lcLenStat]
    exact rbit_setBit_same w _ _ (by omega)
  have kl := k1.logEvent .LASER_FAULT clsEngine p code
  have hfl : rbit (logEvent .LASER_FAULT clsEngine p code s1) Reg.lcLenStat (16 + p) = true := by
    rw [rbit, kl.word _ linkWord_lcLenStat, ← k1.word _ linkWord_lcLenStat]
    exact hf1
  have k2 : LinkKept true (logEvent .LASER_FAULT clsEngine p code s1) s2 := (LinkKept.refl kl.wf kl.range).lenDrop hp code
  have h2 : LenFaulted s2 p := ⟨lenDrop_pin_same kl.wf kl.range hp code, (lenDrop_fault kl.wf kl.range hp code hp).trans hfl⟩
  have k3 : LinkKept false s2 s3 := (LinkKept.refl k2.wf k2.range).modPort p _
  have h3 := h2.of_kept k3
  have h4 : LinkKept true s3 s4 ∧ LenFaulted s4 p := by
    unfold s4
    split
    · exact ⟨containSlot_off_kept k3.wf k3.range _ _, h3.containSlot k3.wf k3.range hp _ _⟩
    · exact ⟨LinkKept.refl k3.wf k3.range, h3⟩
  obtain ⟨k4, h4⟩ := h4
  have k := ((hs.trans kl.weaken).trans k2).trans (k3.weaken.trans k4)
  exact ⟨k.startGrace _, h4.of_kept ((LinkKept.refl k4.wf k4.range).startGrace _), startGrace_engine k4.wf hp⟩

/-- The link of port p is quiesced for a laser fault: LEN_n low with FAULT latched, no slot bound, and grace runs. -/
structure LaserStopped (s : State) (p : Nat) : Prop where
  wf : s.regs.wf = true
  range : RunningInRange s
  state : linkState s p = lsQuiesce
  why : (portAt s p).quiesce = some .engineReset
  slot : (portAt s p).slot = none
  len : LenFaulted s p
  grace : rbit s Reg.frGrace p = true

theorem LaserStopped.withDim {f : State → State} (h : LaserStopped (f s) p) (hp : p < 8) : LaserStopped (withDim f s) p := by
  have k := (LinkKept.refl (stat := false) h.wf h.range).withDim
  obtain ⟨-, hr⟩ := withDim_regs h.wf
  exact ⟨k.wf, k.range, (k.linkState hp).trans h.state, by rw [portAt_withDim, h.why], by rw [portAt_withDim, h.slot],
    h.len.of_kept k, by rw [rbit, hr _ (by decide), ← rbit, h.grace]⟩

theorem engineLaserFault_of_run (w : s.regs.wf = true) (r : RunningInRange s) (hp : p < 8) (code : Nat) {chans : List Nat}
    (hc : ∀ k ∈ chans, k < 96) (h : linkState s p = lsRun) :
    LaserStopped (engineLaserFault p code chans s) p ∧
    (portAt (engineLaserFault p code chans s) p).lastTEnd = (portAt s p).lastTEnd := by
  obtain ⟨k, hl, -⟩ := laserFault_outcome w r hp code hc
  unfold engineLaserFault
  generalize laserFault p code chans s = u at *
  have hu : linkState u p = lsRun := (k.linkState hp).trans h
  dsimp only
  rw [if_pos hu]
  obtain ⟨wq, rq, hst, hwhy, -, -, hend, hlen, hrun⟩ := quiesce_outcome k.wf k.range hp (why := .engineReset) nofun code (.inr (.inr hu))
  obtain ⟨hslot, -, hg⟩ := hrun hu
  exact ⟨⟨wq, rq, hst, hwhy, hslot, hl.of_word (hlen hl.1), hg⟩, hend.trans (congrArg PortState.lastTEnd (k.port p) :)⟩

theorem engineLaserFault_of_stopped (h : LaserStopped s p) (hp : p < 8) (code : Nat) {chans : List Nat} (hc : ∀ k ∈ chans, k < 96) :
    LaserStopped (engineLaserFault p code chans s) p ∧
    (portAt (engineLaserFault p code chans s) p).lastTEnd = (portAt s p).lastTEnd := by
  obtain ⟨k, hl, hg⟩ := laserFault_outcome h.wf h.range hp code hc
  unfold engineLaserFault
  generalize laserFault p code chans s = u at *
  have hu : linkState u p = lsQuiesce := (k.linkState hp).trans h.state
  have hport := k.port p
  dsimp only
  rw [if_neg (by rw [hu]; decide)]
  exact ⟨⟨k.wf, k.range, hu, (congrArg PortState.quiesce hport :).trans h.why, (congrArg PortState.slot hport :).trans h.slot,
    hl, hg⟩, (congrArg PortState.lastTEnd hport :)⟩

/-- The channels marked for a fault exist. -/
theorem chansOf_lt (r : RunningInRange s) (n : Nat) (m : BitVec 24) : ∀ k ∈ chansOf s n m, k < 96 := by
  intro k hk
  unfold chansOf at hk
  split at hk
  · next c hc =>
    obtain ⟨e, he, rfl⟩ := List.mem_map.1 hk
    exact r.chans n c e hc (List.mem_of_mem_filter he)
  · exact absurd hk List.not_mem_nil

theorem faultChans_lt (r : RunningInRange s) (p : Nat) (m : BitVec 24) :
    ∀ k ∈ ((slotOnPort s p).map fun n => chansOf s n m).getD [], k < 96 := by
  cases slotOnPort s p with
  | none => exact fun k hk => absurd hk List.not_mem_nil
  | some n => exact chansOf_lt r n m

theorem senseFault_of_run (w : s.regs.wf = true) (r : RunningInRange s) (hp : p < 8) (code : Nat) (m : BitVec 24)
    (h : linkState s p = lsRun) :
    LaserStopped (senseFault p code m s) p ∧ (portAt (senseFault p code m s) p).lastTEnd = (portAt s p).lastTEnd := by
  obtain ⟨hs, he⟩ := engineLaserFault_of_run w r hp code (faultChans_lt r p m) h
  exact ⟨LaserStopped.withDim hs hp, by rw [senseFault, portAt_withDim, he]⟩

theorem senseFault_of_stopped (h : LaserStopped s p) (hp : p < 8) (code : Nat) (m : BitVec 24) :
    LaserStopped (senseFault p code m s) p ∧ (portAt (senseFault p code m s) p).lastTEnd = (portAt s p).lastTEnd := by
  obtain ⟨hs, he⟩ := engineLaserFault_of_stopped h hp code (faultChans_lt h.range p m)
  exact ⟨LaserStopped.withDim hs hp, by rw [senseFault, portAt_withDim, he]⟩

end Sys2Proof.Machine
end

section
/-! PROOFS. The answer to QUIESCE, and RETRY: the hold of Detect and a binding that is tried again (R309, R318, R323). -/

namespace Sys2Proof.Machine

variable {s t : State} {p : Nat}

/-! ## A link returns to Detect or to Identify (R308, R313) -/

theorem portAt_enterDetect (hp : p < 8) (s : State) : (portAt (enterDetect p s) p).slot = (portAt s p).slot := by
  have h : portAt (enterDetect p s) p = portAt (modPort p _ s) p := portAt_setLink p _ _ p
  rw [h, portAt_modPort_same hp]

theorem enterDetect_state (w : s.regs.wf = true) (hp : p < 8) :
    linkState (enterDetect p s) p = lsDetect ∧ rbit (enterDetect p s) (Reg.epStatus p) 4 = rbit s (Reg.epStatus p) 4 := by
  unfold enterDetect
  generalize hu : modPort p _ s = u
  have hr : u.regs = s.regs := hu ▸ modPort_regs p _ s
  have wu : u.regs.wf = true := hr ▸ w
  refine ⟨linkState_setLink (setFld_wf wu _ _ _ _) hp (by decide), ?_⟩
  rw [rbit_setLink (setFld_wf wu _ _ _ _) hp _ (by omega), rbit_setFld_out wu _ _ (by omega) (by omega) (.inl (by omega)),
    rbit, reg, hr, rbit, reg]

theorem LinkKept.descRequest {stat : Bool} (h : LinkKept stat s t) (p addr len : Nat) (data : Option (List Byte)) :
    LinkKept stat s (descRequest p addr len data t) := by
  unfold Machine.descRequest
  dsimp only
  split
  · exact h
  · split
    · exact (h.modPort p _).sendPkt p _
    · exact (h.modPort p _).sendPkt p _

/-- What a port forgets when Identify begins: the reads, the binding and, unless it was beating, its heartbeats. -/
def freshIdentity (runs : Bool) (now : LinkTime) (q : PortState) : PortState :=
  { q with
    identNext := 0, identified := false, rejected := false, pageA := [], pageB := [], quiesce := none, bind := 0
    misses := if runs then q.misses else 0, beat := if runs then q.beat else now, rxErr := if runs then q.rxErr else 0 }

/-- The state in which Identify sends its first read. -/
def identityCleared (p : Nat) (s : State) : State :=
  setLink p lsIdentify (modPort p (freshIdentity (beating s p) s.linkTime)
    { s with regs := s.regs.clearRange (Reg.epDesc p 0) (Reg.epDesc p 0 + 0x4000) })

theorem enterIdentify_eq (p : Nat) (s : State) : enterIdentify p s = (identifyRead p (identityCleared p s)).1 := rfl

/-- Identify begins by reading the header of the descriptor (R313). -/
theorem identifyRead_first (h : (portAt s p).identNext = 0) : (identifyRead p s).1 = descRequest p 0 64 none s := by
  simp [identifyRead, h]

theorem identityCleared_port (hp : p < 8) (s : State) :
    portAt (identityCleared p s) p = freshIdentity (beating s p) s.linkTime (portAt s p) :=
  (portAt_setLink p _ _ p).trans (portAt_modPort_same hp _ _)

theorem enterIdentify_outcome (w : s.regs.wf = true) (r : RunningInRange s) (hp : p < 8) :
    linkState (enterIdentify p s) p = lsIdentify ∧
    rbit (enterIdentify p s) (Reg.epStatus p) 4 = rbit s (Reg.epStatus p) 4 ∧
    (portAt (enterIdentify p s) p).slot = (portAt s p).slot ∧ (portAt (enterIdentify p s) p).identified = false := by
  have hport := identityCleared_port hp s
  have hword : (s.regs.clearRange (Reg.epDesc p 0) (Reg.epDesc p 0 + 0x4000)).get (Reg.epStatus p) = reg s (Reg.epStatus p) := by
    refine (SMap.get_clearRange w _ _ _).trans (if_neg ?_)
    simp only [Reg.epStatus, Reg.epDesc]
    omega
  generalize hu : modPort p (freshIdentity (beating s p) s.linkTime)
    { s with regs := s.regs.clearRange (Reg.epDesc p 0) (Reg.epDesc p 0 + 0x4000) } = u
  have e : identityCleared p s = setLink p lsIdentify u := congrArg (setLink p lsIdentify) hu
  have hr : u.regs = s.regs.clearRange (Reg.epDesc p 0) (Reg.epDesc p 0 + 0x4000) := hu ▸ modPort_regs p _ _
  have wu : u.regs.wf = true := hr ▸ SMap.wf_clearRange _ _ w
  have hw : reg u (Reg.epStatus p) = reg s (Reg.epStatus p) := by rw [reg, hr, hword]
  have r2 : RunningInRange (setLink p lsIdentify u) :=
    r.of_slots ((setLink_slots p _ u).trans (hu ▸ modPort_slots p _ _))
  have k := (LinkKept.refl (stat := false) (setLink_regs wu _).1 r2).descRequest p 0 64 none
  rw [enterIdentify_eq, identifyRead_first (by rw [hport]; rfl), e]
  rw [e] at hport
  refine ⟨(k.linkState hp).trans (linkState_setLink wu hp (by decide)), ?_, ?_, ?_⟩
  · rw [rbit, k.word _ (linkWord_epStatus hp), ← rbit, rbit_setLink wu hp _ (by omega), rbit, hw, rbit]
  · exact (congrArg PortState.slot (k.port p) :).trans (congrArg PortState.slot hport :)
  · exact (congrArg PortState.identified (k.port p) :).trans (congrArg PortState.identified hport :)

/-- The answer to QUIESCE, before the link takes its next state: the port has no slot. -/
theorem quiesced_steps (w : s.regs.wf = true) (r : RunningInRange s) (hp : p < 8) :
    ∃ u, u.regs.wf = true ∧ RunningInRange u ∧ rbit u (Reg.epStatus p) 4 = false ∧ (portAt u p).slot = none ∧
      quiesced p s = match (portAt s p).quiesce with
        | some .stop | some .engineReset => enterDetect p u
        | _ => enterIdentify p u := by
  unfold quiesced
  extract_lets q s0 s1
  have hb := (LinkKept.refl (stat := false) w r).showBound p false
  have wm : (modPort p (fun q => { q with slot := none, quiesce := none }) (showBound p false s)).regs.wf = true := by
    rw [modPort_regs]
    exact hb.wf
  have r0 : RunningInRange s0 := hb.range.of_slots ((setBit_slots _ _ _ _).trans (modPort_slots _ _ _))
  have k : LinkKept false s0 s1 := by
    unfold s1
    split
    · exact (LinkKept.refl (setBit_wf wm _ _ _) r0).showLoad _
    · exact LinkKept.refl (setBit_wf wm _ _ _) r0
  refine ⟨s1, k.wf, k.range, ?_, ?_, rfl⟩
  · rw [rbit, k.word _ (linkWord_epStatus hp)]
    exact rbit_setBit_same wm _ _ (by omega)
  · refine (congrArg PortState.slot (k.port p) :).trans ?_
    rw [show portAt s0 p = portAt (modPort p _ (showBound p false s)) p from portAt_setBit _ _ _ _ _, portAt_modPort_same hp]
    rfl

theorem quiesced_to_detect (w : s.regs.wf = true) (r : RunningInRange s) (hp : p < 8)
    (h : (portAt s p).quiesce = some .engineReset ∨ (portAt s p).quiesce = some .stop) :
    linkState (quiesced p s) p = lsDetect ∧ (portAt (quiesced p s) p).slot = none ∧
    rbit (quiesced p s) (Reg.epStatus p) 4 = false := by
  obtain ⟨u, wu, -, hb, hs, e⟩ := quiesced_steps w r hp
  have e : quiesced p s = enterDetect p u := by rcases h with h | h <;> rw [e, h]
  obtain ⟨hst, h4⟩ := enterDetect_state wu hp
  rw [e]
  exact ⟨hst, (portAt_enterDetect hp u).trans hs, h4.trans hb⟩

theorem quiesced_to_identify (w : s.regs.wf = true) (r : RunningInRange s) (hp : p < 8)
    (hr : (portAt s p).quiesce ≠ some .engineReset) (hn : (portAt s p).quiesce ≠ some .stop) :
    linkState (quiesced p s) p = lsIdentify ∧ (portAt (quiesced p s) p).slot = none ∧
    (portAt (quiesced p s) p).identified = false ∧ rbit (quiesced p s) (Reg.epStatus p) 4 = false := by
  obtain ⟨u, wu, ru, hb, hs, e⟩ := quiesced_steps w r hp
  have e : quiesced p s = enterIdentify p u := by
    rw [e]
    split
    · next h => exact absurd h hn
    · next h => exact absurd h hr
    · rfl
  obtain ⟨hst, h4, hslot, hid⟩ := enterIdentify_outcome wu ru hp
  rw [e]
  exact ⟨hst, hslot.trans hs, hid, h4.trans hb⟩

theorem quiesced_slots (p : Nat) (s : State) : (quiesced p s).slots = s.slots :=
  (keeps_quiesced (List.Subset.refl _) p (Keeps.refl _ s)).same (k := .slots) (by decide)

/-- Both answers to QUIESCE are one. -/
theorem exec_quiesce_answer {p : Port} {i : Instr} {reason : Byte} (h : i = .quiesceAck p ∨ (i = .leave p reason ∧ upNow s = true))
    (hs : linkState s p.val = lsQuiesce) : exec i s = .next (quiesced p.val s) := by
  rcases h with rfl | ⟨rfl, hu⟩
  · exact congrArg Host.Outcome.next (if_pos hs)
  · exact congrArg Host.Outcome.next ((whileUp_up hu _).trans (if_pos hs))

/-! ## The hold of Detect (R309) -/

theorem endHold_held (h : rbit s (Reg.epStatus p) 3 = true) :
    endHold p s = setBit (Reg.epStatus p) 3 false (modPort p (fun q => { q with trainFails := 0 }) s) := if_pos h

theorem endHold_free (h : rbit s (Reg.epStatus p) 3 = false) : endHold p s = s := if_neg (by simp [h])

/-- The end of a hold clears HOLD, and with it the count of failures; nothing else of the registers or the ports changes. -/
theorem endHold_outcome (w : s.regs.wf = true) (hp : p < 8) :
    (endHold p s).regs.wf = true ∧ (∀ a, a ≠ Reg.epStatus p → reg (endHold p s) a = reg s a) ∧
    rbit (endHold p s) (Reg.epStatus p) 3 = false ∧ linkState (endHold p s) p = linkState s p ∧
    (rbit s (Reg.epStatus p) 3 = true → (portAt (endHold p s) p).trainFails = 0) ∧
    (∃ k, portAt (endHold p s) p = { portAt s p with trainFails := k }) ∧
    (∀ k, k ≠ p → portAt (endHold p s) k = portAt s k) ∧ (endHold p s).slots = s.slots := by
  cases h : rbit s (Reg.epStatus p) 3 with
  | false =>
    rw [endHold_free h]
    exact ⟨w, fun _ _ => rfl, h, rfl, nofun, ⟨_, rfl⟩, fun _ _ => rfl, rfl⟩
  | true =>
    rw [endHold_held h]
    have wm : (modPort p (fun q => { q with trainFails := 0 }) s).regs.wf = true := by rw [modPort_regs]; exact w
    have hport : portAt (setBit (Reg.epStatus p) 3 false (modPort p (fun q => { q with trainFails := 0 }) s)) p =
        { portAt s p with trainFails := 0 } := by
      rw [portAt_setBit, portAt_modPort_same hp]
    refine ⟨setBit_wf wm _ _ _, fun a ha => ?_, rbit_setBit_same wm _ _ (by omega), ?_, fun _ => ?_, ⟨0, hport⟩,
      fun k hk => ?_, by simp⟩
    · rw [setBit, reg_setFld_ne wm _ _ _ ha, reg_modPort]
    · rw [linkState, setBit, rfld_setFld_out wm _ _ (by omega) (by omega) (.inl (by omega)) (by omega), rfld, reg_modPort, ← rfld,
        ← linkState]
    · rw [hport]
    · rw [portAt_setBit, portAt_modPort_ne hk]

/-! ## A binding is tried (R318) -/

theorem portAt_transmit_ne {k : Nat} (hk : k ≠ p) (fuel : Nat) : ∀ s : State, portAt (transmit p fuel s) k = portAt s k := by
  induction fuel with
  | zero => exact fun _ => rfl
  | succ n ih =>
    intro s
    unfold transmit
    dsimp only
    split
    · rfl
    · split
      · rfl
      · split
        · rw [ih, portAt_emit, portAt_modPort_ne hk]
        · rw [ih, portAt_emit, portAt_modPort_ne hk]

theorem portAt_sendPkt_ne {k : Nat} (hk : k ≠ p) (x : LinkPkt) (s : State) : portAt (sendPkt p x s) k = portAt s k := by
  rw [sendPkt, portAt_transmit_ne hk, portAt_modPort_ne hk]

theorem sendPkt_regs (p : Nat) (x : LinkPkt) (s : State) : (sendPkt p x s).regs = s.regs :=
  (keeps_sendPkt (List.Subset.refl _) p x (Keeps.refl _ s)).same (k := .regs) (by decide)

theorem reg_sendPkt (p : Nat) (x : LinkPkt) (s : State) (a : Nat) : reg (sendPkt p x s) a = reg s a := by
  rw [reg, sendPkt_regs, reg]

theorem Status.code_lt (c : Status) : c.code < 65536 := by
  cases c <;> decide

/-- What a binding checks of the engine is in the descriptor's copy. -/
theorem bindStatus_congr (h : ∀ w, reg t (Reg.epDesc p w) = reg s (Reg.epDesc p w)) (c : SlotCast) :
    bindStatus t p c = bindStatus s p c := by
  have hd : ∀ o n, descAt t p o n = descAt s p o n := fun o n => by simp only [descAt, h]
  simp only [bindStatus, descWhole, descBytes_, descTablesEnd, descTemp, descAct, descPd, descAxis, axisFnom, hd]
  rfl

theorem BindTried.of_same {u : State} {c : SlotCast} (h : BindTried u t p c)
    (he : ∀ a, 0xB00000 ≤ a → a ≠ Reg.epStatus p → reg u a = reg s a) : BindTried s t p c := by
  have hd : bindStatus u p c = bindStatus s p c := bindStatus_congr (fun w =>
    he _ (by simp only [Reg.epDesc, Reg.ep]; omega) (by simp only [Reg.epDesc, Reg.epStatus]; omega)) c
  have hb : rfld u (Reg.epBindId p) 15 0 = rfld s (Reg.epBindId p) 15 0 := by
    rw [rfld, he _ (by simp only [Reg.epBindId, Reg.ep]; omega) (by simp only [Reg.epBindId, Reg.epStatus]; omega), rfld]
  rwa [BindTried, hd, hb, ← BindTried] at h

end Sys2Proof.Machine
end

section
/-! PROOFS. A binding is tried: BIND goes out, or the binding is rejected (R318). -/

namespace Sys2Proof.Machine

variable {s t : State} {p n : Nat} {c : SlotCast}

theorem cfgOf_of_slots (h : t.slots = s.slots) (n : Nat) : cfgOf t n = cfgOf s n := by
  rw [cfgOf, slotAt, h, cfgOf, slotAt]

theorem slotOnPort_of_slots (h : t.slots = s.slots) (p : Nat) : slotOnPort t p = slotOnPort s p := by
  simp only [slotOnPort, cfgOf_of_slots h]

theorem portAt_logEvent (c : Status) (cls id d : Nat) (s : State) (k : Nat) : portAt (logEvent c cls id d s) k = portAt s k := by
  rw [portAt, (keeps_logEvent (List.Subset.refl _) c cls id d (Keeps.refl _ s)).same (k := .ports) (by decide), portAt]

/-! ## The port's words stay where only its STATUS is written -/

theorem epFlags_ne_epStatus (p : Nat) : Reg.epFlags p ≠ Reg.epStatus p := by simp [Reg.epFlags, Reg.epStatus]
theorem epBindId_ne_epStatus (p : Nat) : Reg.epBindId p ≠ Reg.epStatus p := by simp [Reg.epBindId, Reg.epStatus]
theorem epBindId_ne_epFlags (p : Nat) : Reg.epBindId p ≠ Reg.epFlags p := by simp [Reg.epBindId, Reg.epFlags]

theorem ep_ne_epVec (o p : Nat) : Reg.ep p + o ≠ Reg.msixPba + 4 * ((24 + p) / 32) := by
  simp only [Reg.ep, Reg.msixPba]
  omega

theorem not_logArea_ep {o : Nat} (hp : p < 8) (ho : o < 0x10000) : ¬ logArea (Reg.ep p + o) := by
  simp only [logArea, Reg.ep, Reg.msixPba, Reg.frLogStat, Reg.frFault, Reg.frLog]
  omega

/-- The state in which a binding's status is shown. -/
def bindShown (p code : Nat) (s : State) : State := setFld (Reg.epStatus p) 31 16 code (setLink p lsBind s)

theorem bindShown_regs (w : s.regs.wf = true) (hp : p < 8) {code : Nat} (hc : code < 65536) :
    (bindShown p code s).regs.wf = true ∧ linkState (bindShown p code s) p = lsBind ∧
    rfld (bindShown p code s) (Reg.epStatus p) 31 16 = code ∧
    (∀ i, 2 < i → i < 16 → rbit (bindShown p code s) (Reg.epStatus p) i = rbit s (Reg.epStatus p) i) ∧
    ∀ o, o < 0x10000 → o ≠ 4 → reg (bindShown p code s) (Reg.ep p + o) = reg s (Reg.ep p + o) := by
  obtain ⟨w1, h1⟩ := setLink_regs (p := p) w lsBind
  refine ⟨setFld_wf w1 _ _ _ _, ?_, ?_, fun i hi hi' => ?_, fun o _ ho => ?_⟩
  · rw [linkState, bindShown, rfld_setFld_out w1 _ _ (by omega) (by omega) (.inl (by omega)) (by omega), ← linkState,
      linkState_setLink w hp (by decide)]
  · rw [bindShown, rfld_setFld_same w1 _ _ (by omega) (by omega)]
    exact Nat.mod_eq_of_lt hc
  · rw [bindShown, rbit_setFld_out w1 _ _ (by omega) (by omega) (.inl hi'), rbit_setLink w hp _ hi]
  · have hs : Reg.ep p + o ≠ Reg.epStatus p := by rw [Reg.epStatus]; omega
    rw [bindShown, reg_setFld_ne w1 _ _ _ hs, h1 _ hs (ep_ne_epVec o p)]

theorem portAt_bindShown (p code : Nat) (s : State) (k : Nat) : portAt (bindShown p code s) k = portAt s k := by
  rw [bindShown, portAt_setFld, portAt_setLink]

/-- The BIND_ID after the one shown: 65535 is followed by 1. -/
def nextBindId (s : State) (p : Nat) : Nat := if rfld s (Reg.epBindId p) 15 0 = 65535 then 1 else rfld s (Reg.epBindId p) 15 0 + 1

theorem nextBindId_lt (s : State) (p : Nat) : nextBindId s p < 65536 := by
  have h : rfld s (Reg.epBindId p) 15 0 < 65536 := fld_lt _ 15 0
  unfold nextBindId
  split <;> omega

/-- The state in which a rejected binding is flagged, before it is logged. -/
def bindRejected (p code : Nat) (s : State) : State :=
  epFlag p 1 (setLink p lsIdentify (modPort p (fun q => { q with rejected := true }) (bindShown p code s)))

section Try
variable (hs : slotOnPort s p = some n) (hc : cfgOf s n = some c) (hl : linkState s p = lsIdentify)
  (hi : (portAt s p).identified = true) (hr : (portAt s p).rejected = false)
include hs hc hl hi hr

theorem tryBind_of_ok (h : bindStatus s p c = .OK) : tryBind p s =
    sendPkt p (.bind (BitVec.ofNat 16 (nextBindId s p)) n c.slot.cls)
      (setFld (Reg.epBindId p) 15 0 (nextBindId s p) (bindShown p Status.OK.code s)) := by
  simp [tryBind, hs, hc, hl, hi, hr, h, nextBindId, bindShown]

theorem tryBind_of_rejected (h : bindStatus s p c ≠ .OK) : tryBind p s =
    logEvent .BIND_REJECT clsEngine p (bindStatus s p c).code (bindRejected p (bindStatus s p c).code s) := by
  simp [tryBind, hs, hc, hl, hi, hr, h, bindRejected, bindShown]

end Try

/-- What a try to bind leaves beside its result. -/
structure BindFrame (s t : State) (p : Nat) : Prop where
  bits : ∀ i, 2 < i → i < 16 → rbit t (Reg.epStatus p) i = rbit s (Reg.epStatus p) i
  ports : ∀ k, k ≠ p → portAt t k = portAt s k

theorem bind_sent (w : s.regs.wf = true) (hp : p < 8) (h : bindStatus s p c = .OK) (pkt : LinkPkt)
    (ht : t = sendPkt p pkt (setFld (Reg.epBindId p) 15 0 (nextBindId s p) (bindShown p Status.OK.code s))) :
    BindTried s t p c ∧ BindFrame s t p := by
  subst ht
  obtain ⟨w1, hst, hcode, hbits, -⟩ := bindShown_regs w hp (Status.code_lt .OK)
  have hword := reg_setFld_ne w1 15 0 (nextBindId s p) (epBindId_ne_epStatus p).symm
  refine ⟨?_, ⟨fun i hi hi' => ?_, fun k hk => ?_⟩⟩
  · rw [BindTried, if_pos h]
    refine ⟨?_, ?_, ?_⟩
    · rw [linkState, rfld, reg_sendPkt, hword, ← rfld, ← linkState, hst]
    · rw [rfld, reg_sendPkt, hword, ← rfld, hcode]
    · rw [rfld, reg_sendPkt, ← rfld, rfld_setFld_same w1 _ _ (by omega) (by omega)]
      exact Nat.mod_eq_of_lt (nextBindId_lt s p)
  · rw [rbit, reg_sendPkt, hword, ← rbit, hbits i hi hi']
  · rw [portAt_sendPkt_ne hk, portAt_setFld, portAt_bindShown]

theorem bindRejected_regs (w : s.regs.wf = true) (hp : p < 8) {code : Nat} (hc : code < 65536) :
    (bindRejected p code s).regs.wf = true ∧ linkState (bindRejected p code s) p = lsIdentify ∧
    rfld (bindRejected p code s) (Reg.epStatus p) 31 16 = code ∧ rbit (bindRejected p code s) (Reg.epFlags p) 1 = true ∧
    (∀ i, 2 < i → i < 16 → rbit (bindRejected p code s) (Reg.epStatus p) i = rbit s (Reg.epStatus p) i) ∧
    reg (bindRejected p code s) (Reg.epBindId p) = reg s (Reg.epBindId p) := by
  obtain ⟨w1, -, hcode, hbits, hother⟩ := bindShown_regs w hp hc
  unfold bindRejected epFlag
  generalize hu : modPort p (fun q => { q with rejected := true }) (bindShown p code s) = u
  have hr : u.regs = (bindShown p code s).regs := hu ▸ modPort_regs p _ _
  have wu : u.regs.wf = true := hr ▸ w1
  obtain ⟨w2, h2⟩ := setLink_regs (p := p) wu lsIdentify
  have hword : reg (setBit (Reg.epFlags p) 1 true (setLink p lsIdentify u)) (Reg.epStatus p) =
    reg (setLink p lsIdentify u) (Reg.epStatus p) := reg_setFld_ne w2 _ _ _ (epFlags_ne_epStatus p).symm
  refine ⟨setBit_wf w2 _ _ _, ?_, ?_, rbit_setBit_same w2 _ _ (by omega), fun i hi hi' => ?_, ?_⟩
  · rw [linkState, rfld, hword, ← rfld, ← linkState, linkState_setLink wu hp (by decide)]
  · rw [rfld, hword, ← rfld, rfld_setLink wu hp _ (by omega) (by omega), rfld, reg, hr, ← reg, ← rfld, hcode]
  · rw [rbit, hword, ← rbit, rbit_setLink wu hp _ hi, rbit, reg, hr, ← reg, ← rbit, hbits i hi hi']
  · rw [setBit, reg_setFld_ne w2 _ _ _ (epBindId_ne_epFlags p), h2 _ (epBindId_ne_epStatus p) (ep_ne_epVec _ p), reg, hr, ← reg]
    exact hother 0x20 (by omega) (by omega)

theorem portAt_bindRejected (hp : p < 8) (code : Nat) (s : State) :
    portAt (bindRejected p code s) p = { portAt s p with rejected := true } := by
  rw [bindRejected, epFlag, portAt_setBit, portAt_setLink, portAt_modPort_same hp, portAt_bindShown]

theorem portAt_bindRejected_ne {k : Nat} (hk : k ≠ p) (code : Nat) (s : State) : portAt (bindRejected p code s) k = portAt s k := by
  rw [bindRejected, epFlag, portAt_setBit, portAt_setLink, portAt_modPort_ne hk, portAt_bindShown]

theorem bind_rejected (w : s.regs.wf = true) (hp : p < 8) (h : bindStatus s p c ≠ .OK) (d : Nat)
    (ht : t = logEvent .BIND_REJECT clsEngine p d (bindRejected p (bindStatus s p c).code s)) :
    BindTried s t p c ∧ BindFrame s t p := by
  subst ht
  obtain ⟨w1, hst, hcode, hflag, hbits, hid⟩ := bindRejected_regs w hp (Status.code_lt (bindStatus s p c))
  have hlog : ∀ o, o < 0x10000 → _ := fun o ho => (logEvent_regs w1 .BIND_REJECT clsEngine p d).2 _ (not_logArea_ep (o := o) hp ho)
  have hport := portAt_logEvent .BIND_REJECT clsEngine p d (bindRejected p (bindStatus s p c).code s)
  have hword := hlog 4 (by omega)
  refine ⟨?_, ⟨fun i hi hi' => ?_, fun k hk => ?_⟩⟩
  · rw [BindTried, if_neg h]
    refine ⟨?_, ?_, ?_, ?_, ?_⟩
    · exact (linkState_of_reg hword).trans hst
    · exact (congrArg (fld · 31 16) hword).trans hcode
    · exact (congrArg (bit · 1) (hlog 0x38 (by omega))).trans hflag
    · rw [hport, portAt_bindRejected hp]
    · exact (congrArg (fld · 15 0) (hlog 0x20 (by omega))).trans (congrArg (fld · 15 0) hid)
  · exact (congrArg (bit · i) hword).trans (hbits i hi hi')
  · rw [hport, portAt_bindRejected_ne hk]

/-- A try to bind, for a slot whose engine has been read and has not been rejected: one of the two answers of R318. -/
theorem tryBind_outcome (w : s.regs.wf = true) (hp : p < 8) (hs : slotOnPort s p = some n) (hc : cfgOf s n = some c)
    (hl : linkState s p = lsIdentify) (hi : (portAt s p).identified = true) (hr : (portAt s p).rejected = false) :
    BindTried s (tryBind p s) p c ∧ BindFrame s (tryBind p s) p := by
  by_cases h : bindStatus s p c = .OK
  · exact bind_sent w hp h _ (tryBind_of_ok hs hc hl hi hr h)
  · exact bind_rejected w hp h _ (tryBind_of_rejected hs hc hl hi hr h)

/-! ## A rejected binding is tried again (R309, R318) -/

theorem retryBind_of_other (h : linkState s p ≠ lsIdentify ∨ (portAt s p).rejected = false) : retryBind p s = s := by
  refine if_neg ?_
  rintro ⟨hl, hr⟩
  rcases h with h | h
  · exact h hl
  · simp [h] at hr

/-- The port may bind again. -/
def bindAllowed (p : Nat) (s : State) : State := modPort p (fun q => { q with rejected := false }) s

theorem reg_bindAllowed (p : Nat) (s : State) (a : Nat) : reg (bindAllowed p s) a = reg s a := reg_modPort _ _ _ _

theorem bindAllowed_slots (p : Nat) (s : State) : (bindAllowed p s).slots = s.slots := modPort_slots _ _ _

theorem portAt_bindAllowed (hp : p < 8) (s : State) : portAt (bindAllowed p s) p = { portAt s p with rejected := false } :=
  portAt_modPort_same hp _ _

theorem retryBind_of_rejected (hl : linkState s p = lsIdentify) (hr : (portAt s p).rejected = true) :
    retryBind p s = tryBind p (bindAllowed p s) := if_pos ⟨hl, hr⟩

theorem retryBind_outcome (w : s.regs.wf = true) (hp : p < 8) (hs : slotOnPort s p = some n) (hc : cfgOf s n = some c)
    (hl : linkState s p = lsIdentify) (hi : (portAt s p).identified = true) (hr : (portAt s p).rejected = true) :
    BindTried s (retryBind p s) p c ∧ BindFrame s (retryBind p s) p := by
  rw [retryBind_of_rejected hl hr]
  have hport := portAt_bindAllowed hp s
  obtain ⟨ht, hf⟩ := tryBind_outcome (s := bindAllowed p s) (by rw [bindAllowed, modPort_regs]; exact w) hp
    ((slotOnPort_of_slots (bindAllowed_slots p s) p).trans hs) ((cfgOf_of_slots (bindAllowed_slots p s) n).trans hc)
    ((linkState_of_reg (reg_bindAllowed p s _)).trans hl) (by rw [hport]; exact hi) (by rw [hport])
  refine ⟨ht.of_same fun a _ _ => reg_bindAllowed p s a, ⟨fun i hi hi' => ?_, fun k hk => ?_⟩⟩
  · rw [hf.bits i hi hi', rbit, reg_bindAllowed, ← rbit]
  · exact (hf.ports k hk).trans (portAt_modPort_ne hk _ s)

/-- The end of a hold, and the try to bind after it. -/
theorem retry_outcome (w : s.regs.wf = true) (hp : p < 8) (hs : slotOnPort s p = some n) (hc : cfgOf s n = some c)
    (hl : linkState s p = lsIdentify) (hi : (portAt s p).identified = true) (hr : (portAt s p).rejected = true) :
    BindTried s (retryBind p (endHold p s)) p c ∧ rbit (retryBind p (endHold p s)) (Reg.epStatus p) 3 = false ∧
    ∀ k, k ≠ p → portAt (retryBind p (endHold p s)) k = portAt s k := by
  obtain ⟨we, hreg, hhold, hst, -, ⟨m, hport⟩, hports, hslots⟩ := endHold_outcome w hp
  have hs' : slotOnPort (endHold p s) p = some n := (slotOnPort_of_slots hslots p).trans hs
  have hc' : cfgOf (endHold p s) n = some c := (cfgOf_of_slots hslots n).trans hc
  obtain ⟨ht, hf⟩ := retryBind_outcome we hp hs' hc' (hst.trans hl) (by rw [hport]; exact hi) (by rw [hport]; exact hr)
  exact ⟨ht.of_same fun a _ ha => hreg a ha, (hf.bits 3 (by omega) (by omega)).trans hhold,
    fun k hk => (hf.ports k hk).trans (hports k hk)⟩

end Sys2Proof.Machine
end

section
/-! PROOFS. EPn_CTRL and the presence pin: QUIESCE, its answer and RETRY (R309, R318, R323). -/

namespace Sys2Proof.Machine

variable {s : State} {p : Port} {v : Word}

/-! ## QUIESCE -/

theorem epCtrl_quiesce (h0 : bit v 0 = false) (h1 : bit v 1 = false) (h2 : bit v 2 = true) :
    epCtrl p.val v s = withDim (quiesce p.val .host 6) s := by
  simp [epCtrl, h0, h1, h2]

theorem exec_quiesce (ho : hostOpen s (Reg.epCtrl p.val) = true) (h0 : bit v 0 = false) (h1 : bit v 1 = false)
    (h2 : bit v 2 = true) : exec (.quiesce p v) s = .next (withDim (quiesce p.val .host 6) s) :=
  congrArg Host.Outcome.next ((hostWrite_open ho v _).trans (epCtrl_quiesce h0 h1 h2))

theorem exec_quiesce_taken (w : s.regs.wf = true) (r : RunningInRange s) (ho : hostOpen s (Reg.epCtrl p.val) = true)
    (h0 : bit v 0 = false) (h1 : bit v 1 = false) (h2 : bit v 2 = true)
    (h : linkState s p.val = lsIdentify ∨ linkState s p.val = lsBind ∨ linkState s p.val = lsRun) :
    ∃ t, exec (.quiesce p v) s = .next t ∧ linkState t p.val = lsQuiesce ∧ (portAt t p.val).quiesce = some .host ∧
      (portAt t p.val).series = false ∧ (portAt t p.val).probes = 0 ∧
      (linkState s p.val = lsRun → (portAt t p.val).slot = none ∧ rbit t (Reg.epStatus p.val) 4 = false ∧
        rbit t Reg.frGrace p.val = true) := by
  obtain ⟨wq, rq, hst, hwhy, hser, hpro, -, -, hrun⟩ := quiesce_outcome w r p.isLt (why := .host) nofun 6 h
  have k := (LinkKept.refl (stat := false) wq rq).withDim
  obtain ⟨-, hreg⟩ := withDim_regs wq
  refine ⟨_, exec_quiesce ho h0 h1 h2, (k.linkState p.isLt).trans hst, ?_, ?_, ?_, fun hr => ?_⟩
  · rw [portAt_withDim, hwhy]
  · rw [portAt_withDim, hser]
  · rw [portAt_withDim, hpro]
  · obtain ⟨hslot, hload, hg⟩ := hrun hr
    refine ⟨by rw [portAt_withDim, hslot], ?_, ?_⟩
    · rw [rbit, k.word _ (linkWord_epStatus p.isLt), ← rbit, hload]
    · rw [rbit, hreg _ (by decide), ← rbit, hg]

theorem exec_quiesce_idle (ho : hostOpen s (Reg.epCtrl p.val) = true) (h0 : bit v 0 = false) (h1 : bit v 1 = false)
    (h2 : bit v 2 = true) (h : linkState s p.val = lsDetect ∨ linkState s p.val = lsTrain ∨ linkState s p.val = lsLost) :
    exec (.quiesce p v) s = .next s := by
  have hn : linkState s p.val ≠ lsIdentify ∧ linkState s p.val ≠ lsBind ∧ linkState s p.val ≠ lsRun := by
    rcases h with h | h | h <;> rw [h] <;> decide
  rw [exec_quiesce ho h0 h1 h2, withDim_of_id (quiesce_of_other .host 6 hn)]

/-! ## Its answer -/

section Answer
variable {i : Instr} {reason : Byte}

theorem exec_answer_to_detect (w : s.regs.wf = true) (r : RunningInRange s)
    (hi : i = .quiesceAck p ∨ (i = .leave p reason ∧ upNow s = true)) (hs : linkState s p.val = lsQuiesce)
    (h : (portAt s p.val).quiesce = some .engineReset ∨ (portAt s p.val).quiesce = some .stop) :
    ∃ t, exec i s = .next t ∧ linkState t p.val = lsDetect ∧ (portAt t p.val).slot = none ∧
      rbit t (Reg.epStatus p.val) 4 = false ∧ t.slots = s.slots := by
  obtain ⟨hst, hslot, hload⟩ := quiesced_to_detect w r p.isLt h
  exact ⟨_, exec_quiesce_answer hi hs, hst, hslot, hload, quiesced_slots p.val s⟩

theorem exec_answer_to_identify (w : s.regs.wf = true) (r : RunningInRange s)
    (hi : i = .quiesceAck p ∨ (i = .leave p reason ∧ upNow s = true)) (hs : linkState s p.val = lsQuiesce)
    (hr : (portAt s p.val).quiesce ≠ some .engineReset) (hn : (portAt s p.val).quiesce ≠ some .stop) :
    ∃ t, exec i s = .next t ∧ linkState t p.val = lsIdentify ∧ (portAt t p.val).slot = none ∧
      (portAt t p.val).identified = false ∧ rbit t (Reg.epStatus p.val) 4 = false ∧ t.slots = s.slots := by
  obtain ⟨hst, hslot, hid, hload⟩ := quiesced_to_identify w r p.isLt hr hn
  exact ⟨_, exec_quiesce_answer hi hs, hst, hslot, hid, hload, quiesced_slots p.val s⟩

end Answer

/-! ## RETRY, and the pin that asserts again -/

theorem exec_retry (ho : hostOpen s (Reg.epCtrl p.val) = true) (h0 : bit v 0 = false) (h1 : bit v 1 = true)
    (h2 : bit v 2 = false) : exec (.retry p v) s = .next (retryBind p.val (endHold p.val s)) :=
  congrArg Host.Outcome.next ((hostWrite_open ho v _).trans (by simp [epCtrl, h0, h1, h2]))

theorem exec_presenceAsserted (h : portHears s p.val = true) : exec (.presenceAsserted p) s =
    .next (retryBind p.val (endHold p.val (setBit (Reg.epStatus p.val) 5 true s))) :=
  congrArg Host.Outcome.next (if_pos h)

theorem exec_retry_unrejected (w : s.regs.wf = true) (ho : hostOpen s (Reg.epCtrl p.val) = true) (h0 : bit v 0 = false)
    (h1 : bit v 1 = true) (h2 : bit v 2 = false) (h : linkState s p.val ≠ lsIdentify ∨ (portAt s p.val).rejected = false) :
    ∃ t, exec (.retry p v) s = .next t ∧ rbit t (Reg.epStatus p.val) 3 = false ∧
      (rbit s (Reg.epStatus p.val) 3 = true → (portAt t p.val).trainFails = 0) ∧ linkState t p.val = linkState s p.val ∧
      (∀ k, k ≠ p.val → portAt t k = portAt s k) ∧ t.slots = s.slots := by
  obtain ⟨-, -, hhold, hst, hfails, ⟨m, hport⟩, hports, hslots⟩ := endHold_outcome w p.isLt
  have hr : retryBind p.val (endHold p.val s) = endHold p.val s := retryBind_of_other (by rwa [hst, hport])
  exact ⟨_, (exec_retry ho h0 h1 h2).trans (by rw [hr]), hhold, hfails, hst, hports, hslots⟩

theorem retry_slots (p : Nat) (s : State) : (retryBind p (endHold p s)).slots = s.slots :=
  (keeps_retryBind (List.Subset.refl _) p (keeps_endHold (by decide) p (Keeps.refl _ s))).same (k := .slots) (by decide)

theorem exec_retry_rejected {i : Instr} {n : Nat} {c : SlotCast} (w : s.regs.wf = true)
    (hi : (i = .retry p v ∧ hostOpen s (Reg.epCtrl p.val) = true ∧ bit v 0 = false ∧ bit v 1 = true ∧ bit v 2 = false) ∨
      (i = .presenceAsserted p ∧ portHears s p.val = true))
    (hl : linkState s p.val = lsIdentify) (hr : (portAt s p.val).rejected = true) (hid : (portAt s p.val).identified = true)
    (hs : slotOnPort s p.val = some n) (hc : cfgOf s n = some c) :
    ∃ t, exec i s = .next t ∧ BindTried s t p.val c ∧ rbit t (Reg.epStatus p.val) 3 = false ∧
      (∀ k, k ≠ p.val → portAt t k = portAt s k) ∧ t.slots = s.slots := by
  rcases hi with ⟨rfl, ho, h0, h1, h2⟩ | ⟨rfl, hh⟩
  · obtain ⟨ht, hhold, hports⟩ := retry_outcome w p.isLt hs hc hl hid hr
    exact ⟨_, exec_retry ho h0 h1 h2, ht, hhold, hports, retry_slots p.val s⟩
  · have hne : ∀ a, a ≠ Reg.epStatus p.val → reg (setBit (Reg.epStatus p.val) 5 true s) a = reg s a :=
      fun a ha => reg_setFld_ne w _ _ _ ha
    have hst : linkState (setBit (Reg.epStatus p.val) 5 true s) p.val = linkState s p.val :=
      rfld_setFld_out w _ _ (by omega) (by omega) (.inl (by omega)) (by omega)
    have hport := portAt_setBit (Reg.epStatus p.val) 5 true s
    obtain ⟨ht, hhold, hports⟩ := retry_outcome (setBit_wf w (Reg.epStatus p.val) 5 true) p.isLt
      ((slotOnPort_of_slots rfl p.val).trans hs) ((cfgOf_of_slots rfl n).trans hc) (hst.trans hl)
      (by rw [hport, hid]) (by rw [hport, hr])
    exact ⟨_, exec_presenceAsserted hh, ht.of_same fun a _ ha => hne a ha, hhold,
      fun k hk => (hports k hk).trans (hport k), retry_slots p.val _⟩

end Sys2Proof.Machine
end

section
/-! PROOFS. A sense return reaches the loops: what they take from it, and what the feeding leaves (R20, R276, R279). -/

namespace Sys2Proof.Machine

variable {s t u : State} {p : Nat} {k : SensePkt}

/-! ## What the feeding of loops changes -/

/-- A word that a measurement's arrival at a loop can write: the loop's flags and its count of skipped samples. -/
def feedWord (a : Nat) : Prop := ∃ l, l < 128 ∧ (a = Reg.leFlags l ∨ a = Reg.leCnt l)

/-- From s to t at most the loops and the words of feedWord have changed. -/
structure LoopsFed (s t : State) : Prop where
  wf : t.regs.wf = true
  word : ∀ a, ¬ feedWord a → reg t a = reg s a
  power : t.power = s.power
  cast : t.cast = s.cast
  slots : t.slots = s.slots
  ports : t.ports = s.ports

theorem LoopsFed.refl (w : s.regs.wf = true) : LoopsFed s s := ⟨w, fun _ _ => rfl, rfl, rfl, rfl, rfl⟩

theorem LoopsFed.trans (h : LoopsFed s t) (k : LoopsFed t u) : LoopsFed s u :=
  ⟨k.wf, fun a ha => (k.word a ha).trans (h.word a ha), k.power.trans h.power, k.cast.trans h.cast, k.slots.trans h.slots,
    k.ports.trans h.ports⟩

theorem LoopsFed.modLoop (h : LoopsFed s t) (l : Nat) (f : LoopState → LoopState) : LoopsFed s (modLoop l f t) :=
  h.trans ⟨(modLoop_regs l f t).symm ▸ h.wf, fun a _ => reg_modLoop l f t a, modLoop_power l f t, modLoop_cast l f t,
    modLoop_slots l f t, modLoop_ports l f t⟩

theorem LoopsFed.setFld (h : LoopsFed s t) {a : Nat} (ha : feedWord a) (hi lo x : Nat) : LoopsFed s (setFld a hi lo x t) :=
  h.trans ⟨setFld_wf h.wf _ _ _ _, fun _ hb => reg_setFld_ne h.wf _ _ _ fun e => hb (e ▸ ha), rfl, rfl, rfl, rfl⟩

theorem LoopsFed.foldl {α : Type} (h : LoopsFed s t) (l : List α) {f : State → α → State}
    (hf : ∀ x ∈ l, ∀ u, LoopsFed s u → LoopsFed s (f u x)) : LoopsFed s (l.foldl f t) := by
  induction l generalizing t with
  | nil => exact h
  | cons x l ih => exact ih (hf x (by simp) t h) fun y hy => hf y (by simp [hy])

theorem LoopsFed.arrive (h : LoopsFed s t) {l : Nat} (hl : l < 128) (n : Nat) (m : LoopMeas) : LoopsFed s (arrive l n m t) := by
  unfold Machine.arrive
  extract_lets q k1 k2 s1
  split
  · exact h.modLoop l _
  · exact ((h.modLoop l _).setFld ⟨l, hl, .inr rfl⟩ _ _ _).setFld ⟨l, hl, .inl rfl⟩ _ _ _

theorem LoopsFed.countAuto (h : LoopsFed s t) (l : Nat) : LoopsFed s (countAuto l t) := by
  unfold Machine.countAuto
  split
  · exact h
  · exact h.modLoop l _

theorem LoopsFed.takeMeas (h : LoopsFed s t) {l : Nat} (hl : l < 128) (m : LoopMeas) : LoopsFed s (takeMeas l m t) := by
  unfold Machine.takeMeas
  extract_lets s1 s2
  have h2 : LoopsFed s s2 := by
    unfold s2
    split
    · exact h.modLoop l _
    · exact (h.modLoop l _).countAuto l
  split
  · exact h2.arrive hl 1 m
  · exact h2

/-- The link and its registers stand while loops are fed. -/
theorem LoopsFed.linkKept (r : RunningInRange s) (h : LoopsFed s t) : LinkKept false s t := by
  refine ⟨h.wf, r.of_slots h.slots, fun n => cfgOf_of_slots h.slots n, fun a ha => h.word a ?_, fun j => by rw [portAt, h.ports, portAt]⟩
  rintro ⟨l, hl, rfl | rfl⟩
  · exact not_linkWord_leFlags hl ha
  · exact not_linkWord (by simp only [Reg.leCnt, Reg.le]; omega) ha

/-! ## One loop takes a return -/

theorem not_feedWord_leCfg (l : Nat) : ¬ feedWord (Reg.leCfg l) := by
  rintro ⟨j, -, h | h⟩ <;> simp only [Reg.leCfg, Reg.leFlags, Reg.leCnt, Reg.le] at h <;> omega

theorem not_feedWord_leStatus (l : Nat) : ¬ feedWord (Reg.leStatus l) := by
  rintro ⟨j, -, h | h⟩ <;> simp only [Reg.leStatus, Reg.leFlags, Reg.leCnt, Reg.le] at h <;> omega

theorem leSrc_of_word {l : Nat} (h : reg t (Reg.leCfg l) = reg s (Reg.leCfg l)) : leSrc t l = leSrc s l := by
  rw [leSrc, rfld, h, leSrc, rfld]

theorem sensePoints_of_word {l : Nat} (h : reg t (Reg.leCfg l) = reg s (Reg.leCfg l)) (p : Nat) (k : SensePkt) :
    sensePoints t p l k = sensePoints s p l k := by
  have hport : leSport t l = leSport s l := by rw [leSport, rfld, h, leSport, rfld]
  have hidx : leSidx t l = leSidx s l := by rw [leSidx, rfld, h, leSidx, rfld]
  unfold sensePoints
  rw [hport, leSrc_of_word h, hidx]

theorem loopsRun_of_same (hp : t.power = s.power) (hc : t.cast = s.cast) : loopsRun t = loopsRun s := by
  simp only [loopsRun, awake, pdOff, hp, hc]

/-- The pickoff samples that a sense return of port p brings loop l. -/
def pickoffsOf (s : State) (p l : Nat) (k : SensePkt) : List (BitVec 64 × BitVec 16) :=
  (sensePoints s p l k).map fun m => (m.t, BitVec.ofInt 16 (m.y.headD 0 / 2 ^ 26))

/-- Loop l takes an accepted sense return of port p. -/
def loopSense (p : Nat) (k : SensePkt) (l : Nat) (s : State) : State :=
  if ¬ loopsRun s then s
  else (sensePoints s p l k).foldl (fun s m => takeMeas l m s)
    (if leSrc s l = 1 then modLoop l (fun q => { q with picks := q.picks ++ pickoffsOf s p l k }) s else s)

theorem loopsSense_eq (p : Nat) (k : SensePkt) (s : State) :
    loopsSense p k s = forAll ((List.range 128).filter fun l => leState s l != 0) (loopSense p k) s := rfl

theorem LoopsFed.loopSense (h : LoopsFed s t) {l : Nat} (hl : l < 128) : LoopsFed s (loopSense p k l t) := by
  unfold Machine.loopSense
  split
  · exact h
  · refine LoopsFed.foldl ?_ _ fun m _ u hu => hu.takeMeas hl m
    split
    · exact h.modLoop l _
    · exact h

theorem LoopsFed.forAll (h : LoopsFed s t) (ls : List Nat) (hls : ∀ l ∈ ls, l < 128) : LoopsFed s (forAll ls (Machine.loopSense p k) t) :=
  h.foldl ls fun l hl _ hu => hu.loopSense (hls l hl)

theorem LoopsFed.loopsSense (h : LoopsFed s t) : LoopsFed s (loopsSense p k t) :=
  h.forAll _ fun _ hl => List.mem_range.1 (List.mem_of_mem_filter hl)

/-! ## The trackers' pickoffs (R282) -/

theorem loopAt_modLoop_ne {l j : Nat} (h : j ≠ l) (f : LoopState → LoopState) (s : State) : loopAt (modLoop l f s) j = loopAt s j := by
  unfold modLoop
  split
  · next hl => rw [loopAt, Vector.getElem?_set_ne hl (Ne.symm h), loopAt]
  · rfl

theorem modLoop_picks (l : Nat) (f : LoopState → LoopState) (s : State) (j : Nat)
    (hf : ∀ q, (f q).picks = q.picks := by exact fun _ => rfl) : (loopAt (modLoop l f s) j).picks = (loopAt s j).picks := by
  by_cases e : j = l
  · subst e
    by_cases h : j < 128
    · rw [loopAt_modLoop_same h, hf]
    · rw [modLoop, dif_neg h]
  · rw [loopAt_modLoop_ne e]

theorem arrive_picks (l n : Nat) (m : LoopMeas) (s : State) (j : Nat) : (loopAt (arrive l n m s) j).picks = (loopAt s j).picks := by
  unfold arrive
  extract_lets q k1 k2 s1
  split
  · exact modLoop_picks l _ s j
  · exact modLoop_picks l _ s j

theorem countAuto_picks (l : Nat) (s : State) (j : Nat) : (loopAt (countAuto l s) j).picks = (loopAt s j).picks := by
  unfold countAuto
  split
  · rfl
  · refine modLoop_picks l _ s j fun q => ?_
    split
    · rfl
    · split <;> rfl

/-- A measurement that a loop takes leaves the samples its tracker has not taken. -/
theorem takeMeas_picks (l : Nat) (m : LoopMeas) (s : State) (j : Nat) : (loopAt (takeMeas l m s) j).picks = (loopAt s j).picks := by
  unfold takeMeas
  extract_lets s1 s2
  have h1 : (loopAt s1 j).picks = (loopAt s j).picks := modLoop_picks l _ s j
  have h2 : (loopAt s2 j).picks = (loopAt s j).picks := by
    unfold s2
    split
    · exact h1
    · exact (countAuto_picks l s1 j).trans h1
  split
  · exact (arrive_picks l 1 m _ j).trans h2
  · exact h2

theorem takeAll_picks (l : Nat) (ms : List LoopMeas) (s : State) (j : Nat) :
    (loopAt (ms.foldl (fun s m => takeMeas l m s) s) j).picks = (loopAt s j).picks := by
  induction ms generalizing s with
  | nil => rfl
  | cons m ms ih => exact (ih _).trans (takeMeas_picks l m s j)

theorem loopSense_picks_same {l : Nat} (hl : l < 128) (hr : loopsRun s = true) (h1 : leSrc s l = 1) :
    (loopAt (loopSense p k l s) l).picks = (loopAt s l).picks ++ pickoffsOf s p l k := by
  rw [loopSense, if_neg (by simp [hr]), takeAll_picks, if_pos h1, loopAt_modLoop_same hl]

theorem loopSense_picks_ne {l j : Nat} (h : j ≠ l) : (loopAt (loopSense p k l s) j).picks = (loopAt s j).picks := by
  unfold loopSense
  split
  · rfl
  · rw [takeAll_picks]
    split
    · rw [loopAt_modLoop_ne h]
    · rfl

theorem forAll_loopSense_picks_of_not_mem {l : Nat} (ls : List Nat) (h : l ∉ ls) (s : State) :
    (loopAt (forAll ls (loopSense p k) s) l).picks = (loopAt s l).picks := by
  induction ls generalizing s with
  | nil => rfl
  | cons x xs ih =>
    obtain ⟨hx, hxs⟩ := not_or.1 (mt List.mem_cons.2 h)
    exact (ih hxs _).trans (loopSense_picks_ne hx)

/-- A loop that a list holds once takes the return once, for what the loops before it take leaves its configuration. -/
theorem forAll_loopSense_picks_of_mem {l : Nat} (ls : List Nat) (hls : ∀ x ∈ ls, x < 128) (hd : ls.Nodup) (h : l ∈ ls)
    (w : s.regs.wf = true) (hr : loopsRun s = true) (h1 : leSrc s l = 1) :
    (loopAt (forAll ls (loopSense p k) s) l).picks = (loopAt s l).picks ++ pickoffsOf s p l k := by
  induction ls generalizing s with
  | nil => exact absurd h List.not_mem_nil
  | cons x xs ih =>
    obtain ⟨hx, hd⟩ := List.nodup_cons.1 hd
    by_cases e : l = x
    · subst e
      exact (forAll_loopSense_picks_of_not_mem xs hx _).trans (loopSense_picks_same (hls l (by simp)) hr h1)
    · have f := (LoopsFed.refl w).loopSense (p := p) (k := k) (hls x (by simp))
      have hw := f.word _ (not_feedWord_leCfg l)
      have hs := ih (s := loopSense p k x s) (fun y hy => hls y (by simp [hy])) hd ((List.mem_cons.1 h).resolve_left e) f.wf
        ((loopsRun_of_same f.power f.cast).trans hr) ((leSrc_of_word hw).trans h1)
      refine hs.trans ?_
      rw [loopSense_picks_ne e, pickoffsOf, sensePoints_of_word hw, pickoffsOf]

theorem loopsSense_picks {l : Nat} (hl : l < 128) (w : s.regs.wf = true) (hr : loopsRun s = true) (h0 : leState s l ≠ 0)
    (h1 : leSrc s l = 1) : (loopAt (loopsSense p k s) l).picks = (loopAt s l).picks ++ pickoffsOf s p l k := by
  refine forAll_loopSense_picks_of_mem _ (fun x hx => List.mem_range.1 (List.mem_of_mem_filter hx)) (List.nodup_range.filter _) ?_
    w hr h1
  simp [hl, h0]

end Sys2Proof.Machine
end

section
/-! PROOFS. A sense return that is taken: its counters, what it shows, the loops it feeds, and the laser fault it can report
(R20, R238, R246, R328, R467). -/

namespace Sys2Proof.Machine

variable {s u : State} {p : Nat} {k : SensePkt}

/-- A counter field after a number has been added: the sum, or its largest value. -/
theorem rfld_addSat_same (w : s.regs.wf = true) (a : Nat) {hi lo : Nat} (n : Nat) (hh : hi < 32) (hl : lo ≤ hi) :
    rfld (addSat a hi lo n s) a hi lo = min (rfld s a hi lo + n) (2 ^ (hi + 1 - lo) - 1) := by
  have hpos : 0 < 2 ^ (hi + 1 - lo) := Nat.two_pow_pos _
  rw [addSat, rfld_setFld_same w _ _ hh hl]
  exact Nat.mod_eq_of_lt (by omega)

theorem cfg_of_slotOnPort {n : Nat} (h : slotOnPort s p = some n) : ∃ c, cfgOf s n = some c := by
  have hf := List.find?_some h
  cases hc : cfgOf s n with
  | none => simp [hc] at hf
  | some c => exact ⟨c, rfl⟩

/-! ## The port takes the return's times and counts what it reports -/

/-- The port takes the end time and the channels above their ceilings. -/
def senseTimed (p : Nat) (k : SensePkt) (s : State) : State :=
  modPort p (fun q => { q with lastTEnd := k.tEnd, overs := overChans s p k 5 }) s

/-- The engine's counts of late commands and of planes it made up. -/
def senseAdded (p : Nat) (k : SensePkt) (s : State) : State :=
  addSat (Reg.epCntD p) 31 16 k.planeInc.toNat (addSat (Reg.epCntC p) 15 0 k.lateCmd.toNat (senseTimed p k s))

/-- The flag of late commands as well. -/
def senseCounted (p : Nat) (k : SensePkt) (s : State) : State :=
  if k.lateCmd ≠ 0 ∨ bit k.status 5 then epFlag p 4 (senseAdded p k s) else senseAdded p k s

theorem senseAdded_regs (w : s.regs.wf = true) :
    (senseAdded p k s).regs.wf = true ∧
    rfld (senseAdded p k s) (Reg.epCntC p) 15 0 = min (rfld s (Reg.epCntC p) 15 0 + k.lateCmd.toNat) 65535 ∧
    rfld (senseAdded p k s) (Reg.epCntD p) 31 16 = min (rfld s (Reg.epCntD p) 31 16 + k.planeInc.toNat) 65535 ∧
    ∀ a, a ≠ Reg.epCntC p → a ≠ Reg.epCntD p → reg (senseAdded p k s) a = reg s a := by
  have hreg : ∀ a, reg (senseTimed p k s) a = reg s a := reg_modPort p _ s
  have wt : (senseTimed p k s).regs.wf = true := by rw [senseTimed, modPort_regs]; exact w
  unfold senseAdded
  generalize senseTimed p k s = v at *
  have w1 : (addSat (Reg.epCntC p) 15 0 k.lateCmd.toNat v).regs.wf = true := setFld_wf wt _ _ _ _
  have hcd : Reg.epCntC p ≠ Reg.epCntD p := by simp [Reg.epCntC, Reg.epCntD]
  refine ⟨setFld_wf w1 _ _ _ _, ?_, ?_, fun a hc hd => ?_⟩
  · rw [addSat, rfld, reg_setFld_ne w1 _ _ _ hcd, ← rfld, rfld_addSat_same wt _ _ (by omega) (by omega), rfld, hreg, ← rfld]
    norm_num
  · rw [rfld_addSat_same w1 _ _ (by omega) (by omega), addSat, rfld, reg_setFld_ne wt _ _ _ hcd.symm, hreg, ← rfld]
    norm_num
  · rw [addSat, reg_setFld_ne w1 _ _ _ hd, addSat, reg_setFld_ne wt _ _ _ hc, hreg]

/-- What a taken return has left once it has been counted. -/
theorem senseCounted_regs (w : s.regs.wf = true) :
    (senseCounted p k s).regs.wf = true ∧
    rfld (senseCounted p k s) (Reg.epCntC p) 15 0 = min (rfld s (Reg.epCntC p) 15 0 + k.lateCmd.toNat) 65535 ∧
    rfld (senseCounted p k s) (Reg.epCntD p) 31 16 = min (rfld s (Reg.epCntD p) 31 16 + k.planeInc.toNat) 65535 ∧
    rbit (senseCounted p k s) (Reg.epFlags p) 4 = (rbit s (Reg.epFlags p) 4 || decide (k.lateCmd ≠ 0) || bit k.status 5) ∧
    ∀ a, a ≠ Reg.epCntC p → a ≠ Reg.epCntD p → a ≠ Reg.epFlags p → reg (senseCounted p k s) a = reg s a := by
  obtain ⟨wa, hc, hd, hreg⟩ := senseAdded_regs (p := p) (k := k) w
  have hfc : Reg.epCntC p ≠ Reg.epFlags p := by simp [Reg.epCntC, Reg.epFlags]
  have hfd : Reg.epCntD p ≠ Reg.epFlags p := by simp [Reg.epCntD, Reg.epFlags]
  unfold senseCounted
  by_cases hf : k.lateCmd ≠ 0 ∨ bit k.status 5
  · rw [if_pos hf]
    refine ⟨setBit_wf wa _ _ _, ?_, ?_, (rbit_setBit_same wa _ _ (by omega)).trans ?_, fun a h1 h2 h3 => ?_⟩
    · rw [epFlag, setBit, rfld, reg_setFld_ne wa _ _ _ hfc, ← rfld, hc]
    · rw [epFlag, setBit, rfld, reg_setFld_ne wa _ _ _ hfd, ← rfld, hd]
    · rcases hf with hf | hf
      · rw [decide_eq_true hf, Bool.or_true, Bool.true_or]
      · rw [hf, Bool.or_true]
    · rw [epFlag, setBit, reg_setFld_ne wa _ _ _ h3, hreg a h1 h2]
  · rw [if_neg hf]
    obtain ⟨hl, hb⟩ := not_or.1 hf
    refine ⟨wa, hc, hd, ?_, fun a h1 h2 _ => hreg a h1 h2⟩
    rw [rbit, hreg _ hfc.symm hfd.symm, ← rbit]
    simp [not_not.1 hl, Bool.not_eq_true _ ▸ hb]

theorem senseAdded_port (hp : p < 8) :
    portAt (senseAdded p k s) p = { portAt s p with lastTEnd := k.tEnd, overs := overChans s p k 5 } := by
  rw [senseAdded, portAt_addSat, portAt_addSat, senseTimed, portAt_modPort_same hp]

theorem senseCounted_port (hp : p < 8) :
    portAt (senseCounted p k s) p = { portAt s p with lastTEnd := k.tEnd, overs := overChans s p k 5 } := by
  unfold senseCounted
  split
  · rw [epFlag, portAt_setBit, senseAdded_port hp]
  · exact senseAdded_port hp

theorem senseCounted_keeps (p : Nat) (k : SensePkt) (s : State) : Keeps [.regs, .ports] s (senseCounted p k s) := by
  have h : Keeps [.regs, .ports] s (senseAdded p k s) :=
    keeps_addSat (by decide) _ _ _ _ (keeps_addSat (by decide) _ _ _ _ (keeps_modPort (by decide) _ _ (Keeps.refl _ s)))
  unfold senseCounted
  split
  · exact keeps_epFlag (by decide) _ _ h
  · exact h

/-! ## The sensors, the observations and the channels' flags -/

/-- The engine's sensors take their readings. -/
def senseTemps (p : Nat) (k : SensePkt) (u : State) : State := k.temps.foldl (fun s x => senseTemp p x.1.toNat x.2.toInt s) u

/-- The end of the return before this one, in sixteenths, where returns are missing between the two. -/
def senseSince (s : State) (p : Nat) (k : SensePkt) : Option Nat :=
  if (portAt s p).lastTEnd != 0 && k.tStart != (portAt s p).lastTEnd then some ((portAt s p).lastTEnd.toNat * 16) else none

/-- V_MEAS is shown and the observations take the return, as s, before it came, declares a slot on the port. -/
def senseShown (p : Nat) (k : SensePkt) (s u : State) : State :=
  match slotOnPort s p with
  | some n => match cfgOf s n with
    | some c => senseRows p n k c (senseSince s p k) (setReg (Reg.lsMeas n) (BitVec.ofNat 32 k.vMeas.toNat) u)
    | none => u
  | none => u

/-- The channels in ks exceed their ceilings (R246). -/
def flagOvercur (ks : List Nat) (u : State) : State := forAll ks (fun k s => setBit (Reg.lcFlags k) 1 true s) u

/-- All that a taken return shows before it reaches the loops. -/
def senseSeen (p : Nat) (k : SensePkt) (s : State) : State :=
  match slotOnPort s p with
  | some n => flagOvercur (chansOf s n (overChans s p k 0)) (senseShown p k s (senseTemps p k (senseCounted p k s)))
  | none => senseShown p k s (senseTemps p k (senseCounted p k s))

/-- A laser fault that the return reports itself. -/
def senseReported (p : Nat) (k : SensePkt) (s : State) : State := if bit k.status 0 then senseFault p 1 0xFFFFFF s else s

/-- A laser fault that two returns in a row show by their currents. -/
def senseExceeded (p : Nat) (m : BitVec 24) (s : State) : State := if m ≠ 0 then senseFault p 2 m s else s

theorem senseTake_eq (p : Nat) (k : SensePkt) (s : State) : senseTake p k s =
    engineErrors p k.dlCrc.toNat (senseExceeded p (overChans s p k 5 &&& (portAt s p).overs)
      (senseReported p k (loopsSense p k (senseSeen p k s)))) := rfl

theorem engineErrors_zero (p : Nat) (s : State) : engineErrors p 0 s = s := if_pos rfl

theorem senseTemps_keeps (p : Nat) (k : SensePkt) (u : State) : Keeps [.heat] u (senseTemps p k u) :=
  keeps_foldl _ _ (fun _ _ h => keeps_senseTemp (by decide) _ _ _ h) (Keeps.refl _ u)

theorem senseSeen_of_none (h : slotOnPort s p = none) : senseSeen p k s = senseTemps p k (senseCounted p k s) := by
  simp only [senseSeen, senseShown, h]

theorem senseSeen_of_some {n : Nat} {c : SlotCast} (h : slotOnPort s p = some n) (hc : cfgOf s n = some c) :
    senseSeen p k s = flagOvercur (chansOf s n (overChans s p k 0)) (senseRows p n k c (senseSince s p k)
      (setReg (Reg.lsMeas n) (BitVec.ofNat 32 k.vMeas.toNat) (senseTemps p k (senseCounted p k s)))) := by
  simp only [senseSeen, senseShown, h, hc]

/-- The observations of a slot are part of the slot. -/
theorem senseRows_modSlot (p n : Nat) (k : SensePkt) (c : SlotCast) (since : Option Nat) (u : State) :
    ∃ f : SlotState → SlotState, senseRows p n k c since u = modSlot n f u ∧ ∀ q, (f q).cfg = q.cfg := by
  unfold senseRows modCal
  exact ⟨_, rfl, fun _ => rfl⟩

theorem flagOvercur_keeps (ks : List Nat) (u : State) : Keeps [.regs] u (flagOvercur ks u) :=
  keeps_forAll _ _ (fun _ _ h => keeps_setBit (by decide) _ _ _ h) (Keeps.refl _ u)

theorem flagOvercur_regs {ks : List Nat} (w : u.regs.wf = true) :
    (flagOvercur ks u).regs.wf = true ∧ ∀ a, (∀ k ∈ ks, a ≠ Reg.lcFlags k) → reg (flagOvercur ks u) a = reg u a := by
  induction ks generalizing u with
  | nil => exact ⟨w, fun _ _ => rfl⟩
  | cons k ks ih =>
    obtain ⟨w1, h1⟩ := ih (setBit_wf w (Reg.lcFlags k) 1 true)
    exact ⟨w1, fun a ha => (h1 a fun j hj => ha j (by simp [hj])).trans (reg_setFld_ne w _ _ _ (ha k (by simp)))⟩

theorem LightKept.flagOvercur {stat : Bool} {t : State} (h : LightKept stat t u) {ks : List Nat} (hk : ∀ k ∈ ks, k < 96) :
    LightKept stat t (flagOvercur ks u) :=
  h.forAll _ fun k hm _ hu => hu.setBit (lcFlags_low k) (fun _ _ => lcFlags_area (hk k hm)) _ _

theorem lsMeas_area {n : Nat} (h : n < 8) : lightArea false (Reg.lsMeas n) := by
  simp only [lightArea, Reg.lsMeas, Reg.ls, Reg.lcLenStat]
  omega

/-- What a return shows lies in the light registers, the heat ledger and the slots. -/
theorem senseSeen_light (r : RunningInRange s) : LightKept false (senseCounted p k s) (senseSeen p k s) := by
  have ht : LightKept false (senseCounted p k s) (senseTemps p k (senseCounted p k s)) :=
    (LightKept.refl _).ofEq ((senseTemps_keeps p k _).same (k := .regs) (by decide))
      (cfgOf_of_slots ((senseTemps_keeps p k _).same (k := .slots) (by decide)))
  cases h : slotOnPort s p with
  | none =>
    rw [senseSeen_of_none h]
    exact ht
  | some n =>
    obtain ⟨c, hc⟩ := cfg_of_slotOnPort h
    have hn := lt_of_slotOnPort h
    rw [senseSeen_of_some h hc]
    obtain ⟨f, e, hf⟩ := senseRows_modSlot p n k c (senseSince s p k)
      (setReg (Reg.lsMeas n) (BitVec.ofNat 32 k.vMeas.toNat) (senseTemps p k (senseCounted p k s)))
    rw [e]
    exact ((ht.setReg (by simp only [Reg.lcLenCtrl, Reg.lsMeas, Reg.ls]; omega) (fun _ _ => lsMeas_area hn) _).modSlot n f hf).flagOvercur
      (chansOf_lt r n _)

theorem senseSeen_keeps (p : Nat) (k : SensePkt) (s : State) : Keeps [.regs, .slots, .heat] (senseCounted p k s) (senseSeen p k s) := by
  have ht : Keeps [.regs, .slots, .heat] (senseCounted p k s) (senseTemps p k (senseCounted p k s)) :=
    keeps_foldl _ _ (fun _ _ h => keeps_senseTemp (by decide) _ _ _ h) (Keeps.refl _ _)
  cases h : slotOnPort s p with
  | none =>
    rw [senseSeen_of_none h]
    exact ht
  | some n =>
    obtain ⟨c, hc⟩ := cfg_of_slotOnPort h
    rw [senseSeen_of_some h hc]
    exact keeps_forAll _ _ (fun _ _ h => keeps_setBit (by decide) _ _ _ h)
      (keeps_modCal (by decide) _ _ (keeps_setReg (by decide) _ _ ht))

theorem senseSeen_lsMeas {n : Nat} (w : s.regs.wf = true) (r : RunningInRange s) (h : slotOnPort s p = some n) :
    reg (senseSeen p k s) (Reg.lsMeas n) = BitVec.ofNat 32 k.vMeas.toNat := by
  obtain ⟨c, hc⟩ := cfg_of_slotOnPort h
  have wc := (senseCounted_regs (p := p) (k := k) w).1
  have wt : (senseTemps p k (senseCounted p k s)).regs.wf = true := by
    rw [(senseTemps_keeps p k _).same (k := .regs) (by decide)]
    exact wc
  rw [senseSeen_of_some h hc]
  generalize senseTemps p k (senseCounted p k s) = u at wt
  obtain ⟨f, e, -⟩ := senseRows_modSlot p n k c (senseSince s p k) (setReg (Reg.lsMeas n) (BitVec.ofNat 32 k.vMeas.toNat) u)
  have wr : (modSlot n f (setReg (Reg.lsMeas n) (BitVec.ofNat 32 k.vMeas.toNat) u)).regs.wf = true := by
    rw [modSlot_regs]
    exact setReg_wf wt _ _
  have hk : ∀ j ∈ chansOf s n (overChans s p k 0), Reg.lsMeas n ≠ Reg.lcFlags j := fun j hj => by
    have := chansOf_lt r n _ j hj
    simp only [Reg.lsMeas, Reg.ls, Reg.lcFlags, Reg.lc]
    omega
  rw [e, (flagOvercur_regs wr).2 _ hk, reg_modSlot, reg_setReg_same wt]

/-! ## The return has reached the loops -/

theorem RunningInRange.senseCounted (r : RunningInRange s) : RunningInRange (senseCounted p k s) :=
  r.of_slots ((senseCounted_keeps p k s).same (k := .slots) (by decide))

/-- What a return shows and what the loops take leave the link as the counting left it. -/
theorem senseFed_linkKept (w : s.regs.wf = true) (r : RunningInRange s) :
    LinkKept false (senseCounted p k s) (loopsSense p k (senseSeen p k s)) := by
  have wc := (senseCounted_regs (p := p) (k := k) w).1
  have hs := (LinkKept.refl (stat := false) wc r.senseCounted).ofLight (senseSeen_light r)
    ((senseSeen_keeps p k s).same (k := .ports) (by decide))
  exact hs.trans ((LoopsFed.refl hs.wf).loopsSense.linkKept hs.range)

theorem senseSeen_word (w : s.regs.wf = true) (r : RunningInRange s) {a : Nat} (ha : ¬ lightArea false a) (hc : a ≠ Reg.epCntC p)
    (hd : a ≠ Reg.epCntD p) (hf : a ≠ Reg.epFlags p) : reg (senseSeen p k s) a = reg s a := by
  obtain ⟨wc, -, -, -, hreg⟩ := senseCounted_regs (p := p) (k := k) w
  obtain ⟨-, -, -, h⟩ := senseSeen_light (p := p) (k := k) r wc
  exact (h r.senseCounted.chans a ha).trans (hreg a hc hd hf)

/-- The words of a loop's configuration and state stand while a return is shown. -/
theorem senseSeen_loopWord (w : s.regs.wf = true) (r : RunningInRange s) {a : Nat} (h : 0xA00000 ≤ a ∧ a < 0xB00000) :
    reg (senseSeen p k s) a = reg s a := by
  apply senseSeen_word w r <;> simp only [lightArea, Reg.lcLenStat, Reg.epCntC, Reg.epCntD, Reg.epFlags, Reg.ep] <;> omega

theorem senseFed_picks (w : s.regs.wf = true) (r : RunningInRange s) {l : Nat} (hl : l < 128) (hr : loopsRun s = true)
    (h0 : leState s l ≠ 0) (h1 : leSrc s l = 1) :
    (loopAt (loopsSense p k (senseSeen p k s)) l).picks = (loopAt s l).picks ++ pickoffsOf s p l k := by
  have hcfg : reg (senseSeen p k s) (Reg.leCfg l) = reg s (Reg.leCfg l) :=
    senseSeen_loopWord w r (by simp only [Reg.leCfg, Reg.le]; omega)
  have hst : leState (senseSeen p k s) l = leState s l := by
    rw [leState, rfld, senseSeen_loopWord w r (by simp only [Reg.leStatus, Reg.le]; omega), ← rfld, ← leState]
  have hc := senseCounted_keeps p k s
  have hs := senseSeen_keeps p k s
  have hpow := (hs.same (k := .power) (by decide)).trans (hc.same (k := .power) (by decide))
  have hcast := (hs.same (k := .cast) (by decide)).trans (hc.same (k := .cast) (by decide))
  have hloops := (hs.same (k := .loops) (by decide)).trans (hc.same (k := .loops) (by decide))
  have wc := (senseCounted_regs (p := p) (k := k) w).1
  rw [loopsSense_picks hl (senseSeen_light r wc).1 ((loopsRun_of_same hpow hcast).trans hr) (hst ▸ h0) ((leSrc_of_word hcfg).trans h1),
    pickoffsOf, sensePoints_of_word hcfg, ← pickoffsOf, loopAt, hloops, ← loopAt]

theorem senseFed_slots (h : slotOnPort s p = none) : (loopsSense p k (senseSeen p k s)).slots = s.slots := by
  have hl := (keeps_loopsSense (List.Subset.refl _) p k (Keeps.refl _ (senseSeen p k s))).same (k := .slots) (by decide)
  have ht := (senseTemps_keeps p k (senseCounted p k s)).same (k := .slots) (by decide)
  have hc := (senseCounted_keeps p k s).same (k := .slots) (by decide)
  rw [senseSeen_of_none h] at hl ⊢
  exact hl.trans (ht.trans hc)

theorem senseFed_lsMeas {n : Nat} (w : s.regs.wf = true) (r : RunningInRange s) (h : slotOnPort s p = some n) :
    reg (loopsSense p k (senseSeen p k s)) (Reg.lsMeas n) = BitVec.ofNat 32 k.vMeas.toNat := by
  have wc := (senseCounted_regs (p := p) (k := k) w).1
  have ws := (senseSeen_light (p := p) (k := k) r wc).1
  refine ((LoopsFed.refl ws).loopsSense.word _ ?_).trans (senseSeen_lsMeas w r h)
  rintro ⟨l, hl, e | e⟩ <;> simp only [Reg.lsMeas, Reg.ls, Reg.leFlags, Reg.leCnt, Reg.le] at e <;> omega

theorem linkState_of_senseOk (h : senseOk s p k = true) : linkState s p = lsRun := by
  unfold senseOk at h
  simp only [Bool.and_eq_true, decide_eq_true_eq] at h
  tauto

end Sys2Proof.Machine
end

section
/-! PROOFS. SENSE: a return that is taken, one that stops the laser, and one that is rejected (R20, R238, R254, R328, R329, R467). -/

namespace Sys2Proof.Machine

variable {s : State} {p : Port} {k : SensePkt}

/-! ## A return that is taken -/

theorem exec_sense_taken (hu : upNow s = true) (hk : senseOk s p.val k = true) (hd : k.dlCrc = 0) :
    exec (.sense p k) s = .next (senseExceeded p.val (overChans s p.val k 5 &&& (portAt s p.val).overs)
      (senseReported p.val k (loopsSense p.val k (senseSeen p.val k s)))) := by
  have hl := linkState_of_senseOk hk
  have hn : ¬ (linkState s p.val = lsDetect ∨ linkState s p.val = lsLost) := by rw [hl]; decide
  refine congrArg Host.Outcome.next ((whileUp_up hu _).trans ?_)
  rw [if_neg hn, if_pos hk, senseTake_eq, hd]
  exact engineErrors_zero _ _

/-- The link words of a port after a return has been counted, shown and fed to the loops. -/
theorem senseFed_state (w : s.regs.wf = true) (r : RunningInRange s) (hk : senseOk s p.val k = true) :
    linkState (loopsSense p.val k (senseSeen p.val k s)) p.val = lsRun := by
  obtain ⟨-, -, -, -, hreg⟩ := senseCounted_regs (p := p.val) (k := k) w
  have hst : reg (senseCounted p.val k s) (Reg.epStatus p.val) = reg s (Reg.epStatus p.val) :=
    hreg _ (by simp [Reg.epStatus, Reg.epCntC]) (by simp [Reg.epStatus, Reg.epCntD]) (by simp [Reg.epStatus, Reg.epFlags])
  exact ((senseFed_linkKept w r).linkState p.isLt).trans ((linkState_of_reg hst).trans (linkState_of_senseOk hk))

theorem senseFed_lastTEnd (w : s.regs.wf = true) (r : RunningInRange s) :
    (portAt (loopsSense p.val k (senseSeen p.val k s)) p.val).lastTEnd = k.tEnd := by
  have h := (senseFed_linkKept (p := p.val) (k := k) w r).port p.val
  rw [senseCounted_port p.isLt] at h
  exact (congrArg PortState.lastTEnd h :)

theorem senseFed_overs (w : s.regs.wf = true) (r : RunningInRange s) :
    (portAt (loopsSense p.val k (senseSeen p.val k s)) p.val).overs = overChans s p.val k 5 := by
  have h := (senseFed_linkKept (p := p.val) (k := k) w r).port p.val
  rw [senseCounted_port p.isLt] at h
  exact (congrArg PortState.overs h :)

theorem linkWord_epCntC (p : Port) : linkWord false (Reg.epCntC p.val) := by
  have := p.isLt
  simp only [linkWord, Reg.epCntC, Reg.ep]
  omega

theorem linkWord_epCntD (p : Port) : linkWord false (Reg.epCntD p.val) := by
  have := p.isLt
  simp only [linkWord, Reg.epCntD, Reg.ep]
  omega

theorem linkWord_epFlags (p : Port) : linkWord false (Reg.epFlags p.val) := by
  have := p.isLt
  simp only [linkWord, Reg.epFlags, Reg.ep]
  omega

/-- A taken return that shows no laser fault: the port's times and counts, the slot's supply, and the trackers. -/
theorem exec_sense_quiet (w : s.regs.wf = true) (r : RunningInRange s) (hu : upNow s = true) (hk : senseOk s p.val k = true)
    (h0 : bit k.status 0 = false) (ho : overChans s p.val k 5 &&& (portAt s p.val).overs = 0) (hd : k.dlCrc = 0) :
    ∃ t, exec (.sense p k) s = .next t ∧
      (portAt t p.val).lastTEnd = k.tEnd ∧ (portAt t p.val).overs = overChans s p.val k 5 ∧ linkState t p.val = lsRun ∧
      rfld t (Reg.epCntC p.val) 15 0 = min (rfld s (Reg.epCntC p.val) 15 0 + k.lateCmd.toNat) 65535 ∧
      rfld t (Reg.epCntD p.val) 31 16 = min (rfld s (Reg.epCntD p.val) 31 16 + k.planeInc.toNat) 65535 ∧
      rbit t (Reg.epFlags p.val) 4 = (rbit s (Reg.epFlags p.val) 4 || decide (k.lateCmd ≠ 0) || bit k.status 5) ∧
      (∀ n, slotOnPort s p.val = some n → reg t (Reg.lsMeas n) = BitVec.ofNat 32 k.vMeas.toNat) ∧
      (slotOnPort s p.val = none → t.slots = s.slots) ∧
      (∀ l : LoopId, loopsRun s = true → leState s l.val ≠ 0 → leSrc s l.val = 1 →
        (loopAt t l.val).picks = (loopAt s l.val).picks ++
        (sensePoints s p.val l.val k).map fun m => (m.t, BitVec.ofInt 16 (m.y.headD 0 / 2 ^ 26))) := by
  have h := exec_sense_taken hu hk hd
  rw [senseExceeded, if_neg (not_not.2 ho), senseReported, if_neg (by simp [h0])] at h
  have kept := senseFed_linkKept (p := p.val) (k := k) w r
  obtain ⟨-, hc, hD, hf, -⟩ := senseCounted_regs (p := p.val) (k := k) w
  refine ⟨_, h, senseFed_lastTEnd w r, senseFed_overs w r, senseFed_state w r hk, ?_, ?_, ?_, fun n hn => senseFed_lsMeas w r hn,
    fun hn => senseFed_slots hn, fun l hr h0 h1 => senseFed_picks w r l.isLt hr h0 h1⟩
  · rw [rfld, kept.word _ (linkWord_epCntC p), ← rfld, hc]
  · rw [rfld, kept.word _ (linkWord_epCntD p), ← rfld, hD]
  · rw [rbit, kept.word _ (linkWord_epFlags p), ← rbit, hf]

/-! ## A return that stops the laser -/

theorem senseExceeded_of_stopped {u : State} (h : LaserStopped u p.val) (m : BitVec 24) :
    LaserStopped (senseExceeded p.val m u) p.val ∧
    (portAt (senseExceeded p.val m u) p.val).lastTEnd = (portAt u p.val).lastTEnd := by
  unfold senseExceeded
  split
  · exact senseFault_of_stopped h p.isLt 2 m
  · exact ⟨h, rfl⟩

/-- A laser fault that the return reports, shows, or both. -/
theorem senseStopped_of_run {u : State} (w : u.regs.wf = true) (r : RunningInRange u) (hl : linkState u p.val = lsRun) {m : BitVec 24}
    (h : bit k.status 0 = true ∨ m ≠ 0) :
    LaserStopped (senseExceeded p.val m (senseReported p.val k u)) p.val ∧
    (portAt (senseExceeded p.val m (senseReported p.val k u)) p.val).lastTEnd = (portAt u p.val).lastTEnd := by
  by_cases h0 : bit k.status 0 = true
  · obtain ⟨hs, he⟩ := senseFault_of_run w r p.isLt 1 0xFFFFFF hl
    rw [senseReported, if_pos h0]
    obtain ⟨hs2, he2⟩ := senseExceeded_of_stopped hs m
    exact ⟨hs2, he2.trans he⟩
  · rw [senseReported, if_neg h0, senseExceeded, if_pos (h.resolve_left h0)]
    exact senseFault_of_run w r p.isLt 2 m hl

theorem exec_sense_fault (w : s.regs.wf = true) (r : RunningInRange s) (hu : upNow s = true) (hk : senseOk s p.val k = true)
    (h : bit k.status 0 = true ∨ overChans s p.val k 5 &&& (portAt s p.val).overs ≠ 0) (hd : k.dlCrc = 0) :
    ∃ t, exec (.sense p k) s = .next t ∧ linkState t p.val = lsQuiesce ∧
      (portAt t p.val).quiesce = some .engineReset ∧ (portAt t p.val).slot = none ∧ lenPin t p.val = false ∧
      rbit t Reg.lcLenStat (16 + p.val) = true ∧ rbit t Reg.frGrace p.val = true ∧ (portAt t p.val).lastTEnd = k.tEnd := by
  have kept := senseFed_linkKept (p := p.val) (k := k) w r
  obtain ⟨stopped, hend⟩ := senseStopped_of_run kept.wf kept.range (senseFed_state w r hk) h
  exact ⟨_, exec_sense_taken hu hk hd, stopped.state, stopped.why, stopped.slot, stopped.len.1, stopped.len.2, stopped.grace,
    hend.trans (senseFed_lastTEnd w r)⟩

/-! ## A return that is rejected -/

/-- The rejection is counted and flagged. -/
def senseRefused (p : Nat) (s : State) : State := epFlag p 5 (incSat (Reg.epCntD p) 15 0 s)

/-- The slot whose observations miss the return. -/
def senseMissed (p : Nat) (k : SensePkt) (s : State) : State :=
  match (portAt s p).slot with
  | some n => senseLost n k (senseRefused p s)
  | none => senseRefused p s

/-- Its binding was not the one in force. -/
def senseUnbound (p : Nat) (k : SensePkt) (u : State) : State := if k.crcOk then incSat (Reg.epCntE p) 15 0 u else u

/-- A packet that fails R305 is counted, below the threshold. -/
def packetCounted (p : Nat) (s : State) : State :=
  modPort p (fun q => { q with errs := s.linkTime :: recentErrs s p, rxErr := q.rxErr + 1 }) (epFlag p 2 (incSat (Reg.epCntA p) 15 0 s))

theorem packetError_few {s : State} {p : Nat} (h : (recentErrs s p).length < 15) : packetError p s = packetCounted p s := by
  refine if_neg ?_
  rw [List.length_cons]
  omega

theorem senseReject_eq {s : State} {p : Nat} (h : bit k.status 0 = false ∨ k.crcOk = false) :
    senseReject p k s = if k.intact then senseMissed p k s else packetError p (senseUnbound p k (senseMissed p k s)) := by
  refine if_neg ?_
  rcases h with h | h <;> simp [h]

theorem exec_sense_rejected (hu : upNow s = true) (h1 : linkState s p.val ≠ lsDetect) (h2 : linkState s p.val ≠ lsLost)
    (hk : senseOk s p.val k = false) : exec (.sense p k) s = .next (senseReject p.val k s) := by
  refine congrArg Host.Outcome.next ((whileUp_up hu _).trans ?_)
  rw [if_neg (not_or.2 ⟨h1, h2⟩), if_neg (by simp [hk])]

section Rejected
variable {s t : State} {p : Nat}

theorem rfld_incSat_same (w : s.regs.wf = true) (a : Nat) : rfld (incSat a 15 0 s) a 15 0 = min (rfld s a 15 0 + 1) 65535 :=
  rfld_addSat_same w a 1 (by omega) (by omega)

/-- The observations of the slot are all that a missing return changes. -/
theorem senseLost_modSlot (n : Nat) (k : SensePkt) (s : State) : ∃ f : SlotState → SlotState, senseLost n k s = modSlot n f s ∨
    senseLost n k s = s := by
  unfold senseLost modCal
  split
  · exact ⟨id, .inr rfl⟩
  · exact ⟨_, .inl rfl⟩

/-- From s to t a rejected return has been counted and flagged. -/
structure SenseRefused (s t : State) (p : Nat) : Prop where
  wf : t.regs.wf = true
  count : rfld t (Reg.epCntD p) 15 0 = min (rfld s (Reg.epCntD p) 15 0 + 1) 65535
  flag : rbit t (Reg.epFlags p) 5 = true
  counted : rfld t (Reg.epCntA p) 15 0 = rfld s (Reg.epCntA p) 15 0
  state : linkState t p = linkState s p
  loops : t.loops = s.loops
  ports : t.ports = s.ports
  time : t.linkTime = s.linkTime

theorem senseRefused_outcome (w : s.regs.wf = true) (p : Nat) : SenseRefused s (senseRefused p s) p := by
  have w1 : (incSat (Reg.epCntD p) 15 0 s).regs.wf = true := setFld_wf w _ _ _ _
  have hne : ∀ a, a ≠ Reg.epCntD p → a ≠ Reg.epFlags p → reg (senseRefused p s) a = reg s a := fun a hd hf => by
    rw [senseRefused, epFlag, setBit, reg_setFld_ne w1 _ _ _ hf, incSat, addSat, reg_setFld_ne w _ _ _ hd]
  refine ⟨setBit_wf w1 _ _ _, ?_, rbit_setBit_same w1 _ _ (by omega), ?_, linkState_of_reg (hne _ ?_ ?_), rfl, rfl, rfl⟩
  · rw [senseRefused, epFlag, setBit, rfld, reg_setFld_ne w1 _ _ _ (by simp [Reg.epCntD, Reg.epFlags]), ← rfld, rfld_incSat_same w]
  · rw [rfld, hne _ (by simp [Reg.epCntA, Reg.epCntD]) (by simp [Reg.epCntA, Reg.epFlags]), ← rfld]
  · simp [Reg.epStatus, Reg.epCntD]
  · simp [Reg.epStatus, Reg.epFlags]

theorem SenseRefused.modSlot (h : SenseRefused s t p) (n : Nat) (f : SlotState → SlotState) : SenseRefused s (modSlot n f t) p := by
  have hr := modSlot_regs n f t
  refine ⟨hr ▸ h.wf, ?_, ?_, ?_, (linkState_of_reg (reg_modSlot n f t _)).trans h.state, (modSlot_loops n f t).trans h.loops,
    (modSlot_ports n f t).trans h.ports, (modSlot_linkTime n f t).trans h.time⟩
  · rw [rfld, reg_modSlot, ← rfld, h.count]
  · rw [rbit, reg_modSlot, ← rbit, h.flag]
  · rw [rfld, reg_modSlot, ← rfld, h.counted]

theorem senseMissed_outcome (w : s.regs.wf = true) (p : Nat) (k : SensePkt) : SenseRefused s (senseMissed p k s) p := by
  have h := senseRefused_outcome w p
  unfold senseMissed
  split
  · next n _ =>
    obtain ⟨f, e | e⟩ := senseLost_modSlot n k (senseRefused p s)
    · rw [e]
      exact h.modSlot n f
    · rw [e]
      exact h
  · exact h

/-- The observations without the return: the row of the frame in which it ends misses its interval (R254). -/
def rowMissed (k : SensePkt) (q : SlotCal) : SlotCal :=
  if k.tEnd.toNat * 16 ≤ q.cut then { q with prev := { q.prev with lost := true } } else { q with acc := { q.acc with lost := true } }

theorem senseLost_cal {m : Nat} (hm : m < 8) (hi : k.intact = true) (s : State) :
    (slotAt (senseLost m k s) m).cal = rowMissed k (slotAt s m).cal := by
  rw [senseLost, if_neg (by simp [hi]), modCal, slotAt_modSlot_same hm]
  rfl

theorem senseMissed_cal {m : Nat} (hs : (portAt s p).slot = some m) (hm : m < 8) (hi : k.intact = true) :
    if k.tEnd.toNat * 16 ≤ (slotAt s m).cal.cut then (slotAt (senseMissed p k s) m).cal.prev.lost = true
    else (slotAt (senseMissed p k s) m).cal.acc.lost = true := by
  have hcal : (slotAt (senseMissed p k s) m).cal = rowMissed k (slotAt s m).cal := by
    simp only [senseMissed, hs]
    exact senseLost_cal hm hi (senseRefused p s)
  rw [hcal, rowMissed]
  by_cases h : k.tEnd.toNat * 16 ≤ (slotAt s m).cal.cut
  · rw [if_pos h, if_pos h]
  · rw [if_neg h, if_neg h]

theorem SenseRefused.unbound (h : SenseRefused s t p) (k : SensePkt) : SenseRefused s (senseUnbound p k t) p := by
  unfold senseUnbound
  split
  · have hne : ∀ a, a ≠ Reg.epCntE p → reg (incSat (Reg.epCntE p) 15 0 t) a = reg t a := fun a ha => reg_setFld_ne h.wf _ _ _ ha
    refine ⟨setFld_wf h.wf _ _ _ _, ?_, ?_, ?_, (linkState_of_reg (hne _ ?_)).trans h.state, h.loops, h.ports, h.time⟩
    · rw [rfld, hne _ (by simp [Reg.epCntD, Reg.epCntE]), ← rfld, h.count]
    · rw [rbit, hne _ (by simp [Reg.epFlags, Reg.epCntE]), ← rbit, h.flag]
    · rw [rfld, hne _ (by simp [Reg.epCntA, Reg.epCntE]), ← rfld, h.counted]
    · simp [Reg.epStatus, Reg.epCntE]
  · exact h

theorem SenseRefused.recentErrs (h : SenseRefused s t p) : recentErrs t p = recentErrs s p := by
  have hport : portAt t p = portAt s p := by rw [portAt, h.ports, portAt]
  have hsince : ∀ x, since t x = since s x := fun x => by rw [since, h.time, since]
  simp only [Machine.recentErrs, hport, hsince]

/-- A return that fails R305 is counted in EPn_CNT_A as well. -/
theorem SenseRefused.packetCounted (h : SenseRefused s t p) (hp : p < 8) :
    rfld (packetCounted p t) (Reg.epCntD p) 15 0 = min (rfld s (Reg.epCntD p) 15 0 + 1) 65535 ∧
    rbit (packetCounted p t) (Reg.epFlags p) 5 = true ∧
    rfld (packetCounted p t) (Reg.epCntA p) 15 0 = min (rfld s (Reg.epCntA p) 15 0 + 1) 65535 ∧
    (portAt (packetCounted p t) p).lastTEnd = (portAt s p).lastTEnd ∧ linkState (packetCounted p t) p = linkState s p ∧
    (packetCounted p t).loops = s.loops := by
  have hport : portAt t p = portAt s p := by rw [portAt, h.ports, portAt]
  have w1 : (incSat (Reg.epCntA p) 15 0 t).regs.wf = true := setFld_wf h.wf _ _ _ _
  have hreg : ∀ a, reg (Machine.packetCounted p t) a = reg (epFlag p 2 (incSat (Reg.epCntA p) 15 0 t)) a := reg_modPort _ _ _
  have hne : ∀ a, a ≠ Reg.epCntA p → a ≠ Reg.epFlags p → reg (Machine.packetCounted p t) a = reg t a := fun a ha hf => by
    rw [hreg, epFlag, setBit, reg_setFld_ne w1 _ _ _ hf, incSat, addSat, reg_setFld_ne h.wf _ _ _ ha]
  refine ⟨?_, ?_, ?_, ?_, (linkState_of_reg (hne _ ?_ ?_)).trans h.state, (modPort_loops _ _ _).trans h.loops⟩
  · rw [rfld, hne _ (by simp [Reg.epCntD, Reg.epCntA]) (by simp [Reg.epCntD, Reg.epFlags]), ← rfld, h.count]
  · rw [rbit, hreg, ← rbit, epFlag, rbit_setBit_ne w1 _ _ (by omega) (by omega), rbit, incSat, addSat,
      reg_setFld_ne h.wf _ _ _ (by simp [Reg.epFlags, Reg.epCntA]), ← rbit, h.flag]
  · rw [rfld, hreg, epFlag, setBit, reg_setFld_ne w1 _ _ _ (by simp [Reg.epCntA, Reg.epFlags]), ← rfld, rfld_incSat_same h.wf, h.counted]
  · rw [Machine.packetCounted, portAt_modPort_same hp]
    exact (congrArg PortState.lastTEnd hport :)
  · simp [Reg.epStatus, Reg.epCntA]
  · simp [Reg.epStatus, Reg.epFlags]

end Rejected

theorem exec_sense_refused (w : s.regs.wf = true) (hu : upNow s = true) (h1 : linkState s p.val ≠ lsDetect)
    (h2 : linkState s p.val ≠ lsLost) (hk : senseOk s p.val k = false) (he : k.intact = true ∨ (recentErrs s p.val).length < 15)
    (h0 : bit k.status 0 = false ∨ k.crcOk = false) :
    ∃ t, exec (.sense p k) s = .next t ∧
      rfld t (Reg.epCntD p.val) 15 0 = min (rfld s (Reg.epCntD p.val) 15 0 + 1) 65535 ∧ rbit t (Reg.epFlags p.val) 5 = true ∧
      rfld t (Reg.epCntA p.val) 15 0 = (if k.intact then rfld s (Reg.epCntA p.val) 15 0
        else min (rfld s (Reg.epCntA p.val) 15 0 + 1) 65535) ∧
      (portAt t p.val).lastTEnd = (portAt s p.val).lastTEnd ∧ linkState t p.val = linkState s p.val ∧ t.loops = s.loops ∧
      ∀ m, (portAt s p.val).slot = some m → m < 8 → k.intact = true → if k.tEnd.toNat * 16 ≤ (slotAt s m).cal.cut
        then (slotAt t m).cal.prev.lost = true else (slotAt t m).cal.acc.lost = true := by
  have hm := senseMissed_outcome w p.val k
  refine ⟨_, (exec_sense_rejected hu h1 h2 hk).trans (congrArg Host.Outcome.next (senseReject_eq h0)), ?_⟩
  by_cases hi : k.intact = true
  · rw [if_pos hi, if_pos hi]
    exact ⟨hm.count, hm.flag, hm.counted, by rw [portAt, hm.ports, portAt], hm.state, hm.loops,
      fun m hs hm hi => senseMissed_cal hs hm hi⟩
  · have hb := hm.unbound k
    rw [if_neg hi, if_neg hi, packetError_few (hb.recentErrs ▸ he.resolve_left hi)]
    obtain ⟨hd, hf, ha, hend, hst, hl⟩ := hb.packetCounted p.isLt
    exact ⟨hd, hf, ha, hend, hst, hl, fun _ _ _ h => absurd h hi⟩

/-- Settles O49: each clause is a lemma about one command, above; the Casts that the slots run are in range. -/
theorem linkQuiesceAndSense : Obligations.LinkQuiesceAndSense := by
  intro s p wf casts
  have w : s.regs.wf = true := (State.wf_iff.1 wf).1
  have r : RunningInRange s := casts.1
  refine ⟨fun v ho h0 h1 h2 => ⟨exec_quiesce_taken w r ho h0 h1 h2, exec_quiesce_idle ho h0 h1 h2⟩,
    fun i reason hi hs => ⟨exec_answer_to_detect w r hi hs, exec_answer_to_identify w r hi hs⟩,
    fun v ho h0 h1 h2 h => exec_retry_unrejected w ho h0 h1 h2 h,
    fun i v n c hi hl hr hid hs hc => exec_retry_rejected w hi hl hr hid hs hc,
    fun k hu hk h0 ho hd => exec_sense_quiet w r hu hk h0 ho hd,
    fun k hu hk h hd => exec_sense_fault w r hu hk h hd,
    fun k hu h1 h2 hk he h0 => exec_sense_refused w hu h1 h2 hk he h0⟩

end Sys2Proof.Machine
end

section
/-! PROOFS. Casts in range: what keeps the slots' Casts and the Cast loader keeps them in range (R31 to R34). -/

set_option Elab.async false

namespace Sys2Proof.Machine

section
variable {s t : State}

theorem cfgOf_congr (h : t.slots = s.slots) (n : Nat) : cfgOf t n = cfgOf s n := by
  rw [cfgOf, slotAt, h, cfgOf, slotAt]

/-- Each slot runs what it ran, and the Casts that the part holds stand but for one that it lets go. -/
theorem CastsInRange.of (h : CastsInRange s) (hn : ∀ n, cfgOf t n = cfgOf s n) (hr : t.cast.running = s.cast.running)
    (hd : t.cast.staged = s.cast.staged ∨ t.cast.staged = none)
    (hw : t.cast.switch.map (·.prev) = s.cast.switch.map (·.prev) ∨ t.cast.switch = none) : CastsInRange t := by
  obtain ⟨hcfg, hrun, hstaged, hprev⟩ := h
  refine ⟨fun n c hc => hcfg n c (hn n ▸ hc), hr ▸ hrun, fun d hd' => ?_, fun w hw' => ?_⟩
  · rcases hd with hd | hd
    · exact hstaged d (hd ▸ hd')
    · exact absurd (hd.symm.trans hd') nofun
  · rcases hw with hw | hw
    · rw [hw', Option.map_some, eq_comm, Option.map_eq_some_iff] at hw
      obtain ⟨w', hs, he⟩ := hw
      exact he ▸ hprev w' hs
    · exact absurd (hw.symm.trans hw') nofun

theorem CastsInRange.ofSame (h : CastsInRange s) (hs : t.slots = s.slots) (hc : t.cast = s.cast) : CastsInRange t :=
  h.of (cfgOf_congr hs) (by rw [hc]) (.inl (by rw [hc])) (.inl (by rw [hc]))

/-- What leaves the slots and the Cast loader leaves the Casts. -/
theorem CastsInRange.ofKeeps {F : List Kind} (h : CastsInRange s) (k : Keeps F s t) (hs : Kind.slots ∉ F := by decide)
    (hc : Kind.cast ∉ F := by decide) : CastsInRange t :=
  h.ofSame (k.same hs) (k.same hc)

/-- Every kind of state but the slots and the Cast loader. -/
def otherKinds : List Kind :=
  [.linkTime, .regs, .pitchAct, .dram, .bar4, .busData, .out, .freeCount, .corePh, .ports, .hall, .power, .fr, .mail, .codec,
   .chans, .page, .mc, .heat, .sb, .loops]

theorem CastsInRange.keep (h : CastsInRange s) (k : Keeps otherKinds s s → Keeps otherKinds s t) : CastsInRange t :=
  h.ofKeeps (k (.refl _ s))

theorem CastsInRange.ite {c : Prop} {_ : Decidable c} (hs : CastsInRange s) (ht : CastsInRange t) :
    CastsInRange (if c then s else t) := by
  split
  · exact hs
  · exact ht

theorem CastsInRange.modSlot (h : CastsInRange s) (n : Nat) (f : SlotState → SlotState)
    (hf : ∀ q, (f q).cfg = q.cfg := by exact fun _ => rfl) : CastsInRange (modSlot n f s) :=
  h.of (cfgOf_modSlot hf s) (by simp) (.inl (by simp)) (.inl (by simp))

theorem CastsInRange.modCast (h : CastsInRange s) (f : CastState → CastState)
    (hr : (f s.cast).running = s.cast.running := by exact rfl)
    (hd : (f s.cast).staged = s.cast.staged ∨ (f s.cast).staged = none := by exact .inl rfl)
    (hw : (f s.cast).switch.map (·.prev) = s.cast.switch.map (·.prev) ∨ (f s.cast).switch = none := by exact .inl rfl) :
    CastsInRange (modCast f s) :=
  h.of (fun _ => rfl) hr hd hw

theorem CastsInRange.foldl {α : Type} (h : CastsInRange s) (l : List α) {f : State → α → State}
    (hf : ∀ x ∈ l, ∀ u, CastsInRange u → CastsInRange (f u x)) : CastsInRange (l.foldl f s) :=
  List.foldlRecOn l f h fun u hu x hx => hf x hx u hu

theorem CastsInRange.forAll (h : CastsInRange s) (l : List Nat) {f : Nat → State → State}
    (hf : ∀ i ∈ l, ∀ u, CastsInRange u → CastsInRange (f i u)) : CastsInRange (forAll l f s) :=
  h.foldl l hf

theorem CastsInRange.setReg (h : CastsInRange s) (a : Nat) (v : Word) : CastsInRange (setReg a v s) := h.ofSame rfl rfl
theorem CastsInRange.setRegs (h : CastsInRange s) (l : List (Nat × Word)) : CastsInRange (setRegs l s) := h.ofSame rfl rfl
theorem CastsInRange.setFld (h : CastsInRange s) (a hi lo x : Nat) : CastsInRange (setFld a hi lo x s) := h.ofSame rfl rfl
theorem CastsInRange.setBit (h : CastsInRange s) (a i : Nat) (b : Bool) : CastsInRange (setBit a i b s) := h.ofSame rfl rfl
theorem CastsInRange.addSat (h : CastsInRange s) (a hi lo k : Nat) : CastsInRange (addSat a hi lo k s) := h.ofSame rfl rfl
theorem CastsInRange.incSat (h : CastsInRange s) (a hi lo : Nat) : CastsInRange (incSat a hi lo s) := h.ofSame rfl rfl

theorem CastsInRange.raiseVec (h : CastsInRange s) (v : Nat) : CastsInRange (raiseVec v s) :=
  h.ofSame (raiseVec_slots v s) (raiseVec_cast v s)

theorem CastsInRange.logEvent (h : CastsInRange s) (c : Status) (cls id d : Nat) : CastsInRange (logEvent c cls id d s) :=
  h.ofKeeps (keeps_logEvent (List.Subset.refl _) c cls id d (Keeps.refl _ s))

theorem CastsInRange.modPort (h : CastsInRange s) (p : Nat) (f : PortState → PortState) : CastsInRange (modPort p f s) :=
  h.ofSame (modPort_slots p f s) (modPort_cast p f s)

theorem CastsInRange.modChan (h : CastsInRange s) (k : Nat) (f : ChanCal → ChanCal) : CastsInRange (modChan k f s) :=
  h.ofSame (modChan_slots k f s) (modChan_cast k f s)

theorem CastsInRange.modLoop (h : CastsInRange s) (l : Nat) (f : LoopState → LoopState) : CastsInRange (modLoop l f s) :=
  h.ofSame (modLoop_slots l f s) (modLoop_cast l f s)

theorem CastsInRange.modHeat (h : CastsInRange s) (f : HeatState → HeatState) : CastsInRange (modHeat f s) := h.ofSame rfl rfl
theorem CastsInRange.modMc (h : CastsInRange s) (f : DramState → DramState) : CastsInRange (modMc f s) := h.ofSame rfl rfl
theorem CastsInRange.modPower (h : CastsInRange s) (f : PowerState → PowerState) : CastsInRange (modPower f s) := h.ofSame rfl rfl

theorem CastsInRange.sendPkt (h : CastsInRange s) (p : Nat) (k : LinkPkt) : CastsInRange (sendPkt p k s) :=
  h.ofKeeps (keeps_sendPkt (List.Subset.refl _) p k (Keeps.refl _ s))

end

section
variable {s : State} {f : State → State}
theorem CastsInRange.noteState (h : CastsInRange s) (hf : ∀ t, CastsInRange t → CastsInRange (f t)) :
    CastsInRange (noteState f s) := by
  unfold Machine.noteState
  dsimp only
  split
  · exact (hf s h).raiseVec 0
  · exact hf s h

theorem CastsInRange.withDim (h : CastsInRange s) (hf : ∀ t, CastsInRange t → CastsInRange (f t)) :
    CastsInRange (withDim f s) := h.noteState hf

theorem CastsInRange.whileUp (h : CastsInRange s) (hf : ∀ t, CastsInRange t → CastsInRange (f t)) :
    CastsInRange (whileUp f s) := by
  unfold Machine.whileUp
  split
  · exact hf s h
  · exact h

theorem CastsInRange.whilePowered (h : CastsInRange s) (hf : ∀ t, CastsInRange t → CastsInRange (f t)) :
    CastsInRange (whilePowered f s) := by
  unfold Machine.whilePowered
  split
  · exact hf s h
  · exact h

theorem CastsInRange.hostWrite (h : CastsInRange s) (off : Nat) (v : Word) {act : Word → State → State}
    (hf : ∀ v t, CastsInRange t → CastsInRange (act v t)) : CastsInRange (hostWrite off v act s) := by
  unfold Machine.hostWrite
  split
  · exact h
  · split
    · exact h
    · dsimp only
      split
      · exact h
      · refine hf _ _ ?_
        split
        · exact h.logEvent _ _ _ _
        · exact h
end

section
variable {s t : State}

theorem CastsInRange.forChans (h : CastsInRange s) (c : SlotCast) {f : Nat → ChanEnt → State → State}
    (hf : ∀ i e u, CastsInRange u → CastsInRange (f i e u)) : CastsInRange (forChans c f s) :=
  h.foldl _ fun x _ u hu => hf x.1 x.2 u hu

theorem CastsInRange.hostPitchGate (h : CastsInRange s) (off : Nat) (rw v : Word) (built : Bool) {act : Word → State → State}
    (hf : ∀ v t, CastsInRange t → CastsInRange (act v t)) : CastsInRange (hostPitchGate off rw v built act s) :=
  .ite h (hf _ _ (.ite (h.logEvent _ _ _ _) h))

theorem CastsInRange.modSwitch (h : CastsInRange s) (f : SwitchState → SwitchState)
    (hf : ∀ w, (f w).prev = w.prev := by exact fun _ => rfl) : CastsInRange (modSwitch f s) :=
  h.modCast _ rfl (.inl rfl) (.inl (by rw [Option.map_map]; exact congrArg (Option.map · _) (funext hf)))

/-- Every Cast of a description's slots is in range. -/
def CastDesc.InRange (d : CastDesc) : Prop := ∀ x ∈ d.slots, SlotInRange x.2

/-- The Cast loader holds Casts in range. -/
theorem CastsInRange.withCast (h : CastsInRange s) {k : CastState} (hr : k.running.InRange)
    (hd : ∀ d, k.staged = some d → d.InRange) (hw : ∀ w, k.switch = some w → ∀ x ∈ w.prev, SlotInRange x.2) :
    CastsInRange { s with cast := k } := by
  obtain ⟨hcfg, -, -, -⟩ := h
  exact ⟨hcfg, hr, hd, hw⟩

/-- Slot n runs another Cast, in range, or none. -/
theorem CastsInRange.recfg (h : CastsInRange s) (n : Nat) (f : SlotState → SlotState)
    (hf : ∀ q c, (f q).cfg = some c → SlotInRange c) : CastsInRange (Machine.modSlot n f s) := by
  obtain ⟨hcfg, hrun, hstaged, hprev⟩ := h
  refine ⟨fun k c hc => ?_, by simpa using hrun, by simpa using hstaged, by simpa using hprev⟩
  by_cases hk : k = n ∧ n < 8
  · obtain ⟨rfl, h8⟩ := hk
    rw [cfgOf, slotAt_modSlot_same h8] at hc
    exact hf _ c hc
  · refine hcfg k c ?_
    rw [← hc, cfgOf, cfgOf]
    by_cases hkn : k = n
    · rw [Machine.modSlot, dif_neg fun h8 => hk ⟨hkn, h8⟩]
    · rw [slotAt_modSlot_ne hkn]

/-- Without a declared slot and with the boot Cast in force nothing is out of range. -/
theorem castsInRange_of_boot (hs : t.slots = Vector.replicate 8 SlotState.undeclared) (hc : t.cast = CastState.boot) :
    CastsInRange t := by
  refine ⟨fun n c h => absurd ((cfgOf_of_undeclared hs n).symm.trans h) nofun, ?_, ?_, ?_⟩ <;> rw [hc]
  · exact fun x hx => absurd hx List.not_mem_nil
  · exact nofun
  · exact nofun

theorem CastsInRange.boot (h : CastsInRange s) : CastsInRange { s with cast := CastState.boot } :=
  h.withCast (fun _ hx => absurd hx List.not_mem_nil) nofun nofun
end

end Sys2Proof.Machine
end

section
/-! PROOFS. Casts in range through validation: the range checks let in no Cast that names what does not exist (R49). -/

set_option Elab.async false

namespace Sys2Proof.Machine

/-! ## A valid Cast is in range -/

theorem firstBad_eq_none : ∀ {l : List (Nat × Bool)}, firstBad l = none → ∀ x ∈ l, x.2 = true
  | [], _, _, hx => absurd hx List.not_mem_nil
  | (o, true) :: r, h, x, hx => by
    rcases List.mem_cons.1 hx with rfl | hx
    · rfl
    · exact firstBad_eq_none (l := r) h x hx

theorem leNat_lt : ∀ bs : List Byte, leNat bs < 256 ^ bs.length
  | [] => by decide
  | b :: bs => by
    have h := leNat_lt bs
    have hb := b.isLt
    rw [leNat, List.length_cons, Nat.pow_succ]
    omega

theorem leAt_two_le (b : List Byte) (o : Nat) : leAt b o 2 ≤ 65535 :=
  Nat.le_of_lt_succ ((leNat_lt _).trans_le (Nat.pow_le_pow_right (by decide) (List.length_take_le 2 _)))

theorem checkRanges_eq_none {b : List Byte} : ∀ {rs : List RawRec} {k : Nat}, checkRanges b k rs = none →
    ∀ r ∈ rs, ∃ j, checkRange b j r = none
  | [], _, _, _, hr => absurd hr List.not_mem_nil
  | q :: rs, k, h, r, hr => by
    rw [checkRanges] at h
    cases hq : checkRange b k q with
    | some e => exact absurd (hq ▸ h) nofun
    | none =>
      rw [hq] at h
      rcases List.mem_cons.1 hr with rfl | hr
      · exact ⟨k, hq⟩
      · exact checkRanges_eq_none h r hr

/-- What check 6 of R49 lists for a record body of a type, j bytes of asset data before it. -/
def rangeOf (ty : Nat) (body : List Byte) (j : Nat) : List (Nat × Bool) :=
  match ty with
  | 1 => rangeSlot body
  | 2 => rangePipe body
  | 3 => rangeChmp body
  | 4 => rangePhse body
  | 5 => rangePool body
  | 6 => rangePowr body
  | 7 => rangeLock body
  | _ => rangeHall body j

theorem checkRange_eq_none {b : List Byte} {j : Nat} {r : RawRec} (h : checkRange b j r = none) :
    ∀ x ∈ rangeOf r.ty r.body j, x.2 = true := by
  unfold checkRange at h
  split at h
  · exact absurd h nofun
  · exact firstBad_eq_none (Option.map_eq_none_iff.1 h)

/-- The records of a Cast that passes the checks passed check 6. -/
theorem validate_ranges {env : CastEnv} {b : List Byte} {c : CastDesc} (h : validate env b = .inr c) :
    c = castOf b ∧ ∀ r ∈ rawRecs b, ∃ j, ∀ x ∈ rangeOf r.ty r.body j, x.2 = true := by
  unfold validate at h
  dsimp only at h
  split at h
  · exact absurd h nofun
  · next hc =>
    simp only [Option.orElse_eq_orElse, Option.orElse_eq_or, Option.or_eq_none_iff] at hc
    obtain ⟨-, -, -, -, -, -, -, hr, -⟩ := hc
    refine ⟨(Sum.inr.inj h).symm, fun r hm => ?_⟩
    obtain ⟨j, hj⟩ := checkRanges_eq_none hr r hm
    exact ⟨j, checkRange_eq_none hj⟩

/-- The body that a record of a type gives is one in the list, or empty where there is none. -/
theorem body_of_findRec {rs : List RawRec} {P : List Byte → Prop} (t n : Nat) (h0 : P [])
    (h : ∀ r ∈ rs, r.ty = t → P r.body) : P (((findRec rs t n).map (·.body)).getD []) := by
  cases hf : findRec rs t n with
  | none => exact h0
  | some r =>
    have ht := List.find?_some hf
    simp only [Bool.and_eq_true, beq_iff_eq] at ht
    exact h r (List.mem_of_find?_eq_some hf) ht.1

theorem port_of_rangeSlot {b : List Byte} (h : ∀ x ∈ rangeSlot b, x.2 = true) : (readSlot b).port < 8 := by
  have h0 := h (0, decide ((readSlot b).port ≤ 7)) (by simp [rangeSlot])
  exact Nat.lt_succ_of_le (of_decide_eq_true h0)

theorem rangePipe_bounds {b : List Byte} (h : ∀ x ∈ rangePipe b, x.2 = true) :
    (readPipe b).composer < 2 ∧ (readPipe b).pitchBase + (readPipe b).pitches ≤ 3072 := by
  have h0 := h (0, decide ((readPipe b).composer ≤ 1)) (by simp [rangePipe])
  have h6 := h (6, decide ((readPipe b).pitchBase ≤ 3071)) (by simp [rangePipe])
  have h8 := h (8, decide (1 ≤ (readPipe b).pitches ∧ (readPipe b).pitches ≤ 3072 - (readPipe b).pitchBase ∧
    (readPipe b).nvid + (readPipe b).ngfx + (readPipe b).maskMax ≤ (readPipe b).pitches)) (by simp [rangePipe])
  obtain ⟨-, hp, -⟩ := of_decide_eq_true h8
  have hc : (readPipe b).composer ≤ 1 := of_decide_eq_true h0
  have hb : (readPipe b).pitchBase ≤ 3071 := of_decide_eq_true h6
  omega

theorem lc_of_rangeChmp {b : List Byte} (h : ∀ x ∈ rangeChmp b, x.2 = true) : ∀ e ∈ readChmp b, e.lc < 96 := by
  intro e he
  obtain ⟨i, hi, rfl⟩ := List.mem_map.1 he
  have hx : (4 + 8 * i, decide (byteAt b (4 + 8 * i) ≤ 95)) ∈ rangeChmp b :=
    List.mem_append_left _ (List.mem_append_right _ (List.mem_flatMap.2 ⟨i, hi, by simp⟩))
  exact Nat.lt_succ_of_le (of_decide_eq_true (h _ hx))

theorem count_readSlot (b : List Byte) : ∀ m ∈ (readSlot b).modes, m.count ≤ 65535 := by
  intro m hm
  obtain ⟨i, -, rfl⟩ := List.mem_map.1 hm
  exact leAt_two_le b _

theorem slotCastOf_inRange {rs : List RawRec} (h : ∀ r ∈ rs, ∃ j, ∀ x ∈ rangeOf r.ty r.body j, x.2 = true) (n : Nat) :
    SlotInRange (slotCastOf rs n) := by
  have hb {t : Nat} {P : List Byte → Prop} (h0 : P []) (hP : ∀ b j, (∀ x ∈ rangeOf t b j, x.2 = true) → P b) :
      P (((findRec rs t n).map (·.body)).getD []) :=
    body_of_findRec t n h0 fun r hr ht => by
      obtain ⟨j, hj⟩ := h r hr
      exact hP _ j (ht ▸ hj)
  have hslot := hb (t := 1) (P := fun b => (readSlot b).port < 8) (by decide) fun b _ => port_of_rangeSlot
  have hpipe := hb (t := 2) (P := fun b => (readPipe b).composer < 2 ∧ (readPipe b).pitchBase + (readPipe b).pitches ≤ 3072)
    (by decide) fun b _ => rangePipe_bounds
  have hchmp := hb (t := 3) (P := fun b => ∀ e ∈ readChmp b, e.lc < 96) (by decide) fun b _ => lc_of_rangeChmp
  exact ⟨hslot, hpipe.1, hchmp, hpipe.2, count_readSlot _⟩

/-- Validation (R49) lets no Cast in that names what does not exist. -/
theorem validate_inRange {env : CastEnv} {b : List Byte} {c : CastDesc} (h : validate env b = .inr c) : c.InRange := by
  obtain ⟨rfl, hr⟩ := validate_ranges h
  intro x hx
  obtain ⟨r, -, rfl⟩ := List.mem_map.1 hx
  exact slotCastOf_inRange hr r.index

end Sys2Proof.Machine
end

section
/-! PROOFS. Casts in range through every operation of the part that works on a slot or on the Cast loader. -/

set_option Elab.async false

namespace Sys2Proof.Machine

section
variable {s : State}

/-! ## Light channels -/

theorem CastsInRange.refreshCeil (h : CastsInRange s) (n : Nat) : CastsInRange (refreshCeil n s) := by
  unfold Machine.refreshCeil
  dsimp only
  split
  · exact h
  · refine (h.modSlot _ _).forAll _ fun _ _ _ hu => ?_
    split
    · exact hu
    · exact hu.setFld _ _ _ _

theorem CastsInRange.takeCeilInputs (h : CastsInRange s) (n : Nat) : CastsInRange (takeCeilInputs n s) := by
  unfold Machine.takeCeilInputs
  split
  · exact h
  · exact h.modSlot _ _

theorem CastsInRange.setTarget (h : CastsInRange s) (n d : Nat) : CastsInRange (setTarget n d s) := by
  unfold Machine.setTarget
  dsimp only
  split
  · exact h
  · exact .ite h (((CastsInRange.ite (h.setBit _ _ _) h).modSlot _ _).keep (keeps_showSupply (by decide) _))

theorem CastsInRange.raiseTarget (h : CastsInRange s) (n d : Nat) : CastsInRange (raiseTarget n d s) := by
  unfold Machine.raiseTarget
  split
  · exact h
  · exact .ite (h.setTarget _ _) h

theorem CastsInRange.moveSupply (h : CastsInRange s) (n us : Nat) : CastsInRange (moveSupply n us s) :=
  (h.modSlot _ _).keep (keeps_showSupply (by decide) _)

theorem CastsInRange.emptyHeld (h : CastsInRange s) (n : Nat) : CastsInRange (emptyHeld n s) := (h.modSlot _ _).setReg _ _

theorem CastsInRange.lenDrop (h : CastsInRange s) (p cause : Nat) : CastsInRange (lenDrop p cause s) := by
  unfold Machine.lenDrop
  extract_lets s1 s2
  have h2 : CastsInRange s2 := (((h.setBit _ _ _).setReg _ _).keep (keeps_issueOff (by decide) p _)).modPort p _
  clear_value s2
  refine .ite ?_ h
  split
  · next n _ => exact (((h2.modSlot n _).refreshCeil n).emptyHeld n).setTarget n 0
  · exact h2

theorem CastsInRange.lenDropAll (h : CastsInRange s) (cause : Nat) : CastsInRange (lenDropAll cause s) :=
  h.forAll _ fun _ _ _ hu => hu.lenDrop _ _

theorem CastsInRange.lenTry (h : CastsInRange s) (p : Nat) : CastsInRange (lenTry p s) := by
  unfold Machine.lenTry
  extract_lets s1
  have h1 : CastsInRange s1 := (h.setBit _ _ _).modPort p _
  refine .ite ?_ h
  split
  · next n _ =>
    extract_lets codes s2
    have h2 : CastsInRange s2 := (h1.refreshCeil n).keep (keeps_installMaps (by decide) n)
    exact h2.keep (keeps_issueLevels (by decide) n codes _)
  · exact h1

theorem CastsInRange.lenTryAll (h : CastsInRange s) : CastsInRange (lenTryAll s) := h.forAll _ fun _ _ _ hu => hu.lenTry _

/-! ## Dim and containment -/

theorem CastsInRange.engageDim (h : CastsInRange s) (n : Nat) : CastsInRange (engageDim n s) :=
  ((h.modSlot _ _).refreshCeil _).keep (keeps_installMaps (by decide) _)

theorem CastsInRange.dipNow (h : CastsInRange s) (n : Nat) : CastsInRange (dipNow n s) := by
  unfold Machine.dipNow
  split
  · exact h
  · extract_lets s1 lit
    have h1 : CastsInRange s1 := ((h.modSlot n _).refreshCeil n).keep (keeps_installMaps (by decide) n)
    exact .ite h1 (.ite (h1.keep (keeps_issueOff (by decide) _ _)) (h1.keep (keeps_issueLevels (by decide) n _ _)))

theorem CastsInRange.containSlot (h : CastsInRange s) (n : Nat) (cause : ContainCause) (off : Bool) :
    CastsInRange (containSlot n cause off s) :=
  .ite h (.ite ((((h.modSlot _ _).keep (keeps_showContain (by decide))).lenDrop _ _).refreshCeil _)
    ((h.modSlot _ _).keep (keeps_showContain (by decide))))

theorem CastsInRange.containAll (h : CastsInRange s) (cause : ContainCause) : CastsInRange (containAll cause s) :=
  h.forAll _ fun _ _ _ hu => hu.containSlot _ _ _

theorem CastsInRange.laserFault (h : CastsInRange s) (p code : Nat) (chans : List Nat) :
    CastsInRange (laserFault p code chans s) := by
  unfold Machine.laserFault
  extract_lets s1 s2 s3 s4
  have h1 : CastsInRange s1 := (h.setBit _ _ _).forAll _ fun _ _ _ hu => hu.setBit _ _ _
  have h3 : CastsInRange s3 := ((h1.logEvent _ _ _ _).lenDrop p code).modPort p _
  have h4 : CastsInRange s4 := by
    unfold s4
    split
    · exact h3.containSlot _ _ _
    · exact h3
  exact h4.keep (keeps_startGrace (by decide) _)

theorem CastsInRange.endContain (h : CastsInRange s) (n : Nat) (locked : Bool) : CastsInRange (endContain n locked s) :=
  (h.modSlot _ _).keep (keeps_showContain (by decide))

theorem CastsInRange.lenArm (h : CastsInRange s) (v : Word) : CastsInRange (lenArm v s) :=
  ((h.setFld _ _ _ _).forAll _ fun _ _ _ hu => .ite hu (hu.lenDrop _ _)).lenTryAll

theorem CastsInRange.lenFaultClear (h : CastsInRange s) (v : Word) : CastsInRange (lenFaultClear v s) :=
  (h.forAll _ fun _ _ _ hu => .ite (hu.setBit _ _ _) hu).lenTryAll

/-! ## The phase domain -/

theorem CastsInRange.modReck (h : CastsInRange s) (n : Nat) (f : Reckoner → Reckoner) : CastsInRange (modReck n f s) :=
  h.modSlot _ _

theorem CastsInRange.takePoint (h : CastsInRange s) (n : Nat) (t : LinkTime) : CastsInRange (takePoint n t s) := by
  unfold Machine.takePoint
  dsimp only
  split
  · exact .ite (((h.modReck _ _).setReg _ _).setBit _ _ _) ((h.modReck _ _).setReg _ _)
  · split
    · exact h.modReck _ _
    · exact h

theorem CastsInRange.reckonSlot (h : CastsInRange s) (n : Nat) (t : LinkTime) : CastsInRange (reckonSlot n t s) := by
  unfold Machine.reckonSlot
  dsimp only
  split
  · exact h
  · exact .ite h (.ite (.ite (h.modReck _ _) h) ((h.takePoint _ _).modReck _ _))

theorem CastsInRange.syncEdgeSlot (h : CastsInRange s) (t : LinkTime) (n : Nat) : CastsInRange (syncEdgeSlot t n s) := by
  unfold Machine.syncEdgeSlot
  dsimp only
  split
  · exact h
  · split
    · exact h.modReck _ _
    · exact .ite (h.modReck _ _) (h.incSat _ _ _)
    · exact .ite (h.modReck _ _) (h.incSat _ _ _)
    · exact .ite ((h.modReck _ _).modSlot _ _) (h.modReck _ _)
    · exact h
    · exact h

theorem CastsInRange.syncMissed (h : CastsInRange s) (n : Nat) : CastsInRange (syncMissed n s) := by
  unfold Machine.syncMissed
  dsimp only
  split
  · exact h
  · exact .ite (.ite (((((((h.modReck _ _).incSat _ _ _).modReck _ _).modSlot _ _).setBit _ _ _).logEvent _ _ _ _).raiseVec _)
      ((h.modReck _ _).incSat _ _ _)) h

theorem CastsInRange.pickoffLost (h : CastsInRange s) (n : Nat) : CastsInRange (pickoffLost n s) := by
  unfold Machine.pickoffLost
  split
  · exact h
  · exact .ite (((h.modReck _ _).setBit _ _ _).logEvent _ _ _ _) h

theorem CastsInRange.insertEvents (h : CastsInRange s) (n : Nat) (k : Lane) (evs : List (BitVec 64)) :
    CastsInRange (insertEvents n k evs s) :=
  .ite (h.modSlot _ _) (((h.modSlot _ _).addSat _ _ _ _).setBit _ _ _)

theorem CastsInRange.insertCal (h : CastsInRange s) (n : Nat) (evs : List (PhaseWord × BitVec 64)) :
    CastsInRange (insertCal n evs s) :=
  (h.modSlot _ _).insertEvents _ _ _

theorem CastsInRange.laneRoom (h : CastsInRange s) (n : Nat) (k : Lane) : CastsInRange (laneRoom n k s) :=
  h.modSlot n _ fun q => by
    split
    · rfl
    · split <;> rfl

/-! ## Layers -/

theorem CastsInRange.noteMasks (h : CastsInRange s) (n : Nat) (c : SlotCast) (t16 : Int) : CastsInRange (noteMasks n c t16 s) :=
  h.forAll _ fun _ _ _ hu => .ite (((((hu.setBit _ _ _).setBit _ _ _).setFld _ _ _ _).modSlot _ _).setBit _ _ _)
    (((hu.setBit _ _ _).setBit _ _ _).setFld _ _ _ _)

/-! ## Plane tables -/

theorem CastsInRange.applySwap (h : CastsInRange s) (n m : Nat) : CastsInRange (applySwap n m s) := by
  unfold Machine.applySwap
  dsimp only
  split
  · exact h
  · exact (((((h.forAll _ fun _ _ _ hu => hu.keep (keeps_copyPitch (by decide) _)).forAll _
      fun _ _ _ hu => hu.setFld _ _ _ _).modSlot _ _).setBit _ _ _).setBit _ _ _).keep (keeps_showSeq (by decide) _)

theorem CastsInRange.raiseFrame (h : CastsInRange s) (n : Nat) : CastsInRange (raiseFrame n s) := by
  unfold Machine.raiseFrame
  split
  · exact h
  · exact .ite (h.raiseTarget _ _) h

theorem CastsInRange.requestSwap (h : CastsInRange s) (n m : Nat) : CastsInRange (requestSwap n m s) := by
  unfold Machine.requestSwap
  dsimp only
  split
  · exact h
  · exact .ite (h.keep (keeps_slPendWr (by decide) _)) (.ite (h.keep (keeps_rejectSwap (by decide) _ _))
      (.ite (h.applySwap _ _) (.ite ((((h.setBit _ _ _).modSlot _ _).raiseTarget _ _).setBit _ _ _)
      (((h.setBit _ _ _).modSlot _ _).raiseTarget _ _))))

theorem CastsInRange.cancelSwap (h : CastsInRange s) (n m : Nat) : CastsInRange (cancelSwap n m s) :=
  .ite ((h.setBit _ _ _).modSlot _ _) h

theorem CastsInRange.slCtrl (h : CastsInRange s) (n : Nat) (v : Word) : CastsInRange (slCtrl n v s) :=
  .ite ((CastsInRange.ite (h.cancelSwap _ _) h).requestSwap _ _) (.ite (h.cancelSwap _ _) h)

theorem CastsInRange.boundarySwaps (h : CastsInRange s) (n : Nat) : CastsInRange (boundarySwaps n s) :=
  (h.modSlot _ _).forAll _ fun _ _ _ hu => hu.applySwap _ _

theorem CastsInRange.applyAllSwaps (h : CastsInRange s) (n : Nat) : CastsInRange (applyAllSwaps n s) :=
  h.forAll _ fun _ _ _ hu => hu.applySwap _ _

theorem CastsInRange.takeShift (h : CastsInRange s) (n : Nat) (c : SlotCast) : CastsInRange (takeShift n c s) := by
  unfold Machine.takeShift
  dsimp only
  split
  · exact h
  · refine CastsInRange.setFld ?_ _ _ _ _
    refine CastsInRange.modSlot ?_ _ _
    split
    · exact (h.modSlot _ _).setFld _ _ _ _
    · exact h.incSat _ _ _

theorem CastsInRange.levelStale (h : CastsInRange s) (n : Nat) : CastsInRange (levelStale n s) := by
  unfold Machine.levelStale
  split
  · exact h
  · exact .ite (((h.modSlot _ _).setBit _ _ _).logEvent _ _ _ _) h

theorem CastsInRange.writePlane (h : CastsInRange s) (n : Nat) (c : SlotCast) (k : Nat) (bs : List Byte) :
    CastsInRange (writePlane n c k bs s) :=
  .ite (h.modSlot _ _) (h.keep (keeps_storePlane (by decide) _ _ _ _))

theorem CastsInRange.storeHeld (h : CastsInRange s) (n : Nat) (c : SlotCast) (k : Nat) : CastsInRange (storeHeld n c k s) := by
  unfold Machine.storeHeld
  split
  · exact h
  · exact (h.modSlot _ _).keep (keeps_storePlane (by decide) _ _ _ _)

theorem CastsInRange.slicePlanes (h : CastsInRange s) (n : Nat) (c : SlotCast) (taken : Taken) :
    CastsInRange (slicePlanes n c taken s) := by
  unfold Machine.slicePlanes
  dsimp only
  refine h.forAll _ fun _ _ _ hu => ?_
  split
  · exact hu
  · exact .ite hu (hu.writePlane _ _ _ _)

theorem CastsInRange.sliceFrame (h : CastsInRange s) (n : Nat) (c : SlotCast) (taken : Taken) :
    CastsInRange (sliceFrame n c taken s) :=
  (CastsInRange.ite (h.slicePlanes _ _ _) h).modSlot _ _

theorem CastsInRange.sliceStart (h : CastsInRange s) (n : Nat) (late : List (Nat × Nat)) :
    CastsInRange (sliceStart n late s) := by
  unfold Machine.sliceStart
  dsimp only
  split
  · exact h
  · exact .ite (((((h.takeShift _ _).setReg _ _).keep (keeps_noteUnder (by decide) _ _)).sliceFrame _ _ _).addSat _ _ _ _)
      ((((h.takeShift _ _).setReg _ _).keep (keeps_noteUnder (by decide) _ _)).sliceFrame _ _ _)

theorem CastsInRange.sliceDeadline (h : CastsInRange s) (n taken delivered : Nat) :
    CastsInRange (sliceDeadline n taken delivered s) := by
  unfold Machine.sliceDeadline
  dsimp only
  split
  · exact h
  · exact .ite ((((h.setBit _ _ _).incSat _ _ _).keep (keeps_noteUnder (by decide) _ _)).sliceFrame _ _ _) h

/-! ## Scan lines -/

theorem CastsInRange.computeTraj (h : CastsInRange s) (n : Nat) : CastsInRange (computeTraj n s) := by
  unfold Machine.computeTraj
  dsimp only
  split
  · exact h
  · exact .ite h (.ite ((((h.setReg _ _).modSlot _ _).setBit _ _ _).logEvent _ _ _ _) ((h.setReg _ _).modSlot _ _))

theorem CastsInRange.modEnt (h : CastsInRange s) (n i : Nat) (f : LineEnt → LineEnt) : CastsInRange (modEnt n i f s) :=
  h.modSlot _ _

theorem CastsInRange.modLines (h : CastsInRange s) (n : Nat) (f : LineBuild → LineBuild) : CastsInRange (modLines n f s) :=
  h.modSlot _ _

theorem CastsInRange.restartLines (h : CastsInRange s) (n : Nat) : CastsInRange (restartLines n s) := h.modLines _ _

theorem CastsInRange.noteDarkLine (h : CastsInRange s) (n : Nat) (f : BitVec 32) : CastsInRange (noteDarkLine n f s) :=
  h.modLines _ _

theorem CastsInRange.noteReads (h : CastsInRange s) (n : Nat) (e : LineEnt) : CastsInRange (noteReads n e s) := h.modLines _ _

theorem CastsInRange.lineDecided (h : CastsInRange s) (n : Nat) (c : SlotCast) (e : LineEnt) :
    CastsInRange (lineDecided n c e s) :=
  .ite h (h.modLines _ _)

theorem CastsInRange.enterLine (h : CastsInRange s) (n : Nat) (c : SlotCast) (i : Nat) : CastsInRange (enterLine n c i s) := by
  unfold Machine.enterLine
  extract_lets q l cen cw st retr idle pt none e0 e1 s1 s2 fin ev s3 next r back
  have h1 : CastsInRange s1 := (h.modEnt n i _).modLines n _
  have h2 : CastsInRange s2 := .ite (((h1.setReg _ _).noteDarkLine n _).lineDecided n c e1) h1
  have h3 : CastsInRange s3 := (h2.insertEvents n _ _).insertEvents n _ _
  exact .ite (h3.insertCal n _) h2

theorem CastsInRange.lineEnter (h : CastsInRange s) (n : Nat) : CastsInRange (lineEnter n s) := by
  unfold Machine.lineEnter
  dsimp only
  split
  · exact h
  · split
    · exact h
    · split
      · exact h
      · exact h.enterLine _ _ _

theorem CastsInRange.finishRender (h : CastsInRange s) (n i : Nat) (c : SlotCast) (late : List (Nat × Nat)) :
    CastsInRange (finishRender n i c late s) := by
  unfold Machine.finishRender
  extract_lets e mtx s0 r e1 s2 clips s3 s4 s5 d
  have h2 : CastsInRange s2 := ((h.modLines n _).modEnt n i _).keep (keeps_noteUnder (by decide) n _)
  have h3 : CastsInRange s3 := (CastsInRange.ite (h2.setBit _ _ _) h2).modLines n _
  have h4 : CastsInRange s4 := (h3.keep (keeps_dramWrite (by decide) _ _)).keep (keeps_noteTraffic (by decide) _ _ _ _)
  have h5 : CastsInRange s5 := (h4.setReg _ _).noteMasks n c _
  exact ((h5.modEnt n i _).raiseTarget n d).keep (keeps_showDemand (by decide) n)

theorem CastsInRange.renderComplete (h : CastsInRange s) (n i : Nat) (late : List (Nat × Nat)) :
    CastsInRange (renderComplete n i late s) := by
  unfold Machine.renderComplete
  dsimp only
  split
  · exact h
  · exact .ite (h.finishRender _ _ _ _) h

theorem CastsInRange.strikeTest (h : CastsInRange s) (n i : Nat) : CastsInRange (strikeTest n i s) := by
  unfold Machine.strikeTest
  split
  · exact h
  · next c _ =>
    extract_lets e x pu s1 d s2 s3
    have h1 : CastsInRange s1 := (h.setReg _ _).modLines n _
    have h3 : CastsInRange s3 := (((h1.modEnt n i _).setReg _ _).noteReads n e).lineDecided n c e
    exact .ite h (.ite ((h3.setTarget n _).keep (keeps_showDemand (by decide) n))
      (((h1.modEnt n i _).setReg _ _).setBit _ _ _))

theorem CastsInRange.rerenderComplete (h : CastsInRange s) (n i : Nat) (late : List (Nat × Nat)) :
    CastsInRange (rerenderComplete n i late s) := by
  unfold Machine.rerenderComplete
  split
  · exact h
  · exact .ite (((h.modEnt _ _ _).finishRender _ _ _ _).strikeTest _ _) h

theorem CastsInRange.lineDark (h : CastsInRange s) (n i : Nat) : CastsInRange (lineDark n i s) := by
  unfold Machine.lineDark
  extract_lets e s1 s2 s3 s4
  have h2 : CastsInRange s2 := ((h.modEnt n i _).setReg _ _).setBit _ _ _
  have h3 : CastsInRange s3 := .ite (h2.setBit _ _ _) h2
  have h4 : CastsInRange s4 := by
    unfold s4
    split
    · exact h3.lineDecided n _ e
    · exact h3
  exact .ite ((h4.noteDarkLine n e.frame).keep (keeps_showDemand (by decide) n)) h

theorem CastsInRange.lineEnd (h : CastsInRange s) (n i : Nat) : CastsInRange (lineEnd n i s) :=
  .ite ((h.modEnt _ _ _).keep (keeps_showDemand (by decide) _)) h

theorem CastsInRange.flushLines (h : CastsInRange s) (n : Nat) : CastsInRange (flushLines n s) :=
  (h.modSlot _ _).keep (keeps_showDemand (by decide) _)

theorem CastsInRange.flushFrom (h : CastsInRange s) (n : Nat) : CastsInRange (flushFrom n s) :=
  (h.modSlot _ _).keep (keeps_showDemand (by decide) _)

theorem CastsInRange.issueGroup (h : CastsInRange s) (n i : Nat) (c : SlotCast) (first : LineSamp) (t0 : Int) :
    CastsInRange (issueGroup n i c first t0 s) := by
  unfold Machine.issueGroup
  extract_lets e s0 dim r timed span rest ahead lim live dropped s1 m s2 s3
  have h0 : CastsInRange s0 := .ite (h.engageDim n) h
  have h1 : CastsInRange s1 := .ite h0 (((h0.addSat _ _ _ _).setBit _ _ _).keep (keeps_noteDrops (by decide) c dropped))
  have h2 : CastsInRange s2 := h1.modEnt n i _
  have h3 : CastsInRange s3 := (CastsInRange.ite (h2.setBit _ _ _) h2).modLines n _
  exact h3.keep (keeps_sendGroup (by decide) n c e _ m.1)

theorem CastsInRange.issueEntry (n i : Nat) (c : SlotCast) (fuel : Nat) :
    ∀ {s : State}, CastsInRange s → CastsInRange (issueEntry n i c fuel s) := by
  induction fuel with
  | zero => exact fun h => h
  | succ k ih =>
    intro s h
    unfold Machine.issueEntry
    split
    · exact h
    · split
      · exact h
      · exact .ite h (ih (h.issueGroup _ _ _ _ _))

theorem CastsInRange.issueLines (h : CastsInRange s) (n : Nat) (c : SlotCast) : CastsInRange (issueLines n c s) :=
  h.forAll _ fun _ _ _ hu => hu.issueEntry _ _ _ _

theorem CastsInRange.probeSel (h : CastsInRange s) (n : Nat) (v : Word) : CastsInRange (probeSel n v s) := by
  unfold Machine.probeSel
  dsimp only
  split
  · exact h.setReg _ _
  · split
    · exact h.setReg _ _
    · exact ((((h.setReg _ _).forAll _ fun _ _ _ hu => hu.setReg _ _).setReg _ _).setReg _ _).modLines _ _

/-! ## Commits -/

theorem CastsInRange.recheckCommit (h : CastsInRange s) (n : Nat) : CastsInRange (recheckCommit n s) := by
  unfold Machine.recheckCommit
  dsimp only
  split
  · exact .ite h (((h.modSlot _ _).setFld _ _ _ _).keep (keeps_rejectCommit (by decide) _ _))
  · exact h

theorem CastsInRange.stopRaster (h : CastsInRange s) (n : Nat) : CastsInRange (stopRaster n s) :=
  h.modSlot n _ fun q => by split <;> rfl

theorem CastsInRange.releaseSources (h : CastsInRange s) (n : Nat) : CastsInRange (releaseSources n s) :=
  ((h.forAll _ fun _ _ _ hu => hu.modSlot _ _).keep (keeps_handBackDev (by decide) _)).forAll _ fun _ _ _ hu => hu.raiseVec _

theorem CastsInRange.applyLayer (h : CastsInRange s) (n : Nat) (c : SlotCast) (k : Nat) : CastsInRange (applyLayer n c k s) :=
  (h.keep (keeps_copyPitch (by decide) _)).modSlot _ _

theorem CastsInRange.applyLayers (h : CastsInRange s) (n : Nat) (c : SlotCast) (ks : List Nat) :
    CastsInRange (applyLayers n c ks s) := by
  unfold Machine.applyLayers
  extract_lets cand late s1 s2 s3
  have h2 : CastsInRange s2 := (h.forAll _ fun k _ _ hu => hu.applyLayer n c k).modSlot n _
  have h3 : CastsInRange s3 := .ite h2 ((h2.addSat _ _ _ _).setBit _ _ _)
  exact h3.keep (keeps_showDefer (by decide) n)

theorem CastsInRange.noteHandover (h : CastsInRange s) (n : Nat) (c : SlotCast) : CastsInRange (noteHandover n c s) :=
  h.modSlot _ _

theorem CastsInRange.applyOthers (h : CastsInRange s) (n : Nat) (c : SlotCast) : CastsInRange (applyOthers n c s) :=
  ((h.modSlot _ _).forAll _ fun _ _ _ hu => hu.keep (keeps_copyPitch (by decide) _)).setFld _ _ _ _

theorem CastsInRange.applyActive (h : CastsInRange s) (n : Nat) (c : SlotCast) : CastsInRange (applyActive n c s) :=
  (h.applyOthers _ _).applyLayers _ _ _

theorem CastsInRange.applyWhole (h : CastsInRange s) (n : Nat) (c : SlotCast) : CastsInRange (applyWhole n c s) :=
  (((h.applyOthers _ _).forAll _ fun _ _ _ hu => hu.applyLayer _ _ _).modSlot _ _).keep (keeps_showDefer (by decide) _)

theorem CastsInRange.applyScene (h : CastsInRange s) (n : Nat) : CastsInRange (applyScene n s) := by
  unfold Machine.applyScene
  dsimp only
  split
  · exact h
  · exact (h.modSlot _ _).setFld _ _ _ _

theorem CastsInRange.setMode (h : CastsInRange s) (n m : Nat) : CastsInRange (setMode n m s) :=
  ((((h.modSlot _ _).setFld _ _ _ _).keep (keeps_showLoad (by decide) _)).keep (keeps_revalidate (by decide) _)).computeTraj _

theorem CastsInRange.retuneFree (h : CastsInRange s) (n : Nat) : CastsInRange (retuneFree n s) := by
  unfold Machine.retuneFree
  dsimp only
  split
  · exact .ite (h.modReck _ _) h
  · exact h

theorem CastsInRange.applyAtOnce (h : CastsInRange s) (n : Nat) : CastsInRange (applyAtOnce n s) := by
  unfold Machine.applyAtOnce
  dsimp only
  split
  · exact h
  · split
    · exact (h.applyAllSwaps _).applyScene _
    · refine CastsInRange.releaseSources ?_ _
      split
      · exact ((((h.applyAllSwaps _).applyScene _).applyWhole _ _).setMode _ _).retuneFree _
      · exact ((h.applyAllSwaps _).applyScene _).applyWhole _ _

theorem CastsInRange.storeAllHeld (h : CastsInRange s) (n : Nat) : CastsInRange (storeAllHeld n s) := by
  unfold Machine.storeAllHeld
  split
  · exact h
  · exact h.forAll _ fun _ _ _ hu => hu.storeHeld _ _ _

theorem CastsInRange.restReck (h : CastsInRange s) (acq : Bool) (n : Nat) : CastsInRange (restReck acq n s) := by
  unfold Machine.restReck
  extract_lets s1 idle s2
  have h2 : CastsInRange s2 := (((h.keep (keeps_quietSlot (by decide) n)).stopRaster n).storeAllHeld n).modSlot n _
  exact ((h2.flushLines n).restartLines n).applyAtOnce n

theorem CastsInRange.enterIdle (h : CastsInRange s) (n : Nat) : CastsInRange (enterIdle n s) := h.restReck _ _

theorem CastsInRange.enterAcquire (h : CastsInRange s) (n : Nat) : CastsInRange (enterAcquire n s) := h.restReck _ _

theorem CastsInRange.changeMode (h : CastsInRange s) (n m : Nat) : CastsInRange (changeMode n m s) := by
  unfold Machine.changeMode
  split
  · exact h
  · extract_lets s1 s2
    have h1 : CastsInRange s1 := ((h.setMode n m).modSlot n _).setBit _ _ _
    have h2 : CastsInRange s2 := .ite (h1.retuneFree n) (.ite (h1.enterAcquire n) (h1.flushFrom n))
    exact (h2.emptyHeld n).setTarget n 0

theorem CastsInRange.resumeMode (h : CastsInRange s) (n : Nat) : CastsInRange (resumeMode n s) := by
  unfold Machine.resumeMode
  split
  · exact h
  · exact .ite ((h.modSlot _ _).setBit _ _ _) h

theorem CastsInRange.requestCommit (h : CastsInRange s) (n : Nat) (mode : Option Nat) :
    CastsInRange (requestCommit n mode s) := by
  unfold Machine.requestCommit
  split
  · exact h
  · extract_lets cause w s1 s2
    have h2 : CastsInRange s2 := (h.modSlot n _).setFld _ _ _ _
    exact .ite (h.keep (keeps_pendWr (by decide) n)) (.ite (h.keep (keeps_rejectCommit (by decide) n cause))
      (.ite ((h.modSlot n _).applyAtOnce n) (.ite ((h2.setBit _ _ _).incSat _ _ _) h2)))

theorem CastsInRange.cancelCommit (h : CastsInRange s) (n : Nat) : CastsInRange (cancelCommit n s) :=
  ((h.modSlot _ _).setFld _ _ _ _).keep (keeps_showDefer (by decide) _)

theorem CastsInRange.soCtrl (h : CastsInRange s) (n : Nat) (v : Word) : CastsInRange (soCtrl n v s) :=
  .ite ((CastsInRange.ite (h.cancelCommit _) h).requestCommit _ _) (.ite (h.cancelCommit _) h)

theorem CastsInRange.boundaryCommit (h : CastsInRange s) (n : Nat) (c : SlotCast) : CastsInRange (boundaryCommit n c s) := by
  unfold Machine.boundaryCommit
  extract_lets due mode s1 s2 ds
  have h1 : CastsInRange s1 := h.applyActive n c
  have h2 : CastsInRange s2 := h.modSlot n _
  clear_value mode
  split
  · split
    · exact h1.changeMode n _
    · exact h1
  · exact .ite h2 (h2.applyLayers n c ds)

theorem CastsInRange.tfCtrl (h : CastsInRange s) (n : Nat) (v : Word) : CastsInRange (tfCtrl n v s) := by
  unfold Machine.tfCtrl
  dsimp only
  split
  · exact h.setReg _ _
  · split
    · exact h.setReg _ _
    · exact .ite (.ite ((h.setReg _ _).enterAcquire _) (h.setReg _ _)) ((h.setReg _ _).modReck _ _)

theorem CastsInRange.rasterEnd (h : CastsInRange s) (n : Nat) : CastsInRange (rasterEnd n s) :=
  .ite ((h.stopRaster _).releaseSources _) h

theorem CastsInRange.startWriteBack (h : CastsInRange s) (n : Nat) (c : SlotCast) : CastsInRange (startWriteBack n c s) :=
  .ite h (.ite ((h.keep (keeps_writeBack (by decide) _ _ _)).modSlot _ _) ((h.setBit _ _ _).incSat _ _ _))

theorem CastsInRange.writebackComplete (h : CastsInRange s) (n : Nat) : CastsInRange (writebackComplete n s) := by
  unfold Machine.writebackComplete
  dsimp only
  split
  · exact h
  · exact (((h.modSlot _ _).setReg _ _).keep (keeps_handBackDev (by decide) _)).raiseVec _

/-! ## The Hallmark layer -/

theorem CastsInRange.modHall (h : CastsInRange s) (n : Nat) (f : HallSlot → HallSlot) : CastsInRange (modHall n f s) :=
  h.modSlot _ _

theorem CastsInRange.mismatchHold (h : CastsInRange s) (n lvl : Nat) : CastsInRange (mismatchHold n lvl s) :=
  .ite (((h.modHall _ _).lenDrop _ _).refreshCeil _) (h.modHall _ _)

theorem CastsInRange.mismatchStep (h : CastsInRange s) (n run : Nat) : CastsInRange (mismatchStep n run s) :=
  .ite (h.logEvent _ _ _ _) (.ite (h.withDim fun _ hu => hu.mismatchHold _ _)
    (.ite (h.withDim fun _ hu => hu.mismatchHold _ _) h))

theorem CastsInRange.signatureRecord (h : CastsInRange s) (n : Nat) (disturb : Word) :
    CastsInRange (signatureRecord n disturb s) := by
  unfold Machine.signatureRecord
  dsimp only
  split
  · exact h
  · exact .ite (h.modSlot _ _) ((CastsInRange.ite (((((h.modSlot _ _).modHall _ _).setReg _ _).setReg _ _).setReg _ _)
      ((((((h.modSlot _ _).modHall _ _).setReg _ _).setReg _ _).setReg _ _).mismatchStep _ _)).keep (keeps_showHall (by decide) _))

theorem CastsInRange.sportSetScene (h : CastsInRange s) (n : Nat) (p : List Byte) : CastsInRange (sportSetScene n p s).2.2 := by
  unfold Machine.sportSetScene
  dsimp only
  split
  · exact h
  · exact h.modHall n _

theorem CastsInRange.sportCommit (h : CastsInRange s) (n : Nat) (p : List Byte) : CastsInRange (sportCommit n p s).2.2 := by
  unfold Machine.sportCommit
  dsimp only
  split
  · exact h
  · exact .ite (((h.modHall n _).applyScene n).keep (keeps_showHall (by decide) n)) (h.modHall n _)

theorem CastsInRange.sportContain (h : CastsInRange s) (n : Nat) (p : List Byte) : CastsInRange (sportContain n p s).2.2 := by
  unfold Machine.sportContain
  dsimp only
  split
  · exact h
  · exact (h.withDim fun u hu => .ite (((hu.modHall n _).lenDrop _ 5).refreshCeil n) (hu.modHall n _)).keep
      (keeps_showHall (by decide) n)

theorem CastsInRange.sportRelease (h : CastsInRange s) (n : Nat) (p : List Byte) : CastsInRange (sportRelease n p s).2.2 := by
  unfold Machine.sportRelease
  split
  · split
    · exact (h.modHall n _).keep (keeps_clearHallFault (by decide))
    · exact h
  · exact h

/-! ## Control loops -/

theorem CastsInRange.loseLock (h : CastsInRange s) (l : Nat) : CastsInRange (loseLock l s) := by
  unfold Machine.loseLock
  dsimp only
  split
  · split
    · exact (((h.modLoop _ _).setBit _ _ _).setBit _ _ _).pickoffLost _
    · exact ((h.modLoop _ _).setBit _ _ _).setBit _ _ _
  · exact h.modLoop _ _

theorem CastsInRange.startTracker (h : CastsInRange s) (l : Nat) : CastsInRange (startTracker l s) :=
  .ite h (((h.modLoop _ _).loseLock _).setBit _ _ _)

theorem CastsInRange.handEstimate (h : CastsInRange s) (l n : Nat) (old : Tracker) : CastsInRange (handEstimate l n old s) := by
  unfold Machine.handEstimate
  dsimp only
  split
  · exact h
  · split
    · exact .ite (h.modReck _ _) h
    · exact h.modReck _ _
    · exact .ite (h.modReck _ _) h
    · exact h

theorem CastsInRange.trackerStep (h : CastsInRange s) (l : Nat) (t : LinkTime) (theta : BitVec 16) :
    CastsInRange (trackerStep l t theta s) := by
  unfold Machine.trackerStep
  dsimp only
  split
  · split
    · exact (((h.modLoop _ _).setBit _ _ _).modLoop _ _).handEstimate _ _ _
    · exact (h.modLoop _ _).setBit _ _ _
  · exact ((h.modLoop _ _).setBit _ _ _).loseLock _

theorem CastsInRange.trackerUpdate (h : CastsInRange s) (l : Nat) (t : LinkTime) (theta : BitVec 16) :
    CastsInRange (trackerUpdate l t theta s) := by
  unfold Machine.trackerUpdate
  dsimp only
  split
  · exact h
  · exact .ite h ((h.modLoop _ _).trackerStep _ _ _)

theorem CastsInRange.pickoffGone (h : CastsInRange s) (n : Nat) : CastsInRange (pickoffGone n s) := by
  unfold Machine.pickoffGone
  split
  · exact h
  · split
    · exact h
    · split
      · exact h.pickoffLost _
      · exact .ite ((h.loseLock _).pickoffLost _) h

theorem CastsInRange.noteLock (h : CastsInRange s) (l : Nat) (y : List Int) : CastsInRange (noteLock l y s) :=
  .ite h (.ite (.ite ((h.modLoop _ _).loseLock _) (h.modLoop _ _)) (.ite ((h.modLoop _ _).setBit _ _ _) (h.modLoop _ _)))

/-- The output stage works on the state it is given. -/
theorem CastsInRange.runSample (h : CastsInRange s) (l : Nat) (m : LoopMeas) (ys : List Int) :
    CastsInRange (runSample l m ys s) := by
  unfold Machine.runSample
  extract_lets t nx nu ny sp y yn yb s0 q x a1 e a2 xb s1 k shut o un s2 s3 a4 xn s4 s5 s6
  have h1 : CastsInRange s1 :=
    (((h.forAll _ fun _ _ _ hu => hu.keep (keeps_moveSp (by decide) _ _ _)).keep (keeps_noteNorm (by decide) _ _ _)).keep
      (keeps_noteStage (by decide) _ _ _ _)).keep (keeps_noteStage (by decide) _ _ _ _)
  have ho : CastsInRange o.s := by
    unfold o
    split
    · exact h1.keep (keeps_stage3 (by decide) _ _ _ _)
    · split
      · exact h1.keep (keeps_presetStep (by decide) _ _ _)
      · exact h1.keep (keeps_openStep (by decide) _ _)
  have h2 : CastsInRange s2 := (ho.keep (keeps_noteNorm (by decide) _ _ _)).modLoop l _
  have h3 : CastsInRange s3 := (CastsInRange.ite (h2.setFld _ _ _ _) h2).keep (keeps_issueOut (by decide) _)
  have h4 : CastsInRange s4 := (h3.modLoop l _).keep (keeps_noteStage (by decide) _ _ _ _)
  have h5 : CastsInRange s5 := .ite (h4.keep (keeps_closeStages (by decide) _ _ _ _)) h4
  exact (((h5.modLoop l _).noteLock _ _).keep (keeps_noteAuto (by decide) _)).keep (keeps_showLoop (by decide) _)

theorem CastsInRange.loopSample (h : CastsInRange s) (l : Nat) (t : LinkTime) (y : List Int) (delay : Nat) :
    CastsInRange (loopSample l t y delay s) := by
  unfold Machine.loopSample
  split
  · exact h
  · split
    · exact h
    · exact .ite (((h.modLoop _ _).runSample _ _ _).keep (keeps_noteDelay (by decide) _ _)) h

theorem CastsInRange.loopEnable (h : CastsInRange s) (l : Nat) : CastsInRange (loopEnable l s) := by
  unfold Machine.loopEnable
  extract_lets init s1
  have h1 : CastsInRange s1 := (h.modLoop l _).setFld _ _ _ _
  have h2 := (((h1.startTracker l).keep (keeps_startTicks (by decide) l)).keep (keeps_issueOut (by decide) l)).keep
    (keeps_showLoop (by decide) l)
  exact .ite (h.keep (keeps_leResult (by decide) l _)) (.ite (h.keep (keeps_leResult (by decide) l _))
    (h2.keep (keeps_leResult (by decide) l .OK)))

theorem CastsInRange.openLoop (h : CastsInRange s) (l : Nat) : CastsInRange (openLoop l s) :=
  .ite (((h.modLoop _ _).loseLock _).setFld _ _ _ _) (h.modLoop _ _)

theorem CastsInRange.loopOpen (h : CastsInRange s) (l : Nat) : CastsInRange (loopOpen l s) :=
  .ite ((h.openLoop _).keep (keeps_leResult (by decide) _ _)) (h.keep (keeps_leResult (by decide) _ _))

theorem CastsInRange.idleLoop (h : CastsInRange s) (l : Nat) : CastsInRange (idleLoop l s) :=
  (((h.modLoop _ _).loseLock _).setBit _ _ _).setFld _ _ _ _

theorem CastsInRange.loopDisable (h : CastsInRange s) (l : Nat) : CastsInRange (loopDisable l s) := by
  unfold Machine.loopDisable
  extract_lets s1 s2
  have h1 : CastsInRange s1 := h.modLoop l _
  have h2 : CastsInRange s2 := .ite (h1.keep (keeps_driveSample (by decide) l)) (h1.keep (keeps_issueOut (by decide) l))
  exact .ite (h.keep (keeps_leResult (by decide) l _))
    (((h2.keep (keeps_showLoop (by decide) l)).idleLoop l).keep (keeps_leResult (by decide) l .OK))

theorem CastsInRange.leCtrl (h : CastsInRange s) (l : Nat) (v : Word) : CastsInRange (leCtrl l v s) := by
  unfold Machine.leCtrl
  split
  · exact h.loopEnable _
  · exact h.keep (keeps_loopClose (by decide) _)
  · exact h.loopOpen _
  · exact h.loopDisable _
  · exact h

theorem CastsInRange.loopSrcLost (h : CastsInRange s) (l : Nat) : CastsInRange (loopSrcLost l s) :=
  .ite ((h.openLoop _).setBit _ _ _) h

theorem CastsInRange.loopsDepart (h : CastsInRange s) (p : Nat) : CastsInRange (loopsDepart p s) :=
  h.forAll _ fun _ _ _ hu => .ite (.ite ((((hu.openLoop _).modLoop _ _).modLoop _ _).setBit _ _ _)
    ((hu.openLoop _).modLoop _ _)) hu

theorem CastsInRange.loopsBind (h : CastsInRange s) (p : Nat) : CastsInRange (loopsBind p s) :=
  h.forAll _ fun _ _ _ hu => .ite (.ite ((CastsInRange.ite (hu.startTracker _) hu).modLoop _ _) (.ite (hu.startTracker _) hu))
    hu

theorem CastsInRange.loopsDozeExit (h : CastsInRange s) : CastsInRange (loopsDozeExit s) :=
  h.forAll _ fun l _ u hu => by
    extract_lets s0 s1
    have h0 : CastsInRange s0 := .ite ((hu.modLoop l _).setBit _ _ _) hu
    have h1 : CastsInRange s1 := ((h0.loseLock l).setFld _ _ _ _).modLoop l _
    exact .ite h0 (((h1.startTracker l).keep (keeps_startTicks (by decide) l)).keep (keeps_showLoop (by decide) l))

/-! ## The reckon step -/

theorem CastsInRange.sendBlock (h : CastsInRange s) (n : Nat) (c : SlotCast) (ms : List MaskEff) (k i : Nat)
    (release : BitVec 40) : CastsInRange (sendBlock n c ms k i release s) := by
  unfold Machine.sendBlock
  dsimp only
  refine CastsInRange.sendPkt ?_ _ _
  split
  · exact h.modSlot _ _
  · exact (((h.modSlot _ _).incSat _ _ _).setBit _ _ _).logEvent _ _ _ _

theorem CastsInRange.darkenEntry (h : CastsInRange s) (n k : Nat) : CastsInRange (darkenEntry n k s) := h.modSlot _ _

theorem CastsInRange.planeLoad (h : CastsInRange s) (n : Nat) (c : SlotCast) (k : Nat) (p : PhaseWord) (t16 : Nat) (late : Bool) :
    CastsInRange (planeLoad n c k p t16 late s) := by
  unfold Machine.planeLoad
  refine CastsInRange.storeHeld ?_ _ _ _
  split
  · exact h
  · extract_lets s1 mid ms s2
    have h1 : CastsInRange s1 := .ite (h.engageDim n) h
    have h2 : CastsInRange s2 := (h1.noteMasks n c mid).forAll _ fun i _ _ hu => hu.sendBlock n c ms k i _
    exact .ite h (.ite (((h2.darkenEntry n k).setBit _ _ _).incSat _ _ _) h2)

theorem CastsInRange.levelSet (h : CastsInRange s) (n : Nat) (c : SlotCast) (k t16 : Nat) (late : Bool) :
    CastsInRange (levelSet n c k t16 late s) := by
  unfold Machine.levelSet
  split
  · exact (h.darkenEntry _ _).keep (keeps_noteDrop (by decide) _)
  · split
    · exact h
    · exact .ite h (h.keep (keeps_issueLevels (by decide) _ _ _))

theorem CastsInRange.illumOn (h : CastsInRange s) (n k t16 : Nat) (late : Bool) : CastsInRange (illumOn n k t16 late s) :=
  .ite ((h.modSlot _ _).keep (keeps_noteDrop (by decide) _))
    (.ite (h.modSlot _ _) ((h.modSlot _ _).keep (keeps_issueOns (by decide) _ _)))

theorem CastsInRange.gapStart (h : CastsInRange s) (n t16 : Nat) (late : Bool) : CastsInRange (gapStart n t16 late s) :=
  .ite ((h.modSlot _ _).keep (keeps_noteGapLost (by decide) _)) (h.modSlot _ _)

theorem CastsInRange.gapStop (h : CastsInRange s) (n t16 : Nat) (late : Bool) : CastsInRange (gapStop n t16 late s) :=
  .ite ((h.modSlot _ _).keep (keeps_noteGapLost (by decide) _)) (h.modSlot _ _)

theorem CastsInRange.issueEvent (h : CastsInRange s) (n : Nat) (c : SlotCast) (e : BitVec 64) (t16 : Nat) (late : Bool) :
    CastsInRange (issueEvent n c e t16 late s) := by
  unfold Machine.issueEvent
  extract_lets k s1
  have h1 : CastsInRange s1 := .ite (h.keep (keeps_noteLate (by decide) n)) h
  split
  · exact h1.planeLoad _ _ _ _ _ _
  · exact h1.illumOn _ _ _ _
  · exact h1.keep (keeps_issueOff (by decide) _ _)
  · exact h1.levelSet _ _ _ _ _
  · exact h1.gapStart _ _ _
  · exact h1.gapStop _ _ _
  · exact h1

theorem CastsInRange.darkenLate (h : CastsInRange s) (n : Nat) (c : SlotCast) : CastsInRange (darkenLate n c s) :=
  h.forAll _ fun _ _ _ hu => hu.darkenEntry _ _

theorem CastsInRange.retireLane (n : Nat) (c : SlotCast) (l : Lane) (fuel : Nat) :
    ∀ {s : State}, CastsInRange s → CastsInRange (retireLane n c l fuel s) := by
  induction fuel with
  | zero => exact fun h => h
  | succ k ih =>
    intro s h
    unfold Machine.retireLane
    split
    · exact h
    · split
      · exact h
      · exact ih ((h.modSlot n _).issueEvent _ _ _ _ _)

theorem CastsInRange.issueSlot (h : CastsInRange s) (n : Nat) : CastsInRange (issueSlot n s) := by
  unfold Machine.issueSlot
  split
  · exact h
  · next c _ =>
    extract_lets s1
    have h0 := (h.insertCal n []).darkenLate n c
    have h1 : CastsInRange s1 := ((h0.retireLane n c .edge 96).retireLane n c .payload 64).retireLane n c .cal 32
    exact .ite h (.ite (h1.issueLines n c) h1)

theorem CastsInRange.reckonOnce (h : CastsInRange s) : CastsInRange (reckonOnce s) := by
  unfold Machine.reckonOnce
  extract_lets t
  have h0 : CastsInRange { s with linkTime := t } := h.ofSame rfl rfl
  exact ((h0.forAll _ fun n _ _ hu => hu.reckonSlot n t).forAll _ fun n _ _ hu => hu.keep (keeps_portTime (by decide) n)).forAll _
    fun n _ _ hu => hu.issueSlot n

theorem CastsInRange.reckonMany (k : Nat) : ∀ {s : State}, CastsInRange s → CastsInRange (reckonMany k s) := by
  induction k with
  | zero => exact fun h => h
  | succ k ih => exact fun h => ih h.reckonOnce

theorem CastsInRange.reckonStep (h : CastsInRange s) (t : LinkTime) : CastsInRange (reckonStep t s) := by
  unfold Machine.reckonStep
  split
  · exact h
  · extract_lets quiet s1
    have h1 : CastsInRange s1 := .ite h (h.reckonMany _)
    have h2 : CastsInRange { s1 with linkTime := t } := h1.ofSame rfl rfl
    exact h2.forAll _ fun l _ _ hu => hu.keep (keeps_loopTicks (by decide) l)

/-! ## Calibration -/

theorem CastsInRange.modCal (h : CastsInRange s) (n : Nat) (f : SlotCal → SlotCal) :
    CastsInRange (modCal n f s) := h.modSlot _ _

theorem CastsInRange.jobWrite (h : CastsInRange s) (n : Nat) (c : SlotCast) (p : Nat) (w0 : Word) {act : State → State}
    (hf : ∀ u, CastsInRange u → CastsInRange (act u)) : CastsInRange (jobWrite n c p w0 act s) :=
  .ite (h.setBit _ _ _) (.ite ((hf s h).modCal n _) (hf s h))

theorem CastsInRange.takeJobs (h : CastsInRange s) (n : Nat) (c : SlotCast) : CastsInRange (takeJobs n c s) := by
  unfold Machine.takeJobs
  extract_lets s1 j s2
  have h1 : CastsInRange s1 :=
    .ite ((h.modCal n _).forAll _ fun p _ _ hu => hu.keep (keeps_copyPitch (by decide) p)) h
  have h2 : CastsInRange s2 := h1.modCal n _
  clear_value j
  split
  · exact h1.modCal n _
  · split
    · exact h2.keep (keeps_setPendW (by decide) _ _ _)
    · exact h2.forAll _ fun k _ _ hu => hu.modChan k _

theorem CastsInRange.startEsts (h : CastsInRange s) (n : Nat) : CastsInRange (startEsts n s) := by
  unfold Machine.startEsts
  dsimp only
  split
  · exact h
  · exact h.modCal _ _

theorem CastsInRange.takeRows (h : CastsInRange s) (n : Nat) (c : SlotCast) : CastsInRange (takeRows n c s) := by
  unfold Machine.takeRows
  dsimp only
  split
  · split
    · exact ((CastsInRange.ite ((h.modCal _ _).setBit _ _ _) (h.modCal _ _)).incSat _ _ _).incSat _ _ _
    · exact (CastsInRange.ite ((h.modCal _ _).setBit _ _ _) (h.modCal _ _)).incSat _ _ _
  · exact .ite ((h.modCal _ _).setBit _ _ _) (h.modCal _ _)

theorem CastsInRange.senseRows (h : CastsInRange s) (p n : Nat) (k : SensePkt) (c : SlotCast) (since : Option Nat) :
    CastsInRange (senseRows p n k c since s) :=
  h.modCal _ _

theorem CastsInRange.senseLost (h : CastsInRange s) (n : Nat) (k : SensePkt) : CastsInRange (senseLost n k s) :=
  .ite h (h.modCal _ _)

theorem CastsInRange.formMtx (h : CastsInRange s) (n : Nat) (c : SlotCast) : CastsInRange (formMtx n c s) := by
  unfold Machine.formMtx
  dsimp only
  split
  · exact .ite (((h.modCal _ _).modCal _ _).setBit _ _ _) ((h.modCal _ _).modCal _ _)
  · exact ((h.modCal _ _).keep (keeps_freeMtx (by decide) _)).modCal _ _

theorem CastsInRange.formTargets (h : CastsInRange s) (n : Nat) (c : SlotCast) : CastsInRange (formTargets n c s) :=
  ((h.forChans _ fun _ _ _ hu => .ite ((hu.keep (keeps_formMaps (by decide) _ _ _ _ _)).modChan _ _) hu).formMtx _ _).modCal _ _

theorem CastsInRange.formation (h : CastsInRange s) (n : Nat) (c : SlotCast) : CastsInRange (formation n c s) := by
  unfold Machine.formation
  extract_lets sc s1 s2 s3 s4
  have h1 : CastsInRange s1 := h.setFld _ _ _ _
  have h3 : CastsInRange s3 := ((h1.modCal n _).setFld _ _ _ _).foldl _ fun e _ _ hu => hu.keep (keeps_takeModel (by decide) n c e)
  have h4 : CastsInRange s4 := h3.formTargets n c
  exact .ite (((h1.modCal n _).setFld _ _ _ _).setBit _ _ _) (.ite (h4.keep (keeps_formErr (by decide) n c)) h4)

theorem CastsInRange.easeAll (h : CastsInRange s) (n : Nat) (c : SlotCast) : CastsInRange (easeAll n c s) :=
  ((h.forChans _ fun _ _ _ hu => .ite (hu.modChan _ _) hu).modCal _ _).keep (keeps_showMtx (by decide) _)

theorem CastsInRange.applyImage (h : CastsInRange s) (n : Nat) (c : SlotCast) (img : Option (List Word)) (atOnce : Bool) :
    CastsInRange (applyImage n c img atOnce s) := by
  unfold Machine.applyImage
  extract_lets s1 how s2 m e s3 s4
  have h1 : CastsInRange s1 := h.foldl _ fun e _ _ hu => hu.keep (keeps_imageModel (by decide) _ img e)
  have h2 : CastsInRange s2 := h1.forChans c fun i e _ hu => .ite (hu.keep (keeps_formMaps (by decide) n c i e how)) hu
  have h3 : CastsInRange s3 := (h2.modCal n _).forChans c fun _ x _ hu => hu.modChan x.lc _
  have h4 : CastsInRange s4 := .ite (h3.formMtx n c) h3
  exact ((CastsInRange.ite (h4.keep (keeps_installMaps (by decide) n)) h4).startEsts n).keep (keeps_showMtx (by decide) n)

theorem CastsInRange.applyRestore (h : CastsInRange s) (n : Nat) (c : SlotCast) : CastsInRange (applyRestore n c s) :=
  .ite h ((h.modCal _ _).applyImage _ _ _ _)

theorem CastsInRange.snapCtrl (h : CastsInRange s) (v : Word) : CastsInRange (snapCtrl v s) := by
  unfold Machine.snapCtrl
  extract_lets n s1 s2 img st s3 s4
  have h1 : CastsInRange s1 := h.setFld _ _ _ _
  have h2 : CastsInRange s2 := .ite h1 (.ite (h1.keep (keeps_snapResult (by decide) _))
    ((((h1.setFld _ _ _ _).setReg _ _).setReg _ _).modCal n _))
  have h3 : CastsInRange s3 := (h2.keep (keeps_snapResult (by decide) st)).modCal n _
  have h4 : CastsInRange s4 := by
    unfold s4
    split
    · exact .ite (h3.applyRestore n _) h3
    · exact h3
  exact .ite h2 (.ite (h2.keep (keeps_snapResult (by decide) _)) (h4.raiseVec _))

theorem CastsInRange.takeSnap (h : CastsInRange s) (n : Nat) (c : SlotCast) : CastsInRange (takeSnap n c s) :=
  .ite h (((((h.modCal _ _).setRegs _).setFld _ _ _ _).keep (keeps_snapResult (by decide) _)).raiseVec _)

theorem CastsInRange.calOff (h : CastsInRange s) (n : Nat) : CastsInRange (calOff n s) := (h.setFld _ _ _ _).modCal _ _

theorem CastsInRange.calBind (h : CastsInRange s) (n p : Nat) : CastsInRange (calBind n p s) := by
  unfold Machine.calBind
  split
  · exact h
  · next c _ =>
    extract_lets back s1 s2 img s3 s3c s4
    have h2 : CastsInRange s2 := ((h.takeCeilInputs n).keep (keeps_markCalibrated (by decide) n c)).modCal n _
    have h3 : CastsInRange s3 := h2.forChans c fun _ e u hu => .ite hu (hu.modChan e.lc _)
    have hc := h3.keep (keeps_ceilingMaps (by decide) n c)
    have h4 : CastsInRange s4 := .ite (.ite hc (hc.startEsts n)) (h3.applyImage n c img true)
    exact (((CastsInRange.ite (h4.calOff n) h4).keep (keeps_showMtx (by decide) n)).keep (keeps_setMaps (by decide) n)).keep
      (keeps_showPages (by decide))

theorem CastsInRange.regroupEsts (h : CastsInRange s) (n : Nat) : CastsInRange (regroupEsts n s) := (h.startEsts _).modCal _ _

theorem CastsInRange.calRecast (h : CastsInRange s) (n : Nat) : CastsInRange (calRecast n s) := by
  unfold Machine.calRecast
  dsimp only
  split
  · exact h
  · exact .ite h (((h.forChans _ fun _ _ _ hu => .ite (hu.keep (keeps_leaveCal (by decide) _))
      (.ite (hu.keep (keeps_joinCal (by decide) _ _ _ _)) hu)).keep (keeps_markCalibrated (by decide) _ _)).regroupEsts _)

theorem CastsInRange.dropHeld (h : CastsInRange s) (n : Nat) : CastsInRange (dropHeld n s) := h.modCal _ _

theorem CastsInRange.calBoundary (h : CastsInRange s) (n : Nat) (c : SlotCast) (ceil : Bool) :
    CastsInRange (calBoundary n c ceil s) := by
  unfold Machine.calBoundary
  split
  · exact h
  · extract_lets s1 s2 k j paused s3 forced s4 due s5
    have h1 : CastsInRange s1 := (h.takeJobs n c).takeRows n c
    have h2 : CastsInRange s2 :=
      (CastsInRange.ite (h1.keep (keeps_ceilingMaps (by decide) n c)) h1).keep (keeps_installMaps (by decide) n)
    have h4 : CastsInRange s4 := (CastsInRange.ite h2 (h2.easeAll n c)).applyRestore n c
    have h5 : CastsInRange s5 := .ite (h4.formation n c) h4
    exact ((((((h5.keep (keeps_showEase (by decide) n c)).keep (keeps_showAssay (by decide) n c)).raiseFrame n).keep
      (keeps_showWeight (by decide) n)).takeSnap n c).keep (keeps_startStore (by decide) n c))

theorem CastsInRange.calOpen (h : CastsInRange s) (n : Nat) : CastsInRange (calOpen n s) := h.modCal _ _

theorem CastsInRange.caCtrl (h : CastsInRange s) (n : Nat) (v : Word) : CastsInRange (caCtrl n v s) :=
  .ite ((h.setBit _ _ _).startEsts _) (h.setBit _ _ _)

/-! ## Heat -/

theorem CastsInRange.throttleStep (h : CastsInRange s) (i : Nat) : CastsInRange (throttleStep i s) := by
  unfold Machine.throttleStep
  extract_lets l k go
  have hgo (k' : Nat) (f : Ladder → Ladder) : CastsInRange (go k' f) := by
    have h1 := (((h.keep (keeps_modLadder (by decide) i f)).setFld (stepReg i) 3 0 k').setBit Reg.thFlags 1 true).logEvent
      .THROTTLE_STEP clsPart i k'
    have h2 := (h1.raiseVec vecHeat).keep (keeps_showPin (by decide))
    exact .ite (h2.raiseFrame i) h2
  exact .ite h (.ite (hgo _ _) (.ite (hgo _ _) h))

theorem CastsInRange.laserOvertemp (h : CastsInRange s) (n : Nat) : CastsInRange (laserOvertemp n s) :=
  .ite ((((h.keep (keeps_markTrip (by decide) _)).logEvent _ _ _ _).containSlot _ _ _).keep (keeps_startGrace (by decide) _)) h

/-! ## Links -/

theorem CastsInRange.depart (h : CastsInRange s) (p : Nat) : CastsInRange (depart p s) := by
  unfold Machine.depart
  extract_lets s1 s2 s3
  have h1 : CastsInRange s1 := by
    unfold s1
    split
    · exact ((((h.keep (keeps_showBound (by decide) _ _)).keep (keeps_setParked (by decide) _ _)).flushLines _).enterIdle _).keep
        (keeps_heatDepart (by decide) _)
    · exact h
  have h3 : CastsInRange s3 :=
    (((h1.loopsDepart p).keep (keeps_storeLinkLost (by decide) p)).setBit _ _ _).modPort p _
  refine CastsInRange.keep ?_ (keeps_startGrace (by decide) _)
  split
  · exact h3.keep (keeps_showLoad (by decide) _)
  · exact h3

theorem CastsInRange.declareLost (h : CastsInRange s) (p cause : Nat) : CastsInRange (declareLost p cause s) := by
  unfold Machine.declareLost
  extract_lets st s1 s2 s3 leaves s4 s5 s6
  split
  · exact h
  · have h2 : CastsInRange s2 :=
      (((h.setFld _ _ _ _).incSat _ _ _).keep (keeps_epFlag (by decide) _ _)).logEvent _ _ _ _
    have h3 : CastsInRange s3 := .ite (h2.keep (keeps_setFault (by decide) _)) h2
    have h4 : CastsInRange s4 := (h3.lenDrop p 6).keep (keeps_setLink (by decide) _ _)
    have h5 : CastsInRange s5 := .ite (h4.depart p) h4
    have h6 : CastsInRange s6 := by
      unfold s6
      split
      · exact h5.containSlot _ _ _
      · exact h5
    exact ((h6.modPort p _).keep (keeps_stopTraffic (by decide) p)).keep (keeps_startGrace (by decide) _)

theorem CastsInRange.lose (h : CastsInRange s) (p cause : Nat) : CastsInRange (lose p cause s) :=
  h.withDim fun _ hu => hu.declareLost _ _

theorem CastsInRange.packetError (h : CastsInRange s) (p : Nat) : CastsInRange (packetError p s) :=
  .ite ((((h.incSat _ _ _).keep (keeps_epFlag (by decide) _ _)).modPort _ _).lose _ _)
    (((h.incSat _ _ _).keep (keeps_epFlag (by decide) _ _)).modPort _ _)

theorem CastsInRange.engineErrors (h : CastsInRange s) (p k : Nat) : CastsInRange (engineErrors p k s) :=
  .ite h (.ite ((((h.addSat _ _ _ _).keep (keeps_epFlag (by decide) _ _)).modPort _ _).lose _ _)
    (((h.addSat _ _ _ _).keep (keeps_epFlag (by decide) _ _)).modPort _ _))

theorem CastsInRange.packetDiscard (h : CastsInRange s) (p : Nat) (why : DiscardWhy) :
    CastsInRange (packetDiscard p why s) := by
  unfold Machine.packetDiscard
  split
  · exact h
  · split
    · exact h.incSat _ _ _
    · exact (h.incSat _ _ _).packetError _
    · exact h.packetError _
    · exact h.packetError _
    · exact h.packetError _

theorem CastsInRange.bindSlot (h : CastsInRange s) (n p : Nat) (c : SlotCast) : CastsInRange (bindSlot n p c s) := by
  unfold Machine.bindSlot
  extract_lets s1 s2 s4 s5
  have h1 : CastsInRange s1 := h.modPort p _
  have h2 : CastsInRange s2 := ((h1.keep (keeps_setLink (by decide) p _)).setBit _ _ _).setFld _ _ _ _
  have h4 : CastsInRange s4 :=
    ((((h2.keep (keeps_bindChans (by decide) p c)).keep (keeps_showLoad (by decide) n)).keep
      (keeps_revalidate (by decide) n)).computeTraj n).calBind n p
  have h5 : CastsInRange s5 := (h4.modSlot n _).setTarget n 0
  exact (((h5.keep (keeps_setParked (by decide) n false)).enterAcquire n).loopsBind p).lenTry p

theorem CastsInRange.bindAck (h : CastsInRange s) (p : Nat) (id : BitVec 16) : CastsInRange (bindAck p id s) := by
  unfold Machine.bindAck
  split
  · exact h
  · split
    · exact h
    · split
      · exact h
      · exact h.bindSlot _ _ _

theorem CastsInRange.timeEcho (h : CastsInRange s) (p : Nat) (t1 t2 t3 t4 : BitVec 64) :
    CastsInRange (timeEcho p t1 t2 t3 t4 s) := by
  unfold Machine.timeEcho
  extract_lets q l s1 d diff
  have h1 : CastsInRange s1 := h.modPort p _
  have ht : CastsInRange (timeSet p d s1) := h1.keep (keeps_timeSet (by decide) p d)
  exact .ite h (.ite (h.modPort p _) (.ite ht (.ite (h1.lose p 5) (.ite (ht.keep (keeps_showLead (by decide) p)) h1))))

theorem CastsInRange.heartbeat (h : CastsInRange s) (p state rxErr : Nat) : CastsInRange (heartbeat p state rxErr s) :=
  .ite h (.ite ((h.modPort _ _).lose _ _) (.ite (h.modPort _ _) ((h.modPort _ _).engineErrors _ _)))

theorem CastsInRange.heartbeatMiss (h : CastsInRange s) (p : Nat) : CastsInRange (heartbeatMiss p s) :=
  .ite h (.ite (((h.modPort _ _).incSat _ _ _).lose _ _) ((h.modPort _ _).incSat _ _ _))

theorem CastsInRange.quiesce (h : CastsInRange s) (p : Nat) (why : QuiesceWhy) (cause : Nat) :
    CastsInRange (quiesce p why cause s) := by
  unfold Machine.quiesce
  extract_lets st s1 s2 s3
  have h1 : CastsInRange s1 := .ite (h.lenDrop p cause) (h.keep (keeps_issueOff (by decide) p _))
  have h3 : CastsInRange s3 := ((h1.modPort p _).sendPkt p _).keep (keeps_setLink (by decide) p _)
  exact .ite h (.ite h3 (.ite (h3.keep (keeps_storeLinkLost (by decide) p)) (h3.depart p)))

theorem CastsInRange.epCtrl (h : CastsInRange s) (p : Nat) (v : Word) : CastsInRange (epCtrl p v s) := by
  unfold Machine.epCtrl
  extract_lets s1 s2
  have h1 : CastsInRange s1 := .ite ((h.keep (keeps_endHold (by decide) p)).keep (keeps_retryBind (by decide) p)) h
  have h2 : CastsInRange s2 := .ite (h1.keep (keeps_probeNow (by decide) p)) h1
  exact .ite (h2.withDim fun _ hu => hu.quiesce p .host 6) h2

theorem CastsInRange.engineLaserFault (h : CastsInRange s) (p code : Nat) (chans : List Nat) :
    CastsInRange (engineLaserFault p code chans s) :=
  .ite ((h.laserFault _ _ _).quiesce _ _ _) (h.laserFault _ _ _)

theorem CastsInRange.senseFault (h : CastsInRange s) (p code : Nat) (m : BitVec 24) : CastsInRange (senseFault p code m s) :=
  h.withDim fun _ hu => hu.engineLaserFault _ _ _

theorem CastsInRange.senseTake (h : CastsInRange s) (p : Nat) (k : SensePkt) : CastsInRange (senseTake p k s) := by
  unfold Machine.senseTake
  extract_lets q overs since s1 s2 s3 s4 s5 s5' s6 s7
  have h2 : CastsInRange s2 := ((h.modPort p _).addSat _ _ _ _).addSat _ _ _ _
  have h3 : CastsInRange s3 := .ite (h2.keep (keeps_epFlag (by decide) _ _)) h2
  have h4 : CastsInRange s4 := h3.foldl _ fun _ _ _ hu => hu.keep (keeps_senseTemp (by decide) _ _ _)
  have h5 : CastsInRange s5 := by
    unfold s5
    split
    · split
      · exact (h4.setReg _ _).senseRows _ _ _ _ _
      · exact h4
    · exact h4
  have h5' : CastsInRange s5' := by
    unfold s5'
    split
    · exact h5.forAll _ fun _ _ _ hu => hu.setBit _ _ _
    · exact h5
  have hl := h5'.keep (keeps_loopsSense (by decide) p k)
  have h6 : CastsInRange s6 := .ite (hl.senseFault _ _ _) hl
  exact (CastsInRange.ite (h6.senseFault _ _ _) h6).engineErrors _ _

theorem CastsInRange.senseReject (h : CastsInRange s) (p : Nat) (k : SensePkt) : CastsInRange (senseReject p k s) := by
  unfold Machine.senseReject
  extract_lets s1 s2 s3
  have h1 : CastsInRange s1 := (h.incSat _ _ _).keep (keeps_epFlag (by decide) _ _)
  have h2 : CastsInRange s2 := by
    unfold s2
    split
    · exact h1.senseLost _ _
    · exact h1
  have h3 : CastsInRange s3 := .ite h2 ((CastsInRange.ite (h2.incSat _ _ _) h2).packetError p)
  exact .ite (h3.senseFault _ _ _) h3

theorem CastsInRange.supplyOverv (h : CastsInRange s) (n mv : Nat) : CastsInRange (supplyOverv n mv s) := by
  unfold Machine.supplyOverv
  dsimp only
  split
  · exact h
  · exact .ite (h.withDim fun _ hu => ((hu.setBit _ _ _).modSlot _ _).engineLaserFault _ _ _) h

/-! ## The sensor bridge -/

theorem CastsInRange.takeBuffers (h : CastsInRange s) (n : Nat) (c : SlotCast) : CastsInRange (takeBuffers n c s) := by
  unfold Machine.takeBuffers
  dsimp only
  refine h.forAll _ fun _ _ _ hu => ?_
  split
  · split
    · exact hu
    · exact hu.modSlot _ _
  · exact hu.modSlot _ _

/-! ## Slots come and go -/

theorem CastsInRange.loadActive (h : CastsInRange s) (n : Nat) (old : Option SlotCast) (new : SlotCast) :
    CastsInRange (loadActive n old new s) :=
  h.modSlot _ _

/-- A slot comes into being with a Cast in range. -/
theorem CastsInRange.buildSlot (h : CastsInRange s) (n : Nat) {c : SlotCast} (hc : SlotInRange c) :
    CastsInRange (buildSlot n c s) := by
  unfold Machine.buildSlot
  extract_lets none s1 s2 s3 s4 s5 s6 s7
  have h1 : CastsInRange s1 := h.recfg n _ (by rintro _ _ ⟨⟩; exact hc)
  have h3 : CastsInRange s3 :=
    (((h1.keep (keeps_syncSlotRegs (by decide) _ _)).keep (keeps_syncChanRegs (by decide) _ _)).keep
      (keeps_loadCastVals (by decide) _ _ _)).loadActive _ _ _
  have h5 : CastsInRange s5 := (h3.keep (keeps_syncPitchRange (by decide) _ _ _)).modSlot n _
  have h6 : CastsInRange s6 := h5.forAll _ fun k _ _ hu => hu.modChan k _
  have h7 : CastsInRange s7 :=
    (((h6.setMode n 0).keep (keeps_showSupply (by decide) n)).keep (keeps_showSportEnabled (by decide))).keep
      (keeps_showObjs (by decide))
  exact .ite (h7.engageDim n) h7

theorem CastsInRange.unbuildSlot (h : CastsInRange s) (n : Nat) : CastsInRange (unbuildSlot n s) := by
  unfold Machine.unbuildSlot
  split
  · exact h
  · extract_lets s1 none s2 s3
    have h1 : CastsInRange s1 := ((h.stopRaster n).keep (keeps_syncPitchRange (by decide) _ _ _)).releaseSources n
    have h2 : CastsInRange s2 := h1.recfg n _ (by rintro _ _ ⟨⟩)
    exact ((((((h2.keep (keeps_syncSlotRegs (by decide) _ _)).keep (keeps_syncChanRegs (by decide) _ _)).keep
      (keeps_syncPitches (by decide))).keep (keeps_showSportEnabled (by decide))).keep (keeps_showObjs (by decide))).keep
      (keeps_showContain (by decide))).keep (keeps_dropLadder (by decide) n)

theorem CastsInRange.domainOff (h : CastsInRange s) (d : Nat) : CastsInRange (domainOff d s) := by
  unfold Machine.domainOff
  extract_lets s1 s2 s3 s4 rows
  have h1 : CastsInRange s1 := .ite (h.keep (keeps_stopBridge (by decide))) h
  have h2 : CastsInRange s2 := .ite (h1.forAll _ fun p _ _ hu => hu.keep (keeps_enterDetect (by decide) p)) h1
  have hl : CastsInRange { s2 with loops := Vector.replicate 128 LoopState.init } := h2.ofSame rfl rfl
  have h3 : CastsInRange s3 := .ite hl h2
  have h4 : CastsInRange s4 := .ite (h3.keep (keeps_codecReset (by decide))) (.ite (h3.forAll _ fun n _ _ hu => hu.calOff n) h3)
  exact h4.foldl _ fun _ _ _ hu => hu.foldl _ fun _ _ _ hv => hv.setRegs _

theorem CastsInRange.setDomains (h : CastsInRange s) (m : BitVec 20) : CastsInRange (setDomains m s) :=
  (h.forAll _ fun d _ _ hu => hu.domainOff d).of (fun _ => rfl) rfl (.inl rfl) (.inl rfl)

/-! ## Package DRAM -/

theorem CastsInRange.dramDead (h : CastsInRange s) :
    CastsInRange (dramDead s) := ((h.setBit _ _ _).logEvent _ _ _ _).lenDropAll _

theorem CastsInRange.pcFail (h : CastsInRange s) (pc : Nat) : CastsInRange (pcFail pc s) := by
  unfold Machine.pcFail
  extract_lets first s1 s2 s3
  have h1 : CastsInRange s1 := (h.logEvent _ _ _ _).raiseVec 21
  have h2 : CastsInRange s2 := (CastsInRange.ite (h1.keep (keeps_endGather (by decide))) h1).modMc _
  have h3 : CastsInRange s3 := .ite (h2.setReg _ _) h2.dramDead
  exact .ite h (h3.withDim fun _ hu => hu.containAll .memory)

theorem CastsInRange.uncorrectable (h : CastsInRange s) (pc : Nat) : CastsInRange (uncorrectable pc s) :=
  .ite (((h.incSat _ _ _).modMc _).pcFail _) ((h.incSat _ _ _).modMc _)

theorem CastsInRange.trainingDone (h : CastsInRange s) (failed : List Nat) : CastsInRange (trainingDone failed s) := by
  unfold Machine.trainingDone
  dsimp only
  split
  · exact ((h.keep (keeps_helpersUsed (by decide))).setFld _ _ _ _).modMc _
  · exact .ite ((((((h.keep (keeps_helpersUsed (by decide))).setFld _ _ _ _).modMc _).setReg _ _).setBit _ _ _).setFld _ _ _ _)
      (((((((h.keep (keeps_helpersUsed (by decide))).setFld _ _ _ _).modMc _).setReg _ _).setBit _ _ _).setFld _ _ _ _).dramDead)

theorem CastsInRange.gatherEnd (h : CastsInRange s) (reads writes : Nat) (move : List Int) (pass : Bool) :
    CastsInRange (gatherEnd reads writes move pass s) := by
  unfold Machine.gatherEnd
  split
  · exact h
  · next pc _ =>
    extract_lets s1 point n s2
    have h1 : CastsInRange s1 := (h.keep (keeps_endGather (by decide))).keep (keeps_helpersUsed (by decide))
    have h2 : CastsInRange s2 := h1.modMc _
    have hm := (h1.modMc fun m => { m with trackFail := m.trackFail.set pc 0 }).foldl (List.zip (List.range 16) move)
      fun x _ _ hu => hu.keep (keeps_moveTap (by decide) pc point x.1 x.2)
    exact .ite h1 (.ite hm (.ite (h2.pcFail pc) h2))

/-! ## Part-wide states -/

theorem CastsInRange.stopLink (h : CastsInRange s) (p : Nat) : CastsInRange (stopLink p s) :=
  .ite (h.keep (keeps_enterDetect (by decide) _)) (.ite (h.modPort _ _) (h.quiesce _ _ _))

theorem CastsInRange.beginEntry (h : CastsInRange s) (x : PState) : CastsInRange (beginEntry x s) := by
  unfold Machine.beginEntry
  extract_lets s1 s2 s3
  have h1 : CastsInRange s1 := (h.modPower _).setBit _ _ _
  have h2 : CastsInRange s2 := (h1.lenDropAll 7).forAll _ fun p _ _ hu => hu.stopLink p
  have h3 : CastsInRange s3 := h2.forAll _ fun n _ _ hu => hu.enterIdle n
  exact (h3.keep (keeps_endGather (by decide))).keep (keeps_stopBridge (by decide))

theorem CastsInRange.takeRequest (h : CastsInRange s) (r : Nat) : CastsInRange (takeRequest r s) := by
  unfold Machine.takeRequest
  split
  · exact .ite ((h.modPower _).setBit _ _ _) (.ite ((h.modPower _).setBit _ _ _) (h.beginEntry _))
  · exact .ite (h.keep (keeps_beginExit (by decide))) (.ite (h.beginEntry _) h)
  · exact h.modPower _
  · exact h.modPower _
  · exact h.modPower _
  · exact h.modPower _
  · exact h
  · exact h
  · exact h

theorem CastsInRange.serveQueued (h : CastsInRange s) : CastsInRange (serveQueued s) := by
  unfold Machine.serveQueued
  split
  · exact h
  · split
    · exact (h.modPower _).takeRequest _
    · exact (h.modPower _).takeRequest _
    · exact h

theorem CastsInRange.stateReq (h : CastsInRange s) (v : Word) : CastsInRange (stateReq v s) :=
  .ite (h.setFld _ _ _ _) (((h.setFld _ _ _ _).setFld _ _ _ _).takeRequest _)

/-! ## The host -/

theorem CastsInRange.aliveKick (h : CastsInRange s) (v : Word) : CastsInRange (aliveKick v s) := by
  unfold Machine.aliveKick
  extract_lets s1 fr s2
  have h1 : CastsInRange s1 := h.keep (keeps_restartAlive (by decide))
  have h2 : CastsInRange s2 := (h1.ofSame rfl rfl : CastsInRange { s1 with fr := { s1.fr with hostLost := false } }).setBit _ _ _
  exact .ite (h2.forAll _ fun n _ _ hu => hu.modSlot n _) h1

theorem CastsInRange.hostLost (h : CastsInRange s) : CastsInRange (hostLost s) := by
  unfold Machine.hostLost
  split
  · exact h
  · refine (h.logEvent _ _ _ _).withDim fun u hu => ?_
    have h1 : CastsInRange { u with fr := { u.fr with hostLost := true } } := hu.ofSame rfl rfl
    exact (h1.containAll .host).keep (keeps_startGrace (by decide) _)

/-! ## The Cast loader -/

theorem CastsInRange.castEnd (h : CastsInRange s) : CastsInRange (castEnd s) := by
  unfold Machine.castEnd
  dsimp only
  refine CastsInRange.raiseVec ?_ _
  refine CastsInRange.modCast ?_ _
  split
  · exact h.keep (keeps_handBackDev (by decide) _)
  · exact h

theorem CastsInRange.castFail (h : CastsInRange s) (e : CastErr) : CastsInRange (castFail e s) :=
  (((h.setRegs _).keep (keeps_castResult (by decide) _)).keep (keeps_setCastSt (by decide) _)).castEnd

theorem CastsInRange.startLoad (h : CastsInRange s) (mailbox : Bool) : CastsInRange (startLoad mailbox s) :=
  .ite (h.keep (keeps_castResult (by decide) _)) (.ite ((h.modCast _).keep (keeps_setCastSt (by decide) _))
    (.ite (h.castFail _) (.ite ((h.modCast _).keep (keeps_setCastSt (by decide) _)) ((h.modCast _).castFail _))))

theorem CastsInRange.mailboxRead (h : CastsInRange s) : CastsInRange (mailboxRead s) := by
  unfold Machine.mailboxRead
  split
  · exact h.castFail _
  · exact h.keep (keeps_setCastSt (by decide) _)

theorem CastsInRange.castChunk (h : CastsInRange s) : CastsInRange (castChunk s) := by
  unfold Machine.castChunk
  dsimp only
  split
  · exact h
  · split
    · exact .ite (.ite (((h.modCast _).keep (keeps_mailRespond (by decide) _ _ _)).mailboxRead)
        ((h.modCast _).keep (keeps_mailRespond (by decide) _ _ _))) ((h.castFail _).keep (keeps_mailFree (by decide)))
    · exact h.keep (keeps_mailRespond (by decide) _ _ _)

theorem CastsInRange.castRead (h : CastsInRange s) : CastsInRange (castRead s) := by
  unfold Machine.castRead
  dsimp only
  split
  · exact h
  · split
    · split
      · exact h.castFail _
      · exact (h.modCast _).keep (keeps_setCastSt (by decide) _)
    · exact h

theorem CastsInRange.adoptLocks (h : CastsInRange s) (l : LockRec) : CastsInRange (adoptLocks l s) :=
  .ite ((h.modCast _).keep (keeps_castLock (by decide))) (h.modCast _)

/-- A Cast in range comes in force. -/
theorem CastsInRange.adoptCast (h : CastsInRange s) {c : CastDesc} (hc : c.InRange) : CastsInRange (adoptCast c s) := by
  unfold Machine.adoptCast
  extract_lets s1 s2 s3 s4
  have h1 : CastsInRange s1 := h.withCast hc nofun nofun
  have h3 : CastsInRange s3 :=
    ((h1.setDomains _).adoptLocks _).forAll _ fun n _ _ hu => hu.keep (keeps_showSlotGen (by decide) n _)
  exact ((((h3.setRegs _).keep (keeps_castResult (by decide) _)).setBit _ _ _).keep (keeps_setCastSt (by decide) _)).castEnd

theorem CastsInRange.firstLoad (h : CastsInRange s) {c : CastDesc} (hc : c.InRange) : CastsInRange (firstLoad c s) := by
  have h2 := (h.modCast fun k => { k with pool := c.pool }).foldl c.slots (f := fun s x => Machine.buildSlot x.1 x.2 s)
    fun x hx u hu => hu.buildSlot x.1 (hc x hx)
  exact (h2.adoptCast hc).forAll _ fun p _ _ hu => hu.keep (keeps_retryPort (by decide) p)

theorem CastsInRange.resync (h : CastsInRange s) (n : Nat) (a : SlotCast) {b : SlotCast} (hb : SlotInRange b) :
    CastsInRange (resync n a b s) := by
  unfold Machine.resync
  extract_lets s1 s2 src a1 s3
  have h1 : CastsInRange s1 := h.recfg n _ (by rintro _ _ ⟨⟩; exact hb)
  have h2 : CastsInRange s2 :=
    ((h1.keep (keeps_syncSlotRegs (by decide) _ _)).keep (keeps_movePx (by decide) _ _ _ _)).keep
      (keeps_syncChanRegs (by decide) _ _)
  have h3 : CastsInRange s3 := (h2.keep (keeps_loadCastVals (by decide) _ _ _)).loadActive _ _ _
  exact ((h3.keep (keeps_syncPitchRange (by decide) _ _ _)).keep (keeps_syncPitches (by decide))).keep
    (keeps_showSupply (by decide) n)

/-- A slot runs another Cast in range. -/
theorem CastsInRange.recastSlot (h : CastsInRange s) (n : Nat) {b : SlotCast} (hb : SlotInRange b) (cold : Bool) :
    CastsInRange (recastSlot n b cold s) := by
  unfold Machine.recastSlot
  split
  · exact h
  · next a _ =>
    extract_lets re s1 s2 m s3 s4 s5 s6
    have h1 : CastsInRange s1 := .ite (h.quiesce _ _ 6) h
    have h2 : CastsInRange s2 := ((CastsInRange.ite (h1.dropHeld n) h1).resync n a hb).recheckCommit n
    have h3 : CastsInRange s3 := .ite (h2.changeMode n m) h2
    have h4 : CastsInRange s4 := .ite (h3.enterAcquire n) h3
    have h5 : CastsInRange s5 :=
      ((h4.keep (keeps_showLoad (by decide) n)).keep (keeps_revalidate (by decide) n)).computeTraj n
    have h6 : CastsInRange s6 :=
      .ite h5 (.ite ((h5.keep (keeps_bindChans (by decide) _ _)).calBind n _) (h5.calRecast n))
    exact .ite h6 (h6.keep (keeps_retryPort (by decide) _))

theorem CastsInRange.removeSlot (h : CastsInRange s) (n : Nat) : CastsInRange (removeSlot n s) :=
  (((CastsInRange.ite (h.quiesce _ _ _) h).unbuildSlot _).modHeat _).setReg _ _

/-- Records of two Casts in range make one. -/
theorem SlotInRange.take {c d : SlotCast} (hc : SlotInRange c) (hd : SlotInRange d) (p : SlotPlan) (k : FieldClass) :
    SlotInRange (SlotCast.take p k c d) := by
  obtain ⟨cport, ccomp, cchan, cpitch, cmode⟩ := hc
  obtain ⟨dport, dcomp, dchan, dpitch, dmode⟩ := hd
  unfold SlotCast.take
  refine ⟨?_, ?_, ?_, ?_, ?_⟩ <;> dsimp only <;> split <;> assumption

theorem CastDesc.InRange.find {d : CastDesc} (h : d.InRange) {n : Nat} {c : SlotCast} (hc : d.find n = some c) : SlotInRange c := by
  obtain ⟨x, hx, rfl⟩ := Option.map_eq_some_iff.1 hc
  exact h x (List.mem_of_find?_eq_some hx)

theorem CastsInRange.running (h : CastsInRange s) {n : Nat} {c : SlotCast} (hc : cfgOf s n = some c) : SlotInRange c := h.1 n c hc

theorem CastsInRange.stagedInRange (h : CastsInRange s) {d : CastDesc} (hd : s.cast.staged = some d) : d.InRange := h.2.2.1 d hd

/-- The plan of a slot is one of the switch under way, beside what the staged Cast gives the slot. -/
theorem planOf_eq_some {n : Nat} {p : SlotPlan} {new : Option SlotCast} (h : planOf s n = some (p, new)) :
    ∃ w c, s.cast.switch = some w ∧ s.cast.staged = some c ∧ new = c.find n := by
  unfold planOf at h
  split at h
  · next w c hw hc =>
    obtain ⟨q, -, hq⟩ := Option.map_eq_some_iff.1 h
    exact ⟨w, c, hw, hc, (congrArg Prod.snd hq).symm⟩
  · exact absurd h nofun

theorem CastsInRange.plan (h : CastsInRange s) {n : Nat} {p : SlotPlan} {d : SlotCast} (hp : planOf s n = some (p, some d)) :
    SlotInRange d := by
  obtain ⟨w, c, -, hc, hd⟩ := planOf_eq_some hp
  exact (h.stagedInRange hc).find hd.symm

theorem CastsInRange.switchSlot (h : CastsInRange s) (n : Nat) : CastsInRange (switchSlot n s) := by
  unfold Machine.switchSlot
  split
  · next w p new _ hp =>
    extract_lets cold s1 s2
    have h1 : CastsInRange s1 := h.modSwitch _ fun w => by split <;> rfl
    have h2 : CastsInRange s2 := by
      unfold s2
      split
      · exact h1.removeSlot n
      · split
        · next c d hc =>
          have hb := ((h1.running hc).take (h.plan hp) p .hot).take (h.plan hp) p .cold
          exact .ite (h1.recastSlot n hb cold) (h1.recheckCommit n)
        · exact (h1.buildSlot n (h.plan hp)).keep (keeps_retryPort (by decide) _)
        · exact h1
    exact .ite h (.ite (h2.modSlot n _) h2)
  · exact h

theorem CastsInRange.warmSlot (h : CastsInRange s) (n : Nat) : CastsInRange (warmSlot n s) := by
  unfold Machine.warmSlot
  split
  · next w p d c _ hp hc =>
    extract_lets touched s1 all lo hi pipe half whole now
    have h1 : CastsInRange s1 := .ite h (h.modSwitch _)
    have hb := (h.running hc).take (h.plan hp) p .warm
    have hhalf : SlotInRange { SlotCast.take p .warm c d with pipe := half, slot := c.slot, chmp := c.chmp, phse := c.phse } := by
      obtain ⟨hport, hcomp, hchan, hpitch, hmode⟩ := h.running hc
      refine ⟨hport, hcomp, hchan, ?_, hmode⟩
      obtain ⟨-, -, -, hd, -⟩ := h.plan hp
      simp only [half, lo, hi]
      omega
    exact .ite h (.ite ((h1.recastSlot n hb false).modSwitch _) (.ite h1 (h1.recastSlot n hhalf false)))
  · exact h

theorem CastsInRange.completeRecast (h : CastsInRange s) {c : CastDesc} (hc : c.InRange) : CastsInRange (completeRecast c s) :=
  h.adoptCast hc

theorem CastsInRange.switchPool (h : CastsInRange s) : CastsInRange (switchPool s) := by
  unfold Machine.switchPool
  split
  · exact .ite (h.modCast _) h
  · exact h

theorem CastsInRange.switchPass (h : CastsInRange s) : CastsInRange (switchPass s) := by
  unfold Machine.switchPass
  dsimp only
  split
  · exact (CastsInRange.ite (h.modSwitch _) (h.modSwitch _)).forAll _
      fun _ _ _ hu => hu.keep (keeps_showSlotGen (by decide) _ _)
  · exact h

theorem CastsInRange.switchProgress (h : CastsInRange s) : CastsInRange (switchProgress s) := by
  unfold Machine.switchProgress
  extract_lets a b s1
  have h1 : CastsInRange s1 := by
    unfold s1
    split
    · have ha : CastsInRange a := h.switchPool.switchPass
      have hb : CastsInRange b := ha.keep (keeps_setCastSt (by decide) _)
      split
      · exact .ite (hb.forAll _ fun n _ _ hu => hu.warmSlot n) ha
      · exact ha
    · exact h
  clear_value s1
  split
  · next hc => exact .ite (h1.completeRecast (h1.stagedInRange hc)) h1
  · exact h1

theorem CastsInRange.switchSweep (h : CastsInRange s) : CastsInRange (switchSweep s) := by
  unfold Machine.switchSweep
  dsimp only
  split
  · exact (h.forAll _ fun _ _ _ hu => .ite (hu.warmSlot _) (hu.switchSlot _)).switchProgress
  · exact h

/-- The switch to a Cast in range begins: what each slot ran before it is in range too. -/
theorem CastsInRange.startSwitch (h : CastsInRange s) {c : CastDesc} (hc : c.InRange) : CastsInRange (startSwitch c s) := by
  unfold Machine.startSwitch
  extract_lets old slots w s1
  have h0 := h.withCast (k := { s.cast with staged := some c, switch := some w, recastAt := some s.linkTime }) h.2.1
    (fun d hd => Option.some.inj hd ▸ hc) fun w' hw x hx => by
      rw [← Option.some.inj hw] at hx
      obtain ⟨n, -, hn⟩ := List.mem_filterMap.1 hx
      obtain ⟨k, hk, rfl⟩ := Option.map_eq_some_iff.1 hn
      exact h.running hk
  have h1 : CastsInRange s1 := h0.setDomains _
  exact ((h1.keep (keeps_setCastSt (by decide) _)).setBit _ _ _).switchSweep

theorem CastsInRange.castValidated (h : CastsInRange s) : CastsInRange (castValidated s) := by
  unfold Machine.castValidated
  split
  · exact h
  · dsimp only
    split
    · exact h.castFail _
    · next c hc =>
      have hr : c.InRange := validate_inRange hc
      exact .ite ((h.setReg _ _).firstLoad hr) ((h.setReg _ _).startSwitch hr)

/-- What a slot ran before the switch is in range. -/
theorem CastsInRange.before (h : CastsInRange s) {w : SwitchState} (hw : s.cast.switch = some w) {n : Nat} {a : SlotCast}
    (ha : w.prev.lookup n = some a) : SlotInRange a := by
  obtain ⟨-, -, -, hprev⟩ := h
  obtain ⟨l₁, l₂, hl, -⟩ := List.lookup_eq_some_iff.1 ha
  exact hprev w hw (n, a) (hl ▸ List.mem_append_right l₁ List.mem_cons_self)

theorem CastsInRange.rollSlot (h : CastsInRange s) (n : Nat) : CastsInRange (rollSlot n s) := by
  unfold Machine.rollSlot
  split
  · exact h
  · next w hw =>
    extract_lets wasDark s1
    have h1 : CastsInRange s1 := by
      unfold s1
      split
      · exact .ite (h.removeSlot n) h
      · next a ha =>
        have hb : SlotInRange a := h.before hw ha
        exact .ite (.ite ((h.recastSlot n hb wasDark).modSlot n _) (h.recastSlot n hb wasDark))
          ((h.buildSlot n hb).keep (keeps_retryPort (by decide) _))
    exact (h1.modSwitch _).keep (keeps_showSlotGen (by decide) n _)

theorem CastsInRange.rollProgress (h : CastsInRange s) : CastsInRange (rollProgress s) := by
  unfold Machine.rollProgress
  split
  · split
    · exact (((h.modCast (fun k => { k with switch := none, staged := none, pool := k.running.pool }) rfl (.inr rfl)
        (.inr rfl)).setDomains _).setBit _ _ _).keep (keeps_setCastSt (by decide) _)
    · exact h
  · exact h

theorem CastsInRange.rollSweep (h : CastsInRange s) : CastsInRange (rollSweep s) := by
  unfold Machine.rollSweep
  split
  · exact (h.forAll _ fun _ _ _ hu => hu.rollSlot _).rollProgress
  · exact h

theorem CastsInRange.abortRecast (h : CastsInRange s) : CastsInRange (abortRecast s) := by
  unfold Machine.abortRecast
  split
  · next w _ =>
    extract_lets lowest s1 s2
    have h1 : CastsInRange s1 := h.modSwitch _
    have h2 : CastsInRange s2 :=
      ((h1.keep (keeps_setCastSt (by decide) _)).keep (keeps_castResult (by decide) _)).logEvent _ _ _ _
    exact .ite h (h2.setReg _ _).castEnd.rollSweep
  · exact h

theorem CastsInRange.castBoundary (h : CastsInRange s) (n : Nat) : CastsInRange (castBoundary n s) :=
  .ite ((CastsInRange.ite ((CastsInRange.ite (h.modSlot _ _) h).rollSlot _) (.ite (h.modSlot _ _) h)).rollSweep)
    (.ite ((((CastsInRange.ite (h.modSlot _ _) h).switchSlot _).switchProgress).switchSweep)
    (.ite (((CastsInRange.ite (h.modSlot _ _) h).warmSlot _).switchSweep) (.ite (h.modSlot _ _) h)))

theorem CastsInRange.castPassed (h : CastsInRange s) (n : Nat) : CastsInRange (castPassed n s) :=
  .ite ((h.switchSlot _).switchProgress) h

theorem CastsInRange.cstCtrl (h : CastsInRange s) (v : Word) : CastsInRange (cstCtrl v s) := by
  unfold Machine.cstCtrl
  extract_lets s1 s2 s3
  have h1 : CastsInRange s1 := h.setFld _ _ _ _
  have h2 : CastsInRange s2 := .ite (h1.keep (keeps_castLock (by decide))) h1
  have h3 : CastsInRange s3 := .ite (h2.withDim fun _ hu => hu.abortRecast) h2
  exact .ite (.ite ((h.keep (keeps_castResult (by decide) _)).raiseVec vecCast) h)
    (CastsInRange.ite (h3.startLoad _) h3).serveQueued

/-! ## Power and resets -/

theorem castsInRange_coldReset (source : Nat) (s : State) : CastsInRange (coldReset source s) := castsInRange_of_boot rfl rfl

theorem castsInRange_powerOn (ph : BitVec 2) (testen low : Bool) (s : State) : CastsInRange (powerOn ph testen low s) :=
  .ite (castsInRange_of_boot rfl rfl) (castsInRange_of_boot rfl rfl)

theorem castsInRange_warmReset (kind source rail : Nat) (s : State) : CastsInRange (warmReset kind source rail s) := by
  unfold warmReset
  extract_lets s1 p s2 s3
  have h2 : CastsInRange s2 := castsInRange_of_boot rfl rfl
  have h3 : CastsInRange s3 := .ite ((h2.setBit _ _ _).modPower _) h2
  exact (h3.setReg _ _).keep (keeps_noteReset (by decide))

theorem castsInRange_parkExit (source : Nat) (s : State) : CastsInRange (parkExit source s) := by
  have h : CastsInRange (setCause kParkExit source 0 (parkRestart s)) := castsInRange_of_boot rfl rfl
  exact h.keep (keeps_noteReset (by decide))

theorem castsInRange_parkReset (s : State) : CastsInRange (parkReset s) := castsInRange_of_boot rfl rfl

theorem CastsInRange.resetN (h : CastsInRange s) : CastsInRange (resetN s) := by
  unfold Machine.resetN
  split
  · exact h
  · exact castsInRange_parkExit 1 s
  · exact castsInRange_parkExit 1 s
  · exact .ite ((h.modPower _).setReg _ _) (castsInRange_warmReset _ _ _ s)
  · exact castsInRange_warmReset _ _ _ s

theorem CastsInRange.loseCal (h : CastsInRange s) (n : Nat) : CastsInRange (loseCal n s) := by
  unfold Machine.loseCal
  dsimp only
  split
  · exact h
  · exact ((((h.modCal _ _).setReg _ _).setReg _ _).forAll _ fun _ _ _ hu => hu.setReg _ _).forAll _
      fun _ _ _ hu => ((hu.modChan _ _).forAll _ fun _ _ _ hv => hv.setReg _ _).forAll _ fun _ _ _ hv => hv.setReg _ _

theorem CastsInRange.engineReset (h : CastsInRange s) (n : Nat) : CastsInRange (engineReset n s) := by
  unfold Machine.engineReset
  split
  · exact h
  · extract_lets p st s1 s2
    have h1 : CastsInRange s1 := .ite (h.modPort p _) (h.quiesce p _ _)
    have h2 : CastsInRange s2 := .ite (h1.keep (keeps_enterDetect (by decide) p)) h1
    exact ((((h2.flushLines n).keep (keeps_heatDepart (by decide) n)).loopsDepart p).loseCal n).castPassed n

theorem CastsInRange.engineResets (h : CastsInRange s) (mask : Nat) : CastsInRange (engineResets mask s) :=
  (h.forAll _ fun _ _ _ hu => hu.engineReset _).logEvent _ _ _ _

theorem CastsInRange.fabricSlot (h : CastsInRange s) (n : Nat) : CastsInRange (fabricSlot n s) :=
  ((((((h.keep (keeps_quietSlot (by decide) _)).cancelCommit _).forAll _
    fun _ _ _ hu => hu.cancelSwap _ _).stopRaster _).modSlot _ _).flushLines _).keep (keeps_invalidatePlanes (by decide) _)

theorem CastsInRange.fabricReset (h : CastsInRange s) : CastsInRange (fabricReset s) :=
  ((h.forAll _ fun _ _ _ hu => hu.fabricSlot _).modPower _).logEvent _ _ _ _

theorem CastsInRange.fabricDone (h : CastsInRange s) : CastsInRange (fabricDone s) :=
  .ite ((h.forAll _ fun _ _ _ hu => hu.modSlot _ _).modPower _) h

theorem CastsInRange.genReset (h : CastsInRange s) (v : Word) : CastsInRange (genReset v s) := by
  have h1 : CastsInRange (if bit v 16 then Machine.fabricReset s else s) := .ite h.fabricReset h
  exact .ite (h.logEvent _ _ _ _) (.ite (castsInRange_warmReset _ _ _ s) (.ite h1 (h1.engineResets _).serveQueued))

theorem CastsInRange.supplyDip (h : CastsInRange s) (r mv : Nat) : CastsInRange (supplyDip r mv s) := by
  unfold Machine.supplyDip
  extract_lets s1 s2 s3
  have h1 : CastsInRange s1 := (((h.keep (keeps_showRail (by decide) r mv)).setBit _ _ _).setBit _ _ _).setBit _ _ _
  have h3 : CastsInRange s3 := ((h1.incSat _ _ _).modPower _).logEvent _ _ _ _
  exact .ite h (.ite h3 ((h3.raiseVec 0).withDim fun _ hu => hu.forAll _ fun n _ _ hv => (hv.modSlot n _).dipNow n))

theorem CastsInRange.railResetLevel (h : CastsInRange s) (r mv : Nat) : CastsInRange (railResetLevel r mv s) :=
  .ite h (.ite (castsInRange_coldReset 1 s) (.ite (castsInRange_coldReset 2 s) ((castsInRange_warmReset _ _ _ s).setFld _ _ _ _)))

theorem CastsInRange.dozeClear (h : CastsInRange s) : CastsInRange (dozeClear s) :=
  (((h.foldl _ fun _ _ _ hu => hu.setFld _ _ _ _).forAll _ fun _ _ _ hu => .ite (hu.setReg _ _) hu).forAll _
    fun _ _ _ hu => hu.modSlot _ _).forAll _ fun _ _ _ hu => (hu.setFld _ _ _ _).setFld _ _ _ _

theorem CastsInRange.entryComplete (h : CastsInRange s) : CastsInRange (entryComplete s) := by
  unfold Machine.entryComplete
  split
  · exact (((h.modMc _).modPower _).raiseVec 0).serveQueued
  · exact castsInRange_parkReset _
  · exact h

theorem CastsInRange.dozeExit (h : CastsInRange s) : CastsInRange (dozeExit s) := by
  unfold Machine.dozeExit
  extract_lets s1 s2 s3 s4
  have h1 : CastsInRange s1 :=
    ((h.forAll _ fun p _ _ hu => hu.keep (keeps_enterDetect (by decide) p)).modMc _).keep (keeps_helpersUsed (by decide))
  have h2 : CastsInRange s2 := (h1.forAll _ fun n _ _ hu => hu.applyAtOnce n).dozeClear.loopsDozeExit
  have h3 : CastsInRange s3 := (h2.keep (keeps_setSt (by decide) .run)).modPower _
  have h4 : CastsInRange s4 := .ite (h3.forAll _ fun n _ _ hu => (hu.modSlot n _).engageDim n) h3
  exact .ite h (h4.raiseVec 0).serveQueued

theorem CastsInRange.wakeEdge (h : CastsInRange s) (m : Nat) (rising : Bool) : CastsInRange (wakeEdge m rising s) := by
  unfold Machine.wakeEdge
  split
  · exact h
  · split
    · exact h.keep (keeps_beginExit (by decide))
    · exact castsInRange_parkExit 0 s
    · exact castsInRange_parkExit 0 s
    · exact h

theorem CastsInRange.thermalPark (h : CastsInRange s) : CastsInRange (thermalPark s) := by
  unfold Machine.thermalPark
  split
  · exact h
  · split
    · exact h.beginEntry _
    · exact h.beginEntry _
    · exact h.beginEntry _
    · exact h.beginEntry _
    · exact h.beginEntry _
    · exact h

/-! ## Faults -/

theorem CastsInRange.haltWrite (h : CastsInRange s) (v : Word) : CastsInRange (haltWrite v s) :=
  .ite h (.ite ((h.setBit _ _ _).lenDropAll _) ((h.setBit _ _ _).lenTryAll))

theorem CastsInRange.frRelease (h : CastsInRange s) (v : Word) : CastsInRange (frRelease v s) :=
  h.forAll _ fun _ _ _ hu => .ite (hu.modSlot _ _) (hu.logEvent _ _ _ _)

/-! ## Frame boundaries -/

theorem CastsInRange.freezeReach (h : CastsInRange s) (n : Nat) : CastsInRange (freezeReach n s) :=
  .ite ((((h.modSlot _ _).setBit _ _ _).logEvent _ _ _ _).raiseVec _) h

theorem CastsInRange.freezeStep (h : CastsInRange s) (n : Nat) (t : FrameTap) : CastsInRange (freezeStep n t s) :=
  .ite ((h.modSlot _ _).setReg _ _) (.ite ((((h.modSlot _ _).setReg _ _).modSlot _ _).setFld _ _ _ _)
    ((((h.modSlot _ _).setReg _ _).incSat _ _ _).freezeReach _))

theorem CastsInRange.closeTap (h : CastsInRange s) (n : Nat) (c : SlotCast) : CastsInRange (closeTap n c s) := by
  unfold Machine.closeTap
  split
  · exact h
  · extract_lets t1
    split
    · exact h.modSlot n _
    · exact (h.modSlot n _).freezeStep n t1

theorem CastsInRange.judgeRaster (h : CastsInRange s) (n : Nat) : CastsInRange (judgeRaster n s) := by
  unfold Machine.judgeRaster
  split
  · exact .ite ((h.modSlot _ _).freezeStep _ _) h
  · exact h

theorem CastsInRange.showFrameCounts (h : CastsInRange s) (n : Nat) (c : SlotCast) : CastsInRange (showFrameCounts n c s) :=
  (CastsInRange.ite ((h.setFld _ _ _ _).setReg _ _) ((h.setFld _ _ _ _).setRegs _)).modSlot _ _

theorem CastsInRange.closeFrame (h : CastsInRange s) (n : Nat) (c : SlotCast) (i : BoundaryIn) :
    CastsInRange (closeFrame n c i s) :=
  (((h.keep (keeps_cutRaster (by decide) _ _ _)).rasterEnd _).closeTap _ _).showFrameCounts _ _

theorem CastsInRange.turnFrame (h : CastsInRange s) (n : Nat) : CastsInRange (turnFrame n s) := (h.modSlot _ _).resumeMode _

theorem CastsInRange.applyDue (h : CastsInRange s) (n : Nat) (c : SlotCast) : CastsInRange (applyDue n c s) := by
  unfold Machine.applyDue
  extract_lets q due s1
  have h1 : CastsInRange s1 := ((h.boundarySwaps n).boundaryCommit n c).releaseSources n
  exact ((CastsInRange.ite h1 (h1.keep (keeps_checkActive (by decide) n c _))).takeBuffers n c).noteHandover n c

theorem CastsInRange.endHolds (h : CastsInRange s) (n : Nat) : CastsInRange (endHolds n s) := (h.endContain _ _).modSlot _ _

theorem CastsInRange.leaveDim (h : CastsInRange s) (n : Nat) : CastsInRange (leaveDim n s) := .ite h (h.modSlot _ _)

theorem CastsInRange.hallBoundary (h : CastsInRange s) (n : Nat) (ready : Bool) : CastsInRange (hallBoundary n ready s) := by
  unfold Machine.hallBoundary
  dsimp only
  split
  · exact h
  · split
    · split
      · exact .ite (((h.modHall _ _).setFld _ _ _ _).applyScene _) (((h.modHall _ _).setFld _ _ _ _).modHall _ _)
      · exact (h.modHall _ _).setFld _ _ _ _
    · exact ((((h.modHall _ _).keep (keeps_countHold (by decide) _)).setBit _ _ _).logEvent _ _ _ _).modHall _ _

theorem CastsInRange.ceilBoundary (h : CastsInRange s) (n : Nat) (c : SlotCast) (before : SlotState) :
    CastsInRange (ceilBoundary n c before s) :=
  ((((h.takeCeilInputs _).refreshCeil _).calBoundary _ _ _).calOpen _).modSlot _ _

theorem CastsInRange.advanceChg (h : CastsInRange s) (n : Nat) (c : SlotCast) : CastsInRange (advanceChg n c s).2 :=
  (h.forAll _ fun _ _ _ hu => hu.setFld _ _ _ _).modSlot n _

theorem CastsInRange.takeSettings (h : CastsInRange s) (n : Nat) : CastsInRange (takeSettings n s) := h.modSlot _ _

theorem CastsInRange.openTap (h : CastsInRange s) (n : Nat) (c : SlotCast) (hs : HallSlot) (chg : Bool) :
    CastsInRange (openTap n c hs chg s) := h.modSlot n _

theorem CastsInRange.openRaster (h : CastsInRange s) (n : Nat) (c : SlotCast) : CastsInRange (openRaster n c s) :=
  ((h.keep (keeps_composeFrame (by decide) _ _)).startWriteBack _ _).modSlot _ _

theorem CastsInRange.openArray (h : CastsInRange s) (n : Nat) (c : SlotCast) : CastsInRange (openArray n c s) :=
  .ite ((h.setTarget _ _).setReg _ _) (((((h.setTarget _ _).setReg _ _).insertEvents _ _ _).insertEvents _ _ _).insertEvents _ _ _)

theorem CastsInRange.openLines (h : CastsInRange s) (n : Nat) : CastsInRange (openLines n s) :=
  .ite ((CastsInRange.ite ((h.emptyHeld _).setTarget _ _) h).modLines _ _) (.ite ((h.emptyHeld _).setTarget _ _) h)

theorem CastsInRange.openFrame (h : CastsInRange s) (n : Nat) (c : SlotCast) (before : SlotState) :
    CastsInRange (openFrame n c before s) := by
  unfold Machine.openFrame
  extract_lets x hs s1 s2 s3 s4
  have h1 : CastsInRange s1 := (((h.advanceChg n c).keep (keeps_markHidden (by decide) n c)).takeSettings n).openTap n c hs x.1
  have h3 : CastsInRange s3 := (h1.modHall n _).openRaster n c
  have h4 : CastsInRange s4 := .ite (h3.openArray n c) (h3.openLines n)
  exact (h4.modSlot n _).lenTry _

theorem CastsInRange.frameBoundary (h : CastsInRange s) (n : Nat) (i : BoundaryIn) : CastsInRange (frameBoundary n i s) := by
  unfold Machine.frameBoundary
  split
  · exact h
  · next c0 _ =>
    extract_lets before s1
    have h1 : CastsInRange s1 := ((h.closeFrame n c0 i).turnFrame n).castBoundary n
    clear_value s1
    refine .ite h ?_
    split
    · exact h1
    · next c _ =>
      extract_lets s2 s3
      have h2 : CastsInRange s2 := (h1.applyDue n c).keep (keeps_ttlBoundary (by decide) n)
      have h3 : CastsInRange s3 := (((h2.endHolds n).hallBoundary n _).keep (keeps_showHall (by decide) n)).leaveDim n
      exact .ite h1 ((h3.ceilBoundary n c before).openFrame n c before)

/-! ## Host accesses -/

theorem CastsInRange.pitchWrite (h : CastsInRange s) (p w : Nat) (v : Word) : CastsInRange (pitchWrite p w v s) := by
  unfold Machine.pitchWrite
  split
  · exact h
  · refine .ite h (h.hostPitchGate _ _ v true fun v u hu => CastsInRange.keep ?_ (keeps_syncPitches (by decide)))
    have hh {n : Nat} {c : SlotCast} (t : State) (ht : CastsInRange t) : CastsInRange (hostHeader n c p v t) :=
      ht.keep (keeps_hostHeader (by decide) n c p v)
    exact .ite (.ite (hh u hu) (hu.jobWrite _ _ _ _ hh))
      (hu.jobWrite _ _ _ _ fun _ ht => ht.keep (keeps_hostPitchWord (by decide) _ _ p w v))

theorem CastsInRange.trimWrite (h : CastsInRange s) (n : Nat) (v : Word) : CastsInRange (trimWrite n v s) :=
  (h.setReg _ _).retuneFree _

theorem CastsInRange.ceilWrite (h : CastsInRange s) (k : Nat) (v : Word) : CastsInRange (ceilWrite k v s) := by
  unfold Machine.ceilWrite
  split
  · exact h
  · exact (h.keep (keeps_clampWrite (by decide) _ _ _ _ _ _)).raiseFrame _

theorem CastsInRange.hystWrite (h : CastsInRange s) (n : Nat) (v : Word) : CastsInRange (hystWrite n v s) :=
  .ite (h.setReg _ _) ((h.setReg _ _).setTarget _ _)

/-- Every write with an effect beyond its register is an operation above, or one that leaves slots and Cast loader. -/
theorem CastsInRange.specialAct (h : CastsInRange s) {base i off : Nat} {v : Word} {f : State → State}
    (hf : specialAct base i off v = some f) : CastsInRange (f s) := by
  unfold Machine.specialAct at hf
  split at hf
  all_goals cases hf
  · exact h.stateReq _
  · exact h.withDim fun _ hu => hu.setReg _ _
  · exact h.genReset _
  · exact h.keep (keeps_wdogWrite (by decide) _)
  · exact h.keep (keeps_kickWdog (by decide) _)
  · exact h.keep (keeps_msixCtrl (by decide) _ _)
  · exact h.cstCtrl _
  · exact h.tfCtrl _ _
  · exact h.keep (keeps_clampWrite (by decide) _ _ _ _ _ _)
  · exact h.trimWrite _ _
  · exact h.keep (keeps_horizonWrite (by decide) _ _)
  · exact h.keep (keeps_clampWrite (by decide) _ _ _ _ _ _)
  · exact h.keep (keeps_orderWrite (by decide) _ _ _)
  · exact h.keep (keeps_orderWrite (by decide) _ _ _)
  · exact h.keep (keeps_orderWrite (by decide) _ _ _)
  · exact h.keep (keeps_orderWrite (by decide) _ _ _)
  · exact h.keep (keeps_orderWrite (by decide) _ _ _)
  · exact h.keep (keeps_orderWrite (by decide) _ _ _)
  · exact h.keep (keeps_orderWrite (by decide) _ _ _)
  · exact h.keep (keeps_orderWrite (by decide) _ _ _)
  · exact h.keep (keeps_orderWrite (by decide) _ _ _)
  · exact h.keep (keeps_orderWrite (by decide) _ _ _)
  · exact h.keep (keeps_orderWrite (by decide) _ _ _)
  · exact h.keep (keeps_orderWrite (by decide) _ _ _)
  · exact h.keep (keeps_orderWrite (by decide) _ _ _)
  · exact h.keep (keeps_orderWrite (by decide) _ _ _)
  · exact h.keep (keeps_withCommit (by decide) _ _ fun _ k => keeps_setReg (by decide) _ _ k)
  · exact h.keep (keeps_withCommit (by decide) _ _ fun _ k => keeps_setReg (by decide) _ _ k)
  · exact h.soCtrl _ _
  · exact h.keep (keeps_latchWrite (by decide) _ _)
  · exact (h.keep (keeps_clampWrite (by decide) _ _ _ _ _ _)).freezeReach _
  · exact h.keep (keeps_withCommit (by decide) _ _ fun _ k => keeps_setReg (by decide) _ _ k)
  · exact h.slCtrl _ _
  · exact h.keep (keeps_seqWrite (by decide) _ _ _)
  · exact h.keep (keeps_seqWrite (by decide) _ _ _)
  · exact h.keep (keeps_seqWrite (by decide) _ _ _)
  · exact h.keep (keeps_seqWrite (by decide) _ _ _)
  · exact h.keep (keeps_lbCtrlWrite (by decide) _ _)
  · exact h.keep (keeps_lookWrite (by decide) _ _)
  · exact h.keep (keeps_clampWrite (by decide) _ _ _ _ _ _)
  · exact h.keep (keeps_clampWrite (by decide) _ _ _ _ _ _)
  · exact h.probeSel _ _
  · exact h.lenArm _
  · exact h.lenFaultClear _
  · exact h.ceilWrite _ _
  · exact (h.keep (keeps_clampWrite (by decide) _ _ _ _ _ _)).keep (keeps_clampWrite (by decide) _ _ _ _ _ _)
  · exact h.hystWrite _ _
  · exact h.snapCtrl _
  · exact h.keep (keeps_pageCtrl (by decide) _)
  · exact h.caCtrl _ _
  · exact h.keep (keeps_snapWrite (by decide) _ _)
  · exact h.keep (keeps_leConfigWrite (by decide) _ _ _ _)
  · exact h.keep (keeps_leConfigWrite (by decide) _ _ _ _)
  · exact h.leCtrl _ _
  · exact h.keep (keeps_limitWrite (by decide) _ _ _ _ _)
  · exact h.keep (keeps_limitWrite (by decide) _ _ _ _ _)
  · exact h.keep (keeps_limitWrite (by decide) _ _ _ _ _)
  · exact h.keep (keeps_limitWrite (by decide) _ _ _ _ _)
  · exact h.keep (keeps_leConfigWrite (by decide) _ _ _ _)
  · exact h.keep (keeps_leConfigWrite (by decide) _ _ _ _)
  · exact h.keep (keeps_leConfigWrite (by decide) _ _ _ _)
  · exact h.keep (keeps_dlyClear (by decide) _ _)
  · exact h.keep (keeps_coefWrite (by decide) _ _ _)
  · exact h.epCtrl _ _
  · exact (h.keep (keeps_plainWrite (by decide) _ _ _ _)).keep (keeps_clampWrite (by decide) _ _ _ _ _ _)
  · exact h.keep (keeps_imuHost (by decide) _)
  · exact h.keep (keeps_camCfg (by decide) _ _)
  · exact h.keep (keeps_camDirect (by decide) _ _)
  · exact h.keep (keeps_aliveWrite (by decide) _)
  · exact h.aliveKick _
  · exact h.keep (keeps_casGo (by decide) _ _)
  · exact h.keep (keeps_writeCdCfg (by decide) _)
  · exact h.keep (keeps_codecSubmit (by decide) _)
  · exact h.keep (keeps_codecPop (by decide) _)
  · exact h.keep (keeps_freqWrite (by decide) _)
  · exact h.keep (keeps_clampWrite (by decide) _ _ _ _ _ _)
  · exact h.keep (keeps_clampWrite (by decide) _ _ _ _ _ _)
  · exact h.keep (keeps_helperWrite (by decide) _ _ fun _ k => keeps_setReg (by decide) _ _ k)
  · exact h.keep (keeps_patternRun (by decide) _)
  · exact h.keep (keeps_helperWrite (by decide) _ _ fun _ k => keeps_setReg (by decide) _ _ k)
  · exact h.keep (keeps_helperWrite (by decide) _ _ fun _ k => keeps_setReg (by decide) _ _ k)
  · exact h.keep (keeps_delayWrite (by decide) _ _ _)
  · exact h.keep (keeps_delayWrite (by decide) _ _ _)
  · exact h.keep (keeps_delayWrite (by decide) _ _ _)
  · exact (h.keep (keeps_clampWrite (by decide) _ _ _ _ _ _)).keep (keeps_clampWrite (by decide) _ _ _ _ _ _)
  · exact h.keep (keeps_clampWrite (by decide) _ _ _ _ _ _)
  · exact h.keep (keeps_phaseMap (by decide) _ _)
  · exact h.keep (keeps_clampWrite (by decide) _ _ _ _ _ _)
  · exact h.keep (keeps_logClr (by decide) _)
  · exact h.keep (keeps_faultClear (by decide) _)
  · exact h.haltWrite _
  · exact h.frRelease _
  · exact h.keep (keeps_frSeize (by decide) _)
  · exact h.keep (keeps_doorbell (by decide) _)

theorem CastsInRange.rowAct (h : CastsInRange s) (d : RegDef) (i off : Nat) (v : Word) : CastsInRange (rowAct d i off v s) := by
  unfold Machine.rowAct
  cases hf : Machine.specialAct d.base i off v with
  | some f => exact h.specialAct hf
  | none => exact h.keep (keeps_plainWrite (by decide) _ _ _ _)

theorem CastsInRange.registerWrite (h : CastsInRange s) (off : Nat) (v : Word) : CastsInRange (registerWrite off v s) := by
  unfold Machine.registerWrite
  split
  · exact h.hostWrite off v fun w u hu => hu.rowAct _ _ off w
  · exact h

theorem CastsInRange.bar0Access (h : CastsInRange s) (off : Nat) (acc : Access) : CastsInRange (bar0Access off acc s) := by
  unfold Machine.bar0Access
  dsimp only
  split
  · refine CastsInRange.keep ?_ (keeps_hostData (by decide))
    split
    · exact h
    · exact h.keep (keeps_registerRead (by decide) _)
  · exact .ite (h.keep (keeps_logAccess (by decide) _ _ _)) (.ite (h.pitchWrite _ _ _) (h.registerWrite _ _))

end

end Sys2Proof.Machine
end

section
/-! PROOFS. Casts in range through every command. -/

set_option Elab.async false

namespace Sys2Proof.Machine

section
variable {s : State}

theorem CastsInRange.sportRequest (h : CastsInRange s) (cmd : Byte) (q : SportReq) {act : SportAct}
    (hf : ∀ n b u, CastsInRange u → CastsInRange (act n b u).2.2) : CastsInRange (sportRequest cmd q act s) := by
  unfold Machine.sportRequest
  extract_lets s1 n r f s2
  have h1 : CastsInRange s1 := ((h.keep (keeps_shiftOut (by decide))).incSat _ _ _).setBit _ _ _
  have h2 : CastsInRange s2 := by
    unfold s2 r
    split
    · exact hf _ _ _ h1
    · exact h1
  exact .ite h (.ite (h1.keep (keeps_setResp (by decide) _)) (h2.ofSame rfl rfl))

/-- What a command answers with is in range if its outcome is a state in range. -/
theorem CastsInRange.next {t u : State} (e : (Host.Outcome.next t : Host.Outcome State Fault Refusal) = .next u)
    (h : CastsInRange t) : CastsInRange u := by
  cases e
  exact h

theorem CastsInRange.execRegisterWrite {t : State} (h : CastsInRange s) {bar : Bar} {off : BitVec 26} {size : Nat} {acc : Access}
    (e : execRegisterWrite bar off size acc s = .next t) : CastsInRange t := by
  unfold Machine.execRegisterWrite at e
  dsimp only at e
  split at e
  · split at e
    · exact .next e h
    · split at e
      · exact .next e (h.bar0Access _ _)
      · exact .next e (h.keep (keeps_oddAccess (by decide) _ _ _))
  · split at e
    · exact absurd e nofun
    · split at e
      · exact .next e h
      · split at e
        · exact .next e (h.keep (keeps_bar4Access (by decide) _ _))
        · exact .next e (h.keep (keeps_oddAccess (by decide) _ _ _))

/-- Every command keeps the Casts in range: one that touches neither slots nor Cast loader by its footprint, another by its
operation. -/
theorem CastsInRange.exec {t : State} (h : CastsInRange s) {c : Instr} (e : exec c s = .next t) : CastsInRange t := by
  cases c
  case registerWrite => exact h.execRegisterWrite e
  case powerOn => exact .next e (castsInRange_powerOn _ _ _ s)
  case fullTrainingComplete => exact .next e (.ite ((h.trainingDone _).modPower _) h)
  case bootCastBuild => exact .next e (.ite (((h.boot.modPower _).raiseVec _).serveQueued) h)
  case load | lock | abort => exact .next e (h.hostWrite _ _ fun _ _ hu => hu.cstCtrl _)
  case validationComplete => exact .next e ((h.withDim fun _ hu => hu.castValidated).serveQueued)
  case recastTimeout => exact .next e (.ite ((h.withDim fun _ hu => hu.switchSweep.abortRecast).serveQueued) h)
  case frameBoundary => exact .next e (h.whileUp fun _ hu => (hu.noteState fun _ hv => hv.frameBoundary _ _).serveQueued)
  case castLoad => exact .next e (h.castChunk)
  case castChunkTimeout => exact .next e (.ite (h.castFail _) h)
  case castReadComplete => exact .next e (h.castRead)
  case reckonStep => exact .next e (h.whilePowered fun _ hu => hu.reckonStep _)
  case measuredPoint => exact .next e (h.whileUp fun _ hu => .ite (hu.modReck _ _) hu)
  case laneRoomInsert => exact .next e (h.whileUp fun _ hu => hu.laneRoom _ _)
  case realign => exact .next e (h.hostWrite _ _ fun _ _ hu => hu.tfCtrl _ _)
  case syncEdge => exact .next e (h.whileUp fun _ hu => (hu.setReg _ _).forAll _ fun _ _ _ hv => hv.syncEdgeSlot _ _)
  case lineEnter => exact .next e (h.whileUp fun _ hu => hu.lineEnter _)
  case strikeTest => exact .next e (h.whileUp fun _ hu => hu.strikeTest _ _)
  case lineDark => exact .next e (h.whileUp fun _ hu => hu.lineDark _ _)
  case lineWindowEnd => exact .next e (h.whileUp fun _ hu => hu.lineEnd _ _)
  case setPointUpdate => exact .next e (.ite (h.moveSupply _ _) h)
  case syncMissed => exact .next e (h.whileUp fun _ hu => hu.syncMissed _)
  case rasterEnd => exact .next e (.ite ((h.rasterEnd _).judgeRaster _) h)
  case levelStale => exact .next e (h.whileUp fun _ hu => hu.levelStale _)
  case capture => exact .next e (h.hostWrite _ _ fun _ _ hu => hu.probeSel _ _)
  case resetEst => exact .next e (h.hostWrite _ _ fun _ _ hu => hu.caCtrl _ _)
  case kick => exact .next e (h.hostWrite _ _ fun _ _ hu => hu.aliveKick _)
  case frRelease => exact .next e (h.hostWrite _ _ fun _ _ hu => hu.frRelease _)
  case pickoffLost => exact .next e (h.whileUp fun _ hu => hu.pickoffGone _)
  case trackerUpdate => exact .next e (h.trackerUpdate _ _ _)
  case loopSrcLost => exact .next e (h.loopSrcLost _)
  case writebackComplete => exact .next e (h.whileUp fun _ hu => hu.writebackComplete _)
  case signatureRecord => exact .next e (h.whilePowered fun _ hu => hu.signatureRecord _ _)
  case lenArmWrite => exact .next e (h.hostWrite _ _ fun _ _ hu => hu.lenArm _)
  case lenFaultClear => exact .next e (h.hostWrite _ _ fun _ _ hu => hu.lenFaultClear _)
  case hostLost => exact .next e (h.hostLost)
  case hostHaltSet | hostHaltClear => exact .next e (h.hostWrite _ _ fun _ _ hu => hu.haltWrite _)
  case pitchW0Write | calJobWrite => exact .next e (h.pitchWrite _ _ _)
  case commit | modeChangeRequest | cancel => exact .next e (h.hostWrite _ _ fun _ _ hu => hu.soCtrl _ _)
  case tableSwap | swapCancel => exact .next e (h.hostWrite _ _ fun _ _ hu => hu.slCtrl _ _)
  case sliceStart => exact .next e (h.whileUp fun _ hu => hu.sliceStart _ _)
  case sliceDeadline => exact .next e (h.whileUp fun _ hu => hu.sliceDeadline _ _ _)
  case renderComplete => exact .next e (h.whileUp fun _ hu => hu.renderComplete _ _ _)
  case rerenderComplete => exact .next e (h.whileUp fun _ hu => hu.rerenderComplete _ _ _)
  case laserSupplyOverv => exact .next e (h.supplyOverv _ _)
  case sense => exact .next e (h.whileUp fun _ hu => .ite hu (.ite (hu.senseTake _ _) (hu.senseReject _ _)))
  case presenceLost => exact .next e (.ite ((h.setBit _ _ _).lose _ _) h)
  case timeEcho => exact .next e (h.timeEcho _ _ _ _ _)
  case probe | quiesce | retry => exact .next e (h.hostWrite _ _ fun _ _ hu => hu.epCtrl _ _)
  case bindTimeout | quiesceTimeout => exact .next e (.ite (h.lose _ _) h)
  case leave => exact .next e (h.whileUp fun _ hu => .ite (hu.keep (keeps_quiesced (by decide) _)) (hu.lose _ _))
  case heartbeat => exact .next e (h.whileUp fun _ hu => hu.heartbeat _ _ _)
  case heartbeatMiss => exact .next e (h.whileUp fun _ hu => hu.heartbeatMiss _)
  case packetDiscard => exact .next e (h.whileUp fun _ hu => hu.packetDiscard _ _)
  case take | restore => exact .next e (h.hostWrite _ _ fun _ _ hu => hu.snapCtrl _)
  case loopEnable | loopClose | loopOpen | loopDisable => exact .next e (h.hostWrite _ _ fun _ _ hu => hu.leCtrl _ _)
  case loopSample => exact .next e (h.loopSample _ _ _ _)
  case bindAck => exact .next e (h.withDim fun _ hu => hu.bindAck _ _)
  case trainModeMicrocode =>
    exact .next e (.ite ((CastsInRange.ite (((((h.modMc _).setBit _ _ _).keep (keeps_dramForget (by decide))).keep
      (keeps_helpersUsed (by decide))).forAll _ fun _ _ _ hu => hu.pcFail _) h).keep (keeps_mailRespond (by decide) _ _ _))
      (h.keep (keeps_trainOther (by decide))))
  case mailboxAbort =>
    exact .next e (.ite ((h.keep (keeps_mailAbort (by decide) _)).castFail _) (h.keep (keeps_mailAbort (by decide) _)))
  case freqChangeComplete => exact .next e ((h.keep (keeps_freqDone (by decide))).serveQueued)
  case thermalPark => exact .next e (h.thermalPark)
  case stateReqRun | stateReqDoze | stateReqPark => exact .next e (h.hostWrite _ _ fun _ _ hu => hu.stateReq _)
  case gatherWindowEnd => exact .next e (h.whileUp fun _ hu => hu.gatherEnd _ _ _ _)
  case uncorrectableBurst => exact .next e (h.whilePowered fun _ hu => hu.uncorrectable _)
  case autoRemapReset | watchdogExpiry | supervisorTimeout => exact .next e (.ite (castsInRange_warmReset _ _ _ s) h)
  case entryComplete => exact .next e (h.entryComplete)
  case throttleStep => exact .next e (h.throttleStep _)
  case laserOvertemp => exact .next e (h.noteState fun _ hu => hu.laserOvertemp _)
  case supplyDip => exact .next e (h.supplyDip _ _)
  case railResetLevel => exact .next e (h.railResetLevel _ _)
  case wakeEdge => exact .next e (h.wakeEdge _ _)
  case resetN => exact .next e (h.resetN)
  case dozeExitComplete => exact .next e (h.dozeExit)
  case warm | engine | fabric => exact .next e (h.hostWrite _ _ fun _ _ hu => hu.genReset _)
  case fabricResetComplete => exact .next e (h.fabricDone)
  case setScene q => exact .next e (h.sportRequest _ q fun _ _ _ hu => hu.sportSetScene _ _)
  case commitScene q => exact .next e (h.sportRequest _ q fun _ _ _ hu => hu.sportCommit _ _)
  case release q => exact .next e (h.sportRequest _ q fun _ _ _ hu => hu.sportRelease _ _)
  case containDim q | containOff q => exact .next e (h.sportRequest _ q fun _ _ _ hu => hu.sportContain _ _)
  all_goals exact h.ofKeeps (exec_keeps e) (by simp [footprint]) (by simp [footprint])

end

/-- Settles O50: an idle step changes nothing, and every command keeps the Casts in range. -/
theorem stepKeepsCastsInRange : Obligations.StepKeepsCastsInRange := by
  intro s t h e
  cases hp : s.pending with
  | nil =>
    rw [step_nil hp] at e
    exact .next e h
  | cons c rest =>
    rw [step_cons hp] at e
    exact (h.ofSame rfl rfl : CastsInRange { s with pending := rest }).exec e

end Sys2Proof.Machine
end

section
/-! PROOFS. Warm, watchdog and cold resets: what each leaves, and what starts it (R413, R443, R449, R450, R454). -/

set_option Elab.async false

namespace Sys2Proof.Machine

/-! ## Warm and watchdog resets (R449, R450, R454) -/

/-- The part as a reset leaves it before the cause is noted. -/
def Restarted (s r : State) (lt : LinkTime) : Prop :=
  r.regs.wf = true ∧ reg r Reg.genResetCause = reg s Reg.genResetCause ∧ r.power.st = .boot ∧ r.cast = CastState.boot ∧
  r.dram = [] ∧ r.bar4 = [] ∧ r.slots = Vector.replicate 8 SlotState.undeclared ∧ r.ports = Vector.replicate 8 PortState.init ∧
  r.linkTime = lt

theorem Restarted.setBit_other {s r : State} {lt : LinkTime} (h : Restarted s r lt) {a : Nat} (ha : Reg.genResetCause ≠ a) (i : Nat)
    (b : Bool) : Restarted s (setBit a i b r) lt := by
  obtain ⟨wr, hcause, hrest⟩ := h
  exact ⟨setFld_wf wr _ _ _ _, (reg_setFld_ne wr _ _ _ ha).trans hcause, hrest⟩

theorem Restarted.modPower {s r : State} {lt : LinkTime} (h : Restarted s r lt) (f : PowerState → PowerState)
    (hf : ∀ p, (f p).st = p.st := by exact fun _ => rfl) : Restarted s (modPower f r) lt := by
  obtain ⟨wr, hcause, hst, hrest⟩ := h
  exact ⟨wr, hcause, (hf r.power).trans hst, hrest⟩

/-- A restart whose cause is noted is a part-wide reset. -/
theorem Restarted.partReset {s r : State} {lt : LinkTime} (h : Restarted s r lt) {kind source rail : Nat} (hk : kind < 16)
    (hs : source < 16) (hr : rail < 16) : PartReset s (noteReset (setCause kind source rail r)) kind source rail lt := by
  obtain ⟨wr, hcause, hst, hcast, hdram, hbar4, hslots, hports, hlt⟩ := h
  obtain ⟨rkind, rsource, rrail, rcount⟩ := rfld_setCause wr hk hs hr
  obtain ⟨ncount, nabove⟩ := rfld_noteReset (setCause_wf wr kind source rail)
  have hn := noteReset_keeps (setCause kind source rail r)
  have same {k : Kind} (h : k ∉ [.regs, .out, .fr]) := hn.same h
  obtain ⟨ndram, -⟩ := same (k := .dram) (by decide)
  refine ⟨(congrArg PowerState.st (same (k := .power) (by decide))).trans hst, (nabove 31 28 (by omega) (by omega)).trans rkind,
    (nabove 27 24 (by omega) (by omega)).trans rsource, (nabove 19 16 (by omega) (by omega)).trans rrail, ?_,
    (same (k := .cast) (by decide)).trans hcast, ndram.trans hdram, (same (k := .bar4) (by decide)).trans hbar4,
    declared_of_undeclared ((same (k := .slots) (by decide)).trans hslots), (same (k := .ports) (by decide)).trans hports,
    (same (k := .linkTime) (by decide)).trans hlt⟩
  rw [ncount, rcount, rfld, hcause, rfld]

/-- The reset cause stands while every LEN_n falls. -/
theorem reg_lenDropAll_cause {s : State} (w : s.regs.wf = true) (cause : Nat) :
    reg (lenDropAll cause s) Reg.genResetCause = reg s Reg.genResetCause := by
  obtain ⟨-, -, low, -⟩ := (LightKept.refl s).lenDropAll cause w
  exact low _ (by decide)

/-- The part just before a warm or watchdog reset notes its cause. -/
def warmRestart (kind source : Nat) (s : State) : State :=
  let s1 := lenDropAll 7 s
  let p := if kind = kWarm ∧ source = 2 then fromStep2 s else fromStep8 s
  let s2 := restart (keptRegs warmAddrs warmFields s1) (heatWarm s1).heat p s1
  if kind = kWatchdog then modPower (fun p => { p with wdog := none }) (setBit Reg.genWdog 31 false s2) else s2

theorem warmReset_eq (kind source rail : Nat) (s : State) :
    warmReset kind source rail s = noteReset (setCause kind source rail (warmRestart kind source s)) := rfl

theorem restarted_warmRestart {s : State} (w : s.regs.wf = true) (kind source : Nat) :
    Restarted s (warmRestart kind source s) s.linkTime := by
  unfold warmRestart
  extract_lets s1 p s2
  have hlt : s1.linkTime = s.linkTime :=
    (keeps_lenDropAll (List.Subset.refl _) 7 (Keeps.refl _ s)).same (k := .linkTime) (by decide)
  have hst : p.st = .boot := by
    unfold p
    split <;> rfl
  have hcause : reg s2 Reg.genResetCause = reg s Reg.genResetCause :=
    (keptRegs_get (List.mem_append_right _ List.mem_cons_self) (by decide) s1).trans (reg_lenDropAll_cause w 7)
  have h2 : Restarted s s2 s.linkTime := ⟨keptRegs_wf _ _ _, hcause, hst, rfl, rfl, rfl, rfl, rfl, hlt⟩
  split
  · exact (h2.setBit_other (by decide) 31 false).modPower _
  · exact h2

theorem warmReset_partReset {s : State} (w : s.regs.wf = true) {kind source rail : Nat} (hk : kind < 16) (hs : source < 16)
    (hr : rail < 16) : PartReset s (warmReset kind source rail s) kind source rail s.linkTime := by
  rw [warmReset_eq]
  exact (restarted_warmRestart w kind source).partReset hk hs hr

theorem warmReset_wf {s : State} (w : s.regs.wf = true) (kind source rail : Nat) :
    (warmReset kind source rail s).regs.wf = true := by
  obtain ⟨wr, -⟩ := restarted_warmRestart w kind source
  exact (logEvent_regs (incCause_wf (setCause_wf wr kind source rail)) _ _ _ _).1

/-- A part-wide reset reads the same with another register written after it. -/
theorem PartReset.setFld_other {s t : State} {kind source rail : Nat} {lt : LinkTime} (h : PartReset s t kind source rail lt)
    (w : t.regs.wf = true) {a : Nat} (ha : Reg.genResetCause ≠ a) (hi lo x : Nat) :
    PartReset s (setFld a hi lo x t) kind source rail lt := by
  obtain ⟨hst, hkind, hsource, hrail, hcount, hrest⟩ := h
  have keep (i j : Nat) := rfld_setFld_ne w hi lo x i j ha
  exact ⟨hst, (keep 31 28).trans hkind, (keep 27 24).trans hsource, (keep 19 16).trans hrail, (keep 15 0).trans hcount, hrest⟩

/-! ## Cold resets (R443) -/

theorem coldReset_coldReset (s : State) {source : Nat} (hs : source < 16) : ColdReset (coldReset source s) source := by
  unfold coldReset
  extract_lets s1 p
  have wr : (restart (coldImage s.corePh.toNat) (HeatState.init .cold) p s1).regs.wf = true := coldImage_wf s.corePh
  obtain ⟨hkind, hsource, -, -⟩ := rfld_setCause (kind := kCold) wr (by decide) hs (Nat.zero_lt_succ 15)
  exact ⟨rfl, hkind, hsource, rfl, rfl, rfl, rfl, declared_of_undeclared rfl, rfl⟩

/-! ## What starts each (R413, R443, R449, R450) -/

theorem genReset_warm {s : State} {v : Word} (hk : fld v 31 24 = 0xA5) (hb : bit v 0 = true) :
    genReset v s = warmReset kWarm 1 0 s := by
  unfold genReset
  rw [if_neg (not_not.2 hk), if_pos hb]

theorem resetN_running {s : State} (h : s.power.st = .run ∨ s.power.st = .doze) : resetN s = warmReset kWarm 0 0 s := by
  unfold resetN
  rcases h with h | h <;> rw [h]

theorem railResetLevel_warm {s : State} {r : Nat} (hj : s.power.judged.getLsbD r = true) (h2 : r ≠ 2) (h7 : r ≠ 7) (mv : Nat) :
    railResetLevel r mv s = showRail r mv (warmReset kWarm 2 r s) := by
  unfold railResetLevel
  rw [if_neg (not_not.2 hj), if_neg h2, if_neg h7]

theorem railResetLevel_cold {s : State} {r : Nat} (hj : s.power.judged.getLsbD r = true) (h : r = 2 ∨ r = 7) (mv : Nat) :
    railResetLevel r mv s = coldReset (if r = 2 then 1 else 2) s := by
  unfold railResetLevel
  rw [if_neg (not_not.2 hj)]
  rcases h with rfl | rfl <;> rfl

/-- Settles O11: each trigger runs the reset of its cause; a rail of VDD_AON or VDD_IO, a cold one. -/
theorem partWideResets : Obligations.PartWideResets := by
  intro s hw
  obtain ⟨w, -⟩ := State.wf_iff.1 hw
  have warm {kind source rail : Nat} (hk : kind < 16) (hs : source < 16) (hr : rail < 16) :=
    warmReset_partReset (kind := kind) w hk hs hr
  refine ⟨fun v ho hk hb => ?_, fun h => ?_, fun h => ?_, fun hp h7 => ?_, fun hc hf => ?_, fun r mv hj h2 h7 => ?_,
    fun r mv hj h => ?_⟩
  · exact ⟨_, congrArg Host.Outcome.next ((hostWrite_open ho v _).trans (genReset_warm hk hb)),
      warm (by decide) (by decide) (by decide)⟩
  · exact ⟨_, congrArg Host.Outcome.next (resetN_running h), warm (by decide) (by decide) (by decide)⟩
  · exact ⟨_, congrArg Host.Outcome.next (if_pos h), warm (by decide) (by decide) (by decide)⟩
  · exact ⟨_, congrArg Host.Outcome.next (if_pos ⟨hp, h7⟩), warm (by decide) (by decide) (by decide)⟩
  · exact ⟨_, congrArg Host.Outcome.next (if_pos ⟨hc, hf⟩), warm (by decide) (by decide) (by decide)⟩
  · have hr := r.isLt
    refine ⟨_, congrArg Host.Outcome.next (railResetLevel_warm hj h2 h7 _), ?_⟩
    have ha : Reg.genResetCause ≠ Reg.genRail r.val := by
      unfold Reg.genResetCause Reg.genRail
      omega
    exact (warm (by decide) (by decide) (by omega)).setFld_other (warmReset_wf w _ _ _) ha _ _ _
  · refine ⟨_, congrArg Host.Outcome.next (railResetLevel_cold hj h _), coldReset_coldReset s ?_⟩
    split <;> decide

end Sys2Proof.Machine
end

section
/-! PROOFS. Power-up: its rails in order, training and the boot Cast, and a rail that does not come (R24, R438, R439, R461). -/

set_option Elab.async false

namespace Sys2Proof.Machine

/-! ## The rails of power-up (R438) -/

theorem awaited_boot {s : State} (hst : s.power.st = .boot) (hlow : s.power.resetLow = false) (hwait : s.power.retryWait = false) :
    awaited s = match s.power.seqStep with
      | 1 => [0]
      | 3 => [1]
      | 4 => [3, 4].filter fun r => !s.power.inBand.getLsbD r
      | 5 => [6]
      | 6 => [5]
      | _ => [] := by
  unfold awaited
  dsimp only
  rw [hst, hlow, hwait]
  rfl

/-- Outside step 4 the rail that is awaited completes the step. -/
theorem railInBand_awaited {s : State} {r : Nat} (ha : (awaited s).contains r = true) (h4 : s.power.seqStep ≠ 4) :
    railInBand r s = modPower (fun p => { p with
        inBand := p.inBand ||| railBit r, judged := p.judged ||| railBit r
        seqStep := if s.power.seqStep = 1 then 3 else s.power.seqStep + 1
        attempts := if (if s.power.seqStep = 1 then 3 else s.power.seqStep + 1) = 7 then 0 else p.attempts }) s := by
  unfold railInBand
  rw [if_neg (by rw [ha]; decide), if_pos (.inr h4)]
  rfl

/-- The two rails of step 4: bit r is set, and the other rail's bit is as it was. -/
theorem getLsbD_or_railBit (x : BitVec 8) {r : Nat} (h : r = 3 ∨ r = 4) :
    (x ||| railBit r).getLsbD r = true ∧ (x ||| railBit r).getLsbD (7 - r) = x.getLsbD (7 - r) := by
  rcases h with rfl | rfl <;> simp [railBit]

theorem isEmpty_step4 {x : BitVec 8} {r : Nat} (h : r = 3 ∨ r = 4) (hset : x.getLsbD r = true) :
    ([3, 4].filter fun r => !x.getLsbD r).isEmpty = x.getLsbD (7 - r) := by
  rcases h with rfl | rfl
  · simp only [List.filter, hset, Nat.reduceSub]
    cases x.getLsbD 4 <;> rfl
  · simp only [List.filter, hset, Nat.reduceSub]
    cases x.getLsbD 3 <;> rfl

/-- In step 4 a rail in band completes the step where the other rail is in band. -/
theorem railInBand_step4 {s : State} (hst : s.power.st = .boot) (hlow : s.power.resetLow = false)
    (hwait : s.power.retryWait = false) (h4 : s.power.seqStep = 4) {r : Nat} (hr : r = 3 ∨ r = 4)
    (hin : s.power.inBand.getLsbD r = false) :
    railInBand r s = { s with power := { s.power with
      inBand := s.power.inBand ||| railBit r, judged := s.power.judged ||| railBit r
      seqStep := if s.power.inBand.getLsbD (7 - r) then 5 else 4 } } := by
  have ha : (awaited s).contains r = true := by
    rw [awaited_boot hst hlow hwait, h4, List.contains_iff_mem]
    refine List.mem_filter.2 ⟨by rcases hr with rfl | rfl <;> decide, ?_⟩
    rw [hin]
    rfl
  unfold railInBand
  rw [if_neg (by rw [ha]; decide)]
  extract_lets s1 k
  obtain ⟨hset, hother⟩ := getLsbD_or_railBit s.power.inBand hr
  have hrest : (awaited s1).isEmpty = s.power.inBand.getLsbD (7 - r) := by
    rw [← hother, awaited_boot (s := s1) hst hlow hwait, show s1.power.seqStep = 4 from h4,
      show s1.power.inBand = s.power.inBand ||| railBit r from rfl]
    exact isEmpty_step4 hr hset
  have hk : k = 5 := by rw [show k = if s.power.seqStep = 1 then 3 else s.power.seqStep + 1 from rfl, h4]; rfl
  cases hb : s.power.inBand.getLsbD (7 - r) with
  | true =>
    rw [if_pos (.inl (hrest.trans hb)), hk]
    rfl
  | false =>
    rw [if_neg (by rw [hrest, hb, h4]; decide)]
    rw [← h4]
    rfl

/-! ## Training and the boot Cast (R24, R438) -/

theorem trainingDone_power (failed : List Nat) (s : State) : (trainingDone failed s).power = s.power :=
  (keeps_trainingDone (List.Subset.refl _) failed (Keeps.refl _ s)).same (k := .power) (by decide)

theorem trainingDone_mc (failed : List Nat) (s : State) : (trainingDone failed s).mc = DramState.init := by
  unfold trainingDone
  extract_lets named old bad s1
  clear_value bad
  split
  · rfl
  · extract_lets s2
    split
    · rfl
    · exact (keeps_dramDead (List.Subset.refl _) (Keeps.refl _ s2)).same (k := .mc) (by decide)

theorem serveQueued_none {s : State} (h : s.power.queued = none) : serveQueued s = s := by
  unfold serveQueued
  rw [h]

theorem stateCode_run {s : State} (h : s.power.st = .run) : stateCode s ≤ 1 := by
  unfold stateCode
  rw [h]
  dsimp only
  split <;> decide

/-! ## A rail that does not come (R439, R461) -/

/-- A failure of power-up up to the decision between retry and lockout. -/
def sequenceStopped (r : Nat) (s : State) : State :=
  modPower (fun p => { railsDown p with attempts := p.attempts + 1, retryWait := true })
    (modHeat (fun h => if h.start = .running then HeatState.init .warm else h)
      (logEvent .SEQUENCE_FAIL clsSupply r r (setCause kWarm 3 r s)))

theorem sequenceFail_awaited {s : State} {r : Nat} (ha : (awaited s).contains r = true) :
    sequenceFail r s = if (sequenceStopped r s).power.attempts < 3 then sequenceStopped r s
      else setParkWhy 3 (modPower (fun p => { p with st := .lockout, retryWait := false }) (sequenceStopped r s)) := by
  unfold sequenceFail
  rw [if_neg (by rw [ha]; decide)]
  rfl

theorem logEvent_power (c : Status) (cls id d : Nat) (s : State) : (logEvent c cls id d s).power = s.power :=
  (keeps_logEvent (List.Subset.refl _) c cls id d (Keeps.refl _ s)).same (k := .power) (by decide)

theorem sequenceStopped_power (r : Nat) (s : State) :
    (sequenceStopped r s).power = { railsDown s.power with attempts := s.power.attempts + 1, retryWait := true } := by
  have h : (logEvent .SEQUENCE_FAIL clsSupply r r (setCause kWarm 3 r s)).power = (setCause kWarm 3 r s).power :=
    logEvent_power .SEQUENCE_FAIL clsSupply r r _
  unfold sequenceStopped modPower modHeat
  dsimp only
  rw [h]
  rfl

theorem sequenceStopped_regs (r : Nat) (s : State) :
    (sequenceStopped r s).regs = (logEvent .SEQUENCE_FAIL clsSupply r r (setCause kWarm 3 r s)).regs := by
  unfold sequenceStopped modPower modHeat
  dsimp only

theorem sequenceStopped_wf {s : State} (w : s.regs.wf = true) (r : Nat) : (sequenceStopped r s).regs.wf = true := by
  rw [sequenceStopped_regs]
  exact (logEvent_regs (setCause_wf w kWarm 3 r) _ _ _ _).1

/-- The cause names the failure and its rail, and FAULT_n of SEQUENCE_FAIL is set. -/
theorem sequenceStopped_cause {s : State} (w : s.regs.wf = true) {r : Nat} (hr : r < 16) :
    rfld (sequenceStopped r s) Reg.genResetCause 31 28 = 1 ∧ rfld (sequenceStopped r s) Reg.genResetCause 27 24 = 3 ∧
    rfld (sequenceStopped r s) Reg.genResetCause 19 16 = r ∧ rbit (sequenceStopped r s) Reg.frFault 6 = true := by
  have wc := setCause_wf w kWarm 3 r
  obtain ⟨hkind, hsource, hrail, -⟩ := rfld_setCause (kind := kWarm) (source := 3) w (by decide) (by decide) hr
  have hc : reg (sequenceStopped r s) Reg.genResetCause = reg (setCause kWarm 3 r s) Reg.genResetCause := by
    rw [reg, sequenceStopped_regs]
    exact (logEvent_regs wc _ _ _ _).2 _ (by unfold logArea; decide)
  rw [rfld, rfld, rfld, hc, rbit, reg.eq_1 (sequenceStopped r s), sequenceStopped_regs]
  exact ⟨hkind, hsource, hrail, logEvent_fault wc rfl (by decide) _ _ _⟩

/-- What the boot that a rail of power-up fails comes to: a retry, or at the third failure the lockout. -/
theorem sequenceFail_outcome {s : State} (w : s.regs.wf = true) (hst : s.power.st = .boot) {r : Nat} (hr : r < 16)
    (ha : (awaited s).contains r = true) :
    rfld (sequenceFail r s) Reg.genResetCause 31 28 = 1 ∧ rfld (sequenceFail r s) Reg.genResetCause 27 24 = 3 ∧
    rfld (sequenceFail r s) Reg.genResetCause 19 16 = r ∧ rbit (sequenceFail r s) Reg.frFault 6 = true ∧
    (sequenceFail r s).power.inBand = s.power.inBand &&& aonRails ∧
    (sequenceFail r s).power.attempts = s.power.attempts + 1 ∧
    (s.power.attempts + 1 < 3 → (sequenceFail r s).power.st = .boot ∧ (sequenceFail r s).power.retryWait = true) ∧
    (3 ≤ s.power.attempts + 1 → (sequenceFail r s).power.st = .lockout ∧ rfld (sequenceFail r s) Reg.genResetCause 23 20 = 3) := by
  have hp := sequenceStopped_power r s
  have hw := sequenceStopped_wf w r
  obtain ⟨hkind, hsource, hrail, hfault⟩ := sequenceStopped_cause w hr
  have hat : (sequenceStopped r s).power.attempts = s.power.attempts + 1 := congrArg PowerState.attempts hp
  have hin : (sequenceStopped r s).power.inBand = s.power.inBand &&& aonRails := congrArg PowerState.inBand hp
  rw [sequenceFail_awaited ha, hat]
  generalize sequenceStopped r s = u at *
  by_cases h3 : s.power.attempts + 1 < 3
  · rw [if_pos h3]
    exact ⟨hkind, hsource, hrail, hfault, hin, hat,
      fun _ => ⟨(congrArg PowerState.st hp).trans hst, congrArg PowerState.retryWait hp⟩, fun h => absurd h3 (not_lt.2 h)⟩
  · rw [if_neg h3]
    have hout {hi lo : Nat} (h : 23 < lo ∨ hi < 20) (hl : lo ≤ hi) : rfld (setParkWhy 3 (modPower (fun p => { p with
        st := .lockout, retryWait := false }) u)) Reg.genResetCause hi lo = rfld u Reg.genResetCause hi lo :=
      rfld_setFld_out (s := modPower _ _) hw _ _ (by decide) (by decide) h.symm hl
    refine ⟨(hout (.inl (by decide)) (by decide)).trans hkind, (hout (.inl (by decide)) (by decide)).trans hsource,
      (hout (.inr (by decide)) (by decide)).trans hrail, ?_, hin, hat, fun h => absurd h h3, fun _ => ⟨rfl, ?_⟩⟩
    · rw [← hfault, rbit, rbit]
      exact congrArg (bit · 6) (reg_setFld_ne (s := modPower _ _) hw _ _ _ (by decide))
    · exact rfld_setFld_same (s := modPower _ _) hw _ _ (by decide) (by decide)

/-- A rail is awaited in BOOT alone. -/
theorem boot_of_awaited {s : State} {r : Nat} (ha : (awaited s).contains r = true) : s.power.st = .boot := by
  by_contra h
  rw [awaited, if_pos (.inl h)] at ha
  exact absurd ha (by simp)

/-- Settles O10: each step of power-up, and the failure of one, by the operation that takes it. -/
theorem powerUp : Obligations.PowerUp := by
  refine ⟨⟨⟨?_, ?_, ?_, ?_⟩, ?_, ?_⟩, ?_⟩
  · intro r k next s hm hst hlow hwait hk
    have ha : (awaited s).contains r.val = true := by
      rw [awaited_boot hst hlow hwait, hk]
      simp only [List.mem_cons, Prod.mk.injEq, List.not_mem_nil, or_false] at hm
      rcases hm with ⟨rfl, h, -⟩ | ⟨rfl, h, -⟩ | ⟨rfl, h, -⟩ | ⟨rfl, h, -⟩ <;> simp [h]
    have hn : k ≠ 4 ∧ (if k = 1 then 3 else k + 1) = next := by
      simp only [List.mem_cons, Prod.mk.injEq, List.not_mem_nil, or_false] at hm
      rcases hm with ⟨rfl, -, rfl⟩ | ⟨rfl, -, rfl⟩ | ⟨rfl, -, rfl⟩ | ⟨rfl, -, rfl⟩ <;> decide
    obtain ⟨h4, hnext⟩ := hn
    refine congrArg Host.Outcome.next ((railInBand_awaited ha (hk ▸ h4)).trans ?_)
    rw [hk, hnext]
    rfl
  · intro r s hr hst hlow hwait h4 hin
    exact congrArg Host.Outcome.next (railInBand_step4 hst hlow hwait h4 hr hin)
  · exact fun s hst => congrArg Host.Outcome.next (if_pos hst)
  · exact fun s => rfl
  · intro failed s hst h7
    refine ⟨_, congrArg Host.Outcome.next (if_pos ⟨hst, h7⟩), ?_, trainingDone_mc _ s⟩
    exact congrArg (fun p : PowerState => { p with seqStep := 8 }) (trainingDone_power _ s)
  · intro s hst h8 hq
    let u := modPower (fun p => { p with st := .run, seqStep := 9 }) { s with cast := CastState.boot }
    have hv := keeps_raiseVec (List.Subset.refl _) 0 (Keeps.refl _ u)
    have hpow : (raiseVec 0 u).power = { s.power with st := .run, seqStep := 9 } := hv.same (k := .power) (by decide)
    refine ⟨raiseVec 0 u, ?_, hpow, hv.same (k := .cast) (by decide), stateCode_run (congrArg PowerState.st hpow)⟩
    exact congrArg Host.Outcome.next ((if_pos ⟨hst, h8⟩).trans (serveQueued_none ((congrArg PowerState.queued hpow).trans hq)))
  · intro r s hw ha
    obtain ⟨w, -⟩ := State.wf_iff.1 hw
    exact ⟨_, rfl, sequenceFail_outcome w (boot_of_awaited ha) (by omega) ha⟩

end Sys2Proof.Machine
end

section
/-! PROOFS. LOAD and LOCK (R43, R45, R47, R58). -/

set_option Elab.async false

namespace Sys2Proof.Machine

/-! ## CST_CTRL (R43, R45, R58) -/

/-- A write of CST_CTRL that aborts nothing: SRC, then Cast lock, then the load. -/
theorem cstCtrl_noAbort {s : State} {v : Word} (hq : s.power.queued = none) (h8 : bit v 8 = false) (hsrc : fld v 2 1 < 2) :
    cstCtrl v s =
      let s1 := setFld Reg.cstCtrl 2 1 (fld v 2 1) s
      let s2 := if bit v 4 then castLock s1 else s1
      if bit v 0 then startLoad (fld v 2 1 == 1) s2 else s2 := by
  unfold cstCtrl
  rw [if_neg (not_le.2 hsrc), h8]
  extract_lets s1 s2 s3
  have hp : ∀ u : State, u.power = s.power → serveQueued u = u := fun u hu => serveQueued_none (hu ▸ hq)
  have h2 : s2.power = s.power := by
    unfold s2
    split <;> rfl
  refine hp _ ?_
  split
  · exact ((keeps_startLoad (List.Subset.refl _) _ (Keeps.refl _ s2)).same (k := .power) (by decide)).trans h2
  · exact h2

/-- What a LOAD looks at reads the same once SRC has been written. -/
theorem reads_setSrc {s : State} (w : s.regs.wf = true) (x : Nat) :
    castSt (setFld Reg.cstCtrl 2 1 x s) = castSt s ∧ manualMode (setFld Reg.cstCtrl 2 1 x s) = manualMode s ∧
    mailBusy (setFld Reg.cstCtrl 2 1 x s) 5 = mailBusy s 5 ∧
    (∀ hi lo, rfld (setFld Reg.cstCtrl 2 1 x s) Reg.cstSrc hi lo = rfld s Reg.cstSrc hi lo) ∧
    isDevice (setFld Reg.cstCtrl 2 1 x s) = isDevice s := by
  have stands {a : Nat} (ha : a ≠ Reg.cstCtrl) := reg_setFld_ne w 2 1 x ha
  refine ⟨?_, ?_, ?_, fun hi lo => ?_, funext fun b => ?_⟩
  · rw [castSt, rfld, stands (by decide), castSt, rfld]
  · rw [manualMode, rbit, stands (by decide), manualMode, rbit]
  · rw [mailBusy, rbit, stands (by decide), mailBusy, rbit]
    rfl
  · rw [rfld, stands (by decide), rfld]
  · rw [isDevice, tallyClass, tally, stands (by unfold Reg.wnTally Reg.cstCtrl; omega), isDevice, tallyClass, tally]

theorem castSt_setCastSt {s : State} (w : s.regs.wf = true) {x : Nat} (hx : x < 16) : castSt (setCastSt x s) = x :=
  (rfld_setFld_same w _ _ (by decide) (by decide)).trans (Nat.mod_eq_of_lt hx)

theorem startLoad_busy {s : State} (h : castSt s ≠ csIdle) (m : Bool) : startLoad m s = castResult .CAST_BUSY s := by
  unfold startLoad
  exact if_pos (.inl h)

theorem startLoad_mailbox {s : State} (hi : castSt s = csIdle) (hm : manualMode s = false) (hb : mailBusy s 5 = false) :
    startLoad true s = setCastSt csLoading (modCast (fun k => { k with load := some .mailbox, bytes := [] }) s) := by
  unfold startLoad
  rw [if_neg (by simp [hi, hm, hb]), if_pos rfl]

theorem startLoad_window {s : State} (hi : castSt s = csIdle) (hm : manualMode s = false) (hb : mailBusy s 5 = false) {b c : Nat}
    (eb : b = rfld s Reg.cstSrc 11 0) (ec : c = rfld s Reg.cstSrc 22 16) (h1 : 1 ≤ c) (h64 : c ≤ 64) (hend : b + c ≤ 4096)
    (hd : (blocksOf b c).all (isDevice s) = true) :
    startLoad false s = setCastSt csLoading (modCast (fun k => { k with load := some (.window b c), bytes := [] }) s) := by
  unfold startLoad
  rw [← eb, ← ec, if_neg (by simp [hi, hm, hb]), if_neg (by decide)]
  dsimp only
  rw [if_neg (by omega), if_pos hd]

/-- Settles O19: a load of either source starts in IDLE alone, and LOCK sets Cast lock and nothing else. -/
theorem loadAndLock : Obligations.LoadAndLock := by
  intro s v hw ho hq h8
  obtain ⟨w, -⟩ := State.wf_iff.1 hw
  have w1 : (setFld Reg.cstCtrl 2 1 (fld v 2 1) s).regs.wf = true := setFld_wf w _ _ _ _
  obtain ⟨hst, hman, hmb, hcst, hdev⟩ := reads_setSrc w (fld v 2 1)
  have runs (hsrc : fld v 2 1 < 2) : hostWrite Reg.cstCtrl v cstCtrl s = _ :=
    (hostWrite_open ho v _).trans (cstCtrl_noAbort hq h8 hsrc)
  refine ⟨fun h0 h4 hidle hm hb => ⟨fun h1 => ?_, fun h1 b c eb ec hc1 hc64 hend hd => ?_⟩, fun h0 h4 hsrc hbusy => ?_,
    fun h0 h4 hsrc => ?_⟩
  · refine ⟨_, congrArg Host.Outcome.next (runs (by omega)), ?_⟩
    dsimp only
    rw [h0, h4, if_pos rfl, if_neg (by decide), beq_iff_eq.2 h1,
      startLoad_mailbox (hst.trans hidle) (hman.trans hm) (hmb.trans hb)]
    exact ⟨castSt_setCastSt (by exact w1) (by decide), rfl⟩
  · refine ⟨_, congrArg Host.Outcome.next (runs (by omega)), ?_⟩
    dsimp only
    rw [h0, h4, if_pos rfl, if_neg (by decide), beq_false_of_ne (by omega : fld v 2 1 ≠ 1),
      startLoad_window (hst.trans hidle) (hman.trans hm) (hmb.trans hb) (eb.trans (hcst 11 0).symm) (ec.trans (hcst 22 16).symm)
        hc1 hc64 hend (hdev ▸ hd)]
    exact ⟨castSt_setCastSt (by exact w1) (by decide), rfl⟩
  · refine ⟨_, congrArg Host.Outcome.next (runs hsrc), ?_⟩
    dsimp only
    rw [h0, h4, if_pos rfl, if_neg (by decide), startLoad_busy (hst ▸ hbusy)]
    exact ⟨rfld_setFld_same w1 _ _ (by decide) (by decide),
      (rfld_setFld_out w1 _ _ (by decide) (by decide) (.inl (by decide)) (by decide)).trans hst, rfl⟩
  · refine ⟨_, congrArg Host.Outcome.next (runs hsrc), ?_⟩
    dsimp only
    rw [h0, h4, if_neg (by decide), if_pos rfl]
    exact ⟨rbit_setBit_same w1 _ _ (by decide), rfl,
      fun off hc hs => (reg_setFld_ne w1 _ _ _ hs).trans (reg_setFld_ne w _ _ _ hc)⟩

end Sys2Proof.Machine
end

section
/-! PROOFS. The run of a load: its chunks, the checks, its failure, and a first valid Cast (R25, R31, R32, R45 to R50, R501). -/

set_option Elab.async false

namespace Sys2Proof.Machine

/-! ## The end of a load (R45, R49) -/

/-- Words that the end of a load may write: block tallies, and the Cast loader's pending vector. -/
def endArea (a : Nat) : Prop := tallyArea a ∨ a = Reg.msixPba

theorem handBackDev_regs {s : State} (w : s.regs.wf = true) {bs : List Nat} (hb : ∀ b ∈ bs, b < 4096) :
    (handBackDev bs s).regs.wf = true ∧ ∀ a, ¬ tallyArea a → reg (handBackDev bs s) a = reg s a := by
  refine List.foldlRecOn (motive := fun t : State => t.regs.wf = true ∧ ∀ a, ¬ tallyArea a → reg t a = reg s a) bs _
    ⟨w, fun _ _ => rfl⟩ fun t ⟨wt, ht⟩ b hm => ?_
  unfold handBack
  split
  · refine ⟨setReg_wf wt _ _, fun a ha => (reg_setReg_ne wt _ fun e => ha ?_).trans (ht a ha)⟩
    have h4 := hb b hm
    unfold tallyArea Reg.wnTally
    unfold Reg.wnTally at e
    omega
  · exact ⟨wt, ht⟩

theorem lt_of_mem_blocksOf {b c x : Nat} (h : x ∈ blocksOf b c) : x < 4096 := of_decide_eq_true (List.mem_filter.1 h).2

theorem castEnd_regs {s : State} (w : s.regs.wf = true) :
    (castEnd s).regs.wf = true ∧ ∀ a, ¬ endArea a → reg (castEnd s) a = reg s a := by
  unfold castEnd
  extract_lets s1
  have h1 : s1.regs.wf = true ∧ ∀ a, ¬ tallyArea a → reg s1 a = reg s a := by
    unfold s1
    split
    · exact handBackDev_regs w fun _ => lt_of_mem_blocksOf
    · exact ⟨w, fun _ _ => rfl⟩
  obtain ⟨w1, hr⟩ := h1
  obtain ⟨wv, hv⟩ := raiseVec_regs (s := modCast (fun k => { k with load := none, bytes := [] }) s1) w1 vecCast
  exact ⟨wv, fun a ha => (hv a fun e => ha (.inr e)).trans (hr a fun e => ha (.inl e))⟩

theorem castEnd_cast (s : State) : (castEnd s).cast = { s.cast with load := none, bytes := [] } := by
  unfold castEnd
  extract_lets s1
  have h1 : s1.cast = s.cast := by
    unfold s1
    split
    · exact (keeps_handBackDev (List.Subset.refl _) _ (Keeps.refl _ s)).same (k := .cast) (by decide)
    · rfl
  rw [raiseVec_cast, modCast, h1]

/-! ## A load that fails (R31, R32, R49) -/

/-- What a failure shows before its load ends. -/
def failShown (e : CastErr) (s : State) : State :=
  setCastSt csIdle (castResult e.status (setRegs
    [(Reg.cstErr, BitVec.ofNat 32 e.off), (Reg.cstErrField, at_ 31 24 e.ty ||| at_ 23 16 e.index ||| at_ 15 0 e.field),
     (Reg.cstPendGen, BitVec.ofNat 32 (castGen s))] s))

theorem castFail_cast (e : CastErr) (s : State) : (castFail e s).cast = { s.cast with load := none, bytes := [] } :=
  castEnd_cast (failShown e s)

theorem failShown_regs {s : State} (w : s.regs.wf = true) (e : CastErr) :
    (failShown e s).regs.wf = true ∧ castSt (failShown e s) = csIdle ∧
    rfld (failShown e s) Reg.cstStatus 31 16 = e.status.code ∧ reg (failShown e s) Reg.cstErr = BitVec.ofNat 32 e.off ∧
    reg (failShown e s) Reg.cstErrField = (at_ 31 24 e.ty ||| at_ 23 16 e.index ||| at_ 15 0 e.field) ∧
    ∀ a, a ∉ [Reg.cstStatus, Reg.cstErr, Reg.cstErrField, Reg.cstPendGen] → reg (failShown e s) a = reg s a := by
  let s1 := setReg Reg.cstErr (BitVec.ofNat 32 e.off) s
  let s2 := setReg Reg.cstErrField (at_ 31 24 e.ty ||| at_ 23 16 e.index ||| at_ 15 0 e.field) s1
  let s3 := setReg Reg.cstPendGen (BitVec.ofNat 32 (castGen s)) s2
  have w1 : s1.regs.wf = true := setReg_wf w _ _
  have w2 : s2.regs.wf = true := setReg_wf w1 _ _
  have w3 : s3.regs.wf = true := setReg_wf w2 _ _
  have w4 : (castResult e.status s3).regs.wf = true := setFld_wf w3 _ _ _ _
  rw [show failShown e s = setCastSt csIdle (castResult e.status s3) from rfl]
  have other {a : Nat} (ha : a ≠ Reg.cstStatus) : reg (setCastSt csIdle (castResult e.status s3)) a = reg s3 a :=
    (reg_setFld_ne w4 _ _ _ ha).trans (reg_setFld_ne w3 _ _ _ ha)
  refine ⟨setFld_wf w4 _ _ _ _, castSt_setCastSt w4 (by decide), ?_, ?_, ?_, fun a ha => ?_⟩
  · exact (rfld_setFld_out w4 _ _ (by decide) (by decide) (.inr (by decide)) (by decide)).trans
      ((rfld_setFld_same w3 _ _ (by decide) (by decide)).trans (Nat.mod_eq_of_lt (Status.code_lt e.status)))
  · rw [other (by decide), reg_setReg_ne w2 _ (by decide), reg_setReg_ne w1 _ (by decide), reg_setReg_same w]
  · rw [other (by decide), reg_setReg_ne w2 _ (by decide), reg_setReg_same w1]
  · simp only [List.mem_cons, List.not_mem_nil, or_false, not_or] at ha
    obtain ⟨hs, herr, hfield, hpend⟩ := ha
    rw [other hs, reg_setReg_ne w2 _ hpend, reg_setReg_ne w1 _ hfield, reg_setReg_ne w _ herr]

theorem castFail_regs {s : State} (w : s.regs.wf = true) (e : CastErr) :
    (castFail e s).regs.wf = true ∧
    ∀ a, ¬ endArea a → a ∉ [Reg.cstStatus, Reg.cstErr, Reg.cstErrField, Reg.cstPendGen] → reg (castFail e s) a = reg s a := by
  obtain ⟨wf, -, -, -, -, hf⟩ := failShown_regs w e
  obtain ⟨we, he⟩ := castEnd_regs wf
  exact ⟨we, fun a ha hn => (he a ha).trans (hf a hn)⟩

theorem castFail_keeps (e : CastErr) (s : State) : Keeps [.regs, .out, .cast] s (castFail e s) :=
  keeps_castFail (List.Subset.refl _) e (Keeps.refl _ s)

/-- A state with other bytes of the load, but else the Casts, slots and ports of s, fails as s does. -/
theorem castFail_failed {s u : State} (w : u.regs.wf = true)
    (hc : { u.cast with load := none, bytes := [] } = { s.cast with load := none, bytes := [] }) (hs : u.slots = s.slots)
    (hp : u.ports = s.ports) (e : CastErr) : CastFailed s (castFail e u) e := by
  obtain ⟨wf, hst, hcode, herr, hfield, -⟩ := failShown_regs w e
  obtain ⟨-, he⟩ := castEnd_regs wf
  have hstat : reg (castFail e u) Reg.cstStatus = reg (failShown e u) Reg.cstStatus := he _ (by unfold endArea tallyArea; decide)
  refine ⟨?_, ?_, (he _ (by unfold endArea tallyArea; decide)).trans herr,
    (he _ (by unfold endArea tallyArea; decide)).trans hfield, (castFail_cast e u).trans hc,
    ((castFail_keeps e u).same (k := .slots) (by decide)).trans hs,
    ((castFail_keeps e u).same (k := .ports) (by decide)).trans hp⟩
  · rw [castSt, rfld, hstat]
    exact hst
  · rw [rfld, hstat]
    exact hcode

/-- The failure stands where its registers, the loader, slots and ports do. -/
theorem CastFailed.of_kept {s t u : State} {e : CastErr} (h : CastFailed s t e)
    (hr : ∀ a ∈ [Reg.cstStatus, Reg.cstErr, Reg.cstErrField], reg u a = reg t a) (hc : u.cast = t.cast) (hs : u.slots = t.slots)
    (hp : u.ports = t.ports) : CastFailed s u e := by
  obtain ⟨hst, hcode, herr, hfield, hcast, hslots, hports⟩ := h
  have hstat := hr Reg.cstStatus (by decide)
  refine ⟨?_, ?_, (hr _ (by decide)).trans herr, (hr _ (by decide)).trans hfield, hc.trans hcast, hs.trans hslots, hp.trans hports⟩
  · rw [castSt, rfld, hstat]
    exact hst
  · rw [rfld, hstat]
    exact hcode

/-! ## What the mailbox answers (R46, R370) -/

theorem mailAnswer_regs {s : State} (w : s.regs.wf = true) {c : Nat} (hc : c < 65536) (ret : Nat) (payload : List Byte) :
    (mailAnswer c ret payload s).regs.wf = true ∧ rfld (mailAnswer c ret payload s) Reg.mbStatus 31 16 = c ∧
    ∀ a, a ≠ Reg.mbStatus → a ≠ Reg.msixPba → reg (mailAnswer c ret payload s) a = reg s a := by
  unfold mailAnswer
  extract_lets m words s1 s2
  have w1 : s1.regs.wf = true := w
  have wa : (setFld Reg.mbStatus 31 16 c s1).regs.wf = true := setFld_wf w1 _ _ _ _
  have wb : (setBit Reg.mbStatus 0 false (setFld Reg.mbStatus 31 16 c s1)).regs.wf = true := setFld_wf wa _ _ _ _
  have w2 : s2.regs.wf = true := setFld_wf wb _ _ _ _
  obtain ⟨wv, hv⟩ := raiseVec_regs w2 23
  refine ⟨wv, ?_, fun a ha hp => ?_⟩
  · rw [rfld, hv _ (by decide), ← rfld]
    exact (rfld_setFld_out wb _ _ (by decide) (by decide) (.inr (by decide)) (by decide)).trans
      ((rfld_setFld_out wa _ _ (by decide) (by decide) (.inr (by decide)) (by decide)).trans
        ((rfld_setFld_same w1 _ _ (by decide) (by decide)).trans (Nat.mod_eq_of_lt hc)))
  · exact (hv a hp).trans ((reg_setFld_ne wb _ _ _ ha).trans ((reg_setFld_ne wa _ _ _ ha).trans (reg_setFld_ne w1 _ _ _ ha)))

theorem mailRespond_keeps (c : Status) (ret : Nat) (payload : List Byte) (s : State) :
    Keeps [.regs, .bar4, .out] s (mailRespond c ret payload s) :=
  keeps_mailRespond (List.Subset.refl _) c ret payload (Keeps.refl _ s)

theorem castSt_mailRespond {s : State} (w : s.regs.wf = true) (c : Status) (ret : Nat) (payload : List Byte) :
    castSt (mailRespond c ret payload s) = castSt s := by
  obtain ⟨-, -, hr⟩ := mailAnswer_regs w (Status.code_lt c) ret payload
  rw [castSt, rfld, mailRespond, hr _ (by decide) (by decide), castSt, rfld]

/-! ## Chunks (R46, R372) -/

theorem awaitsChunk_iff {s : State} : awaitsChunk s = true ↔ castSt s = csLoading ∧ s.cast.load = some .mailbox := by
  unfold awaitsChunk
  rw [Bool.and_eq_true, beq_iff_eq]
  refine and_congr_right fun _ => ?_
  split
  · next h => exact ⟨fun _ => h, fun _ => rfl⟩
  · next h => exact ⟨nofun, fun e => absurd e h⟩

/-- The chunk in the mailbox joins the load and is answered. -/
def chunkTaken (s : State) : State :=
  mailRespond .OK 0 [] (modCast (fun k => { k with bytes := k.bytes ++ s.mail.payload }) s)

theorem chunkTaken_cast (s : State) : (chunkTaken s).cast = { s.cast with bytes := s.cast.bytes ++ s.mail.payload } :=
  (mailRespond_keeps .OK 0 [] (modCast (fun k => { k with bytes := k.bytes ++ s.mail.payload }) s)).same (k := .cast) (by decide)

theorem chunkTaken_slots (s : State) : (chunkTaken s).slots = s.slots :=
  (mailRespond_keeps .OK 0 [] (modCast (fun k => { k with bytes := k.bytes ++ s.mail.payload }) s)).same (k := .slots) (by decide)

theorem chunkTaken_ports (s : State) : (chunkTaken s).ports = s.ports :=
  (mailRespond_keeps .OK 0 [] (modCast (fun k => { k with bytes := k.bytes ++ s.mail.payload }) s)).same (k := .ports) (by decide)

theorem chunkTaken_regs {s : State} (w : s.regs.wf = true) :
    (chunkTaken s).regs.wf = true ∧ rfld (chunkTaken s) Reg.mbStatus 31 16 = Status.OK.code ∧ castSt (chunkTaken s) = castSt s := by
  let u := modCast (fun k => { k with bytes := k.bytes ++ s.mail.payload }) s
  have wu : u.regs.wf = true := w
  obtain ⟨wt, hcode, -⟩ := mailAnswer_regs wu (Status.code_lt .OK) 0 []
  exact ⟨wt, hcode, castSt_mailRespond wu .OK 0 []⟩

section
variable {s : State} (hb : mailBusy s 2 = true) (hl : s.heat.limited = false)
include hb hl

theorem castChunk_taken (ha : awaitsChunk s = true) (hk : chunkOk s.cast.bytes.length s.mail.arg0 s.mail.payload.length = true) :
    castChunk s = if s.mail.arg1.testBit 0 then mailboxRead (chunkTaken s) else chunkTaken s := by
  obtain ⟨hst, hload⟩ := awaitsChunk_iff.1 ha
  unfold castChunk
  rw [if_neg (by simp [hb, hl]), hload, hst]
  exact if_pos hk

theorem castChunk_broken (ha : awaitsChunk s = true) (hk : chunkOk s.cast.bytes.length s.mail.arg0 s.mail.payload.length = false) :
    castChunk s = mailFree (castFail (bareErr .CAST_FORMAT) s) := by
  obtain ⟨hst, hload⟩ := awaitsChunk_iff.1 ha
  unfold castChunk
  rw [if_neg (by simp [hb, hl]), hload, hst]
  exact if_neg (by rw [hk]; decide)

theorem castChunk_refused (ha : awaitsChunk s = false) : castChunk s = mailRespond .MB_STATE 0 [] s := by
  unfold castChunk
  rw [if_neg (by simp [hb, hl])]
  split
  · next hst hload => exact absurd (awaitsChunk_iff.2 ⟨beq_iff_eq.1 hst, hload⟩) (by rw [ha]; decide)
  · rfl

end

theorem mailboxRead_failed {s : State} {e : CastErr}
    (h : checkHeader (s.cast.bytes.take 64) (fun t => t == s.cast.bytes.length) = some e) :
    mailboxRead s = castFail e s := by
  unfold mailboxRead
  rw [h]

theorem mailboxRead_read {s : State} (h : checkHeader (s.cast.bytes.take 64) (fun t => t == s.cast.bytes.length) = none) :
    mailboxRead s = setCastSt csValidating s := by
  unfold mailboxRead
  rw [h]

/-! ## A window load that has been read (R501) -/

section
variable {s : State} {b c : Nat} (hst : castSt s = csLoading) (hl : s.heat.limited = false)
  (hload : s.cast.load = some (.window b c))
include hst hl hload

theorem castRead_failed {e : CastErr}
    (h : checkHeader (devRead s (blockAddr b) 64) (fun t => decide ((c - 1) * 65536 < t ∧ t ≤ c * 65536)) = some e) :
    castRead s = castFail e s := by
  unfold castRead
  rw [if_neg (by simp [hst, hl]), hload]
  dsimp only
  rw [h]

theorem castRead_read
    (h : checkHeader (devRead s (blockAddr b) 64) (fun t => decide ((c - 1) * 65536 < t ∧ t ≤ c * 65536)) = none) :
    castRead s = setCastSt csValidating
      (modCast (fun k => { k with bytes := devRead s (blockAddr b) (leAt (devRead s (blockAddr b) 64) 12 4) }) s) := by
  unfold castRead
  rw [if_neg (by simp [hst, hl]), hload]
  dsimp only
  rw [h]

end

/-! ## Validation (R25, R49, R50) -/

/-- What validation looks at beside the bytes of the load. -/
def loadEnv (s : State) : CastEnv :=
  { step := 1, capMiB := capacityMiB s, running := s.cast.running, recast := decide (castGen s ≠ 0)
    locked := castLocked s, flds := s.cast.lockFlds }

section
variable {s : State} (hst : castSt s = csValidating) (hl : s.heat.limited = false)
include hst hl

theorem castValidated_failed {e : CastErr} (h : validate (loadEnv s) s.cast.bytes = .inl e) : castValidated s = castFail e s := by
  unfold castValidated
  rw [if_neg (by simp [hst, hl])]
  unfold loadEnv at h
  dsimp only
  rw [h]

theorem castValidated_first {c : CastDesc} (h : validate (loadEnv s) s.cast.bytes = .inr c) (hg : castGen s = 0) :
    castValidated s = firstLoad c (setReg Reg.cstPendGen (BitVec.ofNat 32 c.gen) s) := by
  unfold castValidated
  rw [if_neg (by simp [hst, hl])]
  unfold loadEnv at h
  dsimp only
  rw [h]
  exact if_pos hg

end

/-- What the Cast loader's validation, switch and abort may touch. -/
def loadKinds : List Kind :=
  [.regs, .pitchAct, .dram, .out, .freeCount, .cast, .slots, .ports, .fr, .codec, .chans, .page, .heat, .sb, .loops]

theorem validated_power (s : State) : (withDim castValidated s).power = s.power :=
  (keeps_withDim (F := loadKinds) (by decide) castValidated (fun _ h => keeps_castValidated (List.Subset.refl _) h)
    (Keeps.refl _ s)).same (k := .power) (by decide)

theorem execValidationComplete_eq {s : State} (hq : s.power.queued = none) :
    Machine.exec .validationComplete s = .next (withDim castValidated s) :=
  congrArg Host.Outcome.next (serveQueued_none ((congrArg PowerState.queued (validated_power s)).trans hq))

theorem CastFailed.withDim {s t : State} {e : CastErr} {f : State → State} (h : CastFailed s (f t) e) (w : (f t).regs.wf = true) :
    CastFailed s (Machine.withDim f t) e := by
  rcases withDim_cases f t with hd | hd
  · rwa [hd]
  · rw [hd]
    obtain ⟨-, hv⟩ := raiseVec_regs w 0
    refine h.of_kept (fun a ha => hv a ?_) (raiseVec_cast 0 _) (raiseVec_slots 0 _) (raiseVec_ports 0 _)
    revert a
    decide

/-! ## The first Cast (R25) -/

theorem setDomains_cast (m : BitVec 20) (s : State) : (setDomains m s).cast = { s.cast with pdOff := m } := by
  unfold setDomains
  extract_lets goes
  have h : (forAll goes domainOff s).cast = s.cast :=
    (keeps_forAll goes domainOff (fun d _ => keeps_domainOff (List.Subset.refl _) d) (Keeps.refl _ s)).same (k := .cast) (by decide)
  exact congrArg (fun k : CastState => { k with pdOff := m }) h

/-- Locks join those in force; what else the loader holds stands. -/
theorem adoptLocks_cast (l : LockRec) (s : State) :
    (adoptLocks l s).cast = { s.cast with
      lockRegs := s.cast.lockRegs ++ l.regs
      lockFlds := s.cast.lockFlds ++ l.flds.filter fun f => !s.cast.lockFlds.contains f } := by
  unfold adoptLocks
  dsimp only
  split <;> rfl

/-- The Cast c is in force and nothing of a load or a switch is left. -/
def InForce (c : CastDesc) (t : State) : Prop :=
  t.cast.running = c ∧ t.cast.pool = c.pool ∧ t.cast.pdOff = c.pdOff ∧ t.cast.load = none ∧ t.cast.switch = none ∧
  t.cast.staged = none

theorem InForce.of_cast {c : CastDesc} {t u : State} (h : InForce c t) (e : u.cast = t.cast) : InForce c u := by
  unfold InForce
  rw [e]
  exact h

theorem inForce_adoptCast (c : CastDesc) (s : State) : InForce c (adoptCast c s) := by
  unfold adoptCast
  extract_lets s1 s2 s3 s4
  have h1 : (setDomains c.pdOff s1).cast = { s1.cast with pdOff := c.pdOff } := setDomains_cast c.pdOff s1
  have h2 : s2.cast = _ := adoptLocks_cast c.lock (setDomains c.pdOff s1)
  have h3 : s3.cast = s2.cast :=
    (keeps_forAll _ _ (fun n _ => keeps_showSlotGen (List.Subset.refl _) n c.gen) (Keeps.refl _ s2)).same (k := .cast) (by decide)
  rw [h1] at h2
  have h4 : s4.cast = s3.cast := rfl
  unfold InForce
  rw [castEnd_cast, setCastSt, setFld_cast, setBit_cast, castResult, setFld_cast, h4, h3, h2]
  exact ⟨rfl, rfl, rfl, rfl, rfl, rfl⟩

theorem inForce_firstLoad (c : CastDesc) (s : State) : InForce c (firstLoad c s) := by
  unfold firstLoad
  extract_lets s1 s2
  exact (inForce_adoptCast c s2).of_cast
    ((keeps_forAll _ _ (fun p _ => keeps_retryPort (List.Subset.refl _) p) (Keeps.refl _ (adoptCast c s2))).same (k := .cast)
      (by decide))

/-! ## CAST_LOAD, clause by clause -/

theorem mailFree_regs {s : State} (w : s.regs.wf = true) :
    (mailFree s).regs.wf = true ∧ ∀ a, a ≠ Reg.mbStatus → a ≠ Reg.msixPba → reg (mailFree s) a = reg s a := by
  obtain ⟨wf, -, hr⟩ := mailAnswer_regs (s := (takeFree s).2) w (c := (takeFree s).1.toNat % 65536) (Nat.mod_lt _ (by decide)) 0 []
  exact ⟨wf, hr⟩

theorem mailFree_keeps (s : State) : Keeps [.regs, .bar4, .out, .freeCount] s (mailFree s) :=
  keeps_mailFree (List.Subset.refl _) (Keeps.refl _ s)

/-- A chunk out of order fails the load, and the mailbox is answered. -/
theorem castFailed_broken {s : State} (w : s.regs.wf = true) (e : CastErr) : CastFailed s (mailFree (castFail e s)) e := by
  obtain ⟨wf, -⟩ := castFail_regs w e
  obtain ⟨-, hr⟩ := mailFree_regs wf
  have hk := mailFree_keeps (castFail e s)
  refine (castFail_failed w rfl rfl rfl e).of_kept (fun a ha => hr a ?_ ?_) (hk.same (k := .cast) (by decide))
    (hk.same (k := .slots) (by decide)) (hk.same (k := .ports) (by decide)) <;>
  · revert a
    decide

/-- After a load has failed the mailbox shows what it showed. -/
theorem mbCode_castFail {s : State} (w : s.regs.wf = true) (e : CastErr) :
    rfld (castFail e s) Reg.mbStatus 31 16 = rfld s Reg.mbStatus 31 16 := by
  obtain ⟨-, hr⟩ := castFail_regs w e
  rw [rfld, hr _ (by unfold endArea tallyArea; decide) (by decide), rfld]

/-- The last chunk fails check 1: the load ends with the chunk answered. -/
theorem castFailed_chunk {s : State} (w : s.regs.wf = true) (e : CastErr) :
    CastFailed s (castFail e (chunkTaken s)) e ∧ rfld (castFail e (chunkTaken s)) Reg.mbStatus 31 16 = Status.OK.code := by
  obtain ⟨wt, hcode, -⟩ := chunkTaken_regs w
  exact ⟨castFail_failed wt (by rw [chunkTaken_cast]) (chunkTaken_slots s) (chunkTaken_ports s) e,
    (mbCode_castFail wt e).trans hcode⟩

/-- The last chunk passes check 1: the loader goes on to the other checks. -/
theorem validating_chunk {s : State} (w : s.regs.wf = true) :
    rfld (setCastSt csValidating (chunkTaken s)) Reg.mbStatus 31 16 = Status.OK.code ∧
    castSt (setCastSt csValidating (chunkTaken s)) = csValidating := by
  obtain ⟨wt, hcode, -⟩ := chunkTaken_regs w
  exact ⟨(rfld_setFld_ne wt _ _ _ _ _ (by decide)).trans hcode, castSt_setCastSt wt (by decide)⟩

/-- The mailbox of a chunk that is aborted, before its load fails (R370). -/
theorem mailAbort_regs {s : State} (w : s.regs.wf = true) (ho : lockOverdue s = true) (core : Nat) :
    (mailAbort core s).regs.wf = true ∧ rfld (mailAbort core s) Reg.mbStatus 31 16 = Status.MB_ABORTED.code := by
  unfold mailAbort
  rw [if_pos ho]
  have wi : (incSat Reg.mbStatus 15 8 s).regs.wf = true := setFld_wf w _ _ _ _
  obtain ⟨wl, -⟩ := logEvent_regs wi .MAILBOX_ABORT clsPart core 0
  obtain ⟨wm, hcode, -⟩ := mailAnswer_regs wl (Status.code_lt .MB_ABORTED) 0 []
  exact ⟨wm, hcode⟩

theorem castFailed_abort {s : State} (w : s.regs.wf = true) (ho : lockOverdue s = true) (core : Nat) (e : CastErr) :
    CastFailed s (castFail e (mailAbort core s)) e ∧
    rfld (castFail e (mailAbort core s)) Reg.mbStatus 31 16 = Status.MB_ABORTED.code := by
  obtain ⟨wm, hcode⟩ := mailAbort_regs w ho core
  have hk := keeps_mailAbort (List.Subset.refl _) core (Keeps.refl _ s)
  have hcast : (mailAbort core s).cast = s.cast := hk.same (k := .cast) (by decide)
  exact ⟨castFail_failed wm (by rw [hcast]) (hk.same (k := .slots) (by decide)) (hk.same (k := .ports) (by decide)) e,
    (mbCode_castFail wm e).trans hcode⟩

/-- Settles O20: a chunk taken, broken or refused, the loads that end, and a first Cast in force. -/
theorem loadRuns : Obligations.LoadRuns := by
  refine ⟨fun s hw => ?_, fun s c hst hl hq hg hv => ?_⟩
  · obtain ⟨w, -⟩ := State.wf_iff.1 hw
    refine ⟨fun bs hb hl ha hbs => ⟨fun hk => ?_, fun hk => ?_⟩, fun hb hl ha => ?_, fun ha => ?_, fun b c hst hl hload => ?_,
      fun e hst hl hq hv => ?_, fun core hb ho ha => ?_⟩
    · have hx := castChunk_taken hb hl ha hk
      obtain ⟨hst, -⟩ := awaitsChunk_iff.1 ha
      obtain ⟨wt, hcode, htst⟩ := chunkTaken_regs w
      have hcast : (chunkTaken s).cast = { s.cast with bytes := bs } := hbs ▸ chunkTaken_cast s
      have hbytes : (chunkTaken s).cast.bytes = bs := congrArg CastState.bytes hcast
      refine ⟨fun hlast => ?_, fun hlast hc => ?_, fun e hlast hc => ?_⟩
      · refine ⟨chunkTaken s, congrArg Host.Outcome.next (hx.trans (if_neg ?_)), hcast, hcode, htst.trans hst, chunkTaken_slots s⟩
        rw [hlast]
        decide
      · have hr : mailboxRead (chunkTaken s) = _ := mailboxRead_read (by rw [hbytes]; exact hc)
        obtain ⟨hm, hval⟩ := validating_chunk w
        exact ⟨_, congrArg Host.Outcome.next (hx.trans ((if_pos hlast).trans hr)), hcast, hm, hval, chunkTaken_slots s⟩
      · have hr : mailboxRead (chunkTaken s) = _ := mailboxRead_failed (by rw [hbytes]; exact hc)
        exact ⟨_, congrArg Host.Outcome.next (hx.trans ((if_pos hlast).trans hr)), castFailed_chunk w e⟩
    · exact ⟨_, congrArg Host.Outcome.next (castChunk_broken hb hl ha hk), castFailed_broken w _⟩
    · have hk := mailRespond_keeps .MB_STATE 0 [] s
      obtain ⟨-, hcode, -⟩ := mailAnswer_regs w (Status.code_lt .MB_STATE) 0 []
      exact ⟨_, congrArg Host.Outcome.next (castChunk_refused hb hl ha), hk.same (k := .cast) (by decide), hcode,
        castSt_mailRespond w _ _ _, hk.same (k := .slots) (by decide)⟩
    · exact ⟨_, congrArg Host.Outcome.next (if_pos ha), castFail_failed w rfl rfl rfl _⟩
    · refine ⟨fun e hc => ?_, fun hc => ?_⟩
      · exact ⟨_, congrArg Host.Outcome.next (castRead_failed hst hl hload hc), castFail_failed w rfl rfl rfl e⟩
      · exact ⟨_, congrArg Host.Outcome.next (castRead_read hst hl hload hc), castSt_setCastSt (by exact w) (by decide), rfl,
          fun off ho => reg_setFld_ne (by exact w) _ _ _ ho⟩
    · have hf := castValidated_failed hst hl hv
      refine ⟨_, execValidationComplete_eq hq, CastFailed.withDim (hf ▸ castFail_failed w rfl rfl rfl e) ?_⟩
      rw [hf]
      exact (castFail_regs w e).1
    · exact ⟨_, congrArg Host.Outcome.next (if_pos ⟨hb, ho, ha⟩), castFailed_abort w ho core.val _⟩
  · have hv' : validate (loadEnv s) s.cast.bytes = .inr c := by
      rw [loadEnv, hg]
      exact hv
    have hf := inForce_firstLoad c (setReg Reg.cstPendGen (BitVec.ofNat 32 c.gen) s)
    rw [← castValidated_first hst hl hv' hg] at hf
    refine ⟨_, execValidationComplete_eq hq, ?_⟩
    rcases withDim_cases castValidated s with hd | hd <;> rw [hd]
    · exact hf
    · exact hf.of_cast (raiseVec_cast 0 _)

end Sys2Proof.Machine
end

section
/-! PROOFS. A recast that is aborted or times out (R56 to R58). -/

set_option Elab.async false

namespace Sys2Proof.Machine

/-! ## The end of an abort (R56, R57) -/

/-- What an abort leaves: the running Cast and its stores in force, the loader idle with the reason, the abort logged. -/
def Aborted (s t : State) : Prop :=
  castSt t = csIdle ∧ rfld t Reg.cstStatus 31 16 = Status.RECAST_ABORT.code ∧ t.cast.running = s.cast.running ∧
  t.cast.switch = none ∧ t.cast.staged = none ∧ t.cast.pool = s.cast.running.pool ∧
  newestLog t = logWord .RECAST_ABORT clsPart 0

theorem newestLog_raiseVec {s : State} (w : s.regs.wf = true) : newestLog (raiseVec 0 s) = newestLog s := by
  obtain ⟨-, hv⟩ := raiseVec_regs w 0
  refine newestLog_of_kept fun a ha => hv a ?_
  simp only [Reg.frLogStat, Reg.frLog] at ha
  unfold Reg.msixPba
  omega

theorem Aborted.raiseVec {s t : State} (h : Aborted s t) (w : t.regs.wf = true) : Aborted s (raiseVec 0 t) := by
  obtain ⟨hst, hcode, hcast⟩ := h
  obtain ⟨-, hv⟩ := raiseVec_regs w 0
  have hstat : reg (Machine.raiseVec 0 t) Reg.cstStatus = reg t Reg.cstStatus := hv _ (by decide)
  unfold Aborted
  rw [castSt, rfld, rfld, hstat, raiseVec_cast, newestLog_raiseVec w]
  exact ⟨hst, hcode, hcast⟩

/-- Where the domains to switch off are those that are off, none goes. -/
theorem setDomains_self {m : BitVec 20} {s : State} (h : m = s.cast.pdOff) : setDomains m s = s := by
  subst h
  unfold setDomains
  rw [show ((List.range 20).filter fun d => s.cast.pdOff.getLsbD d && !s.cast.pdOff.getLsbD d) = [] by simp]
  rfl

/-- The abort of a recast of which no slot has taken anything, before the rollback. -/
def aborting (lowest : Nat) (s : State) : State :=
  castEnd (setReg Reg.cstPendGen (BitVec.ofNat 32 (castGen s)) (logEvent .RECAST_ABORT clsPart 0 lowest
    (castResult .RECAST_ABORT (setCastSt csRollback s))))

theorem aborting_cast (lowest : Nat) (s : State) : (aborting lowest s).cast = { s.cast with load := none, bytes := [] } := by
  unfold aborting
  rw [castEnd_cast, setReg_cast]
  have h := (keeps_logEvent (List.Subset.refl _) .RECAST_ABORT clsPart 0 lowest
    (Keeps.refl _ (castResult .RECAST_ABORT (setCastSt csRollback s)))).same (k := .cast) (by decide)
  rw [h]
  rfl

theorem aborting_regs {s : State} (w : s.regs.wf = true) (lowest : Nat) :
    (aborting lowest s).regs.wf = true ∧ castSt (aborting lowest s) = csRollback ∧
    rfld (aborting lowest s) Reg.cstStatus 31 16 = Status.RECAST_ABORT.code ∧
    newestLog (aborting lowest s) = logWord .RECAST_ABORT clsPart 0 := by
  unfold aborting
  have w1 : (setCastSt csRollback s).regs.wf = true := setFld_wf w _ _ _ _
  have w2 : (castResult .RECAST_ABORT (setCastSt csRollback s)).regs.wf = true := setFld_wf w1 _ _ _ _
  have hst : castSt (castResult .RECAST_ABORT (setCastSt csRollback s)) = csRollback :=
    (rfld_setFld_out w1 _ _ (by decide) (by decide) (.inl (by decide)) (by decide)).trans (castSt_setCastSt w (by decide))
  have hcode : rfld (castResult .RECAST_ABORT (setCastSt csRollback s)) Reg.cstStatus 31 16 = Status.RECAST_ABORT.code :=
    rfld_setFld_same w1 _ _ (by decide) (by decide)
  generalize castResult .RECAST_ABORT (setCastSt csRollback s) = u at *
  obtain ⟨w3, hl⟩ := logEvent_regs w2 .RECAST_ABORT clsPart 0 lowest
  have hnew := logEvent_newest w2 .RECAST_ABORT clsPart 0 lowest
  generalize logEvent .RECAST_ABORT clsPart 0 lowest u = v at *
  obtain ⟨we, he⟩ := castEnd_regs (setReg_wf w3 Reg.cstPendGen (BitVec.ofNat 32 (castGen s)))
  have stands {a : Nat} (ha : ¬ endArea a) (hp : a ≠ Reg.cstPendGen) :
      reg (castEnd (setReg Reg.cstPendGen (BitVec.ofNat 32 (castGen s)) v)) a = reg v a :=
    (he a ha).trans (reg_setReg_ne w3 _ hp)
  have hstat := (stands (a := Reg.cstStatus) (by unfold endArea tallyArea; decide) (by decide)).trans
    (hl _ (by unfold logArea; decide))
  refine ⟨we, ?_, ?_, ?_⟩
  · rw [castSt, rfld, hstat]
    exact hst
  · rw [rfld, hstat]
    exact hcode
  · rw [← hnew]
    refine newestLog_of_kept fun a ha => stands ?_ ?_
    · unfold endArea tallyArea Reg.wnTally Reg.msixPba
      simp only [Reg.frLogStat, Reg.frLog] at ha
      omega
    · simp only [Reg.frLogStat, Reg.frLog] at ha
      unfold Reg.cstPendGen
      omega

/-- With no slot to return, the rollback ends at once. -/
theorem rollSweep_done {s : State} {w : SwitchState} (hst : castSt s = csRollback) (hw : s.cast.switch = some w)
    (hr : w.rolling = []) (hpd : s.cast.pdOff = s.cast.running.pdOff) :
    rollSweep s = setCastSt csIdle (setBit Reg.cstStatus 5 false
      (modCast (fun k => { k with switch := none, staged := none, pool := k.running.pool }) s)) := by
  have hp : rollSweep s = rollProgress s := by
    unfold rollSweep
    rw [hw]
    dsimp only
    rw [hr]
    rfl
  rw [hp]
  unfold rollProgress
  rw [hw]
  dsimp only
  rw [if_pos ⟨hst, by rw [hr]; rfl⟩, setDomains_self (by exact hpd.symm)]

/-- An abort before any slot has taken anything of the new Cast. -/
theorem abortRecast_unpassed {s : State} {w : SwitchState} (wr : s.regs.wf = true) (hst : castSt s = csSwitching)
    (hw : s.cast.switch = some w) (hp : w.passed = []) (hd : w.dark = []) (hpd : s.cast.pdOff = s.cast.running.pdOff) :
    (abortRecast s).regs.wf = true ∧ Aborted s (abortRecast s) := by
  unfold abortRecast
  rw [hw]
  dsimp only
  rw [if_neg (not_not.2 hst)]
  generalize ((w.plans.map (·.1)).find? fun n => !w.passed.contains n).getD 0 = lowest
  let u := modSwitch (fun w => { w with rolling := w.passed ++ w.dark.filter fun n => !w.passed.contains n }) s
  have wu : u.regs.wf = true := wr
  obtain ⟨wa, hast, hacode, halog⟩ := aborting_regs wu lowest
  have hcast := aborting_cast lowest u
  have huw : u.cast.switch = some { w with rolling := [] } := by
    rw [show u.cast.switch = s.cast.switch.map _ from rfl, hw, Option.map_some, hp, hd]
    rfl
  change (rollSweep (aborting lowest u)).regs.wf = true ∧ Aborted s (rollSweep (aborting lowest u))
  rw [rollSweep_done hast ((congrArg CastState.switch hcast).trans huw) rfl (by rw [hcast]; exact hpd)]
  generalize aborting lowest u = v at *
  have wb : (setBit Reg.cstStatus 5 false (modCast (fun k => { k with switch := none, staged := none, pool := k.running.pool })
      v)).regs.wf = true := setFld_wf (by exact wa) _ _ _ _
  have hrun : v.cast.running = s.cast.running := by
    rw [hcast]
    rfl
  refine ⟨setFld_wf wb _ _ _ _, castSt_setCastSt wb (by decide), ?_, hrun, rfl, rfl, congrArg CastDesc.pool hrun, ?_⟩
  · exact (rfld_setFld_out wb _ _ (by decide) (by decide) (.inr (by decide)) (by decide)).trans
      ((rfld_setFld_out (by exact wa) _ _ (by decide) (by decide) (.inr (by decide)) (by decide)).trans hacode)
  · rw [← halog]
    refine newestLog_of_kept fun a ha => ?_
    have hne : a ≠ Reg.cstStatus := by
      simp only [Reg.frLogStat, Reg.frLog] at ha
      unfold Reg.cstStatus
      omega
    exact (reg_setFld_ne wb _ _ _ hne).trans (reg_setFld_ne (by exact wa) _ _ _ hne)

/-! ## What starts the abort (R56, R58) -/

/-- The abort of a state that differs from s in the pool in force, watched for Dim, with no request queued. -/
theorem aborted_withDim {s u : State} {w : SwitchState} (wr : u.regs.wf = true) (hst : castSt u = csSwitching)
    (hw : u.cast.switch = some w) (hp : w.passed = []) (hd : w.dark = []) (hpd : u.cast.pdOff = u.cast.running.pdOff)
    (hrun : u.cast.running = s.cast.running) {f : State → State} {v : State} (hf : f v = abortRecast u) :
    Aborted s (withDim f v) := by
  obtain ⟨wa, ha⟩ := abortRecast_unpassed wr hst hw hp hd hpd
  have has : Aborted s (abortRecast u) := by
    unfold Aborted at ha ⊢
    rwa [hrun] at ha
  rcases withDim_cases f v with h | h <;> rw [h, hf]
  · exact has
  · exact has.raiseVec wa

theorem cstCtrl_abort {s : State} {v : Word} (hq : s.power.queued = none) (h8 : bit v 8 = true) (h0 : bit v 0 = false)
    (h4 : bit v 4 = false) (hsrc : fld v 2 1 < 2) :
    cstCtrl v s = withDim abortRecast (setFld Reg.cstCtrl 2 1 (fld v 2 1) s) := by
  unfold cstCtrl
  rw [if_neg (not_le.2 hsrc), h8, h4, h0]
  refine serveQueued_none ((congrArg PowerState.queued ?_).trans hq)
  exact (keeps_withDim (F := loadKinds) (by decide) abortRecast (fun _ h => keeps_abortRecast (List.Subset.refl _) h)
    (Keeps.refl _ (setFld Reg.cstCtrl 2 1 (fld v 2 1) s))).same (k := .power) (by decide)

/-- The pool is the one matter that a sweep can change while no slot has passed. -/
theorem switchPool_cases (s : State) : ∃ p, switchPool s = modCast (fun k => { k with pool := p }) s := by
  unfold switchPool
  split
  · next c _ _ =>
    split
    · exact ⟨c.pool, rfl⟩
    · exact ⟨s.cast.pool, rfl⟩
  · exact ⟨s.cast.pool, rfl⟩

/-- A change of what has passed that adds dark slots alone changes nothing. -/
theorem modSwitch_passed {s : State} {w : SwitchState} (hw : s.cast.switch = some w) (hd : w.dark = [])
    (f : SwitchState → Nat → Bool) : modSwitch (fun w => { w with passed := w.passed ++ w.dark.filter (f w) }) s = s := by
  have h : s.cast.switch.map (fun w => { w with passed := w.passed ++ w.dark.filter (f w) }) = s.cast.switch := by
    rw [hw, Option.map_some, hd, List.filter_nil, List.append_nil, ← hd]
  unfold modSwitch modCast
  dsimp only
  rw [h]

theorem switchPass_unpassed {s : State} {w : SwitchState} (hw : s.cast.switch = some w) (hp : w.passed = []) (hd : w.dark = []) :
    switchPass s = s := by
  unfold switchPass
  split
  · extract_lets s1
    have h1 : s1 = s := by
      unfold s1
      split
      · exact modSwitch_passed hw hd fun w n => !w.passed.contains n
      · exact modSwitch_passed hw hd fun w n => !w.passed.contains n && !(w.plans.lookup n).any (·.pool)
    rw [h1, hw, Option.map_some, Option.getD_some, hp]
    rfl
  · rfl

/-- While no slot has passed, progress is at most that of the pool. -/
theorem switchProgress_unpassed {s : State} {w : SwitchState} (hst : castSt s = csSwitching) (hw : s.cast.switch = some w)
    (hp : w.passed = []) (hd : w.dark = []) (hplans : w.plans ≠ []) :
    ∃ p, switchProgress s = modCast (fun k => { k with pool := p }) s := by
  obtain ⟨p, hpool⟩ := switchPool_cases s
  let u := modCast (fun k => { k with pool := p }) s
  have hu : u.cast.switch = some w := hw
  have hnone : (w.plans.all fun x => w.passed.contains x.1) = false := by
    rw [hp]
    cases hx : w.plans with
    | nil => exact absurd hx hplans
    | cons x l => rfl
  have hstay : castSt u = csSwitching := hst
  refine ⟨p, ?_⟩
  unfold switchProgress
  extract_lets a b s1
  have ha : a = u := by
    unfold a
    rw [hpool]
    exact switchPass_unpassed (s := u) hu hp hd
  have h1 : s1 = u := by
    unfold s1
    rw [if_pos hst, ha, hu]
    exact if_neg (by rw [hnone]; decide)
  rw [h1]
  split
  · exact if_neg fun h => absurd (hstay.symm.trans h.1) (by decide)
  · rfl

/-- A sweep over slots of which none has passed. -/
theorem switchSweep_unpassed {s : State} {w : SwitchState} (hst : castSt s = csSwitching) (hw : s.cast.switch = some w)
    (hp : w.passed = []) (hd : w.dark = []) (hplans : w.plans ≠ []) (hn : ∀ x ∈ w.plans, passedNow s x.1 = false) :
    ∃ p, switchSweep s = modCast (fun k => { k with pool := p }) s := by
  have hl : (w.plans.map (·.1)).filter (if castSt s = csWarm then noBoundary s else passedNow s) = [] := by
    rw [if_neg (by rw [hst]; decide), List.filter_eq_nil_iff]
    intro n hm
    obtain ⟨x, hx, rfl⟩ := List.mem_map.1 hm
    rw [hn x hx]
    decide
  obtain ⟨p, h⟩ := switchProgress_unpassed hst hw hp hd hplans
  refine ⟨p, ?_⟩
  unfold switchSweep
  rw [hw]
  dsimp only
  rw [hl]
  exact h

/-- Settles O21: ABORT, and RECAST_TIMEOUT when it is due, end in the abort; before that RECAST_TIMEOUT changes nothing. -/
theorem recastAborts : Obligations.RecastAborts := by
  intro s w hwf hst hw hp hd hpd hq
  obtain ⟨wr, -⟩ := State.wf_iff.1 hwf
  refine ⟨fun v ho h8 h0 h4 hsrc => ?_, fun h => ?_, fun h hplans hn => ?_⟩
  · let u := setFld Reg.cstCtrl 2 1 (fld v 2 1) s
    obtain ⟨hsame, -⟩ := reads_setSrc wr (fld v 2 1)
    refine ⟨_, congrArg Host.Outcome.next ((hostWrite_open ho v _).trans (cstCtrl_abort hq h8 h0 h4 hsrc)), ?_⟩
    exact aborted_withDim (u := u) (setFld_wf wr _ _ _ _) (hsame.trans hst) hw hp hd hpd rfl rfl
  · have hover : recastOverdue s = false := by
      unfold recastOverdue
      rw [hw]
      exact decide_eq_false (not_le.2 h)
    exact congrArg Host.Outcome.next (if_neg fun hx => absurd hx.2 (by rw [hover]; decide))
  · have hover : recastOverdue s = true := by
      unfold recastOverdue
      rw [hw]
      exact decide_eq_true h
    obtain ⟨p, hsweep⟩ := switchSweep_unpassed hst hw hp hd hplans hn
    let f := fun s => abortRecast (switchSweep s)
    have hpow : (withDim f s).power = s.power :=
      (keeps_withDim (F := loadKinds) (by decide) f (fun _ h => keeps_abortRecast (List.Subset.refl _)
        (keeps_switchSweep (List.Subset.refl _) h)) (Keeps.refl _ s)).same (k := .power) (by decide)
    refine ⟨withDim f s, congrArg Host.Outcome.next ((if_pos ⟨hst, hover⟩).trans
      (serveQueued_none ((congrArg PowerState.queued hpow).trans hq))), ?_⟩
    exact aborted_withDim (u := modCast (fun k => { k with pool := p }) s) wr hst hw hp hd hpd rfl (congrArg abortRecast hsweep)

end Sys2Proof.Machine
end

section
/-! PROOFS. The host's write of TFn_HORIZON (R80). -/

set_option Elab.async false

namespace Sys2Proof.Machine

theorem regFind_tfHorizon :
    ∀ n < 8, (regFind (Reg.tfHorizon n)).map (fun x => (x.1.base, x.2)) = some (0x201018, n) := by decide +kernel

/-- An open write of TFn_HORIZON by its address is the clamped write (R80). -/
theorem registerWrite_tfHorizon {s : State} {n : Nat} (hn : n < 8) (ho : hostOpen s (Reg.tfHorizon n) = true) (v : Word) :
    registerWrite (Reg.tfHorizon n) v s = horizonWrite n v s := by
  obtain ⟨⟨d, i⟩, hf, hx⟩ := Option.map_eq_some_iff.1 (regFind_tfHorizon n hn)
  obtain ⟨hb, rfl⟩ : d.base = 0x201018 ∧ i = n := Prod.mk.inj hx
  rw [registerWrite, hf]
  dsimp only
  rw [hostWrite_open ho, rowAct, hb]
  rfl

/-- Settles O60: the write stores its low half between the two bounds and nothing above it. -/
theorem horizonClamp : Obligations.HorizonClamp := by
  intro s n off v least w hoff ho hl h32
  obtain ⟨wr, -⟩ := State.wf_iff.1 w
  obtain ⟨hp, -⟩ := hostSees_iff.1 (hostSees_of_open ho)
  have hn := n.isLt
  have h4 : off.toNat % 4 = 0 := by rw [hoff, Reg.tfHorizon, Reg.tf]; omega
  have hpitch : inPitchStore off.toNat = false := by
    rw [hoff]
    exact decide_eq_false (by simp only [Reg.pitch, Reg.tfHorizon, Reg.tf]; omega)
  have hx : exec (.registerWrite .bar0 off 4 (.write v)) s = .next (horizonWrite n.val v s) := by
    rw [exec_bar0_aligned hp h4, bar0Access_register_write hpitch (by rw [hoff, Reg.tfHorizon, Reg.tf]; omega), hoff,
      registerWrite_tfHorizon hn ho]
  refine ⟨_, hx, ?_, ?_, fun a ha => reg_setReg_ne wr _ ha, rfl⟩
  · have hlt : (if fld v 15 0 < least then least else if 32000 < fld v 15 0 then 32000 else fld v 15 0) < 2 ^ 16 := by
      split
      · omega
      · split <;> omega
    rw [horizonWrite, rfld, reg_setReg_same wr, fld_at_same _ (by decide) (by decide), ← hl]
    exact Nat.mod_eq_of_lt hlt
  · rw [horizonWrite, rfld, reg_setReg_same wr, fld_at_out _ (by decide) (by decide) (.inr (by decide)) (by decide)]

end Sys2Proof.Machine
end

section
/-! PROOFS. Slicing of array slots and stale level samples (R88, R157, R166, R167, R191). -/

set_option Elab.async false

namespace Sys2Proof.Machine

section
variable {n : Nat} {s t u : State}

/-! ## What slicing changes of the slots -/

/-- From s to t no slot but n changes, and slot n keeps its frame tap. -/
structure TapKept (n : Nat) (s t : State) : Prop where
  others : ∀ k, k ≠ n → slotAt t k = slotAt s k
  tap : (slotAt t n).tap = (slotAt s n).tap

theorem TapKept.refl (n : Nat) (s : State) : TapKept n s s := ⟨fun _ _ => rfl, rfl⟩

theorem TapKept.ofSlots (h : TapKept n s t) (he : u.slots = t.slots) : TapKept n s u :=
  ⟨fun k hk => by rw [slotAt, he]; exact h.others k hk, by rw [slotAt, he]; exact h.tap⟩

theorem TapKept.modSlot (h : TapKept n s t) (hn : n < 8) (f : SlotState → SlotState)
    (hf : ∀ q, (f q).tap = q.tap := by exact fun _ => rfl) : TapKept n s (modSlot n f t) :=
  ⟨fun k hk => (slotAt_modSlot_ne hk f t).trans (h.others k hk), by rw [slotAt_modSlot_same hn, hf, h.tap]⟩

theorem TapKept.forAll (h : TapKept n s t) (l : List Nat) {f : Nat → State → State}
    (hf : ∀ i u, TapKept n s u → TapKept n s (f i u)) : TapKept n s (forAll l f t) :=
  List.foldlRecOn l _ h fun u hu i _ => hf i u hu

theorem TapKept.writePlane (h : TapKept n s t) (hn : n < 8) (c : SlotCast) (k : Nat) (bs : List Byte) :
    TapKept n s (writePlane n c k bs t) := by
  unfold Machine.writePlane
  dsimp only
  split
  · exact h.modSlot hn _
  · exact h.ofSlots ((keeps_storePlane (List.Subset.refl _) n c k bs (Keeps.refl _ t)).same (k := .slots) (by decide))

theorem TapKept.slicePlanes (h : TapKept n s t) (hn : n < 8) (c : SlotCast) (taken : Taken) :
    TapKept n s (slicePlanes n c taken t) := by
  unfold Machine.slicePlanes
  dsimp only
  refine h.forAll _ fun k u hu => ?_
  split
  · exact hu
  · split
    · exact hu
    · exact hu.writePlane hn c k _

theorem TapKept.takeShift (h : TapKept n s t) (hn : n < 8) (c : SlotCast) : TapKept n s (takeShift n c t) := by
  unfold Machine.takeShift
  dsimp only
  split
  · exact h
  · refine TapKept.ofSlots ?_ (setFld_slots _ _ _ _ _)
    refine TapKept.modSlot ?_ hn _
    split
    · exact (h.modSlot hn _).ofSlots (setFld_slots _ _ _ _ _)
    · exact h.ofSlots (incSat_slots _ _ _ _)

theorem TapKept.noteUnder (h : TapKept n s t) (i k : Nat) : TapKept n s (noteUnder i k t) :=
  h.ofSlots ((keeps_noteUnder (List.Subset.refl _) i k (Keeps.refl _ t)).same (k := .slots) (by decide))

/-- Slicing takes the frame of slot n, and no other slot changes. -/
theorem TapKept.sliceFrame (h : TapKept n s t) (hn : n < 8) (c : SlotCast) (taken : Taken) :
    ((slotAt s n).tap.isSome = true → ∃ x, (slotAt (sliceFrame n c taken t) n).tap = some x ∧ x.sliced = true) ∧
    ∀ k, k ≠ n → slotAt (sliceFrame n c taken t) k = slotAt s k := by
  unfold Machine.sliceFrame
  extract_lets s1
  have h1 : TapKept n s s1 := by
    unfold s1
    split
    · exact h.slicePlanes hn c taken
    · exact h
  refine ⟨fun hs => ?_, fun k hk => (slotAt_modSlot_ne hk _ s1).trans (h1.others k hk)⟩
  obtain ⟨x, hx⟩ := Option.isSome_iff_exists.1 hs
  rw [slotAt_modSlot_same hn]
  dsimp only
  rw [h1.tap, hx]
  exact ⟨_, rfl, rfl⟩

/-! ## What slicing writes of the registers -/

theorem sliceFrame_regs (n : Nat) (c : SlotCast) (taken : Taken) (s : State) : (sliceFrame n c taken s).regs = s.regs :=
  (keeps_sliceFrame (List.Subset.refl _) n c taken (Keeps.refl _ s)).same (k := .regs) (by decide)

/-- Counting underruns writes SOn_FLAGS and SOn_CNT_B (R157). -/
theorem noteUnder_regs (w : s.regs.wf = true) (n k : Nat) :
    (noteUnder n k s).regs.wf = true ∧ ∀ a, a ≠ Reg.soFlags n → a ≠ Reg.soCntB n → reg (noteUnder n k s) a = reg s a := by
  unfold noteUnder
  split
  · exact ⟨w, fun _ _ _ => rfl⟩
  · have w1 := setBit_wf w (Reg.soFlags n) 2 true
    exact ⟨setFld_wf w1 _ _ _ _, fun a hf hb => (reg_setFld_ne w1 _ _ _ hb).trans (reg_setFld_ne w _ _ _ hf)⟩

/-- A run of underruns sets its flag and counts (R157). -/
theorem noteUnder_counts (w : s.regs.wf = true) (n : Nat) {k : Nat} (hk : k ≠ 0) :
    rbit (noteUnder n k s) (Reg.soFlags n) 2 = true ∧
    rfld (noteUnder n k s) (Reg.soCntB n) 31 16 = min (rfld s (Reg.soCntB n) 31 16 + k) 65535 := by
  have w1 := setBit_wf w (Reg.soFlags n) 2 true
  have hne : Reg.soFlags n ≠ Reg.soCntB n := by simp [Reg.soFlags, Reg.soCntB]
  rw [noteUnder, if_neg hk]
  refine ⟨?_, ?_⟩
  · rw [rbit, addSat, reg_setFld_ne w1 _ _ _ hne, ← rbit, rbit_setBit_same w _ _ (by decide)]
  · exact (rfld_addSat_same w1 _ _ (by decide) (by decide)).trans
      (congrArg (fun x => min (x + k) 65535) (rfld_setFld_ne w _ _ _ _ _ hne.symm))

/-! ## SLICE_START (R166) -/

/-- The part once a slice has taken its shift, cleared the slice's counters and counted the frame's underruns. -/
def sliceBegun (n : Nat) (c : SlotCast) (late : List (Nat × Nat)) (s : State) : State :=
  noteUnder n (lateRuns false ((List.range (c.slot.activeW * c.slot.activeH)).map fun i => (lateAt late i).isSome))
    (setReg (Reg.slCntA n) 0 (takeShift n c s))

theorem sliceBegun_regs (w : s.wf = true) (n : Nat) (c : SlotCast) (late : List (Nat × Nat)) :
    (sliceBegun n c late s).regs.wf = true ∧ reg (sliceBegun n c late s) (Reg.slCntA n) = 0 := by
  obtain ⟨-, -, -, hw, -⟩ := keeps_takeShift (List.Subset.refl _) n c (Keeps.refl _ s)
  obtain ⟨w0, -⟩ := State.wf_iff.1 (hw w)
  obtain ⟨w1, hr⟩ := noteUnder_regs (setReg_wf w0 (Reg.slCntA n) 0) n
    (lateRuns false ((List.range (c.slot.activeW * c.slot.activeH)).map fun i => (lateAt late i).isSome))
  refine ⟨w1, (hr _ ?_ ?_).trans (reg_setReg_same w0 _ _)⟩
  · simp only [Reg.slCntA, Reg.sl, Reg.soFlags, Reg.so]; omega
  · simp only [Reg.slCntA, Reg.sl, Reg.soCntB, Reg.so]; omega

/-- A slice takes the frame, and where the codec is Off counts its blocks raw in the upper half of SLn_CNT_A (R189). -/
theorem sliceStart_cases {c : SlotCast} (h : arrayRuns s n = some c) (late : List (Nat × Nat)) {u : State}
    (hu : u = sliceFrame n c (Taken.whole late (c.slot.activeW * c.slot.activeH)) (sliceBegun n c late s)) :
    sliceStart n late s = u ∨ ∃ x, sliceStart n late s = addSat (Reg.slCntA n) 31 16 x u := by
  subst hu
  unfold sliceStart
  rw [h]
  dsimp only
  split
  · exact .inr ⟨_, rfl⟩
  · exact .inl rfl

theorem sliceStart_counter (w : s.wf = true) {c : SlotCast} (h : arrayRuns s n = some c) (late : List (Nat × Nat)) :
    rfld (sliceStart n late s) (Reg.slCntA n) 15 0 = 0 := by
  obtain ⟨w1, hz⟩ := sliceBegun_regs w n c late
  rw [reg, ← sliceFrame_regs n c (Taken.whole late (c.slot.activeW * c.slot.activeH)), ← reg] at hz
  rw [← sliceFrame_regs n c (Taken.whole late (c.slot.activeW * c.slot.activeH))] at w1
  have hz : rfld _ (Reg.slCntA n) 15 0 = 0 := (congrArg (fld · 15 0) hz).trans (fld_zero 15 0)
  obtain e | ⟨x, e⟩ := sliceStart_cases h late rfl
  · rw [e, hz]
  · rw [e, addSat, rfld_setFld_out w1 _ _ (by decide) (by decide) (.inl (by decide)) (by decide), hz]

theorem sliceStart_slots (hn : n < 8) {c : SlotCast} (h : arrayRuns s n = some c) (late : List (Nat × Nat)) :
    ((slotAt s n).tap.isSome = true → ∃ x, (slotAt (sliceStart n late s) n).tap = some x ∧ x.sliced = true) ∧
    ∀ k, k ≠ n → slotAt (sliceStart n late s) k = slotAt s k := by
  have h1 : TapKept n s (sliceBegun n c late s) :=
    (((TapKept.refl n s).takeShift hn c).ofSlots (setReg_slots _ _ _)).noteUnder n _
  have h2 := h1.sliceFrame hn c (Taken.whole late (c.slot.activeW * c.slot.activeH))
  obtain e | ⟨x, e⟩ := sliceStart_cases h late rfl <;> rw [e]
  · exact h2
  · simpa only [slotAt_addSat] using h2

/-! ## SLICE_DEADLINE (R167) -/

/-- The part once a frame that is late at its deadline has been flagged and counted, before its underrun. -/
def deadlineMissed (n : Nat) (s : State) : State := incSat (Reg.slCntB n) 15 0 (setBit (Reg.slFlags n) 4 true s)

theorem deadlineMissed_regs (w : s.regs.wf = true) (n : Nat) :
    (deadlineMissed n s).regs.wf = true ∧ rbit (deadlineMissed n s) (Reg.slFlags n) 4 = true ∧
    rfld (deadlineMissed n s) (Reg.slCntB n) 15 0 = min (rfld s (Reg.slCntB n) 15 0 + 1) 65535 ∧
    ∀ a, a ≠ Reg.slFlags n → a ≠ Reg.slCntB n → reg (deadlineMissed n s) a = reg s a := by
  have w1 := setBit_wf w (Reg.slFlags n) 4 true
  have hne : Reg.slFlags n ≠ Reg.slCntB n := by simp [Reg.slFlags, Reg.slCntB]
  refine ⟨setFld_wf w1 _ _ _ _, ?_, ?_, fun a hf hb => (reg_setFld_ne w1 _ _ _ hb).trans (reg_setFld_ne w _ _ _ hf)⟩
  · rw [deadlineMissed, rbit, incSat, addSat, reg_setFld_ne w1 _ _ _ hne, ← rbit, rbit_setBit_same w _ _ (by decide)]
  · rw [deadlineMissed, rfld_incSat_same w1, setBit, rfld_setFld_ne w _ _ _ _ _ hne.symm]

/-- The rest of a late frame repeats one pixel, which is a run of its own unless the last pixel taken was in one (R157). -/
def restIsRun (s : State) (n taken : Nat) : Bool :=
  0 < taken && (lateAt (((slotAt s n).tap.map (·.late)).getD []) (taken - 1)).isSome

theorem sliceDeadline_late {c : SlotCast} (h : arrayRuns s n = some c) {taken : Nat} (delivered : Nat)
    (ht : taken < c.slot.activeW * c.slot.activeH) (hd : deadlinePassed s n = true) :
    sliceDeadline n taken delivered s =
      sliceFrame n c { late := ((slotAt s n).tap.map (·.late)).getD [], cut := taken, deliv := delivered }
        (noteUnder n (if restIsRun s n taken then 0 else 1) (deadlineMissed n s)) := by
  unfold sliceDeadline
  rw [h]
  exact if_pos ⟨ht, hd⟩

theorem sliceDeadline_regs (w : s.regs.wf = true) {c : SlotCast} (h : arrayRuns s n = some c) {taken : Nat} (delivered : Nat)
    (ht : taken < c.slot.activeW * c.slot.activeH) (hd : deadlinePassed s n = true) :
    rbit (sliceDeadline n taken delivered s) (Reg.slFlags n) 4 = true ∧
    rfld (sliceDeadline n taken delivered s) (Reg.slCntB n) 15 0 = min (rfld s (Reg.slCntB n) 15 0 + 1) 65535 ∧
    (restIsRun s n taken = false → rbit (sliceDeadline n taken delivered s) (Reg.soFlags n) 2 = true ∧
      rfld (sliceDeadline n taken delivered s) (Reg.soCntB n) 31 16 = min (rfld s (Reg.soCntB n) 31 16 + 1) 65535) := by
  obtain ⟨wm, hflag, hcount, hother⟩ := deadlineMissed_regs w n
  have hregs (a : Nat) : reg (sliceDeadline n taken delivered s) a =
      reg (noteUnder n (if restIsRun s n taken then 0 else 1) (deadlineMissed n s)) a := by
    rw [sliceDeadline_late h delivered ht hd, reg, sliceFrame_regs, reg]
  obtain ⟨-, hu⟩ := noteUnder_regs wm n (if restIsRun s n taken then 0 else 1)
  have hsl {o : Nat} (ho : o < 0x100) : Reg.sl n + o ≠ Reg.soFlags n ∧ Reg.sl n + o ≠ Reg.soCntB n := by
    simp only [Reg.sl, Reg.soFlags, Reg.soCntB, Reg.so]
    omega
  refine ⟨?_, ?_, fun hrun => ?_⟩
  · rw [rbit, hregs, hu (Reg.slFlags n) (hsl (by decide)).1 (hsl (by decide)).2, ← rbit, hflag]
  · rw [rfld, hregs, hu (Reg.slCntB n) (hsl (by decide)).1 (hsl (by decide)).2, ← rfld, hcount]
  · obtain ⟨huf, huc⟩ := noteUnder_counts wm n one_ne_zero
    rw [rbit, hregs, rfld, hregs, hrun, ← rbit, ← rfld]
    refine ⟨huf, huc.trans ?_⟩
    have hb : reg (deadlineMissed n s) (Reg.soCntB n) = reg s (Reg.soCntB n) := by
      refine hother _ ?_ ?_
      · simp only [Reg.soCntB, Reg.so, Reg.slFlags, Reg.sl]; omega
      · simp only [Reg.soCntB, Reg.so, Reg.slCntB, Reg.sl]; omega
    rw [rfld, hb, ← rfld]

theorem sliceDeadline_slots (hn : n < 8) {c : SlotCast} (h : arrayRuns s n = some c) {taken : Nat} (delivered : Nat)
    (ht : taken < c.slot.activeW * c.slot.activeH) (hd : deadlinePassed s n = true) :
    ((slotAt s n).tap.isSome = true →
      ∃ x, (slotAt (sliceDeadline n taken delivered s) n).tap = some x ∧ x.sliced = true) ∧
    ∀ k, k ≠ n → slotAt (sliceDeadline n taken delivered s) k = slotAt s k := by
  have h1 : TapKept n s (deadlineMissed n s) := (TapKept.refl n s).ofSlots rfl
  rw [sliceDeadline_late h delivered ht hd]
  exact (h1.noteUnder n _).sliceFrame hn c _

/-- A frame taken in time, or before its deadline, stays as it is. -/
theorem sliceDeadline_inTime {c : SlotCast} (h : arrayRuns s n = some c) {taken : Nat} (delivered : Nat)
    (ht : c.slot.activeW * c.slot.activeH ≤ taken ∨ deadlinePassed s n = false) : sliceDeadline n taken delivered s = s := by
  unfold sliceDeadline
  rw [h]
  refine if_neg ?_
  rintro ⟨hlt, hd⟩
  rcases ht with ht | ht
  · exact absurd hlt (not_lt.2 ht)
  · exact absurd (hd.symm.trans ht) nofun

/-! ## LEVEL_STALE (R88) -/

/-- Slot n once its level samples are stale: the target is the one for that case. -/
def levelStaled (n : Nat) (s : State) (q : SlotState) : SlotState :=
  { q with lvlStale := true, lvlTarget := signed 10 (rfld s (Reg.tfLvlLim n) 31 22) }

theorem levelStale_due {c : SlotCast} (hc : cfgOf s n = some c) (hl : levels c = true) (hs : (slotAt s n).lvlStale = false)
    (hd : 50 * msTicks ≤ since s (slotAt s n).lvlStaleFrom) :
    levelStale n s =
      logEvent .LEVEL_STALE clsPart n 0 (setBit (Reg.tfFlags n) 5 true (modSlot n (levelStaled n s) s)) := by
  unfold levelStale
  rw [hc]
  exact if_pos ⟨hl, by rw [hs]; decide, hd⟩

theorem levelStale_outcome (w : s.regs.wf = true) (hn : n < 8) {c : SlotCast} (hc : cfgOf s n = some c) (hl : levels c = true)
    (hs : (slotAt s n).lvlStale = false) (hd : 50 * msTicks ≤ since s (slotAt s n).lvlStaleFrom) :
    slotAt (levelStale n s) n = levelStaled n s (slotAt s n) ∧ rbit (levelStale n s) (Reg.tfFlags n) 5 = true ∧
    newestLog (levelStale n s) = logWord .LEVEL_STALE clsPart n ∧ ∀ k, k ≠ n → slotAt (levelStale n s) k = slotAt s k := by
  rw [levelStale_due hc hl hs hd]
  have wm : (modSlot n (levelStaled n s) s).regs.wf = true := by rwa [modSlot_regs]
  have wb := setBit_wf wm (Reg.tfFlags n) 5 true
  have hslot (k : Nat) : slotAt (logEvent .LEVEL_STALE clsPart n 0 (setBit (Reg.tfFlags n) 5 true
      (modSlot n (levelStaled n s) s))) k = slotAt (modSlot n (levelStaled n s) s) k := by
    rw [slotAt, (keeps_logEvent (List.Subset.refl _) .LEVEL_STALE clsPart n 0 (Keeps.refl _ _)).same (k := .slots) (by decide),
      ← slotAt, slotAt_setBit]
  have hf : ¬ logArea (Reg.tfFlags n) := by
    simp only [logArea, Reg.tfFlags, Reg.tf, Reg.msixPba, Reg.frLogStat, Reg.frFault, Reg.frLog]
    omega
  refine ⟨(hslot n).trans (slotAt_modSlot_same hn _ s), ?_, logEvent_newest wb _ _ _ _,
    fun k hk => (hslot k).trans (slotAt_modSlot_ne hk _ s)⟩
  rw [rbit, (logEvent_regs wb .LEVEL_STALE clsPart n 0).2 _ hf, ← rbit, rbit_setBit_same wm _ _ (by decide)]

theorem levelStale_early {c : SlotCast} (hc : cfgOf s n = some c) (hd : since s (slotAt s n).lvlStaleFrom < 50 * msTicks) :
    levelStale n s = s := by
  unfold levelStale
  rw [hc]
  refine if_neg ?_
  rintro ⟨-, -, h⟩
  exact absurd h (not_le.2 hd)

end

/-- Settles O36: a slice, its deadline and stale samples, by the operation of each. -/
theorem arraySlices : Obligations.ArraySlices := by
  intro s n w hup
  obtain ⟨wr, -⟩ := State.wf_iff.1 w
  have hn := n.isLt
  have run (f : State → State) : Host.Outcome.next (whileUp f s) = (.next (f s) : Host.Outcome State Fault Refusal) :=
    congrArg Host.Outcome.next (whileUp_up hup f)
  refine ⟨fun c hc => ⟨fun late => ?_, fun taken delivered ht hd => ?_, fun taken delivered ht => ?_⟩,
    fun c hc hl hs => ⟨fun hd => ?_, fun hd => ?_⟩⟩
  · obtain ⟨htap, hothers⟩ := sliceStart_slots hn hc late
    exact ⟨_, run _, sliceStart_counter w hc late, htap, hothers⟩
  · obtain ⟨hflag, hcount, hunder⟩ := sliceDeadline_regs wr hc delivered ht hd
    obtain ⟨htap, hothers⟩ := sliceDeadline_slots hn hc delivered ht hd
    refine ⟨_, run _, hflag, hcount, fun hnew => hunder ?_, htap, hothers⟩
    rcases hnew with rfl | hnone
    · rfl
    · rw [restIsRun, hnone, Option.isSome_none, Bool.and_false]
  · exact (run _).trans (congrArg Host.Outcome.next (sliceDeadline_inTime hc delivered ht))
  · exact ⟨_, run _, levelStale_outcome wr hn hc hl hs hd⟩
  · exact (run _).trans (congrArg Host.Outcome.next (levelStale_early hc hd))

end Sys2Proof.Machine
end

section
/-! PROOFS. Probe series, TIME_SET and TIME_ACK of a port, with the lead and the horizon that follow (R80, R310 to R313, R317). -/

set_option Elab.async false

namespace Sys2Proof.Machine

section
variable {s t u : State} {p : Nat}

/-! ## What sending leaves of a port -/

/-- A port without what the downlink changes in it as it sends. -/
def PortState.unsent (q : PortState) : PortState :=
  { q with wait := [], free := 0, runPkts := 0, rxErr := 0, dlSeq := 0, drvEvs := [] }

theorem unsent_modPort (f : PortState → PortState) (hf : ∀ q, (f q).unsent = q.unsent) (p k : Nat) (s : State) :
    (portAt (modPort p f s) k).unsent = (portAt s k).unsent := by
  by_cases hk : k = p
  · subst hk
    by_cases h8 : k < 8
    · rw [portAt_modPort_same h8, hf]
    · rw [modPort, dif_neg h8]
  · rw [portAt_modPort_ne hk]

theorem unsent_transmit (p fuel k : Nat) : ∀ s : State, (portAt (transmit p fuel s) k).unsent = (portAt s k).unsent := by
  induction fuel with
  | zero => exact fun _ => rfl
  | succ m ih =>
    intro s
    unfold transmit
    dsimp only
    split
    · rfl
    · split
      · rfl
      · split
        · rw [ih, portAt_emit, unsent_modPort]
          exact fun _ => rfl
        · rw [ih, portAt_emit, unsent_modPort]
          exact fun _ => rfl

theorem unsent_sendPkt (p : Nat) (x : LinkPkt) (s : State) (k : Nat) :
    (portAt (sendPkt p x s) k).unsent = (portAt s k).unsent := by
  rw [sendPkt, unsent_transmit, unsent_modPort]
  exact fun _ => rfl

theorem sendPkt_slots (p : Nat) (x : LinkPkt) (s : State) : (sendPkt p x s).slots = s.slots :=
  (keeps_sendPkt (List.Subset.refl _) p x (Keeps.refl _ s)).same (k := .slots) (by decide)

/-! ## A probe series begins (R310, R311) -/

/-- A port at the start of a probe series, whose first probe goes at link time t. -/
def PortState.probing (t : LinkTime) (q : PortState) : PortState :=
  { q with series := true, echoes := [], probes := 15, probeT := t + BitVec.ofNat 64 probeTicks }

theorem startSeries_outcome (hp : p < 8) (s : State) :
    (portAt (startSeries p s) p).unsent = ((portAt s p).probing s.linkTime).unsent ∧
    (∀ k, k ≠ p → portAt (startSeries p s) k = portAt s k) ∧ (startSeries p s).regs = s.regs ∧
    (startSeries p s).slots = s.slots := by
  have hk := keeps_startSeries (List.Subset.refl _) p (Keeps.refl _ s)
  refine ⟨?_, fun k hk => ?_, hk.same (k := .regs) (by decide), hk.same (k := .slots) (by decide)⟩
  · rw [startSeries, unsent_sendPkt, portAt_modPort_same hp]
    rfl
  · rw [startSeries, portAt_sendPkt_ne hk, portAt_modPort_ne hk]

theorem startSeries_port (hp : p < 8) (s : State) :
    (portAt (startSeries p s) p).series = true ∧ (portAt (startSeries p s) p).echoes = [] ∧
    (portAt (startSeries p s) p).probes = 15 ∧
    (portAt (startSeries p s) p).probeT = s.linkTime + BitVec.ofNat 64 probeTicks := by
  obtain ⟨h, -⟩ := startSeries_outcome hp s
  exact ⟨(congrArg PortState.series h :), (congrArg PortState.echoes h :), (congrArg PortState.probes h :),
    (congrArg PortState.probeT h :)⟩

theorem probeNow_run (hr : linkState s p = lsRun) (h0 : (portAt s p).probes = 0) : probeNow p s = startSeries p s := if_pos ⟨hr, h0⟩

theorem probeNow_sending (h0 : (portAt s p).probes ≠ 0) : probeNow p s = s := if_neg fun h => h0 h.2

/-- A write of EPn_CTRL that only probes. -/
theorem epCtrl_probe {v : Word} (h0 : bit v 0 = true) (h1 : bit v 1 = false) (h2 : bit v 2 = false) (s : State) :
    epCtrl p v s = probeNow p s := by
  simp [epCtrl, h0, h1, h2]

/-! ## The delay, TIME_SET and the lead (R80, R311, R312) -/

theorem unsigned_lt (n : Nat) (x : Int) : unsigned n x < 2 ^ n := by
  have hpos : (0 : Int) < (2 ^ n : Nat) := by exact_mod_cast Nat.two_pow_pos n
  have hlt := Int.emod_lt_of_pos x hpos
  have hge := Int.emod_nonneg x hpos.ne'
  unfold unsigned
  omega

/-- TIME_SET goes out with the new delay, which its register shows. -/
theorem timeSet_outcome (w : s.regs.wf = true) (p : Nat) (d : Int) :
    (timeSet p d s).regs.wf = true ∧ rfld (timeSet p d s) (Reg.epDelay p) 23 0 = unsigned 24 d ∧
    (∀ a, a ≠ Reg.epDelay p → reg (timeSet p d s) a = reg s a) ∧
    (∀ k, (portAt (timeSet p d s) k).unsent = (portAt s k).unsent) ∧ (timeSet p d s).slots = s.slots := by
  have hr : (timeSet p d s).regs = (setFld (Reg.epDelay p) 23 0 (unsigned 24 d) s).regs := sendPkt_regs p _ _
  refine ⟨hr ▸ setFld_wf w _ _ _ _, ?_, fun a ha => ?_, fun k => ?_, sendPkt_slots p _ _⟩
  · rw [rfld, reg, hr, ← reg, ← rfld, rfld_setFld_same w _ _ (by decide) (by decide)]
    exact Nat.mod_eq_of_lt (unsigned_lt 24 d)
  · rw [reg, hr, ← reg, reg_setFld_ne w _ _ _ ha]
  · rw [timeSet, unsent_sendPkt, portAt_setFld]

/-- EPn_LEAD once the lead has been shown for the delay and MIN_LEAD in force. -/
def leadShown (p : Nat) (s : State) : State :=
  setFld (Reg.epLead p) 15 0 (min 65535 (leadOf (rfld s (Reg.epDelay p) 23 0) (portAt s p).minLead)) s

theorem leadShown_lead (w : s.regs.wf = true) (p : Nat) : rfld (leadShown p s) (Reg.epLead p) 15 0 =
    min 65535 (leadOf (rfld s (Reg.epDelay p) 23 0) (portAt s p).minLead) := by
  rw [leadShown, rfld_setFld_same w _ _ (by decide) (by decide)]
  exact Nat.mod_eq_of_lt (by omega)

theorem tfHorizon_ne_ep {n : Nat} (hn : n < 8) (p o : Nat) : Reg.tfHorizon n ≠ Reg.ep p + o := by
  simp only [Reg.tfHorizon, Reg.tf, Reg.ep]
  omega

theorem showLead_slots (p : Nat) (s : State) : (showLead p s).slots = s.slots :=
  (keeps_showLead (List.Subset.refl _) p (Keeps.refl _ s)).same (k := .slots) (by decide)

theorem portAt_showLead (p : Nat) (s : State) (k : Nat) : portAt (showLead p s) k = portAt s k := by
  rw [portAt, (keeps_showLead (List.Subset.refl _) p (Keeps.refl _ s)).same (k := .ports) (by decide), portAt]

theorem showLead_of_none (h : slotOnPort s p = none) : showLead p s = leadShown p s := by
  have h1 : slotOnPort (leadShown p s) p = none := h
  rw [show showLead p s = raiseHorizon p (leadShown p s) from rfl, raiseHorizon, h1]

/-- The horizon of the slot on a port is raised to its lead plus 640 (R80). -/
theorem showLead_of_some {n : Nat} (h : slotOnPort s p = some n) : showLead p s = setFld (Reg.tfHorizon n) 15 0
    (max (rfld (leadShown p s) (Reg.tfHorizon n) 15 0) (min 65535 (rfld (leadShown p s) (Reg.epLead p) 15 0 + 640)))
    (leadShown p s) := by
  have h1 : slotOnPort (leadShown p s) p = some n := h
  rw [show showLead p s = raiseHorizon p (leadShown p s) from rfl, raiseHorizon, h1]

theorem showLead_regs (w : s.regs.wf = true) (p : Nat) :
    (showLead p s).regs.wf = true ∧
    (∀ a, a ≠ Reg.epLead p → slotOnPort s p = none ∨ (∃ n, slotOnPort s p = some n ∧ a ≠ Reg.tfHorizon n) →
      reg (showLead p s) a = reg s a) ∧
    rfld (showLead p s) (Reg.epLead p) 15 0 = min 65535 (leadOf (rfld s (Reg.epDelay p) 23 0) (portAt s p).minLead) := by
  have w1 : (leadShown p s).regs.wf = true := setFld_wf w _ _ _ _
  have hword {a : Nat} (ha : a ≠ Reg.epLead p) : reg (leadShown p s) a = reg s a := reg_setFld_ne w _ _ _ ha
  cases hs : slotOnPort s p with
  | none =>
    rw [showLead_of_none hs]
    exact ⟨w1, fun a ha _ => hword ha, leadShown_lead w p⟩
  | some n =>
    rw [showLead_of_some hs]
    refine ⟨setFld_wf w1 _ _ _ _, fun a ha hx => ?_, ?_⟩
    · obtain ⟨m, hm, hne⟩ := hx.resolve_left nofun
      obtain rfl := Option.some.inj hm
      rw [reg_setFld_ne w1 _ _ _ hne, hword ha]
    · exact (rfld_setFld_ne w1 _ _ _ _ _ (tfHorizon_ne_ep (lt_of_slotOnPort hs) p 0x1C).symm).trans (leadShown_lead w p)

theorem showLead_horizon (w : s.regs.wf = true) {n : Nat} (hs : slotOnPort s p = some n) :
    rfld (showLead p s) (Reg.tfHorizon n) 15 0 =
      max (rfld s (Reg.tfHorizon n) 15 0) (min 65535 (rfld (showLead p s) (Reg.epLead p) 15 0 + 640)) := by
  obtain ⟨-, -, hlead⟩ := showLead_regs w p
  have w1 : (leadShown p s).regs.wf = true := setFld_wf w _ _ _ _
  have hlt : rfld s (Reg.tfHorizon n) 15 0 < 2 ^ 16 := fld_lt _ 15 0
  have hold : rfld (leadShown p s) (Reg.tfHorizon n) 15 0 = rfld s (Reg.tfHorizon n) 15 0 :=
    rfld_setFld_ne w _ _ _ _ _ (tfHorizon_ne_ep (lt_of_slotOnPort hs) p 0x1C)
  rw [hlead, ← leadShown_lead w, ← hold, showLead_of_some hs, rfld_setFld_same w1 _ _ (by decide) (by decide), hold]
  exact Nat.mod_eq_of_lt (by omega)

/-- The lead changes no word of the port but its own. -/
theorem showLead_ep (w : s.regs.wf = true) (p : Nat) {o : Nat} (ho : o ≠ 0x1C) :
    reg (showLead p s) (Reg.ep p + o) = reg s (Reg.ep p + o) := by
  obtain ⟨-, h, -⟩ := showLead_regs w p
  refine h _ (by rw [Reg.epLead]; omega) ?_
  cases hs : slotOnPort s p with
  | none => exact .inl rfl
  | some n => exact .inr ⟨n, rfl, (tfHorizon_ne_ep (lt_of_slotOnPort hs) p o).symm⟩

/-! ## TIME_ECHO (R311) -/

/-- The port once the sixteenth echo of its series has come. -/
def seriesEnded (p : Nat) (s : State) : State := modPort p (fun q => { q with echoes := [], series := false }) s

section Echo
variable {t1 t2 t3 t4 : BitVec 64} {l : List Int} {d : Int} (hs : (portAt s p).series = true)
  (he : l = (portAt s p).echoes ++ [(t4 - t1).toInt - (t3 - t2).toInt])
include hs he

theorem timeEcho_joins (hl : linkState s p = lsTrain ∨ linkState s p = lsRun) (h : (portAt s p).echoes.length < 15) :
    timeEcho p t1 t2 t3 t4 s = modPort p (fun q => { q with echoes := l }) s := by
  have hn : l.length < 16 := by rw [he, List.length_append, List.length_singleton]; omega
  subst he
  unfold timeEcho
  rw [if_neg (by rintro (h | ⟨ht, hr⟩); exacts [h hs, hl.elim ht hr])]
  exact if_pos hn

variable (h : (portAt s p).echoes.length = 15) (hd : d = medianDelay l)
include h hd

theorem timeEcho_train (hl : linkState s p = lsTrain) : timeEcho p t1 t2 t3 t4 s = timeSet p d (seriesEnded p s) := by
  have hn : ¬ l.length < 16 := by rw [he, List.length_append, List.length_singleton]; omega
  subst he hd
  unfold timeEcho
  rw [if_neg (by rintro (h | ⟨ht, -⟩); exacts [h hs, ht hl])]
  exact (if_neg hn).trans (if_pos hl)

theorem timeEcho_run (hl : linkState s p = lsRun) {diff : Nat} (hx : diff = (d - (rfld s (Reg.epDelay p) 23 0 : Int)).natAbs) :
    timeEcho p t1 t2 t3 t4 s = if 64 < diff then lose p 5 (seriesEnded p s)
      else if 2 < diff then showLead p (timeSet p d (seriesEnded p s)) else seriesEnded p s := by
  have hn : ¬ l.length < 16 := by rw [he, List.length_append, List.length_singleton]; omega
  subst he hd hx
  unfold timeEcho
  rw [if_neg (by rintro (h | ⟨-, hr⟩); exacts [h hs, hr hl])]
  exact (if_neg hn).trans (if_neg (by rw [hl]; decide))

end Echo

theorem seriesEnded_regs (p : Nat) (s : State) : (seriesEnded p s).regs = s.regs := modPort_regs p _ s

/-- A delay measured anew goes out, and the series is over. -/
theorem seriesEnded_timeSet (w : s.regs.wf = true) (hp : p < 8) (d : Int) :
    (timeSet p d (seriesEnded p s)).regs.wf = true ∧
    (portAt (timeSet p d (seriesEnded p s)) p).series = false ∧ (portAt (timeSet p d (seriesEnded p s)) p).echoes = [] ∧
    (portAt (timeSet p d (seriesEnded p s)) p).minLead = (portAt s p).minLead ∧
    rfld (timeSet p d (seriesEnded p s)) (Reg.epDelay p) 23 0 = unsigned 24 d ∧
    (∀ a, a ≠ Reg.epDelay p → reg (timeSet p d (seriesEnded p s)) a = reg s a) ∧
    (timeSet p d (seriesEnded p s)).slots = s.slots := by
  have wu : (seriesEnded p s).regs.wf = true := by rwa [seriesEnded_regs]
  obtain ⟨wt, hdelay, hword, hport, hslots⟩ := timeSet_outcome wu p d
  have hq : (portAt (timeSet p d (seriesEnded p s)) p).unsent =
      ({ portAt s p with echoes := [], series := false } : PortState).unsent := by
    rw [hport, seriesEnded, portAt_modPort_same hp]
  refine ⟨wt, (congrArg PortState.series hq :), (congrArg PortState.echoes hq :), (congrArg PortState.minLead hq :), hdelay,
    fun a ha => ?_, hslots.trans (modPort_slots p _ s)⟩
  rw [hword a ha, reg, seriesEnded_regs, reg]

/-! ## TIME_ACK (R310, R312, R313) -/

/-- A request for descriptor bytes takes a tag where one is free, and goes out (R317). -/
theorem portAt_descRequest (hp : p < 8) (addr len : Nat) (s : State) :
    ∃ ts next, (portAt (descRequest p addr len none s) p).unsent =
        ({ portAt s p with tags := ts, nextTag := next } : PortState).unsent ∧
      ((portAt s p).tags.length < 4 → ts = (portAt s p).tags ++
        [{ tag := (portAt s p).nextTag % 256, addr := addr, len := len, write := false }]) := by
  unfold descRequest
  dsimp only
  split
  · next h => exact ⟨_, _, rfl, fun hlt => absurd hlt (not_lt.2 h)⟩
  · refine ⟨_, (portAt s p).nextTag % 256 + 1, ?_, fun _ => rfl⟩
    rw [unsent_sendPkt, portAt_modPort_same hp]
    rfl

theorem portAt_descRequest_ne {k : Nat} (hk : k ≠ p) (addr len : Nat) (s : State) :
    portAt (descRequest p addr len none s) k = portAt s k := by
  unfold descRequest
  dsimp only
  split
  · rfl
  · rw [portAt_sendPkt_ne hk, portAt_modPort_ne hk]

/-- The words of a port at which Identify begins: the descriptor copy is empty. -/
theorem identityCleared_regs (w : s.regs.wf = true) (hp : p < 8) :
    linkState (identityCleared p s) p = lsIdentify ∧ ∀ i, i < 4096 → reg (identityCleared p s) (Reg.epDesc p i) = 0 := by
  unfold identityCleared
  generalize hu : modPort p (freshIdentity (beating s p) s.linkTime)
    { s with regs := s.regs.clearRange (Reg.epDesc p 0) (Reg.epDesc p 0 + 0x4000) } = u
  have hr : u.regs = s.regs.clearRange (Reg.epDesc p 0) (Reg.epDesc p 0 + 0x4000) := hu ▸ modPort_regs p _ _
  have wu : u.regs.wf = true := hr ▸ SMap.wf_clearRange _ _ w
  refine ⟨linkState_setLink wu hp (by decide), fun i hi => ?_⟩
  obtain ⟨-, hword⟩ := setLink_regs (p := p) wu lsIdentify
  rw [hword _ (by simp only [Reg.epDesc, Reg.epStatus]; omega) (by simp only [Reg.epDesc, Reg.ep, Reg.msixPba]; omega), reg, hr,
    SMap.get_clearRange w]
  exact if_pos (by simp only [Reg.epDesc]; omega)

theorem enterIdentify_fresh (w : s.regs.wf = true) (hp : p < 8) :
    linkState (enterIdentify p s) p = lsIdentify ∧ (∀ i, i < 4096 → reg (enterIdentify p s) (Reg.epDesc p i) = 0) ∧
    (∃ ts next, (portAt (enterIdentify p s) p).unsent =
        ({ freshIdentity (beating s p) s.linkTime (portAt s p) with tags := ts, nextTag := next } : PortState).unsent ∧
      ((portAt s p).tags.length < 4 → ts = (portAt s p).tags ++
        [{ tag := (portAt s p).nextTag % 256, addr := 0, len := 64, write := false }])) ∧
    (∀ k, k ≠ p → portAt (enterIdentify p s) k = portAt s k) := by
  have hport := identityCleared_port hp s
  obtain ⟨hst, hdesc⟩ := identityCleared_regs w hp
  have hregs : ∀ a, reg (descRequest p 0 64 none (identityCleared p s)) a = reg (identityCleared p s) a := fun a => by
    rw [reg, (keeps_descRequest (List.Subset.refl _) p 0 64 none (Keeps.refl _ _)).same (k := .regs) (by decide), reg]
  rw [enterIdentify_eq, identifyRead_first (by rw [hport]; rfl)]
  refine ⟨(linkState_of_reg (hregs _)).trans hst, fun i hi => (hregs _).trans (hdesc i hi), ?_, fun k hk => ?_⟩
  · have hd := portAt_descRequest hp 0 64 (identityCleared p s)
    rw [hport] at hd
    exact hd
  · rw [portAt_descRequest_ne hk]
    exact (portAt_setLink p _ _ k).trans (portAt_modPort_ne hk _ _)

/-- The port in Train once the engine has loaded its link time. -/
def trainAcked (m : Nat) (q : PortState) : PortState := { q with minLead := m, trainFails := 0, trainStep := 5 }

theorem timeAck_train (hl : linkState s p = lsTrain) (h4 : (portAt s p).trainStep = 4) (hs : (portAt s p).series = false)
    (m : Nat) : timeAck p m s = enterIdentify p (showLead p (modPort p (trainAcked m) s)) :=
  if_pos ⟨hl, h4, by rw [hs]; decide⟩

theorem timeAck_run (hl : linkState s p = lsRun) (m : Nat) :
    timeAck p m s = showLead p (modPort p (fun q => { q with minLead := m }) s) :=
  (if_neg fun h => absurd (hl.symm.trans h.1) (by decide)).trans (if_pos hl)

end

section
variable {s : State} {p : Port}

theorem exec_timeEcho_joins {t1 t2 t3 t4 : BitVec 64} (hs : (portAt s p.val).series = true)
    (hl : linkState s p.val = lsTrain ∨ linkState s p.val = lsRun) (h : (portAt s p.val).echoes.length < 15) :
    ∃ t, exec (.timeEcho p t1 t2 t3 t4) s = .next t ∧
      portAt t p.val = { portAt s p.val with
        echoes := (portAt s p.val).echoes ++ [(t4 - t1).toInt - (t3 - t2).toInt] } ∧
      t.regs = s.regs ∧ (∀ k, k ≠ p.val → portAt t k = portAt s k) ∧ t.slots = s.slots :=
  ⟨_, congrArg Host.Outcome.next (timeEcho_joins hs rfl hl h), portAt_modPort_same p.isLt _ s, modPort_regs _ _ s,
    fun _ hk => portAt_modPort_ne hk _ s, modPort_slots _ _ s⟩

theorem exec_timeAck_train (w : s.regs.wf = true) (hup : upNow s = true) (hl : linkState s p.val = lsTrain)
    (h4 : (portAt s p.val).trainStep = 4) (hs : (portAt s p.val).series = false) (m : BitVec 16) :
    ∃ t, exec (.timeAck p m) s = .next t ∧ linkState t p.val = lsIdentify ∧ (portAt t p.val).minLead = m.toNat ∧
      (portAt t p.val).trainFails = 0 ∧ (portAt t p.val).identified = false ∧
      (∀ i, i < 4096 → reg t (Reg.epDesc p.val i) = 0) ∧ ((portAt s p.val).tags.length < 4 → (portAt t p.val).tags =
        (portAt s p.val).tags ++ [{ tag := (portAt s p.val).nextTag % 256, addr := 0, len := 64, write := false }]) ∧
      (∀ k, k ≠ p.val → portAt t k = portAt s k) ∧ t.slots = s.slots := by
  let u := modPort p.val (trainAcked m.toNat) s
  have wu : u.regs.wf = true := by rwa [modPort_regs]
  obtain ⟨wl, -⟩ := showLead_regs wu p.val
  obtain ⟨hst, hdesc, ⟨ts, next, hport, htags⟩, hports⟩ := enterIdentify_fresh wl p.isLt
  rw [portAt_showLead, portAt_modPort_same p.isLt] at hport htags
  refine ⟨_, congrArg Host.Outcome.next ((whileUp_up hup _).trans (timeAck_train hl h4 hs m.toNat)), hst,
    (congrArg PortState.minLead hport :), (congrArg PortState.trainFails hport :), (congrArg PortState.identified hport :), hdesc,
    fun hlt => (congrArg PortState.tags hport :).trans (htags hlt), fun k hk => ?_, ?_⟩
  · rw [hports k hk, portAt_showLead, portAt_modPort_ne hk]
  · rw [(keeps_enterIdentify (List.Subset.refl _) p.val (Keeps.refl _ _)).same (k := .slots) (by decide), showLead_slots,
      modPort_slots]

theorem exec_timeAck_run (w : s.regs.wf = true) (hup : upNow s = true) (hl : linkState s p.val = lsRun) (m : BitVec 16) :
    ∃ t, exec (.timeAck p m) s = .next t ∧ portAt t p.val = { portAt s p.val with minLead := m.toNat } ∧
      rfld t (Reg.epLead p.val) 15 0 = min 65535 (leadOf (rfld s (Reg.epDelay p.val) 23 0) m.toNat) ∧
      (∀ n, slotOnPort s p.val = some n → rfld t (Reg.tfHorizon n) 15 0 =
        max (rfld s (Reg.tfHorizon n) 15 0) (min 65535 (rfld t (Reg.epLead p.val) 15 0 + 640))) ∧
      (∀ a, a ≠ Reg.epLead p.val → slotOnPort s p.val = none ∨ (∃ n, slotOnPort s p.val = some n ∧ a ≠ Reg.tfHorizon n) →
        reg t a = reg s a) ∧ (∀ k, k ≠ p.val → portAt t k = portAt s k) ∧ t.slots = s.slots := by
  let u := modPort p.val (fun q => { q with minLead := m.toNat }) s
  have wu : u.regs.wf = true := by rwa [modPort_regs]
  have hreg (a : Nat) : reg u a = reg s a := reg_modPort _ _ _ _
  have hslot : slotOnPort u p.val = slotOnPort s p.val := slotOnPort_of_slots (modPort_slots _ _ _) _
  have hport : portAt u p.val = { portAt s p.val with minLead := m.toNat } := portAt_modPort_same p.isLt _ s
  obtain ⟨-, hword, hlead⟩ := showLead_regs wu p.val
  refine ⟨showLead p.val u, congrArg Host.Outcome.next ((whileUp_up hup _).trans (timeAck_run hl m.toNat)),
    (portAt_showLead _ _ _).trans hport, ?_, fun n hn => ?_, fun a ha hx => ?_, fun k hk => ?_, ?_⟩
  · rw [hlead, hport, rfld, hreg, ← rfld]
  · rw [showLead_horizon wu (hslot.trans hn), rfld, hreg, ← rfld]
  · exact (hword a ha (by rwa [hslot])).trans (hreg a)
  · rw [portAt_showLead, portAt_modPort_ne hk]
  · rw [showLead_slots, modPort_slots]

end

/-- Settles O46: echoes, TIME_ACK and probes, by the operation of each. -/
theorem linkProbes : Obligations.LinkProbes := by
  intro s p w
  obtain ⟨wr, -⟩ := State.wf_iff.1 w
  have hp := p.isLt
  refine ⟨fun t1 t2 t3 t4 hs hl => ⟨exec_timeEcho_joins hs hl, fun d diff h hd hx => ⟨fun ht => ?_, fun hr h2 => ?_,
    fun hr h2 h64 => ?_⟩⟩, fun m hup => ⟨fun ht h4 hs => exec_timeAck_train wr hup ht h4 hs m,
    fun hr => exec_timeAck_run wr hup hr m⟩, fun v ho h0 h1 h2 hr => ⟨fun hz => ?_, fun hz => ?_⟩, fun hup hr hz => ?_⟩
  · obtain ⟨-, hser, hech, -, hdelay, hword, hslots⟩ := seriesEnded_timeSet wr hp d
    exact ⟨_, congrArg Host.Outcome.next (timeEcho_train hs rfl h hd ht), hser, hech, hdelay, hword, hslots⟩
  · have he := (timeEcho_run hs rfl h hd hr hx).trans ((if_neg (by omega)).trans (if_neg (by omega)))
    exact ⟨_, congrArg Host.Outcome.next he, portAt_modPort_same hp _ s, modPort_regs _ _ s, modPort_slots _ _ s⟩
  · have he := (timeEcho_run hs rfl h hd hr hx).trans ((if_neg (by omega)).trans (if_pos h2))
    obtain ⟨wt, hser, hech, hmin, hdelay, hword, hslots⟩ := seriesEnded_timeSet wr hp d
    obtain ⟨-, -, hlead⟩ := showLead_regs wt p.val
    have hep := fun {o : Nat} => showLead_ep wt p.val (o := o)
    refine ⟨_, congrArg Host.Outcome.next he, ?_, ?_, ?_, ?_, ?_, (showLead_slots _ _).trans hslots⟩
    · rw [portAt_showLead, hser]
    · rw [portAt_showLead, hech]
    · exact (congrArg (fld · 23 0) (hep (o := 0x18) (by decide))).trans hdelay
    · rw [hlead, hdelay, hmin]
    · refine (linkState_of_reg ?_).trans hr
      exact (hep (o := 4) (by decide)).trans (hword _ (by simp [Reg.epDelay]))
  · obtain ⟨-, hports, hregs, hslots⟩ := startSeries_outcome hp s
    obtain ⟨hser, hech, hpro, -⟩ := startSeries_port hp s
    exact ⟨_, congrArg Host.Outcome.next ((hostWrite_open ho v _).trans ((epCtrl_probe h0 h1 h2 s).trans (probeNow_run hr hz))),
      hser, hech, hpro, hports, hregs, hslots⟩
  · exact congrArg Host.Outcome.next ((hostWrite_open ho v _).trans ((epCtrl_probe h0 h1 h2 s).trans (probeNow_sending hz)))
  · obtain ⟨-, hports, hregs, hslots⟩ := startSeries_outcome hp s
    obtain ⟨hser, hech, hpro, hnext⟩ := startSeries_port hp s
    exact ⟨_, congrArg Host.Outcome.next ((whileUp_up hup _).trans (probeNow_run hr hz)), hser, hech, hpro, hnext, hports, hregs,
      hslots⟩

end Sys2Proof.Machine
end

section
/-! PROOFS. What leaves the reckoners as they are: the events that issue in a reckon step, and what applies at once as a
reckoner comes to rest (R72, R74, R78, R148). -/

set_option Elab.async false

namespace Sys2Proof.Machine

/-- From s to t every slot keeps its reckoner. -/
def ReckKept (s t : State) : Prop := ∀ n, reckOf t n = reckOf s n

section
variable {s t u : State}

theorem ReckKept.refl (s : State) : ReckKept s s := fun _ => rfl

theorem ReckKept.ofSlots (h : ReckKept s t) (he : u.slots = t.slots) : ReckKept s u :=
  fun n => by rw [reckOf, slotAt, he]; exact h n

theorem ReckKept.keep (h : ReckKept s t) (k : Keeps otherKinds t t → Keeps otherKinds t u) : ReckKept s u :=
  h.ofSlots ((k (.refl _ t)).same (k := .slots) (by decide))

theorem ReckKept.ite {c : Prop} {_ : Decidable c} (ht : ReckKept s t) (hu : ReckKept s u) :
    ReckKept s (if c then t else u) := by
  split
  · exact ht
  · exact hu

theorem ReckKept.modSlot (h : ReckKept s t) (n : Nat) (f : SlotState → SlotState)
    (hf : ∀ q, (f q).reck = q.reck := by exact fun _ => rfl) : ReckKept s (modSlot n f t) := by
  intro k
  rw [← h k, reckOf, reckOf]
  by_cases hk : k = n
  · subst hk
    by_cases h8 : k < 8
    · rw [slotAt_modSlot_same h8, hf]
    · rw [Machine.modSlot, dif_neg h8]
  · rw [slotAt_modSlot_ne hk]

theorem ReckKept.foldl {α : Type} (h : ReckKept s t) (l : List α) {f : State → α → State}
    (hf : ∀ x u, ReckKept s u → ReckKept s (f u x)) : ReckKept s (l.foldl f t) :=
  List.foldlRecOn l f h fun u hu x _ => hf x u hu

theorem ReckKept.forAll (h : ReckKept s t) (l : List Nat) {f : Nat → State → State}
    (hf : ∀ i u, ReckKept s u → ReckKept s (f i u)) : ReckKept s (forAll l f t) := h.foldl l hf

/-! ## Writes of registers -/

theorem ReckKept.setReg (h : ReckKept s t) (a : Nat) (v : Word) : ReckKept s (setReg a v t) := h.ofSlots rfl
theorem ReckKept.setFld (h : ReckKept s t) (a hi lo x : Nat) : ReckKept s (setFld a hi lo x t) := h.ofSlots rfl
theorem ReckKept.setBit (h : ReckKept s t) (a i : Nat) (b : Bool) : ReckKept s (setBit a i b t) := h.ofSlots rfl
theorem ReckKept.addSat (h : ReckKept s t) (a hi lo k : Nat) : ReckKept s (addSat a hi lo k t) := h.ofSlots rfl
theorem ReckKept.incSat (h : ReckKept s t) (a hi lo : Nat) : ReckKept s (incSat a hi lo t) := h.ofSlots rfl
theorem ReckKept.raiseVec (h : ReckKept s t) (v : Nat) : ReckKept s (raiseVec v t) := h.ofSlots (raiseVec_slots v t)

theorem ReckKept.logEvent (h : ReckKept s t) (c : Status) (cls id d : Nat) : ReckKept s (logEvent c cls id d t) :=
  h.keep (keeps_logEvent (by decide) c cls id d)

/-! ## Lanes, light and masks -/

theorem ReckKept.insertEvents (h : ReckKept s t) (n : Nat) (k : Lane) (evs : List (BitVec 64)) :
    ReckKept s (insertEvents n k evs t) :=
  .ite (h.modSlot _ _) (((h.modSlot _ _).addSat _ _ _ _).setBit _ _ _)

theorem ReckKept.insertCal (h : ReckKept s t) (n : Nat) (evs : List (PhaseWord × BitVec 64)) :
    ReckKept s (insertCal n evs t) :=
  (h.modSlot _ _).insertEvents _ _ _

theorem ReckKept.refreshCeil (h : ReckKept s t) (n : Nat) : ReckKept s (refreshCeil n t) := by
  unfold Machine.refreshCeil
  dsimp only
  split
  · exact h
  · exact (h.modSlot _ _).forAll _ fun _ _ hu => by
      split
      · exact hu
      · exact hu.setFld _ _ _ _

theorem ReckKept.engageDim (h : ReckKept s t) (n : Nat) : ReckKept s (engageDim n t) :=
  ((h.modSlot _ _).refreshCeil _).keep (keeps_installMaps (by decide) _)

theorem ReckKept.noteMasks (h : ReckKept s t) (n : Nat) (c : SlotCast) (t16 : Int) : ReckKept s (noteMasks n c t16 t) :=
  h.forAll _ fun _ _ hu => .ite (((((hu.setBit _ _ _).setBit _ _ _).setFld _ _ _ _).modSlot _ _).setBit _ _ _)
    (((hu.setBit _ _ _).setBit _ _ _).setFld _ _ _ _)

/-! ## Plane loads (R182, R183, R190) -/

theorem ReckKept.storeHeld (h : ReckKept s t) (n : Nat) (c : SlotCast) (k : Nat) : ReckKept s (storeHeld n c k t) := by
  unfold Machine.storeHeld
  split
  · exact h
  · exact (h.modSlot _ _).keep (keeps_storePlane (by decide) _ _ _ _)

theorem ReckKept.sendBlock (h : ReckKept s t) (n : Nat) (c : SlotCast) (ms : List MaskEff) (k i : Nat) (release : BitVec 40) :
    ReckKept s (sendBlock n c ms k i release t) := by
  unfold Machine.sendBlock
  extract_lets r s1 x
  have h1 : ReckKept s s1 := h.modSlot n _
  have hx : ReckKept s x.2 := by
    unfold x
    split
    · exact h1
    · exact ((h1.incSat _ _ _).setBit _ _ _).logEvent _ _ _ _
  exact hx.keep (keeps_sendPkt (by decide) _ _)

theorem ReckKept.darkenEntry (h : ReckKept s t) (n k : Nat) : ReckKept s (darkenEntry n k t) := h.modSlot _ _

theorem ReckKept.planeLoad (h : ReckKept s t) (n : Nat) (c : SlotCast) (k : Nat) (p : PhaseWord) (t16 : Nat) (late : Bool) :
    ReckKept s (planeLoad n c k p t16 late t) := by
  unfold Machine.planeLoad
  refine ReckKept.storeHeld ?_ _ _ _
  split
  · exact h
  · extract_lets s1 mid ms s2
    have h1 : ReckKept s s1 := .ite (h.engageDim n) h
    have h2 : ReckKept s s2 := (h1.noteMasks n c mid).forAll _ fun i _ hu => hu.sendBlock n c ms k i _
    exact .ite h (.ite (((h2.darkenEntry n k).setBit _ _ _).incSat _ _ _) h2)

/-! ## Events of the lanes (R74, R79, R233, R253) -/

theorem ReckKept.levelSet (h : ReckKept s t) (n : Nat) (c : SlotCast) (k t16 : Nat) (late : Bool) :
    ReckKept s (levelSet n c k t16 late t) := by
  unfold Machine.levelSet
  split
  · exact (h.darkenEntry _ _).keep (keeps_noteDrop (by decide) _)
  · split
    · exact h
    · exact .ite h (h.keep (keeps_issueLevels (by decide) _ _ _))

theorem ReckKept.illumOn (h : ReckKept s t) (n k t16 : Nat) (late : Bool) : ReckKept s (illumOn n k t16 late t) :=
  .ite ((h.modSlot _ _).keep (keeps_noteDrop (by decide) _))
    (.ite (h.modSlot _ _) ((h.modSlot _ _).keep (keeps_issueOns (by decide) _ _)))

theorem ReckKept.gapStart (h : ReckKept s t) (n t16 : Nat) (late : Bool) : ReckKept s (gapStart n t16 late t) :=
  .ite ((h.modSlot _ _).keep (keeps_noteGapLost (by decide) _)) (h.modSlot _ _)

theorem ReckKept.gapStop (h : ReckKept s t) (n t16 : Nat) (late : Bool) : ReckKept s (gapStop n t16 late t) :=
  .ite ((h.modSlot _ _).keep (keeps_noteGapLost (by decide) _)) (h.modSlot _ _)

theorem ReckKept.issueEvent (h : ReckKept s t) (n : Nat) (c : SlotCast) (e : BitVec 64) (t16 : Nat) (late : Bool) :
    ReckKept s (issueEvent n c e t16 late t) := by
  unfold Machine.issueEvent
  extract_lets k s1
  have h1 : ReckKept s s1 := .ite (h.keep (keeps_noteLate (by decide) n)) h
  split
  · exact h1.planeLoad _ _ _ _ _ _
  · exact h1.illumOn _ _ _ _
  · exact h1.keep (keeps_issueOff (by decide) _ _)
  · exact h1.levelSet _ _ _ _ _
  · exact h1.gapStart _ _ _
  · exact h1.gapStop _ _ _
  · exact h1

theorem ReckKept.retireLane (n : Nat) (c : SlotCast) (l : Lane) (fuel : Nat) :
    ∀ {t : State}, ReckKept s t → ReckKept s (retireLane n c l fuel t) := by
  induction fuel with
  | zero => exact fun h => h
  | succ m ih =>
    intro t h
    unfold Machine.retireLane
    split
    · exact h
    · split
      · exact h
      · exact ih ((h.modSlot n _).issueEvent _ _ _ _ _)

/-! ## Placement groups (R202, R203) -/

theorem ReckKept.modEnt (h : ReckKept s t) (n i : Nat) (f : LineEnt → LineEnt) : ReckKept s (modEnt n i f t) := h.modSlot _ _

theorem ReckKept.modLines (h : ReckKept s t) (n : Nat) (f : LineBuild → LineBuild) : ReckKept s (modLines n f t) :=
  h.modSlot _ _

theorem ReckKept.issueGroup (h : ReckKept s t) (n i : Nat) (c : SlotCast) (first : LineSamp) (t0 : Int) :
    ReckKept s (issueGroup n i c first t0 t) := by
  unfold Machine.issueGroup
  extract_lets e s0 dim r timed span rest ahead lim live dropped s1 m s2 s3
  have h0 : ReckKept s s0 := .ite (h.engageDim n) h
  have h1 : ReckKept s s1 := .ite h0 (((h0.addSat _ _ _ _).setBit _ _ _).keep (keeps_noteDrops (by decide) c dropped))
  have h2 : ReckKept s s2 := h1.modEnt n i _
  have h3 : ReckKept s s3 := (ReckKept.ite (h2.setBit _ _ _) h2).modLines n _
  exact h3.keep (keeps_sendGroup (by decide) n c e _ m.1)

theorem ReckKept.issueEntry (n i : Nat) (c : SlotCast) (fuel : Nat) :
    ∀ {t : State}, ReckKept s t → ReckKept s (issueEntry n i c fuel t) := by
  induction fuel with
  | zero => exact fun h => h
  | succ m ih =>
    intro t h
    unfold Machine.issueEntry
    split
    · exact h
    · split
      · exact h
      · exact .ite h (ih (h.issueGroup _ _ _ _ _))

theorem ReckKept.issueLines (h : ReckKept s t) (n : Nat) (c : SlotCast) : ReckKept s (issueLines n c t) :=
  h.forAll _ fun _ _ hu => hu.issueEntry _ _ _ _

/-- What a slot issues in a reckon step changes no reckoner. -/
theorem ReckKept.issueSlot (h : ReckKept s t) (n : Nat) : ReckKept s (issueSlot n t) := by
  unfold Machine.issueSlot
  split
  · exact h
  · next c _ =>
    extract_lets s1
    have h0 : ReckKept s (darkenLate n c (Machine.insertCal n [] t)) :=
      (h.insertCal n []).forAll _ fun _ _ hu => hu.darkenEntry _ _
    have h1 : ReckKept s s1 := ((h0.retireLane n c .edge 96).retireLane n c .payload 64).retireLane n c .cal 32
    exact .ite h (.ite (h1.issueLines n c) h1)

/-! ## What applies at once (R148) -/

theorem ReckKept.applySwap (h : ReckKept s t) (n m : Nat) : ReckKept s (applySwap n m t) := by
  unfold Machine.applySwap
  dsimp only
  split
  · exact h
  · exact (((((h.forAll _ fun _ _ hu => hu.keep (keeps_copyPitch (by decide) _)).forAll _
      fun _ _ hu => hu.setFld _ _ _ _).modSlot _ _).setBit _ _ _).setBit _ _ _).keep (keeps_showSeq (by decide) _)

theorem ReckKept.applyScene (h : ReckKept s t) (n : Nat) : ReckKept s (applyScene n t) := by
  unfold Machine.applyScene
  dsimp only
  split
  · exact h
  · exact (h.modSlot _ _).setFld _ _ _ _

theorem ReckKept.applyOthers (h : ReckKept s t) (n : Nat) (c : SlotCast) : ReckKept s (applyOthers n c t) :=
  ((h.modSlot _ _).forAll _ fun _ _ hu => hu.keep (keeps_copyPitch (by decide) _)).setFld _ _ _ _

theorem ReckKept.applyLayer (h : ReckKept s t) (n : Nat) (c : SlotCast) (k : Nat) : ReckKept s (applyLayer n c k t) :=
  (h.keep (keeps_copyPitch (by decide) _)).modSlot _ _

theorem ReckKept.applyWhole (h : ReckKept s t) (n : Nat) (c : SlotCast) : ReckKept s (applyWhole n c t) :=
  (((h.applyOthers _ _).forAll _ fun _ _ hu => hu.applyLayer _ _ _).modSlot _ _).keep (keeps_showDefer (by decide) _)

theorem ReckKept.releaseSources (h : ReckKept s t) (n : Nat) : ReckKept s (releaseSources n t) :=
  ((h.forAll _ fun _ _ hu => hu.modSlot _ _).keep (keeps_handBackDev (by decide) _)).forAll _ fun _ _ hu => hu.raiseVec _

theorem ReckKept.computeTraj (h : ReckKept s t) (n : Nat) : ReckKept s (computeTraj n t) := by
  unfold Machine.computeTraj
  dsimp only
  split
  · exact h
  · exact .ite h (.ite ((((h.setReg _ _).modSlot _ _).setBit _ _ _).logEvent _ _ _ _) ((h.setReg _ _).modSlot _ _))

theorem ReckKept.setMode (h : ReckKept s t) (n m : Nat) : ReckKept s (setMode n m t) :=
  ((((h.modSlot _ _).setFld _ _ _ _).keep (keeps_showLoad (by decide) _)).keep (keeps_revalidate (by decide) _)).computeTraj _

/-- A reckoner that does not project takes no ω of its own (R62). -/
theorem retuneFree_resting {n : Nat} (h : projects (reckOf s n) = false) : retuneFree n s = s := by
  unfold retuneFree
  split
  · refine if_neg ?_
    rintro ⟨hp, -⟩
    exact absurd (hp.symm.trans h) nofun
  · rfl

/-- What was pending for a slot that projects nothing leaves every reckoner as it applies. -/
theorem ReckKept.applyAtOnce (h : ReckKept s t) {n : Nat} (hp : projects (reckOf s n) = false) :
    ReckKept s (applyAtOnce n t) := by
  unfold Machine.applyAtOnce
  split
  · exact h
  · next c _ =>
    extract_lets s1 s2
    have h1 : ReckKept s s1 := ReckKept.applyScene (h.forAll _ fun _ _ hu => hu.applySwap _ _) n
    split
    · exact h1
    · have h2 : ReckKept s s2 := h1.applyWhole n c
      refine ReckKept.releaseSources ?_ n
      split
      · next m _ =>
        have h3 := h2.setMode n m
        rw [retuneFree_resting (by rw [h3 n, hp])]
        exact h3
      · exact h2

/-- A reckoner that comes to rest is in IDLE or ACQUIRE from now on (R72). -/
theorem reckOf_restReck {n : Nat} (hn : n < 8) (acq : Bool) (s : State) :
    (reckOf (restReck acq n s) n).st = (if acq then .acquire else .idle) ∧ (reckOf (restReck acq n s) n).tAcq = s.linkTime := by
  unfold restReck
  extract_lets s1 rest s2
  have h2 : (reckOf s2 n).st = (if acq then .acquire else .idle) ∧ (reckOf s2 n).tAcq = s.linkTime := by
    rw [reckOf, slotAt_modSlot_same hn]
    exact ⟨rfl, rfl⟩
  obtain ⟨hst, hacq⟩ := h2
  have hp : projects (reckOf s2 n) = false := by
    unfold projects
    rw [hst]
    cases acq <;> rfl
  have hf : ReckKept s2 (flushLines n s2) := ((ReckKept.refl s2).modSlot n _).keep (keeps_showDemand (by decide) n)
  have hk : ReckKept s2 (applyAtOnce n (restartLines n (flushLines n s2))) := (hf.modLines n _).applyAtOnce hp
  rw [hk n]
  exact ⟨hst, hacq⟩

end

end Sys2Proof.Machine
end

section
/-! PROOFS. Link time and the reckon steps on its way (R68, R69, R77). -/

set_option Elab.async false

namespace Sys2Proof.Machine

section
variable {s u : State} {n k : Nat} {c : SlotCast} {t : LinkTime}

theorem reckOf_modReck_same (hn : n < 8) (f : Reckoner → Reckoner) (s : State) :
    reckOf (modReck n f s) n = f (reckOf s n) := by
  rw [reckOf, modReck, slotAt_modSlot_same hn]
  rfl

theorem slotAt_modReck_ne (h : k ≠ n) (f : Reckoner → Reckoner) (s : State) : slotAt (modReck n f s) k = slotAt s k :=
  slotAt_modSlot_ne h _ s

/-! ## One slot at a step -/

theorem slotAt_takePoint_ne (h : k ≠ n) (t : LinkTime) (s : State) : slotAt (takePoint n t s) k = slotAt s k := by
  unfold takePoint
  dsimp only
  split
  · split
    · rw [slotAt_setBit, slotAt_setReg, slotAt_modReck_ne h]
    · rw [slotAt_setReg, slotAt_modReck_ne h]
  · split
    · exact slotAt_modReck_ne h _ s
    · rfl

/-- A slot's step leaves every other slot (R68). -/
theorem slotAt_reckonSlot_ne (h : k ≠ n) (t : LinkTime) (s : State) : slotAt (reckonSlot n t s) k = slotAt s k := by
  unfold reckonSlot
  split
  · rfl
  · dsimp only
    split
    · rfl
    · split
      · split
        · exact slotAt_modReck_ne h _ s
        · rfl
      · rw [slotAt_modReck_ne h, slotAt_takePoint_ne h]

/-- The measured point that waits is in force after the step's take (R69). -/
theorem reckOf_takePoint (hn : n < 8) (ho : (reckOf s n).omegaNext = none) (t : LinkTime) :
    reckOf (takePoint n t s) n = pointTaken (reckOf s n) := by
  unfold takePoint pointTaken
  dsimp only
  cases hm : (reckOf s n).next with
  | none =>
    dsimp only
    rw [ho]
  | some m =>
    dsimp only
    split
    · rw [reckOf, slotAt_setBit, slotAt_setReg, ← reckOf, reckOf_modReck_same hn]
    · rw [reckOf, slotAt_setReg, ← reckOf, reckOf_modReck_same hn]

theorem projects_iff {r : Reckoner} : projects r = true ↔ r.st ≠ .idle ∧ r.st ≠ .acquire := by
  unfold projects
  rw [Bool.and_eq_true, bne_iff_ne, bne_iff_ne]

/-- A slot that projects takes its waiting point at the step and holds the phase of that time (R68, R69). -/
theorem reckOf_reckonSlot (hc : cfgOf s n = some c) (hp : projects (reckOf s n) = true) (ho : (reckOf s n).omegaNext = none)
    (t : LinkTime) :
    reckOf (reckonSlot n t s) n = { pointTaken (reckOf s n) with phiHeld := proj (pointTaken (reckOf s n)) t } := by
  have hn : n < 8 := lt_of_cfg hc
  obtain ⟨hi, ha⟩ := projects_iff.1 hp
  rw [reckonSlot, hc]
  dsimp only
  rw [if_neg hi, if_neg ha, reckOf_modReck_same hn, reckOf_takePoint hn ho]

/-! ## Every slot at a step -/

/-- Where every action but the one of number k stays within R, so does a pass that does not name k. -/
theorem forAll_absent {R : State → State → Prop} (hr : ∀ u, R u u) (ht : ∀ {u v w}, R u v → R v w → R u w)
    {f : Nat → State → State} (hf : ∀ i u, k ≠ i → R u (f i u)) :
    ∀ (l : List Nat) (s : State), k ∉ l → R s (forAll l f s)
  | [], s, _ => hr s
  | i :: l, s, h => by
    obtain ⟨hi, hl⟩ := not_or.1 (mt List.mem_cons.2 h)
    exact ht (hf i s hi) (forAll_absent hr ht hf l (f i s) hl)

/-- And a pass that names k once is the action of number k, up to R before it and after it. -/
theorem forAll_once {R : State → State → Prop} (hr : ∀ u, R u u) (ht : ∀ {u v w}, R u v → R v w → R u w)
    {f : Nat → State → State} (hf : ∀ i u, k ≠ i → R u (f i u)) {l : List Nat} (hl : l.Nodup) (hk : k ∈ l) (s : State) :
    ∃ u, R s u ∧ R (f k u) (forAll l f s) := by
  obtain ⟨a, b, rfl⟩ := List.append_of_mem hk
  obtain ⟨-, hb, hab⟩ := List.nodup_append.1 hl
  have ha : k ∉ a := fun h => hab k h k (List.mem_cons_self ..) rfl
  refine ⟨forAll a f s, forAll_absent hr ht hf a s ha, ?_⟩
  have e : forAll (a ++ k :: b) f s = forAll b f (f k (forAll a f s)) := List.foldl_append
  rw [e]
  exact forAll_absent hr ht hf b _ (List.nodup_cons.1 hb).1

theorem reckOf_linkTime (s : State) (t : LinkTime) (n : Nat) : reckOf { s with linkTime := t } n = reckOf s n := rfl

/-- The step of link time t leaves the reckoner of a projecting slot on its point, at the phase of t (R68, R78). -/
theorem reckOf_reckonOnce (hc : cfgOf s n = some c) (hp : projects (reckOf s n) = true) (ho : (reckOf s n).omegaNext = none) :
    reckOf (reckonOnce s) n =
      { pointTaken (reckOf s n) with phiHeld := proj (pointTaken (reckOf s n)) (nextStep s) } := by
  have hn : n < 8 := lt_of_cfg hc
  obtain ⟨v, hv, he⟩ := forAll_once (R := fun s u => slotAt u n = slotAt s n) (fun _ => rfl) (fun h k => k.trans h)
    (f := fun i u => reckonSlot i (nextStep s) u) (fun i u h => slotAt_reckonSlot_ne h _ u) List.nodup_range
    (List.mem_range.2 hn) { s with linkTime := nextStep s }
  have hr : reckOf v n = reckOf s n := congrArg SlotState.reck hv
  have hports : ∀ w, ReckKept w (forAll (List.range 8) portTime w) := fun w =>
    (ReckKept.refl w).forAll _ fun i _ h => h.keep (keeps_portTime (by decide) i)
  have hissue : ∀ w, ReckKept w (forAll (List.range 8) issueSlot w) := fun w =>
    (ReckKept.refl w).forAll _ fun i _ h => h.issueSlot i
  have hstep := reckOf_reckonSlot (s := v) (n := n) (c := c) ((congrArg SlotState.cfg hv).trans hc) (hr.symm ▸ hp)
    (by rw [hr]; exact ho) (nextStep s)
  rw [hr] at hstep
  exact (hissue _ n).trans ((hports _ n).trans ((congrArg SlotState.reck he).trans hstep))

end

/-! ## The command -/

/-- Everything at rest for the clock: no reckoner out of IDLE, and no port that waits. -/
def atRest (s : State) : Bool := (List.range 8).all fun n => (reckOf s n).st == .idle && portQuiet s n

section
variable {s : State} {t : LinkTime}

theorem atRest_iff : atRest s = true ↔ ∀ n, n < 8 → (reckOf s n).st = .idle ∧ portQuiet s n = true := by
  simp only [atRest, List.all_eq_true, List.mem_range, Bool.and_eq_true, beq_iff_eq]

theorem reckonStep_forward (h : now s ≤ t.toNat) :
    reckonStep t s = forAll ((List.range 128).filter fun l => leState s l != 0) loopTicks
      { (if atRest s then s else reckonMany (t.toNat / 8 - now s / 8) s) with linkTime := t } :=
  if_neg (Nat.not_lt.2 h)

theorem activeLoops_nil (h : ∀ l, l < 128 → leState s l = 0) : ((List.range 128).filter fun l => leState s l != 0) = [] :=
  List.filter_eq_nil_iff.2 fun l hl => by
    rw [h l (List.mem_range.1 hl)]
    exact nofun

/-- With every loop idle the clock gives no sample (R279). -/
theorem reckonStep_loopless (h : now s ≤ t.toNat) (hl : ∀ l, l < 128 → leState s l = 0) :
    reckonStep t s = { (if atRest s then s else reckonMany (t.toNat / 8 - now s / 8) s) with linkTime := t } := by
  rw [reckonStep_forward h, activeLoops_nil hl]
  rfl

theorem linkTime_reckonStep (h : now s ≤ t.toNat) : (reckonStep t s).linkTime = t := by
  rw [reckonStep_forward h]
  exact (keeps_forAll _ _ (fun l _ => keeps_loopTicks (F := [Kind.regs, .loops]) (by decide) l) (Keeps.refl _ _)).same
    (k := .linkTime) (by decide)

/-- Up to the next point of the grid there is one reckon step (R68). -/
theorem stepsTo_nextStep (h : now s ≤ (nextStep s).toNat) : (nextStep s).toNat / 8 - now s / 8 = 1 := by
  unfold nextStep now at *
  have hlt : s.linkTime.toNat < 2 ^ 64 := s.linkTime.isLt
  have e : (s.linkTime / 8 * 8 + 8).toNat = (s.linkTime.toNat / 8 * 8 + 8) % 2 ^ 64 := by
    simp [BitVec.toNat_add, BitVec.toNat_mul, BitVec.toNat_udiv]
  omega

theorem exec_reckonStep (t : LinkTime) (s : State) : exec (.reckonStep t) s = .next (whilePowered (reckonStep t) s) := rfl

theorem exec_reckonStep_powered (hp : powered s = true) (t : LinkTime) : exec (.reckonStep t) s = .next (reckonStep t s) :=
  (exec_reckonStep t s).trans (congrArg Host.Outcome.next (if_pos hp))

end

/-- Settles O30: link time goes to t whatever the steps on the way did; a part at rest takes no step; and the one step to the
next point of the grid is `reckonOnce`, which no event that issues in it undoes. -/
theorem linkTimeAdvances : Obligations.LinkTimeAdvances := by
  intro t s
  refine ⟨fun hp hnow => ⟨?_, fun hrest hloops => ?_, fun n c ht hc hproj ho hloops => ?_⟩, fun h => ?_⟩
  · have hx := exec_reckonStep_powered hp t
    have hk : Keeps [.linkTime, .regs, .dram, .out, .slots, .ports, .fr, .loops] s (reckonStep t s) := exec_keeps hx
    exact ⟨_, hx, linkTime_reckonStep hnow, hk.same (k := .cast) (by decide), hk.same (k := .power) (by decide)⟩
  · rw [exec_reckonStep_powered hp, reckonStep_loopless hnow hloops, if_pos (atRest_iff.2 hrest)]
  · have hbusy : ¬ atRest s = true := fun h => (projects_iff.1 hproj).1 (atRest_iff.1 h n.val n.isLt).1
    subst ht
    refine ⟨_, exec_reckonStep_powered hp _, ?_⟩
    rw [reckonStep_loopless hnow hloops, if_neg hbusy, stepsTo_nextStep hnow, reckOf_linkTime, reckonMany, reckonMany]
    exact reckOf_reckonOnce hc hproj ho
  · rw [exec_reckonStep]
    rcases h with hp | ht
    · rw [whilePowered, if_neg (hp ▸ Bool.false_ne_true)]
    · have hstay : reckonStep t s = s := if_pos ht
      rw [whilePowered, hstay, ite_self]

end Sys2Proof.Machine
end

section
/-! PROOFS. Phase references: SYNC edges taken and missed, pickoffs lost, realignment, and room in a lane (R62 to R69, R76,
R81 to R84). -/

set_option Elab.async false

namespace Sys2Proof.Machine

section
variable {s u v : State} {n k : Nat} {c : SlotCast} {t : LinkTime}

/-! ## A SYNC edge at one slot (R63, R64, R83) -/

/-- What the reckoner of slot n reads stands: the slot, and the words of its TF block. -/
def TfKept (n : Nat) (s u : State) : Prop :=
  s.regs.wf = true →
    u.regs.wf = true ∧ slotAt u n = slotAt s n ∧ ∀ a, Reg.tf n ≤ a → a < Reg.tf (n + 1) → reg u a = reg s a

theorem TfKept.refl (n : Nat) (s : State) : TfKept n s s := fun w => ⟨w, rfl, fun _ _ _ => rfl⟩

theorem TfKept.trans (h : TfKept n s u) (k : TfKept n u v) : TfKept n s v := fun w => by
  obtain ⟨wu, hs, hr⟩ := h w
  obtain ⟨wv, hs', hr'⟩ := k wu
  exact ⟨wv, hs'.trans hs, fun a hl hh => (hr' a hl hh).trans (hr a hl hh)⟩

theorem slotAt_syncEdgeSlot_ne (h : k ≠ n) (t : LinkTime) (s : State) : slotAt (syncEdgeSlot t n s) k = slotAt s k := by
  unfold syncEdgeSlot
  split
  · rfl
  · dsimp only
    split
    · exact slotAt_modReck_ne h _ s
    · split
      · exact slotAt_modReck_ne h _ s
      · exact slotAt_incSat _ _ _ s k
    · split
      · exact slotAt_modReck_ne h _ s
      · exact slotAt_incSat _ _ _ s k
    · split
      · exact (slotAt_modSlot_ne h _ _).trans (slotAt_modReck_ne h _ s)
      · exact slotAt_modReck_ne h _ s
    · rfl
    · rfl

/-- An edge counts in TFn_CNT_A, and writes nothing else. -/
theorem syncEdgeSlot_regs (w : s.regs.wf = true) (t : LinkTime) (n : Nat) :
    (syncEdgeSlot t n s).regs.wf = true ∧ ∀ a, a ≠ Reg.tfCntA n → reg (syncEdgeSlot t n s) a = reg s a := by
  have hkept : ∀ {u : State}, u.regs = s.regs → u.regs.wf = true ∧ ∀ a, a ≠ Reg.tfCntA n → reg u a = reg s a :=
    fun e => ⟨e ▸ w, fun _ _ => by rw [reg, e, reg]⟩
  have hcount : (incSat (Reg.tfCntA n) 15 0 s).regs.wf = true ∧
      ∀ a, a ≠ Reg.tfCntA n → reg (incSat (Reg.tfCntA n) 15 0 s) a = reg s a :=
    ⟨setFld_wf w _ _ _ _, fun a ha => reg_setFld_ne w _ _ _ ha⟩
  unfold syncEdgeSlot
  split
  · exact hkept rfl
  · dsimp only
    split
    · exact hkept (modReck_regs _ _ s)
    · split
      · exact hkept (modReck_regs _ _ s)
      · exact hcount
    · split
      · exact hkept (modReck_regs _ _ s)
      · exact hcount
    · split
      · exact hkept ((modSlot_regs _ _ _).trans (modReck_regs _ _ s))
      · exact hkept (modReck_regs _ _ s)
    · exact hkept rfl
    · exact hkept rfl

theorem tfKept_syncEdgeSlot (h : n ≠ k) (t : LinkTime) (s : State) : TfKept n s (syncEdgeSlot t k s) := fun w => by
  obtain ⟨wu, hr⟩ := syncEdgeSlot_regs w t k
  refine ⟨wu, slotAt_syncEdgeSlot_ne h t s, fun a hl hh => hr a ?_⟩
  simp only [Reg.tf, Reg.tfCntA] at *
  omega

theorem syncEdgeSlot_acquire (hc : cfgOf s n = some c) (hst : (reckOf s n).st = .acquire) (t : LinkTime) :
    reckOf (syncEdgeSlot t n s) n =
      syncReference (modeNow s n).rate (trimOf s n) c.phse.div c.phse.offset t (reckOf s n) := by
  rw [syncEdgeSlot, hc]
  simp only [hst]
  exact reckOf_modReck_same (lt_of_cfg hc) _ s

/-- In LOCKED and SLEWING the edge is accepted, or it counts (R64). -/
theorem syncEdgeSlot_tracking (hc : cfgOf s n = some c) (hst : (reckOf s n).st = .locked ∨ (reckOf s n).st = .slewing)
    (t : LinkTime) :
    syncEdgeSlot t n s = if syncAccepts (rfld s (Reg.tfSyncWin n) 23 0) (modeNow s n).rate c.phse.div t (reckOf s n) then
        modReck n (syncTracked (rfld s (Reg.tfCtrl n) 5 4) c.phse.div c.phse.offset t) s
      else incSat (Reg.tfCntA n) 15 0 s := by
  rw [syncEdgeSlot, hc]
  rcases hst with hst | hst <;> simp only [hst]

theorem syncEdgeSlot_freeRun (hc : cfgOf s n = some c) (hst : (reckOf s n).st = .freeRun) (t : LinkTime) :
    reckOf (syncEdgeSlot t n s) n =
      syncCandidate c.phse.div c.phse.offset (rbit s (Reg.tfCtrl n) 1) t (reckOf s n) := by
  have hn : n < 8 := lt_of_cfg hc
  rw [syncEdgeSlot, hc]
  simp only [hst]
  split
  · rw [reckOf, slotAt_modSlot_same hn]
    exact reckOf_modReck_same hn _ s
  · exact reckOf_modReck_same hn _ s

theorem syncTracked_reference (avg div offset : Nat) (t : LinkTime) (r : Reckoner) :
    (syncTracked avg div offset t r).missed = 0 ∧ (syncTracked avg div offset t r).lastEdge = some t := by
  unfold syncTracked
  dsimp only
  split
  · exact ⟨rfl, rfl⟩
  · exact ⟨rfl, rfl⟩

/-- What an edge at link time t makes of slot n, which follows its input, from s to u. -/
def EdgeTaken (n : Nat) (c : SlotCast) (t : LinkTime) (s u : State) : Prop :=
  ((reckOf s n).st = .acquire →
    reckOf u n = syncReference (modeNow s n).rate (trimOf s n) c.phse.div c.phse.offset t (reckOf s n)) ∧
  ((reckOf s n).st = .locked ∨ (reckOf s n).st = .slewing →
    (syncAccepts (rfld s (Reg.tfSyncWin n) 23 0) (modeNow s n).rate c.phse.div t (reckOf s n) = true →
      reckOf u n = syncTracked (rfld s (Reg.tfCtrl n) 5 4) c.phse.div c.phse.offset t (reckOf s n) ∧
      (reckOf u n).missed = 0 ∧ (reckOf u n).lastEdge = some t) ∧
    (syncAccepts (rfld s (Reg.tfSyncWin n) 23 0) (modeNow s n).rate c.phse.div t (reckOf s n) = false →
      rfld u (Reg.tfCntA n) 15 0 = min (rfld s (Reg.tfCntA n) 15 0 + 1) 65535 ∧ slotAt u n = slotAt s n)) ∧
  ((reckOf s n).st = .freeRun →
    reckOf u n = syncCandidate c.phse.div c.phse.offset (rbit s (Reg.tfCtrl n) 1) t (reckOf s n))

theorem edgeTaken_syncEdgeSlot (w : s.regs.wf = true) (hc : cfgOf s n = some c) (t : LinkTime) :
    EdgeTaken n c t s (syncEdgeSlot t n s) := by
  refine ⟨fun h => syncEdgeSlot_acquire hc h t, fun h => ⟨fun ha => ?_, fun ha => ?_⟩, fun h => syncEdgeSlot_freeRun hc h t⟩
  · have e : reckOf (syncEdgeSlot t n s) n =
        syncTracked (rfld s (Reg.tfCtrl n) 5 4) c.phse.div c.phse.offset t (reckOf s n) := by
      rw [syncEdgeSlot_tracking hc h, if_pos ha, reckOf_modReck_same (lt_of_cfg hc)]
    rw [e]
    exact ⟨rfl, syncTracked_reference _ _ _ t _⟩
  · rw [syncEdgeSlot_tracking hc h, if_neg (ha ▸ Bool.false_ne_true)]
    exact ⟨rfld_incSat_same w _, slotAt_incSat _ _ _ s n⟩

/-- What slot n reads before the edge and shows after it is all that counts. -/
theorem EdgeTaken.congr {s' u' : State} (h : EdgeTaken n c t s u) (w : s'.regs.wf = true) (wu : u.regs.wf = true)
    (hs : TfKept n s' s) (hu : TfKept n u u') : EdgeTaken n c t s' u' := by
  obtain ⟨-, hslot, hreg⟩ := hs w
  obtain ⟨-, hslot', hreg'⟩ := hu wu
  have hword : ∀ i < 0x100, reg s (Reg.tf n + i) = reg s' (Reg.tf n + i) := fun i hi =>
    hreg _ (by omega) (by simp only [Reg.tf]; omega)
  have hcount : reg u' (Reg.tfCntA n) = reg u (Reg.tfCntA n) :=
    hreg' _ (by simp only [Reg.tf, Reg.tfCntA]; omega) (by simp only [Reg.tf, Reg.tfCntA]; omega)
  have ewin : reg s (Reg.tfSyncWin n) = reg s' (Reg.tfSyncWin n) := hword 0x10 (by omega)
  have ectrl : reg s (Reg.tfCtrl n) = reg s' (Reg.tfCtrl n) := hword 0 (by omega)
  have etrim : reg s (Reg.tfTrim n) = reg s' (Reg.tfTrim n) := hword 0x14 (by omega)
  have ecnt : reg s (Reg.tfCntA n) = reg s' (Reg.tfCntA n) := hword 0x24 (by omega)
  simpa only [EdgeTaken, modeNow, trimOf, reckOf, cfgOf, rfld, rbit, hslot, hslot', ewin, ectrl, etrim, ecnt, hcount] using h

/-! ## The edge at every slot that follows its input (R35, R351) -/

theorem lt_of_followsSync {m : Nat} {f : Bool} (h : followsSync s m f n = true) : n < 8 := by
  unfold followsSync at h
  split at h
  · next hc => exact lt_of_cfg hc
  · exact absurd h nofun

/-- The slots that an edge of polarity f of SYNC input m reaches. -/
def followers (s : State) (m : Nat) (f : Bool) : List Nat := (List.range 8).filter (followsSync s m f)

theorem mem_followers {m : Nat} {f : Bool} : n ∈ followers s m f ↔ followsSync s m f n = true := by
  unfold followers
  rw [List.mem_filter, List.mem_range]
  exact ⟨And.right, fun h => ⟨lt_of_followsSync h, h⟩⟩

/-- The edge is kept, and each follower takes it. -/
def edgeSpread (m : Nat) (f : Bool) (t : LinkTime) (s : State) : State :=
  forAll (followers s m f) (syncEdgeSlot t) (setReg (Reg.sbSyncT m f) (t.setWidth 32) s)

theorem exec_syncEdge (hup : upNow s = true) (m : SyncId) (f : Bool) (t : LinkTime) :
    exec (.syncEdge m f t) s = .next (edgeSpread m.val f t s) :=
  congrArg Host.Outcome.next (if_pos hup)

theorem reg_edgeSpread (w : s.regs.wf = true) (m : Nat) (f : Bool) (t : LinkTime) :
    reg (edgeSpread m f t s) (Reg.sbSyncT m f) = t.setWidth 32 := by
  refine (List.foldlRecOn (motive := fun u : State => u.regs.wf = true ∧ reg u (Reg.sbSyncT m f) = t.setWidth 32)
    (followers s m f) _ ⟨setReg_wf w _ _, reg_setReg_same w _ _⟩ fun u hu k hk => ?_).2
  obtain ⟨wu, hr⟩ := hu
  have hk8 : k < 8 := lt_of_followsSync (mem_followers.1 hk)
  obtain ⟨wk, hother⟩ := syncEdgeSlot_regs wu t k
  refine ⟨wk, (hother _ ?_).trans hr⟩
  simp only [Reg.sbSyncT, Reg.sb, Reg.tfCntA, Reg.tf]
  omega

theorem slotAt_edgeSpread_absent {m : Nat} {f : Bool} (h : followsSync s m f n = false) (t : LinkTime) :
    slotAt (edgeSpread m f t s) n = slotAt s n :=
  (forAll_absent (R := fun s u => slotAt u n = slotAt s n) (fun _ => rfl) (fun h k => k.trans h)
    (fun _ u hk => slotAt_syncEdgeSlot_ne hk t u) _ _ fun hm => absurd (h.symm.trans (mem_followers.1 hm)) nofun).trans
    (slotAt_setReg _ _ s n)

theorem edgeTaken_edgeSpread (w : s.regs.wf = true) (hc : cfgOf s n = some c) {m : Nat} {f : Bool}
    (h : followsSync s m f n = true) (t : LinkTime) : EdgeTaken n c t s (edgeSpread m f t s) := by
  have hn : n < 8 := lt_of_cfg hc
  have hstamp : TfKept n s (setReg (Reg.sbSyncT m f) (t.setWidth 32) s) := fun w =>
    ⟨setReg_wf w _ _, slotAt_setReg _ _ s n, fun a _ hh => reg_setReg_ne w _ (by
      simp only [Reg.sbSyncT, Reg.sb, Reg.tf] at *
      omega)⟩
  obtain ⟨v, hv, hu⟩ := forAll_once (R := TfKept n) (TfKept.refl n) TfKept.trans
    (fun k u hk => tfKept_syncEdgeSlot hk t u) (List.nodup_range.filter _) (mem_followers.2 h)
    (setReg (Reg.sbSyncT m f) (t.setWidth 32) s)
  have hsv : TfKept n s v := hstamp.trans hv
  obtain ⟨wv, hslot, -⟩ := hsv w
  exact (edgeTaken_syncEdgeSlot wv ((congrArg SlotState.cfg hslot).trans hc) t).congr w (syncEdgeSlot_regs wv t n).1 hsv hu

end

end Sys2Proof.Machine
end

section
/-! PROOFS. References that fail or begin anew: missed edges, a lost pickoff, REALIGN, and lane room (R62, R63, R76, R81, R82,
R84), with the statement of the phase references. -/

set_option Elab.async false

namespace Sys2Proof.Machine

section
variable {s u : State} {n k l : Nat} {c : SlotCast}

/-! ## Missed edges (R81, R82) -/

theorem cfgOf_modReck (n : Nat) (f : Reckoner → Reckoner) (s : State) (k : Nat) : cfgOf (modReck n f s) k = cfgOf s k :=
  cfgOf_modSlot (f := fun q => { q with reck := f q.reck }) (fun _ => rfl) s k

theorem newestLog_raisedVec (w : s.regs.wf = true) {v : Nat} (hv : v < 512) : newestLog (raiseVec v s) = newestLog s := by
  obtain ⟨-, hr⟩ := raiseVec_regs w v
  refine newestLog_of_kept fun a ha => hr a ?_
  simp only [Reg.frLogStat, Reg.frLog, Reg.msixPba] at *
  omega

/-- A reckoner that expects the edge after a missed one (R81). -/
def pastEdge (div : Nat) (r : Reckoner) : Reckoner :=
  nextExpected div r.k r.expected { r with missed := r.missed + 1, consec := r.consec + 1 }

/-- One missed edge: it counts, and the next one is expected (R81). -/
def edgeSkipped (n : Nat) (c : SlotCast) (s : State) : State :=
  incSat (Reg.tfCntA n) 31 16 (modReck n (pastEdge c.phse.div) s)

theorem reckOf_edgeSkipped (hn : n < 8) (c : SlotCast) (s : State) :
    reckOf (edgeSkipped n c s) n = pastEdge c.phse.div (reckOf s n) := by
  rw [edgeSkipped, reckOf, slotAt_incSat]
  exact reckOf_modReck_same hn _ s

theorem edgeSkipped_count (w : s.regs.wf = true) (n : Nat) (c : SlotCast) : (edgeSkipped n c s).regs.wf = true ∧
    rfld (edgeSkipped n c s) (Reg.tfCntA n) 31 16 = min (rfld s (Reg.tfCntA n) 31 16 + 1) 65535 := by
  have w1 : (modReck n (pastEdge c.phse.div) s).regs.wf = true := by rwa [modReck_regs]
  refine ⟨setFld_wf w1 _ _ _ _, ?_⟩
  rw [edgeSkipped, incSat, rfld_addSat_same w1 _ _ (by decide) (by decide), rfld, reg_modReck, ← rfld]
  norm_num

/-- A reckoner that has lost SYNC (R82). -/
def freeRunning (r : Reckoner) : Reckoner :=
  { r with st := .freeRun, next := none, slewErr := 0, adj := 0, snap := false, cands := [] }

/-- The loss of SYNC: the reckoner free-runs, with a log entry and its vector (R82). -/
def syncLost (n : Nat) (c : SlotCast) (s : State) : State :=
  raiseVec 3 (logEvent .SYNC_LOST clsPart n c.phse.input (setBit (Reg.tfFlags n) 0 true
    (modSlot n (fun q => { q with darkSnap := false }) (modReck n freeRunning s))))

theorem syncLost_outcome (w : s.regs.wf = true) (hn : n < 8) (c : SlotCast) :
    (reckOf (syncLost n c s) n).st = .freeRun ∧ newestLog (syncLost n c s) = logWord .SYNC_LOST clsPart n := by
  let s1 := setBit (Reg.tfFlags n) 0 true (modSlot n (fun q => { q with darkSnap := false }) (modReck n freeRunning s))
  have w1 : s1.regs.wf = true := setBit_wf (by rwa [modSlot_regs, modReck_regs]) _ _ _
  have hst : (reckOf s1 n).st = .freeRun := by
    unfold s1
    rw [reckOf, slotAt_setBit, slotAt_modSlot_same hn]
    exact congrArg Reckoner.st (reckOf_modReck_same hn _ s)
  refine ⟨?_, (newestLog_raisedVec (logEvent_regs w1 _ _ _ _).1 (by omega)).trans (logEvent_newest w1 _ _ _ _)⟩
  exact (congrArg Reckoner.st (((ReckKept.refl s1).logEvent .SYNC_LOST clsPart n c.phse.input).raiseVec 3 n)).trans hst

theorem syncMissed_passed (hc : cfgOf s n = some c) (hsrc : c.phse.source = 1)
    (hst : (reckOf s n).st = .locked ∨ (reckOf s n).st = .slewing)
    (hp : edgePassed (rfld s (Reg.tfSyncWin n) 23 0) s.linkTime (reckOf s n) = true) :
    syncMissed n s = if 2 ≤ (reckOf s n).consec + 1 then syncLost n c (edgeSkipped n c s) else edgeSkipped n c s := by
  have hk : (reckOf (edgeSkipped n c s) n).consec = (reckOf s n).consec + 1 := by
    rw [reckOf_edgeSkipped (lt_of_cfg hc)]
    rfl
  rw [syncMissed, hc, ← hk]
  exact if_pos ⟨hsrc, hst, hp⟩

theorem syncMissed_early (hc : cfgOf s n = some c)
    (hp : edgePassed (rfld s (Reg.tfSyncWin n) 23 0) s.linkTime (reckOf s n) = false) : syncMissed n s = s := by
  rw [syncMissed, hc]
  refine if_neg ?_
  rintro ⟨-, -, h⟩
  exact absurd (h.symm.trans hp) nofun

theorem exec_syncMissed (hup : upNow s = true) (n : Slot) : exec (.syncMissed n) s = .next (syncMissed n.val s) :=
  congrArg Host.Outcome.next (if_pos hup)

/-! ## A lost pickoff (R84) -/

/-- Slot n holds for the loss of its pickoff, which is the newest entry of the log. -/
def PickoffHeld (n : Nat) (c : SlotCast) (u : State) : Prop :=
  (reckOf u n).st = .hold ∧ newestLog u = logWord .PICKOFF_LOST clsEngine c.slot.port ∧ rbit u (Reg.tfFlags n) 1 = true

/-- A reckoner in HOLD (R84). -/
def holding (r : Reckoner) : Reckoner := { r with st := .hold }

/-- The loss of slot n's pickoff. -/
def pickoffHold (n : Nat) (c : SlotCast) (s : State) : State :=
  logEvent .PICKOFF_LOST clsEngine c.slot.port 0 (setBit (Reg.tfFlags n) 1 true (modReck n holding s))

theorem pickoffLost_locked (hc : cfgOf s n = some c) (hsrc : c.phse.source = 2) (hst : (reckOf s n).st = .locked) :
    pickoffLost n s = pickoffHold n c s := by
  rw [pickoffLost, hc]
  exact if_pos ⟨hsrc, hst⟩

/-- Only a slot in LOCKED loses its pickoff. -/
theorem pickoffLost_cases (n : Nat) (s : State) : pickoffLost n s = s ∨ ∃ c, pickoffLost n s = pickoffHold n c s := by
  unfold pickoffLost
  split
  · exact .inl rfl
  · next c _ =>
    split
    · exact .inr ⟨c, rfl⟩
    · exact .inl rfl

theorem not_logArea_tfFlags (hn : n < 8) : ¬ logArea (Reg.tfFlags n) := by
  simp only [logArea, Reg.tfFlags, Reg.tf, Reg.msixPba, Reg.frLogStat, Reg.frFault, Reg.frLog]
  omega

theorem not_logArea_leStatus (hl : l < 128) : ¬ logArea (Reg.leStatus l) := by
  simp only [logArea, Reg.leStatus, Reg.le, Reg.msixPba, Reg.frLogStat, Reg.frFault, Reg.frLog]
  omega

theorem leStatus_ne_tfFlags (_ : n < 8) (l : Nat) : Reg.leStatus l ≠ Reg.tfFlags n := by
  simp only [Reg.leStatus, Reg.le, Reg.tfFlags, Reg.tf]
  omega

theorem pickoffHold_regs (w : s.regs.wf = true) (n : Nat) (c : SlotCast) : (pickoffHold n c s).regs.wf = true ∧
    ∀ a, ¬ logArea a → a ≠ Reg.tfFlags n → reg (pickoffHold n c s) a = reg s a := by
  have w1 : (modReck n holding s).regs.wf = true := by rwa [modReck_regs]
  obtain ⟨wl, hl⟩ := logEvent_regs (setBit_wf w1 (Reg.tfFlags n) 1 true) .PICKOFF_LOST clsEngine c.slot.port 0
  exact ⟨wl, fun a ha hf => (hl a ha).trans ((reg_setFld_ne w1 _ _ _ hf).trans (reg_modReck _ _ s a))⟩

theorem slots_pickoffHold (n : Nat) (c : SlotCast) (s : State) :
    (pickoffHold n c s).slots = (modReck n holding s).slots :=
  (keeps_logEvent (F := otherKinds) (by decide) .PICKOFF_LOST clsEngine c.slot.port 0 (Keeps.refl _ _)).same (k := .slots)
    (by decide)

theorem slotAt_pickoffHold (n : Nat) (c : SlotCast) (s : State) (k : Nat) :
    slotAt (pickoffHold n c s) k = slotAt (modReck n holding s) k := by
  rw [slotAt, slots_pickoffHold, ← slotAt]

theorem pickoffHeld_pickoffHold (w : s.regs.wf = true) (hn : n < 8) (c : SlotCast) : PickoffHeld n c (pickoffHold n c s) := by
  have w1 : (modReck n holding s).regs.wf = true := by rwa [modReck_regs]
  have w2 := setBit_wf w1 (Reg.tfFlags n) 1 true
  refine ⟨?_, logEvent_newest w2 _ _ _ _, ?_⟩
  · rw [reckOf, slotAt_pickoffHold, ← reckOf, reckOf_modReck_same hn]
    rfl
  · rw [rbit, pickoffHold, (logEvent_regs w2 _ _ _ _).2 _ (not_logArea_tfFlags hn), ← rbit, rbit_setBit_same w1 _ _ (by decide)]

/-- A slot that still stands in LOCKED, or holds already, holds. -/
theorem pickoffHeld_pickoffLost (w : s.regs.wf = true) (hc : cfgOf s n = some c) (hsrc : c.phse.source = 2)
    (h : (reckOf s n).st = .locked ∨ PickoffHeld n c s) : PickoffHeld n c (pickoffLost n s) := by
  rcases h with h | h
  · rw [pickoffLost_locked hc hsrc h]
    exact pickoffHeld_pickoffHold w (lt_of_cfg hc) c
  · obtain ⟨hst, -⟩ := id h
    have hstay : ¬ (c.phse.source = 2 ∧ (reckOf s n).st = .locked) := fun hl => absurd (hst.symm.trans hl.2) nofun
    rw [pickoffLost, hc]
    dsimp only
    rwa [if_neg hstay]

/-- The loss of a pickoff leaves the loops' words. -/
theorem pickoffLost_leStatus (w : s.regs.wf = true) (hn : n < 8) (hl : l < 128) :
    (pickoffLost n s).regs.wf = true ∧ reg (pickoffLost n s) (Reg.leStatus l) = reg s (Reg.leStatus l) := by
  rcases pickoffLost_cases n s with e | ⟨c, e⟩
  · rw [e]
    exact ⟨w, rfl⟩
  · rw [e]
    obtain ⟨wp, hr⟩ := pickoffHold_regs w n c
    exact ⟨wp, hr _ (not_logArea_leStatus hl) (leStatus_ne_tfFlags hn l)⟩

theorem cfgOf_pickoffLost (n : Nat) (s : State) (k : Nat) : cfgOf (pickoffLost n s) k = cfgOf s k := by
  rcases pickoffLost_cases n s with e | ⟨c, e⟩
  · rw [e]
  · rw [e, cfgOf, slotAt_pickoffHold, ← cfgOf, cfgOf_modReck]

theorem slotAt_pickoffLost_ne (h : k ≠ n) (s : State) : slotAt (pickoffLost n s) k = slotAt s k := by
  rcases pickoffLost_cases n s with e | ⟨c, e⟩
  · rw [e]
  · rw [e, slotAt_pickoffHold, slotAt_modReck_ne h]

/-- A loop whose count towards lock begins anew. -/
def lockCountCleared (q : LoopState) : LoopState := { q with good := 0, bad := 0 }

/-- The loop's part of losing lock, before the slot that follows it hears of it. -/
def lockCleared (l : Nat) (s : State) : State :=
  setBit (Reg.leFlags l) lfLockLost true (setBit (Reg.leStatus l) 4 false (modLoop l lockCountCleared s))

theorem lockCleared_outcome (w : s.regs.wf = true) (l : Nat) : (lockCleared l s).regs.wf = true ∧
    rbit (lockCleared l s) (Reg.leStatus l) 4 = false ∧ ∀ k, slotAt (lockCleared l s) k = slotAt s k := by
  have w1 : (modLoop l lockCountCleared s).regs.wf = true := by rwa [modLoop_regs]
  have w2 := setBit_wf w1 (Reg.leStatus l) 4 false
  have hne : Reg.leStatus l ≠ Reg.leFlags l := by simp only [Reg.leStatus, Reg.leFlags]; omega
  refine ⟨setBit_wf w2 _ _ _, ?_, fun k => ?_⟩
  · rw [lockCleared, setBit, rbit, reg_setFld_ne w2 _ _ _ hne, ← rbit, rbit_setBit_same w1 _ _ (by decide)]
  · rw [lockCleared, slotAt_setBit, slotAt_setBit, slotAt_modLoop]

theorem loseLock_unlocked (h : rbit s (Reg.leStatus l) 4 = false) :
    loseLock l s = modLoop l lockCountCleared s :=
  if_neg (h ▸ Bool.false_ne_true)

theorem loseLock_locked (h : rbit s (Reg.leStatus l) 4 = true) :
    loseLock l s = lockCleared l s ∨ ∃ k, k < 8 ∧ loseLock l s = pickoffLost k (lockCleared l s) := by
  rw [loseLock, if_pos h]
  dsimp only
  split
  · next k hk =>
    obtain ⟨hp, -⟩ := Option.filter_eq_some_iff.1 hk
    exact .inr ⟨k, lt_of_slotOnPort hp, rfl⟩
  · exact .inl rfl

/-- A loop that loses lock leaves a slot in LOCKED, or makes it hold for the loss. -/
theorem loseLock_outcome (w : s.regs.wf = true) (hl : l < 128) (hc : cfgOf s n = some c) (hsrc : c.phse.source = 2)
    (hst : (reckOf s n).st = .locked) :
    (loseLock l s).regs.wf = true ∧ rbit (loseLock l s) (Reg.leStatus l) 4 = false ∧ cfgOf (loseLock l s) n = some c ∧
      ((reckOf (loseLock l s) n).st = .locked ∨ PickoffHeld n c (loseLock l s)) := by
  cases hb : rbit s (Reg.leStatus l) 4 with
  | false =>
    have hslot := slotAt_modLoop l lockCountCleared s n
    rw [loseLock_unlocked hb]
    refine ⟨by rwa [modLoop_regs], by rw [rbit, reg_modLoop, ← rbit, hb], ?_, .inl ?_⟩
    · rw [cfgOf, hslot, ← cfgOf, hc]
    · rw [reckOf, hslot, ← reckOf, hst]
  | true =>
    obtain ⟨w1, hbit, hslots⟩ := lockCleared_outcome w l
    have hc1 : cfgOf (lockCleared l s) n = some c := (congrArg SlotState.cfg (hslots n)).trans hc
    have hst1 : (reckOf (lockCleared l s) n).st = .locked := (congrArg (·.reck.st) (hslots n)).trans hst
    rcases loseLock_locked hb with e | ⟨k, hk, e⟩
    · rw [e]
      exact ⟨w1, hbit, hc1, .inl hst1⟩
    · obtain ⟨w2, hreg⟩ := pickoffLost_leStatus w1 hk hl
      rw [e]
      refine ⟨w2, by rw [rbit, hreg, ← rbit, hbit], (cfgOf_pickoffLost k _ n).trans hc1, ?_⟩
      by_cases hkn : n = k
      · subst hkn
        exact .inr (pickoffHeld_pickoffLost w1 hc1 hsrc (.inl hst1))
      · rw [reckOf, slotAt_pickoffLost_ne hkn]
        exact .inl hst1

theorem lt_of_axisLoop {p a : Nat} (h : axisLoop s p a = some l) : l < 128 :=
  List.mem_range.1 (List.mem_of_find?_eq_some h)

theorem pickoffGone_axisless (hc : cfgOf s n = some c) (hsrc : c.phse.source = 2) (hst : (reckOf s n).st = .locked)
    (ha : axisLoop s c.slot.port c.phse.input = none) : pickoffGone n s = pickoffLost n s := by
  rw [pickoffGone, hc]
  dsimp only
  rw [if_neg (not_or.2 ⟨not_not.2 hsrc, not_not.2 hst⟩), ha]

theorem pickoffGone_axis (hc : cfgOf s n = some c) (hsrc : c.phse.source = 2) (hst : (reckOf s n).st = .locked)
    (ha : axisLoop s c.slot.port c.phse.input = some l) : pickoffGone n s =
      if overdue s l (loopAt s l).estT ∨ ¬ rbit s (Reg.leStatus l) 4 then pickoffLost n (loseLock l s) else s := by
  rw [pickoffGone, hc]
  dsimp only
  rw [if_neg (not_or.2 ⟨not_not.2 hsrc, not_not.2 hst⟩), ha]

theorem exec_pickoffLost (hup : upNow s = true) (n : Slot) : exec (.pickoffLost n) s = .next (pickoffGone n.val s) :=
  congrArg Host.Outcome.next (if_pos hup)

/-! ## REALIGN (R62, R63) -/

theorem exec_realign {n : Slot} (ho : hostOpen s (Reg.tfCtrl n.val) = true) (v : Word) :
    exec (.realign n v) s = .next (tfCtrl n.val v s) :=
  congrArg Host.Outcome.next (hostWrite_open ho v _)

theorem tfCtrl_realign {v : Word} (hv : bit v 0 = true) (hc : cfgOf s n = some c) : tfCtrl n v s =
    if c.phse.source = 0 then
      (if projects (reckOf s n) then enterAcquire n (setReg (Reg.tfCtrl n) (v &&& 0x32) s) else setReg (Reg.tfCtrl n) (v &&& 0x32) s)
    else modReck n (fun r => { r with realign := true }) (setReg (Reg.tfCtrl n) (v &&& 0x32) s) := by
  rw [tfCtrl, if_neg (not_not.2 hv), hc]

/-! ## Room in a lane (R76) -/

theorem waitOf_withLane (q : Lanes) (k : Lane) (xs ws : List (BitVec 64)) : waitOf (withLane q k xs ws) k = ws := by
  cases k <;> rfl

theorem laneOf_withLane (q : Lanes) (k : Lane) (xs ws : List (BitVec 64)) : laneOf (withLane q k xs ws) k = xs := by
  cases k <;> rfl

theorem slotAt_laneRoom {k : Lane} {e : BitVec 64} {ws : List (BitVec 64)} (hn : n < 8)
    (hw : waitOf (slotAt s n).lanes k = e :: ws) (hr : (laneOf (slotAt s n).lanes k).length < laneCap k) :
    slotAt (laneRoom n k s) n =
      { slotAt s n with lanes := withLane (slotAt s n).lanes k (laneOf (slotAt s n).lanes k ++ [e]) ws } := by
  rw [laneRoom, slotAt_modSlot_same hn, hw]
  exact if_pos hr

theorem exec_laneRoomInsert (hup : upNow s = true) (n : Slot) (k : Lane) :
    exec (.laneRoomInsert n k) s = .next (laneRoom n.val k s) :=
  congrArg Host.Outcome.next (if_pos hup)

theorem exec_measuredPoint {n : Slot} (hup : upNow s = true) (hc : cfgOf s n.val = some c)
    (hst : (reckOf s n.val).st = .locked) (phi : PhaseWord) (t : LinkTime) (omega : BitVec 40) (beta : BitVec 64) :
    exec (.measuredPoint n phi t omega beta) s = .next (modReck n.val (setNext phi t omega beta) s) := by
  have hd : declared s n.val = true := by rw [declared, hc, Option.isSome_some]
  exact congrArg Host.Outcome.next ((if_pos hup).trans (if_pos ⟨hd, hst⟩))

end

/-- Settles O31: what each command does at its slot, by the slot's state; a SYNC edge reaches each follower once, on the state
it had before the edge. -/
theorem phaseReferences : Obligations.PhaseReferences := by
  refine ⟨fun s m f t w hup => ?_, fun s n c w hc => ⟨fun phi t omega beta hup hst => ?_, fun hup hsrc hst => ⟨fun hp => ⟨fun h0 => ?_,
    fun h1 => ?_⟩, fun hp => ?_⟩, fun hup hsrc hst => ⟨fun l ha hlost => ?_, fun ha => ?_, fun l ha hin hlock => ?_⟩,
    fun v ho hv => ⟨fun hsrc => ?_, fun hsrc hp => ?_⟩, fun k e ws hup hw hr => ?_⟩⟩
  · obtain ⟨wr, -⟩ := State.wf_iff.1 w
    exact ⟨_, exec_syncEdge hup m f t, reg_edgeSpread wr m.val f t, fun n =>
      ⟨fun h => slotAt_edgeSpread_absent h t, fun c hc h => edgeTaken_edgeSpread wr hc h t⟩⟩
  all_goals
    obtain ⟨wr, -⟩ := State.wf_iff.1 w
    have hn := n.isLt
  · exact ⟨_, exec_measuredPoint hup hc hst phi t omega beta, reckOf_modReck_same hn _ s, modReck_regs _ _ s,
      fun k hk => slotAt_modReck_ne hk _ s⟩
  · refine ⟨_, exec_syncMissed hup n, ?_⟩
    rw [syncMissed_passed hc hsrc hst hp, if_neg (by omega), reckOf_edgeSkipped hn]
    exact ⟨rfl, rfl, (edgeSkipped_count wr n.val c).2⟩
  · refine ⟨_, exec_syncMissed hup n, ?_⟩
    rw [syncMissed_passed hc hsrc hst hp, if_pos (by omega)]
    exact syncLost_outcome (edgeSkipped_count wr n.val c).1 hn c
  · rw [exec_syncMissed hup, syncMissed_early hc hp]
  · refine ⟨_, exec_pickoffLost hup n, ?_⟩
    have hl := lt_of_axisLoop ha
    have hgone : overdue s l (loopAt s l).estT = true ∨ ¬ rbit s (Reg.leStatus l) 4 = true :=
      hlost.imp_right fun h => by rw [h]; exact Bool.false_ne_true
    obtain ⟨wu, hbit, hcu, hu⟩ := loseLock_outcome wr hl hc hsrc hst
    obtain ⟨hhold, hlog, hflag⟩ := pickoffHeld_pickoffLost wu hcu hsrc hu
    rw [pickoffGone_axis hc hsrc hst ha, if_pos hgone]
    exact ⟨hhold, hlog, hflag, by rw [rbit, (pickoffLost_leStatus wu hn hl).2, ← rbit, hbit]⟩
  · refine ⟨_, exec_pickoffLost hup n, ?_⟩
    rw [pickoffGone_axisless hc hsrc hst ha]
    exact pickoffHeld_pickoffLost wr hc hsrc (.inl hst)
  · have hin' : ¬ (overdue s l (loopAt s l).estT = true ∨ ¬ rbit s (Reg.leStatus l) 4 = true) :=
      not_or.2 ⟨hin ▸ Bool.false_ne_true, not_not.2 hlock⟩
    rw [exec_pickoffLost hup, pickoffGone_axis hc hsrc hst ha, if_neg hin']
  · refine ⟨_, exec_realign ho v, ?_⟩
    rw [tfCtrl_realign hv hc, if_neg hsrc]
    refine ⟨by rw [reckOf_modReck_same hn], ?_, fun a ha => ?_⟩
    · rw [reg_modReck, reg_setReg_same wr]
    · rw [reg_modReck, reg_setReg_ne wr _ ha]
  · refine ⟨_, exec_realign ho v, ?_⟩
    rw [tfCtrl_realign hv hc, if_pos hsrc, if_pos hp]
    exact reckOf_restReck hn true _
  · refine ⟨_, exec_laneRoomInsert hup n k, ?_⟩
    rw [slotAt_laneRoom hn hw hr]
    exact ⟨waitOf_withLane _ k _ ws, laneOf_withLane _ k _ ws, modSlot_regs _ _ s, fun j hj => slotAt_modSlot_ne hj _ s⟩

end Sys2Proof.Machine
end

section
/-! PROOFS. Copies of pitches, and what makes everything pending active at once: what a commit carries, and what a mode change and
the hand-back of sources leave of it (R94, R145, R148, R153, R163). -/

set_option Elab.async false

namespace Sys2Proof.Machine

section
variable {s t u : State} {n : Nat}

/-! ## Active words (R94) -/

theorem actW_setActW_same (w : s.pitchAct.wf = true) (p i : Nat) (v : Word) : actW (setActW p i v s) p i = v :=
  SMap.get_set_same (SMap.wf_rising w)

theorem actW_setActW_ne (w : s.pitchAct.wf = true) {p q i j : Nat} (h : 16 * q + j ≠ 16 * p + i) (v : Word) :
    actW (setActW p i v s) q j = actW s q j :=
  SMap.get_set_ne (SMap.wf_rising w) h

theorem setActW_wf (w : s.pitchAct.wf = true) (p i : Nat) (v : Word) : (setActW p i v s).pitchAct.wf = true :=
  SMap.wf_set _ v w

theorem pendW_of_regs (h : t.regs = s.regs) (p i : Nat) : pendW t p i = pendW s p i := by rw [pendW, reg, h]; rfl

/-- Copying the words of a list changes those of this pitch alone, to what is pending. -/
theorem actW_copyWords (p q : Nat) {j : Nat} (hj : j < 16) {l : List Nat} (hl : ∀ i ∈ l, i < 16) (w : s.pitchAct.wf = true) :
    actW (forAll l (fun i u => setActW p i (pendW u p i) u) s) q j = if q = p ∧ j ∈ l then pendW s p j else actW s q j := by
  induction l generalizing s with
  | nil => simp [forAll]
  | cons i l ih =>
    obtain ⟨hi, hl⟩ := List.forall_mem_cons.1 hl
    have step := ih hl (setActW_wf w p i (pendW s p i))
    rw [pendW_of_regs (s := s) (t := setActW p i (pendW s p i) s) rfl] at step
    refine step.trans ?_
    by_cases hm : q = p ∧ j ∈ l
    · rw [if_pos hm, if_pos ⟨hm.1, List.mem_cons_of_mem _ hm.2⟩]
    · rw [if_neg hm]
      by_cases he : q = p ∧ j = i
      · obtain ⟨rfl, rfl⟩ := he
        rw [if_pos ⟨rfl, List.mem_cons_self ..⟩, actW_setActW_same w]
      · rw [if_neg fun h => (List.mem_cons.1 h.2).elim (fun e => he ⟨h.1, e⟩) fun e => hm ⟨h.1, e⟩,
          actW_setActW_ne w (by omega)]

/-- A pitch that is copied holds what was pending; every other one keeps its active words. -/
theorem actW_copyPitch (w : s.pitchAct.wf = true) (p q : Nat) {j : Nat} (hj : j < 15) :
    actW (copyPitch p s) q j = if q = p then pendW s p j else actW s q j := by
  have h := actW_copyWords (s := s) p q (j := j) (by omega) (l := List.range 15) (fun i hi => by have := List.mem_range.1 hi; omega) w
  rw [copyPitch, h]
  simp only [List.mem_range, hj, and_true]

/-! ## Layers that apply (R145, R149) -/

/-- The kinds of state that layers change as they apply. -/
def layerKinds : List Kind := [.pitchAct, .slots]

theorem actW_applyLayer (w : s.pitchAct.wf = true) (c : SlotCast) (k q : Nat) {j : Nat} (hj : j < 15) :
    actW (applyLayer n c k s) q j = if q = layerPitch c k then pendW s (layerPitch c k) j else actW s q j := by
  rw [← actW_copyPitch w _ _ hj, applyLayer, actW, modSlot_pitchAct, actW]

/-- Once a layer of a list has applied, the words of its pitch that were pending stay active to the list's end. -/
theorem actW_applyLayers_mem {c : SlotCast} {k : Nat} {l : List Nat} (hk : k ∈ l) (w : s.wf = true) {j : Nat} (hj : j < 15) :
    actW (forAll l (applyLayer n c) s) (layerPitch c k) j = pendW s (layerPitch c k) j := by
  obtain ⟨a, b, rfl⟩ := List.append_of_mem hk
  have hsplit : forAll (a ++ k :: b) (applyLayer n c) s = forAll b (applyLayer n c) (applyLayer n c k (forAll a (applyLayer n c) s)) :=
    List.foldl_append
  have step (i : Nat) (u : State) (h : Keeps layerKinds s u) : Keeps layerKinds s (applyLayer n c i u) :=
    keeps_applyLayer (List.Subset.refl _) n c i h
  have words {u : State} (h : Keeps layerKinds s u) : u.pitchAct.wf = true ∧ ∀ p i, pendW u p i = pendW s p i :=
    ⟨(State.wf_iff.1 (h.2.2.2.1 w)).2.1, pendW_of_regs (h.same (k := .regs) (by decide))⟩
  have ha : Keeps layerKinds s (forAll a (applyLayer n c) s) := keeps_forAll a _ (fun i u => step i u) (.refl _ s)
  obtain ⟨wa, pa⟩ := words ha
  rw [hsplit]
  refine (List.foldlRecOn (motive := fun u => Keeps layerKinds s u ∧ actW u (layerPitch c k) j = pendW s (layerPitch c k) j) b _
    ⟨step k _ ha, ?_⟩ fun u hu i _ => ⟨step i u hu.1, ?_⟩).2
  · rw [actW_applyLayer wa c k _ hj, if_pos rfl, pa]
  · obtain ⟨wu, pu⟩ := words hu.1
    rw [actW_applyLayer wu c i _ hj]
    split
    · next e => rw [pu, e]
    · exact hu.2

/-! ## A slot's settings -/

/-- What a commit makes active in a slot beside its pitches, and what then is pending no more. -/
def SlotState.settings (q : SlotState) : Option PendCommit × List Nat × Word × List Nat × Word :=
  (q.commit, q.deferred, q.bg, q.order, q.wb)

/-- From s to t every slot keeps its settings. -/
def SettingsKept (s t : State) : Prop := ∀ k, (slotAt t k).settings = (slotAt s k).settings

theorem SettingsKept.refl (s : State) : SettingsKept s s := fun _ => rfl

theorem SettingsKept.ofSlots (h : SettingsKept s t) (he : u.slots = t.slots) : SettingsKept s u :=
  fun k => by rw [slotAt, he]; exact h k

theorem SettingsKept.keep (h : SettingsKept s t) (k : Keeps otherKinds t t → Keeps otherKinds t u) : SettingsKept s u :=
  h.ofSlots ((k (.refl _ t)).same (k := .slots) (by decide))

theorem SettingsKept.modSlot (h : SettingsKept s t) (n : Nat) (f : SlotState → SlotState)
    (hf : ∀ q, (f q).settings = q.settings := by exact fun _ => rfl) : SettingsKept s (modSlot n f t) := by
  intro k
  rw [← h k]
  by_cases hk : k = n
  · subst hk
    by_cases h8 : k < 8
    · rw [slotAt_modSlot_same h8, hf]
    · rw [Machine.modSlot, dif_neg h8]
  · rw [slotAt_modSlot_ne hk]

theorem SettingsKept.forAll (h : SettingsKept s t) (l : List Nat) {f : Nat → State → State}
    (hf : ∀ i u, SettingsKept s u → SettingsKept s (f i u)) : SettingsKept s (forAll l f t) :=
  List.foldlRecOn l _ h fun u hu x _ => hf x u hu

theorem SettingsKept.applyLayer (h : SettingsKept s t) (n : Nat) (c : SlotCast) (k : Nat) : SettingsKept s (applyLayer n c k t) :=
  (h.keep (keeps_copyPitch (by decide) _)).modSlot n _

theorem SettingsKept.computeTraj (h : SettingsKept s t) (n : Nat) : SettingsKept s (computeTraj n t) := by
  unfold Machine.computeTraj
  split
  · exact h
  · split
    · exact h
    · extract_lets p nf ns f bad s1 s2
      have h1 : SettingsKept s s1 := h.ofSlots rfl
      have h2 : SettingsKept s s2 := h1.modSlot n _
      have h3 : SettingsKept s (setBit (Reg.lbFlags n) 2 true s2) := h2.ofSlots rfl
      split
      · exact h3.keep (keeps_logEvent (by decide) _ _ _ _)
      · exact h2

theorem SettingsKept.setMode (h : SettingsKept s t) (n m : Nat) : SettingsKept s (setMode n m t) :=
  ((((h.modSlot n _).ofSlots (setFld_slots _ _ _ _ _)).keep (keeps_showLoad (by decide) _)).keep
    (keeps_revalidate (by decide) _)).computeTraj n

theorem SettingsKept.releaseSources (h : SettingsKept s t) (n : Nat) : SettingsKept s (releaseSources n t) :=
  ((h.forAll _ fun _ _ hu => hu.modSlot _ _).keep (keeps_handBackDev (by decide) _)).forAll _ fun _ _ hu =>
    hu.ofSlots (raiseVec_slots _ _)

/-! ## What was pending applies at once (R148) -/

/-- With no scene and no table waiting, what applies at once on a slot that does not project is the commit; its mode and the
hand-back of sources leave what it made active. -/
theorem applyAtOnce_commit {c : SlotCast} {k : PendCommit} (hc : cfgOf s n = some c) (hp : projects (reckOf s n) = false)
    (hsw : (slotAt s n).swaps = []) (hdue : (slotAt s n).hall.due = none) (hk : (slotAt s n).commit = some k) :
    SettingsKept (applyWhole n c s) (applyAtOnce n s) ∧ (applyAtOnce n s).pitchAct = (applyWhole n c s).pitchAct := by
  have hswaps : applyAllSwaps n s = s := by rw [applyAllSwaps, hsw]; rfl
  have hscene : applyScene n s = s := by rw [applyScene, hdue]
  have kept {u : State} (h : SettingsKept (applyWhole n c s) u) (ha : u.pitchAct = (applyWhole n c s).pitchAct) :
      SettingsKept (applyWhole n c s) (releaseSources n u) ∧ (releaseSources n u).pitchAct = (applyWhole n c s).pitchAct :=
    ⟨h.releaseSources n, ((keeps_releaseSources (List.Subset.refl _) n (.refl _ u)).same (k := .pitchAct) (by decide)).trans ha⟩
  rw [applyAtOnce, hc]
  dsimp only
  rw [hswaps, hscene, hk]
  dsimp only
  cases k.mode with
  | none => exact kept (.refl _) rfl
  | some m =>
    have hr : ReckKept s (setMode n m (applyWhole n c s)) := ((ReckKept.refl s).applyWhole n c).setMode n m
    dsimp only
    rw [retuneFree_resting (by rw [hr n, hp])]
    exact kept ((SettingsKept.refl _).setMode n m) ((keeps_setMode (List.Subset.refl _) n m (.refl _ _)).same (k := .pitchAct) (by decide))

/-- A pitch's word is not the status of a slot's scan-out. -/
theorem pitch_ne_soStatus {p : Nat} (hp : p < 3072) {w : Nat} (hw : w < 16) (n : Nat) : Reg.pitch p w ≠ Reg.soStatus n := by
  simp only [Reg.pitch, Reg.soStatus, Reg.so]; omega

/-- The settings of a slot all of whose pending copies have become active. -/
def appliedSettings (s : State) (n : Nat) (c : SlotCast) : Option PendCommit × List Nat × Word × List Nat × Word :=
  (none, [], reg s (pxBg s n), if c.pipe.blend = 1 then pendOrder s n else c.pipe.order, reg s (Reg.soWb n))

theorem commitApplied_iff {c : SlotCast} : CommitApplied s t n c ↔ (slotAt t n).settings = appliedSettings s n c ∧
    ∀ k ∈ layerCodes c, layerPitch c k < 3072 → ∀ w < 15, actW t (layerPitch c k) w = pendW s (layerPitch c k) w := by
  simp only [CommitApplied, SlotState.settings, appliedSettings, Prod.mk.injEq, and_assoc]

/-- What a commit carries beside its layers is active, and no pitch's pending word has changed (R145). -/
theorem applyOthers_outcome (w : s.wf = true) (hn : n < 8) (c : SlotCast) : (applyOthers n c s).wf = true ∧
    (∀ p < 3072, ∀ i < 16, pendW (applyOthers n c s) p i = pendW s p i) ∧
    (slotAt (applyOthers n c s) n).settings =
      (none, (slotAt s n).deferred, reg s (pxBg s n), if c.pipe.blend = 1 then pendOrder s n else c.pipe.order, reg s (Reg.soWb n)) := by
  unfold applyOthers
  extract_lets carried
  have hcarried : Keeps layerKinds s carried := keeps_modSlot (by decide) n _ (.refl _ s)
  have hcopied : Keeps [.pitchAct] carried (forAll (hostMasks carried c) copyPitch carried) :=
    keeps_forAll _ _ (fun p _ => keeps_copyPitch (List.Subset.refl _) p) (.refl _ carried)
  have hslots : (forAll (hostMasks carried c) copyPitch carried).slots = carried.slots := hcopied.same (k := .slots) (by decide)
  have hregs : (forAll (hostMasks carried c) copyPitch carried).regs = s.regs :=
    (hcopied.same (k := .regs) (by decide)).trans (hcarried.same (k := .regs) (by decide))
  have wcopied := hcopied.2.2.2.1 (hcarried.2.2.2.1 w)
  refine ⟨(keeps_setFld (F := [.regs]) (by decide) _ _ _ _ (.refl _ _)).2.2.2.1 wcopied, fun p hp i hi => ?_, ?_⟩
  · rw [pendW, reg_setFld_ne (State.wf_iff.1 wcopied).1 _ _ _ (pitch_ne_soStatus hp hi n), reg, hregs]
    rfl
  · rw [slotAt, setFld_slots, hslots]
    change (slotAt carried n).settings = _
    rw [slotAt_modSlot_same hn]
    rfl

/-- A commit that applies whole makes everything pending active (R145, R148). -/
theorem commitApplied_applyWhole (w : s.wf = true) (hn : n < 8) (c : SlotCast) : CommitApplied s (applyWhole n c s) n c := by
  obtain ⟨wu, hpend, hset⟩ := applyOthers_outcome w hn c
  have hlayers : SettingsKept (applyOthers n c s) (forAll (layerCodes c) (applyLayer n c) (applyOthers n c s)) :=
    (SettingsKept.refl _).forAll _ fun k _ hu => hu.applyLayer n c k
  have hshow : Keeps [.regs] (modSlot n (fun q => { q with deferred := [] })
      (forAll (layerCodes c) (applyLayer n c) (applyOthers n c s))) (applyWhole n c s) := keeps_showDefer (by decide) n (.refl _ _)
  refine commitApplied_iff.2 ⟨?_, fun k hk hp i hi => ?_⟩
  · have hl := (hlayers n).trans hset
    simp only [SlotState.settings, Prod.mk.injEq] at hl
    obtain ⟨hcommit, -, hbg, horder, hwb⟩ := hl
    rw [slotAt, hshow.same (k := .slots) (by decide)]
    change (slotAt (modSlot n _ _) n).settings = _
    rw [slotAt_modSlot_same hn]
    simp only [SlotState.settings, appliedSettings, hcommit, hbg, horder, hwb]
  · rw [actW, hshow.same (k := .pitchAct) (by decide), modSlot_pitchAct]
    exact (actW_applyLayers_mem hk wu hi).trans (hpend _ hp i (by omega))

/-- What is pending for a slot that does not project becomes active at once, with no scene and no table waiting (R148). -/
theorem commitApplied_applyAtOnce {c : SlotCast} {k : PendCommit} (w : s.wf = true) (hc : cfgOf s n = some c)
    (hp : projects (reckOf s n) = false) (hsw : (slotAt s n).swaps = []) (hdue : (slotAt s n).hall.due = none)
    (hk : (slotAt s n).commit = some k) : CommitApplied s (applyAtOnce n s) n c := by
  obtain ⟨hkept, hact⟩ := applyAtOnce_commit hc hp hsw hdue hk
  obtain ⟨hset, hwords⟩ := commitApplied_iff.1 (commitApplied_applyWhole w (lt_of_cfg hc) c)
  refine commitApplied_iff.2 ⟨(hkept n).trans hset, fun i hi hl j hj => ?_⟩
  rw [actW, hact]
  exact hwords i hi hl j hj

end

end Sys2Proof.Machine
end

section
/-! PROOFS. Writes of SOn_CTRL: a GO that is pending, that applies at once, that is rejected or dropped, and CANCEL (R145 to R148,
R152, R155, R156). -/

set_option Elab.async false

namespace Sys2Proof.Machine

section
variable {s t : State} {n : Nat} {c : SlotCast} {mode : Option Nat}

theorem not_logArea_so (hn : n < 8) {o : Nat} (ho : o < 0x100) : ¬ logArea (Reg.so n + o) := by
  simp only [logArea, Reg.so, Reg.msixPba, Reg.frLogStat, Reg.frFault, Reg.frLog]; omega

/-! ## CANCEL (R147, R152) -/

/-- From s to t nothing has happened to slot n but that its commit and its deferrals may be withdrawn. -/
structure Withdrawn (n : Nat) (s t : State) : Prop where
  wf : t.wf = true
  slot : slotAt t n = { slotAt s n with commit := (slotAt t n).commit, deferred := (slotAt t n).deferred }
  others : ∀ k, k ≠ n → slotAt t k = slotAt s k
  pitchAct : t.pitchAct = s.pitchAct
  linkTime : t.linkTime = s.linkTime

theorem Withdrawn.refl (w : s.wf = true) : Withdrawn n s s := ⟨w, rfl, fun _ _ => rfl, rfl, rfl⟩

theorem Withdrawn.cfg (h : Withdrawn n s t) : cfgOf t n = cfgOf s n := by rw [cfgOf, h.slot]; rfl

theorem Withdrawn.reck (h : Withdrawn n s t) : reckOf t n = reckOf s n := by rw [reckOf, h.slot]; rfl

theorem Withdrawn.waitFor (h : Withdrawn n s t) : waitFor t n = waitFor s n := by
  have hlatch : latchPassed t n = latchPassed s n := by rw [latchPassed, h.slot, now, h.linkTime]; rfl
  rw [Machine.waitFor, h.reck, hlatch]; rfl

/-- CANCEL withdraws the commit with its deferrals, and shows so; every other word and slot stays. -/
theorem cancelCommit_outcome (w : s.wf = true) (hn : n < 8) :
    Withdrawn n s (cancelCommit n s) ∧
    slotAt (cancelCommit n s) n = { slotAt s n with commit := none, deferred := [] } ∧
    rfld (cancelCommit n s) (Reg.soStatus n) 1 0 = 0 ∧ rbit (cancelCommit n s) (Reg.soStatus n) 2 = false ∧
    reg (cancelCommit n s) (Reg.soDefer n) = 0 ∧
    ∀ a, a ≠ Reg.soStatus n → a ≠ Reg.soDefer n → reg (cancelCommit n s) a = reg s a := by
  have hkeeps : Keeps [.regs, .slots] s (cancelCommit n s) := keeps_cancelCommit (List.Subset.refl _) n (.refl _ s)
  let emptied : State := modSlot n (fun q => { q with commit := none, deferred := [] }) s
  let shown : State := setFld (Reg.soStatus n) 1 0 0 emptied
  have hempty : slotAt emptied n = { slotAt s n with commit := none, deferred := [] } := slotAt_modSlot_same hn _ s
  have hcancel : cancelCommit n s = setBit (Reg.soStatus n) 2 false (setReg (Reg.soDefer n) 0 shown) := by
    have hd : (slotAt shown n).deferred = [] := by
      change (slotAt emptied n).deferred = []
      rw [hempty]
    change showDefer n shown = _
    rw [showDefer, hd]
    rfl
  have wr : emptied.regs.wf = true := by rw [modSlot_regs]; exact (State.wf_iff.1 w).1
  have w1 : shown.regs.wf = true := setFld_wf wr _ _ _ _
  have w2 := setReg_wf w1 (Reg.soDefer n) 0
  have hne : Reg.soStatus n ≠ Reg.soDefer n := by simp only [Reg.soStatus, Reg.soDefer]; omega
  have hslot : slotAt (cancelCommit n s) n = { slotAt s n with commit := none, deferred := [] } := by rw [hcancel]; exact hempty
  refine ⟨⟨hkeeps.2.2.2.1 w, by rw [hslot], fun k hk => ?_, hkeeps.same (k := .pitchAct) (by decide),
    hkeeps.same (k := .linkTime) (by decide)⟩, hslot, ?_, ?_, ?_, fun a ha hd => ?_⟩
  · rw [hcancel]
    exact slotAt_modSlot_ne hk _ s
  · rw [hcancel, setBit, rfld_setFld_out w2 _ _ (by omega) (by omega) (by omega) (by omega), rfld, reg_setReg_ne w1 _ hne]
    exact rfld_setFld_same wr _ _ (by omega) (by omega)
  · rw [hcancel, rbit_setBit_same w2 _ _ (by omega)]
  · rw [hcancel, setBit, reg_setFld_ne w2 _ _ _ hne.symm, reg_setReg_same w1]
  · rw [hcancel, setBit, reg_setFld_ne w2 _ _ _ ha, reg_setReg_ne w1 _ hd, reg_setFld_ne wr _ _ _ ha, reg, modSlot_regs]
    rfl

/-! ## GO -/

/-- GO beside a pending commit is dropped (R147). -/
theorem requestCommit_dropped (hc : cfgOf s n = some c) (hk : (slotAt s n).commit ≠ none) : requestCommit n mode s = pendWr n s := by
  rw [requestCommit, hc]
  exact if_pos (Option.isSome_iff_ne_none.2 hk)

/-- A commit that takes its place in slot n. -/
def pendCommit (n : Nat) (k : PendCommit) (s : State) : State := modSlot n (fun q => { q with commit := some k }) s

@[simp] theorem pendCommit_regs (n : Nat) (k : PendCommit) (s : State) : (pendCommit n k s).regs = s.regs := modSlot_regs _ _ s

@[simp] theorem reg_pendCommit (n : Nat) (k : PendCommit) (s : State) (a : Nat) : reg (pendCommit n k s) a = reg s a := by
  rw [reg, pendCommit_regs]; rfl

theorem slotAt_pendCommit (hn : n < 8) (k : PendCommit) (s : State) :
    slotAt (pendCommit n k s) n = { slotAt s n with commit := some k } := slotAt_modSlot_same hn _ s

/-- A commit that waits for its boundary, with its status, and its flag where it comes a boundary late (R149). -/
def commitWaits (n : Nat) (mode : Option Nat) (s : State) : State :=
  let shown := setFld (Reg.soStatus n) 1 0 (if (waitFor s n).2 then 3 else 1) (pendCommit n ⟨(waitFor s n).1, mode⟩ s)
  if (waitFor s n).2 then incSat (Reg.soCntA n) 31 16 (setBit (Reg.soFlags n) 0 true shown) else shown

/-- GO with no commit pending is rejected by its checks, applies at once or waits. -/
theorem requestCommit_free (hc : cfgOf s n = some c) (hk : (slotAt s n).commit = none) : requestCommit n mode s =
    if commitCause s n c mode ≠ 0 then rejectCommit n (commitCause s n c mode) s
    else if atOnce s n then applyAtOnce n (pendCommit n ⟨0, mode⟩ s) else commitWaits n mode s := by
  rw [requestCommit, hc]
  dsimp only
  rw [hk, Option.isSome_none, if_neg Bool.false_ne_true]
  rfl

/-- The commit of a slot that does not project carries everything pending (R148). -/
theorem commitApplied_requestCommit (w : s.wf = true) (hc : cfgOf s n = some c) (hk : (slotAt s n).commit = none)
    (hx : commitCause s n c mode = 0) (hp : projects (reckOf s n) = false) (hsw : (slotAt s n).swaps = [])
    (hdue : (slotAt s n).hall.due = none) : CommitApplied s (requestCommit n mode s) n c := by
  have hslot := slotAt_pendCommit (lt_of_cfg hc) ⟨0, mode⟩ s
  have wp : (pendCommit n ⟨0, mode⟩ s).wf = true := (keeps_modSlot (F := [.slots]) (List.Subset.refl _) n _ (.refl _ s)).2.2.2.1 w
  have hcfg : cfgOf (pendCommit n ⟨0, mode⟩ s) n = cfgOf s n := by rw [cfgOf, hslot]; rfl
  have hpx : pxBase (pendCommit n ⟨0, mode⟩ s) n = pxBase s n := by rw [pxBase, hcfg]; rfl
  have happ : CommitApplied (pendCommit n ⟨0, mode⟩ s) (applyAtOnce n (pendCommit n ⟨0, mode⟩ s)) n c :=
    commitApplied_applyAtOnce wp (hcfg.trans hc) (by rw [reckOf, hslot]; exact hp) (by rw [hslot]; exact hsw)
      (by rw [hslot]; exact hdue) (by rw [hslot])
  rw [requestCommit_free hc hk, if_neg (not_not.2 hx), if_pos (show atOnce s n = true by rw [atOnce, hp]; rfl)]
  simpa only [CommitApplied, pendOrder, rfld, pendW, reg_pendCommit, pxBg, pxOrder, hpx] using happ

/-- A commit that waits stands in its slot and in its status; the other slots and every active copy stay. -/
theorem commitWaits_outcome (w : s.regs.wf = true) (hn : n < 8) (mode : Option Nat) :
    slotAt (commitWaits n mode s) n = { slotAt s n with commit := some ⟨(waitFor s n).1, mode⟩ } ∧
    rfld (commitWaits n mode s) (Reg.soStatus n) 1 0 = (if (waitFor s n).2 then 3 else 1) ∧
    (∀ k, k ≠ n → slotAt (commitWaits n mode s) k = slotAt s k) ∧ (commitWaits n mode s).pitchAct = s.pitchAct := by
  unfold commitWaits
  extract_lets shown
  have wp : (pendCommit n ⟨(waitFor s n).1, mode⟩ s).regs.wf = true := by rw [pendCommit_regs]; exact w
  have wshown : shown.regs.wf = true := setFld_wf wp _ _ _ _
  have hslot : slotAt shown n = { slotAt s n with commit := some ⟨(waitFor s n).1, mode⟩ } := slotAt_pendCommit hn _ s
  have hothers : ∀ k, k ≠ n → slotAt shown k = slotAt s k := fun k h => slotAt_modSlot_ne h _ s
  have hact : shown.pitchAct = s.pitchAct := modSlot_pitchAct _ _ s
  have hstatus : rfld shown (Reg.soStatus n) 1 0 = if (waitFor s n).2 then 3 else 1 := by
    rw [rfld_setFld_same wp _ _ (by omega) (by omega)]
    split <;> rfl
  by_cases hlate : (waitFor s n).2 = true
  · rw [if_pos hlate]
    refine ⟨hslot, ?_, hothers, hact⟩
    rw [incSat, addSat, rfld_setFld_ne (setBit_wf wshown _ _ _) _ _ _ _ _ (by simp only [Reg.soStatus, Reg.soCntA]; omega), setBit,
      rfld_setFld_ne wshown _ _ _ _ _ (by simp only [Reg.soStatus, Reg.soFlags]; omega), hstatus]
  · rw [if_neg hlate]
    exact ⟨hslot, hstatus, hothers, hact⟩

/-- A rejected commit leaves every slot, and its cause, flag and log entry stand (R156). -/
theorem rejectCommit_outcome (w : s.wf = true) (hn : n < 8) (cause : Nat) :
    (rejectCommit n cause s).slots = s.slots ∧ rfld (rejectCommit n cause s) (Reg.soStatus n) 19 16 = cause % 16 ∧
    rbit (rejectCommit n cause s) (Reg.soFlags n) 1 = true ∧
    newestLog (rejectCommit n cause s) = logWord .COMMIT_REJECTED clsHost 0 := by
  have wr := (State.wf_iff.1 w).1
  let shown : State := setFld (Reg.soStatus n) 19 16 cause s
  let flagged : State := setBit (Reg.soFlags n) 1 true shown
  let counted : State := incSat (Reg.soCntA n) 15 0 flagged
  let logged : State := logEvent .COMMIT_REJECTED clsHost 0 (cause * 65536 + n) counted
  have w1 : shown.regs.wf = true := setFld_wf wr _ _ _ _
  have w2 : flagged.regs.wf = true := setBit_wf w1 _ _ _
  have w3 : counted.regs.wf = true := setFld_wf w2 _ _ _ _
  obtain ⟨w4, hlog⟩ := logEvent_regs w3 .COMMIT_REJECTED clsHost 0 (cause * 65536 + n)
  obtain ⟨-, hvec⟩ := raiseVec_regs w4 (4 + n)
  have hkept {o : Nat} (ho : o < 0x100) (hA : Reg.so n + o ≠ Reg.soCntA n) :
      reg (raiseVec (4 + n) logged) (Reg.so n + o) = reg flagged (Reg.so n + o) :=
    ((hvec _ (by simp only [Reg.so, Reg.msixPba]; omega)).trans (hlog _ (not_logArea_so hn ho))).trans (reg_setFld_ne w2 _ _ _ hA)
  have hS : reg (raiseVec (4 + n) logged) (Reg.soStatus n) = reg flagged (Reg.soStatus n) :=
    hkept (o := 4) (by omega) (by simp only [Reg.soCntA]; omega)
  have hF : reg (raiseVec (4 + n) logged) (Reg.soFlags n) = reg flagged (Reg.soFlags n) :=
    hkept (o := 8) (by omega) (by simp only [Reg.soCntA]; omega)
  change (raiseVec (4 + n) logged).slots = s.slots ∧ rfld (raiseVec (4 + n) logged) _ 19 16 = _ ∧
    rbit (raiseVec (4 + n) logged) _ 1 = _ ∧ newestLog (raiseVec (4 + n) logged) = _
  refine ⟨?_, ?_, ?_, ?_⟩
  · exact (raiseVec_slots _ _).trans
      ((keeps_logEvent (F := [.regs, .out, .fr]) (by decide) _ _ _ _ (.refl _ counted)).same (k := .slots) (by decide))
  · rw [rfld, hS]
    exact (rfld_setFld_ne w1 _ _ _ _ _ (by simp only [Reg.soStatus, Reg.soFlags]; omega)).trans
      (rfld_setFld_same wr _ _ (by omega) (by omega))
  · rw [rbit, hF]
    exact rbit_setBit_same w1 _ _ (by omega)
  · rw [newestLog_raisedVec w4 (by omega)]
    exact logEvent_newest w3 _ _ _ _

/-! ## The write -/

/-- COMMIT, MODE_CHANGE_REQUEST and CANCEL are writes of SOn_CTRL. -/
theorem exec_soCtrl {n : Slot} {v : Word} {i : Instr} (ho : hostOpen s (Reg.soCtrl n.val) = true)
    (hi : i = .commit n v ∨ i = .modeChangeRequest n v ∨ i = .cancel n v) : exec i s = .next (soCtrl n.val v s) := by
  rcases hi with rfl | rfl | rfl
  all_goals exact congrArg Host.Outcome.next (hostWrite_open ho v _)

/-- A write with GO set is a request after what CANCEL has left (log entry 33). -/
theorem soCtrl_go {v : Word} (h : bit v 0 = true) (n : Nat) (s : State) : soCtrl n v s =
    requestCommit n (if bit v 2 then some (fld v 7 6) else none) (if bit v 1 then cancelCommit n s else s) := if_pos h

theorem soCtrl_cancel {v : Word} (h0 : bit v 0 = false) (h1 : bit v 1 = true) (n : Nat) (s : State) :
    soCtrl n v s = cancelCommit n s := by
  rw [soCtrl, if_pos h1, h0]; rfl

theorem soCtrl_neither {v : Word} (h0 : bit v 0 = false) (h1 : bit v 1 = false) (n : Nat) (s : State) : soCtrl n v s = s := by
  rw [soCtrl, h0, h1]; rfl

end

/-- Settles O32: what CANCEL leaves of a slot is what the checks and the wait of a GO read (log entry 33), and a commit that applies
at once carries every layer's pending words. -/
theorem commitRequests : Obligations.CommitRequests := by
  intro s n v c mode s1 i w hc ho hi hmode hs1
  have hn := n.isLt
  obtain ⟨hcancelled, hslot, hpending, hdeferral, hdefer, hregs⟩ := cancelCommit_outcome w hn
  have h1 : Withdrawn n.val s s1 := by rw [hs1]; split; exacts [hcancelled, .refl w]
  have hc1 : cfgOf s1 n.val = some c := h1.cfg.trans hc
  have hexec := exec_soCtrl ho hi
  have hgo (hv : bit v 0 = true) : exec i s = .next (requestCommit n.val mode s1) := by rw [hexec, soCtrl_go hv, ← hmode, ← hs1]
  refine ⟨fun hv hk hx => ⟨fun hp => ?_, fun hp hsw hdue _ => ?_⟩, fun hv hk hx => ?_, fun hv hv1 hk => ?_, fun hv hv1 => ?_,
    fun hv hv1 => ?_⟩
  · obtain ⟨hcommit, hstatus, hothers, hact⟩ := commitWaits_outcome (State.wf_iff.1 h1.wf).1 hn mode
    have hlater : ¬ atOnce s1 n.val = true := by rw [atOnce, h1.reck, hp]; exact Bool.false_ne_true
    have hwaits : requestCommit n.val mode s1 = commitWaits n.val mode s1 := by
      rw [requestCommit_free hc1 hk, if_neg (not_not.2 hx), if_neg hlater]
    rw [h1.waitFor] at hcommit hstatus
    refine ⟨_, hgo hv, ?_⟩
    rw [hwaits]
    exact ⟨hcommit, hstatus, fun k hne => (hothers k hne).trans (h1.others k hne), hact.trans h1.pitchAct⟩
  · exact ⟨_, hgo hv, commitApplied_requestCommit h1.wf hc1 hk hx (by rw [h1.reck, hp]) (by rw [h1.slot]; exact hsw)
      (by rw [h1.slot]; exact hdue)⟩
  · refine ⟨_, hgo hv, ?_⟩
    rw [requestCommit_free hc1 hk, if_pos hx]
    exact rejectCommit_outcome h1.wf hn _
  · have hsame : s1 = s := by rw [hs1, hv1]; rfl
    subst hsame
    obtain ⟨wr, -⟩ := State.wf_iff.1 w
    refine ⟨_, hgo hv, ?_⟩
    rw [requestCommit_dropped hc hk]
    exact ⟨rfl, rbit_setBit_same wr _ _ (by omega), fun a ha => reg_setFld_ne wr _ _ _ ha⟩
  · rw [hexec, soCtrl_cancel hv hv1]
    exact ⟨_, rfl, hslot, hpending, hdeferral, hdefer, hregs, hcancelled.others⟩
  · rw [hexec, soCtrl_neither hv hv1]

end Sys2Proof.Machine
end

section
/-! PROOFS. Writes of a pitch's header and of its words: the gate, the checks in order, and what a write that passes them leaves (R93,
R95, R97, R114, R116, R147, R178, R252). -/

set_option Elab.async false

namespace Sys2Proof.Machine

section
variable {s t u : State} {n p : Nat} {c : SlotCast}

/-! ## The write on its way to the pitch (R7, R43, R92) -/

/-- Without Cast lock the gate of a built pitch passes a write whole. -/
theorem hostPitchGate_unlocked (hp : powered s = true) (hl : castLocked s = false) (off : Nat) (rw v : Word)
    (act : Word → State → State) : hostPitchGate off rw v true act s = act v s := by
  have hb : lockBits s off = 0#32 := by rw [lockBits, hl]; rfl
  rw [hostPitchGate, if_neg fun h => h.elim (fun h => h hp) fun h => h rfl]
  dsimp only
  rw [hb, lockFilter_zero, lockHit_zero]
  rfl

section
variable (hp : powered s = true) (hl : castLocked s = false) (hs : pitchSlot s p = some n) (hc : cfgOf s n = some c)
include hp hl hs hc

theorem pitchWrite_header (v : Word) : pitchWrite p 0 v s = syncPitches (if typeRefused c p (pendW s p 0) v then hostHeader n c p v s
    else jobWrite n c p (hdrAfter (pendW s p 0) v) (hostHeader n c p v) s) := by
  rw [pitchWrite, hs, Option.bind_some, hc]
  exact (if_neg (by decide)).trans (hostPitchGate_unlocked hp hl _ _ v _)

theorem pitchWrite_word {i : Nat} (h0 : 0 < i) (h15 : i < 15) (v : Word) :
    pitchWrite p i v s = syncPitches (jobWrite n c p (pendW s p 0) (hostPitchWord n c p i v) s) := by
  rw [pitchWrite, hs, Option.bind_some, hc]
  refine (if_neg (by omega)).trans ((hostPitchGate_unlocked hp hl _ _ v _).trans ?_)
  exact congrArg syncPitches (if_neg (by omega))

omit hp hl in
/-- The host writes no bit of word 15 (R94). -/
theorem pitchWrite_last (v : Word) : pitchWrite p 15 v s = s := by
  rw [pitchWrite, hs, Option.bind_some, hc]; rfl

end

/-! ## The bridge follows (R346) -/

@[simp] theorem syncPitches_slots (s : State) : (syncPitches s).slots = s.slots :=
  (keeps_syncPitches (List.Subset.refl _) (.refl _ s)).same (k := .slots) (by decide)

/-- What follows a pitch's write in the bridge is written to its own registers. -/
theorem reg_syncPitches (w : s.regs.wf = true) {a : Nat} (ha : a < Reg.sb) : reg (syncPitches s) a = reg s a := by
  unfold syncPitches showObjs
  refine (List.foldlRecOn (motive := fun u => u.regs.wf = true ∧ reg u a = reg s a) _ _ ⟨setFld_wf (s := modObjs _ s) w _ _ _ _, ?_⟩
    fun u hu k _ => ⟨setFld_wf hu.1 _ _ _ _, ?_⟩).2
  · exact reg_setFld_ne (s := modObjs _ s) w _ _ _ (by simp only [Reg.sbObjCnt]; omega)
  · exact (reg_setFld_ne hu.1 _ _ _ (by simp only [Reg.sbSlot]; omega)).trans hu.2

theorem pitch_lt_sb (hp : p < 3072) {i : Nat} (hi : i < 16) : Reg.pitch p i < Reg.sb := by
  simp only [Reg.pitch, Reg.sb]; omega

theorem pendW_syncPitches (w : s.regs.wf = true) (hp : p < 3072) {i : Nat} (hi : i < 16) :
    pendW (syncPitches s) p i = pendW s p i := reg_syncPitches w (pitch_lt_sb hp hi)

/-- A write that leaves a flag alone of the registers leaves every pitch's words. -/
theorem flagged_syncPitches (w : s.regs.wf = true) {a b : Nat} (hb : b < 32) (ha : a < Reg.sb)
    (hne : ∀ i < 16, Reg.pitch p i ≠ a) (hp : p < 3072) (hu : u.regs = (setBit a b true s).regs) :
    rbit (syncPitches u) a b = true ∧ ∀ i < 16, pendW (syncPitches u) p i = pendW s p i := by
  have hr (k : Nat) : reg u k = reg (setBit a b true s) k := by rw [reg, hu]; rfl
  have wu : u.regs.wf = true := by rw [hu]; exact setBit_wf w _ _ _
  refine ⟨?_, fun i hi => ?_⟩
  · rw [rbit, reg_syncPitches wu ha, hr]
    exact rbit_setBit_same w _ _ hb
  · rw [pendW_syncPitches wu hp hi, pendW, hr, setBit, reg_setFld_ne w _ _ _ (hne i hi)]
    rfl

/-! ## Calibration jobs (R252) -/

theorem jobDup_iff {w0 : Word} : jobDup s c p w0 = true ↔ hdrType w0 = tyCalJob ∧ hdrEn w0 = true ∧
    ((generalPitches c).any fun q => q != p && hdrType (pendW s q 0) == tyCalJob && hdrEn (pendW s q 0)) = true := by
  simp only [jobDup, Bool.and_eq_true, beq_iff_eq, and_assoc]

theorem jobWrite_second {w0 : Word} (h : jobDup s c p w0 = true) (act : State → State) :
    jobWrite n c p w0 act s = setBit (Reg.caFlags n) 5 true s := if_pos (jobDup_iff.1 h)

/-- A write that makes no second job is taken, and noted where it touches a job. -/
theorem jobWrite_taken {w0 : Word} (h : jobDup s c p w0 = false) (hn : n < 8) {act : State → State} (ha : (act s).slots = s.slots) :
    (jobWrite n c p w0 act s).regs = (act s).regs ∧
    (slotAt (jobWrite n c p w0 act s) n).cal.wrote =
      ((slotAt s n).cal.wrote || hdrType w0 == tyCalJob || hdrType (pendW s p 0) == tyCalJob) ∧
    ∀ k, k ≠ n → slotAt (jobWrite n c p w0 act s) k = slotAt s k := by
  have hslot (k : Nat) : slotAt (act s) k = slotAt s k := by rw [slotAt, ha]; rfl
  have hw : jobWrite n c p w0 act s = if hdrType w0 = tyCalJob ∨ hdrType (pendW s p 0) = tyCalJob then
      modCal n (fun k => { k with wrote := true }) (act s) else act s :=
    if_neg fun hd => Bool.false_ne_true (h.symm.trans (jobDup_iff.2 hd))
  rw [hw]
  split
  · next hj =>
    refine ⟨modCal_regs _ _ _, ?_, fun k hk => (slotAt_modSlot_ne hk _ _).trans (hslot k)⟩
    rw [modCal, slotAt_modSlot_same hn, Bool.or_assoc, show (hdrType w0 == tyCalJob || hdrType (pendW s p 0) == tyCalJob) = true by
      simpa only [Bool.or_eq_true, beq_iff_eq] using hj, Bool.or_true]
  · next hj =>
    obtain ⟨h1, h2⟩ := not_or.1 hj
    refine ⟨rfl, ?_, fun k _ => hslot k⟩
    rw [hslot, beq_false_of_ne h1, beq_false_of_ne h2, Bool.or_false, Bool.or_false]

/-! ## Headers (R93, R95, R114, R116, R147, R178) -/

/-- The host writes the whole TYPE of a header. -/
theorem hdrType_hdrAfter (old v : Word) : hdrType (hdrAfter old v) = hdrType v := by
  have hv : fld v 31 28 &&& 15 = fld v 31 28 := Nat.and_two_pow_sub_one_of_lt_two_pow (n := 4) (fld_lt v 31 28)
  unfold hdrAfter hdrType
  rw [fld_or, fld_and, fld_and, show fld (0x05FFFFFF : Word) 31 28 = 0 by decide, Nat.and_zero, Nat.zero_or]
  split
  · rw [show fld (0xFA000000 : Word) 31 28 = 15 by decide, hv]
  · rw [show fld (0xF8000000 : Word) 31 28 = 15 by decide, hv]

theorem hostHeader_slots (n : Nat) (c : SlotCast) (p : Nat) (v : Word) (s : State) : (hostHeader n c p v s).slots = s.slots :=
  (keeps_hostHeader (List.Subset.refl _) n c p v (.refl _ s)).same (k := .slots) (by decide)

theorem hostHeader_refused {v : Word} (h : typeRefused c p (pendW s p 0) v = true) :
    hostHeader n c p v s = setBit (pxErr s n) 1 true s := if_pos h

theorem hostHeader_frozen {v : Word} (h : typeRefused c p (pendW s p 0) v = false) (hf : headerFrozen s n c p v = true) :
    hostHeader n c p v s = pendWr n s :=
  (if_neg (ne_true_of_eq_false h)).trans (if_pos hf)

theorem ownerTaken_iff {v : Word} : ownerTaken s p v = true ↔ hdrType (pendW s p 0) = tyMask ∧ hdrOwner (pendW s p 0) = true ∧
    ¬ hdrOwner (hdrAfter (pendW s p 0) v) = true ∧ hdrEn (hdrAfter (pendW s p 0) v) = true := by
  simp only [ownerTaken, bridgeMask, Bool.and_eq_true, beq_iff_eq, Bool.not_eq_true', Bool.not_eq_true, and_assoc]

theorem maskOver_iff {v : Word} : maskOver s c p v = true ↔ hdrType (hdrAfter (pendW s p 0) v) = tyMask ∧
    hdrEn (hdrAfter (pendW s p 0) v) = true ∧ c.pipe.maskMax < masksAfter s c p (hdrAfter (pendW s p 0) v) := by
  simp only [maskOver, Bool.and_eq_true, beq_iff_eq, decide_eq_true_eq, and_assoc]

theorem hostHeader_passes {v : Word} (ht : typeRefused c p (pendW s p 0) v = false) (hf : headerFrozen s n c p v = false)
    (hs : swapFreezes s n c p = false) (ho : ownerTaken s p v = false) (hm : maskOver s c p v = false) :
    hostHeader n c p v s = applyHeader p v s :=
  (if_neg (ne_true_of_eq_false ht)).trans <| (if_neg (ne_true_of_eq_false hf)).trans <| (if_neg (ne_true_of_eq_false hs)).trans <|
    (if_neg fun h => ne_true_of_eq_false ho (ownerTaken_iff.2 h)).trans (if_neg fun h => ne_true_of_eq_false hm (maskOver_iff.2 h))

theorem reg_pitch_ne {i j : Nat} (h : i ≠ j) (p : Nat) : Reg.pitch p i ≠ Reg.pitch p j := by
  simp only [Reg.pitch]; omega

/-- Clearing the words of a list in both copies leaves the pitch's other pending words. -/
theorem pendW_clearWords (l : List Nat) (p j : Nat) (w : s.regs.wf = true) :
    (forAll l (fun i u => setActW p i 0 (setPendW p i 0 u)) s).regs.wf = true ∧
    pendW (forAll l (fun i u => setActW p i 0 (setPendW p i 0 u)) s) p j = if j ∈ l then 0 else pendW s p j := by
  induction l generalizing s with
  | nil => exact ⟨w, by simp [forAll]⟩
  | cons i l ih =>
    obtain ⟨wl, hl⟩ := ih (s := setActW p i 0 (setPendW p i 0 s)) (setReg_wf (s := s) w (Reg.pitch p i) 0)
    refine ⟨wl, hl.trans ?_⟩
    rw [pendW_of_regs (t := setActW p i 0 (setPendW p i 0 s)) (s := setPendW p i 0 s) rfl]
    by_cases hj : j = i
    · subst hj
      rw [if_pos (List.mem_cons_self ..), pendW, setPendW, reg_setReg_same w, ite_self]
    · rw [pendW, setPendW, reg_setReg_ne w _ (reg_pitch_ne hj p)]
      simp only [List.mem_cons, hj, false_or]
      rfl

/-- A header that passed its checks is pending, and a change of TYPE has cleared the other words (R93). -/
theorem applyHeader_outcome (w : s.regs.wf = true) (p : Nat) (v : Word) : (applyHeader p v s).regs.wf = true ∧
    pendW (applyHeader p v s) p 0 = hdrAfter (pendW s p 0) v ∧
    ∀ i, 0 < i → i < 15 → pendW (applyHeader p v s) p i = if hdrType v = hdrType (pendW s p 0) then pendW s p i else 0 := by
  unfold applyHeader
  extract_lets old hdr s1 s2
  have h1 (i : Nat) : s1.regs.wf = true ∧
      (0 < i → i < 15 → pendW s1 p i = if hdrType v = hdrType (pendW s p 0) then pendW s p i else 0) := by
    unfold s1
    split
    · exact ⟨w, fun _ _ => rfl⟩
    · obtain ⟨wc, hcl⟩ := pendW_clearWords ((List.range 14).map (· + 1)) p i w
      refine ⟨wc, fun h0 h15 => hcl.trans (if_pos (List.mem_map.2 ⟨i - 1, List.mem_range.2 (by omega), by omega⟩))⟩
  obtain ⟨w1, -⟩ := h1 0
  have h2 : s2.regs.wf = true ∧ pendW s2 p 0 = hdr ∧ ∀ i, 0 < i → i < 15 → pendW s2 p i = pendW s1 p i :=
    ⟨setReg_wf w1 _ _, reg_setReg_same w1 _ _, fun i h0 _ => reg_setReg_ne w1 _ (reg_pitch_ne (by omega) p)⟩
  obtain ⟨w2, hhdr, hwords⟩ := h2
  have h3 (i : Nat) (h0 : 0 < i) (h15 : i < 15) := (hwords i h0 h15).trans ((h1 i).2 h0 h15)
  split
  · exact ⟨w2, hhdr, h3⟩
  · exact ⟨w2, hhdr, h3⟩

/-! ## Words 1 to 14 (R97, R114, R147, R178, R251) -/

theorem hostPitchWord_slots (n : Nat) (c : SlotCast) (p i : Nat) (v : Word) (s : State) :
    (hostPitchWord n c p i v s).slots = s.slots :=
  (keeps_hostPitchWord (List.Subset.refl _) n c p i v (.refl _ s)).same (k := .slots) (by decide)

theorem bridgeMask_iff {w0 : Word} : bridgeMask w0 = true ↔ hdrType w0 = tyMask ∧ hdrOwner w0 = true := by
  simp only [bridgeMask, Bool.and_eq_true, beq_iff_eq]

theorem hostPitchWord_bridge (h : bridgeMask (pendW s p 0) = true) (i : Nat) (v : Word) :
    hostPitchWord n c p i v s = setBit (pxErr s n) 0 true s := if_pos (bridgeMask_iff.1 h)

/-- The pending word that a host write v leaves: its programmable bits. -/
def wordAfter (s : State) (p i : Nat) (v : Word) : Word :=
  (pendW s p i &&& ~~~pitchMask (hdrType (pendW s p 0)) i) ||| (v &&& pitchMask (hdrType (pendW s p 0)) i)

theorem hostPitchWord_passes (hb : bridgeMask (pendW s p 0) = false) (hf : commitFreezes s n c p (pendW s p 0) = false)
    (hs : swapFreezes s n c p = false) (i : Nat) (v : Word) : hostPitchWord n c p i v s = setPendW p i (wordAfter s p i v) s :=
  (if_neg fun h => ne_true_of_eq_false hb (bridgeMask_iff.2 h)).trans <| (if_neg (ne_true_of_eq_false hf)).trans <|
    if_neg (ne_true_of_eq_false hs)

/-! ## Where the flags stand -/

theorem pxErr_of_cfg (hc : cfgOf s n = some c) : pxErr s n = Reg.px c.pipe.composer n + 0x20 := by
  rw [pxErr, pxBase, hc]; rfl

theorem px_place (hn : n < 8) (hk : c.pipe.composer ≤ 1) (hp : p < 3072) : Reg.px c.pipe.composer n + 0x20 < Reg.sb ∧
    ∀ i < 16, Reg.pitch p i ≠ Reg.px c.pipe.composer n + 0x20 := by
  rcases Nat.le_one_iff_eq_zero_or_eq_one.1 hk with h | h
  all_goals
    rw [h]
    simp only [Reg.px, Reg.sb, Reg.pitch]
    exact ⟨by omega, fun i hi => by omega⟩

theorem caFlags_place (hn : n < 8) (hp : p < 3072) : Reg.caFlags n < Reg.sb ∧ ∀ i < 16, Reg.pitch p i ≠ Reg.caFlags n := by
  simp only [Reg.caFlags, Reg.ca, Reg.sb, Reg.pitch]
  exact ⟨by omega, fun i hi => by omega⟩

theorem soFlags_place (hn : n < 8) (hp : p < 3072) : Reg.soFlags n < Reg.sb ∧ ∀ i < 16, Reg.pitch p i ≠ Reg.soFlags n := by
  simp only [Reg.soFlags, Reg.so, Reg.sb, Reg.pitch]
  exact ⟨by omega, fun i hi => by omega⟩

theorem exec_pitchW0Write (p : PitchId) (v : Word) (s : State) : exec (.pitchW0Write p v) s = .next (pitchWrite p.val 0 v s) := rfl

theorem exec_calJobWrite (p : PitchId) (i : Fin 16) (v : Word) (s : State) :
    exec (.calJobWrite p i v) s = .next (pitchWrite p.val i.val v s) := rfl

/-- A header write that passes every check. -/
theorem headerWrite_passes (w : s.regs.wf = true) (hn : n < 8) (hp : p < 3072) {v : Word}
    (hd : jobDup s c p (hdrAfter (pendW s p 0) v) = false) (hh : hostHeader n c p v s = applyHeader p v s)
    (ht : t = syncPitches (jobWrite n c p (hdrAfter (pendW s p 0) v) (hostHeader n c p v) s)) :
    pendW t p 0 = hdrAfter (pendW s p 0) v ∧
    (∀ i, 0 < i → i < 15 → pendW t p i = if hdrType v = hdrType (pendW s p 0) then pendW s p i else 0) ∧
    (slotAt t n).cal.wrote = ((slotAt s n).cal.wrote || hdrType v == tyCalJob || hdrType (pendW s p 0) == tyCalJob) ∧
    ∀ k, k ≠ n → slotAt t k = slotAt s k := by
  obtain ⟨hregs, hwrote, hothers⟩ := jobWrite_taken (act := hostHeader n c p v) hd hn (hostHeader_slots n c p v s)
  rw [hh] at hregs
  rw [hdrType_hdrAfter] at hwrote
  obtain ⟨wa, hhdr, hwords⟩ := applyHeader_outcome w p v
  have hpend (i : Nat) (hi : i < 16) : pendW t p i = pendW (applyHeader p v s) p i := by
    rw [ht, pendW_syncPitches (by rw [hregs]; exact wa) hp hi, pendW_of_regs hregs]
  have hslot (k : Nat) : slotAt t k = slotAt (jobWrite n c p (hdrAfter (pendW s p 0) v) (hostHeader n c p v) s) k := by
    rw [ht, slotAt, syncPitches_slots]; rfl
  exact ⟨(hpend 0 (by omega)).trans hhdr, fun i h0 h15 => (hpend i (by omega)).trans (hwords i h0 h15),
    by rw [hslot]; exact hwrote, fun k hk => (hslot k).trans (hothers k hk)⟩

/-- A write of another word that passes every check. -/
theorem wordWrite_passes (w : s.regs.wf = true) (hn : n < 8) (hp : p < 3072) {i : Nat} (hi : i < 15) {v : Word}
    (hd : jobDup s c p (pendW s p 0) = false) (hh : hostPitchWord n c p i v s = setPendW p i (wordAfter s p i v) s)
    (ht : t = syncPitches (jobWrite n c p (pendW s p 0) (hostPitchWord n c p i v) s)) :
    pendW t p i = wordAfter s p i v ∧
    (slotAt t n).cal.wrote = ((slotAt s n).cal.wrote || hdrType (pendW s p 0) == tyCalJob) ∧
    ∀ k, k ≠ n → slotAt t k = slotAt s k := by
  obtain ⟨hregs, hwrote, hothers⟩ := jobWrite_taken (act := hostPitchWord n c p i v) hd hn (hostPitchWord_slots n c p i v s)
  rw [hh] at hregs
  rw [Bool.or_assoc, Bool.or_self] at hwrote
  have hslot (k : Nat) : slotAt t k = slotAt (jobWrite n c p (pendW s p 0) (hostPitchWord n c p i v) s) k := by
    rw [ht, slotAt, syncPitches_slots]; rfl
  refine ⟨?_, by rw [hslot]; exact hwrote, fun k hk => (hslot k).trans (hothers k hk)⟩
  rw [ht, pendW_syncPitches (by rw [hregs]; exact setReg_wf w _ _) hp (by omega), pendW_of_regs hregs]
  exact reg_setReg_same w _ _

end

/-- Settles O38: each write comes down to one branch of its checks, in their order; the bridge that follows it writes no pitch. -/
theorem pitchWrites : Obligations.PitchWrites := by
  intro s p v n c w hup hs hc hl hk
  have hn : n < 8 := lt_of_cfg hc
  obtain ⟨wr, -⟩ := State.wf_iff.1 w
  have hw0 := exec_pitchW0Write p v s
  rw [pitchWrite_header hup hl hs hc] at hw0
  have hword {i : Fin 16} (h0 : 0 < i.val) (h15 : i.val < 15) := (exec_calJobWrite p i v s).trans
    (congrArg Host.Outcome.next (pitchWrite_word hup hl hs hc h0 h15 v))
  obtain ⟨hpx, hpxne⟩ := px_place hn hk p.isLt
  rw [← pxErr_of_cfg hc] at hpx hpxne
  obtain ⟨hca, hcane⟩ := caFlags_place hn p.isLt
  obtain ⟨hso, hsone⟩ := soFlags_place hn p.isLt
  refine ⟨fun ht hd hf hsw ho hm => ?_, fun ht => ?_, fun ht hd => ?_, fun ht hd hf => ?_, fun i h0 h15 =>
    ⟨fun hd hb hf hsw => ?_, fun hd => ?_, fun hd hb => ?_⟩, fun i h15 => ?_⟩
  · rw [if_neg (ne_true_of_eq_false ht)] at hw0
    obtain ⟨hhdr, hwords, hwrote, hothers⟩ := headerWrite_passes wr hn p.isLt hd (hostHeader_passes ht hf hsw ho hm) rfl
    exact ⟨_, hw0, hhdr, fun i h0 h15 => hwords i.val h0 h15, hwrote, hothers⟩
  · rw [if_pos ht, hostHeader_refused ht] at hw0
    obtain ⟨hbit, hwords⟩ := flagged_syncPitches (b := 1) wr (by omega) hpx hpxne p.isLt rfl
    exact ⟨_, hw0, hbit, fun i => hwords i.val i.isLt, syncPitches_slots _⟩
  · rw [if_neg (ne_true_of_eq_false ht), jobWrite_second hd] at hw0
    obtain ⟨hbit, hwords⟩ := flagged_syncPitches (b := 5) wr (by omega) hca hcane p.isLt rfl
    exact ⟨_, hw0, hbit, fun i => hwords i.val i.isLt, syncPitches_slots _⟩
  · rw [if_neg (ne_true_of_eq_false ht)] at hw0
    obtain ⟨hregs, -⟩ := jobWrite_taken (act := hostHeader n c p v) hd hn (hostHeader_slots n c p v s)
    rw [hostHeader_frozen ht hf] at hregs
    obtain ⟨hbit, hwords⟩ := flagged_syncPitches (b := 7) wr (by omega) hso hsone p.isLt hregs
    exact ⟨_, hw0, hbit, fun i => hwords i.val i.isLt⟩
  · obtain ⟨hpend, hwrote, hothers⟩ := wordWrite_passes wr hn p.isLt h15 hd (hostPitchWord_passes hb hf hsw i.val v) rfl
    exact ⟨_, hword h0 h15, hpend, hwrote, hothers⟩
  · obtain ⟨hbit, hwords⟩ := flagged_syncPitches (b := 5) wr (by omega) hca hcane p.isLt rfl
    refine ⟨_, hword h0 h15, ?_⟩
    rw [jobWrite_second hd]
    exact ⟨hbit, hwords i.val i.isLt, syncPitches_slots _⟩
  · obtain ⟨hregs, -⟩ := jobWrite_taken (act := hostPitchWord n c p i.val v) hd hn (hostPitchWord_slots n c p i.val v s)
    rw [hostPitchWord_bridge hb] at hregs
    obtain ⟨hbit, hwords⟩ := flagged_syncPitches (b := 0) wr (by omega) hpx hpxne p.isLt hregs
    exact ⟨_, hword h0 h15, hbit, hwords i.val i.isLt⟩
  · rw [exec_calJobWrite, h15, pitchWrite_last hs hc]

end Sys2Proof.Machine
end

section
/-! PROOFS. The 64 bytes of a safety-port request (R11, R139, R140, R142). -/

set_option Elab.async false

namespace Sys2Proof.Machine

/-! ## Little-endian bytes (R11) -/

@[simp] theorem leBytes_length : ∀ n x, (leBytes n x).length = n
  | 0, _ => rfl
  | n + 1, x => congrArg (· + 1) (leBytes_length n (x / 256))

theorem leNat_leBytes : ∀ n x, leNat (leBytes n x) = x % 256 ^ n
  | 0, x => (Nat.mod_one x).symm
  | n + 1, x => by
    rw [leBytes, leNat, leNat_leBytes n, Nat.pow_succ', Nat.mod_mul]
    rfl

theorem leNat_leBytes_word (v : Word) : leNat (leBytes 4 v.toNat) = v.toNat :=
  (leNat_leBytes 4 _).trans (Nat.mod_eq_of_lt v.isLt)

/-! ## The frame (R140) -/

/-- Bytes 0 to 59 of a request, over which its CRC-32 runs. -/
def requestBody (cmd : Byte) (q : SportReq) : List Byte := [cmd, q.seq, q.slot, 0#8] ++ q.payload

section
variable {q : SportReq} (hl : q.payload.length = 56) (cmd : Byte)
include hl

theorem requestBody_length : (requestBody cmd q).length = 60 := by
  rw [requestBody, List.length_append, hl]
  rfl

theorem requestFrame_eq : requestFrame cmd q = requestBody cmd q ++ leBytes 4 (crc32 (requestBody cmd q)).toNat := by
  have hb : ([cmd, q.seq, q.slot, 0#8] ++ q.payload ++ List.replicate 60 0#8).take 60 = requestBody cmd q :=
    List.take_left' (requestBody_length hl cmd)
  simp only [requestFrame, hb]

theorem requestFrame_length : (requestFrame cmd q).length = 64 := by
  rw [requestFrame_eq hl, List.length_append, requestBody_length hl, leBytes_length]

theorem requestFrame_take : (requestFrame cmd q).take 60 = requestBody cmd q := by
  rw [requestFrame_eq hl]
  exact List.take_left' (requestBody_length hl cmd)

theorem requestFrame_crc : leAt (requestFrame cmd q) 60 4 = (crc32 (requestBody cmd q)).toNat := by
  rw [leAt, requestFrame_eq hl, List.drop_left' (requestBody_length hl cmd), List.take_of_length_le (by rw [leBytes_length]),
    leNat_leBytes_word]

theorem requestFrame_payload : ((requestFrame cmd q).drop 4).take 56 = q.payload := by
  rw [requestFrame_eq hl]
  exact List.take_left' hl

/-! ## The command it spells (R142) -/

omit hl in
/-- The command of CMD k with request q (R142). -/
def sportCommand (k : Nat) (q : SportReq) : Instr :=
  match k with
  | 0 => .nop q
  | 1 => .getSig q
  | 2 => .setScene q
  | 3 => .commitScene q
  | 4 => .paBegin q
  | 5 => .paData q
  | 6 => .paSeal q
  | 7 => if byteAt q.payload 0 = 1 then .containOff q else .containDim q
  | 8 => .release q
  | k => .sportBadFrame (.unknownCmd (Fin.ofNat 247 (k - 9)) q.seq q.slot)

theorem sportInstr_requestFrame : sportInstr (requestFrame cmd q) = sportCommand cmd.toNat q := by
  have hseq : (requestFrame cmd q).getD 1 0 = q.seq := by rw [requestFrame_eq hl]; rfl
  have hslot : (requestFrame cmd q).getD 2 0 = q.slot := by rw [requestFrame_eq hl]; rfl
  have hcmd : byteAt (requestFrame cmd q) 0 = cmd.toNat := by rw [requestFrame_eq hl]; rfl
  simp only [sportInstr, requestFrame_length hl, requestFrame_take hl, requestFrame_crc hl, requestFrame_payload hl, hseq, hslot, hcmd,
    ne_eq, not_true_eq_false, if_false]
  rfl

end

/-- The codes that R142 does not list. -/
theorem sportCommand_unknown (k : Fin 247) (q : SportReq) :
    sportCommand (9 + k.val) q = .sportBadFrame (.unknownCmd k q.seq q.slot) := by
  have hk : Fin.ofNat 247 (9 + k.val - 9) = k := by rw [Nat.add_sub_cancel_left]; exact Fin.ofNat_val_eq_self k
  unfold sportCommand
  split <;> first | omega | rw [hk]

theorem unknownCmd_toNat (k : Fin 247) : (BitVec.ofNat 8 (9 + k.val)).toNat = 9 + k.val :=
  (BitVec.toNat_ofNat _ _).trans (Nat.mod_eq_of_lt (by omega))

theorem sportInstr_length {b : List Byte} (h : b.length ≠ 64) : sportInstr b = .sportBadFrame .length := if_pos h

theorem sportInstr_crc {b : List Byte} (h : b.length = 64) (hc : (crc32 (b.take 60)).toNat ≠ leAt b 60 4) :
    sportInstr b = .sportBadFrame (.crc (b.getD 0 0) (b.getD 1 0) (b.getD 2 0)) :=
  (if_neg (not_not.2 h)).trans (if_pos hc)

/-- Settles O58: a frame whose length and CRC are right is read by its CMD byte, and the other two transactions fail their check. -/
theorem requestBytesSpellCommands : Obligations.RequestBytesSpellCommands := by
  refine ⟨fun q hl => ?_, fun b => ⟨sportInstr_length, sportInstr_crc⟩⟩
  have h := fun cmd => sportInstr_requestFrame hl cmd
  refine ⟨h 0, h 1, h 2, h 3, h 4, h 5, h 6, h 8, fun h1 => (h 7).trans (if_pos h1), fun h1 => (h 7).trans (if_neg h1), fun k => ?_⟩
  rw [h, unknownCmd_toNat, sportCommand_unknown]

end Sys2Proof.Machine
end

section
/-! PROOFS. A request of the safety port on its way: what every answer leaves, a repeated one, one that names no Hallmark, a bad
transaction, and silence (R139 to R141, R144). -/

set_option Elab.async false

namespace Sys2Proof.Machine

section
variable {s t u : State} {q : SportReq} {cmd : Byte} {act : SportAct}

/-! ## A request is taken (R141) -/

/-- The part once a request with a good CRC has been shifted in: the response before it is out, it is counted, and the port is
silent no more. -/
def sportTaken (s : State) : State := setBit Reg.hlSportStat 1 false (incSat Reg.hlSportCnt 31 16 (shiftOut s))

/-- The part once a request has been executed: its SEQ and its response are the last ones (R141). -/
def sportReplied (cmd : Byte) (q : SportReq) (r : Status × List Byte × State) : State :=
  let f := sportFrame cmd q.seq q.slot (slotState r.2.2 q.slot.toNat) r.1 r.2.1
  { r.2.2 with hall := { r.2.2.hall with lastSeq := some q.seq, lastResp := f, resp := f } }

/-- The words of HL_SPORT_STAT and HL_SPORT_CNT, which every answer writes (R144). -/
def portWord (a : Nat) : Prop := a = Reg.hlSportStat ∨ a = Reg.hlSportCnt

/-- From s to t the words of the port stand, and t is canonical. -/
structure PortWordsKept (s t : State) : Prop where
  wf : t.regs.wf = true
  word : ∀ a, portWord a → reg t a = reg s a

theorem PortWordsKept.refl (w : s.regs.wf = true) : PortWordsKept s s := ⟨w, fun _ _ => rfl⟩

theorem PortWordsKept.ofRegs (h : PortWordsKept s t) (e : u.regs = t.regs) : PortWordsKept s u :=
  ⟨e ▸ h.wf, fun a ha => by rw [reg, e]; exact h.word a ha⟩

/-- A change of words outside the port's alone. -/
theorem PortWordsKept.ofWords (h : PortWordsKept s t) (w : u.regs.wf = true) (hr : ∀ a, portWord a → reg u a = reg t a) :
    PortWordsKept s u := ⟨w, fun a ha => (hr a ha).trans (h.word a ha)⟩

theorem PortWordsKept.setReg (h : PortWordsKept s t) {b : Nat} (hb : ¬ portWord b) (v : Word) : PortWordsKept s (setReg b v t) :=
  h.ofWords (setReg_wf h.wf _ _) fun _ ha => reg_setReg_ne h.wf _ fun e => hb (e ▸ ha)

theorem sportTaken_wf (w : s.regs.wf = true) : (sportTaken s).regs.wf = true := setBit_wf (setFld_wf w _ _ _ _) _ _ _

/-- A taken request ends the port's silence and is counted (R141, R144). -/
theorem sportTaken_words (w : s.regs.wf = true) : rbit (sportTaken s) Reg.hlSportStat 1 = false ∧
    rfld (sportTaken s) Reg.hlSportCnt 31 16 = min (rfld s Reg.hlSportCnt 31 16 + 1) 65535 := by
  have w1 : (incSat Reg.hlSportCnt 31 16 (shiftOut s)).regs.wf = true := setFld_wf w _ _ _ _
  refine ⟨rbit_setBit_same w1 _ _ (by decide), ?_⟩
  rw [sportTaken, setBit, rfld_setFld_ne w1 _ _ _ _ _ (by decide), incSat,
    rfld_addSat_same (s := shiftOut s) w _ _ (by decide) (by decide)]
  rfl

theorem sportReplied_answered (w : s.regs.wf = true) {r : Status × List Byte × State} (h : PortWordsKept (sportTaken s) r.2.2) :
    sportAnswered s (sportReplied cmd q r) cmd q r.1 r.2.1 := by
  obtain ⟨hsilent, hcount⟩ := sportTaken_words w
  have hstat := h.word _ (.inl rfl)
  have hcnt := h.word _ (.inr rfl)
  refine ⟨rfl, rfl, rfl, ?_, ?_⟩
  · exact (congrArg (bit · 1) hstat).trans hsilent
  · exact (congrArg (fld · 31 16) hcnt).trans hcount

/-! ## How a request is answered (R141) -/

theorem sportRequest_repeated (hp : powered s = true) (hs : s.hall.lastSeq = some q.seq) :
    sportRequest cmd q act s = setResp s.hall.lastResp (sportTaken s) :=
  (if_neg (not_not.2 hp)).trans (if_pos hs)

theorem sportRequest_new (hp : powered s = true) (hs : s.hall.lastSeq ≠ some q.seq) (hn : q.slot.toNat < 8)
    (hh : hasHall s q.slot.toNat = true) :
    sportRequest cmd q act s = sportReplied cmd q (act q.slot.toNat q.payload (sportTaken s)) := by
  have hr : (if q.slot.toNat < 8 ∧ hasHall (sportTaken s) q.slot.toNat then act q.slot.toNat q.payload (sportTaken s)
      else (.HALL_NONE, [], sportTaken s)) = act q.slot.toNat q.payload (sportTaken s) := if_pos ⟨hn, hh⟩
  refine (if_neg (not_not.2 hp)).trans ((if_neg hs).trans ?_)
  exact congrArg (sportReplied cmd q) hr

theorem sportRequest_none (hp : powered s = true) (hs : s.hall.lastSeq ≠ some q.seq)
    (h : 8 ≤ q.slot.toNat ∨ hasHall s q.slot.toNat = false) :
    sportRequest cmd q act s = sportReplied cmd q (.HALL_NONE, [], sportTaken s) := by
  have hr : (if q.slot.toNat < 8 ∧ hasHall (sportTaken s) q.slot.toNat then act q.slot.toNat q.payload (sportTaken s)
      else (.HALL_NONE, [], sportTaken s)) = (.HALL_NONE, [], sportTaken s) := by
    refine if_neg fun hc => ?_
    rcases h with h | h
    · exact absurd hc.1 (by omega)
    · exact absurd (h.symm.trans hc.2) nofun
  refine (if_neg (not_not.2 hp)).trans ((if_neg hs).trans ?_)
  exact congrArg (sportReplied cmd q) hr

/-- Each command of R142 is a request of the port. -/
theorem exec_sport {c : Instr} (hc : c ∈ [Instr.nop q, .getSig q, .setScene q, .commitScene q, .paBegin q, .paData q, .paSeal q,
    .containDim q, .containOff q, .release q]) : ∃ cmd act, ∀ s, exec c s = .next (sportRequest cmd q act s) := by
  simp only [List.mem_cons, List.not_mem_nil, or_false] at hc
  rcases hc with rfl | rfl | rfl | rfl | rfl | rfl | rfl | rfl | rfl | rfl
  all_goals exact ⟨_, _, fun _ => rfl⟩

/-- A command of a new SEQ on a slot with a Hallmark answers what its own rule makes of the taken request. -/
theorem exec_answered {c : Instr} {r : Status × List Byte × State} (hx : exec c s = .next (sportRequest cmd q act s))
    (hp : powered s = true) (hs : s.hall.lastSeq ≠ some q.seq) (hn : q.slot.toNat < 8) (hh : hasHall s q.slot.toNat = true)
    (hr : act q.slot.toNat q.payload (sportTaken s) = r) : exec c s = .next (sportReplied cmd q r) :=
  hx.trans (congrArg Host.Outcome.next ((sportRequest_new hp hs hn hh).trans (by rw [hr])))

/-! ## Transactions that are discarded (R139, R141, R470) -/

theorem sportDiscard_powered (hp : powered s = true) :
    sportDiscard s = setResp (sportFrame 0 0 0 3 .SPORT_FRAME []) (incSat Reg.hlSportCnt 15 0 (shiftOut s)) :=
  if_neg (not_not.2 hp)

/-- A bad transaction is counted in the low half of HL_SPORT_CNT, and no other word changes. -/
theorem badFrame_words (w : s.regs.wf = true) (r : List Byte) :
    rfld (setResp r (incSat Reg.hlSportCnt 15 0 (shiftOut s))) Reg.hlSportCnt 15 0 = min (rfld s Reg.hlSportCnt 15 0 + 1) 65535 ∧
    ∀ a, a ≠ Reg.hlSportCnt → reg (setResp r (incSat Reg.hlSportCnt 15 0 (shiftOut s))) a = reg s a :=
  ⟨rfld_incSat_same (s := shiftOut s) w _, fun _ ha => reg_setFld_ne (s := shiftOut s) w _ _ _ ha⟩

theorem exec_badCrc (hp : powered s = true) (cmd seq slot : Byte) : exec (.sportBadFrame (.crc cmd seq slot)) s =
    .next (setResp (sportFrame cmd seq slot (slotState s slot.toNat) .SPORT_CRC []) (incSat Reg.hlSportCnt 15 0 (shiftOut s))) :=
  congrArg Host.Outcome.next (if_neg (not_not.2 hp))

theorem exec_unknownCmd (hp : powered s = true) (k : Fin 247) (seq slot : Byte) :
    exec (.sportBadFrame (.unknownCmd k seq slot)) s =
    .next (if s.hall.lastSeq = some seq then setResp s.hall.lastResp (sportTaken s)
      else setResp (sportFrame (unknownCmd k) seq slot (slotState s slot.toNat) .SPORT_CMD []) (sportTaken s)) :=
  congrArg Host.Outcome.next (if_neg (not_not.2 hp))

/-! ## Silence (R141) -/

theorem exec_sportSilent (h : (List.range 8).any (hasHall s) = true) (hb : rbit s Reg.hlSportStat 1 = false) :
    exec .sportSilent s = .next (logEvent .SPORT_SILENT clsSport 0 0 (setBit Reg.hlSportStat 1 true s)) :=
  congrArg Host.Outcome.next (if_pos ⟨h, ne_true_of_eq_false hb⟩)

theorem sportStat_not_logArea : ¬ logArea Reg.hlSportStat := by
  simp only [logArea, Reg.hlSportStat, Reg.msixPba, Reg.frLogStat, Reg.frFault, Reg.frLog]
  omega

/-- The silence is flagged and is the newest entry of the log. -/
theorem silence_noted (w : s.regs.wf = true) :
    rbit (logEvent .SPORT_SILENT clsSport 0 0 (setBit Reg.hlSportStat 1 true s)) Reg.hlSportStat 1 = true ∧
    newestLog (logEvent .SPORT_SILENT clsSport 0 0 (setBit Reg.hlSportStat 1 true s)) = logWord .SPORT_SILENT clsSport 0 := by
  have w1 := setBit_wf w Reg.hlSportStat 1 true
  obtain ⟨-, hr⟩ := logEvent_regs w1 .SPORT_SILENT clsSport 0 0
  exact ⟨(congrArg (bit · 1) (hr _ sportStat_not_logArea)).trans (rbit_setBit_same w _ _ (by decide)), logEvent_newest w1 _ _ _ _⟩

theorem logEvent_slots (c : Status) (cls id d : Nat) (s : State) : (logEvent c cls id d s).slots = s.slots :=
  (keeps_logEvent (List.Subset.refl _) c cls id d (Keeps.refl _ s)).same (k := .slots) (by decide)

theorem logEvent_hall (c : Status) (cls id d : Nat) (s : State) : (logEvent c cls id d s).hall = s.hall :=
  (keeps_logEvent (List.Subset.refl _) c cls id d (Keeps.refl _ s)).same (k := .hall) (by decide)

end

/-- Settles O57: each transaction comes to one answer of R141; none of them reaches a slot. -/
theorem safetyPortFrames : Obligations.SafetyPortFrames := by
  intro s w hp
  obtain ⟨wr, -⟩ := State.wf_iff.1 w
  have hbad := badFrame_words wr
  refine ⟨fun q c hc => ?_, ?_, ?_, fun cmd seq slot => ?_, fun k seq slot => ⟨fun hs => ?_, fun hs => ?_⟩, fun hh hb => ?_⟩
  · obtain ⟨cmd, act, hx⟩ := exec_sport hc
    refine ⟨fun hs => ⟨_, (hx s).trans (congrArg _ (sportRequest_repeated hp hs)), rfl, rfl⟩, fun hs hn => ?_⟩
    exact ⟨_, cmd, (hx s).trans (congrArg _ (sportRequest_none hp hs hn)),
      sportReplied_answered wr (.refl (sportTaken_wf wr)), rfl, rfl⟩
  · obtain ⟨hcnt, hothers⟩ := hbad (sportFrame 0 0 0 3 .SPORT_FRAME [])
    exact ⟨_, congrArg Host.Outcome.next (sportDiscard_powered hp), rfl, hcnt, hothers, rfl⟩
  · exact ⟨_, congrArg Host.Outcome.next (sportDiscard_powered hp), rfl, (hbad _).1, rfl⟩
  · exact ⟨_, exec_badCrc hp cmd seq slot, rfl, (hbad _).1, rfl⟩
  · exact ⟨_, (exec_unknownCmd hp k seq slot).trans (congrArg _ (if_neg hs)), rfl, (sportTaken_words wr).1, rfl⟩
  · exact ⟨_, (exec_unknownCmd hp k seq slot).trans (congrArg _ (if_pos hs)), rfl, (sportTaken_words wr).1, rfl⟩
  · obtain ⟨hbit, hlog⟩ := silence_noted wr
    exact ⟨_, exec_sportSilent hh hb, hbit, hlog, logEvent_slots _ _ _ _ _, logEvent_hall _ _ _ _ _⟩

end Sys2Proof.Machine
end

section
/-! PROOFS. Port assets: what PA_BEGIN, PA_DATA and PA_SEAL make of the store and answer (R126, R130, R142). -/

set_option Elab.async false

namespace Sys2Proof.Machine

section
variable {s : State} {n id : Nat} {p : List Byte}

theorem hasHall_of_hasSport (h : hasSport s n = true) : hasHall s n = true := by
  obtain ⟨c, hc, hs⟩ := (Option.any_eq_true _ _).1 h
  obtain ⟨r, hr, -⟩ := (Option.any_eq_true _ _).1 hs
  exact (Option.any_eq_true _ _).2 ⟨c, hc, by rw [hr]; rfl⟩

/-! ## The store -/

theorem portAsset_putAsset_same (id w h : Nat) (b : Bool) (d : List Byte) (s : State) :
    portAsset (putAsset id w h b d s) id = some (id, w, h, b, d) := by
  have hgone : (s.hall.port.filter fun a => a.1 != id).find? (fun a => a.1 == id) = none :=
    List.find?_eq_none.2 fun a ha => by simpa using (List.mem_filter.1 ha).2
  rw [portAsset, putAsset, List.find?_append, hgone]
  simp

theorem portAsset_putAsset_ne {j : Nat} (hj : j ≠ id) (w h : Nat) (b : Bool) (d : List Byte) (s : State) :
    portAsset (putAsset id w h b d s) j = portAsset s j := by
  have hp (a : Nat × Nat × Nat × Bool × List Byte) : decide ((a.1 != id) = true ∧ (a.1 == j) = true) = (a.1 == j) := by
    by_cases ha : a.1 = j
    · simp [ha, hj]
    · simp [ha]
  have hnew : [(id, w, h, b, d)].find? (fun a => a.1 == j) = none := by simp [hj.symm]
  rw [portAsset, putAsset, List.find?_append, hnew, Option.or_none, List.find?_filter, funext hp, portAsset]

/-- What PA_DATA leaves of an asset's bytes d: the chunk from offset o on, cut at the end of the reservation (R130). -/
def chunkWritten (d p : List Byte) (o : Nat) : List Byte :=
  let new := ((p.drop 8).take 48).take (d.length - o)
  d.take o ++ new ++ d.drop (o + new.length)

theorem chunkWritten_length {d : List Byte} {o : Nat} (ho : o < d.length) : (chunkWritten d p o).length = d.length := by
  simp only [chunkWritten, List.length_append, List.length_take, List.length_drop]
  omega

theorem chunkWritten_getElem? {d : List Byte} {o j : Nat} (hp : p.length = 56) (ho : o < d.length) (hj : j < d.length) :
    (chunkWritten d p o)[j]? = if o ≤ j ∧ j < o + 48 then p[8 + (j - o)]? else d[j]? := by
  have hnew : (((p.drop 8).take 48).take (d.length - o)).length = min 48 (d.length - o) := by
    simp only [List.length_take, List.length_drop]
    omega
  have hbefore : (d.take o).length = o := by rw [List.length_take]; omega
  unfold chunkWritten
  dsimp only
  rw [hnew, List.append_assoc]
  by_cases h1 : j < o
  · rw [if_neg (by omega), List.getElem?_append_left (by omega), List.getElem?_take_of_lt h1]
  · rw [List.getElem?_append_right (by omega), hbefore]
    by_cases h2 : j < o + 48
    · rw [if_pos (by omega), List.getElem?_append_left (by omega), List.getElem?_take_of_lt (by omega),
        List.getElem?_take_of_lt (by omega), List.getElem?_drop]
    · rw [if_neg (by omega), List.getElem?_append_right (by omega), List.getElem?_drop, hnew]
      congr 1
      omega

/-! ## What each command makes of it (R130, R142) -/

section
variable (hs : hasSport s n = true)
include hs

omit hs in
/-- The store once PA_BEGIN has reserved its asset, filled with zeros (R130). -/
def assetBegun (p : List Byte) (s : State) : State :=
  putAsset (byteAt p 0) (leAt p 2 2) (leAt p 4 2) false (List.replicate (leAt p 2 2 * leAt p 4 2 * 2) 0) s

theorem sportBegin_fits (hid : portId (byteAt p 0) = true) (hb : assetBusy s (byteAt p 0) = false)
    (hf : leAt p 2 2 * leAt p 4 2 * 2 ≤ portFree s) :
    sportBegin n p s = (.OK, leBytes 4 (portFree (assetBegun p s)), assetBegun p s) := by
  have hroom : ¬ portFree s + ((portAsset s (byteAt p 0)).map fun a => a.2.2.2.2.length).getD 0 < leAt p 2 2 * leAt p 4 2 * 2 := by
    omega
  simp only [sportBegin, hs, hid, hb, hroom, not_true_eq_false, if_false, Bool.false_eq_true]
  rfl

theorem sportBegin_full (hid : portId (byteAt p 0) = true) (hb : assetBusy s (byteAt p 0) = false)
    (ha : portAsset s (byteAt p 0) = none) (hf : portFree s < leAt p 2 2 * leAt p 4 2 * 2) :
    sportBegin n p s = (.HALL_ASSET, leBytes 4 (portFree s), s) := by
  simp only [sportBegin, hs, hid, hb, ha, Option.map_none, Option.getD_none, Nat.add_zero, hf, not_true_eq_false, if_false, if_true,
    Bool.false_eq_true]

theorem sportBegin_busy (hid : portId (byteAt p 0) = true) (hb : assetBusy s (byteAt p 0) = true) :
    sportBegin n p s = (.HALL_ASSET_BUSY, leBytes 4 (portFree s), s) := by
  simp only [sportBegin, hs, hid, hb, not_true_eq_false, if_false, if_true]

theorem sportData_written {w h o : Nat} {d : List Byte} (hid : portId (byteAt p 0) = true)
    (ha : portAsset s (byteAt p 0) = some (byteAt p 0, w, h, false, d)) (hb : assetBusy s (byteAt p 0) = false)
    (ho : o = leAt p 4 4) (h48 : o % 48 = 0) (hlt : o < d.length) :
    sportData n p s = (.OK, [], putAsset (byteAt p 0) w h false (chunkWritten d p o) s) := by
  subst ho
  have hok : ¬ (False ∨ leAt p 4 4 % 48 ≠ 0 ∨ d.length ≤ leAt p 4 4) := by
    rintro (h | h | h)
    · exact h
    · exact h h48
    · omega
  simp only [sportData, hs, hid, hb, ha, not_true_eq_false, if_false, Bool.false_eq_true, if_neg hok]
  rfl

theorem sportSeal_sealed {w h : Nat} {b : Bool} {d : List Byte} (ha : portAsset s (byteAt p 0) = some (byteAt p 0, w, h, b, d))
    (hc : (crc32 d).toNat = leAt p 4 4) : sportSeal n p s = (.OK, [], putAsset (byteAt p 0) w h true d s) := by
  simp only [sportSeal, hs, ha, hc, not_true_eq_false, if_false, if_true]

theorem sportSeal_refused {w h : Nat} {b : Bool} {d : List Byte} (ha : portAsset s (byteAt p 0) = some (byteAt p 0, w, h, b, d))
    (hc : (crc32 d).toNat ≠ leAt p 4 4) : sportSeal n p s = (.HALL_ASSET, [], s) := by
  simp only [sportSeal, hs, ha, hc, not_true_eq_false, if_false]

end

end

/-- Settles O56: a request that is let through is answered by its command, whose outcome the branch of its checks gives. -/
theorem safetyPortAssets : Obligations.SafetyPortAssets := by
  intro s q n id w hp hs hn h8 hh hi hid
  subst hn hi
  obtain ⟨wr, -⟩ := State.wf_iff.1 w
  have answered {cmd : Byte} {r : Status × List Byte × State} (h : r.2.2.regs = (sportTaken s).regs) :
      sportAnswered s (sportReplied cmd q r) cmd q r.1 r.2.1 :=
    sportReplied_answered wr ((PortWordsKept.refl (sportTaken_wf wr)).ofRegs h)
  have run {c : Instr} {cmd : Byte} {act : SportAct} {r : Status × List Byte × State}
      (hx : exec c s = .next (sportRequest cmd q act s)) (hr : act q.slot.toNat q.payload (sportTaken s) = r) :
      exec c s = .next (sportReplied cmd q r) := exec_answered hx hp hs h8 (hasHall_of_hasSport hh) hr
  refine ⟨fun w h hw hh' hb => ?_, fun hb => ?_, fun w h d o ha hb ho h48 hlt hl => ?_,
    fun w h b d ha => ⟨fun hc => ?_, fun hc => ?_⟩⟩
  · subst hw hh'
    refine ⟨fun hf => ?_, fun hnone hf => ?_⟩
    · exact ⟨_, run rfl (sportBegin_fits (s := sportTaken s) hh hid hb hf), answered rfl,
        portAsset_putAsset_same _ _ _ _ _ _, fun j hj => portAsset_putAsset_ne hj _ _ _ _ _, rfl⟩
    · exact ⟨_, run rfl (sportBegin_full (s := sportTaken s) hh hid hb hnone hf), answered rfl, rfl, rfl⟩
  · exact ⟨_, run rfl (sportBegin_busy (s := sportTaken s) hh hid hb), answered rfl, rfl, rfl⟩
  · exact ⟨_, _, run rfl (sportData_written (s := sportTaken s) hh hid ha hb ho h48 hlt), answered rfl,
      portAsset_putAsset_same _ _ _ _ _ _, chunkWritten_length hlt, fun j hj => chunkWritten_getElem? hl hlt hj,
      fun j hj => portAsset_putAsset_ne hj _ _ _ _ _, rfl⟩
  · exact ⟨_, run rfl (sportSeal_sealed (s := sportTaken s) hh ha hc), answered rfl,
      portAsset_putAsset_same _ _ _ _ _ _, fun j hj => portAsset_putAsset_ne hj _ _ _ _ _, rfl⟩
  · exact ⟨_, run rfl (sportSeal_refused (s := sportTaken s) hh ha hc), answered rfl, rfl, rfl⟩

end Sys2Proof.Machine
end

section
/-! PROOFS. The safety port's commands on a slot: signatures, scenes, containment and release (R125, R129, R135 to R137, R142). -/

set_option Elab.async false

namespace Sys2Proof.Machine

section
variable {s t u : State} {n k : Nat} {p : List Byte}

/-! ## HLn_STATUS and the Hallmark state of a slot (R144) -/

@[simp] theorem showHall_slots (n : Nat) (s : State) : (showHall n s).slots = s.slots := by
  unfold showHall
  split <;> rfl

@[simp] theorem showHall_hall (n : Nat) (s : State) : (showHall n s).hall = s.hall := by
  unfold showHall
  split <;> rfl

@[simp] theorem slotAt_showHall (n : Nat) (s : State) (k : Nat) : slotAt (showHall n s) k = slotAt s k := by
  rw [slotAt, showHall_slots, slotAt]

theorem showHall_regs (w : s.regs.wf = true) (n : Nat) :
    (showHall n s).regs.wf = true ∧ ∀ a, a ≠ Reg.hlStatus n → reg (showHall n s) a = reg s a := by
  unfold showHall
  split
  · exact ⟨w, fun _ _ => rfl⟩
  · exact ⟨setReg_wf w _ _, fun _ ha => reg_setReg_ne w _ ha⟩

theorem hlStatus_not_portWord (n : Nat) : ¬ portWord (Reg.hlStatus n) := by
  simp only [portWord, Reg.hlStatus, Reg.hlSportStat, Reg.hlSportCnt]
  omega

theorem PortWordsKept.showHall (h : PortWordsKept s t) (n : Nat) : PortWordsKept s (showHall n t) := by
  obtain ⟨w, hr⟩ := showHall_regs h.wf n
  exact h.ofWords w fun a ha => hr a fun e => hlStatus_not_portWord n (e ▸ ha)

theorem hall_modHall_same (hn : n < 8) (f : HallSlot → HallSlot) (s : State) :
    (slotAt (modHall n f s) n).hall = f (slotAt s n).hall :=
  congrArg SlotState.hall (slotAt_modSlot_same hn _ s)

theorem slotAt_modHall_ne (h : k ≠ n) (f : HallSlot → HallSlot) (s : State) : slotAt (modHall n f s) k = slotAt s k :=
  slotAt_modSlot_ne h _ s

/-! ## GET_SIG -/

theorem sportGetSig_held {r : SigRec} (h : (slotAt s n).hall.ring[byteAt p 0]? = some r) :
    sportGetSig n p s = (.OK, sigRecBytes r, s) := by
  simp only [sportGetSig, h]

theorem sportGetSig_absent (h : (slotAt s n).hall.ring[byteAt p 0]? = none) :
    sportGetSig n p s = (.OK, (freeBytes 54 s).1, (freeBytes 54 s).2) := by
  simp only [sportGetSig, h]

theorem freeBytes_length : ∀ (n : Nat) (s : State), (freeBytes n s).1.length = n
  | 0, _ => rfl
  | n + 1, s => congrArg (· + 1) (freeBytes_length n (takeFree s).2)

theorem freeBytes_keeps (n : Nat) (s : State) : Keeps [.freeCount] s (freeBytes n s).2 :=
  keeps_freeBytes (List.Subset.refl _) n (.refl _ s)

/-! ## Scenes (R125, R129) -/

theorem sportSetScene_refused (h0 : byteAt p 0 ≠ 0) (h8 : byteAt p 0 ≠ 8) : sportSetScene n p s = (.SPORT_CMD, [], s) :=
  if_pos ⟨h0, h8⟩

/-- A pending scene with eight entries of the payload from BASE on (R142). -/
def sceneWritten (p : List Byte) (l : List SceneEnt) : List SceneEnt :=
  l.take (byteAt p 0) ++ ((List.range 8).map fun j => sceneEntry p (4 + 6 * j)) ++ l.drop (byteAt p 0 + 8)

/-- SET_SCENE writes the pending scene of slot n. -/
def sceneSet (n : Nat) (p : List Byte) (s : State) : State := modHall n (fun h => { h with pend := sceneWritten p h.pend }) s

theorem sceneSet_hall (hn : n < 8) (p : List Byte) (s : State) : (slotAt (sceneSet n p s) n).hall =
    { (slotAt s n).hall with pend := sceneWritten p (slotAt s n).hall.pend } :=
  hall_modHall_same hn _ s

theorem sportSetScene_taken (h : byteAt p 0 = 0 ∨ byteAt p 0 = 8) : sportSetScene n p s = (.OK, [], sceneSet n p s) := by
  have hb : ¬ (byteAt p 0 ≠ 0 ∧ byteAt p 0 ≠ 8) := by omega
  exact if_neg hb

/-- The pending scene of slot n is committed and waits for its boundary (R129). -/
def sceneDue (n : Nat) (s : State) : State := modHall n (fun h => { h with due := some (h.pend, (waitFor s n).1) }) s

theorem sceneDue_hall (hn : n < 8) (s : State) : (slotAt (sceneDue n s) n).hall =
    { (slotAt s n).hall with due := some ((slotAt s n).hall.pend, (waitFor s n).1) } :=
  hall_modHall_same hn _ s

theorem sportCommit_refused (h : sceneStatus s n ≠ .OK) : sportCommit n p s =
    (sceneStatus s n, leBytes 2 ((slotAt s n).hall.gen.toNat + (if (slotAt s n).hall.due.isSome then 1 else 0)), s) :=
  if_pos h

theorem sportCommit_waits (h : sceneStatus s n = .OK) (hr : projects (reckOf s n) = true) :
    sportCommit n p s = (.OK, leBytes 2 ((slotAt s n).hall.gen.toNat + 1), sceneDue n s) := by
  have hw : atOnce s n = false := congrArg (!·) hr
  simp only [sportCommit, h, hw, ne_eq, not_true_eq_false, if_false, Bool.false_eq_true]
  rfl

theorem sportCommit_atOnce (h : sceneStatus s n = .OK) (hr : projects (reckOf s n) = false) :
    sportCommit n p s = (.OK, leBytes 2 ((slotAt s n).hall.gen.toNat + 1), showHall n (applyScene n (sceneDue n s))) := by
  have hw : atOnce s n = true := congrArg (!·) hr
  simp only [sportCommit, h, hw, ne_eq, not_true_eq_false, if_false, if_true]
  rfl

/-- A scene that is due becomes the active one, and SCENE_GEN advances (R129). -/
theorem applyScene_due (hn : n < 8) {d : List SceneEnt × Nat} (h : (slotAt s n).hall.due = some d) :
    (slotAt (applyScene n s) n).hall.due = none ∧ (slotAt (applyScene n s) n).hall.active = d.1 ∧
    (slotAt (applyScene n s) n).hall.gen = (slotAt s n).hall.gen + 1 ∧
    ∀ k, k ≠ n → slotAt (applyScene n s) k = slotAt s k := by
  simp only [applyScene, h, slotAt_setFld, slotAt_modSlot_same hn, true_and]
  exact fun k hk => slotAt_modSlot_ne hk _ s

/-- A scene committed at once is active, and no other slot changes (R129, R148). -/
theorem sceneApplied_outcome (hn : n < 8) (s : State) :
    (slotAt (showHall n (applyScene n (sceneDue n s))) n).hall.due = none ∧
    (slotAt (showHall n (applyScene n (sceneDue n s))) n).hall.active = (slotAt s n).hall.pend ∧
    (slotAt (showHall n (applyScene n (sceneDue n s))) n).hall.gen = (slotAt s n).hall.gen + 1 ∧
    ∀ k, k ≠ n → slotAt (showHall n (applyScene n (sceneDue n s))) k = slotAt s k := by
  have hdue := sceneDue_hall hn s
  obtain ⟨hnone, hactive, hgen, hothers⟩ := applyScene_due hn (congrArg HallSlot.due hdue)
  simp only [slotAt_showHall]
  exact ⟨hnone, hactive, hgen.trans (congrArg (·.gen + 1) hdue), fun k hk => (hothers k hk).trans (slotAt_modHall_ne hk _ s)⟩

theorem PortWordsKept.applyScene (h : PortWordsKept s t) (n : Nat) : PortWordsKept s (applyScene n t) := by
  unfold Machine.applyScene
  split
  · exact h
  · exact (h.ofRegs (modSlot_regs _ _ _)).setReg (hlStatus_not_portWord n) _

/-! ## What deasserting LEN_n leaves of the Hallmark state -/

/-- From s to t every slot keeps its Hallmark state. -/
def HallKept (s t : State) : Prop := ∀ k, (slotAt t k).hall = (slotAt s k).hall

theorem HallKept.refl (s : State) : HallKept s s := fun _ => rfl

theorem HallKept.ofSlots (h : HallKept s t) (he : u.slots = t.slots) : HallKept s u :=
  fun k => by rw [slotAt, he]; exact h k

theorem HallKept.modSlot (h : HallKept s t) (n : Nat) (f : SlotState → SlotState)
    (hf : ∀ q, (f q).hall = q.hall := by exact fun _ => rfl) : HallKept s (modSlot n f t) := by
  intro k
  rw [← h k]
  by_cases hk : k = n
  · subst hk
    by_cases h8 : k < 8
    · rw [slotAt_modSlot_same h8, hf]
    · rw [Machine.modSlot, dif_neg h8]
  · rw [slotAt_modSlot_ne hk]

theorem HallKept.refreshCeil (h : HallKept s t) (n : Nat) : HallKept s (refreshCeil n t) := by
  unfold Machine.refreshCeil
  split
  · exact h
  · refine List.foldlRecOn _ _ (h.modSlot n _) fun u hu i _ => ?_
    dsimp only
    split
    · exact hu
    · exact hu.ofSlots (setFld_slots _ _ _ _ _)

theorem HallKept.setTarget (h : HallKept s t) (n d : Nat) : HallKept s (setTarget n d t) := by
  unfold Machine.setTarget
  split
  · exact h
  · split
    · exact h
    · refine HallKept.ofSlots (HallKept.modSlot ?_ n _) (setReg_slots _ _ _)
      split
      · exact h.ofSlots (setBit_slots _ _ _ _)
      · exact h

theorem HallKept.issueOff (h : HallKept s t) (p : Nat) (ts : BitVec 40) : HallKept s (issueOff p ts t) :=
  h.ofSlots ((keeps_issueOff (List.Subset.refl _) p ts (.refl _ t)).same (k := .slots) (by decide))

theorem HallKept.emptyHeld (h : HallKept s t) (n : Nat) : HallKept s (emptyHeld n t) :=
  (h.modSlot n _).ofSlots (setReg_slots _ _ _)

theorem HallKept.lenDrop (h : HallKept s t) (p cause : Nat) : HallKept s (lenDrop p cause t) := by
  unfold Machine.lenDrop
  split
  · extract_lets s1 s2
    have h1 : HallKept s s1 := h.ofSlots (by unfold s1; rw [setReg_slots, setBit_slots])
    have h2 : HallKept s s2 := (h1.issueOff p _).ofSlots (modPort_slots _ _ _)
    split
    · exact (((h2.modSlot _ _).refreshCeil _).emptyHeld _).setTarget _ 0
    · exact h2
  · exact h

/-! ## CONTAIN (R136, R137) -/

theorem sportContain_refused (h : 1 < byteAt p 0) : sportContain n p s = (.SPORT_CMD, [], s) := if_pos h

/-- The hold that CONTAIN value v places on slot n: 1 Dim, 2 off (R136). -/
def containHeld (n v : Nat) (s : State) : State :=
  modHall n (fun h => { h with contain := max h.contain (v + 1), containAfter := max h.containAfter (v + 1) }) s

theorem containHeld_hall (hn : n < 8) (v : Nat) (s : State) : (slotAt (containHeld n v s) n).hall =
    { (slotAt s n).hall with contain := max (slotAt s n).hall.contain (v + 1)
                             containAfter := max (slotAt s n).hall.containAfter (v + 1) } :=
  hall_modHall_same hn _ s

/-- Slot n once CONTAIN off has deasserted LEN_n (R237). -/
def containedDark (n : Nat) (s : State) : State := refreshCeil n (lenDrop (portOf s n) 5 (containHeld n 1 s))

theorem sportContain_dim (h : byteAt p 0 = 0) : sportContain n p s = (.OK, [], showHall n (withDim (containHeld n 0) s)) := by
  simp only [sportContain, h]
  rfl

theorem sportContain_off (h : byteAt p 0 = 1) : sportContain n p s = (.OK, [], showHall n (withDim (containedDark n) s)) := by
  simp only [sportContain, h]
  rfl

theorem PortWordsKept.withDim {f : State → State} (h : PortWordsKept s (f t)) : PortWordsKept s (withDim f t) := by
  obtain ⟨w, hr⟩ := withDim_regs h.wf
  refine h.ofWords w fun a ha => hr a ?_
  rintro rfl
  rcases ha with ha | ha <;> exact absurd ha (by decide)

/-- The words of the port lie below those of the light path. -/
theorem PortWordsKept.ofLight {stat : Bool} (h : PortWordsKept s t) (k : LightKept stat t u) : PortWordsKept s u := by
  obtain ⟨w, -, hr, -⟩ := k h.wf
  refine h.ofWords w fun a ha => hr a ?_
  rcases ha with rfl | rfl <;> decide

theorem LinkKept.modHall {stat : Bool} (h : LinkKept stat s t) (n : Nat) (f : HallSlot → HallSlot) :
    LinkKept stat s (modHall n f t) :=
  h.modSlot n fun q => { q with hall := f q.hall }

/-- CONTAIN off holds the slot off, and LEN_n of its port is low (R136, R237). -/
theorem containedDark_outcome (w : s.regs.wf = true) (r : RunningInRange s) (hn : n < 8) :
    PortWordsKept s (containedDark n s) ∧ (slotAt (containedDark n s) n).hall.contain = max (slotAt s n).hall.contain 2 ∧
    lenPin (containedDark n s) (portOf s n) = false := by
  have hp := r.port_lt n
  have kh : LinkKept false s (containHeld n 1 s) := (LinkKept.refl w r).modHall n _
  have kd : LinkKept true (containHeld n 1 s) (lenDrop (portOf s n) 5 (containHeld n 1 s)) :=
    (LinkKept.refl kh.wf kh.range).lenDrop hp 5
  have kc : LinkKept false (lenDrop (portOf s n) 5 (containHeld n 1 s)) (containedDark n s) :=
    (LinkKept.refl kd.wf kd.range).refreshCeil n
  refine ⟨?_, ?_, ?_⟩
  · have h1 : PortWordsKept s (containHeld n 1 s) := (PortWordsKept.refl w).ofRegs (modHall_regs _ _ _)
    exact (h1.ofLight ((LightKept.refl (stat := true) _).lenDrop hp 5)).ofLight ((LightKept.refl (stat := true) _).refreshCeil n)
  · have hk : HallKept (containHeld n 1 s) (containedDark n s) := ((HallKept.refl _).lenDrop _ 5).refreshCeil n
    rw [hk n, containHeld_hall hn]
  · rw [lenPin, rbit, kc.word _ linkWord_lcLenStat, ← rbit, ← lenPin]
    exact lenDrop_pin_same kh.wf kh.range hp 5

/-- What showing a hold leaves of the slots and of LC_LEN_STAT, once it has been placed. -/
theorem holdShown (f : State → State) (w : (f s).regs.wf = true) (hn : n < 8) :
    (∀ k, slotAt (showHall n (withDim f s)) k = slotAt (f s) k) ∧
    reg (showHall n (withDim f s)) Reg.lcLenStat = reg (f s) Reg.lcLenStat := by
  obtain ⟨wd, hd⟩ := withDim_regs w
  refine ⟨fun k => by rw [slotAt_showHall, slotAt, withDim_slots, slotAt], ?_⟩
  rw [(showHall_regs wd n).2 _ (by simp only [Reg.lcLenStat, Reg.hlStatus]; omega), hd _ (by decide)]

/-! ## RELEASE (R136) -/

/-- An accepted RELEASE waits for the next boundary of slot n. -/
def releaseHeld (n : Nat) (s : State) : State :=
  modHall n (fun h => { h with release := true, containAfter := 0, mismatchAfter := 0 }) s

theorem releaseHeld_hall (hn : n < 8) (s : State) : (slotAt (releaseHeld n s) n).hall =
    { (slotAt s n).hall with release := true, containAfter := 0, mismatchAfter := 0 } :=
  hall_modHall_same hn _ s

theorem sportRelease_accepted {a b : SigRec} {l : List SigRec} (h : (slotAt s n).hall.ring = a :: b :: l) (ha : a.flags % 2 = 1)
    (hb : b.flags % 2 = 1) : sportRelease n p s = (.OK, [], clearHallFault (releaseHeld n s)) := by
  simp only [sportRelease, h, ha, hb, and_self, if_true]
  rfl

theorem sportRelease_refused {a b : SigRec} {l : List SigRec} (h : (slotAt s n).hall.ring = a :: b :: l)
    (hm : a.flags % 2 = 0 ∨ b.flags % 2 = 0) : sportRelease n p s = (.HALL_MISMATCH, [], s) := by
  simp only [sportRelease, h]
  exact if_neg (by omega)

theorem sportRelease_short (h : (slotAt s n).hall.ring.length < 2) : sportRelease n p s = (.HALL_MISMATCH, [], s) := by
  unfold sportRelease
  split
  · next hr =>
    rw [hr] at h
    simp at h
  · rfl

theorem clearHallFault_slots (s : State) : (clearHallFault s).slots = s.slots := by
  unfold clearHallFault
  split <;> rfl

theorem slotAt_clearHallFault (s : State) (k : Nat) : slotAt (clearHallFault s) k = slotAt s k := by
  rw [slotAt, clearHallFault_slots, slotAt]

theorem PortWordsKept.clearHallFault (h : PortWordsKept s t) : PortWordsKept s (clearHallFault t) := by
  unfold Machine.clearHallFault
  split
  · exact h
  · refine h.setReg ?_ _
    rintro (e | e) <;> exact absurd e (by decide)

end

/-- Settles O55: a request that is let through is answered by its command, whose outcome the branch of its checks gives. -/
theorem safetyPortCommands : Obligations.SafetyPortCommands := by
  intro s q n w hr hp hs hn h8 hh
  subst hn
  obtain ⟨wr, -⟩ := State.wf_iff.1 w
  have kept : PortWordsKept (sportTaken s) (sportTaken s) := .refl (sportTaken_wf wr)
  have range : RunningInRange (sportTaken s) := hr.1
  have answered {cmd : Byte} {r : Status × List Byte × State} (h : PortWordsKept (sportTaken s) r.2.2) :
      sportAnswered s (sportReplied cmd q r) cmd q r.1 r.2.1 := sportReplied_answered wr h
  have run {c : Instr} {cmd : Byte} {act : SportAct} {r : Status × List Byte × State}
      (hx : exec c s = .next (sportRequest cmd q act s)) (hr : act q.slot.toNat q.payload (sportTaken s) = r) :
      exec c s = .next (sportReplied cmd q r) := exec_answered hx hp hs h8 hh hr
  refine ⟨?_, fun r h => ?_, fun h => ?_, fun h0 h8' => ?_, fun h => ?_, fun h hproj => ?_, fun h hproj => ?_, fun h => ?_,
    fun h => ⟨?_, ?_⟩, fun h => ?_, fun h => ?_, fun h => ?_, fun a b l h => ⟨fun ha hb => ?_, fun hm => ?_⟩⟩
  · exact ⟨_, run (act := sportNop) rfl rfl, answered kept, rfl⟩
  · exact ⟨_, run rfl (sportGetSig_held (s := sportTaken s) h), answered kept, rfl⟩
  · have hk := freeBytes_keeps 54 (sportTaken s)
    exact ⟨_, _, run rfl (sportGetSig_absent (s := sportTaken s) h),
      answered (kept.ofRegs (hk.same (k := .regs) (by decide))), freeBytes_length _ _, hk.same (k := .slots) (by decide)⟩
  · exact ⟨_, run rfl (sportSetScene_refused h0 h8'), answered kept, rfl⟩
  · have hset := sceneSet_hall h8 q.payload (sportTaken s)
    exact ⟨_, run rfl (sportSetScene_taken h), answered (kept.ofRegs (modHall_regs _ _ _)),
      congrArg HallSlot.pend hset, (congrArg HallSlot.active hset :), fun k hk => slotAt_modHall_ne hk _ (sportTaken s)⟩
  · have hdue := sceneDue_hall h8 (sportTaken s)
    exact ⟨_, run rfl (sportCommit_waits (s := sportTaken s) h hproj), answered (kept.ofRegs (modHall_regs _ _ _)),
      congrArg (·.due.map (·.1)) hdue, (congrArg HallSlot.active hdue :), fun k hk => slotAt_modHall_ne hk _ (sportTaken s)⟩
  · have hwords : PortWordsKept (sportTaken s) (sceneDue q.slot.toNat (sportTaken s)) := kept.ofRegs (modHall_regs _ _ _)
    exact ⟨_, run rfl (sportCommit_atOnce (s := sportTaken s) h hproj), answered ((hwords.applyScene _).showHall _),
      sceneApplied_outcome h8 (sportTaken s)⟩
  · exact ⟨_, run rfl (sportCommit_refused (s := sportTaken s) h), answered kept, rfl⟩
  · exact ⟨_, run rfl (sportContain_refused h), answered kept, rfl⟩
  · exact ⟨_, run rfl (sportContain_refused h), answered kept, rfl⟩
  · have hkept : PortWordsKept (sportTaken s) (containHeld q.slot.toNat 0 (sportTaken s)) := kept.ofRegs (modHall_regs _ _ _)
    obtain ⟨hslot, -⟩ := holdShown (s := sportTaken s) (containHeld q.slot.toNat 0) hkept.wf h8
    exact ⟨_, run rfl (sportContain_dim h), answered (hkept.withDim.showHall _),
      (congrArg (·.hall.contain) (hslot _)).trans (congrArg HallSlot.contain (containHeld_hall h8 0 (sportTaken s))),
      fun k hk => (hslot k).trans (slotAt_modHall_ne hk _ (sportTaken s))⟩
  · obtain ⟨hkept, hheld, hpin⟩ := containedDark_outcome (sportTaken_wf wr) range h8
    obtain ⟨hslot, hstat⟩ := holdShown (s := sportTaken s) (containedDark q.slot.toNat) hkept.wf h8
    exact ⟨_, run rfl (sportContain_off h), answered (hkept.withDim.showHall _),
      (congrArg (·.hall.contain) (hslot _)).trans hheld, (congrArg (bit · _) hstat).trans hpin⟩
  · exact ⟨_, run rfl (sportRelease_short (s := sportTaken s) h), answered kept, rfl⟩
  · have hheld := releaseHeld_hall h8 (sportTaken s)
    have hslot := slotAt_clearHallFault (releaseHeld q.slot.toNat (sportTaken s))
    rw [← hslot] at hheld
    exact ⟨_, run rfl (sportRelease_accepted (s := sportTaken s) h ha hb),
      answered (kept.ofRegs (modHall_regs _ _ _)).clearHallFault, congrArg HallSlot.release hheld,
      congrArg HallSlot.containAfter hheld, congrArg HallSlot.mismatchAfter hheld,
      fun k hk => (hslot k).trans (slotAt_modHall_ne hk _ (sportTaken s))⟩
  · exact ⟨_, run rfl (sportRelease_refused (s := sportTaken s) h hm), answered kept, rfl⟩

end Sys2Proof.Machine
end

section
/-! PROOFS. Signature records, the first mismatch, and a fault of the Hallmark stores (R127, R134, R135, R144). -/

set_option Elab.async false

namespace Sys2Proof.Machine

section
variable {s t : State} {n : Nat} {f : FrameTap} {disturb : Word}

/-! ## HLn_STATUS (R144) -/

theorem hasHall_congr (h : t.slots = s.slots) (n : Nat) : hasHall t n = hasHall s n := by
  rw [hasHall, cfgOf_congr h, hasHall]

theorem bit_or (a b : Word) (i : Nat) : bit (a ||| b) i = (bit a i || bit b i) := BitVec.getLsbD_or

theorem bit_at_same (hi : n < 32) (b : Bool) : bit (at_ n n (if b then 1 else 0)) n = b := by
  rw [at_eq_putFld, bit, putFld_bit _ _ hi (le_refl n) hi, if_pos ⟨le_refl n, le_refl n⟩, Nat.sub_self]
  cases b <;> rfl

theorem bit_at_out {hi lo i : Nat} (x : Nat) (hh : hi < 32) (hl : lo ≤ hi) (h : i < lo ∨ hi < i) : bit (at_ hi lo x) i = false := by
  rw [at_eq_putFld, bit_putFld_out _ _ hh hl h]
  exact BitVec.getLsbD_zero

/-- MISMATCH_RUN and STORE as HLn_STATUS shows them. -/
theorem showHall_fields (w : s.regs.wf = true) (hh : hasHall s n = true) :
    rfld (showHall n s) (Reg.hlStatus n) 15 8 = (slotAt s n).hall.run % 256 ∧
    rbit (showHall n s) (Reg.hlStatus n) 3 = s.hall.store := by
  rw [showHall, if_neg (not_not.2 hh), rfld, rbit, reg_setReg_same w]
  constructor
  · simp only [fld_or]
    rw [fld_at_same _ (by decide) (by decide)]
    iterate 4 rw [fld_at_out _ (by decide) (by decide) (by decide) (by decide)]
    simp
  · simp only [bit_or]
    rw [bit_at_same (by decide)]
    iterate 4 rw [bit_at_out _ (by decide) (by decide) (by decide)]
    simp

theorem newestLog_showHall (w : s.regs.wf = true) (hn : n < 8) : newestLog (showHall n s) = newestLog s := by
  refine newestLog_of_kept fun a ha => (showHall_regs w n).2 a ?_
  simp only [Reg.frLogStat, Reg.frLog, Reg.hlStatus] at *
  omega

/-! ## A record enters the ring (R134) -/

/-- The record of a frame: its actual signature, whether it matches, and MISMATCH_RUN with it (R134, R142). -/
def recordOf (f : FrameTap) (actual : Word) (same : Bool) (run : Nat) (s : State) : SigRec :=
  { flags := sigFlags f same s.hall.store, frame := f.frame.toNat, actual := actual, expected := f.expected
    signed := f.signed, shift := unsigned 16 f.shift, sceneGen := f.gen.toNat, run := run, boundary := f.boundary }

/-- A slot's Hallmark state once a record has entered its ring. -/
def recorded (r : SigRec) (h : HallSlot) : HallSlot := { h with ring := (r :: h.ring).take 8, run := r.run }

/-- The part once a frame's record has entered the ring and stands in the registers. -/
def recordShown (n : Nat) (f : FrameTap) (r : SigRec) (s : State) : State :=
  setReg (Reg.hlFrame n) f.frame (setReg (Reg.hlSigExp n) f.expected (setReg (Reg.hlSigAct n) r.actual
    (modHall n (recorded r) (modSlot n (fun q => { q with tapPrev := none }) s))))

theorem signatureRecord_match (ht : (slotAt s n).tapPrev = some f) (hh : hasHall s n = true) (h : f.actual ^^^ disturb = f.expected) :
    signatureRecord n disturb s = showHall n (recordShown n f (recordOf f f.expected true 0 s) s) := by
  simp only [signatureRecord, ht, hh, h, not_true_eq_false, if_false, beq_self_eq_true, if_true]
  rfl

theorem signatureRecord_mismatch (ht : (slotAt s n).tapPrev = some f) (hh : hasHall s n = true)
    (h : f.actual ^^^ disturb ≠ f.expected) {run : Nat} (hr : run = min 255 ((slotAt s n).hall.run + 1)) :
    signatureRecord n disturb s =
      showHall n (mismatchStep n run (recordShown n f (recordOf f (f.actual ^^^ disturb) false run s) s)) := by
  have hb : (f.actual ^^^ disturb == f.expected) = false := beq_eq_false_iff_ne.2 h
  subst hr
  simp only [signatureRecord, ht, hh, hb, not_true_eq_false, if_false, Bool.false_eq_true]
  rfl

theorem recordShown_regs (w : s.regs.wf = true) (n : Nat) (f : FrameTap) (r : SigRec) :
    (recordShown n f r s).regs.wf = true ∧ reg (recordShown n f r s) (Reg.hlSigAct n) = r.actual ∧
    reg (recordShown n f r s) (Reg.hlSigExp n) = f.expected ∧ reg (recordShown n f r s) (Reg.hlFrame n) = f.frame := by
  have w0 : (modHall n (recorded r) (modSlot n (fun q => { q with tapPrev := none }) s)).regs.wf = true := by
    rwa [modHall_regs, modSlot_regs]
  have w1 := setReg_wf w0 (Reg.hlSigAct n) r.actual
  have w2 := setReg_wf w1 (Reg.hlSigExp n) f.expected
  have hae : Reg.hlSigAct n ≠ Reg.hlSigExp n := by simp only [Reg.hlSigAct, Reg.hlSigExp]; omega
  have haf : Reg.hlSigAct n ≠ Reg.hlFrame n := by simp only [Reg.hlSigAct, Reg.hlFrame]; omega
  have hef : Reg.hlSigExp n ≠ Reg.hlFrame n := by simp only [Reg.hlSigExp, Reg.hlFrame]; omega
  refine ⟨setReg_wf w2 _ _, ?_, ?_, reg_setReg_same w2 _ _⟩
  · rw [recordShown, reg_setReg_ne w2 _ haf, reg_setReg_ne w1 _ hae, reg_setReg_same w0]
  · rw [recordShown, reg_setReg_ne w2 _ hef, reg_setReg_same w1]

theorem recordShown_slot (hn : n < 8) (f : FrameTap) (r : SigRec) (s : State) : slotAt (recordShown n f r s) n =
    { slotAt s n with tapPrev := none, hall := recorded r (slotAt s n).hall } :=
  (slotAt_modSlot_same hn _ _).trans (by rw [slotAt_modSlot_same hn])

theorem recordShown_others (f : FrameTap) (r : SigRec) (s : State) {k : Nat} (hk : k ≠ n) :
    slotAt (recordShown n f r s) k = slotAt s k :=
  (slotAt_modSlot_ne hk _ _).trans (slotAt_modSlot_ne hk _ s)

theorem hasHall_recordShown (hn : n < 8) (f : FrameTap) (r : SigRec) (s : State) :
    hasHall (recordShown n f r s) n = hasHall s n := by
  rw [hasHall, cfgOf, recordShown_slot hn, hasHall, cfgOf]

theorem hlSig_ne_status (n : Nat) :
    Reg.hlSigAct n ≠ Reg.hlStatus n ∧ Reg.hlSigExp n ≠ Reg.hlStatus n ∧ Reg.hlFrame n ≠ Reg.hlStatus n := by
  simp only [Reg.hlSigAct, Reg.hlSigExp, Reg.hlFrame]
  omega

theorem hlArea_not_logArea {a : Nat} (hl : 0x400000 ≤ a) (hh : a < 0x500000) : ¬ logArea a := by
  simp only [logArea, Reg.msixPba, Reg.frLogStat, Reg.frFault, Reg.frLog]
  omega

/-! ## A store fault (R127) -/

/-- The part once a scrub of the Hallmark stores has failed. -/
def storeFailed (s : State) : State := { s with hall := { s.hall with store := true } }

theorem exec_hallStore (hp : powered s = true) :
    exec .hallStore s = .next (forAll (List.range 8) showHall (logEvent .HALL_STORE clsPart 0 0 (storeFailed s))) :=
  congrArg Host.Outcome.next (if_pos hp)

/-- Showing the Hallmark state of slots writes their HLn_STATUS alone. -/
theorem forAll_showHall_kept (l : List Nat) (hl : ∀ k ∈ l, k < 8) (w : s.regs.wf = true) :
    (forAll l showHall s).regs.wf = true ∧ (forAll l showHall s).slots = s.slots ∧ (forAll l showHall s).hall = s.hall ∧
    newestLog (forAll l showHall s) = newestLog s := by
  induction l generalizing s with
  | nil => exact ⟨w, rfl, rfl, rfl⟩
  | cons k l ih =>
    obtain ⟨w', hslots, hhall, hlog⟩ := ih (fun j hj => hl j (.tail _ hj)) (showHall_regs w k).1
    exact ⟨w', hslots.trans (showHall_slots k s), hhall.trans (showHall_hall k s),
      hlog.trans (newestLog_showHall w (hl k (.head _)))⟩

/-- After a store fault every slot shown has STORE in HLn_STATUS. -/
theorem forAll_showHall_store (l : List Nat) (w : s.regs.wf = true) (hs : s.hall.store = true) (hh : hasHall s n = true)
    (h : n ∈ l ∨ rbit s (Reg.hlStatus n) 3 = true) : rbit (forAll l showHall s) (Reg.hlStatus n) 3 = true := by
  induction l generalizing s with
  | nil => exact h.resolve_left List.not_mem_nil
  | cons k l ih =>
    obtain ⟨w', hr⟩ := showHall_regs w k
    refine ih w' (by rwa [showHall_hall]) (by rwa [hasHall_congr (showHall_slots k s)]) ?_
    by_cases hk : n = k
    · subst hk
      exact .inr ((showHall_fields w hh).2.trans hs)
    · refine h.imp (fun hm => (List.mem_cons.1 hm).resolve_left hk) fun hb => ?_
      rw [rbit, hr _ (by simp only [Reg.hlStatus]; omega), ← rbit, hb]

end

/-- Settles O35: a record that matches ends the run; the first that does not is logged; a store fault reaches every slot's word. -/
theorem signatureRecords : Obligations.SignatureRecords := by
  intro s w hp
  obtain ⟨wr, -⟩ := State.wf_iff.1 w
  refine ⟨fun n disturb f ht hh => ⟨fun h => ?_, fun h hrun => ?_⟩, ?_⟩
  · have hx := signatureRecord_match ht hh h
    obtain ⟨wu, hact, hexp, hframe⟩ := recordShown_regs wr n.val f (recordOf f f.expected true 0 s)
    obtain ⟨-, hr⟩ := showHall_regs wu n.val
    obtain ⟨na, ne, nf⟩ := hlSig_ne_status n.val
    have hslot := (slotAt_showHall n.val _ n.val).trans (recordShown_slot n.isLt f (recordOf f f.expected true 0 s) s)
    refine ⟨_, congrArg Host.Outcome.next ((if_pos hp).trans hx), congrArg (·.hall.run) hslot, congrArg (·.tapPrev) hslot,
      (hr _ na).trans hact, (hr _ ne).trans hexp, (hr _ nf).trans hframe,
      ⟨_, congrArg (·.hall.ring) hslot, rfl, rfl, rfl, rfl, rfl⟩, fun k hk => ?_⟩
    exact (slotAt_showHall n.val _ k).trans (recordShown_others f _ s hk)
  · have hx := signatureRecord_mismatch (run := 1) ht hh h (by rw [hrun]; rfl)
    obtain ⟨wu, hact, -⟩ := recordShown_regs wr n.val f (recordOf f (f.actual ^^^ disturb) false 1 s)
    have hslot := recordShown_slot n.isLt f (recordOf f (f.actual ^^^ disturb) false 1 s) s
    have hhall := (hasHall_recordShown n.isLt f (recordOf f (f.actual ^^^ disturb) false 1 s) s).trans hh
    generalize recordShown n.val f (recordOf f (f.actual ^^^ disturb) false 1 s) s = u at *
    obtain ⟨wl, hlog⟩ := logEvent_regs wu .HALL_MISMATCH clsPart n.val 0
    have hslots := logEvent_slots .HALL_MISMATCH clsPart n.val 0 u
    obtain ⟨-, hr⟩ := showHall_regs wl n.val
    have hlslot : slotAt (logEvent .HALL_MISMATCH clsPart n.val 0 u) n.val = slotAt u n.val := by rw [slotAt, hslots, slotAt]
    obtain ⟨hshown, -⟩ := showHall_fields wl ((hasHall_congr hslots n.val).trans hhall)
    refine ⟨_, congrArg Host.Outcome.next ((if_pos hp).trans hx), ?_, ?_, ?_, ?_⟩
    · exact congrArg (·.hall.run) ((slotAt_showHall n.val _ n.val).trans (hlslot.trans hslot))
    · have ha : ¬ logArea (Reg.hlSigAct n.val) := hlArea_not_logArea (by simp only [Reg.hlSigAct, Reg.hlStatus]; omega)
        (by simp only [Reg.hlSigAct, Reg.hlStatus]; omega)
      exact (hr _ (hlSig_ne_status n.val).1).trans ((hlog _ ha).trans hact)
    · exact (newestLog_showHall wl n.isLt).trans (logEvent_newest wu _ _ _ _)
    · exact hshown.trans (congrArg (·.hall.run % 256) (hlslot.trans hslot))
  · have wu : (storeFailed s).regs.wf = true := wr
    have wl := (logEvent_regs wu .HALL_STORE clsPart 0 0).1
    have hslots := logEvent_slots .HALL_STORE clsPart 0 0 (storeFailed s)
    have hhall := logEvent_hall .HALL_STORE clsPart 0 0 (storeFailed s)
    obtain ⟨-, -, hsame, hlog⟩ := forAll_showHall_kept (List.range 8) (fun k hk => List.mem_range.1 hk) wl
    refine ⟨_, exec_hallStore hp, hsame.trans hhall, hlog.trans (logEvent_newest wu _ _ _ _), fun n hh => ?_⟩
    exact forAll_showHall_store _ wl (congrArg HallState.store hhall) ((hasHall_congr hslots n.val).trans hh)
      (.inl (List.mem_range.2 n.isLt))

end Sys2Proof.Machine
end

section
/-! PROOFS. Store units of planes and layers: blocks packed by a compressor lane or kept raw, and units that fail a decompressor
lane (R170, R189, R190, R383, R389; log entry 59). -/

set_option Elab.async false

namespace Sys2Proof.Machine

section
variable {s : State} {n k i u : Nat} {c : SlotCast} {bs : List Byte} {err : Status}

theorem cfgOf_of_arrayRuns (h : arrayRuns s n = some c) : cfgOf s n = some c := by
  unfold arrayRuns at h
  split at h
  · next hc =>
    obtain ⟨-, he⟩ := Option.ite_none_right_eq_some.1 h
    exact hc.trans he
  · contradiction

/-! ## COMPRESSOR_BLOCK_DONE (R189) -/

/-- A block counted in one half of CD_CNT_A and of SLn_CNT_A: packed blocks in [15:0], raw ones in [31:16]. -/
def blockCounted (n hi lo : Nat) (s : State) : State := incSat (Reg.slCntA n) hi lo (addSat Reg.cdCntA hi lo 1 s)

theorem rfld_blockCounted (w : s.regs.wf = true) (n : Nat) {hi lo : Nat} (hh : hi < 32) (hl : lo ≤ hi) :
    rfld (blockCounted n hi lo s) (Reg.slCntA n) hi lo = min (rfld s (Reg.slCntA n) hi lo + 1) (2 ^ (hi + 1 - lo) - 1) := by
  have hne : Reg.slCntA n ≠ Reg.cdCntA := by simp only [Reg.slCntA, Reg.sl, Reg.cdCntA]; omega
  have w1 : (addSat Reg.cdCntA hi lo 1 s).regs.wf = true := setFld_wf w _ _ _ _
  have hkept : rfld (addSat Reg.cdCntA hi lo 1 s) (Reg.slCntA n) hi lo = rfld s (Reg.slCntA n) hi lo :=
    rfld_setFld_ne w _ _ _ _ _ hne
  rw [blockCounted, incSat, rfld_addSat_same w1 _ _ hh hl, hkept]

/-- The part once block i of entry k stands packed as p, with its directory word (R170). -/
def blockPacked (n : Nat) (c : SlotCast) (k i : Nat) (p : List Byte) (s : State) : State :=
  dramWrite (dirAddr s n c k i) (leBytes 4 p.length) (dramWrite (blockSlot s n c k i) p s)

theorem packPlaneBlock_eq (h : arrayRuns s n = some c) (hp : pdOff s 11 = false) (hb : rawBlock s n c k i = some bs) :
    packPlaneBlock n k i s =
      if (storeUnit bs).2 = true ∨ 4096 ≤ (storeUnit bs).1.length then blockCounted n 31 16 s
      else blockCounted n 15 0 (blockPacked n c k i (storeUnit bs).1 s) := by
  simp only [packPlaneBlock, h, hp, hb, Bool.false_eq_true, if_false]
  rfl

theorem exec_compressorBlockDone_plane (n : Slot) (k i : Nat) (hu : upNow s = true) :
    exec (.compressorBlockDone (.plane n k i)) s = .next (packPlaneBlock n.val k i s) :=
  congrArg Host.Outcome.next (whileUp_up hu _)

/-! ## RAW_BUSY (R189) -/

/-- The part once a block has stayed raw because no lane was free: flagged, and counted as busy and as raw. -/
def busyCounted (n : Nat) (s : State) : State :=
  setBit (Reg.slFlags n) 3 true (incSat (Reg.slCntC n) 31 16 (incSat (Reg.slCntA n) 31 16 s))

theorem rawBusy_eq (h : arrayRuns s n = some c) (hp : pdOff s 11 = false) (hb : rawBlock s n c k i = some bs) :
    rawBusy n k i s = busyCounted n s := by
  simp only [rawBusy, h, hp, hb, Bool.false_eq_true, if_false]
  rfl

theorem busyCounted_fields (w : s.regs.wf = true) (n : Nat) :
    rbit (busyCounted n s) (Reg.slFlags n) 3 = true ∧
    rfld (busyCounted n s) (Reg.slCntC n) 31 16 = min (rfld s (Reg.slCntC n) 31 16 + 1) 65535 ∧
    rfld (busyCounted n s) (Reg.slCntA n) 31 16 = min (rfld s (Reg.slCntA n) 31 16 + 1) 65535 := by
  have w1 : (incSat (Reg.slCntA n) 31 16 s).regs.wf = true := setFld_wf w _ _ _ _
  have w2 : (incSat (Reg.slCntC n) 31 16 (incSat (Reg.slCntA n) 31 16 s)).regs.wf = true := setFld_wf w1 _ _ _ _
  have hca : Reg.slCntC n ≠ Reg.slCntA n := by simp [Reg.slCntC, Reg.slCntA]
  have hcf : Reg.slCntC n ≠ Reg.slFlags n := by simp [Reg.slCntC, Reg.slFlags]
  have haf : Reg.slCntA n ≠ Reg.slFlags n := by simp [Reg.slCntA, Reg.slFlags]
  refine ⟨rbit_setBit_same w2 _ _ (by decide), ?_, ?_⟩
  · calc rfld (busyCounted n s) (Reg.slCntC n) 31 16
        = rfld (incSat (Reg.slCntC n) 31 16 (incSat (Reg.slCntA n) 31 16 s)) (Reg.slCntC n) 31 16 :=
          rfld_setFld_ne w2 _ _ _ _ _ hcf
      _ = min (rfld (incSat (Reg.slCntA n) 31 16 s) (Reg.slCntC n) 31 16 + 1) 65535 :=
          rfld_addSat_same w1 _ 1 (by decide) (by decide)
      _ = min (rfld s (Reg.slCntC n) 31 16 + 1) 65535 := by rw [incSat, addSat, rfld_setFld_ne w _ _ _ _ _ hca]
  · calc rfld (busyCounted n s) (Reg.slCntA n) 31 16
        = rfld (incSat (Reg.slCntC n) 31 16 (incSat (Reg.slCntA n) 31 16 s)) (Reg.slCntA n) 31 16 :=
          rfld_setFld_ne w2 _ _ _ _ _ haf
      _ = rfld (incSat (Reg.slCntA n) 31 16 s) (Reg.slCntA n) 31 16 := rfld_setFld_ne w1 _ _ _ _ _ hca.symm
      _ = min (rfld s (Reg.slCntA n) 31 16 + 1) 65535 := rfld_addSat_same w _ 1 (by decide) (by decide)

theorem exec_rawBusy (n : Slot) (k i : Nat) (hu : upNow s = true) : exec (.rawBusy n k i) s = .next (rawBusy n.val k i s) :=
  congrArg Host.Outcome.next (whileUp_up hu _)

/-! ## DECOMPRESSOR_BLOCK_DONE (R190, R383, R389) -/

theorem planeBlockDone_failed (h : arrayRuns s n = some c) (hl : (loadBlock s n c k i).1 = .inl err) :
    planeBlockDone n k i s = incSat Reg.cdCntB 31 16 s := by
  simp only [planeBlockDone, h, hl]

theorem planeBlockDone_decoded (h : arrayRuns s n = some c) (hl : (loadBlock s n c k i).1 = .inr bs) :
    planeBlockDone n k i s = s := by
  simp only [planeBlockDone, h, hl]

theorem exec_decompressorBlockDone_plane (n : Slot) (k i : Nat) (hu : upNow s = true) :
    exec (.decompressorBlockDone (.plane n k i)) s = .next (planeBlockDone n.val k i s) :=
  congrArg Host.Outcome.next (whileUp_up hu _)

theorem layerUnitDone_failed {p : Nat} {l : LayerCfg} (hc : cfgOf s n = some c) (hp : isLayerPitch c p = true)
    (hb : c.pipe.pitchBase ≤ p) (hl : activeLayer s c (pitchCode c p) = l) (he : l.en = true) (hk : l.kind = 1)
    (hu : u < streamUnits (layerRawLen l)) (hx : layerUnit s l u = .inl err) :
    layerUnitDone n p u s = layerCorrupt n (incSat Reg.cdCntB 31 16 s) := by
  have hpitch : ¬ (¬ isLayerPitch c p = true ∨ p < c.pipe.pitchBase) := not_or.2 ⟨not_not.2 hp, not_lt.2 hb⟩
  have hunit : ¬ (¬ l.en = true ∨ l.kind ≠ 1 ∨ streamUnits (layerRawLen l) ≤ u) :=
    not_or.2 ⟨not_not.2 he, not_or.2 ⟨not_not.2 hk, not_le.2 hu⟩⟩
  simp only [layerUnitDone, hc, hl, hx, if_neg hpitch, if_neg hunit]

/-- A unit that fails sets LAYER_CORRUPT in CD_ERR and is the newest entry of the log (R389). -/
theorem layerCorrupt_noted (w : s.regs.wf = true) (n : Nat) :
    rbit (layerCorrupt n s) Reg.cdErr 2 = true ∧ newestLog (layerCorrupt n s) = logWord .LAYER_CORRUPT clsPart n ∧
    (layerCorrupt n s).slots = s.slots := by
  have w1 : (incSat Reg.cdCntB 15 0 s).regs.wf = true := setFld_wf w _ _ _ _
  have w2 := setBit_wf w1 Reg.cdErr 2 true
  have hlog : ¬ logArea Reg.cdErr := by
    simp only [logArea, Reg.cdErr, Reg.msixPba, Reg.frLogStat, Reg.frFault, Reg.frLog]
    omega
  have hbit : rbit (layerCorrupt n s) Reg.cdErr 2 = rbit (setBit Reg.cdErr 2 true (incSat Reg.cdCntB 15 0 s)) Reg.cdErr 2 :=
    congrArg (bit · 2) ((logEvent_regs w2 _ _ _ _).2 _ hlog)
  exact ⟨hbit.trans (rbit_setBit_same w1 _ _ (by decide)), logEvent_newest w2 _ _ _ _, logEvent_slots _ _ _ _ _⟩

theorem exec_decompressorBlockDone_layer (n : Slot) (p : PitchId) (u : Nat) (hu : upNow s = true) :
    exec (.decompressorBlockDone (.layer n p u)) s = .next (layerUnitDone n.val p.val u s) :=
  congrArg Host.Outcome.next (whileUp_up hu _)

end

/-- Settles O37: each command comes to one branch of its operation. That a plane's failed block changes CD_CNT_B alone, its flags
standing until the slicer loads it (R190), is the model's reading in log entry 59. -/
theorem storeUnits : Obligations.StoreUnits := by
  intro s n c e b w hup h
  obtain ⟨wr, -⟩ := State.wf_iff.1 w
  refine ⟨fun bs hp hb => ⟨fun hpk hlen => ?_, fun hraw => ?_, ?_⟩, ⟨fun err hl => ?_, fun bs hl => ?_⟩,
    fun p u err hp hbase he hk hu hx => ?_⟩
  · have hop : packPlaneBlock n.val e b s = blockCounted n.val 15 0 (blockPacked n.val c e b (storeUnit bs).1 s) :=
      (packPlaneBlock_eq h hp hb).trans (if_neg (not_or.2 ⟨ne_true_of_eq_false hpk, not_le.2 hlen⟩))
    have wp : (blockPacked n.val c e b (storeUnit bs).1 s).regs.wf = true := wr
    exact ⟨_, (exec_compressorBlockDone_plane n e b hup).trans (congrArg Host.Outcome.next hop), rfl,
      rfld_blockCounted wp n.val (by decide) (by decide), rfl⟩
  · have hop : packPlaneBlock n.val e b s = blockCounted n.val 31 16 s := (packPlaneBlock_eq h hp hb).trans (if_pos (.inl hraw))
    exact ⟨_, (exec_compressorBlockDone_plane n e b hup).trans (congrArg Host.Outcome.next hop), rfl,
      rfld_blockCounted wr n.val (by decide) (by decide)⟩
  · have hop := rawBusy_eq h hp hb
    exact ⟨_, (exec_rawBusy n e b hup).trans (congrArg Host.Outcome.next hop), rfl, busyCounted_fields wr n.val⟩
  · have hop := planeBlockDone_failed h hl
    exact ⟨_, (exec_decompressorBlockDone_plane n e b hup).trans (congrArg Host.Outcome.next hop),
      rfld_addSat_same wr _ 1 (by decide) (by decide), fun a ha => reg_setFld_ne wr _ _ _ ha⟩
  · have hop := planeBlockDone_decoded h hl
    exact (exec_decompressorBlockDone_plane n e b hup).trans (congrArg Host.Outcome.next hop)
  · have hop := layerUnitDone_failed (cfgOf_of_arrayRuns h) hp hbase rfl he hk hu hx
    exact ⟨_, (exec_decompressorBlockDone_layer n p u hup).trans (congrArg Host.Outcome.next hop),
      layerCorrupt_noted (setFld_wf wr _ _ _ _) n.val⟩

end Sys2Proof.Machine
end

section
/-! PROOFS. The life of a line in the trial queue: its entry, its render, its strike and its dark end, the end of its window, and
the probe (R204, R205, R211, R212, R215 to R220, R225). -/

set_option Elab.async false

namespace Sys2Proof.Machine

section
variable {n i k : Nat} {e e' : LineEnt} {c : SlotCast} {s t u : State} {late : List (Nat × Nat)}

/-! ## What a command on one entry leaves -/

/-- From s to t entry i of slot n becomes e. The other entries and the other slots stand, and so does what the commit rule reads
of slot n beside the entry: its Cast, its reckoner, its line settings, and link time. -/
structure EntryBecomes (n i : Nat) (e : LineEnt) (s t : State) : Prop where
  inQueue : i < (slotAt t n).trial.length
  entry : entAt t n i = e
  entries : ∀ j, j ≠ i → entAt t n j = entAt s n j
  others : ∀ k, k ≠ n → slotAt t k = slotAt s k
  cfg : cfgOf t n = cfgOf s n
  reck : reckOf t n = reckOf s n
  settings : (slotAt t n).lines.cfg = (slotAt s n).lines.cfg
  time : t.linkTime = s.linkTime

/-- An entry beyond the queue's depth reads as EMPTY, so one that is not EMPTY is in the queue. -/
theorem inQueue_of_not_empty (h : (entAt s n i).state ≠ .empty) : i < (slotAt s n).trial.length := by
  by_contra hi
  rw [entAt, List.getElem?_eq_none (not_lt.1 hi)] at h
  exact h rfl

theorem EntryBecomes.refl (hi : i < (slotAt s n).trial.length) : EntryBecomes n i (entAt s n i) s s :=
  ⟨hi, rfl, fun _ _ => rfl, fun _ _ => rfl, rfl, rfl, rfl, rfl⟩

theorem EntryBecomes.trans (h : EntryBecomes n i e s t) (h' : EntryBecomes n i e' t u) : EntryBecomes n i e' s u :=
  ⟨h'.inQueue, h'.entry, fun j hj => (h'.entries j hj).trans (h.entries j hj),
    fun k hk => (h'.others k hk).trans (h.others k hk),
    h'.cfg.trans h.cfg, h'.reck.trans h.reck, h'.settings.trans h.settings, h'.time.trans h.time⟩

theorem EntryBecomes.ofSlots (h : EntryBecomes n i e s t) (he : u.slots = t.slots) (ht : u.linkTime = t.linkTime) :
    EntryBecomes n i e s u := by
  have hs (k : Nat) : slotAt u k = slotAt t k := by rw [slotAt, he, slotAt]
  have hent (j : Nat) : entAt u n j = entAt t n j := by rw [entAt, hs, entAt]
  exact ⟨hs n ▸ h.inQueue, (hent i).trans h.entry, fun j hj => (hent j).trans (h.entries j hj),
    fun k hk => (hs k).trans (h.others k hk), by rw [cfgOf, hs]; exact h.cfg, by rw [reckOf, hs]; exact h.reck,
    by rw [hs]; exact h.settings, ht.trans h.time⟩

theorem EntryBecomes.keep {F : List Kind} (h : EntryBecomes n i e s t) (k : Keeps F t u) (hs : Kind.slots ∉ F := by decide)
    (ht : Kind.linkTime ∉ F := by decide) : EntryBecomes n i e s u := h.ofSlots (k.same hs) (k.same ht)

theorem EntryBecomes.ite {p : Prop} {_ : Decidable p} (ht : EntryBecomes n i e s t) (hu : EntryBecomes n i e s u) :
    EntryBecomes n i e s (if p then t else u) := by
  split
  · exact ht
  · exact hu

theorem EntryBecomes.setReg (h : EntryBecomes n i e s t) (a : Nat) (v : Word) : EntryBecomes n i e s (setReg a v t) :=
  h.ofSlots rfl rfl

theorem EntryBecomes.setBit (h : EntryBecomes n i e s t) (a b : Nat) (x : Bool) : EntryBecomes n i e s (setBit a b x t) :=
  h.ofSlots rfl rfl

/-- A change of slot n outside the queue and what the commit rule reads. -/
theorem EntryBecomes.modSlot (h : EntryBecomes n i e s t) (hn : n < 8) (f : SlotState → SlotState)
    (hf : ∀ q, (f q).trial = q.trial ∧ (f q).cfg = q.cfg ∧ (f q).reck = q.reck ∧ (f q).lines.cfg = q.lines.cfg := by
      exact fun _ => ⟨rfl, rfl, rfl, rfl⟩) : EntryBecomes n i e s (modSlot n f t) := by
  obtain ⟨htrial, hcfg, hreck, hset⟩ := hf (slotAt t n)
  have hs := slotAt_modSlot_same hn f t
  have hent (j : Nat) : entAt (Machine.modSlot n f t) n j = entAt t n j := by rw [entAt, hs, htrial, entAt]
  exact ⟨by rw [hs, htrial]; exact h.inQueue, (hent i).trans h.entry, fun j hj => (hent j).trans (h.entries j hj),
    fun k hk => (slotAt_modSlot_ne hk f t).trans (h.others k hk), by rw [cfgOf, hs, hcfg]; exact h.cfg,
    by rw [reckOf, hs, hreck]; exact h.reck, by rw [hs, hset]; exact h.settings, (modSlot_linkTime n f t).trans h.time⟩

theorem EntryBecomes.modLines (h : EntryBecomes n i e s t) (hn : n < 8) (f : LineBuild → LineBuild)
    (hf : ∀ l, (f l).cfg = l.cfg := by exact fun _ => rfl) : EntryBecomes n i e s (modLines n f t) :=
  h.modSlot hn _ fun q => ⟨rfl, rfl, rfl, hf q.lines⟩

theorem EntryBecomes.modEnt (h : EntryBecomes n i e s t) (hn : n < 8) (f : LineEnt → LineEnt) :
    EntryBecomes n i (f e) s (modEnt n i f t) := by
  have hs := slotAt_modSlot_same hn (fun q => { q with trial := q.trial.modify i f }) t
  have hent (j : Nat) : entAt (Machine.modEnt n i f t) n j = (((slotAt t n).trial.modify i f)[j]?).getD LineEnt.empty :=
    congrArg (fun q : SlotState => (q.trial[j]?).getD LineEnt.empty) hs
  refine ⟨?_, ?_, fun j hj => ?_, fun k hk => (slotAt_modSlot_ne hk _ t).trans (h.others k hk),
    (congrArg SlotState.cfg hs).trans h.cfg, (congrArg SlotState.reck hs).trans h.reck,
    (congrArg (fun q : SlotState => q.lines.cfg) hs).trans h.settings, (modSlot_linkTime n _ t).trans h.time⟩
  · rw [Machine.modEnt, hs, List.length_modify]
    exact h.inQueue
  · rw [hent, List.getElem?_modify_eq, ← h.entry, entAt, List.getElem?_eq_getElem h.inQueue]
    rfl
  · rw [hent, List.getElem?_modify_ne _ _ hj.symm, ← entAt]
    exact h.entries j hj

/-! ## The operations that lines share -/

theorem EntryBecomes.showDemand (h : EntryBecomes n i e s t) : EntryBecomes n i e s (showDemand n t) := h.setReg _ _

theorem EntryBecomes.noteDarkLine (h : EntryBecomes n i e s t) (hn : n < 8) (f : BitVec 32) :
    EntryBecomes n i e s (noteDarkLine n f t) := h.modLines hn _

theorem EntryBecomes.noteReads (h : EntryBecomes n i e s t) (hn : n < 8) (x : LineEnt) :
    EntryBecomes n i e s (noteReads n x t) := by
  unfold Machine.noteReads
  exact h.modLines hn _

theorem EntryBecomes.lineDecided (h : EntryBecomes n i e s t) (hn : n < 8) (c : SlotCast) (x : LineEnt) :
    EntryBecomes n i e s (lineDecided n c x t) := .ite h (h.modLines hn _)

theorem EntryBecomes.setTarget (h : EntryBecomes n i e s t) (hn : n < 8) (d : Nat) : EntryBecomes n i e s (setTarget n d t) := by
  unfold Machine.setTarget
  split
  · exact h
  · exact .ite h (((EntryBecomes.ite (h.setBit _ _ _) h).modSlot hn _).setReg _ _)

theorem EntryBecomes.raiseTarget (h : EntryBecomes n i e s t) (hn : n < 8) (d : Nat) :
    EntryBecomes n i e s (raiseTarget n d t) := by
  unfold Machine.raiseTarget
  split
  · exact h
  · exact .ite (h.setTarget hn d) h

theorem EntryBecomes.insertEvents (h : EntryBecomes n i e s t) (hn : n < 8) (l : Lane) (evs : List (BitVec 64)) :
    EntryBecomes n i e s (insertEvents n l evs t) :=
  .ite (h.modSlot hn _) (((h.modSlot hn _).setReg _ _).setBit _ _ _)

theorem EntryBecomes.insertCal (h : EntryBecomes n i e s t) (hn : n < 8) (evs : List (PhaseWord × BitVec 64)) :
    EntryBecomes n i e s (insertCal n evs t) := (h.modSlot hn _).insertEvents hn _ _

theorem EntryBecomes.noteMasks (h : EntryBecomes n i e s t) (hn : n < 8) (c : SlotCast) (t16 : Int) :
    EntryBecomes n i e s (noteMasks n c t16 t) :=
  List.foldlRecOn _ _ h fun _ hu _ _ => .ite (((((hu.setBit _ _ _).setBit _ _ _).setReg _ _).modSlot hn _).setBit _ _ _)
    (((hu.setBit _ _ _).setBit _ _ _).setReg _ _)

theorem EntryBecomes.noteUnder (h : EntryBecomes n i e s t) (m k : Nat) : EntryBecomes n i e s (noteUnder m k t) :=
  h.keep (keeps_noteUnder (List.Subset.refl _) m k (Keeps.refl _ t))

theorem reg_showDemand_ne (w : s.regs.wf = true) {a : Nat} (ha : a ≠ Reg.lsDemand n) : reg (showDemand n s) a = reg s a :=
  reg_setReg_ne w _ ha

theorem reg_modEnt (n i : Nat) (f : LineEnt → LineEnt) (s : State) (a : Nat) : reg (modEnt n i f s) a = reg s a :=
  reg_modSlot _ _ _ _

theorem modEnt_regs (n i : Nat) (f : LineEnt → LineEnt) (s : State) : (modEnt n i f s).regs = s.regs := modSlot_regs _ _ _

theorem lineDecided_regs (n : Nat) (c : SlotCast) (x : LineEnt) (s : State) : (lineDecided n c x s).regs = s.regs :=
  (keeps_lineDecided (List.Subset.refl _) n c x (Keeps.refl _ s)).same (k := .regs) (by decide)

/-! ## LINE_ENTER (R211, R212, R224) -/

/-- What a line is when it enters: the next line of the sequence, DARK in retrace and where the slot draws none, else TRIAL. -/
structure LineEntered (n : Nat) (c : SlotCast) (s : State) (e : LineEnt) : Prop where
  line : e.line = (slotAt s n).lines.next
  frame : e.frame = (slotAt s n).lines.frame
  renderT : e.renderT = s.linkTime
  rendered : e.rendered = false
  state : e.state =
    if c.slot.traj = 1 ∧ (slotAt s n).lines.next < retraceLines s n c ∨ linesIdle s n = true then .dark else .trial

theorem enterLine_entry (hn : n < 8) (hi : i < (slotAt s n).trial.length) (c : SlotCast) :
    ∃ e, LineEntered n c s e ∧ EntryBecomes n i e s (enterLine n c i s) := by
  unfold enterLine
  extract_lets q l cen cw st retr idle pt blank e0 e1 s1 s2 fin ev s3 next r back
  have he0 : LineEntered n c s e0 := ⟨rfl, rfl, rfl, rfl, by simp [e0, retr, idle, l, q]⟩
  have he1 : LineEntered n c s e1 := by
    unfold e1
    split
    · exact he0
    · exact ⟨he0.line, he0.frame, he0.renderT, he0.rendered, he0.state⟩
  have h1 : EntryBecomes n i e1 s s1 := ((EntryBecomes.refl hi).modEnt hn fun _ => e1).modLines hn _ fun l => by
    unfold advanceLine
    dsimp only
    split <;> rfl
  have h2 : EntryBecomes n i e1 s s2 := .ite (((h1.setReg _ _).noteDarkLine hn _).lineDecided hn c e1) h1
  exact ⟨e1, he1, .ite (((h2.insertEvents hn _ _).insertEvents hn _ _).insertCal hn _) h2⟩

theorem lineEnter_entered (hn : n < 8) (hc : cfgOf s n = some c) (hcls : c.slot.cls = 2)
    (hl : heldCount s n < (slotAt s n).lines.cfg.look) (h0 : lineCount s n ≠ 0)
    (hf : (List.range (slotAt s n).trial.length).find? (fun i => (entAt s n i).state == .empty) = some i) :
    ∃ e, LineEntered n c s e ∧ EntryBecomes n i e s (lineEnter n s) := by
  have hrefused : ¬ (c.slot.cls ≠ 2 ∨ (slotAt s n).lines.cfg.look ≤ heldCount s n ∨ lineCount s n = 0) := by
    rintro (h | h | h)
    · exact h hcls
    · exact absurd hl (not_lt.2 h)
    · exact h0 h
  have hop : lineEnter n s = enterLine n c i s := by
    simp only [lineEnter, hc, if_neg hrefused, hf]
  rw [hop]
  exact enterLine_entry hn (List.mem_range.1 (List.mem_of_find?_eq_some hf)) c

/-! ## A render (R205, R212, R242) -/

/-- The output matrix that the render of an entry uses: that latched for its frame, else the present one (R200). -/
def matrixFor (s : State) (n : Nat) (f : BitVec 32) : List Int := ((slotAt s n).lines.mtx.lookup f).getD (slotAt s n).cal.mtx

/-- The part once a frame's output matrix is latched (R200). -/
def matrixLatched (n : Nat) (f : BitVec 32) (s : State) : State :=
  modLines n (fun l => if (l.mtx.lookup f).isSome then l else { l with mtx := ((f, matrixFor s n f) :: l.mtx).take 4 }) s

/-- Entry i of slot n as its render draws it. -/
def drawnEnt (n i : Nat) (c : SlotCast) (late : List (Nat × Nat)) (s : State) : LineEnt :=
  (renderLine (matrixLatched n (entAt s n i).frame s) n c (matrixFor s n (entAt s n i).frame) late (entAt s n i)).1

/-- An entry with the demand of its latest report (R242). -/
def reported (d : Nat) (e : LineEnt) : LineEnt := { e with demand := some d }

/-- A render leaves the entry's state, its projection and whether it is drawn again; the entry awaits its test. -/
theorem drawnEnt_fields (n i : Nat) (c : SlotCast) (late : List (Nat × Nat)) (s : State) :
    (drawnEnt n i c late s).state = (entAt s n i).state ∧ (drawnEnt n i c late s).rendered = true ∧
    (drawnEnt n i c late s).tested = false ∧ (drawnEnt n i c late s).again = (entAt s n i).again ∧
    (drawnEnt n i c late s).proj = (entAt s n i).proj := ⟨rfl, rfl, rfl, rfl, rfl⟩

/-- The part once entry i is drawn: its late pixels and its clipped samples are counted (R157, R199). -/
def drawnCounted (n i : Nat) (c : SlotCast) (late : List (Nat × Nat)) (s : State) : State :=
  let e := entAt s n i
  let s0 := matrixLatched n e.frame s
  let r := renderLine s0 n c (matrixFor s n e.frame) late e
  let s2 := noteUnder n (renderRuns s n c e.frame late r.2) (modEnt n i (fun _ => r.1) s0)
  let clips := (r.1.samples.filter (·.clip)).length
  modLines n (fun l => { l with clip := min 65535 (l.clip + clips) })
    (if 0 < clips then setBit (Reg.lbFlags n) 0 true s2 else s2)

theorem drawnCounted_entry (hn : n < 8) (hi : i < (slotAt s n).trial.length) (c : SlotCast) (late : List (Nat × Nat)) :
    EntryBecomes n i (drawnEnt n i c late s) s (drawnCounted n i c late s) := by
  unfold drawnCounted
  extract_lets e s0 r s2 clips
  have h0 : EntryBecomes n i e s s0 := (EntryBecomes.refl hi).modLines hn _ fun l => by split <;> rfl
  have h2 : EntryBecomes n i r.1 s s2 := (h0.modEnt hn fun _ => r.1).noteUnder _ _
  exact (EntryBecomes.ite (h2.setBit _ _ _) h2).modLines hn _

theorem keeps_drawnCounted (n i : Nat) (c : SlotCast) (late : List (Nat × Nat)) (s : State) :
    Keeps [.regs, .slots] s (drawnCounted n i c late s) := by
  have hF := List.Subset.refl [Kind.regs, .slots]
  unfold drawnCounted
  extract_lets e s0 r s2 clips
  have h2 : Keeps [Kind.regs, .slots] s s2 :=
    keeps_noteUnder (sub_of hF) n _ (keeps_modEnt (sub_of hF) n i _ (keeps_modLines (sub_of hF) n _ (Keeps.refl _ s)))
  refine keeps_modLines (sub_of hF) n _ ?_
  split
  · exact keeps_setBit (sub_of hF) _ _ _ h2
  · exact h2

/-- Drawing an entry writes SOn_FLAGS, SOn_CNT_B and LBn_FLAGS alone, so that the memory controller's words stand. -/
theorem reg_drawnCounted (w : s.regs.wf = true) (hn : n < 8) (i : Nat) (c : SlotCast) (late : List (Nat × Nat)) {a : Nat}
    (ha : 0xF00000 ≤ a) : reg (drawnCounted n i c late s) a = reg s a := by
  have hflags : a ≠ Reg.soFlags n := by simp only [Reg.soFlags, Reg.so]; omega
  have hcount : a ≠ Reg.soCntB n := by simp only [Reg.soCntB, Reg.so]; omega
  have hclip : a ≠ Reg.lbFlags n := by simp only [Reg.lbFlags, Reg.lb]; omega
  unfold drawnCounted
  extract_lets e s0 r s2 clips
  have h0 : s0.regs = s.regs := modLines_regs _ _ _
  have w1 : (modEnt n i (fun _ => r.1) s0).regs.wf = true := by rwa [modEnt_regs, h0]
  obtain ⟨w2, hu⟩ := noteUnder_regs w1 n (renderRuns s n c e.frame late r.2)
  have h2 : reg s2 a = reg s a := (hu a hflags hcount).trans ((reg_modEnt _ _ _ _ _).trans (reg_modLines _ _ _ _))
  refine (reg_modLines _ _ _ _).trans ?_
  split
  · exact (reg_setFld_ne w2 _ _ _ hclip).trans h2
  · exact h2

theorem finishRender_entry (hn : n < 8) (hi : i < (slotAt s n).trial.length) (c : SlotCast) (late : List (Nat × Nat)) :
    ∃ d : Nat, EntryBecomes n i (reported d (drawnEnt n i c late s)) s (finishRender n i c late s) := by
  unfold finishRender
  extract_lets e mtx s0 r e1 s2 clips s3 s4 s5 d
  have h3 : EntryBecomes n i e1 s s3 := drawnCounted_entry hn hi c late
  have h4 : EntryBecomes n i e1 s s4 := h3.ofSlots rfl rfl
  have h5 : EntryBecomes n i e1 s s5 := (h4.setReg _ _).noteMasks hn _ _
  exact ⟨d, ((h5.modEnt hn _).raiseTarget hn d).showDemand⟩

theorem dramWrite_dram_congr (hst : reg t Reg.mcStatus = reg s Reg.mcStatus) (hsel : reg t Reg.mcTrSel = reg s Reg.mcTrSel)
    (hmc : t.mc = s.mc) (hd : t.dram = s.dram) (a : Nat) (bs : List Byte) :
    (dramWrite a bs t).dram = (dramWrite a bs s).dram := by
  have hoff : dramOff t = dramOff s := by
    funext x
    unfold dramOff dramPc dramPlace rbit rfld
    rw [hst, hsel, hmc]
  simp only [dramWrite, hoff, hd]

/-- A render writes its payload to the entry's slot of the trial line store, and nothing else of package DRAM (R205). -/
theorem finishRender_dram (w : s.regs.wf = true) (hn : n < 8) (i : Nat) (c : SlotCast) (late : List (Nat × Nat)) :
    (finishRender n i c late s).dram = (dramWrite (storeBase s 4 n + i * payloadSlotBytes c)
      (payloadBytes c (drawnEnt n i c late s).samples) s).dram := by
  have hF := List.Subset.refl [Kind.regs, .slots]
  have hfirst := keeps_drawnCounted n i c late s
  have hbase : storeBase (drawnCounted n i c late s) 4 n = storeBase s 4 n := by
    rw [storeBase, poolEnt, hfirst.same (k := .cast) (by decide), ← poolEnt, ← storeBase]
  unfold finishRender
  extract_lets e mtx s0 r e1 s2 clips s3 s4 s5 d
  have hlast : Keeps [Kind.regs, .slots] s4 (showDemand n (raiseTarget n d (modEnt n i (reported d) s5))) :=
    keeps_showDemand (sub_of hF) n (keeps_raiseTarget (sub_of hF) n d (keeps_modEnt (sub_of hF) n i _
      (keeps_noteMasks (sub_of hF) n c _ (keeps_setReg (sub_of hF) _ _ (Keeps.refl _ s4)))))
  have hstore (bs : List Byte) (a : Nat) : (dramWrite a bs s3).dram = (dramWrite a bs s).dram :=
    dramWrite_dram_congr (reg_drawnCounted w hn i c late (by decide)) (reg_drawnCounted w hn i c late (by decide))
      (hfirst.same (k := .mc) (by decide)) (hfirst.same (k := .dram) (by decide)).1 a bs
  exact (hlast.same (k := .dram) (by decide)).1.trans
    ((hstore _ _).trans (congrArg (fun b => (dramWrite (b + i * payloadSlotBytes c) _ s).dram) hbase))

theorem renderComplete_due (hc : cfgOf s n = some c) (hst : (entAt s n i).state = .trial) (hr : (entAt s n i).rendered = false) :
    renderComplete n i late s = finishRender n i c late s := by
  unfold renderComplete
  rw [hc]
  exact if_pos ⟨hst, by rw [hr]; decide⟩

/-! ## The test (R215 to R218) -/

theorem strikeErr_congr (hr : reckOf t n = reckOf s n) (ht : t.linkTime = s.linkTime) (hp : e'.proj = e.proj) :
    strikeErr t n e' = strikeErr s n e := by
  simp only [strikeErr, hr, ht, hp]

/-- The part once a strike error of x has been noted (R215). -/
def strikeNoted (n : Nat) (x : Int) (s : State) : State :=
  modLines n (fun l => { l with errMax := max l.errMax (min 65535 (divRound x 65536).natAbs) })
    (setReg (Reg.lbErrLast n) (BitVec.ofInt 32 (divRound x 65536)) s)

/-- A line that strikes with an error of x and a demand of d (R216, R242). -/
def struckEnt (x : Int) (d : Nat) (e : LineEnt) : LineEnt :=
  { e with state := .struck, tested := true, err := some (divRound x 65536), demand := some d }

/-- A line that is discarded with an error of x, to be rendered anew from the present projection (R216, R217). -/
def discardedEnt (s : State) (n : Nat) (c : SlotCast) (x : Int) (e : LineEnt) : LineEnt :=
  { e with
    state := .discarded, tested := true, err := some (divRound x 65536), urgent := true, again := true, rendered := false
    proj := pointNow (reckOf s n), renderT := s.linkTime, amp := axisAmp s c.slot.port 0 }

/-- The part once entry i has struck: counted, its demand reported, its pixels and rows entered, and the supply's target set. -/
def lineStruck (n i : Nat) (c : SlotCast) (s : State) : State :=
  let e := entAt s n i
  let x := strikeErr s n e
  let s1 := strikeNoted n x s
  let s2 := modEnt n i (struckEnt x (codesDemand s1 c (lightNow s1 c) (peakCodes c e.samples))) s1
  let s3 := lineDecided n c e (noteReads n e (setReg (Reg.lbStruck n) (reg s2 (Reg.lbStruck n) + 1) s2))
  showDemand n (setTarget n (heldMax s3 n) s3)

/-- The part once entry i has been discarded: counted and flagged. -/
def lineDiscarded (n i : Nat) (c : SlotCast) (s : State) : State :=
  let x := strikeErr s n (entAt s n i)
  let s1 := strikeNoted n x s
  setBit (Reg.lbTrialFlags n) 0 true (setReg (Reg.lbDisc n) (reg s1 (Reg.lbDisc n) + 1) (modEnt n i (discardedEnt s n c x) s1))

/-- The test of a line that is due strikes it within the tolerance and discards it beyond (R216). -/
theorem strikeTest_due (hc : cfgOf s n = some c) (hst : (entAt s n i).state = .trial) (hr : (entAt s n i).rendered = true)
    (ht : (entAt s n i).tested = false) (hl : (reckOf s n).st = .locked)
    (hd : (entAt s n i).again = true ∨ (entAt s n i).strikeT ≤ s.linkTime) :
    strikeTest n i s = if (strikeErr s n (entAt s n i)).natAbs ≤ (slotAt s n).lines.cfg.tol * 65536 then lineStruck n i c s
      else lineDiscarded n i c s := by
  unfold strikeTest
  rw [hc]
  refine if_neg ?_
  rintro (h | h | h | h | ⟨ha, hlt⟩)
  · exact h hst
  · exact h hr
  · exact absurd (ht.symm.trans h) nofun
  · exact h hl
  · exact hd.elim ha fun hle => absurd hlt (BitVec.not_lt.2 hle)

theorem strikeTest_unlocked (hl : (reckOf s n).st ≠ .locked) : strikeTest n i s = s := by
  unfold strikeTest
  split
  · rfl
  · exact if_pos (.inr (.inr (.inr (.inl hl))))

theorem EntryBecomes.strikeNoted (h : EntryBecomes n i e s t) (hn : n < 8) (x : Int) : EntryBecomes n i e s (strikeNoted n x t) :=
  (h.setReg _ _).modLines hn _

theorem lineStruck_entry (hn : n < 8) (hi : i < (slotAt s n).trial.length) (c : SlotCast) :
    ∃ d, EntryBecomes n i (struckEnt (strikeErr s n (entAt s n i)) d (entAt s n i)) s (lineStruck n i c s) := by
  unfold lineStruck
  extract_lets e x s1 s2 s3
  have h2 : EntryBecomes n i (struckEnt x _ e) s s2 := ((EntryBecomes.refl hi).strikeNoted hn x).modEnt hn _
  have h3 : EntryBecomes n i (struckEnt x _ e) s s3 := ((h2.setReg _ _).noteReads hn e).lineDecided hn c e
  exact ⟨_, (h3.setTarget hn _).showDemand⟩

theorem lineDiscarded_entry (hn : n < 8) (hi : i < (slotAt s n).trial.length) (c : SlotCast) :
    EntryBecomes n i (discardedEnt s n c (strikeErr s n (entAt s n i)) (entAt s n i)) s (lineDiscarded n i c s) :=
  ((((EntryBecomes.refl hi).strikeNoted hn _).modEnt hn _).setReg _ _).setBit _ _ _

theorem strikeNoted_regs (w : s.regs.wf = true) (n : Nat) (x : Int) :
    (strikeNoted n x s).regs.wf = true ∧ ∀ a, a ≠ Reg.lbErrLast n → reg (strikeNoted n x s) a = reg s a :=
  ⟨by rw [strikeNoted, modLines_regs]; exact setReg_wf w _ _, fun _ ha => (reg_modLines _ _ _ _).trans (reg_setReg_ne w _ ha)⟩

theorem lineStruck_counted (w : s.regs.wf = true) (hn : n < 8) (i : Nat) (c : SlotCast) :
    reg (lineStruck n i c s) (Reg.lbStruck n) = reg s (Reg.lbStruck n) + 1 := by
  unfold lineStruck
  extract_lets e x s1 s2 s3
  obtain ⟨w1, hr1⟩ := strikeNoted_regs w n x
  have w2 : s2.regs.wf = true := by rw [modEnt_regs]; exact w1
  have hregs : s3.regs = (setReg (Reg.lbStruck n) (reg s2 (Reg.lbStruck n) + 1) s2).regs :=
    (lineDecided_regs _ _ _ _).trans (modLines_regs _ _ _)
  have w3 : s3.regs.wf = true := by rw [hregs]; exact setReg_wf w2 _ _
  obtain ⟨w4, -, hlow, -⟩ := (LightKept.refl (stat := false) s3).setTarget n (heldMax s3 n) w3
  have hdem : Reg.lbStruck n ≠ Reg.lsDemand n := by simp only [Reg.lbStruck, Reg.lb, Reg.lsDemand, Reg.ls]; omega
  have herr : Reg.lbStruck n ≠ Reg.lbErrLast n := by simp only [Reg.lbStruck, Reg.lbErrLast]; omega
  calc reg (showDemand n (setTarget n (heldMax s3 n) s3)) (Reg.lbStruck n)
      = reg s3 (Reg.lbStruck n) := (reg_showDemand_ne w4 hdem).trans
        (hlow _ (by simp only [Reg.lbStruck, Reg.lb, Reg.lcLenCtrl]; omega))
    _ = reg s2 (Reg.lbStruck n) + 1 := by rw [reg, hregs, ← reg, reg_setReg_same w2]
    _ = reg s (Reg.lbStruck n) + 1 := by rw [reg_modEnt, hr1 _ herr]

theorem lineDiscarded_counted (w : s.regs.wf = true) (n i : Nat) (c : SlotCast) :
    reg (lineDiscarded n i c s) (Reg.lbDisc n) = reg s (Reg.lbDisc n) + 1 ∧
    rbit (lineDiscarded n i c s) (Reg.lbTrialFlags n) 0 = true := by
  unfold lineDiscarded
  extract_lets x s1
  obtain ⟨w1, hr1⟩ := strikeNoted_regs w n x
  have w2 : (modEnt n i (discardedEnt s n c x) s1).regs.wf = true := by rw [modEnt_regs]; exact w1
  have hflag : Reg.lbDisc n ≠ Reg.lbTrialFlags n := by simp only [Reg.lbDisc, Reg.lbTrialFlags]; omega
  have herr : Reg.lbDisc n ≠ Reg.lbErrLast n := by simp only [Reg.lbDisc, Reg.lbErrLast]; omega
  have w3 := setReg_wf w2 (Reg.lbDisc n) (reg s1 (Reg.lbDisc n) + 1)
  exact ⟨(reg_setFld_ne w3 _ _ _ hflag).trans ((reg_setReg_same w2 _ _).trans (congrArg (· + 1) (hr1 _ herr))),
    rbit_setBit_same w3 _ _ (by decide)⟩

/-! ## A line rendered again (R216, R218) -/

/-- A discarded line is rendered as TRIAL, and is no longer urgent. -/
def retried (e : LineEnt) : LineEnt := { e with state := .trial, urgent := false }

theorem rerenderComplete_due (hc : cfgOf s n = some c) (hst : (entAt s n i).state = .discarded) :
    rerenderComplete n i late s =
      strikeTest n i (finishRender n i c late (modEnt n i retried s)) := by
  unfold rerenderComplete
  rw [hc]
  exact if_pos hst

/-- The render of a discarded line leaves it in TRIAL, to be tested at once with the projection it was discarded with. -/
theorem rerendered_entry (hn : n < 8) (hi : i < (slotAt s n).trial.length) (c : SlotCast) (late : List (Nat × Nat)) :
    ∃ e, EntryBecomes n i e s (finishRender n i c late (modEnt n i retried s)) ∧
      e.state = .trial ∧ e.rendered = true ∧ e.tested = false ∧ e.again = (entAt s n i).again ∧
      e.proj = (entAt s n i).proj := by
  have h1 := (EntryBecomes.refl hi).modEnt hn retried
  obtain ⟨d, h2⟩ := finishRender_entry hn h1.inQueue c late
  obtain ⟨hst, hr, ht, ha, hp⟩ := drawnEnt_fields n i c late (modEnt n i retried s)
  rw [h1.entry] at hst ha hp
  exact ⟨_, h1.trans h2, hst, hr, ht, ha, hp⟩

theorem rerenderComplete_entry (hn : n < 8) (hc : cfgOf s n = some c) (hst : (entAt s n i).state = .discarded)
    (ha : (entAt s n i).again = true) (late : List (Nat × Nat)) :
    ∃ e, EntryBecomes n i e s (rerenderComplete n i late s) ∧
      ((reckOf s n).st ≠ .locked → e.state = .trial ∧ e.rendered = true) ∧
      ((reckOf s n).st = .locked → e.tested = true ∧
        e.state =
          if (strikeErr s n (entAt s n i)).natAbs ≤ (slotAt s n).lines.cfg.tol * 65536 then .struck else .discarded) := by
  obtain ⟨x, hx, hxst, hxr, hxt, hxa, hxp⟩ := rerendered_entry hn (inQueue_of_not_empty (by rw [hst]; decide)) c late
  rw [rerenderComplete_due hc hst]
  generalize finishRender n i c late (modEnt n i _ s) = t at hx ⊢
  by_cases hl : (reckOf s n).st = .locked
  · have herr : strikeErr t n (entAt t n i) = strikeErr s n (entAt s n i) :=
      strikeErr_congr hx.reck hx.time (by rw [hx.entry, hxp])
    have hop := strikeTest_due (hx.cfg.trans hc) (by rw [hx.entry, hxst]) (by rw [hx.entry, hxr]) (by rw [hx.entry, hxt])
      (by rw [hx.reck, hl]) (.inl (by rw [hx.entry, hxa, ha]))
    rw [herr, hx.settings] at hop
    rw [hop]
    split
    · obtain ⟨d, h⟩ := lineStruck_entry hn hx.inQueue c
      exact ⟨_, hx.trans h, fun hn => absurd hl hn, fun _ => ⟨rfl, rfl⟩⟩
    · exact ⟨_, hx.trans (lineDiscarded_entry hn hx.inQueue c), fun hn => absurd hl hn, fun _ => ⟨rfl, rfl⟩⟩
  · rw [strikeTest_unlocked (by rw [hx.reck]; exact hl)]
    exact ⟨x, hx, fun _ => ⟨hxst, hxr⟩, fun h => absurd h hl⟩

/-! ## LINE_DARK (R211, R219, R220, R242) -/

/-- A line that goes DARK, its demand withdrawn (R242). -/
def darkened (e : LineEnt) : LineEnt := { e with state := .dark, demand := none }

/-- Entry i is DARK, counted and flagged; a discarded one has a flag of its own. -/
def darkFlagged (n i : Nat) (s : State) : State :=
  let s1 := modEnt n i darkened s
  let s2 := setBit (Reg.lbTrialFlags n) 1 true (setReg (Reg.lbBlank n) (reg s1 (Reg.lbBlank n) + 1) s1)
  if (entAt s n i).state = .discarded then setBit (Reg.lbTrialFlags n) 2 true s2 else s2

theorem lineDark_due (hc : cfgOf s n = some c) (hst : (entAt s n i).state = .trial ∨ (entAt s n i).state = .discarded)
    (hp : phasePassed s n (entAt s n i).start = true) :
    lineDark n i s =
      showDemand n (noteDarkLine n (entAt s n i).frame (lineDecided n c (entAt s n i) (darkFlagged n i s))) := by
  unfold lineDark
  rw [hc]
  exact if_pos ⟨hst, hp⟩

theorem darkFlagged_entry (hn : n < 8) (hi : i < (slotAt s n).trial.length) :
    EntryBecomes n i (darkened (entAt s n i)) s (darkFlagged n i s) := by
  have h := (EntryBecomes.refl hi).modEnt hn darkened
  exact .ite (((h.setReg _ _).setBit _ _ _).setBit _ _ _) ((h.setReg _ _).setBit _ _ _)

theorem darkFlagged_regs (w : s.regs.wf = true) (n i : Nat) :
    (darkFlagged n i s).regs.wf = true ∧ reg (darkFlagged n i s) (Reg.lbBlank n) = reg s (Reg.lbBlank n) + 1 ∧
    rbit (darkFlagged n i s) (Reg.lbTrialFlags n) 1 = true ∧
    ((entAt s n i).state = .discarded → rbit (darkFlagged n i s) (Reg.lbTrialFlags n) 2 = true) := by
  unfold darkFlagged
  extract_lets s1 s2
  have hne : Reg.lbBlank n ≠ Reg.lbTrialFlags n := by simp only [Reg.lbBlank, Reg.lbTrialFlags]; omega
  have w1 : s1.regs.wf = true := by rwa [modEnt_regs]
  have wb := setReg_wf w1 (Reg.lbBlank n) (reg s1 (Reg.lbBlank n) + 1)
  have w2 : s2.regs.wf = true := setBit_wf wb _ _ _
  have hcount : reg s2 (Reg.lbBlank n) = reg s (Reg.lbBlank n) + 1 :=
    (reg_setFld_ne wb _ _ _ hne).trans ((reg_setReg_same w1 _ _).trans (congrArg (· + 1) (reg_modEnt _ _ _ _ _)))
  have hflag : rbit s2 (Reg.lbTrialFlags n) 1 = true := rbit_setBit_same wb _ _ (by decide)
  split
  · exact ⟨setBit_wf w2 _ _ _, (reg_setFld_ne w2 _ _ _ hne).trans hcount,
      (rbit_setBit_ne w2 _ _ (by decide) (by decide)).trans hflag, fun _ => rbit_setBit_same w2 _ _ (by decide)⟩
  · next h => exact ⟨w2, hcount, hflag, fun hd => absurd hd h⟩

theorem lineDark_entry (hn : n < 8) (hc : cfgOf s n = some c)
    (hst : (entAt s n i).state = .trial ∨ (entAt s n i).state = .discarded) (hp : phasePassed s n (entAt s n i).start = true) :
    EntryBecomes n i (darkened (entAt s n i)) s (lineDark n i s) := by
  have hi : i < (slotAt s n).trial.length := inQueue_of_not_empty (by rcases hst with h | h <;> rw [h] <;> decide)
  rw [lineDark_due hc hst hp]
  exact (((darkFlagged_entry hn hi).lineDecided hn c _).noteDarkLine hn _).showDemand

theorem lineDark_counted (w : s.regs.wf = true) (hc : cfgOf s n = some c)
    (hst : (entAt s n i).state = .trial ∨ (entAt s n i).state = .discarded) (hp : phasePassed s n (entAt s n i).start = true) :
    reg (lineDark n i s) (Reg.lbBlank n) = reg s (Reg.lbBlank n) + 1 ∧ rbit (lineDark n i s) (Reg.lbTrialFlags n) 1 = true ∧
    ((entAt s n i).state = .discarded → rbit (lineDark n i s) (Reg.lbTrialFlags n) 2 = true) := by
  obtain ⟨wd, hcount, hflag, hlate⟩ := darkFlagged_regs w n i
  have hregs : (noteDarkLine n (entAt s n i).frame (lineDecided n c (entAt s n i) (darkFlagged n i s))).regs =
      (darkFlagged n i s).regs := (modLines_regs _ _ _).trans (lineDecided_regs _ _ _ _)
  have hreg (o : Nat) (ho : o < 0x100) : reg (lineDark n i s) (Reg.lb n + o) = reg (darkFlagged n i s) (Reg.lb n + o) := by
    have hne : Reg.lb n + o ≠ Reg.lsDemand n := by simp only [Reg.lb, Reg.lsDemand, Reg.ls]; omega
    rw [lineDark_due hc hst hp, reg_showDemand_ne (hregs ▸ wd) hne, reg, hregs, reg]
  have hbit (j : Nat) : rbit (lineDark n i s) (Reg.lbTrialFlags n) j = rbit (darkFlagged n i s) (Reg.lbTrialFlags n) j :=
    congrArg (bit · j) (hreg 0x68 (by decide))
  exact ⟨(hreg 0x4C (by decide)).trans hcount, (hbit 1).trans hflag, fun h => (hbit 2).trans (hlate h)⟩

/-! ## LINE_WINDOW_END (R211, R242) -/

theorem lineEnd_due (hst : (entAt s n i).state = .struck ∨ (entAt s n i).state = .dark)
    (hp : phasePassed s n ((entAt s n i).centre + phWord 0 (halfWin (entAt s n i).duty)) = true) :
    lineEnd n i s = showDemand n (modEnt n i (fun _ => LineEnt.empty) s) := if_pos ⟨hst, hp⟩

/-! ## The probe (R225) -/

theorem entAt_modLines (hn : n < 8) (f : LineBuild → LineBuild) (s : State) (j : Nat) :
    entAt (modLines n f s) n j = entAt s n j := by
  rw [entAt, modLines, slotAt_modSlot_same hn]
  rfl

theorem forAll_setReg_ne (w : s.regs.wf = true) (l : List Nat) (x : Nat → Word) {a : Nat → Nat} (hk : ∀ m, k ≠ a m) :
    (forAll l (fun m u => setReg (a m) (x m) u) s).regs.wf = true ∧
    reg (forAll l (fun m u => setReg (a m) (x m) u) s) k = reg s k :=
  List.foldlRecOn (motive := fun u : State => u.regs.wf = true ∧ reg u k = reg s k) l _ ⟨w, rfl⟩ fun _ hu m _ =>
    ⟨setReg_wf hu.1 _ _, (reg_setReg_ne hu.1 _ (hk m)).trans hu.2⟩

theorem forAll_setReg_mem (w : s.regs.wf = true) {l : List Nat} (hd : l.Nodup) (hk : k ∈ l) (x : Nat → Word) {a : Nat → Nat}
    (ha : Function.Injective a) : reg (forAll l (fun m u => setReg (a m) (x m) u) s) (a k) = x k := by
  obtain ⟨u, hu, hlast⟩ := forAll_once (R := fun u v => u.regs.wf = true → v.regs.wf = true ∧ reg v (a k) = reg u (a k))
    (fun _ wu => ⟨wu, rfl⟩) (fun huv hvx wu => ⟨(hvx (huv wu).1).1, ((hvx (huv wu).1).2).trans (huv wu).2⟩)
    (f := fun m u => setReg (a m) (x m) u)
    (fun m u hm wu => ⟨setReg_wf wu _ _, reg_setReg_ne wu _ fun h => hm (ha h)⟩) hd hk s
  obtain ⟨wu, -⟩ := hu w
  exact (hlast (setReg_wf wu _ _)).2.trans (reg_setReg_same wu _ _)

/-- A line descriptor stands in LBn_PROBE_DESCk. -/
def descShown (n : Nat) (d : List Byte) (s : State) : State :=
  forAll (List.range 8) (fun m u => setReg (Reg.lbProbeDesc n m) (BitVec.ofNat 32 (leAt d (4 * m) 4)) u) s

/-- The probe's words of an entry: the selection, its descriptor, its strike time, and the word x of its error. -/
def probeShown (n i : Nat) (v x : Word) (c : SlotCast) (s : State) : State :=
  setReg (Reg.lbProbeErr n) x (setReg (Reg.lbProbeTs n) ((entAt s n i).strikeT.setWidth 32)
    (descShown n (descBytes c i (entAt s n i)) (setReg (Reg.lbProbeSel n) (v &&& 0x003F1F1F) s)))

theorem probeSel_capture (hc : cfgOf s n = some c) {v : Word} (hb : bit v 31 = true)
    (hi : fld v 4 0 < (slotAt s n).trial.length) :
    ∃ x, probeSel n v s =
      modLines n (fun l => { l with probe := ((entAt s n (fld v 4 0)).samples.take 64).map (·.codes) })
        (probeShown n (fld v 4 0) v x c s) := by
  have hin : decide ((slotAt s n).trial.length ≤ fld v 4 0) = false := decide_eq_false (not_le.2 hi)
  unfold probeSel
  simp only [hb, not_true_eq_false, if_false, hc, hin, Bool.false_eq_true]
  exact ⟨_, rfl⟩

theorem probeShown_words (w : s.regs.wf = true) (n i : Nat) (v x : Word) (c : SlotCast) :
    reg (probeShown n i v x c s) (Reg.lbProbeSel n) = v &&& 0x003F1F1F ∧
    reg (probeShown n i v x c s) (Reg.lbProbeTs n) = (entAt s n i).strikeT.setWidth 32 ∧
    ∀ m : Fin 8, reg (probeShown n i v x c s) (Reg.lbProbeDesc n m.val) =
      BitVec.ofNat 32 (leAt (descBytes c i (entAt s n i)) (4 * m.val) 4) := by
  unfold probeShown
  have w1 := setReg_wf w (Reg.lbProbeSel n) (v &&& 0x003F1F1F)
  have hdesc (o : Nat) (ho : o < 0x80) (m : Nat) : Reg.lb n + o ≠ Reg.lbProbeDesc n m := by
    simp only [Reg.lbProbeDesc]; omega
  have hsel (o : Nat) (ho : o < 0x80) := forAll_setReg_ne w1 (List.range 8)
    (fun m => BitVec.ofNat 32 (leAt (descBytes c i (entAt s n i)) (4 * m) 4)) (hdesc o ho)
  obtain ⟨w2, h2⟩ := hsel 0x6C (by decide)
  have w3 := setReg_wf w2 (Reg.lbProbeTs n) ((entAt s n i).strikeT.setWidth 32)
  refine ⟨?_, ?_, fun m => ?_⟩
  · refine (reg_setReg_ne w3 _ ?_).trans ((reg_setReg_ne w2 _ ?_).trans (h2.trans (reg_setReg_same w _ _)))
    · simp only [Reg.lbProbeSel, Reg.lbProbeErr]; omega
    · simp only [Reg.lbProbeSel, Reg.lbProbeTs]; omega
  · refine (reg_setReg_ne w3 _ ?_).trans (reg_setReg_same w2 _ _)
    simp only [Reg.lbProbeTs, Reg.lbProbeErr]; omega
  · have hinj : Function.Injective (Reg.lbProbeDesc n) := fun a b h => by
      simp only [Reg.lbProbeDesc] at h; omega
    exact (reg_setReg_ne w3 _ (hdesc 0x78 (by decide) m).symm).trans ((reg_setReg_ne w2 _ (hdesc 0x74 (by decide) m).symm).trans
      (forAll_setReg_mem w1 List.nodup_range (List.mem_range.2 m.isLt) _ hinj))

theorem probeShown_slots (n i : Nat) (v x : Word) (c : SlotCast) (s : State) : (probeShown n i v x c s).slots = s.slots := by
  rw [probeShown, setReg_slots, setReg_slots, descShown]
  exact List.foldlRecOn (motive := fun u : State => u.slots = s.slots) _ _ rfl fun _ hu _ _ => hu

end

/-- Settles O39: each command comes to the branch of its operation that the statement names. That a line takes the lowest EMPTY
entry is the model's reading of R212 in log entry 58. -/
theorem lineEntries : Obligations.LineEntries := by
  intro s n c i w hup hc
  obtain ⟨wr, -⟩ := State.wf_iff.1 w
  have hn := n.isLt
  have run (f : State → State) : Host.Outcome.next (whileUp f s) = (.next (f s) : Host.Outcome State Fault Refusal) :=
    congrArg Host.Outcome.next (whileUp_up hup f)
  have hin {x : LineState} (hx : (entAt s n.val i).state = x) (h : x ≠ .empty) : i < (slotAt s n.val).trial.length :=
    inQueue_of_not_empty (hx ▸ h)
  refine ⟨fun hcls hlook hcount hfind => ?_, fun hst hr late => ?_, fun hst hr ht hl hd => ⟨fun htol => ?_, fun htol => ?_⟩,
    fun hst ha late => ?_, fun hst hp => ?_, fun hst hp => ?_, fun v ho => ⟨fun hb => ?_, ?_⟩⟩
  · obtain ⟨e, he, h⟩ := lineEnter_entered hn hc hcls hlook hcount hfind
    refine ⟨_, run _, ?_, ?_, ?_, ?_, ?_, h.entries, h.others⟩ <;> rw [h.entry]
    exacts [he.line, he.frame, he.renderT, he.rendered, he.state]
  · obtain ⟨d, h⟩ := finishRender_entry hn (hin hst (by decide)) c late
    obtain ⟨hdst, hdr, hdt, -⟩ := drawnEnt_fields n.val i c late s
    have hop := renderComplete_due (late := late) hc hst hr
    refine ⟨_, (run _).trans (congrArg Host.Outcome.next hop), ?_, ?_, ?_, ?_, h.entries, h.others⟩ <;> rw [h.entry]
    exacts [hdst.trans hst, hdr, hdt, finishRender_dram wr hn i c late]
  · have hop := (strikeTest_due hc hst hr ht hl hd).trans (if_pos htol)
    obtain ⟨d, h⟩ := lineStruck_entry hn (hin hst (by decide)) c
    refine ⟨_, (run _).trans (congrArg Host.Outcome.next hop), ?_, ?_, lineStruck_counted wr hn i c, h.entries, h.others⟩ <;>
      rw [h.entry] <;> rfl
  · have hop := (strikeTest_due hc hst hr ht hl hd).trans (if_neg (not_le.2 htol))
    have h := lineDiscarded_entry hn (hin hst (by decide)) c
    obtain ⟨hcount, hflag⟩ := lineDiscarded_counted wr n.val i c
    refine ⟨_, (run _).trans (congrArg Host.Outcome.next hop), ?_, ?_, ?_, hcount, hflag, h.entries, h.others⟩ <;>
      rw [h.entry] <;> rfl
  · obtain ⟨e, h, hfree, hlocked⟩ := rerenderComplete_entry hn hc hst ha late
    refine ⟨_, run _, fun hl => ?_, fun hl => ?_, h.entries, h.others⟩ <;> rw [h.entry]
    exacts [hfree hl, (hlocked hl).symm]
  · have h := lineDark_entry hn hc hst hp
    obtain ⟨hcount, hflag, hlate⟩ := lineDark_counted wr hc hst hp
    exact ⟨_, run _, h.entry, hcount, hflag, hlate, h.entries, h.others⟩
  · have hi : i < (slotAt s n.val).trial.length := hst.elim (hin · (by decide)) (hin · (by decide))
    have h := ((EntryBecomes.refl hi).modEnt hn fun _ => LineEnt.empty).showDemand
    refine ⟨_, (run _).trans (congrArg Host.Outcome.next (lineEnd_due hst hp)), h.entry, h.entries, fun a ha => ?_, h.others⟩
    exact (reg_showDemand_ne (by rw [modEnt_regs]; exact wr) ha).trans (reg_modEnt _ _ _ _ _)
  · have hop : hostWrite (Reg.lbProbeSel n.val) v (probeSel n.val) s = setReg (Reg.lbProbeSel n.val) (v &&& 0x003F1F1F) s :=
      (hostWrite_open ho _ _).trans (if_pos (ne_true_of_eq_false hb))
    exact ⟨_, congrArg Host.Outcome.next hop, reg_setReg_same wr _ _, fun a ha => reg_setReg_ne wr _ ha, rfl⟩
  · rintro hb rfl hi
    obtain ⟨x, hx⟩ := probeSel_capture hc hb hi
    obtain ⟨hsel, hts, hdesc⟩ := probeShown_words wr n.val (fld v 4 0) v x c
    have hslots (k : Nat) : slotAt (probeShown n.val (fld v 4 0) v x c s) k = slotAt s k := by
      rw [slotAt, probeShown_slots, slotAt]
    refine ⟨_, congrArg Host.Outcome.next ((hostWrite_open ho _ _).trans hx), (reg_modLines _ _ _ _).trans hsel,
      congrArg (fun q : SlotState => q.lines.probe) (slotAt_modSlot_same hn _ _), (reg_modLines _ _ _ _).trans hts,
      fun m => (reg_modLines _ _ _ _).trans (hdesc m), fun j => (entAt_modLines hn _ _ j).trans ?_⟩
    rw [entAt, hslots, entAt]

end Sys2Proof.Machine
end

section
/-! PROOFS. The bits of FR_FAULT that a write clears, the emptied log, and HOST of FR_HALT with the LEN_n that follow it (R236, R237,
R462, R463, R474). -/

set_option Elab.async false

namespace Sys2Proof.Machine

section
variable {s t : State} {v : Word}

/-! ## Flags cleared by writing 1 -/

/-- Where step i of a pass clears the bits of word a that clr names for it, keeping P, the pass clears those that some step names. -/
theorem forAll_clears {P : State → Prop} {a : Nat} {f : Nat → State → State} {clr : Nat → Nat → Bool} {l : List Nat}
    (hf : ∀ i ∈ l, ∀ u, P u → P (f i u) ∧ ∀ b, b < 32 → rbit (f i u) a b = (rbit u a b && !clr i b)) (hs : P s) :
    P (forAll l f s) ∧ ∀ b, b < 32 → rbit (forAll l f s) a b = (rbit s a b && !l.any (clr · b)) := by
  induction l generalizing s with
  | nil => exact ⟨hs, fun b _ => by simp [forAll]⟩
  | cons i l ih =>
    obtain ⟨hi, hb⟩ := hf i List.mem_cons_self s hs
    obtain ⟨hl, hbs⟩ := ih (fun j hj => hf j (List.mem_cons_of_mem i hj)) hi
    refine ⟨hl, fun b h => (hbs b h).trans ?_⟩
    rw [hb b h, List.any_cons, Bool.not_or, Bool.and_assoc]

/-- Clearing one bit of a word. -/
theorem rbit_setBit_false (w : s.regs.wf = true) (a : Nat) {i : Nat} (hi : i < 32) (b : Nat) :
    rbit (setBit a i false s) a b = (rbit s a b && !(b == i)) := by
  by_cases h : b = i
  · subst h
    simp [rbit_setBit_same w a false hi]
  · simp [rbit_setBit_ne w a false hi h, h]

/-- From s to t register words outside word a and the slots stand. -/
structure WordOnly (a : Nat) (s t : State) : Prop where
  wf : t.regs.wf = true
  others : ∀ off, off ≠ a → reg t off = reg s off
  slots : t.slots = s.slots

theorem WordOnly.setBit {a : Nat} {u : State} (h : WordOnly a s u) (i : Nat) (b : Bool) : WordOnly a s (setBit a i b u) :=
  ⟨setBit_wf h.wf _ _ _, fun off ho => (reg_setFld_ne h.wf _ _ _ ho).trans (h.others off ho), h.slots⟩

/-- Bit b of FR_FAULT is cleared where it is written 1 and its condition in s is over. -/
def clearFaultBit (v : Word) (s : State) (b : Nat) (t : State) : State :=
  if bit v b && !faultHolds s b then setBit Reg.frFault b false t else t

theorem faultClear_eq (v : Word) (s : State) : faultClear v s = forAll [2, 3, 4, 5, 6, 7, 8] (clearFaultBit v s) s := rfl

theorem clearFaultBit_bits (h : WordOnly Reg.frFault s t) (v : Word) {i : Nat} (hi : i < 32) :
    WordOnly Reg.frFault s (clearFaultBit v s i t) ∧ ∀ b, b < 32 → rbit (clearFaultBit v s i t) Reg.frFault b =
      (rbit t Reg.frFault b && !(b == i && (bit v i && !faultHolds s i))) := by
  rw [clearFaultBit]
  cases bit v i && !faultHolds s i with
  | false => exact ⟨h, fun b _ => by simp⟩
  | true => exact ⟨h.setBit i false, fun b _ => by simp [rbit_setBit_false h.wf _ hi]⟩

/-- FR_FAULT loses the bits 2 to 8 that are written 1 and whose condition is over (R462). -/
theorem faultClear_bits (w : s.regs.wf = true) (v : Word) :
    WordOnly Reg.frFault s (faultClear v s) ∧ ∀ b, b < 32 → rbit (faultClear v s) Reg.frFault b =
      (rbit s Reg.frFault b && !(decide (2 ≤ b ∧ b ≤ 8) && bit v b && !faultHolds s b)) := by
  have hlt : ∀ i ∈ [2, 3, 4, 5, 6, 7, 8], i < 32 := by decide
  have hstep (i : Nat) (hi : i ∈ [2, 3, 4, 5, 6, 7, 8]) (u : State) (hu : WordOnly Reg.frFault s u) :=
    clearFaultBit_bits hu v (hlt i hi)
  rw [faultClear_eq]
  obtain ⟨hk, hb⟩ := forAll_clears hstep ⟨w, fun _ _ => rfl, rfl⟩
  refine ⟨hk, fun b h => (hb b h).trans ?_⟩
  have hany : ([2, 3, 4, 5, 6, 7, 8].any fun i => b == i && (bit v i && !faultHolds s i)) =
      (decide (2 ≤ b ∧ b ≤ 8) && bit v b && !faultHolds s b) := by
    rw [Bool.eq_iff_iff, List.any_eq_true]
    simp only [List.mem_cons, List.not_mem_nil, or_false, Bool.and_eq_true, beq_iff_eq, decide_eq_true_eq]
    constructor
    · rintro ⟨i, hi, rfl, h1, h2⟩
      exact ⟨⟨by omega, h1⟩, h2⟩
    · rintro ⟨⟨h1, h2⟩, h3⟩
      exact ⟨b, by omega, rfl, h2, h3⟩
  rw [hany]

/-! ## The log emptied (R474) -/

/-- With its key, FR_LOG_CLR leaves every word of the ring and FR_LOG_STAT at 0, and the other words as they were. -/
theorem reg_logClr (w : s.regs.wf = true) (hk : fld v 31 24 = 0x5A) (hb : bit v 0 = true) (off : Nat) :
    reg (logClr v s) off = if off = Reg.frLogStat ∨ Reg.frLog 0 0 ≤ off ∧ off < Reg.frLog 64 0 then 0 else reg s off := by
  have he : logClr v s = setReg Reg.frLogStat 0 { s with regs := s.regs.clearRange (Reg.frLog 0 0) (Reg.frLog 64 0) } :=
    if_pos ⟨hk, hb⟩
  have wc : (s.regs.clearRange (Reg.frLog 0 0) (Reg.frLog 64 0)).wf = true := SMap.wf_clearRange _ _ w
  rw [he]
  by_cases ho : off = Reg.frLogStat
  · rw [ho, reg_setReg_same wc, if_pos (.inl rfl)]
  · rw [reg_setReg_ne wc _ ho, reg, SMap.get_clearRange w, reg]
    simp only [ho, false_or]

theorem logClr_of_refused (h : fld v 31 24 ≠ 0x5A ∨ bit v 0 = false) : logClr v s = s :=
  if_neg fun ⟨hk, hb⟩ => h.elim (· hk) fun h0 => Bool.false_ne_true (h0.symm.trans hb)

/-! ## FR_HALT (R463) -/

/-- HOST stands in FR_HALT through the LEN_n that follow it. -/
theorem LightKept.frHalt {stat : Bool} (h : LightKept stat s t) (w : s.regs.wf = true) (x : ChansExist s) (i : Nat) :
    rbit t Reg.frHalt i = rbit s Reg.frHalt i := by
  obtain ⟨-, -, -, hword⟩ := h w
  rw [rbit, hword x _ (by simp [lightArea, Reg.frHalt, Reg.lcLenStat]), rbit]

theorem haltWrite_set (w : s.regs.wf = true) (x : ChansExist s) (hk : fld v 31 24 = 0x5A) (hb : bit v 8 = true) :
    rbit (haltWrite v s) Reg.frHalt 8 = true ∧ ∀ p, p < 8 → lenPin (haltWrite v s) p = false := by
  have he : haltWrite v s = lenDropAll 7 (setBit Reg.frHalt 8 true s) := by
    rw [haltWrite, if_neg (not_not.2 hk), hb]
    exact if_pos rfl
  have w1 := setBit_wf w Reg.frHalt 8 true
  rw [he]
  exact ⟨(((LightKept.refl _).lenDropAll 7).frHalt w1 x 8).trans (rbit_setBit_same w _ _ (by omega)),
    fun p hp => lenDropAll_pins w1 x 7 hp⟩

theorem haltWrite_clear (w : s.regs.wf = true) (x : ChansExist s) (hk : fld v 31 24 = 0x5A) (hb : bit v 8 = false) :
    rbit (haltWrite v s) Reg.frHalt 8 = false := by
  have he : haltWrite v s = lenTryAll (setBit Reg.frHalt 8 false s) := by
    rw [haltWrite, if_neg (not_not.2 hk), hb]
    exact if_neg Bool.false_ne_true
  have w1 := setBit_wf w Reg.frHalt 8 false
  rw [he]
  exact ((LightKept.refl _).lenTryAll.frHalt w1 x 8).trans (rbit_setBit_same w _ _ (by omega))

end

/-- Settles O17: each write comes to its operation, as the register is open to the host. That FR_LOG_CLR leaves the 64 entries and
HEAD at 0 as well as LOST is the model's reading of R474 in log entry 54. -/
theorem faultClearAndLogClear : Obligations.FaultClearAndLogClear := by
  refine ⟨fun s w => ?_, fun s v w x ho => ?_⟩
  · obtain ⟨wr, -⟩ := State.wf_iff.1 w
    refine ⟨fun v ho => ?_, fun v ho hk hb => ?_, fun v ho hr => ?_⟩
    · obtain ⟨hk, hb⟩ := faultClear_bits wr v
      exact ⟨_, congrArg Host.Outcome.next (hostWrite_open ho v faultClear), hb, hk.others, hk.slots⟩
    · refine ⟨_, congrArg Host.Outcome.next (hostWrite_open ho v logClr), ?_, fun i j hi hj => ?_, fun off hs ha => ?_⟩ <;>
        rw [reg_logClr wr hk hb]
      · exact if_pos (.inl rfl)
      · exact if_pos (.inr (frLog_area hi hj))
      · exact if_neg (by omega)
    · exact congrArg Host.Outcome.next ((hostWrite_open ho v logClr).trans (logClr_of_refused hr))
  · obtain ⟨wr, -⟩ := State.wf_iff.1 w
    have hx : ChansExist s := RunningInRange.chans x.1
    have hw : hostWrite Reg.frHalt v haltWrite s = haltWrite v s := hostWrite_open ho v haltWrite
    have hset : exec (.hostHaltSet v) s = .next (haltWrite v s) := congrArg Host.Outcome.next hw
    have hclr : exec (.hostHaltClear v) s = .next (haltWrite v s) := congrArg Host.Outcome.next hw
    have hpower : (haltWrite v s).power = s.power := (exec_keeps hset).same (k := .power) (by simp [footprint])
    refine ⟨fun hk hb => ?_, fun hk hb => ⟨_, hclr, haltWrite_clear wr hx hk hb, hpower⟩, fun hk => ?_⟩
    · obtain ⟨hbit, hpins⟩ := haltWrite_set wr hx hk hb
      exact ⟨_, hset, hbit, hpins, hpower⟩
    · have he : haltWrite v s = s := if_pos hk
      exact ⟨hset.trans (congrArg _ he), hclr.trans (congrArg _ he)⟩

end Sys2Proof.Machine
end

section
/-! PROOFS. An overvoltage whose flag does not stand (R238, R245): the departure that the laser fault brings hands back a source block
that lies beyond the window (R153). -/

set_option Elab.async false

namespace Sys2Proof.Machine

/-- A slot on port 0 without channels, layers, modes and Hallmark. -/
def bareCast : SlotCast :=
  { slot := { port := 0, cls := 1, traj := 0, contain := 0, minW := 0, minH := 0, maxW := 0, maxH := 0, activeW := 0, activeH := 0
              latchLine := 0, freezeThr := 0, nmodes := 0, modes := [], lookahead := 0, trialDepth := 0, strikeTol := 0
              strikePt := 0, descRevMin := 0 }
    pipe := { composer := 0, share := 0, nvid := 0, ngfx := 0, blend := 0, wb := 0, pitchBase := 0, pitches := 0, bg := 0
              order := [], linebuf := [], maskMax := 0 }
    chmp := []
    phse := { source := 0, input := 0, edge := 0, div := 0, offset := 0, level := 0 }
    supply := { vmin := 0, vmax := 0, headroom := 0 }
    hall := none }

/-- The number, far beyond the 4096 blocks of the window, that a block would have whose tally stands at PM_LS0_FLAGS. -/
def strayBlock : Nat := (Reg.lsFlags 0 - Reg.wnTally 0) / 4

/-- The link of port 0 is in Run with slot 0 bound, a commit of slot 0 is pending, and its sources name strayBlock. PM_LS0_FLAGS
reads as a tally of DEVICE. -/
def strayState : State :=
  { State.reset with
    regs := [(Reg.epStatus 0, 4), (Reg.lsFlags 0, tallyWord tDevice 0 0)]
    slots := State.reset.slots.set 0 { SlotState.undeclared with
      cfg := some bareCast, commit := some { wait := 0, mode := none }, srcs := [{ block := strayBlock, ended := none }] }
    ports := State.reset.ports.set 0 { PortState.init with slot := some 0 } }

theorem strayState_wf : strayState.wf = true := by decide +kernel

theorem strayState_inRange : CastsInRange strayState := by
  refine ⟨fun n c hc => ?_, List.forall_mem_nil _, nofun, nofun⟩
  have hcfg : ∀ n < 8, ∀ c, cfgOf strayState n = some c → c = bareCast := by decide +kernel
  obtain rfl := hcfg n (lt_of_cfg hc) c hc
  exact ⟨by decide, by decide, List.forall_mem_nil _, by decide, List.forall_mem_nil _⟩

/-- Once the engine has departed, PM_LS0_FLAGS holds the tally that strayBlock goes back to HOST with. -/
theorem strayState_overvoltage : reg (supplyOverv 0 301 strayState) (Reg.lsFlags 0) = tallyWord tHost 0 0 := by decide +kernel

/-- Refutes O40: from strayState, an overvoltage of 301 mV on slot 0 leaves OVERV of PM_LS0_FLAGS at 0. The premises let a slot's
sources name blocks beyond the window, and handing one back writes its tally over the flags. -/
theorem not_laserEnables : ¬ Obligations.LaserEnables := by
  intro h
  obtain ⟨-, -, -, -, hoverv⟩ := h strayState strayState_wf strayState_inRange
  obtain ⟨-, hover⟩ := hoverv 0 301 bareCast rfl
  obtain ⟨t, ht, hflag, -⟩ := hover (by decide) (by decide)
  have he : supplyOverv 0 301 strayState = t := Host.Outcome.next.inj ht
  rw [← he, rbit, Fin.val_zero, strayState_overvoltage] at hflag
  exact absurd hflag (by decide)

end Sys2Proof.Machine
end

section
/-! PROOFS. What calibration writes as it puts models, maps and matrices in force: words of its own channels and slots and of the
light channels alone (R230, R248, R259, R260, R273, R274). -/

set_option Elab.async false

namespace Sys2Proof.Machine

/-! ## A list of register writes -/

/-- A list of writes changes no word that it does not name. -/
theorem setRegs_regs {s : State} (w : s.regs.wf = true) (l : List (Nat × Word)) :
    (setRegs l s).regs.wf = true ∧ ∀ a, (∀ e ∈ l, a ≠ e.1) → reg (setRegs l s) a = reg s a := by
  induction l generalizing s with
  | nil => exact ⟨w, fun _ _ => rfl⟩
  | cons e l ih =>
    obtain ⟨wl, hl⟩ := ih (setReg_wf w e.1 e.2)
    refine ⟨wl, fun a ha => ?_⟩
    obtain ⟨he, hr⟩ := List.forall_mem_cons.1 ha
    exact (hl a hr).trans (reg_setReg_ne w e.2 he)

theorem setRegs_append (l k : List (Nat × Word)) (s : State) : setRegs (l ++ k) s = setRegs k (setRegs l s) := by
  induction l generalizing s with
  | nil => rfl
  | cons e l ih => exact ih (setReg e.1 e.2 s)

/-- Of n words written at places that differ, each reads as written. -/
theorem reg_setRegs_range {s : State} (w : s.regs.wf = true) {f : Nat → Nat} (hf : ∀ i j, f i = f j → i = j) (v : Nat → Word)
    {n i : Nat} (hi : i < n) : reg (setRegs ((List.range n).map fun j => (f j, v j)) s) (f i) = v i := by
  induction n with
  | zero => omega
  | succ n ih =>
    obtain ⟨wn, -⟩ := setRegs_regs w ((List.range n).map fun j => (f j, v j))
    rw [List.range_succ, List.map_append, setRegs_append]
    change reg (setReg (f n) (v n) _) (f i) = v i
    by_cases he : i = n
    · rw [he, reg_setReg_same wn]
    · rw [reg_setReg_ne wn _ fun h => he (hf _ _ h), ih (by omega)]

/-! ## The relation -/

/-- The words of light channels and laser supplies, and those of calibration's slots and channels (R274). -/
def calArea (a : Nat) : Prop := lightArea false a ∨ 0x901000 ≤ a ∧ a < 0x910000

/-- From s to t the words outside calArea and the ports stand, each slot runs what it ran, and t is canonical and in range. -/
structure CalKept (s t : State) : Prop where
  wf : t.regs.wf = true
  range : RunningInRange t
  cfg : ∀ n, cfgOf t n = cfgOf s n
  word : ∀ a, ¬ calArea a → reg t a = reg s a
  ports : t.ports = s.ports

section
variable {s t u : State} {n : Nat} {c : SlotCast}

theorem CalKept.refl (w : s.regs.wf = true) (r : RunningInRange s) : CalKept s s :=
  ⟨w, r, fun _ => rfl, fun _ _ => rfl, rfl⟩

theorem CalKept.trans (h : CalKept s t) (k : CalKept t u) : CalKept s u :=
  ⟨k.wf, k.range, fun n => (k.cfg n).trans (h.cfg n), fun a ha => (k.word a ha).trans (h.word a ha), k.ports.trans h.ports⟩

theorem CalKept.ofWords (h : CalKept s t) (w : u.regs.wf = true) (hr : ∀ a, ¬ calArea a → reg u a = reg t a)
    (hs : u.slots = t.slots) (hp : u.ports = t.ports) : CalKept s u :=
  h.trans ⟨w, h.range.of_slots hs, fun n => by rw [cfgOf, slotAt, hs, cfgOf, slotAt], hr, hp⟩

theorem CalKept.ofKeeps {F : List Kind} (h : CalKept s t) (k : Keeps F t u) (hr : Kind.regs ∉ F := by decide)
    (hs : Kind.slots ∉ F := by decide) (hp : Kind.ports ∉ F := by decide) : CalKept s u := by
  have he : u.regs = t.regs := k.same hr
  exact h.ofWords (he ▸ h.wf) (fun a _ => by rw [reg, he, reg]) (k.same hs) (k.same hp)

theorem CalKept.ofLight (h : CalKept s t) (k : LightKept false t u) (hp : u.ports = t.ports) : CalKept s u := by
  obtain ⟨w, hc, -, hr⟩ := k h.wf
  exact h.trans ⟨w, h.range.of_cfg hc, hc, fun a ha => hr h.range.chans a fun hl => ha (.inl hl), hp⟩

theorem CalKept.setReg (h : CalKept s t) {b : Nat} (hb : calArea b) (v : Word) : CalKept s (setReg b v t) :=
  h.ofWords (setReg_wf h.wf _ _) (fun _ ha => reg_setReg_ne h.wf _ fun e => ha (e ▸ hb)) rfl rfl

theorem CalKept.setFld (h : CalKept s t) {b : Nat} (hb : calArea b) (hi lo x : Nat) : CalKept s (setFld b hi lo x t) :=
  h.setReg hb _

theorem CalKept.setBit (h : CalKept s t) {b : Nat} (hb : calArea b) (i : Nat) (x : Bool) : CalKept s (setBit b i x t) :=
  h.setReg hb _

theorem CalKept.setRegs (h : CalKept s t) {l : List (Nat × Word)} (hl : ∀ e ∈ l, calArea e.1) : CalKept s (setRegs l t) := by
  obtain ⟨w, hr⟩ := setRegs_regs h.wf l
  exact h.ofWords w (fun a ha => hr a fun e he hae => ha (hae ▸ hl e he)) rfl rfl

theorem CalKept.modChan (h : CalKept s t) (k : Nat) (f : ChanCal → ChanCal) : CalKept s (modChan k f t) :=
  h.ofKeeps (keeps_modChan (List.Subset.refl _) k f (.refl _ t))

theorem CalKept.modSlot (h : CalKept s t) (n : Nat) (f : SlotState → SlotState)
    (hf : ∀ q, (f q).cfg = q.cfg := by exact fun _ => rfl) : CalKept s (modSlot n f t) := by
  have hc := cfgOf_modSlot (n := n) hf t
  exact h.trans ⟨(modSlot_regs n f t).symm ▸ h.wf, h.range.of_cfg hc, hc, fun a _ => reg_modSlot n f t a, modSlot_ports n f t⟩

theorem CalKept.modCal (h : CalKept s t) (n : Nat) (f : SlotCal → SlotCal) : CalKept s (modCal n f t) := h.modSlot n _

theorem CalKept.foldl {α : Type} (h : CalKept s t) (l : List α) {f : State → α → State}
    (hf : ∀ x ∈ l, ∀ u, CalKept s u → CalKept s (f u x)) : CalKept s (l.foldl f t) :=
  List.foldlRecOn l f h fun u hu x hx => hf x hx u hu

theorem CalKept.forChans (h : CalKept s t) (c : SlotCast) {f : Nat → ChanEnt → State → State}
    (hf : ∀ i, ∀ e ∈ c.chmp, ∀ u, CalKept s u → CalKept s (f i e u)) : CalKept s (forChans c f t) :=
  h.foldl _ fun x hx u hu => hf x.1 x.2 (List.of_mem_zip hx).2 u hu

/-- What calibration changes lies outside the words of a link. -/
theorem LinkKept.ofCal {stat : Bool} (h : LinkKept stat s t) (k : CalKept t u) : LinkKept stat s u := by
  refine h.trans ⟨k.wf, k.range, k.cfg, fun a ha => k.word a ?_, fun p => by rw [portAt, portAt, k.ports]⟩
  rintro (hl | hc)
  · exact not_lightArea_of_linkWord (stat := stat) ha (hl.imp (fun e => nomatch e.2) id)
  · exact not_linkWord (.inr (.inl ⟨by omega, by omega⟩)) ha

/-! ## Where the words of calibration lie (R274) -/

theorem calArea_caCh {k o : Nat} (hk : k < 96) (ho : o ≤ 20) : calArea (Reg.caCh k + o) :=
  .inr (by simp only [Reg.caCh]; omega)

theorem calArea_ca {n o : Nat} (hn : n < 8) (ho : o < 0x100) : calArea (Reg.ca n + o) :=
  .inr (by simp only [Reg.ca]; omega)

theorem calArea_caMtx {n i : Nat} (hn : n < 8) (hi : i < 6) : calArea (Reg.caMtx n i) := by
  rw [Reg.caMtx, Nat.add_assoc]
  exact calArea_ca hn (by omega)

/-! ## Models (R248, R268, R273) -/

theorem CalKept.fix16 (h : CalKept s t) (sgn : Bool) (x : Option Rat) : CalKept s (fix16 sgn x t).2 :=
  h.ofKeeps (keeps_fix16 (List.Subset.refl _) sgn x (.refl _ t))

theorem CalKept.showModel (h : CalKept s t) (p : Nat) {e : ChanEnt} (he : e.lc < 96) (eff : Option Rat) :
    CalKept s (showModel p e eff t) := by
  refine CalKept.setRegs (CalKept.setFld (((h.fix16 _ _).fix16 _ _).fix16 _ _) (calArea_caCh he (by omega)) _ _ _) ?_
  simp only [List.forall_mem_cons, List.not_mem_nil, false_imp_iff, implies_true, and_true]
  exact ⟨calArea_caCh (o := 0) he (by omega), calArea_caCh he (by omega), calArea_caCh he (by omega),
    calArea_caCh he (by omega), calArea_caCh he (by omega)⟩

theorem CalKept.factoryModel (h : CalKept s t) (p : Nat) {e : ChanEnt} (he : e.lc < 96) : CalKept s (factoryModel p e t) :=
  (h.modChan _ _).showModel p he _

theorem CalKept.imageModel (h : CalKept s t) (p : Nat) (img : Option (List Word)) {e : ChanEnt} (he : e.lc < 96) :
    CalKept s (imageModel p img e t) := by
  unfold Machine.imageModel
  split
  · exact h.factoryModel p he
  · split
    · exact h.factoryModel p he
    · refine CalKept.setRegs ((h.modChan _ _).setFld (calArea_caCh he (by omega)) _ _ _) fun x hx => ?_
      obtain ⟨i, hi, rfl⟩ := List.mem_map.1 hx
      have := List.mem_range.1 hi
      exact calArea_caCh he (by omega)

/-! ## Maps (R230, R259, R263, R264) -/

theorem CalKept.formMaps (h : CalKept s t) (hn : n < 8) (c : SlotCast) (i : Nat) (e : ChanEnt)
    (how : EasedMap → List Nat → EasedMap) : CalKept s (formMaps n c i e how t) := by
  unfold Machine.formMaps
  extract_lets q imax pts r t' d s1
  have h1 : CalKept s s1 := h.modChan _ _
  split
  · exact h1.setBit (calArea_ca (o := 0x0C) hn (by omega)) _ _
  · exact h1

theorem LightKept.setMaps {stat : Bool} (h : LightKept stat s t) (n : Nat) : LightKept stat s (setMaps n t) := by
  unfold Machine.setMaps
  split
  · exact h
  · next c hc => exact h.forAll _ fun i hi u hu => hu.installMap n i (chan_lt h hc hi)

theorem CalKept.setMaps (h : CalKept s t) (n : Nat) : CalKept s (setMaps n t) :=
  h.ofLight ((LightKept.refl t).setMaps n)
    ((keeps_setMaps (List.Subset.refl _) n (.refl _ t)).same (k := .ports) (by decide))

theorem CalKept.installMaps (h : CalKept s t) (n : Nat) : CalKept s (installMaps n t) :=
  h.ofLight ((LightKept.refl t).installMaps n)
    ((keeps_installMaps (List.Subset.refl _) n (.refl _ t)).same (k := .ports) (by decide))

/-! ## Matrices and estimators (R255, R260) -/

theorem CalKept.startEsts (h : CalKept s t) (n : Nat) : CalKept s (startEsts n t) := by
  unfold Machine.startEsts
  split
  · exact h
  · exact h.modCal n _

theorem CalKept.formMtx (h : CalKept s t) (hn : n < 8) (c : SlotCast) : CalKept s (formMtx n c t) := by
  unfold Machine.formMtx
  extract_lets j s0
  have h0 : CalKept s s0 := h.modCal n _
  split
  · split
    · exact (h0.modCal n _).setBit (calArea_ca (o := 0x0C) hn (by omega)) _ _
    · exact h0.modCal n _
  · exact (h0.ofKeeps (keeps_freeMtx (List.Subset.refl _) 9 (.refl _ s0))).modCal n _

theorem CalKept.showMtx (h : CalKept s t) (hn : n < 8) : CalKept s (showMtx n t) := by
  refine h.setRegs fun e he => ?_
  obtain ⟨i, hi, rfl⟩ := List.mem_map.1 he
  exact calArea_caMtx hn (List.mem_range.1 hi)

/-! ## An image takes effect (R270, R273) -/

theorem mem_calChans {e : ChanEnt} (h : e ∈ calChans s c) : e ∈ c.chmp := List.mem_of_mem_filter h

theorem CalKept.applyImage (h : CalKept s t) (hn : n < 8) (hc : ∀ e ∈ c.chmp, e.lc < 96) (img : Option (List Word))
    (atOnce : Bool) : CalKept s (applyImage n c img atOnce t) := by
  unfold Machine.applyImage
  extract_lets s1 how s2 m e s3 s4
  have h1 : CalKept s s1 := h.foldl _ fun x hx u hu => hu.imageModel _ img (hc x (mem_calChans hx))
  have h2 : CalKept s s2 := h1.forChans c fun i x hx u hu => by
    split
    · exact hu.formMaps hn c i x how
    · exact hu
  have h3 : CalKept s s3 := (h2.modCal n _).forChans c fun _ x _ u hu => hu.modChan x.lc _
  have h4 : CalKept s s4 := by
    unfold s4
    split
    · exact h3.formMtx hn c
    · exact h3
  refine CalKept.showMtx (CalKept.startEsts ?_ n) hn
  split
  · exact h4.installMaps n
  · exact h4

theorem CalKept.applyRestore (h : CalKept s t) (hn : n < 8) (hc : ∀ e ∈ c.chmp, e.lc < 96) : CalKept s (applyRestore n c t) := by
  unfold Machine.applyRestore
  extract_lets k
  split
  · exact h
  · exact (h.modCal n _).applyImage hn hc _ _

end

/-! ## The matrix in force (R260, R270) -/

/-- What an image puts in force of a slot, and what waits for its boundary. -/
def SlotCal.inForce (k : SlotCal) : List Int × Option (List Word) × Bool := (k.mtx, k.restore, k.refused)

section
variable {s t : State} {n : Nat}

theorem calOf_of_slots (h : t.slots = s.slots) (n : Nat) : calOf t n = calOf s n := by rw [calOf, slotAt, h, calOf, slotAt]

theorem calOf_modCal_same (hn : n < 8) (f : SlotCal → SlotCal) (s : State) : calOf (modCal n f s) n = f (calOf s n) := by
  rw [calOf, modCal, slotAt_modSlot_same hn]
  rfl

theorem inForce_startEsts (hn : n < 8) (s : State) : (calOf (startEsts n s) n).inForce = (calOf s n).inForce := by
  unfold startEsts
  split
  · rfl
  · extract_lets cal pds
    rw [calOf_modCal_same hn]
    rfl

theorem inForce_formMtx (hn : n < 8) (c : SlotCast) (s : State) : (calOf (formMtx n c s) n).inForce = (calOf s n).inForce := by
  unfold formMtx
  extract_lets j s0
  have h0 : (calOf s0 n).inForce = (calOf s n).inForce := by
    unfold s0
    rw [calOf_modCal_same hn]
    rfl
  rw [← h0]
  split
  · split
    · refine (congrArg SlotCal.inForce (calOf_of_slots (setBit_slots _ _ _ _) n)).trans ?_
      rw [calOf_modCal_same hn]
      rfl
    · rw [calOf_modCal_same hn]
      rfl
  · rw [calOf_modCal_same hn]
    have hf : (freeMtx 9 s0).2.slots = s0.slots :=
      (keeps_freeMtx (List.Subset.refl _) 9 (.refl _ s0)).same (k := .slots) (by decide)
    rw [← calOf_of_slots hf n]
    rfl

theorem showMtx_slots (n : Nat) (s : State) : (showMtx n s).slots = s.slots := setRegs_slots _ s

/-- An image that applies at once puts its matrix in force; what waits for the boundary stays. -/
theorem inForce_applyImage (hn : n < 8) (c : SlotCast) (img : Option (List Word)) (s : State) :
    (calOf (applyImage n c img true s) n).inForce = (imageMtx c img, (calOf s n).restore, (calOf s n).refused) := by
  unfold applyImage
  extract_lets s1 how s2 m e s3 s4
  have h2 : s2.slots = s.slots := by
    have k1 : Keeps [.regs, .freeCount, .chans] s s1 :=
      keeps_foldl _ _ (fun u x hu => keeps_imageModel (List.Subset.refl _) _ img x hu) (.refl _ s)
    have k2 : Keeps [.regs, .freeCount, .chans] s s2 := keeps_forChans (by decide) c _ (fun i x u hu => by
      split
      · exact keeps_formMaps (by decide) n c i x how hu
      · exact hu) k1
    exact k2.same (k := .slots) (by decide)
  have h3 : (calOf s3 n).inForce = (m, (calOf s n).restore, (calOf s n).refused) := by
    have k3 : Keeps [.chans] (modCal n (fun k => { k with mtxTarget := m, mtx := if true then m else k.mtx, n := e }) s2) s3 :=
      keeps_forChans (by decide) c _ (fun _ x u hu => keeps_modChan (List.Subset.refl _) x.lc _ hu) (.refl _ _)
    rw [calOf_of_slots (k3.same (k := .slots) (by decide)), calOf_modCal_same hn, calOf_of_slots h2]
    rfl
  have h4 : (calOf s4 n).inForce = (calOf s3 n).inForce := by
    unfold s4
    split
    · exact inForce_formMtx hn c s3
    · rfl
  have h5 : (installMaps n s4).slots = s4.slots :=
    (keeps_installMaps (List.Subset.refl _) n (.refl _ s4)).same (k := .slots) (by decide)
  rw [if_pos rfl, calOf_of_slots (showMtx_slots _ _), inForce_startEsts hn, calOf_of_slots h5, h4, h3]

end
end Sys2Proof.Machine
end

section
/-! PROOFS. The commands of calibration: snapshots, field-calibration pages and the reset of the estimators (R255, R267, R269, R270,
R272). -/

set_option Elab.async false

namespace Sys2Proof.Machine

/-! ## Pages (R272) -/

section
variable {s : State} {n : Nat} {v : Word}

theorem caPageSeq_ne_caPageStat : Reg.caPageStat ≠ Reg.caPageSeq := by decide

/-- Of CA_PAGE_STAT, showing the pages changes their two bits alone. -/
theorem showPages_regs (w : s.regs.wf = true) :
    (showPages s).regs.wf = true ∧ (∀ i, i < 1 ∨ 2 < i → rbit (showPages s) Reg.caPageStat i = rbit s Reg.caPageStat i) ∧
    rfld (showPages s) Reg.caPageStat 31 16 = rfld s Reg.caPageStat 31 16 ∧
    ∀ a, a ≠ Reg.caPageStat → a ≠ Reg.caPageSeq → reg (showPages s) a = reg s a := by
  unfold showPages
  extract_lets n p ok
  have w1 := setFld_wf w Reg.caPageStat 2 1 (2 * ok (portAt s p).pageB + ok (portAt s p).pageA)
  have hstat := reg_setReg_ne w1 (if declared s n then ((newPage s p).map pageSeq).getD 0 else 0) caPageSeq_ne_caPageStat
  refine ⟨setReg_wf w1 _ _, fun i hi => ?_, ?_, fun a ha hs => (reg_setReg_ne w1 _ hs).trans (reg_setFld_ne w _ _ _ ha)⟩
  · rw [rbit, hstat, ← rbit, rbit_setFld_out w _ _ (by omega) (by omega) hi]
  · rw [rfld, hstat, ← rfld, rfld_setFld_out w _ _ (by omega) (by omega) (.inr (by omega)) (by omega)]

theorem showPages_slots (s : State) : (showPages s).slots = s.slots := rfl
theorem showPages_ports (s : State) : (showPages s).ports = s.ports := rfl
theorem showPages_page (s : State) : (showPages s).page = s.page := rfl

/-- The end of a page store: its status is shown, BUSY is cleared, and no store is under way. -/
theorem endStore_outcome (w : s.regs.wf = true) (st : Status) :
    (endStore st s).page = none ∧ rfld (endStore st s) Reg.caPageStat 31 16 = st.code ∧
    rbit (endStore st s) Reg.caPageStat 0 = false ∧ (endStore st s).slots = s.slots ∧ (endStore st s).ports = s.ports := by
  unfold endStore
  have w0 : ({ s with page := none } : State).regs.wf = true := w
  have w1 := setFld_wf w0 Reg.caPageStat 31 16 st.code
  obtain ⟨w3, hbit, hcode, -⟩ := showPages_regs (setBit_wf w1 Reg.caPageStat 0 false)
  obtain ⟨-, hvec⟩ := raiseVec_regs w3 vecCal
  refine ⟨by simp [showPages_page], ?_, ?_, by simp [showPages_slots], by simp [showPages_ports]⟩
  · rw [rfld, hvec _ (by decide), ← rfld, hcode, setBit, rfld_setFld_out w1 _ _ (by omega) (by omega) (.inr (by omega)) (by omega),
      rfld_setFld_same w0 _ _ (by omega) (by omega)]
    exact Nat.mod_eq_of_lt (Status.code_lt st)
  · rw [rbit, hvec _ (by decide), ← rbit, hbit 0 (.inl (by omega)), rbit_setBit_same w1 _ _ (by omega)]

theorem tearPage_regs (s : State) : (tearPage s).regs = s.regs :=
  (keeps_tearPage (List.Subset.refl _) (.refl _ s)).same (k := .regs) (by decide)

theorem tearPage_slots (s : State) : (tearPage s).slots = s.slots :=
  (keeps_tearPage (List.Subset.refl _) (.refl _ s)).same (k := .slots) (by decide)

/-- CA_PAGE_CTRL once a write has chosen its slot. -/
def pageChosen (n : Nat) (s : State) : State := showPages (setFld Reg.caPageCtrl 10 8 n s)

theorem pageChosen_wf (w : s.regs.wf = true) (n : Nat) : (pageChosen n s).regs.wf = true :=
  (showPages_regs (setFld_wf w _ _ _ _)).1

theorem pageCtrl_begins (h0 : bit v 0 = true) (hn : n = fld v 10 8) (hp : s.page = none) (hb : bound s n = true)
    (hl : linkState s (portOf s n) = lsRun) : pageCtrl v s = setBit Reg.caPageStat 0 true
      { pageChosen n s with page := some { slot := n, page := 0, image := [], at_ := .waitBoundary } } := by
  subst hn
  simp [pageCtrl, pageChosen, h0, hp, hb, hl]

theorem pageCtrl_busy (h0 : bit v 0 = true) (hn : n = fld v 10 8) (hp : s.page.isSome = true) :
    pageCtrl v s = setFld Reg.caPageStat 31 16 Status.PAGE_BUSY.code (pageChosen n s) := by
  subst hn
  simp [pageCtrl, pageChosen, h0, hp]

theorem exec_store_begins (w : s.regs.wf = true) (ho : hostOpen s Reg.caPageCtrl = true) (h0 : bit v 0 = true)
    (hn : n = fld v 10 8) (hp : s.page = none) (hb : bound s n = true) (hl : linkState s (portOf s n) = lsRun) :
    ∃ t, exec (.store v) s = .next t ∧ t.page = some { slot := n, page := 0, image := [], at_ := .waitBoundary } ∧
      rbit t Reg.caPageStat 0 = true ∧ t.slots = s.slots :=
  ⟨_, congrArg Host.Outcome.next ((hostWrite_open ho v pageCtrl).trans (pageCtrl_begins h0 hn hp hb hl)), rfl,
    rbit_setBit_same (pageChosen_wf w n) _ _ (by omega), rfl⟩

theorem exec_store_busy (w : s.regs.wf = true) (ho : hostOpen s Reg.caPageCtrl = true) (h0 : bit v 0 = true)
    (hn : n = fld v 10 8) (hp : s.page.isSome = true) :
    ∃ t, exec (.store v) s = .next t ∧ t.page = s.page ∧ rfld t Reg.caPageStat 31 16 = Status.PAGE_BUSY.code ∧
      t.slots = s.slots :=
  ⟨_, congrArg Host.Outcome.next ((hostWrite_open ho v pageCtrl).trans (pageCtrl_busy h0 hn hp)), rfl,
    rfld_setFld_same (pageChosen_wf w n) _ _ (by omega) (by omega), rfl⟩

/-- The outcome of a page store that has been read back, or whose link is lost, is reported. -/
theorem exec_pageStoreDone_lost {g : PageStore} (w : s.regs.wf = true) (hg : s.page = some g) :
    ∃ t, exec (.pageStoreDone true) s = .next t ∧ t.page = none ∧ rfld t Reg.caPageStat 31 16 = Status.PAGE_LINK.code ∧
      rbit t Reg.caPageStat 0 = false ∧ t.slots = s.slots := by
  obtain ⟨hpage, hcode, hbusy, hslots, -⟩ := endStore_outcome (s := tearPage s) (tearPage_regs s ▸ w) .PAGE_LINK
  refine ⟨endStore .PAGE_LINK (tearPage s), ?_, hpage, hcode, hbusy, hslots.trans (tearPage_slots s)⟩
  change execPageStoreDone true s = _
  rw [execPageStoreDone, hg]
  rfl

theorem exec_pageStoreDone_checked {g : PageStore} {ok : Bool} (w : s.regs.wf = true) (hg : s.page = some g)
    (hk : g.at_ = .checked ok) :
    ∃ t, exec (.pageStoreDone false) s = .next t ∧ t.page = none ∧
      rfld t Reg.caPageStat 31 16 = (if ok then Status.OK else Status.PAGE_VERIFY).code ∧ rbit t Reg.caPageStat 0 = false ∧
      t.slots = s.slots := by
  obtain ⟨hpage, hcode, hbusy, hslots, -⟩ := endStore_outcome w (if ok then .OK else .PAGE_VERIFY)
  refine ⟨endStore (if ok then .OK else .PAGE_VERIFY) s, ?_, hpage, hcode, hbusy, hslots⟩
  change execPageStoreDone false s = _
  rw [execPageStoreDone, hg]
  dsimp only
  rw [if_neg Bool.false_ne_true, hk]

end

/-! ## Snapshots (R269, R270) -/

section
variable {s : State} {n : Nat} {v : Word}

/-- CA_SNAP_CTRL once a write has chosen its slot. -/
def snapChosen (n : Nat) (s : State) : State := setFld Reg.caSnapCtrl 10 8 n s

/-- The state in which a TAKE waits for its boundary. -/
def snapBegun (n : Nat) (s : State) : State :=
  modCal n (fun k => { k with take := true }) (setReg (Reg.snapBuf 511) 0
    (setReg (Reg.caSnapGen n) (reg s (Reg.caSnapGen n) + 1) (setFld Reg.caSnapStat 1 0 1 (snapChosen n s))))

theorem rbit_snapChosen (w : s.regs.wf = true) (n i : Nat) : rbit (snapChosen n s) Reg.caSnapStat i = rbit s Reg.caSnapStat i := by
  rw [rbit, snapChosen, reg_setFld_ne w _ _ _ (by decide), rbit]

theorem snapCtrl_take (h0 : bit v 0 = true) (h1 : bit v 1 = false) (hn : n = fld v 10 8) (hd : declared s n = true)
    (hf : rbit (snapChosen n s) Reg.caSnapStat 0 = false) : snapCtrl v s = snapBegun n s := by
  subst hn
  unfold snapChosen at hf
  simp [snapCtrl, snapBegun, snapChosen, h0, h1, hd, hf]

theorem snapCtrl_take_busy (h0 : bit v 0 = true) (h1 : bit v 1 = false) (hn : n = fld v 10 8) (hd : declared s n = true)
    (hf : rbit (snapChosen n s) Reg.caSnapStat 0 = true) : snapCtrl v s = snapResult .SNAP_BUSY (snapChosen n s) := by
  subst hn
  unfold snapChosen at hf
  simp [snapCtrl, snapChosen, h0, h1, hd, hf]

theorem snapCtrl_restore_busy (h0 : bit v 0 = false) (h1 : bit v 1 = true) (hn : n = fld v 10 8)
    (hf : rbit (snapChosen n s) Reg.caSnapStat 0 = true) : snapCtrl v s = snapResult .SNAP_BUSY (snapChosen n s) := by
  subst hn
  unfold snapChosen at hf
  simp [snapCtrl, snapChosen, h0, h1, hf]

theorem rfld_snapResult (w : s.regs.wf = true) (st : Status) : rfld (snapResult st s) Reg.caSnapStat 31 16 = st.code := by
  rw [snapResult, rfld_setFld_same w _ _ (by omega) (by omega)]
  exact Nat.mod_eq_of_lt (Status.code_lt st)

theorem exec_take_begins (w : s.regs.wf = true) (ho : hostOpen s Reg.caSnapCtrl = true) (hn : n = fld v 10 8)
    (h0 : bit v 0 = true) (h1 : bit v 1 = false) (hd : declared s n = true) (hf : rbit s Reg.caSnapStat 0 = false) :
    ∃ t, exec (.take v) s = .next t ∧ rbit t Reg.caSnapStat 0 = true ∧ rbit t Reg.caSnapStat 1 = false ∧
      reg t (Reg.caSnapGen n) = reg s (Reg.caSnapGen n) + 1 ∧ reg t (Reg.snapBuf 511) = 0 ∧ (slotAt t n).cal.take = true ∧
      ∀ k, k ≠ n → slotAt t k = slotAt s k := by
  obtain ⟨c, hc⟩ := Option.isSome_iff_exists.1 hd
  have hn8 : n < 8 := lt_of_cfg hc
  have w1 : (snapChosen n s).regs.wf = true := setFld_wf w _ _ _ _
  have w2 := setFld_wf w1 Reg.caSnapStat 1 0 1
  have w3 := setReg_wf w2 (Reg.caSnapGen n) (reg s (Reg.caSnapGen n) + 1)
  have hbuf : Reg.caSnapGen n ≠ Reg.snapBuf 511 := by simp only [Reg.caSnapGen, Reg.ca, Reg.snapBuf]; omega
  have hgen : Reg.caSnapStat ≠ Reg.caSnapGen n := by simp only [Reg.caSnapStat, Reg.caSnapGen, Reg.ca]; omega
  have hstat : reg (snapBegun n s) Reg.caSnapStat = putFld (reg (snapChosen n s) Reg.caSnapStat) 1 0 1 := by
    rw [snapBegun, reg_modCal, reg_setReg_ne w3 _ (by decide), reg_setReg_ne w2 _ hgen, reg_setFld_same w1]
  refine ⟨snapBegun n s, congrArg Host.Outcome.next ((hostWrite_open ho v snapCtrl).trans
    (snapCtrl_take h0 h1 hn hd ((rbit_snapChosen w n 0).trans hf))), ?_, ?_, ?_, ?_, ?_, fun k hk => ?_⟩
  · rw [rbit, hstat, bit, putFld_bit _ _ (by omega) (by omega) (by omega)]
    rfl
  · rw [rbit, hstat, bit, putFld_bit _ _ (by omega) (by omega) (by omega)]
    rfl
  · rw [snapBegun, reg_modCal, reg_setReg_ne w3 _ hbuf, reg_setReg_same w2]
  · rw [snapBegun, reg_modCal, reg_setReg_same w3]
  · rw [snapBegun, modCal, slotAt_modSlot_same hn8]
  · rw [snapBegun, modCal, slotAt_modSlot_ne hk]
    rfl

theorem exec_take_busy (w : s.regs.wf = true) (ho : hostOpen s Reg.caSnapCtrl = true) (hn : n = fld v 10 8)
    (h0 : bit v 0 = true) (h1 : bit v 1 = false) (hd : declared s n = true) (hf : rbit s Reg.caSnapStat 0 = true) :
    ∃ t, exec (.take v) s = .next t ∧ rfld t Reg.caSnapStat 31 16 = Status.SNAP_BUSY.code ∧ t.slots = s.slots :=
  ⟨_, congrArg Host.Outcome.next ((hostWrite_open ho v snapCtrl).trans
    (snapCtrl_take_busy h0 h1 hn hd ((rbit_snapChosen w n 0).trans hf))), rfld_snapResult (setFld_wf w _ _ _ _) _, rfl⟩

theorem exec_restore_busy (w : s.regs.wf = true) (ho : hostOpen s Reg.caSnapCtrl = true) (h0 : bit v 0 = false)
    (h1 : bit v 1 = true) (hf : rbit s Reg.caSnapStat 0 = true) :
    ∃ t, exec (.restore v) s = .next t ∧ rfld t Reg.caSnapStat 31 16 = Status.SNAP_BUSY.code ∧ t.slots = s.slots :=
  ⟨_, congrArg Host.Outcome.next ((hostWrite_open ho v snapCtrl).trans
    (snapCtrl_restore_busy h0 h1 rfl ((rbit_snapChosen w _ 0).trans hf))), rfld_snapResult (setFld_wf w _ _ _ _) _, rfl⟩

/-! ## RESTORE (R267, R270) -/

/-- What a RESTORE leaves waiting in a slot: its image, or that the image was refused. -/
def restoreWaits (st : Status) (img : List Word) (k : SlotCal) : SlotCal :=
  { k with restore := if st = .OK then some img else none, refused := decide (st ≠ .OK) }

/-- The state in which a RESTORE has answered its status and waits. -/
def restoreAnswered (n : Nat) (st : Status) (img : List Word) (s : State) : State :=
  modCal n (restoreWaits st img) (snapResult st (snapChosen n s))

/-- A restore takes effect at the write: the engine is bound, and nothing projects or NOSEQ is set. -/
def restoreAtOnce (s : State) (n : Nat) : Prop :=
  bound s n = true ∧ (projects (reckOf s n) = false ∨ rbit s (Reg.slStatus n) 3 = true)

theorem reg_snapBuf_snapChosen (w : s.regs.wf = true) (n i : Nat) : reg (snapChosen n s) (Reg.snapBuf i) = reg s (Reg.snapBuf i) :=
  reg_setFld_ne w _ _ _ (by simp only [Reg.snapBuf, Reg.caSnapCtrl]; omega)

theorem restoreAnswered_regs (w : s.regs.wf = true) (n : Nat) (st : Status) (img : List Word) :
    (restoreAnswered n st img s).regs.wf = true ∧ rfld (restoreAnswered n st img s) Reg.caSnapStat 31 16 = st.code ∧
    ∀ a, a ≠ Reg.caSnapCtrl → a ≠ Reg.caSnapStat → reg (restoreAnswered n st img s) a = reg s a := by
  have w1 : (snapChosen n s).regs.wf = true := setFld_wf w _ _ _ _
  have hr : (restoreAnswered n st img s).regs = (snapResult st (snapChosen n s)).regs := modCal_regs _ _ _
  refine ⟨hr ▸ setFld_wf w1 _ _ _ _, ?_, fun a hc hs => ?_⟩
  · rw [restoreAnswered, rfld, reg_modCal, ← rfld, rfld_snapResult w1]
  · rw [restoreAnswered, reg_modCal, snapResult, reg_setFld_ne w1 _ _ _ hs, snapChosen, reg_setFld_ne w _ _ _ hc]

theorem slotAt_restoreAnswered (hn : n < 8) (st : Status) (img : List Word) (s : State) :
    slotAt (restoreAnswered n st img s) n = { slotAt s n with cal := restoreWaits st img (slotAt s n).cal } := by
  rw [restoreAnswered, modCal, slotAt_modSlot_same hn]
  rfl

theorem cfgOf_restoreAnswered (n : Nat) (st : Status) (img : List Word) (s : State) (k : Nat) :
    cfgOf (restoreAnswered n st img s) k = cfgOf s k := by
  rw [restoreAnswered, modCal, cfgOf_modSlot (by exact fun _ => rfl)]
  exact cfgOf_of_slots (setFld_slots _ _ _ _ _) k

/-- Whether an engine is bound rests on its port, its STATUS and the slot's Cast. -/
theorem bound_congr {t : State} (hc : cfgOf t n = cfgOf s n) (hp : ∀ k, portAt t k = portAt s k)
    (hr : ∀ p, reg t (Reg.epStatus p) = reg s (Reg.epStatus p)) : bound t n = bound s n := by
  unfold bound
  rw [hc]
  split
  · rw [rbit, hr, ← rbit, hp]
  · rfl

theorem restoreAtOnce_answered (w : s.regs.wf = true) (hn : n < 8) (st : Status) (img : List Word) :
    restoreAtOnce (restoreAnswered n st img s) n ↔ restoreAtOnce s n := by
  obtain ⟨-, -, hword⟩ := restoreAnswered_regs w n st img
  have hb : bound (restoreAnswered n st img s) n = bound s n :=
    bound_congr (cfgOf_restoreAnswered n st img s n) (fun k => portAt_modCal n _ _ k) fun p =>
      hword _ (by simp only [Reg.epStatus, Reg.ep, Reg.caSnapCtrl]; omega) (by simp only [Reg.epStatus, Reg.ep, Reg.caSnapStat]; omega)
  have hq : rbit (restoreAnswered n st img s) (Reg.slStatus n) 3 = rbit s (Reg.slStatus n) 3 :=
    congrArg (bit · 3) (hword _ (by simp only [Reg.slStatus, Reg.sl, Reg.caSnapCtrl]; omega)
      (by simp only [Reg.slStatus, Reg.sl, Reg.caSnapStat]; omega))
  have hr : reckOf (restoreAnswered n st img s) n = reckOf s n := by
    rw [reckOf, slotAt_restoreAnswered hn]
    rfl
  rw [restoreAtOnce, hb, hq, hr, restoreAtOnce]

/-- A write of RESTORE alone, with no capture under way: the status of the image is answered, and the restore waits or acts. -/
theorem snapCtrl_restore {c : SlotCast} {img : List Word} {st : Status} (w : s.regs.wf = true) (h0 : bit v 0 = false)
    (h1 : bit v 1 = true) (hn : n = fld v 10 8) (hf : rbit s Reg.caSnapStat 0 = false) (hc : cfgOf s n = some c)
    (hi : img = (List.range 512).map fun i => reg s (Reg.snapBuf i)) (hst : st = imageStatus (snapChosen n s) n img) :
    (restoreAtOnce s n → snapCtrl v s = raiseVec vecCal (applyRestore n c (restoreAnswered n st img s))) ∧
    (¬ restoreAtOnce s n → snapCtrl v s = raiseVec vecCal (restoreAnswered n st img s)) := by
  have hfree := (rbit_snapChosen w n 0).trans hf
  have himg : (List.range 512).map (fun i => reg (snapChosen n s) (Reg.snapBuf i)) = img := by
    simp only [reg_snapBuf_snapChosen w, hi]
  rw [← restoreAtOnce_answered w (lt_of_cfg hc) st img]
  subst hn
  unfold snapCtrl
  extract_lets m s1 s2 img' st' s3 s4
  have h2 : s2 = snapChosen m s := if_pos (.inl (by simp [h0]))
  have hi' : img' = img := by rw [← himg, ← h2]
  have hst' : st' = st := by rw [hst, ← h2, ← hi']
  have h3 : s3 = restoreAnswered m st img s := by
    unfold s3
    rw [hst', hi', h2]
    rfl
  have hcode : rbit s2 Reg.caSnapStat 0 = false := by rw [h2, hfree]
  have h4 : s4 = if bound s3 m ∧ (¬ projects (reckOf s3 m) ∨ rbit s3 (Reg.slStatus m) 3) then applyRestore m c s3 else s3 := by
    unfold s4
    rw [hc]
  rw [if_neg (by simp [h1]), if_neg (by simp [hcode]), h4, h3]
  refine ⟨fun h => ?_, fun h => ?_⟩
  · rw [if_pos (by simpa [restoreAtOnce] using h)]
  · rw [if_neg (by simpa [restoreAtOnce] using h)]

/-- A restore or a refusal waits after every RESTORE, and takes effect at once where the slot does not project. -/
theorem applyRestore_answered {c : SlotCast} {st : Status} {img : List Word} (w : s.regs.wf = true) (hn : n < 8)
    (h : restoreAtOnce s n) : applyRestore n c (restoreAnswered n st img s) =
      applyImage n c (if st = .OK then some img else none) true
        (modCal n (fun k => { k with restore := none, refused := false }) (restoreAnswered n st img s)) := by
  obtain ⟨-, hnow⟩ := (restoreAtOnce_answered w hn st img).2 h
  have hk : calOf (restoreAnswered n st img s) n = restoreWaits st img (slotAt s n).cal := by
    rw [calOf, slotAt_restoreAnswered hn]
  have honce : (!projects (reckOf (restoreAnswered n st img s) n) || rbit (restoreAnswered n st img s) (Reg.slStatus n) 3) = true := by
    rcases hnow with hp | hq
    · rw [hp]; rfl
    · rw [hq, Bool.or_true]
  unfold applyRestore
  rw [hk, honce]
  exact if_neg (by by_cases hs : st = .OK <;> simp [restoreWaits, hs])

theorem exec_restore_waits {c : SlotCast} {img : List Word} {st : Status} (w : s.regs.wf = true)
    (ho : hostOpen s Reg.caSnapCtrl = true) (hn : n = fld v 10 8) (h0 : bit v 0 = false) (h1 : bit v 1 = true)
    (hf : rbit s Reg.caSnapStat 0 = false) (hc : cfgOf s n = some c)
    (hi : img = (List.range 512).map fun i => reg s (Reg.snapBuf i)) (hst : st = imageStatus (snapChosen n s) n img)
    (h : ¬ restoreAtOnce s n) :
    ∃ t, exec (.restore v) s = .next t ∧ rfld t Reg.caSnapStat 31 16 = st.code ∧
      slotAt t n = { slotAt s n with cal := restoreWaits st img (slotAt s n).cal } := by
  obtain ⟨wa, hcode, -⟩ := restoreAnswered_regs w n st img
  obtain ⟨-, hvec⟩ := raiseVec_regs wa vecCal
  refine ⟨_, congrArg Host.Outcome.next ((hostWrite_open ho v snapCtrl).trans
    ((snapCtrl_restore w h0 h1 hn hf hc hi hst).2 h)), ?_, ?_⟩
  · rw [rfld, hvec _ (by decide), ← rfld, hcode]
  · rw [slotAt_raiseVec, slotAt_restoreAnswered (lt_of_cfg hc)]

theorem exec_restore_acts {c : SlotCast} {img : List Word} {st : Status} (w : s.regs.wf = true) (r : RunningInRange s)
    (ho : hostOpen s Reg.caSnapCtrl = true) (hn : n = fld v 10 8) (h0 : bit v 0 = false) (h1 : bit v 1 = true)
    (hf : rbit s Reg.caSnapStat 0 = false) (hc : cfgOf s n = some c)
    (hi : img = (List.range 512).map fun i => reg s (Reg.snapBuf i)) (hst : st = imageStatus (snapChosen n s) n img)
    (h : restoreAtOnce s n) :
    ∃ t, exec (.restore v) s = .next t ∧ rfld t Reg.caSnapStat 31 16 = st.code ∧
      (slotAt t n).cal.inForce = (imageMtx c (if st = .OK then some img else none), none, false) := by
  have hn8 : n < 8 := lt_of_cfg hc
  obtain ⟨wa, hcode, -⟩ := restoreAnswered_regs w n st img
  have ra : RunningInRange (restoreAnswered n st img s) := r.of_cfg (cfgOf_restoreAnswered n st img s)
  have k := (CalKept.refl wa ra).applyRestore (c := c) hn8 fun e he => r.chans n c e hc he
  have hstat : ¬ calArea Reg.caSnapStat := by
    simp only [calArea, lightArea, Reg.lcLenStat, Reg.caSnapStat]
    omega
  obtain ⟨-, hvec⟩ := raiseVec_regs k.wf vecCal
  refine ⟨_, congrArg Host.Outcome.next ((hostWrite_open ho v snapCtrl).trans
    ((snapCtrl_restore w h0 h1 hn hf hc hi hst).1 h)), ?_, ?_⟩
  · rw [rfld, hvec _ (by decide), k.word _ hstat, ← rfld, hcode]
  · rw [slotAt_raiseVec, applyRestore_answered w hn8 h, ← calOf, inForce_applyImage hn8, calOf_modCal_same hn8]

end

/-! ## CAn_CTRL (R255, R267) -/

section
variable {s : State} {n : Nat} {c : SlotCast}

theorem startEsts_regs (n : Nat) (s : State) : (startEsts n s).regs = s.regs :=
  (keeps_startEsts (List.Subset.refl _) n (.refl _ s)).same (k := .regs) (by decide)

/-- The estimators start with no row taken, and those of other slots go on (R255). -/
theorem startEsts_rows (hc : cfgOf s n = some c) :
    (slotAt (startEsts n s) n).cal.rows = 0 ∧ (slotAt (startEsts n s) n).cal.noRow = 0 ∧
    ∀ k, k ≠ n → slotAt (startEsts n s) k = slotAt s k := by
  unfold startEsts
  rw [hc]
  dsimp only
  refine ⟨?_, ?_, fun k hk => slotAt_modSlot_ne hk _ s⟩ <;> rw [modCal, slotAt_modSlot_same (lt_of_cfg hc)]

theorem caCtrl_regs (w : s.regs.wf = true) (n : Nat) (v : Word) :
    rbit (caCtrl n v s) (Reg.caCtrl n) 0 = bit v 0 ∧ ∀ a, a ≠ Reg.caCtrl n → reg (caCtrl n v s) a = reg s a := by
  have hr : (caCtrl n v s).regs = (setBit (Reg.caCtrl n) 0 (bit v 0) s).regs := by
    unfold caCtrl
    extract_lets s1
    split
    · exact startEsts_regs n s1
    · rfl
  refine ⟨?_, fun a ha => ?_⟩
  · rw [rbit, reg, hr, ← reg, ← rbit, rbit_setBit_same w _ _ (by omega)]
  · rw [reg, hr, ← reg, setBit, reg_setFld_ne w _ _ _ ha]

theorem caCtrl_reset {v : Word} (h : bit v 1 = true) : caCtrl n v s = startEsts n (setBit (Reg.caCtrl n) 0 (bit v 0) s) := if_pos h

theorem caCtrl_keep {v : Word} (h : bit v 1 = false) : caCtrl n v s = setBit (Reg.caCtrl n) 0 (bit v 0) s :=
  if_neg (by simp [h])

end

/-- Settles O41: each command by what its register's write does. -/
theorem calibrationCommands : Obligations.CalibrationCommands := by
  intro s w
  obtain ⟨wr, -⟩ := State.wf_iff.1 w
  refine ⟨fun v n ho hn h0 h1 hd => ⟨exec_take_begins wr ho hn h0 h1 hd, exec_take_busy wr ho hn h0 h1 hd⟩,
    fun v n c img ho hn h0 h1 hf hc hi st hr hst => ?_, fun v ho h0 h1 hf => exec_restore_busy wr ho h0 h1 hf,
    fun v n ho hn h0 => ⟨exec_store_begins wr ho h0 hn, exec_store_busy wr ho h0 hn⟩,
    fun g hg => ⟨exec_pageStoreDone_lost wr hg, fun ok hk => exec_pageStoreDone_checked wr hg hk⟩,
    fun n v c ho hc => ⟨fun h1 => ?_, fun h1 => ?_⟩⟩
  · by_cases h : restoreAtOnce s n
    · obtain ⟨t, ht, hcode, hcal⟩ := exec_restore_acts wr hr.1 ho hn h0 h1 hf hc hi hst h
      obtain ⟨hb, hnow⟩ := h
      simp only [SlotCal.inForce, Prod.mk.injEq] at hcal
      obtain ⟨hmtx, hres, href⟩ := hcal
      refine ⟨t, ht, hcode, ?_, fun _ _ => ⟨hres, href, fun _ => hmtx⟩⟩
      rintro (hx | ⟨hp, hq⟩)
      · exact absurd (hb.symm.trans hx) nofun
      · rcases hnow with hx | hx
        · exact absurd (hp.symm.trans hx) nofun
        · exact absurd (hq.symm.trans hx) nofun
    · obtain ⟨t, ht, hcode, hslot⟩ := exec_restore_waits wr ho hn h0 h1 hf hc hi hst h
      exact ⟨t, ht, hcode, fun _ => hslot, fun hb hx => absurd ⟨hb, hx⟩ h⟩
  · obtain ⟨hbit, hword⟩ := caCtrl_regs wr n.val v
    obtain ⟨hrows, hno, hslots⟩ := startEsts_rows (s := setBit (Reg.caCtrl n.val) 0 (bit v 0) s) hc
    refine ⟨caCtrl n.val v s, congrArg Host.Outcome.next (hostWrite_open ho v _), hbit, ?_, ?_, hword, ?_⟩ <;>
      rw [caCtrl_reset h1]
    exacts [hrows, hno, hslots]
  · obtain ⟨hbit, hword⟩ := caCtrl_regs wr n.val v
    exact ⟨caCtrl n.val v s, congrArg Host.Outcome.next (hostWrite_open ho v _), hbit, hword, by rw [caCtrl_keep h1]; rfl⟩

end Sys2Proof.Machine
end

section
/-! PROOFS. The answers of an engine to descriptor reads and writes: the tag that is taken off, the page that waits for the answer,
and the descriptor as it is read (R272, R313, R317). -/

set_option Elab.async false

namespace Sys2Proof.Machine

/-! ## The tags of a port -/

/-- Port p with the tags that keep accepts. -/
def tagsKept (p : Nat) (keep : DescTag → Bool) (s : State) : State :=
  modPort p (fun q => { q with tags := q.tags.filter keep }) s

section
variable {s : State} {p : Nat} {x : DescTag} {g : PageStore} {d : List Byte}

theorem tagsKept_regs (p : Nat) (keep : DescTag → Bool) (s : State) : (tagsKept p keep s).regs = s.regs := modPort_regs _ _ _
theorem tagsKept_slots (p : Nat) (keep : DescTag → Bool) (s : State) : (tagsKept p keep s).slots = s.slots := modPort_slots _ _ _
theorem tagsKept_page (p : Nat) (keep : DescTag → Bool) (s : State) : (tagsKept p keep s).page = s.page := modPort_page _ _ _

theorem portAt_tagsKept_same (hp : p < 8) (keep : DescTag → Bool) (s : State) :
    portAt (tagsKept p keep s) p = { portAt s p with tags := (portAt s p).tags.filter keep } := portAt_modPort_same hp _ _

theorem portAt_tagsKept_ne {k : Nat} (hk : k ≠ p) (keep : DescTag → Bool) (s : State) :
    portAt (tagsKept p keep s) k = portAt s k := portAt_modPort_ne hk _ _

theorem portOf_of_slots {t : State} (h : t.slots = s.slots) (n : Nat) : portOf t n = portOf s n := by
  rw [portOf, cfgOf_of_slots h, portOf]

theorem pageOk_of_regs {t : State} (h : t.regs = s.regs) (p : Nat) (b : List Byte) : pageOk t p b = pageOk s p b := by
  simp only [pageOk, portCrc, reg, h]

/-! ## Read answers outside Identify (R272) -/

/-- A read answer of a link outside Identify goes to the page store. -/
theorem readData_store {tag addr : Nat} (hx : ((portAt s p).tags.find? fun y => y.tag == tag && !y.write && y.addr == addr) = some x)
    (hl : linkState s p ≠ lsIdentify) (ok : Bool) (d : List Byte) :
    readData p tag addr ok d s = storeRead p addr (ok && d.length == x.len) (if ok then d else []) (tagsKept p (· != x) s) := by
  rw [readData, hx]
  exact if_neg fun h => hl h.1

theorem storeRead_of_none (h : s.page = none) (p addr : Nat) (ok : Bool) (d : List Byte) : storeRead p addr ok d s = s := by
  rw [storeRead, h]

/-- Page pg of port p as it has been read back. -/
def pageRead (p pg : Nat) (d : List Byte) (s : State) : State :=
  modPort p (fun q => if pg = 0 then { q with pageA := d } else { q with pageB := d }) s

theorem pageRead_regs (p pg : Nat) (d : List Byte) (s : State) : (pageRead p pg d s).regs = s.regs := modPort_regs _ _ _
theorem pageRead_slots (p pg : Nat) (d : List Byte) (s : State) : (pageRead p pg d s).slots = s.slots := modPort_slots _ _ _

/-- The answer that a page store waits for is checked. -/
theorem storeRead_of_waiting {addr : Nat} (hg : s.page = some g) (hp : portOf s g.slot = p) (hr : g.at_ = .reading)
    (ha : addr = pageAddr g.page) (ok : Bool) (d : List Byte) :
    storeRead p addr ok d s =
      { pageRead p g.page d s with page := some { g with at_ := .checked (ok && pageOk s p d) } } := by
  rw [storeRead, hg, ← pageOk_of_regs (pageRead_regs p g.page d s)]
  exact if_neg (by simp [hp, hr, ha])

theorem exec_readData_idle {tag st : Byte} {a : BitVec 16} {p : Port}
    (hx : ((portAt s p.val).tags.find? fun y => y.tag == tag.toNat && !y.write && y.addr == a.toNat) = some x)
    (hl : linkState s p.val ≠ lsIdentify) (hg : s.page = none) :
    exec (.readData p tag a st d) s = .next (tagsKept p.val (· != x) s) :=
  congrArg Host.Outcome.next ((readData_store hx hl _ d).trans (storeRead_of_none ((tagsKept_page _ _ _).trans hg) _ _ _ _))

theorem exec_readData_page {tag : Byte} {a : BitVec 16} {p : Port}
    (hx : ((portAt s p.val).tags.find? fun y => y.tag == tag.toNat && !y.write && y.addr == a.toNat) = some x)
    (hl : linkState s p.val ≠ lsIdentify) (hg : s.page = some g) (hp : portOf s g.slot = p.val) (hr : g.at_ = .reading)
    (ha : a.toNat = pageAddr g.page) (h0 : g.page = 0) (hd : d.length = x.len) :
    ∃ t, exec (.readData p tag a 0 d) s = .next t ∧ (portAt t p.val).pageA = d ∧
      t.page = some { g with at_ := .checked (pageOk s p.val d) } ∧ t.regs = s.regs ∧ t.slots = s.slots := by
  have hpage := (tagsKept_page p.val (· != x) s).trans hg
  have hport := (portOf_of_slots (tagsKept_slots p.val (· != x) s) g.slot).trans hp
  have hread : readData p.val tag.toNat a.toNat true d s = { pageRead p.val g.page d (tagsKept p.val (· != x) s) with
      page := some { g with at_ := .checked (pageOk s p.val d) } } := by
    rw [readData_store hx hl, storeRead_of_waiting hpage hport hr ha, pageOk_of_regs (tagsKept_regs _ _ _), hd]
    simp
  refine ⟨_, congrArg Host.Outcome.next hread, ?_, rfl, (pageRead_regs _ _ _ _).trans (tagsKept_regs _ _ _),
    (pageRead_slots _ _ _ _).trans (tagsKept_slots _ _ _)⟩
  refine (congrArg PortState.pageA (portAt_modPort_same p.isLt _ _)).trans ?_
  rw [if_pos h0]

/-! ## Write answers and their time (R272) -/

theorem writeDone_store {tag : Nat} (hx : ((portAt s p).tags.find? fun y => y.tag == tag && y.write) = some x) (ok : Bool) :
    writeDone p tag ok s = storeWritten p ok (tagsKept p (· != x) s) := by
  rw [writeDone, hx]
  rfl

theorem storeWritten_refused (hg : s.page = some g) (hp : portOf s g.slot = p) (hw : g.at_ = .writing) :
    storeWritten p false s = { tearPage s with page := some { g with at_ := .checked false } } := by
  rw [storeWritten, hg]
  simp [hp, hw]

theorem storeWritten_taken (hg : s.page = some g) (hp : portOf s g.slot = p) (hw : g.at_ = .writing) :
    storeWritten p true s =
      descRequest p (pageAddr g.page) 2048 none { s with page := some { g with at_ := .reading } } := by
  rw [storeWritten, hg]
  simp [hp, hw]

theorem tags_tearPage (s : State) (k : Nat) : (portAt (tearPage s) k).tags = (portAt s k).tags := by
  unfold tearPage
  split
  · split
    · rfl
    · next g _ _ =>
      by_cases hk : k = portOf s g.slot ∧ k < 8
      · obtain ⟨rfl, h8⟩ := hk
        rw [portAt_modPort_same h8]
        split <;> rfl
      · by_cases he : k = portOf s g.slot
        · rw [modPort, dif_neg fun h8 => hk ⟨he, he ▸ h8⟩]
        · rw [portAt_modPort_ne he]
  · rfl

theorem exec_writeDone_refused {tag st : Byte} {p : Port}
    (hx : ((portAt s p.val).tags.find? fun y => y.tag == tag.toNat && y.write) = some x)
    (hg : s.page = some g) (hp : portOf s g.slot = p.val) (hw : g.at_ = .writing) (hst : st ≠ 0) :
    ∃ t, exec (.writeDone p tag st) s = .next t ∧ t.page = some { g with at_ := .checked false } ∧
      (portAt t p.val).tags = (portAt s p.val).tags.filter (· != x) ∧ t.regs = s.regs ∧ t.slots = s.slots := by
  have hpage := (tagsKept_page p.val (· != x) s).trans hg
  have hport := (portOf_of_slots (tagsKept_slots p.val (· != x) s) g.slot).trans hp
  have hdone : writeDone p.val tag.toNat (st == 0) s =
      { tearPage (tagsKept p.val (· != x) s) with page := some { g with at_ := .checked false } } := by
    rw [beq_eq_false_iff_ne.2 hst, writeDone_store hx, storeWritten_refused hpage hport hw]
  refine ⟨_, congrArg Host.Outcome.next hdone, rfl, ?_,
    (tearPage_regs _).trans (tagsKept_regs _ _ _), (tearPage_slots _).trans (tagsKept_slots _ _ _)⟩
  exact (tags_tearPage _ _).trans (congrArg PortState.tags (portAt_tagsKept_same p.isLt _ s))

theorem exec_writeDone_taken {tag : Byte} {p : Port}
    (hx : ((portAt s p.val).tags.find? fun y => y.tag == tag.toNat && y.write) = some x)
    (hg : s.page = some g) (hp : portOf s g.slot = p.val) (hw : g.at_ = .writing) :
    ∃ t, exec (.writeDone p tag 0) s = .next t ∧ t.page = some { g with at_ := .reading } ∧ t.regs = s.regs ∧
      t.slots = s.slots := by
  have hpage := (tagsKept_page p.val (· != x) s).trans hg
  have hport := (portOf_of_slots (tagsKept_slots p.val (· != x) s) g.slot).trans hp
  have hk := keeps_descRequest (List.Subset.refl _) p.val (pageAddr g.page) 2048 none
    (.refl _ { tagsKept p.val (· != x) s with page := some { g with at_ := .reading } })
  exact ⟨_, congrArg Host.Outcome.next ((writeDone_store hx _).trans (storeWritten_taken hpage hport hw)),
    hk.same (k := .page) (by decide), (hk.same (k := .regs) (by decide)).trans (tagsKept_regs _ _ _),
    (hk.same (k := .slots) (by decide)).trans (tagsKept_slots _ _ _)⟩

theorem exec_descWriteTimeout_idle {p : Port} (hw : (portAt s p.val).tags.any (·.write) = true) (hg : s.page = none) :
    exec (.descWriteTimeout p) s = .next (tagsKept p.val (!·.write) s) := by
  change execDescWriteTimeout p s = _
  rw [execDescWriteTimeout, if_pos hw, ← tagsKept]
  dsimp only
  rw [tagsKept_page, hg]

theorem exec_descWriteTimeout_writing {p : Port} (w : s.regs.wf = true) (hw : (portAt s p.val).tags.any (·.write) = true)
    (hg : s.page = some g) (hp : portOf s g.slot = p.val) (hat : g.at_ = .writing) :
    ∃ t, exec (.descWriteTimeout p) s = .next t ∧ t.page = none ∧
      rfld t Reg.caPageStat 31 16 = Status.PAGE_VERIFY.code ∧ rbit t Reg.caPageStat 0 = false ∧
      (portAt t p.val).tags = (portAt s p.val).tags.filter (!·.write) ∧ t.slots = s.slots := by
  have hport := (portOf_of_slots (tagsKept_slots p.val (!·.write) s) g.slot).trans hp
  obtain ⟨hpage, hcode, hbusy, hslots, hports⟩ := endStore_outcome (s := tagsKept p.val (!·.write) s)
    ((tagsKept_regs _ _ s).symm ▸ w)
    .PAGE_VERIFY
  refine ⟨endStore .PAGE_VERIFY (tagsKept p.val (!·.write) s), ?_, hpage, hcode, hbusy, ?_, hslots.trans (tagsKept_slots _ _ _)⟩
  · change execDescWriteTimeout p s = _
    rw [execDescWriteTimeout, if_pos hw, ← tagsKept]
    dsimp only
    rw [tagsKept_page, hg]
    exact congrArg Host.Outcome.next (if_pos ⟨hport, hat⟩)
  · rw [portAt, hports, ← portAt, portAt_tagsKept_same p.isLt]

end
end Sys2Proof.Machine
end

section
/-! PROOFS. Identify: the descriptor's first read, its last page, and the try to bind that follows (R313, R317, R318). -/

set_option Elab.async false

namespace Sys2Proof.Machine

/-! ## Bytes of words -/

/-- Digit j to the base 256 of the number that bytes form is byte j. -/
theorem leNat_digit {l : List Byte} {j : Nat} (hj : j < l.length) : leNat l / 256 ^ j % 256 = l[j].toNat := by
  induction l generalizing j with
  | nil => exact absurd hj (Nat.not_lt_zero j)
  | cons b bs ih =>
    have hb := b.isLt
    cases j with
    | zero => simp only [leNat, pow_zero, List.getElem_cons_zero]; omega
    | succ j =>
      have hs : leNat (b :: bs) / 256 ^ (j + 1) = leNat bs / 256 ^ j := by
        rw [pow_succ', ← Nat.div_div_eq_div_mul, leNat, Nat.add_mul_div_left _ _ (by omega), Nat.div_eq_of_lt hb, Nat.zero_add]
      rw [hs, ih (by simpa using hj), List.getElem_cons_succ]

/-- Byte j of the word that up to four bytes form. -/
theorem byte_leNat {l : List Byte} {j : Nat} (h4 : l.length ≤ 4) (hj : j < l.length) :
    (BitVec.ofNat 32 (leNat l) >>> (8 * j)).setWidth 8 = l[j] := by
  have hlt : leNat l < 2 ^ 32 := (leNat_lt l).trans_le ((Nat.pow_le_pow_right (by omega) h4).trans (by decide))
  refine BitVec.eq_of_toNat_eq ?_
  rw [BitVec.toNat_setWidth, BitVec.toNat_ushiftRight, BitVec.toNat_ofNat, Nat.mod_eq_of_lt hlt, Nat.shiftRight_eq_div_pow,
    Nat.pow_mul, ← leNat_digit hj]

section
variable {s t u v : State} {p : Nat} {d : List Byte} {x : DescTag}

/-- What the descriptor's copy holds at a place, where its words have been written from bytes. -/
theorem descAt_of_words {n : Nat} (hd : d.length = 4 * n)
    (h : ∀ i, i < n → reg s (Reg.epDesc p i) = BitVec.ofNat 32 (leAt d (4 * i) 4)) {o m : Nat} (hom : o + m ≤ d.length) :
    descAt s p o m = leAt d o m := by
  refine congrArg leNat (List.ext_getElem (by simp; omega) fun i hi _ => ?_)
  have hi : i < m := by simpa using hi
  have hr : 4 * ((o + i) / 4) + (o + i) % 4 = o + i := Nat.div_add_mod _ _
  rw [List.getElem_map, List.getElem_range, h _ (by omega), leAt,
    byte_leNat (by simp) (by simp; omega)]
  simp only [List.getElem_take, List.getElem_drop, hr]

/-! ## The descriptor's copy -/

theorem epDesc_inj (p i j : Nat) (h : Reg.epDesc p i = Reg.epDesc p j) : i = j := by
  simp only [Reg.epDesc] at h
  omega

/-- The first read fills the first 16 words. -/
theorem putDesc_words (w : s.regs.wf = true) (hd : d.length = 64) {i : Nat} (hi : i < 16) :
    reg (putDesc p 0 d s) (Reg.epDesc p i) = BitVec.ofNat 32 (leAt d (4 * i) 4) := by
  have h := reg_setRegs_range w (epDesc_inj p) (fun j => BitVec.ofNat 32 (leAt d (4 * j) 4)) hi
  simpa [putDesc, hd] using h

theorem putDesc_epStatus (w : s.regs.wf = true) (p addr : Nat) (d : List Byte) :
    reg (putDesc p addr d s) (Reg.epStatus p) = reg s (Reg.epStatus p) := by
  refine (setRegs_regs w _).2 _ fun e he => ?_
  obtain ⟨i, -, rfl⟩ := List.mem_map.1 he
  simp only [Reg.epStatus, Reg.epDesc]
  omega

theorem putDesc_slots (p addr : Nat) (d : List Byte) (s : State) : (putDesc p addr d s).slots = s.slots := setRegs_slots _ s
theorem portAt_putDesc (p addr : Nat) (d : List Byte) (s : State) (k : Nat) : portAt (putDesc p addr d s) k = portAt s k := by
  rw [portAt, putDesc, setRegs_ports, portAt]

/-! ## The reads of Identify (R313, R317) -/

theorem readData_identify {tag addr : Nat} (hx : ((portAt s p).tags.find? fun y => y.tag == tag && !y.write && y.addr == addr) = some x)
    (hl : linkState s p = lsIdentify) (hi : (portAt s p).identified = false) (d : List Byte) :
    readData p tag addr true d s = identifyData p addr x.len d (tagsKept p (· != x) s) := by
  rw [readData, hx]
  exact if_pos ⟨hl, by simp [hi]⟩

/-- Port p once its descriptor's header has been read. -/
def headerRead (p : Nat) (d : List Byte) (s : State) : State :=
  modPort p (fun q => { q with identNext := 64 }) (putDesc p 0 d s)

theorem identifyData_header (hd : d.length = 64) (s : State) :
    identifyData p 0 64 d s =
      if (identifyRead p (headerRead p d s)).2 then (identifyRead p (headerRead p d s)).1 else identifyDone p (headerRead p d s) := by
  have hb : (d ++ List.replicate 64 0).take 64 = d := by rw [← hd, List.take_left' rfl]
  simp only [identifyData, hb]
  rfl

theorem descLen_of_words (hd : d.length = 64) (h : ∀ i, i < 16 → reg s (Reg.epDesc p i) = BitVec.ofNat 32 (leAt d (4 * i) 4))
    (h0 : 64 < leAt d 6 2) (h1 : leAt d 6 2 ≤ 16384) : descLen s p = leAt d 6 2 := by
  rw [descLen, descAt_of_words (n := 16) hd h (by omega)]
  exact if_pos ⟨h0.le, h1⟩

theorem descLen_le (s : State) (p : Nat) : descLen s p ≤ 16384 := by
  unfold descLen
  dsimp only
  split <;> omega

/-- After the header the rest of the descriptor is read, at most 4096 bytes at a time. -/
theorem identifyRead_rest {n : Nat} (ha : (portAt s p).identNext = 64) (hn : descLen s p = n) (h : 64 < n) :
    identifyRead p s = (descRequest p 64 (min 4096 (n - 64)) none s, true) := by
  simp [identifyRead, ha, hn, h]

/-- After the second page nothing more is read. -/
theorem identifyRead_end (ha : (portAt s p).identNext = 0x5000) : identifyRead p s = (s, false) := by
  have h := descLen_le s p
  have hlt : ¬ 20480 < descLen s p := by omega
  have hne : ¬ 20480 = descLen s p := by omega
  simp [identifyRead, ha, hlt, hne]

theorem length_filter_ne_lt {α : Type} [DecidableEq α] {l : List α} {x : α} (h : x ∈ l) :
    (l.filter (· != x)).length < l.length :=
  List.length_filter_lt_length_iff_exists.2 ⟨x, h, by simp⟩

theorem exec_readData_header {tag : Byte} {p : Port} (w : s.regs.wf = true) (hl : linkState s p.val = lsIdentify)
    (hi : (portAt s p.val).identified = false) (h4 : (portAt s p.val).tags.length ≤ 4)
    (hx : ((portAt s p.val).tags.find? fun y => y.tag == tag.toNat && !y.write && y.addr == 0) = some x) (hxl : x.len = 64)
    (hd : d.length = 64) (h0 : 64 < leAt d 6 2) (h1 : leAt d 6 2 ≤ 16384) :
    ∃ t, exec (.readData p tag 0 0 d) s = .next t ∧
      (∀ i, i < 16 → reg t (Reg.epDesc p.val i) = BitVec.ofNat 32 (leAt d (4 * i) 4)) ∧ (portAt t p.val).identNext = 64 ∧
      (portAt t p.val).identified = false ∧ linkState t p.val = lsIdentify ∧ (portAt t p.val).tags =
        (portAt s p.val).tags.filter (· != x) ++
          [{ tag := (portAt s p.val).nextTag % 256, addr := 64, len := min 4096 (leAt d 6 2 - 64), write := false }] ∧
      t.slots = s.slots := by
  have w1 : (tagsKept p.val (· != x) s).regs.wf = true := (tagsKept_regs _ _ _).symm ▸ w
  have hport : portAt (headerRead p.val d (tagsKept p.val (· != x) s)) p.val =
      { portAt s p.val with tags := (portAt s p.val).tags.filter (· != x), identNext := 64 } := by
    rw [headerRead, portAt_modPort_same p.isLt, portAt_putDesc, portAt_tagsKept_same p.isLt]
  have hwords : ∀ i, i < 16 → reg (headerRead p.val d (tagsKept p.val (· != x) s)) (Reg.epDesc p.val i) =
      BitVec.ofNat 32 (leAt d (4 * i) 4) := fun i hi => (reg_modPort _ _ _ _).trans (putDesc_words w1 hd hi)
  have hstat : reg (headerRead p.val d (tagsKept p.val (· != x) s)) (Reg.epStatus p.val) = reg s (Reg.epStatus p.val) :=
    (reg_modPort _ _ _ _).trans ((putDesc_epStatus w1 _ _ _).trans (reg_modPort _ _ _ _))
  have hslots : (headerRead p.val d (tagsKept p.val (· != x) s)).slots = s.slots :=
    (modPort_slots _ _ _).trans ((putDesc_slots _ _ _ _).trans (tagsKept_slots _ _ _))
  have hread : readData p.val tag.toNat 0 true d s = identifyData p.val 0 64 d (tagsKept p.val (· != x) s) :=
    hxl ▸ readData_identify hx hl hi d
  rw [identifyData_header hd] at hread
  generalize headerRead p.val d (tagsKept p.val (· != x) s) = u at *
  rw [identifyRead_rest (congrArg PortState.identNext hport) (descLen_of_words hd hwords h0 h1) h0, if_pos rfl] at hread
  obtain ⟨ts, next, hsent, htags⟩ := portAt_descRequest p.isLt 64 (min 4096 (leAt d 6 2 - 64)) u
  have hk := keeps_descRequest (List.Subset.refl _) p.val 64 (min 4096 (leAt d 6 2 - 64)) none (.refl _ u)
  have hregs : (descRequest p.val 64 (min 4096 (leAt d 6 2 - 64)) none u).regs = u.regs := hk.same (k := .regs) (by decide)
  have hlen := length_filter_ne_lt (List.mem_of_find?_eq_some hx)
  rw [hport] at hsent htags
  refine ⟨_, congrArg Host.Outcome.next hread, fun i hi => ?_, (congrArg PortState.identNext hsent :),
    (congrArg PortState.identified hsent :).trans hi, (linkState_of_reg ?_).trans hl,
    (congrArg PortState.tags hsent :).trans (htags ?_), (hk.same (k := .slots) (by decide)).trans hslots⟩
  · rw [reg, hregs, ← reg, hwords i hi]
  · rw [reg, hregs, ← reg, hstat]
  · exact hlen.trans_le h4

/-! ## What a try to bind leaves (R318) -/

/-- A port without what the downlink and a rejection change in it. -/
def PortState.untried (q : PortState) : PortState := { q.unsent with rejected := false }

/-- A try to bind does nothing, sends BIND, or rejects the binding. -/
theorem tryBind_cases (p : Nat) (s : State) :
    tryBind p s = s ∨
    (∃ pkt, tryBind p s = sendPkt p pkt (setFld (Reg.epBindId p) 15 0 (nextBindId s p) (bindShown p Status.OK.code s))) ∨
    ∃ st : Status, tryBind p s = logEvent .BIND_REJECT clsEngine p st.code (bindRejected p st.code s) := by
  unfold tryBind
  dsimp only
  split
  · exact .inl rfl
  · split
    · exact .inl rfl
    · next c _ =>
      split
      · exact .inl rfl
      · split
        · next h => exact .inr (.inl ⟨_, by rw [h]; rfl⟩)
        · exact .inr (.inr ⟨_, rfl⟩)

/-- A try to bind writes of a port's words STATUS, BIND_ID and FLAGS alone. -/
theorem tryBind_regs (w : s.regs.wf = true) (hp : p < 8) :
    (tryBind p s).regs.wf = true ∧ ∀ o, o < 0x10000 → o ≠ 4 → o ≠ 0x20 → o ≠ 0x38 →
      reg (tryBind p s) (Reg.ep p + o) = reg s (Reg.ep p + o) := by
  rcases tryBind_cases p s with h | ⟨pkt, h⟩ | ⟨st, h⟩ <;> rw [h]
  · exact ⟨w, fun _ _ _ _ _ => rfl⟩
  · obtain ⟨w1, -, -, -, h1⟩ := bindShown_regs w hp (Status.code_lt .OK)
    refine ⟨(sendPkt_regs p pkt _).symm ▸ setFld_wf w1 _ _ _ _, fun o ho h4 h20 _ => ?_⟩
    rw [reg_sendPkt, reg_setFld_ne w1 _ _ _ (by rw [Reg.epBindId]; omega), h1 o ho h4]
  · obtain ⟨w1, -, -, -, h1⟩ := bindShown_regs w hp (Status.code_lt st)
    obtain ⟨w2, -⟩ := bindRejected_regs w hp (Status.code_lt st)
    obtain ⟨w3, h3⟩ := logEvent_regs w2 .BIND_REJECT clsEngine p st.code
    refine ⟨w3, fun o ho h4 _ h38 => (h3 _ (not_logArea_ep hp ho)).trans ?_⟩
    unfold bindRejected epFlag
    generalize hu : modPort p (fun q => { q with rejected := true }) (bindShown p st.code s) = u
    have hr : u.regs = (bindShown p st.code s).regs := hu ▸ modPort_regs p _ _
    obtain ⟨w4, hlink⟩ := setLink_regs (p := p) (hr ▸ w1 : u.regs.wf = true) lsIdentify
    rw [setBit, reg_setFld_ne w4 _ _ _ (by rw [Reg.epFlags]; omega), hlink _ (by rw [Reg.epStatus]; omega) (ep_ne_epVec o p), reg, hr,
      ← reg, h1 o ho h4]

theorem untried_tryBind (hp : p < 8) (s : State) : (portAt (tryBind p s) p).untried = (portAt s p).untried := by
  rcases tryBind_cases p s with h | ⟨pkt, h⟩ | ⟨st, h⟩ <;> rw [h]
  · rw [PortState.untried, unsent_sendPkt, portAt_setFld, portAt_bindShown, PortState.untried]
  · rw [portAt_logEvent, portAt_bindRejected hp]
    rfl

theorem tryBind_slots (p : Nat) (s : State) : (tryBind p s).slots = s.slots :=
  (keeps_tryBind (List.Subset.refl _) p (.refl _ s)).same (k := .slots) (by decide)

theorem tryBind_of_free (h : slotOnPort s p = none) : tryBind p s = s := by
  rw [tryBind, h]

/-- The result of a try to bind depends on the descriptor and the BIND_ID before it, and on three words and the port after it. -/
theorem BindTried.congr {c : SlotCast} (h : BindTried u v p c) (hd : ∀ i, reg u (Reg.epDesc p i) = reg s (Reg.epDesc p i))
    (hid : reg u (Reg.epBindId p) = reg s (Reg.epBindId p))
    (hw : ∀ a ∈ [Reg.epStatus p, Reg.epBindId p, Reg.epFlags p], reg t a = reg v a) (hport : portAt t p = portAt v p) :
    BindTried s t p c := by
  simp only [List.forall_mem_cons, List.not_mem_nil, false_imp_iff, implies_true, and_true] at hw
  obtain ⟨hstat, hbind, hflag⟩ := hw
  have hcur : rfld u (Reg.epBindId p) 15 0 = rfld s (Reg.epBindId p) 15 0 := congrArg (fld · 15 0) hid
  have hnew : rfld t (Reg.epBindId p) 15 0 = rfld v (Reg.epBindId p) 15 0 := congrArg (fld · 15 0) hbind
  have hcode : rfld t (Reg.epStatus p) 31 16 = rfld v (Reg.epStatus p) 31 16 := congrArg (fld · 31 16) hstat
  have hrej : rbit t (Reg.epFlags p) 1 = rbit v (Reg.epFlags p) 1 := congrArg (bit · 1) hflag
  rwa [BindTried, bindStatus_congr hd, hcur, ← linkState_of_reg hstat, ← hnew, ← hcode, ← hrej, ← hport, ← BindTried] at h

/-! ## The last page completes Identify -/

theorem setRegs_nil (s : State) : setRegs [] s = s := rfl
theorem setRegs_cons (e : Nat × Word) (l : List (Nat × Word)) (s : State) : setRegs (e :: l) s = setRegs l (setReg e.1 e.2 s) := rfl

/-- Port p with its engine identified and shown. -/
def engineShown (p crc : Nat) (s : State) : State :=
  modPort p (fun q => { q with identified := true })
    (setRegs [(Reg.epSerialLo p, BitVec.ofNat 32 (descAt s p 8 4)), (Reg.epSerialHi p, BitVec.ofNat 32 (descAt s p 12 4)),
      (Reg.epDescCrc p, BitVec.ofNat 32 crc)] s)

theorem identifyDone_eq (p : Nat) (s : State) : ∃ crc, identifyDone p s = showPages (tryBind p (engineShown p crc s)) := by
  unfold identifyDone engineShown
  exact ⟨_, rfl⟩

theorem engineShown_regs (w : s.regs.wf = true) (p crc : Nat) :
    (engineShown p crc s).regs.wf = true ∧
    reg (engineShown p crc s) (Reg.epSerialLo p) = BitVec.ofNat 32 (descAt s p 8 4) ∧
    reg (engineShown p crc s) (Reg.epSerialHi p) = BitVec.ofNat 32 (descAt s p 12 4) ∧
    ∀ a, a ≠ Reg.epSerialLo p → a ≠ Reg.epSerialHi p → a ≠ Reg.epDescCrc p → reg (engineShown p crc s) a = reg s a := by
  have w1 := setReg_wf w (Reg.epSerialLo p) (BitVec.ofNat 32 (descAt s p 8 4))
  have w2 := setReg_wf w1 (Reg.epSerialHi p) (BitVec.ofNat 32 (descAt s p 12 4))
  simp only [engineShown, reg_modPort, modPort_regs, setRegs_cons, setRegs_nil]
  refine ⟨setReg_wf w2 _ _, ?_, ?_, fun a h0 h1 h2 =>
    (reg_setReg_ne w2 _ h2).trans ((reg_setReg_ne w1 _ h1).trans (reg_setReg_ne w _ h0))⟩
  · refine (reg_setReg_ne w2 _ ?_).trans ((reg_setReg_ne w1 _ ?_).trans (reg_setReg_same w _ _))
    · simp [Reg.epSerialLo, Reg.epDescCrc]
    · simp [Reg.epSerialLo, Reg.epSerialHi]
  · refine (reg_setReg_ne w2 _ ?_).trans (reg_setReg_same w1 _ _)
    simp [Reg.epSerialHi, Reg.epDescCrc]

theorem engineShown_slots (p crc : Nat) (s : State) : (engineShown p crc s).slots = s.slots :=
  (modPort_slots _ _ _).trans (setRegs_slots _ s)

theorem portAt_engineShown (hp : p < 8) (crc : Nat) (s : State) :
    portAt (engineShown p crc s) p = { portAt s p with identified := true } := by
  rw [engineShown, portAt_modPort_same hp, portAt, setRegs_ports, ← portAt]

theorem ep_ne_pages {o : Nat} (hp : p < 8) (ho : o < 0x10000) : Reg.ep p + o ≠ Reg.caPageStat ∧ Reg.ep p + o ≠ Reg.caPageSeq := by
  simp only [Reg.ep, Reg.caPageStat, Reg.caPageSeq]
  omega

/-- The end of Identify: the engine is shown, and the try to bind is that of the state before it. -/
theorem identifyDone_outcome (w : s.regs.wf = true) (hp : p < 8) (hl : linkState s p = lsIdentify) :
    (portAt (identifyDone p s) p).untried = ({ portAt s p with identified := true } : PortState).untried ∧
    reg (identifyDone p s) (Reg.epSerialLo p) = BitVec.ofNat 32 (descAt s p 8 4) ∧
    reg (identifyDone p s) (Reg.epSerialHi p) = BitVec.ofNat 32 (descAt s p 12 4) ∧
    (slotOnPort s p = none → linkState (identifyDone p s) p = lsIdentify) ∧
    (∀ n c, slotOnPort s p = some n → cfgOf s n = some c → (portAt s p).rejected = false →
      BindTried s (identifyDone p s) p c) ∧
    (identifyDone p s).slots = s.slots := by
  obtain ⟨crc, he⟩ := identifyDone_eq p s
  obtain ⟨w1, hlo, hhi, hother⟩ := engineShown_regs w p crc
  have hport := portAt_engineShown hp crc s
  have hslots := engineShown_slots p crc s
  have hep : ∀ o, o < 0xC ∨ 0x14 < o → reg (engineShown p crc s) (Reg.ep p + o) = reg s (Reg.ep p + o) := fun o ho =>
    hother _ (by rw [Reg.epSerialLo]; omega) (by rw [Reg.epSerialHi]; omega) (by rw [Reg.epDescCrc]; omega)
  have hstate := (linkState_of_reg (hep 4 (by omega))).trans hl
  rw [he]
  generalize engineShown p crc s = u at *
  obtain ⟨wt, htry⟩ := tryBind_regs w1 hp
  have hpages : ∀ o, o < 0x10000 → reg (showPages (tryBind p u)) (Reg.ep p + o) = reg (tryBind p u) (Reg.ep p + o) := fun o ho =>
    (showPages_regs wt).2.2.2 _ (ep_ne_pages hp ho).1 (ep_ne_pages hp ho).2
  have hports (k : Nat) : portAt (showPages (tryBind p u)) k = portAt (tryBind p u) k := rfl
  refine ⟨?_, ?_, ?_, fun hn => ?_, fun n c hn hc hr => ?_, ?_⟩
  · rw [hports, untried_tryBind hp, hport]
  · exact (hpages 0xC (by omega)).trans ((htry 0xC (by omega) (by omega) (by omega) (by omega)).trans hlo)
  · exact (hpages 0x10 (by omega)).trans ((htry 0x10 (by omega) (by omega) (by omega) (by omega)).trans hhi)
  · have hfree := tryBind_of_free ((slotOnPort_of_slots hslots p).trans hn)
    exact (linkState_of_reg (hpages 4 (by omega))).trans ((congrArg (linkState · p) hfree).trans hstate)
  · have htried := (tryBind_outcome w1 hp ((slotOnPort_of_slots hslots p).trans hn) ((cfgOf_of_slots hslots n).trans hc) hstate
      (congrArg PortState.identified hport) ((congrArg PortState.rejected hport).trans hr)).1
    refine htried.congr (fun i => ?_) (hep 0x20 (by omega)) ?_ (hports p)
    · rw [Reg.epDesc, Nat.add_assoc]
      exact hep _ (by omega)
    · simp only [List.forall_mem_cons, List.not_mem_nil, false_imp_iff, implies_true, and_true]
      exact ⟨hpages 4 (by omega), hpages 0x20 (by omega), hpages 0x38 (by omega)⟩
  · exact (tryBind_slots p u).trans hslots

/-- Port p once its second page has been read. -/
def lastPageRead (p : Nat) (d : List Byte) (s : State) : State :=
  modPort p (fun q => { q with pageB := d, identNext := 0x5000 }) s

theorem identifyData_lastPage (hp : p < 8) (hd : d.length = 2048) (s : State) :
    identifyData p 0x4800 2048 d s = identifyDone p (lastPageRead p d s) := by
  have hb : (d ++ List.replicate 2048 0).take 2048 = d := by rw [← hd, List.take_left' rfl]
  have hend : identifyRead p (lastPageRead p d s) = (lastPageRead p d s, false) :=
    identifyRead_end (congrArg PortState.identNext (portAt_modPort_same hp _ s))
  rw [identifyData, hb]
  change (if (identifyRead p (lastPageRead p d s)).2 then _ else _) = _
  rw [hend]
  rfl

theorem exec_readData_lastPage {tag : Byte} {p : Port} (w : s.regs.wf = true) (hl : linkState s p.val = lsIdentify)
    (hi : (portAt s p.val).identified = false)
    (hx : ((portAt s p.val).tags.find? fun y => y.tag == tag.toNat && !y.write && y.addr == 0x4800) = some x) (hxl : x.len = 2048)
    (hd : d.length = 2048) :
    ∃ t, exec (.readData p tag 0x4800 0 d) s = .next t ∧ (portAt t p.val).pageB = d ∧ (portAt t p.val).identified = true ∧
      (portAt t p.val).tags = (portAt s p.val).tags.filter (· != x) ∧
      reg t (Reg.epSerialLo p.val) = BitVec.ofNat 32 (descAt s p.val 8 4) ∧
      reg t (Reg.epSerialHi p.val) = BitVec.ofNat 32 (descAt s p.val 12 4) ∧
      (slotOnPort s p.val = none → linkState t p.val = lsIdentify) ∧
      (∀ n c, slotOnPort s p.val = some n → cfgOf s n = some c → (portAt s p.val).rejected = false → BindTried s t p.val c) ∧
      t.slots = s.slots := by
  have hregs : (lastPageRead p.val d (tagsKept p.val (· != x) s)).regs = s.regs := (modPort_regs _ _ _).trans (tagsKept_regs _ _ _)
  have hslots : (lastPageRead p.val d (tagsKept p.val (· != x) s)).slots = s.slots :=
    (modPort_slots _ _ _).trans (tagsKept_slots _ _ _)
  have hport : portAt (lastPageRead p.val d (tagsKept p.val (· != x) s)) p.val =
      { portAt s p.val with tags := (portAt s p.val).tags.filter (· != x), pageB := d, identNext := 0x5000 } := by
    rw [lastPageRead, portAt_modPort_same p.isLt, portAt_tagsKept_same p.isLt]
  have hread : readData p.val tag.toNat 0x4800 true d s = identifyDone p.val (lastPageRead p.val d (tagsKept p.val (· != x) s)) := by
    rw [readData_identify hx hl hi, hxl, identifyData_lastPage p.isLt hd]
  generalize lastPageRead p.val d (tagsKept p.val (· != x) s) = u at *
  have hreg (a : Nat) : reg u a = reg s a := by rw [reg, hregs, reg]
  obtain ⟨hq, hlo, hhi, hfree, htried, hsl⟩ := identifyDone_outcome (hregs.symm ▸ w) p.isLt ((linkState_of_reg (hreg _)).trans hl)
  have hdesc (o m : Nat) : descAt u p.val o m = descAt s p.val o m := by simp only [descAt, hreg]
  rw [hport] at hq
  rw [hdesc] at hlo hhi
  rw [slotOnPort_of_slots hslots] at hfree
  refine ⟨_, congrArg Host.Outcome.next hread, (congrArg PortState.pageB hq :), (congrArg PortState.identified hq :),
    (congrArg PortState.tags hq :), hlo, hhi, hfree, fun n c hn hc hr => ?_, hsl.trans hslots⟩
  exact (htried n c ((slotOnPort_of_slots hslots _).trans hn) ((cfgOf_of_slots hslots n).trans hc)
    ((congrArg PortState.rejected hport :).trans hr)).congr (fun i => hreg _) (hreg _) (fun _ _ => rfl) rfl

end
end Sys2Proof.Machine
end

section
/-! PROOFS. BIND_ACK: the link runs, and what the binding leaves of the link's words and of its port (R318, R319). -/

set_option Elab.async false

namespace Sys2Proof.Machine

/-! ## What the lamps leave of a port -/

/-- A port without what the downlink, the ceilings and LEN_n change in it. -/
def PortState.unlit (q : PortState) : PortState := { q.unsent with ceils := [], lenWait := false }

/-- From s to t a port changes in what PortState.unlit leaves out alone. -/
def LampKept (s t : State) : Prop := ∀ k, (portAt t k).unlit = (portAt s k).unlit

section
variable {s t u : State}

theorem LampKept.refl (s : State) : LampKept s s := fun _ => rfl

theorem LampKept.ofPorts (h : LampKept s t) (he : u.ports = t.ports) : LampKept s u :=
  fun k => by rw [portAt, he]; exact h k

theorem LampKept.keep {F : List Kind} (h : LampKept s t) (k : Keeps F t t → Keeps F t u) (hp : Kind.ports ∉ F := by decide) :
    LampKept s u := h.ofPorts ((k (.refl _ t)).same hp)

theorem LampKept.modPort (h : LampKept s t) (p : Nat) (f : PortState → PortState)
    (hf : ∀ q, (f q).unlit = q.unlit := by exact fun _ => rfl) : LampKept s (modPort p f t) := by
  intro k
  rw [← h k]
  by_cases hk : k = p
  · subst hk
    by_cases h8 : k < 8
    · rw [portAt_modPort_same h8, hf]
    · rw [Machine.modPort, dif_neg h8]
  · rw [portAt_modPort_ne hk]

theorem LampKept.sendPkt (h : LampKept s t) (p : Nat) (x : LinkPkt) : LampKept s (sendPkt p x t) :=
  fun k => by rw [PortState.unlit, unsent_sendPkt, ← PortState.unlit, h k]

theorem LampKept.issueOff (h : LampKept s t) (p : Nat) (ts : BitVec 40) : LampKept s (issueOff p ts t) := by
  unfold Machine.issueOff
  dsimp only
  split
  · exact (h.sendPkt p _).keep (keeps_markDark (List.Subset.refl _) _)
  · exact h.sendPkt p _

theorem LampKept.quietSlot (h : LampKept s t) (n : Nat) : LampKept s (quietSlot n t) := by
  unfold Machine.quietSlot
  split
  · exact h
  · split
    · exact h.issueOff _ _
    · exact h.keep (keeps_markDark (List.Subset.refl _) n)

theorem LampKept.restReck (h : LampKept s t) (acq : Bool) (n : Nat) : LampKept s (restReck acq n t) := by
  unfold Machine.restReck
  extract_lets s1 rest s2
  have h1 : LampKept s s1 := h.quietSlot n
  have h2 : LampKept s s2 := ((h1.keep (keeps_stopRaster (List.Subset.refl _) n)).keep
    (keeps_storeAllHeld (List.Subset.refl _) n)).ofPorts (modSlot_ports n _ _)
  exact ((h2.keep (keeps_flushLines (List.Subset.refl _) n)).keep (keeps_restartLines (List.Subset.refl _) n)).keep
    (keeps_applyAtOnce (List.Subset.refl _) n)

theorem LampKept.noteCeils (h : LampKept s t) (p : Nat) (l : List (Nat × BitVec 16)) : LampKept s (noteCeils p l t) := h.modPort p _

theorem LampKept.issueLevels (h : LampKept s t) (n : Nat) (codes : List Nat) (ts : BitVec 40) :
    LampKept s (issueLevels n codes ts t) := by
  unfold Machine.issueLevels
  split
  · exact h
  · next c _ =>
    extract_lets r
    have hr : LampKept s r.2 := List.foldlRecOn (motive := fun a : List ChanCmd × State => LampKept s a.2) _ _ h
      fun a ha x _ => (ha.keep (keeps_issueCur (List.Subset.refl _) n c x.1 _)).ofPorts (setReg_ports _ _ _)
    exact (hr.sendPkt _ _).noteCeils _ _

theorem LampKept.lenTry (h : LampKept s t) (p : Nat) : LampKept s (lenTry p t) := by
  unfold Machine.lenTry
  split
  · extract_lets s1
    have h1 : LampKept s s1 := (h.ofPorts (setBit_ports _ _ _ _)).modPort p _
    split
    · exact ((h1.keep (keeps_refreshCeil (List.Subset.refl _) _)).keep (keeps_installMaps (List.Subset.refl _) _)).issueLevels _ _ _
    · exact h1
  · exact h

/-! ## What a binding leaves of the links -/

theorem LinkKept.lenTry (h : LinkKept true s t) (p : Nat) : LinkKept true s (lenTry p t) := by
  obtain ⟨w, hc, -, hr⟩ := (LightKept.refl t).lenTry p h.wf
  refine h.trans ⟨w, h.range.of_cfg hc, hc, fun a ha => hr h.range.chans a (not_lightArea_of_linkWord ha), fun k => ?_⟩
  have hq := (LampKept.refl t).lenTry p k
  exact (congrArg PortState.link hq :)

theorem LinkKept.bindChans {stat : Bool} {c : SlotCast} (h : LinkKept stat s t) (p : Nat) (hc : ∀ e ∈ c.chmp, e.lc < 96) :
    LinkKept stat s (bindChans p c t) := by
  refine List.foldlRecOn (motive := fun u => LinkKept stat s u) _ _ h fun u hu e he => ?_
  have he := hc e he
  exact (hu.setBit (not_linkWord (by simp only [Reg.lcCfg, Reg.lc]; omega)) 31 true).setReg
    (not_linkWord (by simp only [Reg.lcDrive, Reg.lc]; omega)) _

section
variable {n : Nat} {c : SlotCast}

theorem CalKept.takeCeilInputs (h : CalKept s t) (n : Nat) : CalKept s (takeCeilInputs n t) := by
  unfold Machine.takeCeilInputs
  split
  · exact h
  · exact h.modSlot n _

theorem CalKept.markCalibrated (h : CalKept s t) (hn : n < 8) (c : SlotCast) : CalKept s (markCalibrated n c t) := by
  unfold Machine.markCalibrated
  extract_lets shared s1
  have h1 : CalKept s s1 := h.forChans c fun _ e _ u hu => hu.modChan e.lc _
  split
  · exact h1.setBit (calArea_ca (o := 0x0C) hn (by omega)) _ _
  · exact h1

theorem CalKept.ceilingMaps (h : CalKept s t) (hn : n < 8) (c : SlotCast) : CalKept s (ceilingMaps n c t) :=
  h.forChans c fun i e _ u hu => by
    split
    · exact hu.formMaps hn c i e rebase
    · exact hu

theorem LinkKept.modCal {stat : Bool} (h : LinkKept stat s t) (n : Nat) (f : SlotCal → SlotCal) :
    LinkKept stat s (modCal n f t) := h.modSlot n _

theorem LinkKept.calOff {stat : Bool} (h : LinkKept stat s t) (hn : n < 8) : LinkKept stat s (calOff n t) :=
  (h.setFld (b := Reg.slWerr n) (not_linkWord (by simp only [Reg.slWerr, Reg.sl]; omega)) 15 0 0).modCal n _

theorem LinkKept.calBind {stat : Bool} (h : LinkKept stat s t) (n p : Nat) : LinkKept stat s (calBind n p t) := by
  unfold Machine.calBind
  split
  · exact h
  · next c hc =>
    have hn := lt_of_cfg hc
    have hch : ∀ e ∈ c.chmp, e.lc < 96 := fun e he => h.range.chans n c e hc he
    extract_lets back s1 s2 img s3 s' s4
    have k2 : CalKept t s2 := (((CalKept.refl h.wf h.range).takeCeilInputs n).markCalibrated hn c).modCal n _
    have k3 : CalKept t s3 := k2.forChans c fun _ e _ u hu => by
      split
      · exact hu
      · exact hu.modChan e.lc _
    have k4 : CalKept t s4 := by
      unfold s4
      split
      · split
        · exact k3.ceilingMaps hn c
        · exact (k3.ceilingMaps hn c).startEsts n
      · exact k3.applyImage hn hch img true
    have h5 : LinkKept stat s (if pdOff s4 19 then Machine.calOff n s4 else s4) := by
      split
      · exact (h.ofCal k4).calOff hn
      · exact h.ofCal k4
    exact (h5.ofCal (((CalKept.refl h5.wf h5.range).showMtx hn).setMaps n)).showPages

theorem LinkKept.startTracker {stat : Bool} (h : LinkKept stat s t) {l : Nat} (hl : l < 128) :
    LinkKept stat s (startTracker l t) := by
  unfold Machine.startTracker
  split
  · exact h
  · exact ((h.modLoop l _).loseLock hl).setBit (not_linkWord_leStatus hl) 3 false

theorem LinkKept.loopsBind {stat : Bool} (h : LinkKept stat s t) (p : Nat) : LinkKept stat s (loopsBind p t) := by
  refine h.forAll _ fun l hl u hu => ?_
  have hl := List.mem_range.1 hl
  split
  · extract_lets s1
    have h1 : LinkKept stat s s1 := by
      unfold s1
      split
      · exact hu.startTracker hl
      · exact hu
    split
    · exact h1.modLoop l _
    · exact h1
  · exact hu

end

/-! ## The slot begins in Acquire (R331) -/

section
variable {n l : Nat}

theorem pickoffLost_of_unlocked (h : (reckOf s n).st ≠ .locked) : pickoffLost n s = s := by
  unfold pickoffLost
  split
  · rfl
  · exact if_neg fun hl => h hl.2

/-- A loop that loses lock leaves a slot that is not in LOCKED. -/
theorem reckOf_loseLock (h : (reckOf s n).st ≠ .locked) (l : Nat) : reckOf (loseLock l s) n = reckOf s n := by
  have hclear : reckOf (lockCleared l s) n = reckOf s n := by
    rw [reckOf, lockCleared, slotAt_setBit, slotAt_setBit, slotAt_modLoop, reckOf]
  cases hb : rbit s (Reg.leStatus l) 4 with
  | false => rw [loseLock_unlocked hb, reckOf, slotAt_modLoop, reckOf]
  | true =>
    rcases loseLock_locked hb with e | ⟨k, -, e⟩
    · rw [e, hclear]
    · by_cases hk : n = k
      · subst hk
        rw [e, pickoffLost_of_unlocked (hclear ▸ h), hclear]
      · rw [e, reckOf, slotAt_pickoffLost_ne hk, ← reckOf, hclear]

theorem reckOf_startTracker (h : (reckOf s n).st ≠ .locked) (l : Nat) : reckOf (startTracker l s) n = reckOf s n := by
  unfold startTracker
  split
  · rfl
  · extract_lets q on
    have hm (f : LoopState → LoopState) : reckOf (modLoop l f s) n = reckOf s n := by rw [reckOf, slotAt_modLoop, reckOf]
    rw [reckOf, slotAt_setBit, ← reckOf, reckOf_loseLock (by rwa [hm]), hm]

theorem reckOf_loopsBind (h : (reckOf s n).st ≠ .locked) (p : Nat) : reckOf (loopsBind p s) n = reckOf s n := by
  refine List.foldlRecOn (motive := fun u => reckOf u n = reckOf s n) _ _ rfl fun u hu l _ => ?_
  beta_reduce
  split
  · extract_lets s1
    have h1 : reckOf s1 n = reckOf s n := by
      unfold s1
      split
      · rw [reckOf_startTracker (hu ▸ h), hu]
      · exact hu
    split
    · rw [reckOf, slotAt_modLoop, ← reckOf, h1]
    · exact h1
  · exact hu

theorem ReckKept.lenTry (h : ReckKept s t) (p : Nat) : ReckKept s (lenTry p t) := by
  unfold Machine.lenTry
  split
  · extract_lets s1
    have h1 : ReckKept s s1 := (h.setBit _ _ _).ofSlots (modPort_slots _ _ _)
    split
    · exact ((h1.refreshCeil _).keep (keeps_installMaps (by decide) _)).keep (keeps_issueLevels (by decide) _ _ _)
    · exact h1
  · exact h

end

/-! ## BIND_ACK (R318, R319) -/

section
variable {p n : Nat} {c : SlotCast}

theorem bindAck_of_other {id : BitVec 16} (h : linkState s p ≠ lsBind ∨ id.toNat ≠ rfld s (Reg.epBindId p) 15 0) :
    bindAck p id s = s := if_pos h

theorem bindAck_of_right {id : BitVec 16} (hl : linkState s p = lsBind) (hid : id.toNat = rfld s (Reg.epBindId p) 15 0)
    (hs : slotOnPort s p = some n) (hc : cfgOf s n = some c) : bindAck p id s = bindSlot n p c s := by
  rw [bindAck, if_neg (by simp [hl, hid]), hs]
  dsimp only
  rw [hc]

/-- Port q bound to slot n. -/
def PortState.boundTo (n id : Nat) (q : PortState) : PortState :=
  { q with slot := some n, lastTEnd := 0, overs := 0, ceils := [], drvBase := [], drvEvs := []
           reboundSinceFault := true, bind := BitVec.ofNat 16 id }

/-- The port is bound and its link runs, before its slot starts. -/
def linkBound (n p : Nat) (s : State) : State :=
  setFld (Reg.epStatus p) 31 16 Status.OK.code (setBit (Reg.epStatus p) 4 true
    (setLink p lsRun (modPort p (PortState.boundTo n (rfld s (Reg.epBindId p) 15 0)) s)))

/-- The slot on port p with its light path, its maps and its supply, before its reckoner starts. -/
def slotBound (n p : Nat) (c : SlotCast) (s : State) : State :=
  setParked n false (setTarget n 0 (modSlot n (fun q => { q with supply := { q.supply with frozen := false } })
    (calBind n p (computeTraj n (revalidate n (showLoad n (bindChans p c s)))))))

theorem bindSlot_eq (n p : Nat) (c : SlotCast) (s : State) :
    bindSlot n p c s = lenTry p (loopsBind p (restReck true n (slotBound n p c (linkBound n p s)))) := rfl

theorem linkBound_outcome (w : s.regs.wf = true) (hp : p < 8) (n : Nat) :
    (linkBound n p s).regs.wf = true ∧ linkState (linkBound n p s) p = lsRun ∧
    rfld (linkBound n p s) (Reg.epStatus p) 31 16 = Status.OK.code ∧ rbit (linkBound n p s) (Reg.epStatus p) 4 = true ∧
    portAt (linkBound n p s) p = (portAt s p).boundTo n (rfld s (Reg.epBindId p) 15 0) ∧ (linkBound n p s).slots = s.slots := by
  unfold linkBound
  have hm : (modPort p (PortState.boundTo n (rfld s (Reg.epBindId p) 15 0)) s).regs.wf = true := (modPort_regs _ _ _).symm ▸ w
  have hport := portAt_modPort_same hp (PortState.boundTo n (rfld s (Reg.epBindId p) 15 0)) s
  have hslots := modPort_slots p (PortState.boundTo n (rfld s (Reg.epBindId p) 15 0)) s
  generalize modPort p (PortState.boundTo n (rfld s (Reg.epBindId p) 15 0)) s = u at *
  obtain ⟨w1, -⟩ := setLink_regs (p := p) hm lsRun
  have w2 := setBit_wf w1 (Reg.epStatus p) 4 true
  refine ⟨setFld_wf w2 _ _ _ _, ?_, ?_, ?_, ?_, ?_⟩
  · rw [linkState, rfld_setFld_out w2 _ _ (by omega) (by omega) (.inl (by omega)) (by omega), setBit,
      rfld_setFld_out w1 _ _ (by omega) (by omega) (.inl (by omega)) (by omega), ← linkState, linkState_setLink hm hp (by decide)]
  · rw [rfld_setFld_same w2 _ _ (by omega) (by omega)]
    exact Nat.mod_eq_of_lt (Status.code_lt .OK)
  · rw [rbit_setFld_out w2 _ _ (by omega) (by omega) (.inl (by omega)), rbit_setBit_same w1 _ _ (by omega)]
  · rw [portAt_setFld, portAt_setBit, portAt_setLink, hport]
  · rw [setFld_slots, setBit_slots, setLink_slots, hslots]

theorem LinkKept.slotBound {stat : Bool} (h : LinkKept stat s t) (n p : Nat) (hc : ∀ e ∈ c.chmp, e.lc < 96) :
    LinkKept stat s (slotBound n p c t) :=
  (((((((h.bindChans p hc).showLoad n).revalidate n).computeTraj n).calBind n p).modSlot n _).setTarget n 0).setParked n false

theorem LampKept.slotBound (h : LampKept s t) (n p : Nat) (c : SlotCast) : LampKept s (slotBound n p c t) := by
  have h1 : LampKept s (Machine.calBind n p (Machine.computeTraj n (Machine.revalidate n (Machine.showLoad n
      (Machine.bindChans p c t))))) :=
    ((((h.keep (keeps_bindChans (List.Subset.refl _) p c)).keep (keeps_showLoad (List.Subset.refl _) n)).keep
      (keeps_revalidate (List.Subset.refl _) n)).keep (keeps_computeTraj (List.Subset.refl _) n)).keep
      (keeps_calBind (List.Subset.refl _) n p)
  exact ((h1.ofPorts (modSlot_ports n _ _)).keep (keeps_setTarget (List.Subset.refl _) n 0)).keep
    (keeps_setParked (List.Subset.refl _) n false)

/-- The slot of a binding starts, and the link's words and its binding stand. -/
theorem bindSlot_outcome (w : s.regs.wf = true) (r : RunningInRange s) (hp : p < 8) (hc : cfgOf s n = some c) :
    (bindSlot n p c s).regs.wf = true ∧ reg (bindSlot n p c s) (Reg.epStatus p) = reg (linkBound n p s) (Reg.epStatus p) ∧
    (portAt (bindSlot n p c s) p).unlit = (portAt (linkBound n p s) p).unlit ∧ (reckOf (bindSlot n p c s) n).st = .acquire := by
  obtain ⟨w1, -, -, -, -, hslots⟩ := linkBound_outcome w hp n
  have r1 : RunningInRange (linkBound n p s) := r.of_slots hslots
  have hch : ∀ e ∈ c.chmp, e.lc < 96 := fun e he => r.chans n c e hc he
  rw [bindSlot_eq]
  generalize linkBound n p s = u at *
  have k : LinkKept true u (lenTry p (loopsBind p (restReck true n (slotBound n p c u)))) :=
    ((((LinkKept.refl w1 r1).slotBound n p hch).restReck true n).loopsBind p).lenTry p
  have q : LampKept u (lenTry p (loopsBind p (restReck true n (slotBound n p c u)))) :=
    ((((LampKept.refl u).slotBound n p c).restReck true n).keep (keeps_loopsBind (List.Subset.refl _) p)).lenTry p
  have hst : (reckOf (restReck true n (slotBound n p c u)) n).st = .acquire := (reckOf_restReck (lt_of_cfg hc) true _).1
  refine ⟨k.wf, k.word _ (linkWord_epStatus hp), q p, ?_⟩
  rw [(ReckKept.refl _).lenTry p n, reckOf_loopsBind (by rw [hst]; decide), hst]

theorem exec_bindAck_other {p : Port} {id : BitVec 16}
    (h : linkState s p.val ≠ lsBind ∨ id.toNat ≠ rfld s (Reg.epBindId p.val) 15 0) :
    exec (.bindAck p id) s = .next s :=
  congrArg Host.Outcome.next (withDim_of_id (f := bindAck p.val id) (bindAck_of_other h))

/-- The acknowledgement of the BIND that is out starts the slot, and the port runs. -/
theorem exec_bindAck_right {p : Port} {id : BitVec 16} (w : s.regs.wf = true) (r : RunningInRange s) (hl : linkState s p.val = lsBind)
    (hid : id.toNat = rfld s (Reg.epBindId p.val) 15 0) (hs : slotOnPort s p.val = some n) (hc : cfgOf s n = some c) :
    ∃ t, exec (.bindAck p id) s = .next t ∧ linkState t p.val = lsRun ∧ (portAt t p.val).slot = some n ∧
      rfld t (Reg.epStatus p.val) 31 16 = Status.OK.code ∧ rbit t (Reg.epStatus p.val) 4 = true ∧
      (portAt t p.val).bind = id ∧ (portAt t p.val).reboundSinceFault = true ∧ (slotAt t n).reck.st = .acquire := by
  have he : bindAck p.val id s = bindSlot n p.val c s := bindAck_of_right hl hid hs hc
  obtain ⟨-, hrun, hok, hbound, hport, -⟩ := linkBound_outcome w p.isLt n
  obtain ⟨wb, hreg, hq, hst⟩ := bindSlot_outcome w r p.isLt hc
  rw [← he] at wb hreg hq hst
  obtain ⟨-, hdim⟩ := withDim_regs (f := bindAck p.val id) wb
  have hword : reg (withDim (bindAck p.val id) s) (Reg.epStatus p.val) = reg (linkBound n p.val s) (Reg.epStatus p.val) :=
    (hdim _ (by simp only [Reg.epStatus, Reg.ep, Reg.msixPba]; omega)).trans hreg
  rw [← portAt_withDim, hport] at hq
  refine ⟨withDim (bindAck p.val id) s, rfl, (linkState_of_reg hword).trans hrun, (congrArg PortState.slot hq :), ?_, ?_, ?_,
    (congrArg PortState.reboundSinceFault hq :), ?_⟩
  · exact (congrArg (fld · 31 16) hword).trans hok
  · exact (congrArg (bit · 4) hword).trans hbound
  · refine (congrArg PortState.bind hq :).trans ?_
    change BitVec.ofNat 16 (rfld s (Reg.epBindId p.val) 15 0) = id
    rw [← hid, BitVec.ofNat_toNat, BitVec.setWidth_eq]
  · rw [slotAt, withDim_slots]
    exact hst

end

/-! ## The statement -/

/-- Settles O47: each answer of an engine takes its tag off and goes to Identify or to the page store, Identify ends in a try to
bind, and the acknowledgement of the BIND that is out makes the link run. -/
theorem linkBinding : Obligations.LinkBinding := by
  intro s p w
  obtain ⟨wr, -⟩ := State.wf_iff.1 w
  refine ⟨fun tag x a st d hx hl => ⟨fun hg => ?_, fun g hg hp hr ha h0 hst hd => ?_⟩, ?_, ?_, ?_, ?_, ?_, ?_⟩
  · exact ⟨_, exec_readData_idle hx hl hg, portAt_tagsKept_same p.isLt _ s, tagsKept_regs _ _ s, (tagsKept_page _ _ s).trans hg,
      fun k hk => portAt_tagsKept_ne hk _ s, tagsKept_slots _ _ s⟩
  · subst hst
    exact exec_readData_page hx hl hg hp hr ha h0 hd
  · rintro tag st x d n hl hi h4 hx hxl rfl hd rfl h0 h1
    exact exec_readData_header wr hl hi h4 hx hxl hd h0 h1
  · rintro tag st x d hl hi hx hxl rfl hd
    exact exec_readData_lastPage wr hl hi hx hxl hd
  · refine fun tag st x g hx hg hp hw => ⟨exec_writeDone_refused hx hg hp hw, ?_⟩
    rintro rfl
    exact exec_writeDone_taken hx hg hp hw
  · exact fun hw => ⟨fun hg => ⟨_, exec_descWriteTimeout_idle hw hg, tagsKept_regs _ _ s, (tagsKept_page _ _ s).trans hg,
      congrArg PortState.tags (portAt_tagsKept_same p.isLt _ s), tagsKept_slots _ _ s⟩,
      fun g hg hp hat => exec_descWriteTimeout_writing wr hw hg hp hat⟩
  · exact fun id h => ⟨s, exec_bindAck_other h, rfl⟩
  · exact fun id n c r hl hid hs hc => exec_bindAck_right wr r.1 hl hid hs hc

end
end Sys2Proof.Machine
end

section
/-! PROOFS. What the operations of the loop engine leave: the settings of the loop they run on, its STATE and every other loop. -/

set_option Elab.async false

namespace Sys2Proof.Machine

variable {s t u : State} {l x : Nat}

/-! ## The relation -/

/-- A word that the host sets for loop l, or that of its delays: none that a stage of a sample, a command or a tracker writes. -/
def settingWord (l a : Nat) : Prop :=
  a = Reg.leDly l ∨ Reg.le l ≤ a ∧ a < Reg.le l + 0x54 ∧ a ≠ Reg.leStatus l ∧ a ≠ Reg.leFlags l

/-- From s to t the settings of loop l and every other loop stand, and loop l is in state x of R294. -/
structure LoopMoved (l x : Nat) (s t : State) : Prop where
  wf : t.regs.wf = true
  word : ∀ a, settingWord l a → reg t a = reg s a
  state : leState t l = x
  others : ∀ k, k ≠ l → loopAt t k = loopAt s k

theorem loopAt_of_loops (h : t.loops = s.loops) (k : Nat) : loopAt t k = loopAt s k :=
  congrArg (fun v : Vector LoopState 128 => (v[k]?).getD LoopState.init) h

theorem leState_of_reg (h : reg t (Reg.leStatus l) = reg s (Reg.leStatus l)) : leState t l = leState s l :=
  congrArg (fld · 1 0) h

theorem LoopMoved.refl (w : s.regs.wf = true) : LoopMoved l (leState s l) s s := ⟨w, fun _ _ => rfl, rfl, fun _ _ => rfl⟩

section
variable (h : LoopMoved l x s t)
include h

theorem LoopMoved.ofWords (w : u.regs.wf = true) (hr : ∀ a, settingWord l a ∨ a = Reg.leStatus l → reg u a = reg t a)
    (hq : u.loops = t.loops) : LoopMoved l x s u :=
  ⟨w, fun a ha => (hr a (.inl ha)).trans (h.word a ha), (leState_of_reg (hr _ (.inr rfl))).trans h.state,
    fun k hk => (loopAt_of_loops hq k).trans (h.others k hk)⟩

theorem LoopMoved.ofSame (hr : u.regs = t.regs) (hq : u.loops = t.loops) : LoopMoved l x s u :=
  h.ofWords (hr.symm ▸ h.wf) (fun a _ => congrArg (·.get a) hr) hq

theorem LoopMoved.modLoop (f : LoopState → LoopState) : LoopMoved l x s (modLoop l f t) :=
  ⟨(modLoop_regs l f t).symm ▸ h.wf, fun a ha => (reg_modLoop l f t a).trans (h.word a ha),
    (leState_of_reg (reg_modLoop l f t _)).trans h.state, fun k hk => (loopAt_modLoop_ne hk f t).trans (h.others k hk)⟩

theorem LoopMoved.setReg {a : Nat} (ha : ¬ settingWord l a) (hs : Reg.leStatus l ≠ a) (v : Word) : LoopMoved l x s (setReg a v t) :=
  h.ofWords (setReg_wf h.wf a v) (fun b hb => reg_setReg_ne h.wf v (by
    rintro rfl
    exact hb.elim ha (Ne.symm hs))) rfl

/-- A field of LEn_STATUS above STATE. -/
theorem LoopMoved.setStatus {hi lo : Nat} (hh : hi < 32) (hlo : lo ≤ hi) (h1 : 1 < lo) (v : Nat) :
    LoopMoved l x s (setFld (Reg.leStatus l) hi lo v t) :=
  ⟨setFld_wf h.wf _ _ _ _, fun a ha => (reg_setFld_ne h.wf _ _ _ (by
      rintro rfl
      simp [settingWord, Reg.leStatus, Reg.leDly] at ha)).trans (h.word a ha),
    (rfld_setFld_out h.wf _ v hh hlo (.inl h1) (by omega)).trans h.state, h.others⟩

/-- The loop goes to state y. -/
theorem LoopMoved.setState {y : Nat} (hy : y < 4) : LoopMoved l y s (setFld (Reg.leStatus l) 1 0 y t) :=
  ⟨setFld_wf h.wf _ _ _ _, fun a ha => (reg_setFld_ne h.wf _ _ _ (by
      rintro rfl
      simp [settingWord, Reg.leStatus, Reg.leDly] at ha)).trans (h.word a ha),
    (rfld_setFld_same h.wf _ y (by omega) (by omega)).trans (Nat.mod_eq_of_lt hy), h.others⟩

theorem LoopMoved.setFlag (i : Nat) (b : Bool) : LoopMoved l x s (setBit (Reg.leFlags l) i b t) :=
  h.setReg (by simp [settingWord, Reg.leFlags, Reg.leDly]) (by simp [Reg.leStatus, Reg.leFlags]) _

theorem LoopMoved.leFlag (i : Nat) (b : Bool) : LoopMoved l x s (leFlag l i b t) := by
  unfold Machine.leFlag
  split
  · exact h.setFlag i true
  · exact h

theorem LoopMoved.forAll (ks : List Nat) {f : Nat → State → State}
    (hf : ∀ k ∈ ks, ∀ v, LoopMoved l x s v → LoopMoved l x s (f k v)) : LoopMoved l x s (forAll ks f t) :=
  List.foldlRecOn (motive := fun v => LoopMoved l x s v) _ _ h fun v hv k hk => hf k hk v hv

/-! ## Lock (R84, R284) -/

theorem LoopMoved.pickoffLost (hl : l < 128) {n : Nat} (hn : n < 8) : LoopMoved l x s (pickoffLost n t) := by
  have hk := keeps_pickoffLost (List.Subset.refl _) n (.refl _ t)
  have hloops := hk.same (k := .loops) (by decide)
  rcases pickoffLost_cases n t with e | ⟨c, e⟩
  · rwa [e]
  · rw [e] at hloops ⊢
    obtain ⟨w, hr⟩ := pickoffHold_regs h.wf n c
    refine h.ofWords w (fun a ha => hr a ?_ ?_) hloops <;>
      simp only [settingWord, Reg.leDly, Reg.leStatus, Reg.leFlags, Reg.le] at ha
    · simp only [logArea, Reg.msixPba, Reg.frLogStat, Reg.frFault, Reg.frLog]
      omega
    · simp only [Reg.tfFlags, Reg.tf]
      omega

theorem LoopMoved.loseLock (hl : l < 128) : LoopMoved l x s (loseLock l t) := by
  cases hb : rbit t (Reg.leStatus l) 4 with
  | false => exact loseLock_unlocked hb ▸ h.modLoop _
  | true =>
    have h1 : LoopMoved l x s (lockCleared l t) :=
      ((h.modLoop lockCountCleared).setStatus (hi := 4) (lo := 4) (by omega) (by omega) (by omega) _).setFlag lfLockLost true
    rcases loseLock_locked hb with e | ⟨n, hn, e⟩
    · exact e ▸ h1
    · exact e ▸ h1.pickoffLost hl hn

/-! ## The start and the end of a loop (R282, R294) -/

theorem LoopMoved.startTracker (hl : l < 128) : LoopMoved l x s (startTracker l t) := by
  unfold Machine.startTracker
  split
  · exact h
  · exact ((h.modLoop _).loseLock hl).setStatus (by omega) (by omega) (by omega) _

theorem LoopMoved.openLoop (hl : l < 128) : LoopMoved l (if x = 2 then 1 else x) s (openLoop l t) := by
  unfold Machine.openLoop
  dsimp only
  rw [h.state]
  split
  · exact ((h.modLoop _).loseLock hl).setState (by omega)
  · exact h.modLoop _

theorem LoopMoved.idleLoop (hl : l < 128) : LoopMoved l 0 s (idleLoop l t) :=
  (((h.modLoop _).loseLock hl).setStatus (hi := 3) (lo := 3) (by omega) (by omega) (by omega) _).setState (by omega)

theorem LoopMoved.leResult (st : Status) : LoopMoved l x s (leResult l st t) := by
  have h1 := h.setStatus (hi := 31) (lo := 16) (by omega) (by omega) (by omega) st.code
  unfold Machine.leResult
  dsimp only
  split
  · exact h1
  · refine h1.setReg ?_ ?_ _
    · simp only [settingWord, Reg.leErr, Reg.leDly, Reg.le]
      omega
    · simp only [Reg.leErr, Reg.leStatus, Reg.le]
      omega

/-! ## What a loop shows and sends (R277, R299) -/

theorem LoopMoved.showLoop (hl : l < 128) : LoopMoved l x s (showLoop l t) := by
  refine h.ofWords (setRegs_regs h.wf _).1 (fun a ha => (setRegs_regs h.wf _).2 a fun e he => ?_) (setRegs_loops _ t)
  have hcoef : ∃ i, e.1 = Reg.leCoef l i := by
    simp only [List.mem_append, List.mem_map, List.mem_singleton] at he
    rcases he with ((⟨i, -, rfl⟩ | ⟨i, -, rfl⟩) | ⟨i, -, rfl⟩) | rfl <;> exact ⟨_, rfl⟩
  obtain ⟨i, hi⟩ := hcoef
  simp only [settingWord, Reg.leDly, Reg.leStatus, Reg.leFlags, Reg.le] at ha
  rw [hi]
  simp only [Reg.leCoef]
  omega

theorem LoopMoved.issueOut : LoopMoved l x s (issueOut l t) := by
  have hk := keeps_issueOut (List.Subset.refl _) l (.refl _ t)
  exact h.ofSame (hk.same (k := .regs) (by decide)) (hk.same (k := .loops) (by decide))

theorem LoopMoved.driveSample : LoopMoved l x s (driveSample l t) := by
  have hk := keeps_driveSample (List.Subset.refl _) l (.refl _ t)
  exact h.ofSame (hk.same (k := .regs) (by decide)) (hk.same (k := .loops) (by decide))

end

end Sys2Proof.Machine
end

section
/-! PROOFS. ENABLE, CLOSE, OPEN and DISABLE of a loop: what each leaves of the loop, and the status it gives (R278, R293 to R295,
R300). -/

set_option Elab.async false

namespace Sys2Proof.Machine

variable {s : State} {l : Nat}

/-! ## What a loop is left with -/

/-- Losing lock clears the loop's counts towards lock, and changes no other of the loops. -/
theorem loseLock_loops (l : Nat) (s : State) : (loseLock l s).loops = (modLoop l lockCountCleared s).loops := by
  cases hb : rbit s (Reg.leStatus l) 4 with
  | false => rw [loseLock_unlocked hb]
  | true =>
    rcases loseLock_locked hb with e | ⟨n, -, e⟩
    · rw [e]
      rfl
    · rw [e]
      exact (keeps_pickoffLost (List.Subset.refl _) n (.refl _ (lockCleared l s))).same (k := .loops) (by decide)

theorem loopAt_loseLock (hl : l < 128) (s : State) : loopAt (loseLock l s) l = lockCountCleared (loopAt s l) :=
  (loopAt_of_loops (loseLock_loops l s) l).trans (loopAt_modLoop_same hl _ s)

/-- The start of a tracker changes the tracker, its times and the counts towards lock. -/
theorem loopAt_startTracker (hl : l < 128) (s : State) : ∃ g b o p e k, loopAt (startTracker l s) l =
    { loopAt s l with good := g, bad := b, oscT := o, picks := p, estT := e, trk := k } := by
  unfold startTracker
  split
  · exact ⟨(loopAt s l).good, (loopAt s l).bad, (loopAt s l).oscT, (loopAt s l).picks, (loopAt s l).estT, (loopAt s l).trk, rfl⟩
  · dsimp only
    rw [loopAt_of_loops (setBit_loops _ _ _ _), loopAt_loseLock hl, loopAt_modLoop_same hl]
    exact ⟨_, _, _, _, _, _, rfl⟩

theorem loopAt_showLoop (s : State) (k : Nat) : loopAt (showLoop l s) k = loopAt s k := loopAt_of_loops (setRegs_loops _ s) k

theorem loopAt_issueOut (s : State) (k : Nat) : loopAt (issueOut l s) k = loopAt s k :=
  loopAt_of_loops ((keeps_issueOut (List.Subset.refl _) l (.refl _ s)).same (k := .loops) (by decide)) k

theorem loopAt_driveSample (s : State) (k : Nat) : loopAt (driveSample l s) k = loopAt s k :=
  loopAt_of_loops ((keeps_driveSample (List.Subset.refl _) l (.refl _ s)).same (k := .loops) (by decide)) k

theorem leResult_loops (l : Nat) (st : Status) (s : State) : (leResult l st s).loops = s.loops :=
  (keeps_leResult (List.Subset.refl _) l st (.refl _ s)).same (k := .loops) (by decide)

/-- A loop that opens from CLOSED holds its output, or begins its ramp (R295). -/
theorem loopAt_openLoop_closed (hl : l < 128) (h : leState s l = 2) : loopAt (openLoop l s) l = lockCountCleared { loopAt s l with
    closing := false, ramp := if rfld s (Reg.leRamp l) 15 0 ≠ 0 then some (0, (loopAt s l).u) else none } := by
  rw [openLoop, if_pos h, loopAt_of_loops (setFld_loops _ _ _ _ _), loopAt_loseLock hl, loopAt_modLoop_same hl]

/-- A CLOSE that waits for its sample is discarded (R297). -/
theorem loopAt_openLoop_closing (hl : l < 128) (h : leState s l ≠ 2) :
    loopAt (openLoop l s) l = { loopAt s l with closing := false } := by
  rw [openLoop, if_neg h, loopAt_modLoop_same hl]

theorem loopAt_idleLoop (hl : l < 128) (s : State) : loopAt (idleLoop l s) l = lockCountCleared { loopAt s l with
    closing := false, ramp := none, auto := none, trk := Tracker.init, meas := none, run := none, wait := none, picks := [] } := by
  rw [idleLoop, loopAt_of_loops (setFld_loops _ _ _ _ _), loopAt_of_loops (setBit_loops _ _ _ _), loopAt_loseLock hl,
    loopAt_modLoop_same hl]

/-- The tracker of an idle loop is not locked. -/
theorem rbit_idleLoop (w : s.regs.wf = true) (hl : l < 128) : rbit (idleLoop l s) (Reg.leStatus l) 3 = false := by
  have wl : ∀ f, (loseLock l (modLoop l f s)).regs.wf = true := fun f => (((LoopMoved.refl w).modLoop f).loseLock hl).wf
  rw [idleLoop, rbit_setFld_out (setBit_wf (wl _) _ _ _) _ _ (by omega) (by omega) (by omega),
    rbit_setBit_same (wl _) _ _ (by omega)]

/-! ## The status of a command (R294, R300) -/

theorem leErr_ne_le (l o : Nat) : Reg.le l + o ≠ Reg.leErr := by
  simp only [Reg.le, Reg.leErr]
  omega

theorem reg_leResult_leStatus (w : s.regs.wf = true) (l : Nat) (st : Status) :
    reg (leResult l st s) (Reg.leStatus l) = putFld (reg s (Reg.leStatus l)) 31 16 st.code := by
  unfold leResult
  dsimp only
  split
  · exact reg_setFld_same w _ _ _ _
  · exact (reg_setReg_ne (setFld_wf w _ _ _ _) _ (leErr_ne_le l 0x0C)).trans (reg_setFld_same w _ _ _ _)

theorem leResult_code (w : s.regs.wf = true) (l : Nat) (st : Status) : rfld (leResult l st s) (Reg.leStatus l) 31 16 = st.code := by
  rw [rfld, reg_leResult_leStatus w, fld_putFld_same _ _ (by omega) (by omega)]
  exact Nat.mod_eq_of_lt (Status.code_lt st)

/-- LE_ERR's word for a status and a loop. -/
theorem leErrWord_fields (st : Status) (hl : l < 128) :
    fld (at_ 31 16 st.code ||| at_ 6 0 l) 31 16 = st.code ∧ fld (at_ 31 16 st.code ||| at_ 6 0 l) 6 0 = l := by
  constructor
  · rw [fld_or, fld_at_same _ (by omega) (by omega), fld_at_out _ (by omega) (by omega) (by omega) (by omega), Nat.or_zero]
    exact Nat.mod_eq_of_lt (Status.code_lt st)
  · rw [fld_or, fld_at_out _ (by omega) (by omega) (by omega) (by omega), fld_at_same _ (by omega) (by omega), Nat.zero_or]
    exact Nat.mod_eq_of_lt hl

/-- A refused command leaves the loops, its status in LEn_STATUS and LE_ERR, and the loop's number in LE_ERR. -/
theorem leResult_refused (w : s.regs.wf = true) (hl : l < 128) {st : Status} (hst : st ≠ .OK) :
    (leResult l st s).loops = s.loops ∧ leState (leResult l st s) l = leState s l ∧
    rfld (leResult l st s) (Reg.leStatus l) 31 16 = st.code ∧
    rfld (leResult l st s) Reg.leErr 31 16 = st.code ∧ rfld (leResult l st s) Reg.leErr 6 0 = l := by
  have herr : reg (leResult l st s) Reg.leErr = at_ 31 16 st.code ||| at_ 6 0 l := by
    rw [leResult, if_neg hst]
    exact reg_setReg_same (setFld_wf w _ _ _ _) _ _
  obtain ⟨hcode, hloop⟩ := leErrWord_fields st hl
  exact ⟨leResult_loops l st s, ((LoopMoved.refl w).leResult st).state, leResult_code w l st,
    (congrArg (fld · 31 16) herr).trans hcode, (congrArg (fld · 6 0) herr).trans hloop⟩

/-! ## The commands -/

section
variable {l : LoopId} (ho : hostOpen s (Reg.leCtrl l.val) = true)
include ho

theorem exec_loopEnable : exec (.loopEnable l) s = .next (loopEnable l.val s) := congrArg Host.Outcome.next (hostWrite_open ho _ _)
theorem exec_loopClose : exec (.loopClose l) s = .next (loopClose l.val s) := congrArg Host.Outcome.next (hostWrite_open ho _ _)
theorem exec_loopOpen : exec (.loopOpen l) s = .next (loopOpen l.val s) := congrArg Host.Outcome.next (hostWrite_open ho _ _)
theorem exec_loopDisable : exec (.loopDisable l) s = .next (loopDisable l.val s) :=
  congrArg Host.Outcome.next (hostWrite_open ho _ _)

end

/-- Loop l as ENABLE sets it, before its tracker and its ticks start. -/
def loopCleared (l : Nat) (s : State) : State :=
  setFld (Reg.leStatus l) 1 0 1 (modLoop l (fun q => { LoopState.init with
    x := Blk.zero (leNx s l), z := Blk.zero (leNy s l), u := safeSent s l, delays := q.delays }) s)

theorem loopEnable_taken (h0 : leState s l = 0) (hf : enableFails s l = false) :
    loopEnable l s = leResult l .OK (showLoop l (issueOut l (startTicks l (startTracker l (loopCleared l s))))) := by
  rw [loopEnable, if_neg (not_not.2 h0), hf]
  rfl

theorem loopEnable_refused (h0 : leState s l = 0) (hf : enableFails s l = true) : loopEnable l s = leResult l .LOOP_CONFIG s := by
  rw [loopEnable, if_neg (not_not.2 h0), if_pos hf]

/-- ENABLE leaves an open loop with its vectors at 0 and its safe output (R294). -/
theorem loopEnable_outcome (w : s.regs.wf = true) (hl : l < 128) (h0 : leState s l = 0) (hf : enableFails s l = false) :
    LoopMoved l 1 s (loopEnable l s) ∧ rfld (loopEnable l s) (Reg.leStatus l) 31 16 = Status.OK.code ∧
    (loopAt (loopEnable l s) l).x = Blk.zero (leNx s l) ∧ (loopAt (loopEnable l s) l).z = Blk.zero (leNy s l) ∧
    (loopAt (loopEnable l s) l).u = safeSent s l ∧ (loopAt (loopEnable l s) l).closing = false ∧
    (loopAt (loopEnable l s) l).delays = (loopAt s l).delays := by
  rw [loopEnable_taken h0 hf]
  have h1 : LoopMoved l 1 s (loopCleared l s) := ((LoopMoved.refl w).modLoop _).setState (by omega)
  have h2 := (((h1.startTracker hl).modLoop _ : LoopMoved l 1 s (startTicks l _)).issueOut).showLoop hl
  obtain ⟨g, b, o, p, e, k, hq⟩ := loopAt_startTracker hl (loopCleared l s)
  refine ⟨h2.leResult .OK, leResult_code h2.wf l .OK, ?_⟩
  rw [loopAt_of_loops (leResult_loops l .OK _), loopAt_showLoop, loopAt_issueOut, startTicks, loopAt_modLoop_same hl, hq, loopCleared,
    loopAt_of_loops (setFld_loops _ _ _ _ _), loopAt_modLoop_same hl]
  exact ⟨rfl, rfl, rfl, rfl, rfl⟩

theorem loopClose_taken (h1 : leState s l = 1) (hc : (loopAt s l).closing = false) (hu : unboundLoop s l = false) :
    loopClose l s = leResult l .OK (modLoop l (fun q => { q with closing := true, auto := none }) s) := by
  rw [loopClose, if_neg (by simp [h1, hc, hu])]

theorem loopClose_refused (h : leState s l ≠ 1 ∨ (loopAt s l).closing = true ∨ unboundLoop s l = true) :
    loopClose l s = leResult l .LOOP_BUSY s := if_pos h

theorem loopOpen_taken (h : leClosed s l = true) : loopOpen l s = leResult l .OK (openLoop l s) := if_pos h

theorem loopOpen_refused (h : leClosed s l = false) : loopOpen l s = leResult l .LOOP_BUSY s := if_neg (h ▸ Bool.false_ne_true)

theorem loopDisable_refused (h : leState s l = 0) : loopDisable l s = leResult l .LOOP_BUSY s := if_pos h

/-- The output of loop l at its safe values leaves, at once or as a drive sample. -/
def safeIssued (l : Nat) (s : State) : State :=
  if leResonant s l then driveSample l (modLoop l (fun q => { q with u := safeSent s l }) s)
  else issueOut l (modLoop l (fun q => { q with u := safeSent s l }) s)

theorem loopDisable_taken (h : leState s l ≠ 0) :
    loopDisable l s = leResult l .OK (idleLoop l (showLoop l (safeIssued l s))) := if_neg h

theorem LoopMoved.safeIssued (w : s.regs.wf = true) (l : Nat) : LoopMoved l (leState s l) s (safeIssued l s) :=
  have h := (LoopMoved.refl w).modLoop fun q => { q with u := safeSent s l }
  iteInduction (fun _ => h.driveSample) fun _ => h.issueOut

theorem loopAt_safeIssued (hl : l < 128) (s : State) : loopAt (safeIssued l s) l = { loopAt s l with u := safeSent s l } := by
  unfold safeIssued
  split
  · rw [loopAt_driveSample, loopAt_modLoop_same hl]
  · rw [loopAt_issueOut, loopAt_modLoop_same hl]

/-- DISABLE leaves an idle loop at its safe output, without a tracker (R294). -/
theorem loopDisable_outcome (w : s.regs.wf = true) (hl : l < 128) (h : leState s l ≠ 0) :
    LoopMoved l 0 s (loopDisable l s) ∧ rfld (loopDisable l s) (Reg.leStatus l) 31 16 = Status.OK.code ∧
    rbit (loopDisable l s) (Reg.leStatus l) 3 = false ∧ (loopAt (loopDisable l s) l).u = safeSent s l ∧
    (loopAt (loopDisable l s) l).closing = false ∧ (loopAt (loopDisable l s) l).ramp = none ∧
    (loopAt (loopDisable l s) l).trk = Tracker.init := by
  have hs := (LoopMoved.safeIssued w l).showLoop hl
  have h1 := hs.idleLoop hl
  rw [loopDisable_taken h]
  refine ⟨h1.leResult .OK, leResult_code h1.wf l .OK, ?_, ?_⟩
  · rw [rbit, reg_leResult_leStatus h1.wf, bit_putFld_out _ _ (by omega) (by omega) (by omega), ← rbit, rbit_idleLoop hs.wf hl]
  · rw [loopAt_of_loops (leResult_loops l .OK _), loopAt_idleLoop hl, loopAt_showLoop, loopAt_safeIssued hl]
    exact ⟨rfl, rfl, rfl, rfl⟩

/-- Settles O42: each command comes to one branch of its operation. That OPEN discards a CLOSE that waits for its sample, and is
taken then, is the model's choice (log entry 62). -/
theorem loopOrders : Obligations.LoopOrders := by
  intro s l w ho
  obtain ⟨wr, -⟩ := State.wf_iff.1 w
  have hl := l.isLt
  refine ⟨fun h0 hf => ?_, fun h0 hf => ?_, fun h1 hc hu => ?_, fun h => ?_, fun h2 => ?_, fun h2 hc => ?_, fun h => ?_, fun h => ?_,
    fun h => ?_⟩
  · obtain ⟨hm, hcode, hx, hz, hu, hc, hd⟩ := loopEnable_outcome wr hl h0 hf
    exact ⟨_, exec_loopEnable ho, hm.state, hcode, hx, hz, hu, hc, hd, hm.others⟩
  · obtain ⟨hq, hst, hcode, herr, hloop⟩ := leResult_refused wr hl (st := .LOOP_CONFIG) (by decide)
    exact ⟨_, (exec_loopEnable ho).trans (by rw [loopEnable_refused h0 hf]), hst.trans h0, hcode, herr, hloop, hq⟩
  · have hm := (LoopMoved.refl wr).modLoop (l := l.val) fun q => { q with closing := true, auto := none }
    refine ⟨_, (exec_loopClose ho).trans (by rw [loopClose_taken h1 hc hu]), ?_, ?_, leResult_code hm.wf _ _,
      (hm.leResult .OK).others, fun a ha => ?_⟩
    · rw [loopAt_of_loops (leResult_loops _ _ _), loopAt_modLoop_same hl]
    · exact (hm.leResult .OK).state.trans h1
    · exact (reg_setFld_ne hm.wf _ _ _ ha).trans (reg_modLoop _ _ _ a)
  · obtain ⟨hq, hst, hcode, herr, hloop⟩ := leResult_refused wr hl (st := .LOOP_BUSY) (by decide)
    exact ⟨_, (exec_loopClose ho).trans (by rw [loopClose_refused h]), hq, hst, hcode, herr, hloop⟩
  · have hm := (LoopMoved.refl wr).openLoop hl
    have hq := (loopAt_of_loops (leResult_loops l.val .OK _) l.val).trans (loopAt_openLoop_closed hl h2)
    have hopen := (hm.leResult .OK).state
    rw [if_pos h2] at hopen
    refine ⟨_, (exec_loopOpen ho).trans (by rw [loopOpen_taken (by simp [leClosed, h2])]), hopen, leResult_code hm.wf _ _, ?_, ?_, ?_,
      ?_, (hm.leResult .OK).others⟩ <;> rw [hq]
    exacts [rfl, rfl, rfl, ite_not _ _ _]
  · have hm := (LoopMoved.refl wr).openLoop hl
    have hq := (loopAt_of_loops (leResult_loops l.val .OK _) l.val).trans (loopAt_openLoop_closing hl h2)
    have hsame := (hm.leResult .OK).state
    rw [if_neg h2] at hsame
    exact ⟨_, (exec_loopOpen ho).trans (by rw [loopOpen_taken (by simp [leClosed, hc])]), hsame, leResult_code hm.wf _ _, hq,
      (hm.leResult .OK).others⟩
  · obtain ⟨hq, hst, hcode, -⟩ := leResult_refused wr hl (st := .LOOP_BUSY) (by decide)
    exact ⟨_, (exec_loopOpen ho).trans (by rw [loopOpen_refused h]), hq, hst, hcode⟩
  · obtain ⟨hq, hst, hcode, -⟩ := leResult_refused wr hl (st := .LOOP_BUSY) (by decide)
    exact ⟨_, (exec_loopDisable ho).trans (by rw [loopDisable_refused h]), hq, hst.trans h, hcode⟩
  · obtain ⟨hm, hcode, hlock, hu, hc, hr, ht⟩ := loopDisable_outcome wr hl h
    exact ⟨_, exec_loopDisable ho, hm.state, hcode, hlock, hu, hc, hr, ht, hm.others⟩

end Sys2Proof.Machine
end

section
/-! PROOFS. Writes of a loop's coefficient and configuration words, the clearing of its largest delay, and the loss of its source
(R291, R296, R297, R299, R300). -/

set_option Elab.async false

namespace Sys2Proof.Machine

variable {s : State} {l : Nat}

/-! ## A rejected write (R296) -/

/-- A rejected write sets COEF_REJ and LE_ERR, and changes no other word. -/
theorem rejectCoef_outcome (w : s.regs.wf = true) (hl : l < 128) (st : Status) :
    (∀ a, a ≠ Reg.leErr → a ≠ Reg.leFlags l → reg (rejectCoef l st s) a = reg s a) ∧
    rbit (rejectCoef l st s) (Reg.leFlags l) 6 = true ∧ rfld (rejectCoef l st s) Reg.leErr 31 16 = st.code ∧
    rfld (rejectCoef l st s) Reg.leErr 6 0 = l ∧ (rejectCoef l st s).loops = s.loops := by
  have w1 := setBit_wf w (Reg.leFlags l) lfCoefRej true
  have herr : reg (rejectCoef l st s) Reg.leErr = at_ 31 16 st.code ||| at_ 6 0 l := reg_setReg_same w1 _ _
  have hflag : reg (rejectCoef l st s) (Reg.leFlags l) = reg (setBit (Reg.leFlags l) lfCoefRej true s) (Reg.leFlags l) :=
    reg_setReg_ne w1 _ (leErr_ne_le l 0x10)
  obtain ⟨hcode, hloop⟩ := leErrWord_fields st hl
  exact ⟨fun a he hf => (reg_setReg_ne w1 _ he).trans (reg_setFld_ne w _ _ _ hf),
    (congrArg (bit · 6) hflag).trans (rbit_setBit_same w _ true (by decide)), (congrArg (fld · 31 16) herr).trans hcode, (congrArg (fld · 6 0) herr).trans hloop, rfl⟩

/-! ## Coefficient words (R299) -/

/-- A coefficient word as it is taken, before a write of γ begins its ramp. -/
theorem coefWrite_taken {k : Nat} (hk : k < 139) (hc : leClosed s l = false) (v : Word) : coefWrite l k v s =
    if k = 137 then modLoop l (fun q => { q with gramp := some 0 }) (setReg (Reg.leCoef l k) (v &&& coefMask k) s)
    else setReg (Reg.leCoef l k) (v &&& coefMask k) s := by
  rw [coefWrite, if_neg (by omega), if_neg (hc ▸ Bool.false_ne_true)]

theorem coefWrite_regs {k : Nat} (hk : k < 139) (hc : leClosed s l = false) (v : Word) :
    (coefWrite l k v s).regs = (setReg (Reg.leCoef l k) (v &&& coefMask k) s).regs := by
  rw [coefWrite_taken hk hc]
  split
  · exact modLoop_regs _ _ _
  · rfl

theorem coefWrite_rejected {k : Nat} (hk : k < 139) (hc : leClosed s l = true) (v : Word) :
    coefWrite l k v s = rejectCoef l .LOOP_CLOSED s := by
  rw [coefWrite, if_neg (by omega), if_pos hc]

theorem exec_coefWrite_word {l : LoopId} {k : Fin 256} (ho : hostOpen s (Reg.leCoef l.val k.val) = true) (v : Word) :
    exec (.coefWrite l false k v) s = .next (coefWrite l.val k.val v s) :=
  congrArg Host.Outcome.next (hostWrite_open ho v _)

theorem exec_coefWrite_taken {l : LoopId} {k : Fin 256} (w : s.regs.wf = true) (ho : hostOpen s (Reg.leCoef l.val k.val) = true)
    (hk : k.val < 139) (hc : leClosed s l.val = false) (v : Word) : ∃ t, exec (.coefWrite l false k v) s = .next t ∧
      reg t (Reg.leCoef l.val k.val) = v &&& coefMask k.val ∧ (∀ a, a ≠ Reg.leCoef l.val k.val → reg t a = reg s a) ∧
      (k.val ≠ 137 → t.loops = s.loops) ∧ (k.val = 137 → (loopAt t l.val).gramp = some 0) := by
  have hreg (a : Nat) : reg (coefWrite l.val k.val v s) a = reg (setReg (Reg.leCoef l.val k.val) (v &&& coefMask k.val) s) a :=
    congrArg (·.get a) (coefWrite_regs hk hc v)
  refine ⟨_, exec_coefWrite_word ho v, (hreg _).trans (reg_setReg_same w _ _), fun a ha => (hreg a).trans (reg_setReg_ne w _ ha),
    fun h => ?_, fun h => ?_⟩ <;> rw [coefWrite_taken hk hc]
  · rw [if_neg h]
    rfl
  · rw [if_pos h, loopAt_modLoop_same l.isLt]

/-! ## Configuration words (R296, R300) -/

theorem exec_coefWrite_config {l : LoopId} {k : Fin 256} {a : Nat} {m : Word} (hr : leConfigReg l.val k.val = some (a, m))
    (ho : hostOpen s a = true) (v : Word) : exec (.coefWrite l true k v) s = .next (leConfigWrite l.val a m v s) := by
  change Host.Outcome.next _ = _
  rw [if_pos rfl, hr]
  exact congrArg Host.Outcome.next (hostWrite_open ho v _)

/-- A configuration word lies in the loop's block, apart from its status, and is LEn_DRV for index 20 alone. -/
theorem leConfigReg_some {k a : Nat} {m : Word} (h : leConfigReg l k = some (a, m)) :
    a ≠ Reg.leErr ∧ a ≠ Reg.leFlags l ∧ (k ≠ 20 → a ≠ Reg.leDrv l) ∧ (k = 20 → a = Reg.leDrv l ∧ m = 0xFFFFFFFF) := by
  unfold leConfigReg at h
  split at h <;> cases h <;>
    simp [Reg.leErr, Reg.leFlags, Reg.leDrv, Reg.leCfg, Reg.leDim, Reg.leRc, Reg.leRcBase, Reg.le] <;> omega

theorem leConfigWrite_rejected (h : leState s l ≠ 0) (a : Nat) (m v : Word) : leConfigWrite l a m v s = rejectCoef l .LOOP_BUSY s :=
  if_pos h

theorem leConfigWrite_taken (h : leState s l = 0) {a : Nat} (ha : a ≠ Reg.leDrv l) (m v : Word) :
    leConfigWrite l a m v s = setReg a (v &&& m) s := by
  rw [leConfigWrite, if_neg (not_not.2 h), if_neg ha]

/-- LEn_DRV takes DIV within 8 to 64. -/
theorem leConfigWrite_drv (h : leState s l = 0) (v : Word) : leConfigWrite l (Reg.leDrv l) 0xFFFFFFFF v s =
    setReg (Reg.leDrv l) (putFld (v &&& 0xFFFFFFFF) 31 25 (clampN (fld v 31 25) 8 64)) s := by
  rw [leConfigWrite, if_neg (not_not.2 h), if_pos rfl]

theorem clampN_eq (x : Nat) {lo hi : Nat} (h : lo ≤ hi) : clampN x lo hi = max lo (min x hi) := by
  unfold clampN
  split
  · omega
  · split <;> omega

/-! ## The largest delay (R300) -/

theorem exec_dlyMaxClear {l : LoopId} (ho : hostOpen s (Reg.leDly l.val) = true) :
    exec (.dlyMaxClear l) s = .next (setFld (Reg.leDly l.val) 31 16 0 s) :=
  congrArg Host.Outcome.next (hostWrite_open ho 0 _)

/-! ## The loss of the source (R297) -/

theorem loopSrcLost_taken (hc : leClosed s l = true) (hr : loopsRun s = true) (h0 : leSrc s l ≠ 0)
    (hd : overdue s l (loopAt s l).heard = true) : loopSrcLost l s = setBit (Reg.leFlags l) lfSrcLost true (openLoop l s) :=
  if_pos ⟨hc, hr, h0, hd⟩

theorem loopSrcLost_same (h : leClosed s l = false ∨ overdue s l (loopAt s l).heard = false) : loopSrcLost l s = s := by
  refine if_neg ?_
  rintro ⟨hc, -, -, hd⟩
  rcases h with h | h
  · exact absurd (hc.symm.trans h) nofun
  · exact absurd (hd.symm.trans h) nofun

/-- A loop that opens keeps its output, and discards a CLOSE that waits. -/
theorem openLoop_kept (hl : l < 128) (s : State) :
    (loopAt (openLoop l s) l).u = (loopAt s l).u ∧ (loopAt (openLoop l s) l).closing = false := by
  by_cases h : leState s l = 2
  · rw [loopAt_openLoop_closed hl h]
    exact ⟨rfl, rfl⟩
  · rw [loopAt_openLoop_closing hl h]
    exact ⟨rfl, rfl⟩

/-- Settles O43: each write comes to one branch of its operation, and a loop whose source is lost opens. -/
theorem loopWords : Obligations.LoopWords := by
  intro s l w
  obtain ⟨wr, -⟩ := State.wf_iff.1 w
  have hl := l.isLt
  refine ⟨fun k v ho hk => ⟨fun hc => exec_coefWrite_taken wr ho hk hc v, fun hc => ?_⟩,
    fun k v a m hr ho => ⟨fun h0 hk => ?_, fun h0 hk => ?_, fun h0 => ?_⟩, fun ho => ?_, fun hc hr h0 hd => ?_, fun h => ?_⟩
  · obtain ⟨hreg, hflag, herr, hloop, hq⟩ := rejectCoef_outcome wr hl .LOOP_CLOSED
    refine ⟨_, (exec_coefWrite_word ho v).trans (by rw [coefWrite_rejected hk hc]), hreg _ ?_ ?_, hflag, herr, hloop, hq⟩ <;>
      simp only [Reg.leCoef, Reg.leErr, Reg.leFlags, Reg.le] <;> omega
  · obtain ⟨-, -, hdrv, -⟩ := leConfigReg_some hr
    exact ⟨_, (exec_coefWrite_config hr ho v).trans (by rw [leConfigWrite_taken h0 (hdrv hk)]), reg_setReg_same wr _ _,
      fun b hb => reg_setReg_ne wr _ hb, rfl⟩
  · obtain ⟨-, -, -, hdrv⟩ := leConfigReg_some hr
    obtain ⟨rfl, rfl⟩ := hdrv hk
    refine ⟨_, (exec_coefWrite_config hr ho v).trans (by rw [leConfigWrite_drv h0]), ?_, ?_, fun b hb => reg_setReg_ne wr _ hb, rfl⟩
    · rw [rfld, reg_setReg_same wr, fld_putFld_same _ _ (by omega) (by omega), clampN_eq _ (by omega)]
      omega
    · rw [rfld, reg_setReg_same wr, fld_putFld_out _ _ (by omega) (by omega) (by omega) (by omega)]
      exact congrArg (fld · 24 0) (BitVec.and_allOnes (x := v))
  · obtain ⟨hreg, hflag, herr, hloop, hq⟩ := rejectCoef_outcome wr hl .LOOP_BUSY
    obtain ⟨he, hf, -⟩ := leConfigReg_some hr
    exact ⟨_, (exec_coefWrite_config hr ho v).trans (by rw [leConfigWrite_rejected h0]), hreg _ he hf, hflag, herr, hloop, hq⟩
  · exact ⟨_, exec_dlyMaxClear ho, rfld_setFld_same wr _ _ (by omega) (by omega),
      rfld_setFld_out wr _ _ (by omega) (by omega) (by omega) (by omega), fun a ha => reg_setFld_ne wr _ _ _ ha, rfl⟩
  · have hm := (LoopMoved.refl wr).openLoop hl
    have hset := hm.setFlag lfSrcLost true
    obtain ⟨hu, hc'⟩ := openLoop_kept hl s
    exact ⟨_, congrArg Host.Outcome.next (loopSrcLost_taken hc hr h0 hd), fun h => hset.state.trans (if_pos h),
      fun h => hset.state.trans (if_neg h), rbit_setBit_same hm.wf _ _ (by decide), hu, hc', hset.others⟩
  · exact congrArg Host.Outcome.next (loopSrcLost_same h)

end Sys2Proof.Machine
end

section
/-! PROOFS. What the stages of a sample leave: the settings and the STATE of the loop, the other loops, and of the loop itself what no
stage is about (R280 to R287, R291 to R295). -/

set_option Elab.async false

namespace Sys2Proof.Machine

variable {s t : State} {l x : Nat}

/-! ## The stages keep settings, STATE and the other loops -/

theorem not_settingWord_leSpNow {j : Nat} (hj : j < 2) : ¬ settingWord l (Reg.leSpNow l j) := by
  simp only [settingWord, Reg.leSpNow, Reg.leDly]
  omega

section
variable (h : LoopMoved l x s t)
include h

theorem LoopMoved.noteNorm (out : Bool) (r : Norm) : LoopMoved l x s (noteNorm l out r t) := (h.leFlag _ _).leFlag _ _

theorem LoopMoved.noteStage (out : Bool) (a : Acc) (r : Norm) : LoopMoved l x s (noteStage l out a r t) :=
  (h.noteNorm out r).leFlag _ _

theorem LoopMoved.moveSp {j : Nat} (hj : j < 2) (at1 : LinkTime) : LoopMoved l x s (moveSp l j at1 t) := by
  unfold Machine.moveSp
  split
  · exact h
  · exact ((h.setReg (not_settingWord_leSpNow hj) (by simp only [Reg.leStatus, Reg.leSpNow]; omega) _).leFlag _ _).leFlag _ _

theorem LoopMoved.stage3 (xb z : Blk) (k : Nat) : LoopMoved l x s (stage3 l xb z k t).s := (h.noteStage _ _ _).leFlag _ _

theorem LoopMoved.presetStep (xb : Blk) (k : Nat) : LoopMoved l x s (presetStep l xb k t).s := by
  unfold Machine.presetStep
  extract_lets nx nu ny uh a sent s1 rhs kz det sol r c s2
  have h1 : LoopMoved l x s s1 := (h.leFlag _ _).leFlag _ _
  have h2 : LoopMoved l x s s2 := (h1.noteNorm _ _).noteNorm _ _
  split
  · exact h1.leFlag lfPreset true
  · split
    · exact ((h2.leFlag _ _).leFlag _ _).stage3 _ _ _
    · exact h2

theorem LoopMoved.openStep (z : Blk) : LoopMoved l x s (openStep l z t).s := (h.modLoop _).leFlag _ _

theorem LoopMoved.rcUpdate (j k : Nat) (e : Blk) : LoopMoved l x s (rcUpdate l j k e t) := by
  unfold Machine.rcUpdate
  extract_lets n q tap qt taps g0 g a r w
  exact (((h.ofSame (u := dramWrite (rcAddr t l j k) (leBytes 4 w) t) rfl rfl).leFlag _ _).leFlag _ _).leFlag _ _

theorem LoopMoved.closeStages (k : Nat) (y : List Int) (o : OutStep) : LoopMoved l x s (closeStages l k y o t) := by
  unfold Machine.closeStages
  extract_lets ny sp yb spn spb err skip a r c s1 ea en s2 n16
  have h1 : LoopMoved l x s s1 := ((((h.modLoop _).noteStage _ _ _).noteNorm _ _).noteNorm _ _).leFlag _ _
  have h2 : LoopMoved l x s s2 := (h1.noteStage _ _ _).forAll _ fun j _ v hv => hv.rcUpdate j _ _
  split
  · exact h1
  · split
    · exact h2
    · split
      · exact (h2.modLoop _).setStatus (by omega) (by omega) (by omega) _
      · exact h2.modLoop _

theorem LoopMoved.noteLock (hl : l < 128) (y : List Int) : LoopMoved l x s (noteLock l y t) := by
  unfold Machine.noteLock
  split
  · exact h
  · extract_lets tol n err ok wide s1 q
    have h1 : LoopMoved l x s s1 := h.modLoop _
    split
    · split
      · exact h1.loseLock hl
      · exact h1
    · split
      · exact h1.setStatus (by omega) (by omega) (by omega) _
      · exact h1

theorem LoopMoved.countAuto : LoopMoved l x s (countAuto l t) := iteInduction (fun _ => h) fun _ => h.modLoop _

theorem LoopMoved.noteAuto : LoopMoved l x s (noteAuto l t) := iteInduction (fun _ => h) fun _ => h.countAuto

end

/-! ## What the stages leave of the loop -/

theorem loopAt_leFlag (i : Nat) (b : Bool) (s : State) (k : Nat) : loopAt (leFlag l i b s) k = loopAt s k := by
  unfold leFlag
  split
  · exact loopAt_of_loops (setBit_loops _ _ _ _) k
  · rfl

theorem loopAt_noteNorm (out : Bool) (r : Norm) (s : State) (k : Nat) : loopAt (noteNorm l out r s) k = loopAt s k := by
  rw [noteNorm, loopAt_leFlag, loopAt_leFlag]

theorem loopAt_noteStage (out : Bool) (a : Acc) (r : Norm) (s : State) (k : Nat) :
    loopAt (noteStage l out a r s) k = loopAt s k := by
  rw [noteStage, loopAt_leFlag, loopAt_noteNorm]

theorem loopAt_stage3 (xb z : Blk) (i : Nat) (s : State) (k : Nat) : loopAt (stage3 l xb z i s).s k = loopAt s k :=
  loopAt_of_loops ((keeps_stage3 (List.Subset.refl _) l xb z i (.refl _ s)).same (k := .loops) (by decide)) k

theorem loopAt_presetStep (xb : Blk) (i : Nat) (s : State) (k : Nat) : loopAt (presetStep l xb i s).s k = loopAt s k :=
  loopAt_of_loops ((keeps_presetStep (List.Subset.refl _) l xb i (.refl _ s)).same (k := .loops) (by decide)) k

/-- Without a ramp an open loop holds its output, within its limits (R293, R295). -/
theorem openStep_held (h : (loopAt s l).ramp = none) (z : Blk) :
    (openStep l z s).u = (clampOut s l ((loopAt s l).u.take (leNu s l))).1 := by
  rw [openStep, h]

theorem loopAt_openStep (hl : l < 128) (z : Blk) (s : State) : ∃ r, loopAt (openStep l z s).s l = { loopAt s l with ramp := r } :=
  ⟨_, (loopAt_leFlag _ _ _ l).trans (loopAt_modLoop_same hl _ s)⟩

/-- Stages 5 and 6 change the integrators and the ramp of the learning gain. -/
theorem loopAt_closeStages (hl : l < 128) (k : Nat) (y : List Int) (o : OutStep) (s : State) :
    ∃ z g, loopAt (closeStages l k y o s) l = { loopAt s l with z := z, gramp := g } := by
  unfold closeStages
  extract_lets ny sp yb spn spb err skip a r c s1 ea en s2 n16
  have h1 : loopAt s1 l = { loopAt s l with z := c.1.blk } := by
    unfold s1
    rw [loopAt_leFlag, loopAt_noteNorm, loopAt_noteNorm, loopAt_noteStage, loopAt_modLoop_same hl]
  have h2 : loopAt s2 l = loopAt s1 l :=
    (loopAt_of_loops ((keeps_forAll (F := [.regs, .dram]) _ _ (fun j _ hv => keeps_rcUpdate (List.Subset.refl _) l j k en.blk hv)
      (.refl _ (noteStage l false ea en s1))).same (k := .loops) (by decide)) l).trans (loopAt_noteStage _ _ _ _ l)
  split
  · exact ⟨c.1.blk, (loopAt s l).gramp, h1⟩
  · split
    · exact ⟨c.1.blk, (loopAt s l).gramp, h2.trans h1⟩
    · split
      · rw [loopAt_of_loops (setBit_loops _ _ _ _), loopAt_modLoop_same hl, h2, h1]
        exact ⟨_, _, rfl⟩
      · rw [loopAt_modLoop_same hl, h2, h1]
        exact ⟨_, _, rfl⟩

/-- A sample counts towards lock and against it. -/
theorem loopAt_noteLock (hl : l < 128) (y : List Int) (s : State) :
    ∃ g b, loopAt (noteLock l y s) l = { loopAt s l with good := g, bad := b } := by
  unfold noteLock
  split
  · exact ⟨(loopAt s l).good, (loopAt s l).bad, rfl⟩
  · extract_lets tol n err ok wide s1 q
    obtain ⟨g, b, h1⟩ : ∃ g b, loopAt s1 l = { loopAt s l with good := g, bad := b } := ⟨_, _, loopAt_modLoop_same hl _ s⟩
    split
    · split
      · exact ⟨0, 0, by rw [loopAt_loseLock hl, h1]; rfl⟩
      · exact ⟨g, b, h1⟩
    · split
      · exact ⟨g, b, (loopAt_of_loops (setBit_loops _ _ _ _) l).trans h1⟩
      · exact ⟨g, b, h1⟩

theorem countAuto_of_not_open (h : leState s l ≠ 1) : countAuto l s = s := if_pos h

theorem noteAuto_of_not_open (h : leState s l ≠ 1) : noteAuto l s = s := by
  rw [noteAuto, countAuto_of_not_open h, ite_self]

/-- A sample counts towards an automatic close, which its sixteenth begins. -/
theorem loopAt_noteAuto (hl : l < 128) (s : State) :
    ∃ a c, loopAt (noteAuto l s) l = { loopAt s l with auto := a, closing := c } := by
  unfold noteAuto countAuto
  split
  · exact ⟨(loopAt s l).auto, (loopAt s l).closing, rfl⟩
  · split
    · exact ⟨(loopAt s l).auto, (loopAt s l).closing, rfl⟩
    · rw [loopAt_modLoop_same hl]
      split
      · exact ⟨(loopAt s l).auto, (loopAt s l).closing, rfl⟩
      · split
        · exact ⟨none, true, rfl⟩
        · exact ⟨_, (loopAt s l).closing, rfl⟩

end Sys2Proof.Machine
end

section
/-! PROOFS. A sample of a loop: its stages put together, its delay, and which sample is served (R279, R280, R285, R294, R295, R298). -/

set_option Elab.async false

namespace Sys2Proof.Machine

variable {s t : State} {l x : Nat}

/-! ## The end of a sample: stages 4 to 6, k advances, and the sample counts towards lock and an automatic close -/

/-- What follows the stages of a sample. -/
def sampleCounted (l n : Nat) (y : List Int) (s : State) : State :=
  showLoop l (noteAuto l (noteLock l y (modLoop l (fun q => { q with k := (q.k + 1) % n }) s)))

theorem LoopMoved.sampleCounted (h : LoopMoved l x s t) (hl : l < 128) (n : Nat) (y : List Int) :
    LoopMoved l x s (sampleCounted l n y t) := (((h.modLoop _).noteLock hl y).noteAuto).showLoop hl

theorem loopAt_sampleCounted (h : LoopMoved l x s t) (hl : l < 128) (n : Nat) (y : List Int) :
    ∃ g b a c, loopAt (sampleCounted l n y t) l =
      { loopAt t l with k := ((loopAt t l).k + 1) % n, good := g, bad := b, auto := a, closing := c } ∧
      (x ≠ 1 → c = (loopAt t l).closing) := by
  rw [sampleCounted, loopAt_showLoop]
  have hm : ∀ f, LoopMoved l x s (noteLock l y (modLoop l f t)) := fun f => (h.modLoop f).noteLock hl y
  obtain ⟨g, b, hq⟩ := loopAt_noteLock hl y (modLoop l (fun q => { q with k := (q.k + 1) % n }) t)
  rw [loopAt_modLoop_same hl] at hq
  by_cases h1 : x = 1
  · obtain ⟨a, c, ha⟩ := loopAt_noteAuto hl (noteLock l y (modLoop l (fun q => { q with k := (q.k + 1) % n }) t))
    exact ⟨g, b, a, c, by rw [ha, hq], fun hx => absurd h1 hx⟩
  · rw [noteAuto_of_not_open ((hm _).state.trans_ne h1), hq]
    exact ⟨g, b, (loopAt t l).auto, (loopAt t l).closing, rfl, fun _ => rfl⟩

/-- Stage 4 gives a as the next x̂; stages 5 and 6 run where the loop is shut. -/
def stagesEnded (l k : Nat) (shut : Prop) [Decidable shut] (y : List Int) (o : OutStep) (a : Acc) (r : Norm) (s : State) : State :=
  if shut then closeStages l k y o (noteStage l false a r (modLoop l (fun q => { q with x := r.blk }) s))
  else noteStage l false a r (modLoop l (fun q => { q with x := r.blk }) s)

section
variable (k : Nat) (shut : Prop) [Decidable shut] (y : List Int) (o : OutStep) (a : Acc) (r : Norm)

theorem LoopMoved.stagesEnded (h : LoopMoved l x s t) : LoopMoved l x s (stagesEnded l k shut y o a r t) :=
  have h4 := (h.modLoop fun q => { q with x := r.blk }).noteStage false a r
  iteInduction (fun _ => h4.closeStages _ _ _) fun _ => h4

theorem loopAt_stagesEnded (hl : l < 128) (s : State) : ∃ x z g, loopAt (stagesEnded l k shut y o a r s) l =
    { loopAt s l with x := x, z := z, gramp := g } ∧ (¬ shut → z = (loopAt s l).z) := by
  have h4 : loopAt (noteStage l false a r (modLoop l (fun q => { q with x := r.blk }) s)) l = { loopAt s l with x := r.blk } :=
    (loopAt_noteStage _ _ _ _ l).trans (loopAt_modLoop_same hl _ s)
  unfold stagesEnded
  split
  · next hs =>
    obtain ⟨z, g, h5⟩ := loopAt_closeStages hl k y o (noteStage l false a r (modLoop l (fun q => { q with x := r.blk }) s))
    exact ⟨r.blk, z, g, by rw [h5, h4], fun hn => absurd hs hn⟩
  · exact ⟨r.blk, (loopAt s l).z, (loopAt s l).gramp, h4, fun _ => rfl⟩

end

/-! ## The output of a sample -/

/-- Stage 3 in CLOSED, the preset of a loop that is closing, or the output of an open one; st is the STATE. -/
def outStep (l st k : Nat) (closing : Bool) (xb z : Blk) (s : State) : OutStep :=
  if st = 2 then stage3 l xb z k s else if closing then presetStep l xb k s else openStep l z s

section
variable (st k : Nat) (closing : Bool) (xb z : Blk)

theorem LoopMoved.outStep (h : LoopMoved l x s t) : LoopMoved l x s (outStep l st k closing xb z t).s := by
  unfold Machine.outStep
  split
  · exact h.stage3 _ _ _
  · split
    · exact h.presetStep _ _
    · exact h.openStep _

theorem loopAt_outStep (hl : l < 128) (s : State) :
    ∃ r, loopAt (outStep l st k closing xb z s).s l = { loopAt s l with ramp := r } := by
  unfold outStep
  split
  · exact ⟨(loopAt s l).ramp, loopAt_stage3 _ _ _ _ l⟩
  · split
    · exact ⟨(loopAt s l).ramp, loopAt_presetStep _ _ _ l⟩
    · exact loopAt_openStep hl z s

end

/-- A loop whose output has issued. -/
def LoopState.issued (shut : Prop) [Decidable shut] (o : OutStep) (q : LoopState) : LoopState :=
  { q with
    u := (o.u ++ [0, 0]).take 2, z := o.z, closing := false
    ramp := if shut then none else q.ramp
    gramp := if q.closing then some 0 else q.gramp }

/-! ## The stages -/

/-- From q to r loop l, which stood in s, has run a sample. -/
structure SampleRun (s : State) (l : Nat) (q r : LoopState) : Prop where
  k : r.k = (q.k + 1) % max 1 (leRcN s l)
  run : r.run = q.run
  wait : r.wait = q.wait
  picks : r.picks = q.picks
  delays : r.delays = q.delays
  shut : q.closing = true ∨ leState s l = 2 → r.closing = false ∧ r.ramp = none
  held : leState s l = 1 → q.closing = false → q.ramp = none →
    r.z = q.z ∧ r.u = ((clampOut s l (q.u.take (leNu s l))).1 ++ [0, 0]).take 2

/-- A sample closes a loop that is closing, and leaves the STATE of any other. -/
def stateAfter (s : State) (l : Nat) : Nat := if (loopAt s l).closing ∧ leState s l = 1 then 2 else leState s l

theorem stateAfter_shut (hs : leState s l = 1 ∨ leState s l = 2) (h : (loopAt s l).closing = true ∨ leState s l = 2) :
    stateAfter s l = 2 := by
  unfold stateAfter
  split
  · rfl
  · next hn => exact h.elim (fun hc => hs.resolve_left fun h1 => hn ⟨hc, h1⟩) id

theorem stateAfter_eq (hs : leState s l = 1 ∨ leState s l = 2) :
    stateAfter s l = if (loopAt s l).closing then 2 else leState s l := by
  by_cases hc : (loopAt s l).closing = true
  · rw [stateAfter_shut hs (.inl hc), if_pos hc]
  · rw [stateAfter, if_neg fun h => hc h.1, if_neg hc]

theorem leNu_of_settings (h : ∀ a, settingWord l a → reg t a = reg s a) : leNu t l = leNu s l :=
  congrArg (fld · 25 24) (h (Reg.leDim l) (.inr (by simp only [Reg.leDim, Reg.leStatus, Reg.leFlags]; omega)))

theorem leNu_le (s : State) (l : Nat) : leNu s l ≤ 3 := Nat.le_of_lt_succ (fld_lt _ 25 24)

/-- The limits of a loop's outputs are settings. -/
theorem clampOut_of_settings (h : ∀ a, settingWord l a → reg t a = reg s a) {u : List Int} (hu : u.length ≤ 3) :
    clampOut t l u = clampOut s l u := by
  have hlim : ∀ j, j < u.length → uMin t l j = uMin s l j ∧ uMax t l j = uMax s l j := fun j hj => by
    have hr := h (Reg.leUlim l j) (.inr (by simp only [Reg.leUlim, Reg.leStatus, Reg.leFlags]; omega))
    exact ⟨congrArg (fun v => signed 16 (fld v 15 0)) hr, congrArg (fun v => signed 16 (fld v 31 16)) hr⟩
  refine Prod.ext (List.map_congr_left fun e he => ?_) (List.map_congr_left fun e he => ?_) <;>
    obtain ⟨hmin, hmax⟩ := hlim e.1 (List.mem_range.1 (List.of_mem_zip he).1) <;> rw [hmin, hmax]

/-- The stages of a sample, with what they leave of the loop, its settings and the other loops (R280, R295). -/
theorem runSample_outcome (w : s.regs.wf = true) (hl : l < 128) (hy : leNy s l ≤ 2) (hs : leState s l = 1 ∨ leState s l = 2)
    (m : LoopMeas) (ys : List Int) :
    LoopMoved l (stateAfter s l) s (runSample l m ys s) ∧ SampleRun s l (loopAt s l) (loopAt (runSample l m ys s) l) := by
  unfold runSample
  extract_lets at1 nx nu ny sp y yn yb s0 q x a1 e a2 xb s1 i shut o un s2 s3 a4 xn s4 s5 s6
  have m1 : LoopMoved l (leState s l) s s1 :=
    ((((LoopMoved.refl w).forAll _ fun j hj v hv => hv.moveSp ((List.mem_range.1 hj).trans_le hy) at1).noteNorm _ _).noteStage
      _ _ _).noteStage _ _ _
  have hsp : loopAt sp l = loopAt s l := loopAt_of_loops ((keeps_forAll (F := [.regs]) _ _ (fun j _ hv =>
    keeps_moveSp (List.Subset.refl _) l j at1 hv) (.refl _ s)).same (k := .loops) (by decide)) l
  have hq : q = loopAt s l := (loopAt_noteNorm _ _ _ l).trans hsp
  have hclosing : q.closing = (loopAt s l).closing := congrArg LoopState.closing hq
  have h1 : loopAt s1 l = loopAt s l := (loopAt_noteStage _ _ _ _ l).trans ((loopAt_noteStage _ _ _ _ l).trans hq)
  have m2 : LoopMoved l (leState s l) s s2 := ((m1.outStep (leState s l) i q.closing xb.blk q.z).noteNorm _ _).modLoop _
  obtain ⟨r, ho⟩ : ∃ r, loopAt o.s l = { loopAt s l with ramp := r } := h1 ▸ loopAt_outStep _ i q.closing xb.blk q.z hl s1
  have h2 : loopAt s2 l = LoopState.issued shut o (loopAt o.s l) :=
    (loopAt_modLoop_same hl _ _).trans (congrArg (LoopState.issued shut o) (loopAt_noteNorm _ _ _ l))
  have m3 : LoopMoved l (stateAfter s l) s s3 := by
    refine LoopMoved.issueOut ?_
    rw [hq, stateAfter]
    split
    · exact m2.setState (by omega)
    · exact m2
  have h3 : loopAt s3 l = loopAt s2 l := by
    refine (loopAt_issueOut _ l).trans ?_
    split
    · exact loopAt_of_loops (setFld_loops _ _ _ _ _) l
    · rfl
  have m5 : LoopMoved l (stateAfter s l) s s5 := m3.stagesEnded i shut y o a4 xn
  obtain ⟨x', z, g, h5, hz⟩ : ∃ x z g, loopAt s5 l = { loopAt s3 l with x := x, z := z, gramp := g } ∧ _ :=
    loopAt_stagesEnded i shut y o a4 xn hl s3
  obtain ⟨good, bad, auto, c, h6, hc⟩ := loopAt_sampleCounted m5 hl (max 1 (leRcN s l)) y
  refine ⟨m5.sampleCounted hl _ y, ?_⟩
  change SampleRun s l (loopAt s l) (loopAt (sampleCounted l (max 1 (leRcN s l)) y s5) l)
  rw [h5] at h6 hc
  rw [h3, h2, ho] at h6 hc hz
  rw [h6]
  refine ⟨rfl, rfl, rfl, rfl, rfl, fun hsh => ⟨?_, if_pos ?_⟩, fun hop hcl hr => ?_⟩
  · exact hc (by rw [stateAfter_shut hs hsh]; omega)
  · exact hsh.symm.imp_right hclosing.trans
  · have hopen : ¬ leState s l = 2 := by omega
    have hcl : ¬ q.closing = true := fun h => absurd (h.symm.trans (hclosing.trans hcl)) nofun
    have hn : ¬ shut := not_or.2 ⟨hopen, hcl⟩
    have hheld : o = openStep l q.z s1 := (if_neg hopen).trans (if_neg hcl)
    refine ⟨(hz hn).trans ?_, ?_⟩
    · change o.z = _
      rw [hheld, ← hq]
      rfl
    · change (o.u ++ [0, 0]).take 2 = _
      rw [hheld, openStep_held (by rw [h1, hr]), h1, leNu_of_settings m1.word,
        clampOut_of_settings m1.word ((List.length_take_le _ _).trans (leNu_le s l))]

/-! ## The delay of a sample (R298) -/

/-- What a sample records of its delay: the word of LEn_DLY, and the list of which the mean is taken. -/
theorem noteDelay_outcome (w : s.regs.wf = true) (hl : l < 128) {d : Nat} (hd : d < 65536) :
    reg (noteDelay l d s) (Reg.leStatus l) = reg s (Reg.leStatus l) ∧
    rfld (noteDelay l d s) (Reg.leDly l) 15 0 = d ∧
    rfld (noteDelay l d s) (Reg.leDly l) 31 16 = max d (rfld s (Reg.leDly l) 31 16) ∧
    loopAt (noteDelay l d s) l = { loopAt s l with delays := (d :: (loopAt s l).delays).take 1024 } ∧
    ∀ k, k ≠ l → loopAt (noteDelay l d s) k = loopAt s k := by
  unfold noteDelay
  extract_lets s1 ds mean s2 s3
  have w1 : s1.regs.wf = true := (modLoop_regs _ _ _).symm ▸ w
  have wd := setFld_wf w1 (Reg.leDly l) 15 0 d
  have w2 : s2.regs.wf = true := setFld_wf wd _ _ _ _
  have w3 : s3.regs.wf = true := setFld_wf w2 _ _ _ _
  have hmax : rfld s (Reg.leDly l) 31 16 < 65536 := fld_lt _ 31 16
  generalize ht : (if rfld s Reg.leDlyThr 15 0 < d then incSat (Reg.leDlyMean l) 31 16 s3 else s3) = t
  have hreg : ∀ a, a ≠ Reg.leDlyMean l → reg t a = reg s2 a := fun a ha => by
    rw [← ht]
    split
    · exact (reg_setFld_ne w3 _ _ _ ha).trans (reg_setFld_ne w2 _ _ _ ha)
    · exact reg_setFld_ne w2 _ _ _ ha
  have hq : t.loops = s1.loops := by
    rw [← ht]
    split <;> rfl
  have hdly : ∀ hi lo, rfld t (Reg.leDly l) hi lo = rfld s2 (Reg.leDly l) hi lo := fun hi lo =>
    congrArg (fld · hi lo) (hreg _ (by simp [Reg.leDly, Reg.leDlyMean]))
  refine ⟨?_, ?_, ?_, (loopAt_of_loops hq l).trans (loopAt_modLoop_same hl _ s), fun k hk =>
    (loopAt_of_loops hq k).trans (loopAt_modLoop_ne hk _ s)⟩
  · have hne : Reg.leStatus l ≠ Reg.leDly l := by simp [Reg.leStatus, Reg.leDly]
    rw [hreg _ (by simp [Reg.leStatus, Reg.leDlyMean]), reg_setFld_ne wd _ _ _ hne, reg_setFld_ne w1 _ _ _ hne, reg_modLoop]
  · rw [hdly, rfld_setFld_out wd _ _ (by omega) (by omega) (by omega) (by omega), rfld_setFld_same w1 _ _ (by omega) (by omega)]
    exact Nat.mod_eq_of_lt hd
  · rw [hdly, rfld_setFld_same wd _ _ (by omega) (by omega)]
    exact Nat.mod_eq_of_lt (by omega)

/-! ## LOOP_SAMPLE -/

/-- A loop whose sample is served: the one that waits takes its place (R279). -/
def LoopState.served (q : LoopState) : LoopState := { q with run := q.wait, wait := none }

theorem loopSample_taken (h0 : leState s l ≠ 0) (hr : loopsRun s = true) {at1 : LinkTime} {m : LoopMeas}
    (hm : dueSample s l at1 = some m) (hn : servedNext s l m = true) (y : List Int) (d : Nat) :
    loopSample l at1 y d s = noteDelay l d (runSample l m y (modLoop l LoopState.served s)) := by
  rw [loopSample, if_neg (not_or.2 ⟨h0, not_not.2 hr⟩), hm]
  exact if_pos hn

theorem loopSample_same {at1 : LinkTime} (h : leState s l = 0 ∨ dueSample s l at1 = none ∨
    ∃ m, dueSample s l at1 = some m ∧ servedNext s l m = false) (y : List Int) (d : Nat) : loopSample l at1 y d s = s := by
  unfold loopSample
  split
  · rfl
  · next h0 =>
    rcases h with h | h | ⟨m, hm, hn⟩
    · exact absurd (.inl h) h0
    · rw [h]
    · rw [hm]
      exact if_neg (hn ▸ Bool.false_ne_true)

/-- Only the loops are otherwise once a loop has changed. -/
theorem modLoop_eq (hl : l < 128) (f : LoopState → LoopState) (s : State) : ∃ v, modLoop l f s = { s with loops := v } :=
  ⟨_, dif_pos hl⟩

/-- A sample runs as it would in a state whose loops stood otherwise, but for the loop's own record. -/
theorem SampleRun.of_loops {v : Vector LoopState 128} {q r : LoopState} (h : SampleRun { s with loops := v } l q r) :
    SampleRun s l q r := ⟨h.k, h.run, h.wait, h.picks, h.delays, h.shut, h.held⟩

/-- The sample that is served: what it leaves of loop l, its STATE and the other loops. -/
theorem servedSample_outcome (w : s.regs.wf = true) (hl : l < 128) (hy : leNy s l ≤ 2) (hs : leState s l = 1 ∨ leState s l = 2)
    (m : LoopMeas) (ys : List Int) : LoopMoved l (stateAfter s l) s (runSample l m ys (modLoop l LoopState.served s)) ∧
      SampleRun s l (loopAt s l).served (loopAt (runSample l m ys (modLoop l LoopState.served s)) l) := by
  have hq := loopAt_modLoop_same hl LoopState.served s
  have hothers : ∀ k, k ≠ l → loopAt (modLoop l LoopState.served s) k = loopAt s k := fun k hk => loopAt_modLoop_ne hk _ s
  obtain ⟨v, hv⟩ := modLoop_eq hl LoopState.served s
  rw [hv] at hq hothers ⊢
  obtain ⟨⟨wf, word, state, others⟩, hrun⟩ := runSample_outcome (s := { s with loops := v }) w hl hy hs m ys
  have hst : stateAfter { s with loops := v } l = stateAfter s l := by
    rw [stateAfter, hq]
    rfl
  rw [hq] at hrun
  exact ⟨⟨wf, word, state.trans hst, fun k hk => (others k hk).trans (hothers k hk)⟩, hrun.of_loops⟩

end Sys2Proof.Machine
end

section
/-! PROOFS. The axis tracker of a loop and its drive samples (R277, R282, R283). -/

set_option Elab.async false

namespace Sys2Proof.Machine

variable {s t : State} {l x : Nat}

/-! ## The axis tracker (R282) -/

theorem trackerUpdate_other {at0 : LinkTime} {th : BitVec 16} (h : (loopAt s l).picks.head? ≠ some (at0, th)) :
    trackerUpdate l at0 th s = s := by
  unfold trackerUpdate
  dsimp only
  split
  · rfl
  · next x xs hp =>
    refine if_pos (.inl fun hx => h ?_)
    rw [hp, hx, List.head?_cons]

/-- A loop whose tracker has taken its oldest pickoff. -/
def LoopState.picked (more : List (LinkTime × BitVec 16)) (q : LoopState) : LoopState := { q with picks := more }

theorem trackerUpdate_taken (h1 : leSrc s l = 1) (h0 : leState s l ≠ 0) (hr : loopsRun s = true) (ht : (loopAt s l).trk.run = true)
    {at0 : LinkTime} {th : BitVec 16} {more : List (LinkTime × BitVec 16)} (hp : (loopAt s l).picks = (at0, th) :: more) :
    trackerUpdate l at0 th s = trackerStep l at0 th (modLoop l (LoopState.picked more) s) := by
  unfold trackerUpdate
  dsimp only
  rw [hp]
  exact if_neg (by simp [h1, h0, hr, ht])

/-- The tracker of loop l after a pickoff sample. -/
def trackNext (s : State) (l : Nat) (at0 : LinkTime) (th : BitVec 16) : Tracker :=
  trackStep (rfld s (Reg.leTrk l) 31 16) (rfld s (Reg.leTrk l) 15 0) (rfld s (Reg.leTrk2 l) 31 16) (rfld s (Reg.leTrk2 l) 15 0)
    (rbit s (Reg.leStatus l) 3) at0 th.toInt (loopAt s l).trk

/-- That tracker is locked; the first sample after a start gives its time alone. -/
def trackNextLocked (s : State) (l : Nat) (at0 : LinkTime) (th : BitVec 16) : Bool :=
  (loopAt s l).trk.last.isSome && trackLocked (rfld s (Reg.leTrkLock l) 23 0) (rbit s (Reg.leStatus l) 3) (trackNext s l at0 th)

/-- Loop l with its tracker moved and the lock shown. -/
def trackMoved (l : Nat) (at0 : LinkTime) (th : BitVec 16) (s : State) : State :=
  setBit (Reg.leStatus l) 3 (trackNextLocked s l at0 th) (modLoop l (fun q => { q with trk := trackNext s l at0 th }) s)

/-- A tracker that has moved hands its estimate over, has no slot to hand it to, or the loop loses lock. -/
theorem trackerStep_cases (l : Nat) (at0 : LinkTime) (th : BitVec 16) (s : State) :
    (∃ n, trackerStep l at0 th s =
      handEstimate l n (loopAt s l).trk (modLoop l (fun q => { q with estT := s.linkTime }) (trackMoved l at0 th s))) ∨
    trackerStep l at0 th s = trackMoved l at0 th s ∨ trackerStep l at0 th s = loseLock l (trackMoved l at0 th s) := by
  unfold trackerStep
  extract_lets q was g k on s1
  split
  · split
    · next n _ => exact .inl ⟨n, rfl⟩
    · exact .inr (.inl rfl)
  · exact .inr (.inr rfl)

/-- The loss of lock leaves what LEn_STATUS shows of the tracker. -/
theorem rbit_loseLock_tracker (w : s.regs.wf = true) (hl : l < 128) :
    rbit (loseLock l s) (Reg.leStatus l) 3 = rbit s (Reg.leStatus l) 3 := by
  cases hb : rbit s (Reg.leStatus l) 4 with
  | false => rw [loseLock_unlocked hb, rbit, reg_modLoop, ← rbit]
  | true =>
    have w1 : (modLoop l lockCountCleared s).regs.wf = true := (modLoop_regs _ _ _).symm ▸ w
    have hcleared : rbit (lockCleared l s) (Reg.leStatus l) 3 = rbit s (Reg.leStatus l) 3 := by
      rw [rbit, lockCleared, setBit, reg_setFld_ne (setBit_wf w1 _ _ _) _ _ _ (by simp [Reg.leStatus, Reg.leFlags]), ← rbit,
        rbit_setBit_ne w1 _ _ (by omega) (by omega), rbit, reg_modLoop, ← rbit]
    rcases loseLock_locked hb with e | ⟨n, hn, e⟩
    · rw [e, hcleared]
    · rw [e, rbit, (pickoffLost_leStatus (lockCleared_outcome w l).1 hn hl).2, ← rbit, hcleared]

/-- One update of a tracker: the tracker itself, the lock shown, and what it leaves. -/
theorem trackerStep_outcome (w : s.regs.wf = true) (hl : l < 128) (at0 : LinkTime) (th : BitVec 16) :
    LoopMoved l (leState s l) s (trackerStep l at0 th s) ∧
    rbit (trackerStep l at0 th s) (Reg.leStatus l) 3 = trackNextLocked s l at0 th ∧
    (loopAt (trackerStep l at0 th s) l).trk = trackNext s l at0 th ∧
    (loopAt (trackerStep l at0 th s) l).picks = (loopAt s l).picks := by
  have hm : LoopMoved l (leState s l) s (trackMoved l at0 th s) :=
    ((LoopMoved.refl w).modLoop _).setStatus (hi := 3) (lo := 3) (by omega) (by omega) (by omega) _
  have hbit : rbit (trackMoved l at0 th s) (Reg.leStatus l) 3 = trackNextLocked s l at0 th :=
    rbit_setBit_same ((modLoop_regs _ _ _).symm ▸ w) _ _ (by omega)
  have hq : loopAt (trackMoved l at0 th s) l = { loopAt s l with trk := trackNext s l at0 th } :=
    (loopAt_of_loops (setBit_loops _ _ _ _) l).trans (loopAt_modLoop_same hl _ s)
  rcases trackerStep_cases l at0 th s with ⟨n, e⟩ | e | e <;> rw [e]
  · have he := hm.modLoop fun q => { q with estT := s.linkTime }
    have hk := keeps_handEstimate (List.Subset.refl _) l n (loopAt s l).trk
      (.refl _ (modLoop l (fun q => { q with estT := s.linkTime }) (trackMoved l at0 th s)))
    have hregs := hk.same (k := .regs) (by decide)
    have hloops := hk.same (k := .loops) (by decide)
    refine ⟨he.ofSame hregs hloops, ?_, ?_⟩
    · rw [rbit, reg, hregs, modLoop_regs, ← reg, ← rbit, hbit]
    · rw [loopAt_of_loops hloops, loopAt_modLoop_same hl, hq]
      exact ⟨rfl, rfl⟩
  · rw [hq]
    exact ⟨hm, hbit, rfl, rfl⟩
  · rw [loopAt_loseLock hl, hq]
    exact ⟨hm.loseLock hl, (rbit_loseLock_tracker hm.wf hl).trans hbit, rfl, rfl⟩

/-- The oldest pickoff is taken, and the tracker moves from what the loop held. -/
theorem pickedStep_outcome (w : s.regs.wf = true) (hl : l < 128) (more : List (LinkTime × BitVec 16)) (at0 : LinkTime) (th : BitVec 16) :
    LoopMoved l (leState s l) s (trackerStep l at0 th (modLoop l (LoopState.picked more) s)) ∧
    rbit (trackerStep l at0 th (modLoop l (LoopState.picked more) s)) (Reg.leStatus l) 3 = trackNextLocked s l at0 th ∧
    (loopAt (trackerStep l at0 th (modLoop l (LoopState.picked more) s)) l).trk = trackNext s l at0 th ∧
    (loopAt (trackerStep l at0 th (modLoop l (LoopState.picked more) s)) l).picks = more := by
  have hq := loopAt_modLoop_same hl (LoopState.picked more) s
  have hothers : ∀ k, k ≠ l → loopAt (modLoop l (LoopState.picked more) s) k = loopAt s k := fun k hk => loopAt_modLoop_ne hk _ s
  obtain ⟨v, hv⟩ := modLoop_eq hl (LoopState.picked more) s
  rw [hv] at hq hothers ⊢
  obtain ⟨⟨wf, word, state, others⟩, hbit, htrk, hpicks⟩ := trackerStep_outcome (s := { s with loops := v }) w hl at0 th
  have hnext : trackNext { s with loops := v } l at0 th = trackNext s l at0 th := by
    rw [trackNext, hq]
    rfl
  refine ⟨⟨wf, word, state, fun k hk => (others k hk).trans (hothers k hk)⟩, hbit.trans ?_, htrk.trans hnext, ?_⟩
  · rw [trackNextLocked, hnext, hq]
    rfl
  · rw [hpicks, hq]
    rfl

theorem trackNext_first {at0 : LinkTime} {th : BitVec 16} (h : (loopAt s l).trk.last = none) :
    trackNext s l at0 th = { (loopAt s l).trk with last := some at0 } := by
  rw [trackNext, trackStep, h]

theorem trackNextLocked_first {at0 : LinkTime} {th : BitVec 16} (h : (loopAt s l).trk.last = none) :
    trackNextLocked s l at0 th = false := by
  rw [trackNextLocked, h]
  rfl

theorem trackNextLocked_later {at0 t0 : LinkTime} {th : BitVec 16} (h : (loopAt s l).trk.last = some t0) :
    trackNextLocked s l at0 th =
      trackLocked (rfld s (Reg.leTrkLock l) 23 0) (rbit s (Reg.leStatus l) 3) (trackNext s l at0 th) := by
  rw [trackNextLocked, h]
  rfl

/-! ## Drive samples (R277, R283) -/

theorem driveSample_eq (h0 : leState s l ≠ 0) (hres : leResonant s l = true) (hr : loopsRun s = true) :
    driveSample l s = sendOut l (driveTime s l) (driveValue s l) s := by
  have htime : driveTime s l = (if (refPhase s l s.linkTime).2 = 0 then (now s : Int) * 16 else (now s : Int) * 16 +
      divHalfUp ((drivePhase s l - (refPhase s l s.linkTime).1) * 2 ^ 16 * 16) (refPhase s l s.linkTime).2).toNat := by
    unfold driveTime
    split
    · omega
    · rfl
  rw [htime, driveSample, if_neg (by simp [h0, hres, hr])]
  rfl

theorem sendOut_packet {kind : Nat} (hk : kind < 2) (hd : leDst s l = kind + 1) (hb : portBound s (leDport s l) = true) (t16 : Nat)
    (v : Int) : sendOut l t16 v s =
      sendPkt (leDport s l) (.axis (ts40 t16) kind (leDidx s l) (BitVec.ofInt 16 v)) s := by
  unfold sendOut
  rw [hd]
  interval_cases kind <;> exact if_pos hb

theorem sendOut_duty (hd : leDst s l = 3) (t16 : Nat) (v : Int) : sendOut l t16 v s =
    { s with power := { s.power with duty := s.power.duty.set (leDidx s l) v.toNat } } := by
  unfold sendOut
  rw [hd]
  rfl

/-! ## The statement -/

/-- Settles O44: the sample that is served runs its stages, any other changes nothing; a tracker takes its oldest pickoff alone; a
drive sample goes to its destination. That k advances at every sample, whatever LEn_RC says of it, is the model's choice (log entry
62). -/
theorem loopSamples : Obligations.LoopSamples := by
  intro s l w hr
  obtain ⟨wr, -⟩ := State.wf_iff.1 w
  have hl := l.isLt
  refine ⟨fun at1 y0 y1 d m hy hs hm hn => ?_, fun at1 y0 y1 d h => congrArg Host.Outcome.next (loopSample_same h _ _),
    fun at0 th more h1 h0 ht hp => ⟨fun hlast => ?_, fun t0 k hlast hk => ?_⟩,
    fun at0 th h => congrArg Host.Outcome.next (trackerUpdate_other h), fun h0 hres => ⟨fun kind hd hk hb => ?_, fun hd => ?_⟩⟩
  · obtain ⟨hmoved, hrun⟩ := servedSample_outcome wr hl hy hs m [y0.toInt, y1.toInt]
    obtain ⟨hstat, hlast, hmax, hq, hothers⟩ := noteDelay_outcome hmoved.wf hl d.isLt
    have hdly : rfld _ (Reg.leDly l.val) 31 16 = rfld s (Reg.leDly l.val) 31 16 := congrArg (fld · 31 16) (hmoved.word _ (.inl rfl))
    refine ⟨_, congrArg Host.Outcome.next (loopSample_taken (by omega) hr hm hn _ _),
      (leState_of_reg hstat).trans (hmoved.state.trans (stateAfter_eq hs)), ?_, ?_, ?_, ?_, ?_, ?_, ?_, hlast,
      hmax.trans (by rw [hdly]), fun k hk => (hothers k hk).trans (hmoved.others k hk)⟩ <;> rw [hq]
    exacts [hrun.shut, hrun.held, hrun.k, hrun.wait, hrun.run, hrun.picks, by rw [hrun.delays]; rfl]
  · obtain ⟨hmoved, hbit, htrk, hpicks⟩ := pickedStep_outcome wr hl more at0 th
    exact ⟨_, congrArg Host.Outcome.next (trackerUpdate_taken h1 h0 hr ht hp), htrk.trans (trackNext_first hlast), hpicks,
      hbit.trans (trackNextLocked_first hlast), hmoved.state, hmoved.others⟩
  · obtain ⟨hmoved, hbit, htrk, hpicks⟩ := pickedStep_outcome wr hl more at0 th
    subst hk
    exact ⟨_, congrArg Host.Outcome.next (trackerUpdate_taken h1 h0 hr ht hp), htrk, hpicks,
      hbit.trans (trackNextLocked_later hlast), hmoved.state, hmoved.others⟩
  · exact congrArg Host.Outcome.next ((driveSample_eq h0 hres hr).trans (sendOut_packet hk hd hb _ _))
  · exact congrArg Host.Outcome.next ((driveSample_eq h0 hres hr).trans (sendOut_duty hd _ _))

end Sys2Proof.Machine
end

section
/-! PROOFS. One step of the queue, and the host's window: BAR2 accesses and CAS under the tallies (R359, R361 to R363, R365). -/

set_option Elab.async false

namespace Sys2Proof.Machine

/-- Settles O1: a step runs the front command on the state with the queue's rest, and an empty queue idles. -/
theorem stepRunsFront : Obligations.StepRunsFront := ⟨fun _ _ _ => step_cons rfl, fun _ => step_nil⟩

section
variable {s : State}

/-! ## BAR2 within one block (R361) -/

theorem bar2Write_piece {off : Nat} {bs : List Byte} (h0 : 0 < bs.length) (hb : off % 65536 + bs.length ≤ 65536) (epoch : Nat) :
    bar2Write off epoch bs s = if mayAccess s tHost 0 epoch (off / 65536) then dramWrite off bs s
      else windowErr tHost (off / 65536) (staleRequest s tHost 0 epoch (off / 65536)) s := by
  rw [bar2Write, pieces_one h0 hb, List.foldl_cons, List.foldl_nil, Nat.add_zero, List.drop_zero, List.take_length]

theorem bar2Read_piece {off len : Nat} (h0 : 0 < len) (hb : off % 65536 + len ≤ 65536) (epoch : Nat) :
    bar2Read off len epoch s = if mayAccess s tHost 0 epoch (off / 65536) then (dramRead s off len, s)
      else (List.replicate len 0, windowErr tHost (off / 65536) (staleRequest s tHost 0 epoch (off / 65536)) s) := by
  rw [bar2Read, pieces_one h0 hb, List.foldl_cons, List.foldl_nil, Nat.add_zero, List.nil_append, List.nil_append]

/-- A dropped access sets bit 0 or, from before a seizure, bit 1 of WN_ERR. -/
theorem windowErr_bit (w : s.regs.wf = true) (cls b : Nat) (epoch : Bool) :
    rbit (windowErr cls b epoch s) Reg.wnErr 0 = true ∨ rbit (windowErr cls b epoch s) Reg.wnErr 1 = true := by
  have hn (c : Prop) [Decidable c] (x : Word) : (if c then setReg Reg.wnErrAddr x s else s).regs.wf = true := by
    split
    · exact setReg_wf w _ _
    · exact w
  unfold windowErr
  dsimp only
  cases epoch
  · exact .inl (rbit_setBit_same (setFld_wf (hn _ _) _ _ _ _) _ _ (by omega))
  · exact .inr (rbit_setBit_same (setFld_wf (hn _ _) _ _ _ _) _ _ (by omega))

theorem windowErr_keeps (cls b : Nat) (epoch : Bool) (s : State) : Keeps [.regs] s (windowErr cls b epoch s) :=
  keeps_windowErr (by decide) cls b epoch (.refl _ s)

theorem exec_bar2_write {off : BitVec 28} {len : Nat} (h : off.toNat % 65536 + len ≤ 65536) (hp : powered s = true)
    (epoch : BitVec 16) (bs : List Byte) :
    exec (.bar2Access off len epoch (some bs)) s = .next (bar2Write off.toNat epoch.toNat bs s) := by
  have ho := off.isLt
  have hin : ¬ 2 ^ 28 < off.toNat + len := by omega
  show execBar2Access off len epoch (some bs) s = _
  rw [execBar2Access, if_neg hin, if_neg (not_not.2 hp)]

theorem exec_bar2_read {off : BitVec 28} {len : Nat} (h : off.toNat % 65536 + len ≤ 65536) (hp : powered s = true)
    (epoch : BitVec 16) : exec (.bar2Access off len epoch none) s =
      .next (emit (.read (bar2Read off.toNat len epoch.toNat s).1) (bar2Read off.toNat len epoch.toNat s).2) := by
  have ho := off.isLt
  have hin : ¬ 2 ^ 28 < off.toNat + len := by omega
  show execBar2Access off len epoch none s = _
  rw [execBar2Access, if_neg hin, if_neg (not_not.2 hp)]

/-! ## Compare-and-exchange (R362, R363) -/

/-- The blocks that a GO of `count` from `block` on names. -/
def casBlocks (count block : Nat) : List Nat := (List.range count).map (block + ·)

theorem mem_casBlocks {count block b : Nat} : b ∈ casBlocks count block ↔ block ≤ b ∧ b < block + count := by
  rw [casBlocks, List.mem_map]
  refine ⟨fun ⟨i, hi, he⟩ => ?_, fun ⟨h1, h2⟩ => ⟨b - block, List.mem_range.2 (by omega), by omega⟩⟩
  have := List.mem_range.1 hi
  omega

theorem casBlocks_nodup (count block : Nat) : (casBlocks count block).Nodup :=
  List.nodup_range.map fun _ _ h => Nat.add_left_cancel h

/-- A GO whose range is in the window and whose transition is allowed comes down to the first block that differs from EXP. -/
theorem casGo_allowed {k : Nat} {v : Word} {count block : Nat} (hc : count = fld v 22 16) (hb : block = fld v 11 0) (h1 : 1 ≤ count)
    (h64 : count ≤ 64) (hw : block + count ≤ 4096) (hr : casRule s (reg s (Reg.wnCas k)) (reg s (Reg.wnCas k + 4)) = true) :
    casGo k v s = match (casBlocks count block).find? (fun b => tally s b != reg s (Reg.wnCas k)) with
      | some b => setReg (Reg.wnCas k + 0xC) (at_ 31 16 Status.CAS_MISMATCH.code ||| at_ 11 0 b) s
      | none => setReg (Reg.wnCas k + 0xC) (at_ 31 16 Status.OK.code ||| at_ 11 0 0)
          (forAll (casBlocks count block) (fun b u => setReg (Reg.wnTally b) (casTally s (reg s (Reg.wnCas k + 4))) u) s) := by
  subst hc hb
  unfold casGo
  dsimp only
  rw [if_neg (by omega), if_neg (not_not.2 hr)]
  rfl

theorem casResult_code (c : Status) (first : Nat) : fld (at_ 31 16 c.code ||| at_ 11 0 first) 31 16 = c.code := by
  rw [fld_or, fld_at_same _ (by omega) (by omega), fld_at_out _ (by omega) (by omega) (by omega) (by omega), Nat.or_zero]
  exact Nat.mod_eq_of_lt (Status.code_lt c)

theorem rfld_casResult (w : s.regs.wf = true) (a : Nat) (c : Status) (first : Nat) :
    rfld (setReg a (at_ 31 16 c.code ||| at_ 11 0 first) s) a 31 16 = c.code := by
  rw [rfld, reg_setReg_same w, casResult_code]

theorem wnTally_injective : Function.Injective Reg.wnTally := fun a b h => by
  simp only [Reg.wnTally] at h
  omega

/-- A word of BAR0 outside the tallies of a list of blocks stands as they take a tally. -/
theorem forAll_setTally_ne (w : s.regs.wf = true) (l : List Nat) (x : Word) {a : Nat} (ha : ∀ b ∈ l, a ≠ Reg.wnTally b) :
    (forAll l (fun b u => setReg (Reg.wnTally b) x u) s).regs.wf = true ∧
    reg (forAll l (fun b u => setReg (Reg.wnTally b) x u) s) a = reg s a :=
  List.foldlRecOn (motive := fun u : State => u.regs.wf = true ∧ reg u a = reg s a) l _ ⟨w, rfl⟩ fun _ hu b hb =>
    ⟨setReg_wf hu.1 _ _, (reg_setReg_ne hu.1 _ (ha b hb)).trans hu.2⟩

end

/-- Settles O24: an access within one block comes to one piece, and a GO to its first block that differs. -/
theorem windowAndCas : Obligations.WindowAndCas := by
  intro s w
  obtain ⟨wr, -⟩ := State.wf_iff.1 w
  refine ⟨fun off len epoch bs hp h0 hl hb hm => ⟨?_, ?_⟩, fun off len epoch bs hp h0 hl hb hm => ⟨?_, ?_⟩,
    fun k v count block ho hc hbl h1 h64 hw hr => ⟨fun hall => ?_, fun b hb1 hb2 hne => ?_⟩⟩
  · subst hl
    refine ⟨_, (exec_bar2_write hb hp epoch bs).trans (congrArg _ ((bar2Write_piece h0 hb _).trans (if_pos hm))), rfl,
      fun a hin hoff => ?_, fun a ha => ?_⟩ <;> rw [dramByte_dramWrite]
    · exact if_pos ⟨hin.1, hin.2, hoff⟩
    · exact if_neg fun h => ha ⟨h.1, h.2.1⟩
  · rw [exec_bar2_read hb hp, bar2Read_piece h0 hb, if_pos hm]
  · subst hl
    exact ⟨_, (exec_bar2_write hb hp epoch bs).trans
      (congrArg _ ((bar2Write_piece h0 hb _).trans (if_neg (Bool.eq_false_iff.1 hm)))),
      ((windowErr_keeps ..).same (k := .dram) (by decide)).1, windowErr_bit wr _ _ _⟩
  · refine ⟨_, exec_bar2_read hb hp epoch, ?_⟩
    rw [bar2Read_piece h0 hb, if_neg (Bool.eq_false_iff.1 hm)]
    exact ⟨((windowErr_keeps ..).same (k := .dram) (by decide)).1,
      congrArg (· ++ _) ((windowErr_keeps ..).same (k := .out) (by decide))⟩
  · have hnone : (casBlocks count block).find? (fun b => tally s b != reg s (Reg.wnCas k.val)) = none := by
      refine List.find?_eq_none.2 fun b hb => ?_
      obtain ⟨hb1, hb2⟩ := mem_casBlocks.1 hb
      simp [hall b hb1 hb2]
    have hk := k.isLt
    have hres : ∀ b, Reg.wnCas k.val + 0xC ≠ Reg.wnTally b := fun b => by simp only [Reg.wnCas, Reg.wnTally]; omega
    have wl (a : Nat) (ha : ∀ b ∈ casBlocks count block, a ≠ Reg.wnTally b) :=
      forAll_setTally_ne wr (casBlocks count block) (casTally s (reg s (Reg.wnCas k.val + 4))) ha
    have w1 := (wl _ fun b _ => hres b).1
    refine ⟨_, congrArg Host.Outcome.next ((hostWrite_open ho v (casGo k.val)).trans
      ((casGo_allowed hc hbl h1 h64 hw hr).trans (by rw [hnone]))), rfld_casResult w1 _ _ _, fun b hb1 hb2 => ?_, fun a ha hr => ?_⟩
    · exact (reg_setReg_ne w1 _ (hres b).symm).trans
        (forAll_setReg_mem wr (casBlocks_nodup _ _) (mem_casBlocks.2 ⟨hb1, hb2⟩) (fun _ => _) wnTally_injective)
    · refine (reg_setReg_ne w1 _ ha).trans (wl a fun b hb => ?_).2
      obtain ⟨hb1, hb2⟩ := mem_casBlocks.1 hb
      simp only [Reg.wnTally] at hr ⊢
      omega
  · obtain ⟨x, hx⟩ : ∃ x, (casBlocks count block).find? (fun b => tally s b != reg s (Reg.wnCas k.val)) = some x :=
      Option.isSome_iff_exists.1 (List.find?_isSome.2 ⟨b, mem_casBlocks.2 ⟨hb1, hb2⟩, by simp [hne]⟩)
    refine ⟨_, congrArg Host.Outcome.next ((hostWrite_open ho v (casGo k.val)).trans
      ((casGo_allowed hc hbl h1 h64 hw hr).trans (by rw [hx]))), rfld_casResult wr _ _ _, fun a ha => reg_setReg_ne wr _ ha⟩

end Sys2Proof.Machine
end

section
/-! PROOFS. Containments of a slot through the operations on its light, and the liveness of the host (R367, R464, R465, R467). -/

set_option Elab.async false

namespace Sys2Proof.Machine

/-! ## What leaves the containments -/

/-- From s to t every slot keeps its containments and what it runs of the Cast. -/
def ContainKept (s t : State) : Prop :=
  ∀ n, (slotAt t n).contain = (slotAt s n).contain ∧ cfgOf t n = cfgOf s n

section
variable {s t u : State}

theorem ContainKept.refl (s : State) : ContainKept s s := fun _ => ⟨rfl, rfl⟩

theorem ContainKept.ofSlots (h : ContainKept s t) (he : u.slots = t.slots) : ContainKept s u :=
  fun n => by rw [cfgOf, slotAt, he]; exact h n

theorem ContainKept.keep (h : ContainKept s t) (k : Keeps otherKinds t t → Keeps otherKinds t u) : ContainKept s u :=
  h.ofSlots ((k (.refl _ t)).same (k := .slots) (by decide))

theorem ContainKept.modSlot (h : ContainKept s t) (n : Nat) (f : SlotState → SlotState)
    (hc : ∀ q, (f q).contain = q.contain := by exact fun _ => rfl) (hf : ∀ q, (f q).cfg = q.cfg := by exact fun _ => rfl) :
    ContainKept s (modSlot n f t) := by
  intro k
  rw [cfgOf_modSlot hf]
  refine ⟨?_, (h k).2⟩
  rw [← (h k).1]
  by_cases hk : k = n
  · subst hk
    by_cases h8 : k < 8
    · rw [slotAt_modSlot_same h8, hc]
    · rw [Machine.modSlot, dif_neg h8]
  · rw [slotAt_modSlot_ne hk]

theorem ContainKept.forAll (h : ContainKept s t) (l : List Nat) {f : Nat → State → State}
    (hf : ∀ i u, ContainKept s u → ContainKept s (f i u)) : ContainKept s (forAll l f t) :=
  List.foldlRecOn l _ h fun u hu i _ => hf i u hu

theorem ContainKept.refreshCeil (h : ContainKept s t) (n : Nat) : ContainKept s (refreshCeil n t) := by
  unfold Machine.refreshCeil
  dsimp only
  split
  · exact h
  · refine (h.modSlot _ _).forAll _ fun i u hu => ?_
    split
    · exact hu
    · exact hu.ofSlots rfl

theorem ContainKept.setTarget (h : ContainKept s t) (n d : Nat) : ContainKept s (setTarget n d t) := by
  unfold Machine.setTarget
  split
  · exact h
  · split
    · exact h
    · refine ContainKept.ofSlots (ContainKept.modSlot ?_ n _) rfl
      split
      · exact h.ofSlots rfl
      · exact h

theorem ContainKept.setReg (h : ContainKept s t) (a : Nat) (v : Word) : ContainKept s (setReg a v t) := h.ofSlots rfl

theorem ContainKept.setBit (h : ContainKept s t) (a i : Nat) (b : Bool) : ContainKept s (setBit a i b t) := h.ofSlots rfl

theorem ContainKept.modPort (h : ContainKept s t) (p : Nat) (f : PortState → PortState) : ContainKept s (modPort p f t) :=
  h.ofSlots (modPort_slots p f t)

theorem ContainKept.issueOff (h : ContainKept s t) (p : Nat) (ts : BitVec 40) : ContainKept s (issueOff p ts t) :=
  h.keep (keeps_issueOff (by decide) p ts)

theorem ContainKept.lenDrop (h : ContainKept s t) (p cause : Nat) : ContainKept s (lenDrop p cause t) := by
  unfold Machine.lenDrop
  split
  · have h1 := ((h.setBit Reg.lcLenStat (8 + p) false).setReg (Reg.lcLenCause p) (BitVec.ofNat 32 cause)).issueOff p
    dsimp only
    split
    · next n _ => exact (((((h1 _).modPort p _).modSlot n _).refreshCeil n).modSlot n _ |>.setReg _ _).setTarget n 0
    · exact (h1 _).modPort p _
  · exact h

end

/-! ## Containment (R464) -/

/-- The containments of a slot once a cause contains it. -/
def withContain (cause : ContainCause) (off : Bool) (l : List Containment) : List Containment :=
  if l.any (fun c => c.cause == cause) then
    l.map fun c => if c.cause == cause then { c with off := c.off || off, ending := false } else c
  else l ++ [{ cause := cause, off := off, ending := false }]

theorem mem_withContain (cause : ContainCause) (off : Bool) (l : List Containment) :
    ∃ c ∈ withContain cause off l, c.cause = cause ∧ c.ending = false ∧ (off = true → c.off = true) := by
  rw [withContain]
  split
  case isTrue h =>
    obtain ⟨c, hc, he⟩ := List.any_eq_true.1 h
    exact ⟨_, List.mem_map_of_mem hc, by rw [if_pos he]; exact beq_iff_eq.1 he, by rw [if_pos he],
      fun ho => by rw [if_pos he, ho, Bool.or_true]⟩
  case isFalse h =>
    exact ⟨_, List.mem_append_right _ (List.mem_singleton.2 rfl), rfl, rfl, id⟩

section
variable {s : State} {n : Nat}

/-- Slot n with one more cause of containment. -/
def addContain (n : Nat) (cause : ContainCause) (off : Bool) (s : State) : State :=
  modSlot n (fun q => { q with contain := withContain cause off q.contain }) s

theorem cfgOf_addContain (s : State) (n k : Nat) (cause : ContainCause) (off : Bool) :
    cfgOf (addContain n cause off s) k = cfgOf s k := by
  rw [addContain, cfgOf_modSlot]
  exact fun _ => rfl

theorem containSlot_declared (h : declared s n = true) (cause : ContainCause) (off : Bool) :
    containSlot n cause off s = if off then
        refreshCeil n (lenDrop (portOf s n) 5 (showContain (addContain n cause off s)))
      else showContain (addContain n cause off s) := if_neg (by simp [h])

theorem containSlot_kept (h : declared s n = true) (cause : ContainCause) (off : Bool) :
    ContainKept (addContain n cause off s) (containSlot n cause off s) := by
  have hs : ContainKept (addContain n cause off s) (showContain (addContain n cause off s)) := (ContainKept.refl _).ofSlots rfl
  rw [containSlot_declared h]
  split
  · exact (hs.lenDrop _ 5).refreshCeil n
  · exact hs

theorem declared_lt (h : declared s n = true) : n < 8 := by
  obtain ⟨c, hc⟩ := Option.isSome_iff_exists.1 h
  exact lt_of_cfg hc

/-- A declared slot that is contained holds a containment of the cause that does not end, off where it is asked for. -/
theorem containSlot_contains (h : declared s n = true) (cause : ContainCause) (off : Bool) :
    ∃ c ∈ (slotAt (containSlot n cause off s) n).contain, c.cause = cause ∧ c.ending = false ∧ (off = true → c.off = true) := by
  obtain ⟨hc, -⟩ := containSlot_kept h cause off n
  rw [hc, addContain, slotAt_modSlot_same (declared_lt h)]
  exact mem_withContain cause off _

theorem containSlot_undeclared (h : declared s n = false) (cause : ContainCause) (off : Bool) : containSlot n cause off s = s :=
  if_pos (by simp [h])

theorem cfgOf_containSlot (s : State) (n k : Nat) (cause : ContainCause) (off : Bool) :
    cfgOf (containSlot n cause off s) k = cfgOf s k := by
  cases h : declared s n with
  | false => rw [containSlot_undeclared h]
  | true => rw [(containSlot_kept h cause off k).2, cfgOf_addContain]

theorem contain_containSlot_ne {k : Nat} (hk : k ≠ n) (cause : ContainCause) (off : Bool) :
    (slotAt (containSlot n cause off s) k).contain = (slotAt s k).contain := by
  cases h : declared s n with
  | false => rw [containSlot_undeclared h]
  | true => rw [(containSlot_kept h cause off k).1, addContain, slotAt_modSlot_ne hk]

/-- Slot n holds a containment of a cause that does not end. -/
def ContainedFor (cause : ContainCause) (s : State) (n : Nat) : Prop :=
  ∃ c ∈ (slotAt s n).contain, c.cause = cause ∧ c.ending = false

theorem containSlot_for (h : declared s n = true) (cause : ContainCause) (off : Bool) :
    ContainedFor cause (containSlot n cause off s) n := by
  obtain ⟨c, hc, hcause, he, -⟩ := containSlot_contains h cause off
  exact ⟨c, hc, hcause, he⟩

theorem ContainedFor.containSlot {cause : ContainCause} {k : Nat} (h : ContainedFor cause s k) (n : Nat) (off : Bool) :
    ContainedFor cause (containSlot n cause off s) k := by
  cases hd : declared s n with
  | false => rwa [containSlot_undeclared hd]
  | true =>
    by_cases hk : k = n
    · exact hk ▸ containSlot_for hd cause off
    · rwa [ContainedFor, contain_containSlot_ne hk]

/-- Every slot of a list of declared ones is contained by a pass over the list. -/
theorem forAll_containSlot (cause : ContainCause) (off : Nat → State → Bool) {k : Nat} :
    ∀ (l : List Nat) (s : State), declared s k = true → k ∈ l ∨ ContainedFor cause s k →
      ContainedFor cause (forAll l (fun n s => containSlot n cause (off n s) s) s) k
  | [], _, _, h => h.resolve_left List.not_mem_nil
  | n :: l, s, hd, h => by
    refine forAll_containSlot cause off l (containSlot n cause (off n s) s) ?_ ?_
    · rw [declared, cfgOf_containSlot]
      exact hd
    · rcases h with h | h
      · rcases List.mem_cons.1 h with rfl | h
        · exact .inr (containSlot_for hd cause _)
        · exact .inl h
      · exact .inr (h.containSlot n _)

theorem containAll_contains (cause : ContainCause) (h : declared s n = true) : ContainedFor cause (containAll cause s) n :=
  forAll_containSlot cause (fun n s => containsOff s n) _ s h
    (.inl (List.mem_filter.2 ⟨List.mem_range.2 (declared_lt h), h⟩))

/-! ## Grace (R465) -/

theorem startGrace_runs (w : s.regs.wf = true) (q : Party) (hq : graceBit q < 32) :
    rbit (startGrace q s) Reg.frGrace (graceBit q) = true := by
  unfold startGrace
  split
  · assumption
  · exact rbit_setBit_same w _ _ hq

theorem startGrace_slots (q : Party) (s : State) : (startGrace q s).slots = s.slots :=
  (keeps_startGrace (F := [.regs, .fr]) (List.Subset.refl _) q (.refl _ s)).same (k := .slots) (by decide)

theorem startGrace_hostLost (q : Party) (s : State) : (startGrace q s).fr.hostLost = s.fr.hostLost := by
  unfold startGrace
  split <;> rfl

/-! ## The host (R367) -/

/-- What the loss of the host does once it is logged: the condition, the containments, and grace. -/
def hostGone (s : State) : State :=
  startGrace .host (containAll .host { s with fr := { s.fr with hostLost := true } })

theorem hostLost_of_silent (h : hostSilent s = true) (hl : s.fr.hostLost = false) :
    hostLost s = withDim hostGone (logEvent .HOST_LOST clsHost 0 0 s) :=
  if_neg (by simp [h, hl])

theorem hostLost_of_other (h : hostSilent s = false ∨ s.fr.hostLost = true) : hostLost s = s :=
  if_pos (by rcases h with h | h <;> simp [h])

theorem hostGone_contains (h : declared s n = true) : ContainedFor .host (hostGone s) n := by
  rw [ContainedFor, hostGone, slotAt, startGrace_slots]
  exact containAll_contains .host (s := { s with fr := { s.fr with hostLost := true } }) h

theorem hostGone_regs_wf (w : s.wf = true) : (hostGone s).regs.wf = true := by
  have k : Keeps [.regs, .out, .slots, .ports, .fr] s (hostGone s) :=
    keeps_startGrace (by decide) _ (keeps_containAll (by decide) _ ((Keeps.refl _ s).fr (by decide) _))
  exact (State.wf_iff.1 (k.2.2.2.1 w)).1

theorem hostGone_grace (w : s.wf = true) : rbit (hostGone s) Reg.frGrace 12 = true := by
  have k : Keeps [.regs, .out, .slots, .ports, .fr] s (containAll .host { s with fr := { s.fr with hostLost := true } }) :=
    keeps_containAll (by decide) _ ((Keeps.refl _ s).fr (by decide) _)
  exact startGrace_runs (State.wf_iff.1 (k.2.2.2.1 w)).1 .host (by decide)

theorem hostGone_hostLost (s : State) : (hostGone s).fr.hostLost = true := by
  have k := (keeps_containAll (F := [.regs, .out, .slots, .ports]) (List.Subset.refl _) .host
    (.refl _ { s with fr := { s.fr with hostLost := true } })).same (k := .fr) (by decide)
  rw [hostGone, startGrace_hostLost, k]

/-- Host containments are marked to end at their slot's next boundary (R467). -/
def endHostContain (l : List Containment) : List Containment :=
  l.map fun c => if c.cause = .host then { c with ending := true } else c

theorem ending_of_endHostContain {l : List Containment} {c : Containment} (hc : c ∈ endHostContain l) (hh : c.cause = .host) :
    c.ending = true := by
  obtain ⟨x, -, rfl⟩ := List.mem_map.1 hc
  by_cases hx : x.cause = .host
  · rw [if_pos hx]
  · rw [if_neg hx] at hh
    contradiction

theorem aliveKick_lost (v : Word) (h : s.fr.hostLost = true) :
    aliveKick v s = forAll (List.range 8) (fun n => modSlot n fun q => { q with contain := endHostContain q.contain })
      (setBit Reg.frGrace 12 false { s with fr := { s.fr with
        hostLost := false, aliveT := if rfld s Reg.wnAlive 15 0 = 0 then none else some s.linkTime } }) := by
  have hl : (restartAlive s).fr.hostLost = true := h
  unfold aliveKick
  dsimp only
  rw [if_pos hl]
  rfl

theorem aliveKick_heard (v : Word) (h : s.fr.hostLost = false) : aliveKick v s = restartAlive s := by
  have hl : ¬ (restartAlive s).fr.hostLost = true := by simp [restartAlive, h]
  exact if_neg hl

end

theorem forAll_modSlot_mem {n : Nat} (hn : n < 8) (f : SlotState → SlotState) (s : State) :
    slotAt (forAll (List.range 8) (fun i => modSlot i f) s) n = f (slotAt s n) := by
  obtain ⟨u, hu, hlast⟩ := forAll_once (R := fun s u => slotAt u n = slotAt s n) (fun _ => rfl) (fun h k => k.trans h)
    (f := fun i => modSlot i f) (fun i u h => slotAt_modSlot_ne h f u) List.nodup_range (List.mem_range.2 hn) s
  rw [hlast, slotAt_modSlot_same hn, hu]

/-- A pass over the slots alone leaves the registers and every other kind of state. -/
theorem forAll_modSlot_keeps (l : List Nat) (f : SlotState → SlotState) (s : State) :
    Keeps [.slots] s (forAll l (fun i => modSlot i f) s) :=
  keeps_forAll l _ (fun i _ h => keeps_modSlot (List.Subset.refl _) i f h) (.refl _ s)

/-- Settles O25: each command comes to one branch of its operation. -/
theorem hostLiveness : Obligations.HostLiveness := by
  intro s w
  obtain ⟨wr, -⟩ := State.wf_iff.1 w
  refine ⟨fun v ho => ?_, fun ho hl => ?_, fun ho hl => ?_, fun hsil hl => ?_, fun h => congrArg _ (hostLost_of_other h)⟩
  · have hfld : rfld (setReg Reg.wnAlive (v &&& 0xFFFF) s) Reg.wnAlive 15 0 = fld v 15 0 := by
      rw [rfld, reg_setReg_same wr, fld_and]
      have : fld (0xFFFF : Word) 15 0 = 2 ^ 16 - 1 := by decide
      rw [this, Nat.and_two_pow_sub_one_eq_mod]
      exact Nat.mod_eq_of_lt (fld_lt v 15 0)
    refine ⟨_, congrArg Host.Outcome.next (hostWrite_open ho v aliveWrite), hfld, ?_, fun a ha => reg_setReg_ne wr _ ha⟩
    rw [aliveWrite, restartAlive, hfld]
    rfl
  · have hk := forAll_modSlot_keeps (List.range 8) (fun q => { q with contain := endHostContain q.contain })
      (setBit Reg.frGrace 12 false { s with fr := { s.fr with
        hostLost := false, aliveT := if rfld s Reg.wnAlive 15 0 = 0 then none else some s.linkTime } })
    refine ⟨_, congrArg Host.Outcome.next ((hostWrite_open ho 0 aliveKick).trans (aliveKick_lost 0 hl)),
      hk.same (k := .fr) (by decide), ?_, fun n hn c hc hh => ?_⟩
    · have hregs := hk.same (k := .regs) (by decide)
      rw [rbit, reg, show _ = _ from hregs]
      exact rbit_setBit_same (s := { s with fr := _ }) wr _ _ (by omega)
    · rw [forAll_modSlot_mem hn] at hc
      exact ending_of_endHostContain hc hh
  · exact congrArg Host.Outcome.next ((hostWrite_open ho 0 aliveKick).trans (aliveKick_heard 0 hl))
  · have he : exec .hostLost s = .next (withDim hostGone (logEvent .HOST_LOST clsHost 0 0 s)) :=
      congrArg Host.Outcome.next (hostLost_of_silent hsil hl)
    have kl : Keeps [.regs, .out, .fr] s (logEvent .HOST_LOST clsHost 0 0 s) := keeps_logEvent (by decide) _ _ _ _ (.refl _ s)
    have wl := kl.2.2.2.1 w
    have hx := exec_keeps he
    have hfr : (withDim hostGone (logEvent .HOST_LOST clsHost 0 0 s)).fr = (hostGone (logEvent .HOST_LOST clsHost 0 0 s)).fr := by
      rcases withDim_cases hostGone (logEvent .HOST_LOST clsHost 0 0 s) with h | h <;> rw [h]
      exact raiseVec_fr _ _
    refine ⟨_, he, hfr ▸ hostGone_hostLost _, ?_, fun n hd => ?_, hx.same (k := .power) (by decide),
      (hx.same (k := .dram) (by decide)).1⟩
    · rw [rbit, (withDim_regs (hostGone_regs_wf wl)).2 _ (by decide)]
      exact hostGone_grace wl
    · rw [slotAt, withDim_slots]
      refine hostGone_contains (s := logEvent .HOST_LOST clsHost 0 0 s) ?_
      rw [declared, cfgOf, slotAt, show _ = _ from kl.same (k := .slots) (by decide)]
      exact hd

end Sys2Proof.Machine
end

section
/-! PROOFS. The watchdog's registers, PERST#, a limited phase and the phase map (R358, R435, R437, R450, R456, R457). -/

set_option Elab.async false

namespace Sys2Proof.Machine

/-! ## The MSI-X table as PERST# leaves it (R358; log entry 11) -/

/-- The words of the MSI-X table and of its pending bits. -/
def msixWords : List Nat :=
  (List.range 64).flatMap (fun v => [Reg.msixTable + 16 * v, Reg.msixTable + 16 * v + 4, Reg.msixTable + 16 * v + 8,
    Reg.msixTable + 16 * v + 12]) ++ [Reg.msixPba, Reg.msixPba + 4]

/-- What PERST# leaves in them: every entry zero with its mask bit set, and no pending bit. -/
def msixMasked (a : Nat) : Word := if a < Reg.msixPba ∧ a % 16 = 12 then 1 else 0

theorem perst_words : (List.range 64).flatMap (fun v => [(Reg.msixTable + 16 * v, 0#32), (Reg.msixTable + 16 * v + 4, 0#32),
    (Reg.msixTable + 16 * v + 8, 0#32), (Reg.msixTable + 16 * v + 12, 1#32)]) ++ [(Reg.msixPba, 0#32), (Reg.msixPba + 4, 0#32)] =
    msixWords.map fun a => (a, msixMasked a) := by decide +kernel

theorem msixWords_range : ∀ a ∈ msixWords, Reg.msixTable ≤ a ∧ a ≤ Reg.msixPba + 4 := by decide +kernel

theorem msixEntry_words : ∀ k < 64, ∀ i < 4, Reg.msixTable + 16 * k + 4 * i ∈ msixWords ∧
    msixMasked (Reg.msixTable + 16 * k + 4 * i) = if i = 3 then 1 else 0 := by decide +kernel

section
variable {s : State}

theorem reg_perst (w : s.regs.wf = true) (hp : powered s = true) (a : Nat) :
    reg (perst s) a = if a ∈ msixWords then msixMasked a else reg s a := by
  have he : perst s = setRegs (msixWords.map fun a => (a, msixMasked a)) s := by
    rw [← perst_words]
    exact if_neg (not_not.2 hp)
  rw [he, reg, setRegs, SMap.get_setAll_map w, reg]

theorem reg_perst_mem (w : s.regs.wf = true) (hp : powered s = true) {a : Nat} (ha : a ∈ msixWords) :
    reg (perst s) a = msixMasked a := by
  rw [reg_perst w hp, if_pos ha]

theorem reg_perst_entry (w : s.regs.wf = true) (hp : powered s = true) {k : Nat} (hk : k < 64) {i : Nat} (hi : i < 4) :
    reg (perst s) (Reg.msixTable + 16 * k + 4 * i) = if i = 3 then 1 else 0 := by
  obtain ⟨hm, hv⟩ := msixEntry_words k hk i hi
  rw [reg_perst_mem w hp hm, hv]

/-! ## A limited phase (R437) -/

theorem phaseLimit_logged (w : s.regs.wf = true) (h : heatRuns s = true) (ph : Nat) :
    newestLog (phaseLimit ph s) = logWord .PHASE_LIMIT clsSupply (16 + ph) := by
  have he : phaseLimit ph s = raiseVec 0 (logEvent .PHASE_LIMIT clsSupply (16 + ph) ph s) := if_pos h
  rw [he, newestLog_raiseVec (logEvent_regs w _ _ _ _).1, logEvent_newest w]

/-! ## The phase map (R435, R457) -/

/-- Group i of a PM_PHASE_MAP word v names no group, or would move its phase into or out of group 0. -/
def phaseRefused (old v : Word) (i : Nat) : Bool :=
  decide (16 ≤ phaseGroup v i ∧ phaseGroup v i ≤ 30) || (decide (phaseGroup v i = 0) != decide (phaseGroup old i = 0))

theorem phaseRefused_iff (old v : Word) (i : Nat) : phaseRefused old v i = true ↔
    (16 ≤ phaseGroup v i ∧ phaseGroup v i ≤ 30) ∨ ¬ (phaseGroup v i = 0 ↔ phaseGroup old i = 0) := by
  rw [phaseRefused, Bool.or_eq_true, decide_eq_true_eq, bne_iff_ne, ne_eq, decide_eq_decide]

theorem phaseMap_refused (m : Nat) {v : Word} {i : Nat} (hi : i < 4)
    (h : phaseRefused (reg s (Reg.pmPhaseMap m)) v i = true) :
    phaseMap m v s = logAccess .PM_MAP 0 (Reg.pmPhaseMap m) s :=
  if_pos (List.any_eq_true.2 ⟨i, List.mem_range.2 hi, h⟩)

theorem phaseMap_taken (m : Nat) {v : Word} (h : ∀ i < 4, phaseRefused (reg s (Reg.pmPhaseMap m)) v i = false) :
    ∃ x, phaseMap m v s = setReg Reg.pmGrp x (setReg (Reg.pmPhaseMap m) (v &&& 0x1F1F1F1F) s) :=
  ⟨_, if_neg fun ha => by
    obtain ⟨i, hi, hr⟩ := List.any_eq_true.1 ha
    exact Bool.false_ne_true ((h i (List.mem_range.1 hi)).symm.trans hr)⟩

/-! ## The watchdog (R456) -/

theorem wdogWrite_word (w : s.regs.wf = true) (v : Word) :
    rfld (wdogWrite v s) Reg.genWdog 15 0 = max 10 (fld v 15 0) ∧ rbit (wdogWrite v s) Reg.genWdog 31 = bit v 31 := by
  have hlt : fld v 15 0 < 2 ^ 16 := fld_lt v 15 0
  have hr : reg (wdogWrite v s) Reg.genWdog =
      at_ 31 31 (if bit v 31 then 1 else 0) ||| at_ 15 0 (clampN (fld v 15 0) 10 65535) := reg_setReg_same w _ _
  rw [rfld, rbit, hr]
  constructor
  · rw [fld_or, fld_at_out _ (by omega) (by omega) (by omega) (by omega), fld_at_same _ (by omega) (by omega), Nat.zero_or,
      clampN_eq _ (by omega)]
    omega
  · rw [bit_or, bit_at_same (by omega), bit_at_out _ (by omega) (by omega) (by omega), Bool.or_false]

end

theorem pmPhaseMap_not_logArea (m : Fin 4) : ¬ logArea (Reg.pmPhaseMap m.val) := by
  simp only [logArea, Reg.msixPba, Reg.frLogStat, Reg.frFault, Reg.frLog, Reg.pmPhaseMap]
  omega

/-- Settles O16: each command comes to one branch of its operation. What PERST# leaves in the MSI-X table is PRESUMED (log entry
11): R358 gives the table, and its contents after a reset are those of PCI Express. -/
theorem watchdogPerstAndPhases : Obligations.WatchdogPerstAndPhases := by
  intro s w
  obtain ⟨wr, -⟩ := State.wf_iff.1 w
  refine ⟨fun ho => congrArg _ (hostWrite_open ho 0 kickWdog), fun v ho => ?_, fun hp => ?_,
    fun ph h => ⟨_, rfl, phaseLimit_logged wr h ph.val⟩, fun m v ho hg => ?_, fun m v i ho hi hbad => ?_⟩
  · obtain ⟨ht, he⟩ := wdogWrite_word wr v
    exact ⟨_, congrArg Host.Outcome.next (hostWrite_open ho v wdogWrite), rfl, ht, he, fun off hoff => reg_setReg_ne wr _ hoff⟩
  · refine ⟨_, rfl, fun k hk => ⟨reg_perst_entry wr hp hk (i := 0) (by omega), reg_perst_entry wr hp hk (i := 1) (by omega),
      reg_perst_entry wr hp hk (i := 2) (by omega), reg_perst_entry wr hp hk (i := 3) (by omega)⟩,
      reg_perst_mem wr hp (by decide +kernel), reg_perst_mem wr hp (by decide +kernel), fun off ho => ?_⟩
    rw [reg_perst wr hp, if_neg fun hm => ?_]
    have := msixWords_range off hm
    omega
  · obtain ⟨x, hx⟩ := phaseMap_taken (s := s) m.val (v := v) fun i hi => by
      obtain ⟨hr, hz⟩ := hg i hi
      rw [Bool.eq_false_iff, ne_eq, phaseRefused_iff]
      rintro (h | h)
      · omega
      · exact h hz
    have hm : Reg.pmPhaseMap m.val ≠ Reg.pmGrp := by simp only [Reg.pmPhaseMap, Reg.pmGrp]; omega
    refine ⟨_, congrArg Host.Outcome.next ((hostWrite_open ho v (phaseMap m.val)).trans hx), ?_, fun off h1 h2 => ?_⟩
    · rw [reg_setReg_ne (setReg_wf wr _ _) _ hm, reg_setReg_same wr]
    · rw [reg_setReg_ne (setReg_wf wr _ _) _ h2, reg_setReg_ne wr _ h1]
  · have hr := phaseMap_refused (s := s) m.val hi ((phaseRefused_iff _ v i).2 hbad)
    obtain ⟨-, hk⟩ := logAccess_regs wr .PM_MAP 0 (Reg.pmPhaseMap m.val)
    exact ⟨_, congrArg Host.Outcome.next ((hostWrite_open ho v (phaseMap m.val)).trans hr), logAccess_newest wr _ _ _,
      hk _ (pmPhaseMap_not_logArea m), hk _ (by simp [logArea, Reg.msixPba, Reg.frLogStat, Reg.frFault, Reg.frLog, Reg.pmGrp])⟩

end Sys2Proof.Machine
end

section
/-! PROOFS. The memory controller's shared operations: the training helpers as the microcode leaves them, and a PC that fails in
service (R410 to R415, R418). -/

set_option Elab.async false

namespace Sys2Proof.Machine

section
variable {s : State}

/-! ## The training helpers (R418) -/

/-- The registers of the training helpers whose contents the microcode's use leaves open. -/
def helperWords : List Nat :=
  [Reg.mcTrSel, Reg.mcPgCtrl, Reg.mcPgSeed, Reg.mcPgAddr, Reg.mcCmpStat, Reg.mcCmpBits0, Reg.mcCmpBits1]

theorem helpersUsed_regs (w : s.regs.wf = true) :
    (helpersUsed s).regs.wf = true ∧ ∀ a, a ∉ helperWords → reg (helpersUsed s) a = reg s a := by
  refine List.foldlRecOn (motive := fun u : State => u.regs.wf = true ∧ ∀ a, a ∉ helperWords → reg u a = reg s a) _ _
    ⟨w, fun _ _ => rfl⟩ fun u hu e he => ?_
  have hm : e.1 ∈ helperWords := List.mem_map_of_mem (f := Prod.fst) he
  exact ⟨setReg_wf (s := (takeFree u).2) hu.1 _ _, fun a ha =>
    (reg_setReg_ne (s := (takeFree u).2) hu.1 _ fun h : a = e.1 => ha (h ▸ hm)).trans (hu.2 a ha)⟩

theorem helpersUsed_keeps (s : State) : Keeps [.regs, .freeCount] s (helpersUsed s) :=
  keeps_helpersUsed (List.Subset.refl _) (.refl _ s)

@[simp] theorem helpersUsed_mc (s : State) : (helpersUsed s).mc = s.mc := (helpersUsed_keeps s).same (k := .mc) (by decide)

/-! ## A PC fails in service (R413) -/

/-- The controller once PC pc has failed: its gather window is abandoned. -/
def DramState.withFailed (m : DramState) (pc : Nat) : DramState :=
  { m with gather := if m.gather = some pc then none else m.gather, failed := m.failed ||| (1#16 <<< pc) }

theorem dramDead_mc (s : State) : (dramDead s).mc = s.mc :=
  (keeps_dramDead (F := [.regs, .out, .slots, .ports, .fr]) (List.Subset.refl _) (.refl _ s)).same (k := .mc) (by decide)

theorem containAll_mc (cause : ContainCause) (s : State) : (containAll cause s).mc = s.mc :=
  (keeps_containAll (F := [.regs, .out, .slots, .ports]) (List.Subset.refl _) cause (.refl _ s)).same (k := .mc) (by decide)

theorem withDim_mc (f : State → State) (s : State) : (withDim f s).mc = (f s).mc := by
  rcases withDim_cases f s with h | h <;> rw [h]
  exact raiseVec_mc _ _

theorem logged_mc (c : Status) (cls id d v : Nat) (s : State) : (raiseVec v (logEvent c cls id d s)).mc = s.mc :=
  (raiseVec_mc _ _).trans ((keeps_logEvent (F := [.regs, .out, .fr]) (List.Subset.refl _) c cls id d (.refl _ s)).same
    (k := .mc) (by decide))

theorem pcFail_mc (pc : Nat) (s : State) :
    (pcFail pc s).mc = if s.mc.failed.getLsbD pc then s.mc else s.mc.withFailed pc := by
  unfold pcFail
  split
  · rfl
  · have h1 := logged_mc .DRAM_CHANNEL clsMemory pc pc 21 s
    dsimp only
    rw [withDim_mc, containAll_mc]
    have h3 (c : Prop) [Decidable c] (a : Nat) (v : Word) (u : State) : (if c then setReg a v u else dramDead u).mc = u.mc := by
      split
      · rfl
      · exact dramDead_mc u
    rw [h3]
    by_cases hg : s.mc.gather = some pc
    · rw [if_pos hg]
      simp only [modMc, endGather, setBit_mc, h1, DramState.withFailed, hg, if_true]
    · rw [if_neg hg]
      simp only [modMc, h1, DramState.withFailed, hg, if_false]

/-- After PC pc has failed, the failed ones are those that had failed before and pc. -/
theorem pcFail_failed {pc p : Nat} (hp : p < 16) :
    (pcFail pc s).mc.failed.getLsbD p = (s.mc.failed.getLsbD p || decide (p = pc)) := by
  rw [pcFail_mc]
  split
  case isTrue h =>
    by_cases hpc : p = pc
    · rw [hpc, h, Bool.true_or]
    · rw [decide_eq_false hpc, Bool.or_false]
  case isFalse =>
    rw [DramState.withFailed, BitVec.getLsbD_or, BitVec.getLsbD_shiftLeft]
    congr 1
    rw [BitVec.getLsbD_one]
    simp only [hp, decide_true, Bool.true_and]
    rw [Bool.eq_iff_iff]
    simp only [Bool.and_eq_true, Bool.not_eq_true', decide_eq_false_iff_not, decide_eq_true_eq]
    omega

theorem pcFail_patRun (pc : Nat) (s : State) : (pcFail pc s).mc.patRun = s.mc.patRun := by
  rw [pcFail_mc]
  split <;> rfl

theorem pcFail_keeps (pc : Nat) (s : State) : Keeps [.regs, .out, .slots, .ports, .fr, .mc] s (pcFail pc s) :=
  keeps_pcFail (List.Subset.refl _) pc (.refl _ s)

/-- Several PCs fail one after the other. -/
theorem forAll_pcFail (l : List Nat) (s : State) :
    (forAll l pcFail s).mc.patRun = s.mc.patRun ∧
    ∀ p < 16, (forAll l pcFail s).mc.failed.getLsbD p = (s.mc.failed.getLsbD p || decide (p ∈ l)) := by
  induction l generalizing s with
  | nil => exact ⟨rfl, fun p _ => by simp [forAll]⟩
  | cons pc l ih =>
    obtain ⟨hr, hf⟩ := ih (pcFail pc s)
    refine ⟨hr.trans (pcFail_patRun pc s), fun p hp => (hf p hp).trans ?_⟩
    rw [pcFail_failed hp, Bool.or_assoc]
    congr 1
    rw [Bool.eq_iff_iff]
    simp [List.mem_cons]

end

end Sys2Proof.Machine
end

section
/-! PROOFS. The mailbox: a request at the doorbell, and the response of each command (R368, R369, R371, R411, R472). -/

set_option Elab.async false

namespace Sys2Proof.Machine

/-! ## Bytes and words -/

theorem leNat_append (a b : List Byte) : leNat (a ++ b) = leNat a + 256 ^ a.length * leNat b := by
  induction a with
  | nil => simp [leNat]
  | cons x a ih =>
    rw [List.cons_append, leNat, ih, leNat, List.length_cons, pow_succ']
    ring

/-- The header of a response (R369): command and sequence number, length of the payload, status, and RET. -/
def mailHeader (cmd seq len c ret : Nat) : List Byte :=
  leBytes 2 (cmd % 32768 + 32768) ++ leBytes 2 seq ++ leBytes 4 len ++ leBytes 2 c ++ leBytes 2 0 ++ leBytes 4 ret

theorem mailHeader_length (cmd seq len c ret : Nat) : (mailHeader cmd seq len c ret).length = 16 := by
  simp [mailHeader]

/-- Four bytes at offset o of a list that goes on past them. -/
theorem leAt_of_append {a b r : List Byte} {o n : Nat} (ha : a.length = o) (hb : b.length = n) :
    leAt (a ++ (b ++ r)) o n = leNat b := by
  rw [leAt, ← ha, List.drop_left, ← hb, List.take_left]

theorem mailHeader_word0 (cmd seq len c ret : Nat) (payload : List Byte) :
    leAt (mailHeader cmd seq len c ret ++ payload) 0 4 = cmd % 32768 + 32768 + seq % 65536 * 65536 := by
  have h := leAt_of_append (a := []) (b := leBytes 2 (cmd % 32768 + 32768) ++ leBytes 2 seq)
    (r := leBytes 4 len ++ leBytes 2 c ++ leBytes 2 0 ++ leBytes 4 ret ++ payload) (o := 0) (n := 4) rfl (by simp)
  simp only [mailHeader, List.nil_append, List.append_assoc] at h ⊢
  rw [h, leNat_append, leNat_leBytes, leNat_leBytes, leBytes_length]
  omega

theorem mailHeader_word2 (cmd seq len c ret : Nat) (payload : List Byte) :
    leAt (mailHeader cmd seq len c ret ++ payload) 8 4 = c % 65536 := by
  have h := leAt_of_append (a := leBytes 2 (cmd % 32768 + 32768) ++ leBytes 2 seq ++ leBytes 4 len)
    (b := leBytes 2 c ++ leBytes 2 0) (r := leBytes 4 ret ++ payload) (o := 8) (n := 4) (by simp) (by simp)
  simp only [mailHeader, List.append_assoc] at h ⊢
  rw [h, leNat_append, leNat_leBytes, leNat_leBytes, leBytes_length]
  omega

theorem mailHeader_word3 (cmd seq len c ret : Nat) (payload : List Byte) :
    leAt (mailHeader cmd seq len c ret ++ payload) 12 4 = ret % 2 ^ 32 := by
  have h := leAt_of_append (a := leBytes 2 (cmd % 32768 + 32768) ++ leBytes 2 seq ++ leBytes 4 len ++ leBytes 2 c ++ leBytes 2 0)
    (b := leBytes 4 ret) (r := payload) (o := 12) (n := 4) (by simp) (by simp)
  simp only [mailHeader, List.append_assoc] at h ⊢
  rw [h, leNat_leBytes]
  omega

section
variable {s u : State}

/-- Word i of bytes stored in the mailbox. -/
theorem get_bar4Store (w : s.bar4.wf = true) (o : Nat) {bs : List Byte} {i : Nat} (hi : 4 * i < bs.length) :
    (bar4Store o bs s).bar4.get (o + 4 * i) = BitVec.ofNat 32 (leAt bs (4 * i) 4) := by
  have hl : (List.range (ceilDiv bs.length 4)).map (fun i => (o + 4 * i, BitVec.ofNat 32 (leAt bs (4 * i) 4))) =
      ((List.range (ceilDiv bs.length 4)).map (o + 4 * ·)).map fun a => (a, BitVec.ofNat 32 (leAt bs (a - o) 4)) := by
    rw [List.map_map]
    exact List.map_congr_left fun i _ => by simp
  have hm : o + 4 * i ∈ (List.range (ceilDiv bs.length 4)).map (o + 4 * ·) :=
    List.mem_map.2 ⟨i, List.mem_range.2 (by rw [ceilDiv]; omega), rfl⟩
  rw [bar4Store, hl]
  dsimp only
  rw [SMap.get_setAll_map w, if_pos hm, Nat.add_sub_cancel_left]

/-! ## Responses (R369) -/

theorem mailAnswer_bar4 (c ret : Nat) (payload : List Byte) (s : State) :
    (mailAnswer c ret payload s).bar4 =
      (bar4Store 0x8000 (mailHeader s.mail.cmd s.mail.seq payload.length c ret ++ payload) s).bar4 := by
  unfold mailAnswer
  dsimp only
  rw [raiseVec_bar4]
  rfl

theorem mailAnswer_free (w : s.regs.wf = true) (c ret : Nat) (payload : List Byte) :
    rbit (mailAnswer c ret payload s) Reg.mbStatus 0 = false ∧ rbit (mailAnswer c ret payload s) Reg.mbStatus 2 = false := by
  unfold mailAnswer
  extract_lets m words s1 s2
  have wa : (setFld Reg.mbStatus 31 16 c s1).regs.wf = true := setFld_wf w _ _ _ _
  have wb : (setBit Reg.mbStatus 0 false (setFld Reg.mbStatus 31 16 c s1)).regs.wf = true := setFld_wf wa _ _ _ _
  have w2 : s2.regs.wf = true := setFld_wf wb _ _ _ _
  obtain ⟨-, hv⟩ := raiseVec_regs w2 23
  rw [rbit, rbit, hv _ (by decide), ← rbit, ← rbit]
  exact ⟨(rbit_setBit_ne wb _ _ (by decide) (by decide)).trans (rbit_setBit_same wa _ _ (by decide)),
    rbit_setBit_same wb _ _ (by decide)⟩

/-- A response leaves the mailbox answered for the request that its state holds. -/
theorem mailRespond_answered (w : u.wf = true) (hc : u.mail.cmd = s.mail.cmd) (hs : u.mail.seq = s.mail.seq) (c : Status)
    (ret : Nat) (payload : List Byte) : MailAnswered s (mailRespond c ret payload u) c ret := by
  obtain ⟨wr, -, -, wb⟩ := State.wf_iff.1 w
  obtain ⟨-, hcode, -⟩ := mailAnswer_regs wr (Status.code_lt c) ret payload
  obtain ⟨h0, h2⟩ := mailAnswer_free wr c.code ret payload
  have hlen : 16 ≤ (mailHeader u.mail.cmd u.mail.seq payload.length c.code ret ++ payload).length := by
    rw [List.length_append, mailHeader_length]
    omega
  have hword (i : Nat) (hi : i < 4) : ((mailRespond c ret payload u).bar4.get (0x8000 + 4 * i)).toNat =
      leAt (mailHeader s.mail.cmd s.mail.seq payload.length c.code ret ++ payload) (4 * i) 4 % 2 ^ 32 := by
    rw [mailRespond, mailAnswer_bar4, get_bar4Store wb _ (by omega), hc, hs, BitVec.toNat_ofNat]
  have hcl := Status.code_lt c
  refine ⟨hcode, h0, h2, ?_, ?_, ?_⟩
  · rw [hword 2 (by omega), mailHeader_word2]
    omega
  · rw [hword 3 (by omega), mailHeader_word3]
    omega
  · rw [hword 0 (by omega), mailHeader_word0]
    omega

theorem mailRespond_regs (w : s.regs.wf = true) (c : Status) (ret : Nat) (payload : List Byte) :
    ∀ a, a ≠ Reg.mbStatus → a ≠ Reg.msixPba → reg (mailRespond c ret payload s) a = reg s a :=
  (mailAnswer_regs w (Status.code_lt c) ret payload).2.2

/-! ## The doorbell (R369) -/

/-- The request taken, with the mailbox BUSY and locked. -/
def requestTaken (s : State) : State :=
  setBit Reg.mbStatus 2 true (setBit Reg.mbStatus 0 true { s with mail := { s.mail with
    cmd := leNat (bar4Bytes s 0 2), seq := leNat (bar4Bytes s 2 2), arg0 := leNat (bar4Bytes s 8 4), arg1 := leNat (bar4Bytes s 12 4)
    payload := bar4Bytes s 16 (min (leNat (bar4Bytes s 4 4)) 32752), lockT := s.linkTime } })

theorem doorbell_taken {v : Word} (hb : rbit s Reg.mbStatus 0 = false) (hs : leNat (bar4Bytes s 2 2) = fld v 15 0)
    (hl : leNat (bar4Bytes s 4 4) ≤ 32752) (hc : mailKnown (leNat (bar4Bytes s 0 2)) = true) :
    doorbell v s = requestTaken s := by
  unfold doorbell
  dsimp only
  rw [if_neg (Bool.eq_false_iff.1 hb), if_neg (by omega), if_neg (not_not.2 hc)]
  rfl

theorem requestTaken_status (w : s.regs.wf = true) :
    rbit (requestTaken s) Reg.mbStatus 0 = true ∧ rbit (requestTaken s) Reg.mbStatus 2 = true := by
  rw [requestTaken]
  have w1 (i : Nat) (m : MailState) : (setBit Reg.mbStatus i true { s with mail := m }).regs.wf = true :=
    setBit_wf (s := { s with mail := m }) w _ _ _
  exact ⟨(rbit_setBit_ne (w1 0 _) _ _ (by decide) (by decide)).trans (rbit_setBit_same (s := { s with mail := _ }) w _ _ (by decide)),
    rbit_setBit_same (w1 0 _) _ _ (by decide)⟩

/-! ## The commands (R371) -/

/-- What a byte of package DRAM reads as rests on the contents, the failed PCs, and two words of the controller. -/
theorem dramByte_congr (hd : u.dram = s.dram ∧ u.dramEpoch = s.dramEpoch) (hm : u.mc = s.mc)
    (h1 : reg u Reg.mcStatus = reg s Reg.mcStatus) (h2 : reg u Reg.mcTrSel = reg s Reg.mcTrSel) (a : Nat) :
    dramByte u a = dramByte s a := by
  have hbit : rbit u Reg.mcStatus = rbit s Reg.mcStatus := funext fun i => by rw [rbit, h1, rbit]
  have hfld : rfld u Reg.mcStatus = rfld s Reg.mcStatus := funext fun i => funext fun j => by rw [rfld, h1, rfld]
  have hsel : rfld u Reg.mcTrSel = rfld s Reg.mcTrSel := funext fun i => funext fun j => by rw [rfld, h2, rfld]
  obtain ⟨hdram, hepoch⟩ := hd
  have hoff : dramOff u a = dramOff s a := by
    rw [dramOff, dramPc, dramPlace, hbit, hfld, hsel, hm]
    rfl
  rw [dramByte, hoff, hdram, hepoch, dramByte]

theorem tallyWord_fields {cls id epoch : Nat} (hc : cls < 16) (hi : id < 4096) :
    fld (tallyWord cls id epoch) 31 28 = cls ∧ fld (tallyWord cls id epoch) 27 16 = id := by
  rw [tallyWord]
  simp only [fld_or]
  constructor
  · rw [fld_at_same _ (by omega) (by omega), fld_at_out _ (by omega) (by omega) (by omega) (by omega),
      fld_at_out _ (by omega) (by omega) (by omega) (by omega), Nat.or_zero, Nat.or_zero]
    exact Nat.mod_eq_of_lt hc
  · rw [fld_at_out _ (by omega) (by omega) (by omega) (by omega), fld_at_same _ (by omega) (by omega),
      fld_at_out _ (by omega) (by omega) (by omega) (by omega), Nat.or_zero, Nat.zero_or]
    exact Nat.mod_eq_of_lt hi

theorem handBack_owned {cls id b : Nat} {epoch : Nat} (hc : cls < 16) (hi : id < 4096)
    (h : mayAccess s cls id epoch b = true) : handBack cls id b s = setTally b (ownTally s tHost 0) s := by
  have ht : tally s b = tallyWord cls id epoch := beq_iff_eq.1 h
  obtain ⟨h1, h2⟩ := tallyWord_fields (epoch := epoch) hc hi
  exact if_pos ⟨by rw [tallyClass, ht, h1], by rw [tallyId, ht, h2]⟩

/-- The copy of ENG_MEM_READ where the engine owns the block and its link can answer. -/
theorem engMemRead_copied {data : List Byte} (hp : s.mail.arg0 < 8) (hb : s.mail.arg1 < 4096) (hl : linkState s s.mail.arg0 = lsRun)
    (hm : mayAccess s tEngine s.mail.arg0 (epochOf s tEngine s.mail.arg0) s.mail.arg1 = true) :
    engMemRead data s = mailRespond .OK (data.take 0x5000).length []
      (setTally s.mail.arg1 (ownTally s tHost 0) (dramWrite (blockAddr s.mail.arg1) (data.take 0x5000) s)) := by
  unfold engMemRead
  dsimp only
  rw [if_neg (by omega), if_neg (not_not.2 (.inr (.inr hl))), if_neg (not_not.2 hm)]
  rw [handBack_owned (s := dramWrite (blockAddr s.mail.arg1) (data.take 0x5000) s) (by decide) (by omega) hm]
  rfl

theorem mailBusy_trainAsked {x : Nat} (h : trainAsked s x = true) : mailBusy s 4 = true := (Bool.and_eq_true_iff.1 h).1

/-- Manual mode has ended and the PCs have been trained anew (R411). -/
def retrained (s : State) : State :=
  helpersUsed (dramForget (setBit Reg.mcStatus 4 false (modMc (fun m => { m with patRun := false }) s)))

theorem retrained_keeps (s : State) : Keeps [.regs, .freeCount, .dram, .mc] s (retrained s) :=
  keeps_helpersUsed (by decide) (keeps_dramForget (by decide) (keeps_setBit (by decide) _ _ _ (keeps_modMc (by decide) _ (.refl _ s))))

theorem retrained_mc (s : State) : (retrained s).mc = { s.mc with patRun := false } := by
  rw [retrained, helpersUsed_mc]
  rfl

theorem retrained_manual (w : s.regs.wf = true) : rbit (retrained s) Reg.mcStatus 4 = false := by
  have w1 : (dramForget (setBit Reg.mcStatus 4 false (modMc (fun m => { m with patRun := false }) s))).regs.wf = true :=
    setBit_wf (s := modMc _ s) w _ _ _
  rw [rbit, retrained, (helpersUsed_regs w1).2 _ (by decide)]
  exact rbit_setBit_same (s := modMc _ s) w _ _ (by omega)

theorem exec_trainMicrocode (ha : trainAsked s 0 = true) (hm : manualMode s = true) (failed : List PcId) :
    exec (.trainModeMicrocode failed) s = .next (mailRespond .OK 0 [] (forAll (failed.map (·.val)) pcFail (retrained s))) := by
  show execTrainModeMicrocode failed s = _
  unfold execTrainModeMicrocode
  dsimp only
  rw [if_pos ha, if_pos hm]
  rfl

theorem mailRespond_mc (c : Status) (ret : Nat) (payload : List Byte) (s : State) : (mailRespond c ret payload s).mc = s.mc :=
  (mailRespond_keeps c ret payload s).same (k := .mc) (by decide)

theorem manual_begun (w : s.regs.wf = true) (f : DramState → DramState) :
    rbit (setBit Reg.mcStatus 5 false (setBit Reg.mcStatus 4 true (modMc f s))) Reg.mcStatus 4 = true ∧
    rbit (setBit Reg.mcStatus 5 false (setBit Reg.mcStatus 4 true (modMc f s))) Reg.mcStatus 5 = false := by
  have w1 := setBit_wf (s := modMc f s) w Reg.mcStatus 4 true
  exact ⟨(rbit_setBit_ne w1 _ _ (by decide) (by decide)).trans (rbit_setBit_same (s := modMc f s) w _ _ (by decide)),
    rbit_setBit_same w1 _ _ (by decide)⟩

/-- The image of a PATCH_LOAD: the bytes of the blocks that the request names. -/
def patchImage (s : State) : List Byte := (blocksOf s.mail.arg0 s.mail.arg1).flatMap fun b => dramRead s (blockAddr b) 65536

/-- One patch more is installed. -/
def patchInstalled (s : State) : State := { s with mail := { s.mail with patches := s.mail.patches + 1 } }

theorem exec_patchLoad_owned (hb : mailBusy s 6 = true) (hd : (blocksOf s.mail.arg0 s.mail.arg1).all (isDevice s) = true) :
    exec .patchLoad s = .next (if Config.patchImageGood (patchImage s) then
      mailRespond .OK 0 [] (patchInstalled (handBackDev (blocksOf s.mail.arg0 s.mail.arg1) s))
      else mailFree (handBackDev (blocksOf s.mail.arg0 s.mail.arg1) s)) := by
  show execPatchLoad s = _
  unfold execPatchLoad
  dsimp only
  rw [if_pos hb, hd, Bool.true_and]
  rfl

theorem mailFree_free (w : s.regs.wf = true) :
    rbit (mailFree s) Reg.mbStatus 0 = false ∧ rbit (mailFree s) Reg.mbStatus 2 = false :=
  mailAnswer_free (s := (takeFree s).2) w _ _ _

theorem exec_bist_passed (hb : mailBusy s 5 = true) (hl : s.mail.arg0.testBit 2 = true → ∀ p, p < 8 → lenPin s p = false)
    (hp : s.mail.arg0.testBit 0 = true → 1 ≤ freePool s) (passed : Word) :
    exec (.bist passed) s = .next (mailRespond .OK (passed.toNat &&& s.mail.arg0 &&& 15) []
      (if s.mail.arg0.testBit 0 then marchFree s else s)) := by
  have h1 : ¬ (s.mail.arg0.testBit 2 = true ∧ (List.range 8).any (lenPin s) = true) := fun ⟨h2, ha⟩ => by
    obtain ⟨p, hp, hs⟩ := List.any_eq_true.1 ha
    exact Bool.false_ne_true ((hl h2 p (List.mem_range.1 hp)).symm.trans hs)
  have h2 : ¬ (s.mail.arg0.testBit 0 = true ∧ freePool s < 1) := fun ⟨h0, hf⟩ => by
    have := hp h0
    omega
  show execBist passed s = _
  unfold execBist
  dsimp only
  rw [if_pos hb, if_neg h1, if_neg h2]

theorem engMemRead_outcome (w : s.wf = true) (data : List Byte) (hb : mailBusy s 3 = true) (hp : s.mail.arg0 < 8)
    (hk : s.mail.arg1 < 4096) (hl : linkState s s.mail.arg0 = lsRun)
    (hm : mayAccess s tEngine s.mail.arg0 (epochOf s tEngine s.mail.arg0) s.mail.arg1 = true) :
    ∃ t, exec (.engMemRead data) s = .next t ∧ MailAnswered s t .OK (min 0x5000 data.length) ∧
      tally t s.mail.arg1 = ownTally s tHost 0 ∧
      (∀ i, i < min 0x5000 data.length → dramOff s (blockAddr s.mail.arg1 + i) = false →
        dramByte t (blockAddr s.mail.arg1 + i) = (data[i]?).getD 0) ∧
      ∀ a, ¬ (blockAddr s.mail.arg1 ≤ a ∧ a < blockAddr s.mail.arg1 + min 0x5000 data.length) → dramByte t a = dramByte s a := by
  obtain ⟨wr, -⟩ := State.wf_iff.1 w
  have he : exec (.engMemRead data) s = .next (engMemRead data s) := congrArg Host.Outcome.next (if_pos hb)
  rw [engMemRead_copied hp hk hl hm] at he
  have hlen : (data.take 0x5000).length = min 0x5000 data.length := List.length_take
  have kd : Keeps [.regs, .dram] s (setTally s.mail.arg1 (ownTally s tHost 0) (dramWrite (blockAddr s.mail.arg1) (data.take 0x5000) s)) :=
    keeps_setTally (by decide) _ _ (keeps_dramWrite (by decide) _ _ (.refl _ s))
  have wd := kd.2.2.2.1 w
  have hword := mailRespond_regs (State.wf_iff.1 wd).1 .OK (data.take 0x5000).length []
  have hreg (a : Nat) (h1 : a ≠ Reg.mbStatus) (h2 : a ≠ Reg.msixPba) (h3 : a ≠ Reg.wnTally s.mail.arg1) :=
    (hword a h1 h2).trans (reg_setReg_ne (s := dramWrite (blockAddr s.mail.arg1) (data.take 0x5000) s) wr (ownTally s tHost 0) h3)
  have hk2 := mailRespond_keeps .OK (data.take 0x5000).length [] (setTally s.mail.arg1 (ownTally s tHost 0)
    (dramWrite (blockAddr s.mail.arg1) (data.take 0x5000) s))
  have hbyte := dramByte_congr (s := dramWrite (blockAddr s.mail.arg1) (data.take 0x5000) s)
    (hk2.same (k := .dram) (by decide)) (hk2.same (k := .mc) (by decide))
    (hreg _ (by decide) (by decide) (by simp only [Reg.wnTally, Reg.mcStatus]; omega))
    (hreg _ (by decide) (by decide) (by simp only [Reg.wnTally, Reg.mcTrSel]; omega))
  refine ⟨_, he, hlen ▸ mailRespond_answered wd rfl rfl _ _ _, ?_, fun i hi hoff => ?_, fun a ha => ?_⟩
  · exact (hword _ (by simp only [Reg.wnTally, Reg.mbStatus]; omega) (by simp only [Reg.wnTally, Reg.msixPba]; omega)).trans
      (reg_setReg_same (s := dramWrite _ _ s) wr _ _)
  · rw [hbyte, dramByte_dramWrite, if_pos ⟨Nat.le_add_right _ _, by omega, hoff⟩, Nat.add_sub_cancel_left,
      List.getElem?_take, if_pos (by omega)]
  · rw [hbyte, dramByte_dramWrite, if_neg fun h => ha ⟨h.1, hlen ▸ h.2.1⟩]

theorem trainModeManual_outcome (w : s.wf = true) (ha : trainAsked s 1 = true) (hg : castGen s = 0) (hi : castSt s = csIdle) :
    ∃ t, exec .trainModeManual s = .next t ∧ MailAnswered s t .OK 0 ∧ rbit t Reg.mcStatus 4 = true ∧
      rbit t Reg.mcStatus 5 = false := by
  obtain ⟨wr, -⟩ := State.wf_iff.1 w
  have he : exec .trainModeManual s = .next (mailRespond .OK 0 [] (setBit Reg.mcStatus 5 false (setBit Reg.mcStatus 4 true
      (modMc (fun m => { m with gather := none }) s)))) := congrArg Host.Outcome.next ((if_pos ha).trans (if_pos ⟨hg, hi⟩))
  obtain ⟨h4, h5⟩ := manual_begun wr fun m => { m with gather := none }
  have wm : (setBit Reg.mcStatus 5 false (setBit Reg.mcStatus 4 true (modMc (fun m => { m with gather := none }) s))).wf = true :=
    (keeps_setBit (F := [.regs, .mc]) (by decide) _ _ _ (keeps_setBit (by decide) _ _ _ (keeps_modMc (by decide) _ (.refl _ s)))).2.2.2.1 w
  have hst := mailRespond_regs (State.wf_iff.1 wm).1 .OK 0 [] Reg.mcStatus (by decide) (by decide)
  exact ⟨_, he, mailRespond_answered wm rfl rfl _ _ _, by rw [rbit, hst]; exact h4, by rw [rbit, hst]; exact h5⟩

/-- Manual mode ends with every PC trained (R411). -/
theorem trainMicrocode_outcome (w : s.wf = true) (ha : trainAsked s 0 = true) (hm : manualMode s = true) :
    ∃ t, exec (.trainModeMicrocode []) s = .next t ∧ MailAnswered s t .OK 0 ∧ rbit t Reg.mcStatus 4 = false ∧
      t.mc = { s.mc with patRun := false } := by
  have hk := retrained_keeps s
  have wk := hk.2.2.2.1 w
  have hmail := hk.same (k := .mail) (by decide)
  exact ⟨_, exec_trainMicrocode ha hm [], mailRespond_answered wk (congrArg _ hmail) (congrArg _ hmail) _ _ _,
    (congrArg (bit · 4) (mailRespond_regs (State.wf_iff.1 wk).1 .OK 0 [] Reg.mcStatus (by decide) (by decide))).trans
      (retrained_manual (State.wf_iff.1 w).1),
    (mailRespond_mc _ _ _ _).trans (retrained_mc s)⟩

/-- And with PCs that fail it (R411, R413). -/
theorem trainMicrocode_failed (w : s.wf = true) (ha : trainAsked s 0 = true) (hm : manualMode s = true) (failed : List PcId) :
    ∃ t, exec (.trainModeMicrocode failed) s = .next t ∧ MailAnswered s t .OK 0 ∧ t.mc.patRun = false ∧
      ∀ p : PcId, t.mc.failed.getLsbD p.val = true ↔ s.mc.failed.getLsbD p.val = true ∨ p ∈ failed := by
  have hk : Keeps [.regs, .freeCount, .dram, .mc, .out, .slots, .ports, .fr] s (forAll (failed.map (·.val)) pcFail (retrained s)) :=
    keeps_forAll _ _ (fun i _ h => keeps_pcFail (by decide) i h)
      (keeps_helpersUsed (by decide) (keeps_dramForget (by decide) (keeps_setBit (by decide) _ _ _ (keeps_modMc (by decide) _ (.refl _ s)))))
  have hmail := hk.same (k := .mail) (by decide)
  obtain ⟨hrun, hfail⟩ := forAll_pcFail (failed.map (·.val)) (retrained s)
  refine ⟨_, exec_trainMicrocode ha hm failed,
    mailRespond_answered (hk.2.2.2.1 w) (congrArg _ hmail) (congrArg _ hmail) _ _ _, ?_, fun p => ?_⟩
  · rw [mailRespond_mc, hrun, retrained_mc]
  · rw [mailRespond_mc, hfail p.val p.isLt, retrained_mc, Bool.or_eq_true, decide_eq_true_eq,
      List.mem_map_of_injective Fin.val_injective]

theorem bist_outcome (w : s.wf = true) (passed : Word) (hb : mailBusy s 5 = true)
    (hl : s.mail.arg0.testBit 2 = true → ∀ p, p < 8 → lenPin s p = false) (hp : s.mail.arg0.testBit 0 = true → 1 ≤ freePool s) :
    ∃ t, exec (.bist passed) s = .next t ∧ MailAnswered s t .OK (passed.toNat &&& s.mail.arg0 &&& 15) := by
  have hk : Keeps [.dram] s (if s.mail.arg0.testBit 0 then marchFree s else s) := by
    split
    · exact (Keeps.refl _ s).dram (List.Subset.refl _) _ _ fun h => rising_filter _ h
    · exact .refl _ s
  have hmail := hk.same (k := .mail) (by decide)
  exact ⟨_, exec_bist_passed hb hl hp passed,
    mailRespond_answered (hk.2.2.2.1 w) (congrArg _ hmail) (congrArg _ hmail) _ _ _⟩

/-- The response to a patch that installs (R472), on any state that keeps the request. -/
theorem patchInstalled_answered (w : u.wf = true) (hmail : u.mail = s.mail) :
    MailAnswered s (mailRespond .OK 0 [] (patchInstalled u)) .OK 0 ∧
      (mailRespond .OK 0 [] (patchInstalled u)).mail.patches = s.mail.patches + 1 := by
  have ha : MailAnswered s (mailRespond .OK 0 [] (patchInstalled u)) .OK 0 :=
    mailRespond_answered (u := patchInstalled u) w (congrArg (·.cmd) hmail) (congrArg (·.seq) hmail) _ _ _
  have hp := (mailRespond_keeps .OK 0 [] (patchInstalled u)).same (k := .mail) (by decide)
  exact ⟨ha, (congrArg (·.patches) hp).trans (congrArg (·.patches + 1) hmail)⟩

/-- And of one that does not: the mailbox is free with nothing installed. -/
theorem mailFree_answered (w : u.wf = true) (hmail : u.mail = s.mail) :
    rbit (mailFree u) Reg.mbStatus 0 = false ∧ rbit (mailFree u) Reg.mbStatus 2 = false ∧
      (mailFree u).mail.patches = s.mail.patches := by
  obtain ⟨h0, h2⟩ := mailFree_free (State.wf_iff.1 w).1
  exact ⟨h0, h2, congrArg (·.patches) (((mailFree_keeps _).same (k := .mail) (by decide)).trans hmail)⟩

theorem patchLoad_outcome (w : s.wf = true) (hb : mailBusy s 6 = true)
    (hd : (blocksOf s.mail.arg0 s.mail.arg1).all (isDevice s) = true) :
    ∃ t, exec .patchLoad s = .next t ∧ rbit t Reg.mbStatus 0 = false ∧ rbit t Reg.mbStatus 2 = false ∧
      (Config.patchImageGood (patchImage s) = true → MailAnswered s t .OK 0 ∧ t.mail.patches = s.mail.patches + 1) ∧
      (Config.patchImageGood (patchImage s) = false → t.mail.patches = s.mail.patches) := by
  have he := exec_patchLoad_owned hb hd
  have hk : Keeps [.regs] s (handBackDev (blocksOf s.mail.arg0 s.mail.arg1) s) := keeps_handBackDev (by decide) _ (.refl _ s)
  have wk := hk.2.2.2.1 w
  have hmail : (handBackDev (blocksOf s.mail.arg0 s.mail.arg1) s).mail = s.mail := hk.same (k := .mail) (by decide)
  generalize handBackDev (blocksOf s.mail.arg0 s.mail.arg1) s = u at he wk hmail
  cases hg : Config.patchImageGood (patchImage s) with
  | true =>
    obtain ⟨ha, hp⟩ := patchInstalled_answered wk hmail
    obtain ⟨-, h0, h2, -⟩ := id ha
    exact ⟨_, he.trans (congrArg Host.Outcome.next (if_pos hg)), h0, h2, fun _ => ⟨ha, hp⟩, nofun⟩
  | false =>
    obtain ⟨h0, h2, hp⟩ := mailFree_answered wk hmail
    exact ⟨_, he.trans (congrArg Host.Outcome.next (if_neg (hg ▸ Bool.false_ne_true))), h0, h2, nofun, fun _ => hp⟩

end

/-- Settles O26: the doorbell takes the request, and each command ends in the response of one branch of its operation. -/
theorem mailboxAnswers : Obligations.MailboxAnswers := by
  intro s w
  obtain ⟨wr, -⟩ := State.wf_iff.1 w
  refine ⟨fun v ho hb hs hl hc => ?_, fun v ho hb => ?_, fun hb => ?_, fun data hb hp hk hl hm => engMemRead_outcome w data hb hp hk hl hm,
    fun ha hg hi => trainModeManual_outcome w ha hg hi, fun ha hm => trainMicrocode_outcome w ha hm,
    fun failed ha hm => trainMicrocode_failed w ha hm failed, fun passed hb hl hp => bist_outcome w passed hb hl hp,
    fun good hb hd hg => hg ▸ patchLoad_outcome w hb hd⟩
  · obtain ⟨h0, h2⟩ := requestTaken_status wr
    refine ⟨_, congrArg Host.Outcome.next ((hostWrite_open ho v doorbell).trans (doorbell_taken hb hs hl hc)), h0, h2, rfl, hs,
      rfl, rfl, ?_⟩
    show bar4Bytes s 16 (min _ _) = _
    rw [Nat.min_eq_left hl]
  · exact ⟨_, congrArg Host.Outcome.next ((hostWrite_open ho v doorbell).trans (if_pos hb)),
      rbit_setBit_same wr _ _ (by decide), rfl⟩
  · exact ⟨_, congrArg Host.Outcome.next (if_pos hb), mailRespond_answered w rfl rfl _ _ _,
      (mailRespond_keeps _ _ _ s).same (k := .slots) (by decide)⟩

end Sys2Proof.Machine
end

section
/-! PROOFS. The codec's job queue: submission, start, completion and the removal of records (R390 to R394). -/

set_option Elab.async false

namespace Sys2Proof.Machine

section
variable {s : State}

/-! ## The registers of the queue -/

@[simp] theorem codecRefresh_codec (s : State) : (codecRefresh s).codec = s.codec :=
  (keeps_codecRefresh (F := [.regs]) (by decide) (.refl _ s)).same (k := .codec) (by decide)

theorem jobHandBack_codec (j : CodecJob) (s : State) : (jobHandBack j s).codec = s.codec :=
  (keeps_jobHandBack (F := [.regs]) (by decide) j (.refl _ s)).same (k := .codec) (by decide)

theorem runJob_codec (j : CodecJob) (s : State) : (runJob j s).1.codec = s.codec :=
  (keeps_runJob (F := [.regs, .dram]) (by decide) j (.refl _ s)).same (k := .codec) (by decide)

/-- CD_STATUS counts the jobs of the queue (R394). -/
theorem codecRefresh_jobs (w : s.regs.wf = true) (hj : s.codec.jobs.length ≤ 16) :
    rfld (codecRefresh s) Reg.cdStatus 20 16 = s.codec.jobs.length := by
  unfold codecRefresh
  rw [rfld, (forAll_setReg_ne (setReg_wf w _ _) (List.range 8) _ (a := Reg.cdDone) (k := Reg.cdStatus)
    fun m => by simp only [Reg.cdStatus, Reg.cdDone]; omega).2, reg_setReg_same w, fld_or, fld_or, fld_or, fld_or,
    fld_at_out, fld_at_out, fld_at_same, fld_at_out, fld_at_out]
  all_goals first | omega | skip
  rw [Nat.zero_or, Nat.or_zero, Nat.or_zero, Nat.zero_or]
  exact Nat.mod_eq_of_lt (by omega)

/-- CD_DONE0 to CD_DONE7 show the oldest record (R394). -/
theorem codecRefresh_done (w : s.regs.wf = true) {i : Nat} (hi : i < 8) :
    reg (codecRefresh s) (Reg.cdDone i) = (((s.codec.done.head?).getD [])[i]?).getD 0 :=
  forAll_setReg_mem (s := setReg Reg.cdStatus _ s) (setReg_wf w _ _) List.nodup_range (List.mem_range.2 hi) _
    fun a b h => by simpa [Reg.cdDone] using h

/-! ## Ended jobs at the head -/

theorem flushEnded_of_headRuns (h : headRuns s.codec.jobs) (n : Nat) : flushEnded n s = s := by
  cases n with
  | zero => rfl
  | succ n =>
    unfold flushEnded
    cases hj : s.codec.jobs with
    | nil => rfl
    | cons j rest =>
      rw [hj] at h
      rcases h with h | h <;> simp [h]

theorem endHead_codec (r : List Word) (s : State) :
    (endHead r s).codec = { jobs := s.codec.jobs.tail, done := s.codec.done ++ [r] } :=
  (raiseVec_codec _ _).trans (codecRefresh_codec _)

/-- One ended job at the head leaves, with its record, where the next has not ended (R392). -/
theorem flushEnded_one {j : CodecJob} {rest : List CodecJob} {c : Status} (hj : s.codec.jobs = j :: rest) (hc : j.st = .ended c)
    (hd : s.codec.done.length < 16) (hr : headRuns rest) (n : Nat) :
    (flushEnded (n + 1) s).codec = { jobs := rest, done := s.codec.done ++ [doneRec j c 0 0 0xFFFF 0 0 none] } := by
  have hcodec := endHead_codec (doneRec j c 0 0 0xFFFF 0 0 none) s
  have hstep : flushEnded (n + 1) s = flushEnded n (endHead (doneRec j c 0 0 0xFFFF 0 0 none) s) := by
    rw [flushEnded]
    simp only [hj, hc, if_pos hd]
  rw [hj] at hcodec
  rw [hstep, flushEnded_of_headRuns (by rw [hcodec]; exact hr), hcodec, List.tail_cons]

/-! ## Start and completion -/

theorem exec_jobStart (hu : upNow s = true) : exec .jobStart s = .next (codecStart s) := congrArg Host.Outcome.next (if_pos hu)

/-- A job whose lanes, records and power allow it to start (R376, R391, R392, R429). -/
theorem mayStart {j : CodecJob} (hl : s.heat.limited = false) (hh : lanesHeld s j.packs < laneLimit s j.packs)
    (hd : s.codec.done.length < 16) :
    ¬ (s.heat.limited = true ∨ laneLimit s j.packs ≤ lanesHeld s j.packs ∨ 16 ≤ s.codec.done.length) := by
  rintro (h | h | h)
  · exact Bool.false_ne_true (hl ▸ h)
  · omega
  · omega

theorem codecStart_runs {j : CodecJob} (hj : headWaiting s = some j) (hl : s.heat.limited = false)
    (hh : lanesHeld s j.packs < laneLimit s j.packs) (hd : s.codec.done.length < 16)
    (ho : (j.srcs ++ j.dsts).all (isDevice s) = true) :
    (codecStart s).codec = { s.codec with jobs := markHead .running s.codec.jobs } := by
  unfold codecStart
  rw [hj]
  dsimp only
  rw [if_neg (mayStart hl hh hd), if_pos ho, codecRefresh_codec]

theorem codecStart_refused {j : CodecJob} {rest : List CodecJob} (hj : s.codec.jobs = j :: rest) (hw : j.st = .waiting)
    (hl : s.heat.limited = false) (hh : lanesHeld s j.packs < laneLimit s j.packs) (hd : s.codec.done.length < 16)
    (ho : (j.srcs ++ j.dsts).all (isDevice s) = false) (hr : headRuns rest) :
    (codecStart s).codec = { jobs := rest, done := s.codec.done ++ [doneRec j .CODEC_TALLY 0 0 0xFFFF 0 0 none] } := by
  have hhead : headWaiting s = some j := by rw [headWaiting, hj, List.find?_cons_of_pos (by rw [hw]; rfl)]
  have hcodec := jobHandBack_codec j s
  unfold codecStart
  rw [hhead]
  dsimp only
  rw [if_neg (mayStart hl hh hd), if_neg (by rw [ho]; nofun), hcodec, hj, markHead, if_pos hw]
  rw [flushEnded_one (j := { j with st := .ended .CODEC_TALLY }) (c := .CODEC_TALLY) (rest := rest)
    (codecRefresh_codec _ ▸ rfl) rfl (by rw [codecRefresh_codec]; exact hd) hr, codecRefresh_codec]
  rfl

theorem codecComplete_ends {j : CodecJob} {rest : List CodecJob} (hj : s.codec.jobs = j :: rest) (hw : j.st = .running)
    (hd : s.codec.done.length < 16) (hr : headRuns rest) :
    (codecComplete s).codec = { jobs := rest, done := s.codec.done ++ [(runJob j s).2] } := by
  have hcodec : (endHead (runJob j s).2 (jobHandBack j (runJob j s).1)).codec =
      { jobs := rest, done := s.codec.done ++ [(runJob j s).2] } := by
    rw [endHead_codec, jobHandBack_codec, runJob_codec, hj, List.tail_cons]
  have he : codecComplete s = flushEnded 16 (endHead (runJob j s).2 (jobHandBack j (runJob j s).1)) := by
    unfold codecComplete
    rw [hj]
    exact if_pos ⟨hw, hd⟩
  rw [he, flushEnded_of_headRuns (by rw [hcodec]; exact hr), hcodec]

/-! ## Submission -/

theorem codecSubmit_joins {v : Word} (w : s.regs.wf = true) (hb : bit v 0 = true) (hl : s.codec.jobs.length < 16)
    (ho : (descriptorJob s).ok = true) :
    (codecSubmit v s).codec = { s.codec with jobs := s.codec.jobs ++ [descriptorJob s] } ∧
      rfld (codecSubmit v s) Reg.cdStatus 20 16 = s.codec.jobs.length + 1 := by
  have he : codecSubmit v s = codecRefresh { s with codec := { s.codec with jobs := s.codec.jobs ++ [descriptorJob s] } } :=
    (if_neg (not_not.2 hb)).trans ((if_neg (by omega)).trans (if_neg (not_not.2 ho)))
  have hlen : (s.codec.jobs ++ [descriptorJob s]).length = s.codec.jobs.length + 1 := List.length_append
  rw [he]
  exact ⟨codecRefresh_codec _, (codecRefresh_jobs (s := { s with codec := { s.codec with jobs := s.codec.jobs ++ [descriptorJob s] } })
    w (hlen ▸ hl)).trans hlen⟩

/-- A refused submit is marked in CD_ERR with its status (R390). -/
theorem codecErr_marked (w : s.regs.wf = true) (c : Status) {i : Nat} (hi : i < 16) :
    rfld (setBit Reg.cdErr i true (setFld Reg.cdErr 31 16 c.code s)) Reg.cdErr 31 16 = c.code ∧
      rbit (setBit Reg.cdErr i true (setFld Reg.cdErr 31 16 c.code s)) Reg.cdErr i = true := by
  refine ⟨?_, rbit_setBit_same (setFld_wf w _ _ _ _) _ _ (by omega)⟩
  rw [setBit, rfld_setFld_out (setFld_wf w _ _ _ _) _ _ (by omega) (Nat.le_refl i) (by omega) (by decide),
    rfld_setFld_same w _ _ (by decide) (by decide)]
  exact Nat.mod_eq_of_lt (Status.code_lt c)

/-- The five operations submit alike (R390). -/
theorem exec_codecOp {v : Word} {c : Instr}
    (hc : c ∈ [.compressStream v, .decompressStream v, .compressBlock v, .resume v, .decompressBlock v])
    (ho : hostOpen s Reg.cdSubmit = true) : exec c s = .next (codecSubmit v s) := by
  have hx : exec c s = .next (hostWrite Reg.cdSubmit v codecSubmit s) := by
    simp only [List.mem_cons, List.not_mem_nil, or_false] at hc
    rcases hc with rfl | rfl | rfl | rfl | rfl <;> rfl
  rw [hx, hostWrite_open ho]

/-! ## Removal of a record -/

theorem codecPop_tail {v : Word} (w : s.regs.wf = true) (hb : bit v 0 = true) (hr : headRuns s.codec.jobs) :
    (codecPop v s).codec = { s.codec with done := s.codec.done.tail } ∧
      ∀ i, i < 8 → reg (codecPop v s) (Reg.cdDone i) = (((s.codec.done.tail.head?).getD [])[i]?).getD 0 := by
  have hcodec := codecRefresh_codec { s with codec := { s.codec with done := s.codec.done.tail } }
  have hhead : headRuns (codecRefresh { s with codec := { s.codec with done := s.codec.done.tail } }).codec.jobs := by
    rw [hcodec]
    exact hr
  unfold codecPop
  rw [if_pos hb, flushEnded_of_headRuns hhead]
  exact ⟨hcodec, fun i hi => codecRefresh_done (s := { s with codec := { s.codec with done := s.codec.done.tail } }) w hi⟩

end

/-- Settles O27: each command is one branch of its operation, and the records that follow it stop at a head that has not ended. -/
theorem codecQueue : Obligations.CodecQueue := by
  intro s w
  obtain ⟨wr, -⟩ := State.wf_iff.1 w
  refine ⟨fun v c hc ho hb => ⟨fun hl hok => ?_, fun hl hok => ?_, fun hl => ?_⟩,
    fun j hu hj hl hh hd ho => ⟨_, exec_jobStart hu, codecStart_runs hj hl hh hd ho⟩,
    fun j rest hu hj hw hl hh hd ho hr => ⟨_, exec_jobStart hu, codecStart_refused hj hw hl hh hd ho hr⟩,
    fun j rest hu hj hw hd hr => ?_, fun v ho hb hr => ⟨_, congrArg Host.Outcome.next (hostWrite_open ho v codecPop), codecPop_tail wr hb hr⟩⟩
  · exact ⟨_, exec_codecOp hc ho, codecSubmit_joins wr hb hl hok⟩
  · have he : codecSubmit v s = setBit Reg.cdErr 1 true (setFld Reg.cdErr 31 16 Status.CODEC_JOB.code s) :=
      (if_neg (not_not.2 hb)).trans ((if_neg (by omega)).trans (if_pos (by rw [← descriptorJob, hok]; nofun)))
    exact ⟨_, (exec_codecOp hc ho).trans (congrArg _ he), rfl, codecErr_marked wr .CODEC_JOB (by decide)⟩
  · have he : codecSubmit v s = setBit Reg.cdErr 0 true (setFld Reg.cdErr 31 16 Status.CODEC_BUSY.code s) :=
      (if_neg (not_not.2 hb)).trans (if_pos hl)
    exact ⟨_, (exec_codecOp hc ho).trans (congrArg _ he), rfl, codecErr_marked wr .CODEC_BUSY (by decide)⟩
  · have he : exec .jobComplete s = .next (codecComplete s) := congrArg Host.Outcome.next (if_pos hu)
    have hk := exec_keeps he
    exact ⟨_, he, codecComplete_ends hj hw hd hr, hk.same (k := .mail) (by decide), hk.same (k := .slots) (by decide)⟩

end Sys2Proof.Machine
end

section
/-! PROOFS. The memory controller: operating points, refresh, temperature and self-refresh; tracking, errors and the pattern
generator (R399, R402 to R413, R418). -/

set_option Elab.async false

namespace Sys2Proof.Machine

section
variable {s : State}

/-- A status shown in the upper half of a register. -/
theorem rfld_setFld_code (w : s.regs.wf = true) (a : Nat) (c : Status) : rfld (setFld a 31 16 c.code s) a 31 16 = c.code :=
  (rfld_setFld_same w a _ (by decide) (by decide)).trans (Nat.mod_eq_of_lt (Status.code_lt c))

theorem exec_whileUp {c : Instr} {f : State → State} (hc : exec c s = .next (whileUp f s)) (hu : upNow s = true) :
    exec c s = .next (f s) := hc.trans (congrArg _ (if_pos hu))

/-! ## Operating points (R407) -/

theorem freqWrite_taken {v : Word} (w : s.regs.wf = true) (hg : gathering s = false) (hd : s.power.st ≠ .doze) (hv : fld v 1 0 ≠ 3) :
    (freqWrite v s).mc = { s.mc with freq := some (fld v 1 0) } ∧ rfld (freqWrite v s) Reg.mcStatus 31 16 = Status.OK.code ∧
      rfld (freqWrite v s) Reg.mcFreq 1 0 = fld v 1 0 := by
  have he : freqWrite v s = modMc (fun m => { m with freq := some (fld v 1 0) })
      (setFld Reg.mcStatus 31 16 Status.OK.code (setFld Reg.mcFreq 1 0 (fld v 1 0) s)) :=
    (if_neg (by rw [hg]; nofun)).trans (if_neg (not_or.2 ⟨hd, hv⟩))
  have w1 : (setFld Reg.mcFreq 1 0 (fld v 1 0) s).regs.wf = true := setFld_wf w _ _ _ _
  rw [he]
  refine ⟨rfl, rfld_setFld_code w1 _ .OK, ?_⟩
  exact (rfld_setFld_ne w1 _ _ _ _ _ (by decide)).trans ((rfld_setFld_same w _ _ (by decide) (by decide)).trans
    (Nat.mod_eq_of_lt (fld_lt v 1 0)))

theorem freqWrite_busy (w : s.regs.wf = true) (hg : gathering s = true) (v : Word) :
    (freqWrite v s).mc = s.mc ∧ rfld (freqWrite v s) Reg.mcStatus 31 16 = Status.MC_BUSY.code ∧
      rfld (freqWrite v s) Reg.mcFreq 1 0 = rfld s Reg.mcFreq 1 0 := by
  have he : freqWrite v s = setFld Reg.mcStatus 31 16 Status.MC_BUSY.code s := if_pos hg
  rw [he]
  exact ⟨rfl, rfld_setFld_code w _ .MC_BUSY, rfld_setFld_ne w _ _ _ _ _ (by decide)⟩

theorem freqDone_runs {p : Nat} (w : s.regs.wf = true) (hf : s.mc.freq = some p) (hp : p < 3) :
    (freqDone s).mc = { s.mc with freq := none } ∧ rfld (freqDone s) Reg.mcStatus 1 0 = p := by
  have he : freqDone s = raiseVec 21 (setFld Reg.mcStatus 1 0 p (modMc (fun m => { m with freq := none }) s)) := by
    unfold freqDone
    rw [hf]
  rw [he, raiseVec_mc, rfld, (raiseVec_regs (setFld_wf (s := modMc _ s) w _ _ _ _) 21).2 _ (by decide)]
  exact ⟨rfl, (rfld_setFld_same (s := modMc _ s) w _ _ (by decide) (by decide)).trans (Nat.mod_eq_of_lt (by omega))⟩

theorem freqDone_power (s : State) : (freqDone s).power = s.power :=
  (keeps_freqDone (F := [.regs, .out, .mc]) (List.Subset.refl _) (.refl _ s)).same (k := .power) (by decide)

/-! ## Refresh, temperature and self-refresh (R402 to R405) -/

/-- A 16-bit count of a register saturates, and the other half stands. -/
theorem incSat_halves (w : s.regs.wf = true) (a : Nat) :
    (rfld (incSat a 31 16 s) a 31 16 = min (rfld s a 31 16 + 1) 65535 ∧ rfld (incSat a 31 16 s) a 15 0 = rfld s a 15 0) ∧
    (rfld (incSat a 15 0 s) a 15 0 = min (rfld s a 15 0 + 1) 65535 ∧ rfld (incSat a 15 0 s) a 31 16 = rfld s a 31 16) :=
  ⟨⟨rfld_addSat_same w _ _ (by decide) (by decide),
      rfld_setFld_out w _ _ (by decide) (by decide) (.inl (by decide)) (by decide)⟩,
    ⟨rfld_addSat_same w _ _ (by decide) (by decide),
      rfld_setFld_out w _ _ (by decide) (by decide) (.inr (by decide)) (by decide)⟩⟩

/-- The refresh window follows the sample with a hysteresis of 3 degrees (R402). -/
def windowOf (x : BitVec 8) (s : State) : State :=
  if 85 < x.toInt then setBit Reg.mcTemp 0 true s else if x.toInt < 82 then setBit Reg.mcTemp 0 false s else s

theorem windowOf_temp (w : s.regs.wf = true) (x : BitVec 8) :
    rfld (windowOf x s) Reg.mcTemp 15 8 = rfld s Reg.mcTemp 15 8 ∧ (85 < x.toInt → rbit (windowOf x s) Reg.mcTemp 0 = true) ∧
      (x.toInt < 82 → rbit (windowOf x s) Reg.mcTemp 0 = false) ∧
      (82 ≤ x.toInt → x.toInt ≤ 85 → rbit (windowOf x s) Reg.mcTemp 0 = rbit s Reg.mcTemp 0) := by
  have hset (b : Bool) : rfld (setBit Reg.mcTemp 0 b s) Reg.mcTemp 15 8 = rfld s Reg.mcTemp 15 8 :=
    rfld_setFld_out w _ _ (by decide) (by decide) (.inr (by decide)) (by decide)
  unfold windowOf
  split
  · exact ⟨hset true, fun _ => rbit_setBit_same w _ _ (by decide), fun h => by omega, fun _ h => by omega⟩
  · split
    · exact ⟨hset false, fun h => by omega, fun _ => rbit_setBit_same w _ _ (by decide), fun h => by omega⟩
    · exact ⟨rfl, fun h => by omega, fun h => by omega, fun _ _ => rfl⟩

theorem dramTempSample_outcome (w : s.regs.wf = true) (hu : upNow s = true) (x : BitVec 8) :
    ∃ t, exec (.dramTempSample x) s = .next t ∧ rfld t Reg.mcTemp 15 8 = x.toNat ∧
      (85 < x.toInt → rbit t Reg.mcTemp 0 = true) ∧ (x.toInt < 82 → rbit t Reg.mcTemp 0 = false) ∧
      (82 ≤ x.toInt → x.toInt ≤ 85 → rbit t Reg.mcTemp 0 = rbit s Reg.mcTemp 0) := by
  have he : exec (.dramTempSample x) s = .next (windowOf x (setFld Reg.mcTemp 15 8 x.toNat s)) :=
    exec_whileUp (f := fun s => windowOf x (setFld Reg.mcTemp 15 8 x.toNat s)) rfl hu
  obtain ⟨hx, hhot, hcold, hmid⟩ := windowOf_temp (setFld_wf w Reg.mcTemp 15 8 x.toNat) x
  refine ⟨_, he, hx.trans ?_, hhot, hcold, fun h h' => (hmid h h').trans ?_⟩
  · exact (rfld_setFld_same w _ _ (by decide) (by decide)).trans (Nat.mod_eq_of_lt x.isLt)
  · exact rbit_setFld_out w _ _ (by decide) (by decide) (.inl (by decide))

/-- The controller without PC pc in self-refresh. -/
def DramState.woken (m : DramState) (pc : Nat) : DramState := { m with sr := m.sr &&& ~~~(1#16 <<< pc) }

theorem srWake_outcome (w : s.regs.wf = true) {pc : PcId} (h : s.mc.sr.getLsbD pc.val = true) :
    ∃ t, exec (.srWake pc) s = .next t ∧ t.mc = s.mc.woken pc.val ∧ rbit t Reg.mcStatus 3 = true ∧
      rfld t Reg.mcCntA 31 16 = min (rfld s Reg.mcCntA 31 16 + 1) 65535 := by
  have hdone (u : State) (wu : u.regs.wf = true) (hm : u.mc = s.mc) (ha : reg u Reg.mcCntA = reg s Reg.mcCntA) :
      let t := setBit Reg.mcStatus 3 true (incSat Reg.mcCntA 31 16 (modMc (fun m => m.woken pc.val) u))
      t.mc = s.mc.woken pc.val ∧ rbit t Reg.mcStatus 3 = true ∧
        rfld t Reg.mcCntA 31 16 = min (rfld s Reg.mcCntA 31 16 + 1) 65535 := by
    have w1 : (incSat Reg.mcCntA 31 16 (modMc (fun m => m.woken pc.val) u)).regs.wf = true := setFld_wf (s := modMc _ u) wu _ _ _ _
    refine ⟨congrArg (·.woken pc.val) hm, rbit_setBit_same w1 _ _ (by decide), ?_⟩
    rw [setBit, rfld_setFld_ne w1 _ _ _ _ _ (by decide), ((incSat_halves (s := modMc _ u) wu Reg.mcCntA).1).1]
    exact congrArg (fun x => min (fld x 31 16 + 1) 65535) ha
  have he : exec (.srWake pc) s = .next (setBit Reg.mcStatus 3 true (incSat Reg.mcCntA 31 16
      (modMc (fun m => m.woken pc.val) (if s.power.st = .doze then helpersUsed s else s)))) := congrArg Host.Outcome.next (if_pos h)
  obtain ⟨wh, hh⟩ := helpersUsed_regs w
  refine ⟨_, he, ?_⟩
  split
  · exact hdone _ wh (helpersUsed_mc s) (hh _ (by decide))
  · exact hdone s w rfl rfl

end

/-- Settles O28: each command is one branch of its operation on the controller; that one refresh clears every postponed interval
is the model's choice (log entry 88). -/
theorem memoryControl : Obligations.MemoryControl := by
  intro s w
  obtain ⟨wr, -⟩ := State.wf_iff.1 w
  refine ⟨fun v ho hg hd hv => ?_, fun v ho hg => ?_, fun p hf hp hq => ?_, fun pc bank idle k hu hk => ?_, fun pc bank hu h8 => ?_,
    fun x hu => dramTempSample_outcome wr hu x, fun pc hu hi => ?_, fun pc h => srWake_outcome wr h, fun pc hd => ?_, fun pc hu => ?_⟩
  · exact ⟨_, congrArg Host.Outcome.next (hostWrite_open ho v freqWrite), freqWrite_taken wr hg hd hv⟩
  · exact ⟨_, congrArg Host.Outcome.next (hostWrite_open ho v freqWrite), freqWrite_busy wr hg v⟩
  · have he : exec .freqChangeComplete s = .next (freqDone s) :=
      congrArg Host.Outcome.next (serveQueued_none ((congrArg (·.queued) (freqDone_power s)).trans hq))
    exact ⟨_, he, freqDone_runs wr hf hp⟩
  · subst hk
    exact congrArg Host.Outcome.next (if_pos hu)
  · have he : exec (.forcedRefresh pc bank) s = .next (incSat Reg.mcCntB 31 16
        (modMc (fun m => { m with postponed := m.postponed.set (16 * pc.val + bank.val) 0 }) s)) :=
      congrArg Host.Outcome.next ((if_pos hu).trans (if_pos h8))
    obtain ⟨hhi, hlo⟩ := (incSat_halves (s := modMc (fun m => { m with postponed := m.postponed.set (16 * pc.val + bank.val) 0 }) s)
      wr Reg.mcCntB).1
    exact ⟨_, he, hhi, hlo, rfl⟩
  · exact ⟨_, congrArg Host.Outcome.next ((if_pos hu).trans (if_pos hi)), rfl, rfl⟩
  · exact ⟨_, congrArg Host.Outcome.next (if_pos hd), rfl, rfl⟩
  · obtain ⟨hlo, hhi⟩ := (incSat_halves wr Reg.mcCntB).2
    exact ⟨_, congrArg Host.Outcome.next (if_pos hu), rfl, hlo, hhi⟩

end Sys2Proof.Machine
end

section
/-! PROOFS. The memory controller's tracking, its failing pseudo-channels and the pattern generator (R410 to R413, R418). -/

set_option Elab.async false

namespace Sys2Proof.Machine

section
variable {s : State}

/-! ## Tracking (R410) -/

theorem upNow_of_run (h : inRunState s = true) : upNow s = true := by
  have hr : s.power.st = .run := eq_of_beq h
  rw [upNow, powered, hr]
  rfl

theorem trackStart_gathers {p : Nat} (hr : inRunState s = true) (hm : manualMode s = false) (hd : rbit s Reg.mcStatus 6 = false)
    (hp : ((List.range 16).map fun i => (s.mc.nextPc + i) % 16).find? (trackable s) = some p) :
    trackStart s = setBit Reg.mcStatus 5 true (modMc (fun m => { m with gather := some p, nextPc := (p + 1) % 16 }) s) := by
  unfold trackStart
  rw [if_neg (by rw [hr, hm, hd]; nofun), hp]

/-- The controller once its gather window has closed. -/
def DramState.gathered (m : DramState) : DramState := { m with gather := none }

/-- Where tracking goes on from, once a window on PC pc has closed: the helpers are used, nothing gathers. -/
def windowClosed (s : State) : State := helpersUsed (endGather s)

@[simp] theorem windowClosed_mc (s : State) : (windowClosed s).mc = s.mc.gathered := helpersUsed_mc _

theorem windowClosed_regs (w : s.regs.wf = true) :
    (windowClosed s).regs.wf = true ∧ rbit (windowClosed s) Reg.mcStatus 5 = false := by
  obtain ⟨wc, hc⟩ := helpersUsed_regs (s := endGather s) (setFld_wf (s := modMc _ s) w _ _ _ _)
  refine ⟨wc, ?_⟩
  rw [rbit, windowClosed, hc _ (by decide)]
  exact rbit_setBit_same (s := modMc _ s) w _ _ (by decide)

section
variable {pc reads writes : Nat} {move : List Int}

theorem gatherEnd_few (hg : s.mc.gather = some pc) (h : reads < 64 ∨ writes < 64) (pass : Bool) :
    gatherEnd reads writes move pass s = windowClosed s := by
  unfold gatherEnd
  rw [hg]
  exact if_pos h

/-- The window has enough bursts of each kind. -/
theorem not_few (hr : 64 ≤ reads) (hw : 64 ≤ writes) : ¬ (reads < 64 ∨ writes < 64) := by omega

/-- The delays of PC pc move by what the passing taps give. -/
def tapsMoved (pc point : Nat) (move : List Int) (s : State) : State :=
  (List.zip (List.range 16) move).foldl (fun s x => moveTap pc point x.1 x.2 s) s

theorem gatherEnd_passes (hg : s.mc.gather = some pc) (hr : 64 ≤ reads) (hw : 64 ≤ writes) :
    gatherEnd reads writes move true s = tapsMoved pc (rfld s Reg.mcStatus 1 0) move
      (modMc (fun m => { m with trackFail := m.trackFail.set pc 0 }) (windowClosed s)) := by
  unfold gatherEnd
  rw [hg]
  exact if_neg (not_few hr hw)

/-- A window that fails is counted against its PC. -/
def trackFailed (pc : Nat) (s : State) : State :=
  modMc (fun m => { m with trackFail := m.trackFail.set pc (BitVec.ofNat 8 ((s.mc.trackFail.get pc).toNat + 1)) }) (windowClosed s)

theorem trackFailed_mc (pc : Nat) (s : State) : (trackFailed pc s).mc = { s.mc with
    gather := none, trackFail := s.mc.trackFail.set pc (BitVec.ofNat 8 ((s.mc.trackFail.get pc).toNat + 1)) } := by
  rw [trackFailed, modMc, windowClosed_mc]
  rfl

/-- A failing PC opens no gather window. -/
theorem DramState.withFailed_gather {m : DramState} (h : m.gather = none) (pc : Nat) : (m.withFailed pc).gather = none := by
  rw [DramState.withFailed, h, ite_self]

theorem gatherEnd_fails (hg : s.mc.gather = some pc) (hr : 64 ≤ reads) (hw : 64 ≤ writes) :
    gatherEnd reads writes move false s =
      if 3 ≤ (s.mc.trackFail.get pc).toNat + 1 then pcFail pc (trackFailed pc s) else trackFailed pc s := by
  unfold gatherEnd
  rw [hg]
  exact (if_neg (not_few hr hw)).trans (if_neg Bool.false_ne_true)

end

/-! ## The delay words -/

/-- The delay word that one move leaves (R410). -/
def movedDelay (w : Word) (d : Int) : Word := putFld w 8 0 (clampI ((fld w 8 0 : Nat) + clampI d (-1) 1) 0 511).toNat &&& 0x7F01FF

theorem delayWord_moveTap (pc point i : Nat) (d : Int) (s : State) :
    delayWord (moveTap pc point i d s) pc point i = movedDelay (delayWord s pc point i) d := by
  rw [delayWord, moveTap, setDelay, modMc, find?_insert_same]
  rfl

theorem delayWord_moveTap_ne {i j : Nat} (h : j ≠ i) (pc point : Nat) (d : Int) (s : State) :
    delayWord (moveTap pc point i d s) pc point j = delayWord s pc point j := by
  rw [delayWord, moveTap, setDelay, modMc, find?_insert_ne _ _ (by omega)]
  rfl

/-- The fold over the words of a list of different numbers moves each once. -/
theorem delayWord_foldl {l : List (Nat × Int)} (hd : (l.map (·.1)).Nodup) (pc point : Nat) {i : Nat} {d : Int} (hm : (i, d) ∈ l)
    (s : State) : delayWord (l.foldl (fun s x => moveTap pc point x.1 x.2 s) s) pc point i = movedDelay (delayWord s pc point i) d := by
  have hne (l : List (Nat × Int)) (u : State) (h : i ∉ l.map (·.1)) :
      delayWord (l.foldl (fun s x => moveTap pc point x.1 x.2 s) u) pc point i = delayWord u pc point i :=
    List.foldlRecOn (motive := fun t : State => delayWord t pc point i = delayWord u pc point i) l _ rfl fun t ht x hx =>
      (delayWord_moveTap_ne (fun e => h (e ▸ List.mem_map_of_mem (f := Prod.fst) hx)) pc point x.2 t).trans ht
  induction l generalizing s with
  | nil => exact absurd hm List.not_mem_nil
  | cons e l ih =>
    rw [List.map_cons, List.nodup_cons] at hd
    rcases List.mem_cons.1 hm with rfl | hm
    · exact (hne l _ hd.1).trans (delayWord_moveTap pc point i d s)
    · refine (ih hd.2 hm (moveTap pc point e.1 e.2 s)).trans (congrArg (movedDelay · d) (delayWord_moveTap_ne ?_ pc point e.2 s))
      exact fun h => hd.1 (h ▸ List.mem_map_of_mem (f := Prod.fst) hm)

theorem delayWord_tapsMoved (pc point : Nat) {move : List Int} {i : Nat} {d : Int} (hi : i < 16) (hd : move[i]? = some d) (s : State) :
    delayWord (tapsMoved pc point move s) pc point i = movedDelay (delayWord s pc point i) d := by
  refine delayWord_foldl ?_ pc point ?_ s
  · rw [List.zip_eq_zip_take_min, List.map_fst_zip (by simp)]
    exact List.nodup_range.sublist (List.take_sublist _ _)
  · refine List.mem_of_getElem? (i := i) ?_
    rw [List.getElem?_zip_eq_some]
    exact ⟨List.getElem?_range hi, hd⟩

/-- Moving taps changes the delays alone. -/
theorem tapsMoved_else (pc point : Nat) (move : List Int) (s : State) :
    (tapsMoved pc point move s).regs = s.regs ∧ ∃ d, (tapsMoved pc point move s).mc = { s.mc with delays := d } :=
  List.foldlRecOn (motive := fun t : State => t.regs = s.regs ∧ ∃ d, t.mc = { s.mc with delays := d }) _ _ ⟨rfl, s.mc.delays, rfl⟩
    fun _ ⟨hr, _, hm⟩ _ _ => ⟨hr, _, by rw [moveTap, setDelay, modMc, hm]⟩

theorem gatherEnd_pass_outcome (w : s.regs.wf = true) {pc reads writes : Nat} (move : List Int) (hg : s.mc.gather = some pc)
    (hr : 64 ≤ reads) (hw : 64 ≤ writes) :
    let t := gatherEnd reads writes move true s
    rbit t Reg.mcStatus 5 = false ∧ t.mc.gather = none ∧ t.mc.trackFail = s.mc.trackFail.set pc 0 ∧ t.mc.failed = s.mc.failed ∧
      ∀ i d, i < 16 → move[i]? = some d →
        delayWord t pc (rfld s Reg.mcStatus 1 0) i = movedDelay (delayWord s pc (rfld s Reg.mcStatus 1 0) i) d := by
  obtain ⟨-, h5⟩ := windowClosed_regs w
  have hmc : (modMc (fun m => { m with trackFail := m.trackFail.set pc 0 }) (windowClosed s)).mc =
      { s.mc with gather := none, trackFail := s.mc.trackFail.set pc 0 } := by
    rw [modMc, windowClosed_mc]
    rfl
  obtain ⟨hregs, d', hd'⟩ := tapsMoved_else pc (rfld s Reg.mcStatus 1 0) move
    (modMc (fun m => { m with trackFail := m.trackFail.set pc 0 }) (windowClosed s))
  rw [gatherEnd_passes hg hr hw]
  dsimp only
  rw [hd', hmc]
  refine ⟨by rw [rbit, reg, hregs]; exact h5, rfl, rfl, rfl, fun i d hi hd => ?_⟩
  rw [delayWord_tapsMoved _ _ hi hd, delayWord, hmc, delayWord]

/-! ## Bursts (R412) -/

/-- The bursts of PC pc within the last second, with the one of now. -/
def recentBursts (pc : Nat) (s : State) : List (Nat × LinkTime) :=
  ((pc, s.linkTime) :: s.mc.bursts).filter fun b => b.1 == pc && decide (since s b.2 ≤ secTicks)

/-- The burst counted and kept. -/
def burstNoted (pc : Nat) (s : State) : State :=
  modMc (fun m => { m with bursts := (recentBursts pc s).take 16 ++ s.mc.bursts.filter fun b => b.1 != pc })
    (incSat (Reg.mcErr pc) 31 16 s)

theorem uncorrectable_eq (pc : Nat) (s : State) : uncorrectable pc s =
    if 16 ≤ ((pc, s.linkTime) :: s.mc.bursts).countP (fun b => b.1 == pc && decide (since s b.2 ≤ secTicks)) then
      pcFail pc (burstNoted pc s) else burstNoted pc s := by
  rw [List.countP_eq_length_filter]
  rfl

theorem now_mem_burstNoted (pc : Nat) (s : State) : (pc, s.linkTime) ∈ (burstNoted pc s).mc.bursts := by
  have hs : (fun b : Nat × LinkTime => b.1 == pc && decide (since s b.2 ≤ secTicks)) (pc, s.linkTime) = true := by
    simp [since]
  refine List.mem_append_left _ ?_
  rw [recentBursts, List.filter_cons, if_pos hs, List.take_succ_cons]
  exact List.mem_cons_self

/-! ## The pattern generator (R418) -/

/-- A run begins: the compare helper's registers are 0. -/
def patternBegun (v : Word) (s : State) : State :=
  modMc (fun m => { m with patRun := true }) (setReg Reg.mcCmpBits0 0 (setReg Reg.mcCmpBits1 0 (setReg Reg.mcCmpStat 0
    (setReg Reg.mcPgCtrl (v &&& 0x0730FFFF) s))))

theorem patternBegun_regs (w : s.regs.wf = true) (v : Word) :
    reg (patternBegun v s) Reg.mcPgCtrl = v &&& 0x0730FFFF ∧ reg (patternBegun v s) Reg.mcCmpStat = 0 ∧
      reg (patternBegun v s) Reg.mcCmpBits0 = 0 ∧ reg (patternBegun v s) Reg.mcCmpBits1 = 0 := by
  have w1 := setReg_wf w Reg.mcPgCtrl (v &&& 0x0730FFFF)
  have w2 := setReg_wf w1 Reg.mcCmpStat 0
  have w3 := setReg_wf w2 Reg.mcCmpBits1 0
  show reg (setReg Reg.mcCmpBits0 0 (setReg Reg.mcCmpBits1 0 _)) _ = _ ∧ reg (setReg Reg.mcCmpBits0 0 _) _ = _ ∧
    reg (setReg Reg.mcCmpBits0 0 _) _ = _ ∧ reg (setReg Reg.mcCmpBits0 0 _) _ = _
  refine ⟨?_, ?_, reg_setReg_same w3 _ _, (reg_setReg_ne w3 _ (by decide)).trans (reg_setReg_same w2 _ _)⟩
  · exact (reg_setReg_ne w3 _ (by decide)).trans ((reg_setReg_ne w2 _ (by decide)).trans
      ((reg_setReg_ne w1 _ (by decide)).trans (reg_setReg_same w _ _)))
  · exact (reg_setReg_ne w3 _ (by decide)).trans ((reg_setReg_ne w2 _ (by decide)).trans (reg_setReg_same w1 _ _))

/-- A run that writes leaves the contents of the PC under test open; one that only reads leaves the memory as it is. -/
theorem patternRun_begins {v : Word} (hm : manualMode s = true) (hb : bit v 31 = true) :
    (patternRun v s).regs = (patternBegun v s).regs ∧ (patternRun v s).mc = (patternBegun v s).mc ∧
      (fld v 21 20 = 1 ∨ fld v 21 20 = 3 → (patternRun v s).dram = s.dram) := by
  unfold patternRun
  rw [if_neg (by rw [hm]; nofun)]
  dsimp only
  rw [if_pos hb]
  split
  case isTrue h => exact ⟨rfl, rfl, fun h' => by omega⟩
  case isFalse => exact ⟨rfl, rfl, fun _ => rfl⟩

theorem patternRunDone_outcome (w : s.regs.wf = true) (failed : BitVec 16) (dq0 dq1 : Word) (h : s.mc.patRun = true) :
    ∃ t, exec (.patternRunDone failed dq0 dq1) s = .next t ∧ t.mc = { s.mc with patRun := false } ∧
      reg t Reg.mcCmpBits0 = dq0 ∧ reg t Reg.mcCmpBits1 = dq1 ∧ rbit t Reg.mcCmpStat 31 = true ∧
      rfld t Reg.mcCmpStat 15 0 = failed.toNat := by
  have w1 := setReg_wf (s := modMc (fun m => { m with patRun := false }) s) w Reg.mcCmpStat (at_ 31 31 1 ||| at_ 15 0 failed.toNat)
  have w2 := setReg_wf w1 Reg.mcCmpBits1 dq1
  obtain ⟨-, hv⟩ := raiseVec_regs (setReg_wf w2 Reg.mcCmpBits0 dq0) 21
  have hstat := (hv Reg.mcCmpStat (by decide)).trans ((reg_setReg_ne w2 dq0 (by decide)).trans
    ((reg_setReg_ne w1 dq1 (by decide)).trans (reg_setReg_same (s := modMc (fun m => { m with patRun := false }) s) w _ _)))
  refine ⟨_, congrArg Host.Outcome.next (if_pos h), raiseVec_mc _ _, (hv _ (by decide)).trans (reg_setReg_same w2 _ _),
    (hv _ (by decide)).trans ((reg_setReg_ne w2 _ (by decide)).trans (reg_setReg_same w1 _ _)), ?_, ?_⟩
  · rw [rbit, hstat, bit_or, Bool.or_eq_true]
    exact .inl (bit_at_same (n := 31) (by decide) true)
  · rw [rfld, hstat, fld_or, fld_at_out _ (by decide) (by decide) (by decide) (by decide), fld_at_same _ (by decide) (by decide),
      Nat.zero_or]
    exact Nat.mod_eq_of_lt failed.isLt

end

/-- Settles O29: a window that closes, a burst and a run of the pattern generator are each one branch of their operation. -/
theorem memoryTrainingAndErrors : Obligations.MemoryTrainingAndErrors := by
  intro s w
  obtain ⟨wr, -⟩ := State.wf_iff.1 w
  have hclose (pc reads writes : Nat) (move : List Int) (pass : Bool) (hu : upNow s = true) :
      exec (.gatherWindowEnd reads writes move pass) s = .next (gatherEnd reads writes move pass s) :=
    congrArg Host.Outcome.next (if_pos hu)
  have hburst (pc : PcId) (hp : powered s = true) : exec (.uncorrectableBurst pc) s = .next (uncorrectable pc.val s) :=
    congrArg Host.Outcome.next (if_pos hp)
  refine ⟨fun p hr hm hd hp => ?_, fun pc reads writes move pass hu hg hf => ?_,
    fun pc reads writes move hu hg h1 h2 => ⟨_, hclose pc _ _ _ _ hu, gatherEnd_pass_outcome wr move hg h1 h2⟩,
    fun pc reads writes move hu hg h1 h2 hn => ?_, fun pc reads writes move hu hg h1 h2 hn => ?_, fun pc hp hn => ?_,
    fun pc hp hf hn => ?_, fun v ho hm hb => ?_, fun v ho hm => ?_, fun failed dq0 dq1 h => patternRunDone_outcome wr failed dq0 dq1 h⟩
  · have he : exec .trackPeriod s = .next (setBit Reg.mcStatus 5 true
        (modMc (fun m => { m with gather := some p, nextPc := (p + 1) % 16 }) s)) :=
      congrArg Host.Outcome.next ((if_pos (upNow_of_run hr)).trans (trackStart_gathers hr hm hd hp))
    exact ⟨_, he, rfl, rbit_setBit_same (s := modMc _ s) wr _ _ (by decide)⟩
  · exact ⟨_, (hclose pc _ _ _ _ hu).trans (congrArg _ (gatherEnd_few hg hf pass)), windowClosed_mc s, (windowClosed_regs wr).2⟩
  · have he := (hclose pc reads writes move false hu).trans (congrArg _ ((gatherEnd_fails hg h1 h2).trans (if_neg (by omega))))
    exact ⟨_, he, (windowClosed_regs wr).2, trackFailed_mc pc s⟩
  · have he := (hclose pc reads writes move false hu).trans (congrArg _ ((gatherEnd_fails hg h1 h2).trans (if_pos (by omega))))
    refine ⟨_, he, ?_, ?_⟩
    · rw [pcFail_mc, trackFailed_mc]
      split
      · rfl
      · exact DramState.withFailed_gather rfl _
    · rw [pcFail_failed pc.isLt, decide_eq_true rfl, Bool.or_true]
  · have he := (hburst pc hp).trans (congrArg _ ((uncorrectable_eq pc.val s).trans (if_neg (by omega))))
    exact ⟨_, he, rfl, ((incSat_halves wr (Reg.mcErr pc.val)).1).1, now_mem_burstNoted pc.val s⟩
  · have he := (hburst pc hp).trans (congrArg _ ((uncorrectable_eq pc.val s).trans (if_pos hn)))
    exact ⟨_, he, by rw [pcFail_failed pc.isLt, decide_eq_true rfl, Bool.or_true]⟩
  · obtain ⟨hregs, hmc, hdram⟩ := patternRun_begins hm hb
    obtain ⟨hctrl, hstat, hbits0, hbits1⟩ := patternBegun_regs wr v
    have hreg (a : Nat) : reg (patternRun v s) a = reg (patternBegun v s) a := congrArg (·.get a) hregs
    exact ⟨_, congrArg Host.Outcome.next (hostWrite_open ho v patternRun), hmc, (hreg _).trans hctrl, (hreg _).trans hstat,
      (hreg _).trans hbits0, (hreg _).trans hbits1, hdram⟩
  · have he : patternRun v s = logAccess .MC_STATE 0 Reg.mcPgCtrl s := if_pos (by rw [hm]; rfl)
    exact ⟨_, congrArg Host.Outcome.next ((hostWrite_open ho v patternRun).trans he), 
      (logAccess_keeps _ _ _ s).same (k := .mc) (by decide), logAccess_newest wr _ _ _, (logAccess_regs wr _ _ _).2 _ (by simp [logArea, Reg.mcPgCtrl, Reg.msixPba, Reg.frLogStat, Reg.frFault, Reg.frLog])⟩

end Sys2Proof.Machine
end

section
/-! PROOFS. The part-wide states: requests, entry to and exit from Doze and Park (R430, R445 to R448). -/

set_option Elab.async false

namespace Sys2Proof.Machine

section
variable {s : State}

/-! ## Requests (R446 to R448) -/

/-- A request that is not refused is shown in REQ with RESULT OK. -/
def requestShown (r : Nat) (s : State) : State := setFld Reg.genStateReq 1 0 r (setFld Reg.genState 31 16 0 s)

theorem requestShown_regs (w : s.regs.wf = true) {r : Nat} (hr : r < 4) :
    (requestShown r s).regs.wf = true ∧ rfld (requestShown r s) Reg.genStateReq 1 0 = r :=
  ⟨setFld_wf (setFld_wf w _ _ _ _) _ _ _ _,
    (rfld_setFld_same (setFld_wf w _ _ _ _) _ _ (by decide) (by decide)).trans (Nat.mod_eq_of_lt hr)⟩

theorem stateReq_asks {v : Word} {r : Nat} (hv : fld v 1 0 = r) (hr : r ≠ 1) : stateReq v s = takeRequest r (requestShown r s) := by
  subst hv
  exact if_neg hr

/-- Where the part takes a request in Run: a return to Run withdraws what is held. -/
theorem takeRequest_run {r : Nat} (hst : s.power.st = .run) : takeRequest r s =
    if r = 0 then setBit Reg.genState 8 false (modPower (fun p => { p with queued := none }) s)
    else if entryHeld s then setBit Reg.genState 8 true (modPower (fun p => { p with queued := some r }) s)
    else beginEntry (if r = 2 then .enteringDoze else .enteringPark false) s := by
  rw [takeRequest, hst]

theorem takeRequest_wakes (hst : s.power.st = .doze) : takeRequest 0 s = beginExit s := by
  rw [takeRequest, hst]
  exact if_pos rfl

/-- After the part's state is taken, the steps of an entry reach the links, the slots, the bridge and the controller alone (R446). -/
theorem beginEntry_power (x : PState) (s : State) : (beginEntry x s).power = { s.power with st := x, queued := none } := by
  unfold beginEntry
  extract_lets s1 s2 s3
  have h2 : Keeps [.regs, .pitchAct, .dram, .out, .slots, .ports, .fr, .page, .mc, .heat, .loops, .sb] s1 s2 :=
    keeps_forAll _ _ (fun p _ h => keeps_stopLink (by decide) p h) (keeps_lenDropAll (by decide) 7 (.refl _ s1))
  have h3 := keeps_stopBridge (by decide) (keeps_endGather (by decide)
    (keeps_forAll (declaredSlots s2) enterIdle (fun n _ h => keeps_enterIdle (by decide) n h) h2))
  exact h3.same (k := .power) (by decide)

theorem beginExit_outcome (w : s.regs.wf = true) :
    (beginExit s).power = { s.power with st := .leaving, queued := none } ∧ rfld (beginExit s) Reg.genStateReq 1 0 = 0 :=
  ⟨rfl, rfld_setFld_same (s := modPower _ s) w _ _ (by decide) (by decide)⟩

theorem request_enters {v : Word} {r : Nat} (hv : fld v 1 0 = r) (h0 : r ≠ 0) (h1 : r ≠ 1) (hst : s.power.st = .run)
    (hh : entryHeld s = false) :
    (stateReq v s).power.st = if r = 2 then .enteringDoze else .enteringPark false := by
  rw [stateReq_asks hv h1, takeRequest_run (s := requestShown r s) hst, if_neg h0,
    if_neg (fun h : entryHeld (requestShown r s) = true => Bool.false_ne_true (hh.symm.trans h)), beginEntry_power]

theorem request_held {v : Word} {r : Nat} (w : s.regs.wf = true) (hv : fld v 1 0 = r) (h0 : r ≠ 0) (h1 : r ≠ 1)
    (hst : s.power.st = .run) (hh : entryHeld s = true) :
    (stateReq v s).power = { s.power with queued := some r } ∧ rbit (stateReq v s) Reg.genState 8 = true := by
  have wr : (requestShown r s).regs.wf = true := setFld_wf (setFld_wf w _ _ _ _) _ _ _ _
  have he : stateReq v s = setBit Reg.genState 8 true (modPower (fun p => { p with queued := some r }) (requestShown r s)) := by
    rw [stateReq_asks hv h1, takeRequest_run (s := requestShown r s) hst, if_neg h0]
    exact if_pos hh
  rw [he]
  exact ⟨rfl, rbit_setBit_same (s := modPower _ (requestShown r s)) wr _ _ (by decide)⟩

/-- A Run request in Run withdraws a held one (R448). -/
theorem request_withdrawn (w : s.regs.wf = true) (hst : s.power.st = .run) :
    (stateReq 0 s).power = { s.power with queued := none } ∧ rbit (stateReq 0 s) Reg.genState 8 = false ∧
      rfld (stateReq 0 s) Reg.genStateReq 1 0 = 0 := by
  obtain ⟨wr, h0⟩ := requestShown_regs w (r := 0) (by decide)
  have he : stateReq 0 s = setBit Reg.genState 8 false (modPower (fun p => { p with queued := none }) (requestShown 0 s)) := by
    rw [stateReq_asks (r := 0) rfl (by decide), takeRequest_run (s := requestShown 0 s) hst, if_pos rfl]
  rw [he]
  exact ⟨rfl, rbit_setBit_same (s := modPower _ (requestShown 0 s)) wr _ _ (by decide),
    (rfld_setFld_ne (s := modPower _ (requestShown 0 s)) wr _ _ _ _ _ (by decide)).trans h0⟩

theorem request_wakes (w : s.regs.wf = true) (hst : s.power.st = .doze) :
    (stateReq 0 s).power = { s.power with st := .leaving, queued := none } ∧ rfld (stateReq 0 s) Reg.genStateReq 1 0 = 0 := by
  rw [stateReq_asks (r := 0) rfl (by decide), takeRequest_wakes (s := requestShown 0 s) hst]
  exact beginExit_outcome (requestShown_regs w (by decide)).1

/-! ## Entry and exit (R446, R447) -/

theorem dozeEntered (hst : s.power.st = .enteringDoze) (hq : s.power.queued = none) :
    (entryComplete s).power = { s.power with st := .doze } ∧ (entryComplete s).mc.sr = 0xFFFF ∧ stateCode (entryComplete s) = 2 := by
  have hp : (raiseVec 0 (setSt .doze (modMc (fun m => { m with sr := 0xFFFF }) s))).power = { s.power with st := .doze } :=
    raiseVec_power _ _
  have he : entryComplete s = raiseVec 0 (setSt .doze (modMc (fun m => { m with sr := 0xFFFF }) s)) := by
    rw [entryComplete, hst]
    exact serveQueued_none ((congrArg (·.queued) hp).trans hq)
  rw [he, hp, raiseVec_mc, stateCode, hp]
  exact ⟨rfl, rfl, rfl⟩

theorem parkEntered (w : s.regs.wf = true) {thermal : Bool} (hst : s.power.st = .enteringPark thermal) :
    (entryComplete s).power.st = .park ∧ rfld (entryComplete s) Reg.genResetCause 23 20 = (if thermal then 2 else 1) ∧
      (entryComplete s).dram = [] ∧ (entryComplete s).cast = CastState.boot := by
  have he : entryComplete s = parkReset (setParkWhy (if thermal then 2 else 1) s) := by rw [entryComplete, hst]
  have hk : reg (parkReset (setParkWhy (if thermal then 2 else 1) s)) Reg.genResetCause =
      reg (setParkWhy (if thermal then 2 else 1) s) Reg.genResetCause :=
    keptRegs_get (List.mem_append_right _ (by decide)) (by decide) _
  rw [he]
  refine ⟨rfl, ?_, rfl, rfl⟩
  rw [rfld, hk, ← rfld, setParkWhy, rfld_setFld_same w _ _ (by decide) (by decide)]
  cases thermal <;> rfl

/-- The links in Detect, the memory out of self-refresh and retrained. -/
def dozeWoken (s : State) : State := helpersUsed (modMc (fun m => { m with sr := 0 }) (forAll (List.range 8) enterDetect s))

/-- Pending requests applied, what Doze loses cleared, and the loops open. -/
def dozeRestored (s : State) : State := loopsDozeExit (dozeClear (forAll (declaredSlots s) applyAtOnce s))

theorem dozeWoken_keeps (s : State) : Keeps [.regs, .out, .ports, .mc, .freeCount] s (dozeWoken s) :=
  keeps_helpersUsed (by decide) (keeps_modMc (by decide) _ (keeps_forAll _ _ (fun p _ h => keeps_enterDetect (by decide) p h) (.refl _ s)))

theorem dozeWoken_sr (s : State) : (dozeWoken s).mc.sr = 0 := congrArg (·.sr) (helpersUsed_mc _)

theorem dozeRestored_keeps (s : State) : Keeps [.regs, .pitchAct, .out, .slots, .fr, .loops] s (dozeRestored s) :=
  keeps_loopsDozeExit (by decide) (keeps_dozeClear (by decide)
    (keeps_forAll _ _ (fun n _ h => keeps_applyAtOnce (by decide) n h) (.refl _ s)))

/-- The part is in Run, with the slots in Dim where a dip hold runs (R444). -/
def dozeAwake (s : State) : State :=
  let u := modPower (fun p => { p with wakeT := s.linkTime }) (setSt .run s)
  if rbit u Reg.genDip 16 then forAll (declaredSlots u) (fun n s => engageDim n (modSlot n (fun q => { q with dimDip := true }) s)) u
  else u

theorem dozeAwake_outcome (s : State) :
    (dozeAwake s).power = { s.power with st := .run, wakeT := s.linkTime } ∧ (dozeAwake s).mc = s.mc := by
  unfold dozeAwake
  extract_lets u
  split
  · have hk : Keeps [.regs, .slots] u (forAll (declaredSlots u) (fun n s => engageDim n (modSlot n (fun q => { q with dimDip := true }) s)) u) :=
      keeps_forAll _ _ (fun n _ h => keeps_engageDim (by decide) n (keeps_modSlot (by decide) n _ h)) (.refl _ u)
    exact ⟨hk.same (k := .power) (by decide), hk.same (k := .mc) (by decide)⟩
  · exact ⟨rfl, rfl⟩

theorem dozeLeft (hst : s.power.st = .leaving) (hq : s.power.queued = none) :
    (dozeExit s).power = { s.power with st := .run, wakeT := s.linkTime } ∧ (dozeExit s).mc.sr = 0 ∧ stateCode (dozeExit s) ≤ 1 := by
  obtain ⟨hpower, hmc⟩ := dozeAwake_outcome (dozeRestored (dozeWoken s))
  have hr := dozeRestored_keeps (dozeWoken s)
  have hw := dozeWoken_keeps s
  have hp : (dozeRestored (dozeWoken s)).power = s.power := (hr.same (k := .power) (by decide)).trans (hw.same (k := .power) (by decide))
  have ht : (dozeRestored (dozeWoken s)).linkTime = s.linkTime :=
    (hr.same (k := .linkTime) (by decide)).trans (hw.same (k := .linkTime) (by decide))
  have hsr : (dozeRestored (dozeWoken s)).mc = (dozeWoken s).mc := hr.same (k := .mc) (by decide)
  rw [hp, ht] at hpower
  have hq' : (raiseVec 0 (dozeAwake (dozeRestored (dozeWoken s)))).power = { s.power with st := .run, wakeT := s.linkTime } :=
    (raiseVec_power _ _).trans hpower
  have he : dozeExit s = raiseVec 0 (dozeAwake (dozeRestored (dozeWoken s))) :=
    (if_neg (not_not.2 hst)).trans (serveQueued_none ((congrArg (·.queued) hq').trans hq))
  rw [he]
  refine ⟨hq', ?_, stateCode_run (congrArg (·.st) hq')⟩
  rw [raiseVec_mc, hmc, hsr, dozeWoken_sr]

theorem wakeEdge_wakes (hst : s.power.st = .doze) {m : Nat} {rising : Bool} (h4 : 4 ≤ m) (he : rbit s Reg.genWake m = true)
    (hp : rbit s Reg.genWake (m + 16) = rising) : wakeEdge m rising s = beginExit s := by
  unfold wakeEdge
  rw [if_neg, hst]
  rintro (h | h | h)
  · omega
  · exact h he
  · exact h hp

theorem thermalPark_parks (hst : s.power.st = .run) (hc : critDim s = true) (ht : 100 * msTicks ≤ since s s.heat.tripAt) :
    (thermalPark s).power.st = .enteringPark true := by
  have he : thermalPark s = beginEntry (.enteringPark true) s := by
    unfold thermalPark
    rw [if_neg (not_or.2 ⟨not_not.2 hc, by omega⟩), hst]
  rw [he, beginEntry_power]

end

/-- Settles O13: a request is one branch of R446 to R448, and what an entry or an exit does to the blocks leaves the part's state
alone. -/
theorem partWideStates : Obligations.PartWideStates := by
  refine ⟨fun s w ho => ?_, fun s w => ?_⟩
  · obtain ⟨wr, -⟩ := State.wf_iff.1 w
    have hreq (v : Word) : (.next (hostWrite Reg.genStateReq v stateReq s) : Host.Outcome State Fault Refusal) = .next (stateReq v s) :=
      congrArg Host.Outcome.next (hostWrite_open ho v stateReq)
    exact ⟨fun hst hh => ⟨⟨_, hreq 2, request_enters (r := 2) rfl (by decide) (by decide) hst hh⟩,
        ⟨_, hreq 3, request_enters (r := 3) rfl (by decide) (by decide) hst hh⟩⟩,
      fun hst hh => ⟨⟨_, hreq 2, request_held (r := 2) wr rfl (by decide) (by decide) hst hh⟩,
        ⟨_, hreq 3, request_held (r := 3) wr rfl (by decide) (by decide) hst hh⟩⟩,
      fun hst => ⟨_, hreq 0, request_wakes wr hst⟩, fun hst => ⟨_, hreq 0, request_withdrawn wr hst⟩⟩
  · obtain ⟨wr, -⟩ := State.wf_iff.1 w
    exact ⟨fun hst hq => ⟨_, rfl, dozeEntered hst hq⟩, fun thermal hst => ⟨_, rfl, parkEntered wr hst⟩,
      fun m rising hst h4 he hp => ⟨_, congrArg Host.Outcome.next (wakeEdge_wakes hst h4 he hp), beginExit_outcome wr⟩,
      fun hst hq => ⟨_, rfl, dozeLeft hst hq⟩, fun hst hc ht => ⟨_, rfl, thermalPark_parks hst hc ht⟩⟩

end Sys2Proof.Machine
end

section
/-! PROOFS. Detect and Train: presence, the steps of training and its failure (R308 to R310). -/

set_option Elab.async false

namespace Sys2Proof.Machine

section
variable {s t : State} {p : Nat}

/-! ## Words and bits of STATUS that an operation leaves -/

theorem linkState_setBit (w : s.regs.wf = true) (p : Nat) {i : Nat} (h : 2 < i) (hi : i < 32) (b : Bool) :
    linkState (setBit (Reg.epStatus p) i b s) p = linkState s p :=
  rfld_setFld_out w _ _ hi (Nat.le_refl i) (.inl h) (by decide)

/-- Ending a hold leaves every bit of STATUS but HOLD. -/
theorem rbit_endHold (w : s.regs.wf = true) (p : Nat) {i : Nat} (h : i ≠ 3) :
    rbit (endHold p s) (Reg.epStatus p) i = rbit s (Reg.epStatus p) i := by
  cases hb : rbit s (Reg.epStatus p) 3 with
  | false => rw [endHold_free hb]
  | true =>
    rw [endHold_held hb, rbit_setBit_ne (by rw [modPort_regs]; exact w) _ _ (by decide) h, rbit, reg_modPort, rbit]

/-- A port in Detect: nothing of its link is kept (R308). -/
def PortState.undetected (q : PortState) : PortState := { q with
  trainStep := 0, echoes := [], series := false, probes := 0, wait := [], rxErr := 0, misses := 0, errs := [], engErrs := []
  quiesce := none, identified := false, rejected := false, bind := 0, minLead := 0 }

theorem enterDetect_ports (hp : p < 8) (s : State) :
    portAt (enterDetect p s) p = (portAt s p).undetected ∧ ∀ k, k ≠ p → portAt (enterDetect p s) k = portAt s k := by
  have h (k : Nat) : portAt (enterDetect p s) k = portAt (modPort p PortState.undetected s) k := portAt_setLink p _ _ k
  exact ⟨(h p).trans (portAt_modPort_same hp _ s), fun k hk => (h k).trans (portAt_modPort_ne hk _ s)⟩

theorem enterDetect_slots (p : Nat) (s : State) : (enterDetect p s).slots = s.slots :=
  (keeps_enterDetect (F := [.regs, .out, .ports]) (List.Subset.refl _) p (.refl _ s)).same (k := .slots) (by decide)

/-- Entering Detect writes of the port's registers only STATUS. -/
theorem enterDetect_regs (w : s.regs.wf = true) (p : Nat) : (enterDetect p s).regs.wf = true ∧
    ∀ o, o ≠ 4 → reg (enterDetect p s) (Reg.ep p + o) = reg s (Reg.ep p + o) := by
  have wm : (modPort p PortState.undetected s).regs.wf = true := by rw [modPort_regs]; exact w
  obtain ⟨wl, hl⟩ := setLink_regs (p := p) (setFld_wf wm (Reg.epStatus p) 15 6 0) lsDetect
  refine ⟨wl, fun o ho => ?_⟩
  have hne : Reg.ep p + o ≠ Reg.epStatus p := by rw [Reg.epStatus]; omega
  exact (hl _ hne (ep_ne_epVec o p)).trans ((reg_setFld_ne wm _ _ _ hne).trans (reg_modPort p _ s _))

/-! ## Detect (R308) -/

/-- A port at the first step of Train. -/
def PortState.training (q : PortState) : PortState := { q with trainStep := 1, echoes := [], series := false }

theorem detectComplete_outcome (w : s.regs.wf = true) (hp : p < 8) (ho : portOn s p = true) (hl : linkState s p = lsDetect)
    (hh : rbit s (Reg.epStatus p) 3 = false) :
    linkState (detectComplete p s) p = lsTrain ∧ rbit (detectComplete p s) (Reg.epStatus p) 5 = true ∧
      portAt (detectComplete p s) p = (portAt s p).training ∧ (∀ k, k ≠ p → portAt (detectComplete p s) k = portAt s k) ∧
      (detectComplete p s).slots = s.slots := by
  have wm : (modPort p PortState.training s).regs.wf = true := by rw [modPort_regs]; exact w
  have wb : (setBit (Reg.epStatus p) 5 true (modPort p PortState.training s)).regs.wf = true := setBit_wf wm _ _ _
  have he : detectComplete p s = emit (.ctl p (.train 1 0)) (setLink p lsTrain (setBit (Reg.epStatus p) 5 true
      (modPort p PortState.training s))) := if_neg (by simp [ho, hl, hh])
  rw [he]
  refine ⟨linkState_setLink wb hp (by decide), ?_, ?_, fun k hk => ?_, ?_⟩
  · exact (rbit_setLink wb hp _ (by decide)).trans (rbit_setBit_same wm _ _ (by decide))
  · rw [portAt_emit, portAt_setLink, portAt_setBit, portAt_modPort_same hp]
  · rw [portAt_emit, portAt_setLink, portAt_setBit, portAt_modPort_ne hk]
  · rw [emit_slots, setLink_slots, setBit_slots, modPort_slots]

/-! ## The presence pin (R309, R333) -/

theorem presenceAsserted_outcome {p : Port} (w : s.regs.wf = true) (h : portHears s p.val = true)
    (hr : linkState s p.val ≠ lsIdentify ∨ (portAt s p.val).rejected = false) :
    ∃ t, exec (.presenceAsserted p) s = .next t ∧ rbit t (Reg.epStatus p.val) 5 = true ∧ rbit t (Reg.epStatus p.val) 3 = false ∧
      linkState t p.val = linkState s p.val ∧ (rbit s (Reg.epStatus p.val) 3 = true → (portAt t p.val).trainFails = 0) ∧
      (∀ k, k ≠ p.val → portAt t k = portAt s k) ∧ t.slots = s.slots := by
  have wb := setBit_wf w (Reg.epStatus p.val) 5 true
  have hls := linkState_setBit w p.val (i := 5) (by decide) (by decide) true
  obtain ⟨-, -, hhold, hst, hfails, ⟨m, hport⟩, hports, hslots⟩ := endHold_outcome wb p.isLt
  rw [hls] at hst
  rw [rbit_setBit_ne w _ _ (by decide) (by decide)] at hfails
  refine ⟨_, (exec_presenceAsserted h).trans (congrArg _ (retryBind_of_other ?_)), ?_, hhold, hst, hfails,
    fun k hk => (hports k hk).trans (portAt_setBit _ _ _ _ _), hslots⟩
  · rw [hst, hport, portAt_setBit]
    exact hr
  · rw [rbit_endHold wb _ (by decide), rbit_setBit_same w _ _ (by decide)]

/-- In Detect and Lost there is nothing to lose. -/
theorem declareLost_none (h : linkState s p = lsDetect ∨ linkState s p = lsLost) (cause : Nat) : declareLost p cause s = s := if_pos h

theorem presenceLost_unlinked {p : Port} (w : s.regs.wf = true) (h : portHears s p.val = true)
    (hl : linkState s p.val = lsDetect ∨ linkState s p.val = lsLost) :
    ∃ t, exec (.presenceLost p) s = .next t ∧ rbit t (Reg.epStatus p.val) 5 = false ∧
      linkState t p.val = linkState s p.val ∧ t.ports = s.ports ∧ t.slots = s.slots := by
  have hls := linkState_setBit w p.val (i := 5) (by decide) (by decide) false
  have he : exec (.presenceLost p) s = .next (setBit (Reg.epStatus p.val) 5 false s) :=
    congrArg Host.Outcome.next ((if_pos h).trans (withDim_of_id (declareLost_none (hls.symm ▸ hl) 1)))
  exact ⟨_, he, rbit_setBit_same w _ _ (by decide), hls, rfl, rfl⟩

/-! ## Train (R310) -/

/-- What a training flit shows: the lanes the engine has locked, and the part's own. -/
def lanesShown (p lanes : Nat) (s : State) : State := setFld (Reg.epStatus p) 15 8 lanes (setFld (Reg.epStatus p) 7 6 3 s)

theorem lanesShown_regs (w : s.regs.wf = true) (p : Nat) {lanes : Nat} (h : lanes < 256) :
    rfld (lanesShown p lanes s) (Reg.epStatus p) 15 8 = lanes ∧ rfld (lanesShown p lanes s) (Reg.epStatus p) 7 6 = 3 := by
  have w1 : (setFld (Reg.epStatus p) 7 6 3 s).regs.wf = true := setFld_wf w _ _ _ _
  exact ⟨(rfld_setFld_same w1 _ _ (by decide) (by decide)).trans (Nat.mod_eq_of_lt h),
    (rfld_setFld_out w1 _ _ (by decide) (by decide) (.inl (by decide)) (by decide)).trans
      (rfld_setFld_same w _ _ (by decide) (by decide))⟩

/-- All lanes are locked: the uplink aligns, and the probe series begins. -/
def lanesLocked (p : Nat) (s : State) : State :=
  startSeries p (emit (.ctl p .align) (emit (.ctl p (.train 3 3)) (modPort p (fun q => { q with trainStep := 4 }) s)))

theorem trainFlit_eq (hl : linkState s p = lsTrain) (lanes : Nat) : trainFlit p 2 lanes s =
    if lanes = 255 ∧ (portAt s p).trainStep < 4 then lanesLocked p (lanesShown p lanes s) else lanesShown p lanes s :=
  if_neg (by simp [hl])

theorem lanesLocked_outcome (hp : p < 8) (s : State) :
    (portAt (lanesLocked p s) p).trainStep = 4 ∧ (portAt (lanesLocked p s) p).series = true ∧
      (portAt (lanesLocked p s) p).echoes = [] ∧ (portAt (lanesLocked p s) p).probes = 15 ∧
      (lanesLocked p s).regs = s.regs ∧ (lanesLocked p s).slots = s.slots := by
  obtain ⟨hport, -, hregs, hslots⟩ := startSeries_outcome hp
    (emit (.ctl p .align) (emit (.ctl p (.train 3 3)) (modPort p (fun q => { q with trainStep := 4 }) s)))
  obtain ⟨hser, hech, hprob, -⟩ := startSeries_port hp
    (emit (.ctl p .align) (emit (.ctl p (.train 3 3)) (modPort p (fun q => { q with trainStep := 4 }) s)))
  refine ⟨?_, hser, hech, hprob, hregs.trans ?_, hslots.trans ?_⟩
  · refine (congrArg PortState.trainStep hport :).trans ?_
    rw [portAt_emit, portAt_emit, portAt_modPort_same hp]
    rfl
  · rw [emit_regs, emit_regs, modPort_regs]
  · rw [emit_slots, emit_slots, modPort_slots]

theorem trainFlit_outcome (w : s.regs.wf = true) {p : Port} (hl : linkState s p.val = lsTrain) (lanes : Byte) :
    ∃ t, exec (.trainFlit p 2 lanes) s = .next t ∧ rfld t (Reg.epStatus p.val) 15 8 = lanes.toNat ∧
      rfld t (Reg.epStatus p.val) 7 6 = 3 ∧
      (lanes = 255 → (portAt s p.val).trainStep < 4 → (portAt t p.val).trainStep = 4 ∧ (portAt t p.val).series = true ∧
        (portAt t p.val).echoes = [] ∧ (portAt t p.val).probes = 15) ∧
      (lanes ≠ 255 ∨ 4 ≤ (portAt s p.val).trainStep → t.ports = s.ports) ∧ t.slots = s.slots := by
  obtain ⟨hlanes, hown⟩ := lanesShown_regs w p.val lanes.isLt
  refine ⟨_, congrArg Host.Outcome.next (trainFlit_eq hl lanes.toNat), ?_⟩
  split
  case isTrue h =>
    obtain ⟨hstep, hser, hech, hprob, hregs, hslots⟩ := lanesLocked_outcome p.isLt (lanesShown p.val lanes.toNat s)
    have h255 : lanes = 255 := BitVec.eq_of_toNat_eq h.1
    refine ⟨by rw [rfld, reg, hregs]; exact hlanes, by rw [rfld, reg, hregs]; exact hown, fun _ _ => ⟨hstep, hser, hech, hprob⟩,
      fun hn => ?_, hslots⟩
    rcases hn with hn | hn
    · exact absurd h255 hn
    · exact absurd h.2 (by omega)
  case isFalse h =>
    exact ⟨hlanes, hown, fun h255 hs => absurd ⟨congrArg BitVec.toNat h255, hs⟩ h, fun _ => rfl, rfl⟩

/-- The end of Train's time is counted. -/
def trainFailed (p : Nat) (s : State) : State :=
  modPort p (fun q => { q with trainFails := (portAt s p).trainFails + 1 }) (epFlag p 3 (incSat (Reg.epCntC p) 31 16 s))

theorem trainFailed_regs (w : s.regs.wf = true) (p : Nat) : (trainFailed p s).regs.wf = true ∧
    rbit (trainFailed p s) (Reg.epFlags p) 3 = true ∧
    rfld (trainFailed p s) (Reg.epCntC p) 31 16 = min (rfld s (Reg.epCntC p) 31 16 + 1) 65535 := by
  have w1 : (incSat (Reg.epCntC p) 31 16 s).regs.wf = true := setFld_wf w _ _ _ _
  have hr : (trainFailed p s).regs = (epFlag p 3 (incSat (Reg.epCntC p) 31 16 s)).regs := modPort_regs _ _ _
  rw [rbit, rfld, reg, reg, hr]
  refine ⟨setBit_wf w1 _ _ _, rbit_setBit_same w1 _ _ (by decide), ?_⟩
  exact (rfld_setFld_ne w1 _ _ _ _ _ (by simp [Reg.epCntC, Reg.epFlags])).trans (incSat_halves w (Reg.epCntC p)).1.1

theorem trainTimeout_outcome (w : s.regs.wf = true) (hp : p < 8) (hl : linkState s p = lsTrain) :
    let t := trainTimeout p s
    linkState t p = lsDetect ∧ (portAt t p).trainFails = (portAt s p).trainFails + 1 ∧ rbit t (Reg.epFlags p) 3 = true ∧
      rfld t (Reg.epCntC p) 31 16 = min (rfld s (Reg.epCntC p) 31 16 + 1) 65535 ∧
      (2 ≤ (portAt s p).trainFails → rbit t (Reg.epStatus p) 3 = true) ∧ (∀ k, k ≠ p → portAt t k = portAt s k) ∧
      t.slots = s.slots := by
  obtain ⟨wf, hflag, hcnt⟩ := trainFailed_regs w p
  obtain ⟨wd, hregs⟩ := enterDetect_regs wf p
  obtain ⟨hst, -⟩ := enterDetect_state wf hp
  obtain ⟨hport, hports⟩ := enterDetect_ports hp (trainFailed p s)
  have hslots : (enterDetect p (trainFailed p s)).slots = s.slots :=
    (enterDetect_slots p _).trans (modPort_slots _ _ _)
  have hfails : (portAt (enterDetect p (trainFailed p s)) p).trainFails = (portAt s p).trainFails + 1 := by
    rw [hport, trainFailed, portAt_modPort_same hp]
    rfl
  have hother (k : Nat) (hk : k ≠ p) : portAt (enterDetect p (trainFailed p s)) k = portAt s k := by
    rw [hports k hk, trainFailed, portAt_modPort_ne hk, epFlag, portAt_setBit, portAt_incSat]
  have hf : rbit (enterDetect p (trainFailed p s)) (Reg.epFlags p) 3 = true :=
    (congrArg (bit · 3) (hregs _ (by decide))).trans hflag
  have hc : rfld (enterDetect p (trainFailed p s)) (Reg.epCntC p) 31 16 = min (rfld s (Reg.epCntC p) 31 16 + 1) 65535 :=
    (congrArg (fld · 31 16) (hregs _ (by decide))).trans hcnt
  have he : trainTimeout p s = if 3 ≤ (portAt s p).trainFails + 1 then
      setBit (Reg.epStatus p) 3 true (enterDetect p (trainFailed p s)) else enterDetect p (trainFailed p s) :=
    if_neg (not_not.2 hl)
  rw [he]
  split
  case isTrue =>
    refine ⟨(linkState_setBit wd p (by decide) (by decide) true).trans hst, by rw [portAt_setBit]; exact hfails, ?_, ?_,
      fun _ => rbit_setBit_same wd _ _ (by decide), fun k hk => (portAt_setBit _ _ _ _ _).trans (hother k hk), hslots⟩
    · exact (congrArg (bit · 3) (reg_setFld_ne wd _ _ _ (epFlags_ne_epStatus p))).trans hf
    · exact (congrArg (fld · 31 16) (reg_setFld_ne wd _ _ _ (by simp [Reg.epCntC, Reg.epStatus]))).trans hc
  case isFalse h => exact ⟨hst, hfails, hf, hc, fun h2 => absurd h2 (by omega), hother, hslots⟩

end

/-- Settles O45: each event is one branch of its operation on the port; that the end of a hold clears the count of failures is the
model's choice (log entry 63). -/
theorem linkTraining : Obligations.LinkTraining := by
  intro s p w
  obtain ⟨wr, -⟩ := State.wf_iff.1 w
  refine ⟨fun ho hl hh => ?_, fun h hr => presenceAsserted_outcome wr h hr, fun h hl => presenceLost_unlinked wr h hl,
    fun lanes hl => trainFlit_outcome wr hl lanes, fun step lanes h => ?_, fun hl => ⟨_, rfl, trainTimeout_outcome wr p.isLt hl⟩⟩
  · obtain ⟨hst, h5, hport, hports, hslots⟩ := detectComplete_outcome wr p.isLt ho hl hh
    exact ⟨_, rfl, hst, h5, hport ▸ rfl, hport ▸ rfl, hports, hslots⟩
  · exact congrArg Host.Outcome.next (if_pos (h.imp_right fun hs he => hs (BitVec.eq_of_toNat_eq he)))

end Sys2Proof.Machine
end

section
/-! PROOFS. Lost is declared on a port (R322, R464, R465): the cause, the end of the binding, containment and grace. -/

set_option Elab.async false

namespace Sys2Proof.Machine

section
variable {s t u : State} {p cause : Nat}

/-! ## What Lost shows -/

/-- Port p shows Lost with its cause and the flag; the higher bits of STATUS are those of s. -/
structure LostShown (s t : State) (p cause : Nat) : Prop where
  wf : t.regs.wf = true
  range : RunningInRange t
  state : linkState t p = lsLost
  cause : rfld t (Reg.epCause p) 3 0 = cause
  flag : rbit t (Reg.epFlags p) 0 = true
  bits : ∀ i, 4 < i → rbit t (Reg.epStatus p) i = rbit s (Reg.epStatus p) i

theorem linkWord_ep {stat : Bool} (hp : p < 8) {o : Nat} (ho : o < 0x100) (h14 : o ≠ 0x14) (h18 : o ≠ 0x18) :
    linkWord stat (Reg.ep p + o) := by
  simp only [linkWord, Reg.ep]
  omega

theorem LostShown.ofWords (h : LostShown s t p cause) (w : u.regs.wf = true) (hs : u.slots = t.slots)
    (hr : ∀ o, o = 4 ∨ o = 8 ∨ o = 0x38 → reg u (Reg.ep p + o) = reg t (Reg.ep p + o)) : LostShown s u p cause where
  wf := w
  range := h.range.of_slots hs
  state := (linkState_of_reg (hr 4 (.inl rfl))).trans h.state
  cause := (congrArg (fld · 3 0) (hr 8 (.inr (.inl rfl)))).trans h.cause
  flag := (congrArg (bit · 0) (hr 0x38 (.inr (.inr rfl)))).trans h.flag
  bits i hi := (congrArg (bit · i) (hr 4 (.inl rfl))).trans (h.bits i hi)

theorem LostShown.kept (h : LostShown s t p cause) (hp : p < 8) {stat : Bool} (k : LinkKept stat t u) : LostShown s u p cause where
  wf := k.wf
  range := k.range
  state := (k.linkState hp).trans h.state
  cause := (congrArg (fld · 3 0) (k.word _ (linkWord_ep hp (o := 8) (by decide) (by decide) (by decide)))).trans h.cause
  flag := (congrArg (bit · 0) (k.word _ (linkWord_ep hp (o := 0x38) (by decide) (by decide) (by decide)))).trans h.flag
  bits i hi := (congrArg (bit · i) (k.word _ (linkWord_epStatus hp))).trans (h.bits i hi)

theorem LostShown.modPort (h : LostShown s t p cause) (k : Nat) (f : PortState → PortState) : LostShown s (modPort k f t) p cause :=
  h.ofWords (by rw [modPort_regs]; exact h.wf) (modPort_slots k f t) fun _ _ => reg_modPort k f t _

/-- A departure clears BOUND and leaves the rest of what Lost shows. -/
theorem LostShown.depart (h : LostShown s t p cause) (hp : p < 8) : LostShown s (depart p t) p cause := by
  obtain ⟨wd, rd, hst, hwords, -, -⟩ := depart_outcome h.wf h.range hp
  have hword (o : Nat) (ho : o < 0x100) (h4 : o ≠ 4) (h14 : o ≠ 0x14) (h18 : o ≠ 0x18) :
      reg (Machine.depart p t) (Reg.ep p + o) = reg t (Reg.ep p + o) :=
    hwords _ (linkWord_ep hp ho h14 h18) (by rw [Reg.epStatus]; omega)
  refine ⟨wd, rd, ?_, ?_, ?_, fun i hi => ?_⟩
  · rw [linkState, rfld, hst, fld_putFld_out _ _ (by decide) (by decide) (.inl (by decide)) (by decide)]
    exact h.state
  · exact (congrArg (fld · 3 0) (hword 8 (by decide) (by decide) (by decide) (by decide))).trans h.cause
  · exact (congrArg (bit · 0) (hword 0x38 (by decide) (by decide) (by decide) (by decide))).trans h.flag
  · rw [rbit, hst, bit_putFld_out _ _ (by decide) (by decide) (.inr hi)]
    exact h.bits i hi

/-! ## The steps to Lost -/

theorem containSlot_link (w : s.regs.wf = true) (r : RunningInRange s) (n : Nat) (cause : ContainCause) (off : Bool) :
    LinkKept true s (containSlot n cause off s) := by
  cases off with
  | true => exact containSlot_off_kept w r n cause
  | false =>
    cases h : declared s n with
    | false => rw [show containSlot n cause false s = s from if_pos (by rw [h]; rfl)]; exact .refl w r
    | true =>
      rw [containSlot_declared h, if_neg Bool.false_ne_true]
      refine LinkKept.showContain ?_
      exact LinkKept.modSlot (.refl w r) n _ fun _ => rfl

theorem LinkKept.setFault {stat : Bool} (h : LinkKept stat s t) (b : Nat) : LinkKept stat s (setFault b t) :=
  (h.setBit (not_linkWord (by decide)) _ _).raiseVec (by decide)

/-- The loss is counted with its cause. -/
def lossCounted (p cause : Nat) (s : State) : State :=
  epFlag p 0 (incSat (Reg.epCntB p) 15 0 (setFld (Reg.epCause p) 3 0 cause s))

theorem lossCounted_regs (w : s.regs.wf = true) (p : Nat) {cause : Nat} (hc : cause < 16) :
    (lossCounted p cause s).regs.wf = true ∧ rfld (lossCounted p cause s) (Reg.epCause p) 3 0 = cause ∧
      rbit (lossCounted p cause s) (Reg.epFlags p) 0 = true ∧
      reg (lossCounted p cause s) (Reg.epStatus p) = reg s (Reg.epStatus p) := by
  have w1 : (setFld (Reg.epCause p) 3 0 cause s).regs.wf = true := setFld_wf w _ _ _ _
  have w2 : (incSat (Reg.epCntB p) 15 0 (setFld (Reg.epCause p) 3 0 cause s)).regs.wf = true := setFld_wf w1 _ _ _ _
  refine ⟨setBit_wf w2 _ _ _, ?_, rbit_setBit_same w2 _ _ (by decide), ?_⟩
  · exact (rfld_setFld_ne w2 _ _ _ _ _ (by simp [Reg.epCause, Reg.epFlags])).trans
      ((rfld_setFld_ne w1 _ _ _ _ _ (by simp [Reg.epCause, Reg.epCntB])).trans
        ((rfld_setFld_same w _ _ (by decide) (by decide)).trans (Nat.mod_eq_of_lt hc)))
  · exact (reg_setFld_ne w2 _ _ _ (by simp [Reg.epStatus, Reg.epFlags])).trans
      ((reg_setFld_ne w1 _ _ _ (by simp [Reg.epStatus, Reg.epCntB])).trans
        (reg_setFld_ne w _ _ _ (by simp [Reg.epStatus, Reg.epCause])))

/-- The loss is logged, LEN_n deasserts, and the link is Lost. -/
def lossTaken (p cause : Nat) (s : State) : State :=
  let s2 := logEvent .LINK_LOST clsEngine p cause (lossCounted p cause s)
  setLink p lsLost (lenDrop p 6 (if (slotOnPort s p).isSome then setFault 7 s2 else s2))

theorem lossTaken_shows (w : s.regs.wf = true) (r : RunningInRange s) (hp : p < 8) (hc : cause < 16) :
    LostShown s (lossTaken p cause s) p cause := by
  obtain ⟨w1, hcause, hflag, hst⟩ := lossCounted_regs w p hc
  have k1 := LinkKept.refl (stat := true) w1 (r.of_slots (t := lossCounted p cause s) rfl)
  have k2 := k1.logEvent .LINK_LOST clsEngine p cause
  unfold lossTaken
  extract_lets s2
  have k3 : LinkKept true (lossCounted p cause s) (if (slotOnPort s p).isSome then setFault 7 s2 else s2) := by
    split
    · exact k2.setFault 7
    · exact k2
  have k4 := k3.lenDrop hp 6
  obtain ⟨wl, hl⟩ := setLink_regs (p := p) k4.wf lsLost
  have hword (o : Nat) (ho : o < 0x100) (h4 : o ≠ 4) (h14 : o ≠ 0x14) (h18 : o ≠ 0x18) :
      reg (setLink p lsLost (lenDrop p 6 (if (slotOnPort s p).isSome then setFault 7 s2 else s2))) (Reg.ep p + o) =
        reg (lossCounted p cause s) (Reg.ep p + o) :=
    (hl _ (by rw [Reg.epStatus]; omega) (ep_ne_epVec o p)).trans (k4.word _ (linkWord_ep hp ho h14 h18))
  refine ⟨wl, k4.range.of_slots (setLink_slots _ _ _), linkState_setLink k4.wf hp (by decide), ?_, ?_, fun i hi => ?_⟩
  · exact (congrArg (fld · 3 0) (hword 8 (by decide) (by decide) (by decide) (by decide))).trans hcause
  · exact (congrArg (bit · 0) (hword 0x38 (by decide) (by decide) (by decide) (by decide))).trans hflag
  · exact (rbit_setLink k4.wf hp _ (by omega)).trans ((congrArg (bit · i) (k4.word _ (linkWord_epStatus hp))).trans
      (congrArg (bit · i) hst))

/-- A port whose link is Lost. -/
def PortState.lost (q : PortState) : PortState :=
  { q with quiesce := none, bind := 0, identified := false, wait := [], probes := 0, series := false, echoes := [] }

theorem portAt_startGrace (q : Party) (s : State) (k : Nat) : portAt (startGrace q s) k = portAt s k := by
  rw [portAt, (keeps_startGrace (F := [.regs, .fr]) (List.Subset.refl _) q (.refl _ s)).same (k := .ports) (by decide), portAt]

/-- Lost, its cause and its port, once it has been declared (R322). -/
theorem declareLost_outcome (w : s.regs.wf = true) (r : RunningInRange s) (hp : p < 8) (hc : cause < 16)
    (hd : linkState s p ≠ lsDetect) (hl : linkState s p ≠ lsLost) :
    LostShown s (declareLost p cause s) p cause ∧ LostFor (declareLost p cause s) p cause ∧
      (portAt (declareLost p cause s) p).echoes = [] := by
  unfold declareLost
  extract_lets st s1 s2 s3 leaves s4 s5 s6
  rw [if_neg (not_or.2 ⟨hd, hl⟩)]
  have h4 : LostShown s s4 p cause := lossTaken_shows w r hp hc
  clear_value s4 leaves
  have h5 : LostShown s s5 p cause := by
    unfold s5
    split
    · exact h4.depart hp
    · exact h4
  clear_value s5
  have h6 : LostShown s s6 p cause := by
    unfold s6
    split
    · exact h5.kept hp (containSlot_link h5.wf h5.range _ _ _)
    · exact h5
  clear_value s6
  have h7 := (h6.modPort p fun q => { q with quiesce := none, bind := 0, identified := false }).modPort p
    fun q => { q with wait := [], probes := 0, series := false, echoes := [] }
  have h8 := h7.kept hp ((LinkKept.refl (stat := true) h7.wf h7.range).startGrace (engineParty p))
  have hport : portAt (startGrace (engineParty p) (stopTraffic p
      (modPort p (fun q => { q with quiesce := none, bind := 0, identified := false }) s6))) p = (portAt s6 p).lost := by
    rw [portAt_startGrace, stopTraffic, portAt_modPort_same hp, portAt_modPort_same hp]
    rfl
  refine ⟨h8, ⟨h8.state, h8.cause, h8.flag, ?_⟩, congrArg PortState.echoes hport⟩
  exact ⟨congrArg PortState.quiesce hport, congrArg PortState.identified hport, congrArg PortState.bind hport,
    congrArg PortState.series hport, startGrace_engine h7.wf hp⟩

/-- The same with what Lost does to Dim (R464). -/
theorem lose_outcome (w : s.regs.wf = true) (r : RunningInRange s) (hp : p < 8) (hc : cause < 16)
    (hd : linkState s p ≠ lsDetect) (hl : linkState s p ≠ lsLost) :
    LostFor (lose p cause s) p cause ∧ (portAt (lose p cause s) p).echoes = [] ∧
      ∀ i, 4 < i → rbit (lose p cause s) (Reg.epStatus p) i = rbit s (Reg.epStatus p) i := by
  obtain ⟨hshown, ⟨-, -, -, hq, hid, hb, hser, hgrace⟩, hech⟩ := declareLost_outcome w r hp hc hd hl
  obtain ⟨ww, hw⟩ := withDim_regs (f := declareLost p cause) hshown.wf
  have hs : LostShown s (lose p cause s) p cause := hshown.ofWords ww (withDim_slots _ _) fun o _ =>
    hw _ (by simp only [Reg.ep, Reg.msixPba]; omega)
  have hport : portAt (lose p cause s) p = portAt (declareLost p cause s) p := portAt_withDim _ _ _
  refine ⟨⟨hs.state, hs.cause, hs.flag, ?_⟩, (congrArg PortState.echoes hport).trans hech, hs.bits⟩
  rw [hport]
  exact ⟨hq, hid, hb, hser, (congrArg (bit · p) (hw _ (by decide))).trans hgrace⟩

end

end Sys2Proof.Machine
end

section
/-! PROOFS. How a link is lost and how it returns to Detect: presence, heartbeats, discards, the delay, BIND, QUIESCE and LEAVE
(R305, R311, R319 to R323, R333). -/

set_option Elab.async false

namespace Sys2Proof.Machine

section
variable {s : State} {p : Port}

/-! ## Presence (R322) -/

theorem presenceLost_loses (w : s.regs.wf = true) (r : RunningInRange s) (h : portHears s p.val = true)
    (hd : linkState s p.val ≠ lsDetect) (hl : linkState s p.val ≠ lsLost) :
    ∃ t, exec (.presenceLost p) s = .next t ∧ LostFor t p.val 1 ∧ rbit t (Reg.epStatus p.val) 5 = false := by
  have hls := linkState_setBit w p.val (i := 5) (by decide) (by decide) false
  obtain ⟨hlost, -, hbits⟩ := lose_outcome (cause := 1) (setBit_wf w (Reg.epStatus p.val) 5 false)
    (r.of_slots (t := setBit (Reg.epStatus p.val) 5 false s) rfl) p.isLt (by decide) (hls ▸ hd) (hls ▸ hl)
  exact ⟨_, congrArg Host.Outcome.next (if_pos h), hlost, (hbits 5 (by decide)).trans (rbit_setBit_same w _ _ (by decide))⟩

/-! ## Heartbeats (R320 to R322) -/

theorem beating_links {q : Nat} (h : beating s q = true) : linkState s q ≠ lsDetect ∧ linkState s q ≠ lsLost := by
  have h25 : 2 ≤ linkState s q ∧ linkState s q ≤ 5 := of_decide_eq_true h
  simp only [lsDetect, lsLost]
  omega

/-- A missed heartbeat is counted. -/
def missCounted (q k : Nat) (s : State) : State := incSat (Reg.epCntB q) 31 16 (modPort q (fun x => { x with misses := k }) s)

theorem missCounted_outcome (w : s.regs.wf = true) (k : Nat) :
    (missCounted p.val k s).regs.wf = true ∧
    rfld (missCounted p.val k s) (Reg.epCntB p.val) 31 16 = min (rfld s (Reg.epCntB p.val) 31 16 + 1) 65535 ∧
    (∀ a, a ≠ Reg.epCntB p.val → reg (missCounted p.val k s) a = reg s a) ∧
    portAt (missCounted p.val k s) p.val = { portAt s p.val with misses := k } ∧
    (∀ j, j ≠ p.val → portAt (missCounted p.val k s) j = portAt s j) ∧ (missCounted p.val k s).slots = s.slots := by
  have wm : (modPort p.val (fun x => { x with misses := k }) s).regs.wf = true := by rw [modPort_regs]; exact w
  refine ⟨setFld_wf wm _ _ _ _, (incSat_halves wm _).1.1.trans ?_, fun a ha => (reg_setFld_ne wm _ _ _ ha).trans (reg_modPort _ _ _ _),
    (portAt_incSat _ _ _ _ _).trans (portAt_modPort_same p.isLt _ _), fun j hj => (portAt_incSat _ _ _ _ _).trans (portAt_modPort_ne hj _ _),
    modPort_slots _ _ _⟩
  rw [rfld, reg_modPort, rfld]

theorem heartbeatMiss_eq (hb : beating s p.val = true) : heartbeatMiss p.val s =
    if 4 ≤ (portAt s p.val).misses + 1 then lose p.val 2 (missCounted p.val ((portAt s p.val).misses + 1) s)
    else missCounted p.val ((portAt s p.val).misses + 1) s := if_neg (by rw [hb]; exact fun h => h rfl)

theorem heartbeatMiss_loses (w : s.regs.wf = true) (r : RunningInRange s) (hb : beating s p.val = true)
    (h : 3 ≤ (portAt s p.val).misses) : LostFor (heartbeatMiss p.val s) p.val 2 := by
  obtain ⟨wm, -, hregs, -, -, hslots⟩ := missCounted_outcome (p := p) w ((portAt s p.val).misses + 1)
  have hls : linkState (missCounted p.val ((portAt s p.val).misses + 1) s) p.val = linkState s p.val :=
    linkState_of_reg (hregs _ (by simp [Reg.epStatus, Reg.epCntB]))
  obtain ⟨hd, hl⟩ := beating_links hb
  rw [heartbeatMiss_eq hb, if_pos (by omega)]
  exact (lose_outcome wm (r.of_slots hslots) p.isLt (by decide) (hls ▸ hd) (hls ▸ hl)).1

/-- An intact heartbeat ends the run of misses. -/
def heard (q : Nat) (s : State) : State := modPort q (fun x => { x with misses := 0 }) s

theorem heartbeat_eq (hb : beating s p.val = true) (state rx : Nat) : heartbeat p.val state rx s =
    if state ≠ linkState (heard p.val s) p.val then lose p.val 3 (heard p.val s)
    else if linkState s p.val = lsRun then heard p.val s else engineErrors p.val rx (heard p.val s) := by
  have hls : linkState (heard p.val s) p.val = linkState s p.val := linkState_of_reg (reg_modPort _ _ _ _)
  rw [hls]
  exact if_neg (by rw [hb]; exact fun h => h rfl)

theorem heard_linkState (q : Nat) (s : State) : linkState (heard q s) q = linkState s q := linkState_of_reg (reg_modPort _ _ _ _)

theorem heartbeat_other (w : s.regs.wf = true) (r : RunningInRange s) (hb : beating s p.val = true) {state : Nat}
    (h : state ≠ linkState s p.val) (rx : Nat) : LostFor (heartbeat p.val state rx s) p.val 3 := by
  have hls := heard_linkState p.val s
  obtain ⟨hd, hl⟩ := beating_links hb
  have wh : (heard p.val s).regs.wf = true := by rw [heard, modPort_regs]; exact w
  rw [heartbeat_eq hb, if_pos (hls ▸ h)]
  exact (lose_outcome wh (r.of_slots (modPort_slots _ _ _)) p.isLt (by decide) (hls ▸ hd) (hls ▸ hl)).1

/-- Discards that the engine has reported, as they are counted below the threshold (R305). -/
def engineCounted (q k : Nat) (s : State) : State :=
  modPort q (fun x => { x with
    engErrs := (s.linkTime, k) :: (portAt s q).engErrs.filter fun x => decide (since s x.1 < msTicks) })
    (epFlag q 2 (addSat (Reg.epCntA q) 31 16 k s))

theorem engineErrors_few {q k : Nat} (h0 : k ≠ 0)
    (h : k + (((portAt s q).engErrs.filter fun x => decide (since s x.1 < msTicks)).map (·.2)).sum < 16) :
    engineErrors q k s = engineCounted q k s := by
  refine (if_neg h0).trans (if_neg ?_)
  have hsum (l : List (LinkTime × Nat)) (a : Nat) : l.foldl (fun a x => a + x.2) a = a + (l.map (·.2)).sum := by
    induction l generalizing a with
    | nil => rfl
    | cons x l ih => rw [List.foldl_cons, ih, List.map_cons, List.sum_cons]; omega
  rw [List.foldl_cons, hsum]
  omega

theorem engineCounted_outcome (w : s.regs.wf = true) {k : Nat} :
    rfld (engineCounted p.val k s) (Reg.epCntA p.val) 31 16 = min (rfld s (Reg.epCntA p.val) 31 16 + k) 65535 ∧
    rbit (engineCounted p.val k s) (Reg.epFlags p.val) 2 = true ∧ linkState (engineCounted p.val k s) p.val = linkState s p.val ∧
    (portAt (engineCounted p.val k s) p.val).misses = (portAt s p.val).misses ∧ (engineCounted p.val k s).slots = s.slots := by
  have w1 : (addSat (Reg.epCntA p.val) 31 16 k s).regs.wf = true := setFld_wf w _ _ _ _
  have hreg (a : Nat) : reg (engineCounted p.val k s) a = reg (epFlag p.val 2 (addSat (Reg.epCntA p.val) 31 16 k s)) a :=
    reg_modPort _ _ _ a
  refine ⟨?_, (congrArg (bit · 2) (hreg _)).trans (rbit_setBit_same w1 _ _ (by decide)), linkState_of_reg ?_, ?_, modPort_slots _ _ _⟩
  · exact (congrArg (fld · 31 16) ((hreg _).trans (reg_setFld_ne w1 _ _ _ (by simp [Reg.epCntA, Reg.epFlags])))).trans
      (rfld_addSat_same w _ _ (by decide) (by decide))
  · exact (hreg _).trans ((reg_setFld_ne w1 _ _ _ (by simp [Reg.epStatus, Reg.epFlags])).trans
      (reg_setFld_ne w _ _ _ (by simp [Reg.epStatus, Reg.epCntA])))
  · rw [engineCounted, portAt_modPort_same p.isLt, epFlag, portAt_setBit, portAt_addSat]

theorem heartbeat_quiet (hb : beating s p.val = true) {state rx : Nat} (hst : state = linkState s p.val)
    (h : rx = 0 ∨ linkState s p.val = lsRun) : heartbeat p.val state rx s = heard p.val s := by
  rw [heartbeat_eq hb, if_neg (not_not.2 (hst.trans (heard_linkState _ _).symm))]
  rcases h with rfl | h
  · exact (congrArg (ite _ _) (if_pos rfl)).trans (ite_self _)
  · exact if_pos h

theorem heartbeat_reports (w : s.regs.wf = true) (hb : beating s p.val = true) {state rx : Nat} (hst : state = linkState s p.val)
    (h0 : rx ≠ 0) (hr : linkState s p.val ≠ lsRun)
    (h : rx + (((portAt s p.val).engErrs.filter fun x => decide (since s x.1 < msTicks)).map (·.2)).sum < 16) :
    (portAt (heartbeat p.val state rx s) p.val).misses = 0 ∧
      rfld (heartbeat p.val state rx s) (Reg.epCntA p.val) 31 16 = min (rfld s (Reg.epCntA p.val) 31 16 + rx) 65535 ∧
      rbit (heartbeat p.val state rx s) (Reg.epFlags p.val) 2 = true ∧
      linkState (heartbeat p.val state rx s) p.val = linkState s p.val ∧ (heartbeat p.val state rx s).slots = s.slots := by
  have hport : portAt (heard p.val s) p.val = { portAt s p.val with misses := 0 } := portAt_modPort_same p.isLt _ s
  have hsince (x : LinkTime) : since (heard p.val s) x = since s x := by rw [since, heard, modPort_linkTime, since]
  have he : heartbeat p.val state rx s = engineCounted p.val rx (heard p.val s) := by
    rw [heartbeat_eq hb, if_neg (not_not.2 (hst.trans (heard_linkState _ _).symm)), if_neg hr]
    refine engineErrors_few h0 ?_
    simp only [hport, hsince]
    exact h
  have wh : (heard p.val s).regs.wf = true := by rw [heard, modPort_regs]; exact w
  obtain ⟨hcnt, hflag, hst', hmiss, hslots⟩ := engineCounted_outcome (p := p) wh (k := rx)
  rw [he]
  refine ⟨hmiss.trans (congrArg PortState.misses hport), hcnt.trans ?_, hflag, hst'.trans (heard_linkState _ _),
    hslots.trans (modPort_slots _ _ _)⟩
  rw [rfld, heard, reg_modPort, rfld]

/-! ## Discards (R305, R306) -/

theorem packetCounted_outcome (w : s.regs.wf = true) :
    (packetCounted p.val s).regs.wf = true ∧
    rfld (packetCounted p.val s) (Reg.epCntA p.val) 15 0 = min (rfld s (Reg.epCntA p.val) 15 0 + 1) 65535 ∧
    rbit (packetCounted p.val s) (Reg.epFlags p.val) 2 = true ∧
    (∀ o, o ≠ 0x24 → o ≠ 0x38 → reg (packetCounted p.val s) (Reg.ep p.val + o) = reg s (Reg.ep p.val + o)) ∧
    (portAt (packetCounted p.val s) p.val).errs = s.linkTime :: recentErrs s p.val ∧
    (portAt (packetCounted p.val s) p.val).rxErr = (portAt s p.val).rxErr + 1 ∧ (packetCounted p.val s).slots = s.slots := by
  have w1 : (incSat (Reg.epCntA p.val) 15 0 s).regs.wf = true := setFld_wf w _ _ _ _
  have hreg (a : Nat) : reg (packetCounted p.val s) a = reg (epFlag p.val 2 (incSat (Reg.epCntA p.val) 15 0 s)) a := reg_modPort _ _ _ a
  have hport : portAt (packetCounted p.val s) p.val =
      { portAt s p.val with errs := s.linkTime :: recentErrs s p.val, rxErr := (portAt s p.val).rxErr + 1 } := by
    rw [packetCounted, portAt_modPort_same p.isLt, epFlag, portAt_setBit, portAt_incSat]
  refine ⟨by rw [packetCounted, modPort_regs]; exact setBit_wf w1 _ _ _, ?_,
    (congrArg (bit · 2) (hreg _)).trans (rbit_setBit_same w1 _ _ (by decide)), fun o ha hf => ?_,
    congrArg PortState.errs hport, congrArg PortState.rxErr hport, modPort_slots _ _ _⟩
  · exact (congrArg (fld · 15 0) ((hreg _).trans (reg_setFld_ne w1 _ _ _ (by simp [Reg.epCntA, Reg.epFlags])))).trans
      (rfld_incSat_same w _)
  · exact (hreg _).trans ((reg_setFld_ne w1 _ _ _ (by rw [Reg.epFlags]; omega)).trans
      (reg_setFld_ne w _ _ _ (by rw [Reg.epCntA]; omega)))

theorem packetError_many (w : s.regs.wf = true) (r : RunningInRange s) (hd : linkState s p.val ≠ lsDetect)
    (hl : linkState s p.val ≠ lsLost) (h : 15 ≤ (recentErrs s p.val).length) : LostFor (packetError p.val s) p.val 4 := by
  obtain ⟨wp, -, -, hregs, -, -, hslots⟩ := packetCounted_outcome (p := p) w
  have hls : linkState (packetCounted p.val s) p.val = linkState s p.val := linkState_of_reg (hregs 4 (by decide) (by decide))
  have he : packetError p.val s = lose p.val 4 (packetCounted p.val s) := if_pos (by rw [List.length_cons]; omega)
  rw [he]
  exact (lose_outcome wp (r.of_slots hslots) p.isLt (by decide) (hls ▸ hd) (hls ▸ hl)).1

/-- A binding that is not in force is counted apart (R305). -/
def bindCounted (q : Nat) (why : DiscardWhy) (s : State) : State := if why = .bindId then incSat (Reg.epCntE q) 15 0 s else s

theorem bindCounted_outcome (w : s.regs.wf = true) (q : Nat) (why : DiscardWhy) :
    (bindCounted q why s).regs.wf = true ∧ (∀ a, a ≠ Reg.epCntE q → reg (bindCounted q why s) a = reg s a) ∧
    rfld (bindCounted q why s) (Reg.epCntE q) 15 0 = (if why = .bindId then min (rfld s (Reg.epCntE q) 15 0 + 1) 65535
      else rfld s (Reg.epCntE q) 15 0) ∧ (bindCounted q why s).linkTime = s.linkTime ∧ (bindCounted q why s).ports = s.ports ∧
    (bindCounted q why s).slots = s.slots := by
  unfold bindCounted
  split
  · exact ⟨setFld_wf w _ _ _ _, fun a ha => reg_setFld_ne w _ _ _ ha, rfld_incSat_same w _, rfl, rfl, rfl⟩
  · exact ⟨w, fun _ _ => rfl, rfl, rfl, rfl, rfl⟩

theorem packetDiscard_error (hd : linkState s p.val ≠ lsDetect) (hl : linkState s p.val ≠ lsLost) {why : DiscardWhy}
    (h : why ≠ .reservedType) : packetDiscard p.val why s = packetError p.val (bindCounted p.val why s) := by
  unfold packetDiscard
  rw [if_neg (not_or.2 ⟨hd, hl⟩)]
  cases why <;> first | rfl | exact absurd rfl h

/-- What a discard meets: the counts of its binding are apart, and the port is the one it was. -/
theorem bindCounted_port (q : Nat) (why : DiscardWhy) (w : s.regs.wf = true) :
    portAt (bindCounted q why s) q = portAt s q ∧ recentErrs (bindCounted q why s) q = recentErrs s q ∧
      linkState (bindCounted q why s) q = linkState s q := by
  obtain ⟨-, hregs, -, htime, hports, -⟩ := bindCounted_outcome w q why
  have hport : portAt (bindCounted q why s) q = portAt s q := by rw [portAt, hports, portAt]
  have hsince (x : LinkTime) : since (bindCounted q why s) x = since s x := by rw [since, htime, since]
  refine ⟨hport, ?_, linkState_of_reg (hregs _ (by simp [Reg.epStatus, Reg.epCntE]))⟩
  simp only [recentErrs, hport, hsince]

theorem packetDiscard_few (w : s.regs.wf = true) (hd : linkState s p.val ≠ lsDetect) (hl : linkState s p.val ≠ lsLost)
    {why : DiscardWhy} (hw : why ≠ .reservedType) (h : (recentErrs s p.val).length < 15) :
    let t := packetDiscard p.val why s
    rfld t (Reg.epCntA p.val) 15 0 = min (rfld s (Reg.epCntA p.val) 15 0 + 1) 65535 ∧ rbit t (Reg.epFlags p.val) 2 = true ∧
      (portAt t p.val).errs = s.linkTime :: recentErrs s p.val ∧ linkState t p.val = linkState s p.val ∧
      (portAt t p.val).rxErr = (portAt s p.val).rxErr + 1 ∧
      rfld t (Reg.epCntE p.val) 15 0 = (if why = .bindId then min (rfld s (Reg.epCntE p.val) 15 0 + 1) 65535
        else rfld s (Reg.epCntE p.val) 15 0) ∧ t.slots = s.slots := by
  obtain ⟨wb, hregs, hcnt, htime, -, hslots⟩ := bindCounted_outcome w p.val why
  obtain ⟨hport, hrec, hls⟩ := bindCounted_port p.val why w
  obtain ⟨-, hA, hflag, hwords, herrs, hrx, hs⟩ := packetCounted_outcome (p := p) wb
  rw [packetDiscard_error hd hl hw, packetError_few (hrec ▸ h)]
  refine ⟨hA.trans ?_, hflag, ?_, ?_, hrx.trans (by rw [hport]), ?_, hs.trans hslots⟩
  · rw [rfld, hregs _ (by simp [Reg.epCntA, Reg.epCntE]), rfld]
  · rw [herrs, htime, hrec]
  · exact (linkState_of_reg (hwords 4 (by decide) (by decide))).trans hls
  · exact (congrArg (fld · 15 0) (hwords 0x34 (by decide) (by decide))).trans hcnt

theorem packetDiscard_many (w : s.regs.wf = true) (r : RunningInRange s) (hd : linkState s p.val ≠ lsDetect)
    (hl : linkState s p.val ≠ lsLost) {why : DiscardWhy} (hw : why ≠ .reservedType) (h : 15 ≤ (recentErrs s p.val).length) :
    LostFor (packetDiscard p.val why s) p.val 4 := by
  obtain ⟨wb, -, -, -, -, hslots⟩ := bindCounted_outcome w p.val why
  obtain ⟨-, hrec, hls⟩ := bindCounted_port p.val why w
  rw [packetDiscard_error hd hl hw]
  exact packetError_many wb (r.of_slots hslots) (hls ▸ hd) (hls ▸ hl) (hrec ▸ h)

/-! ## The delay (R311) and the end of the hold (R322) -/

theorem timeEcho_loses (w : s.regs.wf = true) (r : RunningInRange s) (t1 t2 t3 t4 : BitVec 64) (hs : (portAt s p.val).series = true)
    (hl : linkState s p.val = lsRun) (h : (portAt s p.val).echoes.length = 15)
    (h64 : 64 < (medianDelay ((portAt s p.val).echoes ++ [(t4 - t1).toInt - (t3 - t2).toInt]) -
      (rfld s (Reg.epDelay p.val) 23 0 : Int)).natAbs) :
    LostFor (timeEcho p.val t1 t2 t3 t4 s) p.val 5 ∧ (portAt (timeEcho p.val t1 t2 t3 t4 s) p.val).echoes = [] := by
  have we : (seriesEnded p.val s).regs.wf = true := by rw [seriesEnded_regs]; exact w
  have hls : linkState (seriesEnded p.val s) p.val = lsRun := (linkState_of_reg (reg_modPort _ _ _ _)).trans hl
  have ho := lose_outcome (cause := 5) we (r.of_slots (modPort_slots _ _ _)) p.isLt (by decide) (by rw [hls]; decide) (by rw [hls]; decide)
  rw [timeEcho_run hs rfl h rfl hl rfl, if_pos h64]
  exact ⟨ho.1, ho.2.1⟩

theorem lostHoldEnd_outcome (w : s.regs.wf = true) (h : linkState s p.val = lsLost) :
    ∃ t, exec (.lostHoldEnd p) s = .next t ∧ linkState t p.val = lsDetect ∧ (portAt t p.val).identified = false ∧
      (portAt t p.val).bind = 0 ∧ (portAt t p.val).trainFails = (portAt s p.val).trainFails ∧
      (∀ k, k ≠ p.val → portAt t k = portAt s k) ∧ t.slots = s.slots := by
  obtain ⟨hport, hports⟩ := enterDetect_ports p.isLt s
  exact ⟨_, congrArg Host.Outcome.next (if_pos h), (enterDetect_state w p.isLt).1, hport ▸ rfl, hport ▸ rfl, hport ▸ rfl, hports,
    enterDetect_slots _ s⟩

end

/-- Settles O48: every cause leads to one declaration of Lost (`lose_outcome`); which states count a heartbeat's RX_ERR, and that
each direction has its own threshold, are the model's choice (log entries 63 and 82). -/
theorem linkLoss : Obligations.LinkLoss := by
  intro s p w hcr
  obtain ⟨wr, -⟩ := State.wf_iff.1 w
  have r : RunningInRange s := hcr.1
  have hlose (cause : Nat) (hc : cause < 16) (hd : linkState s p.val ≠ lsDetect) (hl : linkState s p.val ≠ lsLost) :
      LostFor (lose p.val cause s) p.val cause := (lose_outcome wr r p.isLt hc hd hl).1
  refine ⟨fun h hd hl => presenceLost_loses wr r h hd hl, fun hu hb hm => ?_, fun hu hb hm => ?_, fun at0 st id rx hu hb => ?_,
    fun hu hd hl => ?_, fun t1 t2 t3 t4 hs hl h h64 => ⟨_, rfl, timeEcho_loses wr r t1 t2 t3 t4 hs hl h h64⟩,
    fun h => ?_, fun h => ?_, fun reason hu hd hl hq => ?_, fun h => lostHoldEnd_outcome wr h⟩
  · obtain ⟨-, hcnt, hregs, hport, hports, hslots⟩ := missCounted_outcome (p := p) wr ((portAt s p.val).misses + 1)
    exact ⟨_, congrArg Host.Outcome.next ((if_pos hu).trans ((heartbeatMiss_eq hb).trans (if_neg (by omega)))),
      congrArg PortState.misses hport, linkState_of_reg (hregs _ (by simp [Reg.epStatus, Reg.epCntB])), hcnt, hregs, hports, hslots⟩
  · exact ⟨_, congrArg Host.Outcome.next (if_pos hu), heartbeatMiss_loses wr r hb hm⟩
  · have he : exec (.heartbeat p at0 st id rx) s = .next (heartbeat p.val st.toNat rx.toNat s) := congrArg Host.Outcome.next (if_pos hu)
    refine ⟨fun hst h => ?_, fun hst h0 hr h => ⟨_, he, heartbeat_reports wr hb hst (fun e => h0 (BitVec.eq_of_toNat_eq e)) hr h⟩,
      fun hst => ⟨_, he, heartbeat_other wr r hb hst _⟩⟩
    refine ⟨_, he.trans (congrArg _ (heartbeat_quiet hb hst (h.imp_left (congrArg BitVec.toNat)))), portAt_modPort_same p.isLt _ s,
      modPort_regs _ _ _, fun k hk => portAt_modPort_ne hk _ _, modPort_slots _ _ _⟩
  · have he (why : DiscardWhy) : exec (.packetDiscard p why) s = .next (packetDiscard p.val why s) :=
      congrArg Host.Outcome.next (if_pos hu)
    refine ⟨?_, fun why hw h => ⟨_, he why, packetDiscard_few wr hd hl hw h⟩, fun why hw h => ⟨_, he why, packetDiscard_many wr r hd hl hw h⟩⟩
    exact ⟨_, (he _).trans (congrArg Host.Outcome.next (if_neg (not_or.2 ⟨hd, hl⟩))), rfld_incSat_same wr _,
      fun a ha => reg_setFld_ne wr _ _ _ ha, rfl, rfl⟩
  · exact ⟨_, congrArg Host.Outcome.next (if_pos h), hlose 6 (by decide) (by rw [h]; decide) (by rw [h]; decide)⟩
  · exact ⟨_, congrArg Host.Outcome.next (if_pos h), hlose 6 (by decide) (by rw [h]; decide) (by rw [h]; decide)⟩
  · exact ⟨_, congrArg Host.Outcome.next ((if_pos hu).trans (if_neg hq)), hlose 7 (by decide) hd hl⟩

end Sys2Proof.Machine
end

section
/-! PROOFS. Object lists whose table names a pitch beyond the pitch memory (R345, R346): the premises of two statements let an object
of the table hold any pitch number, and the words of a number large enough are registers of other blocks. -/

set_option Elab.async false

namespace Sys2Proof.Machine

/-- An object with identity 0 that a list has not described yet, holding pitch p of slot 0. -/
def strayObject (src id p : Nat) : ObjEnt :=
  { src := src, id := id, slots := 0, az := 0, el := 0, haz := 0, hel := 0, vaz := 0, vel := 0, t0 := 0, pitches := [(0, p)] }

/-- A list of one record (R343) with FULL where asked for: object 0, routed to the slots of a mask. -/
def oneRecordList (full : Bool) (slots : Byte) : List Byte :=
  [0x53, 0x42, 0x4F, 0x4C, 0, 0, 1, if full then 1 else 0, 0, 0, 0, 0, 0, 0, 0, 0] ++
    [0, 0, 0, slots] ++ List.replicate 12 0

/-! ## A list through the window -/

/-- The number whose header word is the tally of block 0. -/
def tallyPitch : Nat := (Reg.wnTally 0 - 0x310000) / 64

/-- Block 1 holds a full list of object 0 and belongs to the object-list reader; the table has object 1 of the same source, which
holds tallyPitch; the tally of block 0 has the bit set that is EN of a header. -/
def strayWindow : State :=
  { State.reset with
    regs := [(Reg.wnTally 0, 0x08000000), (Reg.wnTally 1, tallyWord tSensor objId 0)]
    dram := (List.range 48).map fun i => (65536 + i, ((List.replicate 16 0 ++ oneRecordList true 0)[i]?).getD 0)
    sb := { BridgeState.init with objs := [strayObject 0 1 tallyPitch] } }

theorem strayWindow_wf : strayWindow.wf = true := by decide +kernel

theorem strayWindow_inRange : CastsInRange strayWindow := by
  have hcfg : ∀ n < 8, cfgOf strayWindow n = none := by decide +kernel
  exact ⟨fun n c hc => absurd ((hcfg n (lt_of_cfg hc)).symm.trans hc) nofun, List.forall_mem_nil _, nofun, nofun⟩

/-- The full list does not name object 1, whose pitch is released: the bit of the tally of block 0 has gone. -/
theorem strayWindow_list : tally (objListWindow 1 strayWindow) 0 = 0 := by decide +kernel

/-- Refutes O52: from strayWindow, the list in block 1 changes the tally of block 0. The premises let the object table hold a pitch
number beyond the pitch memory. -/
theorem not_objectsAndAttitude : ¬ Obligations.ObjectsAndAttitude := by
  intro h
  obtain ⟨hwin, -⟩ := h strayWindow strayWindow_wf
  obtain ⟨-, hlist⟩ := hwin 1 (dramRead strayWindow 65536 1056) ((dramRead strayWindow 65536 1056).drop 32 |>.take 16)
  obtain ⟨-, hgood⟩ := hlist strayWindow_inRange (by decide +kernel) (by decide +kernel) (by decide +kernel) rfl rfl
  obtain ⟨t, o, ht, -, -, -, -, -, -, -, -, -, -, -, -, -, -, hother⟩ :=
    hgood (by decide +kernel) rfl (by decide +kernel) (by decide +kernel) (by decide +kernel)
  have he : objListWindow 1 strayWindow = t := Host.Outcome.next.inj ht
  have h0 : tally t 0 = tally strayWindow 0 := hother 0 (by decide) (by decide)
  rw [← he, strayWindow_list] at h0
  exact absurd h0 (by decide +kernel)

/-! ## A list in the embedded lines of a camera -/

/-- The number whose words 0 to 15 are the first registers of camera 0. -/
def camPitch : Nat := (Reg.sbCam 0 - 0x310000) / 64

/-- Camera 0 has received all of a frame of one embedded line and no image line; the line holds a list that routes object 0 to
slot 0, and the table has that object, which holds camPitch. -/
def strayCamera : State :=
  { State.reset with
    regs := [(Reg.sbCamCfg 0, 0x100), (Reg.sbCamEmb 0, 0x80000000), (Reg.sbCamStatus 0, 1)]
    slots := State.reset.slots.set 0 { SlotState.undeclared with cfg := some bareCast }
    sb := { BridgeState.init with
      cams := BridgeState.init.cams.set 0 { CamState.init with open_ := true, emb := [oneRecordList false 1] }
      objs := [strayObject 3 0 camPitch] } }

theorem strayCamera_wf : strayCamera.wf = true := by decide +kernel

theorem strayCamera_inRange : CastsInRange strayCamera := by
  refine ⟨fun n c hc => ?_, List.forall_mem_nil _, nofun, nofun⟩
  have hcfg : ∀ n < 8, ∀ c, cfgOf strayCamera n = some c → c = bareCast := by decide +kernel
  obtain rfl := hcfg n (lt_of_cfg hc) c hc
  exact ⟨by decide, by decide, List.forall_mem_nil _, by decide, List.forall_mem_nil _⟩

/-- The update of the object's mask leaves its sixth word in SB_CAM0_CNT_A: the frame just counted is not there. -/
theorem strayCamera_frame : rfld (csiFe 0 0 0 0 strayCamera) (Reg.sbCamCntA 0) 31 16 = 0 := by decide +kernel

/-- Refutes O51: from strayCamera, the end of a conforming frame leaves FRAMES of SB_CAM0_CNT_A at 0. The premises let the object table
hold a pitch number beyond the pitch memory. -/
theorem not_cameraFrames : ¬ Obligations.CameraFrames := by
  intro h
  obtain ⟨-, -, -, hend, -⟩ := h strayCamera 0 strayCamera_wf
  obtain ⟨-, hconf, -⟩ := hend 0 0 0 (by decide +kernel) (by decide +kernel) (by decide +kernel) rfl
  obtain ⟨t, ht, -, -, -, -, -, hcount⟩ := hconf (by decide +kernel) (.inr strayCamera_inRange)
  have he : csiFe 0 0 0 0 strayCamera = t := Host.Outcome.next.inj ht
  rw [← he, Fin.val_zero, strayCamera_frame] at hcount
  exact absurd hcount (by decide +kernel)

end Sys2Proof.Machine
end

section
/-! PROOFS. The heat ledger: its lists, what it shows, its update, and sensors failed, suspect and trusted (R419 to R429). -/

set_option Elab.async false

namespace Sys2Proof.Machine

/-! ## The lists of the ledger -/

theorem getElem?_setNth_same {α : Type} {l : List α} {i : Nat} (h : i < l.length) (y : α) : (setNth l i y)[i]? = some y := by
  induction l generalizing i with
  | nil => exact absurd h (Nat.not_lt_zero i)
  | cons x l ih =>
    cases i with
    | zero => rfl
    | succ i => exact ih (Nat.lt_of_succ_lt_succ h)

theorem getElem?_setNth_ne {α : Type} (l : List α) {i j : Nat} (h : j ≠ i) (y : α) : (setNth l i y)[j]? = l[j]? := by
  induction l generalizing i j with
  | nil => rfl
  | cons x l ih =>
    cases i with
    | zero =>
      cases j with
      | zero => exact absurd rfl h
      | succ j => rfl
    | succ i =>
      cases j with
      | zero => rfl
      | succ j => exact ih fun e => h (congrArg _ e)

section
variable {s t u : State}

/-! ## Ladders and sensors -/

/-- A ladder that differs from a fresh one is one of the list. -/
theorem ladder_listed {i : Nat} (h : ladderAt s i ≠ Ladder.init) : i < s.heat.ladders.length := by
  by_contra hn
  exact h (by rw [ladderAt, List.getElem?_eq_none (Nat.le_of_not_lt hn)]; rfl)

theorem ladderAt_modLadder_same {i : Nat} (h : ladderAt s i ≠ Ladder.init) (f : Ladder → Ladder) :
    ladderAt (modLadder i f s) i = f (ladderAt s i) := by
  rw [ladderAt, modLadder, modHeat, getElem?_setNth_same (ladder_listed h)]
  rfl

theorem ladderAt_modLadder_ne {i j : Nat} (h : j ≠ i) (f : Ladder → Ladder) : ladderAt (modLadder i f s) j = ladderAt s j := by
  rw [ladderAt, modLadder, modHeat, getElem?_setNth_ne _ h]
  rfl

theorem ladderAt_of_heat (h : t.heat = s.heat) (i : Nat) : ladderAt t i = ladderAt s i := by rw [ladderAt, h, ladderAt]

theorem engSens_modEng (p i : Nat) {f : EngSensor → EngSensor} (hf : ∀ e, (f e).port = e.port ∧ (f e).num = e.num) :
    engSens (modEng p i f s) p i = (engSens s p i).map f := by
  have hmatch (e : EngSensor) : ((if e.port == p && e.num == i then f e else e).port == p &&
      (if e.port == p && e.num == i then f e else e).num == i) = (e.port == p && e.num == i) := by
    split
    · rw [(hf e).1, (hf e).2]
    · rfl
  rw [engSens, modEng, modHeat]
  dsimp only
  rw [List.find?_map, engSens]
  rw [show ((fun e : EngSensor => e.port == p && e.num == i) ∘ fun e => if e.port == p && e.num == i then f e else e) =
    fun e => e.port == p && e.num == i from funext hmatch]
  cases he : s.heat.eng.find? fun e => e.port == p && e.num == i with
  | none => rfl
  | some e =>
    have hp := List.find?_some he
    simp only [Option.map_some]
    rw [if_pos hp]

/-- The check of a sensor that differs from a fresh one is one the ledger holds, and changes with it. -/
theorem checkOf_modCheck {k : Nat} {c : SensorCheck} (hc : checkOf s k = some c) (hn : c ≠ SensorCheck.init)
    (f : SensorCheck → SensorCheck) : checkOf (modCheck k f s) k = some (f c) := by
  unfold checkOf modCheck at *
  by_cases hk : k < 17
  · rw [if_pos hk] at hc ⊢
    rw [if_pos hk]
    obtain rfl := Option.some.inj hc
    have hlt : k < s.heat.diodes.length := by
      by_contra h
      exact hn (by rw [pkgSens, List.getElem?_eq_none (Nat.le_of_not_lt h)]; rfl)
    rw [pkgSens, modHeat, getElem?_setNth_same hlt]
    rfl
  · rw [if_neg hk] at hc ⊢
    obtain ⟨e, he, rfl⟩ := Option.map_eq_some_iff.1 hc
    rw [if_neg hk, engSens_modEng, he]
    · rfl
    · exact fun _ => ⟨rfl, rfl⟩

theorem checkOf_of_heat (h : t.heat.diodes = s.heat.diodes) (he : t.heat.eng = s.heat.eng) (k : Nat) : checkOf t k = checkOf s k := by
  simp only [checkOf, pkgSens, engSens, h, he]

theorem modCheck_ladders (k : Nat) (f : SensorCheck → SensorCheck) (s : State) : (modCheck k f s).heat.ladders = s.heat.ladders := by
  unfold modCheck
  split <;> rfl

/-! ## What the ledger shows -/

/-- The registers of temperatures that every update shows (R433). -/
def heatShown (a : Nat) : Prop :=
  a = Reg.thTb ∨ Reg.thDiode 0 ≤ a ∧ a ≤ Reg.thS16 ∨ Reg.thNode 0 ≤ a ∧ a ≤ Reg.thNode 47

theorem showHeat_regs (w : s.regs.wf = true) :
    (showHeat s).regs.wf = true ∧ ∀ a, ¬ heatShown a → reg (showHeat s) a = reg s a := by
  unfold showHeat
  extract_lets s1 s2 sw
  obtain ⟨w1, h1⟩ := setRegs_regs w ((List.range 47).map fun i => (Reg.thNode i, at_ 15 0 (unsigned 16 (node64 s i))))
  obtain ⟨w2, h2⟩ := setRegs_regs w1 [(Reg.thNode 47, at_ 15 0 (unsigned 16 (heat64 s.heat.tb))),
    (Reg.thTb, at_ 15 0 (unsigned 16 (heat64 s.heat.tb)))]
  obtain ⟨w3, h3⟩ := setRegs_regs w2 ((List.range 16).map fun i => (Reg.thDiode i, sw i))
  refine ⟨setReg_wf w3 _ _, fun a ha => ?_⟩
  simp only [heatShown, Reg.thTb, Reg.thDiode, Reg.thS16, Reg.thNode, not_or, not_and] at ha
  obtain ⟨htb, hdiode, hnode⟩ := ha
  refine (reg_setReg_ne w3 _ ?_).trans ((h3 a fun e he => ?_).trans ((h2 a fun e he => ?_).trans (h1 a fun e he => ?_)))
  · simp only [Reg.thS16]
    omega
  · obtain ⟨i, hi, rfl⟩ := List.mem_map.1 he
    have := List.mem_range.1 hi
    simp only [Reg.thDiode]
    omega
  · simp only [List.mem_cons, List.not_mem_nil, or_false] at he
    rcases he with rfl | rfl <;> simp only [Reg.thNode, Reg.thTb] <;> omega
  · obtain ⟨i, hi, rfl⟩ := List.mem_map.1 he
    have := List.mem_range.1 hi
    simp only [Reg.thNode]
    omega

theorem showPin_regs (w : s.regs.wf = true) :
    (showPin s).regs.wf = true ∧ ∀ a, a ≠ Reg.thPin → reg (showPin s) a = reg s a :=
  ⟨setFld_wf w _ _ _ _, fun _ ha => reg_setFld_ne w _ _ _ ha⟩

/-- The ledger shows its temperatures and THERM_n, and nothing else of the registers changes. -/
theorem showLedger_regs (w : s.regs.wf = true) : (showPin (showHeat s)).regs.wf = true ∧
    ∀ a, a ≠ Reg.thPin → ¬ heatShown a → reg (showPin (showHeat s)) a = reg s a := by
  obtain ⟨wh, hh⟩ := showHeat_regs w
  obtain ⟨wp, hp⟩ := showPin_regs wh
  exact ⟨wp, fun a ha hs => (hp a ha).trans (hh a hs)⟩

/-! ## One update (R419 to R430) -/

/-- From s to t the start of the ledger and its power sums stand. -/
structure LedgerKept (s t : State) : Prop where
  start : t.heat.start = s.heat.start
  sums : t.heat.sums = s.heat.sums

theorem LedgerKept.refl (s : State) : LedgerKept s s := ⟨rfl, rfl⟩

theorem LedgerKept.trans (h : LedgerKept s t) (k : LedgerKept t u) : LedgerKept s u := ⟨k.start.trans h.start, k.sums.trans h.sums⟩

theorem LedgerKept.ofHeat (h : LedgerKept s t) (e : u.heat = t.heat) : LedgerKept s u := ⟨e ▸ h.start, e ▸ h.sums⟩

theorem LedgerKept.modHeat (h : LedgerKept s t) (f : HeatState → HeatState)
    (hf : ∀ x, (f x).start = x.start ∧ (f x).sums = x.sums := by exact fun _ => ⟨rfl, rfl⟩) : LedgerKept s (modHeat f t) :=
  ⟨(hf _).1.trans h.start, (hf _).2.trans h.sums⟩

theorem LedgerKept.foldl {α : Type} (h : LedgerKept s t) (l : List α) {f : State → α → State}
    (hf : ∀ u x, LedgerKept s u → LedgerKept s (f u x)) : LedgerKept s (l.foldl f t) :=
  List.foldlRecOn (motive := LedgerKept s) l _ h fun u hu x _ => hf u x hu

theorem LedgerKept.moveBoundary (h : LedgerKept s t) : LedgerKept s (moveBoundary t) := by
  unfold Machine.moveBoundary
  extract_lets tr
  split
  · exact h
  · exact h.modHeat _

theorem LedgerKept.moveJunction (h : LedgerKept s t) (p : Nat) (e : ChanEnt) (t0 t1 : Nat) :
    LedgerKept s (moveJunction p e t0 t1 t) := by
  unfold Machine.moveJunction
  extract_lets pw s0 c s1 none_ f x rth cth k
  have h1 : s1.heat = t.heat := by
    unfold s1
    split <;> rfl
  have hx : LedgerKept s x.2 := by
    unfold x
    split
    · exact h.ofHeat ((keeps_takeFree (F := [.freeCount]) (List.Subset.refl _) (.refl _ s1)).same (k := .heat) (by decide) |>.trans h1)
    · exact h.ofHeat h1
  clear_value x
  split
  · exact hx
  · exact ⟨hx.start, hx.sums⟩

theorem LedgerKept.countLadder (h : LedgerKept s t) (i : Nat) (x : Int × Nat) : LedgerKept s (countLadder i x t) :=
  ⟨h.start, h.sums⟩

theorem LedgerKept.countCrit (h : LedgerKept s t) (i : Nat) (hot : Bool) : LedgerKept s (countCrit i hot t) := h.modHeat _

theorem LedgerKept.evalLadders (h : LedgerKept s t) : LedgerKept s (evalLadders t) := by
  unfold Machine.evalLadders
  extract_lets pp s1 crit s2
  have h1 : LedgerKept s s1 := by
    unfold s1
    split
    · exact h.countLadder 8 _
    · exact h
  refine (h1.countCrit 8 crit).foldl _ fun u x hu => ?_
  extract_lets m ps s3 s4 ok
  have h3 : LedgerKept s s3 := by
    unfold s3
    split
    · exact hu.countLadder _ _
    · exact hu
  exact (h3.countCrit _ _).modHeat _

end

end Sys2Proof.Machine
end

section
/-! PROOFS. The update of the heat ledger, and sensors failed, suspect and trusted (R419, R421, R423, R424, R428, R429). -/

set_option Elab.async false

namespace Sys2Proof.Machine

section
variable {s : State}

/-! ## One update (R419 to R430) -/

theorem startHeat_runs (s : State) : (startHeat s).heat.start = .running ∧ (startHeat s).heat.sums = s.heat.sums := by
  unfold startHeat
  extract_lets at'
  split
  case h_1 h => exact ⟨h, rfl⟩
  case h_2 => exact ⟨rfl, rfl⟩
  case h_3 => exact ⟨rfl, rfl⟩

/-- The last ten sums of the domain powers, with those of an update. -/
def ledgerSums (i : LedgerIn) (s : State) : List Nat :=
  (((List.range 20).map fun d => if pdOff s d then 0 else (i.dom[d]?).getD 0).foldl (· + ·) 0 :: s.heat.sums).take 10

theorem pruneDrives_keeps (t1 : Nat) (s : State) : Keeps [.ports] s (forAll (List.range 8) (fun p s =>
    let e := (portAt s p).lastTEnd.toNat * 16
    pruneDrive p (if e = 0 then t1 else min t1 e) s) s) :=
  keeps_forAll _ _ (fun p _ h => keeps_pruneDrive (by decide) p _ h) (.refl _ s)

theorem ledgerUpdate_outcome (w : s.wf = true) (hr : heatRuns s = true) (i : LedgerIn) :
    (ledgerUpdate i s).regs.wf = true ∧ (ledgerUpdate i s).heat.start = .running ∧
      (ledgerUpdate i s).heat.last = s.linkTime ∧ (ledgerUpdate i s).heat.sums = ledgerSums i s ∧
      reg (ledgerUpdate i s) Reg.thPower =
        BitVec.ofNat 32 ((ledgerSums i s).foldl (· + ·) 0 / max 1 (ledgerSums i s).length) := by
  unfold ledgerUpdate
  extract_lets t0 t1 dom sum reads s1 s2 s3 s4 mean s5 s6 s7
  rw [if_neg (not_not.2 hr)]
  have hk : Keeps [.regs, .freeCount, .heat] s s4 :=
    keeps_evalLadders (by decide) (keeps_checkSensors (by decide) (keeps_foldl _ _ (fun u x hu => keeps_foldl _ _
      (fun v e hv => keeps_moveJunction (by decide) _ e t0 t1 hv) hu) (keeps_moveBoundary (by decide)
      (keeps_moveNodes (by decide) dom (keeps_startHeat (by decide) (keeps_modHeat (by decide) _ (.refl _ s)))))))
  have w4 : s4.regs.wf = true := (State.wf_iff.1 (hk.2.2.2.1 w)).1
  have hl : LedgerKept s1 s4 := ((((((LedgerKept.refl s1).modHeat (fun h => { h with nodes := _ })).moveBoundary).foldl _
    fun u x hu => hu.foldl _ fun v e hv => hv.moveJunction _ e t0 t1).modHeat
      (fun h => { h with diodes := _, eng := _ })).evalLadders)
  obtain ⟨hstart, hsums⟩ := startHeat_runs (modHeat (fun h => { h with diodes := reads, sums := (sum :: h.sums).take 10 }) s)
  have h4 : s4.heat.sums = ledgerSums i s := hl.sums.trans hsums
  have hmean : mean = (ledgerSums i s).foldl (· + ·) 0 / max 1 (ledgerSums i s).length := by
    unfold mean
    rw [h4]
  clear_value s4 mean
  have w5' := setReg_wf w4 Reg.thPower (BitVec.ofNat 32 mean)
  obtain ⟨w5, h5⟩ := setRegs_regs w5' ((List.range 20).map fun d => (Reg.thDom d, BitVec.ofNat 32 ((dom[d]?).getD 0)))
  have hpow : reg s5 Reg.thPower = BitVec.ofNat 32 mean := by
    refine (h5 _ fun e he => ?_).trans (reg_setReg_same w4 _ _)
    obtain ⟨d, -, rfl⟩ := List.mem_map.1 he
    simp only [Reg.thPower, Reg.thDom]
    omega
  have h7 := pruneDrives_keeps t1 s6
  have hregs : s7.regs = s5.regs := h7.same (k := .regs) (by decide)
  have hheat : s7.heat = s6.heat := h7.same (k := .heat) (by decide)
  have w7 : s7.regs.wf = true := hregs ▸ w5
  obtain ⟨ws, hs⟩ := showLedger_regs w7
  obtain ⟨wn, hn⟩ := withDim_regs (f := fun s => showPin (showHeat s)) (s := s7) ws
  have hnheat : (noteState (fun s => showPin (showHeat s)) s7).heat = s6.heat := by
    rcases withDim_cases (fun s => showPin (showHeat s)) s7 with h | h
    · exact (congrArg State.heat h).trans hheat
    · exact (congrArg State.heat h).trans ((raiseVec_heat _ _).trans hheat)
  refine ⟨wn, ?_, ?_, ?_, ?_⟩
  · exact (congrArg HeatState.start hnheat).trans (hl.start.trans hstart)
  · exact congrArg HeatState.last hnheat
  · exact (congrArg HeatState.sums hnheat).trans h4
  · refine (hn _ (by decide)).trans ((hs _ (by decide) (by simp [heatShown, Reg.thPower, Reg.thTb, Reg.thDiode, Reg.thS16, Reg.thNode])).trans ?_)
    exact (congrArg (·.get Reg.thPower) hregs).trans (hpow.trans (by rw [hmean]))

theorem ledgerUpdate_idle (h : heatRuns s = false) (i : LedgerIn) : ledgerUpdate i s = s := if_pos (by rw [h]; exact Bool.false_ne_true)

/-! ## Sensors that fail (R419) -/

theorem exec_engineSensorFailed (p : Port) (k : Fin 32) : exec (.engineSensorFailed p k) s = .next (sensorFailed p.val k.val s) := rfl

theorem sensorFailed_known {p i : Nat} {e : EngSensor} (he : engSens s p i = some e) : sensorFailed p i s =
    if 10 * msTicks ≤ since s e.seen then modEng p i (fun e => { e with failed := true }) s else s := by
  rw [sensorFailed, he]

theorem sensorFailed_unknown {p i : Nat} (he : engSens s p i = none) : sensorFailed p i s =
    if linkState s p = lsRun ∧ i < descAt s p 20 1 then addSensor p i true (signed 16 (fld (takeFree s).1 15 0)) (takeFree s).2
    else s := by
  rw [sensorFailed, he]

theorem engSens_addSensor {p i : Nat} (he : engSens s p i = none) (failed : Bool) (v : Int) :
    engSens (addSensor p i failed v s) p i =
      some { port := p, num := i, failed := failed, seen := s.linkTime, chk := { SensorCheck.init with val := v } } := by
  rw [engSens] at he
  rw [engSens, addSensor, modHeat]
  dsimp only
  rw [List.find?_append, he, Option.none_or, List.find?_cons_of_pos (by simp)]

/-! ## Suspect sensors (R424, R428) -/

theorem sensorTrusted_eq {k : Nat} {c : SensorCheck} (hc : checkOf s k = some c) : sensorTrusted k s =
    if c.suspect = true ∧ 10000 ≤ c.agree then showHeat (modCheck k (fun c => { c with suspect := false, dis := 0 }) s) else s := by
  rw [sensorTrusted, hc]

/-- The sensor is marked, and its event is in the log. -/
def suspectLogged (k : Nat) (s : State) : State :=
  let s1 := setBit Reg.thFlags 0 true (modCheck k (fun c => { c with suspect := true, agree := 0 }) s)
  if k < 17 then logEvent .SENSOR_SUSPECT clsPart 0 k s1
  else logEvent .SENSOR_SUSPECT clsEngine ((k - 17) / 32) ((k - 17) % 32) s1

/-- The ladder that the sensor leads, where there is one, is frozen until a link time. -/
def ladderFrozen (j : Option Nat) (until_ : BitVec 64) (s : State) : State :=
  match j with
  | some i => setBit (stepReg i) 12 true (modLadder i (fun l => { l with freeze := some until_ }) s)
  | none => s

theorem sensorSuspect_eq {k : Nat} {c : SensorCheck} (hc : checkOf s k = some c) : sensorSuspect k s =
    if c.suspect = true ∨ c.dis < 100 then s else showPin (showHeat (raiseVec vecHeat
      (ladderFrozen (hotLadder s k) (s.linkTime + BitVec.ofNat 64 freezeTicks) (suspectLogged k s)))) := by
  rw [sensorSuspect, hc]
  rfl

theorem modCheck_keeps (k : Nat) (f : SensorCheck → SensorCheck) (s : State) : Keeps [.heat] s (modCheck k f s) :=
  keeps_modCheck (List.Subset.refl _) k f (.refl _ s)

theorem suspectLogged_outcome (w : s.regs.wf = true) {k : Nat} {c : SensorCheck} (hc : checkOf s k = some c)
    (hn : c ≠ SensorCheck.init) :
    (suspectLogged k s).regs.wf = true ∧ rbit (suspectLogged k s) Reg.thFlags 0 = true ∧
      newestLog (suspectLogged k s) = (if k < 17 then logWord .SENSOR_SUSPECT clsPart 0
        else logWord .SENSOR_SUSPECT clsEngine ((k - 17) / 32)) ∧
      checkOf (suspectLogged k s) k = some { c with suspect := true, agree := 0 } ∧
      (suspectLogged k s).heat.ladders = s.heat.ladders ∧ (suspectLogged k s).slots = s.slots := by
  have hk := modCheck_keeps k (fun c => { c with suspect := true, agree := 0 }) s
  have hslots := hk.same (k := .slots) (by decide)
  have hladders := modCheck_ladders k (fun c => { c with suspect := true, agree := 0 }) s
  have hcheck := checkOf_modCheck hc hn fun c => { c with suspect := true, agree := 0 }
  have wm : (modCheck k (fun c => { c with suspect := true, agree := 0 }) s).regs.wf = true :=
    (hk.same (k := .regs) (by decide) : _ = s.regs) ▸ w
  unfold suspectLogged
  generalize modCheck k (fun c => { c with suspect := true, agree := 0 }) s = u at *
  have w1 : (setBit Reg.thFlags 0 true u).regs.wf = true := setBit_wf wm _ _ _
  have hlogged (st : Status) (cls id d : Nat) :
      (logEvent st cls id d (setBit Reg.thFlags 0 true u)).regs.wf = true ∧
      rbit (logEvent st cls id d (setBit Reg.thFlags 0 true u)) Reg.thFlags 0 = true ∧
      newestLog (logEvent st cls id d (setBit Reg.thFlags 0 true u)) = logWord st cls id ∧
      (logEvent st cls id d (setBit Reg.thFlags 0 true u)).heat = u.heat ∧
      (logEvent st cls id d (setBit Reg.thFlags 0 true u)).slots = u.slots := by
    obtain ⟨wl, hl⟩ := logEvent_regs w1 st cls id d
    have hkl := keeps_logEvent (F := [.regs, .out, .fr]) (List.Subset.refl _) st cls id d (.refl _ (setBit Reg.thFlags 0 true u))
    exact ⟨wl, (congrArg (bit · 0) (hl _ (by simp [logArea, Reg.thFlags, Reg.msixPba, Reg.frLogStat, Reg.frFault, Reg.frLog]))).trans
      (rbit_setBit_same wm _ _ (by decide)), logEvent_newest w1 st cls id d, hkl.same (k := .heat) (by decide),
      hkl.same (k := .slots) (by decide)⟩
  dsimp only
  split
  case isTrue hlt =>
    obtain ⟨wl, hf, hnew, hheat, hs⟩ := hlogged .SENSOR_SUSPECT clsPart 0 k
    exact ⟨wl, hf, hnew, (checkOf_of_heat (congrArg _ hheat) (congrArg _ hheat) k).trans hcheck,
      (congrArg HeatState.ladders hheat).trans hladders, hs.trans hslots⟩
  case isFalse hge =>
    obtain ⟨wl, hf, hnew, hheat, hs⟩ := hlogged .SENSOR_SUSPECT clsEngine ((k - 17) / 32) ((k - 17) % 32)
    exact ⟨wl, hf, hnew, (checkOf_of_heat (congrArg _ hheat) (congrArg _ hheat) k).trans hcheck,
      (congrArg HeatState.ladders hheat).trans hladders, hs.trans hslots⟩

/-- The registers of the steps lie apart from the flags, the log and what the ledger shows. -/
theorem stepReg_range {i : Nat} (h : i < 9) : stepReg i = Reg.thPkg ∨ 0x1001000 ≤ stepReg i ∧ stepReg i < 0x1002000 := by
  unfold stepReg
  split
  · exact .inl rfl
  · right
    simp only [Reg.thLsStep]
    omega

theorem hotLadder_some {k j : Nat} (h : hotLadder s k = some j) : j < 9 ∧ ladderAt s j ≠ Ladder.init := by
  unfold hotLadder at h
  extract_lets i pt at h
  obtain ⟨m, hm, hif⟩ := Option.bind_eq_some_iff.1 h
  have hpt : pt ≠ 0 := by
    unfold pt
    split <;> omega
  split at hif
  case isFalse => exact absurd hif nofun
  case isTrue hc =>
    obtain rfl := Option.some.inj hif
    refine ⟨?_, fun e => hpt (hc.1.symm.trans (by rw [e]; rfl))⟩
    unfold i at hm
    split at hm
    · obtain rfl := Option.some.inj hm
      decide
    · exact Nat.lt_succ_of_lt (lt_of_slotOnPort hm)

theorem ladderFrozen_outcome (w : s.regs.wf = true) {j : Option Nat} (hj : ∀ i, j = some i → i < 9) (until_ : BitVec 64) :
    (ladderFrozen j until_ s).regs.wf = true ∧ (ladderFrozen j until_ s).slots = s.slots ∧
      (ladderFrozen j until_ s).heat.diodes = s.heat.diodes ∧ (ladderFrozen j until_ s).heat.eng = s.heat.eng ∧
      ∀ a, (∀ i, i < 9 → a ≠ stepReg i) → reg (ladderFrozen j until_ s) a = reg s a := by
  cases j with
  | none => exact ⟨w, rfl, rfl, rfl, fun _ _ => rfl⟩
  | some i => exact ⟨setBit_wf (s := modLadder i _ s) w _ _ _, rfl, rfl, rfl,
      fun a ha => reg_setFld_ne (s := modLadder i _ s) w _ _ _ (ha i (hj i rfl))⟩

/-- What a sensor newly suspect leaves: the flags and the log stand when the ladder and the ledger's registers have been shown. -/
theorem sensorSuspect_outcome (w : s.regs.wf = true) {k : Nat} {c : SensorCheck} (hc : checkOf s k = some c)
    (hs : c.suspect = false) (hd : 100 ≤ c.dis) :
    let t := sensorSuspect k s
    checkOf t k = some { c with suspect := true, agree := 0 } ∧ rbit t Reg.thFlags 0 = true ∧
      newestLog t = (if k < 17 then logWord .SENSOR_SUSPECT clsPart 0 else logWord .SENSOR_SUSPECT clsEngine ((k - 17) / 32)) ∧
      (∀ j, hotLadder s k = some j → (ladderAt t j).freeze = some (s.linkTime + BitVec.ofNat 64 freezeTicks)) ∧
      t.slots = s.slots := by
  have hn : c ≠ SensorCheck.init := by
    rintro rfl
    exact absurd hd (by decide)
  obtain ⟨wl, hf, hnew, hcheck, hladders, hslots⟩ := suspectLogged_outcome w hc hn
  have hlad (j : Nat) : ladderAt (suspectLogged k s) j = ladderAt s j := by rw [ladderAt, hladders, ladderAt]
  rw [sensorSuspect_eq hc, if_neg (not_or.2 ⟨hs ▸ Bool.false_ne_true, by omega⟩)]
  generalize suspectLogged k s = u at *
  obtain ⟨wz, hzslots, hzd, hze, hzreg⟩ := ladderFrozen_outcome wl (fun i h => (hotLadder_some (s := s) h).1)
    (s.linkTime + BitVec.ofNat 64 freezeTicks)
  have hfrz (j : Nat) (hj : hotLadder s k = some j) :
      (ladderAt (ladderFrozen (hotLadder s k) (s.linkTime + BitVec.ofNat 64 freezeTicks) u) j).freeze =
        some (s.linkTime + BitVec.ofNat 64 freezeTicks) := by
    have hne : ladderAt u j ≠ Ladder.init := hlad j ▸ (hotLadder_some hj).2
    rw [hj]
    exact congrArg Ladder.freeze (ladderAt_modLadder_same hne fun l =>
      { l with freeze := some (s.linkTime + BitVec.ofNat 64 freezeTicks) })
  generalize ladderFrozen (hotLadder s k) (s.linkTime + BitVec.ofNat 64 freezeTicks) u = z at *
  obtain ⟨wv, hv⟩ := raiseVec_regs wz vecHeat
  obtain ⟨-, hsh⟩ := showLedger_regs wv
  have hreg (a : Nat) (ha : a = Reg.thFlags ∨ a = Reg.frLogStat ∨ Reg.frLog 0 0 ≤ a ∧ a < Reg.frLog 64 0) :
      reg (showPin (showHeat (raiseVec vecHeat z))) a = reg u a := by
    simp only [Reg.thFlags, Reg.frLogStat, Reg.frLog] at ha
    refine (hsh a ?_ ?_).trans ((hv a ?_).trans (hzreg a fun i hi => ?_))
    · simp only [Reg.thPin]
      omega
    · simp only [heatShown, Reg.thTb, Reg.thDiode, Reg.thS16, Reg.thNode]
      omega
    · simp only [Reg.msixPba, vecHeat]
      omega
    · have := stepReg_range hi
      simp only [Reg.thPkg] at this
      omega
  have hheat : (showPin (showHeat (raiseVec vecHeat z))).heat = z.heat := raiseVec_heat _ _
  refine ⟨(checkOf_of_heat ((congrArg HeatState.diodes hheat).trans hzd) ((congrArg HeatState.eng hheat).trans hze) k).trans hcheck,
    (congrArg (bit · 0) (hreg _ (.inl rfl))).trans hf, (newestLog_of_kept fun a ha => hreg a (.inr ha)).trans hnew,
    fun j hj => (congrArg Ladder.freeze (ladderAt_of_heat hheat j)).trans (hfrz j hj), ?_⟩
  exact (raiseVec_slots _ _).trans (hzslots.trans hslots)

end

/-- Settles O53: an update keeps the start and the sums of the ledger through its model, and a sensor's mark outlives what the ledger
shows of it. That a sensor of a bound engine never heard fails at once, with an open reading, is the model's choice (log entry 90). -/
theorem heatLedger : Obligations.HeatLedger := by
  intro s w
  obtain ⟨wr, -⟩ := State.wf_iff.1 w
  refine ⟨fun i => ⟨fun h => ?_, fun sums hr _ hsums => ?_⟩, fun p k => ⟨fun e he h => ?_, fun e he h => ?_, fun he hl hi => ?_, fun he h => ?_⟩,
    fun k c hc hs => ⟨fun hd => ?_, fun hd => ?_⟩, fun k c hc => ⟨fun hs ha => ?_, fun h => ?_⟩⟩
  · exact congrArg Host.Outcome.next (withDim_of_id (ledgerUpdate_idle h i))
  · subst hsums
    obtain ⟨wu, hstart, hlast, hsum, hpow⟩ := ledgerUpdate_outcome w hr i
    have he : exec (.ledgerUpdate i) s = .next (withDim (ledgerUpdate i) s) := rfl
    have hk := exec_keeps he
    have hheat : (withDim (ledgerUpdate i) s).heat = (ledgerUpdate i s).heat := by
      rcases withDim_cases (ledgerUpdate i) s with h | h <;> rw [h]
      exact raiseVec_heat _ _
    exact ⟨_, he, (congrArg HeatState.start hheat).trans hstart, (congrArg HeatState.last hheat).trans hlast,
      (congrArg HeatState.sums hheat).trans hsum, ((withDim_regs wu).2 _ (by decide)).trans hpow,
      hk.same (k := .slots) (by simp [footprint]), hk.same (k := .power) (by simp [footprint])⟩
  · refine ⟨_, (exec_engineSensorFailed p k).trans (congrArg _ ((sensorFailed_known he).trans (if_pos h))), ?_, rfl, rfl, rfl, rfl⟩
    rw [engSens_modEng, he]
    · rfl
    · exact fun _ => ⟨rfl, rfl⟩
  · exact (exec_engineSensorFailed p k).trans (congrArg _ ((sensorFailed_known he).trans (if_neg (by omega))))
  · exact ⟨_, _, (exec_engineSensorFailed p k).trans (congrArg _ ((sensorFailed_unknown he).trans (if_pos ⟨hl, hi⟩))),
      engSens_addSensor (s := (takeFree s).2) he _ _, rfl, rfl, rfl, rfl, rfl, rfl⟩
  · exact (exec_engineSensorFailed p k).trans (congrArg _ ((sensorFailed_unknown he).trans (if_neg (by omega))))
  · obtain ⟨hcheck, hf, hnew, hfrz, hslots⟩ := sensorSuspect_outcome wr hc hs hd
    exact ⟨_, rfl, hcheck, hf, fun h => hnew.trans (if_pos h), fun h => hnew.trans (if_neg (by omega)), hfrz, hslots⟩
  · exact congrArg Host.Outcome.next ((sensorSuspect_eq hc).trans (if_pos (.inr hd)))
  · have hn : c ≠ SensorCheck.init := by
      rintro rfl
      exact absurd hs (by decide)
    refine ⟨_, congrArg Host.Outcome.next ((sensorTrusted_eq hc).trans (if_pos ⟨hs, ha⟩)), ?_,
      modCheck_ladders k (fun c => { c with suspect := false, dis := 0 }) s,
      (modCheck_keeps k (fun c => { c with suspect := false, dis := 0 }) s).same (k := .slots) (by decide)⟩
    exact checkOf_modCheck hc hn fun c => { c with suspect := false, dis := 0 }
  · refine congrArg Host.Outcome.next ((sensorTrusted_eq hc).trans (if_neg fun hb => ?_))
    rcases h with h | h
    · exact Bool.false_ne_true (h.symm.trans hb.1)
    · omega

end Sys2Proof.Machine
end

section
/-! PROOFS. The actions of the heat ledger: throttle steps and their freeze, the trips and the power limit (R425 to R431). -/

set_option Elab.async false

namespace Sys2Proof.Machine

section
variable {s t u : State}

/-! ## An event with its flag -/

/-- The registers of the fault log's entries and of its head. -/
def logEntries (a : Nat) : Prop := a = Reg.frLogStat ∨ Reg.frLog 0 0 ≤ a ∧ a < Reg.frLog 64 0

theorem newestLog_withDim {f : State → State} (w : (f s).regs.wf = true) : newestLog (withDim f s) = newestLog (f s) := by
  obtain ⟨-, hr⟩ := withDim_regs w
  refine newestLog_of_kept fun a ha => hr a ?_
  simp only [Reg.frLogStat, Reg.frLog, Reg.msixPba] at ha ⊢
  omega

theorem heat_withDim (f : State → State) (s : State) : (withDim f s).heat = (f s).heat := by
  rcases withDim_cases f s with h | h <;> rw [h]
  exact raiseVec_heat _ _

theorem logEvent_flag (w : s.regs.wf = true) (c : Status) (cls id d : Nat) :
    reg (logEvent c cls id d s) Reg.thFlags = reg s Reg.thFlags :=
  (logEvent_regs w c cls id d).2 _ (by simp [logArea, Reg.thFlags, Reg.msixPba, Reg.frLogStat, Reg.frFault, Reg.frLog])

theorem logEvent_heat (c : Status) (cls id d : Nat) (s : State) : (logEvent c cls id d s).heat = s.heat :=
  (keeps_logEvent (F := [.regs, .out, .fr]) (List.Subset.refl _) c cls id d (.refl _ s)).same (k := .heat) (by decide)

/-! ## The supply target follows a throttle step (R241, R243) -/

/-- From s to t only slot n and the words of its supply change. -/
structure SupplyOnly (n : Nat) (s t : State) : Prop where
  wf : t.regs.wf = true
  word : ∀ a, a ≠ Reg.lsFlags n → a ≠ Reg.lsSet n → reg t a = reg s a
  heat : t.heat = s.heat
  slot : ∀ j, j ≠ n → slotAt t j = slotAt s j

theorem SupplyOnly.refl (w : s.regs.wf = true) (n : Nat) : SupplyOnly n s s := ⟨w, fun _ _ _ => rfl, rfl, fun _ _ => rfl⟩

theorem SupplyOnly.setReg {n : Nat} (h : SupplyOnly n s t) {a : Nat} (ha : a = Reg.lsFlags n ∨ a = Reg.lsSet n) (v : Word) :
    SupplyOnly n s (setReg a v t) := by
  refine ⟨setReg_wf h.wf _ _, fun b hf hs => (reg_setReg_ne h.wf _ fun e => ?_).trans (h.word b hf hs), h.heat, h.slot⟩
  exact ha.elim (fun k => hf (e.trans k)) fun k => hs (e.trans k)

theorem SupplyOnly.modSlot {n : Nat} (h : SupplyOnly n s t) (f : SlotState → SlotState) : SupplyOnly n s (modSlot n f t) := by
  refine ⟨(modSlot_regs n f t).symm ▸ h.wf, fun a hf hs => (reg_modSlot n f t a).trans (h.word a hf hs), ?_,
    fun j hj => (slotAt_modSlot_ne hj f t).trans (h.slot j hj)⟩
  exact ((keeps_modSlot (F := [.slots]) (List.Subset.refl _) n f (.refl _ t)).same (k := .heat) (by decide)).trans h.heat

theorem SupplyOnly.setTarget {n : Nat} (h : SupplyOnly n s t) (d : Nat) : SupplyOnly n s (setTarget n d t) := by
  unfold Machine.setTarget
  split
  · exact h
  · split
    · exact h
    · extract_lets s1
      have h1 : SupplyOnly n s s1 := by
        unfold s1
        split
        · exact h.setReg (.inl rfl) _
        · exact h
      exact (h1.modSlot _).setReg (.inr rfl) _

theorem SupplyOnly.raiseTarget {n : Nat} (h : SupplyOnly n s t) (d : Nat) : SupplyOnly n s (raiseTarget n d t) := by
  unfold Machine.raiseTarget
  split
  · exact h
  · split
    · exact h.setTarget d
    · exact h

theorem SupplyOnly.raiseFrame {n : Nat} (h : SupplyOnly n s t) : SupplyOnly n s (raiseFrame n t) := by
  unfold Machine.raiseFrame
  split
  · exact h
  · split
    · exact h.raiseTarget _
    · exact h

/-! ## Throttle steps (R427) -/

/-- Ladder i stands at step k, its event is in the log and THERM_n is shown. -/
def stepShown (i k : Nat) (f : Ladder → Ladder) (s : State) : State :=
  showPin (raiseVec vecHeat (logEvent .THROTTLE_STEP clsPart i k (setBit Reg.thFlags 1 true
    (setFld (stepReg i) 3 0 k (modLadder i f s)))))

/-- A throttle step, with the supply that a slot's frame needs at it. -/
def stepTaken (i k : Nat) (f : Ladder → Ladder) (s : State) : State :=
  if i < 8 then raiseFrame i (stepShown i k f s) else stepShown i k f s

theorem throttleStep_eq {i : Nat} (hd : i < 8 → declared s i = true) : throttleStep i s =
    if (ladderAt s i).overs = 200 ∧ rfld s (stepReg i) 3 0 < 15 then
      stepTaken i (rfld s (stepReg i) 3 0 + 1) (fun l => { l with overs := 0 }) s
    else if (ladderAt s i).under = 2000 ∧ floorOf s i < rfld s (stepReg i) 3 0 ∧ (ladderAt s i).freeze.isNone then
      stepTaken i (rfld s (stepReg i) 3 0 - 1) (fun l => { l with under := 0 }) s
    else s := if_neg fun h => h.2 (hd h.1)

/-- The words that a throttle step sets: the step of ladder i, the step flag, and the log's newest entry. -/
structure StepWords (i k : Nat) (s : State) : Prop where
  step : rfld s (stepReg i) 3 0 = k
  flag : rbit s Reg.thFlags 1 = true
  log : newestLog s = logWord .THROTTLE_STEP clsPart i

theorem StepWords.of_kept {i k : Nat} (h : StepWords i k s)
    (hr : ∀ a, a = stepReg i ∨ a = Reg.thFlags ∨ logEntries a → reg t a = reg s a) : StepWords i k t :=
  ⟨(congrArg (fld · 3 0) (hr _ (.inl rfl))).trans h.step, (congrArg (bit · 1) (hr _ (.inr (.inl rfl)))).trans h.flag,
    (newestLog_of_kept fun a ha => hr a (.inr (.inr ha))).trans h.log⟩

/-- The words of a throttle step lie where neither the pending bits nor THERM_n nor a supply stands. -/
theorem stepWord_apart {i a : Nat} (hi : i < 9) (ha : a = stepReg i ∨ a = Reg.thFlags ∨ logEntries a) :
    a ≠ Reg.thPin ∧ a ≠ Reg.msixPba ∧ ∀ n, n < 8 → a ≠ Reg.lsFlags n ∧ a ≠ Reg.lsSet n := by
  have h := stepReg_range hi
  simp only [logEntries, Reg.thPkg, Reg.thFlags, Reg.frLogStat, Reg.frLog] at h ha
  simp only [Reg.thPin, Reg.msixPba, Reg.lsFlags, Reg.lsSet, Reg.ls]
  refine ⟨by omega, by omega, fun n hn => ⟨by omega, by omega⟩⟩

theorem stepShown_outcome (w : s.regs.wf = true) {i k : Nat} (hi : i < 9) (hk : k < 16) (f : Ladder → Ladder) :
    (stepShown i k f s).regs.wf = true ∧ StepWords i k (stepShown i k f s) ∧
      (stepShown i k f s).heat = (modLadder i f s).heat ∧ (stepShown i k f s).slots = s.slots := by
  have hrange := stepReg_range hi
  simp only [Reg.thPkg] at hrange
  have hflag : stepReg i ≠ Reg.thFlags := by simp only [Reg.thFlags]; omega
  have hlog : ¬ logArea (stepReg i) := by
    simp only [logArea, Reg.msixPba, Reg.frLogStat, Reg.frFault, Reg.frLog]
    omega
  have wm : (modLadder i f s).regs.wf = true := w
  unfold stepShown
  generalize hm : modLadder i f s = m at wm ⊢
  have hslots : m.slots = s.slots := hm ▸ rfl
  have w1 := setFld_wf wm (stepReg i) 3 0 k
  have w2 := setBit_wf w1 Reg.thFlags 1 true
  obtain ⟨w3, h3⟩ := logEvent_regs w2 .THROTTLE_STEP clsPart i k
  obtain ⟨w4, h4⟩ := raiseVec_regs w3 vecHeat
  obtain ⟨w5, h5⟩ := showPin_regs w4
  have hwords : StepWords i k (logEvent .THROTTLE_STEP clsPart i k (setBit Reg.thFlags 1 true (setFld (stepReg i) 3 0 k m))) :=
    ⟨(congrArg (fld · 3 0) (h3 _ hlog)).trans ((rfld_setFld_ne w1 _ _ _ _ _ hflag).trans
        ((rfld_setFld_same wm _ _ (by decide) (by decide)).trans (Nat.mod_eq_of_lt hk))),
      (congrArg (bit · 1) (logEvent_flag w2 _ _ _ _)).trans (rbit_setBit_same w1 _ _ (by decide)), logEvent_newest w2 _ _ _ _⟩
  refine ⟨w5, hwords.of_kept fun a ha => ?_, (raiseVec_heat _ _).trans (logEvent_heat _ _ _ _ _),
    (raiseVec_slots _ _).trans ((logEvent_slots _ _ _ _ _).trans hslots)⟩
  obtain ⟨hpin, hpba, -⟩ := stepWord_apart hi ha
  exact (h5 a hpin).trans (h4 a hpba)

/-- What a throttle step leaves: the step with its flag and event, the ladder's count cleared, and other slots as they were. -/
theorem stepTaken_outcome (w : s.regs.wf = true) {i k : Nat} (hi : i < 9) (hk : k < 16) {f : Ladder → Ladder}
    (hl : ladderAt s i ≠ Ladder.init) :
    StepWords i k (stepTaken i k f s) ∧ ladderAt (stepTaken i k f s) i = f (ladderAt s i) ∧
      (∀ j, j ≠ i → ladderAt (stepTaken i k f s) j = ladderAt s j) ∧ ∀ j, j ≠ i → slotAt (stepTaken i k f s) j = slotAt s j := by
  obtain ⟨wt, hwords, hheat, hslots⟩ := stepShown_outcome w hi hk f
  have hslot (j : Nat) : slotAt (stepShown i k f s) j = slotAt s j := by rw [slotAt, hslots, slotAt]
  unfold stepTaken
  generalize stepShown i k f s = t at *
  have hladder (v : State) (hv : v.heat = t.heat) :
      ladderAt v i = f (ladderAt s i) ∧ ∀ j, j ≠ i → ladderAt v j = ladderAt s j :=
    ⟨(ladderAt_of_heat (hv.trans hheat) i).trans (ladderAt_modLadder_same hl f),
      fun j hj => (ladderAt_of_heat (hv.trans hheat) j).trans (ladderAt_modLadder_ne hj f)⟩
  split
  case isTrue hlt =>
    have hs := (SupplyOnly.refl wt i).raiseFrame
    obtain ⟨hsame, hne⟩ := hladder _ hs.heat
    refine ⟨hwords.of_kept fun a ha => ?_, hsame, hne, fun j hj => (hs.slot j hj).trans (hslot j)⟩
    obtain ⟨-, -, hsupply⟩ := stepWord_apart hi ha
    exact hs.word a (hsupply i hlt).1 (hsupply i hlt).2
  case isFalse =>
    obtain ⟨hsame, hne⟩ := hladder _ rfl
    exact ⟨hwords, hsame, hne, fun j _ => hslot j⟩

theorem exec_throttleStep (i : Fin 9) : exec (.throttleStep i) s = .next (throttleStep i.val s) := rfl

/-! ## The end of a freeze (R428) -/

theorem freezeEnd_eq {i : Nat} {at0 : BitVec 64} (h : (ladderAt s i).freeze = some at0) : freezeEnd i s =
    if (at0 - s.linkTime).toInt ≤ 0 then showPin (setBit (stepReg i) 12 false (modLadder i (fun l => { l with freeze := none }) s))
    else s := by
  rw [freezeEnd, h]

theorem freezeEnded (w : s.regs.wf = true) {i : Nat} (hi : i < 9) {at0 : BitVec 64} (h : (ladderAt s i).freeze = some at0) :
    let t := showPin (setBit (stepReg i) 12 false (modLadder i (fun l => { l with freeze := none }) s))
    (ladderAt t i).freeze = none ∧ rbit t (stepReg i) 12 = false ∧ rfld t (stepReg i) 3 0 = rfld s (stepReg i) 3 0 := by
  have hne : ladderAt s i ≠ Ladder.init := fun e => nomatch h.symm.trans (congrArg Ladder.freeze e)
  have hsame := ladderAt_modLadder_same hne fun l => { l with freeze := none }
  have wm : (modLadder i (fun l => { l with freeze := none }) s).regs.wf = true := w
  have hreg : reg (modLadder i (fun l => { l with freeze := none }) s) (stepReg i) = reg s (stepReg i) := rfl
  generalize modLadder i (fun l => { l with freeze := none }) s = m at *
  obtain ⟨-, hp⟩ := showPin_regs (setBit_wf wm (stepReg i) 12 false)
  have hpin := hp (stepReg i) (stepWord_apart hi (.inl rfl)).1
  refine ⟨congrArg Ladder.freeze hsame, (congrArg (bit · 12) hpin).trans (rbit_setBit_same wm _ _ (by decide)),
    (congrArg (fld · 3 0) hpin).trans ((rfld_setFld_out wm _ _ (by decide) (by decide) (by decide) (by decide)).trans ?_)⟩
  exact congrArg (fld · 3 0) hreg

/-! ## The trips (R430) -/

theorem markTrip_flag (w : s.regs.wf = true) (i : Nat) :
    (markTrip i s).regs.wf = true ∧ rbit (markTrip i s) Reg.thFlags 3 = true := by
  have wm : (modHeat (fun h => { h with trip := setNth h.trip i true }) s).regs.wf = true := w
  obtain ⟨wp, hp⟩ := showPin_regs (setBit_wf wm Reg.thFlags 3 true)
  exact ⟨wp, (congrArg (bit · 3) (hp _ (by decide))).trans (rbit_setBit_same wm _ _ (by decide))⟩

/-- A trip with its event. -/
theorem tripLogged (w : s.regs.wf = true) (i : Nat) (c : Status) (cls id d : Nat) :
    let t := logEvent c cls id d (markTrip i s)
    t.regs.wf = true ∧ rbit t Reg.thFlags 3 = true ∧ newestLog t = logWord c cls id ∧ t.slots = s.slots := by
  obtain ⟨wm, hf⟩ := markTrip_flag w i
  exact ⟨(logEvent_regs wm c cls id d).1, (congrArg (bit · 3) (logEvent_flag wm c cls id d)).trans hf, logEvent_newest wm c cls id d,
    (logEvent_slots _ _ _ _ _).trans ((keeps_markTrip (F := [.regs, .heat]) (List.Subset.refl _) i (.refl _ s)).same (k := .slots)
      (by decide))⟩

/-- The package's trip, with its time. -/
def packageTrip (s : State) : State :=
  logEvent .THERMAL_CRIT clsPart 0 0 (markTrip 8 (modHeat (fun h => { h with tripAt := s.linkTime }) s))

theorem packageTrip_outcome (w : s.regs.wf = true) :
    (packageTrip s).regs.wf = true ∧ rbit (packageTrip s) Reg.thFlags 3 = true ∧
      newestLog (packageTrip s) = logWord .THERMAL_CRIT clsPart 0 ∧ (packageTrip s).heat.tripAt = s.linkTime := by
  obtain ⟨wl, hf, hlog, -⟩ := tripLogged (s := modHeat (fun h => { h with tripAt := s.linkTime }) s) w 8 .THERMAL_CRIT clsPart 0 0
  exact ⟨wl, hf, hlog, congrArg HeatState.tripAt (logEvent_heat _ _ _ _ _)⟩

theorem exec_thermalCrit (h : critDue s 8 = true) : exec .thermalCrit s = .next (withDim packageTrip s) :=
  congrArg Host.Outcome.next (if_pos h)

/-- A slot contained off has its LEN_n low, and words of neither the light nor FR_CONTAIN change. -/
theorem containSlot_off_words (w : s.regs.wf = true) (r : RunningInRange s) {n : Nat} (h : declared s n = true)
    (cause : ContainCause) :
    lenPin (containSlot n cause true s) (portOf s n) = false ∧
      ∀ a, ¬ lightArea true a → a ≠ Reg.frContain → reg (containSlot n cause true s) a = reg s a := by
  have k : LinkKept false s (showContain (addContain n cause true s)) := by
    refine LinkKept.showContain ?_
    exact (LinkKept.refl w r).modSlot n _
  have hk (a : Nat) (ha : a ≠ Reg.frContain) : reg (showContain (addContain n cause true s)) a = reg s a :=
    (reg_setReg_ne (s := addContain n cause true s) ((modSlot_regs _ _ _).symm ▸ w) _ ha).trans (reg_modSlot _ _ _ a)
  have hp := r.port_lt n
  rw [containSlot_declared h, if_pos rfl]
  generalize showContain (addContain n cause true s) = c at k hk
  have kd := (LinkKept.refl (stat := true) k.wf k.range).lenDrop hp 5
  have hl := ((LightKept.refl (stat := true) c).lenDrop hp 5).refreshCeil n
  obtain ⟨-, -, -, hword⟩ := hl k.wf
  refine ⟨?_, fun a ha hc => (hword k.range.chans a ha).trans (hk a hc)⟩
  exact (congrArg (bit · _) (((LinkKept.refl (stat := false) kd.wf kd.range).refreshCeil n).word _ linkWord_lcLenStat)).trans
    (lenDrop_pin_same k.wf k.range hp 5)

/-- Beginning grace changes no word of the registers but FR_GRACE. -/
theorem startGrace_words (w : s.regs.wf = true) (q : Party) :
    (startGrace q s).regs.wf = true ∧ ∀ a, a ≠ Reg.frGrace → reg (startGrace q s) a = reg s a := by
  unfold startGrace
  split
  · exact ⟨w, fun _ _ => rfl⟩
  · refine ⟨setBit_wf ?_ _ _ _, fun a ha => reg_setFld_ne ?_ _ _ _ ha⟩ <;> exact w

/-- What the laser trip of slot n leaves. -/
structure LaserTripped (n p : Nat) (s : State) : Prop where
  wf : s.regs.wf = true
  grace : rbit s Reg.frGrace p = true
  pin : lenPin s p = false
  contain : (slotAt s n).contain.any (fun x => x.cause == .overtemp && x.off) = true
  flag : rbit s Reg.thFlags 3 = true
  log : newestLog s = logWord .LASER_OVERTEMP clsEngine p

theorem LaserTripped.withDim {n p : Nat} {f : State → State} (h : LaserTripped n p (f s)) : LaserTripped n p (withDim f s) := by
  obtain ⟨wd, hd⟩ := withDim_regs h.wf
  exact ⟨wd, (congrArg (bit · p) (hd _ (by decide))).trans h.grace, (congrArg (bit · (8 + p)) (hd _ (by decide))).trans h.pin,
    by rw [slotAt, withDim_slots]; exact h.contain, (congrArg (bit · 3) (hd _ (by decide))).trans h.flag,
    (newestLog_withDim h.wf).trans h.log⟩

theorem laserOvertemp_tripped (w : s.regs.wf = true) (r : RunningInRange s) {n : Nat} (hd : declared s n = true)
    (hc : critDue s n = true) : LaserTripped n (portOf s n) (laserOvertemp n s) := by
  have hp := r.port_lt n
  unfold laserOvertemp
  rw [if_pos (by rw [hd, hc]; rfl)]
  obtain ⟨wl, hf, hlog, hslots⟩ := tripLogged w n .LASER_OVERTEMP clsEngine (portOf s n) 0
  generalize logEvent .LASER_OVERTEMP clsEngine (portOf s n) 0 (markTrip n s) = l at *
  have hcfg (k : Nat) : cfgOf l k = cfgOf s k := by rw [cfgOf, slotAt, hslots, cfgOf, slotAt]
  have hdl : declared l n = true := by rw [declared, hcfg]; exact hd
  have hport : portOf l n = portOf s n := by rw [portOf, hcfg, portOf]
  obtain ⟨hpin, hword⟩ := containSlot_off_words wl (r.of_cfg hcfg) hdl .overtemp
  obtain ⟨x, hx, hcause, -, hoff⟩ := containSlot_contains hdl .overtemp true
  have wc := (containSlot_off_kept wl (r.of_cfg hcfg) n .overtemp).wf
  rw [hport] at hpin
  generalize containSlot n .overtemp true l = v at *
  obtain ⟨wg, hg⟩ := startGrace_words wc (engineParty (portOf s n))
  have hslot : (startGrace (engineParty (portOf s n)) v).slots = v.slots :=
    (keeps_startGrace (F := [.regs, .fr]) (List.Subset.refl _) _ (.refl _ v)).same (k := .slots) (by decide)
  have hreg (a : Nat) (ha : a = Reg.thFlags ∨ logEntries a) : reg (startGrace (engineParty (portOf s n)) v) a = reg l a := by
    simp only [logEntries, Reg.thFlags, Reg.frLogStat, Reg.frLog] at ha
    refine (hg a ?_).trans (hword a ?_ ?_)
    · simp only [Reg.frGrace]
      omega
    · simp only [lightArea, Reg.lcLenStat]
      omega
    · simp only [Reg.frContain]
      omega
  refine ⟨wg, startGrace_engine wc hp, (congrArg (bit · _) (hg Reg.lcLenStat (by decide))).trans hpin, ?_,
    (congrArg (bit · 3) (hreg _ (.inl rfl))).trans hf, (newestLog_of_kept fun a ha => hreg a (.inr ha)).trans hlog⟩
  rw [slotAt, hslot]
  exact List.any_eq_true.2 ⟨x, hx, by rw [hcause, hoff rfl]; rfl⟩

/-! ## The power limit (R429) -/

theorem exec_powerLimit (hl : s.heat.limited = true) (hp : powerLimit s < pkgPower s) (ht : 50 * msTicks ≤ since s s.heat.limitAt) :
    exec .powerLimit s = .next (raiseVec vecHeat (logEvent .POWER_LIMIT clsPart 0 0 (setBit Reg.thFlags 2 true s))) :=
  congrArg Host.Outcome.next (if_pos ⟨hl, hp, ht⟩)

theorem powerLimit_logged (w : s.regs.wf = true) :
    let t := raiseVec vecHeat (logEvent .POWER_LIMIT clsPart 0 0 (setBit Reg.thFlags 2 true s))
    rbit t Reg.thFlags 2 = true ∧ newestLog t = logWord .POWER_LIMIT clsPart 0 ∧ t.heat = s.heat ∧ t.slots = s.slots := by
  have w1 := setBit_wf w Reg.thFlags 2 true
  have hf := (congrArg (bit · 2) (logEvent_flag w1 .POWER_LIMIT clsPart 0 0)).trans (rbit_setBit_same w _ _ (by decide))
  have hlog := logEvent_newest w1 .POWER_LIMIT clsPart 0 0
  obtain ⟨w2, -⟩ := logEvent_regs w1 .POWER_LIMIT clsPart 0 0
  obtain ⟨-, h3⟩ := raiseVec_regs w2 vecHeat
  refine ⟨(congrArg (bit · 2) (h3 _ (by decide))).trans hf, (newestLog_of_kept fun a ha => h3 a ?_).trans hlog,
    (raiseVec_heat _ _).trans (logEvent_heat _ _ _ _ _), (raiseVec_slots _ _).trans (logEvent_slots _ _ _ _ _)⟩
  simp only [Reg.frLogStat, Reg.frLog, Reg.msixPba, vecHeat] at ha ⊢
  omega

end

/-- Settles O54: a step's words outlive the supply it asks for, and those of a trip the containment of its slot. -/
theorem heatActions : Obligations.HeatActions := by
  intro s w
  obtain ⟨wr, -⟩ := State.wf_iff.1 w
  refine ⟨fun i k hd hk => ?_, fun i at0 h => ⟨fun hle => ?_, fun hlt => ?_⟩, fun h => ?_, fun n c hr hc h => ?_, fun h hl => ?_,
    fun hl hb => ?_, fun hl hp ht => ?_⟩
  · have hk16 : k < 16 := hk ▸ fld_lt _ 3 0
    have heq := (exec_throttleStep i).trans (congrArg Host.Outcome.next (throttleStep_eq hd))
    rw [← hk] at heq
    refine ⟨fun ho hlt => ?_, fun ho hu hfl hfr => ?_, fun ho hu => ?_⟩
    · have hne : ladderAt s i.val ≠ Ladder.init := fun e => absurd (ho.symm.trans (congrArg Ladder.overs e)) (by decide)
      obtain ⟨hwords, hsame, hladders, hslots⟩ :=
        stepTaken_outcome (f := fun l => { l with overs := 0 }) wr i.isLt (k := k + 1) (by omega) hne
      exact ⟨_, heq.trans (congrArg _ (if_pos ⟨ho, hlt⟩)), hwords.step, hsame, hwords.flag, hwords.log, hladders, hslots⟩
    · have hne : ladderAt s i.val ≠ Ladder.init := fun e => absurd (hu.symm.trans (congrArg Ladder.under e)) (by decide)
      obtain ⟨hwords, hsame, hladders, hslots⟩ :=
        stepTaken_outcome (f := fun l => { l with under := 0 }) wr i.isLt (k := k - 1) (by omega) hne
      exact ⟨_, heq.trans (congrArg _ ((if_neg fun b => ho b.1).trans (if_pos ⟨hu, hfl, by rw [hfr]; rfl⟩))), hwords.step, hsame,
        hwords.flag, hwords.log, hladders, hslots⟩
    · refine heq.trans (congrArg _ ((if_neg fun b => ?_).trans (if_neg fun b => ?_)))
      · exact ho.elim (fun h => h b.1) fun h => absurd b.2 (by omega)
      · obtain ⟨hunder, hfloor, hnone⟩ := b
        rcases hu with h | h | h
        · exact h hunder
        · omega
        · rw [Option.isNone_iff_eq_none.1 hnone] at h
          exact Bool.false_ne_true h
  · obtain ⟨hfr, hb, hf⟩ := freezeEnded wr i.isLt h
    exact ⟨_, congrArg Host.Outcome.next ((freezeEnd_eq h).trans (if_pos hle)), hfr, hb, hf, rfl⟩
  · exact congrArg Host.Outcome.next ((freezeEnd_eq h).trans (if_neg (by omega)))
  · have he := exec_thermalCrit h
    have hk := exec_keeps he
    obtain ⟨wl, hf, hlog, hat⟩ := packageTrip_outcome wr
    exact ⟨_, he, (newestLog_withDim wl).trans hlog, (congrArg (bit · 3) ((withDim_regs wl).2 _ (by decide))).trans hf,
      (congrArg HeatState.tripAt (heat_withDim _ s)).trans hat,
      hk.same (k := .slots) (by simp [footprint]), hk.same (k := .power) (by simp [footprint])⟩
  · obtain ⟨hrun, -⟩ := hr
    have hport : portOf s n.val = c.slot.port := by rw [portOf, hc]; rfl
    have hd : declared s n.val = true := by rw [declared, hc]; rfl
    have ht := (laserOvertemp_tripped wr hrun hd h).withDim
    rw [hport] at ht
    exact ⟨_, rfl, ht.grace, ht.pin, ht.contain, ht.flag, ht.log⟩
  · exact ⟨_, congrArg Host.Outcome.next (if_pos ⟨h, by rw [hl]; exact Bool.false_ne_true⟩), rfl, rfl, rfl⟩
  · exact ⟨_, congrArg Host.Outcome.next (if_pos ⟨hl, hb⟩), rfl, rfl, rfl⟩
  · exact ⟨_, exec_powerLimit hl hp ht, powerLimit_logged wr⟩

end Sys2Proof.Machine
end
